-- ==== Sys2Proof/Word.lean ====
section
/-!
DEFINITION. The word types of the ZN-4096 and the plainest arithmetic on them: conversions between bit vectors and
integers, and sign extension (spec 00, R5; spec 16, "Operands and results").
-/

namespace Sys2Proof

/-- A 64-bit register, address or instruction word. -/
abbrev Word := BitVec 64

/-- One byte of memory (R6). -/
abbrev Byte := BitVec 8

/-- The 64-bit word of a natural number, modulo 2^64. -/
abbrev Word.ofNat (n : Nat) : Word := BitVec.ofNat 64 n

/-- `sextn(x)` of spec 16: the low `n` bits of `x`, sign-extended to 64 bits. -/
def sextn (n : Nat) (x : Nat) : Word :=
  let y := x % 2 ^ n
  if 2 ^ n ≤ 2 * y then BitVec.ofInt 64 ((y : Int) - (2 ^ n : Nat)) else BitVec.ofNat 64 y

/-- Bits `[hi:lo]` of a natural number (R5). -/
def bits (x hi lo : Nat) : Nat := x / 2 ^ lo % 2 ^ (hi + 1 - lo)

/-- Bit `n` of a natural number (R5). -/
def bit (x n : Nat) : Bool := x / 2 ^ n % 2 == 1

/-- The all-ones word. -/
def allOnes : Word := 0xFFFFFFFFFFFFFFFF#64

/-- The value of a Boolean as a bit. -/
def b2n (b : Bool) : Nat := if b then 1 else 0

/-- Ceiling of log2, with `clog2 1 = 0` (spec 05, R96: the width of a level). -/
def clog2 (n : Nat) : Nat := if n ≤ 1 then 0 else Nat.log2 (n - 1) + 1

end Sys2Proof
end

