-- ==== Sys2Proof/Config.lean ====
section
/-!
DEFINITION. What the manual leaves open, as constants without a body: no proof can see their values, so a statement
that holds, holds for every value (log entries 7 to 12). And the figures that the manual fixes for the device.
-/

namespace Sys2Proof

/-- A picture as an encoder takes it (R92): its size, and the samples that are not black's, luma by 65,536 times the row
plus the column, chroma by the halves of both. -/
structure Picture where
  width : Nat
  height : Nat
  luma : List (Nat × Nat)
  cb : List (Nat × Nat)
  cr : List (Nat × Nat)
  deriving DecidableEq, Repr, Inhabited

/-- No picture: what a key frame predicts from. -/
def Picture.none : Picture := ⟨0, 0, [], [], []⟩

end Sys2Proof

namespace Sys2Proof.Config

/-- A byte of a DRAM unit written under key generation `old` and read under generation `gen`, at address `pa` with
plain content `b` (R3, R39: unspecified). -/
opaque foreignByte : Nat → Nat → Nat → Nat → BitVec 8

/-- Digest of Patrol's ROM identity block (R43), and of the fuse settings that are not security-version minima or
DEVNUM. -/
opaque romDigest : List (BitVec 8)
opaque fuseBytes : List (BitVec 8)

/-- The certificate chain of slot 0 (R45). -/
opaque certChain : List (BitVec 8)

/-- The signature of the per-device key over a transcript (R45). -/
opaque deviceSign : List (BitVec 8) → List (BitVec 8)

/-- The capability flags that the responder reports (R45 names the requests it supports; SPDM 1.3 gives the format). -/
opaque capabilityFlags : Nat

/-- The bitstream that an encoder makes of a frame: codec, quantiser, key flag, the previous frame as coded and this
frame's (R92: the codec's own standard; the bytes are not in the manual). -/
opaque bitstream : Nat → Nat → Bool → Picture → Picture → List (BitVec 8)

/-- The frame as that coding gives it back, which the next frame predicts from (R92): the same arguments. -/
opaque codedFrame : Nat → Nat → Bool → Picture → Picture → Picture

/-- The cheap path of an approximate instruction (R243): a fixed function of the operation and of the input's binary32
pattern. The model takes it only where it lies within the bound of R243. -/
opaque cheapPath : Nat → Nat → Nat

/-- Whether the predictor sends an input that may take the cheap path down it (R243, R244): operation, input pattern,
MODE.APX, and, under APX=2, the width of the band in force. -/
opaque takesCheap : Nat → Nat → Nat → Nat → Bool

/-- How much wider the adaptive band is for each further degree of die temperature, and for each further step of supply
droop (R17, R244: it widens with both; by how much is not in the manual). -/
opaque heatStep : Nat → Nat
opaque droopStep : Nat → Nat

/-- Supply droop of a die at a core cycle (R244): a physical reading. -/
opaque supplyDroop : Nat → Nat → Nat

/-- Which of the up ports of a route carries ORD traffic of a source core and a destination core, as numbers that tell the
devices too (R30: always the same while the table and the ports are unchanged). -/
opaque ordPort : Nat → Nat → Nat

/-- Draws of the base dies' random source (R37): which unused owner key index a fresh key takes, as an offset among
the unused ones. -/
opaque keyIndexDraw : Nat → Nat

/-- Unspecified 64-bit values (R3): a fresh draw for each count. -/
opaque freeWord : Nat → BitVec 64

/-- A word of a packet whose ring slot was rewritten before HEAD passed it (R58, R3): by partition, queue, place of the word
in the run of packets, what it was at the doorbell and what it is now. -/
opaque rewrittenWord : Nat → Nat → Nat → BitVec 64 → BitVec 64 → BitVec 64

/-- Power draw and die temperatures as the operator reads them (R51): physical readings. -/
opaque powerReading : Nat → Nat
opaque dieTemperature : Nat → Nat → Nat

/-- First physical address above DRAM (R13). -/
abbrev dramEnd : Nat := 0xC000000000

/-- Fabric cycles at a core cycle: 1.6 GHz to 700 MHz (R12, R14). -/
abbrev fab (clk : Nat) : Nat := clk * 16 / 7

/-- First core cycle at which a fabric-cycle count has been reached. -/
abbrev clkAt (fab : Nat) : Nat := (fab * 7 + 15) / 16

end Sys2Proof.Config
end

