-- ==== Sys2Proof/Fields.lean ====
section
/-!
DEFINITION. The sub-fields of an instruction word (spec 15, R299 to R314), each as the set of values that the
instruction accepts, with the code that the encoding gives it.
-/

namespace Sys2Proof

/-- An operand code (R146). -/
abbrev Code := BitVec 8

/-- Predication (R301): the predicate named, and whether it is inverted. -/
structure Pred where
  pn : Bool
  px : Fin 8
  deriving DecidableEq, Repr

/-- The predicate of an instruction that always executes. -/
def Pred.always : Pred := ⟨false, 0⟩

/-- Access sizes of layout M (R308). -/
inductive Size where
  | b | h | w | d
  deriving DecidableEq, Repr

/-- Scope and domain codes (R1). -/
inductive Scope where
  | slot | core | clus | quad | die | pkg | dom | sys
  deriving DecidableEq, Repr

/-- Atomic operations of layout AT (R309). -/
inductive AtOp where
  | add | and | or | xor | min | max | minz | maxz | swap
  deriving DecidableEq, Repr

/-- Operations that a floating-point atomic accepts (R309). -/
inductive FAtOp where
  | add | min | max
  deriving DecidableEq, Repr

/-- Ordering of an atomic (R309). -/
inductive Ord4 where
  | rlx | acq | rel | ar
  deriving DecidableEq, Repr

/-- Comparison of WATCH and KWAIT (R310). -/
inductive WCmp where
  | eq | ne | geu | ltu | ges | lts
  deriving DecidableEq, Repr

/-- Kind of FENCE (R310). -/
inductive FenceKind where
  | rel | acq | full
  deriving DecidableEq, Repr

/-- Kind of PFENCE (R310). -/
inductive PathKind where
  | vec | eng | smp | all
  deriving DecidableEq, Repr

/-- Compare codes of CMP and CMPI (R311). -/
inductive CC where
  | eq | ne | lt | ge | le | gt | ltu | geu | leu | gtu
  deriving DecidableEq, Repr

/-- Operations of PLOG (R311). -/
inductive PlogOp where
  | and | or | xor | andn | not | movp
  deriving DecidableEq, Repr

/-- Sizes of scalar floating point (R312). -/
inductive FSize where
  | s | d
  deriving DecidableEq, Repr

/-- Rounding modes (R236); DYN takes MODE.DRM. -/
inductive RM where
  | rne | rtz | rup | rdn | rmm | dyn
  deriving DecidableEq, Repr

/-- Comparisons of FCMP (R312). -/
inductive FCmp where
  | eq | lt | le | un | ne | ge | gt | or
  deriving DecidableEq, Repr

/-- Conversions of FCVT (R312). -/
inductive FCvt where
  | xf | fs | fz | sf | zf
  deriving DecidableEq, Repr

/-- Sign injections of FSGN (R312). -/
inductive FSgn where
  | sgj | sgn | sgx
  deriving DecidableEq, Repr

/-- What CINV invalidates (R313). -/
inductive CinvKind where
  | line | all | iline | iall
  deriving DecidableEq, Repr

/-- Filters of SMPL (R414). -/
inductive SmplKind where
  | near | bil
  deriving DecidableEq, Repr

/-- Layout V of a long instruction, and its EXT word (R299, R300, R314). -/
structure VMod where
  /-- Instruction variant. -/
  vx : BitVec 4
  rm : RM
  /-- Active lanes of the last segment; 0 means 64. -/
  tail : BitVec 6
  dc : Bool
  db : Bool
  da : Bool
  dd : Bool
  /-- Segment count. -/
  cnt : BitVec 12
  std : BitVec 13
  sta : BitVec 13
  stb : BitVec 13
  stc : BitVec 13
  deriving DecidableEq, Repr

/-- Layout AT (R309). -/
structure AtMod where
  sz : Size
  ord : Ord4
  scope : Scope
  deriving DecidableEq, Repr

end Sys2Proof
end

