-- ==== Sys2Proof/Events.lean ====
section
/-!
DEFINITION. The data that a whole-device event of spec/opcode_table.json carries: what arrives from outside the
device (images, host accesses, Gondola packets, remote accesses, collective contributions, operator queries).
-/

namespace Sys2Proof

/-- A boot image as Patrol reads it (R42): the processor its header names (1 Lodge, 2 handlers, 3 base-die firmware),
its security version, the bytes of header and body, the signature, and the public key it is offered under. DESIGN CHOICE
(log entry 114): the header's layout is not given, so the named processor and the version stand beside the signed bytes
and are not read from them. -/
structure Image where
  names : Nat
  version : Nat
  body : List Byte
  sig : List Byte
  modulus : List Byte
  exponent : Nat
  deriving DecidableEq, Repr

/-- The function through which the host accesses the device (R19, R20). -/
inductive HostFn where
  | pf
  | vf (n : Nat)
  deriving DecidableEq, Repr

/-- A contribution to a collective (R410, R411): the receive buffer it goes to, the TAG and the descriptor's contents by
which jobs match, the command, the sender's rank, what its job named for K and SCL, the sender's TE, and its elements:
the class of the source zone (0 F, 1 I, 2 C, 3 W) and each value as the sender decoded it (a binary32 pattern, a 64-bit
integer, two binary32 patterns, the bits), and which of them were poisoned. -/
structure Contribution where
  dest : Word
  tag : Nat
  desc : List Word
  cmd : Nat
  rank : Nat
  k : Nat
  scl : Nat
  te : Bool
  cls : Nat
  vals : List Word
  bad : List Bool
  /-- Which of the collectives of its TAG and descriptor it belongs to, in acceptance order (R410). -/
  no : Nat
  deriving DecidableEq, Repr

/-- What a remote access does at the port of the core it names (R26, R27). -/
inductive RemOp where
  | load (size : Nat)
  | store (size : Nat) (v : Nat) (setFull : Bool)
  /-- `ret`: the source waits for the old value (AMO, FAMO); else it is a RED or FRED. `te` is the sender's TE (R227). -/
  | amo (op : AtOp) (size : Nat) (v : Nat) (ret te : Bool)
  | famo (op : FAtOp) (size : Nat) (v : Nat) (ret te : Bool)
  | cas (size : Nat) (old new : Nat) (te : Bool)
  | push (chan : Nat) (vals : List Word)
  /-- `n` elements at the address, as their zone holds them, to be decoded or not (R228): the reply has the zone's ZF value
  in its low 64 bits, then for each element its bits (64; a CB4 element's codebook entry from bit 16 on), its block's scale
  byte (8) and whether they are poisoned (8). With `n` 0 only the ZF value is asked for. -/
  | elems (n : Nat) (decoded : Bool)
  /-- A row of a copy job: its elements moved as bits of a width (`cls` 4), or converted at the receiver (`cls` as in a
  Contribution; 5 is a FILL value, read as the receiver's class asks), with the sender's TE and MODE, and which of them are poisoned. -/
  | row (te : Bool) (mode width cls : Nat) (vals : List Word) (bad : List Bool)
  | contrib (c : Contribution)
  /-- `n` bytes at the address, for a gather (R407): the reply is as that to `elems`, one element for a byte. -/
  | bytes (n : Nat)
  /-- A collective whose receive buffer lies at the address, of a member on another device (R410): take in what has arrived
  there. It names the TAG, the descriptor, the command, the member's rank, the number of the collective, K, SCL, TE and MODE,
  and the ranks whose pieces the buffer holds. The reply has bit 0 set when the result is whole, and bit r + 1 for the piece of
  rank r. -/
  | collect (tag : Nat) (desc : List Word) (cmd rank no k scl : Nat) (te : Bool) (mode : Nat) (pieces : List Nat)
  deriving DecidableEq, Repr

/-- A remote access on the Gondola (R25, R26): its number at the source, source device, core and TSID, the window address,
and the operation. -/
structure RemReq where
  id : Nat
  sdev : Nat
  score : Nat
  stsid : Nat
  addr : Word
  op : RemOp
  deriving DecidableEq, Repr

/-- What comes back for a remote access (R26). -/
inductive RemReply where
  | data (v : Nat)
  | ack
  | refused
  /-- Data of a poisoned cell (R266). -/
  | poison
  /-- A rule of R396 that an engine's access breaks at the core it names: SUB. -/
  | fault (sub : Nat)
  deriving DecidableEq, Repr

/-- The classes of traffic that leave a device (R15, R28). -/
inductive PClass where
  | req | rsp | ord
  deriving DecidableEq, Repr

/-- A Gondola packet for another device (R30): its class, its source device and core, and its destination core. -/
structure GPacket where
  dest : Nat
  hop : Nat
  tsid : Nat
  load : Nat
  cls : PClass
  sdev : Nat
  score : Nat
  dcore : Nat
  deriving DecidableEq, Repr

/-- A remote launch request (R73). -/
structure RemLaunch where
  id : Nat
  sdev : Nat
  stsid : Nat
  dtsid : Nat
  lrec : List Byte
  deriving DecidableEq, Repr

/-- What the destination reports of a remote launch (R74). -/
inductive RemResult where
  | done (fatal : Nat)
  | abort
  | refused (code : Nat)
  deriving DecidableEq, Repr

/-- Values an operator reads through the PF under a disclosure policy (R50, R51). -/
inductive DiscQuery where
  | coreCounter (core idx : Nat)
  | engineCounter (cluster idx : Nat)
  | sliceCounter (slice k : Nat)
  | bucket (cluster eng b : Nat)
  | partState
  | corrected
  | uncorrectable
  | fatalFaults
  | power
  | dieTemp (die : Nat)
  | throttles
  | trips
  | queueHead (q : Nat)
  | queueInfl (q : Nat)
  | queueState (q : Nat)
  /-- Packets forwarded for the partition's TSID by the Gondola ports (R52, R30). -/
  | forwarded
  /-- The counters by TSID of a DRAM controller, of a die-to-die bridge and of the host link (R52). -/
  | dramCount (ctl : Nat)
  | bridgeCount (bridge : Nat)
  | hostLinkCount
  /-- Records that the partition's ring has lost (R258, R274). -/
  | ringLost
  /-- Registers of the Rink (R91): a head's HSTAT, a layer's LEPC, LRQN, an encoder's EWP and ECFG. -/
  | hstat (head : Nat)
  | lepc (layer : Nat)
  | lrqn
  | ewp (enc : Nat)
  | ecfg (enc : Nat)
  /-- A figure of the level-1 interval that ended last: class, and within it an event, a state, a bucket or a cause (R50). -/
  | figure (cls code : Nat)
  /-- A register of a thread that a debug stop holds, selected as DBGA selects it (R50, R271). -/
  | stopReg (core slot : Nat) (dbga : Word)
  deriving DecidableEq, Repr

/-- The target of an operator debug stop (R50, R53): a whole partition, or one thread. -/
inductive DebugTarget where
  | whole
  | thread (core slot : Nat)
  deriving DecidableEq, Repr

/-- Where an error is detected (R266). -/
inductive ErrLoc where
  | dram (cell : Nat)
  | localMem (core cell : Nat)
  | regFile (core entry : Nat)
  | accum (cluster tile cell : Nat)
  | codebook (cluster table : Nat)
  | dataCache (core addr : Nat)
  | samplerCache (cluster addr : Nat)
  deriving DecidableEq, Repr

end Sys2Proof
end

