-- ==== Sys2Proof/Syntax.lean ====
section
/-!
DEFINITION. The instructions of spec/opcode_table.json, one constructor per row. An instruction of the Kamlyn set
carries its predicate, its operand codes and its decoded sub-fields (spec 15); a row that is a whole-device event
carries what distinguishes one such event from another (the part, queue, core, slot or cluster it happens at, and
what arrives from outside). Events have no encoding. The instructions of the set stand first, in the table's order, and
the events after them.
-/

namespace Sys2Proof

inductive Instr where
  /-- ADD (R321). Integer add. -/
  | add (p : Pred) (d a b : Code)
  /-- SUB (R321). Integer subtract. -/
  | sub (p : Pred) (d a b : Code)
  /-- MUL (R321). Low 64 bits of the product. -/
  | mul (p : Pred) (d a b : Code)
  /-- MULH (R321). High 64 bits of the signed product. -/
  | mulh (p : Pred) (d a b : Code)
  /-- MULHZ (R321). High 64 bits of the unsigned product. -/
  | mulhz (p : Pred) (d a b : Code)
  /-- DIV (R322). Signed division truncated toward zero, with no trap. -/
  | div (p : Pred) (d a b : Code)
  /-- DIVZ (R322). Unsigned division, with no trap. -/
  | divz (p : Pred) (d a b : Code)
  /-- REM (R322). Signed remainder with the dividend's sign. -/
  | rem (p : Pred) (d a b : Code)
  /-- REMZ (R322). Unsigned remainder. -/
  | remz (p : Pred) (d a b : Code)
  /-- AND (R321). Bitwise AND. -/
  | and (p : Pred) (d a b : Code)
  /-- OR (R321). Bitwise OR. -/
  | or (p : Pred) (d a b : Code)
  /-- XOR (R321). Bitwise XOR. -/
  | xor (p : Pred) (d a b : Code)
  /-- ANDN (R321). a AND NOT b. -/
  | andn (p : Pred) (d a b : Code)
  /-- SHL (R321). Shift left by b[5:0]. -/
  | shl (p : Pred) (d a b : Code)
  /-- SHR (R321). Logical shift right by b[5:0]. -/
  | shr (p : Pred) (d a b : Code)
  /-- SHA (R321). Arithmetic shift right by b[5:0]. -/
  | sha (p : Pred) (d a b : Code)
  /-- ROL (R321). Rotate left by b[5:0]. -/
  | rol (p : Pred) (d a b : Code)
  /-- MIN (R321). Signed minimum. -/
  | min (p : Pred) (d a b : Code)
  /-- MAX (R321). Signed maximum. -/
  | max (p : Pred) (d a b : Code)
  /-- MINZ (R321). Unsigned minimum. -/
  | minz (p : Pred) (d a b : Code)
  /-- MAXZ (R321). Unsigned maximum. -/
  | maxz (p : Pred) (d a b : Code)
  /-- CLZ (R321). Count of leading zero bits. -/
  | clz (p : Pred) (d a : Code)
  /-- POPC (R321). Count of one bits. -/
  | popc (p : Pred) (d a : Code)
  /-- BREV (R321). Bit reversal. -/
  | brev (p : Pred) (d a : Code)
  /-- MADD (R321). a·b + c modulo 2^64. -/
  | madd (p : Pred) (d a b c : Code)
  /-- BFX (R323). Extract a bit field, zero- or sign-extended. -/
  | bfx (p : Pred) (d a : Code) (sx : Bool) (pos : Fin 64) (len : Fin 65)
  /-- BFI (R323). Insert a bit field. -/
  | bfi (p : Pred) (d a b : Code) (pos : Fin 64) (len : Fin 65)
  /-- ADDW (R321). 32-bit add, sign-extended. -/
  | addw (p : Pred) (d a b : Code)
  /-- SUBW (R321). 32-bit subtract, sign-extended. -/
  | subw (p : Pred) (d a b : Code)
  /-- MULW (R321). 32-bit multiply, sign-extended. -/
  | mulw (p : Pred) (d a b : Code)
  /-- ADDI (R324). Add a sign-extended 33-bit immediate. -/
  | addi (p : Pred) (d a : Code) (imm : BitVec 33)
  /-- ANDI (R324). AND with an immediate. -/
  | andi (p : Pred) (d a : Code) (imm : BitVec 33)
  /-- ORI (R324). OR with an immediate. -/
  | ori (p : Pred) (d a : Code) (imm : BitVec 33)
  /-- XORI (R324). XOR with an immediate. -/
  | xori (p : Pred) (d a : Code) (imm : BitVec 33)
  /-- SHLI (R324). Shift left by an immediate amount. -/
  | shli (p : Pred) (d a : Code) (sh : Fin 64)
  /-- SHRI (R324). Logical shift right by an immediate amount. -/
  | shri (p : Pred) (d a : Code) (sh : Fin 64)
  /-- SHAI (R324). Arithmetic shift right by an immediate amount. -/
  | shai (p : Pred) (d a : Code) (sh : Fin 64)
  /-- MULI (R324). Multiply by an immediate. -/
  | muli (p : Pred) (d a : Code) (imm : BitVec 33)
  /-- LDI (R324). Load a sign-extended 33-bit immediate. -/
  | ldi (p : Pred) (d : Code) (imm : BitVec 33)
  /-- LDIH (R324). Replace bits [63:33] with the immediate. -/
  | ldih (p : Pred) (d a : Code) (imm : BitVec 31)
  /-- LEA (R324). Compute base plus offset, with no memory access. -/
  | lea (p : Pred) (d b : Code) (off : BitVec 17)
  /-- MOV (R324). Register move; pops or pushes channels. -/
  | mov (p : Pred) (d a : Code)
  /-- GETID (R105). Read the task's position selected by SEL. -/
  | getid (p : Pred) (d : Code) (sel : Fin 15)
  /-- CMP (R325). Set a predicate from a register compare. -/
  | cmp (p : Pred) (pd : Fin 8) (a b : Code) (cc : CC)
  /-- CMPI (R325). Set a predicate from a compare with an immediate. -/
  | cmpi (p : Pred) (pd : Fin 8) (a : Code) (cc : CC) (imm : BitVec 33)
  /-- PLOG (R326). Predicate logic. -/
  | plog (p : Pred) (pd pa pb : Fin 8) (op : PlogOp)
  /-- SEL (R326). Select one of two registers by a predicate. -/
  | sel (p : Pred) (d : Code) (ps : Fin 8) (ns : Bool) (a b : Code)
  /-- PGET (R326). Read the predicates into a register. -/
  | pget (p : Pred) (d : Code)
  /-- PSET (R326). Set p1 to p7 from a register. -/
  | pset (p : Pred) (a : Code)
  /-- BR (R327). PC-relative branch. -/
  | br (p : Pred) (imm : BitVec 41)
  /-- JMP (R327). Indirect jump. -/
  | jmp (p : Pred) (a : Code)
  /-- CALL (R327). PC-relative call with link. -/
  | call (p : Pred) (d : Code) (imm : BitVec 41)
  /-- CALLR (R327). Indirect call with link. -/
  | callr (p : Pred) (d a : Code)
  /-- RET (R327). Return to the address in a register. -/
  | ret (p : Pred) (a : Code)
  /-- LOOP (R327). Decrement a counter and branch while it is non-zero. -/
  | loop (p : Pred) (d : Code) (imm : BitVec 41)
  /-- NOP (R327). No operation. -/
  | nop (p : Pred)
  /-- EXIT (R112). Decrement the join counter with release, end the frame, and behave as WFW. -/
  | exit (p : Pred)
  /-- LD (R349). Plain load. -/
  | ld (p : Pred) (d b : Code) (off : BitVec 17) (sz : Size) (sx loc : Bool)
  /-- ST (R349). Plain store. -/
  | st (p : Pred) (b a : Code) (off : BitVec 17) (sz : Size) (loc : Bool)
  /-- LDX (R349). Indexed load. -/
  | ldx (p : Pred) (d b c : Code) (sz : Size) (sx loc : Bool)
  /-- STX (R349). Indexed store. -/
  | stx (p : Pred) (a b c : Code) (sz : Size) (loc : Bool)
  /-- LDA (R349). Load with acquire at SCOPE. -/
  | lda (p : Pred) (d b : Code) (off : BitVec 17) (sz : Size) (sx loc : Bool) (sc : Scope)
  /-- STL (R349). Store with release at SCOPE. -/
  | stl (p : Pred) (b a : Code) (off : BitVec 17) (sz : Size) (loc : Bool) (sc : Scope)
  /-- LDF (R351). Load from a full cell, optionally consuming it; parks while the cell is empty. -/
  | ldf (p : Pred) (d b : Code) (off : BitVec 17) (sz : Size) (sx loc cn : Bool)
  /-- STF (R351). Store with release, then set the cell full. -/
  | stf (p : Pred) (b a : Code) (off : BitVec 17) (sz : Size) (loc : Bool)
  /-- CLRE (R351). Set cells of a local range empty. -/
  | clre (p : Pred) (b a : Code) (off : BitVec 17) (loc : Bool)
  /-- PREF (R350). Prefetch hint; never faults. -/
  | pref (p : Pred) (b : Code) (off : BitVec 17)
  /-- AMO (R352). Indivisible integer read-modify-write returning the old value. -/
  | amo (p : Pred) (d b a : Code) (op : AtOp) (m : AtMod)
  /-- CAS (R352). Indivisible compare-and-swap returning the old value. -/
  | cas (p : Pred) (d b a c : Code) (m : AtMod)
  /-- RED (R352). Non-returning integer reduction. -/
  | red (p : Pred) (b a : Code) (op : AtOp) (m : AtMod)
  /-- FAMO (R352). Indivisible floating read-modify-write returning the old value. -/
  | famo (p : Pred) (d b a : Code) (op : FAtOp) (m : AtMod)
  /-- FRED (R352). Non-returning floating reduction. -/
  | fred (p : Pred) (b a : Code) (op : FAtOp) (m : AtMod)
  /-- WATCH (R353). Park until a word satisfies a comparison, then acquire. -/
  | watch (p : Pred) (b a : Code) (off : BitVec 17) (sz : Size) (cmp : WCmp) (sc : Scope)
  /-- FENCE (R354). Release, acquire or full fence at a scope. -/
  | fence (p : Pred) (k : FenceKind) (sc : Scope)
  /-- PFENCE (R355). Path fence of the vector, engine or sampler path. -/
  | pfence (p : Pred) (k : PathKind)
  /-- BAR (R356). Barrier arrival with addend 1, then wait for the target. -/
  | bar (p : Pred) (a b : Code) (sc : Scope)
  /-- BARA (R356). Barrier arrival with release. -/
  | bara (p : Pred) (a b : Code) (sc : Scope)
  /-- BARW (R356). Barrier wait until the counter reaches the target, then acquire. -/
  | barw (p : Pred) (a b : Code) (sc : Scope)
  /-- QPEEK (R357). Read a channel's oldest entry without popping. -/
  | qpeek (p : Pred) (d a : Code)
  /-- QCNT (R357). Read a channel's occupancy. -/
  | qcnt (p : Pred) (d a : Code)
  /-- QBIND (R358). Bind, rebind or unbind a channel as the shadow of a true queue. -/
  | qbind (p : Pred) (a b : Code)
  /-- QFLUSH (R357). Send a bound channel's pending batch now. -/
  | qflush (p : Pred) (a : Code)
  /-- VSYNC (R355). Wait until earlier vector instructions have completed. -/
  | vsync (p : Pred)
  /-- KWAIT (R359). Park until a k register satisfies a comparison. -/
  | kwait (p : Pred) (a b : Code) (cmp : WCmp)
  /-- SPAWN (R360). Release, then push a task frame onto the deque. -/
  | spawn (p : Pred) (a b : Code) (deep : Bool) (dom : Fin 9)
  /-- JOINW (R362). Park until a join counter reads 0. -/
  | joinw (p : Pred) (a : Code) (sc : Scope)
  /-- WFW (R361). End the frame without its decrement and wait for work. -/
  | wfw (p : Pred)
  /-- TNEW (R363). Create a thread of the launch on this core, or return all ones. -/
  | tnew (p : Pred) (d a : Code) (lim : Fin 17)
  /-- YIELD (R364). Not ready until the next rotation boundary. -/
  | yield (p : Pred)
  /-- PARK (R364). Park for a number of core cycles. -/
  | park (p : Pred) (a : Code)
  /-- FADD (R331). Floating add. -/
  | fadd (p : Pred) (d a b : Code) (sz : FSize) (rm : RM)
  /-- FSUB (R331). Floating subtract. -/
  | fsub (p : Pred) (d a b : Code) (sz : FSize) (rm : RM)
  /-- FMUL (R331). Floating multiply. -/
  | fmul (p : Pred) (d a b : Code) (sz : FSize) (rm : RM)
  /-- FFMA (R331). Fused multiply-add with one rounding. -/
  | ffma (p : Pred) (d a b c : Code) (sz : FSize) (rm : RM)
  /-- FDIV (R331). Floating divide. -/
  | fdiv (p : Pred) (d a b : Code) (sz : FSize) (rm : RM)
  /-- FSQRT (R331). Floating square root. -/
  | fsqrt (p : Pred) (d a : Code) (sz : FSize) (rm : RM)
  /-- FMIN (R332). Floating minimum. -/
  | fmin (p : Pred) (d a b : Code) (sz : FSize) (rm : RM)
  /-- FMAX (R332). Floating maximum. -/
  | fmax (p : Pred) (d a b : Code) (sz : FSize) (rm : RM)
  /-- FCMP (R333). Floating compare into a predicate. -/
  | fcmp (p : Pred) (pd : Fin 8) (a b : Code) (fx : FCmp) (sz : FSize) (rm : RM)
  /-- FCVT (R334). Conversions between float sizes and integers. -/
  | fcvt (p : Pred) (d a : Code) (fx : FCvt) (sz : FSize) (rm : RM)
  /-- FSGN (R335). Sign injection. -/
  | fsgn (p : Pred) (d a b : Code) (fx : FSgn) (sz : FSize) (rm : RM)
  /-- FCLASS (R335). Classify a floating value. -/
  | fclass (p : Pred) (d a : Code) (sz : FSize) (rm : RM)
  /-- VADD (R371). Vector add. -/
  | vadd (p : Pred) (d a b : Code) (v : VMod)
  /-- VSUB (R371). Vector subtract. -/
  | vsub (p : Pred) (d a b : Code) (v : VMod)
  /-- VMUL (R371). Vector multiply. -/
  | vmul (p : Pred) (d a b : Code) (v : VMod)
  /-- VFMA (R371). Vector fused multiply-add. -/
  | vfma (p : Pred) (d a b c : Code) (v : VMod)
  /-- VMIN (R371). Vector minimum. -/
  | vmin (p : Pred) (d a b : Code) (v : VMod)
  /-- VMAX (R371). Vector maximum. -/
  | vmax (p : Pred) (d a b : Code) (v : VMod)
  /-- VABS (R371). Vector absolute value. -/
  | vabs (p : Pred) (d a : Code) (v : VMod)
  /-- VSCL (R371). Vector scale by a scalar. -/
  | vscl (p : Pred) (d a b : Code) (v : VMod)
  /-- VAXPY (R371). k·a + b with k from SC lane 0. -/
  | vaxpy (p : Pred) (d a b c : Code) (v : VMod)
  /-- VAND (R371). Vector bitwise AND. -/
  | vand (p : Pred) (d a b : Code) (v : VMod)
  /-- VOR (R371). Vector bitwise OR. -/
  | vor (p : Pred) (d a b : Code) (v : VMod)
  /-- VXOR (R371). Vector bitwise XOR. -/
  | vxor (p : Pred) (d a b : Code) (v : VMod)
  /-- VSHL (R371). Vector shift left. -/
  | vshl (p : Pred) (d a b : Code) (v : VMod)
  /-- VSHR (R371). Vector logical or arithmetic shift right. -/
  | vshr (p : Pred) (d a b : Code) (v : VMod)
  /-- VCMP (R371). Vector compare giving 1 or 0. -/
  | vcmp (p : Pred) (d a b : Code) (v : VMod)
  /-- VSEL (R371). Vector select by SC. -/
  | vsel (p : Pred) (d a b c : Code) (v : VMod)
  /-- VCMUL (R375). Complex multiply, full or packed. -/
  | vcmul (p : Pred) (d a b : Code) (v : VMod)
  /-- VCMAC (R375). Complex multiply-accumulate. -/
  | vcmac (p : Pred) (d a b c : Code) (v : VMod)
  /-- VMOV (R371). Vector move and format conversion. -/
  | vmov (p : Pred) (d a : Code) (v : VMod)
  /-- VRED (R376). Tree reduction of all segments to one element. -/
  | vred (p : Pred) (d a : Code) (v : VMod)
  /-- VDOT (R376). Dot product reduced by a tree. -/
  | vdot (p : Pred) (d a b : Code) (v : VMod)
  /-- VSCAN (R377). Inclusive scan carried across segments. -/
  | vscan (p : Pred) (d a : Code) (v : VMod)
  /-- VCVT (R373). Integral, fraction or saturation within the lane kind. -/
  | vcvt (p : Pred) (d a : Code) (v : VMod)
  /-- VLDG (R378). Load segments from global memory into a zone. -/
  | vldg (p : Pred) (d a : Code) (v : VMod)
  /-- VSTG (R378). Store zone segments to global memory. -/
  | vstg (p : Pred) (d a : Code) (v : VMod)
  /-- VGATH (R379). Gather global elements by index. -/
  | vgath (p : Pred) (d a b : Code) (v : VMod)
  /-- VSCAT (R379). Scatter elements to global addresses by index. -/
  | vscat (p : Pred) (d a b : Code) (v : VMod)
  /-- VBCST (R371). Broadcast a scalar to every active lane. -/
  | vbcst (p : Pred) (d a : Code) (v : VMod)
  /-- VIOTA (R371). Write lane indices 64·j + i. -/
  | viota (p : Pred) (d : Code) (v : VMod)
  /-- VPERM (R374). Permute lanes by index. -/
  | vperm (p : Pred) (d a b : Code) (v : VMod)
  /-- VEXP (R381). Approximate 2^x. -/
  | vexp (p : Pred) (d a : Code) (v : VMod)
  /-- VLOG (R381). Approximate log2 x. -/
  | vlog (p : Pred) (d a : Code) (v : VMod)
  /-- VRCP (R381). Approximate reciprocal. -/
  | vrcp (p : Pred) (d a : Code) (v : VMod)
  /-- VRSQ (R381). Approximate reciprocal square root. -/
  | vrsq (p : Pred) (d a : Code) (v : VMod)
  /-- VSIN (R381). Approximate sin(pi·x). -/
  | vsin (p : Pred) (d a : Code) (v : VMod)
  /-- VCOS (R381). Approximate cos(pi·x). -/
  | vcos (p : Pred) (d a : Code) (v : VMod)
  /-- ENQ (R386). Dispatch a tile command word to an engine and return its job identifier. -/
  | enq (p : Pred) (d a : Code)
  /-- WAITJ (R389). Park until a job completes, then acquire at CLUS. -/
  | waitj (p : Pred) (a : Code)
  /-- POLLJ (R389). Report whether a job is complete. -/
  | pollj (p : Pred) (d a : Code)
  /-- JSTAT (R390). Read a job's status and progress. -/
  | jstat (p : Pred) (d a : Code)
  /-- ZFSET (R391). Write a claimed zone's format register. -/
  | zfset (p : Pred) (a : Code) (idx : Fin 16)
  /-- ZFGET (R391). Read a zone's format register. -/
  | zfget (p : Pred) (d : Code) (idx : Fin 16)
  /-- SCLW (R392). Write a scale register. -/
  | sclw (p : Pred) (a : Code) (idx : Fin 16)
  /-- CBLD (R393). Load a codebook table after its users have completed. -/
  | cbld (p : Pred) (a : Code) (idx : Fin 8)
  /-- CHWP (R394). Read a copy channel's write pointer. -/
  | chwp (p : Pred) (d : Code) (idx : Fin 16)
  /-- BOXT (R418). Test a ray against a node's four boxes. -/
  | boxt (p : Pred) (d a b : Code)
  /-- TRIT (R419). Test a ray against a triangle. -/
  | trit (p : Pred) (d a b : Code)
  /-- TSPUSH (R421). Push onto the traversal stack, spilling the bottom entry. -/
  | tspush (p : Pred) (a : Code)
  /-- TSPOP (R421). Pop from the traversal stack, refilling from the spill area. -/
  | tspop (p : Pred) (d : Code)
  /-- TSCLR (R421). Empty the traversal stack. -/
  | tsclr (p : Pred)
  /-- SMPL (R424). Sample a texture, nearest or bilinear. -/
  | smpl (p : Pred) (d a b : Code) (x : SmplKind)
  /-- SLD (R422). Load through the sampler cache. -/
  | sld (p : Pred) (d a : Code) (sz : Size)
  /-- LSET (R426). Write a layer descriptor field with release. -/
  | lset (p : Pred) (a b : Code) (sel : Fin 15)
  /-- LGET (R426). Read a layer descriptor field with acquire. -/
  | lget (p : Pred) (d a : Code) (sel : Fin 15)
  /-- LSPLIT (R427). Split a layer by a pixel mask. -/
  | lsplit (p : Pred) (a b c : Code)
  /-- LMERGE (R427). Merge one layer into another. -/
  | lmerge (p : Pred) (a b : Code)
  /-- LREQ (R428). Take the head handle of the re-render request queue, parking while it is empty. -/
  | lreq (p : Pred) (d : Code)
  /-- LDONE (R87). Release, then reset AGE, EST and REQ and recompute SPREAD. -/
  | ldone (p : Pred) (a : Code)
  /-- LEPOCH (R428). Advance a light epoch counter. -/
  | lepoch (p : Pred) (a : Code)
  /-- WGALLOC (R429). Allocate a pool record for a node, parking while none is free. -/
  | wgalloc (p : Pred) (d a : Code)
  /-- WGEMIT (R429). Release, then add a record to its node's pending batch. -/
  | wgemit (p : Pred) (a b : Code)
  /-- WGTAKE (R429). Read a record address of a delivered batch. -/
  | wgtake (p : Pred) (d a b : Code)
  /-- WGFREE (R429). Free a record, handing it to the oldest parked allocator. -/
  | wgfree (p : Pred) (a : Code)
  /-- PAYA (R430). Take a payload slot, parking while all four are occupied. -/
  | paya (p : Pred) (d : Code)
  /-- PAYP (R430). Publish a payload slot and start a mesh group. -/
  | payp (p : Pred) (a b c : Code)
  /-- TRAP (R336). Raise SWTRAP. -/
  | trap (p : Pred) (imm : BitVec 33)
  /-- RFT (R337). Return from trap, acting on held vector entries. -/
  | rft (p : Pred)
  /-- SRRD (R338). Read a system register. -/
  | srrd (p : Pred) (d : Code) (num : BitVec 12)
  /-- SRWR (R338). Write a system register that has no behaviour of its own. -/
  | srwr (p : Pred) (a : Code) (num : BitVec 12)
  /-- BKPT (R336). Raise BKPT. -/
  | bkpt (p : Pred)
  /-- TLBINV (R341). Release, then invalidate the TSID's translations on every die. -/
  | tlbinv (p : Pred) (a : Code) (all : Bool)
  /-- CINV (R342). Invalidate data- or instruction-cache lines of the TSID. -/
  | cinv (p : Pred) (a : Code) (x : CinvKind)
  /-- STOPW (R343). Stop every other thread of the instance. -/
  | stopw (p : Pred) (sc : Scope)
  /-- RESW (R343). Release, then let the stopped threads run. -/
  | resw (p : Pred) (sc : Scope)
  /-- LOGMK (R344). Write a trace mark record. -/
  | logmk (p : Pred) (a : Code)
  /-- CNTRD (R345). Read a performance counter. -/
  | cntrd (p : Pred) (d : Code) (num : BitVec 12)
  /-- POWER_ON (R41). At power-on Patrol holds every other processor in reset, then verifies, measures and releases Lodge, the core resident handlers and the base-die firmware in turn. -/
  | powerOn (images : List Image)
  /-- BOOT_RESTART (R18). At the operator's request Patrol restarts boot, which ends a TSID 0 machine-check hold and starts the device afresh. -/
  | bootRestart (images : List Image)
  /-- RAISE_FUSED_MINIMUM (R42). At the operator's request Patrol raises a fused security-version minimum when the running image's version exceeds it. -/
  | raiseFusedMinimum (proc : Nat)
  /-- GET_VERSION (R45). SPDM GET_VERSION request answered by Patrol on the PF. -/
  | getVersion
  /-- GET_CAPABILITIES (R45). SPDM GET_CAPABILITIES request answered by Patrol. -/
  | getCapabilities
  /-- NEGOTIATE_ALGORITHMS (R45). SPDM NEGOTIATE_ALGORITHMS request, which offers only RSASSA-3072 and SHA-256. -/
  | negotiateAlgorithms
  /-- GET_DIGESTS (R45). SPDM GET_DIGESTS request for the single certificate chain in slot 0. -/
  | getDigests
  /-- GET_CERTIFICATE (R45). SPDM GET_CERTIFICATE request returning the slot 0 chain, which ends in the per-device key. -/
  | getCertificate (slot : Nat)
  /-- CHALLENGE (R45). SPDM CHALLENGE request signed with the per-device key held by Patrol. -/
  | challenge (slot : Nat) (nonce : List Byte)
  /-- GET_MEASUREMENTS (R45). SPDM GET_MEASUREMENTS request: index i+1 reports MEASi, and index 33 reports the boot status. -/
  | getMeasurements (index : Nat)
  /-- SPDM_UNSUPPORTED_REQUEST (R45). Any other SPDM request is answered with ERROR, code UnsupportedRequest. -/
  | spdmUnsupportedRequest (code : Nat)
  /-- THERMAL_TRIP (R18). A die reaching 105 degrees C makes Patrol hold every core and engine in reset, discard threads, abort jobs and started packets, and zero the volatile state. -/
  | thermalTrip
  /-- THERMAL_RELEASE (R18). Once every die has stayed at or below 90 degrees C for 100 ms, Patrol releases the trip, and queues and remote lanes start again. -/
  | thermalRelease
  /-- POWER_THROTTLE_START (R16). The 1 ms average power reaches 2,400 W, so the power manager inserts idle cycles into matrix-engine issue and logs a power event. -/
  | powerThrottleStart
  /-- POWER_THROTTLE_END (R16). The average power falls below 2,350 W, so the inserted idle cycles are removed. -/
  | powerThrottleEnd
  /-- PHCMD_ASSIGN (R37). An assign handover command checks its fields, generates an owner key, writes QMAP, binds heads and encoders and sets up MEAS(16+n). -/
  | phcmdAssign (v : Word)
  /-- PHCMD_RELEASE (R38). A release handover command fences off the partition, stops its cores, aborts its jobs and packets, and starts the outbound drain. -/
  | phcmdRelease (v : Word)
  /-- RELEASE_SCRUB (R38). After the outbound drain ends, the release zeroes partition state, invalidates TLBs, destroys the owner key, clears QMAP and sets STATE 2. -/
  | releaseScrub (part : Nat)
  /-- DEVNUM_WRITE (R22). The operator writes DEVNUM.DEV; the write is ignored while any Gondola port is not down. -/
  | devnumWrite (v : Word)
  /-- GPS_RETRAIN (R23). Writing 1 to GPSn.RST takes the port down and restarts training. -/
  | gpsRetrain (port : Nat)
  /-- LINK_TRAINING_DONE (R24). Training ends after the exchange of VERO: the port goes to STATE 2 with VERG set, or to STATE 3 on no common version or a clashing device number. -/
  | linkTrainingDone (port peer vero : Nat)
  /-- PORT_DOWN (R29). A port leaves STATE 2, and its traffic in flight moves to another up port or meets the timeout. -/
  | portDown (port : Nat)
  /-- GONDOLA_FORWARD (R30). A device forwards a Gondola packet for another device through a port named by GRTn and in STATE 2, lowers the hop count, and drops the packet when no port is up or the count reaches 0. -/
  | gondolaForward (pkt : GPacket)
  /-- REMOTE_ACCESS_ARRIVAL (R26). A remote load, store, atomic or reduce arrives at its destination and is admitted or refused under the partition map and the remote-access table. -/
  | remoteAccessArrival (req : RemReq)
  /-- REMOTE_REPLY (R26). Data, an old value, an acknowledgement or a refusal for a remote access arrives at its source. -/
  | remoteReply (id : Nat) (reply : RemReply)
  /-- REMOTE_ACCESS_TIMEOUT (R26). No response arrives within 2^22 fabric cycles: data is delivered poisoned, or the store is dropped with UNACK lowered and a link error record. -/
  | remoteAccessTimeout (id : Nat)
  /-- VF_CONFIG_ACCESS (R19). A configuration access to a VF whose partition does not exist completes with Unsupported Request. -/
  | vfConfigAccess (vf : Nat)
  /-- APERTURE_READ (R21). A host read through a VF BAR2 aperture is translated and decrypted as an APP-level partition access; a faulting read returns all ones and is logged. -/
  | apertureRead (part off size : Nat)
  /-- APERTURE_WRITE (R21). A host write through a VF BAR2 aperture is translated and encrypted as an APP-level partition access; a faulting write is discarded and logged. -/
  | apertureWrite (part off : Nat) (data : List Byte)
  /-- HOST_REGISTER_WRITE (R9). A host write to a BAR register that has no behaviour of its own stores its RW fields; writes to reserved offsets and dead partitions are discarded. -/
  | hostRegisterWrite (fn : HostFn) (off : Nat) (v : Word)
  /-- QDB_WRITE (R58). A host doorbell write updates TAIL, or puts the queue in STATE 3 with ERR 2 on tail overrun. -/
  | qdbWrite (part q : Nat) (v : Word)
  /-- QCFG_ENABLE (R57). Setting QCFG.EN while STATE is 0 makes the queue running, or puts it in error with ERR 4 or 1, and resets HEAD and TAIL unless an IMPORT has written them. -/
  | qcfgEnable (part q : Nat) (v : Word)
  /-- QCFG_DISABLE (R57). Clearing QCFG.EN sets STATE 0 and clears ERR; packets already started run to completion. -/
  | qcfgDisable (part q : Nat) (v : Word)
  /-- QCFG_PAUSE (R57). Setting PAUSE while STATE is 1 stops new packet starts and sets STATE 2. -/
  | qcfgPause (part q : Nat) (v : Word)
  /-- QCFG_UNPAUSE (R57). Clearing PAUSE while STATE is 2 sets STATE 1. -/
  | qcfgUnpause (part q : Nat) (v : Word)
  /-- IFVW_WRITE (R56). A write to IFVW sets GRANT to the highest wanted version that the device implements, or 0; it is ignored while any queue has EN set. -/
  | ifvwWrite (part : Nat) (v : Word)
  /-- FRCFG_ENABLE (R191). Setting FRCFG.EN with a valid geometry resets HEAD and TAIL of the fault ring and turns fault parking on. -/
  | frcfgEnable (part : Nat) (v : Word)
  /-- FRCFG_DISABLE (R191). Clearing FRCFG.EN resolves every unresolved record and waiting message fatally, as PAGEFLT or PROT by kind. -/
  | frcfgDisable (part : Nat) (v : Word)
  /-- FRES_RETRY (R193). FRES with ACT 1 invalidates the page's TLB entries on every die and resumes each merged waiter to walk again. -/
  | fresRetry (part seq : Nat)
  /-- FRES_FATAL_PAGEFLT (R193). FRES with ACT 2 makes every merged waiter take PAGEFLT. -/
  | fresFatalPageflt (part seq : Nat)
  /-- FRES_FATAL_PROT (R193). FRES with ACT 3 makes every merged waiter take PROT. -/
  | fresFatalProt (part seq : Nat)
  /-- FRHEAD_WRITE (R192). The host advances FRHEAD, which lets a fault message that waits for room in the ring be written. -/
  | frheadWrite (part : Nat) (v : Word)
  /-- OLCFG_ENABLE (R259). Setting OLCFG.EN with a valid geometry resets the operator log's HEAD, TAIL and DROP. -/
  | olcfgEnable (v : Word)
  /-- LAUNCH (R61). A LAUNCH packet reads and validates its LREC, and its root is placed on a core; with REM it is sent to a remote device instead. -/
  | launch (part q : Nat)
  /-- ROOT_PLACE (R97). Once some core can host the launch, Lodge places the root on the first suitable core from the rotating cluster pointer and moves the pointer on. -/
  | rootPlace (part : Nat)
  /-- LAUNCH_COMPLETE (R113). After the package count reaches 0, every engine job has completed and every store is acknowledged, the LAUNCH completes as a release at SYS scope. -/
  | launchComplete (part lid : Nat)
  /-- GRAPH_LOAD (R67). A GRAPH-LOAD packet reads and validates a resident-graph image into a graph slot, or completes with BADGRAPH or BUSY. -/
  | graphLoad (part q : Nat)
  /-- TRIGGER_BIND (R70). A TRIGGER-BIND packet binds or unbinds a trigger to a graph slot and, with FIRE, requests a run. -/
  | triggerBind (part q : Nat)
  /-- COPY (R61). A COPY packet starts copying up to 2^32 bytes between host or partition addresses. -/
  | copy (part q : Nat)
  /-- COPY_COMPLETE (R63). The last byte of a COPY is written, and the packet completes as a release at SYS scope. -/
  | copyComplete (part pid : Nat)
  /-- SIGNAL (R63). A SIGNAL packet performs a store, add or unsigned max as one atomic with release at SYS scope. -/
  | signal (part q : Nat)
  /-- WAIT (R63). A WAIT packet starts reading its word with acquire at SYS scope, repeatedly, and holds back later packets. -/
  | wait (part q : Nat)
  /-- WAIT_SATISFIED (R63). The WAIT word satisfies its comparison, and the WAIT completes within 2,048 fabric cycles of the write. -/
  | waitSatisfied (part pid : Nat)
  /-- LAYER_TABLE (R75). A LAYER-TABLE packet names a new layer table to be installed at the next tick. -/
  | layerTable (part q : Nat)
  /-- HEAD_BIND (R94). A HEAD-BIND packet binds, rebinds or unbinds a display head and its encoder, effective from the next tick. -/
  | headBind (part q : Nat)
  /-- EXPORT (R71). An EXPORT packet starts the export of a paused queue's state. -/
  | exportQueue (part q : Nat)
  /-- EXPORT_COMPLETE (R71). Once the exported queue has INFL 0, its canonical 64-byte image is written and the EXPORT completes. -/
  | exportComplete (part pid : Nat)
  /-- IMPORT (R71). An IMPORT packet checks an image and writes QBASE, LOG2SZ, HEAD, TAIL, QDTW and QDTB of a disabled queue. -/
  | importQueue (part q : Nat)
  /-- TRIG_WRITE (R70). A write to TRIGn is a release at SYS scope and requests a run of the bound graph according to STATE. -/
  | trigWrite (core slot n : Nat)
  /-- GRAPH_NODE_LAUNCH (R68). A LAUNCH node of a run acts as a LAUNCH packet, checked with the KEN of the loading queue, and then goes to NEXT. -/
  | graphNodeLaunch (part trig : Nat)
  /-- GRAPH_NODE_SIGNAL (R68). A SIGNAL node of a run acts as a SIGNAL packet, then goes to NEXT. -/
  | graphNodeSignal (part trig : Nat)
  /-- GRAPH_NODE_LOOP (R68). Once every earlier node has completed, a LOOP node counts an iteration, reads its word with acquire, and goes to NEXT or ALT. -/
  | graphNodeLoop (part trig : Nat)
  /-- GRAPH_NODE_COND (R68). Once every earlier node has completed, a COND node reads its word with acquire, and goes to NEXT or ALT by CMP. -/
  | graphNodeCond (part trig : Nat)
  /-- GRAPH_NODE_END (R68). Once every node of the run has completed, the END node completes the run, RUNS increases, and a pending run starts. -/
  | graphNodeEnd (part trig : Nat)
  /-- REMOTE_LAUNCH_REQUEST (R73). A remote launch request arrives at the destination Lodge, which checks it against the remote-launch table and accepts it into the remote lane or refuses it with a code. -/
  | remoteLaunchRequest (req : RemLaunch)
  /-- REMOTE_LANE_START (R74). The remote lane starts its next accepted launch in order of acceptance, as a LAUNCH without BAR. -/
  | remoteLaneStart (part : Nat)
  /-- REMOTE_LAUNCH_RESULT (R74). The destination's report arrives, and the source packet completes with DONE, ABORT or REFUSED. -/
  | remoteLaunchResult (id : Nat) (res : RemResult)
  /-- REMOTE_LAUNCH_TIMEOUT (R74). No acceptance reply arrives within 2^22 fabric cycles, or the completion message is lost, and the source packet completes with LINK. -/
  | remoteLaunchTimeout (id : Nat)
  /-- DPLOAD_WRITE (R48). A write to DPLOAD submits a disclosure policy, and DPSTAT goes to checking. -/
  | dploadWrite (core slot : Nat) (v : Word)
  /-- POLICY_CHECK_DONE (R49). Lodge finishes checking a policy: it rejects it with a code, or extends MEAS(16+n) and puts it in force at one switch point. -/
  | policyCheckDone (part : Nat)
  /-- OPERATOR_DISCLOSURE_READ (R50). An operator read through the PF is answered under the partition's disclosure policy level. -/
  | operatorDisclosureRead (part : Nat) (query : DiscQuery)
  /-- OPERATOR_DEBUG_STOP (R53). The operator requests a debug stop of a partition. -/
  | operatorDebugStop (part : Nat) (target : DebugTarget)
  /-- DEBUG_STOP_ACK (R53). 4,096 core cycles after the request, the operator's debug stop is acknowledged as performed or as refused. -/
  | debugStopAck
  /-- DISCLOSURE_INTERVAL_END (R50). At the end of each MINIV interval, level-1 aggregates are delivered as KIND 20 records, and withheld fault timings are rounded to it. -/
  | disclosureIntervalEnd (part : Nat)
  /-- FRAME_TICK (R79). The 240 Hz package frame clock ticks, and every head of each partition that has a sample point there is processed in ascending order. -/
  | frameTick
  /-- FRAME_ENCODE (R93). The encoder finishes a sampled frame, writes its record into the buffer ring or drops it, and advances EWP with release at PKG. -/
  | frameEncode
  /-- ECFG_KEY_SET (R91). Writing 1 to ECFGn.KEY makes the encoder's next frame a key frame. -/
  | ecfgKeySet (core slot enc : Nat)
  /-- THREAD_CREATE (R107). The core creates a thread for a launch with a deliverable deque entry and no WFW thread, in the lowest free slot with a first-fit zeroed window. -/
  | threadCreate (core lid : Nat)
  /-- FRAME_DELIVERY (R106). A frame from the first source that has one is delivered to a WFW thread: g0 to g7, TJOIN and the level state are written, and the thread resumes at word 0. -/
  | frameDelivery (core slot : Nat)
  /-- STEAL_REQUEST (R109). A core whose threads of a launch are all in WFW with nothing to deliver sends a steal request to the next victim in widening rings. -/
  | stealRequest (core lid : Nat)
  /-- STEAL_SERVE (R109). A victim receives a steal request and gives the oldest eligible spilled or on-chip entry, or answers none. -/
  | stealServe (core lid : Nat)
  /-- STEAL_REPLY_ARRIVAL (R110). A steal reply arrives at the thief, and its frame becomes deliverable there. -/
  | stealReplyArrival (core lid : Nat)
  /-- STEAL_RETRY_TIMEOUT (R109). After a round in which every victim answered none, the thief waits 256 core cycles and starts again at its cluster. -/
  | stealRetryTimeout (core lid : Nat)
  /-- TERMINATION_COUNT (R113). Outstanding-frame counts of a launch move up the cluster, quadrant, die and package tree towards Lodge. -/
  | terminationCount (part lid : Nat)
  /-- ROTATION_BOUNDARY (R119). Every 32 core cycles Slalom computes the queue targets and makes up to four slot ownership moves or TAKE marks. -/
  | rotationBoundary (core : Nat)
  /-- THREAD_DISPLACE (R120). A thread in a slot marked TAKE is displaced, or ended, at the moment its class allows, and the slot passes to its new owner. -/
  | threadDisplace (core slot : Nat)
  /-- DISPLACED_RESUME (R120). A displaced thread takes the next slot that becomes free for its launch, with a new first-fit window and its saved context. -/
  | displacedResume (core : Nat)
  /-- DRCFG_BIND (R124). Writing DRCFG with EN 1 while EN is 0 binds the cluster dispenser to the writer's launch, or leaves EN 0 on bad geometry. -/
  | drcfgBind (core slot : Nat) (v : Word)
  /-- DRCFG_UNBIND (R124). Writing DRCFG with EN 0 unbinds the dispenser once HEAD equals TAIL. -/
  | drcfgUnbind (core slot : Nat) (v : Word)
  /-- DTAIL_WRITE (R124). A write to DTAIL is a release at PKG scope and advances TAIL, unless it is out of range or the dispenser is unbound. -/
  | dtailWrite (core slot : Nat) (v : Word)
  /-- DISPENSER_DELIVER (R125). The dispenser reads frame HEAD with acquire, delivers it to a WFW thread of the bound launch in core rotation, and advances HEAD. -/
  | dispenserDeliver (cluster : Nat)
  /-- WGDA_BIND (R127). A non-zero write to WGDA reads the descriptor with acquire at CLUS and binds the work graph, or records a rejection code. -/
  | wgdaBind (core slot : Nat) (v : Word)
  /-- WGDA_UNBIND (R127). A write of 0 to WGDA by the holding launch unbinds the graph when nothing is allocated, pending or parked; otherwise it is ignored. -/
  | wgdaUnbind (core slot : Nat)
  /-- WG_BATCH_TIMEOUT (R128). A batch not full by cycle t0 + T launches with the records it holds. -/
  | wgBatchTimeout (cluster node : Nat)
  /-- WG_BATCH_DELIVER (R128). A launched batch is delivered with acquire at CLUS to a WFW or newly created thread, carrying entry, join, handle, count and node. -/
  | wgBatchDeliver (cluster : Nat)
  /-- PAYLOAD_FRAME_DELIVER (R130). A mesh-group frame of a published payload slot is delivered to a WFW or newly created thread, in index order. -/
  | payloadFrameDeliver (cluster : Nat)
  /-- CHANNEL_WAKE (R152). A thread parked on a channel wakes once the entries or room it needs appear, and performs its pops and pushes in one step. -/
  | channelWake (core slot : Nat)
  /-- PROXY_BATCH_TIMEOUT (R154). 64 core cycles after its first push, a bound channel's batch leaves within its credits. -/
  | proxyBatchTimeout (core chan : Nat)
  /-- PROXY_DELIVERY (R155). A proxy batch arrives at the true queue of the destination core, and its entries are pushed in order. -/
  | proxyDelivery (id : Nat)
  /-- PROXY_CREDIT_RETURN (R154). A credit returned by a pop at the true queue reaches the forwarding engine, and the entry counts as acknowledged. -/
  | proxyCreditReturn (id : Nat)
  /-- CORE_SLEEP (R171). After 4,096 core cycles with no ready slot, running job or deliverable frame, the core sleeps with its register file at retention voltage. -/
  | coreSleep (core : Nat)
  /-- CORE_WAKE (R171). A sleeping core wakes and runs a 32-cycle parity sweep, marking failed entries poisoned. -/
  | coreWake (core : Nat) (failed : List Nat)
  /-- LDF_WAKE (R167). An LDF parked on an empty cell wakes when the cell becomes full, oldest first, and reads or consumes it. -/
  | ldfWake (core slot : Nat)
  /-- STORE_BUFFER_DRAIN (R176). A store-buffer entry drains and is performed at its home slice, which may wake a thread parked on a full buffer. -/
  | storeBufferDrain (core pos : Nat)
  /-- SLICE_ATOMIC (R180). An AMO, CAS, RED or FRED arrives at its home slice and is performed indivisibly in arrival order. -/
  | sliceAtomic (id : Nat)
  /-- WATCH_WAKE (R181). A slice write that satisfies a watch entry sends wake packets, and each waiter re-reads its word with acquire. -/
  | watchWake (core slot : Nat)
  /-- WATCH_POLL (R181). Every 512 core cycles, a core re-reads the word of a waiter that has no watch-table entry. -/
  | watchPoll (core slot : Nat)
  /-- TABLE_WALK (R187). A walker completes a five-level walk and fills the TLBs, or takes a not-present, permission or malformed outcome. -/
  | tableWalk (core : Nat) (va : Word) (acc : Nat)
  /-- FAULT_MESSAGE (R190). A fault message for a (TSID, page, kind) triple reaches Lodge through the combining tree. -/
  | faultMessage (part pos : Nat)
  /-- RELEASE_PROBE_ECHO (R206). A release probe's echo returns from a slice, and the release completes when its last condition holds. -/
  | releaseProbeEcho (core slot slice : Nat)
  /-- STORE_ACK (R175). An acknowledgement of a remote store, reduce or forwarded entry arrives and lowers UNACK, which may wake a parked release or writer. -/
  | storeAck (id : Nat)
  /-- JOINW_WAKE (R112). A JOINW wakes after the write that makes its counter 0 is performed, and reads 0 with acquire. -/
  | joinwWake (core slot : Nat)
  /-- KWAIT_WAKE (R359). A KWAIT wakes after the issue of a k write that makes its comparison hold. -/
  | kwaitWake (core slot : Nat)
  /-- PARK_EXPIRE (R364). The cycle count of a PARK passes, and the thread wakes. -/
  | parkExpire (core slot : Nat)
  /-- LREQ_WAKE (R428). A parked LREQ, oldest first, takes a handle pushed by a tick. -/
  | lreqWake (part : Nat)
  /-- PAYA_WAKE (R130). A parked PAYA, oldest first, takes a payload slot that has freed. -/
  | payaWake (cluster : Nat)
  /-- SPAWN_RING_WAKE (R104). A SPAWN parked on a full spill ring wakes when an entry of that ring, or an on-chip entry, is freed. -/
  | spawnRingWake (core slot : Nat)
  /-- STOPW_COMPLETE (R222). Every thread of the instance has stopped and met the release conditions, and STOPW completes as an acquire. -/
  | stopwComplete (core slot : Nat)
  /-- TLBINV_COMPLETE (R341). The last die reports its invalidation, and the parked TLBINV thread wakes. -/
  | tlbinvComplete (core slot : Nat)
  /-- VECTOR_ENTRY_PERFORM (R366). A dispatched vector entry is performed segment by segment in the dispatch ring, after the thread's earlier entries. -/
  | vectorEntryPerform (core slot : Nat)
  /-- LATE_TRAP_ENTRY (R249). A due late fault, MCNT or PREEMPT is entered at the thread's first instruction boundary after it arrives, in the order of R252. -/
  | lateTrapEntry (core slot : Nat)
  /-- ENQ_ACCEPT (R387). An ENQ entry is accepted into its engine's job queue once earlier entries are done and the queue has room, and it receives its identifier. -/
  | enqAccept (core slot : Nat)
  /-- WAITJ_WAKE (R389). A WAITJ parked on a job wakes once the job completes, and acquires at CLUS. -/
  | waitjWake (core slot : Nat)
  /-- ENGINE_BADCMD (R317). A job whose ECMD the table does not list completes with BADCMD and reads and writes nothing. -/
  | engineBadcmd (cluster eng : Nat)
  /-- LDS (R398). The matrix engine loads block KSTART of W into the shadow plane. -/
  | lds (cluster : Nat)
  /-- MMA (R399). The matrix engine accumulates X·W into a tile block by block from KSTART, with plane swaps, exact groups and KDONE progress. -/
  | mma (cluster : Nat)
  /-- STA (R401). The matrix engine writes a tile, scaled and rounded, into the destination format row by row. -/
  | sta (cluster : Nat)
  /-- ACLR (R402). The matrix engine zeroes a tile region and sets its spatial or spectral tag. -/
  | aclr (cluster : Nat)
  /-- SWAPS (R398). The matrix engine exchanges the active and shadow planes. -/
  | swaps (cluster : Nat)
  /-- CMMA (R403). The matrix engine accumulates per-bin complex products of spectra into a spectral tile, in groups of 64 input blocks. -/
  | cmma (cluster : Nat)
  /-- MSTAT (R404). The matrix engine writes a tile's SAT, NAN, BSO and THR record, then optionally clears the counters and sets THR. -/
  | mstat (cluster : Nat)
  /-- FFT (R405). The transform unit writes forward transforms of spatial blocks into a spectral zone. -/
  | fft (cluster : Nat)
  /-- IFFT (R405). The transform unit writes inverse transforms of spectral blocks into a spatial zone. -/
  | ifft (cluster : Nat)
  /-- XACT (R405). The transform unit applies inverse transform, activation and forward transform to each spectral block. -/
  | xact (cluster : Nat)
  /-- CPY (R406). A copy channel copies M rows of K elements, converting or moving bits, with optional multicast. -/
  | cpy (cluster chan : Nat)
  /-- GTHR (R407). A copy channel gathers rows through an index table in local memory. -/
  | gthr (cluster chan : Nat)
  /-- SCTR (R407). A copy channel scatters rows through an index table in local memory; a later row stands. -/
  | sctr (cluster chan : Nat)
  /-- FILL (R408). A copy channel fills M rows with a value encoded into the destination format. -/
  | fill (cluster chan : Nat)
  /-- ARED (R410). A collective job contributes to an all-reduce, and its buffer receives the ascending-rank sum. -/
  | ared (cluster chan : Nat)
  /-- BCST (R410). A collective job takes part in a broadcast of one member's elements. -/
  | bcst (cluster chan : Nat)
  /-- AGTH (R410). A collective job takes part in an all-gather by rank. -/
  | agth (cluster chan : Nat)
  /-- COLLECTIVE_CONTRIBUTION (R410). A collective contribution arrives at a member's receive buffer. -/
  | collectiveContribution (msg : Contribution)
  /-- COLLECTIVE_TIMEOUT (R411). A collective that lacks a contribution 2^24 fabric cycles after acceptance ends with FAULT, SUB 0x0D. -/
  | collectiveTimeout (cluster chan : Nat)
  /-- HCFG_WRITE (R272). A write to an HCFG register arms the percentile trigger, and CLR zeroes the buckets and unfreezes. -/
  | hcfgWrite (core slot eng : Nat) (v : Word)
  /-- CPREQ_PREEMPT (R261). A CPREQ write with OP 1 stops every slot of a core and drains its ring and undelivered messages. -/
  | cpreqPreempt (core slot : Nat) (v : Word)
  /-- PREEMPT_SAVE (R261). Once the drain ends, the slot, ring and message records are written to the context buffer and the slots are left empty. -/
  | preemptSave (core : Nat)
  /-- CPREQ_RESUME (R265). A CPREQ write with OP 2 checks the buffer and restores its threads, ring records and messages. -/
  | cpreqResume (core slot : Nat) (v : Word)
  /-- DBGS_STOP (R271). A DBGS write with OP 1 stops the target thread within 64 core cycles. -/
  | dbgsStop (core slot : Nat) (v : Word)
  /-- DBGS_RESUME (R271). A DBGS write with OP 2 resumes the stopped target thread. -/
  | dbgsResume (core slot : Nat) (v : Word)
  /-- DBGD_READ (R271). An SRRD of DBGD returns the register of the stopped target that DBGA selects. -/
  | dbgdRead (core slot : Nat) (d : Code)
  /-- DBGD_WRITE (R271). An SRWR of DBGD writes the register of the stopped target that DBGA selects. -/
  | dbgdWrite (core slot : Nat) (v : Word)
  /-- ECC_CORRECTED (R266). A single-bit error is corrected, counted and reported as a kind 8 record. -/
  | eccCorrected (loc : ErrLoc)
  /-- ECC_UNCORRECTABLE (R266). An uncorrectable error poisons the cell and is reported as a kind 9 record. -/
  | eccUncorrectable (loc : ErrLoc)
  /-- MACHINE_CHECK (R267). An uncorrectable error in unpoisonable state stops the owning partition, or holds the package in reset for TSID 0. -/
  | machineCheck (part : Option Nat)
  /-- OCFG_ENABLE (R258). Setting OCFG.EN with a valid geometry resets the observation ring's HEAD, TAIL and DROP. -/
  | ocfgEnable (core slot : Nat) (v : Word)
  /-- STATE_LOG_TIMEOUT (R270). 4,096 core cycles after a lone state-change entry, a kind 17 record with one entry is written. -/
  | stateLogTimeout (core : Nat)
  /-- RING_FETCH_FAULT (R58). Lodge cannot fetch the next packet of a running queue, so the queue enters STATE 3 with ERR 3 and HEAD stays at that packet. -/
  | ringFetchFault (part q : Nat)
  /-- BADPKT (R64). A packet whose TYPE is not in the table of R61 is started and completes at once with status BADPKT, with HEAD advancing past it and nothing added to INFL. -/
  | badpkt (part q : Nat)
  /-- ACCEPTANCE_REPLY (R74). The destination's acceptance reply to a remote launch arrives at the source and stops the 2^22-cycle LINK timeout, while the source packet stays incomplete. -/
  | acceptanceReply (id : Nat)
  deriving DecidableEq, Repr

end Sys2Proof
end

