-- ==== Sys2Proof/WellFormed.lean ====
section
/-!
DEFINITION. Well-formed instructions: the conditions of spec 15 (R306 to R314) that the types of the fields do not
say already. An instruction that breaks one has no encoding: the device raises ILLMOD on every word that would name it.
-/

namespace Sys2Proof

/-- Numbers that name a system register (R339). -/
def registerName (n : Nat) : Bool :=
  n ≤ 6 || (8 ≤ n && n ≤ 0xB) || (0x10 ≤ n && n ≤ 0x15) || n == 0x100 || n == 0x101 || n == 0x103 || n == 0x104
  || n == 0x105 || (0x110 ≤ n && n ≤ 0x13F) || (0x200 ≤ n && n ≤ 0x206) || n == 0x210 || (0x214 ≤ n && n ≤ 0x21C)
  || (0x240 ≤ n && n ≤ 0x243) || (0x260 ≤ n && n ≤ 0x2E0) || (0x300 ≤ n && n ≤ 0x33F) || (0x350 ≤ n && n ≤ 0x36B)
  || (0x370 ≤ n && n ≤ 0x372)

/-- The check of an instruction's fields: every constructor has its own arm. -/
def Instr.wf : Instr → Bool
  | .powerOn _ => true
  | .bootRestart _ => true
  | .raiseFusedMinimum _ => true
  | .getVersion => true
  | .getCapabilities => true
  | .negotiateAlgorithms => true
  | .getDigests => true
  | .getCertificate _ => true
  | .challenge _ _ => true
  | .getMeasurements _ => true
  | .spdmUnsupportedRequest _ => true
  | .thermalTrip => true
  | .thermalRelease => true
  | .powerThrottleStart => true
  | .powerThrottleEnd => true
  | .phcmdAssign _ => true
  | .phcmdRelease _ => true
  | .releaseScrub _ => true
  | .devnumWrite _ => true
  | .gpsRetrain _ => true
  | .linkTrainingDone _ _ _ => true
  | .portDown _ => true
  | .gondolaForward _ => true
  | .remoteAccessArrival _ => true
  | .remoteReply _ _ => true
  | .remoteAccessTimeout _ => true
  | .vfConfigAccess _ => true
  | .apertureRead _ _ _ => true
  | .apertureWrite _ _ _ => true
  | .hostRegisterWrite _ _ _ => true
  | .qdbWrite _ _ _ => true
  | .qcfgEnable _ _ _ => true
  | .qcfgDisable _ _ _ => true
  | .qcfgPause _ _ _ => true
  | .qcfgUnpause _ _ _ => true
  | .ifvwWrite _ _ => true
  | .frcfgEnable _ _ => true
  | .frcfgDisable _ _ => true
  | .fresRetry _ _ => true
  | .fresFatalPageflt _ _ => true
  | .fresFatalProt _ _ => true
  | .frheadWrite _ _ => true
  | .olcfgEnable _ => true
  | .launch _ _ => true
  | .rootPlace _ => true
  | .launchComplete _ _ => true
  | .graphLoad _ _ => true
  | .triggerBind _ _ => true
  | .copy _ _ => true
  | .copyComplete _ _ => true
  | .signal _ _ => true
  | .wait _ _ => true
  | .waitSatisfied _ _ => true
  | .layerTable _ _ => true
  | .headBind _ _ => true
  | .exportQueue _ _ => true
  | .exportComplete _ _ => true
  | .importQueue _ _ => true
  | .trigWrite _ _ _ => true
  | .graphNodeLaunch _ _ => true
  | .graphNodeSignal _ _ => true
  | .graphNodeLoop _ _ => true
  | .graphNodeCond _ _ => true
  | .graphNodeEnd _ _ => true
  | .remoteLaunchRequest _ => true
  | .remoteLaneStart _ => true
  | .remoteLaunchResult _ _ => true
  | .remoteLaunchTimeout _ => true
  | .dploadWrite _ _ _ => true
  | .policyCheckDone _ => true
  | .operatorDisclosureRead _ _ => true
  | .operatorDebugStop _ _ => true
  | .debugStopAck => true
  | .disclosureIntervalEnd _ => true
  | .frameTick => true
  | .frameEncode => true
  | .ecfgKeySet _ _ _ => true
  | .threadCreate _ _ => true
  | .frameDelivery _ _ => true
  | .stealRequest _ _ => true
  | .stealServe _ _ => true
  | .stealReplyArrival _ _ => true
  | .stealRetryTimeout _ _ => true
  | .terminationCount _ _ => true
  | .rotationBoundary _ => true
  | .threadDisplace _ _ => true
  | .displacedResume _ => true
  | .drcfgBind _ _ _ => true
  | .drcfgUnbind _ _ _ => true
  | .dtailWrite _ _ _ => true
  | .dispenserDeliver _ => true
  | .wgdaBind _ _ _ => true
  | .wgdaUnbind _ _ => true
  | .wgBatchTimeout _ _ => true
  | .wgBatchDeliver _ => true
  | .payloadFrameDeliver _ => true
  | .channelWake _ _ => true
  | .proxyBatchTimeout _ _ => true
  | .proxyDelivery _ => true
  | .proxyCreditReturn _ => true
  | .coreSleep _ => true
  | .coreWake _ _ => true
  | .ldfWake _ _ => true
  | .storeBufferDrain _ _ => true
  | .sliceAtomic _ => true
  | .watchWake _ _ => true
  | .watchPoll _ _ => true
  | .tableWalk _ _ _ => true
  | .faultMessage _ _ => true
  | .releaseProbeEcho _ _ _ => true
  | .storeAck _ => true
  | .joinwWake _ _ => true
  | .kwaitWake _ _ => true
  | .parkExpire _ _ => true
  | .lreqWake _ => true
  | .payaWake _ => true
  | .spawnRingWake _ _ => true
  | .stopwComplete _ _ => true
  | .tlbinvComplete _ _ => true
  | .vectorEntryPerform _ _ => true
  | .lateTrapEntry _ _ => true
  | .enqAccept _ _ => true
  | .waitjWake _ _ => true
  | .engineBadcmd _ _ => true
  | .lds _ => true
  | .mma _ => true
  | .sta _ => true
  | .aclr _ => true
  | .swaps _ => true
  | .cmma _ => true
  | .mstat _ => true
  | .fft _ => true
  | .ifft _ => true
  | .xact _ => true
  | .cpy _ _ => true
  | .gthr _ _ => true
  | .sctr _ _ => true
  | .fill _ _ => true
  | .ared _ _ => true
  | .bcst _ _ => true
  | .agth _ _ => true
  | .collectiveContribution _ => true
  | .collectiveTimeout _ _ => true
  | .hcfgWrite _ _ _ _ => true
  | .cpreqPreempt _ _ _ => true
  | .preemptSave _ => true
  | .cpreqResume _ _ _ => true
  | .dbgsStop _ _ _ => true
  | .dbgsResume _ _ _ => true
  | .dbgdRead _ _ _ => true
  | .dbgdWrite _ _ _ => true
  | .eccCorrected _ => true
  | .eccUncorrectable _ => true
  | .machineCheck _ => true
  | .ocfgEnable _ _ _ => true
  | .stateLogTimeout _ => true
  | .add _ _ _ _ => true
  | .sub _ _ _ _ => true
  | .mul _ _ _ _ => true
  | .mulh _ _ _ _ => true
  | .mulhz _ _ _ _ => true
  | .div _ _ _ _ => true
  | .divz _ _ _ _ => true
  | .rem _ _ _ _ => true
  | .remz _ _ _ _ => true
  | .and _ _ _ _ => true
  | .or _ _ _ _ => true
  | .xor _ _ _ _ => true
  | .andn _ _ _ _ => true
  | .shl _ _ _ _ => true
  | .shr _ _ _ _ => true
  | .sha _ _ _ _ => true
  | .rol _ _ _ _ => true
  | .min _ _ _ _ => true
  | .max _ _ _ _ => true
  | .minz _ _ _ _ => true
  | .maxz _ _ _ _ => true
  | .clz _ _ _ => true
  | .popc _ _ _ => true
  | .brev _ _ _ => true
  | .madd _ _ _ _ _ => true
  | .bfx _ _ _ _ pos len => decide (1 ≤ len.val ∧ pos.val + len.val ≤ 64)
  | .bfi _ _ _ _ pos len => decide (1 ≤ len.val ∧ pos.val + len.val ≤ 64)
  | .addw _ _ _ _ => true
  | .subw _ _ _ _ => true
  | .mulw _ _ _ _ => true
  | .addi _ _ _ _ => true
  | .andi _ _ _ _ => true
  | .ori _ _ _ _ => true
  | .xori _ _ _ _ => true
  | .shli _ _ _ _ => true
  | .shri _ _ _ _ => true
  | .shai _ _ _ _ => true
  | .muli _ _ _ _ => true
  | .ldi _ _ _ => true
  | .ldih _ _ _ _ => true
  | .lea _ _ _ _ => true
  | .mov _ _ _ => true
  | .getid _ _ _ => true
  | .cmp _ _ _ _ _ => true
  | .cmpi _ _ _ _ _ => true
  | .plog _ _ _ pb op => decide (op = .not ∨ op = .movp → pb = 0)
  | .sel _ _ _ _ _ _ => true
  | .pget _ _ => true
  | .pset _ _ => true
  | .br _ _ => true
  | .jmp _ _ => true
  | .call _ _ _ => true
  | .callr _ _ _ => true
  | .ret _ _ => true
  | .loop _ _ _ => true
  | .nop _ => true
  | .exit _ => true
  | .ld _ _ _ _ _ _ _ => true
  | .st _ _ _ _ _ _ => true
  | .ldx _ _ _ _ _ _ _ => true
  | .stx _ _ _ _ _ _ => true
  | .lda _ _ _ _ _ _ _ _ => true
  | .stl _ _ _ _ _ _ _ => true
  | .ldf _ _ _ _ _ _ _ _ => true
  | .stf _ _ _ _ _ _ => true
  | .clre _ _ _ _ _ => true
  | .pref _ _ _ => true
  | .amo _ _ _ _ _ m => decide ((m.sz = .w ∨ m.sz = .d) ∧ (m.ord = .rlx → m.scope = .slot))
  | .cas _ _ _ _ _ m => decide ((m.sz = .w ∨ m.sz = .d) ∧ (m.ord = .rlx → m.scope = .slot))
  | .red _ _ _ op m => decide (op ≠ .swap ∧ (m.sz = .w ∨ m.sz = .d) ∧ (m.ord = .rlx ∨ m.ord = .rel) ∧ (m.ord = .rlx → m.scope = .slot))
  | .famo _ _ _ _ _ m => decide ((m.sz = .h ∨ m.sz = .w) ∧ (m.ord = .rlx → m.scope = .slot))
  | .fred _ _ _ _ m => decide ((m.sz = .h ∨ m.sz = .w) ∧ (m.ord = .rlx ∨ m.ord = .rel) ∧ (m.ord = .rlx → m.scope = .slot))
  | .watch _ _ _ _ _ _ _ => true
  | .fence _ _ _ => true
  | .pfence _ _ => true
  | .bar _ _ _ _ => true
  | .bara _ _ _ _ => true
  | .barw _ _ _ _ => true
  | .qpeek _ _ _ => true
  | .qcnt _ _ _ => true
  | .qbind _ _ _ => true
  | .qflush _ _ => true
  | .vsync _ => true
  | .kwait _ _ _ _ => true
  | .spawn _ _ _ _ _ => true
  | .joinw _ _ _ => true
  | .wfw _ => true
  | .tnew _ _ _ lim => decide (1 ≤ lim.val)
  | .yield _ => true
  | .park _ _ => true
  | .fadd _ _ _ _ _ _ => true
  | .fsub _ _ _ _ _ _ => true
  | .fmul _ _ _ _ _ _ => true
  | .ffma _ _ _ _ _ _ _ => true
  | .fdiv _ _ _ _ _ _ => true
  | .fsqrt _ _ _ _ _ => true
  | .fmin _ _ _ _ _ _ => true
  | .fmax _ _ _ _ _ _ => true
  | .fcmp _ _ _ _ _ _ _ => true
  | .fcvt _ _ _ _ _ _ => true
  | .fsgn _ _ _ _ _ _ _ => true
  | .fclass _ _ _ _ _ => true
  | .vadd _ _ _ _ v => decide (v.vx.toNat < 1 ∧ v.dc = false)
  | .vsub _ _ _ _ v => decide (v.vx.toNat < 1 ∧ v.dc = false)
  | .vmul _ _ _ _ v => decide (v.vx.toNat < 1 ∧ v.dc = false)
  | .vfma _ _ _ _ _ v => decide (v.vx.toNat < 1)
  | .vmin _ _ _ _ v => decide (v.vx.toNat < 1 ∧ v.dc = false)
  | .vmax _ _ _ _ v => decide (v.vx.toNat < 1 ∧ v.dc = false)
  | .vabs _ _ _ v => decide (v.vx.toNat < 1 ∧ v.db = false ∧ v.dc = false)
  | .vscl _ _ _ _ v => decide (v.vx.toNat < 1 ∧ v.db = false ∧ v.dc = false)
  | .vaxpy _ _ _ _ _ v => decide (v.vx.toNat < 1)
  | .vand _ _ _ _ v => decide (v.vx.toNat < 1 ∧ v.dc = false)
  | .vor _ _ _ _ v => decide (v.vx.toNat < 1 ∧ v.dc = false)
  | .vxor _ _ _ _ v => decide (v.vx.toNat < 1 ∧ v.dc = false)
  | .vshl _ _ _ _ v => decide (v.vx.toNat < 1 ∧ v.dc = false)
  | .vshr _ _ _ _ v => decide (v.vx.toNat < 2 ∧ v.dc = false)
  | .vcmp _ _ _ _ v => decide (v.vx.toNat < 8 ∧ v.dc = false)
  | .vsel _ _ _ _ _ v => decide (v.vx.toNat < 1)
  | .vcmul _ _ _ _ v => decide (v.vx.toNat < 2 ∧ v.dc = false)
  | .vcmac _ _ _ _ _ v => decide (v.vx.toNat < 2)
  | .vmov _ _ _ v => decide (v.vx.toNat < 1 ∧ v.db = false ∧ v.dc = false)
  | .vred _ _ _ v => decide (v.vx.toNat < 6 ∧ v.db = false ∧ v.dc = false)
  | .vdot _ _ _ _ v => decide (v.vx.toNat < 2 ∧ v.dc = false)
  | .vscan _ _ _ v => decide (v.vx.toNat < 6 ∧ v.db = false ∧ v.dc = false)
  | .vcvt _ _ _ v => decide (v.vx.toNat < 4 ∧ v.db = false ∧ v.dc = false)
  | .vldg _ _ _ v => decide (v.vx.toNat < 14 ∧ v.da = false ∧ v.db = false ∧ v.dc = false)
  | .vstg _ _ _ v => decide (v.vx.toNat < 14 ∧ v.dd = false ∧ v.db = false ∧ v.dc = false)
  | .vgath _ _ _ _ v => decide (v.vx.toNat < 14 ∧ v.da = false ∧ v.dc = false)
  | .vscat _ _ _ _ v => decide (v.vx.toNat < 14 ∧ v.dd = false ∧ v.dc = false)
  | .vbcst _ _ _ v => decide (v.vx.toNat < 1 ∧ v.da = false ∧ v.db = false ∧ v.dc = false)
  | .viota _ _ v => decide (v.vx.toNat < 1 ∧ v.da = false ∧ v.db = false ∧ v.dc = false)
  | .vperm _ _ _ _ v => decide (v.vx.toNat < 1 ∧ v.dc = false)
  | .vexp _ _ _ v => decide (v.vx.toNat < 1 ∧ v.db = false ∧ v.dc = false)
  | .vlog _ _ _ v => decide (v.vx.toNat < 1 ∧ v.db = false ∧ v.dc = false)
  | .vrcp _ _ _ v => decide (v.vx.toNat < 1 ∧ v.db = false ∧ v.dc = false)
  | .vrsq _ _ _ v => decide (v.vx.toNat < 1 ∧ v.db = false ∧ v.dc = false)
  | .vsin _ _ _ v => decide (v.vx.toNat < 1 ∧ v.db = false ∧ v.dc = false)
  | .vcos _ _ _ v => decide (v.vx.toNat < 1 ∧ v.db = false ∧ v.dc = false)
  | .enq _ _ _ => true
  | .waitj _ _ => true
  | .pollj _ _ _ => true
  | .jstat _ _ _ => true
  | .zfset _ _ _ => true
  | .zfget _ _ _ => true
  | .sclw _ _ _ => true
  | .cbld _ _ _ => true
  | .chwp _ _ _ => true
  | .boxt _ _ _ _ => true
  | .trit _ _ _ _ => true
  | .tspush _ _ => true
  | .tspop _ _ => true
  | .tsclr _ => true
  | .smpl _ _ _ _ _ => true
  | .sld _ _ _ _ => true
  | .lset _ _ _ _ => true
  | .lget _ _ _ _ => true
  | .lsplit _ _ _ _ => true
  | .lmerge _ _ _ => true
  | .lreq _ _ => true
  | .ldone _ _ => true
  | .lepoch _ _ => true
  | .wgalloc _ _ _ => true
  | .wgemit _ _ _ => true
  | .wgtake _ _ _ _ => true
  | .wgfree _ _ => true
  | .paya _ _ => true
  | .payp _ _ _ _ => true
  | .trap _ _ => true
  | .rft _ => true
  | .srrd _ _ num => decide (registerName num.toNat = true)
  | .srwr _ _ num => decide (registerName num.toNat = true)
  | .bkpt _ => true
  | .tlbinv _ _ _ => true
  | .cinv _ _ _ => true
  | .stopw _ _ => true
  | .resw _ _ => true
  | .logmk _ _ => true
  | .cntrd _ _ _ => true
  | .ringFetchFault _ _ => true
  | .badpkt _ _ => true
  | .acceptanceReply _ => true

end Sys2Proof
end

