-- ==== Sys2Proof/Decode.lean ====
section
/-!
DEFINITION. Decoding and encoding of the Kamlyn instruction words (spec 15). Decoding is total: any words give an
instruction, or a rejection that names the check of R304 that failed first (steps 1, 2 and 4; step 3, PRIV, needs the
thread's level and is made where the word is issued, before step 4; steps 5 and 6 are made at issue). The encoder
after it is written from the same tables, and writes 0 where an instruction uses no field (R302).
-/

namespace Sys2Proof

/-! ### Codes of the sub-fields -/

def Size.code : Size → Nat
  | .b => 0 | .h => 1 | .w => 2 | .d => 3
def Size.parse : Nat → Option Size
  | 0 => some .b | 1 => some .h | 2 => some .w | 3 => some .d | _ => none
/-- Bytes of a scalar access (R347). -/
def Size.bytes : Size → Nat
  | .b => 1 | .h => 2 | .w => 4 | .d => 8

def Scope.code : Scope → Nat
  | .slot => 0 | .core => 1 | .clus => 2 | .quad => 3 | .die => 4 | .pkg => 5 | .dom => 6 | .sys => 7
def Scope.parse : Nat → Option Scope
  | 0 => some .slot | 1 => some .core | 2 => some .clus | 3 => some .quad | 4 => some .die | 5 => some .pkg
  | 6 => some .dom | 7 => some .sys | _ => none
/-- A scope as the code of R1, when the code is in range; out of range reads as SYS. -/
def Scope.ofCode (n : Nat) : Scope := (Scope.parse n).getD .sys

def AtOp.code : AtOp → Nat
  | .add => 0 | .and => 1 | .or => 2 | .xor => 3 | .min => 4 | .max => 5 | .minz => 6 | .maxz => 7 | .swap => 8
def AtOp.parse : Nat → Option AtOp
  | 0 => some .add | 1 => some .and | 2 => some .or | 3 => some .xor | 4 => some .min | 5 => some .max
  | 6 => some .minz | 7 => some .maxz | 8 => some .swap | _ => none

def FAtOp.code : FAtOp → Nat
  | .add => 0 | .min => 4 | .max => 5
def FAtOp.parse : Nat → Option FAtOp
  | 0 => some .add | 4 => some .min | 5 => some .max | _ => none

def Ord4.code : Ord4 → Nat
  | .rlx => 0 | .acq => 1 | .rel => 2 | .ar => 3
def Ord4.parse : Nat → Option Ord4
  | 0 => some .rlx | 1 => some .acq | 2 => some .rel | 3 => some .ar | _ => none

def WCmp.code : WCmp → Nat
  | .eq => 0 | .ne => 1 | .geu => 2 | .ltu => 3 | .ges => 4 | .lts => 5
def WCmp.parse : Nat → Option WCmp
  | 0 => some .eq | 1 => some .ne | 2 => some .geu | 3 => some .ltu | 4 => some .ges | 5 => some .lts | _ => none

def FenceKind.code : FenceKind → Nat
  | .rel => 1 | .acq => 2 | .full => 3
def FenceKind.parse : Nat → Option FenceKind
  | 1 => some .rel | 2 => some .acq | 3 => some .full | _ => none

def PathKind.code : PathKind → Nat
  | .vec => 0 | .eng => 1 | .smp => 2 | .all => 3
def PathKind.parse : Nat → Option PathKind
  | 0 => some .vec | 1 => some .eng | 2 => some .smp | 3 => some .all | _ => none

def CC.code : CC → Nat
  | .eq => 0 | .ne => 1 | .lt => 2 | .ge => 3 | .le => 4 | .gt => 5 | .ltu => 6 | .geu => 7 | .leu => 8 | .gtu => 9
def CC.parse : Nat → Option CC
  | 0 => some .eq | 1 => some .ne | 2 => some .lt | 3 => some .ge | 4 => some .le | 5 => some .gt | 6 => some .ltu
  | 7 => some .geu | 8 => some .leu | 9 => some .gtu | _ => none

def PlogOp.code : PlogOp → Nat
  | .and => 0 | .or => 1 | .xor => 2 | .andn => 3 | .not => 4 | .movp => 5
def PlogOp.parse : Nat → Option PlogOp
  | 0 => some .and | 1 => some .or | 2 => some .xor | 3 => some .andn | 4 => some .not | 5 => some .movp | _ => none

def FSize.code : FSize → Nat
  | .s => 0 | .d => 1
def FSize.parse : Nat → Option FSize
  | 0 => some .s | 1 => some .d | _ => none

def RM.code : RM → Nat
  | .rne => 0 | .rtz => 1 | .rup => 2 | .rdn => 3 | .rmm => 4 | .dyn => 7
def RM.parse : Nat → Option RM
  | 0 => some .rne | 1 => some .rtz | 2 => some .rup | 3 => some .rdn | 4 => some .rmm | 7 => some .dyn | _ => none

def FCmp.code : FCmp → Nat
  | .eq => 0 | .lt => 1 | .le => 2 | .un => 3 | .ne => 4 | .ge => 5 | .gt => 6 | .or => 7
def FCmp.parse : Nat → Option FCmp
  | 0 => some .eq | 1 => some .lt | 2 => some .le | 3 => some .un | 4 => some .ne | 5 => some .ge | 6 => some .gt
  | 7 => some .or | _ => none

def FCvt.code : FCvt → Nat
  | .xf => 0 | .fs => 1 | .fz => 2 | .sf => 3 | .zf => 4
def FCvt.parse : Nat → Option FCvt
  | 0 => some .xf | 1 => some .fs | 2 => some .fz | 3 => some .sf | 4 => some .zf | _ => none

def FSgn.code : FSgn → Nat
  | .sgj => 0 | .sgn => 1 | .sgx => 2
def FSgn.parse : Nat → Option FSgn
  | 0 => some .sgj | 1 => some .sgn | 2 => some .sgx | _ => none

def CinvKind.code : CinvKind → Nat
  | .line => 0 | .all => 1 | .iline => 2 | .iall => 3
def CinvKind.parse : Nat → Option CinvKind
  | 0 => some .line | 1 => some .all | 2 => some .iline | 3 => some .iall | _ => none

def SmplKind.code : SmplKind → Nat
  | .near => 0 | .bil => 1
def SmplKind.parse : Nat → Option SmplKind
  | 0 => some .near | 1 => some .bil | _ => none

/-- A Boolean field. -/
def flag (n : Nat) : Option Bool := match n with | 0 => some false | 1 => some true | _ => none

/-! ### The opcode grid (R306) -/

/-- The operations of the opcode grid. -/
inductive Op where
  | add | sub | mul | mulh | mulhz | div | divz | rem | remz | and | or | xor | andn | shl | shr | sha | rol | min | max | minz | maxz | clz | popc | brev | madd | bfx | bfi | addw | subw | mulw
  | addi | andi | ori | xori | shli | shri | shai | muli | ldi | ldih | lea | mov | getid
  | cmp | cmpi | plog | sel | pget | pset
  | br | jmp | call | callr | ret | loop | nop | exit
  | ld | st | ldx | stx | lda | stl | ldf | stf | clre | pref
  | amo | cas | red | famo | fred | watch
  | fence | pfence | bar | bara | barw | qpeek | qcnt | qbind | qflush | vsync | kwait
  | spawn | joinw | wfw | tnew | yield | park
  | fadd | fsub | fmul | ffma | fdiv | fsqrt | fmin | fmax | fcmp | fcvt | fsgn | fclass
  | vadd | vsub | vmul | vfma | vmin | vmax | vabs | vscl | vaxpy | vand | vor | vxor | vshl | vshr | vcmp | vsel | vcmul | vcmac | vmov
  | vred | vdot | vscan | vcvt | vldg | vstg | vgath | vscat | vbcst | viota | vperm | vexp | vlog | vrcp | vrsq | vsin | vcos
  | enq | waitj | pollj | jstat | zfset | zfget | sclw | cbld | chwp
  | boxt | trit | tspush | tspop | tsclr | smpl | sld | lset | lget | lsplit | lmerge | lreq | ldone | lepoch | wgalloc | wgemit | wgtake | wgfree | paya | payp
  | trap | rft | srrd | srwr | bkpt | tlbinv | cinv | stopw | resw | logmk | cntrd
  deriving DecidableEq, Repr

/-- The grid of R306: group by group, index 0 first. No group has a gap. -/
def opGrid : List (List Op) :=
  [ [.add, .sub, .mul, .mulh, .mulhz, .div, .divz, .rem, .remz, .and, .or, .xor, .andn, .shl, .shr, .sha, .rol, .min, .max, .minz, .maxz, .clz, .popc, .brev, .madd, .bfx, .bfi, .addw, .subw, .mulw]
  , [.addi, .andi, .ori, .xori, .shli, .shri, .shai, .muli, .ldi, .ldih, .lea, .mov, .getid]
  , [.cmp, .cmpi, .plog, .sel, .pget, .pset]
  , [.br, .jmp, .call, .callr, .ret, .loop, .nop, .exit]
  , [.ld, .st, .ldx, .stx, .lda, .stl, .ldf, .stf, .clre, .pref]
  , [.amo, .cas, .red, .famo, .fred, .watch]
  , [.fence, .pfence, .bar, .bara, .barw, .qpeek, .qcnt, .qbind, .qflush, .vsync, .kwait]
  , [.spawn, .joinw, .wfw, .tnew, .yield, .park]
  , [.fadd, .fsub, .fmul, .ffma, .fdiv, .fsqrt, .fmin, .fmax, .fcmp, .fcvt, .fsgn, .fclass]
  , [.vadd, .vsub, .vmul, .vfma, .vmin, .vmax, .vabs, .vscl, .vaxpy, .vand, .vor, .vxor, .vshl, .vshr, .vcmp, .vsel, .vcmul, .vcmac, .vmov]
  , [.vred, .vdot, .vscan, .vcvt, .vldg, .vstg, .vgath, .vscat, .vbcst, .viota, .vperm, .vexp, .vlog, .vrcp, .vrsq, .vsin, .vcos]
  , [.enq, .waitj, .pollj, .jstat, .zfset, .zfget, .sclw, .cbld, .chwp]
  , [.boxt, .trit, .tspush, .tspop, .tsclr, .smpl, .sld, .lset, .lget, .lsplit, .lmerge, .lreq, .ldone, .lepoch, .wgalloc, .wgemit, .wgtake, .wgfree, .paya, .payp]
  , [.trap, .rft, .srrd, .srwr, .bkpt, .tlbinv, .cinv, .stopw, .resw, .logmk, .cntrd] ]

/-- The operation of a 10-bit OPC, `none` at an index that the grid leaves empty and in groups 0xE and 0xF. -/
def Op.ofCode (n : Nat) : Option Op := (opGrid[n / 64]?).bind fun g => g[n % 64]?

/-- OPC of an operation: 64 times the group, plus the index (R306). -/
def Op.code : Op → Nat
  | .add => 0x000
  | .sub => 0x001
  | .mul => 0x002
  | .mulh => 0x003
  | .mulhz => 0x004
  | .div => 0x005
  | .divz => 0x006
  | .rem => 0x007
  | .remz => 0x008
  | .and => 0x009
  | .or => 0x00A
  | .xor => 0x00B
  | .andn => 0x00C
  | .shl => 0x00D
  | .shr => 0x00E
  | .sha => 0x00F
  | .rol => 0x010
  | .min => 0x011
  | .max => 0x012
  | .minz => 0x013
  | .maxz => 0x014
  | .clz => 0x015
  | .popc => 0x016
  | .brev => 0x017
  | .madd => 0x018
  | .bfx => 0x019
  | .bfi => 0x01A
  | .addw => 0x01B
  | .subw => 0x01C
  | .mulw => 0x01D
  | .addi => 0x040
  | .andi => 0x041
  | .ori => 0x042
  | .xori => 0x043
  | .shli => 0x044
  | .shri => 0x045
  | .shai => 0x046
  | .muli => 0x047
  | .ldi => 0x048
  | .ldih => 0x049
  | .lea => 0x04A
  | .mov => 0x04B
  | .getid => 0x04C
  | .cmp => 0x080
  | .cmpi => 0x081
  | .plog => 0x082
  | .sel => 0x083
  | .pget => 0x084
  | .pset => 0x085
  | .br => 0x0C0
  | .jmp => 0x0C1
  | .call => 0x0C2
  | .callr => 0x0C3
  | .ret => 0x0C4
  | .loop => 0x0C5
  | .nop => 0x0C6
  | .exit => 0x0C7
  | .ld => 0x100
  | .st => 0x101
  | .ldx => 0x102
  | .stx => 0x103
  | .lda => 0x104
  | .stl => 0x105
  | .ldf => 0x106
  | .stf => 0x107
  | .clre => 0x108
  | .pref => 0x109
  | .amo => 0x140
  | .cas => 0x141
  | .red => 0x142
  | .famo => 0x143
  | .fred => 0x144
  | .watch => 0x145
  | .fence => 0x180
  | .pfence => 0x181
  | .bar => 0x182
  | .bara => 0x183
  | .barw => 0x184
  | .qpeek => 0x185
  | .qcnt => 0x186
  | .qbind => 0x187
  | .qflush => 0x188
  | .vsync => 0x189
  | .kwait => 0x18A
  | .spawn => 0x1C0
  | .joinw => 0x1C1
  | .wfw => 0x1C2
  | .tnew => 0x1C3
  | .yield => 0x1C4
  | .park => 0x1C5
  | .fadd => 0x200
  | .fsub => 0x201
  | .fmul => 0x202
  | .ffma => 0x203
  | .fdiv => 0x204
  | .fsqrt => 0x205
  | .fmin => 0x206
  | .fmax => 0x207
  | .fcmp => 0x208
  | .fcvt => 0x209
  | .fsgn => 0x20A
  | .fclass => 0x20B
  | .vadd => 0x240
  | .vsub => 0x241
  | .vmul => 0x242
  | .vfma => 0x243
  | .vmin => 0x244
  | .vmax => 0x245
  | .vabs => 0x246
  | .vscl => 0x247
  | .vaxpy => 0x248
  | .vand => 0x249
  | .vor => 0x24A
  | .vxor => 0x24B
  | .vshl => 0x24C
  | .vshr => 0x24D
  | .vcmp => 0x24E
  | .vsel => 0x24F
  | .vcmul => 0x250
  | .vcmac => 0x251
  | .vmov => 0x252
  | .vred => 0x280
  | .vdot => 0x281
  | .vscan => 0x282
  | .vcvt => 0x283
  | .vldg => 0x284
  | .vstg => 0x285
  | .vgath => 0x286
  | .vscat => 0x287
  | .vbcst => 0x288
  | .viota => 0x289
  | .vperm => 0x28A
  | .vexp => 0x28B
  | .vlog => 0x28C
  | .vrcp => 0x28D
  | .vrsq => 0x28E
  | .vsin => 0x28F
  | .vcos => 0x290
  | .enq => 0x2C0
  | .waitj => 0x2C1
  | .pollj => 0x2C2
  | .jstat => 0x2C3
  | .zfset => 0x2C4
  | .zfget => 0x2C5
  | .sclw => 0x2C6
  | .cbld => 0x2C7
  | .chwp => 0x2C8
  | .boxt => 0x300
  | .trit => 0x301
  | .tspush => 0x302
  | .tspop => 0x303
  | .tsclr => 0x304
  | .smpl => 0x305
  | .sld => 0x306
  | .lset => 0x307
  | .lget => 0x308
  | .lsplit => 0x309
  | .lmerge => 0x30A
  | .lreq => 0x30B
  | .ldone => 0x30C
  | .lepoch => 0x30D
  | .wgalloc => 0x30E
  | .wgemit => 0x30F
  | .wgtake => 0x310
  | .wgfree => 0x311
  | .paya => 0x312
  | .payp => 0x313
  | .trap => 0x340
  | .rft => 0x341
  | .srrd => 0x342
  | .srwr => 0x343
  | .bkpt => 0x344
  | .tlbinv => 0x345
  | .cinv => 0x346
  | .stopw => 0x347
  | .resw => 0x348
  | .logmk => 0x349
  | .cntrd => 0x34A

/-- Groups 0x9 and 0xA are long (R298). -/
def Op.long (o : Op) : Bool := o.code / 64 == 9 || o.code / 64 == 10

/-- The instructions that R306 marks privileged. -/
def Op.privileged : Op → Bool
  | .stopw | .resw | .tlbinv => true
  | _ => false

/-- Numbers that name a system register (R339). -/
def namesRegister (n : Nat) : Bool :=
  n ≤ 6 || (8 ≤ n && n ≤ 0xB) || (0x10 ≤ n && n ≤ 0x15) || n == 0x100 || n == 0x101 || n == 0x103 || n == 0x104
  || n == 0x105 || (0x110 ≤ n && n ≤ 0x13F) || (0x200 ≤ n && n ≤ 0x206) || n == 0x210 || (0x214 ≤ n && n ≤ 0x21C)
  || (0x240 ≤ n && n ≤ 0x243) || (0x260 ≤ n && n ≤ 0x2E0) || (0x300 ≤ n && n ≤ 0x33F) || (0x350 ≤ n && n ≤ 0x36B)
  || (0x370 ≤ n && n ≤ 0x372)

/-! ### Fields of a first word (R299) -/

def fLen1 (w : Nat) : Nat := bits w 63 63
def fOpc (w : Nat) : Nat := bits w 62 53
def fPred (w : Nat) : Pred := ⟨bits w 52 52 == 1, ⟨bits w 51 49, by unfold bits; omega⟩⟩
def fDst (w : Nat) : Code := BitVec.ofNat 8 (bits w 48 41)
def fSa (w : Nat) : Code := BitVec.ofNat 8 (bits w 40 33)
def fLow (w : Nat) : Nat := bits w 32 0
def fSb (w : Nat) : Code := BitVec.ofNat 8 (bits w 32 25)
def fSc (w : Nat) : Code := BitVec.ofNat 8 (bits w 24 17)
def fMod (w : Nat) : Nat := bits w 16 0
def fModm (w : Nat) : Nat := bits w 24 17
def fImm33 (w : Nat) : BitVec 33 := BitVec.ofNat 33 (bits w 32 0)
def fImm17 (w : Nat) : BitVec 17 := BitVec.ofNat 17 (bits w 16 0)
def fImm41 (w : Nat) : BitVec 41 := BitVec.ofNat 41 (bits w 40 0)

def fFin8 (n : Nat) : Fin 8 := ⟨n % 8, by omega⟩
def fFin9 (n : Nat) : Fin 9 := ⟨n % 9, by omega⟩
def fFin15 (n : Nat) : Fin 15 := ⟨n % 15, by omega⟩
def fFin16 (n : Nat) : Fin 16 := ⟨n % 16, by omega⟩
def fFin17 (n : Nat) : Fin 17 := ⟨n % 17, by omega⟩
def fFin64 (n : Nat) : Fin 64 := ⟨n % 64, by omega⟩
/-- A field length 1 to 64; longer ones are reserved (R311). -/
def fLen (n : Nat) : Option (Fin 65) := if h : n < 65 then some ⟨n, h⟩ else none

/-- Layout M (R308). -/
structure LayM where
  sz : Size
  sx : Bool
  loc : Bool
  sc : Scope
  cn : Bool
  deriving DecidableEq, Repr

def layM (m : Nat) : Option LayM := do
  let sz ← Size.parse (bits m 1 0)
  let sx ← flag (bits m 2 2)
  let loc ← flag (bits m 3 3)
  let sc ← Scope.parse (bits m 6 4)
  let cn ← flag (bits m 7 7)
  pure ⟨sz, sx, loc, sc, cn⟩

/-- Layout M as a number. -/
def modM (sz : Size) (sx loc : Bool) (sc : Scope) (cn : Bool) : Nat :=
  2 ^ 7 * b2n cn + 2 ^ 4 * sc.code + 2 ^ 3 * b2n loc + 2 ^ 2 * b2n sx + sz.code

/-- Layout AT without its OP field (R309): bits [16:11] are reserved, and SCOPE is 0 with RLX. -/
def layAT (m : Nat) : Option AtMod := do
  guard (m < 2 ^ 11)
  let sz ← Size.parse (bits m 5 4)
  let ord ← Ord4.parse (bits m 7 6)
  let sc ← Scope.parse (bits m 10 8)
  guard (ord = .rlx → sc = .slot)
  pure ⟨sz, ord, sc⟩

/-- Layout AT as a number. -/
def modAT (op : Nat) (m : AtMod) : Nat := 2 ^ 8 * m.scope.code + 2 ^ 6 * m.ord.code + 2 ^ 4 * m.sz.code + op

/-- Layout FP (R312). -/
structure LayFP where
  pd : Nat
  fx : Nat
  sz : FSize
  rm : RM
  deriving DecidableEq, Repr

def layFP (m : Nat) : Option LayFP := do
  guard (m < 2 ^ 12)
  let sz ← FSize.parse (bits m 4 3)
  let rm ← RM.parse (bits m 2 0)
  pure ⟨bits m 11 9, bits m 8 5, sz, rm⟩

/-- Layout FP as a number. -/
def modFP (pd fx : Nat) (sz : FSize) (rm : RM) : Nat := 2 ^ 9 * pd + 2 ^ 5 * fx + 2 ^ 3 * sz.code + rm.code

/-- Layout V of the first word, and the EXT word (R299, R300, R314). -/
def layV (w e : Nat) : Option VMod := do
  let m := fMod w
  let rm ← RM.parse (bits m 12 10)
  let dc ← flag (bits m 3 3)
  let db ← flag (bits m 2 2)
  let da ← flag (bits m 1 1)
  let dd ← flag (bits m 0 0)
  pure { vx := BitVec.ofNat 4 (bits m 16 13), rm := rm, tail := BitVec.ofNat 6 (bits m 9 4), dc := dc, db := db,
         da := da, dd := dd, cnt := BitVec.ofNat 12 (bits e 63 52), std := BitVec.ofNat 13 (bits e 51 39),
         sta := BitVec.ofNat 13 (bits e 38 26), stb := BitVec.ofNat 13 (bits e 25 13), stc := BitVec.ofNat 13 (bits e 12 0) }

/-- Layout V as the MOD of the first word. -/
def modV (v : VMod) : Nat :=
  2 ^ 13 * v.vx.toNat + 2 ^ 10 * v.rm.code + 2 ^ 4 * v.tail.toNat + 2 ^ 3 * b2n v.dc + 2 ^ 2 * b2n v.db + 2 * b2n v.da
  + b2n v.dd

/-- The EXT word of a long instruction (R299). -/
def extV (v : VMod) : Nat :=
  2 ^ 52 * v.cnt.toNat + 2 ^ 39 * v.std.toNat + 2 ^ 26 * v.sta.toNat + 2 ^ 13 * v.stb.toNat + v.stc.toNat

/-! ### Decoding -/

/-- Why words are no instruction: the trap of the first check of R304 that fails. -/
inductive Reject where
  /-- Step 1: OPC names no operation. -/
  | illop
  /-- Step 2: LEN does not fit the operation's group. -/
  | illlen
  /-- Step 4: a sub-field holds a value the instruction does not accept. -/
  | illmod
  /-- The second word of a long instruction is not there. -/
  | truncated
  deriving DecidableEq, Repr

/-- Steps 1 and 2 of R304, which read the first word alone. -/
def decodeOp (w : Nat) : Except Reject Op :=
  match Op.ofCode (fOpc w) with
  | none => .error .illop
  | some o => if (fLen1 w == 1) = o.long then .ok o else .error .illlen

/-- Step 4 of R304: the instruction of operation `o` with first word `w` and EXT word `e` (0 for a short one). -/
def decodeFields (o : Op) (w e : Nat) : Option Instr :=
  let p := fPred w
  match o with
  | .add => do
    guard (fMod w = 0)
    pure (.add p (fDst w) (fSa w) (fSb w))
  | .sub => do
    guard (fMod w = 0)
    pure (.sub p (fDst w) (fSa w) (fSb w))
  | .mul => do
    guard (fMod w = 0)
    pure (.mul p (fDst w) (fSa w) (fSb w))
  | .mulh => do
    guard (fMod w = 0)
    pure (.mulh p (fDst w) (fSa w) (fSb w))
  | .mulhz => do
    guard (fMod w = 0)
    pure (.mulhz p (fDst w) (fSa w) (fSb w))
  | .div => do
    guard (fMod w = 0)
    pure (.div p (fDst w) (fSa w) (fSb w))
  | .divz => do
    guard (fMod w = 0)
    pure (.divz p (fDst w) (fSa w) (fSb w))
  | .rem => do
    guard (fMod w = 0)
    pure (.rem p (fDst w) (fSa w) (fSb w))
  | .remz => do
    guard (fMod w = 0)
    pure (.remz p (fDst w) (fSa w) (fSb w))
  | .and => do
    guard (fMod w = 0)
    pure (.and p (fDst w) (fSa w) (fSb w))
  | .or => do
    guard (fMod w = 0)
    pure (.or p (fDst w) (fSa w) (fSb w))
  | .xor => do
    guard (fMod w = 0)
    pure (.xor p (fDst w) (fSa w) (fSb w))
  | .andn => do
    guard (fMod w = 0)
    pure (.andn p (fDst w) (fSa w) (fSb w))
  | .shl => do
    guard (fMod w = 0)
    pure (.shl p (fDst w) (fSa w) (fSb w))
  | .shr => do
    guard (fMod w = 0)
    pure (.shr p (fDst w) (fSa w) (fSb w))
  | .sha => do
    guard (fMod w = 0)
    pure (.sha p (fDst w) (fSa w) (fSb w))
  | .rol => do
    guard (fMod w = 0)
    pure (.rol p (fDst w) (fSa w) (fSb w))
  | .min => do
    guard (fMod w = 0)
    pure (.min p (fDst w) (fSa w) (fSb w))
  | .max => do
    guard (fMod w = 0)
    pure (.max p (fDst w) (fSa w) (fSb w))
  | .minz => do
    guard (fMod w = 0)
    pure (.minz p (fDst w) (fSa w) (fSb w))
  | .maxz => do
    guard (fMod w = 0)
    pure (.maxz p (fDst w) (fSa w) (fSb w))
  | .clz => do
    guard (fMod w = 0)
    pure (.clz p (fDst w) (fSa w))
  | .popc => do
    guard (fMod w = 0)
    pure (.popc p (fDst w) (fSa w))
  | .brev => do
    guard (fMod w = 0)
    pure (.brev p (fDst w) (fSa w))
  | .madd => do
    guard (fMod w = 0)
    pure (.madd p (fDst w) (fSa w) (fSb w) (fSc w))
  | .bfx => do
    let sx ← flag (bits (fMod w) 13 13)
    guard (fMod w < 2 ^ 14)
    let pos := fFin64 (bits (fMod w) 5 0)
    let len ← fLen (bits (fMod w) 12 6)
    guard (1 ≤ len.val ∧ pos.val + len.val ≤ 64)
    pure (.bfx p (fDst w) (fSa w) sx pos len)
  | .bfi => do
    guard (fMod w < 2 ^ 13)
    let pos := fFin64 (bits (fMod w) 5 0)
    let len ← fLen (bits (fMod w) 12 6)
    guard (1 ≤ len.val ∧ pos.val + len.val ≤ 64)
    pure (.bfi p (fDst w) (fSa w) (fSb w) pos len)
  | .addw => do
    guard (fMod w = 0)
    pure (.addw p (fDst w) (fSa w) (fSb w))
  | .subw => do
    guard (fMod w = 0)
    pure (.subw p (fDst w) (fSa w) (fSb w))
  | .mulw => do
    guard (fMod w = 0)
    pure (.mulw p (fDst w) (fSa w) (fSb w))
  | .addi => some (.addi p (fDst w) (fSa w) (fImm33 w))
  | .andi => some (.andi p (fDst w) (fSa w) (fImm33 w))
  | .ori => some (.ori p (fDst w) (fSa w) (fImm33 w))
  | .xori => some (.xori p (fDst w) (fSa w) (fImm33 w))
  | .shli => do
    guard (fLow w < 2 ^ 6)
    pure (.shli p (fDst w) (fSa w) (fFin64 (fLow w)))
  | .shri => do
    guard (fLow w < 2 ^ 6)
    pure (.shri p (fDst w) (fSa w) (fFin64 (fLow w)))
  | .shai => do
    guard (fLow w < 2 ^ 6)
    pure (.shai p (fDst w) (fSa w) (fFin64 (fLow w)))
  | .muli => some (.muli p (fDst w) (fSa w) (fImm33 w))
  | .ldi => some (.ldi p (fDst w) (fImm33 w))
  | .ldih => do
    guard (fLow w < 2 ^ 31)
    pure (.ldih p (fDst w) (fSa w) (BitVec.ofNat 31 (fLow w)))
  | .lea => do
    guard (fModm w = 0)
    pure (.lea p (fDst w) (fSb w) (fImm17 w))
  | .mov => do
    guard (fMod w = 0)
    pure (.mov p (fDst w) (fSa w))
  | .getid => do
    guard (fMod w < 15)
    pure (.getid p (fDst w) (fFin15 (fMod w)))
  | .cmp => do
    guard (fMod w < 2 ^ 7)
    let cc ← CC.parse (bits (fMod w) 3 0)
    pure (.cmp p (fFin8 (bits (fMod w) 6 4)) (fSa w) (fSb w) cc)
  | .cmpi => do
    guard ((fDst w).toNat < 2 ^ 7)
    let cc ← CC.parse (bits (fDst w).toNat 6 3)
    pure (.cmpi p (fFin8 (bits (fDst w).toNat 2 0)) (fSa w) cc (fImm33 w))
  | .plog => do
    guard (fMod w < 2 ^ 13)
    let op ← PlogOp.parse (bits (fMod w) 3 0)
    let pb := fFin8 (bits (fMod w) 12 10)
    guard (op = .not ∨ op = .movp → pb = 0)
    pure (.plog p (fFin8 (bits (fMod w) 6 4)) (fFin8 (bits (fMod w) 9 7)) pb op)
  | .sel => do
    guard (fMod w < 2 ^ 4)
    let ns ← flag (bits (fMod w) 3 3)
    pure (.sel p (fDst w) (fFin8 (bits (fMod w) 2 0)) ns (fSa w) (fSb w))
  | .pget => do
    guard (fMod w = 0)
    pure (.pget p (fDst w))
  | .pset => do
    guard (fMod w = 0)
    pure (.pset p (fSa w))
  | .br => some (.br p (fImm41 w))
  | .jmp => do
    guard (fMod w = 0)
    pure (.jmp p (fSa w))
  | .call => some (.call p (fDst w) (fImm41 w))
  | .callr => do
    guard (fMod w = 0)
    pure (.callr p (fDst w) (fSa w))
  | .ret => do
    guard (fMod w = 0)
    pure (.ret p (fSa w))
  | .loop => some (.loop p (fDst w) (fImm41 w))
  | .nop => do
    guard (fMod w = 0)
    pure (.nop p)
  | .exit => do
    guard (fMod w = 0)
    pure (.exit p)
  | .ld => do
    let m ← layM (fModm w)
    guard (m.cn = false ∧ m.sc = .slot)
    pure (.ld p (fDst w) (fSb w) (fImm17 w) m.sz m.sx m.loc)
  | .st => do
    let m ← layM (fModm w)
    guard (m.cn = false ∧ m.sc = .slot ∧ m.sx = false)
    pure (.st p (fSb w) (fSa w) (fImm17 w) m.sz m.loc)
  | .ldx => do
    guard (fMod w < 2 ^ 8)
    let m ← layM (fMod w)
    guard (m.cn = false ∧ m.sc = .slot)
    pure (.ldx p (fDst w) (fSb w) (fSc w) m.sz m.sx m.loc)
  | .stx => do
    guard (fMod w < 2 ^ 8)
    let m ← layM (fMod w)
    guard (m.cn = false ∧ m.sc = .slot ∧ m.sx = false)
    pure (.stx p (fSa w) (fSb w) (fSc w) m.sz m.loc)
  | .lda => do
    let m ← layM (fModm w)
    guard (m.cn = false)
    pure (.lda p (fDst w) (fSb w) (fImm17 w) m.sz m.sx m.loc m.sc)
  | .stl => do
    let m ← layM (fModm w)
    guard (m.cn = false ∧ m.sx = false)
    pure (.stl p (fSb w) (fSa w) (fImm17 w) m.sz m.loc m.sc)
  | .ldf => do
    let m ← layM (fModm w)
    guard (m.sc = .slot)
    pure (.ldf p (fDst w) (fSb w) (fImm17 w) m.sz m.sx m.loc m.cn)
  | .stf => do
    let m ← layM (fModm w)
    guard (m.cn = false ∧ m.sc = .slot ∧ m.sx = false)
    pure (.stf p (fSb w) (fSa w) (fImm17 w) m.sz m.loc)
  | .clre => do
    let m ← layM (fModm w)
    guard (m.cn = false ∧ m.sc = .slot ∧ m.sx = false ∧ m.sz = .b)
    pure (.clre p (fSb w) (fSa w) (fImm17 w) m.loc)
  | .pref => do
    guard (fModm w = 0)
    pure (.pref p (fSb w) (fImm17 w))
  | .amo => do
    let op ← AtOp.parse (bits (fMod w) 3 0)
    let m ← layAT (fMod w)
    guard (m.sz = .w ∨ m.sz = .d)
    pure (.amo p (fDst w) (fSb w) (fSa w) op m)
  | .cas => do
    guard (bits (fMod w) 3 0 = 0)
    let m ← layAT (fMod w)
    guard (m.sz = .w ∨ m.sz = .d)
    pure (.cas p (fDst w) (fSb w) (fSa w) (fSc w) m)
  | .red => do
    let op ← AtOp.parse (bits (fMod w) 3 0)
    guard (op ≠ .swap)
    let m ← layAT (fMod w)
    guard ((m.sz = .w ∨ m.sz = .d) ∧ (m.ord = .rlx ∨ m.ord = .rel))
    pure (.red p (fSb w) (fSa w) op m)
  | .famo => do
    let op ← FAtOp.parse (bits (fMod w) 3 0)
    let m ← layAT (fMod w)
    guard (m.sz = .h ∨ m.sz = .w)
    pure (.famo p (fDst w) (fSb w) (fSa w) op m)
  | .fred => do
    let op ← FAtOp.parse (bits (fMod w) 3 0)
    let m ← layAT (fMod w)
    guard ((m.sz = .h ∨ m.sz = .w) ∧ (m.ord = .rlx ∨ m.ord = .rel))
    pure (.fred p (fSb w) (fSa w) op m)
  | .watch => do
    let sz ← Size.parse (bits (fModm w) 1 0)
    let cmp ← WCmp.parse (bits (fModm w) 4 2)
    let sc ← Scope.parse (bits (fModm w) 7 5)
    pure (.watch p (fSb w) (fSa w) (fImm17 w) sz cmp sc)
  | .fence => do
    guard (fMod w < 2 ^ 5)
    let k ← FenceKind.parse (bits (fMod w) 1 0)
    let sc ← Scope.parse (bits (fMod w) 4 2)
    pure (.fence p k sc)
  | .pfence => do
    let k ← PathKind.parse (fMod w)
    pure (.pfence p k)
  | .bar => do
    let sc ← Scope.parse (fMod w)
    pure (.bar p (fSa w) (fSb w) sc)
  | .bara => do
    let sc ← Scope.parse (fMod w)
    pure (.bara p (fSa w) (fSb w) sc)
  | .barw => do
    let sc ← Scope.parse (fMod w)
    pure (.barw p (fSa w) (fSb w) sc)
  | .qpeek => do
    guard (fMod w = 0)
    pure (.qpeek p (fDst w) (fSa w))
  | .qcnt => do
    guard (fMod w = 0)
    pure (.qcnt p (fDst w) (fSa w))
  | .qbind => do
    guard (fMod w = 0)
    pure (.qbind p (fSa w) (fSb w))
  | .qflush => do
    guard (fMod w = 0)
    pure (.qflush p (fSa w))
  | .vsync => do
    guard (fMod w = 0)
    pure (.vsync p)
  | .kwait => do
    let cmp ← WCmp.parse (fMod w)
    pure (.kwait p (fSa w) (fSb w) cmp)
  | .spawn => do
    guard (fMod w < 2 ^ 5)
    let deep ← flag (bits (fMod w) 4 4)
    guard (bits (fMod w) 3 0 < 9)
    pure (.spawn p (fSa w) (fSb w) deep (fFin9 (bits (fMod w) 3 0)))
  | .joinw => do
    let sc ← Scope.parse (fMod w)
    pure (.joinw p (fSa w) sc)
  | .wfw => do
    guard (fMod w = 0)
    pure (.wfw p)
  | .tnew => do
    guard (1 ≤ fMod w ∧ fMod w < 17)
    pure (.tnew p (fDst w) (fSa w) (fFin17 (fMod w)))
  | .yield => do
    guard (fMod w = 0)
    pure (.yield p)
  | .park => do
    guard (fMod w = 0)
    pure (.park p (fSa w))
  | .fadd => do
    let f ← layFP (fMod w)
    guard (f.pd = 0 ∧ f.fx = 0)
    pure (.fadd p (fDst w) (fSa w) (fSb w) f.sz f.rm)
  | .fsub => do
    let f ← layFP (fMod w)
    guard (f.pd = 0 ∧ f.fx = 0)
    pure (.fsub p (fDst w) (fSa w) (fSb w) f.sz f.rm)
  | .fmul => do
    let f ← layFP (fMod w)
    guard (f.pd = 0 ∧ f.fx = 0)
    pure (.fmul p (fDst w) (fSa w) (fSb w) f.sz f.rm)
  | .ffma => do
    let f ← layFP (fMod w)
    guard (f.pd = 0 ∧ f.fx = 0)
    pure (.ffma p (fDst w) (fSa w) (fSb w) (fSc w) f.sz f.rm)
  | .fdiv => do
    let f ← layFP (fMod w)
    guard (f.pd = 0 ∧ f.fx = 0)
    pure (.fdiv p (fDst w) (fSa w) (fSb w) f.sz f.rm)
  | .fsqrt => do
    let f ← layFP (fMod w)
    guard (f.pd = 0 ∧ f.fx = 0)
    pure (.fsqrt p (fDst w) (fSa w) f.sz f.rm)
  | .fmin => do
    let f ← layFP (fMod w)
    guard (f.pd = 0 ∧ f.fx = 0)
    pure (.fmin p (fDst w) (fSa w) (fSb w) f.sz f.rm)
  | .fmax => do
    let f ← layFP (fMod w)
    guard (f.pd = 0 ∧ f.fx = 0)
    pure (.fmax p (fDst w) (fSa w) (fSb w) f.sz f.rm)
  | .fcmp => do
    let f ← layFP (fMod w)
    let fx ← FCmp.parse f.fx
    pure (.fcmp p (fFin8 f.pd) (fSa w) (fSb w) fx f.sz f.rm)
  | .fcvt => do
    let f ← layFP (fMod w)
    guard (f.pd = 0)
    let fx ← FCvt.parse f.fx
    pure (.fcvt p (fDst w) (fSa w) fx f.sz f.rm)
  | .fsgn => do
    let f ← layFP (fMod w)
    guard (f.pd = 0)
    let fx ← FSgn.parse f.fx
    pure (.fsgn p (fDst w) (fSa w) (fSb w) fx f.sz f.rm)
  | .fclass => do
    let f ← layFP (fMod w)
    guard (f.pd = 0 ∧ f.fx = 0)
    pure (.fclass p (fDst w) (fSa w) f.sz f.rm)
  | .vadd => do
    let v ← layV w e
    guard (v.vx.toNat < 1 ∧ v.dc = false)
    pure (.vadd p (fDst w) (fSa w) (fSb w) v)
  | .vsub => do
    let v ← layV w e
    guard (v.vx.toNat < 1 ∧ v.dc = false)
    pure (.vsub p (fDst w) (fSa w) (fSb w) v)
  | .vmul => do
    let v ← layV w e
    guard (v.vx.toNat < 1 ∧ v.dc = false)
    pure (.vmul p (fDst w) (fSa w) (fSb w) v)
  | .vfma => do
    let v ← layV w e
    guard (v.vx.toNat < 1)
    pure (.vfma p (fDst w) (fSa w) (fSb w) (fSc w) v)
  | .vmin => do
    let v ← layV w e
    guard (v.vx.toNat < 1 ∧ v.dc = false)
    pure (.vmin p (fDst w) (fSa w) (fSb w) v)
  | .vmax => do
    let v ← layV w e
    guard (v.vx.toNat < 1 ∧ v.dc = false)
    pure (.vmax p (fDst w) (fSa w) (fSb w) v)
  | .vabs => do
    let v ← layV w e
    guard (v.vx.toNat < 1 ∧ v.db = false ∧ v.dc = false)
    pure (.vabs p (fDst w) (fSa w) v)
  | .vscl => do
    let v ← layV w e
    guard (v.vx.toNat < 1 ∧ v.db = false ∧ v.dc = false)
    pure (.vscl p (fDst w) (fSa w) (fSb w) v)
  | .vaxpy => do
    let v ← layV w e
    guard (v.vx.toNat < 1)
    pure (.vaxpy p (fDst w) (fSa w) (fSb w) (fSc w) v)
  | .vand => do
    let v ← layV w e
    guard (v.vx.toNat < 1 ∧ v.dc = false)
    pure (.vand p (fDst w) (fSa w) (fSb w) v)
  | .vor => do
    let v ← layV w e
    guard (v.vx.toNat < 1 ∧ v.dc = false)
    pure (.vor p (fDst w) (fSa w) (fSb w) v)
  | .vxor => do
    let v ← layV w e
    guard (v.vx.toNat < 1 ∧ v.dc = false)
    pure (.vxor p (fDst w) (fSa w) (fSb w) v)
  | .vshl => do
    let v ← layV w e
    guard (v.vx.toNat < 1 ∧ v.dc = false)
    pure (.vshl p (fDst w) (fSa w) (fSb w) v)
  | .vshr => do
    let v ← layV w e
    guard (v.vx.toNat < 2 ∧ v.dc = false)
    pure (.vshr p (fDst w) (fSa w) (fSb w) v)
  | .vcmp => do
    let v ← layV w e
    guard (v.vx.toNat < 8 ∧ v.dc = false)
    pure (.vcmp p (fDst w) (fSa w) (fSb w) v)
  | .vsel => do
    let v ← layV w e
    guard (v.vx.toNat < 1)
    pure (.vsel p (fDst w) (fSa w) (fSb w) (fSc w) v)
  | .vcmul => do
    let v ← layV w e
    guard (v.vx.toNat < 2 ∧ v.dc = false)
    pure (.vcmul p (fDst w) (fSa w) (fSb w) v)
  | .vcmac => do
    let v ← layV w e
    guard (v.vx.toNat < 2)
    pure (.vcmac p (fDst w) (fSa w) (fSb w) (fSc w) v)
  | .vmov => do
    let v ← layV w e
    guard (v.vx.toNat < 1 ∧ v.db = false ∧ v.dc = false)
    pure (.vmov p (fDst w) (fSa w) v)
  | .vred => do
    let v ← layV w e
    guard (v.vx.toNat < 6 ∧ v.db = false ∧ v.dc = false)
    pure (.vred p (fDst w) (fSa w) v)
  | .vdot => do
    let v ← layV w e
    guard (v.vx.toNat < 2 ∧ v.dc = false)
    pure (.vdot p (fDst w) (fSa w) (fSb w) v)
  | .vscan => do
    let v ← layV w e
    guard (v.vx.toNat < 6 ∧ v.db = false ∧ v.dc = false)
    pure (.vscan p (fDst w) (fSa w) v)
  | .vcvt => do
    let v ← layV w e
    guard (v.vx.toNat < 4 ∧ v.db = false ∧ v.dc = false)
    pure (.vcvt p (fDst w) (fSa w) v)
  | .vldg => do
    let v ← layV w e
    guard (v.vx.toNat < 14 ∧ v.da = false ∧ v.db = false ∧ v.dc = false)
    pure (.vldg p (fDst w) (fSa w) v)
  | .vstg => do
    let v ← layV w e
    guard (v.vx.toNat < 14 ∧ v.dd = false ∧ v.db = false ∧ v.dc = false)
    pure (.vstg p (fDst w) (fSa w) v)
  | .vgath => do
    let v ← layV w e
    guard (v.vx.toNat < 14 ∧ v.da = false ∧ v.dc = false)
    pure (.vgath p (fDst w) (fSa w) (fSb w) v)
  | .vscat => do
    let v ← layV w e
    guard (v.vx.toNat < 14 ∧ v.dd = false ∧ v.dc = false)
    pure (.vscat p (fDst w) (fSa w) (fSb w) v)
  | .vbcst => do
    let v ← layV w e
    guard (v.vx.toNat < 1 ∧ v.da = false ∧ v.db = false ∧ v.dc = false)
    pure (.vbcst p (fDst w) (fSa w) v)
  | .viota => do
    let v ← layV w e
    guard (v.vx.toNat < 1 ∧ v.da = false ∧ v.db = false ∧ v.dc = false)
    pure (.viota p (fDst w) v)
  | .vperm => do
    let v ← layV w e
    guard (v.vx.toNat < 1 ∧ v.dc = false)
    pure (.vperm p (fDst w) (fSa w) (fSb w) v)
  | .vexp => do
    let v ← layV w e
    guard (v.vx.toNat < 1 ∧ v.db = false ∧ v.dc = false)
    pure (.vexp p (fDst w) (fSa w) v)
  | .vlog => do
    let v ← layV w e
    guard (v.vx.toNat < 1 ∧ v.db = false ∧ v.dc = false)
    pure (.vlog p (fDst w) (fSa w) v)
  | .vrcp => do
    let v ← layV w e
    guard (v.vx.toNat < 1 ∧ v.db = false ∧ v.dc = false)
    pure (.vrcp p (fDst w) (fSa w) v)
  | .vrsq => do
    let v ← layV w e
    guard (v.vx.toNat < 1 ∧ v.db = false ∧ v.dc = false)
    pure (.vrsq p (fDst w) (fSa w) v)
  | .vsin => do
    let v ← layV w e
    guard (v.vx.toNat < 1 ∧ v.db = false ∧ v.dc = false)
    pure (.vsin p (fDst w) (fSa w) v)
  | .vcos => do
    let v ← layV w e
    guard (v.vx.toNat < 1 ∧ v.db = false ∧ v.dc = false)
    pure (.vcos p (fDst w) (fSa w) v)
  | .enq => do
    guard (fMod w = 0)
    pure (.enq p (fDst w) (fSa w))
  | .waitj => do
    guard (fMod w = 0)
    pure (.waitj p (fSa w))
  | .pollj => do
    guard (fMod w = 0)
    pure (.pollj p (fDst w) (fSa w))
  | .jstat => do
    guard (fMod w = 0)
    pure (.jstat p (fDst w) (fSa w))
  | .zfset => do
    guard (fMod w < 16)
    pure (.zfset p (fSa w) (fFin16 (fMod w)))
  | .zfget => do
    guard (fMod w < 16)
    pure (.zfget p (fDst w) (fFin16 (fMod w)))
  | .sclw => do
    guard (fMod w < 16)
    pure (.sclw p (fSa w) (fFin16 (fMod w)))
  | .cbld => do
    guard (fMod w < 8)
    pure (.cbld p (fSa w) (fFin8 (fMod w)))
  | .chwp => do
    guard (fMod w < 16)
    pure (.chwp p (fDst w) (fFin16 (fMod w)))
  | .boxt => do
    guard (fMod w = 0)
    pure (.boxt p (fDst w) (fSa w) (fSb w))
  | .trit => do
    guard (fMod w = 0)
    pure (.trit p (fDst w) (fSa w) (fSb w))
  | .tspush => do
    guard (fMod w = 0)
    pure (.tspush p (fSa w))
  | .tspop => do
    guard (fMod w = 0)
    pure (.tspop p (fDst w))
  | .tsclr => do
    guard (fMod w = 0)
    pure (.tsclr p)
  | .smpl => do
    let x ← SmplKind.parse (fMod w)
    pure (.smpl p (fDst w) (fSa w) (fSb w) x)
  | .sld => do
    let sz ← Size.parse (fMod w)
    pure (.sld p (fDst w) (fSa w) sz)
  | .lset => do
    guard (fMod w < 15)
    pure (.lset p (fSa w) (fSb w) (fFin15 (fMod w)))
  | .lget => do
    guard (fMod w < 15)
    pure (.lget p (fDst w) (fSa w) (fFin15 (fMod w)))
  | .lsplit => do
    guard (fMod w = 0)
    pure (.lsplit p (fSa w) (fSb w) (fSc w))
  | .lmerge => do
    guard (fMod w = 0)
    pure (.lmerge p (fSa w) (fSb w))
  | .lreq => do
    guard (fMod w = 0)
    pure (.lreq p (fDst w))
  | .ldone => do
    guard (fMod w = 0)
    pure (.ldone p (fSa w))
  | .lepoch => do
    guard (fMod w = 0)
    pure (.lepoch p (fSa w))
  | .wgalloc => do
    guard (fMod w = 0)
    pure (.wgalloc p (fDst w) (fSa w))
  | .wgemit => do
    guard (fMod w = 0)
    pure (.wgemit p (fSa w) (fSb w))
  | .wgtake => do
    guard (fMod w = 0)
    pure (.wgtake p (fDst w) (fSa w) (fSb w))
  | .wgfree => do
    guard (fMod w = 0)
    pure (.wgfree p (fSa w))
  | .paya => do
    guard (fMod w = 0)
    pure (.paya p (fDst w))
  | .payp => do
    guard (fMod w = 0)
    pure (.payp p (fSa w) (fSb w) (fSc w))
  | .trap => some (.trap p (fImm33 w))
  | .rft => do
    guard (fMod w = 0)
    pure (.rft p)
  | .srrd => do
    guard (fMod w < 2 ^ 12 ∧ namesRegister (fMod w) = true)
    pure (.srrd p (fDst w) (BitVec.ofNat 12 (fMod w)))
  | .srwr => do
    guard (fMod w < 2 ^ 12 ∧ namesRegister (fMod w) = true)
    pure (.srwr p (fSa w) (BitVec.ofNat 12 (fMod w)))
  | .bkpt => do
    guard (fMod w = 0)
    pure (.bkpt p)
  | .tlbinv => do
    let all ← flag (fMod w)
    pure (.tlbinv p (fSa w) all)
  | .cinv => do
    let x ← CinvKind.parse (fMod w)
    pure (.cinv p (fSa w) x)
  | .stopw => do
    let sc ← Scope.parse (fMod w)
    pure (.stopw p sc)
  | .resw => do
    let sc ← Scope.parse (fMod w)
    pure (.resw p sc)
  | .logmk => do
    guard (fMod w = 0)
    pure (.logmk p (fSa w))
  | .cntrd => do
    guard (fMod w < 2 ^ 12)
    pure (.cntrd p (fDst w) (BitVec.ofNat 12 (fMod w)))

/-- An instruction from its words, the first word first. -/
def decodeWords : List Nat → Except Reject Instr
  | [] => .error .truncated
  | w :: rest =>
    match decodeOp w with
    | .error r => .error r
    | .ok o =>
      if o.long then
        match rest with
        | [] => .error .truncated
        | e :: _ => match decodeFields o w e with | some i => .ok i | none => .error .illmod
      else match decodeFields o w 0 with | some i => .ok i | none => .error .illmod

/-- The number that bytes hold, least significant first (R6). -/
def leNat : List Byte → Nat
  | [] => 0
  | b :: bs => b.toNat + 256 * leNat bs

/-- The `k` bytes of a number, least significant first (R6). -/
def leBytes : Nat → Nat → List Byte
  | 0, _ => []
  | k + 1, n => BitVec.ofNat 8 n :: leBytes k (n / 256)

/-- The 8-byte words of a list of bytes (R6); bytes after the last whole word are left. -/
def bytesToWords (bs : List Byte) : List Nat :=
  if bs.length < 8 then [] else leNat (bs.take 8) :: (if bs.length < 16 then [] else [leNat ((bs.drop 8).take 8)])

/-- Decoding of bytes, total: the instruction that stands at the start of the list. -/
def decode (bs : List Byte) : Except Reject Instr := decodeWords (bytesToWords bs)

/-! ### Encoding -/

/-- A first word from its fields (R299). -/
def packWord (len : Nat) (o : Op) (p : Pred) (dst sa : Code) (low : Nat) : Nat :=
  2 ^ 63 * len + 2 ^ 53 * o.code + 2 ^ 52 * b2n p.pn + 2 ^ 49 * p.px.val + 2 ^ 41 * dst.toNat + 2 ^ 33 * sa.toNat + low

def encA (o : Op) (p : Pred) (d a b c : Code) (m : Nat) : List Nat :=
  [packWord 0 o p d a (2 ^ 25 * b.toNat + 2 ^ 17 * c.toNat + m)]
def encB (o : Op) (p : Pred) (d a : Code) (imm : Nat) : List Nat := [packWord 0 o p d a imm]
def encC (o : Op) (p : Pred) (d a b : Code) (m : Nat) (off : BitVec 17) : List Nat :=
  [packWord 0 o p d a (2 ^ 25 * b.toNat + 2 ^ 17 * m + off.toNat)]
def encD (o : Op) (p : Pred) (d : Code) (imm : BitVec 41) : List Nat := [packWord 0 o p d 0 imm.toNat]
def encV (o : Op) (p : Pred) (d a b c : Code) (v : VMod) : List Nat :=
  [packWord 1 o p d a (2 ^ 25 * b.toNat + 2 ^ 17 * c.toNat + modV v), extV v]

/-- The words of an instruction, the first word first; a whole-device event has none. -/
def encode : Instr → List Nat
  | .add p d a b => encA .add p d a b 0 0
  | .sub p d a b => encA .sub p d a b 0 0
  | .mul p d a b => encA .mul p d a b 0 0
  | .mulh p d a b => encA .mulh p d a b 0 0
  | .mulhz p d a b => encA .mulhz p d a b 0 0
  | .div p d a b => encA .div p d a b 0 0
  | .divz p d a b => encA .divz p d a b 0 0
  | .rem p d a b => encA .rem p d a b 0 0
  | .remz p d a b => encA .remz p d a b 0 0
  | .and p d a b => encA .and p d a b 0 0
  | .or p d a b => encA .or p d a b 0 0
  | .xor p d a b => encA .xor p d a b 0 0
  | .andn p d a b => encA .andn p d a b 0 0
  | .shl p d a b => encA .shl p d a b 0 0
  | .shr p d a b => encA .shr p d a b 0 0
  | .sha p d a b => encA .sha p d a b 0 0
  | .rol p d a b => encA .rol p d a b 0 0
  | .min p d a b => encA .min p d a b 0 0
  | .max p d a b => encA .max p d a b 0 0
  | .minz p d a b => encA .minz p d a b 0 0
  | .maxz p d a b => encA .maxz p d a b 0 0
  | .clz p d a => encA .clz p d a 0 0 0
  | .popc p d a => encA .popc p d a 0 0 0
  | .brev p d a => encA .brev p d a 0 0 0
  | .madd p d a b c => encA .madd p d a b c 0
  | .bfx p d a sx pos len => encA .bfx p d a 0 0 (2 ^ 13 * b2n sx + 2 ^ 6 * len.val + pos.val)
  | .bfi p d a b pos len => encA .bfi p d a b 0 (2 ^ 6 * len.val + pos.val)
  | .addw p d a b => encA .addw p d a b 0 0
  | .subw p d a b => encA .subw p d a b 0 0
  | .mulw p d a b => encA .mulw p d a b 0 0
  | .addi p d a imm => encB .addi p d a imm.toNat
  | .andi p d a imm => encB .andi p d a imm.toNat
  | .ori p d a imm => encB .ori p d a imm.toNat
  | .xori p d a imm => encB .xori p d a imm.toNat
  | .shli p d a sh => encB .shli p d a sh.val
  | .shri p d a sh => encB .shri p d a sh.val
  | .shai p d a sh => encB .shai p d a sh.val
  | .muli p d a imm => encB .muli p d a imm.toNat
  | .ldi p d imm => encB .ldi p d 0 imm.toNat
  | .ldih p d a imm => encB .ldih p d a imm.toNat
  | .lea p d b off => encC .lea p d 0 b 0 off
  | .mov p d a => encA .mov p d a 0 0 0
  | .getid p d sel => encA .getid p d 0 0 0 sel.val
  | .cmp p pd a b cc => encA .cmp p 0 a b 0 (2 ^ 4 * pd.val + cc.code)
  | .cmpi p pd a cc imm => encB .cmpi p (BitVec.ofNat 8 (2 ^ 3 * cc.code + pd.val)) a imm.toNat
  | .plog p pd pa pb op => encA .plog p 0 0 0 0 (2 ^ 10 * pb.val + 2 ^ 7 * pa.val + 2 ^ 4 * pd.val + op.code)
  | .sel p d ps ns a b => encA .sel p d a b 0 (2 ^ 3 * b2n ns + ps.val)
  | .pget p d => encA .pget p d 0 0 0 0
  | .pset p a => encA .pset p 0 a 0 0 0
  | .br p imm => encD .br p 0 imm
  | .jmp p a => encA .jmp p 0 a 0 0 0
  | .call p d imm => encD .call p d imm
  | .callr p d a => encA .callr p d a 0 0 0
  | .ret p a => encA .ret p 0 a 0 0 0
  | .loop p d imm => encD .loop p d imm
  | .nop p => encA .nop p 0 0 0 0 0
  | .exit p => encA .exit p 0 0 0 0 0
  | .ld p d b off sz sx loc => encC .ld p d 0 b (modM sz sx loc .slot false) off
  | .st p b a off sz loc => encC .st p 0 a b (modM sz false loc .slot false) off
  | .ldx p d b c sz sx loc => encA .ldx p d 0 b c (modM sz sx loc .slot false)
  | .stx p a b c sz loc => encA .stx p 0 a b c (modM sz false loc .slot false)
  | .lda p d b off sz sx loc sc => encC .lda p d 0 b (modM sz sx loc sc false) off
  | .stl p b a off sz loc sc => encC .stl p 0 a b (modM sz false loc sc false) off
  | .ldf p d b off sz sx loc cn => encC .ldf p d 0 b (modM sz sx loc .slot cn) off
  | .stf p b a off sz loc => encC .stf p 0 a b (modM sz false loc .slot false) off
  | .clre p b a off loc => encC .clre p 0 a b (modM .b false loc .slot false) off
  | .pref p b off => encC .pref p 0 0 b 0 off
  | .amo p d b a op m => encA .amo p d a b 0 (modAT op.code m)
  | .cas p d b a c m => encA .cas p d a b c (modAT 0 m)
  | .red p b a op m => encA .red p 0 a b 0 (modAT op.code m)
  | .famo p d b a op m => encA .famo p d a b 0 (modAT op.code m)
  | .fred p b a op m => encA .fred p 0 a b 0 (modAT op.code m)
  | .watch p b a off sz cmp sc => encC .watch p 0 a b (2 ^ 5 * sc.code + 2 ^ 2 * cmp.code + sz.code) off
  | .fence p k sc => encA .fence p 0 0 0 0 (2 ^ 2 * sc.code + k.code)
  | .pfence p k => encA .pfence p 0 0 0 0 k.code
  | .bar p a b sc => encA .bar p 0 a b 0 sc.code
  | .bara p a b sc => encA .bara p 0 a b 0 sc.code
  | .barw p a b sc => encA .barw p 0 a b 0 sc.code
  | .qpeek p d a => encA .qpeek p d a 0 0 0
  | .qcnt p d a => encA .qcnt p d a 0 0 0
  | .qbind p a b => encA .qbind p 0 a b 0 0
  | .qflush p a => encA .qflush p 0 a 0 0 0
  | .vsync p => encA .vsync p 0 0 0 0 0
  | .kwait p a b cmp => encA .kwait p 0 a b 0 cmp.code
  | .spawn p a b deep dom => encA .spawn p 0 a b 0 (2 ^ 4 * b2n deep + dom.val)
  | .joinw p a sc => encA .joinw p 0 a 0 0 sc.code
  | .wfw p => encA .wfw p 0 0 0 0 0
  | .tnew p d a lim => encA .tnew p d a 0 0 lim.val
  | .yield p => encA .yield p 0 0 0 0 0
  | .park p a => encA .park p 0 a 0 0 0
  | .fadd p d a b sz rm => encA .fadd p d a b 0 (modFP 0 0 sz rm)
  | .fsub p d a b sz rm => encA .fsub p d a b 0 (modFP 0 0 sz rm)
  | .fmul p d a b sz rm => encA .fmul p d a b 0 (modFP 0 0 sz rm)
  | .ffma p d a b c sz rm => encA .ffma p d a b c (modFP 0 0 sz rm)
  | .fdiv p d a b sz rm => encA .fdiv p d a b 0 (modFP 0 0 sz rm)
  | .fsqrt p d a sz rm => encA .fsqrt p d a 0 0 (modFP 0 0 sz rm)
  | .fmin p d a b sz rm => encA .fmin p d a b 0 (modFP 0 0 sz rm)
  | .fmax p d a b sz rm => encA .fmax p d a b 0 (modFP 0 0 sz rm)
  | .fcmp p pd a b fx sz rm => encA .fcmp p 0 a b 0 (modFP pd.val fx.code sz rm)
  | .fcvt p d a fx sz rm => encA .fcvt p d a 0 0 (modFP 0 fx.code sz rm)
  | .fsgn p d a b fx sz rm => encA .fsgn p d a b 0 (modFP 0 fx.code sz rm)
  | .fclass p d a sz rm => encA .fclass p d a 0 0 (modFP 0 0 sz rm)
  | .vadd p d a b v => encV .vadd p d a b 0 v
  | .vsub p d a b v => encV .vsub p d a b 0 v
  | .vmul p d a b v => encV .vmul p d a b 0 v
  | .vfma p d a b c v => encV .vfma p d a b c v
  | .vmin p d a b v => encV .vmin p d a b 0 v
  | .vmax p d a b v => encV .vmax p d a b 0 v
  | .vabs p d a v => encV .vabs p d a 0 0 v
  | .vscl p d a b v => encV .vscl p d a b 0 v
  | .vaxpy p d a b c v => encV .vaxpy p d a b c v
  | .vand p d a b v => encV .vand p d a b 0 v
  | .vor p d a b v => encV .vor p d a b 0 v
  | .vxor p d a b v => encV .vxor p d a b 0 v
  | .vshl p d a b v => encV .vshl p d a b 0 v
  | .vshr p d a b v => encV .vshr p d a b 0 v
  | .vcmp p d a b v => encV .vcmp p d a b 0 v
  | .vsel p d a b c v => encV .vsel p d a b c v
  | .vcmul p d a b v => encV .vcmul p d a b 0 v
  | .vcmac p d a b c v => encV .vcmac p d a b c v
  | .vmov p d a v => encV .vmov p d a 0 0 v
  | .vred p d a v => encV .vred p d a 0 0 v
  | .vdot p d a b v => encV .vdot p d a b 0 v
  | .vscan p d a v => encV .vscan p d a 0 0 v
  | .vcvt p d a v => encV .vcvt p d a 0 0 v
  | .vldg p d a v => encV .vldg p d a 0 0 v
  | .vstg p d a v => encV .vstg p d a 0 0 v
  | .vgath p d a b v => encV .vgath p d a b 0 v
  | .vscat p d a b v => encV .vscat p d a b 0 v
  | .vbcst p d a v => encV .vbcst p d a 0 0 v
  | .viota p d v => encV .viota p d 0 0 0 v
  | .vperm p d a b v => encV .vperm p d a b 0 v
  | .vexp p d a v => encV .vexp p d a 0 0 v
  | .vlog p d a v => encV .vlog p d a 0 0 v
  | .vrcp p d a v => encV .vrcp p d a 0 0 v
  | .vrsq p d a v => encV .vrsq p d a 0 0 v
  | .vsin p d a v => encV .vsin p d a 0 0 v
  | .vcos p d a v => encV .vcos p d a 0 0 v
  | .enq p d a => encA .enq p d a 0 0 0
  | .waitj p a => encA .waitj p 0 a 0 0 0
  | .pollj p d a => encA .pollj p d a 0 0 0
  | .jstat p d a => encA .jstat p d a 0 0 0
  | .zfset p a idx => encA .zfset p 0 a 0 0 idx.val
  | .zfget p d idx => encA .zfget p d 0 0 0 idx.val
  | .sclw p a idx => encA .sclw p 0 a 0 0 idx.val
  | .cbld p a idx => encA .cbld p 0 a 0 0 idx.val
  | .chwp p d idx => encA .chwp p d 0 0 0 idx.val
  | .boxt p d a b => encA .boxt p d a b 0 0
  | .trit p d a b => encA .trit p d a b 0 0
  | .tspush p a => encA .tspush p 0 a 0 0 0
  | .tspop p d => encA .tspop p d 0 0 0 0
  | .tsclr p => encA .tsclr p 0 0 0 0 0
  | .smpl p d a b x => encA .smpl p d a b 0 x.code
  | .sld p d a sz => encA .sld p d a 0 0 sz.code
  | .lset p a b sel => encA .lset p 0 a b 0 sel.val
  | .lget p d a sel => encA .lget p d a 0 0 sel.val
  | .lsplit p a b c => encA .lsplit p 0 a b c 0
  | .lmerge p a b => encA .lmerge p 0 a b 0 0
  | .lreq p d => encA .lreq p d 0 0 0 0
  | .ldone p a => encA .ldone p 0 a 0 0 0
  | .lepoch p a => encA .lepoch p 0 a 0 0 0
  | .wgalloc p d a => encA .wgalloc p d a 0 0 0
  | .wgemit p a b => encA .wgemit p 0 a b 0 0
  | .wgtake p d a b => encA .wgtake p d a b 0 0
  | .wgfree p a => encA .wgfree p 0 a 0 0 0
  | .paya p d => encA .paya p d 0 0 0 0
  | .payp p a b c => encA .payp p 0 a b c 0
  | .trap p imm => encB .trap p 0 0 imm.toNat
  | .rft p => encA .rft p 0 0 0 0 0
  | .srrd p d num => encA .srrd p d 0 0 0 num.toNat
  | .srwr p a num => encA .srwr p 0 a 0 0 num.toNat
  | .bkpt p => encA .bkpt p 0 0 0 0 0
  | .tlbinv p a all => encA .tlbinv p 0 a 0 0 (b2n all)
  | .cinv p a x => encA .cinv p 0 a 0 0 x.code
  | .stopw p sc => encA .stopw p 0 0 0 0 sc.code
  | .resw p sc => encA .resw p 0 0 0 0 sc.code
  | .logmk p a => encA .logmk p 0 a 0 0 0
  | .cntrd p d num => encA .cntrd p d 0 0 0 num.toNat
  | .powerOn _ | .bootRestart _ | .raiseFusedMinimum _ | .getVersion
  | .getCapabilities | .negotiateAlgorithms | .getDigests | .getCertificate _
  | .challenge _ _ | .getMeasurements _ | .spdmUnsupportedRequest _ | .thermalTrip
  | .thermalRelease | .powerThrottleStart | .powerThrottleEnd | .phcmdAssign _
  | .phcmdRelease _ | .releaseScrub _ | .devnumWrite _ | .gpsRetrain _
  | .linkTrainingDone _ _ _ | .portDown _ | .gondolaForward _ | .remoteAccessArrival _
  | .remoteReply _ _ | .remoteAccessTimeout _ | .vfConfigAccess _ | .apertureRead _ _ _
  | .apertureWrite _ _ _ | .hostRegisterWrite _ _ _ | .qdbWrite _ _ _ | .qcfgEnable _ _ _
  | .qcfgDisable _ _ _ | .qcfgPause _ _ _ | .qcfgUnpause _ _ _ | .ifvwWrite _ _
  | .frcfgEnable _ _ | .frcfgDisable _ _ | .fresRetry _ _ | .fresFatalPageflt _ _
  | .fresFatalProt _ _ | .frheadWrite _ _ | .olcfgEnable _ | .launch _ _
  | .rootPlace _ | .launchComplete _ _ | .graphLoad _ _ | .triggerBind _ _
  | .copy _ _ | .copyComplete _ _ | .signal _ _ | .wait _ _
  | .waitSatisfied _ _ | .layerTable _ _ | .headBind _ _ | .exportQueue _ _
  | .exportComplete _ _ | .importQueue _ _ | .trigWrite _ _ _ | .graphNodeLaunch _ _
  | .graphNodeSignal _ _ | .graphNodeLoop _ _ | .graphNodeCond _ _ | .graphNodeEnd _ _
  | .remoteLaunchRequest _ | .remoteLaneStart _ | .remoteLaunchResult _ _ | .remoteLaunchTimeout _
  | .dploadWrite _ _ _ | .policyCheckDone _ | .operatorDisclosureRead _ _ | .operatorDebugStop _ _
  | .debugStopAck | .disclosureIntervalEnd _ | .frameTick | .frameEncode
  | .ecfgKeySet _ _ _ | .threadCreate _ _ | .frameDelivery _ _ | .stealRequest _ _
  | .stealServe _ _ | .stealReplyArrival _ _ | .stealRetryTimeout _ _ | .terminationCount _ _
  | .rotationBoundary _ | .threadDisplace _ _ | .displacedResume _ | .drcfgBind _ _ _
  | .drcfgUnbind _ _ _ | .dtailWrite _ _ _ | .dispenserDeliver _ | .wgdaBind _ _ _
  | .wgdaUnbind _ _ | .wgBatchTimeout _ _ | .wgBatchDeliver _ | .payloadFrameDeliver _
  | .channelWake _ _ | .proxyBatchTimeout _ _ | .proxyDelivery _ | .proxyCreditReturn _
  | .coreSleep _ | .coreWake _ _ | .ldfWake _ _ | .storeBufferDrain _ _
  | .sliceAtomic _ | .watchWake _ _ | .watchPoll _ _ | .tableWalk _ _ _
  | .faultMessage _ _ | .releaseProbeEcho _ _ _ | .storeAck _ | .joinwWake _ _
  | .kwaitWake _ _ | .parkExpire _ _ | .lreqWake _ | .payaWake _
  | .spawnRingWake _ _ | .stopwComplete _ _ | .tlbinvComplete _ _ | .vectorEntryPerform _ _
  | .lateTrapEntry _ _ | .enqAccept _ _ | .waitjWake _ _ | .engineBadcmd _ _
  | .lds _ | .mma _ | .sta _ | .aclr _
  | .swaps _ | .cmma _ | .mstat _ | .fft _
  | .ifft _ | .xact _ | .cpy _ _ | .gthr _ _
  | .sctr _ _ | .fill _ _ | .ared _ _ | .bcst _ _
  | .agth _ _ | .collectiveContribution _ | .collectiveTimeout _ _ | .hcfgWrite _ _ _ _
  | .cpreqPreempt _ _ _ | .preemptSave _ | .cpreqResume _ _ _ | .dbgsStop _ _ _
  | .dbgsResume _ _ _ | .dbgdRead _ _ _ | .dbgdWrite _ _ _ | .eccCorrected _
  | .eccUncorrectable _ | .machineCheck _ | .ocfgEnable _ _ _ | .stateLogTimeout _
  | .ringFetchFault _ _ | .badpkt _ _ | .acceptanceReply _ => []

/-- Whether a constructor is an instruction of the Kamlyn set, and not a whole-device event. -/
def Instr.isCode (i : Instr) : Bool := encode i != []

/-- The instruction that the decoder reads from an instruction whose bits are `w`, bit 0 the least significant bit of
the first word. Words are stored little-endian, the first at the lower address (R6); bits above `nbits` are 0. -/
def decodeTableWord (nbits w : Nat) : Option Instr :=
  let v := w % 2 ^ nbits
  match decode (leBytes 16 v) with
  | .ok i => some i
  | .error _ => none

end Sys2Proof
end

