-- ==== Sys2Proof/Machine/State.lean ====
section
/-!
DEFINITION. The state of the ZN-4096: package, partitions, launches, clusters, cores, threads, everything in flight
between them, and the memories. Plain data throughout: maps are sorted lists of key and value pairs, an unlisted key
reads as the default that the accessor names. INVENTORY.md lists each field with the rule that names it.
-/

namespace Sys2Proof.Machine

/-- A map from natural numbers, keys strictly rising. -/
abbrev KMap (α : Type) := List (Nat × α)

/-- Bytes by address, in one canonical form: addresses strictly rising, no entry equal to 0 (what an unlisted byte
reads as, log entry 4). -/
abbrev Memory := List Host.Cell

/-! ### Traps and parking -/

/-- Trap causes (R251), with the two codes that appear only in SUB. -/
inductive Cause where
  | illop | illopnd | illmod | window | align | pageflt | prot | domain | fmtmis | vlate | elate | mcnt | poison
  | swtrap | bkpt | preempt | illlen | priv
  deriving DecidableEq, Repr

/-- Kinds of access (R190): the codes of TCAUSE.ACC. -/
inductive Acc where
  | read | write | exec
  deriving DecidableEq, Repr

/-- A late cause due at a thread (R252, R256). -/
structure Late where
  cause : Cause
  sub : Nat
  acc : Nat
  iter : Nat
  val : Word
  seq : Nat
  /-- Address of the instruction that the cause comes from: the vector instruction, or the job's ENQ (R141). -/
  pc : Word
  deriving DecidableEq, Repr

/-- Which instruction waits on a word: WATCH, a barrier (BAR, BARW), JOINW. -/
inductive WordWait where
  | watch | barrier | join
  deriving DecidableEq, Repr

/-- How a thread that waits on a word learns of it (R181): the home slice's watch table holds it, a wake packet is on
its way, or its core reads the word again at a core cycle. -/
inductive Watching where
  | table
  | packet
  | poll (at' : Nat)
  deriving DecidableEq, Repr

/-- What a parked thread waits for (R2): one constructor for each way an instruction parks. -/
inductive Why where
  /-- Channel entries or room (R152, R153): the channels it pops, one for each pop (QPEEK: looks at), and the one it
  pushes to. -/
  | chan (reads : List Nat) (write : Option Nat) (peek : Bool)
  /-- The thread's earlier vector entries that access the cells of an access to global memory (R380). -/
  | vcell (ea : Word) (size : Nat)
  /-- A full cell of local memory (R167), to be consumed or not. -/
  | ldf (cell : Nat) (cn : Bool)
  /-- A word that satisfies a comparison: WATCH, BARW, BAR, JOINW (R181, R353, R356, R112). -/
  | word (ea : Word) (size : Nat) (cmp : WCmp) (ref : Word) (how : Watching) (wait : WordWait)
  /-- A k register (R359). -/
  | kwait (k : Nat) (cmp : WCmp) (ref : Word)
  /-- The conditions of a release (R206). -/
  | rel
  /-- A translation fault awaiting resolution (R190): page address, kind of access, 1 not present or 2 permission. -/
  | fault (va : Word) (acc : Acc) (kind level : Nat)
  /-- Room in the store buffer (R176). -/
  | sbFull
  /-- Room below 2^32 - 1 in UNACK (R175). -/
  | unack
  /-- The reply of a remote access already sent (R26, R348). -/
  | remote (id : Nat)
  /-- A number of core cycles (PARK), or the next rotation boundary (YIELD), at a core cycle: R364. -/
  | until (cycle : Nat)
  | yield (cycle : Nat)
  | lreq
  | wgalloc
  | paya
  /-- Room in a spill ring or on chip (R104). -/
  | spawnRing
  /-- Every thread of the instance stopped (R222). -/
  | stopw (sc : Scope)
  /-- The dies' reports of an invalidation (R341). -/
  | tlbinv (at' : Nat)
  /-- A job of the cluster complete (R389). -/
  | job (eng seq : Nat)
  /-- Earlier vector entries of the thread complete (R169, R355). -/
  | vsync
  /-- Path fences (R355): vector entries performed, jobs complete. -/
  | pfence (k : PathKind)
  /-- Entries of a bound channel sent and acknowledged (R358). -/
  | qbind (ch : Nat) (acks : Bool)
  /-- Entries (core and sequence number) and jobs (engine and sequence number) that use a codebook table complete
  (R393). -/
  | cbld (table : Nat) (entries jobs : List (Nat × Nat))
  /-- An ENQ entry accepted (R386); the thread issues nothing until then. -/
  | enq (seq : Nat)
  deriving DecidableEq, Repr

structure Park where
  why : Why
  /-- Arrival stamp: lower is older (FIFO service). -/
  stamp : Nat
  /-- The core cycle at which the thread parked. -/
  since : Nat
  deriving DecidableEq, Repr

/-- How far the instruction at PC has gone: cleared when it retires. -/
structure Prog where
  /-- The FIFO position it holds, kept through displacement (R131, R172, R431). -/
  stamp : Option Nat
  /-- A BAR's arrival has been performed (R356). -/
  arrived : Bool
  /-- What a wake handed over: a record address, a layer handle, a slot address (R128, R130, R428). -/
  handed : Option Word
  /-- The reply of a remote access (R26); `none` in it means no response. -/
  reply : Option (Option RemReply)
  /-- Its release has completed (R206). -/
  released : Bool
  /-- Its path fence, invalidation or stop has completed. -/
  finished : Bool
  /-- The address of a fault that resolution made fatal (R193), the kind of access, and the cause. -/
  fatal : Option (Word × Acc × Cause)
  /-- The k registers as the instruction read them at its issue (R320), from its first park on. -/
  kseen : Option (KMap Word)
  /-- The channel entries that it read at its issue (R320), by channel and in order, where it parked after that. It claims
  them: they stay in their channels, where no other instruction reads past it, and are popped when it completes (R153). -/
  took : Option (List (Nat × Word))
  /-- It has parked and been woken: it has issued, so a late cause waits until it completes (R249). -/
  woken : Bool
  deriving DecidableEq, Repr

/-- A release in progress (R206): slices whose echo is still out, and the store-buffer entries, by sequence number,
that were in the core's buffer when it began. -/
structure Rel where
  scope : Scope
  probed : Bool
  probes : List Nat
  entries : List Nat
  deriving DecidableEq, Repr

/-- A thread: the context of R263, and what the core keeps of it while it runs. TORG is not a field: it is read off
TPC and the launch's splice map (R142). -/
structure Thread where
  lid : Nat
  /-- Privilege level: 0 APP, 1 KER, 2 FW (R34). -/
  pl : Nat
  pc : Word
  /-- Level state, as the TAG of the frame (R100). -/
  tag : Word
  /-- p0 to p7; bit 0 is always 1 (R8, R146). -/
  preds : BitVec 8
  sth : Nat
  base : Nat
  lim : Nat
  mode : Word
  tvec : Word
  tpc : Word
  tcause : Word
  tval : Word
  tseq : Word
  ts0 : Word
  ts1 : Word
  ts2 : Word
  ts3 : Word
  tsbase : Word
  tjoin : Word
  unack : Nat
  dqbase : Word
  cpstat : Word
  /-- The traversal stack: the register's entries, bottom first, and DEPTH (R420). -/
  tsreg : List Word
  tsdepth : Nat
  /-- Touched slices, rising (R206, R209). -/
  touched : List Nat
  /-- It runs the fused code of its launch: its frame started there (R137, R142). -/
  spliced : Bool
  /-- A frame of it counts under R113. -/
  counts : Bool
  /-- Created by TNEW (R363). -/
  tnew : Bool
  /-- Idle in WFW (R361). -/
  idle : Bool
  park : Option Park
  prog : Prog
  /-- What an instruction that a resumption would have continued had done when the thread's handler was entered before it
  ran again (R265, R356): its address, and how far it had gone. -/
  begun : Option (Word × Prog)
  rel : Option Rel
  late : List Late
  /-- Ending as by EXIT after a fatal trap (R250). -/
  ending : Bool
  /-- A debug stop holds it, or will at its next boundary (R271). -/
  dbg : Bool
  /-- The STOPWs that hold it stopped: the stopper's core and thread number, and the scope's code (R222). -/
  stopped : List (Nat × Nat × Nat)
  /-- Its instruction in flight retires at this core cycle (R144). -/
  busy : Nat
  /-- The mesh group it runs for: cluster and payload slot (R130). -/
  mesh : Option (Nat × Nat)
  /-- A core pre-emption saved it, at this fabric cycle, and it is not back in a slot (R251, R265). -/
  savedAt : Option Nat
  /-- While it is in no slot: its registers that were poisoned (R171). -/
  badRegs : List Nat
  deriving DecidableEq, Repr

/-! ### Core -/

/-- A slot's owner (R116, R118): the queue, and the queue it is marked to go to. -/
structure Owner where
  queue : Nat
  take : Option Nat
  deriving DecidableEq, Repr

/-- A bound channel's true queue (R154). -/
structure Bind where
  dev : Nat
  core : Nat
  chan : Nat
  credits : Nat
  /-- Entries sent whose credit has not returned (R154). -/
  out : Nat
  /-- Number of the binding: a credit of an earlier binding is void. -/
  gen : Nat
  deriving DecidableEq, Repr

/-- Where a forwarded entry came from (R154): a channel of a core of this device under a binding, or a batch of
a core of another device by its number there. -/
inductive Source where
  | core (core chan gen : Nat)
  | device (dev core id : Nat)
  deriving DecidableEq, Repr

/-- A channel (R152): its entries, oldest first, each with the number of the thread that pushed it. On a bound channel
these are the entries not yet sent, and `since` is when the first of them was pushed. `src` lists, for the entries
that came by proxy, where their credit goes back to. -/
structure Chan where
  vals : List (Word × Nat)
  bind : Option Bind
  since : Nat
  /-- The batch is due and leaves as credits return (R154, R365). -/
  due : Bool
  src : List (Option Source)
  deriving DecidableEq, Repr

/-- A cache line tagged by TSID and address (R145, R176, R213), and whether it is poisoned (R266). -/
structure Line where
  tsid : Nat
  addr : Nat
  data : List Byte
  bad : Bool
  deriving DecidableEq, Repr

/-- A store-buffer entry (R176): physical address, bytes, the storing thread, its slice, a sequence number. -/
structure SbEntry where
  seq : Nat
  tsid : Nat
  addr : Nat
  data : List Byte
  sth : Nat
  lid : Nat
  slice : Nat
  deriving DecidableEq, Repr

/-- A TLB entry (R187): the page's virtual base and size, its physical base, permissions and A, D state. -/
structure TlbEntry where
  tsid : Nat
  va : Nat
  size : Nat
  pa : Nat
  r : Bool
  w : Bool
  x : Bool
  u : Bool
  d : Bool
  deriving DecidableEq, Repr

/-- A walk-cache entry (R187): a table pointer of level 1 to 4, found under a table root (R182). -/
structure WalkEntry where
  tsid : Nat
  root : Nat
  level : Nat
  va : Nat
  next : Nat
  deriving DecidableEq, Repr

/-- State of a ring entry (R254, R264): `remote` awaits the reply of a remote access (R26). -/
inductive EntSt where
  | waiting | faulted | held | parked (va : Word) (acc : Acc) (kind level : Nat) | fatal (va : Word) (acc : Acc) (cause : Cause)
  | remote (id : Nat)
  deriving DecidableEq, Repr

/-- An entry of the dispatch ring (R253, R264): the instruction with its captured values. For an ENQ the four values
are the quarters of the TCW. -/
structure Entry where
  seq : Nat
  sth : Nat
  lid : Nat
  word : Nat
  ext : Nat
  instr : Instr
  v0 : Word
  v1 : Word
  v2 : Word
  v3 : Word
  z0 : Nat
  z1 : Nat
  z2 : Nat
  z3 : Nat
  mode : Nat
  te : Bool
  scl : Word
  iter : Nat
  st : EntSt
  dst : Code
  /-- Replies of the remote reads of the segment at ITER, in order; `none` where no response came (R26). -/
  got : List (Option Nat)
  /-- Dispatched while the thread ran its handler (R254). -/
  inHandler : Bool
  /-- Address of the instruction (R141). -/
  pc : Word
  deriving DecidableEq, Repr

/-- A deque entry (R100). -/
structure DqEntry where
  words : List Word
  tag : Word
  lid : Nat
  sth : Nat
  deriving DecidableEq, Repr

/-- A frame on its way to a thread: the eight words, the level state, and the mesh slot it comes from, if any. -/
structure Frame where
  words : List Word
  tag : Word
  lid : Nat
  mesh : Option (Nat × Nat)
  deriving DecidableEq, Repr

/-- A frame that the Piste interface of a core holds for a thread (R131, R264): KIND as a message record has it (2 steal
reply, 3 dispenser, 4 graph batch, 5 payload), the slot of the thread, and the frame. -/
structure Coming where
  kind : Nat
  slot : Nat
  frame : Frame
  deriving DecidableEq, Repr

/-- Steal state of a core for a launch (R109). -/
inductive Steal where
  /-- The request is at this victim; the victims of the round that are still to be asked. -/
  | asked (victim : Nat) (rest : List Nat)
  /-- A reply with an entry is on its way. -/
  | reply (e : DqEntry)
  /-- The entry has arrived, and is source 5 of R106. -/
  | here (e : DqEntry)
  /-- Every victim answered none; the round starts again at this cycle. -/
  | retry (at' : Nat)
  deriving DecidableEq, Repr

/-- A pre-emption of the core (R260, R261): the buffer named, the requester (core and thread number) and the stage:
1 stopping and draining, 2 saved and outstanding, 3 resuming. -/
structure Preempt where
  buf : Word
  byCore : Nat
  bySth : Nat
  stage : Nat
  /-- Of the ring entries saved, by their old numbers: dispatched inside a handler, and the address (R141, R254). -/
  marks : List (Nat × Bool × Word)
  deriving DecidableEq, Repr

/-- A state-change entry gathered for the log (R270). -/
structure SlogEntry where
  delta : Nat
  slot : Nat
  st : Nat
  pc : Word
  org : Nat
  time : Nat
  lid : Nat
  deriving DecidableEq, Repr

/-- The shared registers of a core by their latest writes, newest first: core cycle and value (R150). -/
abbrev KReg := List (Nat × Word)

structure Core where
  threads : KMap Thread
  owners : KMap Owner
  regs : KMap Word
  regPoison : List Nat
  kregs : KMap KReg
  chans : KMap Chan
  lmem : Memory
  full : List Nat
  /-- Of the cells that an STF filled, the code of its scope; a full cell not listed was filled by an engine, a proxy
  delivery or a remote AMO result, at CORE scope (R212). -/
  fillers : KMap Nat
  fx : List Nat
  lpoison : List Nat
  zf : KMap Nat
  claims : KMap Nat
  resident : List Nat
  scl : KMap Word
  te : Bool
  seqnow : Nat
  trcfg : Nat
  slcfg : Nat
  cevs : KMap Word
  ctrs : KMap Nat
  ring : List Entry
  dcache : List Line
  sbuf : List SbEntry
  tlb : List TlbEntry
  icache : List Line
  deque : List DqEntry
  /-- Spill rings by launch: index of the oldest entry, and for each entry, oldest first, the number of the thread that it
  is for where its DOM is 0 (R104, R101, R106). -/
  spill : KMap (Nat × List (Option Nat))
  /-- Displaced threads in the order they resume, with the values of their windows (R120). -/
  displaced : List (Thread × List Word)
  /-- What the core keeps of the threads that a pre-emption saved: the fields no slot record holds, and what becomes due
  meanwhile (R131, R172, R256, R261). -/
  saved : List Thread
  /-- Frames that a resumption brought back and that no thread has taken yet (R264, R265). -/
  arrived : List Coming
  /-- Frames of the cluster's sources that are being delivered to threads in WFW (R131). -/
  coming : List Coming
  /-- By bound channel, the numbers of the threads that pushed the entries a pre-emption spilled (R264, R175). -/
  pushers : KMap (List Nat)
  steals : KMap Steal
  /-- The last victim asked, by 4·launch + ring (R109). -/
  lastVictim : KMap Nat
  /-- Reads of spill rings that await the resolution of a fault, by launch and place in the ring (R104, R193). -/
  spillWait : List (Nat × Nat)
  slog : List SlogEntry
  slogLast : Nat
  /-- By slot, the state that the log last gave it, and since which core cycle (R270). -/
  slogState : KMap (Nat × Nat)
  preempt : Option Preempt
  asleep : Bool
  idleSince : Nat
  nextSth : Nat
  lastRot : Nat
  issueP : Nat
  deriving DecidableEq, Repr

/-! ### Cluster -/

/-- Status of a job (R390). -/
inductive JobSt where
  | queued | running | parked (va : Word) (acc : Acc) (kind level : Nat) | done | fault (sub : Nat) | badcmd | abort
  /-- Awaiting the reply of a remote read, the acknowledgement of remote writes, or contributions (R26, R410): running,
  as JSTAT shows it. -/
  | remote | acks | gathering
  deriving DecidableEq, Repr

/-- A job of an engine (R387, R390). -/
structure Job where
  eng : Nat
  seq : Nat
  core : Nat
  sth : Nat
  lid : Nat
  part : Nat
  q0 : Word
  q1 : Word
  q2 : Word
  q3 : Word
  zx : Nat
  zw : Nat
  mode : Nat
  te : Bool
  scl : Word
  enqSeq : Nat
  st : JobSt
  donec : Nat
  acceptedAt : Nat
  acceptedFab : Nat
  started : Bool
  fatal : Option (Word × Acc × Cause)
  fadr : Word
  /-- The reply of the remote read of the row at DONE; `none` in it means no response. -/
  got : Option (Option RemReply)
  /-- Remote writes not yet acknowledged, and the SUB of one that failed. -/
  out : Nat
  failed : Option Nat
  /-- Ranks whose piece of an all-gather has been written. -/
  pieces : List Nat
  /-- The index table and the descriptor that the job read at its start (R407, R410); of CPY, FILL and a collective, `idx` holds
  the ZF values of zones on other devices that it has asked for. -/
  idx : List Nat
  desc : List Word
  /-- Enqueued while the thread ran its handler (R250). -/
  inHandler : Bool
  /-- Address of the ENQ (R141). -/
  pc : Word
  /-- ZF values, taken when the job starts, of the zones of the cluster's other cores that it uses, by core (R386). -/
  zfs : KMap Nat
  /-- The first half of the current block or row is done: its weights are loaded and swapped in (R399), or its write on
  another device is sent (R26). -/
  half : Bool
  /-- Bytes that the last remote row to be acknowledged wrote (R394). -/
  wrote : Nat
  /-- Zones that accesses of a fused consumer's job go to instead, as its acceptance found them (R138). -/
  zmap : KMap Nat
  /-- Which collective of its TAG and descriptor it belongs to, in acceptance order (R410). -/
  no : Nat
  deriving DecidableEq, Repr

/-- An exact finite number m·2^e, as weight planes hold it, or a special value. -/
inductive Val where
  | fin (neg : Bool) (m : Nat) (e : Int)
  | inf (neg : Bool)
  | nan
  deriving DecidableEq, Repr

/-- An accumulator tile (R399, R404): FP32 patterns by 128·row + column (unlisted +0), tag, counters and threshold. -/
structure Tile where
  vals : KMap Nat
  spectral : Bool
  sat : Nat
  nan : Nat
  bso : Nat
  thr : Nat
  /-- Poisoned cells, eight values each (R266). -/
  poison : List Nat
  deriving DecidableEq, Repr

/-- The dispenser of a cluster (R123). -/
structure Disp where
  base : Word
  log2sz : Nat
  en : Bool
  closing : Bool
  lid : Nat
  part : Nat
  head : Nat
  tail : Nat
  tag : Word
  last : Nat
  parked : Option (Word × Nat × Nat)
  deriving DecidableEq, Repr

/-- A batch of the work graph (R128): node, handle, records in emission order, how many are not yet freed, whether
delivered. -/
structure Batch where
  node : Nat
  handle : Nat
  recs : List Nat
  live : List Nat
  delivered : Bool
  deriving DecidableEq, Repr

/-- A node of a bound work graph (R126). -/
structure WgNode where
  entry : Word
  b : Nat
  t : Nat
  join : Word
  /-- The pending batch: records, and t0. -/
  pend : List Nat
  t0 : Nat
  deriving DecidableEq, Repr

/-- A bound work graph (R127, R429). -/
structure WGraph where
  addr : Word
  lid : Nat
  part : Nat
  tag : Word
  pool : Word
  p : Nat
  nodes : List WgNode
  /-- Records allocated and not emitted: record, node. -/
  alloc : KMap Nat
  batches : List Batch
  deriving DecidableEq, Repr

/-- A payload slot (R130): 0 free, 1 held, 2 published; the launch, and the mesh group. -/
structure PaySlot where
  st : Nat
  lid : Nat
  part : Nat
  entry : Word
  n : Nat
  next : Nat
  exited : Nat
  tag : Word
  deriving DecidableEq, Repr

/-- How many collectives a member has joined under a TAG and a descriptor (R410): those below `next`, and those in `ahead`. -/
structure CollNo where
  tag : Nat
  rank : Nat
  desc : List Word
  next : Nat
  ahead : List Nat
  deriving DecidableEq, Repr

/-- A cluster: its engines' queues and memories, its dispenser, work graph and payload slots. -/
structure Cluster where
  jobs : KMap (List Job)
  nextSeq : KMap Nat
  /-- Jobs accepted since partition assign, by engine. -/
  accepted : KMap Nat
  /-- Statuses of completed jobs by 2^14·engine + sequence number. -/
  past : KMap Job
  active : KMap Val
  shadow : KMap Val
  tiles : KMap Tile
  chanPtr : KMap Nat
  codebook : KMap (List Nat)
  cbPoison : List Nat
  hist : KMap (List Nat)
  histFrozen : List Nat
  hcfg : KMap Word
  ectrs : KMap Nat
  esel : KMap Word
  scache : List Line
  ctlb : List TlbEntry
  disp : Disp
  wg : Option WGraph
  wgcode : Nat
  wgstate : Nat
  payb : Word
  pays : KMap PaySlot
  contribs : List Contribution
  collNos : List CollNo
  /-- By engine, the core whose ENQ its queue looks at first (R170). -/
  rr : KMap Nat
  /-- The cores that received the last frames of the work graph and of the payload slots (R125, R128, R130). -/
  wgLast : Nat
  payLast : Nat
  deriving DecidableEq, Repr

/-! ### Partition: Lodge and Rink -/

/-- A command queue (R54). -/
structure Queue where
  tail : Nat
  head : Nat
  base : Word
  log2sz : Nat
  ken : Bool
  pause : Bool
  en : Bool
  err : Nat
  qst : Nat
  qdtw : Word
  qdtb : Word
  imported : Bool
  /-- How often EN has been set: packets of an earlier setting run to completion (R57). -/
  ep : Nat
  /-- The consumer of a pair that Binding refused: its packet number and the reason (R66, R135). -/
  pair : Option (Nat × Nat)
  /-- What the slots of the packets that a doorbell has announced held then, by packet number (R58). -/
  posted : KMap (List Word)
  deriving DecidableEq, Repr

/-- What a started packet or node waits for. -/
inductive PktSt where
  | launch (lid : Nat)
  | copy
  | wait
  | trigger (n : Nat) (need : Nat)
  | layer
  | head
  | exportQ
  /-- A remote launch: its number, whether its acceptance has come, and the Gondola port that its request left by (R29, R74);
  16 where it left by none, 17 where it was lost with its port. -/
  | remote (id : Nat) (accepted : Bool) (port : Nat)
  deriving DecidableEq, Repr

/-- A packet started and not completed (R62). `k` is its number in the queue's ring, `ep` the setting of EN that it belongs
to (R57). -/
structure Pkt where
  q : Nat
  k : Nat
  ep : Nat
  words : List Word
  tstart : Nat
  bref : Nat
  st : PktSt
  deriving DecidableEq, Repr

/-- A level of a launch (R95). -/
structure Level where
  domc : Nat
  scope : Nat
  count : Nat
  deriving DecidableEq, Repr

/-- Where a launch comes from: packets of a queue (two for a fused pair), a node of a trigger's run, a remote launch. -/
inductive Origin where
  | packet (q k ep : Nat) (second : Option Nat)
  | node (trig n : Nat)
  | remote (id sdev : Nat)
  deriving DecidableEq, Repr

/-- Fusion data of a launch (R136, R137, R141). -/
structure Fused where
  code : Word
  clen : Nat
  /-- FUSN: bytes of the fused area. -/
  size : Nat
  /-- By code word: origin (plus 4 when the owning site is the consumer's) and DOFF (R141). -/
  orgs : List (Nat × Nat)
  image : List Word
  pbody : Word
  cbody : Word
  wp : Nat
  /-- Zones of the consumer whose accesses go to a zone of the producer (R138). -/
  zoneMap : List (Nat × Nat)
  fatalC : Nat
  /-- Where the matched tile-outs stand, or stood, in the fused code: address, words, and whether it is kept (R138). -/
  tileOuts : List (Nat × Nat × Nat × Bool)
  /-- Memory, address and bytes, that removed and kept tile-outs have come to so far (R139). -/
  elided : List (Nat × Nat)
  kept : List (Nat × Nat)
  deriving DecidableEq, Repr

/-- A launch (R95, R113). -/
structure Launch where
  lid : Nat
  entry : Word
  win : Nat
  nlev : Nat
  queue : Nat
  wgt : Nat
  pcls : Nat
  pl : Nat
  zmask : Nat
  zf : List Nat
  splc : Word
  levs : List Level
  args : List Word
  spill : Word
  spn : Nat
  rjoin : Word
  placed : Bool
  /-- Frames counted at Lodge, and the changes counted at clusters, quadrants and dies that have not moved up yet (R113). -/
  pkgCount : Int
  moving : KMap Int
  movingQ : KMap Int
  movingD : KMap Int
  fatals : Nat
  origin : Origin
  fused : Option Fused
  deriving DecidableEq, Repr

/-- A node of a resident graph (R67). -/
structure GNode where
  kind : Nat
  bar : Bool
  next : Nat
  alt : Nat
  a : Word
  b : Word
  c : Nat
  deriving DecidableEq, Repr

/-- A graph slot (R67): nodes, entry, and KEN of the loading queue. -/
structure GSlot where
  nodes : List GNode
  entry : Nat
  ken : Bool
  deriving DecidableEq, Repr

/-- A run of a graph (R68): its graph slot, the node it stands at, loop counts, launches not completed, and whether the
launch of the node waits to be placed. -/
structure GRun where
  slot : Nat
  node : Nat
  loops : KMap Nat
  open' : List Nat
  waits : Bool
  deriving DecidableEq, Repr

/-- A trigger register (R69): completed runs, the bound graph slot (255 for none), STATE, and the run in progress. -/
structure Trig where
  runs : Nat
  slot : Nat
  st : Nat
  run : Option GRun
  deriving DecidableEq, Repr

/-- A fault record awaiting resolution (R192): sequence number, page, access, kind. -/
structure FRec where
  seq : Nat
  page : Nat
  acc : Acc
  kind : Nat
  deriving DecidableEq, Repr

/-- A fault message on its way to Lodge or waiting there (R190). -/
structure FMsg where
  page : Nat
  acc : Acc
  kind : Nat
  level : Nat
  /-- Lodge has received it, and it waits for room in the ring. -/
  arrived : Bool
  deriving DecidableEq, Repr

/-- A head's binding (R94). -/
structure HeadBind where
  enc : Nat
  codec : Nat
  mode240 : Bool
  buf : Word
  len : Nat
  deriving DecidableEq, Repr

/-- A display head (R82, R91). -/
structure Head where
  bind : Option HeadBind
  pendBind : Option (Option HeadBind)
  frame : Nat
  lxcl : Nat
  fdrop : Nat
  first : Bool
  seen : KMap Nat
  deriving DecidableEq, Repr

/-- An encoder (R91, R93), with the previous frame as it is coded, which the next predicts from (R92). -/
structure Enc where
  qp : Nat
  key : Bool
  edrop : Nat
  ewp : Nat
  prev : Picture
  deriving DecidableEq, Repr

/-- A sampled frame (R80): covered pixels by y·65,536 + x, each R + 256·G + 65,536·B; the others are black. -/
structure Sample where
  head : Nat
  bind : HeadBind
  frame : Nat
  key : Bool
  qp : Nat
  pixels : KMap Nat
  deriving DecidableEq, Repr

/-- The Rink of a partition (R75 to R94). -/
structure Rink where
  table : Option (Word × Nat)
  pending : Option (Word × Nat)
  queue : List Nat
  lepc : KMap Nat
  heads : KMap Head
  encs : KMap Enc
  samples : List Sample
  deriving DecidableEq, Repr

/-- A disclosure policy (R47): SEQ, MINIV, and the level of each class. -/
structure Policy where
  seq : Nat
  miniv : Nat
  levels : KMap Nat
  deriving DecidableEq, Repr

/-- A launch accepted from another device and not yet started (R74). -/
structure LaneEntry where
  id : Nat
  sdev : Nat
  lrec : List Byte
  deriving DecidableEq, Repr

/-- A partition (R31 to R38): 1 live, 2 releasing, 3 stopped by machine-check. -/
structure Part where
  st : Nat
  tsid : Nat
  oki : Nat
  keyGen : Nat
  quads : List Nat
  headm : Nat
  encm : Nat
  keyBlock : List Byte
  policy : Option Policy
  dpSeq : Nat
  dpCode : Nat
  dpState : Nat
  dpAddr : Word
  queues : KMap Queue
  apbase : Word
  want : Nat
  grant : Nat
  frbase : Word
  frlog2 : Nat
  fren : Bool
  frhead : Nat
  frtail : Nat
  frecs : List FRec
  fmsgs : List FMsg
  graphs : KMap GSlot
  trigs : KMap Trig
  pkts : List Pkt
  launches : KMap Launch
  nextLid : Nat
  rootPtr : Nat
  rltb : Word
  rltn : Nat
  /-- The remote-access table (R26): source devices and TSIDs that it admits. -/
  rat : List (Nat × Nat)
  lane : List LaneEntry
  rink : Rink
  ptbr : Word
  obase : Word
  olog2 : Nat
  oen : Bool
  odrop : Nat
  ohead : Nat
  otail : Nat
  dbgs : Word
  dbga : Word
  slsel : KMap Word
  slctrs : KMap Nat
  /-- Slice counters that passed THR and whose notice is still to be made: number and value (R273). -/
  notices : List (Nat × Nat)
  corrected : Nat
  uncorrected : Nat
  fatals : Nat
  /-- The count of fatal faults as the operator sees it (R53). -/
  fatalsShown : Nat
  /-- The level-1 figures of the interval that ended last, by class and code (R50). -/
  figures : KMap Nat
  /-- Level-1 sums gathered in the running interval, by class and code (R50). -/
  gather : KMap Nat
  intervalAt : Nat
  /-- The queue that Lodge looks at first for the next packet to start (R59). -/
  rrq : Nat
  /-- When its release was accepted, in fabric cycles, not counting the time of trips (R38). -/
  relAt : Nat
  /-- The operator has stopped the whole partition (R50, R215): threads made later stand stopped too. -/
  opHalt : Bool
  deriving DecidableEq, Repr

/-! ### Package -/

/-- A Gondola port (R23). -/
structure Port where
  verg : Nat
  vero : Nat
  peer : Nat
  st : Nat
  deriving DecidableEq, Repr

/-- What is in flight on the Piste between a core and a home: an effect that is sent and not yet performed, or
performed and not yet acknowledged. -/
inductive Flight where
  /-- A store to a window address of another core. -/
  | wstore (core off : Nat) (data : List Byte) (setFull : Bool)
  /-- RED and FRED at a slice: physical address, size, operation. -/
  | red (tsid pa size : Nat) (op : AtOp) (v : Nat)
  | fred (tsid pa size : Nat) (op : FAtOp) (v : Nat)
  /-- RED and FRED at another core's port, with the sender's TE (R227). -/
  | wred (core off size : Nat) (op : AtOp) (v : Nat) (te : Bool)
  | wfred (core off size : Nat) (op : FAtOp) (v : Nat) (te : Bool)
  /-- A proxy batch: destination core and channel, values with the pushing threads. `here`: it has arrived, and waits for
  room in the true queue. -/
  | proxy (core chan : Nat) (vals : List (Word × Nat)) (fromChan gen : Nat) (here : Bool)
  /-- A batch from a core of another device, by its number there, for a true queue of this core, where it may wait for
  room. -/
  | inbox (chan dev score req : Nat) (vals : List Word)
  /-- A credit on its way back to a core's channel. -/
  | credit (core chan gen : Nat)
  /-- A batch sent to another device, and the credits still out for one that was delivered there. -/
  | gpush (req : RemReq) (chan gen : Nat) (vals : List (Word × Nat)) (at' : Nat)
  | gcred (chan gen n : Nat)
  /-- Performed: only the acknowledgement is still out, for `n` accesses. -/
  | ack (n : Nat)
  /-- A vector store to another device's window, awaiting its acknowledgement: it does not count in UNACK (R380). -/
  | vstore (req : RemReq) (at' : Nat)
  /-- A read of a vector entry on another device. -/
  | vload (req : RemReq) (seq : Nat) (at' : Nat)
  /-- A read and a write of an engine's job (engine and sequence number) on another device. -/
  | jload (req : RemReq) (eng seq : Nat) (at' : Nat)
  | jstore (req : RemReq) (eng seq : Nat) (at' : Nat)
  /-- A remote access sent over Gondola, awaiting its response. -/
  | gond (req : RemReq) (returns : Bool) (at' : Nat)
  deriving DecidableEq, Repr

/-- Something in flight, and what sent it. -/
structure Sent where
  id : Nat
  /-- The Gondola port by which it left the device; 16 for what stays on it, 17 for what was lost with its port (R29, R30). -/
  port : Nat
  core : Nat
  sth : Nat
  lid : Nat
  what : Flight
  deriving DecidableEq, Repr

/-- A line of a home slice (R179): the 256-byte block at a physical address, the sectors that it holds as a mask of 8, and
the TSID. Its bytes are those of DRAM, which a slice writes through in this model. -/
structure SliceLine where
  tsid : Nat
  addr : Nat
  sectors : Nat
  deriving DecidableEq, Repr

/-- A watch-table entry (R181): its waiters are core and thread number. -/
structure Watch where
  tsid : Nat
  addr : Nat
  size : Nat
  cmp : WCmp
  ref : Nat
  waiters : List (Nat × Nat)
  deriving DecidableEq, Repr

/-- What the device answered or sent outside: SPDM answers (R45), completions of host reads (R20, R21), operator
answers (R50, R53), MSI-X (R192), and packets to other devices (R26, R30, R73, R74, R410). -/
inductive Answer where
  | version (n : Nat)
  | capabilities (flags : Nat)
  | algorithms (asym hash : Nat)
  | digests (chain : List Byte)
  | certificate (chain : List Byte)
  | challenge (signature : List Byte)
  | measurement (index : Nat) (value : List Byte)
  | error (code : Nat)
  | hostRead (v : Nat) (ok : Bool)
  | unsupported
  | disclosed (v : Nat)
  | stop (performed : Bool)
  | msix (part vec : Nat)
  | lane (id sdev code : Nat)
  | report (id sdev : Nat) (res : RemResult)
  /-- Something that leaves for another device by a Gondola port, with its hop count (R30). -/
  | sent (port hop : Nat) (what : Answer)
  | gsend (req : RemReq)
  | launchReq (dest : Nat) (req : RemLaunch)
  | forward (port : Nat) (pkt : GPacket)
  | remoteReply (id sdev : Nat) (reply : RemReply)
  | credit (dev id : Nat)
  deriving DecidableEq, Repr

/-- Operator debug stop awaiting its acknowledgement (R53). -/
structure OpStop where
  part : Nat
  target : DebugTarget
  at' : Nat
  granted : Bool
  deriving DecidableEq, Repr

/-- The operator log (R259). -/
structure OpLog where
  base : Word
  log2sz : Nat
  en : Bool
  drop : Nat
  head : Nat
  tail : Nat
  deriving DecidableEq, Repr

/-- A turn the machine takes before its own policy chooses one: an event of opcode_table.json, or the issue of a
thread's next instruction. -/
inductive Turn where
  | event (i : Instr)
  | slot (core slot : Nat)
  deriving DecidableEq, Repr

/-- The instruction being issued: where, and the words it was fetched as. -/
structure Cur where
  core : Nat
  slot : Nat
  word : Nat
  ext : Nat
  /-- Channels that its source operands pop, in order (R153); the pops are made when it completes. -/
  pops : List Nat
  deriving DecidableEq, Repr

structure State where
  clk : Nat
  booted : Bool
  bootStage : Nat
  bootReason : Nat
  trip : Bool
  hold : Bool
  /-- When the trip that holds the package began, in fabric cycles (R38). -/
  tripAt : Nat
  throttle : Bool
  meas : KMap (List Byte)
  minima : KMap Nat
  keyDigests : KMap (List Byte)
  running : KMap Nat
  devnum : Nat
  ports : KMap Port
  grt : KMap Nat
  qmap : KMap Word
  phres : Word
  phkey : Word
  phcode : Nat
  phstate : Nat
  phpart : Nat
  olog : OpLog
  opstops : List OpStop
  keyGens : Nat
  okis : List Nat
  parts : KMap Part
  cores : KMap Core
  clusters : KMap Cluster
  walkCache : KMap (List WalkEntry)
  /-- Watch tables by slice: 32·quadrant + index (R181). -/
  watches : KMap (List Watch)
  /-- Slice lines by slice, numbered as the watch tables (R179). -/
  slices : KMap (List SliceLine)
  dram : Memory
  dkey : KMap Nat
  dpoison : List Nat
  host : Memory
  /-- Pages of 4 KiB of the host bus that do not answer (R36, R58). -/
  hostHoles : List Nat
  flights : List Sent
  nextId : Nat
  tick : Nat
  fwdCounts : KMap Nat
  /-- Accesses by TSID and DRAM controller, by TSID and die-to-die bridge (65,536 times its number is added), and by TSID
  over the host link (R52). -/
  dramCounts : KMap Nat
  bridgeCounts : KMap Nat
  hostCounts : KMap Nat
  powerEvents : Nat
  trips : Nat
  corrected0 : Nat
  uncorrected0 : Nat
  out : List Answer
  cur : Cur
  agenda : List Turn
  phase : Bool
  evTurn : Nat
  turn : Nat
  choices : List Nat
  freec : Nat
  stamp : Nat
  deriving DecidableEq, Repr

/-! ### Why a step can stop -/

/-- Reasons a step faults. -/
inductive Fault where
  /-- Raised by the meaning of an instruction of the Kamlyn set when the slot it is issued from holds no thread, which
  no device state allows. Safe: the model stops where the device has nothing to do. -/
  | noThread
  deriving DecidableEq, Repr

/-- Reasons a step is refused. -/
inductive Refusal where
  /-- Raised by an arm of `exec` that has no meaning yet. Safe: nothing is claimed of it. -/
  | notModelled (mnemonic : String)
  deriving DecidableEq, Repr

/-! ### Reset -/

def Prog.fresh : Prog := ⟨none, false, none, none, false, false, none, none, none, false⟩

def Chan.empty : Chan := ⟨[], none, 0, false, []⟩

/-- A core that holds the zeroed state of R31 and R38. -/
def Core.zero : Core where
  threads := []
  owners := []
  regs := []
  regPoison := []
  kregs := []
  chans := []
  lmem := []
  full := []
  fillers := []
  fx := []
  lpoison := []
  zf := []
  claims := []
  resident := []
  scl := []
  te := false
  seqnow := 0
  trcfg := 0
  slcfg := 0
  cevs := []
  ctrs := []
  ring := []
  dcache := []
  sbuf := []
  tlb := []
  icache := []
  deque := []
  spill := []
  displaced := []
  saved := []
  arrived := []
  coming := []
  pushers := []
  steals := []
  lastVictim := []
  spillWait := []
  slog := []
  slogLast := 0
  slogState := []
  preempt := none
  asleep := false
  idleSince := 0
  nextSth := 0
  lastRot := 0
  issueP := 0

def Disp.zero : Disp := ⟨0, 0, false, false, 0, 0, 0, 0, 0, 0, none⟩

def Tile.zero : Tile := ⟨[], false, 0, 0, 0, 0, []⟩

def Cluster.zero : Cluster where
  jobs := []
  nextSeq := []
  accepted := []
  past := []
  active := []
  shadow := []
  tiles := []
  chanPtr := []
  codebook := []
  cbPoison := []
  hist := []
  histFrozen := []
  hcfg := []
  ectrs := []
  esel := []
  scache := []
  ctlb := []
  disp := Disp.zero
  wg := none
  wgcode := 0
  wgstate := 0
  payb := 0
  pays := []
  contribs := []
  collNos := []
  rr := []
  wgLast := 0
  payLast := 0

def Queue.zero : Queue := ⟨0, 0, 0, 0, false, false, false, 0, 0, 0, 0, false, 0, none, []⟩

def Rink.zero : Rink := ⟨none, none, [], [], [], [], []⟩

def Enc.zero : Enc := ⟨32, false, 0, 0, Picture.none⟩

def Head.zero : Head := ⟨none, none, 0, 0, 0, false, []⟩

def Port.zero : Port := ⟨0, 1, 1023, 0⟩

/-- A partition just assigned (R37), before its fields are set. -/
def Part.zero : Part where
  st := 1
  tsid := 0
  oki := 0
  keyGen := 0
  quads := []
  headm := 0
  encm := 0
  keyBlock := []
  policy := none
  dpSeq := 0
  dpCode := 0
  dpState := 0
  dpAddr := 0
  queues := []
  apbase := 0
  want := 0
  grant := 0
  frbase := 0
  frlog2 := 0
  fren := false
  frhead := 0
  frtail := 0
  frecs := []
  fmsgs := []
  graphs := []
  trigs := []
  pkts := []
  launches := []
  nextLid := 1
  rootPtr := 0
  rltb := 0
  rltn := 0
  rat := []
  lane := []
  rink := Rink.zero
  ptbr := 0
  obase := 0
  olog2 := 0
  oen := false
  odrop := 0
  ohead := 0
  otail := 0
  dbgs := 0
  dbga := 0
  slsel := []
  slctrs := []
  notices := []
  corrected := 0
  uncorrected := 0
  fatals := 0
  fatalsShown := 0
  figures := []
  gather := []
  intervalAt := 0
  rrq := 0
  relAt := 0
  opHalt := false

/-- The machine at the instant of power-on (log entry 1): nothing booted, no partition, every register at the value
the spec states for reset, or at the value that log entries 2, 3, 4, 5 and 6 name. -/
def State.reset : State where
  clk := 0
  booted := false
  bootStage := 0
  bootReason := 0
  trip := false
  hold := false
  tripAt := 0
  throttle := false
  meas := []
  minima := []
  keyDigests := []
  running := []
  devnum := 1023
  ports := []
  grt := []
  qmap := []
  phres := 0
  phkey := 0
  phcode := 0
  phstate := 0
  phpart := 0
  olog := ⟨0, 0, false, 0, 0, 0⟩
  opstops := []
  keyGens := 0
  okis := []
  parts := []
  cores := []
  clusters := []
  walkCache := []
  watches := []
  slices := []
  dram := []
  dkey := []
  dpoison := []
  host := []
  hostHoles := []
  flights := []
  nextId := 0
  tick := 0
  fwdCounts := []
  dramCounts := []
  bridgeCounts := []
  hostCounts := []
  powerEvents := 0
  trips := 0
  corrected0 := 0
  uncorrected0 := 0
  out := []
  cur := ⟨0, 0, 0, 0, []⟩
  agenda := []
  phase := false
  evTurn := 0
  turn := 0
  choices := []
  freec := 0
  stamp := 0

end Sys2Proof.Machine
end

