-- ==== Sys2Proof/Machine/Base.lean ====
section
/-!
DEFINITION. The named operations over maps and memories, and the accessors and updates of State: one home for each
register, one place where a byte is read or written.
-/

namespace Sys2Proof.Machine

/-! ### Maps -/

/-- The entry of a key, if there is one. -/
def KMap.look {α : Type} : KMap α → Nat → Option α
  | [], _ => none
  | (k, v) :: m, i => if k = i then some v else KMap.look m i

/-- The entry of a key, or the default. -/
def KMap.lookD {α : Type} (m : KMap α) (i : Nat) (d : α) : α := (KMap.look m i).getD d

/-- Sets a key, keeping the keys rising. -/
def KMap.put {α : Type} : KMap α → Nat → α → KMap α
  | [], i, x => [(i, x)]
  | (k, v) :: m, i, x => if i < k then (i, x) :: (k, v) :: m else if i = k then (i, x) :: m else (k, v) :: KMap.put m i x

/-- Removes a key. -/
def KMap.del {α : Type} (m : KMap α) (i : Nat) : KMap α := m.filter fun e => e.1 ≠ i

/-- Sets a key, listing nothing where the value is the default. -/
def KMap.putD {α : Type} [DecidableEq α] (d : α) (m : KMap α) (i : Nat) (x : α) : KMap α :=
  if x = d then KMap.del m i else KMap.put m i x

/-- Applies a function to every value. -/
def KMap.mapVals {α β : Type} (f : α → β) (m : KMap α) : KMap β := m.map fun e => (e.1, f e.2)

/-- Keys of a map. -/
def KMap.keys {α : Type} (m : KMap α) : List Nat := m.map Prod.fst

/-- Inserts a number into a rising list without repeats. -/
def insertNat : List Nat → Nat → List Nat
  | [], i => [i]
  | k :: l, i => if i < k then i :: k :: l else if i = k then k :: l else k :: insertNat l i

/-- Puts a pair behind those whose number is not above its own. -/
def insertBy {α : Type} (e : Nat × α) : List (Nat × α) → List (Nat × α)
  | [] => [e]
  | o :: l => if e.1 < o.1 then e :: o :: l else o :: insertBy e l

/-- Pairs in rising order of their numbers; equal ones keep their order. -/
def sortBy {α : Type} (l : List (Nat × α)) : List (Nat × α) := l.foldl (fun acc e => insertBy e acc) []

/-! ### Memories -/

/-- The canonical form: addresses strictly rising from `lo`, no entry 0. -/
def Memory.wfFrom : Nat → Memory → Bool
  | _, [] => true
  | lo, (a, b) :: m => decide (lo ≤ a) && b != 0 && Memory.wfFrom (a + 1) m

/-- The canonical form of a memory. -/
def Memory.wf (m : Memory) : Bool := Memory.wfFrom 0 m

/-- A byte of memory; an unlisted one reads as 0 (log entry 4). -/
def Memory.get : Memory → Nat → Byte
  | [], _ => 0
  | (k, v) :: m, a => if k = a then v else if a < k then 0 else Memory.get m a

/-- Writes one byte, keeping the canonical form. -/
def Memory.set : Memory → Nat → Byte → Memory
  | [], a, b => if b = 0 then [] else [(a, b)]
  | (k, v) :: m, a, b =>
    if a < k then (if b = 0 then (k, v) :: m else (a, b) :: (k, v) :: m)
    else if a = k then (if b = 0 then m.dropWhile (fun e => e.1 ≤ a) else (a, b) :: m)
    else (k, v) :: Memory.set m a b

/-- `n` bytes from an address up. -/
def Memory.bytes (m : Memory) : Nat → Nat → List Byte
  | _, 0 => []
  | a, n + 1 => Memory.get m a :: Memory.bytes m (a + 1) n

/-- Writes bytes from an address up. -/
def Memory.store : Memory → Nat → List Byte → Memory
  | m, _, [] => m
  | m, a, b :: bs => Memory.store (Memory.set m a b) (a + 1) bs

/-- Writes 0 to `n` bytes. -/
def Memory.clear (m : Memory) (a n : Nat) : Memory := m.filter fun e => e.1 < a || a + n ≤ e.1

/-- The little-endian value of `n` bytes (R6). -/
def Memory.read (m : Memory) (a n : Nat) : Nat := leNat (Memory.bytes m a n)

/-! ### Core numbers (R100, R25) -/

def clusterOf (core : Nat) : Nat := core / 8
def quadOf (core : Nat) : Nat := core / 256
def dieOf (core : Nat) : Nat := core / 1024

/-- The cores of a cluster. -/
def clusterCores (cl : Nat) : List Nat := (List.range 8).map (cl * 8 + ·)

/-! ### State accessors -/

def State.core (s : State) (c : Nat) : Core := s.cores.lookD c Core.zero
def State.setCore (s : State) (c : Nat) (x : Core) : State := { s with cores := s.cores.put c x }
def State.modCore (s : State) (c : Nat) (f : Core → Core) : State := s.setCore c (f (s.core c))
/-- What a core had to do has gone: a slot that was ready, a frame that could be delivered. The cycles that let it sleep
count from now (R171). -/
def State.stir (s : State) (c : Nat) : State :=
  match s.cores.look c with
  | some x => s.setCore c { x with idleSince := max x.idleSince s.clk }
  | none => s
def State.cluster (s : State) (c : Nat) : Cluster := s.clusters.lookD c Cluster.zero
def State.setCluster (s : State) (c : Nat) (x : Cluster) : State := { s with clusters := s.clusters.put c x }
def State.modCluster (s : State) (c : Nat) (f : Cluster → Cluster) : State := s.setCluster c (f (s.cluster c))
def State.part? (s : State) (p : Nat) : Option Part := s.parts.look p
def State.part (s : State) (p : Nat) : Part := s.parts.lookD p Part.zero
def State.setPart (s : State) (p : Nat) (x : Part) : State := { s with parts := s.parts.put p x }
/-- Updates a partition that exists. -/
def State.modPart (s : State) (p : Nat) (f : Part → Part) : State :=
  match s.parts.look p with
  | some x => s.setPart p (f x)
  | none => s
def State.thread? (s : State) (c sl : Nat) : Option Thread := (s.core c).threads.look sl
def Core.setThread (x : Core) (sl : Nat) (t : Thread) : Core := { x with threads := x.threads.put sl t }
def State.setThread (s : State) (c sl : Nat) (t : Thread) : State := s.modCore c (·.setThread sl t)
/-- Updates a thread that exists. -/
def State.modThread (s : State) (c sl : Nat) (f : Thread → Thread) : State :=
  match s.thread? c sl with
  | some t => s.setThread c sl (f t)
  | none => s

/-- A thread of no launch, with every register 0 (R107). -/
def Thread.zero : Thread where
  lid := 0
  pl := 0
  pc := 0
  tag := 0
  preds := 1
  sth := 0
  base := 0
  lim := 0
  mode := 0
  tvec := 0
  tpc := 0
  tcause := 0
  tval := 0
  tseq := 0
  ts0 := 0
  ts1 := 0
  ts2 := 0
  ts3 := 0
  tsbase := 0
  tjoin := 0
  unack := 0
  dqbase := 0
  cpstat := 0
  tsreg := []
  tsdepth := 0
  touched := []
  spliced := false
  counts := false
  tnew := false
  idle := false
  park := none
  prog := Prog.fresh
  begun := none
  rel := none
  late := []
  ending := false
  dbg := false
  stopped := []
  busy := 0
  mesh := none
  savedAt := none
  badRegs := []

/-- The thread being issued. -/
def State.me? (s : State) : Option Thread := s.thread? s.cur.core s.cur.slot
def State.me (s : State) : Thread := s.me?.getD Thread.zero
def State.setMe (s : State) (t : Thread) : State := s.setThread s.cur.core s.cur.slot t
def State.modMe (s : State) (f : Thread → Thread) : State := s.modThread s.cur.core s.cur.slot f
/-- The core being issued on. -/
def State.myCore (s : State) : Core := s.core s.cur.core
def State.modMyCore (s : State) (f : Core → Core) : State := s.modCore s.cur.core f
def State.myCluster (s : State) : Cluster := s.cluster (clusterOf s.cur.core)
def State.modMyCluster (s : State) (f : Cluster → Cluster) : State := s.modCluster (clusterOf s.cur.core) f

/-- The slot that holds a thread of a core, by thread number (R101). -/
def slotOf (x : Core) (sth : Nat) : Option Nat := (x.threads.find? fun e => e.2.sth = sth).map Prod.fst

/-- Updates a thread of a core by its thread number, in a slot, displaced or saved. -/
def State.modSth (s : State) (c sth : Nat) (f : Thread → Thread) : State :=
  match slotOf (s.core c) sth with
  | some sl => s.modThread c sl f
  | none => s.modCore c fun x =>
      { x with displaced := x.displaced.map (fun e => if e.1.sth = sth then (f e.1, e.2) else e),
               saved := x.saved.map fun t => if t.sth = sth then f t else t }

/-- A thread of a core by its thread number, in a slot, displaced or saved. -/
def State.bySth (s : State) (c sth : Nat) : Option Thread :=
  match slotOf (s.core c) sth with
  | some sl => s.thread? c sl
  | none =>
    match (s.core c).displaced.find? fun e => e.1.sth = sth with
    | some e => some e.1
    | none => (s.core c).saved.find? fun t => t.sth = sth

/-! ### The partition map (R32) -/

/-- QMAP of a quadrant. -/
def State.qmapOf (s : State) (q : Nat) : Word := s.qmap.lookD q 0
/-- The partition a quadrant belongs to. -/
def State.quadPart (s : State) (q : Nat) : Option Nat :=
  let w := (s.qmapOf q).toNat
  if bit w 32 then some (bits w 3 0) else none
/-- The partition a core belongs to. -/
def State.corePart (s : State) (c : Nat) : Option Nat := s.quadPart (quadOf c)
/-- The operator has stopped the whole partition of a core (R50): its threads stand under a debug stop. -/
def State.opHalted (s : State) (c : Nat) : Bool := match s.corePart c with | some pno => (s.part pno).opHalt | none => false

/-- The partition of the thread being issued; a core that runs a thread belongs to one. -/
def State.myPartNo (s : State) : Nat := (s.corePart s.cur.core).getD 0
def State.myPart (s : State) : Part := s.part s.myPartNo
/-- TSID of a core (R33): the field of its quadrant's QMAP. -/
def State.tsidOf (s : State) (c : Nat) : Nat := bits (s.qmapOf (quadOf c)).toNat 31 16
/-- The partition that carries a TSID. -/
def State.partOfTsid (s : State) (tsid : Nat) : Option Nat := (s.parts.find? fun e => e.2.tsid = tsid).map Prod.fst
/-- Number of slices of a partition (R178). -/
def Part.slices (p : Part) : Nat := 32 * p.quads.length
/-- Home slice of a physical address (R178). -/
def homeSlice (n a : Nat) : Nat :=
  let h := bits a 20 8 ^^^ bits a 33 21 ^^^ bits a 39 34
  if n = 0 then 0 else h % n
/-- The physical slice (32·quadrant + index) of a partition's slice. -/
def Part.physSlice (p : Part) (j : Nat) : Nat := 32 * (p.quads[j / 32]?.getD 0) + j % 32

/-- The launch of a thread. -/
def State.launch? (s : State) (part lid : Nat) : Option Launch := (s.part part).launches.look lid
def State.modLaunch (s : State) (part lid : Nat) (f : Launch → Launch) : State :=
  s.modPart part fun p =>
    match p.launches.look lid with
    | some l => { p with launches := p.launches.put lid (f l) }
    | none => p

/-- Fabric-cycle timestamp (R12). -/
def State.fab (s : State) : Nat := Config.fab s.clk

/-- The cores are held in reset: by a thermal trip (R17), or by the operator (R18). -/
def State.held (s : State) : Bool := s.trip || s.hold

/-- A fresh arrival stamp. -/
def State.tickStamp (s : State) : Nat × State := (s.stamp, { s with stamp := s.stamp + 1 })

/-- A choice that the manual leaves open: the next of the list, 0 when the list is empty (log entry 6). -/
def State.choose (s : State) : Nat × State :=
  match s.choices with
  | [] => (0, s)
  | c :: cs => (c, { s with choices := cs })

/-- Puts turns in front of the agenda. -/
def State.soon (s : State) (l : List Turn) : State := { s with agenda := l ++ s.agenda }

/-- Appends to what the device sent outside. -/
def State.say (s : State) (a : Answer) : State := { s with out := s.out ++ [a] }

/-- Moves the clock forward to a core cycle that has not passed. -/
def State.reach (s : State) (c : Nat) : State := { s with clk := max s.clk c }

end Sys2Proof.Machine
end

