-- ==== Sys2Proof/Machine/Walk.lean ====
section
/-!
DEFINITION. DRAM under owner keys and poison (R13, R39, R195, R266), the slices' watch tables (R181), translation
tables, TLBs and the A and D bits (R182 to R189).
-/

namespace Sys2Proof.Machine

/-! ### DRAM -/

/-- The byte at a physical address as key generation `gen` reads it: a unit written under another key reads as
unspecified values (R39, R195). -/
def State.dramByte (s : State) (gen pa : Nat) : Byte :=
  match s.dkey.look (pa / 32) with
  | none => s.dram.get pa
  | some g => if g = gen then s.dram.get pa else Config.foreignByte g gen pa (s.dram.get pa).toNat

def State.dramBytes (s : State) (gen : Nat) : Nat → Nat → List Byte
  | _, 0 => []
  | pa, n + 1 => s.dramByte gen pa :: State.dramBytes s gen (pa + 1) n

/-- Little-endian value of `n` bytes at a physical address. -/
def State.dramRead (s : State) (gen pa n : Nat) : Nat := leNat (s.dramBytes gen pa n)

/-- Puts a 32-byte unit under a key: what it does not overwrite keeps the value the key reads there. -/
def State.rekey (s : State) (gen u : Nat) : State :=
  match s.dkey.look u with
  | none => { s with dkey := s.dkey.put u gen }
  | some g =>
    if g = gen then s
    else { s with dram := s.dram.store (32 * u) (s.dramBytes gen (32 * u) 32), dkey := s.dkey.put u gen }

/-- The 32-byte cells that `n` bytes at `a` touch. -/
def cellsOf (a n : Nat) : List Nat := if n = 0 then [] else (List.range ((a + n - 1) / 32 + 1 - a / 32)).map (a / 32 + ·)

/-- The cells that `n` bytes at `a` cover whole. -/
def cellsCovered (a n : Nat) : List Nat := (cellsOf a n).filter fun c => a ≤ 32 * c && 32 * c + 32 ≤ a + n

/-- Writes bytes at a physical address under a key; a cell covered whole loses its poison (R266). -/
def State.dramWrite (s : State) (gen pa : Nat) (bs : List Byte) : State :=
  let s := (cellsOf pa bs.length).foldl (fun s u => s.rekey gen u) s
  let cov := cellsCovered pa bs.length
  { s with dram := s.dram.store pa bs, dpoison := s.dpoison.filter fun c => !cov.contains c }

/-- Some cell of `n` bytes at `pa` is poisoned (R266). -/
def State.dramPoisoned (s : State) (pa n : Nat) : Bool := (cellsOf pa n).any fun c => s.dpoison.contains c

/-- Poisons cells of DRAM. -/
def State.dramPoison (s : State) (cells : List Nat) : State := { s with dpoison := cells.foldl insertNat s.dpoison }

/-! ### Watch tables (R181) and counters (R273) -/

/-- A `w`-bit number taken as signed. -/
def signedOf (w n : Nat) : Int := if 2 ^ w ≤ 2 * (n % 2 ^ w) then ((n % 2 ^ w : Nat) : Int) - (2 ^ w : Nat) else ((n % 2 ^ w : Nat) : Int)

/-- CMP of WATCH over `w`-bit values (R353). -/
def wcmpHolds (c : WCmp) (w a b : Nat) : Bool :=
  let a := a % 2 ^ w
  let b := b % 2 ^ w
  match c with
  | .eq => a = b
  | .ne => a ≠ b
  | .geu => b ≤ a
  | .ltu => a < b
  | .ges => signedOf w b ≤ signedOf w a
  | .lts => signedOf w a < signedOf w b

/-- Tells a parked thread that a wake packet is on its way to it (R181). -/
def Thread.packet (t : Thread) : Thread :=
  match t.park with
  | some ⟨.word ea n c r .table w, st, si⟩ => { t with park := some ⟨.word ea n c r .packet w, st, si⟩ }
  | _ => t

/-- After a write of `n` bytes at `pa` that a slice performed: entries that it satisfies are freed, and their waiters
are sent wake packets (R181). The slice, and how many waiters. -/
def State.watchFree (s : State) (pno pa n : Nat) : Nat × Nat × State :=
  if s.watches = [] then (0, 0, s)
  else
    let p := s.part pno
    let j := homeSlice p.slices pa
    let ph := p.physSlice j
    let l := s.watches.lookD ph []
    let fires := fun (w : Watch) => w.tsid = p.tsid && w.addr < pa + n && pa < w.addr + w.size
      && wcmpHolds w.cmp (8 * w.size) (s.dramRead p.keyGen w.addr w.size) w.ref
    let hit := l.filter fires
    if hit = [] then (j, 0, s)
    else
      let s := { s with watches := KMap.putD [] s.watches ph (l.filter fun w => !fires w) }
      let ws := hit.flatMap Watch.waiters
      (j, ws.length, ws.foldl (fun s w => s.modSth w.1 w.2 Thread.packet) s)

/-- Adds to a counter if its selector counts the event; tells whether the low 32 bits pass THR. -/
def countSel (sel : Word) (ev old n : Nat) : Nat × Bool :=
  let w := sel.toNat
  if bit w 16 && bits w 15 0 = ev then
    let new := (old + n) % 2 ^ 64
    let thr := bits w 63 32
    (new, thr ≠ 0 && old % 2 ^ 32 < thr && (thr ≤ old % 2 ^ 32 + n))
  else (old, false)

/-- Counts `n` events at a slice of a partition; a counter that passes THR leaves a notice to be made (R273). -/
def Part.countQuiet (p : Part) (j ev n : Nat) : Part :=
  if p.slsel = [] then p
  else (List.range 4).foldl (fun (p : Part) i =>
    let (v, hit) := countSel (p.slsel.lookD i 0) ev (p.slctrs.lookD (4 * j + i) 0) n
    { p with slctrs := KMap.putD 0 p.slctrs (4 * j + i) v, notices := if hit then p.notices ++ [(i, v)] else p.notices }) p

/-- After a write that the device's own logic performs at a slice (a PTE's A and D bits, a record): the watched words that
it satisfies wake their waiters, which the slice's counters count (R181, R188). -/
def State.watchAfter (s : State) (pno pa n : Nat) : State :=
  let (j, k, s) := s.watchFree pno pa n
  if k = 0 then s else s.modPart pno fun p => p.countQuiet j 0x0204 k

/-! ### Lines of the home slices (R179) -/

/-- The sectors of the 256-byte block at `blk` that `n` bytes at `a` touch, as a mask of 8 (R179). -/
def sectorMask (blk a n : Nat) : Nat :=
  ((List.range 8).filter fun i => a < blk + 32 * i + 32 && blk + 32 * i < a + n).foldl (fun m i => m + 2 ^ i) 0

/-- Lines that a slice of 512 KiB holds (R12, R179). -/
abbrev sliceLines : Nat := 2048

/-- A slice fetches the sectors of a block that it misses from the block's stack (R13, R179): the stack's controller counts
them, and so does the bridge that they cross where the stack is another die's (R52, R14). That a bridge's counter counts
these fetches alone, and no access of a core to a slice or a window of another die, is the model's choice (DESIGN CHOICE,
log entry 128). -/
def State.sliceFetch (s : State) (tsid ph blk miss : Nat) : State :=
  let n := ((List.range 8).filter fun i => bit miss i).length
  let stack := bits blk 10 8
  let quad := ph / 32
  let up := fun (m : KMap Nat) (k : Nat) => m.put k (m.lookD k 0 + n)
  let s := { s with dramCounts := up s.dramCounts (65536 * stack + tsid) }
  if stack / 2 = quad / 4 then s
  else { s with bridgeCounts := up s.bridgeCounts (65536 * (4 * quad + stack / 2) + tsid) }

/-- One access of a home slice to bytes of one block: whether every sector was there, and the state after the slice has
fetched those that were not. Of its lines a slice keeps those used last (log entry 17). -/
def State.sliceLook (s : State) (pno blk a n : Nat) : Bool × State :=
  let p := s.part pno
  let ph := p.physSlice (homeSlice p.slices blk)
  let l := s.slices.lookD ph []
  let mine := fun (e : SliceLine) => e.tsid = p.tsid && e.addr = blk
  let have' := ((l.find? mine).map SliceLine.sectors).getD 0
  let want := sectorMask blk a n
  let miss := want - (want &&& have')
  let l := (⟨p.tsid, blk, have' ||| want⟩ :: l.filter fun e => !mine e).take sliceLines
  let s := { s with slices := s.slices.put ph l }
  if miss = 0 then (true, s) else (false, s.sliceFetch p.tsid ph blk miss)

/-- An access that a walker makes at the home slice of a table entry (R187, R188), counted as a hit or as a miss. -/
def State.walkSee (s : State) (pno pa : Nat) : State :=
  let blk := pa / 256 * 256
  let (hit, s) := s.sliceLook pno blk pa 8
  s.modPart pno fun p => p.countQuiet (homeSlice p.slices blk) (if hit then 0x0201 else 0x0202) 1

/-! ### Table entries (R184, R185) -/

/-- What an entry at a level is, before any permission is judged. -/
inductive Pte where
  | absent
  | malformed
  | table (next : Nat)
  | leaf (pa : Nat) (size : Nat)
  deriving DecidableEq, Repr

/-- Bytes that a leaf maps (R183, R186). -/
def leafSize (level : Nat) (s64 : Bool) : Nat :=
  if level = 3 then 2 ^ 30 else if level = 4 then 2 ^ 21 else if s64 then 2 ^ 16 else 2 ^ 12

/-- Judges an entry under R185, permission apart. `oki` is the partition's owner key index. -/
def judgePte (oki level e : Nat) : Pte :=
  let pa := bits e 51 12 * 4096
  if !bit e 0 then .absent
  else if bits e 3 1 = 0 then
    if bits e 6 4 ≠ 0 || bit e 8 || bits e 63 56 ≠ 0 || bits e 55 52 ≠ 0 || bits e 11 9 ≠ 0 || bit e 7 then .malformed
    else if level = 5 then .malformed
    else if Config.dramEnd ≤ pa then .malformed
    else .table pa
  else
    let size := leafSize level (bit e 8)
    if level ≤ 2 then .malformed
    else if bit e 8 && level ≠ 5 then .malformed
    else if pa % size ≠ 0 then .malformed
    else if bits e 55 52 ≠ 0 || bits e 11 9 ≠ 0 || bit e 7 then .malformed
    else if bit e 2 && !bit e 1 then .malformed
    else if Config.dramEnd < pa + size then .malformed
    else if bits e 63 56 ≠ 0 && bits e 63 56 ≠ oki then .malformed
    else .leaf pa size

/-- Whether permissions grant an access (R185). -/
def grants (r w x u : Bool) (acc : Acc) (app : Bool) : Bool :=
  (match acc with | .read => r | .write => w | .exec => x) && (!app || u)

/-- The index of a virtual address at a level (R183). -/
def vaIndex (level va : Nat) : Nat := va / 2 ^ (12 + 9 * (5 - level)) % 512

/-- The outcomes of a translation (R185): the physical address; a not-present (1) or permission (2) fault at a level;
a malformed entry; translation disabled (R182). The state is the one in which the walk's reads leave the slices. -/
inductive Walked where
  | ok (pa : Nat) (s : State)
  | fault (kind level : Nat) (s : State)
  | malformed (level : Nat) (s : State)
  | off
  deriving Repr

/-- Who translates: a core, a cluster's engines, or the device itself (Lodge, Rink, Patrol, host aperture). -/
inductive Via where
  | core (c : Nat)
  | cluster (cl : Nat)
  | lodge
  deriving DecidableEq, Repr

/-- Sets A, and D for a write, in the PTE at `pa` by CAS on the whole entry, at its home slice (R188). -/
def State.markPte (s : State) (pno : Nat) (p : Part) (pa e : Nat) (acc : Acc) : State :=
  let wantD := acc = Acc.write && !bit e 6
  if !bit e 5 || wantD then
    ((s.walkSee pno pa).dramWrite p.keyGen pa (leBytes 8 (e + (if bit e 5 then 0 else 32) + (if wantD then 64 else 0)))).watchAfter
      pno pa 8
  else s

/-- The end of a walk at a leaf: permission, A and D bits, and the TLB entry made of it. -/
def State.leafEnd (s : State) (pno : Nat) (p : Part) (level ptePa e pa size va : Nat) (acc : Acc) (app : Bool) :
    Except Walked (Nat × TlbEntry × State) :=
  if grants (bit e 1) (bit e 2) (bit e 3) (bit e 4) acc app then
    let s := s.markPte pno p ptePa e acc
    .ok (pa + va % size,
      { tsid := p.tsid, va := va - va % size, size := size, pa := pa, r := bit e 1, w := bit e 2, x := bit e 3,
        u := bit e 4, d := bit e 6 || acc = Acc.write }, s)
  else .error (.fault 2 level s)

/-- A walk from the table at `tab`, over the levels that remain (R183, R186), each entry read at its home slice (R187). -/
def State.walkFrom (s : State) (pno : Nat) (p : Part) (va : Nat) (acc : Acc) (app : Bool) :
    List Nat → Nat → Except Walked (Nat × TlbEntry × State)
  | [], _ => .error (.malformed 5 s)
  | level :: rest, tab =>
    let ptePa := tab + 8 * vaIndex level va
    let e := s.dramRead p.keyGen ptePa 8
    let s := s.walkSee pno ptePa
    match judgePte p.oki level e with
    | .absent => .error (.fault 1 level s)
    | .malformed => .error (.malformed level s)
    | .table next => State.walkFrom s pno p va acc app rest next
    | .leaf pa size =>
      if level = 5 && bit e 8 then
        let headPa := tab + 8 * (vaIndex level va / 16 * 16)
        let h := s.dramRead p.keyGen headPa 8
        let s := s.walkSee pno headPa
        match judgePte p.oki 5 h with
        | .leaf hpa hsize =>
          if bit h 8 then s.leafEnd pno p 5 headPa h hpa hsize va acc app else .error (.malformed 5 s)
        | _ => .error (.malformed 5 s)
      else s.leafEnd pno p level ptePa e pa size va acc app

/-- The table pointers that a walk passes (levels 1 to 4), for the walk cache. -/
def State.walkPointers (s : State) (p : Part) (va : Nat) : List Nat → Nat → List WalkEntry
  | [], _ => []
  | level :: rest, tab =>
    match judgePte p.oki level (s.dramRead p.keyGen (tab + 8 * vaIndex level va) 8) with
    | .table next =>
      { tsid := p.tsid, root := bits p.ptbr.toNat 51 12 * 4096, level := level, va := va / 2 ^ (12 + 9 * (5 - level)), next := next }
        :: State.walkPointers s p va rest next
    | _ => []

/-- The die whose walkers serve a translation. -/
def Via.die : Via → Nat
  | .core c => dieOf c
  | .cluster cl => dieOf (8 * cl)
  | .lodge => 0

/-- The deepest cached pointer on the walk from a root to an address: the level it was read at, and the table it names. A
walk that starts after PTBR was written finds nothing of another root (R182). -/
def walkHit (l : List WalkEntry) (tsid root va : Nat) : Option (Nat × Nat) :=
  [4, 3, 2, 1].findSome? fun lev =>
    (l.find? fun e => e.tsid = tsid && e.root = root && e.level = lev && e.va = va / 2 ^ (12 + 9 * (5 - lev))).map fun e => (lev, e.next)

/-- A five-level walk (R187). The walk cache may serve a pointer; whether it does is the next of the machine's
choices (log entry 6). -/
def State.walk (s : State) (via : Via) (pno : Nat) (p : Part) (va : Nat) (acc : Acc) (app : Bool) :
    Except Walked (Nat × TlbEntry × State) :=
  let root := bits p.ptbr.toNat 51 12 * 4096
  if !bit p.ptbr.toNat 0 then .error .off
  else if Config.dramEnd ≤ root then .error (.malformed 1 s)
  else
    let cache := s.walkCache.lookD via.die []
    let (k, s) := s.choose
    match (if k = 1 then walkHit cache p.tsid root va else none) with
    | some (lev, next) => s.walkFrom pno p va acc app ([1, 2, 3, 4, 5].drop lev) next
    | none =>
      match s.walkFrom pno p va acc app [1, 2, 3, 4, 5] root with
      | .error w => .error w
      | .ok (pa, t, s') =>
        let new := s.walkPointers p va [1, 2, 3, 4] root
        let cache' := (new ++ cache.filter fun e => !new.contains e).take 256
        .ok (pa, t, { s' with walkCache := s'.walkCache.put via.die cache' })

/-- A TLB entry that grants the access (R187): an entry that grants less, or whose D is 0 for a write, does not. -/
def tlbHit (l : List TlbEntry) (tsid va : Nat) (acc : Acc) (app : Bool) : Option Nat :=
  (l.find? fun e => e.tsid = tsid && e.va ≤ va && va < e.va + e.size && grants e.r e.w e.x e.u acc app
    && (acc ≠ Acc.write || e.d)).map fun e => e.pa + (va - e.va)

/-- Adds an entry in front, dropping those of the same page, within a capacity. -/
def tlbAdd (n : Nat) (l : List TlbEntry) (e : TlbEntry) : List TlbEntry :=
  (e :: l.filter fun o => !(o.tsid = e.tsid && o.va = e.va && o.size = e.size)).take n

/-- Translation of a virtual address (below 2^57, not a window address): core TLB, cluster TLB, then a walk (R187). -/
def State.translate (s : State) (via : Via) (pno va : Nat) (acc : Acc) (app : Bool) : Walked :=
  match s.parts.look pno with
  | none => .off
  | some p =>
    let hit := match via with
      | .core c =>
        match tlbHit (s.core c).tlb p.tsid va acc app with
        | some pa => some pa
        | none => tlbHit (s.cluster (clusterOf c)).ctlb p.tsid va acc app
      | .cluster cl => tlbHit (s.cluster cl).ctlb p.tsid va acc app
      | .lodge => none
    match hit with
    | some pa => if bit p.ptbr.toNat 0 then .ok pa s else .off
    | none =>
      match s.walk via pno p va acc app with
      | .error w => w
      | .ok (pa, t, s) =>
        match via with
        | .core c =>
          .ok pa ((s.modCore c fun x => { x with tlb := tlbAdd 64 x.tlb t }).modCluster (clusterOf c)
            fun x => { x with ctlb := tlbAdd 1024 x.ctlb t })
        | .cluster cl => .ok pa (s.modCluster cl fun x => { x with ctlb := tlbAdd 1024 x.ctlb t })
        | .lodge => .ok pa s

/-- The physical address that the tables give a virtual one, whatever kind of access the page permits. -/
def State.physAny (s : State) (via : Via) (pno va : Nat) : Option Nat :=
  [Acc.read, .write, .exec].findSome? fun a =>
    match s.translate via pno va a false with
    | .ok pa _ => some pa
    | _ => none

/-- A virtual address is a window address (R173). -/
def isWindow (a : Nat) : Bool := bits a 56 41 = 0xFFFF
/-- Device, core and offset of a window address (R25). -/
def winDev (a : Nat) : Nat := bits a 40 31
def winCore (a : Nat) : Nat := bits a 30 19
def winOff (a : Nat) : Nat := bits a 18 0
/-- The window address names this device (R25). -/
def State.winHere (s : State) (a : Nat) : Bool := winDev a = 1023 || winDev a = s.devnum
/-- Device fields 640 to 1022 that are not this device's DEV fault (R25). -/
def State.winBad (s : State) (a : Nat) : Bool := 640 ≤ winDev a && winDev a ≤ 1022 && winDev a ≠ s.devnum

/-! ### Accesses that never park: Lodge, the Rink, host apertures -/

/-- Why such an access fails. -/
inductive LodgeErr where
  | fault (kind level : Nat)
  | malformed (va : Nat)
  | off
  | poison
  | address
  deriving DecidableEq, Repr

/-- The parts of `n` bytes at `va` that lie in one 4 KiB page each: address and length. -/
def pageParts : Nat → Nat → Nat → List (Nat × Nat)
  | 0, _, _ => []
  | fuel + 1, va, n =>
    if n = 0 then [] else
      let k := min n (4096 - va % 4096)
      (va, k) :: pageParts fuel (va + k) (n - k)

/-- Physical parts of `n` bytes of a partition's virtual space, if every byte translates. -/
def State.lodgeParts (s : State) (pno : Nat) (acc : Acc) (app : Bool) :
    List (Nat × Nat) → Except LodgeErr (List (Nat × Nat) × State)
  | [] => .ok ([], s)
  | (va, n) :: rest =>
    if 2 ^ 57 ≤ va + n - 1 || isWindow va then .error .address
    else match s.translate .lodge pno va acc app with
    | .ok pa s =>
      match State.lodgeParts s pno acc app rest with
      | .ok (l, s) => .ok ((pa, n) :: l, s)
      | .error e => .error e
    | .fault k l _ => .error (.fault k l)
    | .malformed _ _ => .error (.malformed va)
    | .off => .error .off

/-- Reads `n` bytes of a partition's virtual space without parking. -/
def State.lodgeRead (s : State) (pno va n : Nat) (app : Bool := false) : Except LodgeErr (List Byte × State) :=
  match s.lodgeParts pno .read app (pageParts (n / 4096 + 2) va n) with
  | .error e => .error e
  | .ok (l, s) =>
    if l.any fun q => s.dramPoisoned q.1 q.2 then .error .poison
    else .ok ((l.map fun q => s.dramBytes (s.part pno).keyGen q.1 q.2).flatten, s)

end Sys2Proof.Machine
end

