-- ==== Sys2Proof/Machine/Record.lean ====
section
/-!
DEFINITION. Observation: the 64-byte records of R257, the partition's ring (R258), the operator log (R259) behind the
disclosure filter (R50, R274), original program counters (R141), and the counts of fatal faults.
-/

namespace Sys2Proof.Machine

/-- A record of R257. -/
structure Obs where
  kind : Nat
  code : Nat := 0
  sub : Nat := 0
  part : Nat
  core : Nat := 0xFFFF
  slot : Nat := 0xFF
  org : Nat := 0xFF
  addr : Nat := 0
  pc : Nat := 0
  kbody : Nat := 0
  time : Nat
  lid : Nat := 0
  tseq : Nat := 0
  job : Nat := 0
  tsid : Nat
  data : List Byte := []
  deriving DecidableEq, Repr

/-- Fills a list of bytes with zeros up to a length. -/
def padTo (n : Nat) (bs : List Byte) : List Byte := (bs ++ List.replicate n 0).take n

/-- The 64 bytes of a record (R257). -/
def Obs.bytes (r : Obs) : List Byte :=
  leBytes 1 r.kind ++ leBytes 1 r.code ++ leBytes 1 r.sub ++ leBytes 1 r.part ++ leBytes 2 r.core ++ leBytes 1 r.slot
  ++ leBytes 1 r.org ++ leBytes 8 r.addr ++ leBytes 8 r.pc ++ leBytes 8 r.kbody ++ leBytes 8 r.time
  ++ leBytes 4 r.lid ++ leBytes 4 r.tseq ++ leBytes 2 r.job ++ leBytes 2 r.tsid ++ padTo 12 r.data

/-- Rounds down to a power of two; 0 stays 0 (R50). -/
def floorPow2 (n : Nat) : Nat := if n = 0 then 0 else 2 ^ Nat.log2 n

/-- The level of a disclosure class (R50): 0 when no policy is in force or it does not list the class. -/
def Part.level (p : Part) (cls : Nat) : Nat :=
  match p.policy with
  | none => 0
  | some pol => pol.levels.lookD cls 0

/-- The disclosure class of a record's kind (R50, R257): 5 fault details, 3 trace, 2 state changes, 4 histograms,
1 counters; 0 for the errors, which R51 never withholds. -/
def kindClass (kind : Nat) : Nat :=
  if kind = 8 || kind = 9 || kind = 10 then 0
  else if kind ≤ 11 then 5 else if kind = 16 then 3 else if kind = 17 then 2 else if kind = 18 then 4 else 1

/-- A record as level 2 gives it (R50): of fault details, cause, core and slot and the address to 2 MiB remain. -/
def Obs.coarse (r : Obs) : Obs :=
  if r.kind = 17 then
    { r with addr := floorPow2 r.addr, pc := 0, kbody := 0,
             data := leBytes 4 (floorPow2 (leNat (r.data.take 4))) ++ r.data.drop 4 }
  else
    let r := { r with addr := r.addr - r.addr % 2 ^ 21, pc := 0, kbody := 0 }
    if kindClass r.kind = 5 then { r with org := 0xFF, lid := 0, tseq := 0, job := 0, data := [] } else r

/-- Writes a record to the operator log (R259); one that finds it off, or exactly full, is lost and counted (R258). -/
def State.opRecord (s : State) (r : Obs) : State :=
  let o := s.olog
  if o.en && (o.tail + 2 ^ 32 - o.head) % 2 ^ 32 ≠ 2 ^ o.log2sz then
    let a := o.base.toNat / 64 * 64 + 64 * (o.tail % 2 ^ o.log2sz)
    { s with host := s.host.store a r.bytes, olog := { o with tail := (o.tail + 1) % 2 ^ 32 } }
  else { s with olog := { o with drop := (o.drop + 1) % 2 ^ 32 } }

/-- Adds to a level-1 sum of the running interval (R50). -/
def State.gather (s : State) (pno key n : Nat) : State :=
  s.modPart pno fun p => { p with gather := p.gather.put key (p.gather.lookD key 0 + n) }

/-- CODE of a record of the kind is a TCAUSE code (R257). -/
def codeIsCause (kind : Nat) : Bool := kind = 1 || kind = 2 || kind = 6

/-- Passes a record through the filter to the operator (R50, R274). -/
def State.opFilter (s : State) (r : Obs) : State :=
  let cls := kindClass r.kind
  if cls = 0 then s.opRecord r
  else
    let lv := (s.part r.part).level cls
    if lv = 3 then s.opRecord r
    else if r.kind = 18 || r.kind = 19 then s
    else if lv = 2 then s.opRecord r.coarse
    else if lv = 1 then
      if cls = 5 then (if codeIsCause r.kind then s.gather r.part (5 * 65536 + r.code) 1 else s)
      else if cls = 3 then s.gather r.part (3 * 65536) 1
      else s
    else s

/-! ### Rings (R258) -/

/-- Writes a record that Lodge makes, at parts already translated: watched words are checked as after any write, and a
slice's counters count the wakes. -/
def State.recordParts (s : State) (pno : Nat) : List (Nat × Nat) → List Byte → State
  | [], _ => s
  | (pa, n) :: rest, bs =>
    State.recordParts ((s.dramWrite (s.part pno).keyGen pa (bs.take n)).watchAfter pno pa n) pno rest (bs.drop n)

/-- Writes a record in the partition's virtual space without parking: nothing is written unless every byte translates;
with `clean`, poisoned memory stops it (R65, R192). -/
def State.lodgeRecord (s : State) (pno va : Nat) (bs : List Byte) (clean : Bool) : Except LodgeErr State :=
  match s.lodgeParts pno .write false (pageParts (bs.length / 4096 + 2) va bs.length) with
  | .error e => .error e
  | .ok (l, s) =>
    if clean && l.any fun q => s.dramPoisoned q.1 q.2 then .error .poison else .ok (s.recordParts pno l bs)

/-- A record of a partition with the current time and nothing else set. -/
def State.obs (s : State) (kind pno : Nat) : Obs :=
  { kind := kind, part := pno, time := s.fab, tsid := (s.part pno).tsid }

/-- Writes a record to the partition's ring (R258): lost and counted in DROP when the ring is off, when TAIL - HEAD is the
ring's size, or when the ring does not translate; a malformed entry that this meets is known to the operator alone (R185). -/
def State.ringRecord (s : State) (r : Obs) : State :=
  let p := s.part r.part
  let lost := s.modPart r.part fun p => { p with odrop := (p.odrop + 1) % 2 ^ 32 }
  if p.oen && (p.otail + 2 ^ 32 - p.ohead) % 2 ^ 32 ≠ 2 ^ p.olog2 then
    match s.lodgeRecord r.part (p.obase.toNat / 64 * 64 + 64 * (p.otail % 2 ^ p.olog2)) r.bytes false with
    | .ok s => s.modPart r.part fun p => { p with otail := (p.otail + 1) % 2 ^ 32 }
    | .error (.malformed va) => lost.opFilter { s.obs 7 r.part with addr := va }
    | .error _ => lost
  else lost

/-- Writes a record to the tenant's ring exactly (R46), and to the operator's log through the filter. -/
def State.emit1 (s : State) (r : Obs) : State :=
  match s.parts.look r.part with
  | none => s.opFilter r
  | some _ => (s.ringRecord r).opFilter r

/-- Makes the counter notices that writes of records have left (R273); those that the notices' own writes leave are made
next time. -/
def State.settleNotices (s : State) (pno : Nat) : State :=
  let l := (s.part pno).notices
  if l = [] then s
  else l.foldl (fun (s : State) e => s.emit1 { s.obs 19 pno with addr := e.2, sub := e.1 })
    (s.modPart pno fun p => { p with notices := [] })

/-- Emits a record, and the notices that its write gives rise to. -/
def State.emit (s : State) (r : Obs) : State := (s.emit1 r).settleNotices r.part

/-- The splice map's entry for an address of fused code (R141): origin, plus 4 where the owning site is the consumer's,
and offset. -/
def Fused.entryAt (f : Fused) (pc : Nat) : Option (Nat × Nat) :=
  if f.code.toNat ≤ pc && pc < f.code.toNat + f.clen then f.orgs[(pc - f.code.toNat) / 8]? else none

/-- The entry belongs to the consumer. -/
def ofConsumer (o : Nat) : Bool := o = 1 || o = 6

/-- The instruction at an address is attributed to the consumer of a fused pair (R141). -/
def Launch.second (l : Launch) (pc : Nat) : Bool :=
  ((l.fused.bind fun f => f.entryAt pc).map fun e => ofConsumer e.1).getD false

/-- Origin, original program counter and BODY of an instruction of a launch (R141). -/
def Launch.origin3 (l : Launch) (pc : Nat) : Nat × Nat × Nat :=
  match l.fused with
  | none => (0xFF, pc, l.entry.toNat)
  | some f =>
    match f.entryAt pc with
    | some (o, doff) =>
      let body := if ofConsumer o then f.cbody.toNat else f.pbody.toNat
      (o % 4, body + doff, body)
    | none => (0xFF, pc, l.entry.toNat)

/-- TORG of a thread (R142): it describes the instruction at TPC, which outside the fused code is its own (log entry
87). -/
def State.torg (s : State) (pno : Nat) (t : Thread) : Word :=
  match s.launch? pno t.lid with
  | none => 0
  | some l =>
    match l.fused with
    | none => 0
    | some _ =>
      if t.spliced then
        let (o, opc, _) := l.origin3 t.tpc.toNat
        Word.ofNat (2 ^ 63 + (if o = 0xFF then 0 else o) * 2 ^ 61 + opc % 2 ^ 57)
      else 0

/-- A record about a thread at an address of its code. -/
def State.obsThread (s : State) (kind pno core slot : Nat) (t : Thread) (pc : Nat) : Obs :=
  let r := s.obs kind pno
  match s.launch? pno t.lid with
  | none => { r with core := core, slot := slot, pc := pc, lid := t.lid }
  | some l =>
    let (o, opc, body) := l.origin3 pc
    { r with core := core, slot := slot, org := o, pc := opc, kbody := body, lid := t.lid }

/-- A record of a launch about an instruction at an address, whichever thread it belonged to (R141, R257). -/
def State.obsAt (s : State) (kind pno lid : Nat) (pc : Word) : Obs :=
  let r := s.obs kind pno
  match s.launch? pno lid with
  | none => { r with pc := pc.toNat, lid := lid }
  | some l =>
    let (o, opc, body) := l.origin3 pc.toNat
    { r with org := o, pc := opc, kbody := body, lid := lid }

/-- A fault of an instruction at an address is attributed to the consumer of its fused launch (R141). -/
def State.secondAt (s : State) (pno lid : Nat) (pc : Word) : Bool :=
  ((s.launch? pno lid).map fun l => l.second pc.toNat).getD false

/-- Counts a fatal fault of a launch, and of the partition (R51, R113, R141). With `second` the fault of a fused launch
counts in the consumer's record. The operator's view of the count waits for the interval's end unless fault
details are granted at level 2 or 3 (R53). -/
def State.countFatal (s : State) (pno lid : Nat) (second : Bool) : State :=
  let s := s.modLaunch pno lid fun l =>
    match l.fused with
    | some f => if second then { l with fused := some { f with fatalC := f.fatalC + 1 } } else { l with fatals := l.fatals + 1 }
    | none => { l with fatals := l.fatals + 1 }
  s.modPart pno fun p =>
    { p with fatals := p.fatals + 1, fatalsShown := if 2 ≤ p.level 5 then p.fatalsShown + 1 else p.fatalsShown }

/-- A fault of a thread at an address is attributed to the consumer of its fused launch. -/
def State.secondOf (s : State) (pno : Nat) (t : Thread) (pc : Nat) : Bool :=
  ((s.launch? pno t.lid).map fun l => l.second pc).getD false

/-- The zones that accesses of the instruction at an address of a launch's code go to instead of others (R138): those of the
consumer of a fused pair, of an aliased zone to the producer's. -/
def State.zonesMoved (s : State) (pno lid pc : Nat) : KMap Nat :=
  match (s.launch? pno lid).bind (·.fused) with
  | none => []
  | some f =>
    match f.entryAt pc with
    | some (o, _) => if ofConsumer o then f.zoneMap else []
    | none => []

/-- A local offset where its zone goes to. -/
def moveOff (m : KMap Nat) (off : Nat) : Nat :=
  match m.find? fun e => e.1 = off / 32768 with
  | some (_, z) => 32768 * z + off % 32768
  | none => off

/-- The offset that an access of the instruction at an address of a launch's code goes to (R138). -/
def State.redirectAt (s : State) (pno lid pc off : Nat) : Nat := moveOff (s.zonesMoved pno lid pc) off

/-- The same on core `d`, for code that runs on core `c`: on another core the zone is the consumer's where the launch has
claimed it there (DEDUCED, log entry 141). -/
def State.moveOn (s : State) (c lid : Nat) (m : KMap Nat) (d off : Nat) : Nat :=
  if d = c || (s.core d).claims.look (off / 32768) = some lid then moveOff m off else off

/-- The same for the instruction that a thread is at. -/
def State.redirect (s : State) (pno : Nat) (t : Thread) (off : Nat) : Nat := s.redirectAt pno t.lid t.pc.toNat off

/-- An address of a window of this device goes where its offset goes on the core that it names; another address stays (R138). -/
def State.redirectWin (s : State) (pno c lid pc : Nat) (w : Word) : Word :=
  let n := w.toNat
  if n < 2 ^ 57 && isWindow n && s.winHere n then
    w - Word.ofNat (winOff n) + Word.ofNat (s.moveOn c lid (s.zonesMoved pno lid pc) (winCore n) (winOff n))
  else w

/-- A malformed entry met at an address (R185): kind 7 in the fault log. -/
def State.malformedRecord (s : State) (pno va : Nat) : State := s.emit { s.obs 7 pno with addr := va }

/-- An access that Lodge or another part of the device makes for a partition has failed: a malformed entry that it met is
entered in the fault log (R185). -/
def State.lodgeMet (s : State) (pno : Nat) (e : LodgeErr) : State :=
  match e with
  | .malformed va => s.malformedRecord pno va
  | _ => s

/-- What Lodge, Binding or the Rink reads for a partition; where the read fails there is none, and a malformed entry that it
met is recorded (R185). -/
def State.lodgeSee (s : State) (pno va n : Nat) : Option (List Byte) × State :=
  match s.lodgeRead pno va n with
  | .ok (bs, s) => (some bs, s)
  | .error e => (none, s.lodgeMet pno e)

/-- A record of a remote access refused (code 1) or timed out (code 2) (R26): kind 4. -/
def State.remoteRecord (s : State) (pno core : Nat) (addr code : Nat) : State :=
  s.emit { s.obs 4 pno with core := core, addr := addr, code := code }

/-- Lodge could not write (R65, R192): kind 11, with the address. -/
def State.lodgeFailRecord (s : State) (pno addr : Nat) : State := s.emit { s.obs 11 pno with addr := addr }

/-- The launch or packet check that failed (R96, R73): kind 3, with the code. -/
def State.checkRecord (s : State) (pno code addr : Nat) : State := s.emit { s.obs 3 pno with code := code, addr := addr }

end Sys2Proof.Machine
end

