-- ==== Sys2Proof/Machine/Ops.lean ====
section
/-!
DEFINITION. The shared operations of every instruction: the clock and the counters it moves, register access (R146 to
R151), channels (R152 to R154), parking and waking (R2), retiring, taking a trap and what follows a fatal one (R249,
R250), releases and acquires (R206, R207).
-/

namespace Sys2Proof.Machine

/-! ### Level state (R100, R105) -/

def tagLvl (t : Word) : Nat := bits t.toNat 63 61
def tagDom (t : Word) : Nat := bits t.toNat 60 58
def tagOrg (t : Word) : Nat := bits t.toNat 57 46
def tagIdx (t : Word) : Nat := bits t.toNat 45 0

/-- A level of a launch; a level it does not have reads as DOMC 0, SCOPE 0, COUNT 0. -/
def Launch.lev (l : Launch) (i : Nat) : Level := l.levs[i]?.getD ⟨0, 0, 0⟩

/-- Scope at which the thread's current level releases (R112). -/
def State.levelScope (s : State) (pno : Nat) (t : Thread) : Scope :=
  match s.launch? pno t.lid with
  | none => .slot
  | some l => Scope.ofCode (l.lev (tagLvl t.tag)).scope

/-! ### Counters (R273) -/

/-- Adds `n` to every counter of a core that counts event `ev` (R273); a threshold gives a kind 19 notice. -/
def State.countCore (s : State) (c ev n : Nat) : State :=
  let x := s.core c
  if x.cevs = [] || n = 0 then s
  else (List.range 8).foldl (fun s i =>
    let x := s.core c
    let (v, hit) := countSel (x.cevs.lookD i 0) ev (x.ctrs.lookD i 0) n
    let s := if v = x.ctrs.lookD i 0 then s else s.setCore c { x with ctrs := x.ctrs.put i v }
    if hit then
      match s.corePart c with
      | some pno => s.emit { s.obs 19 pno with core := c, addr := v, sub := i }
      | none => s
    else s) s

/-- Parked slots of a core. -/
def Core.parkedSlots (x : Core) : Nat := (x.threads.filter fun e => e.2.park.isSome).length

/-- Moves the clock to core cycle `c` if it has not passed, counting core cycles and parked slot-cycles (R273). -/
def State.pass (s : State) (c : Nat) : State :=
  if c ≤ s.clk then s
  else
    let d := c - s.clk
    let s' := { s with clk := c }
    s.cores.foldl (fun a e => if e.2.cevs = [] then a else (a.countCore e.1 1 d).countCore e.1 5 (d * e.2.parkedSlots)) s'

/-! ### State-change log (R270) -/

/-- The four states of R270 for a parked thread. -/
def Why.logState : Why → Nat
  | .chan _ _ _ | .kwait _ _ _ | .lreq | .wgalloc | .paya | .word _ _ _ _ _ .barrier => 1
  | .word _ _ _ _ _ .watch | .word _ _ _ _ _ .join | .vcell _ _ | .ldf _ _ | .rel | .fault _ _ _ _ | .sbFull | .unack | .remote _ | .job _ _ | .vsync | .pfence _
  | .qbind _ _ | .cbld _ _ _ | .enq _ | .spawnRing | .tlbinv _ | .stopw _ | .until _ | .yield _ => 2

/-- A debug stop holds the thread. One that stands between trap entry and RFT goes on, and stops at the first boundary after
its RFT (R250; DEDUCED, log entry 140). -/
def Thread.debugHeld (t : Thread) : Bool := t.dbg && !bit t.tcause.toNat 63

/-- A thread that waits for work, or stands stopped: idle, as R270 has it. -/
def Thread.standsIdle (t : Thread) : Bool := t.idle || t.debugHeld || t.stopped ≠ []

/-- The state of R270 that a thread is in. -/
def Thread.logState (t : Thread) : Nat :=
  if t.standsIdle then 3
  else match t.park with
    | some p => p.why.logState
    | none => 0

/-- Writes the gathered entries of a core as one kind 17 record (R270). -/
def State.slogFlush (s : State) (c : Nat) : State :=
  let x := s.core c
  match x.slog, s.corePart c with
  | e :: rest, some pno =>
    let f := rest.head?
    let s := s.setCore c { x with slog := [] }
    s.emit { s.obs 17 pno with
      sub := e.st, core := c, slot := e.slot, org := e.org, addr := e.delta, pc := e.pc.toNat, time := e.time,
      lid := e.lid,
      kbody := (match f with | some g => g.pc.toNat | none => 0),
      data := (match f with
        | some g => leBytes 4 g.delta ++ leBytes 1 g.slot ++ leBytes 1 g.st ++ leBytes 1 g.org ++ leBytes 1 2
        | none => List.replicate 7 0 ++ leBytes 1 1) }
  | _, _ => s

/-- Adds the time that a slot's thread has spent in its state to the level-1 sums (R50). -/
def State.spendState (s : State) (pno c sl : Nat) : State :=
  match (s.core c).slogState.look sl with
  | some (st, since) => if (s.part pno).level 2 = 1 then s.gather pno (2 * 65536 + st) (s.clk - since) else s
  | none => s

/-- Notes that the thread of a slot is in a state from now on (R270): one that stands stopped stays in state 3. -/
def State.noteState (s : State) (c sl st : Nat) : State :=
  let x := s.core c
  if !bit x.slcfg 0 then s
  else
    match s.thread? c sl, s.corePart c with
    | some t, some pno =>
      let st := if t.standsIdle then 3 else st
      if (x.slogState.lookD sl (3, 0)).1 = st then s
      else
      let (o, opc, _) := match s.launch? pno t.lid with
        | some l => l.origin3 t.pc.toNat
        | none => (0xFF, t.pc.toNat, 0)
      let e : SlogEntry := ⟨min (s.clk - x.slogLast) (2 ^ 32 - 1), sl, st, Word.ofNat opc, o, s.fab, t.lid⟩
      let s := s.spendState pno c sl
      let s := s.modCore c fun x => { x with slog := x.slog ++ [e], slogLast := s.clk, slogState := x.slogState.put sl (st, s.clk) }
      if 2 ≤ (s.core c).slog.length then s.slogFlush c else s
    | _, _ => s

/-- Counts the time of the threads' states up to now (R50). -/
def State.spendAll (s : State) (pno : Nat) : State :=
  s.cores.foldl (fun (s : State) e =>
    if s.corePart e.1 ≠ some pno || e.2.slcfg = 0 then s
    else
      let s := e.2.slogState.foldl (fun (s : State) x => s.spendState pno e.1 x.1) s
      s.modCore e.1 fun x => { x with slogState := KMap.mapVals (fun (v : Nat × Nat) => (v.1, s.clk)) x.slogState }) s

/-! ### Registers (R146 to R151) -/

/-- Value of gn in a window (R148). -/
def Core.greg (x : Core) (t : Thread) (n : Nat) : Word := x.regs.lookD (t.base + n) 0

/-- Writes gn; the write clears the entry's poison. -/
def Core.setGreg (x : Core) (t : Thread) (n : Nat) (v : Word) : Core :=
  { x with regs := KMap.putD 0 x.regs (t.base + n) v, regPoison := x.regPoison.filter (· ≠ t.base + n) }

/-- Value of kn as an instruction issued at core cycle `u` reads it (R150). -/
def kRead (h : KReg) (u : Nat) : Word := ((h.find? fun e => e.1 + 8 ≤ u).map Prod.snd).getD 0

/-- Writes of a k register that some later read can still see, from cycle `u` on. -/
def kPrune : KReg → Nat → KReg
  | [], _ => []
  | e :: h, u => if e.1 + 8 ≤ u then [e] else e :: kPrune h u

/-- A write of kn issued at cycle `u` (R150, R151). -/
def Core.setKreg (x : Core) (n u : Nat) (v : Word) : Core :=
  { x with kregs := x.kregs.put n ((u, v) :: kPrune (x.kregs.lookD n []) u) }

/-- Codes by kind (R146). -/
def isGCode (c : Code) : Bool := c.toNat < 0x80
def isKCode (c : Code) : Bool := 0x80 ≤ c.toNat && c.toNat < 0xA0
def isQCode (c : Code) : Bool := 0xA0 ≤ c.toNat && c.toNat < 0xB0
def codeNum (c : Code) : Nat := if c.toNat < 0x80 then c.toNat else if c.toNat < 0xA0 then c.toNat - 0x80 else c.toNat - 0xA0

def Core.chan (x : Core) (n : Nat) : Chan := x.chans.lookD n Chan.empty
def Core.setChan (x : Core) (n : Nat) (q : Chan) : Core := { x with chans := x.chans.put n q }

/-- Adds something in flight that leaves by a Gondola port, 16 for what stays on the device. -/
def State.sendBy (s : State) (port core sth lid : Nat) (w : Flight) : State :=
  { s with flights := s.flights ++ [⟨s.nextId, port, core, sth, lid, w⟩], nextId := s.nextId + 1 }

/-- Adds something in flight on the device. -/
def State.send (s : State) (core sth lid : Nat) (w : Flight) : State := s.sendBy 16 core sth lid w

/-- Changes the count of unacknowledged writes of a thread (R175). -/
def State.unackUp (s : State) (c sth n : Nat) : State := s.modSth c sth fun t => { t with unack := t.unack + n }

/-- Ports that the route table names for a device and that are up (R30). -/
def State.upPorts (s : State) (dev : Nat) : List Nat :=
  if 640 ≤ dev || dev = s.devnum then []
  else (List.range 16).filter fun p => bit (s.grt.lookD dev 0) p && (s.ports.lookD p Port.zero).st = 2

/-- The port by which a packet for a device leaves, if one of its route is up (R30): for ORD traffic the one that its
source and destination core always take, for the other classes any. -/
def State.pickPort (s : State) (dev : Nat) (ord : Option (Nat × Nat)) : Option (Nat × State) :=
  match s.upPorts dev with
  | [] => none
  | p :: ps =>
    let (k, s) := match ord with
      | some (a, b) => (Config.ordPort a b, s)
      | none => s.choose
    some ((p :: ps).getD (k % (ps.length + 1)) p, s)

/-- A number of a core of a device, for the port that ORD traffic takes. -/
def ordKey (dev core : Nat) : Nat := dev * 4096 + core

/-- Something leaves for another device, hop count 8 (R30); with no port up it is lost. What is for this device itself takes
no port. -/
def State.depart (s : State) (dev : Nat) (ord : Option (Nat × Nat)) (a : Answer) : State :=
  if dev = s.devnum then s.say a
  else match s.pickPort dev ord with
  | some (p, s) => s.say (.sent p 8 a)
  | none => s

/-- Sends a request over Gondola, which awaits its response as `w` (R26). With no port up nothing is sent: the caller
gives the refused outcome. -/
def State.gondola (s : State) (core sth lid : Nat) (ord : Option (Nat × Nat)) (req : RemReq) (w : Flight) : State :=
  match s.pickPort (bits req.addr.toNat 40 31) ord with
  | some (p, s) => (s.sendBy p core sth lid w).say (.sent p 8 (.gsend req))
  | none => s

/-- Sends a batch of a bound channel within its credits, at most 16 entries (R154). -/
def State.sendBatch (s : State) (c ch : Nat) : State :=
  let q := (s.core c).chan ch
  match q.bind with
  | none => s
  | some b =>
    let n := min (min q.vals.length 16) b.credits
    if n = 0 then s.modCore c fun x => x.setChan ch { q with due := q.vals ≠ [] }
    else
      let s := s.modCore c fun x => x.setChan ch
        { q with vals := q.vals.drop n, bind := some { b with credits := b.credits - n, out := b.out + n }, since := s.clk,
                 due := decide (n < q.vals.length) }
      if b.dev = 1023 || b.dev = s.devnum then
        s.send c 0 0 (.proxy b.core b.chan (q.vals.take n) ch b.gen false)
      else if s.upPorts b.dev = [] then
        let s := ((q.vals.take n).foldl (fun (s : State) e => s.send c e.2 0 (.ack 1)) s).remoteRecord
          ((s.corePart c).getD 0) c (0x01FFFE0000000000 + b.dev * 2 ^ 31 + b.core * 2 ^ 19) 1
        s.modCore c fun x => x.setChan ch { q with vals := q.vals.drop n, since := s.clk, due := false }
      else
        let a := Word.ofNat (0x01FFFE0000000000 + b.dev * 2 ^ 31 + b.core * 2 ^ 19)
        let req : RemReq := ⟨s.nextId, s.devnum, c, s.tsidOf c, a, .push b.chan ((q.vals.take n).map Prod.fst)⟩
        s.gondola c 0 0 (some (ordKey s.devnum c, ordKey b.dev b.core)) req (.gpush req ch b.gen (q.vals.take n) s.fab)

/-- Pushes a value into a channel (R152, R154), by the thread of number `sth`. -/
def State.push (s : State) (c ch sth : Nat) (v : Word) : State :=
  let q := (s.core c).chan ch
  match q.bind with
  | none => s.modCore c fun x => x.setChan ch { q with vals := q.vals ++ [(v, sth)], src := q.src ++ [none] }
  | some _ =>
    let s := (s.modCore c fun x => x.setChan ch
      { q with vals := q.vals ++ [(v, sth)], since := if q.vals = [] then s.clk else q.since }).unackUp c sth 1
    if 8 ≤ q.vals.length + 1 || q.due then s.sendBatch c ch else s

/-- Pops the oldest entry; an entry that came by proxy returns its credit (R154). -/
def State.pop (s : State) (c ch : Nat) : State :=
  let q := (s.core c).chan ch
  let s := s.modCore c fun x => x.setChan ch { q with vals := q.vals.drop 1, src := q.src.drop 1 }
  match q.src with
  | some (.core core from' gen) :: _ => s.send c 0 0 (.credit core from' gen)
  | some (.device dev core id) :: _ => s.depart dev (some (ordKey s.devnum c, ordKey dev core)) (.credit dev id)
  | _ => s

/-- The channels among source codes, one for each pop, in operand order (R153). -/
def popsOf (srcs : List Code) : List Nat := (srcs.filter isQCode).map codeNum

/-- Value of the source operand at position `i` of the sources (R146, R153): a channel named twice delivers its older
entry to the earlier operand. -/
def State.operand (s : State) (srcs : List Code) (i : Nat) : Word :=
  let c := srcs[i]?.getD 0xB0
  let x := s.myCore
  if isGCode c then x.greg s.me (codeNum c)
  else if isKCode c then
    match s.me.prog.kseen with
    | some m => m.lookD (codeNum c) 0
    | none => kRead (x.kregs.lookD (codeNum c) []) s.clk
  else if isQCode c then
    let before := ((srcs.take i).filter (· = c)).length
    match s.me.prog.took with
    | some l => (((l.filter fun e => e.1 = codeNum c)[before]?).map Prod.snd).getD 0
    | none => (((x.chan (codeNum c)).vals[before]?).map Prod.fst).getD 0
  else 0

/-- Writes a register by operand code (R146): `Wr` of spec 16. -/
def State.wr (s : State) (d : Code) (v : Word) : State :=
  if isGCode d then s.modMyCore fun x => x.setGreg s.me (codeNum d) v
  else if isKCode d then s.modMyCore fun x => x.setKreg (codeNum d) s.clk v
  else if isQCode d then s.push s.cur.core (codeNum d) s.me.sth v
  else s

/-- Writes a predicate; a write to p0 is discarded (R146). -/
def State.wrPred (s : State) (pd : Fin 8) (v : Bool) : State :=
  if pd.val = 0 then s
  else s.modMe fun t => { t with preds := BitVec.ofNat 8 (t.preds.toNat - (if bit t.preds.toNat pd.val then 2 ^ pd.val else 0) + (if v then 2 ^ pd.val else 0)) }

/-- Value of a predicate; p0 is true (R8). -/
def Thread.pred (t : Thread) (i : Fin 8) : Bool := i.val = 0 || bit t.preds.toNat i.val

/-- The instruction executes (R301). -/
def Thread.executes (t : Thread) (p : Pred) : Bool := t.pred p.px != p.pn

/-! ### Retiring, parking, waking -/

/-- Performs the pops of the instruction being issued (R153). -/
def State.doPops (s : State) : State := s.cur.pops.foldl (fun s ch => s.pop s.cur.core ch) s

/-- The oldest entries of the channels that an instruction pops, in order. -/
def Core.popped (x : Core) : List Nat → List Nat → List (Nat × Word)
  | _, [] => []
  | seen, ch :: rest => (ch, (((x.chan ch).vals[seen.count ch]?).map Prod.fst).getD 0) :: Core.popped x (ch :: seen) rest

/-- The instruction being issued may park with its sources read: it claims the channel entries that it pops, which stay in
their channels until it completes; a trap before that leaves them there (R153, R320, log entry 127). -/
def State.takeSources (s : State) : State :=
  if s.cur.pops = [] || s.me.prog.took.isSome then s
  else
    let l := s.myCore.popped [] s.cur.pops
    s.modMe fun t => { t with prog := { t.prog with took := some l } }

/-- The instruction completes: its pops are made, and the thread goes on at `pc` (R320, R327). -/
def State.retireTo (s : State) (pc : Word) : State :=
  let s := s.doPops
  (s.modMe fun t => { t with pc := pc, park := none, prog := Prog.fresh, rel := none }).noteState s.cur.core s.cur.slot 0

/-- A short instruction completes and falls through. -/
def State.retire (s : State) : State := s.retireTo (s.me.pc + 8)

/-- A long instruction completes and falls through. -/
def State.retireLong (s : State) : State := s.retireTo (s.me.pc + 16)

/-- The thread parks where it stands (R2): PC stays on the instruction, which runs again when it wakes. A thread that
held a FIFO position keeps it (R131, R172). -/
def State.parkMe (s : State) (w : Why) : State :=
  let (n, s) := match s.me.prog.stamp with
    | some n => (n, s)
    | none => s.tickStamp
  let ks := s.me.prog.kseen.getD (s.myCore.kregs.mapVals fun h => kRead h s.clk)
  (s.modMe fun t =>
    { t with park := some ⟨w, n, s.clk⟩, prog := { t.prog with stamp := some n, kseen := some ks } }).noteState
    s.cur.core s.cur.slot w.logState

/-- A parked thread wakes, and its instruction, which has issued, goes on next. -/
def State.wake (s : State) (c sl : Nat) : State :=
  ((s.modThread c sl fun t => { t with park := none, prog := { t.prog with woken := true } }).noteState c sl 0).soon [.slot c sl]

/-- As `wake`, noting on the thread how far its instruction has gone. -/
def State.wakeWith (s : State) (c sl : Nat) (f : Prog → Prog) : State :=
  (s.modThread c sl fun t => { t with prog := f t.prog }).wake c sl

/-! ### Traps (R249 to R252) -/

/-- CODE and SUB values (R251). -/
def Cause.code : Cause → Nat
  | .illop => 0x01 | .illopnd => 0x02 | .illmod => 0x03 | .window => 0x04 | .align => 0x05 | .pageflt => 0x06
  | .prot => 0x07 | .domain => 0x08 | .fmtmis => 0x09 | .vlate => 0x0A | .elate => 0x0B | .mcnt => 0x0C | .poison => 0x0D
  | .swtrap => 0x0E | .bkpt => 0x0F | .preempt => 0x10 | .illlen => 0x11 | .priv => 0x12

def Acc.code : Acc → Nat
  | .read => 1 | .write => 2 | .exec => 3

/-- TCAUSE.ACT of a thread. -/
def Thread.act (t : Thread) : Bool := bit t.tcause.toNat 63

/-- TCAUSE with its fields (R248). -/
def causeWord (cause : Cause) (late rpl : Bool) (iter acc sub : Nat) : Word :=
  Word.ofNat (2 ^ 63 + b2n late * 2 ^ 62 + b2n rpl * 2 ^ 61 + iter % 4096 * 2 ^ 36 + acc % 4 * 2 ^ 16 + sub % 256 * 2 ^ 8
    + cause.code)

/-- Handler address of a thread (R248). -/
def Thread.handler (t : Thread) : Word := t.tvec - Word.ofNat (t.tvec.toNat % 8)

/-- The entry of a handler (R249), in the thread's own slot, window and level. -/
def Thread.enter (t : Thread) (cause : Cause) (late rpl : Bool) (iter acc sub : Nat) (val seq tpc : Word) : Thread :=
  { t with tpc := tpc, tcause := causeWord cause late rpl iter acc sub, tval := val, tseq := seq, pc := t.handler,
           park := none, prog := Prog.fresh, rel := none }

/-- A trace record of a trap entry, when TRCFG bit 1 is set; PREEMPT is not traced (R269). -/
def State.traceTrap (s : State) (c sl : Nat) (cause : Cause) (val : Word) (pc : Word) : State :=
  if cause ≠ .preempt && bit (s.core c).trcfg 1 then
    match s.thread? c sl, s.corePart c with
    | some t, some pno => s.emit { s.obsThread 16 pno c sl t pc.toNat with code := 1, addr := val.toNat }
    | _, _ => s
  else s

/-- A trap that is fatal to its thread (R250): one fatal fault and a kind 1 record, with the ring entry and the job that a
late cause names (R251, R257); the thread then ends as EXIT does, at its next turns. -/
def State.fatalTrap (s : State) (c sl : Nat) (cause : Cause) (sub : Nat) (val : Word) (seq : Nat := 0) : State :=
  match s.thread? c sl, s.corePart c with
  | some t, some pno =>
    let r := s.obsThread 1 pno c sl t t.pc.toNat
    let job := match cause with | .elate | .mcnt => bits val.toNat 15 0 | _ => 0
    let s := (s.countFatal pno t.lid (s.secondOf pno t t.pc.toNat)).emit
      { r with code := cause.code, sub := sub, addr := val.toNat, tseq := seq, job := job }
    (s.modThread c sl fun t => { t with ending := true, park := none, prog := Prog.fresh, rel := none }).noteState c sl 0
  | _, _ => s

/-- A precise trap at the instruction being issued (R249, R250), with the kind of access for ACC. -/
def State.trapAcc (s : State) (cause : Cause) (val : Word) (acc : Nat) : State :=
  let t := s.me
  let c := s.cur.core
  let sl := s.cur.slot
  let s := s.countCore c 7 1
  if t.handler = 0 || t.act then s.fatalTrap c sl cause 0 val
  else
    ((s.traceTrap c sl cause val t.pc).modMe fun t => t.enter cause false false 0 acc 0 val 0 t.pc).noteState c sl 0

/-- A precise trap with ACC 0. -/
def State.trap (s : State) (cause : Cause) (val : Word) : State := s.trapAcc cause val 0

/-- A precise trap whose TVAL is the first instruction word (R251). -/
def State.trapWord (s : State) (cause : Cause) : State := s.trap cause (Word.ofNat s.cur.word)

/-- A thread that waits for the acceptance of its ENQ takes a late cause at once: the entry is held, and the thread goes
on from the next instruction, where its PC already stands (R386, R254). -/
def State.holdEnq (s : State) (c sth : Nat) : State :=
  match slotOf (s.core c) sth with
  | none => s
  | some sl =>
    match s.thread? c sl with
    | none => s
    | some t =>
      match t.park with
      | some ⟨.enq seq, _, _⟩ =>
        if t.act then s
        else
          let s := s.modCore c fun x =>
            { x with ring := x.ring.map fun e => if e.seq = seq && e.st = .waiting then { e with st := .held } else e }
          (s.modThread c sl fun t => { t with park := none, prog := Prog.fresh }).noteState c sl 0
      | _ => s

/-- Makes a late cause due at a thread (R252, R256). -/
def State.lateDue (s : State) (c sth : Nat) (l : Late) : State :=
  (s.modSth c sth fun t => { t with late := t.late ++ [l] }).holdEnq c sth

/-- A late cause of a thread's vector or engine work (R250): fatal where the work is of the handler that the thread runs,
else due at the thread. -/
def State.workLate (s : State) (c sth : Nat) (inHandler : Bool) (l : Late) : State :=
  match s.bySth c sth with
  | none => s
  | some t =>
    if inHandler && t.act then
      match slotOf (s.core c) sth with
      | some sl => s.fatalTrap c sl l.cause l.sub l.val l.seq
      | none =>
        let pno := (s.corePart c).getD 0
        let r := s.obsThread 1 pno c 0xFF t t.pc.toNat
        let job := match l.cause with | .elate | .mcnt => bits l.val.toNat 15 0 | _ => 0
        ((s.countFatal pno t.lid (s.secondOf pno t t.pc.toNat)).emit
          { r with code := l.cause.code, sub := l.sub, addr := l.val.toNat, tseq := l.seq, job := job }).modSth c sth
            fun t => { t with ending := true, park := none, prog := Prog.fresh, rel := none }
    else s.lateDue c sth l

/-! ### Release and acquire (R206, R207) -/

/-- Scopes wider than CORE. -/
def wideScope (sc : Scope) : Bool := 2 ≤ sc.code

/-- Moves a thread's release on: the probes leave when UNACK is 0, and entries that have drained leave the list. -/
def Thread.relMove (t : Thread) (x : Core) : Thread :=
  match t.rel with
  | none => t
  | some r =>
    let r := { r with entries := r.entries.filter fun n => x.sbuf.any fun e => e.seq = n }
    let r := if t.unack = 0 && !r.probed then { r with probed := true, probes := t.touched } else r
    { t with rel := some r }

/-- Every condition of the release holds. -/
def Thread.relDone (t : Thread) : Bool :=
  match t.rel with
  | none => false
  | some r => t.unack = 0 && r.probed && r.probes.isEmpty && r.entries.isEmpty

/-- A release that has completed clears the touched-slice mask (R206). -/
def Thread.relEnd (t : Thread) : Thread :=
  { t with rel := none, touched := [], prog := { t.prog with released := true } }

/-- Begins or resumes the release of the instruction being issued. `true`: it has completed. -/
def State.release (s : State) (sc : Scope) : Bool × State :=
  if sc.code = 0 || s.me.prog.released then (true, s)
  else
    let x := s.myCore
    let t := s.me
    let t := match t.rel with
      | some _ => t
      | none => { t with rel := some ⟨sc, false, [], (x.sbuf.filter fun (e : SbEntry) => wideScope sc || e.sth = t.sth).map SbEntry.seq⟩ }
    let t := t.relMove x
    if t.relDone then (true, s.setMe t.relEnd) else (false, s.setMe t)

/-- `Park(the release conditions of the scope hold)`, then continue. -/
def State.releaseThen (s : State) (sc : Scope) (k : State → State) : State :=
  match s.release sc with
  | (true, s) => k s
  | (false, s) => s.parkMe .rel

/-- Moves the releases of a core's threads on; a thread parked in one that completes wakes (R206). -/
def State.relSettle (s : State) (c : Nat) : State :=
  (s.core c).threads.foldl (fun s e =>
    match s.thread? c e.1 with
    | none => s
    | some t =>
      if t.rel.isNone then s
      else
        let t := t.relMove (s.core c)
        match t.park with
        | some ⟨.rel, _, _⟩ =>
          if t.relDone then (s.setThread c e.1 t.relEnd).wake c e.1 else s.setThread c e.1 t
        | _ => s.setThread c e.1 t) s

/-- An acquire at a scope (R207, R177): wider than CORE it invalidates the TSID's data-cache lines. -/
def State.acquire (s : State) (sc : Scope) : State :=
  if wideScope sc then
    let ts := s.tsidOf s.cur.core
    s.modMyCore fun x => { x with dcache := x.dcache.filter fun l => l.tsid ≠ ts }
  else s

/-- Lowers a thread's UNACK by acknowledged writes (R175), which may complete releases and free a parked writer. -/
def State.ackThread (s : State) (c sth n : Nat) : State :=
  let s := s.modSth c sth fun t => { t with unack := t.unack - n }
  let s := s.relSettle c
  match slotOf (s.core c) sth with
  | some sl =>
    match (s.thread? c sl).bind (·.park) with
    | some ⟨.unack, _, _⟩ => s.wake c sl
    | _ => s
  | none => s

/-- Touches a slice for a thread (R206). -/
def State.touch (s : State) (c sth slice : Nat) : State :=
  s.modSth c sth fun t => { t with touched := insertNat t.touched slice }

end Sys2Proof.Machine
end

