-- ==== Sys2Proof/Machine/Operands.lean ====
section
/-!
DEFINITION. The operand forms: which codes a position accepts (R146, R302, R303), steps 5 and 6 of R304, predication
(R301), poisoned registers (R171, R266) and the conditions on channels (R153), in one shell that every instruction of
the Kamlyn set is issued through.
-/

namespace Sys2Proof.Machine

/-- One outcome of an instruction. -/
abbrev Res := Host.Outcome State Fault Refusal

/-- What a position accepts (R302, R303). -/
inductive Use where
  /-- Any register: a source of this kind is read, a channel popped. -/
  | reg
  /-- A channel, named and not popped. -/
  | chan
  /-- A k register, named. -/
  | kreg
  /-- A g code or zero, of groups 0x9 and 0xA. -/
  | vec
  /-- The same, checked and not read: a segment count of 0 (R300). -/
  | named
  /-- A group of `n` registers whose code is a multiple of `m`. -/
  | group (n m : Nat)
  deriving DecidableEq, Repr

structure Pos where
  code : Code
  use : Use
  deriving DecidableEq, Repr

/-- A plain register position. -/
def rg (c : Code) : Pos := ⟨c, .reg⟩

/-- Step 5 of R304 for one position. -/
def Pos.legal (p : Pos) : Bool :=
  match p.use with
  | .reg => p.code.toNat ≤ 0xB0
  | .chan => isQCode p.code
  | .kreg => isKCode p.code
  | .vec | .named => p.code.toNat < 0x80 || p.code.toNat = 0xB0
  | .group n m => p.code.toNat + n ≤ 0x80 && p.code.toNat % m = 0

/-- Registers that a position names, counted from its code. -/
def Pos.width (p : Pos) : Nat := match p.use with | .group n _ => n | _ => 1

/-- Step 6 of R304 for one position. -/
def Pos.inWindow (p : Pos) (lim : Nat) : Bool := 0x80 ≤ p.code.toNat || p.code.toNat + p.width ≤ lim

/-- Steps 5 and 6 of R304 over the positions in the order DST, SA, SB, SC: the trap and the code it names. -/
def operandTrap (ps : List Pos) (lim : Nat) : Option (Cause × Code) :=
  match ps.find? fun p => !p.legal with
  | some p => some (.illopnd, p.code)
  | none =>
    match ps.find? fun p => !p.inWindow lim with
    | some p => some (.window, p.code)
    | none => none

/-- The g codes that a source position reads. -/
def Pos.reads (p : Pos) : List Nat :=
  if isGCode p.code then (match p.use with | .chan | .kreg | .named => [] | .group n _ => (List.range n).map (p.code.toNat + ·) | _ => [p.code.toNat])
  else []

/-- The first poisoned register that the sources read (R171, R251). -/
def poisonedReg (x : Core) (t : Thread) (srcs : List Pos) : Option Nat :=
  (srcs.flatMap Pos.reads).find? fun g => x.regPoison.contains (t.base + g)

/-- Codes of the plain register sources, in operand order. -/
def regCodes (srcs : List Pos) : List Code := (srcs.filter fun p => p.use = .reg).map Pos.code

/-- The channel that a destination pushes to, if it is one (R152). -/
def destChan : Option Pos → Option Nat
  | some d => if isQCode d.code then some (codeNum d.code) else none
  | none => none

/-- Channels whose entries a thread claims: those that an instruction of it read before it parked (R153, log entry 127). -/
def Thread.claimsOn (t : Thread) : List Nat :=
  (((t.prog.took.getD []) ++ ((t.begun.bind fun b => b.2.took).getD [])).map Prod.fst)

/-- Another thread than the one in a slot claims entries of one of some channels. -/
def Core.claimed (x : Core) (me : Nat) (reads : List Nat) : Bool :=
  reads ≠ [] && ((x.threads.any fun e => e.1 ≠ me && e.2.claimsOn.any reads.contains)
    || (x.displaced.any fun e => e.1.claimsOn.any reads.contains) || x.saved.any fun t => t.claimsOn.any reads.contains)

/-- Every condition of R153 holds: enough entries in each source channel, none of them claimed by another thread, room in
the destination channel, and no older thread parked for them (R152). `peek`: the entries are looked at and stay (R357). -/
def chansReady (x : Core) (me : Nat) (stamp : Option Nat) (reads : List Nat) (write : Option Nat) (peek : Bool) : Bool :=
  (reads.all fun ch => reads.count ch ≤ (x.chan ch).vals.length)
  && (peek || !x.claimed me reads)
  && (match write with
    | none => true
    | some ch => (x.chan ch).vals.length < 16 + (if peek then 0 else reads.count ch))
  && x.threads.all fun e =>
    match e.2.park with
    | some ⟨.chan rs w _, n, _⟩ =>
      e.1 = me || (match stamp with | some m => m < n | none => false)
      || !((reads.any fun ch => rs.contains ch) || (write.isSome && w = write))
    | _ => true

/-- The issue of an instruction: steps 5 and 6 of R304 (made whether or not it executes), predication, then poisoned
sources, reads of bound channels (R154) and the conditions on channels. `dst` is none where the instruction writes no
register; `wait` is false for ENQ, which does not wait for room (R386). -/
def issueWith (wait : Bool) (len : Nat) (p : Pred) (dst : Option Pos) (srcs : List Pos) (body : State → State)
    (s : State) : Res :=
  match s.me? with
  | none => .fault .noThread
  | some t =>
    match operandTrap (dst.toList ++ srcs) t.lim with
    | some (cause, code) => .next (s.trap cause (code.setWidth 64))
    | none =>
      if !t.executes p then .next ({ s with cur := { s.cur with pops := [] } }.retireTo (t.pc + BitVec.ofNat 64 len))
      else
        let x := s.myCore
        match poisonedReg x t srcs with
        | some g => .next (s.trap .poison (BitVec.ofNat 64 g))
        | none =>
          let reads := popsOf (regCodes srcs)
          match reads.find? fun ch => (x.chan ch).bind.isSome with
          | some ch => .next (s.trap .illopnd (BitVec.ofNat 64 (0xA0 + ch)))
          | none =>
            let write := if wait then destChan dst else none
            if !chansReady x s.cur.slot t.prog.stamp reads write false then .next (s.parkMe (.chan reads write false))
            else if (write.any fun ch => (x.chan ch).bind.isSome) && 2 ^ 32 - 1 ≤ t.unack then .next (s.parkMe .unack)
            else .next (body { s with cur := { s.cur with pops := reads } })

/-- The issue of a short instruction. -/
def issue (p : Pred) (dst : Option Pos) (srcs : List Pos) (body : State → State) (s : State) : Res :=
  issueWith true 8 p dst srcs body s

/-- Immediates as values (R300). -/
def imm33 (i : BitVec 33) : Word := i.signExtend 64
def imm17 (i : BitVec 17) : Word := i.signExtend 64
def imm41 (i : BitVec 41) : Word := i.signExtend 64

/-- An instruction that computes one result from up to three registers and does nothing else (R320). -/
def compute1 (p : Pred) (d a : Code) (f : Word → Word) (s : State) : Res :=
  issue p (some (rg d)) [rg a] (fun s => (s.wr d (f (s.operand [a] 0))).retire) s

def compute2 (p : Pred) (d a b : Code) (f : Word → Word → Word) (s : State) : Res :=
  issue p (some (rg d)) [rg a, rg b] (fun s => (s.wr d (f (s.operand [a, b] 0) (s.operand [a, b] 1))).retire) s

def compute3 (p : Pred) (d a b c : Code) (f : Word → Word → Word → Word) (s : State) : Res :=
  issue p (some (rg d)) [rg a, rg b, rg c]
    (fun s => (s.wr d (f (s.operand [a, b, c] 0) (s.operand [a, b, c] 1) (s.operand [a, b, c] 2))).retire) s

/-- An instruction that writes a value read off the state. -/
def compute0 (p : Pred) (d : Code) (f : State → Word) (s : State) : Res :=
  issue p (some (rg d)) [] (fun s => (s.wr d (f s)).retire) s

end Sys2Proof.Machine
end

