-- ==== Sys2Proof/Machine/Flags.lean ====
section
/-!
DEFINITION. Flags: the comparisons that set a predicate (R325), and the operations on predicates (R326).
-/

namespace Sys2Proof.Machine

/-- CC over 64-bit values (R325). -/
def ccHolds (cc : CC) (a b : Word) : Bool :=
  match cc with
  | .eq => a = b
  | .ne => a ≠ b
  | .lt => a.toInt < b.toInt
  | .ge => b.toInt ≤ a.toInt
  | .le => a.toInt ≤ b.toInt
  | .gt => b.toInt < a.toInt
  | .ltu => a.toNat < b.toNat
  | .geu => b.toNat ≤ a.toNat
  | .leu => a.toNat ≤ b.toNat
  | .gtu => b.toNat < a.toNat

/-- The operation of PLOG (R326). -/
def plogVal (op : PlogOp) (a b : Bool) : Bool :=
  match op with
  | .and => a && b
  | .or => a || b
  | .xor => a != b
  | .andn => a && !b
  | .not => !a
  | .movp => a

/-- The predicates as PGET gives them: bit n is pn, bit 0 is 1 (R326). -/
def Thread.predWord (t : Thread) : Word := Word.ofNat (t.preds.toNat / 2 * 2 + 1)

/-- PSET: p1 to p7 from bits [7:1] (R326). -/
def Thread.setPreds (t : Thread) (v : Word) : Thread := { t with preds := BitVec.ofNat 8 (v.toNat % 256 / 2 * 2 + 1) }

end Sys2Proof.Machine
end

