-- ==== Sys2Proof/Machine/Formats.lean ====
section
/-!
DEFINITION. What is read off a ZF value and off a vector instruction: element widths (R159), the ZF fields (R157), where an
element lies (R159, R165), the operands and memory format of a vector instruction (R306, R368), and the runs of global
memory that an entry of the dispatch ring accesses (R368, R379).
-/

namespace Sys2Proof.Machine

/-! ### Formats and elements -/

/-- Element width of a format code (R159). -/
def fmtWidth (c : Nat) : Nat :=
  match c with
  | 20 => 64
  | 0 | 19 | 23 | 24 | 27 => 32
  | 1 | 2 | 21 | 22 | 26 => 16
  | 3 | 4 | 8 | 9 | 12 | 13 | 17 | 25 => 8
  | 5 | 6 | 14 | 15 => 6
  | _ => 4

/-- A signed I-class code. -/
def intSigned (c : Nat) : Bool := c = 8 || c = 10 || c = 21 || c = 23

/-! ### ZF (R157, R158) -/

def zfFmt (z : Nat) : Nat := bits z 4 0
def zfDom (z : Nat) : Nat := bits z 8 8
def zfBlk (z : Nat) : Nat := bits z 15 12
def zfCbi (z : Nat) : Nat := bits z 18 16
def zfSzn (z : Nat) : Nat := bits z 23 20

/-! ### Elements in local memory (R159, R165) -/

/-- Bit address of element `i` of a segment at byte offset `o`. -/
def elemBit (e : Nat) (col : Bool) (o i : Nat) : Nat :=
  if col then
    let m := 32 / e
    8 * (o + i / m * 256) + e * (i % m)
  else 8 * o + e * i

/-- `n` bits at a bit address of a memory. -/
def Memory.readBits (m : Memory) (b n : Nat) : Nat := m.read (b / 8) ((b % 8 + n + 7) / 8) / 2 ^ (b % 8) % 2 ^ n

/-! ### Vector instructions -/

/-- Kinds of vector instructions that differ in more than their lanes' function. -/
inductive VKind where
  | lanes | red | dot | scan | ldg | stg | gath | scat
  deriving DecidableEq, Repr

/-- A vector instruction: which of SA, SB and SC are local operands, whether DST is one, its modifiers, and its kind. -/
structure VInfo where
  kind : VKind
  sa : Bool
  sb : Bool
  sc : Bool
  dst : Bool
  m : VMod
  deriving DecidableEq, Repr

/-- The vector instruction that an entry holds. -/
def vinfo (i : Instr) : Option VInfo :=
  match i with
  | .vadd _ _ _ _ m | .vsub _ _ _ _ m | .vmul _ _ _ _ m | .vmin _ _ _ _ m | .vmax _ _ _ _ m | .vand _ _ _ _ m
  | .vor _ _ _ _ m | .vxor _ _ _ _ m | .vshl _ _ _ _ m | .vshr _ _ _ _ m | .vcmp _ _ _ _ m | .vcmul _ _ _ _ m
  | .vperm _ _ _ _ m => some ⟨.lanes, true, true, false, true, m⟩
  | .vfma _ _ _ _ _ m | .vaxpy _ _ _ _ _ m | .vsel _ _ _ _ _ m | .vcmac _ _ _ _ _ m => some ⟨.lanes, true, true, true, true, m⟩
  | .vabs _ _ _ m | .vmov _ _ _ m | .vcvt _ _ _ m | .vexp _ _ _ m | .vlog _ _ _ m | .vrcp _ _ _ m | .vrsq _ _ _ m
  | .vsin _ _ _ m | .vcos _ _ _ m => some ⟨.lanes, true, false, false, true, m⟩
  | .vscl _ _ _ _ m => some ⟨.lanes, true, false, false, true, m⟩
  | .vbcst _ _ _ m => some ⟨.lanes, false, false, false, true, m⟩
  | .viota _ _ m => some ⟨.lanes, false, false, false, true, m⟩
  | .vred _ _ _ m => some ⟨.red, true, false, false, true, m⟩
  | .vdot _ _ _ _ m => some ⟨.dot, true, true, false, true, m⟩
  | .vscan _ _ _ m => some ⟨.scan, true, false, false, true, m⟩
  | .vldg _ _ _ m => some ⟨.ldg, false, false, false, true, m⟩
  | .vstg _ _ _ m => some ⟨.stg, true, false, false, false, m⟩
  | .vgath _ _ _ _ m => some ⟨.gath, false, true, false, true, m⟩
  | .vscat _ _ _ _ m => some ⟨.scat, true, true, false, false, m⟩
  | _ => none

/-- Format code of a memory format (R368); `none` is SAME. -/
def memFmt (vx : Nat) : Option Nat :=
  match vx with
  | 1 => some 0 | 2 => some 1 | 3 => some 2 | 4 => some 3 | 5 => some 4 | 6 => some 8 | 7 => some 9 | 8 => some 21
  | 9 => some 22 | 10 => some 23 | 11 => some 24 | 12 => some 20 | 13 => some 19 | _ => none

def VKind.global : VKind → Bool
  | .ldg | .stg | .gath | .scat => true
  | _ => false

/-- Memory format of a global operand, if it is not SAME. -/
def VInfo.mem (i : VInfo) : Option Nat := if i.kind.global then memFmt i.m.vx.toNat else none
/-- A global access that copies bits (R368). -/
def VInfo.same (i : VInfo) : Bool := i.kind.global && i.m.vx = 0

/-- Active lanes of a segment (R366). -/
def activeLanes (m : VMod) (j : Nat) : Nat := if j + 1 = m.cnt.toNat && m.tail ≠ 0 then m.tail.toNat else 64

/-! ### Runs of an entry -/

/-- An element of an index zone as a 64-bit integer (R379). -/
def indexLane (c raw : Nat) : Word := if intSigned c then sextn (fmtWidth c) raw else Word.ofNat raw

/-- The runs of global memory, address and bytes, that segment `j` of an entry accesses, with index lanes read as local
memory now holds them; none for an entry that accesses no global memory. -/
def Entry.runs (e : Entry) (x : Core) (i : VInfo) (j : Nat) : List (Word × Nat) :=
  let n := activeLanes i.m j
  let load := i.kind = .ldg || i.kind = .gath
  let base := if load then e.v1 + BitVec.ofNat 64 j * i.m.sta.signExtend 64 else e.v0 + BitVec.ofNat 64 j * i.m.std.signExtend 64
  let zone := fmtWidth (zfFmt (if load then e.z0 else e.z1))
  let w := match i.mem with | some c => fmtWidth c / 8 | none => zone / 8
  if i.kind = .gath || i.kind = .scat then
    let c := zfFmt e.z2
    let o := (e.v2 + BitVec.ofNat 64 j * i.m.stb.signExtend 64).toNat
    (List.range n).map fun k =>
      (base + indexLane c (x.lmem.readBits (elemBit (fmtWidth c) i.m.db o k) (fmtWidth c)) * BitVec.ofNat 64 w, w)
  else if i.kind.global then [(base, match i.mem with | some _ => n * w | none => (n * zone + 7) / 8)]
  else []

end Sys2Proof.Machine
end

