-- ==== Sys2Proof/Machine/Access.lean ====
section
/-!
DEFINITION. Where an access goes and how it is performed: classification of an address (R25, R173, R174, R347), the
faults that park or trap (R190, R193), reads and writes at a slice and at a local-memory port (R202), the data cache
and the store buffer (R176), the slices' watch tables (R181), and remote accesses (R26).
-/

namespace Sys2Proof.Machine

/-! ### Slices (R178 to R181) -/

/-- Adds `n` to the counters of a partition slice that count event `ev` (R273). -/
def State.countSlice (s : State) (pno j ev n : Nat) : State :=
  let p := s.part pno
  if p.slsel = [] then s
  else (List.range 4).foldl (fun s k =>
    let p := s.part pno
    let i := 4 * j + k
    let (v, hit) := countSel (p.slsel.lookD k 0) ev (p.slctrs.lookD i 0) n
    let s := s.modPart pno fun p => { p with slctrs := KMap.putD 0 p.slctrs i v }
    if hit then s.emit { s.obs 19 pno with addr := v, sub := k } else s) s

/-- Accesses of slices to runs of physical bytes, one for each 256-byte block, counted as hits or as misses (R273). -/
def State.sliceSee (s : State) (pno : Nat) (runs : List (Nat × Nat)) : State :=
  runs.foldl (fun s q => (List.range ((q.1 % 256 + q.2 + 255) / 256)).foldl (fun s i =>
    let blk := (q.1 / 256 + i) * 256
    let (hit, s) := s.sliceLook pno blk q.1 q.2
    s.countSlice pno (homeSlice (s.part pno).slices blk) (if hit then 0x0201 else 0x0202) 1) s) s

/-- After a write of `n` bytes at `pa` that a slice performed: entries that it satisfies are freed, and their waiters
are sent wake packets (R181), which the slice counts (R273). -/
def State.watchCheck (s : State) (pno pa n : Nat) : State :=
  let (j, k, s) := s.watchFree pno pa n
  if k = 0 then s else s.countSlice pno j 0x0204 k

/-- The parts of a byte list that lie in one block of `w` bytes each: their addresses and bytes. -/
def partsOf (w : Nat) : Nat → Nat → List Byte → List (Nat × List Byte)
  | 0, _, _ => []
  | fuel + 1, a, bs =>
    if bs = [] then [] else
      let k := min bs.length (w - a % w)
      (a, bs.take k) :: partsOf w fuel (a + k) (bs.drop k)

/-- The parts of a byte list that lie in one 256-byte block each. -/
def blockParts (a : Nat) (bs : List Byte) : List (Nat × List Byte) := partsOf 256 (bs.length / 256 + 2) a bs

/-- A write performed at its home slices (R202). -/
def State.sliceWrite (s : State) (pno pa : Nat) (bs : List Byte) : State :=
  (blockParts pa bs).foldl
    (fun s e =>
    ((s.dramWrite (s.part pno).keyGen e.1 e.2).sliceSee pno [(e.1, e.2.length)]).watchCheck pno e.1 e.2.length) s

/-! ### Local memory at its port (R156, R166, R227) -/

/-- Writes bytes of a core's local memory by a thread (`cov` tells what a covered cell's FX becomes: cleared). -/
def Core.lstore (x : Core) (off : Nat) (bs : List Byte) : Core :=
  let cov := cellsCovered off bs.length
  { x with lmem := x.lmem.store off bs, lpoison := x.lpoison.filter fun c => !cov.contains c,
           fx := x.fx.filter fun c => !cov.contains c }

/-- Sets cells full, by an engine, a proxy delivery or a remote AMO result (R212). -/
def Core.fill (x : Core) (cells : List Nat) : Core :=
  { x with full := cells.foldl insertNat x.full, fillers := x.fillers.filter fun e => !cells.contains e.1 }

/-- Sets cells full by an STF of a scope (R351, R212). -/
def Core.fillBy (x : Core) (cells : List Nat) (sc : Scope) : Core :=
  let x := x.fill cells
  { x with fillers := cells.foldl (fun (m : KMap Nat) c => KMap.putD 1 m c sc.code) x.fillers }

/-- The scope at which an LDF that finds a cell full acquires (R212, R351). -/
def Core.fillScope (x : Core) (cell : Nat) : Scope := Scope.ofCode (x.fillers.lookD cell 1)

/-- Sets cells empty. -/
def Core.empty (x : Core) (cells : List Nat) : Core := { x with full := x.full.filter fun c => !cells.contains c }

/-- FX of the cells of a write that carries a sender's TE tells whether it differs from the core's (R227). -/
def Core.foreign (x : Core) (off n : Nat) (te : Option Bool) : Core :=
  match te with
  | some b =>
    let cs := cellsOf off n
    if b = x.te then { x with fx := x.fx.filter fun c => !cs.contains c } else { x with fx := cs.foldl insertNat x.fx }
  | none => x

/-- What an engine's write of `n` bytes leaves besides the bytes: every cell that it covers whole becomes full (R166), and
FX. -/
def Core.edone (x : Core) (off n : Nat) (te : Option Bool) : Core := (x.fill (cellsCovered off n)).foreign off n te

/-- An engine's write of bytes. -/
def Core.estore (x : Core) (off : Nat) (bs : List Byte) (te : Option Bool) : Core :=
  (x.lstore off bs).edone off bs.length te

/-- Some cell of `n` bytes at a local offset is poisoned. -/
def Core.lpoisoned (x : Core) (off n : Nat) : Bool := (cellsOf off n).any fun c => x.lpoison.contains c

/-! ### Store buffer and data cache (R176, R177) -/

/-- The line of a physical address. -/
def lineOf (pa : Nat) : Nat := pa / 32 * 32

/-- Bytes laid over a line's bytes. -/
def overlay (base : Nat) (line : List Byte) (a : Nat) (bs : List Byte) : List Byte :=
  (List.range line.length).map fun i => if a ≤ base + i && base + i < a + bs.length then bs.getD (base + i - a) 0 else line.getD i 0

/-- Performs the RED and FRED of a thread that are on their way to a line (R201, coherence): `go` performs one. -/
def State.myReds (s : State) (c sth line : Nat) : List Sent :=
  s.flights.filter fun f => f.core = c && f.sth = sth && (match f.what with
    | .red _ pa n _ _ => lineOf pa = line && 0 < n
    | .fred _ pa n _ _ => lineOf pa = line && 0 < n
    | _ => false)

/-- Removes a store-buffer entry. -/
def Core.sbDrop (x : Core) (seq : Nat) : Core := { x with sbuf := x.sbuf.filter fun e => e.seq ≠ seq }

/-- Line put in front of its set, within 8 ways of 128 sets. -/
def dcacheAdd (l : List Line) (n : Line) : List Line :=
  let same := fun (e : Line) => e.addr / 32 % 128 = n.addr / 32 % 128
  let l := l.filter fun e => !(e.tsid = n.tsid && e.addr = n.addr)
  n :: ((l.filter same).take 7 ++ l.filter fun e => !same e)

/-- Updates a line that is present with stored bytes; a write of all of it clears its poison (R266). -/
def dcacheUpdate (l : List Line) (tsid pa : Nat) (bs : List Byte) : List Line :=
  l.map fun e =>
    if e.tsid = tsid && e.addr = lineOf pa then { e with data := overlay e.addr e.data pa bs, bad := e.bad && bs.length < 32 }
    else e

/-! ### Where an access goes -/

/-- Where a scalar access is performed: at a slice, at the issuing core's port, at another core's port of this device,
or on another device. -/
inductive Place where
  | virt (pa : Nat)
  | here (off : Nat)
  | there (core off : Nat)
  | away
  deriving DecidableEq, Repr

/-- Vector entries of a thread that are neither faulted nor held (R169, R254). -/
def vecBusy (x : Core) (sth : Nat) : Bool :=
  x.ring.any fun e => e.sth = sth && (match e.instr with | .enq _ _ _ => false | _ => true)
    && e.st ≠ .faulted && e.st ≠ .held

/-- Vector stores of a thread to another device's window that are not yet acknowledged (R380). -/
def State.vstoresOut (s : State) (c sth : Nat) : Bool :=
  s.flights.any fun f => f.core = c && f.sth = sth && (match f.what with | .vstore _ _ => true | _ => false)

/-- The entry of a thread that is next to be performed: its first that is neither faulted nor held. -/
def nextEntry (x : Core) (sth : Nat) : Option Entry := x.ring.find? fun e => e.sth = sth && e.st ≠ .faulted && e.st ≠ .held

/-- The 32-byte cells that `n` bytes at an address lie in, as numbers that two addresses of one cell share: a window
address by device, core and offset, a virtual one as it now translates. -/
def State.cellKeys (s : State) (c : Nat) (ea : Word) (n : Nat) : List Nat :=
  let a := ea.toNat
  if isWindow a then cellsOf (2 ^ 60 + (if s.winHere a then 1023 else winDev a) * 2 ^ 31 + a % 2 ^ 31) n
  else (pageParts (n / 4096 + 2) a n).flatMap fun q =>
    match s.physAny (.core c) ((s.corePart c).getD 0) q.1 with
    | some pa => cellsOf pa q.2
    | none => []

/-- An entry has not completed its access to one of some cells (R380). A gather or scatter that is not next in line may
access any cell: what its index zone will hold is not known yet. -/
def State.entryTouches (s : State) (c : Nat) (keys : List Nat) (e : Entry) : Bool :=
  match vinfo e.instr with
  | none => false
  | some i =>
    i.kind.global &&
    (((i.kind = .gath || i.kind = .scat) && nextEntry (s.core c) e.sth ≠ some e)
      || (List.range (i.m.cnt.toNat - e.iter)).any fun k =>
          (e.runs (s.core c) i (e.iter + k)).any fun r => (s.cellKeys c r.1 r.2).any keys.contains)

/-- The thread has vector entries that access a cell of `n` bytes at `ea` and have not completed it (R380): a scalar access
of the cell waits for them. -/
def State.globalBusy (s : State) (c sth : Nat) (ea : Word) (n : Nat) : Bool :=
  (s.core c).ring.any fun e => e.sth = sth && e.st ≠ .faulted && e.st ≠ .held
    && s.entryTouches c (s.cellKeys c ea n) e

/-- Sends a fault message (R190): one for each page and kind of access that is under way or recorded; a later fault joins
it. -/
def State.faultMsg (s : State) (pno va : Nat) (acc : Acc) (kind level : Nat) : State :=
  let page := va / 4096 * 4096
  s.modPart pno fun p =>
    if (p.fmsgs.any fun m => m.page = page && m.acc = acc) || p.frecs.any (fun r => r.page = page && r.acc = acc) then p
    else { p with fmsgs := p.fmsgs ++ [⟨page, acc, kind, level, false⟩] }

/-- The cause that a translation fault raises when nothing resolves it (R193). -/
def faultCause (kind : Nat) : Cause := if kind = 2 then .prot else .pageflt

/-- Translates for the thread being issued, parking on a fault while the fault ring is on (R190, R193); `bad` takes
what is fatal. `via` and `app` say who translates and under which privilege. -/
def State.xlateBy (s : State) (via : Via) (app : Bool) (ea : Word) (acc : Acc) (bad : Cause → Word → State → State)
    (k : Nat → State → State) : State :=
  let pno := s.myPartNo
  let dead := match s.me.prog.fatal with
    | some (va, a, c) => if a = acc then some (va, c) else none
    | none => none
  match dead with
  | some (va, c) => bad c va s
  | none =>
    match s.translate via pno ea.toNat acc app with
    | .ok pa s => k pa s
    | .fault kind level s =>
      if s.myPart.fren then (s.faultMsg pno ea.toNat acc kind level).parkMe (.fault ea acc kind level)
      else bad (faultCause kind) ea s
    | .malformed _ s => bad .prot ea (s.malformedRecord pno ea.toNat)
    | .off => bad .pageflt ea s

/-- The same for an access of the thread's own. -/
def State.xlate (s : State) (ea : Word) (acc : Acc) (bad : Cause → Word → State → State) (k : Nat → State → State) :
    State :=
  s.xlateBy (.core s.cur.core) (s.me.pl = 0) ea acc bad k

/-- Classification of a scalar access (R173, R174, R347): alignment, the window, the tables. A local access waits for
the thread's earlier vector instructions (R169). -/
def State.locate (s : State) (loc : Bool) (ea : Word) (size : Nat) (acc : Acc) (bad : Cause → Word → State → State)
    (k : Place → State → State) : State :=
  let a := ea.toNat
  let here := fun (off : Nat) (s : State) =>
    if vecBusy s.myCore s.me.sth then s.parkMe .vsync else k (.here (s.redirect s.myPartNo s.me off)) s
  let out := fun (pl : Place) (s : State) =>
    if s.globalBusy s.cur.core s.me.sth ea size then s.parkMe (.vcell ea size) else k pl s
  if loc then
    if 2 ^ 19 ≤ a || a % size ≠ 0 then bad .align ea s else here a s
  else if 2 ^ 57 ≤ a || a % size ≠ 0 then bad .align ea s
  else if isWindow a then
    if s.winBad a then bad .prot ea s
    else if s.winHere a then
      if s.corePart (winCore a) ≠ some s.myPartNo then bad .prot ea s
      else if winCore a = s.cur.core then here (winOff a) s
      else
        let m := s.zonesMoved s.myPartNo s.me.lid s.me.pc.toNat
        out (.there (winCore a) (s.moveOn s.cur.core s.me.lid m (winCore a) (winOff a))) s
    else out .away s
  else s.xlate ea acc bad fun pa s => out (.virt pa) s

/-- The precise trap of an access: ACC names the kind of access for a translation fault, a protection fault and
poison. -/
def badAccess (acc : Acc) (c : Cause) (v : Word) (s : State) : State :=
  s.trapAcc c v (match c with | .align => 0 | _ => acc.code)

/-! ### Remote accesses (R25, R26) -/

/-- Sends a remote access; it awaits its response for 2^22 fabric cycles. -/
def State.sendAway (s : State) (ea : Word) (op : RemOp) (returns : Bool) : State × Nat :=
  let id := s.nextId
  let t := s.me
  let req : RemReq := ⟨id, s.devnum, s.cur.core, s.tsidOf s.cur.core, ea, op⟩
  (s.gondola s.cur.core t.sth t.lid none req (.gond req returns s.fab), id)

/-- A remote access whose value the thread waits for (R26, R348): sent once, and continued when its reply is there. -/
def State.awaitAway (s : State) (ea : Word) (op : RemOp) (bad : Cause → Word → State → State)
    (k : Nat → State → State) : State :=
  match s.me.prog.reply with
  | some (some (.data v)) => k v s
  | some (some .ack) => k 0 s
  | some (some .refused) | some (some (.fault _)) => bad .prot ea s
  | some (some .poison) => bad .poison ea s
  | some none => bad .poison ea s
  | none =>
    if s.upPorts (winDev ea.toNat) = [] then bad .prot ea s
    else
      let (s, id) := s.takeSources.sendAway ea op true
      s.parkMe (.remote id)

/-- Counts one unacknowledged write of the thread, or parks while the count is full (R175). -/
def State.withUnack (s : State) (k : State → State) : State :=
  if 2 ^ 32 - 1 ≤ s.me.unack then s.parkMe .unack else k (s.modMe fun t => { t with unack := t.unack + 1 })

/-- A remote write that the thread does not wait for (R26); without a port it is refused at once (R30). -/
def State.postAway (s : State) (ea : Word) (op : RemOp) (k : State → State) : State :=
  if s.upPorts (winDev ea.toNat) = [] then k (s.remoteRecord s.myPartNo s.cur.core ea.toNat 1)
  else s.withUnack fun s => k (s.sendAway ea op false).1

end Sys2Proof.Machine
end

