-- ==== Sys2Proof/Machine/Float.lean ====
section
/-!
DEFINITION. Floating numbers: exact values, their decoding from a format and their rounding into one (R225, R236,
R237), exact sums and products, division and square root, comparisons and integer conversions.
-/

namespace Sys2Proof.Machine

/-- A binary format: exponent and mantissa widths, and which top exponents are special: 0 never, 1 under TE=0 only,
2 always (R224, R225). -/
structure Fmt where
  e : Nat
  m : Nat
  sp : Nat
  deriving DecidableEq, Repr

def f32 : Fmt := ⟨8, 23, 2⟩
def f16 : Fmt := ⟨5, 10, 2⟩
def bf16 : Fmt := ⟨8, 7, 2⟩
def f64 : Fmt := ⟨11, 52, 2⟩
def e4m3 : Fmt := ⟨4, 3, 1⟩
def e5m2 : Fmt := ⟨5, 2, 1⟩
def e3m2 : Fmt := ⟨3, 2, 1⟩
def e2m3 : Fmt := ⟨2, 3, 1⟩
def e2m1 : Fmt := ⟨2, 1, 0⟩

/-- Bits of an element. -/
def Fmt.width (f : Fmt) : Nat := 1 + f.e + f.m
/-- Bias B (R225). -/
def Fmt.bias (f : Fmt) : Nat := 2 ^ (f.e - 1) - 1
/-- The top exponent code holds Inf and NaN. -/
def Fmt.special (f : Fmt) (te : Bool) : Bool := f.sp = 2 || (f.sp = 1 && !te)
/-- Largest exponent field of a finite value. -/
def Fmt.maxField (f : Fmt) (te : Bool) : Nat := 2 ^ f.e - (if f.special te then 2 else 1)
/-- Pattern of a sign, an exponent field and a mantissa. -/
def Fmt.pat (f : Fmt) (neg : Bool) (field mant : Nat) : Nat := b2n neg * 2 ^ (f.e + f.m) + field * 2 ^ f.m + mant
/-- Pattern of the largest finite value. -/
def Fmt.maxFinite (f : Fmt) (te neg : Bool) : Nat := f.pat neg (f.maxField te) (2 ^ f.m - 1)
/-- Pattern of an infinity. -/
def Fmt.infPat (f : Fmt) (neg : Bool) : Nat := f.pat neg (2 ^ f.e - 1) 0
/-- Canonical NaN; a format without NaN receives +0 (R237). -/
def Fmt.nanPat (f : Fmt) (te : Bool) : Nat := if f.special te then f.pat false (2 ^ f.e - 1) (2 ^ (f.m - 1)) else 0
/-- FTZ acts on the format (R237). -/
def Fmt.flushes (f : Fmt) (ftz : Bool) : Bool := ftz && f.sp = 2

/-- A signed zero. -/
def Val.zero (neg : Bool) : Val := .fin neg 0 0

/-- The exact value of a pattern (R225); with FTZ a subnormal reads as zero of its sign (R237). -/
def Fmt.decode (f : Fmt) (te ftz : Bool) (x : Nat) : Val :=
  let neg := bit x (f.e + f.m)
  let field := x / 2 ^ f.m % 2 ^ f.e
  let mant := x % 2 ^ f.m
  if field = 2 ^ f.e - 1 && f.special te then (if mant = 0 then .inf neg else .nan)
  else if field = 0 then
    if mant = 0 || f.flushes ftz then Val.zero neg else .fin neg mant ((1 : Int) - f.bias - f.m)
  else .fin neg (2 ^ f.m + mant) ((field : Int) - f.bias - f.m)

/-- Whether a magnitude between `q` and `q + 1` units rounds up: `rem` of `2^sh` remains (R236). -/
def roundsUp (rm : RM) (neg : Bool) (q rem whole : Nat) : Bool :=
  match rm with
  | .rne | .dyn => whole < 2 * rem || (2 * rem = whole && q % 2 = 1)
  | .rtz => false
  | .rup => !neg && rem ≠ 0
  | .rdn => neg && rem ≠ 0
  | .rmm => rem ≠ 0 && whole ≤ 2 * rem

/-- Magnitude m·2^e in units of 2^q, rounded to an integer. -/
def roundUnits (rm : RM) (neg : Bool) (m : Nat) (e q : Int) : Nat :=
  if q ≤ e then m * 2 ^ (e - q).toNat
  else
    let w := 2 ^ (q - e).toNat
    let n := m / w
    if roundsUp rm neg n (m % w) w then n + 1 else n

/-- Overflow (R237). -/
def Fmt.overflow (f : Fmt) (te : Bool) (rm : RM) (neg : Bool) : Nat :=
  if !f.special te then f.maxFinite te neg
  else
    match rm with
    | .rne | .rmm | .dyn => f.infPat neg
    | .rtz => f.maxFinite te neg
    | .rup => if neg then f.maxFinite te neg else f.infPat neg
    | .rdn => if neg then f.infPat neg else f.maxFinite te neg

/-- A finite magnitude, rounded as if the exponent were unbounded, is below the smallest normal of a format (R237). -/
def Fmt.tiny (f : Fmt) (rm : RM) (neg : Bool) (m : Nat) (e : Int) : Bool :=
  let emin : Int := (1 : Int) - f.bias
  let l : Int := (Nat.log2 m : Int) + e
  l < emin && !(l + 1 = emin && roundUnits rm neg m e (l - f.m) = 2 ^ (f.m + 1))

/-- Rounding into a format (R237): once, subnormals kept unless FTZ makes them zero. -/
def Fmt.encode (f : Fmt) (te ftz : Bool) (rm : RM) (v : Val) : Nat :=
  match v with
  | .nan => f.nanPat te
  | .inf neg => if f.special te then f.infPat neg else f.maxFinite te neg
  | .fin neg m e =>
    if m = 0 || (f.flushes ftz && f.tiny rm neg m e) then f.pat neg 0 0
    else
      let emin : Int := (1 : Int) - f.bias
      let q : Int := max ((Nat.log2 m : Int) + e) emin - f.m
      let n := roundUnits rm neg m e q
      let (n, q) := if n = 2 ^ (f.m + 1) then (2 ^ f.m, q + 1) else (n, q)
      if n < 2 ^ f.m then f.pat neg 0 n
      else
        let field := (q + f.m + f.bias).toNat
        if f.maxField te < field then f.overflow te rm neg else f.pat neg field (n - 2 ^ f.m)

/-! ### Exact arithmetic -/

def Val.isNan : Val → Bool
  | .nan => true
  | _ => false

def Val.isNeg : Val → Bool
  | .fin n _ _ => n
  | .inf n => n
  | .nan => false

def Val.isZero : Val → Bool
  | .fin _ 0 _ => true
  | _ => false

def Val.neg : Val → Val
  | .fin n m e => .fin (!n) m e
  | .inf n => .inf (!n)
  | .nan => .nan

def Val.abs : Val → Val
  | .fin _ m e => .fin false m e
  | .inf _ => .inf false
  | .nan => .nan

/-- A signed number as an integer. -/
def signed (neg : Bool) (m : Nat) : Int := if neg then -(m : Int) else (m : Int)

/-- An integer times 2^e; a zero is positive. -/
def Val.ofInt (i : Int) (e : Int := 0) : Val := .fin (i < 0) i.natAbs e

/-- Exact sum; the sign of an exact zero follows the mode (IEEE 754). -/
def Val.add (rm : RM) (a b : Val) : Val :=
  match a, b with
  | .nan, _ => .nan
  | _, .nan => .nan
  | .inf x, .inf y => if x = y then .inf x else .nan
  | .inf x, _ => .inf x
  | _, .inf y => .inf y
  | .fin x m e, .fin y n g =>
    if m = 0 && n = 0 then Val.zero (if x = y then x else rm = .rdn)
    else if m = 0 then .fin y n g
    else if n = 0 then .fin x m e
    else
      let l := min e g
      let i := signed x (m * 2 ^ (e - l).toNat) + signed y (n * 2 ^ (g - l).toNat)
      if i = 0 then Val.zero (rm = .rdn) else Val.ofInt i l

/-- Exact product. -/
def Val.mul (a b : Val) : Val :=
  match a, b with
  | .nan, _ => .nan
  | _, .nan => .nan
  | .inf x, .inf y => .inf (x != y)
  | .inf x, .fin y n _ => if n = 0 then .nan else .inf (x != y)
  | .fin x m _, .inf y => if m = 0 then .nan else .inf (x != y)
  | .fin x m e, .fin y n g => .fin (x != y) (m * n) (e + g)

/-- Times 2^k. -/
def Val.scale (a : Val) (k : Int) : Val :=
  match a with
  | .fin n m e => .fin n m (e + k)
  | v => v

/-- Quotient to 64 bits and more, the rest folded into a last bit: rounds as the exact quotient does (R331). -/
def Val.div (a b : Val) : Val :=
  match a, b with
  | .nan, _ => .nan
  | _, .nan => .nan
  | .inf _, .inf _ => .nan
  | .inf x, .fin y _ _ => .inf (x != y)
  | .fin x _ _, .inf y => Val.zero (x != y)
  | .fin x m e, .fin y n g =>
    if n = 0 then (if m = 0 then .nan else .inf (x != y))
    else if m = 0 then Val.zero (x != y)
    else
      let k := 66 + Nat.log2 n
      let num := m * 2 ^ k
      .fin (x != y) (2 * (num / n) + b2n (num % n ≠ 0)) (e - g - k - 1)

/-- Integer square root by digits, from bit `i` down. -/
def sqrtBits (n : Nat) : Nat → Nat → Nat
  | 0, r => r
  | i + 1, r => sqrtBits n i (if (r + 2 ^ i) * (r + 2 ^ i) ≤ n then r + 2 ^ i else r)

/-- Floor of the square root. -/
def isqrt (n : Nat) : Nat := sqrtBits n (Nat.log2 n / 2 + 1) 0

/-- Square root to 64 bits and more, the rest folded into a last bit (R331). -/
def Val.sqrt (a : Val) : Val :=
  match a with
  | .nan => .nan
  | .inf neg => if neg then .nan else .inf false
  | .fin neg m e =>
    if m = 0 then .fin neg m e
    else if neg then .nan
    else
      let k : Nat := 140 + (e % 2).toNat
      let n := m * 2 ^ k
      let r := isqrt n
      .fin false (2 * r + b2n (r * r ≠ n)) ((e - k) / 2 - 1)

/-- Comparison of two values that are no NaN; -0 equals +0. -/
def Val.cmp (a b : Val) : Ordering :=
  match a, b with
  | .inf x, .inf y => if x = y then .eq else if x then .lt else .gt
  | .inf x, _ => if x then .lt else .gt
  | _, .inf y => if y then .gt else .lt
  | .fin x m e, .fin y n g =>
    let l := min e g
    compare (signed x (m * 2 ^ (e - l).toNat)) (signed y (n * 2 ^ (g - l).toNat))
  | .nan, _ => .eq
  | _, .nan => .eq

def Val.lt (a b : Val) : Bool := !a.isNan && !b.isNan && a.cmp b = .lt

/-- Smaller or larger value, as FMIN and FMAX choose (R332): -0 below +0, a NaN gives way. `true`: the first. -/
def pickMin (a b : Val) : Bool :=
  if a.isNan then false
  else if b.isNan then true
  else
    match a.cmp b with
    | .lt => true
    | .gt => false
    | .eq => a.isNeg || !b.isNeg

def pickMax (a b : Val) : Bool :=
  if a.isNan then false
  else if b.isNan then true
  else
    match a.cmp b with
    | .gt => true
    | .lt => false
    | .eq => !a.isNeg || b.isNeg

/-- Minimum and maximum of values. -/
def Val.lesser (a b : Val) : Val := if pickMin a b then a else b
def Val.greater (a b : Val) : Val := if pickMax a b then a else b

/-- Rounded to an integer, saturated to a range; NaN gives 0 (R234, R334). -/
def Val.toRange (v : Val) (rm : RM) (lo hi : Int) : Int :=
  match v with
  | .nan => 0
  | .inf neg => if neg then lo else hi
  | .fin neg m e => max lo (min hi (signed neg (roundUnits rm neg m e 0)))

/-- FP32 rounding of a value, as a value. -/
def Val.round32 (v : Val) (ftz : Bool) (rm : RM) : Val := f32.decode false false (f32.encode false ftz rm v)

/-! ### MODE (R235) -/

def modeFtz (mode : Nat) : Bool := bit mode 3
def modeApx (mode : Nat) : Nat := bits mode 5 4

/-- The mode in force: DYN takes MODE.DRM (R236). -/
def rmOf (rm : RM) (mode : Nat) : RM :=
  match rm with
  | .dyn =>
    match bits mode 2 0 with
    | 1 => .rtz
    | 2 => .rup
    | 3 => .rdn
    | 4 => .rmm
    | _ => .rne
  | r => r

/-! ### Values of atomics (R352) -/

/-- Integer operation of an atomic on `w`-bit values (R352). -/
def amoVal (op : AtOp) (w old x : Nat) : Nat :=
  let old := old % 2 ^ w
  let x := x % 2 ^ w
  match op with
  | .add => (old + x) % 2 ^ w
  | .and => old &&& x
  | .or => old ||| x
  | .xor => old ^^^ x
  | .min => if signedOf w old ≤ signedOf w x then old else x
  | .max => if signedOf w x ≤ signedOf w old then old else x
  | .minz => Nat.min old x
  | .maxz => Nat.max old x
  | .swap => x

/-- Floating operation of an atomic (R352, R242): FP32 for 4 bytes, BF16 for 2. -/
def famoVal (op : FAtOp) (size old x : Nat) : Nat :=
  let f := if size = 2 then bf16 else f32
  let a := f.decode false false old
  let b := f.decode false false x
  match op with
  | .add => f.encode false false .rne (a.add .rne b)
  | .min => f.encode false false .rne (a.lesser b)
  | .max => f.encode false false .rne (a.greater b)

end Sys2Proof.Machine
end

