-- ==== Sys2Proof/Machine/Mem.lean ====
section
/-!
DEFINITION. Group 0x4: loads and stores (R349, R350) and full/empty cells (R351); and what they rest on: what is
in flight being performed (R174, R180), the store buffer draining (R176), reads at a slice or a port (R202).
-/

namespace Sys2Proof.Machine

/-! ### Performing what is in flight -/

def amoSize (sz : Size) : Nat := match sz with | .b => 1 | .h => 2 | .w => 4 | .d => 8
/-- Bytes of an access size (R347). -/
def sizeBytes (sz : Size) : Nat := amoSize sz

/-- One indivisible read-modify-write at a slice (R180): the old value, and the state after it. -/
def State.sliceRmw (s : State) (pno pa size : Nat) (f : Nat → Nat) : Nat × State :=
  let p := s.part pno
  let old := s.dramRead p.keyGen pa size
  (old, (s.sliceWrite pno pa (leBytes size (f old))).countSlice pno (homeSlice p.slices pa) 0x0203 1)

/-- One indivisible read-modify-write at a local-memory port (R27); one of another core carries its TE (R227). -/
def Core.portRmw (x : Core) (te : Option Bool) (off size : Nat) (f : Nat → Nat) : Nat × Core :=
  let old := x.lmem.read off size
  (old, (x.lstore off (leBytes size (f old))).foreign off size te)

/-- The scope of an STF (R212): CORE in the storing thread's own core, else the narrowest that covers both. -/
def stfScope (c d : Nat) : Scope :=
  if c = d then .core else if clusterOf c = clusterOf d then .clus else if quadOf c = quadOf d then .quad
  else if dieOf c = dieOf d then .die else .pkg

/-- A write at a local-memory port: STF, of a scope, sets the cell full after it (R351). -/
def Core.portStore (x : Core) (off : Nat) (bs : List Byte) (setFull : Option Scope) : Core :=
  let x := x.lstore off bs
  match setFull with
  | some sc => x.fillBy (cellsOf off bs.length) sc
  | none => x

/-- Drops a line from a core's data cache. -/
def State.dropLine (s : State) (c line : Nat) : State :=
  s.modCore c fun x => { x with dcache := x.dcache.filter fun l => l.addr ≠ line }

/-- Performs one flight where it is going; what remains is the acknowledgement. -/
def State.performFlight (s : State) (f : Sent) : State :=
  let done := { s with flights := s.flights.map fun (g : Sent) => if g.id = f.id then { g with what := .ack 1 } else g }
  match f.what with
  | .wstore c off bs full => done.modCore c fun x => x.portStore off bs (if full then some (stfScope f.core c) else none)
  | .red _ pa n op v => ((done.dropLine f.core (lineOf pa)).sliceRmw ((s.corePart f.core).getD 0) pa n fun old => amoVal op (8 * n) old v).2
  | .fred _ pa n op v => ((done.dropLine f.core (lineOf pa)).sliceRmw ((s.corePart f.core).getD 0) pa n fun old => famoVal op n old v).2
  | .wred c off n op v te => done.setCore c ((done.core c).portRmw (some te) off n fun old => amoVal op (8 * n) old v).2
  | .wfred c off n op v te => done.setCore c ((done.core c).portRmw (some te) off n fun old => famoVal op n old v).2
  | .proxy _ _ _ _ _ _ | .inbox _ _ _ _ _ | .credit _ _ _ | .gpush _ _ _ _ _ | .gcred _ _ _ | .vstore _ _ | .vload _ _ _ | .jload _ _ _ _ | .jstore _ _ _ _ | .ack _ | .gond _ _ _ => s

/-- Flights of a thread to a core's port, in the order sent. -/
def State.toPort (s : State) (c sth dst : Nat) : List Sent :=
  s.flights.filter fun f => f.core = c && f.sth = sth && (match f.what with
    | .wstore d _ _ _ => d = dst
    | .wred d _ _ _ _ _ => d = dst
    | .wfred d _ _ _ _ _ => d = dst
    | _ => false)

/-- Performs flights in order. -/
def State.performAll (s : State) (l : List Sent) : State := l.foldl State.performFlight s

/-- The oldest thread of a core that is parked for a reason. -/
def oldestParked (x : Core) (w : Why → Bool) : Option Nat :=
  let l := x.threads.filterMap fun e => match e.2.park with
    | some p => if w p.why then some (p.stamp, e.1) else none
    | none => none
  (l.foldl (fun (b : Option (Nat × Nat)) e => match b with
    | none => some e
    | some o => if e.1 < o.1 then some e else b) none).map Prod.snd

/-- A store-buffer entry drains and is performed at its home slice (R176): the thread's earlier reductions on the line
come first, releases move on, and a thread parked on a full buffer wakes. -/
def State.drainEntry (s : State) (c : Nat) (e : SbEntry) : State :=
  let pno := (s.corePart c).getD 0
  let s := s.performAll (s.myReds c e.sth (lineOf e.addr))
  let s := (s.modCore c fun x => x.sbDrop e.seq).sliceWrite pno e.addr e.data
  let s := s.relSettle c
  match oldestParked (s.core c) (fun w => w = .sbFull) with
  | some sl => s.wake c sl
  | none => s

/-- Performs every entry of a line in a core's store buffer, in store order (R202: a read that misses waits for them),
and the thread's own reductions on the line. -/
def State.settleLine (s : State) (c sth line : Nat) : State :=
  let es := (s.core c).sbuf.filter fun e => lineOf e.addr = line
  let s := es.foldl (fun s e => s.drainEntry c e) s
  s.performAll (s.myReds c sth line)

/-! ### Reads -/

/-- The byte that a thread's own store-buffer entries give at an address. -/
def ownByte (x : Core) (tsid sth a : Nat) : Option Byte :=
  x.sbuf.foldl (fun b e =>
    if e.tsid = tsid && e.sth = sth && e.addr ≤ a && a < e.addr + e.data.length then e.data[a - e.addr]? else b) none

/-- A scalar read of a virtual address (R202): a line that hits, own buffered bytes, or the home slice. A line that is
present has taken every buffered store of the core, so it is read as it stands (R176, R203). With `home` the data cache is
passed by (R207). -/
def State.vread (s : State) (pa size : Nat) (home : Bool) (bad : State → State) (k : Nat → State → State) : State :=
  let c := s.cur.core
  let x := s.core c
  let ts := s.tsidOf c
  let sth := s.me.sth
  let own := (List.range size).map fun i => ownByte x ts sth (pa + i)
  let home := home || s.myReds c sth (lineOf pa) ≠ []
  match (if home then none else x.dcache.find? fun l => l.tsid = ts && l.addr = lineOf pa) with
  | some l => if l.bad then bad s else k (leNat ((l.data.drop (pa - l.addr)).take size)) s
  | none =>
    if !home && own.all Option.isSome then k (leNat (own.map fun b => b.getD 0)) s
    else
      let s := ((s.settleLine c sth (lineOf pa)).countCore c 4 1).sliceSee s.myPartNo [(pa, size)]
      if s.dramPoisoned pa size then bad s
      else
        let gen := s.myPart.keyGen
        let s' := if home then s else s.modCore c fun x =>
          { x with dcache := dcacheAdd x.dcache ⟨ts, lineOf pa, s.dramBytes gen (lineOf pa) 32, false⟩ }
        k (s.dramRead gen pa size) s'

/-- A read at a core's local-memory port. -/
def State.portRead (s : State) (c off size : Nat) (bad : State → State) (k : Nat → State → State) : State :=
  let x := s.core c
  if x.lpoisoned off size then bad s else k (x.lmem.read off size) s

/-- A scalar read wherever it is performed. -/
def State.readAt (s : State) (pl : Place) (ea : Word) (size : Nat) (home : Bool)
    (bad : Cause → Word → State → State) (k : Nat → State → State) : State :=
  match pl with
  | .virt pa => s.vread pa size home (bad .poison ea) k
  | .here off => s.portRead s.cur.core off size (bad .poison ea) k
  | .there c off => (s.performAll (s.toPort s.cur.core s.me.sth c)).portRead c off size (bad .poison ea) k
  | .away => s.awaitAway ea (.load size) bad k

/-! ### Writes -/

/-- A scalar store wherever it is performed (R176, R174, R26). -/
def State.writeAt (s : State) (pl : Place) (ea : Word) (size v : Nat) (setFull : Bool) (k : State → State) : State :=
  let c := s.cur.core
  let t := s.me
  let bs := leBytes size v
  match pl with
  | .virt pa =>
    if 16 ≤ s.myCore.sbuf.length then s.parkMe .sbFull
    else
      let p := s.myPart
      let slice := homeSlice p.slices pa
      let (n, s) := s.tickStamp
      let s := s.modMyCore fun x =>
        { x with dcache := dcacheUpdate x.dcache p.tsid pa bs, sbuf := x.sbuf ++ [⟨n, p.tsid, pa, bs, t.sth, t.lid, slice⟩] }
      k (s.touch c t.sth slice)
  | .here off => k (s.modMyCore fun x => x.portStore off bs (if setFull then some .core else none))
  | .there d off => s.withUnack fun s => k (s.send c t.sth t.lid (.wstore d off bs setFull))
  | .away => s.postAway ea (.store size v setFull) k

/-! ### Group 0x4 -/

/-- A loaded value widened (R349). -/
def widen (sx : Bool) (size v : Nat) : Word := if sx then sextn (8 * size) v else Word.ofNat v

/-- The effect of LD, LDX and LDA once the address is known (R349). -/
def loadBody (d : Code) (sz : Size) (sx loc : Bool) (acq : Option Scope) (ea : Word) (s : State) : State :=
  let n := sizeBytes sz
  let home := match acq with | some sc => wideScope sc | none => false
  s.locate loc ea n .read (badAccess .read) fun pl s =>
    s.readAt pl ea n home (badAccess .read) fun v s =>
      let s := match acq with | some sc => s.acquire sc | none => s
      (s.wr d (widen sx n v)).retire

/-- The effect of ST, STX and STL once the address is known (R349). -/
def storeBody (sz : Size) (loc : Bool) (ea v : Word) (s : State) : State :=
  let n := sizeBytes sz
  s.locate loc ea n .write (badAccess .write) fun pl s =>
    s.writeAt pl ea n (v.toNat % 2 ^ (8 * n)) false State.retire

/-- LD (R349). -/
def execLd (p : Pred) (d b : Code) (off : BitVec 17) (sz : Size) (sx loc : Bool) : State → Res :=
  issue p (some (rg d)) [rg b] fun s => loadBody d sz sx loc none (s.operand [b] 0 + imm17 off) s

/-- ST (R349). -/
def execSt (p : Pred) (b a : Code) (off : BitVec 17) (sz : Size) (loc : Bool) : State → Res :=
  issue p none [rg a, rg b] fun s => storeBody sz loc (s.operand [a, b] 1 + imm17 off) (s.operand [a, b] 0) s

/-- LDX (R349): the index is scaled by the size. -/
def execLdx (p : Pred) (d b c : Code) (sz : Size) (sx loc : Bool) : State → Res :=
  issue p (some (rg d)) [rg b, rg c] fun s =>
    loadBody d sz sx loc none (s.operand [b, c] 0 + s.operand [b, c] 1 * BitVec.ofNat 64 (sizeBytes sz)) s

/-- STX (R349). -/
def execStx (p : Pred) (a b c : Code) (sz : Size) (loc : Bool) : State → Res :=
  issue p none [rg a, rg b, rg c] fun s =>
    storeBody sz loc (s.operand [a, b, c] 1 + s.operand [a, b, c] 2 * BitVec.ofNat 64 (sizeBytes sz))
      (s.operand [a, b, c] 0) s

/-- LDA (R349, R207). -/
def execLda (p : Pred) (d b : Code) (off : BitVec 17) (sz : Size) (sx loc : Bool) (sc : Scope) : State → Res :=
  issue p (some (rg d)) [rg b] fun s => loadBody d sz sx loc (some sc) (s.operand [b] 0 + imm17 off) s

/-- STL (R349, R206): parks until the release conditions hold, then stores. -/
def execStl (p : Pred) (b a : Code) (off : BitVec 17) (sz : Size) (loc : Bool) (sc : Scope) : State → Res :=
  issue p none [rg a, rg b] fun s =>
    s.releaseThen sc fun s => storeBody sz loc (s.operand [a, b] 1 + imm17 off) (s.operand [a, b] 0) s

/-! ### Full/empty cells (R351) -/

/-- An LDF of a cell may take it now: it is full, and no older thread is parked for it (R167). -/
def ldfReady (x : Core) (me : Nat) (stamp : Option Nat) (cell : Nat) : Bool :=
  x.full.contains cell && x.threads.all fun e =>
    match e.2.park with
    | some ⟨.ldf c _, n, _⟩ => e.1 = me || c ≠ cell || (match stamp with | some m => m < n | none => false)
    | _ => true

/-- LDF (R351, R167): parks until its cell is full, then reads and, with CN, empties it in one step. It is an acquire at
the scope of what filled the cell (R212). -/
def execLdf (p : Pred) (d b : Code) (off : BitVec 17) (sz : Size) (sx loc cn : Bool) : State → Res :=
  issue p (some (rg d)) [rg b] fun s =>
    let ea := s.operand [b] 0 + imm17 off
    let n := sizeBytes sz
    if !loc && ea.toNat < 2 ^ 57 && !isWindow ea.toNat && ea.toNat % n = 0 then badAccess .read .prot ea s
    else s.locate loc ea n .read (badAccess .read) fun pl s =>
      match pl with
      | .here o =>
        let x := s.myCore
        if (s.me.prog.finished && x.full.contains (o / 32)) || ldfReady x s.cur.slot s.me.prog.stamp (o / 32) then
          s.portRead s.cur.core o n (badAccess .read .poison ea) fun v s =>
            let s := if cn then s.modMyCore fun x => x.empty [o / 32] else s
            ((s.acquire (x.fillScope (o / 32))).wr d (widen sx n v)).retire
        else (s.modMe fun t => { t with prog := { t.prog with finished := false } }).parkMe (.ldf (o / 32) cn)
      | _ => badAccess .read .prot ea s

/-- STF (R351): release, store, then the cell becomes full. -/
def execStf (p : Pred) (b a : Code) (off : BitVec 17) (sz : Size) (loc : Bool) : State → Res :=
  issue p none [rg a, rg b] fun s =>
    let ea := s.operand [a, b] 1 + imm17 off
    let n := sizeBytes sz
    if !loc && ea.toNat < 2 ^ 57 && !isWindow ea.toNat && ea.toNat % n = 0 then badAccess .write .prot ea s
    else
      s.locate loc ea n .write (badAccess .write) fun pl s =>
        let sc := match pl with
          | .there d _ => stfScope s.cur.core d
          | .away => Scope.dom
          | _ => Scope.core
        s.releaseThen sc fun s =>
          s.writeAt pl ea n ((s.operand [a, b] 0).toNat % 2 ^ (8 * n)) true State.retire

/-- CLRE (R351): empties every cell that a range of the issuing core's local memory touches. -/
def execClre (p : Pred) (b a : Code) (off : BitVec 17) (loc : Bool) : State → Res :=
  issue p none [rg a, rg b] fun s =>
    let ea := s.operand [a, b] 1 + imm17 off
    let n := (s.operand [a, b] 0).toNat
    if !loc && ea.toNat < 2 ^ 57 && !isWindow ea.toNat then badAccess .write .prot ea s
    else
      s.locate loc ea 1 .write (badAccess .write) fun pl s =>
        match pl with
        | .here o =>
          if n ≠ 0 && 2 ^ 19 < o + n then badAccess .write .align ea s
          else (s.modMyCore fun x => x.empty (cellsOf o n)).retire
        | _ => badAccess .write .prot ea s

/-- PREF (R350): a hint. It may bring the line of a virtual address into the data cache, and never parks or traps. -/
def execPref (p : Pred) (b : Code) (off : BitVec 17) : State → Res :=
  issue p none [rg b] fun s =>
    let ea := s.operand [b] 0 + imm17 off
    if 2 ^ 57 ≤ ea.toNat || isWindow ea.toNat then s.retire
    else
      match s.translate (.core s.cur.core) s.myPartNo ea.toNat .read (s.me.pl = 0) with
      | .ok pa s =>
        if (s.myCore.dcache.any fun l => l.tsid = s.tsidOf s.cur.core && l.addr = lineOf pa)
          || s.dramPoisoned (lineOf pa) 32 then s.retire
        else
          let s := (s.settleLine s.cur.core s.me.sth (lineOf pa)).sliceSee s.myPartNo [(lineOf pa, 32)]
          let l : Line := ⟨s.tsidOf s.cur.core, lineOf pa, s.dramBytes s.myPart.keyGen (lineOf pa) 32, false⟩
          (s.modMyCore fun x => { x with dcache := dcacheAdd x.dcache l }).retire
      | .fault _ _ s | .malformed _ s => s.retire
      | .off => s.retire

end Sys2Proof.Machine
end

