-- ==== Sys2Proof/Machine/Atomic.lean ====
section
/-!
DEFINITION. Group 0x5: atomics and reductions (R352), and WATCH (R353, R181).
-/

namespace Sys2Proof.Machine

/-! ### Read-modify-writes -/

/-- A returning read-modify-write wherever it is performed (R180, R27): `k` takes the old value. The issuing core's line
is dropped, so that no later read of it returns an older value (R201). -/
def State.rmwAt (s : State) (pl : Place) (ea : Word) (size : Nat) (f : Nat → Nat) (op : RemOp)
    (bad : Cause → Word → State → State) (k : Nat → State → State) : State :=
  let c := s.cur.core
  let sth := s.me.sth
  let port := fun (d off : Nat) (te : Option Bool) (s : State) =>
    if (s.core d).lpoisoned off size then bad .poison ea s
    else
      let (old, x) := (s.core d).portRmw te off size f
      k old (s.setCore d x)
  match pl with
  | .virt pa =>
    let s := (s.settleLine c sth (lineOf pa)).dropLine c (lineOf pa)
    if s.dramPoisoned pa size then bad .poison ea s
    else
      let (old, s) := s.sliceRmw s.myPartNo pa size f
      k old s
  | .here off => port c off none s
  | .there d off => port d off (some s.myCore.te) (s.performAll (s.toPort c sth d))
  | .away => s.awaitAway ea op bad k

/-- A reduction that returns nothing: it counts in UNACK until performed (R180). -/
def State.redAt (s : State) (pl : Place) (ea : Word) (size : Nat) (f : Nat → Nat)
    (virt : Nat → Flight) (port : Nat → Nat → Flight) (op : RemOp) (k : State → State) : State :=
  let c := s.cur.core
  let t := s.me
  match pl with
  | .virt pa => s.withUnack fun s =>
      let s := ((s.settleLine c t.sth (lineOf pa)).dropLine c (lineOf pa)).touch c t.sth (homeSlice s.myPart.slices pa)
      k (s.send c t.sth t.lid (virt pa))
  | .here off => k (s.setCore c ((s.core c).portRmw none off size f).2)
  | .there d off => s.withUnack fun s => k (s.send c t.sth t.lid (port d off))
  | .away => s.postAway ea op k

/-- An integer reduction. -/
def State.redInt (s : State) (pl : Place) (ea : Word) (size : Nat) (op : AtOp) (v : Nat) (k : State → State) : State :=
  s.redAt pl ea size (fun old => amoVal op (8 * size) old v) (fun pa => .red (s.tsidOf s.cur.core) pa size op v)
    (fun d off => .wred d off size op v s.myCore.te) (.amo op size v false s.myCore.te) k

/-- ORD includes a release. -/
def relOrd (o : Ord4) : Bool := o = .rel || o = .ar
/-- ORD includes an acquire. -/
def acqOrd (o : Ord4) : Bool := o = .acq || o = .ar

/-- The release of an atomic, if its ORD has one. -/
def State.ordered (s : State) (m : AtMod) (k : State → State) : State :=
  if relOrd m.ord then s.releaseThen m.scope k else k s

/-- A returning atomic from its address on (R352). -/
def atomicBody (d : Code) (m : AtMod) (ea : Word) (f : Nat → Nat) (op : RemOp) (s : State) : State :=
  let n := sizeBytes m.sz
  s.locate false ea n .write (badAccess .write) fun pl s =>
    s.ordered m fun s =>
      s.rmwAt pl ea n f op (badAccess .write) fun old s =>
        let s := if acqOrd m.ord then s.acquire m.scope else s
        (s.wr d (Word.ofNat old)).retire

/-- Low bytes of a register as a number. -/
def lowBytes (w : Word) (n : Nat) : Nat := w.toNat % 2 ^ (8 * n)

/-- AMO (R352). -/
def execAmo (p : Pred) (d b a : Code) (op : AtOp) (m : AtMod) : State → Res :=
  issue p (some (rg d)) [rg a, rg b] fun s =>
    let n := sizeBytes m.sz
    let v := lowBytes (s.operand [a, b] 0) n
    atomicBody d m (s.operand [a, b] 1) (fun old => amoVal op (8 * n) old v) (.amo op n v true s.myCore.te) s

/-- CAS (R352): it writes the old value back when the compare fails. -/
def execCas (p : Pred) (d b a c : Code) (m : AtMod) : State → Res :=
  issue p (some (rg d)) [rg a, rg b, rg c] fun s =>
    let n := sizeBytes m.sz
    let old := lowBytes (s.operand [a, b, c] 0) n
    let new := lowBytes (s.operand [a, b, c] 2) n
    atomicBody d m (s.operand [a, b, c] 1) (fun o => if o = old then new else o) (.cas n old new s.myCore.te) s

/-- RED (R352). -/
def execRed (p : Pred) (b a : Code) (op : AtOp) (m : AtMod) : State → Res :=
  issue p none [rg a, rg b] fun s =>
    let n := sizeBytes m.sz
    let v := lowBytes (s.operand [a, b] 0) n
    let ea := s.operand [a, b] 1
    s.locate false ea n .write (badAccess .write) fun pl s =>
      s.ordered m fun s => s.redInt pl ea n op v State.retire

/-- FAMO (R352, R242). -/
def execFamo (p : Pred) (d b a : Code) (op : FAtOp) (m : AtMod) : State → Res :=
  issue p (some (rg d)) [rg a, rg b] fun s =>
    let n := sizeBytes m.sz
    let v := lowBytes (s.operand [a, b] 0) n
    atomicBody d m (s.operand [a, b] 1) (fun old => famoVal op n old v) (.famo op n v true s.myCore.te) s

/-- FRED (R352, R242). -/
def execFred (p : Pred) (b a : Code) (op : FAtOp) (m : AtMod) : State → Res :=
  issue p none [rg a, rg b] fun s =>
    let n := sizeBytes m.sz
    let v := lowBytes (s.operand [a, b] 0) n
    let ea := s.operand [a, b] 1
    s.locate false ea n .write (badAccess .write) fun pl s =>
      s.ordered m fun s =>
        s.redAt pl ea n (fun old => famoVal op n old v) (fun pa => .fred (s.tsidOf s.cur.core) pa n op v)
          (fun d off => .wfred d off n op v s.myCore.te) (.famo op n v false s.myCore.te) State.retire

/-! ### Waiting on a word (R181, R353) -/

/-- Registers the thread in the home slice's watch table: the state after it, or none when no entry can take it. -/
def State.watchJoin (s : State) (pa size : Nat) (cmp : WCmp) (ref : Nat) : Option State :=
  let p := s.myPart
  let ph := p.physSlice (homeSlice p.slices pa)
  let l := s.watches.lookD ph []
  let me := (s.cur.core, s.me.sth)
  let same := fun (w : Watch) => w.tsid = p.tsid && w.addr = pa && w.size = size && w.cmp = cmp && w.ref = ref
  match l.find? same with
  | some w =>
    if w.waiters.length < 16 then
      some { s with watches := s.watches.put ph (l.map fun v => if same v then { v with waiters := v.waiters ++ [me] } else v) }
    else none
  | none => if l.length < 64 then some { s with watches := s.watches.put ph (l ++ [⟨p.tsid, pa, size, cmp, ref, [me]⟩]) } else none

/-- A watch entry without a waiter; none when that was its last. -/
def Watch.without (w : Watch) (c sth : Nat) : Option Watch :=
  let l := w.waiters.filter fun v => v ≠ (c, sth)
  if l = [] then none else some { w with waiters := l }

/-- Takes a thread off every watch entry (it is displaced, pre-empted or discarded). -/
def State.unwatch (s : State) (c sth : Nat) : State :=
  let l := s.watches.map fun e => (e.1, e.2.filterMap fun w => w.without c sth)
  { s with watches := l.filter fun e => e.2 ≠ [] }

/-- Parks until the word at `ea` satisfies a comparison; the read that finds it so is an acquire (R353, R356, R362). One
that parks here has popped its sources (R153, R320). -/
def State.waitWord (s : State) (ea : Word) (size : Nat) (cmp : WCmp) (ref : Nat) (sc : Scope) (acc : Acc) (wait : WordWait)
    (k : State → State) : State :=
  s.locate false ea size acc (badAccess acc) fun pl s =>
    s.readAt pl ea size true (badAccess acc) fun v s =>
      if wcmpHolds cmp (8 * size) v ref then k (s.acquire sc)
      else
        let s := s.modMe fun t => { t with prog := { t.prog with reply := none } }
        let s := s.takeSources
        let poll := s.clk + (if wait = .join then 256 else 512)
        match pl with
        | .virt pa =>
          match s.watchJoin pa size cmp ref with
          | some s => s.parkMe (.word ea size cmp (Word.ofNat ref) .table wait)
          | none => s.parkMe (.word ea size cmp (Word.ofNat ref) (.poll poll) wait)
        | _ => s.parkMe (.word ea size cmp (Word.ofNat ref) (.poll poll) wait)

/-- WATCH (R353). -/
def execWatch (p : Pred) (b a : Code) (off : BitVec 17) (sz : Size) (cmp : WCmp) (sc : Scope) : State → Res :=
  issue p none [rg a, rg b] fun s =>
    let n := sizeBytes sz
    s.waitWord (s.operand [a, b] 1 + imm17 off) n cmp (lowBytes (s.operand [a, b] 0) n) sc .read .watch State.retire

end Sys2Proof.Machine
end

