-- ==== Sys2Proof/Machine/Sync.lean ====
section
/-!
DEFINITION. Group 0x6: fences (R354, R355, R210), barriers (R356), channels (R357, R358) and k registers (R359).
-/

namespace Sys2Proof.Machine

/-- Jobs of a thread that have not completed (R210): accepted ones, and its ENQs that are neither faulted nor held. -/
def State.jobsOut (s : State) (c sth : Nat) : Bool :=
  ((s.cluster (clusterOf c)).jobs.any fun e => e.2.any fun j => j.core = c && j.sth = sth)
  || (s.core c).ring.any fun e => e.sth = sth && (match e.instr with | .enq _ _ _ => true | _ => false)
      && e.st ≠ .faulted && e.st ≠ .held

/-- What a path fence waits for is still under way (R210, R355). -/
def State.pathBusy (s : State) (c sth : Nat) (k : PathKind) : Bool :=
  ((k = .vec || k = .all) && (vecBusy (s.core c) sth || s.vstoresOut c sth)) || ((k = .eng || k = .all) && s.jobsOut c sth)

/-- FENCE (R354). -/
def execFence (p : Pred) (k : FenceKind) (sc : Scope) : State → Res :=
  issue p none [] fun s =>
    match k with
    | .rel => s.releaseThen sc State.retire
    | .acq => (s.acquire sc).retire
    | .full => s.releaseThen sc fun s => (s.acquire sc).retire

/-- Invalidates the TSID's lines of the cluster sampler cache (R210, R213). -/
def State.dropSampler (s : State) : State :=
  let ts := s.tsidOf s.cur.core
  s.modMyCluster fun x => { x with scache := x.scache.filter fun l => l.tsid ≠ ts }

/-- PFENCE (R355, R210). The 64 core cycles of SMP delay the thread's next instruction. -/
def execPfence (p : Pred) (k : PathKind) : State → Res :=
  issue p none [] fun s =>
    let t := s.me
    if s.pathBusy s.cur.core t.sth k then s.parkMe (.pfence k)
    else
      let s := if k = .eng || k = .all then s.acquire .clus else s
      if k = .smp || k = .all then
        let s := s.dropSampler.retire
        s.modMe fun t => { t with busy := max t.busy (s.clk + 64) }
      else s.retire

/-- VSYNC (R355, R169). -/
def execVsync (p : Pred) : State → Res :=
  issue p none [] fun s => if vecBusy s.myCore s.me.sth then s.parkMe .vsync else s.retire

/-! ### Barriers (R356) -/

/-- The arrival: one indivisible add that counts in UNACK until performed. -/
def State.arrive (s : State) (ea : Word) (n : Nat) (sc : Scope) (k : State → State) : State :=
  s.locate false ea 8 .write (badAccess .write) fun pl s =>
    s.releaseThen sc fun s => s.redInt pl ea 8 .add n k

/-- BAR (R356): an arrival of 1, performed once, then the wait for the target. -/
def execBar (p : Pred) (a b : Code) (sc : Scope) : State → Res :=
  issue p none [rg a, rg b] fun s =>
    let ea := s.operand [a, b] 0
    let target := (s.operand [a, b] 1).toNat
    let wait := fun (s : State) => s.waitWord ea 8 .geu target sc .write .barrier State.retire
    if s.me.prog.arrived then wait s
    else s.arrive ea 1 sc fun s => wait (s.modMe fun t => { t with prog := { t.prog with arrived := true } })

/-- BARA (R356). -/
def execBara (p : Pred) (a b : Code) (sc : Scope) : State → Res :=
  issue p none [rg a, rg b] fun s => s.arrive (s.operand [a, b] 0) (s.operand [a, b] 1).toNat sc State.retire

/-- BARW (R356). -/
def execBarw (p : Pred) (a b : Code) (sc : Scope) : State → Res :=
  issue p none [rg a, rg b] fun s =>
    s.waitWord (s.operand [a, b] 0) 8 .geu (s.operand [a, b] 1).toNat sc .write .barrier State.retire

/-! ### Channels (R357, R358) -/

/-- QPEEK (R357): the oldest entry, which stays. -/
def execQpeek (p : Pred) (d a : Code) : State → Res :=
  issue p (some (rg d)) [⟨a, .chan⟩] fun s =>
    let n := codeNum a
    let q := s.myCore.chan n
    if q.bind.isSome then s.trap .illopnd (a.setWidth 64)
    else
      let w := if isQCode d then some (codeNum d) else none
      if chansReady s.myCore s.cur.slot s.me.prog.stamp [n] w true then
        (s.wr d ((q.vals.head?.map Prod.fst).getD 0)).retire
      else s.parkMe (.chan [n] w true)

/-- QCNT (R357): occupancy; on a bound channel the entries not yet sent, which are those it holds. -/
def execQcnt (p : Pred) (d a : Code) : State → Res :=
  issue p (some (rg d)) [⟨a, .chan⟩] fun s => (s.wr d (Word.ofNat (s.myCore.chan (codeNum a)).vals.length)).retire

/-- What QBIND checks of the value it is given (R358): it names a channel of a core that the thread's partition may
reach, and not the channel itself. -/
def State.bindFails (s : State) (n : Nat) (v : Word) : Bool :=
  let a := v.toNat
  !(isWindow a && a < 2 ^ 57) || bits a 18 4 ≠ 0
  || (s.winHere a && winCore a = s.cur.core && bits a 3 0 = n)
  || s.winBad a
  || (s.winHere a && s.corePart (winCore a) ≠ some s.myPartNo)

/-- Binds a channel afresh, with 16 credits (R154). -/
def State.bindChan (s : State) (n : Nat) (v : Word) : State :=
  let a := v.toNat
  let (g, s) := s.tickStamp
  s.modMyCore fun x => x.setChan n ⟨[], some ⟨winDev a, winCore a, bits a 3 0, 16, 0, g⟩, s.clk, false, []⟩

/-- QBIND (R358): binds, rebinds or unbinds. -/
def execQbind (p : Pred) (a b : Code) : State → Res :=
  issue p none [⟨a, .chan⟩, rg b] fun s =>
    let n := codeNum a
    let v := s.operand [b] 0
    let q := s.myCore.chan n
    if v = 0 then
      match q.bind with
      | none => if q.vals = [] then s.retire else s.trap .illopnd (a.setWidth 64)
      | some bd =>
        if q.vals = [] && bd.out = 0 && (s.myCore.pushers.look n).isNone then (s.modMyCore fun x => x.setChan n Chan.empty).retire
        else s.takeSources.parkMe (.qbind n true)
    else if s.bindFails n v then badAccess .write .prot v s
    else
      let go := fun (s : State) =>
        match q.bind with
        | none => if q.vals = [] then (s.bindChan n v).retire else s.trap .illopnd (a.setWidth 64)
        | some _ => if q.vals = [] && (s.myCore.pushers.look n).isNone then (s.bindChan n v).retire else s.takeSources.parkMe (.qbind n false)
      if s.winHere v.toNat then go s
      else s.awaitAway v (.push (bits v.toNat 3 0) []) (fun _ w s => badAccess .write .prot w s) fun _ s => go s

/-- QFLUSH (R357): sends what the credits allow, and the rest as credits return (R365). -/
def execQflush (p : Pred) (a : Code) : State → Res :=
  issue p none [⟨a, .chan⟩] fun s => (s.sendBatch s.cur.core (codeNum a)).retire

/-! ### Shared registers (R359) -/

/-- KWAIT (R359): the comparison over 64 bits, the register read under R150. One that was woken has found it true. -/
def execKwait (p : Pred) (a b : Code) (cmp : WCmp) : State → Res :=
  issue p none [⟨a, .kreg⟩, rg b] fun s =>
    let k := codeNum a
    let ref := s.operand [b] 0
    if s.me.prog.finished || wcmpHolds cmp 64 (kRead (s.myCore.kregs.lookD k []) s.clk).toNat ref.toNat then s.retire
    else s.takeSources.parkMe (.kwait k cmp ref)

end Sys2Proof.Machine
end

