-- ==== Sys2Proof/Machine/Frames.lean ====
section
/-!
DEFINITION. The end of a frame and of a thread: the join decrement (R112), the counts of R113, what a handler leaves
behind (R329), and waiting for work (R361, R120); fatal traps' endings (R250).
-/

namespace Sys2Proof.Machine

/-! ### Entries that a handler leaves (R254, R255, R386) -/

def Cluster.queue (x : Cluster) (eng : Nat) : List Job := x.jobs.lookD eng []

/-- Work of a thread that a handler run issued is of no handler that still runs: its ring entries and its jobs (R250). -/
def State.leaveHandler (s : State) (c sth : Nat) : State :=
  let s := s.modCore c fun x =>
    { x with ring := x.ring.map fun e => if e.sth = sth then { e with inHandler := false } else e }
  let mine := fun (j : Job) => j.core = c && j.sth = sth && j.inHandler
  if (s.cluster (clusterOf c)).jobs.any fun e => e.2.any mine then
    s.modCluster (clusterOf c) fun x => { x with
      jobs := KMap.mapVals (fun (l : List Job) => l.map fun j => if mine j then { j with inHandler := false } else j) x.jobs }
  else s

/-- A table load that waits for entries and jobs of its cluster wakes when the last of them is gone (R393). -/
def State.cbldSettle (s : State) (cl : Nat) : State :=
  (clusterCores cl).foldl (fun s c =>
    (s.core c).threads.foldl (fun s e =>
      match e.2.park with
      | some ⟨.cbld _ ents jobs, _, _⟩ =>
        let entsOut := ents.any fun q => (s.core q.1).ring.any fun o => o.seq = q.2
        let jobsOut := jobs.any fun q => ((s.cluster cl).queue q.1).any fun j => j.seq = q.2
        if entsOut || jobsOut then s else s.wakeWith c e.1 fun p => { p with finished := true }
      | _ => s) s) s

/-- Writes a register of a thread by its number, wherever the thread is: in a slot, or displaced with its window's
values saved. -/
def State.wrSth (s : State) (c sth : Nat) (d : Code) (v : Word) : State :=
  if isKCode d then s.modCore c fun x => x.setKreg (codeNum d) s.clk v
  else if isQCode d then s.push c (codeNum d) sth v
  else if !isGCode d then s
  else
    match slotOf (s.core c) sth with
    | some sl =>
      match s.thread? c sl with
      | some t => s.modCore c fun x => x.setGreg t (codeNum d) v
      | none => s
    | none => s.modCore c fun x =>
        { x with displaced := x.displaced.map fun e => if e.1.sth = sth then (e.1, e.2.set (codeNum d) v) else e }

/-- A push by a thread has to wait: the channel is full (R152), or it is bound and the thread has 2^32 - 1 unacknowledged
writes (R175). -/
def State.pushWaits (s : State) (c sth ch : Nat) : Bool :=
  let q := (s.core c).chan ch
  16 ≤ q.vals.length || (q.bind.isSome && 2 ^ 32 - 1 ≤ ((s.bySth c sth).map Thread.unack).getD 0)

/-- The thread of an accepted ENQ goes on: its identifier is written, or waits for room in a channel (R386, R175). -/
def State.enqDeliver (s : State) (c sth : Nat) (d : Code) (v : Word) : State :=
  if isQCode d && s.pushWaits c sth (codeNum d) then
    let (n, s) := s.tickStamp
    let s := s.modSth c sth fun t =>
      { t with park := some ⟨.chan [] (some (codeNum d)) false, n, s.clk⟩,
               prog := { t.prog with stamp := some n, handed := some v, finished := true } }
    match slotOf (s.core c) sth with
    | some sl => s.noteState c sl 1
    | none => s
  else
    let s := s.wrSth c sth d v
    match slotOf (s.core c) sth with
    | some sl => (s.modThread c sl fun t => { t with park := none, prog := Prog.fresh }).noteState c sl 0
    | none => s.modSth c sth fun t => { t with park := none, prog := Prog.fresh }

/-- An entry of the ring that stands still after a late cause (R254). -/
def Entry.still (e : Entry) : Bool := e.st = .faulted || e.st = .held

/-- An ENQ's entry. -/
def Entry.isEnq (e : Entry) : Bool := match e.instr with | .enq _ _ _ => true | _ => false

/-- A thread's faulted and held entries that `f` picks are discarded: a vector entry has no further effect, an ENQ writes all ones (R255, R386). -/
def State.discard (s : State) (c sth : Nat) (f : Entry → Bool) : State :=
  let gone := (s.core c).ring.filter fun e => e.sth = sth && e.still && f e
  let s := s.modCore c fun x => { x with ring := x.ring.filter fun e => !(e.sth = sth && e.still && f e) }
  (gone.filter Entry.isEnq).foldl (fun (s : State) e => s.enqDeliver c e.sth e.dst allOnes) s

/-- The held ENQs of a thread whose frame ends, discarded in their order: each writes all ones, and the end of the frame
parks on a push that has to wait (R329, R386). -/
def State.discardEach (k : State → State) : List Entry → State → State
  | [], s => k s
  | e :: rest, s =>
    let c := s.cur.core
    let q := (s.core c).chan (codeNum e.dst)
    if isQCode e.dst && s.pushWaits c e.sth (codeNum e.dst) then
      s.parkMe (if 16 ≤ q.vals.length then .chan [] (some (codeNum e.dst)) false else .unack)
    else
      State.discardEach k rest
        ((s.modCore c fun x => { x with ring := x.ring.filter fun o => o.seq ≠ e.seq }).wrSth c e.sth e.dst allOnes)

/-- What the end of a frame inside a handler does first: the thread's held ENQs are discarded. -/
def State.discardThen (s : State) (k : State → State) : State :=
  let t := s.me
  if t.act || t.ending then
    State.discardEach (fun s => k (s.cbldSettle (clusterOf s.cur.core)))
      (s.myCore.ring.filter fun e => e.sth = t.sth && e.still && e.isEnq) s
  else k s

/-! ### The end of a frame -/

/-- Changes the count of outstanding frames of a launch at a core's cluster (R113). -/
def State.countFrame (s : State) (pno lid core : Nat) (d : Int) : State :=
  s.modLaunch pno lid fun l =>
    { l with moving := KMap.putD 0 l.moving (clusterOf core) (l.moving.lookD (clusterOf core) 0 + d) }

/-- Discards the faulted and held entries of a thread (R255, R329). -/
def Core.dropHeld (x : Core) (sth : Nat) : Core :=
  { x with ring := x.ring.filter fun e => !(e.sth = sth && (e.st = .faulted || e.st = .held)) }

/-- Counts a fault of a partition that no launch's record takes (R329, R51). -/
def State.countFault (s : State) (pno n : Nat) : State :=
  s.modPart pno fun p =>
    { p with fatals := p.fatals + n, fatalsShown := if 2 ≤ p.level 5 then p.fatalsShown + n else p.fatalsShown }

/-- An end of frame inside a handler clears ACT, discards held entries, and lapses the faults still due, each of which
counts; a PREEMPT notice is no fault (R329, R361, R251). -/
def State.closeHandler (s : State) (c sl : Nat) : State :=
  match s.thread? c sl, s.corePart c with
  | some t, some pno =>
    if t.act || t.ending then
      let s := ((s.modCore c fun x => x.dropHeld t.sth).leaveHandler c t.sth).countFault pno
        (t.late.filter fun l => l.cause ≠ .preempt).length
      s.modThread c sl fun t => { t with tcause := Word.ofNat (t.tcause.toNat % 2 ^ 63), late := [], ending := false }
    else s
  | _, _ => s

/-- A cause still due at a thread that ends (R256): an ELATE is recorded as of an ended thread, an MCNT lapses; a
vector entry's late fault counts as fatal (DEDUCED, log entry 14). -/
def State.lateAtEnd (s : State) (pno lid : Nat) (l : Late) : State :=
  match l.cause with
  | .mcnt => s
  | .preempt => s
  | .elate =>
    (s.countFatal pno lid (s.secondAt pno lid l.pc)).emit { s.obsAt 2 pno lid l.pc with
      code := l.cause.code, sub := l.sub, lid := lid, job := bits l.val.toNat 15 0, tseq := l.seq }
  | _ => (s.countFatal pno lid (s.secondAt pno lid l.pc)).emit { s.obsAt 1 pno lid l.pc with
      code := l.cause.code, sub := l.sub, lid := lid, addr := l.val.toNat, tseq := l.seq }

/-- A mesh group's thread has ended its frame: the slot frees with the last one (R130). -/
def State.meshDone (s : State) (t : Thread) : State :=
  match t.mesh with
  | none => s
  | some (cl, n) =>
    s.modCluster cl fun x =>
      match x.pays.look n with
      | none => x
      | some q => if q.exited + 1 = q.n then { x with pays := x.pays.del n }
          else { x with pays := x.pays.put n { q with exited := q.exited + 1 } }

/-- A slot loses its thread; a TAKE mark then passes the slot to its new owner (R120). -/
def State.vacate (s : State) (c sl : Nat) : State :=
  match s.thread? c sl with
  | none => s
  | some t =>
    let s := (s.noteState c sl 3).unwatch c t.sth
    s.modCore c fun x =>
      let owners := match x.owners.look sl with
        | some ⟨_, some q⟩ => x.owners.put sl ⟨q, none⟩
        | _ => x.owners
      { x with threads := x.threads.del sl, owners := owners, idleSince := max x.idleSince s.clk }

/-- A thread ends: what it counted and what was still due is settled, and its slot and window are free. -/
def State.endThread (s : State) (c sl : Nat) : State :=
  match s.thread? c sl, s.corePart c with
  | some t, some pno =>
    let s := t.late.foldl (fun s l => s.lateAtEnd pno t.lid l) s
    let s := if t.counts then s.countFrame pno t.lid c (-1) else s
    s.vacate c sl
  | _, _ => s

/-- The slot is marked to go to another queue. -/
def Core.marked (x : Core) (sl : Nat) : Bool := (x.owners.look sl).any fun o => o.take.isSome

/-- The frame of a thread ends, and the thread waits for work, or ends (R361, R120). -/
def State.waitForWork (s : State) (c sl : Nat) : State :=
  match s.thread? c sl, s.corePart c with
  | some _, some pno =>
    let s := s.closeHandler c sl
    match s.thread? c sl with
    | none => s
    | some t =>
      let s := s.meshDone t
      if t.tnew || (s.core c).marked sl then (s.modThread c sl fun t => { t with mesh := none }).endThread c sl
      else
        let s := if t.counts then s.countFrame pno t.lid c (-1) else s
        let s := s.modThread c sl fun t =>
          { t with counts := false, mesh := none, idle := true, park := none, prog := Prog.fresh, begun := none, rel := none }
        s.noteState c sl 3
  | _, _ => s

/-- The join decrement of EXIT (R112), then the end of the frame. `bad` takes a fault of the counter's address. -/
def State.exitWith (s : State) (bad : Cause → Word → State → State) : State :=
  s.discardThen fun s =>
  let t := s.me
  let done := fun (s : State) => s.waitForWork s.cur.core s.cur.slot
  if t.tjoin = 0 then done s
  else
    s.locate false t.tjoin 8 .write bad fun pl s =>
      s.releaseThen (s.levelScope s.myPartNo s.me) fun s =>
        s.rmwAt pl t.tjoin 8 (fun old => (old + 2 ^ 64 - 1) % 2 ^ 64) (.amo .add 8 (2 ^ 64 - 1) true s.myCore.te) bad fun _ s => done s

/-- The ending of a fatal trap (R250): as EXIT; a fatal outcome of the decrement counts one further fatal fault and
ends the frame without it. -/
def State.fatalEnding (s : State) : State :=
  s.exitWith fun cause v s =>
    let c := s.cur.core
    let sl := s.cur.slot
    let t := s.me
    let pno := s.myPartNo
    let r := s.obsThread 1 pno c sl t t.pc.toNat
    (((s.countFatal pno t.lid (s.secondOf pno t t.pc.toNat)).emit { r with code := cause.code, addr := v.toNat })).waitForWork c sl

/-- EXIT (R112, R329). -/
def execExit (p : Pred) : State → Res := issue p none [] fun s => s.exitWith (badAccess .write)

/-- WFW (R361). -/
def execWfw (p : Pred) : State → Res := issue p none [] fun s => s.discardThen fun s => s.waitForWork s.cur.core s.cur.slot

end Sys2Proof.Machine
end

