-- ==== Sys2Proof/Machine/Control.lean ====
section
/-!
DEFINITION. Group 0x3: control transfer (R327, R328).
-/

namespace Sys2Proof.Machine

/-- A new PC that a transfer may take (R328, R305). -/
def goodTarget (pc : Word) : Bool := pc.toNat < 2 ^ 57 && pc.toNat % 8 = 0

/-- A transfer of control: ALIGN at the instruction when the new PC is not one, with nothing changed. `eff` is what
the instruction does besides. -/
def State.transfer (s : State) (target : Word) (eff : State → State) : State :=
  if goodTarget target then (eff s).retireTo target else s.trap .align target

/-- Target of a Form D instruction at P (R300). -/
def formD (s : State) (imm : BitVec 41) : Word := s.me.pc + 8 * imm41 imm

/-- BR (R327). -/
def execBr (p : Pred) (imm : BitVec 41) : State → Res := issue p none [] fun s => s.transfer (formD s imm) id

/-- JMP (R327). -/
def execJmp (p : Pred) (a : Code) : State → Res := issue p none [rg a] fun s => s.transfer (s.operand [a] 0) id

/-- CALL (R327). -/
def execCall (p : Pred) (d : Code) (imm : BitVec 41) : State → Res :=
  issue p (some (rg d)) [] fun s => s.transfer (formD s imm) fun s => s.wr d (s.me.pc + 8)

/-- CALLR (R327): SA is read before DST is written. -/
def execCallr (p : Pred) (d a : Code) : State → Res :=
  issue p (some (rg d)) [rg a] fun s => s.transfer (s.operand [a] 0) fun s => s.wr d (s.me.pc + 8)

/-- RET (R327). -/
def execRet (p : Pred) (a : Code) : State → Res := issue p none [rg a] fun s => s.transfer (s.operand [a] 0) id

/-- LOOP (R327): the counter is read and written through DST's code. -/
def execLoop (p : Pred) (d : Code) (imm : BitVec 41) : State → Res :=
  issue p (some (rg d)) [rg d] fun s =>
    let c := s.operand [d] 0
    if c = 0 then s.retire
    else if c = 1 then (s.wr d 0).retire
    else s.transfer (formD s imm) fun s => s.wr d (c - 1)

/-- NOP (R327). -/
def execNop (p : Pred) : State → Res := issue p none [] State.retire

end Sys2Proof.Machine
end

