-- ==== Sys2Proof/Machine/IntOps.lean ====
section
/-!
DEFINITION. Groups 0x0, 0x1 and 0x2: integer arithmetic and logic (R321 to R323), immediates and moves (R324),
GETID (R105), compares and predicates (R325, R326).
-/

namespace Sys2Proof.Machine

/-! ### Values (R321 to R324) -/

def mulhVal (a b : Word) : Word := BitVec.ofInt 64 (a.toInt * b.toInt / (2 ^ 64 : Int))
def mulhzVal (a b : Word) : Word := BitVec.ofNat 64 (a.toNat * b.toNat / 2 ^ 64)
/-- DIV, with its corners (R322). -/
def divVal (a b : Word) : Word := if b = 0 then allOnes else BitVec.ofInt 64 (Int.tdiv a.toInt b.toInt)
def divzVal (a b : Word) : Word := if b = 0 then allOnes else BitVec.ofNat 64 (a.toNat / b.toNat)
def remVal (a b : Word) : Word := if b = 0 then a else BitVec.ofInt 64 (Int.tmod a.toInt b.toInt)
def remzVal (a b : Word) : Word := if b = 0 then a else BitVec.ofNat 64 (a.toNat % b.toNat)
/-- Shift amount b[5:0] (R321). -/
def amt (b : Word) : Nat := b.toNat % 64
def shlVal (a : Word) (n : Nat) : Word := a <<< n
def shrVal (a : Word) (n : Nat) : Word := a >>> n
def shaVal (a : Word) (n : Nat) : Word := a.sshiftRight n
def rolVal (a b : Word) : Word := a.rotateLeft (amt b)
def minVal (a b : Word) : Word := if a.toInt ≤ b.toInt then a else b
def maxVal (a b : Word) : Word := if a.toInt ≤ b.toInt then b else a
def minzVal (a b : Word) : Word := if a.toNat ≤ b.toNat then a else b
def maxzVal (a b : Word) : Word := if a.toNat ≤ b.toNat then b else a
/-- Count of leading zero bits; 64 for 0. -/
def clzVal (a : Word) : Word := if a = 0 then 64 else BitVec.ofNat 64 (63 - Nat.log2 a.toNat)
def popcVal (a : Word) : Word := BitVec.ofNat 64 ((List.range 64).countP fun i => bit a.toNat i)
def brevVal (a : Word) : Word := a.reverse
/-- `sext32` of the low 32 bits (R321). -/
def sext32 (a : Word) : Word := sextn 32 a.toNat
/-- BFX (R323). -/
def bfxVal (a : Word) (sx : Bool) (pos len : Nat) : Word :=
  let f := a.toNat / 2 ^ pos % 2 ^ len
  if sx then sextn len f else BitVec.ofNat 64 f
/-- BFI (R323): bits [POS+LEN-1:POS] of a replaced by b[LEN-1:0]. -/
def bfiVal (a b : Word) (pos len : Nat) : Word :=
  BitVec.ofNat 64 (a.toNat / 2 ^ (pos + len) * 2 ^ (pos + len) + b.toNat % 2 ^ len * 2 ^ pos + a.toNat % 2 ^ pos)

/-! ### Group 0x0 -/

def execAdd (p : Pred) (d a b : Code) : State → Res := compute2 p d a b (· + ·)
def execSub (p : Pred) (d a b : Code) : State → Res := compute2 p d a b (· - ·)
def execMul (p : Pred) (d a b : Code) : State → Res := compute2 p d a b (· * ·)
def execMulh (p : Pred) (d a b : Code) : State → Res := compute2 p d a b mulhVal
def execMulhz (p : Pred) (d a b : Code) : State → Res := compute2 p d a b mulhzVal
def execDiv (p : Pred) (d a b : Code) : State → Res := compute2 p d a b divVal
def execDivz (p : Pred) (d a b : Code) : State → Res := compute2 p d a b divzVal
def execRem (p : Pred) (d a b : Code) : State → Res := compute2 p d a b remVal
def execRemz (p : Pred) (d a b : Code) : State → Res := compute2 p d a b remzVal
def execAnd (p : Pred) (d a b : Code) : State → Res := compute2 p d a b (· &&& ·)
def execOr (p : Pred) (d a b : Code) : State → Res := compute2 p d a b (· ||| ·)
def execXor (p : Pred) (d a b : Code) : State → Res := compute2 p d a b (· ^^^ ·)
def execAndn (p : Pred) (d a b : Code) : State → Res := compute2 p d a b fun a b => a &&& ~~~b
def execShl (p : Pred) (d a b : Code) : State → Res := compute2 p d a b fun a b => shlVal a (amt b)
def execShr (p : Pred) (d a b : Code) : State → Res := compute2 p d a b fun a b => shrVal a (amt b)
def execSha (p : Pred) (d a b : Code) : State → Res := compute2 p d a b fun a b => shaVal a (amt b)
def execRol (p : Pred) (d a b : Code) : State → Res := compute2 p d a b rolVal
def execMin (p : Pred) (d a b : Code) : State → Res := compute2 p d a b minVal
def execMax (p : Pred) (d a b : Code) : State → Res := compute2 p d a b maxVal
def execMinz (p : Pred) (d a b : Code) : State → Res := compute2 p d a b minzVal
def execMaxz (p : Pred) (d a b : Code) : State → Res := compute2 p d a b maxzVal
def execClz (p : Pred) (d a : Code) : State → Res := compute1 p d a clzVal
def execPopc (p : Pred) (d a : Code) : State → Res := compute1 p d a popcVal
def execBrev (p : Pred) (d a : Code) : State → Res := compute1 p d a brevVal
def execMadd (p : Pred) (d a b c : Code) : State → Res := compute3 p d a b c fun a b c => a * b + c
def execBfx (p : Pred) (d a : Code) (sx : Bool) (pos : Fin 64) (len : Fin 65) : State → Res :=
  compute1 p d a fun a => bfxVal a sx pos.val len.val
def execBfi (p : Pred) (d a b : Code) (pos : Fin 64) (len : Fin 65) : State → Res :=
  compute2 p d a b fun a b => bfiVal a b pos.val len.val
def execAddw (p : Pred) (d a b : Code) : State → Res := compute2 p d a b fun a b => sext32 (a + b)
def execSubw (p : Pred) (d a b : Code) : State → Res := compute2 p d a b fun a b => sext32 (a - b)
def execMulw (p : Pred) (d a b : Code) : State → Res := compute2 p d a b fun a b => sext32 (a * b)

/-! ### Group 0x1 -/

def execAddi (p : Pred) (d a : Code) (imm : BitVec 33) : State → Res := compute1 p d a (· + imm33 imm)
def execAndi (p : Pred) (d a : Code) (imm : BitVec 33) : State → Res := compute1 p d a (· &&& imm33 imm)
def execOri (p : Pred) (d a : Code) (imm : BitVec 33) : State → Res := compute1 p d a (· ||| imm33 imm)
def execXori (p : Pred) (d a : Code) (imm : BitVec 33) : State → Res := compute1 p d a (· ^^^ imm33 imm)
def execShli (p : Pred) (d a : Code) (sh : Fin 64) : State → Res := compute1 p d a fun a => shlVal a sh.val
def execShri (p : Pred) (d a : Code) (sh : Fin 64) : State → Res := compute1 p d a fun a => shrVal a sh.val
def execShai (p : Pred) (d a : Code) (sh : Fin 64) : State → Res := compute1 p d a fun a => shaVal a sh.val
def execMuli (p : Pred) (d a : Code) (imm : BitVec 33) : State → Res := compute1 p d a (· * imm33 imm)
def execLdi (p : Pred) (d : Code) (imm : BitVec 33) : State → Res := compute0 p d fun _ => imm33 imm
/-- LDIH replaces bits [63:33] (R324). -/
def execLdih (p : Pred) (d a : Code) (imm : BitVec 31) : State → Res :=
  compute1 p d a fun a => BitVec.ofNat 64 (imm.toNat * 2 ^ 33 + a.toNat % 2 ^ 33)
/-- LEA (R324): no memory is accessed and no address check is made. -/
def execLea (p : Pred) (d b : Code) (off : BitVec 17) : State → Res := compute1 p d b (· + imm17 off)
def execMov (p : Pred) (d a : Code) : State → Res := compute1 p d a id

/-- Lowest bit of level `n`'s index within IDX (R100). -/
def Launch.idxPos (l : Launch) (n : Nat) : Nat := ((l.levs.take n).map fun v => clog2 v.count).sum

/-- Index of a frame at level `n` (R105): 0 at a level the launch does not have. -/
def Launch.index (l : Launch) (tag : Word) (n : Nat) : Nat :=
  if n < l.nlev then tagIdx tag / 2 ^ l.idxPos n % 2 ^ clog2 (l.lev n).count else 0

/-- The values of GETID by selector (R105). -/
def getidVal (s : State) (sel : Nat) : Word :=
  let t := s.me
  match s.launch? s.myPartNo t.lid with
  | none => 0
  | some l =>
    Word.ofNat (
      if sel ≤ 7 then l.index t.tag sel
      else if sel = 8 then tagLvl t.tag
      else if sel = 9 then l.nlev
      else if sel = 10 then (l.lev (tagLvl t.tag)).count
      else if sel = 11 then tagDom t.tag
      else if sel = 12 then t.lid
      else if sel = 13 then s.cur.core
      else s.cur.slot)

def execGetid (p : Pred) (d : Code) (sel : Fin 15) : State → Res := compute0 p d fun s => getidVal s sel.val

/-! ### Group 0x2 -/

/-- CMP (R325). -/
def execCmp (p : Pred) (pd : Fin 8) (a b : Code) (cc : CC) : State → Res :=
  issue p none [rg a, rg b] fun s => (s.wrPred pd (ccHolds cc (s.operand [a, b] 0) (s.operand [a, b] 1))).retire

/-- CMPI (R325): its DST field is no operand code (R311). -/
def execCmpi (p : Pred) (pd : Fin 8) (a : Code) (cc : CC) (imm : BitVec 33) : State → Res :=
  issue p none [rg a] fun s => (s.wrPred pd (ccHolds cc (s.operand [a] 0) (imm33 imm))).retire

/-- PLOG (R326). -/
def execPlog (p : Pred) (pd pa pb : Fin 8) (op : PlogOp) : State → Res :=
  issue p none [] fun s => (s.wrPred pd (plogVal op (s.me.pred pa) (s.me.pred pb))).retire

/-- SEL (R326): both sources are read. -/
def execSel (p : Pred) (d : Code) (ps : Fin 8) (ns : Bool) (a b : Code) : State → Res :=
  issue p (some (rg d)) [rg a, rg b] fun s =>
    (s.wr d (if s.me.pred ps != ns then s.operand [a, b] 0 else s.operand [a, b] 1)).retire

/-- PGET (R326). -/
def execPget (p : Pred) (d : Code) : State → Res := compute0 p d fun s => s.me.predWord

/-- PSET (R326). -/
def execPset (p : Pred) (a : Code) : State → Res :=
  issue p none [rg a] fun s =>
    let v := s.operand [a] 0
    (s.modMe fun t => t.setPreds v).retire

end Sys2Proof.Machine
end

