-- ==== Sys2Proof/Machine/Tasks.lean ====
section
/-!
DEFINITION. Group 0x7: tasks and threads (R360 to R364), with the deque and the spill rings (R100, R104), and the
making of a thread (R107, R116, R148, R149).
-/

namespace Sys2Proof.Machine

/-! ### Slots and windows -/

/-- A slot is free for a launch (R116). -/
def Core.freeFor (x : Core) (l : Launch) (sl : Nat) : Bool :=
  (x.threads.look sl).isNone && (match x.owners.look sl with | some o => o.queue = l.queue && o.take.isNone | none => true)

/-- Lowest-numbered slot that is free for a launch. -/
def Core.freeSlot (x : Core) (l : Launch) : Option Nat := (List.range 64).find? fun sl => x.freeFor l sl

/-- `n` entries from `b` overlap no window (R149). -/
def Core.fits (x : Core) (n b : Nat) : Bool :=
  b + n ≤ 2048 && x.threads.all fun e => e.2.base + e.2.lim ≤ b || b + n ≤ e.2.base

/-- First fit: the lowest base at which `n` entries are free. -/
def Core.firstFit (x : Core) (n : Nat) : Option Nat :=
  let cand := 0 :: x.threads.map fun e => e.2.base + e.2.lim
  (cand.filter fun b => x.fits n b).foldl (fun (m : Option Nat) b => match m with
    | none => some b
    | some a => some (min a b)) none

/-- The thread numbers that threads of the core, and entries of its deque and spill rings, carry (R101). -/
def Core.carried (x : Core) : List Nat :=
  (x.threads.map fun e => e.2.sth) ++ (x.displaced.map fun e => e.1.sth) ++ x.saved.map Thread.sth ++ x.deque.map DqEntry.sth
  ++ x.spill.flatMap fun e => e.2.2.filterMap id

/-- The first number, from one on, that a list does not hold; the fuel is the length of the list, which its numbers
cannot fill past. -/
def freshNat (l : List Nat) : Nat → Nat → Nat
  | 0, n => n
  | fuel + 1, n => if l.contains n then freshNat l fuel ((n + 1) % 2 ^ 32) else n

/-- A thread number that no thread of the core, and no entry of its deque and spill rings, carries (R101). -/
def Core.freshSth (x : Core) : Nat := freshNat x.carried x.carried.length x.nextSth

/-- DQBASE of a launch's threads on a core (R104). -/
def Launch.dqbase (l : Launch) (c : Nat) : Word := Word.ofNat ((l.spill.toNat + 128 * l.spn * c) / 128 * 128)

/-- Puts a new thread of a launch into the lowest free slot, with a zeroed first-fit window (R107, R149): the slot and
the state, or none when there is no slot or no room. In a partition that the operator has stopped whole it stands stopped (R50). The caller sets the rest. -/
def State.makeThread (s : State) (c : Nat) (l : Launch) (win : Nat) : Option (Nat × State) :=
  let x := s.core c
  match x.freeSlot l, x.firstFit win with
  | some sl, some b =>
    let sth := x.freshSth
    let t : Thread := { Thread.zero with
      lid := l.lid, pl := l.pl, sth := sth, base := b, lim := win, dqbase := l.dqbase c, busy := s.clk, dbg := s.opHalted c }
    let x := { x with
      threads := x.threads.put sl t,
      regs := x.regs.filter fun e => e.1 < b || b + win ≤ e.1,
      regPoison := x.regPoison.filter fun e => e < b || b + win ≤ e,
      nextSth := (sth + 1) % 2 ^ 32 }
    some (sl, s.setCore c x)
  | _, _ => none

/-- A displaced thread of a launch waits on the core (R120). -/
def Core.displacedOf (x : Core) (lid : Nat) : Bool := x.displaced.any fun e => e.1.lid = lid

/-! ### Deque and spill rings (R100, R104) -/

/-- The 128 bytes of a deque entry (R100). -/
def DqEntry.image (e : DqEntry) : List Byte :=
  padTo 128 (padTo 64 (e.words.flatMap fun w => leBytes 8 w.toNat) ++ leBytes 8 e.tag.toNat ++ leBytes 4 e.lid ++ leBytes 4 e.sth)

/-- `n` little-endian words of a list of bytes. -/
def leWords : Nat → List Byte → List Word
  | 0, _ => []
  | n + 1, bs => Word.ofNat (leNat (bs.take 8)) :: leWords n (bs.drop 8)

/-- A deque entry read back (R104): the launch is the ring's, whatever the LID field holds. -/
def DqEntry.ofBytes (lid : Nat) (bs : List Byte) : DqEntry :=
  ⟨leWords 8 bs, Word.ofNat (leNat ((bs.drop 64).take 8)), lid, leNat ((bs.drop 76).take 4)⟩

/-- The launch whose entry has to move when the deque is full (R104): X if the core holds one on chip, else the launch of
the oldest entry. -/
def Core.spillLaunch (x : Core) (lid : Nat) : Nat :=
  if x.deque.any fun e => e.lid = lid then lid else ((x.deque.head?).map DqEntry.lid).getD lid

/-- Removes the first entry of a launch. -/
def dqRemove (lid : Nat) : List DqEntry → List DqEntry
  | [] => []
  | e :: l => if e.lid = lid then l else e :: dqRemove lid l

/-- Address of place `i` of a launch's spill ring on a core (R104). -/
def Launch.spillAddr (l : Launch) (c i : Nat) : Word := Word.ofNat (l.spill.toNat + 128 * l.spn * c + 128 * (i % max l.spn 1))

/-- Makes room in a full deque by moving an entry to its ring (R104), parking on a full ring or a fault. -/
def State.spillThen (s : State) (k : State → State) : State :=
  let c := s.cur.core
  let x := s.myCore
  if x.deque.length < 256 then k s
  else
    let y := x.spillLaunch s.me.lid
    match s.launch? s.myPartNo y, x.deque.find? fun e => e.lid = y with
    | some l, some e =>
      let (start, ns) := x.spill.lookD y (0, [])
      if l.spn ≤ ns.length then s.parkMe .spawnRing
      else
        let ea := l.spillAddr c (start + ns.length)
        let moved := fun (s : State) => k (s.modMyCore fun x =>
          { x with deque := dqRemove y x.deque, spill := x.spill.put y (start, ns ++ [if tagDom e.tag = 0 then some e.sth else none]) })
        s.locate false ea 8 .write (badAccess .write) fun pl s =>
          match pl with
          | .virt pa => moved (s.sliceWrite s.myPartNo pa e.image)
          | .here o => moved (s.modMyCore fun x => x.lstore o e.image)
          | .there d o => moved (s.modCore d fun x => x.lstore o e.image)
          | .away => badAccess .write .prot ea s
    | _, _ => k s

/-- TAG of a spawned frame (R100, R360). -/
def Launch.childTag (l : Launch) (tag : Word) (lvl dom core i : Nat) : Word :=
  let pos := l.idxPos lvl
  let idx := tagIdx tag % 2 ^ pos + i * 2 ^ pos
  Word.ofNat (lvl * 2 ^ 61 + dom * 2 ^ 58 + core * 2 ^ 46 + idx % 2 ^ 46)

/-- SPAWN (R360). -/
def execSpawn (p : Pred) (a b : Code) (deep : Bool) (dom : Fin 9) : State → Res :=
  issue p none [⟨a, .group 8 1⟩, rg b] fun s =>
    let t := s.me
    match s.launch? s.myPartNo t.lid with
    | none => s.retire
    | some l =>
      let lvl := tagLvl t.tag + b2n deep
      let lev := l.lev lvl
      let i := (s.operand [b] 0).toNat
      let d := if dom.val = 0 then lev.domc else dom.val - 1
      if l.nlev ≤ lvl then s.trap .illopnd (a.setWidth 64)
      else if lev.count ≤ i then s.trap .illopnd (b.setWidth 64)
      else if lev.domc < d then s.trapWord .illmod
      else
        s.releaseThen (Scope.ofCode lev.scope) fun s => s.spillThen fun s =>
          let words := (List.range 8).map fun j => s.myCore.greg t (a.toNat + j)
          let e : DqEntry := ⟨words, l.childTag t.tag lvl d s.cur.core i, t.lid, if d = 0 then t.sth else 0⟩
          ((s.modMyCore fun x => { x with deque := x.deque ++ [e] }).countFrame s.myPartNo t.lid s.cur.core 1).retire

/-- JOINW (R362, R112). -/
def execJoinw (p : Pred) (a : Code) (sc : Scope) : State → Res :=
  issue p none [rg a] fun s => s.waitWord (s.operand [a] 0) 8 .eq 0 sc .write .join State.retire

/-- TNEW (R363). -/
def execTnew (p : Pred) (d a : Code) (lim : Fin 17) : State → Res :=
  issue p (some (rg d)) [rg a] fun s =>
    let pc := s.operand [a] 0
    s.takeSources.releaseThen .core fun s =>
      let t := s.me
      let c := s.cur.core
      let none' := fun (s : State) => (s.wr d allOnes).retire
      match s.launch? s.myPartNo t.lid with
      | none => none' s
      | some l =>
        if s.myCore.displacedOf t.lid then none' s
        else
          match s.makeThread c l (8 * lim.val) with
          | none => none' s
          | some (sl, s) =>
            let s := (s.modThread c sl fun n =>
              { n with pc := pc, tag := t.tag, dqbase := t.dqbase, counts := true, tnew := true,
                       spliced := (l.fused.bind fun f => f.entryAt pc.toNat).isSome }).noteState c sl 0
            let s := s.modCore c fun x => match x.threads.look sl with
              | some n => x.setGreg n 0 (Word.ofNat s.cur.slot)
              | none => x
            ((s.countFrame s.myPartNo t.lid c 1).wr d (Word.ofNat sl)).retire

/-- YIELD (R364): not ready until the next rotation boundary. -/
def execYield (p : Pred) : State → Res :=
  issue p none [] fun s => if s.me.prog.finished then s.retire else s.parkMe (.yield ((s.clk / 32 + 1) * 32))

/-- PARK (R364). -/
def execPark (p : Pred) (a : Code) : State → Res :=
  issue p none [rg a] fun s =>
    let n := bits (s.operand [a] 0).toNat 19 0
    if n = 0 || s.me.prog.finished then s.retire else s.takeSources.parkMe (.until (s.clk + n))

end Sys2Proof.Machine
end

