-- ==== Sys2Proof/Machine/Fp.lean ====
section
/-!
DEFINITION. Group 0x8: scalar floating point (R330 to R335).
-/

namespace Sys2Proof.Machine

/-- Format of a size (R330). -/
def fmtOf (sz : FSize) : Fmt := match sz with | .s => f32 | .d => f64

/-- An operand as a value: its low bits, FTZ applied (R330). -/
def fpIn (sz : FSize) (mode : Nat) (w : Word) : Val :=
  (fmtOf sz).decode false (modeFtz mode) (w.toNat % 2 ^ (fmtOf sz).width)

/-- A result rounded into a register (R330, R237). -/
def fpOut (sz : FSize) (mode : Nat) (rm : RM) (v : Val) : Word :=
  Word.ofNat ((fmtOf sz).encode false (modeFtz mode) (rmOf rm mode) v)

/-- MODE of the thread being issued (R235). -/
def State.mode (s : State) : Nat := s.me.mode.toNat

/-- An operation on one value. -/
def fp1 (p : Pred) (d a : Code) (f : Nat → Word → Word) (s : State) : Res :=
  issue p (some (rg d)) [rg a] (fun s => (s.wr d (f s.mode (s.operand [a] 0))).retire) s

/-- An operation on two values. -/
def fp2 (p : Pred) (d a b : Code) (sz : FSize) (rm : RM) (f : RM → Val → Val → Val) (s : State) : Res :=
  issue p (some (rg d)) [rg a, rg b] (fun s =>
    let m := s.mode
    (s.wr d (fpOut sz m rm (f (rmOf rm m) (fpIn sz m (s.operand [a, b] 0)) (fpIn sz m (s.operand [a, b] 1))))).retire) s

/-- FADD (R331). -/
def execFadd (p : Pred) (d a b : Code) (sz : FSize) (rm : RM) : State → Res := fp2 p d a b sz rm fun r x y => x.add r y
/-- FSUB (R331). -/
def execFsub (p : Pred) (d a b : Code) (sz : FSize) (rm : RM) : State → Res := fp2 p d a b sz rm fun r x y => x.add r y.neg
/-- FMUL (R331). -/
def execFmul (p : Pred) (d a b : Code) (sz : FSize) (rm : RM) : State → Res := fp2 p d a b sz rm fun _ x y => x.mul y
/-- FDIV (R331). -/
def execFdiv (p : Pred) (d a b : Code) (sz : FSize) (rm : RM) : State → Res := fp2 p d a b sz rm fun _ x y => x.div y
/-- FMIN (R332). -/
def execFmin (p : Pred) (d a b : Code) (sz : FSize) (rm : RM) : State → Res := fp2 p d a b sz rm fun _ x y => x.lesser y
/-- FMAX (R332). -/
def execFmax (p : Pred) (d a b : Code) (sz : FSize) (rm : RM) : State → Res := fp2 p d a b sz rm fun _ x y => x.greater y

/-- FFMA (R331): one rounding of the exact value. -/
def execFfma (p : Pred) (d a b c : Code) (sz : FSize) (rm : RM) : State → Res :=
  issue p (some (rg d)) [rg a, rg b, rg c] fun s =>
    let m := s.mode
    let x := fpIn sz m (s.operand [a, b, c] 0)
    let y := fpIn sz m (s.operand [a, b, c] 1)
    let z := fpIn sz m (s.operand [a, b, c] 2)
    (s.wr d (fpOut sz m rm ((x.mul y).add (rmOf rm m) z))).retire

/-- FSQRT (R331). -/
def execFsqrt (p : Pred) (d a : Code) (sz : FSize) (rm : RM) : State → Res :=
  fp1 p d a fun m w => fpOut sz m rm (fpIn sz m w).sqrt

/-- The truth of a FX b (R333). -/
def fcmpHolds (fx : FCmp) (a b : Val) : Bool :=
  let un := a.isNan || b.isNan
  match fx with
  | .eq => !un && a.cmp b = .eq
  | .lt => !un && a.cmp b = .lt
  | .le => !un && a.cmp b ≠ .gt
  | .un => un
  | .ne => un || a.cmp b ≠ .eq
  | .ge => !un && a.cmp b ≠ .lt
  | .gt => !un && a.cmp b = .gt
  | .or => !un

/-- FCMP (R333). -/
def execFcmp (p : Pred) (pd : Fin 8) (a b : Code) (fx : FCmp) (sz : FSize) (_rm : RM) : State → Res :=
  issue p none [rg a, rg b] fun s =>
    let m := s.mode
    (s.wrPred pd (fcmpHolds fx (fpIn sz m (s.operand [a, b] 0)) (fpIn sz m (s.operand [a, b] 1)))).retire

/-- FCVT's result (R334). -/
def fcvtVal (fx : FCvt) (sz : FSize) (rm : RM) (m : Nat) (w : Word) : Word :=
  match fx with
  | .xf => fpOut sz m rm (fpIn (match sz with | .s => .d | .d => .s) m w)
  | .fs => fpOut sz m rm (Val.ofInt w.toInt)
  | .fz => fpOut sz m rm (Val.ofInt w.toNat)
  | .sf => BitVec.ofInt 64 ((fpIn sz m w).toRange (rmOf rm m) (-2 ^ 63) (2 ^ 63 - 1))
  | .zf => BitVec.ofInt 64 ((fpIn sz m w).toRange (rmOf rm m) 0 (2 ^ 64 - 1))

/-- FCVT (R334). -/
def execFcvt (p : Pred) (d a : Code) (fx : FCvt) (sz : FSize) (rm : RM) : State → Res := fp1 p d a fun m w => fcvtVal fx sz rm m w

/-- FSGN's result (R335): a with another sign bit. -/
def fsgnVal (fx : FSgn) (sz : FSize) (a b : Word) : Word :=
  let w := (fmtOf sz).width
  let x := a.toNat % 2 ^ w
  let sa := bit x (w - 1)
  let sb := bit b.toNat (w - 1)
  let sg := match fx with | .sgj => sb | .sgn => !sb | .sgx => sa != sb
  Word.ofNat (x % 2 ^ (w - 1) + b2n sg * 2 ^ (w - 1))

/-- FSGN (R335): no FTZ, payloads kept. -/
def execFsgn (p : Pred) (d a b : Code) (fx : FSgn) (sz : FSize) (_rm : RM) : State → Res := compute2 p d a b fun a b => fsgnVal fx sz a b

/-- FCLASS's result (R335): the bit of the class. -/
def fclassVal (sz : FSize) (a : Word) : Word :=
  let f := fmtOf sz
  let x := a.toNat % 2 ^ f.width
  let neg := bit x (f.width - 1)
  let field := x / 2 ^ f.m % 2 ^ f.e
  let mant := x % 2 ^ f.m
  let i :=
    if field = 2 ^ f.e - 1 then (if mant ≠ 0 then 8 else if neg then 0 else 7)
    else if field = 0 then (if mant = 0 then (if neg then 3 else 4) else if neg then 2 else 5)
    else if neg then 1 else 6
  Word.ofNat (2 ^ i)

/-- FCLASS (R335). -/
def execFclass (p : Pred) (d a : Code) (sz : FSize) (_rm : RM) : State → Res := compute1 p d a (fclassVal sz)

end Sys2Proof.Machine
end

