-- ==== Sys2Proof/Machine/Zones.lean ====
section
/-!
DEFINITION. Zones: the ZF fields (R157, R158), element formats (R224), where an element lies (R159, R165), decoding an
element into a lane (R225, R229 to R234, R238) and encoding a lane into an element (R230, R232 to R234, R237), and
reading and writing whole segments of local memory with their faults (R163, R228, R266).
-/

namespace Sys2Proof.Machine

/-! ### Formats -/

/-- Classes of formats (R224). -/
inductive FCls where
  | f | i | c | w
  deriving DecidableEq, Repr

/-- Class of a format code (R224). -/
def fmtCls (c : Nat) : FCls :=
  match c with
  | 19 | 20 => .c
  | 8 | 9 | 10 | 11 | 21 | 22 | 23 | 24 => .i
  | 25 | 26 | 27 => .w
  | _ => .f

/-- Format codes of block-scaled formats. -/
def isMx (c : Nat) : Bool := 12 ≤ c && c ≤ 17
/-- Formats whose decoding a foreign TE makes invalid (R228). -/
def teSensitive (c : Nat) : Bool := (3 ≤ c && c ≤ 6) || (12 ≤ c && c ≤ 15)

/-- The binary format of an F-class code that has one; MX formats give their elements'. -/
def floatFmt (c : Nat) : Option Fmt :=
  match c with
  | 0 => some f32
  | 1 => some f16
  | 2 => some bf16
  | 3 | 12 => some e4m3
  | 4 | 13 => some e5m2
  | 5 | 14 => some e3m2
  | 6 | 15 => some e2m3
  | 7 | 16 => some e2m1
  | _ => none

/-- Range of an I-class code, and of its bits. -/
def intRange (c : Nat) : Int × Int :=
  match c with
  | 8 => (-128, 127)
  | 9 => (0, 255)
  | 10 => (-8, 7)
  | 11 => (0, 15)
  | 21 => (-32768, 32767)
  | 22 => (0, 65535)
  | 23 => (-2147483648, 2147483647)
  | _ => (0, 4294967295)

/-! ### ZF (R157, R158) -/

/-- A valid ZF value for a zone (R158). -/
def zfValid (zone z : Nat) : Bool :=
  zfFmt z ≤ 27 && bits z 63 24 = 0 && !bit z 19 && bits z 11 9 = 0 && bits z 7 5 = 0 && z < 2 ^ 64
  && (!isMx (zfFmt z) || (zfBlk z = 5 && zfSzn z ≠ zone))
  && (if zfDom z = 1 then (zfFmt z = 19 || zfFmt z = 20) && 2 ≤ zfBlk z && zfBlk z ≤ 12
      else isMx (zfFmt z) || zfBlk z = 0)

/-- ZF of a zone. -/
def Core.zone (x : Core) (n : Nat) : Nat := x.zf.lookD n 0
/-- Zone of a local offset (R156). -/
def zoneOf (o : Nat) : Nat := o / 32768

/-! ### Elements in local memory (R159, R165) -/

/-- Bytes that hold bits, from the first to the last. -/
def bytesOfBits (b n : Nat) : Nat × Nat := (b / 8, (b % 8 + n + 7) / 8)

/-- Cells that the active elements of a segment lie in. -/
def segCells (e : Nat) (col : Bool) (o n : Nat) : List Nat :=
  if n = 0 then []
  else if col then
    ((List.range n).flatMap fun i => let q := bytesOfBits (elemBit e true o i) e; cellsOf q.1 q.2).foldl insertNat []
  else cellsOf o ((e * n + 7) / 8)

/-- The bytes after setting some elements of a run of bytes that starts at `base`: bit address and value of each. -/
def setBits (e base : Nat) (bs : List Byte) (els : List (Nat × Nat)) : List Byte :=
  let v := els.foldl (fun v q =>
    let p := q.1 - 8 * base
    v - v / 2 ^ p % 2 ^ e * 2 ^ p + q.2 % 2 ^ e * 2 ^ p) (leNat bs)
  leBytes bs.length v

/-! ### Lanes (R238) -/

/-- A lane value. -/
inductive Lane where
  | fp (v : Val)
  | int (w : Word)
  | cx (re im : Val)
  deriving DecidableEq, Repr

inductive LKind where
  | fp | int | cx
  deriving DecidableEq, Repr

/-- Lane kind of a set of classes (R238). -/
def laneKind (l : List FCls) : LKind := if l.contains .c then .cx else if l.contains .f then .fp else .int

/-- What governs a decoding or an encoding: TE, FTZ, rounding mode, and the codebook of the zone. -/
structure Cod where
  te : Bool
  ftz : Bool
  rm : RM
  book : List Nat
  deriving Repr

/-- Decoded value within the binary32 range (R229). -/
def limit32 (v : Val) : Val :=
  match v with
  | .fin neg m e =>
    if m = 0 then v
    else if 128 ≤ (Nat.log2 m : Int) + e then .inf neg
    else if (Nat.log2 m : Int) + e < -149 then Val.zero neg
    else v
  | v => v

/-- Exact value of an F-class element with its block's scale byte (R225, R229, R232). -/
def exactF (cod : Cod) (c raw scale : Nat) : Val :=
  if isMx c then
    if scale = 0xFF then .nan
    else if c = 17 then (Val.ofInt (signedOf 8 raw) (-6)).scale ((scale : Int) - 127)
    else match floatFmt c with
      | some f => (f.decode cod.te false raw).scale ((scale : Int) - 127)
      | none => .nan
  else if c = 18 then bf16.decode false false (cod.book.getD (raw % 16) 0)
  else match floatFmt c with
    | some f => f.decode cod.te cod.ftz raw
    | none => .nan

/-- The same in FP32 lanes (R229). -/
def decodeF (cod : Cod) (c raw scale : Nat) : Val :=
  if isMx c then limit32 (exactF cod c raw scale) else exactF cod c raw scale

/-- Exact value of an element of class F or I (R397, R405). -/
def exactVal (cod : Cod) (c raw scale : Nat) : Val :=
  match fmtCls c with
  | .i => Val.ofInt (if intSigned c then signedOf (fmtWidth c) raw else raw)
  | _ => exactF cod c raw scale

/-- A decoded element as a lane of a kind (R233, R234, R238, R239). -/
def decodeLane (cod : Cod) (k : LKind) (c raw scale : Nat) : Lane :=
  let real : Val :=
    match fmtCls c with
    | .f => decodeF cod c raw scale
    | .i => (Val.ofInt (if intSigned c then signedOf (fmtWidth c) raw else raw)).round32 false cod.rm
    | .w => f32.decode false false raw
    | .c => .nan
  match k with
  | .int => .int (if fmtCls c = .i && intSigned c then sextn (fmtWidth c) raw else Word.ofNat raw)
  | .fp => .fp real
  | .cx =>
    match fmtCls c with
    | .c =>
      if c = 19 then .cx (bf16.decode false cod.ftz (raw % 2 ^ 16)) (bf16.decode false cod.ftz (raw / 2 ^ 16))
      else .cx (f32.decode false cod.ftz (raw % 2 ^ 32)) (f32.decode false cod.ftz (raw / 2 ^ 32))
    | _ => .cx real (Val.zero false)

/-- Difference of two finite values, as a magnitude. -/
def valDist (a b : Val) : Val := (a.add .rne b.neg).abs

/-- Code of the nearest codebook entry (R232). -/
def encodeBook (book : List Nat) (v : Val) : Nat :=
  let ents := ((List.range 16).map fun i => (i, bf16.decode false false (book.getD i 0))).filter fun q => !q.2.isNan
  match v with
  | .nan => 0
  | .inf neg =>
    (ents.foldl (fun (b : Option (Nat × Val)) q => match b with
      | none => some q
      | some o => if (if neg then q.2.cmp o.2 = .lt else q.2.cmp o.2 = .gt) then some q else b) none).map Prod.fst |>.getD 0
  | .fin _ _ _ =>
    (ents.foldl (fun (b : Option (Nat × Val)) q => match b with
      | none => some q
      | some o => if (valDist q.2 v).cmp (valDist o.2 v) = .lt then some q else b) none).map Prod.fst |>.getD 0

/-- Pattern of a lane in a format that is not block-scaled (R232 to R234, R237). -/
def encodeLane (cod : Cod) (c : Nat) (l : Lane) : Nat :=
  match fmtCls c, l with
  | .f, .fp v => if c = 18 then encodeBook cod.book v else match floatFmt c with
    | some f => f.encode cod.te cod.ftz cod.rm v
    | none => 0
  | .i, .fp v => ((v.toRange cod.rm (intRange c).1 (intRange c).2) % (2 ^ fmtWidth c : Nat)).toNat
  | .i, .int w => ((max (intRange c).1 (min (intRange c).2 w.toInt)) % (2 ^ fmtWidth c : Nat)).toNat
  | .w, .fp v => f32.encode false cod.ftz .rne v % 2 ^ fmtWidth c
  | .w, .int w => w.toNat % 2 ^ fmtWidth c
  | .c, .cx re im =>
    if c = 19 then bf16.encode false cod.ftz cod.rm re + bf16.encode false cod.ftz cod.rm im * 2 ^ 16
    else f32.encode false cod.ftz cod.rm re + f32.encode false cod.ftz cod.rm im * 2 ^ 32
  | _, _ => 0

/-! ### Block-scaled encoding (R230) -/

/-- emax of a block-scaled format. -/
def mxEmax (te : Bool) (c : Nat) : Int :=
  match floatFmt c with
  | some f => (f.maxField te : Int) - f.bias
  | none => 0

/-- floor(log2) of a finite non-zero magnitude. -/
def floorLog (v : Val) : Int :=
  match v with
  | .fin _ m e => (Nat.log2 m : Int) + e
  | _ => 0

/-- Largest magnitude of a list. -/
def amax (l : List Val) : Val :=
  l.foldl (fun a v => if a.cmp v.abs = .lt then v.abs else a) (Val.zero false)

/-- Scale byte of a block (R230). -/
def mxScale (te : Bool) (c : Nat) (l : List Val) : Nat :=
  if l.any Val.isNan then 0xFF
  else
    match amax l with
    | .inf _ => 0xFE
    | a => if a.isZero then 0 else (max 0 (min 0xFE (floorLog a - mxEmax te c + 127))).toNat

/-- Element of a block under its scale (R230): magnitudes above the largest finite, and Inf, saturate. -/
def mxElem (te : Bool) (rm : RM) (c scale : Nat) (v : Val) : Nat :=
  if scale = 0xFF then 0
  else
    let x := v.scale (127 - (scale : Int))
    if c = 17 then ((x.scale 6).toRange rm (-128) 127 % 256).toNat
    else match floatFmt c with
      | none => 0
      | some f =>
        let top := f.decode te false (f.maxFinite te false)
        let sat := f.maxFinite te v.isNeg
        match x with
        | .inf _ => sat
        | x => if top.cmp x.abs = .lt then sat
          else
            let r := f.encode te false rm x
            if f.special te && r / 2 ^ f.m % 2 ^ f.e = 2 ^ f.e - 1 then sat else r

/-! ### Segments of local memory -/

/-- A fault at a segment: SUB and TVAL of a late fault, and the kind of access (0 none). -/
structure SegErr where
  sub : Nat
  val : Word
  acc : Nat := 0
  deriving DecidableEq, Repr

/-- The placement rules of a local segment (R163, R165, R367): its byte offset, or ALIGN. -/
def segPlace (e : Nat) (col : Bool) (zone n : Nat) (addr : Word) : Except SegErr Nat :=
  let o := addr.toNat
  let bad : SegErr := ⟨0x05, addr, 0⟩
  if 2 ^ 19 ≤ o then .error bad
  else if col then
    if o % 4 ≠ 0 then .error bad
    else
      let last := o + (n - 1) / (32 / e) * 256 + 3
      if zoneOf o = zone && zoneOf last = zone then .ok o else .error bad
  else if 8 ≤ e && o % (e / 8) ≠ 0 then .error bad
  else if n = 0 then .ok o
  else if zoneOf o = zone && zoneOf (o + (e * n + 7) / 8 - 1) = zone then .ok o else .error bad

/-- Scale byte of the block that a bit address lies in (R160). -/
def scaleOf (m : Memory) (zone z b : Nat) : Nat :=
  let k := (b - 8 * 32768 * zone) / (32 * fmtWidth (zfFmt z))
  (m.get (32768 * zfSzn z + k)).toNat

/-- The elements of a segment as they are held: bits, scale byte of the block (0 outside MX zones), and whether either
is poisoned. FMTMIS is judged when they are to be decoded (R228). -/
def Core.readElems (x : Core) (z zone : Nat) (col decoded : Bool) (n : Nat) (addr : Word) :
    Except SegErr (List (Nat × Nat × Bool)) :=
  let c := zfFmt z
  let e := fmtWidth c
  match segPlace e col zone n addr with
  | .error er => .error er
  | .ok o =>
    if decoded && teSensitive c && (segCells e col o n).any fun q => x.fx.contains q then .error ⟨0x09, addr, 0⟩
    else .ok ((List.range n).map fun i =>
      let b := elemBit e col o i
      let sc := 32768 * zfSzn z + (b - 8 * 32768 * zone) / (32 * e)
      let q := bytesOfBits b e
      (x.lmem.readBits b e, if isMx c then (x.lmem.get sc).toNat else 0,
        x.lpoisoned q.1 q.2 || (isMx c && x.lpoisoned sc 1)))

/-- Reads a segment's active lanes (R239), POISON when any of them is poisoned (R266). -/
def Core.readSeg (x : Core) (cod : Cod) (k : LKind) (z zone : Nat) (col : Bool) (n : Nat) (addr : Word) :
    Except SegErr (List Lane) :=
  match x.readElems z zone col true n addr with
  | .error er => .error er
  | .ok l =>
    if l.any fun q => q.2.2 then .error ⟨0x0D, addr, 0⟩
    else .ok (l.map fun q => decodeLane cod k (zfFmt z) q.1 q.2.1)

/-- Reads one lane of a segment that starts at a byte offset, with its own faults only (R377, R228, R266). -/
def Core.readLane (x : Core) (cod : Cod) (k : LKind) (z zone : Nat) (col : Bool) (o i : Nat) (addr : Word) :
    Except SegErr (List Lane) :=
  let c := zfFmt z
  let e := fmtWidth c
  let b := elemBit e col o i
  let sc := 32768 * zfSzn z + (b - 8 * 32768 * zone) / (32 * e)
  let q := bytesOfBits b e
  if teSensitive c && (cellsOf q.1 q.2).any fun n => x.fx.contains n then .error ⟨0x09, addr, 0⟩
  else if x.lpoisoned q.1 q.2 || (isMx c && x.lpoisoned sc 1) then .error ⟨0x0D, addr, 0⟩
  else .ok [decodeLane cod k c (x.lmem.readBits b e) (if isMx c then (x.lmem.get sc).toNat else 0)]

/-- Writes patterns of elements of a segment: in rows as one run of bytes, in columns word by word. -/
def Core.writeRaw (x : Core) (e : Nat) (col : Bool) (o : Nat) (raws : List Nat) : Core :=
  let els := (List.range raws.length).map fun i => (elemBit e col o i, raws.getD i 0)
  if raws = [] then x
  else if col then
    els.foldl (fun x q =>
      let (a, n) := bytesOfBits q.1 e
      x.lstore a (setBits e a (x.lmem.bytes a n) [q])) x
  else
    let n := (e * raws.length + 7) / 8
    x.lstore o (setBits e o (x.lmem.bytes o n) els)

/-- A block of an MX zone with some of its elements replaced (R230): the whole block is rewritten, untouched elements
being decoded first. `new` gives the replaced elements by index in the block. The block's elements lie at `ph` bits from
its start on: a 6-bit segment may start off the grid of the zone's elements (R367), and its elements are then those that
begin in the block at the segment's own places; one that would run past the zone is none. -/
def Core.writeBlock (x : Core) (cod : Cod) (z zone k ph : Nat) (new : List (Nat × Val)) (addr : Word) :
    Except SegErr Core :=
  let c := zfFmt z
  let e := fmtWidth c
  let b0 := 8 * 32768 * zone + 32 * e * k + ph
  let ids := (List.range 32).filter fun i => b0 + e * i + e ≤ 8 * 32768 * (zone + 1)
  let rest := ids.filter fun i => (new.find? fun q => q.1 = i).isNone
  let cells := (rest.flatMap fun i => let q := bytesOfBits (b0 + e * i) e; cellsOf q.1 q.2)
  if teSensitive c && cells.any fun q => x.fx.contains q then .error ⟨0x09, addr, 0⟩
  else if cells.any fun q => x.lpoison.contains q then .error ⟨0x0D, addr, 0⟩
  else
    let scale := scaleOf x.lmem zone z b0
    let vals := ids.map fun i =>
      match new.find? fun q => q.1 = i with
      | some q => q.2
      | none => decodeF cod c (x.lmem.readBits (b0 + e * i) e) scale
    let s := mxScale cod.te c vals
    let n := (b0 % 8 + e * ids.length + 7) / 8
    let els := (ids.zip vals).map fun q => (b0 + e * q.1, mxElem cod.te cod.rm c s q.2)
    let x := x.lstore (b0 / 8) (setBits e (b0 / 8) (x.lmem.bytes (b0 / 8) n) els)
    .ok (x.lstore (32768 * zfSzn z + k) [BitVec.ofNat 8 s])

/-- The runs of bytes, local offset and length, that a row of `n` elements at byte `o` rewrites in a zone (R230): its own
bytes, or in an MX zone every block that it touches, whole, and the blocks' scale bytes. -/
def rowSpans (z zone o n : Nat) : List (Nat × Nat) :=
  let e := fmtWidth (zfFmt z)
  if n = 0 then []
  else if isMx (zfFmt z) then
    let b := 8 * o - 8 * 32768 * zone
    let k := b / (32 * e)
    let m := (b + e * (n - 1)) / (32 * e) + 1 - k
    let first := 8 * 32768 * zone + 32 * e * k + b % e
    let last := min (first + 32 * e * m) (8 * 32768 * (zone + 1))
    [(first / 8, (last + 7) / 8 - first / 8), (32768 * zfSzn z + k, m)]
  else [(o, (e * n + 7) / 8)]

/-- The value of a lane for an F-class element. -/
def Lane.val : Lane → Val
  | .fp v => v
  | .cx re _ => re
  | .int w => Val.ofInt w.toInt

/-- Writes a segment's active lanes (R239, R230); nothing is written when a fault is met. -/
def Core.writeSeg (x : Core) (cod : Cod) (z zone : Nat) (col : Bool) (addr : Word) (lanes : List Lane) :
    Except SegErr Core :=
  let c := zfFmt z
  let e := fmtWidth c
  match segPlace e col zone lanes.length addr with
  | .error er => .error er
  | .ok o =>
    if isMx c then
      let ph := if col then 0 else (8 * o - 8 * 32768 * zone) % e
      let els := (List.range lanes.length).map fun i =>
        let b := elemBit e col o i - 8 * 32768 * zone
        (b / (32 * e), (b % (32 * e) - ph) / e, (lanes.getD i (.fp .nan)).val)
      let ks := els.foldl (fun l q => insertNat l q.1) []
      let r : Except SegErr Core := ks.foldl (fun r k => match r with
        | .error er => .error er
        | .ok x => x.writeBlock cod z zone k ph ((els.filter fun q => q.1 = k).map Prod.snd) addr) (.ok x)
      let a := 32768 * zone + 4 * e * (ks.head?.getD 0)
      match r with
      | .error er => .error er
      | .ok x => .ok (if col then x else x.lstore a (x.lmem.bytes a (4 * e * ks.length)))
    else .ok (x.writeRaw e col o (lanes.map fun l => encodeLane cod c l))

end Sys2Proof.Machine
end

