-- ==== Sys2Proof/Machine/VecMath.lean ====
section
/-!
DEFINITION. The functions of the approximate instructions (R243, R381) to 300 bits and more in fixed point, and the two
paths.
-/

namespace Sys2Proof.Machine

/-- Fraction bits of the fixed-point values. -/
abbrev prec : Nat := 320

/-- 1 in fixed point. -/
abbrev one' : Nat := 2 ^ prec

/-- Sum of `z^(2k+1) / (2k+1)` with signs: `alt` alternates them (arctangent), else all are positive (artanh). `zz` is
the square of `z`, `t` the next power. -/
def oddSeries (alt : Bool) (zz : Nat) : Nat → Nat → Nat → Int → Int
  | 0, _, _, acc => acc
  | fuel + 1, k, t, acc =>
    let term : Int := ((t / (2 * k + 1) : Nat) : Int)
    oddSeries alt zz fuel (k + 1) (t * zz / one') (if alt && k % 2 = 1 then acc - term else acc + term)

/-- artanh of a fixed-point number up to 1/3. -/
def artanhFix (z : Nat) : Nat := (oddSeries false (z * z / one') 110 0 z 0).toNat
/-- Arctangent of 1/n in fixed point. -/
def arctanInv (n : Nat) : Int := oddSeries true (one' / (n * n)) 80 0 (one' / n) 0

/-- ln 2 and pi in fixed point. -/
def ln2Fix : Nat := 2 * artanhFix (one' / 3)
def piFix : Nat := (16 * arctanInv 5 - 4 * arctanInv 239).toNat

/-- Exponential series of a fixed-point number below 1. -/
def expSeries (y : Nat) : Nat → Nat → Nat → Nat → Nat
  | 0, _, _, acc => acc
  | fuel + 1, k, t, acc => expSeries y fuel (k + 1) (t * y / one' / (k + 1)) (acc + t)

/-- Sine and cosine series: `t` is the next term, `y2` the square. -/
def trigSeries (y2 : Nat) : Nat → Nat → Nat → Int → Int
  | 0, _, _, acc => acc
  | fuel + 1, k, t, acc =>
    trigSeries y2 fuel (k + 2) (t * y2 / one' / ((k + 1) * (k + 2))) (if k / 2 % 2 = 1 then acc - t else acc + t)

/-- sin and cos of pi·r for a fixed-point r of at most 1/2. -/
def sinPiFix (r : Nat) : Nat := let y := piFix * r / one'; (trigSeries (y * y / one') 60 1 y 0).toNat
def cosPiFix (r : Nat) : Nat := let y := piFix * r / one'; (trigSeries (y * y / one') 60 0 one' 0).toNat

/-- An irrational value from its fixed-point floor: the last bit stands for the rest. -/
def inexact (neg : Bool) (n : Nat) : Val := .fin neg (2 * n + 1) (-(prec : Int) - 1)

/-- 2^x (R243): exact for integers, otherwise irrational. -/
def exp2Val (x : Val) : Val :=
  match x with
  | .nan => .nan
  | .inf neg => if neg then Val.zero false else .inf false
  | .fin neg m e =>
    if m = 0 then Val.ofInt 1
    else if 12 ≤ (Nat.log2 m : Int) + e then (if neg then .fin false 1 (-5000) else .fin false 1 5000)
    else
      let f : Int := signed neg (if 0 ≤ e + prec then m * 2 ^ (e + prec).toNat else m / 2 ^ (-(e + prec)).toNat)
      let q := f / (one' : Nat)
      let r := (f % (one' : Nat)).toNat
      if 0 ≤ e + prec && r = 0 then .fin false 1 q
      else
        let y := ln2Fix * r / one'
        (inexact false (expSeries y 90 0 one' 0)).scale q

/-- log2 x of a positive finite value (R243). -/
def log2Val (x : Val) : Val :=
  match x with
  | .nan => .nan
  | .inf neg => if neg then .nan else .inf false
  | .fin neg m e =>
    if m = 0 then .inf true
    else if neg then .nan
    else
      let l := Nat.log2 m
      if m = 2 ^ l then Val.ofInt ((l : Int) + e)
      else
        -- x = u·2^k with u in (3/4, 3/2)
        let up := 3 * 2 ^ l ≤ 2 * m
        let k : Int := (l : Int) + e + (if up then 1 else 0)
        let d := if up then 2 ^ (l + 1) else 2 ^ l
        let z := (if d ≤ m then m - d else d - m) * one' / (m + d)
        let ln := 2 * artanhFix z
        let lg := ln * one' / ln2Fix
        let v : Int := k * (one' : Nat) + (if d ≤ m then (lg : Int) else -(lg : Int))
        if v < 0 then inexact true v.natAbs else inexact false v.toNat

/-- 1/x (R243, R381). -/
def rcpVal (x : Val) : Val := (Val.ofInt 1).div x

/-- 1/sqrt x (R243, R381). -/
def rsqVal (x : Val) : Val :=
  match x with
  | .nan => .nan
  | .inf neg => if neg then .nan else Val.zero false
  | .fin neg m e =>
    if m = 0 then .inf neg
    else if neg then .nan
    else
      -- 1/sqrt(m·2^e) = sqrt(2^(2k)/m')·2^(-k-h), with m' = m·2^(e mod 2), h = e div 2
      let m' := m * 2 ^ (e % 2).toNat
      let k := 100 + Nat.log2 m'
      let r := isqrt (2 ^ (2 * k) / m')
      .fin false (2 * r + b2n (r * r * m' ≠ 2 ^ (2 * k))) (-(k : Int) - e / 2 - 1)

/-- sin(pi·x) and cos(pi·x) (R243): exact at multiples of 1/2; a zero sine has the input's sign, as IEEE 754 sinPi. -/
def trigPi (cos : Bool) (x : Val) : Val :=
  match x with
  | .nan => .nan
  | .inf _ => .nan
  | .fin neg m e =>
    if m = 0 then (if cos then Val.ofInt 1 else Val.zero neg)
    else if 1 ≤ e then (if cos then Val.ofInt 1 else Val.zero neg)
    else
      -- |x| = m / d; t = |x| mod 2, in units of 1/d
      let d := 2 ^ (-e).toNat
      let t := m % (2 * d)
      -- half = floor(2t), u = t - half/2 in [0, 1/2)
      let half := 2 * t / d
      let u2 := 2 * t % d
      let r := u2 * one' / (2 * d)
      let useCos := (half % 2 = 1) != cos
      let negSin := half / 2 % 2 = 1
      let negCos := (half + 1) / 2 % 2 = 1
      let sg := if cos then negCos else (negSin != neg)
      if u2 = 0 then
        (if useCos then Val.ofInt (if sg then -1 else 1) else if cos then Val.zero false else Val.zero neg)
      else inexact sg (if useCos then cosPiFix r else sinPiFix r)

/-- Operations of R381, in their table's order. -/
inductive Apx where
  | exp | log | rcp | rsq | sin | cos
  deriving DecidableEq, Repr

def Apx.code : Apx → Nat
  | .exp => 0 | .log => 1 | .rcp => 2 | .rsq => 3 | .sin => 4 | .cos => 5

/-- Exact function value (R243, R381). -/
def Apx.exact (o : Apx) (x : Val) : Val :=
  match o with
  | .exp => exp2Val x
  | .log => log2Val x
  | .rcp => rcpVal x
  | .rsq => rsqVal x
  | .sin => trigPi false x
  | .cos => trigPi true x

/-- 2^a < |x| < 2^b, strictly. -/
def inside (x : Val) (a b : Int) : Bool := (Val.fin false 1 a).cmp x.abs = .lt && x.abs.cmp (.fin false 1 b) = .lt

/-- How much wider than the band of APX=1 the adaptive band is on a die at a core cycle (R17, R244): it rises with the die's
temperature and with the supply's droop, and changes only at rotation boundaries. -/
def bandWidth (die clk : Nat) : Nat :=
  let at' := clk / 32 * 32
  ((List.range (Config.dieTemperature die at')).map Config.heatStep).foldl (· + ·) 0
  + ((List.range (Config.supplyDroop die at')).map Config.droopStep).foldl (· + ·) 0

/-- An input may take the cheap path (R243): APX, a finite normal non-zero input, strictly inside the band, which is the
one of APX=1 widened by `wide` up to the widest. -/
def Apx.mayCheap (o : Apx) (apx wide : Nat) (x : Val) : Bool :=
  let e := min 126 (60 + wide)
  apx ≠ 0 && inside x (-127) 128 && (x.abs.cmp (.fin false 1 (-126)) ≠ .lt)
  && (match o with
    | .rcp => inside x (-e) e
    | .rsq | .log => !x.isNeg && inside x (-e) e
    | .exp => x.abs.cmp (Val.ofInt (min 126 (32 + wide) : Nat)) = .lt
    | .sin | .cos => x.abs.cmp (Val.ofInt (min 1048576 (2 + wide) : Nat)) = .lt)

/-- Bound of the cheap path around the exact value `y` of input `x` (R243). -/
def Apx.bound (o : Apx) (x y : Val) : Val :=
  let ulps := fun (n : Int) => Val.ofInt n (max (floorLog y) (-126) - 23)
  match o with
  | .rcp | .rsq => ulps 1
  | .exp => ulps 2
  | .log =>
    let u := ulps 2
    let a := Val.fin false 1 (-22)
    if x.cmp (.fin false 1 (-1)) ≠ .lt && x.cmp (Val.ofInt 2) = .lt && u.cmp a = .lt then a else u
  | .sin | .cos => .fin false 1 (-21)

/-- Result of an approximate instruction for one lane: the exact path rounded, or the cheap path's value where it lies
within its bound (R243, R244). `wide` is how much wider than under APX=1 the band is, 0 unless APX is 2. -/
def Apx.run (o : Apx) (rm : RM) (ftz : Bool) (apx wide : Nat) (x : Val) : Val :=
  let y := o.exact x
  let exact := y.round32 ftz rm
  if o.mayCheap apx wide x then
    let pat := f32.encode false false .rne x
    if Config.takesCheap o.code pat apx wide then
      let c := f32.decode false false (Config.cheapPath o.code pat % 2 ^ 32)
      if c.isNan || ((c.add .rne y.neg).abs).cmp (o.bound x y) = .gt then exact else c
    else exact
  else exact

end Sys2Proof.Machine
end

