-- ==== Sys2Proof/Machine/VecOps.lean ====
section
/-!
DEFINITION. What each vector instruction computes on the lanes of one segment (R371 to R377, R381), and the checks made
when an entry starts (R369, R370).
-/

namespace Sys2Proof.Machine

/-- What governs the lanes of an entry. -/
structure VEnv where
  kind : LKind
  rm : RM
  ftz : Bool
  apx : Nat
  wide : Nat
  /-- Segment number, and active lanes. -/
  j : Nat
  n : Nat
  /-- The scalar of VBCST and VSCL (R372). -/
  scalar : Word
  /-- Lanes that VCMUL and VCMAC multiply component-wise (R375). -/
  packed : List Bool
  deriving Repr

/-- Rounds a result lane (R371, R237). -/
def VEnv.round (v : VEnv) (l : Lane) : Lane :=
  match l with
  | .fp x => .fp (x.round32 v.ftz v.rm)
  | .cx a b => .cx (a.round32 v.ftz v.rm) (b.round32 v.ftz v.rm)
  | .int w => .int w

/-- A zero lane. -/
def VEnv.zero (v : VEnv) : Lane :=
  match v.kind with
  | .fp => .fp (Val.zero false)
  | .int => .int 0
  | .cx => .cx (Val.zero false) (Val.zero false)

/-- The binary32 value in the low bits of a scalar, FTZ applied (R372). -/
def VEnv.sreal (v : VEnv) (hi : Bool) : Val := f32.decode false v.ftz (v.scalar.toNat / (if hi then 2 ^ 32 else 1) % 2 ^ 32)

/-- Sum, difference and product of lanes, exact in floating lanes. -/
def VEnv.add (v : VEnv) (a b : Lane) : Lane :=
  match a, b with
  | .fp x, .fp y => .fp (x.add v.rm y)
  | .int x, .int y => .int (x + y)
  | .cx a b, .cx c d => .cx (a.add v.rm c) (b.add v.rm d)
  | _, _ => v.zero

def Lane.neg : Lane → Lane
  | .fp x => .fp x.neg
  | .int w => .int (-w)
  | .cx a b => .cx a.neg b.neg

def VEnv.mul (v : VEnv) (a b : Lane) : Lane :=
  match a, b with
  | .fp x, .fp y => .fp (x.mul y)
  | .int x, .int y => .int (x * y)
  | .cx ar ai, .cx br bi => .cx ((ar.mul br).add v.rm (ai.mul bi).neg) ((ar.mul bi).add v.rm (ai.mul br))
  | _, _ => v.zero

/-- Component-wise product of complex lanes (R246, R375). -/
def Lane.mulPacked (a b : Lane) : Lane :=
  match a, b with
  | .cx ar ai, .cx br bi => .cx (ar.mul br) (ai.mul bi)
  | l, _ => l

/-- Minimum and maximum (R371, R332). -/
def VEnv.pick (v : VEnv) (big : Bool) (a b : Lane) : Lane :=
  match a, b with
  | .fp x, .fp y => .fp (if big then x.greater y else x.lesser y)
  | .int x, .int y => .int (if (if big then y.toInt ≤ x.toInt else x.toInt ≤ y.toInt) then x else y)
  | _, _ => v.zero

/-- Bitwise and shift operations on integer lanes. -/
def VEnv.bitOp (v : VEnv) (f : Word → Word → Word) (a b : Lane) : Lane :=
  match a, b with
  | .int x, .int y => .int (f x y)
  | _, _ => v.zero

/-- A truth value as a lane (R371). -/
def VEnv.truth (v : VEnv) (b : Bool) : Lane :=
  match v.kind with
  | .fp => .fp (if b then Val.ofInt 1 else Val.zero false)
  | .int => .int (if b then 1 else 0)
  | .cx => .cx (if b then Val.ofInt 1 else Val.zero false) (Val.zero false)

/-- Comparison codes of VCMP (R371). -/
def vcmpCode (x : Nat) : FCmp :=
  match x with
  | 0 => .eq | 1 => .ne | 2 => .lt | 3 => .le | 4 => .gt | 5 => .ge | 6 => .un | _ => .or

def intCmpHolds (c : FCmp) (a b : Int) : Bool :=
  match c with
  | .eq => a = b
  | .ne => a ≠ b
  | .lt => a < b
  | .le => a ≤ b
  | .gt => b < a
  | .ge => b ≤ a
  | .un => false
  | .or => true

def laneCmp (c : FCmp) (a b : Lane) : Bool :=
  match a, b with
  | .fp x, .fp y => fcmpHolds c x y
  | .int x, .int y => intCmpHolds c x.toInt y.toInt
  | .cx ar ai, .cx br bi =>
    let eq := fcmpHolds .eq ar br && fcmpHolds .eq ai bi
    if c = .ne then !eq else eq
  | _, _ => false

/-- The condition of VSEL (R371). -/
def Lane.isTrue : Lane → Bool
  | .fp x => !x.isNan && !x.isZero
  | .int w => w ≠ 0
  | .cx a b => (!a.isNan && !a.isZero) || (!b.isNan && !b.isZero)

/-- Floor of a finite value. -/
def Val.floorInt (v : Val) : Int :=
  match v with
  | .fin neg m e => if 0 ≤ e then signed neg (m * 2 ^ e.toNat) else Int.fdiv (signed neg m) (2 ^ (-e).toNat : Nat)
  | _ => 0

/-- Integer part toward zero. -/
def Val.truncInt (v : Val) : Int :=
  match v with
  | .fin neg m e => signed neg (if 0 ≤ e then m * 2 ^ e.toNat else m / 2 ^ (-e).toNat)
  | _ => 0

/-- VCVT (R373). -/
def VEnv.cvt (v : VEnv) (x : Nat) (a : Lane) : Lane :=
  match a with
  | .fp y =>
    .fp (match x, y with
      | 0, .fin neg m e => if m = 0 then y else
          let n := roundUnits v.rm neg m e 0
          if n = 0 then Val.zero neg else .fin neg n 0
      | 0, y => y
      | 1, .fin _ _ _ => y.add v.rm (Val.ofInt (-y.floorInt))
      | 1, _ => .nan
      | 2, y => if y.isNan || y.isNeg || y.isZero then Val.zero false else if (Val.ofInt 1).cmp y = .lt then Val.ofInt 1 else y
      | _, y =>
        if y.isNan then Val.zero false
        else if (Val.ofInt 1).cmp y = .lt then Val.ofInt 1
        else if y.cmp (Val.ofInt (-1)) = .lt then Val.ofInt (-1)
        else y)
  | .int w =>
    .int (match x with
      | 0 => w
      | 1 => 0
      | 2 => BitVec.ofInt 64 (max 0 (min 1 w.toInt))
      | _ => BitVec.ofInt 64 (max (-1) (min 1 w.toInt)))
  | l => l

/-- The index that VPERM makes of a lane (R374). -/
def permIndex (b : Lane) : Nat :=
  match b with
  | .int w => w.toNat % 64
  | .fp x => (x.truncInt % 64).toNat
  | .cx x _ => (x.truncInt % 64).toNat

/-- The scalar of VBCST (R372). -/
def VEnv.bcast (v : VEnv) : Lane :=
  match v.kind with
  | .fp => .fp (v.sreal false)
  | .int => .int v.scalar
  | .cx => .cx (v.sreal false) (v.sreal true)

/-- VSCL (R371, R372). -/
def VEnv.scl (v : VEnv) (a : Lane) : Lane :=
  match a with
  | .fp x => .fp (x.mul (v.sreal false))
  | .int w => .int (w * v.scalar)
  | .cx a b => .cx (a.mul (v.sreal false)) (b.mul (v.sreal false))

/-- Combine of VRED and VSCAN (R376, R241), rounded. -/
def VEnv.combine (v : VEnv) (vx : Nat) (a b : Lane) : Lane :=
  match vx with
  | 0 => v.round (v.add a b)
  | 1 => v.round (v.pick false a b)
  | 2 => v.round (v.pick true a b)
  | 3 => v.bitOp (· &&& ·) a b
  | 4 => v.bitOp (· ||| ·) a b
  | _ => v.bitOp (· ^^^ ·) a b

/-- One level of the tree: neighbours combined (R241). -/
def pairUp (f : Lane → Lane → Lane) : List Lane → List Lane
  | a :: b :: l => f a b :: pairUp f l
  | l => l

/-- The tree of R241 over a segment's active lanes. -/
def treeReduce (f : Lane → Lane → Lane) : Nat → List Lane → Option Lane
  | 0, l => l.head?
  | n + 1, l => treeReduce f n (pairUp f l)

/-- Running combination (R241). -/
def scanFrom (f : Lane → Lane → Lane) : Option Lane → List Lane → List Lane
  | _, [] => []
  | none, a :: l => a :: scanFrom f (some a) l
  | some p, a :: l => let r := f p a; r :: scanFrom f (some r) l

/-- Approximate instructions of group 0xA. -/
def VEnv.apxLane (v : VEnv) (o : Apx) (a : Lane) : Lane :=
  match a with
  | .fp x => .fp (o.run v.rm v.ftz v.apx v.wide x)
  | l => l

/-! ### The instructions -/

/-- Lane kinds that an instruction accepts (R370), with its VX. -/
def vaccepts (i : Instr) (k : LKind) : Bool :=
  match i with
  | .vmul _ _ _ _ _ | .vfma _ _ _ _ _ _ | .vaxpy _ _ _ _ _ _ | .vmin _ _ _ _ _ | .vmax _ _ _ _ _ | .vabs _ _ _ _
  | .viota _ _ _ | .vcvt _ _ _ _ => k ≠ .cx
  | .vand _ _ _ _ _ | .vor _ _ _ _ _ | .vxor _ _ _ _ _ | .vshl _ _ _ _ _ | .vshr _ _ _ _ _ => k = .int
  | .vcmp _ _ _ _ m => k ≠ .cx || m.vx.toNat ≤ 1
  | .vcmul _ _ _ _ _ | .vcmac _ _ _ _ _ _ => k = .cx
  | .vred _ _ _ m | .vscan _ _ _ m => k = .int || (k = .fp && m.vx.toNat ≤ 2) || (k = .cx && m.vx.toNat = 0)
  | .vexp _ _ _ _ | .vlog _ _ _ _ | .vrcp _ _ _ _ | .vrsq _ _ _ _ | .vsin _ _ _ _ | .vcos _ _ _ _ => k = .fp
  | _ => true

/-- Lanes of two sources combined one by one. -/
def zip2 (f : Lane → Lane → Lane) (a b : List Lane) : List Lane := (a.zip b).map fun q => f q.1 q.2
def zip3 (f : Lane → Lane → Lane → Lane) (a b c : List Lane) : List Lane := (a.zip (b.zip c)).map fun q => f q.1 q.2.1 q.2.2

/-- F of R366: the result lanes of a segment from the lanes of SA, SB and SC (R371, R373 to R375, R381). -/
def vlanes (v : VEnv) (i : Instr) (a b c : List Lane) : List Lane :=
  match i with
  | .vadd _ _ _ _ _ => (zip2 v.add a b).map v.round
  | .vsub _ _ _ _ _ => (zip2 (fun x y => v.add x y.neg) a b).map v.round
  | .vmul _ _ _ _ _ => (zip2 v.mul a b).map v.round
  | .vfma _ _ _ _ _ _ => (zip3 (fun x y z => v.add (v.mul x y) z) a b c).map v.round
  | .vmin _ _ _ _ _ => (zip2 (v.pick false) a b).map v.round
  | .vmax _ _ _ _ _ => (zip2 (v.pick true) a b).map v.round
  | .vabs _ _ _ _ => a.map fun l => match l with
      | .fp x => v.round (.fp x.abs)
      | .int w => .int (if w.toInt < 0 then -w else w)
      | l => l
  | .vscl _ _ _ _ _ => (a.map v.scl).map v.round
  | .vaxpy _ _ _ _ _ _ => let k := c.headD v.zero; (zip2 (fun x y => v.add (v.mul k x) y) a b).map v.round
  | .vand _ _ _ _ _ => zip2 (v.bitOp (· &&& ·)) a b
  | .vor _ _ _ _ _ => zip2 (v.bitOp (· ||| ·)) a b
  | .vxor _ _ _ _ _ => zip2 (v.bitOp (· ^^^ ·)) a b
  | .vshl _ _ _ _ _ => zip2 (v.bitOp fun x y => x <<< (y.toNat % 64)) a b
  | .vshr _ _ _ _ m => zip2 (v.bitOp fun x y =>
      if m.vx.toNat = 1 then x.sshiftRight (y.toNat % 64) else x >>> (y.toNat % 64)) a b
  | .vcmp _ _ _ _ m => zip2 (fun x y => v.truth (laneCmp (vcmpCode m.vx.toNat) x y)) a b
  | .vsel _ _ _ _ _ _ => (zip3 (fun x y z => if z.isTrue then x else y) a b c).map v.round
  | .vcmul _ _ _ _ m => (((a.zip b).zip v.packed).map fun q =>
      if m.vx.toNat = 1 && q.2 then q.1.1.mulPacked q.1.2 else v.mul q.1.1 q.1.2).map v.round
  | .vcmac _ _ _ _ _ m => (((a.zip (b.zip c)).zip v.packed).map fun q =>
      v.add (if m.vx.toNat = 1 && q.2 then q.1.1.mulPacked q.1.2.1 else v.mul q.1.1 q.1.2.1) q.1.2.2).map v.round
  | .vmov _ _ _ _ => a.map v.round
  | .vcvt _ _ _ m => (a.map (v.cvt m.vx.toNat)).map v.round
  | .vbcst _ _ _ _ => (List.replicate v.n v.bcast).map v.round
  | .viota _ _ _ => (List.range v.n).map fun i =>
      let x := 64 * v.j + i
      match v.kind with
      | .int => .int (Word.ofNat x)
      | _ => .fp (Val.ofInt x)
  | .vperm _ _ _ _ _ => (b.map fun y => (a[permIndex y]?).getD v.zero).map v.round
  | .vexp _ _ _ _ => a.map (v.apxLane .exp)
  | .vlog _ _ _ _ => a.map (v.apxLane .log)
  | .vrcp _ _ _ _ => a.map (v.apxLane .rcp)
  | .vrsq _ _ _ _ => a.map (v.apxLane .rsq)
  | .vsin _ _ _ _ => a.map (v.apxLane .sin)
  | .vcos _ _ _ _ => a.map (v.apxLane .cos)
  | _ => a

end Sys2Proof.Machine
end

