-- ==== Sys2Proof/Machine/Vector.lean ====
section
/-!
DEFINITION. Groups 0x9 and 0xA: dispatch into the ring (R253), the performance of an entry segment by segment (R366 to
R369, R376 to R380) and its late faults (R254).
-/

namespace Sys2Proof.Machine

/-! ### Dispatch (R253, R300) -/

/-- The value of a register named by a vector operand: a g register, or 0 (R302, R366). -/
def State.vreg (s : State) (c : Code) : Word := if isGCode c then s.myCore.greg s.me (codeNum c) else 0

/-- The ZF value of the zone that holds a local offset. -/
def Core.zfAt (x : Core) (a : Word) : Nat := if a.toNat < 2 ^ 19 then x.zone (zoneOf a.toNat) else 0

/-- The entry that a vector instruction of the thread enters the ring as (R253): a position that it does not use is given
as zero and captures 0; ZF is captured for the local operands. -/
def State.captured (s : State) (i : Instr) (d a b c : Code) : Entry :=
  let x := s.myCore
  let t := s.me
  let info := vinfo i
  let v := fun (k : Code) (here : Option Bool) =>
    let w := s.vreg k
    if here = some true && w.toNat < 2 ^ 19 then Word.ofNat (s.redirect s.myPartNo t w.toNat) else w
  let (wd, wa) := (v d (info.map VInfo.dst), v a (info.map VInfo.sa))
  let (wb, wc) := (v b (info.map VInfo.sb), v c (info.map VInfo.sc))
  let z := fun (w : Word) (here : Option Bool) => if here = some true then x.zfAt w else 0
  { seq := x.seqnow, sth := t.sth, lid := t.lid, word := s.cur.word, ext := s.cur.ext, instr := i,
    v0 := wd, v1 := wa, v2 := wb, v3 := wc,
    z0 := z wd (info.map VInfo.dst), z1 := z wa (info.map VInfo.sa),
    z2 := z wb (info.map VInfo.sb), z3 := z wc (info.map VInfo.sc),
    mode := s.mode % 256, te := x.te, scl := 0, iter := 0, st := .waiting, dst := d, got := [],
    inHandler := t.act, pc := t.pc }

/-- Dispatch of a vector instruction (R253): `used` are the operand codes its form uses. A segment count of 0 enters no
ring, and its registers are checked and not read (R300); a full ring leaves the slot not ready (R121). -/
def vdispatch (i : Instr) (p : Pred) (used : List Code) (d a b c : Code) (m : VMod) (s : State) : Res :=
  issueWith false 16 p none (used.map fun x => ⟨x, if m.cnt = 0 then .named else .vec⟩) (fun s =>
    let x := s.myCore
    if m.cnt = 0 then s.retireLong
    else if 256 ≤ x.ring.length then s
    else
      let e := s.captured i d a b c
      (s.modMyCore fun x => { x with ring := x.ring ++ [e], seqnow := (x.seqnow + 1) % 2 ^ 32 }).retireLong) s

/-! ### Operands of an entry -/

/-- A local operand of an entry: its value, ZF, step and direction. -/
structure VOpnd where
  v : Word
  z : Nat
  step : BitVec 13
  col : Bool
  deriving DecidableEq, Repr

/-- Address at an iteration (R366). -/
def VOpnd.addr (o : VOpnd) (j : Nat) : Word := o.v + BitVec.ofNat 64 j * o.step.signExtend 64
/-- The operand's zone (R369). -/
def VOpnd.zone (o : VOpnd) : Nat := zoneOf o.v.toNat
def VOpnd.fmt (o : VOpnd) : Nat := zfFmt o.z

def Entry.dstOp (e : Entry) (m : VMod) : VOpnd := ⟨e.v0, e.z0, m.std, m.dd⟩
def Entry.saOp (e : Entry) (m : VMod) : VOpnd := ⟨e.v1, e.z1, m.sta, m.da⟩
def Entry.sbOp (e : Entry) (m : VMod) : VOpnd := ⟨e.v2, e.z2, m.stb, m.db⟩
def Entry.scOp (e : Entry) (m : VMod) : VOpnd := ⟨e.v3, e.z3, m.stc, m.dc⟩

/-- The local operands in the order DST, SA, SB, SC. -/
def VInfo.locals (i : VInfo) (e : Entry) : List VOpnd :=
  (if i.dst then [e.dstOp i.m] else []) ++ (if i.sa then [e.saOp i.m] else []) ++ (if i.sb then [e.sbOp i.m] else [])
  ++ (if i.sc then [e.scOp i.m] else [])

/-- Operands that take part in the choice of the lane kind (R370). -/
def VInfo.laneOps (i : VInfo) (e : Entry) : List VOpnd :=
  (if i.dst then [e.dstOp i.m] else []) ++ (if i.sa then [e.saOp i.m] else [])
  ++ (if i.sb && !i.kind.global then [e.sbOp i.m] else []) ++ (if i.sc then [e.scOp i.m] else [])

/-- Lane kind of an entry (R238, R370). -/
def VInfo.lane (i : VInfo) (e : Entry) : LKind :=
  laneKind ((i.laneOps e).map (fun o => fmtCls o.fmt) ++ (i.mem.toList.map fmtCls))

/-- The checks made when an entry starts (R369): the first that fails. -/
def vchecks (i : VInfo) (e : Entry) : Option SegErr :=
  let ls := i.locals e
  let at2 : Word := if i.dst then e.v0 else e.v1
  let k := i.lane e
  let dcls := if i.dst then fmtCls (e.dstOp i.m).fmt else match i.mem with | some c => fmtCls c | none => .c
  let column := fun (o : VOpnd) => o.col && (fmtWidth o.fmt = 6 || fmtWidth o.fmt = 64)
  let packBad :=
    match e.instr with
    | .vcmul _ _ _ _ m | .vcmac _ _ _ _ _ m =>
      m.vx = 1 && !(zfDom e.z0 = 1 && zfDom e.z1 = 1 && zfDom e.z2 = 1 && zfBlk e.z1 = zfBlk e.z2 && zfBlk e.z1 = zfBlk e.z0)
    | _ => false
  let indexBad := (i.kind = .gath || i.kind = .scat)
    && (fmtCls (e.sbOp i.m).fmt ≠ .i
      || (i.same && fmtWidth (if i.kind = .gath then e.dstOp i.m else e.saOp i.m).fmt < 8))
  match ls.find? fun o => 2 ^ 19 ≤ o.v.toNat with
  | some o => some ⟨0x05, o.v, 0⟩
  | none =>
    match ls.find? fun o => match ls.head? with | some h => zfDom o.z ≠ zfDom h.z | none => false with
    | some o => some ⟨0x08, o.v, 0⟩
    | none =>
      if !i.same && (!vaccepts e.instr k || (k = .cx && dcls ≠ .c)) then some ⟨0x03, at2, 0⟩
      else
        match ls.find? column with
        | some o => some ⟨0x03, o.v, 0⟩
        | none => if packBad || indexBad then some ⟨0x03, at2, 0⟩ else none

/-! ### Global accesses of a segment (R368, R379, R380) -/

/-- Where a run of bytes of a global access lies. -/
inductive VPiece where
  | phys (pa n : Nat)
  | port (core off n : Nat)
  | away (ea : Word) (n : Nat)
  deriving DecidableEq, Repr

/-- What resolving or performing a segment's accesses may meet. -/
inductive VStop where
  | err (e : SegErr)
  | park (st : EntSt)
  deriving Repr

/-- Resolves a run of `n` bytes at `ea` (R173, R174, R185, R368): kind, alignment and permission of every byte. `app`
and `acc` as for translation; a read of a device to which no port is up is refused (R30); a parked fault is sent as a message (R190). -/
def State.vresolve (s : State) (pno c : Nat) (app : Bool) (acc : Acc) (ea : Word) (n : Nat) :
    Except (VStop × State) (List VPiece × State) :=
  let a := ea.toNat
  let last := a + n - 1
  let align : VStop := .err ⟨0x05, ea, 0⟩
  if n = 0 then .ok ([], s)
  else if 2 ^ 57 ≤ a || 2 ^ 57 ≤ last || isWindow a ≠ isWindow last then .error (align, s)
  else if isWindow a then
    if winDev a ≠ winDev last || winCore a ≠ winCore last then .error (align, s)
    else if s.winBad a then .error (.err ⟨0x07, ea, acc.code⟩, s)
    else if s.winHere a then
      if s.corePart (winCore a) ≠ some pno then .error (.err ⟨0x07, ea, acc.code⟩, s)
      else .ok ([.port (winCore a) (winOff a) n], s)
    else if s.upPorts (winDev a) = [] && acc ≠ .write then .error (.err ⟨0x07, ea, acc.code⟩, s)
    else .ok ([.away ea n], s)
  else
    (pageParts (n / 4096 + 2) a n).foldl (fun r q =>
      match r with
      | .error x => .error x
      | .ok (l, s) =>
        match s.translate (.core c) pno q.1 acc app with
        | .ok pa s => .ok (l ++ [.phys pa q.2], s)
        | .fault kind level s =>
          let va := Word.ofNat q.1
          if (s.part pno).fren then .error (.park (.parked va acc kind level), s.faultMsg pno q.1 acc kind level)
          else .error (.err ⟨(faultCause kind).code, va, acc.code⟩, s)
        | .malformed _ s => .error (.err ⟨0x07, Word.ofNat q.1, acc.code⟩, s.malformedRecord pno q.1)
        | .off => .error (.err ⟨0x06, Word.ofNat q.1, acc.code⟩, s)) (.ok ([], s))

/-- Performs the entries of a core's store buffer on the lines of a physical run (R380). -/
def State.settleRun (s : State) (c sth pa n : Nat) : State := (cellsOf pa n).foldl (fun s q => s.settleLine c sth (32 * q)) s

/-- Reads the bytes of a resolved run; `got` are the replies of remote reads so far. -/
def State.vreadPieces (s : State) (pno c sth seq : Nat) (ea : Word) :
    List VPiece → List (Option Nat) → Except (VStop × State) (List Byte × List (Option Nat) × State)
  | [], got => .ok ([], got, s)
  | .phys pa n :: l, got =>
    let s := s.settleRun c sth pa n
    if s.dramPoisoned pa n then .error (.err ⟨0x0D, ea, 1⟩, s)
    else
      match State.vreadPieces (s.sliceSee pno [(pa, n)]) pno c sth seq ea l got with
      | .error x => .error x
      | .ok (bs, g, s) => .ok (s.dramBytes (s.part pno).keyGen pa n ++ bs, g, s)
  | .port d off n :: l, got =>
    let s := s.performAll (s.toPort c sth d)
    if (s.core d).lpoisoned off n then .error (.err ⟨0x0D, ea, 1⟩, s)
    else
      match State.vreadPieces s pno c sth seq ea l got with
      | .error x => .error x
      | .ok (bs, g, s) => .ok ((s.core d).lmem.bytes off n ++ bs, g, s)
  | .away a n :: l, got =>
    match got with
    | [] =>
      let req : RemReq := ⟨s.nextId, s.devnum, c, s.tsidOf c, a, .load n⟩
      .error (.park (.remote s.nextId), s.gondola c sth 0 none req (.vload req seq s.fab))
    | none :: _ => .error (.err ⟨0x0D, a, 1⟩, s)
    | some v :: g =>
      match State.vreadPieces s pno c sth seq ea l g with
      | .error x => .error x
      | .ok (bs, g, s) => .ok (leBytes n v ++ bs, g, s)

/-- Writes bytes to a resolved run: at slices with the issuing core's lines kept up, at ports, and to other devices; without a port up to one, they are dropped and recorded (R26, R30). -/
def State.vwritePieces (s : State) (pno c sth lid : Nat) : List VPiece → List Byte → State
  | [], _ => s
  | .phys pa n :: l, bs =>
    let s := s.settleRun c sth pa n
    let s := s.sliceWrite pno pa (bs.take n)
    let s := s.modCore c fun x => { x with dcache := (partsOf 32 (n / 32 + 2) pa (bs.take n)).foldl (fun d q =>
      dcacheUpdate d (s.part pno).tsid q.1 q.2) x.dcache }
    State.vwritePieces s pno c sth lid l (bs.drop n)
  | .port d off n :: l, bs =>
    let s := s.performAll (s.toPort c sth d)
    State.vwritePieces (s.modCore d fun x => x.lstore off (bs.take n)) pno c sth lid l (bs.drop n)
  | .away a n :: l, bs =>
    if s.upPorts (winDev a.toNat) = [] then
      State.vwritePieces (s.remoteRecord pno c a.toNat 1) pno c sth lid l (bs.drop n)
    else
    let req : RemReq := ⟨s.nextId, s.devnum, c, s.tsidOf c, a, .store n (leNat (bs.take n)) false⟩
    State.vwritePieces (s.gondola c sth lid none req (.vstore req s.fab)) pno c sth lid l (bs.drop n)

/-! ### A segment -/

/-- Codebook of a zone, and whether it is poisoned. -/
def State.book (s : State) (c : Nat) (z : Nat) : List Nat := (s.cluster (clusterOf c)).codebook.lookD (zfCbi z) []
def State.bookPoisoned (s : State) (c z : Nat) : Bool :=
  zfFmt z = 18 && (s.cluster (clusterOf c)).cbPoison.contains (zfCbi z)

/-- Decoding context of an entry for a zone. -/
def State.codOf (s : State) (c : Nat) (e : Entry) (rm : RM) (z : Nat) : Cod := ⟨e.te, modeFtz e.mode, rmOf rm e.mode, s.book c z⟩

/-- Largest number of distinct words in one bank, less one: bank-conflict cycles (R164). An element may lie in two words. -/
def bankExtra (e : Nat) (col : Bool) (o n : Nat) : Nat :=
  let ws := (List.range n).foldl (fun l i =>
    insertNat (insertNat l (elemBit e col o i / 32)) ((elemBit e col o i + e - 1) / 32)) []
  let bank := fun (w : Nat) => (w + w / 64) % 64
  (ws.foldl (fun m w => max m (ws.countP fun v => bank v = bank w)) 1) - 1

/-- Reads a local segment of an entry (R366, R367). -/
def State.vread' (s : State) (c : Nat) (e : Entry) (rm : RM) (k : LKind) (o : VOpnd) (j n : Nat) :
    Except SegErr (List Lane) :=
  if s.bookPoisoned c o.z then .error ⟨0x0D, o.addr j, 0⟩
  else (s.core c).readSeg (s.codOf c e rm o.z) k o.z o.zone o.col n (o.addr j)

/-- Writes a local segment of an entry. -/
def State.vwrite' (s : State) (c : Nat) (e : Entry) (rm : RM) (o : VOpnd) (j : Nat) (l : List Lane) :
    Except SegErr State :=
  match (s.core c).writeSeg (s.codOf c e rm o.z) o.z o.zone o.col (o.addr j) l with
  | .error er => .error er
  | .ok x => .ok (s.setCore c x)

/-- Cycles that bank conflicts add to a segment of an entry, over its local operands (R164). -/
def Entry.bankCycles (e : Entry) (i : VInfo) (j : Nat) : Nat :=
  ((i.locals e).map fun o => bankExtra (fmtWidth o.fmt) o.col (o.addr j).toNat (activeLanes i.m j)).foldl (· + ·) 0

/-- Environment of a segment's lanes. -/
def State.venv (s : State) (c : Nat) (e : Entry) (i : VInfo) (j : Nat) : VEnv :=
  let m := i.m
  let o := e.saOp m
  let w := fmtWidth o.fmt
  let n := activeLanes m j
  let b := 2 ^ zfBlk o.z
  { kind := i.lane e, rm := rmOf m.rm e.mode, ftz := modeFtz e.mode, apx := modeApx e.mode,
    wide := if modeApx e.mode = 2 then bandWidth (dieOf c) s.clk else 0, j := j, n := n,
    scalar := (match e.instr with | .vscl _ _ _ _ _ => e.v2 | _ => e.v1),
    packed := (List.range n).map fun l =>
      ((elemBit w o.col (o.addr j).toNat l - 8 * 32768 * o.zone) / w) % (b / 2) = 0 }

/-- Result of performing one segment. -/
abbrev SegRes := Except (VStop × State) State

/-- A segment fault as a stop. -/
def stopErr {α : Type} (s : State) (er : SegErr) : Except (VStop × State) α := .error (.err er, s)

/-- Runs that an entry's segment accesses: (address, bytes) in element order (R368, R379). -/
def runsOf (base : Word) (w : Nat) (idx : List Lane) : List (Word × Nat) :=
  idx.map fun l => match l with
    | .int x => (base + x * BitVec.ofNat 64 w, w)
    | _ => (base, w)

/-- Resolves several runs. -/
def State.vresolveAll (s : State) (pno c : Nat) (app : Bool) (acc : Acc) :
    List (Word × Nat) → Except (VStop × State) (List (List VPiece) × State)
  | [] => .ok ([], s)
  | (ea, n) :: l =>
    match s.vresolve pno c app acc ea n with
    | .error x => .error x
    | .ok (ps, s) =>
      match State.vresolveAll s pno c app acc l with
      | .error x => .error x
      | .ok (qs, s) => .ok (ps :: qs, s)

/-- Reads several resolved runs. -/
def State.vreadRuns (s : State) (pno c sth seq : Nat) :
    List ((Word × Nat) × List VPiece) → List (Option Nat) → Except (VStop × State) (List (List Byte) × State)
  | [], _ => .ok ([], s)
  | (r, ps) :: l, got =>
    match s.vreadPieces pno c sth seq r.1 ps got with
    | .error x => .error x
    | .ok (bs, g, s) =>
      match State.vreadRuns s pno c sth seq l g with
      | .error x => .error x
      | .ok (q, s) => .ok (bs :: q, s)

/-- Bits of element `i` in a run of bytes. -/
def rawAt (e : Nat) (bs : List Byte) (i : Nat) : Nat := leNat bs / 2 ^ (e * i) % 2 ^ e

/-- Runs of a global segment: one for VLDG and VSTG, one for each element for VGATH and VSCAT. The first fault of
alignment is returned. -/
def vruns (i : VInfo) (base : Word) (e n : Nat) (idx : List Lane) : Except SegErr (List (Word × Nat)) :=
  let w := match i.mem with | some c => fmtWidth c / 8 | none => e / 8
  if i.kind = .gath || i.kind = .scat then
    let l := runsOf base w idx
    match l.find? fun r => r.1.toNat % w ≠ 0 with
    | some r => .error ⟨0x05, r.1, 0⟩
    | none => .ok l
  else if (w ≠ 0 && base.toNat % w ≠ 0) || (i.same && n * e % 8 ≠ 0) then .error ⟨0x05, base, 0⟩
  else .ok [(base, match i.mem with | some _ => n * w | none => n * e / 8)]

/-- The runs of an entry where its accesses go: those of a fused consumer to an aliased zone's window go to the
producer's zone (R138). -/
def State.movedRuns (s : State) (pno c : Nat) (e : Entry) (l : List (Word × Nat)) : List (Word × Nat) :=
  l.map fun r => (s.redirectWin pno c e.lid e.pc.toNat r.1, r.2)

/-- Performs segment `j` of VLDG or VGATH (R378, R379). -/
def State.vload (s : State) (pno c : Nat) (e : Entry) (i : VInfo) (app : Bool) (j : Nat) : SegRes :=
  let m := i.m
  let n := activeLanes m j
  let d := e.dstOp m
  let base := e.v1 + BitVec.ofNat 64 j * m.sta.signExtend 64
  let w := fmtWidth d.fmt
  match (if i.kind = .gath then s.vread' c e m.rm .int (e.sbOp m) j n else .ok []) with
  | .error er => stopErr s er
  | .ok idx =>
    match vruns i base w n idx with
    | .error er => stopErr s er
    | .ok runs =>
      match s.vresolveAll pno c app .read (s.movedRuns pno c e runs) with
      | .error x => .error x
      | .ok (ps, s) =>
        match s.vreadRuns pno c e.sth e.seq (runs.zip ps) e.got with
        | .error x => .error x
        | .ok (bss, s) =>
          let bs := bss.flatten
          match i.mem with
          | some f =>
            let cod := s.codOf c e m.rm 0
            let v := s.venv c e i j
            let lanes := (List.range n).map fun k => v.round (decodeLane cod v.kind f (rawAt (fmtWidth f) bs k) 0)
            match s.vwrite' c e m.rm d j lanes with
            | .error er => stopErr s er
            | .ok s => .ok s
          | none =>
            match segPlace w d.col d.zone n (d.addr j) with
            | .error er => stopErr s er
            | .ok o => .ok (s.modCore c fun x => x.writeRaw w d.col o ((List.range n).map (rawAt w bs)))

/-- Bytes of patterns of `e` bits laid end to end. -/
def packRaws (e : Nat) (l : List Nat) : List Byte :=
  leBytes ((e * l.length + 7) / 8) ((l.foldr (fun x acc => acc * 2 ^ e + x % 2 ^ e) 0))

/-- Performs segment `j` of VSTG or VSCAT (R378, R379): ascending lanes. -/
def State.vstore (s : State) (pno c : Nat) (e : Entry) (i : VInfo) (app : Bool) (j : Nat) : SegRes :=
  let m := i.m
  let n := activeLanes m j
  let a := e.saOp m
  let base := e.v0 + BitVec.ofNat 64 j * m.std.signExtend 64
  let w := fmtWidth a.fmt
  let x := s.core c
  let src : Except SegErr (Nat × List Nat) :=
    match i.mem with
    | some f =>
      let v := s.venv c e i j
      match s.vread' c e m.rm v.kind a j n with
      | .error er => .error er
      | .ok l => .ok (fmtWidth f, l.map fun q => encodeLane (s.codOf c e m.rm 0) f (v.round q))
    | none =>
      match segPlace w a.col a.zone n (a.addr j) with
      | .error er => .error er
      | .ok o =>
        if (segCells w a.col o n).any fun q => x.lpoison.contains q then .error ⟨0x0D, a.addr j, 0⟩
        else .ok (w, (List.range n).map fun k => x.lmem.readBits (elemBit w a.col o k) w)
  match src with
  | .error er => stopErr s er
  | .ok (ew, raws) =>
    match (if i.kind = .scat then s.vread' c e m.rm .int (e.sbOp m) j n else .ok []) with
    | .error er => stopErr s er
    | .ok idx =>
      match vruns i base w n idx with
      | .error er => stopErr s er
      | .ok runs =>
        match s.vresolveAll pno c app .write (s.movedRuns pno c e runs) with
        | .error y => .error y
        | .ok (ps, s) =>
          if i.kind = .scat then
            .ok ((ps.zip raws).foldl (fun s q => s.vwritePieces pno c e.sth e.lid q.1 (leBytes (ew / 8) q.2)) s)
          else .ok (s.vwritePieces pno c e.sth e.lid ps.flatten (packRaws ew raws))

/-- The sources of a segment, in the order SA, SB, SC (R366). -/
def State.vsources (s : State) (c : Nat) (e : Entry) (i : VInfo) (k : LKind) (j n : Nat) :
    Except SegErr (List Lane × List Lane × List Lane) :=
  let m := i.m
  let rd := fun (b : Bool) (o : VOpnd) => if b then s.vread' c e m.rm k o j n else .ok []
  match rd i.sa (e.saOp m) with
  | .error er => .error er
  | .ok a =>
    match rd i.sb (e.sbOp m) with
    | .error er => .error er
    | .ok b =>
      match rd i.sc (e.scOp m) with
      | .error er => .error er
      | .ok cc => .ok (a, b, cc)

/-- The carry of VSCAN into segment `j + 1` (R377): lane 63 of DST's segment `j`, read back. -/
def State.scanCarry (s : State) (c : Nat) (e : Entry) (i : VInfo) (k : LKind) (j : Nat) : Except SegErr (List Lane) :=
  let o := e.dstOp i.m
  let w := fmtWidth o.fmt
  match segPlace w o.col o.zone 64 (o.addr j) with
  | .error er => .error er
  | .ok off =>
    if s.bookPoisoned c o.z then .error ⟨0x0D, o.addr j, 0⟩
    else (s.core c).readLane (s.codOf c e i.m.rm o.z) k o.z o.zone o.col off 63 (o.addr j)

/-- Performs segment `j` of an element-wise instruction or of VSCAN. -/
def State.vlanesSeg (s : State) (c : Nat) (e : Entry) (i : VInfo) (j : Nat) : SegRes :=
  let v := s.venv c e i j
  match s.vsources c e i v.kind j v.n with
  | .error er => stopErr s er
  | .ok (a, b, cc) =>
    let out : Except SegErr (List Lane) :=
      if i.kind = .scan then
        if j = 0 then .ok (scanFrom (v.combine i.m.vx.toNat) none a)
        else
          match s.scanCarry c e i v.kind (j - 1) with
          | .error er => .error er
          | .ok p => .ok (scanFrom (v.combine i.m.vx.toNat) p.getLast? a)
      else .ok (vlanes v e.instr a b cc)
    match out with
    | .error er => stopErr s er
    | .ok l =>
      match s.vwrite' c e i.m.rm (e.dstOp i.m) j l with
      | .error er => stopErr s er
      | .ok s => .ok s

/-- Total of VRED or VDOT over segments `j` and later (R376, R241). -/
def State.vtotal (s : State) (c : Nat) (e : Entry) (i : VInfo) : Nat → Nat → Option Lane → Except SegErr (Option Lane)
  | 0, _, acc => .ok acc
  | fuel + 1, j, acc =>
    let v := s.venv c e i j
    match s.vsources c e i v.kind j v.n with
    | .error er => .error er
    | .ok (a, b, _) =>
      let vx := i.m.vx.toNat
      let (l, f) := if i.kind = .dot
        then ((a.zip b).map fun q => v.round (v.mul (match q.1 with
            | .cx x y => if vx = 1 then .cx x y.neg else q.1
            | l => l) q.2), v.combine 0)
        else (a, v.combine vx)
      let t := treeReduce f 6 l
      State.vtotal s c e i fuel (j + 1) (match acc, t with
        | some x, some y => some (f x y)
        | some x, none => some x
        | none, y => y)

/-- Performs the segments of an entry from its ITER on: what stopped it, with its iteration, or the state after it. -/
def State.vrun (s : State) (pno c : Nat) (e : Entry) (i : VInfo) (app : Bool) :
    Nat → Nat → Except (VStop × Nat × State) State
  | 0, _ => .ok s
  | fuel + 1, j =>
    let e := if j = e.iter then e else { e with got := [] }
    let r := match i.kind with
      | .ldg | .gath => s.vload pno c e i app j
      | .stg | .scat => s.vstore pno c e i app j
      | _ => s.vlanesSeg c e i j
    match r with
    | .error (w, s) => .error (w, j, s)
    | .ok s => State.vrun ((s.countCore c 3 1).countCore c 6 (e.bankCycles i j)) pno c e i app fuel (j + 1)

/-- Performs VRED or VDOT whole (R376): a fault at any segment is reported with ITER 0. -/
def State.vreduce (s : State) (c : Nat) (e : Entry) (i : VInfo) : Except (VStop × Nat × State) State :=
  match s.vtotal c e i i.m.cnt.toNat 0 none with
  | .error er => .error (.err er, 0, s)
  | .ok t =>
    let l := match t with | some l => [l] | none => []
    match s.vwrite' c e i.m.rm (e.dstOp i.m) 0 (l.map (s.venv c e i 0).round) with
    | .error er => .error (.err er, 0, s)
    | .ok s => .ok ((s.countCore c 3 i.m.cnt.toNat).countCore c 6
        (((List.range i.m.cnt.toNat).map (e.bankCycles { i with dst := false })).foldl (· + ·) 0))

/-! ### Entries of a thread -/

/-- Replaces a ring entry by sequence number. -/
def Core.setEntry (x : Core) (e : Entry) : Core := { x with ring := x.ring.map fun o => if o.seq = e.seq then e else o }

/-- An entry meets a fatal fault (R254): its later entries are held, and the late fault is due at its thread. -/
def State.vfault (s : State) (c : Nat) (e : Entry) (er : SegErr) (iter : Nat) : State :=
  let pno := (s.corePart c).getD 0
  match s.bySth c e.sth with
  | none => -- the thread has ended (log entry 14)
    let s := s.modCore c fun x => { x with ring := x.ring.filter fun o => o.sth ≠ e.sth }
    s.lateAtEnd pno e.lid ⟨.vlate, er.sub, er.acc, iter, er.val, e.seq, e.pc⟩
  | some t =>
    let s := s.modCore c fun x =>
      { x with ring := x.ring.map fun o =>
          if o.sth ≠ e.sth then o
          else if o.seq = e.seq then { o with st := .faulted, iter := iter, got := [] }
          else if o.st = .faulted || (o.inHandler && t.act) then o
          else { o with st := .held } }
    s.workLate c e.sth e.inHandler ⟨.vlate, er.sub, er.acc, iter, er.val, e.seq, e.pc⟩

/-- Wakes a thread that waits for its vector entries, or for paths, when nothing it waits for is left (R355, R169, R380). -/
def State.vecSettle (s : State) (c sth : Nat) : State :=
  match slotOf (s.core c) sth with
  | none => s
  | some sl =>
    match (s.thread? c sl).bind (·.park) with
    | some ⟨.vsync, _, _⟩ => if vecBusy (s.core c) sth then s else s.wake c sl
    | some ⟨.vcell ea n, _, _⟩ => if s.globalBusy c sth ea n then s else s.wake c sl
    | some ⟨.pfence k, _, _⟩ => if s.pathBusy c sth k then s else s.wake c sl
    | _ => s

/-- Performs a thread's next vector entry (R366), or delivers the late fault it meets (R254); what it has completed may
free the thread (R380). -/
def State.vperform (s : State) (c sth : Nat) : State :=
  match nextEntry (s.core c) sth, s.corePart c with
  | some e, some pno =>
    match vinfo e.instr with
    | none => s
    | some i =>
      if (s.part pno).st ≠ 1 then s else
      match e.st with
      | .fatal va acc cause => (s.vfault c e ⟨cause.code, va, acc.code⟩ e.iter).vecSettle c sth
      | .waiting =>
        match vchecks i e with
        | some er => (s.vfault c e er 0).vecSettle c sth
        | none =>
          let app : Bool := match s.launch? pno e.lid with | some l => decide (l.pl = 0) | none => true
          let r := match i.kind with
            | .red | .dot => s.vreduce c e i
            | _ => s.vrun pno c e i app (i.m.cnt.toNat - e.iter) e.iter
          match r with
          | .ok s => (s.modCore c fun x => { x with ring := x.ring.filter fun o => o.seq ≠ e.seq }).vecSettle c sth
          | .error (.err er, j, s) => (s.vfault c e er j).vecSettle c sth
          | .error (.park st, j, s) =>
            (s.modCore c fun x => x.setEntry { e with st := st, iter := j, got := if j = e.iter then e.got else [] }).vecSettle c sth
      | _ => s
  | _, _ => s

/-- The thread whose entries an event at a slot concerns: the one in the slot, or where the slot holds none, the thread of
the oldest entry that belongs to a thread in no slot (displaced, saved or ended). -/
def ringThread (x : Core) (slot : Nat) : Option Nat :=
  match x.threads.look slot with
  | some t => some t.sth
  | none => (x.ring.find? fun e => (slotOf x e.sth).isNone).map Entry.sth

/-- VECTOR_ENTRY_PERFORM (R366). -/
def execVectorEntryPerform (core slot : Nat) (s : State) : Res :=
  match ringThread (s.core core) slot with
  | some sth => .next (s.vperform core sth)
  | none => .next s

/-! ### The instructions (R371 to R381) -/

def execVadd (p : Pred) (d a b : Code) (v : VMod) : State → Res := vdispatch (.vadd p d a b v) p [d, a, b] d a b 0xB0 v
def execVsub (p : Pred) (d a b : Code) (v : VMod) : State → Res := vdispatch (.vsub p d a b v) p [d, a, b] d a b 0xB0 v
def execVmul (p : Pred) (d a b : Code) (v : VMod) : State → Res := vdispatch (.vmul p d a b v) p [d, a, b] d a b 0xB0 v
def execVfma (p : Pred) (d a b c : Code) (v : VMod) : State → Res := vdispatch (.vfma p d a b c v) p [d, a, b, c] d a b c v
def execVmin (p : Pred) (d a b : Code) (v : VMod) : State → Res := vdispatch (.vmin p d a b v) p [d, a, b] d a b 0xB0 v
def execVmax (p : Pred) (d a b : Code) (v : VMod) : State → Res := vdispatch (.vmax p d a b v) p [d, a, b] d a b 0xB0 v
def execVabs (p : Pred) (d a : Code) (v : VMod) : State → Res := vdispatch (.vabs p d a v) p [d, a] d a 0xB0 0xB0 v
def execVscl (p : Pred) (d a b : Code) (v : VMod) : State → Res := vdispatch (.vscl p d a b v) p [d, a, b] d a b 0xB0 v
def execVaxpy (p : Pred) (d a b c : Code) (v : VMod) : State → Res := vdispatch (.vaxpy p d a b c v) p [d, a, b, c] d a b c v
def execVand (p : Pred) (d a b : Code) (v : VMod) : State → Res := vdispatch (.vand p d a b v) p [d, a, b] d a b 0xB0 v
def execVor (p : Pred) (d a b : Code) (v : VMod) : State → Res := vdispatch (.vor p d a b v) p [d, a, b] d a b 0xB0 v
def execVxor (p : Pred) (d a b : Code) (v : VMod) : State → Res := vdispatch (.vxor p d a b v) p [d, a, b] d a b 0xB0 v
def execVshl (p : Pred) (d a b : Code) (v : VMod) : State → Res := vdispatch (.vshl p d a b v) p [d, a, b] d a b 0xB0 v
def execVshr (p : Pred) (d a b : Code) (v : VMod) : State → Res := vdispatch (.vshr p d a b v) p [d, a, b] d a b 0xB0 v
def execVcmp (p : Pred) (d a b : Code) (v : VMod) : State → Res := vdispatch (.vcmp p d a b v) p [d, a, b] d a b 0xB0 v
def execVsel (p : Pred) (d a b c : Code) (v : VMod) : State → Res := vdispatch (.vsel p d a b c v) p [d, a, b, c] d a b c v
def execVcmul (p : Pred) (d a b : Code) (v : VMod) : State → Res := vdispatch (.vcmul p d a b v) p [d, a, b] d a b 0xB0 v
def execVcmac (p : Pred) (d a b c : Code) (v : VMod) : State → Res := vdispatch (.vcmac p d a b c v) p [d, a, b, c] d a b c v
def execVmov (p : Pred) (d a : Code) (v : VMod) : State → Res := vdispatch (.vmov p d a v) p [d, a] d a 0xB0 0xB0 v
def execVred (p : Pred) (d a : Code) (v : VMod) : State → Res := vdispatch (.vred p d a v) p [d, a] d a 0xB0 0xB0 v
def execVdot (p : Pred) (d a b : Code) (v : VMod) : State → Res := vdispatch (.vdot p d a b v) p [d, a, b] d a b 0xB0 v
def execVscan (p : Pred) (d a : Code) (v : VMod) : State → Res := vdispatch (.vscan p d a v) p [d, a] d a 0xB0 0xB0 v
def execVcvt (p : Pred) (d a : Code) (v : VMod) : State → Res := vdispatch (.vcvt p d a v) p [d, a] d a 0xB0 0xB0 v
def execVldg (p : Pred) (d a : Code) (v : VMod) : State → Res := vdispatch (.vldg p d a v) p [d, a] d a 0xB0 0xB0 v
def execVstg (p : Pred) (d a : Code) (v : VMod) : State → Res := vdispatch (.vstg p d a v) p [d, a] d a 0xB0 0xB0 v
def execVgath (p : Pred) (d a b : Code) (v : VMod) : State → Res := vdispatch (.vgath p d a b v) p [d, a, b] d a b 0xB0 v
def execVscat (p : Pred) (d a b : Code) (v : VMod) : State → Res := vdispatch (.vscat p d a b v) p [d, a, b] d a b 0xB0 v
def execVbcst (p : Pred) (d a : Code) (v : VMod) : State → Res := vdispatch (.vbcst p d a v) p [d, a] d a 0xB0 0xB0 v
def execViota (p : Pred) (d : Code) (v : VMod) : State → Res := vdispatch (.viota p d v) p [d] d 0xB0 0xB0 0xB0 v
def execVperm (p : Pred) (d a b : Code) (v : VMod) : State → Res := vdispatch (.vperm p d a b v) p [d, a, b] d a b 0xB0 v
def execVexp (p : Pred) (d a : Code) (v : VMod) : State → Res := vdispatch (.vexp p d a v) p [d, a] d a 0xB0 0xB0 v
def execVlog (p : Pred) (d a : Code) (v : VMod) : State → Res := vdispatch (.vlog p d a v) p [d, a] d a 0xB0 0xB0 v
def execVrcp (p : Pred) (d a : Code) (v : VMod) : State → Res := vdispatch (.vrcp p d a v) p [d, a] d a 0xB0 0xB0 v
def execVrsq (p : Pred) (d a : Code) (v : VMod) : State → Res := vdispatch (.vrsq p d a v) p [d, a] d a 0xB0 0xB0 v
def execVsin (p : Pred) (d a : Code) (v : VMod) : State → Res := vdispatch (.vsin p d a v) p [d, a] d a 0xB0 0xB0 v
def execVcos (p : Pred) (d a : Code) (v : VMod) : State → Res := vdispatch (.vcos p d a v) p [d, a] d a 0xB0 0xB0 v

end Sys2Proof.Machine
end

