-- ==== Sys2Proof/Machine/Late.lean ====
section
/-!
DEFINITION. Late causes taken at an instruction boundary (R249, R250, R252), and which threads can issue (R121).
-/

namespace Sys2Proof.Machine

/-- Rank of a late cause (R252): vector entries, ELATE, MCNT, PREEMPT. -/
def Late.rank (l : Late) : Nat :=
  match l.cause with
  | .vlate => 0
  | .elate => 1
  | .mcnt => 2
  | _ => 3

/-- How long ago a sequence number was given out, on a core whose next one is `now` (R253: they wrap). -/
def seqAge (now seq : Nat) : Nat := (now + 2 ^ 32 - seq) % 2 ^ 32

/-- The cause that goes first (R252): by rank, then the oldest. -/
def lateFirst (now : Nat) : List Late → Option Late
  | [] => none
  | l :: rest =>
    match lateFirst now rest with
    | none => some l
    | some m =>
      if m.rank < l.rank || (m.rank = l.rank && l.rank = 0 && seqAge now l.seq < seqAge now m.seq) then some m else some l

/-- Removes one occurrence. -/
def lateRemove (x : Late) : List Late → List Late
  | [] => []
  | l :: rest => if l = x then rest else l :: lateRemove x rest

/-- A cause is due at a thread's boundary: none is while it runs its handler (R250), nor before an instruction that has
parked and goes on completes (R249, R256). -/
def Thread.lateNow (t : Thread) (now : Nat) : Option Late :=
  if t.act || t.ending || t.prog.woken then none else lateFirst now t.late

/-- A thread outside its handler takes an instruction up where a trap or a pre-emption left it, if it is the one at PC
(R249, R265, R356). -/
def Thread.takeUp (t : Thread) : Thread :=
  match t.begun with
  | some (pc, g) => if t.act then t else { t with begun := none, prog := if pc = t.pc then g else t.prog }
  | none => t

/-- A thread that keeps how far the instruction at an address had gone: one that a resumption brought back before it ran
again, or that a second late cause takes before it has taken the instruction up (R265, R356, R431). -/
def Thread.keep (pc : Word) (g : Prog) (t : Thread) : Thread :=
  { t with begun := if g = Prog.fresh then t.begun.filter fun b => b.1 = pc else some (pc, g) }

/-- The entry of a late cause, at the address of the next instruction not yet issued (R249); with no handler a notice
is dropped and a fault is fatal (R250). -/
def State.takeLate (s : State) (c sl : Nat) (l : Late) : State :=
  match s.thread? c sl with
  | none => s
  | some t =>
    let s := s.modThread c sl fun t => { t with late := lateRemove l t.late }
    if t.handler = 0 then
      if l.cause = .preempt then s else (s.countCore c 7 1).fatalTrap c sl l.cause l.sub l.val l.seq
    else
      let late := l.cause ≠ .preempt
      let s := (s.countCore c 7 1).traceTrap c sl l.cause l.val t.pc
      (s.modThread c sl fun t => Thread.keep t.pc t.prog <|
        t.enter l.cause late (l.cause = .vlate) l.iter l.acc l.sub l.val (Word.ofNat l.seq) t.pc).noteState c sl 0

/-- A slot marked TAKE can pass now (R120): its thread is of class 1, runs no handler, is not stopped, and awaits no reply
of an access already sent. -/
def State.passes (s : State) (c sl : Nat) (t : Thread) : Bool :=
  (s.core c).marked sl && !t.act && !t.ending && !t.dbg && t.stopped = [] && !s.held
  && (match s.corePart c with
    | some pno => (s.part pno).st = 1 && ((s.launch? pno t.lid).map Launch.pcls) = some 1
    | none => false)
  && (match (s.core c).preempt with | some p => p.stage ≠ 1 | none => true)
  && (match t.park with | some ⟨.remote _, _, _⟩ => false | _ => true)

/-- A thread that may issue (R121), as far as the thread, its core and its partition go. One whose remote access has been
answered completes that instruction before a pre-emption or a debug stop holds it (R348, R431). -/
def State.canRun (s : State) (c : Nat) (t : Thread) : Bool :=
  t.park.isNone && !t.idle && t.stopped = [] && !s.held
  && (t.prog.reply.isSome || (!t.debugHeld && (match (s.core c).preempt with | some p => p.stage ≠ 1 | none => true)))
  && (match s.corePart c with | some pno => (s.part pno).st = 1 | none => false)

/-- LATE_TRAP_ENTRY (R249, R252, R254, R256): a thread at an instruction boundary takes the first of the causes due. -/
def execLateTrapEntry (core slot : Nat) (s : State) : Res :=
  match s.thread? core slot with
  | none => .next s
  | some t =>
    if !s.canRun core t then .next s
    else match t.lateNow (s.core core).seqnow with
      | some l => .next (s.takeLate core slot l)
      | none => .next s

end Sys2Proof.Machine
end

