-- ==== Sys2Proof/Machine/EngData.lean ====
section
/-!
DEFINITION. What the cluster engines share: the fields of a tile command word (R316), jobs and their ends (R387, R390,
R256, R272, R273), where an operand lies (R396) and how its elements are read and written.
-/

namespace Sys2Proof.Machine

/-! ### The command word (R316) -/

def Job.ecmd (j : Job) : Nat := bits j.q0.toNat 63 56
def Job.flg (j : Job) : Nat := bits j.q0.toNat 55 48
def Job.m (j : Job) : Nat := bits j.q0.toNat 47 32
def Job.n (j : Job) : Nat := bits j.q0.toNat 31 16
def Job.k (j : Job) : Nat := bits j.q0.toNat 15 0
def Job.kstart (j : Job) : Nat := bits j.q3.toNat 63 52
def Job.acc (j : Job) : Nat := bits j.q3.toNat 51 48
def Job.sclf (j : Job) : Nat := bits j.q3.toNat 47 40
def Job.idxo (j : Job) : Nat := bits j.q3.toNat 63 40
def Job.ldx (j : Job) : Nat := bits j.q3.toNat 39 20
def Job.ldw (j : Job) : Nat := bits j.q3.toNat 19 0
/-- VFMT of a matrix command, and the channel of a copy command (R395). -/
def Job.vfmt (j : Job) : Nat := bits j.flg 7 3
def Job.chan (j : Job) : Nat := bits j.flg 5 2
/-- Job identifier (R318). -/
def Job.id (j : Job) : Nat := 2 ^ 14 * j.eng + j.seq

/-- Engine that a command code routes to (R317). -/
def engineOf (ecmd : Nat) : Nat := if ecmd / 16 = 0 then 0 else if ecmd / 16 = 1 then 1 else 2

/-- Command codes that R317 lists. -/
def knownCmd (ecmd : Nat) : Bool :=
  (1 ≤ ecmd && ecmd ≤ 7) || (0x10 ≤ ecmd && ecmd ≤ 0x12) || (0x20 ≤ ecmd && ecmd ≤ 0x23) || (0x30 ≤ ecmd && ecmd ≤ 0x32)

/-- The command uses SCL to select a scale register (R392, R395): LDS, MMA and STA. -/
def scaleCmd (ecmd : Nat) : Bool := ecmd = 1 || ecmd = 2 || ecmd = 3

/-! ### Scale registers (R392) -/

/-- SCL of a core at partition assign. -/
def sclReset : Word := 0x3F80000000000000
def Core.sclReg (x : Core) (n : Nat) : Word := x.scl.lookD n sclReset

/-! ### Jobs in their queues -/

/-- Replaces a job in its queue. -/
def State.setJob (s : State) (cl : Nat) (j : Job) : State :=
  s.modCluster cl fun x =>
    { x with jobs := x.jobs.put j.eng ((x.queue j.eng).map fun o => if o.seq = j.seq then j else o) }

/-- A job that its engine may take up or go on with. -/
def Job.runnable (j : Job) : Bool :=
  match j.st with
  | .queued | .running => true
  | _ => false

/-- The first job of an engine, or of a copy channel (R387, R409). -/
def Cluster.headJob (x : Cluster) (eng : Nat) (ch : Option Nat) : Option Job :=
  (x.queue eng).find? fun j => match ch with | none => true | some c => j.chan = c

/-- Adds to the counters of an engine (R273). -/
def State.countEng (s : State) (cl eng ev n : Nat) : State :=
  (List.range 8).foldl (fun s i =>
    let x := s.cluster cl
    let k := 8 * eng + i
    let (v, hit) := countSel (x.esel.lookD k 0) ev (x.ectrs.lookD k 0) n
    let s := if v = x.ectrs.lookD k 0 then s else s.modCluster cl fun x => { x with ectrs := x.ectrs.put k v }
    if hit then
      match s.corePart (8 * cl) with
      | some pno => s.emit { s.obs 19 pno with core := 8 * cl, addr := v, sub := i }
      | none => s
    else s) s

/-- A trace record of a job's start or end, when the enqueuing core's TRCFG bit 3 is set (R269): its PC is that of the ENQ
(R141), its slot that of the thread, if it is in one. -/
def State.traceJob (s : State) (j : Job) : State :=
  let x := s.core j.core
  if bit x.trcfg 3 then
    s.emit { s.obsAt 16 j.part j.lid j.pc with
      code := 3, addr := j.id, job := j.id, core := j.core, slot := (slotOf x j.sth).getD 0xFF }
  else s

/-- Histogram bucket of a latency (R272). -/
def bucketOf (n : Nat) : Nat := min 15 (if n = 0 then 0 else Nat.log2 n)

/-- Buckets of an engine's histogram. -/
def Cluster.buckets (x : Cluster) (eng : Nat) : List Nat := x.hist.lookD eng (List.replicate 16 0)

/-- The smallest bucket whose cumulative count reaches a number. -/
def histReach (want : Nat) : List Nat → Nat → Nat → Nat
  | [], b, _ => b
  | n :: l, b, acc => if want ≤ acc + n then b else histReach want l (b + 1) (acc + n)

/-- Counts a completed job in its engine's histogram, and fires its trigger (R272). -/
def State.histJob (s : State) (cl : Nat) (j : Job) : State :=
  let x := s.cluster cl
  let h := (x.hcfg.lookD j.eng 0).toNat
  if !bit h 11 || x.histFrozen.contains j.eng then s
  else
    let pct := bits h 6 0
    let act := bits h 9 8
    let l := x.buckets j.eng
    let total := l.foldl (· + ·) 0
    let b := bucketOf (s.clk - j.acceptedAt)
    let fires := 1 ≤ pct && pct ≤ 99 && total ≠ 0 && histReach ((pct * total + 99) / 100) l 0 0 < b
    let s := s.modCluster cl fun x => { x with hist := x.hist.put j.eng (l.set b (l.getD b 0 + 1)) }
    if fires then
      let s :=
        match act with
        | 1 => (clusterCores cl).foldl (fun (s : State) c => s.modCore c fun x => { x with trcfg := if bit x.trcfg 3 then x.trcfg else x.trcfg + 8 }) s
        | 2 => (clusterCores cl).foldl (fun (s : State) c => s.modCore c fun x => { x with trcfg := if bit x.trcfg 3 then x.trcfg - 8 else x.trcfg }) s
        | 3 => s.modCluster cl fun x => { x with histFrozen := insertNat x.histFrozen j.eng }
        | _ => s
      s.emit { s.obs 18 j.part with sub := b, core := j.core, lid := j.lid, job := j.id }
    else s

/-- Where an engine found a rule broken: SUB (R396), the address or offset, and the kind of access. -/
structure JErr where
  sub : Nat
  adr : Word
  acc : Nat := 0
  deriving DecidableEq, Repr

/-- What a job comes to when its engine takes it up. -/
inductive JobRes where
  | done (j : Job) (s : State)
  | fault (j : Job) (e : JErr) (s : State)
  | wait (j : Job) (st : JobSt) (s : State)
  deriving Repr

/-- A job with no field set. -/
def Job.blank : Job :=
  { eng := 2, seq := 0, core := 0, sth := 0, lid := 0, part := 0, q0 := 0, q1 := 0, q2 := 0, q3 := 0, zx := 0, zw := 0, mode := 0,
    te := false, scl := 0, enqSeq := 0, st := .running, donec := 0, acceptedAt := 0, acceptedFab := 0, started := true,
    fatal := none, fadr := 0, got := none, out := 0, failed := none, pieces := [], idx := [], desc := [], inHandler := false,
    pc := 0, zfs := [], half := false, wrote := 0, zmap := [], no := 0 }

/-- Receive buffer of a collective's own rank, and the cluster that keeps what arrives for it (R410). -/
def Job.own (j : Job) : Word := j.desc.getD j.n 0
def Job.bufCluster (j : Job) : Nat := clusterOf (winCore j.own.toNat)

/-- Descriptors of one collective: one begins with the other (members that name different counts still match). -/
def descMatch (a b : List Word) : Bool := a.isPrefixOf b || b.isPrefixOf a

/-- A contribution to the collective that a job belongs to. -/
def contribOf (j : Job) (c : Contribution) : Bool :=
  c.dest = j.own && c.tag = j.ldw && c.no = j.no && descMatch c.desc j.desc

/-- What has arrived for a collective's job that ends without its result is dropped: later collectives of the TAG take none of
it (R410, R411). -/
def State.collClear (s : State) (j : Job) (st : JobSt) : State :=
  if st ≠ .done && j.desc ≠ [] && (s.cluster j.bufCluster).contribs.any (contribOf j) then
    s.modCluster j.bufCluster fun x => { x with contribs := x.contribs.filter fun c => !contribOf j c }
  else s

/-- Where an access of a job to an offset of a core goes (R138). -/
def State.jobOff (s : State) (j : Job) (d off : Nat) : Nat := s.moveOn j.core j.lid j.zmap d off

/-- A job completes (R387, R390): it leaves its queue, keeps its status, and a fault is recorded, as of its ENQ (R141), and
delivered, or counts as fatal when its thread has ended (R250, R256, R396). -/
def State.jobEnd (s : State) (cl : Nat) (j : Job) (st : JobSt) (e : JErr) : State :=
  let j := { j with st := st, fadr := e.adr }
  let s := (s.collClear j st).modCluster cl fun x =>
    { x with jobs := x.jobs.put j.eng ((x.queue j.eng).filter fun o => o.seq ≠ j.seq),
             past := x.past.put j.id j }
  let s := ((s.histJob cl j).countEng cl j.eng 0x0101 1).traceJob j
  let s :=
    match st with
    | .fault sub =>
      let r := { s.obsAt 2 j.part j.lid j.pc with
        code := Cause.elate.code, sub := sub, core := j.core, addr := e.adr.toNat, tseq := j.enqSeq, job := j.id,
        slot := (slotOf (s.core j.core) j.sth).getD 0xFF }
      let s := s.emit r
      match s.bySth j.core j.sth with
      | some _ => s.workLate j.core j.sth j.inHandler ⟨.elate, sub, e.acc, 0, Word.ofNat j.id, j.enqSeq, j.pc⟩
      | none => s.countFatal j.part j.lid (s.secondAt j.part j.lid j.pc)
    | _ => s
  let s := s.stir j.core
  (s.vecSettle j.core j.sth).cbldSettle cl

/-- Applies what a job came to. -/
def jobResult (cl : Nat) (cost : Job → Nat) : JobRes → State
  | .done j s =>
    let c := cost j
    ((s.pass (s.clk + c)).countEng cl j.eng 0x0102 c).jobEnd cl j .done ⟨0, 0, 0⟩
  | .fault j e s => s.jobEnd cl j (.fault e.sub) e
  | .wait j st s => s.setJob cl { j with st := st }

/-- An engine takes up a queued job: a trace of it (R269), and where it is a copy channel's its write pointer is 0 (R168). -/
def State.startJob (s : State) (cl : Nat) (j : Job) : State :=
  let s := s.traceJob j
  if j.eng = 2 then s.modCluster cl fun x => { x with chanPtr := x.chanPtr.put j.chan 0 } else s

/-- Takes up the first job of an engine or channel if its command is `cmd` (R387, R399, R400): a job that a fatal
resolution reached ends with its fault where it stands. -/
def State.runJob (s : State) (cl eng : Nat) (ch : Option Nat) (cmd : Nat) (cost : Job → Nat) (body : State → Job → JobRes) :
    State :=
  match (s.cluster cl).headJob eng ch with
  | none => s
  | some j =>
    if j.ecmd ≠ cmd || !j.runnable || (s.part j.part).st ≠ 1 then s
    else
      let s := if j.st = .queued then s.startJob cl j else s
      let j := { j with st := .running }
      match j.fatal with
      | some (va, acc, cause) => jobResult cl cost (.fault j ⟨cause.code, va, acc.code⟩ s)
      | none => jobResult cl cost (body s j)

/-! ### Where an operand lies (R396) -/

inductive EPlace where
  | win (core off : Nat)
  | virt (va : Nat)
  | away (ea : Word)
  deriving DecidableEq, Repr

/-- Address, or local offset, that a fault of an operand names (R396). -/
def EPlace.addr : EPlace → Word
  | .win _ b => Word.ofNat b
  | .virt a => Word.ofNat a
  | .away a => a

/-- Place of an operand address; `own` confines it to the cluster's cores. -/
def State.eplace (s : State) (pno cl : Nat) (own : Bool) (a : Word) : Except JErr EPlace :=
  let n := a.toNat
  if 2 ^ 57 ≤ n then .error ⟨0x05, a, 0⟩
  else if !isWindow n then .ok (.virt n)
  else if s.winBad n then .error ⟨0x07, a, 0⟩
  else if s.winHere n then
    if s.corePart (winCore n) ≠ some pno || (own && clusterOf (winCore n) ≠ cl) then .error ⟨0x07, a, 0⟩
    else .ok (.win (winCore n) (winOff n))
  else if own || s.upPorts (winDev n) = [] then .error ⟨0x07, a, 0⟩
  else .ok (.away a)

/-- ZF value that a job uses for a zone of a core (R386): captured for the issuing core's, else as it stands. -/
def State.jobZone (s : State) (j : Job) (pl : EPlace) (captured : Nat) : Nat :=
  match pl with
  | .win c off => if c = j.core then captured else (s.core c).zone (zoneOf off)
  | _ => captured

/-- The bytes `[lo, hi)` of a local operand lie in the zone of its base. -/
def inZone (base lo hi : Nat) : Bool := hi ≤ lo || (hi ≤ 2 ^ 19 && zoneOf lo = zoneOf base && zoneOf (hi - 1) = zoneOf base)

/-- Rows at `base + r·ld` of `n` bytes each, for r below `m`, lie in one zone and are aligned for elements of `e` bits. -/
def rowsFit (base ld m n e : Nat) : Bool :=
  m = 0 || n = 0 || (inZone base base (base + (m - 1) * ld + n) && (e < 8 || (base % (e / 8) = 0 && (m ≤ 1 || ld % (e / 8) = 0))))

/-- The run rule of R397 in an MX zone. -/
def runFit (z base ld : Nat) : Bool :=
  !isMx (zfFmt z) || (8 * (base % 32768) % (32 * fmtWidth (zfFmt z)) = 0 && ld % (4 * fmtWidth (zfFmt z)) = 0)

/-- Decoding context of a job for a zone of a core (R232, R253). -/
def State.jobCod (s : State) (j : Job) (c : Nat) (ftz : Bool) (rm : RM) (z : Nat) : Cod := ⟨j.te, ftz, rm, s.book c z⟩

/-- The permission level of a job's accesses is its launch's. -/
def State.jobApp (s : State) (j : Job) : Bool := match s.launch? j.part j.lid with | some l => decide (l.pl = 0) | none => true

/-! ### Bytes of the virtual space -/

/-- What stops an access of a job. -/
inductive JStop where
  | err (e : JErr)
  | park (st : JobSt)
  deriving Repr

/-- Physical parts of `n` bytes at a virtual address, or the fault that stops the job (R190, R193, R396). -/
def State.jphys (s : State) (j : Job) (cl : Nat) (acc : Acc) (va n : Nat) : Except (JStop × State) (List (Nat × Nat) × State) :=
  let app := s.jobApp j
  if 2 ^ 57 ≤ va + n || isWindow (va + n - 1) || isWindow va then .error (.err ⟨0x05, Word.ofNat va, 0⟩, s)
  else
    (pageParts (n / 4096 + 2) va n).foldl (fun r q =>
      match r with
      | .error x => .error x
      | .ok (l, s) =>
        match s.translate (.cluster cl) j.part q.1 acc app with
        | .ok pa s => .ok (l ++ [(pa, q.2)], s)
        | .fault kind level s =>
          let va := Word.ofNat q.1
          if (s.part j.part).fren then .error (.park (.parked va acc kind level), s.faultMsg j.part q.1 acc kind level)
          else .error (.err ⟨(faultCause kind).code, va, acc.code⟩, s)
        | .malformed _ s => .error (.err ⟨0x07, Word.ofNat q.1, acc.code⟩, s.malformedRecord j.part q.1)
        | .off => .error (.err ⟨0x06, Word.ofNat q.1, acc.code⟩, s)) (.ok ([], s))

/-- Bytes of physical parts, each with whether it is poisoned. -/
def State.physBytes (s : State) (gen : Nat) (l : List (Nat × Nat)) : List (Byte × Bool) :=
  l.flatMap fun q => (List.range q.2).map fun i => (s.dramByte gen (q.1 + i), s.dpoison.contains ((q.1 + i) / 32))

/-- Writes bytes over physical parts at their home slices. -/
def State.physWrite (s : State) (pno : Nat) : List (Nat × Nat) → List Byte → State
  | [], _ => s
  | (pa, n) :: l, bs => State.physWrite (s.sliceWrite pno pa (bs.take n)) pno l (bs.drop n)

/-- Poisons the cells of the bytes of physical parts that a list of flags marks. -/
def State.physPoison (s : State) : List (Nat × Nat) → List Bool → State
  | [], _ => s
  | (pa, n) :: l, bad =>
    State.physPoison (s.dramPoison ((List.range n).filterMap fun i => if bad.getD i false then some ((pa + i) / 32) else none)) l (bad.drop n)

/-- Elements of `e` bits packed from bit 0 of a run of bytes, with whether a byte of each is poisoned. -/
def packedElems (e n : Nat) (bs : List (Byte × Bool)) : List (Nat × Nat × Bool) :=
  let v := leNat (bs.map Prod.fst)
  let bad := (bs.map Prod.snd)
  let anyBad := bad.contains true
  (List.range n).map fun i =>
    let q := bytesOfBits (e * i) e
    (v / 2 ^ (e * i) % 2 ^ e, 0, anyBad && ((bad.drop q.1).take q.2).contains true)

/-- Elements of an operand: `n` from byte `off` on, with the ZF value that holds for it. -/
def State.jelems (s : State) (j : Job) (cl : Nat) (pl : EPlace) (z : Nat) (decoded : Bool) (n off : Nat) :
    Except (JStop × State) (List (Nat × Nat × Bool) × State) :=
  match pl with
  | .win c base =>
    match (s.core c).readElems z (zoneOf base) false decoded n (Word.ofNat (base + off)) with
    | .error er => .error (.err ⟨er.sub, er.val, 0⟩, s)
    | .ok l => .ok (l, s)
  | .virt va =>
    let e := fmtWidth (zfFmt z)
    match s.jphys j cl .read (va + off) ((e * n + 7) / 8) with
    | .error x => .error x
    | .ok (ps, s) => .ok (packedElems e n (s.physBytes (s.part j.part).keyGen ps), s.sliceSee j.part ps)
  | .away a => .error (.err ⟨0x07, a, 0⟩, s)

/-- Core whose codebook store an operand's zone decodes through. -/
def EPlace.core (pl : EPlace) (j : Job) : Nat := match pl with | .win c _ => c | _ => j.core

/-- Exact values of an operand's elements (R397): poison and a poisoned codebook end the job. -/
def State.jvals (s : State) (j : Job) (cl : Nat) (pl : EPlace) (z n off : Nat) : Except (JStop × State) (List Val × State) :=
  match s.jelems j cl pl z true n off with
  | .error x => .error x
  | .ok (l, s) =>
    let at' := pl.addr + BitVec.ofNat 64 off
    if (l.any fun q => q.2.2) || s.bookPoisoned (pl.core j) z then .error (.err ⟨0x0D, at', 1⟩, s)
    else
      let cod := s.jobCod j (pl.core j) false .rne z
      .ok (l.map fun q => exactVal cod (zfFmt z) q.1 q.2.1, s)

/-- Complex values of an operand's elements (R233). -/
def State.jcomplex (s : State) (j : Job) (cl : Nat) (pl : EPlace) (z n off : Nat) :
    Except (JStop × State) (List (Val × Val) × State) :=
  match s.jelems j cl pl z true n off with
  | .error x => .error x
  | .ok (l, s) =>
    let at' := pl.addr + BitVec.ofNat 64 off
    if l.any fun q => q.2.2 then .error (.err ⟨0x0D, at', 1⟩, s)
    else
      let cod := s.jobCod j (pl.core j) false .rne z
      .ok (l.map fun q => match decodeLane cod .cx (zfFmt z) q.1 0 with | .cx a b => (a, b) | _ => (.nan, .nan), s)

/-- Reads several runs of an operand, in order. -/
def State.jruns (s : State) {α : Type} (rd : State → Nat → Except (JStop × State) (α × State)) :
    List Nat → Except (JStop × State) (List α × State)
  | [] => .ok ([], s)
  | o :: l =>
    match rd s o with
    | .error x => .error x
    | .ok (v, s) =>
      match State.jruns s rd l with
      | .error x => .error x
      | .ok (vs, s) => .ok (v :: vs, s)

/-- A job stopped by an access. -/
def stopJob (j : Job) : JStop × State → JobRes
  | (.err e, s) => .fault j e s
  | (.park st, s) => .wait j st s

/-- A job that a check at its start refuses. -/
def refuseJob (s : State) (j : Job) (sub : Nat) (adr : Word := 0) : JobRes := .fault j ⟨sub, adr, 0⟩ s

/-! ### Rows written by an engine -/

/-- Bits of elements over the bytes of a virtual run, whole or not at all (R401, R406). -/
def State.jstoreRaw (s : State) (j : Job) (cl va e : Nat) (raws : List Nat) (bad : List Bool) :
    Except (JStop × State) State :=
  let n := (e * raws.length + 7) / 8
  if n = 0 then .ok s
  else
    match s.jphys j cl .write va n with
    | .error x => .error x
    | .ok (ps, s) =>
      let old := (s.physBytes (s.part j.part).keyGen ps).map Prod.fst
      let bs := setBits e 0 old ((List.range raws.length).map fun i => (e * i, raws.getD i 0))
      let badBytes := (List.range n).map fun i =>
        (List.range raws.length).any fun k => bad.getD k false && e * k < 8 * i + 8 && 8 * i < e * k + e
      let s := s.physWrite j.part ps bs
      .ok (if bad.contains true then s.physPoison ps badBytes else s)

/-- Cells that poisoned elements of a row in local memory lie in. -/
def badCells (e o : Nat) (bad : List Bool) : List Nat :=
  (List.range bad.length).flatMap fun i =>
    if bad.getD i false then (let q := bytesOfBits (8 * o + e * i) e; cellsOf q.1 q.2) else []

/-- Poisons cells of local memory. -/
def Core.lpoisonAt (x : Core) (cells : List Nat) : Core := { x with lpoison := cells.foldl insertNat x.lpoison }

/-- Writes a row of lanes into a zone under its format, as an engine does (R166, R227): in an MX zone every cell of the
blocks that it rewrites, and of their scale bytes, is written (R230). -/
def Core.engineRow (x : Core) (cod : Cod) (z base off : Nat) (lanes : List Lane) (te : Option Bool) (bad : List Bool) :
    Except SegErr Core :=
  match x.writeSeg cod z (zoneOf base) false (Word.ofNat off) lanes with
  | .error er => .error er
  | .ok x =>
    .ok (((rowSpans z (zoneOf base) off lanes.length).foldl (fun (x : Core) q => x.edone q.1 q.2 te) x).lpoisonAt
      (badCells (fmtWidth (zfFmt z)) off bad))

/-- Writes a row of bits into local memory (R406). -/
def Core.engineBits (x : Core) (e base off : Nat) (raws : List Nat) (te : Option Bool) (bad : List Bool) :
    Except SegErr Core :=
  match segPlace e false (zoneOf base) raws.length (Word.ofNat off) with
  | .error er => .error er
  | .ok o => .ok (((x.writeRaw e false o raws).edone o ((e * raws.length + 7) / 8) te).lpoisonAt (badCells e o bad))

end Sys2Proof.Machine
end

