-- ==== Sys2Proof/Machine/Matrix.lean ====
section
/-!
DEFINITION. The matrix engine (R397 to R404): planes, accumulator tiles and their counters.
-/

namespace Sys2Proof.Machine

/-! ### Shared checks -/

/-- Fields that a command does not use are 0 (R395). -/
def allZero (l : List Nat) : Bool := l.all fun n => n = 0

/-- The SCL field of a command that selects a scale register (R392). -/
def Job.sclOk (j : Job) : Bool := bits j.sclf 6 4 = 0
/-- Exponents and factor of the selected register, or none (R392). -/
def Job.xexp (j : Job) : Int := if bit j.sclf 7 then signedOf 8 (bits j.scl.toNat 7 0) else 0
def Job.wexp (j : Job) : Int := if bit j.sclf 7 then signedOf 8 (bits j.scl.toNat 15 8) else 0
def Job.osc (j : Job) : Option Val := if bit j.sclf 7 then some (f32.decode false false (bits j.scl.toNat 63 32)) else none

/-- ZF value of a matrix operand: its zone's, or VFMT in the spatial domain (R396). -/
def State.matZone (s : State) (j : Job) (pl : EPlace) (captured : Nat) : Nat :=
  match pl with
  | .virt _ => j.vfmt
  | _ => s.jobZone j pl captured

/-- Core cycles of a block (R412): `e` is the wider operand width. -/
def blockCycles (e : Nat) : Nat := if 32 ≤ e then 512 else if e = 16 then 128 else if e = 8 then 64 else 32

/-- Group size of exact sums (R240): by the wider operand width. -/
def groupSize (e : Nat) : Nat := if 16 ≤ e then 8 else if e = 8 then 16 else 32

/-- Every zero of one sign in one form. -/
def normZero (v : Val) : Val :=
  match v with
  | .fin n m e => if m = 0 then .fin n 0 0 else .fin n m e
  | v => v

/-! ### Tiles -/

def Cluster.tile (x : Cluster) (n : Nat) : Tile := x.tiles.lookD n Tile.zero
def State.modTile (s : State) (cl n : Nat) (f : Tile → Tile) : State :=
  s.modCluster cl fun x => { x with tiles := x.tiles.put n (f (x.tile n)) }

/-- Accumulator value at a row and a column. -/
def Tile.at (t : Tile) (m n : Nat) : Val := f32.decode false false (t.vals.lookD (128 * m + n) 0)

/-- Sets a region's first rows and columns to +0; cells that it covers whole lose their poison (R266). -/
def Tile.clear (t : Tile) (m n : Nat) : Tile :=
  { t with vals := t.vals.filter fun e => !(e.1 / 128 < m && e.1 % 128 < n),
           poison := t.poison.filter fun c => !(c / 16 < m && 8 * (c % 16) + 8 ≤ n) }

/-- A value of a region lies in a poisoned cell. -/
def Tile.poisoned (t : Tile) (m n : Nat) : Bool := t.poison.any fun c => c / 16 < m && 8 * (c % 16) < n

/-- Raises MCNT at the job's thread when a counter comes from below a threshold to it (R404). -/
def State.mcnt (s : State) (j : Job) (thr which old new : Nat) : State :=
  if thr ≠ 0 && old < thr && thr ≤ new then
    s.workLate j.core j.sth j.inHandler ⟨.mcnt, 0, 0, 0, Word.ofNat (j.id + 2 ^ 16 * which), j.enqSeq, j.pc⟩
  else s

/-- Adds to the counters of a tile, which saturate (R404). -/
def State.tileCount (s : State) (cl : Nat) (j : Job) (sat nan bso : Nat) : State :=
  let t := (s.cluster cl).tile j.acc
  let up := fun (a n : Nat) => min (a + n) (2 ^ 32 - 1)
  let s := s.modTile cl j.acc fun t => { t with sat := up t.sat sat, nan := up t.nan nan, bso := up t.bso bso }
  ((s.mcnt j t.thr 0 t.sat (up t.sat sat)).mcnt j t.thr 1 t.nan (up t.nan nan)).mcnt j t.thr 2 t.bso (up t.bso bso)

/-- One group added to an accumulator: the new value, and whether it counts in SAT or in NAN (R240, R404). -/
def groupAdd (acc : Val) (prods : List Val) : Val × Nat × Nat :=
  let fin := fun (v : Val) => match v with | .fin _ _ _ => true | _ => false
  let r := (prods.foldl (fun a p => a.add .rne p) acc).round32 false .rne
  match r with
  | .nan => (r, 0, 1)
  | .inf _ => (r, if fin acc && prods.all fin then 1 else 0, 0)
  | _ => (r, 0, 0)

/-- Adds products group by group (R240). -/
def groupsAdd (g : Nat) : Nat → Val × Nat × Nat → List Val → Val × Nat × Nat
  | 0, a, _ => a
  | fuel + 1, (acc, sat, nan), l =>
    if l = [] then (acc, sat, nan)
    else
      let (v, x, y) := groupAdd acc (l.take g)
      groupsAdd g fuel (v, sat + x, nan + y) (l.drop g)

/-- Adds a list of products, in ascending K, to the values at some places of a tile: their places and products. -/
def State.tileAdd (s : State) (cl : Nat) (j : Job) (g : Nat) (l : List (Nat × List Val)) : State :=
  let t := (s.cluster cl).tile j.acc
  let (vals, sat, nan) := l.foldl (fun (a : KMap Nat × Nat × Nat) q =>
    let old := f32.decode false false (a.1.lookD q.1 0)
    let (v, x, y) := groupsAdd g (q.2.length + 1) (old, 0, 0) q.2
    (KMap.putD 0 a.1 q.1 (f32.encode false false .rne v), a.2.1 + x, a.2.2 + y)) (t.vals, 0, 0)
  (s.modTile cl j.acc fun t => { t with vals := vals }).tileCount cl j sat nan 0

/-! ### Planes (R398) -/

/-- A plane of weights, given by columns; only values other than +0 are listed. -/
def planeOf (cols : List (List Val)) (kc : Nat) : KMap Val :=
  (List.range kc).flatMap fun k => (List.range cols.length).filterMap fun n =>
    let v := normZero ((cols.getD n []).getD k (Val.zero false))
    if v = Val.zero false then none else some (128 * k + n, v)

/-- Weight at a place. -/
def planeAt (p : KMap Val) (k n : Nat) : Val := p.lookD (128 * k + n) (Val.zero false)

/-- Reads block `kb` of W (R397, R398), scaled by 2^WEXP, column by column. -/
def State.readW (s : State) (j : Job) (cl : Nat) (pl : EPlace) (z kb : Nat) : Except (JStop × State) (List (List Val) × State) :=
  let e := fmtWidth (zfFmt z)
  let kc := min j.k (128 * kb + 128) - 128 * kb
  match s.jruns (fun s n => s.jvals j cl pl z kc (n * j.ldw + 16 * e * kb)) (List.range j.n) with
  | .error x => .error x
  | .ok (l, s) => .ok (l.map fun c => c.map fun v => v.scale j.wexp, s)

/-- The operand checks of a matrix operand: format and domain, then place (R396, R397): the SUB of the first that fails.
`m` runs of `k` elements. -/
def matCheck (pl : EPlace) (z ld m k : Nat) : Option Nat :=
  let e := fmtWidth (zfFmt z)
  if zfDom z ≠ 0 then some 0x08
  else if 18 < zfFmt z then some 0x03
  else match pl with
    | .win _ base => if rowsFit base ld m ((e * k + 7) / 8) e && runFit z base ld then none else some 0x05
    | .virt va => if 8 ≤ e && (va % (e / 8) ≠ 0 || (2 ≤ m && ld % (e / 8) ≠ 0)) then some 0x05 else none
    | .away _ => some 0x07

/-- LDS (R398). -/
def ldsBody (cl : Nat) (s : State) (j : Job) : JobRes :=
  if !allZero [bits j.flg 2 0, j.m, j.q1.toNat, j.acc, j.ldx] || 128 < j.n || (j.k + 127) / 128 ≤ j.kstart || !j.sclOk
    || 11 < j.vfmt then refuseJob s j 0x03
  else
    match s.eplace j.part cl true j.q2 with
    | .error e => .fault j e s
    | .ok pl =>
      let z := s.matZone j pl j.zw
      match matCheck pl z j.ldw j.n j.k with
      | some sub => refuseJob s j sub pl.addr
      | none =>
        match s.readW j cl pl z j.kstart with
        | .error x => stopJob j x
        | .ok (cols, s) =>
          .done j (s.modCluster cl fun x => { x with shadow := planeOf cols (min j.k (128 * j.kstart + 128) - 128 * j.kstart) })

/-- The plane exchange. -/
def Cluster.swap (x : Cluster) : Cluster := { x with active := x.shadow, shadow := x.active }

/-- SWAPS (R398). -/
def swapsBody (cl : Nat) (s : State) (j : Job) : JobRes :=
  if !allZero [j.flg, j.m, j.n, j.k, j.q1.toNat, j.q2.toNat, j.q3.toNat] then refuseJob s j 0x03
  else .done j (s.modCluster cl Cluster.swap)

/-! ### MMA (R399, R400) -/

/-- Blocks of MMA from KDONE on: the weights are loaded and swapped in before X is read, and a job that parks on X goes on
from there (R399, R400). -/
def mmaBlocks (cl : Nat) (xp wp : EPlace) (zx zw : Nat) : Nat → State → Job → JobRes
  | 0, s, j => .done j s
  | fuel + 1, s, j =>
    let kb := j.donec
    if (j.k + 127) / 128 ≤ kb then .done j s
    else
      let kc := min j.k (128 * kb + 128) - 128 * kb
      let ex := fmtWidth (zfFmt zx)
      let skip := kb = j.kstart && bit j.flg 1
      match (if skip || j.half then .ok ([], s) else s.readW j cl wp zw kb) with
      | .error x => stopJob j x
      | .ok (cols, s) =>
        let s := if j.half then s
          else s.modCluster cl fun x => ({ x with shadow := if skip then x.shadow else planeOf cols kc } : Cluster).swap
        let j := { j with half := true }
        match s.jruns (fun s m => s.jvals j cl xp zx kc (m * j.ldx + 16 * ex * kb)) (List.range j.m) with
        | .error x => stopJob j x
        | .ok (rows, s) =>
          if ((s.cluster cl).tile j.acc).poisoned j.m j.n then refuseJob s j 0x0D
          else
            let p := (s.cluster cl).active
            let g := groupSize (max ex (fmtWidth (zfFmt zw)))
            let l := (List.range j.m).flatMap fun m => (List.range j.n).map fun n =>
              (128 * m + n, (List.range kc).map fun k =>
                (((rows.getD m []).getD k (Val.zero false)).scale j.xexp).mul (planeAt p k n))
            mmaBlocks cl xp wp zx zw fuel (s.tileAdd cl j g l) { j with donec := kb + 1, half := false }

/-- MMA (R399). -/
def mmaBody (cl : Nat) (s : State) (j : Job) : JobRes :=
  let nb := (j.k + 127) / 128
  let j := if j.started then j else { j with donec := j.kstart }
  if bit j.flg 2 || 128 < j.m || 128 < j.n || 3 < j.acc || nb < j.kstart || !j.sclOk || 11 < j.vfmt then refuseJob s j 0x03
  else
    match s.eplace j.part cl true j.q1, s.eplace j.part cl true j.q2 with
    | .error e, _ => .fault j e s
    | _, .error e => .fault j e s
    | .ok xp, .ok wp =>
      let zx := if j.started then j.zx else s.matZone j xp j.zx
      let zw := if j.started then j.zw else s.matZone j wp j.zw
      match matCheck xp zx j.ldx j.m j.k, matCheck wp zw j.ldw j.n j.k with
      | some sub, _ => refuseJob s j sub xp.addr
      | _, some sub => refuseJob s j sub wp.addr
      | none, none =>
        let j' := { j with started := true, zx := zx, zw := zw }
        if j.started then mmaBlocks cl xp wp zx zw (nb + 1) s j
        else if j.m = 0 || j.n = 0 then .done j' s
        else if j.k = 0 then
          .done j' (if bit j.flg 0 then s.modTile cl j.acc fun t => t.clear j.m j.n else s)
        else if j.kstart = 0 && bit j.flg 0 then
          mmaBlocks cl xp wp zx zw (nb + 1) (s.modTile cl j.acc fun t => { t.clear j.m j.n with spectral := false }) j'
        else if ((s.cluster cl).tile j.acc).spectral then refuseJob s j 0x08
        else mmaBlocks cl xp wp zx zw (nb + 1) s j'

/-! ### CMMA (R403) -/

/-- Products of one bin: component-wise in bin 0 (R246), complex above. -/
def binMul (k : Nat) (w x : Val × Val) : Val × Val :=
  if k = 0 then (w.1.mul x.1, w.2.mul x.2)
  else ((w.1.mul x.1).add .rne (w.2.mul x.2).neg, (w.1.mul x.2).add .rne (w.2.mul x.1))

/-- Groups of 64 input blocks from KDONE on. -/
def cmmaGroups (cl : Nat) (xp wp : EPlace) (zx zw h : Nat) : Nat → State → Job → JobRes
  | 0, s, j => .done j s
  | fuel + 1, s, j =>
    let g := j.donec
    if (j.k + 63) / 64 ≤ g then .done j s
    else
      let cnt := min j.k (64 * g + 64) - 64 * g
      let ex := fmtWidth (zfFmt zx) / 8
      match s.jruns (fun s m => s.jcomplex j cl xp zx (cnt * h) (m * j.ldx + 64 * g * h * ex)) (List.range j.m) with
      | .error x => stopJob j x
      | .ok (rows, s) =>
        match s.jruns (fun s i => s.jcomplex j cl wp zw (cnt * h) (i * j.ldw + 64 * g * h * 4)) (List.range j.n) with
        | .error x => stopJob j x
        | .ok (cols, s) =>
          if ((s.cluster cl).tile j.acc).poisoned j.m (2 * h * j.n) then refuseJob s j 0x0D
          else
            let z := (Val.zero false, Val.zero false)
            let l := (List.range j.m).flatMap fun m => (List.range j.n).flatMap fun i => (List.range h).flatMap fun k =>
              let ps := (List.range cnt).map fun q =>
                let w := (cols.getD i []).getD (q * h + k) z
                let x := (rows.getD m []).getD (q * h + k) z
                binMul k w x
              [(128 * m + 2 * (i * h + k), ps.map Prod.fst), (128 * m + 2 * (i * h + k) + 1, ps.map Prod.snd)]
            cmmaGroups cl xp wp zx zw h fuel (s.tileAdd cl j 8 l) { j with donec := g + 1 }

/-- CMMA (R403). -/
def cmmaBody (cl : Nat) (s : State) (j : Job) : JobRes :=
  let j := if j.started then j else { j with donec := j.kstart }
  let nb := (j.k + 63) / 64
  if !allZero [j.flg / 2] || 128 < j.m || 3 < j.acc || nb < j.kstart || j.sclf ≠ 0 then refuseJob s j 0x03
  else
    match s.eplace j.part cl true j.q1, s.eplace j.part cl true j.q2 with
    | .error e, _ => .fault j e s
    | _, .error e => .fault j e s
    | .ok (.win cx bx), .ok (.win cw bw) =>
      let zx := if j.started then j.zx else s.jobZone j (.win cx bx) j.zx
      let zw := if j.started then j.zw else s.jobZone j (.win cw bw) j.zw
      let b := 2 ^ zfBlk zx
      let h := b / 2
      let j' := { j with started := true, zx := zx, zw := zw }
      let go := fun (s : State) => cmmaGroups cl (.win cx bx) (.win cw bw) zx zw h (nb + 1) s j'
      if zfDom zx ≠ 1 then refuseJob s j 0x08 (Word.ofNat bx)
      else if zfDom zw ≠ 1 then refuseJob s j 0x08 (Word.ofNat bw)
      else if zfFmt zw ≠ 19 || (zfFmt zx ≠ 19 && zfFmt zx ≠ 20) || zfBlk zx ≠ zfBlk zw || 128 < j.n * b then refuseJob s j 0x03
      else if !rowsFit bx j.ldx j.m (j.k * h * fmtWidth (zfFmt zx) / 8) (fmtWidth (zfFmt zx)) then refuseJob s j 0x05 (Word.ofNat bx)
      else if !rowsFit bw j.ldw j.n (j.k * h * 4) 32 then refuseJob s j 0x05 (Word.ofNat bw)
      else if j.started then go s
      else if j.m = 0 || j.n = 0 then .done j' s
      else if j.k = 0 then .done j' (if bit j.flg 0 then s.modTile cl j.acc fun t => t.clear j.m (j.n * b) else s)
      else if j.kstart = 0 && bit j.flg 0 then
        go (s.modTile cl j.acc fun t => { t.clear j.m (j.n * b) with spectral := true })
      else if !((s.cluster cl).tile j.acc).spectral then refuseJob s j 0x08
      else go s
    | .ok (.win _ _), .ok wp => refuseJob s j 0x07 wp.addr
    | .ok xp, _ => refuseJob s j 0x07 xp.addr

/-! ### STA, ACLR, MSTAT (R401, R402, R404) -/

/-- A value's rounding saturates to the largest finite of a format (R404). -/
def Fmt.saturates (f : Fmt) (te : Bool) (rm : RM) (v : Val) : Bool :=
  match v with
  | .nan => false
  | .inf _ => !f.special te
  | .fin neg m e =>
    if m = 0 then false
    else
      let q : Int := max ((Nat.log2 m : Int) + e) ((1 : Int) - f.bias) - f.m
      let n := roundUnits rm neg m e q
      let q := if n = 2 ^ (f.m + 1) then q + 1 else q
      (f.maxField te : Int) < q + f.m + f.bias && n ≠ 0 && 2 ^ f.m ≤ n && f.overflow te rm neg = f.maxFinite te neg

/-- A value's conversion saturates to an integer bound (R404). -/
def intSaturates (rm : RM) (c : Nat) (v : Val) : Bool :=
  match v with
  | .nan => false
  | .inf _ => true
  | .fin neg m e =>
    let i := signed neg (roundUnits rm neg m e 0)
    i < (intRange c).1 || (intRange c).2 < i

/-- Encoding into a block saturates (R230, R404). -/
def mxSaturates (te : Bool) (rm : RM) (c scale : Nat) (v : Val) : Bool :=
  if scale = 0xFF || v.isNan then false
  else
    let x := v.scale (127 - (scale : Int))
    match x with
    | .inf _ => true
    | x =>
      if c = 17 then
        match x.scale 6 with
        | .fin neg m e => let i := signed neg (roundUnits rm neg m e 0); i < -128 || 127 < i
        | _ => true
      else match floatFmt c with
        | some f => (f.decode te false (f.maxFinite te false)).cmp x.abs = .lt
        | none => false

/-- The scale that a block's values choose was clamped (R230, R404). -/
def mxClamps (te : Bool) (c : Nat) (l : List Val) : Bool :=
  if l.any Val.isNan then false
  else
    match amax l with
    | .fin n m e =>
      if m = 0 then false
      else let k := floorLog (.fin n m e) - mxEmax te c + 127
        k < 0 || 0xFE < k
    | _ => false

/-- SAT and BSO counts of a row of values encoded into a zone or a memory format (R404). -/
def rowCounts (x : Core) (cod : Cod) (z base off : Nat) (vals : List Val) : Nat × Nat :=
  let c := zfFmt z
  let e := fmtWidth c
  if isMx c then
    let zone := zoneOf base
    let b0 := 8 * (off - 32768 * zone)
    let els := (List.range vals.length).map fun i => ((b0 / e + i) / 32, (b0 / e + i) % 32, vals.getD i .nan)
    let ks := els.foldl (fun l q => insertNat l q.1) []
    ks.foldl (fun (a : Nat × Nat) k =>
      let new := (els.filter fun q => q.1 = k).map Prod.snd
      let all := (List.range 32).map fun i =>
        match new.find? fun q => q.1 = i with
        | some q => q.2
        | none =>
          let b := 8 * 32768 * zone + 32 * e * k + e * i
          decodeF cod c (x.lmem.readBits b e) (scaleOf x.lmem zone z b)
      let sc := mxScale cod.te c all
      (a.1 + new.countP fun q => mxSaturates cod.te cod.rm c sc q.2, a.2 + b2n (mxClamps cod.te c all))) (0, 0)
  else
    match fmtCls c with
    | .f => (match floatFmt c with | some f => vals.countP fun v => f.saturates cod.te cod.rm v | none => 0, 0)
    | .i => (vals.countP fun v => intSaturates cod.rm c v, 0)
    | .c => (vals.countP fun v => (if c = 19 then bf16 else f32).saturates cod.te cod.rm v, 0)
    | .w => (0, 0)

/-- Pairs of values as complex lanes. -/
def cxPairs : List Val → List Lane
  | a :: b :: l => .cx a b :: cxPairs l
  | _ => []

/-- Rows of STA from the first not yet written on. -/
def staRows (cl : Nat) (pl : EPlace) (z : Nat) : Nat → State → Job → JobRes
  | 0, s, j => .done j (if bit j.flg 0 then s.modTile cl j.acc fun t => t.clear j.m j.n else s)
  | fuel + 1, s, j =>
    let m := j.donec
    if j.m ≤ m then .done j (if bit j.flg 0 then s.modTile cl j.acc fun t => t.clear j.m j.n else s)
    else
      let t := (s.cluster cl).tile j.acc
      if t.poison.any fun c => c / 16 = m && 8 * (c % 16) < j.n then refuseJob s j 0x0D
      else
        let vals := (List.range j.n).map fun n =>
          match j.osc with
          | some o => ((t.at m n).mul o).round32 false .rne
          | none => t.at m n
        let rm := rmOf .dyn j.mode
        let cod := s.jobCod j (pl.core j) false rm z
        let lanes := if t.spectral then cxPairs vals else vals.map Lane.fp
        match pl with
        | .win c base =>
          let off := base + m * j.ldx
          let (sat, bso) := rowCounts (s.core c) cod z base off vals
          match (s.core c).engineRow cod z base off lanes none [] with
          | .error er => .fault j ⟨er.sub, er.val, 0⟩ s
          | .ok x => staRows cl pl z fuel ((s.setCore c x).tileCount cl j sat 0 bso) { j with donec := m + 1 }
        | .virt va =>
          let (sat, _) := rowCounts (s.core j.core) cod z 0 0 vals
          match s.jstoreRaw j cl (va + m * j.ldx) (fmtWidth (zfFmt z)) (lanes.map (encodeLane cod (zfFmt z))) [] with
          | .error x => stopJob j x
          | .ok s => staRows cl pl z fuel (s.tileCount cl j sat 0 0) { j with donec := m + 1 }
        | .away a => refuseJob s j 0x07 a

/-- STA (R401). -/
def staBody (cl : Nat) (s : State) (j : Job) : JobRes :=
  if !allZero [bits j.flg 2 1, j.k, j.q2.toNat, j.kstart, j.ldw] || 128 < j.m || 128 < j.n || 3 < j.acc || !j.sclOk || 11 < j.vfmt then
    refuseJob s j 0x03
  else
    match s.eplace j.part cl true j.q1 with
    | .error e => .fault j e s
    | .ok pl =>
      let z := if j.started then j.zx else s.matZone j pl j.zx
      let sp := ((s.cluster cl).tile j.acc).spectral
      let e := fmtWidth (zfFmt z)
      let cnt := if sp then j.n / 2 else j.n
      let place : Option Nat := match pl with
        | .win _ base => if rowsFit base j.ldx j.m ((e * cnt + 7) / 8) e && runFit z base j.ldx then none else some base
        | .virt va => if 8 ≤ e && (va % (e / 8) ≠ 0 || (2 ≤ j.m && j.ldx % (e / 8) ≠ 0)) then some va else none
        | .away _ => none
      if (zfDom z = 1) ≠ sp then refuseJob s j 0x08 pl.addr
      else if (sp && (j.n % 2 = 1 || fmtCls (zfFmt z) ≠ .c)) || (!sp && fmtCls (zfFmt z) ≠ .f && fmtCls (zfFmt z) ≠ .i) then
        refuseJob s j 0x03
      else
        match place with
        | some a => refuseJob s j 0x05 (Word.ofNat a)
        | none => staRows cl pl z (j.m + 1) s { j with started := true, zx := z }

/-- ACLR (R402). -/
def aclrBody (cl : Nat) (s : State) (j : Job) : JobRes :=
  if !allZero [bits j.flg 1 0, bits j.flg 7 3, j.k, j.q1.toNat, j.q2.toNat, j.kstart, j.sclf, j.ldx, j.ldw] || 128 < j.m || 128 < j.n
    || 3 < j.acc then refuseJob s j 0x03
  else .done j (s.modTile cl j.acc fun t => { t.clear j.m j.n with spectral := bit j.flg 2 })

/-- MSTAT (R404). -/
def mstatBody (cl : Nat) (s : State) (j : Job) : JobRes :=
  if !allZero [bits j.flg 1 0, bits j.flg 7 4, j.m, j.n, j.k, j.kstart, j.sclf, j.ldx, j.ldw] || 3 < j.acc then refuseJob s j 0x03
  else if j.q2.toNat % 32 ≠ 0 then refuseJob s j 0x05 j.q2
  else
    let t := (s.cluster cl).tile j.acc
    let bs := padTo 32 (leBytes 4 t.sat ++ leBytes 4 t.nan ++ leBytes 4 t.bso ++ leBytes 4 t.thr)
    let fin := fun (s : State) => .done j (s.modTile cl j.acc fun t =>
      let t := if bit j.flg 2 then { t with sat := 0, nan := 0, bso := 0 } else t
      if bit j.flg 3 then { t with thr := bits j.q1.toNat 31 0 } else t)
    match s.eplace j.part cl true j.q2 with
    | .error e => .fault j e s
    | .ok (.win c off) => fin (s.modCore c fun x => x.estore off bs none)
    | .ok (.virt va) =>
      match s.jphys j cl .write va 32 with
      | .error x => stopJob j x
      | .ok (ps, s) => fin (s.physWrite j.part ps bs)
    | .ok (.away a) => refuseJob s j 0x07 a

/-! ### The events -/

/-- Width of the wider operand, for timing (R412). -/
def Job.wide (j : Job) : Nat := max (fmtWidth (zfFmt j.zx)) (fmtWidth (zfFmt j.zw))

def ldsCost (j : Job) : Nat := blockCycles (fmtWidth (zfFmt j.zw))
def mmaCost (j : Job) : Nat := blockCycles j.wide * ((j.k + 127) / 128 - j.kstart + 1)
def cmmaCost (j : Job) : Nat := ((j.k + 63) / 64 - j.kstart) * (j.m * ((j.n * 2 ^ zfBlk j.zx + 63) / 64))

/-- LDS (R398). -/
def execLds (cluster : Nat) (s : State) : Res := .next (s.runJob cluster 0 none 0x01 ldsCost (ldsBody cluster))
/-- MMA (R399). -/
def execMma (cluster : Nat) (s : State) : Res := .next (s.runJob cluster 0 none 0x02 mmaCost (mmaBody cluster))
/-- STA (R401). -/
def execSta (cluster : Nat) (s : State) : Res := .next (s.runJob cluster 0 none 0x03 Job.m (staBody cluster))
/-- ACLR (R402). -/
def execAclr (cluster : Nat) (s : State) : Res := .next (s.runJob cluster 0 none 0x04 Job.m (aclrBody cluster))
/-- SWAPS (R398). -/
def execSwaps (cluster : Nat) (s : State) : Res := .next (s.runJob cluster 0 none 0x05 (fun _ => 1) (swapsBody cluster))
/-- CMMA (R403). -/
def execCmma (cluster : Nat) (s : State) : Res := .next (s.runJob cluster 0 none 0x06 cmmaCost (cmmaBody cluster))
/-- MSTAT (R404). -/
def execMstat (cluster : Nat) (s : State) : Res := .next (s.runJob cluster 0 none 0x07 (fun _ => 1) (mstatBody cluster))

end Sys2Proof.Machine
end

