-- ==== Sys2Proof/Machine/Transform.lean ====
section
/-!
DEFINITION. The transform unit (R405) and spectral arithmetic (R245, R246).
-/

namespace Sys2Proof.Machine

/-- c(m) and s(m) of R245: cosine and sine of 2πm/b, each rounded to FP32 under RNE. `l` is log2 b. -/
def twiddle (l m : Nat) : Val × Val :=
  let x := Val.fin false (2 * m) (-(l : Int))
  ((trigPi true x).round32 false .rne, (trigPi false x).round32 false .rne)

/-- The twiddles of a block length. -/
def twiddles (l : Nat) : List (Val × Val) := (List.range (2 ^ l)).map (twiddle l)

/-- Exact sum of values. -/
def exactSum (l : List Val) : Val :=
  match l with
  | [] => Val.zero false
  | v :: l => l.foldl (fun a x => a.add .rne x) v

/-- Forward transform of a real block (R245), stored as half as many bins (R246). -/
def fftBlock (l : Nat) (x : List Val) : List (Val × Val) :=
  let b := 2 ^ l
  let w := twiddles l
  let one := (Val.ofInt 1, Val.zero false)
  let re := fun (k : Nat) => exactSum ((List.range b).map fun n => (x.getD n .nan).mul (w.getD (k * n % b) one).1)
  let im := fun (k : Nat) => exactSum ((List.range b).map fun n => (x.getD n .nan).mul (w.getD (k * n % b) one).2.neg)
  (re 0, re (b / 2)) :: (List.range (b / 2 - 1)).map fun i => (re (i + 1), im (i + 1))

/-- The full spectrum of a stored block (R246). -/
def fullSpectrum (b : Nat) (x : List (Val × Val)) : List (Val × Val) :=
  (List.range b).map fun k =>
    if k = 0 then ((x.getD 0 (.nan, .nan)).1, Val.zero false)
    else if 2 * k = b then ((x.getD 0 (.nan, .nan)).2, Val.zero false)
    else if 2 * k < b then x.getD k (.nan, .nan)
    else let q := x.getD (b - k) (.nan, .nan); (q.1, q.2.neg)

/-- Inverse transform of a stored block (R245): exact values. -/
def ifftBlock (l : Nat) (x : List (Val × Val)) : List Val :=
  let b := 2 ^ l
  let w := twiddles l
  let one := (Val.ofInt 1, Val.zero false)
  let f := fullSpectrum b x
  (List.range b).map fun n =>
    (exactSum ((List.range b).flatMap fun k =>
      let q := f.getD k (.nan, .nan)
      let t := w.getD (k * n % b) one
      -- bins 0 and b/2 are real, so they have no imaginary product
      if k = 0 || 2 * k = b then [q.1.mul t.1] else [q.1.mul t.1, (q.2.mul t.2).neg])).scale (-(l : Int))

/-- Activations of XACT (R405). -/
def xactVal (act : Nat) (v : Val) : Val :=
  match act with
  | 1 => if v.isNan then .nan else v.greater (Val.zero false)
  | 2 => if v.isNan then Val.zero false else (v.lesser (Val.ofInt 1)).greater (Val.ofInt (-1))
  | 3 => v.abs
  | _ => v

/-- What a transform command does to one block: values read, values written. -/
inductive XfmKind where
  | fwd | inv | act (n : Nat)
  deriving DecidableEq, Repr

/-- Blocks from the first not yet written on. -/
def xfmBlocks (cl : Nat) (kind : XfmKind) (cx bx cw bw zx zw l : Nat) : Nat → State → Job → JobRes
  | 0, s, j => .done j s
  | fuel + 1, s, j =>
    let m := j.donec
    if j.m ≤ m then .done j s
    else
      let b := 2 ^ l
      let put := fun (s : State) (lanes : List Lane) =>
        let cod := s.jobCod j cw false .rne zw
        match (s.core cw).engineRow cod zw bw (bw + m * j.ldw) lanes none [] with
        | .error er => JobRes.fault j ⟨er.sub, er.val, 0⟩ s
        | .ok x => xfmBlocks cl kind cx bx cw bw zx zw l fuel (s.setCore cw x) { j with donec := m + 1 }
      match kind with
      | .fwd =>
        match s.jvals j cl (.win cx bx) zx b (m * j.ldx) with
        | .error x => stopJob j x
        | .ok (v, s) => put s ((fftBlock l v).map fun q => .cx q.1 q.2)
      | .inv =>
        match s.jcomplex j cl (.win cx bx) zx (b / 2) (m * j.ldx) with
        | .error x => stopJob j x
        | .ok (v, s) => put s ((ifftBlock l v).map Lane.fp)
      | .act n =>
        match s.jcomplex j cl (.win cx bx) zx (b / 2) (m * j.ldx) with
        | .error x => stopJob j x
        | .ok (v, s) =>
          let sp := ((ifftBlock l v).map fun y => xactVal n (y.round32 false .rne)).map fun y => y.round32 false .rne
          put s ((fftBlock l sp).map fun q => .cx q.1 q.2)

/-- The transform commands (R405): the checks at the start of a job, then its blocks. -/
def xfmBody (cl : Nat) (kind : XfmKind) (s : State) (j : Job) : JobRes :=
  let bad := match kind with
    | .act n => !allZero [bits j.flg 3 0] || 3 < n
    | _ => j.flg ≠ 0
  if bad || !allZero [j.n, j.k, bits j.q3.toNat 63 40] then refuseJob s j 0x03
  else
    match s.eplace j.part cl true j.q1, s.eplace j.part cl true j.q2 with
    | .error e, _ => .fault j e s
    | _, .error e => .fault j e s
    | .ok (.win cx bx), .ok (.win cw bw) =>
      let zx := if j.started then j.zx else s.jobZone j (.win cx bx) j.zx
      let zw := if j.started then j.zw else s.jobZone j (.win cw bw) j.zw
      let dx := match kind with | .fwd => 0 | _ => 1
      let dw := match kind with | .inv => 0 | _ => 1
      let real := fun (z : Nat) => fmtCls (zfFmt z) = .f || fmtCls (zfFmt z) = .i
      let okCls := match kind with
        | .fwd => real zx
        | .inv => real zw
        | .act _ => zfBlk zx = zfBlk zw
      let l := match kind with | .fwd => zfBlk zw | _ => zfBlk zx
      let len := fun (z d : Nat) => ((if d = 1 then 2 ^ l / 2 else 2 ^ l) * fmtWidth (zfFmt z) + 7) / 8
      if zfDom zx ≠ dx then refuseJob s j 0x08 (Word.ofNat bx)
      else if zfDom zw ≠ dw then refuseJob s j 0x08 (Word.ofNat bw)
      else if !okCls then refuseJob s j 0x03
      else if !rowsFit bx j.ldx j.m (len zx dx) (fmtWidth (zfFmt zx)) then refuseJob s j 0x05 (Word.ofNat bx)
      else if !rowsFit bw j.ldw j.m (len zw dw) (fmtWidth (zfFmt zw)) then refuseJob s j 0x05 (Word.ofNat bw)
      else xfmBlocks cl kind cx bx cw bw zx zw l (j.m + 1) s { j with started := true, zx := zx, zw := zw }
    | .ok (.win _ _), .ok wp => refuseJob s j 0x07 wp.addr
    | .ok xp, _ => refuseJob s j 0x07 xp.addr

/-- Core cycles of a transform job (R412). -/
def xfmCost (times : Nat) (j : Job) : Nat :=
  let l := max (zfBlk j.zx) (zfBlk j.zw)
  times * j.m * ((2 ^ l * l + 31) / 32)

/-- FFT (R405). -/
def execFft (cluster : Nat) (s : State) : Res := .next (s.runJob cluster 1 none 0x10 (xfmCost 1) (xfmBody cluster .fwd))
/-- IFFT (R405). -/
def execIfft (cluster : Nat) (s : State) : Res := .next (s.runJob cluster 1 none 0x11 (xfmCost 1) (xfmBody cluster .inv))
/-- XACT (R405). -/
def execXact (cluster : Nat) (s : State) : Res :=
  .next (s.runJob cluster 1 none 0x12 (xfmCost 3) fun s j => xfmBody cluster (.act (bits j.flg 7 4)) s j)

end Sys2Proof.Machine
end

