-- ==== Sys2Proof/Machine/Copy.lean ====
section
/-!
DEFINITION. The copy unit: CPY, GTHR, SCTR and FILL (R406 to R409) and the collectives (R410, R411).
-/

namespace Sys2Proof.Machine

/-! ### Elements on their way -/

/-- Class numbers of Contribution and RemOp.row. -/
def clsNum (x : FCls) : Nat := match x with | .f => 0 | .i => 1 | .c => 2 | .w => 3
def clsOf (n : Nat) : FCls := match n with | 0 => .f | 1 => .i | 2 => .c | _ => .w

/-- An element as its sender decodes it (R239): a binary32 pattern, an integer, a pair of patterns, bits. -/
def elemWord (cod : Cod) (c raw scale : Nat) : Word :=
  match fmtCls c with
  | .f => Word.ofNat (f32.encode false false .rne (decodeF cod c raw scale))
  | .i => if intSigned c then sextn (fmtWidth c) raw else Word.ofNat raw
  | .w => Word.ofNat raw
  | .c =>
    match decodeLane cod .cx c raw 0 with
    | .cx a b => Word.ofNat (f32.encode false false .rne a + 2 ^ 32 * f32.encode false false .rne b)
    | _ => 0

/-- The same as a lane of a kind (R238). -/
def wordLane (rm : RM) (k : LKind) (cls : FCls) (w : Word) : Lane :=
  let f := fun (n : Nat) => f32.decode false false (n % 2 ^ 32)
  match k with
  | .int => .int w
  | .fp => .fp (match cls with | .i => (Val.ofInt w.toInt).round32 false rm | _ => f w.toNat)
  | .cx =>
    match cls with
    | .c => .cx (f w.toNat) (f (w.toNat / 2 ^ 32))
    | .i => .cx ((Val.ofInt w.toInt).round32 false rm) (Val.zero false)
    | _ => .cx (f w.toNat) (Val.zero false)

/-- A value of FILL in the lanes of a class (R408). -/
def fillWord (cls : FCls) (x : Word) : Word := match cls with | .f => Word.ofNat (x.toNat % 2 ^ 32) | _ => x

/-- Lanes of a row for a destination format: none where a complex value has no complex destination (R238). -/
def rowLanes (rm : RM) (cls dst : FCls) (l : List Word) : Option (List Lane) :=
  let k := laneKind [cls, dst]
  if k = .cx && dst ≠ .c then none else some (l.map (wordLane rm k cls))

/-- A row arriving at a core's local memory (R406, R408, R227): moved as bits, or converted to the zone's format. -/
def Core.putRow (x : Core) (cod : Cod) (z base off width cls : Nat) (l : List Word) (bad : List Bool) : Except SegErr Core :=
  if cls = 4 then x.engineBits width base off (l.map BitVec.toNat) (some cod.te) bad
  else
    let dst := fmtCls (zfFmt z)
    let lanes := if cls = 5 then rowLanes cod.rm dst dst (l.map (fillWord dst)) else rowLanes cod.rm (clsOf cls) dst l
    match lanes with
    | none => .error ⟨0x03, Word.ofNat off, 0⟩
    | some lanes => x.engineRow cod z base off lanes (some cod.te) bad

/-! ### Ends of a copy -/

/-- A row of a source: width of its elements, class (4 when they move as bits), elements, poison. -/
structure Row where
  width : Nat
  cls : Nat
  vals : List Word
  bad : List Bool
  deriving DecidableEq, Repr

/-- Rounding mode and FTZ of a copy job: MODE as it took it at dispatch (R406). -/
def State.copyCod (s : State) (j : Job) (c z : Nat) : Cod := s.jobCod j c (modeFtz j.mode) (rmOf .dyn j.mode) z

/-- A row from elements: moved as bits, or decoded. -/
def rowOf (cod : Cod) (z : Nat) (raw : Bool) (l : List (Nat × Nat × Bool)) : Row :=
  let c := zfFmt z
  { width := fmtWidth c, cls := if raw then 4 else clsNum (fmtCls c),
    vals := l.map fun q => if raw then Word.ofNat q.1 else elemWord cod c q.1 q.2.1,
    bad := l.map fun q => q.2.2 }

/-- The elements of a reply to RemOp.elems. -/
def replyElems (v n : Nat) : Nat × List (Nat × Nat × Bool) :=
  (v % 2 ^ 64, (List.range n).map fun i =>
    let w := v / 2 ^ (64 + 80 * i)
    (w % 2 ^ 64, w / 2 ^ 64 % 2 ^ 8, bit w 72))

/-- CB4 elements with the codebook entries that they decode to, from bit 16 on (R232). -/
def bookElems (book : List Nat) (l : List (Nat × Nat × Bool)) : List (Nat × Nat × Bool) :=
  l.map fun q => (q.1 + 2 ^ 16 * book.getD (q.1 % 16) 0, q.2)

/-- The codebook entries that such elements show. -/
def elemsBook (l : List (Nat × Nat × Bool)) : List Nat :=
  (List.range 16).map fun i => ((l.find? fun q => q.1 % 16 = i).map fun q => q.1 / 2 ^ 16).getD 0

/-- Elements of a reply in a format, and the decoding context for them. -/
def replyCod (cod : Cod) (z : Nat) (l : List (Nat × Nat × Bool)) : Cod × List (Nat × Nat × Bool) :=
  if zfFmt z = 18 then ({ cod with book := elemsBook l }, l.map fun q => (q.1 % 16, q.2)) else (cod, l)

/-- The reply to RemOp.elems. -/
def packReply (z : Nat) (l : List (Nat × Nat × Bool)) : Nat :=
  z + 2 ^ 64 * l.foldr (fun q acc => q.1 + 2 ^ 64 * q.2.1 + 2 ^ 72 * b2n q.2.2 + 2 ^ 80 * acc) 0

/-- Sends a request of a job to another device: its deliveries are ORD traffic from the issuing core (R15), its reads REQ. -/
def State.jobSend (s : State) (j : Job) (store : Bool) (ea : Word) (op : RemOp) : State :=
  let req : RemReq := ⟨s.nextId, s.devnum, j.core, s.tsidOf j.core, ea, op⟩
  let ord := if store then some (ordKey s.devnum j.core, ordKey (winDev ea.toNat) (winCore ea.toNat)) else none
  s.gondola j.core j.sth j.lid ord req (if store then .jstore req j.eng j.seq s.fab else .jload req j.eng j.seq s.fab)

/-- What a job does with a remote read: send it, take its reply, or end; with no port up it is refused (R30). -/
def State.jobAsk (s : State) (j : Job) (ea : Word) (op : RemOp) (k : Nat → Job → JobRes) : JobRes :=
  match j.got with
  | none =>
    if s.upPorts (winDev ea.toNat) = [] then .fault j ⟨0x07, ea, 1⟩ s else .wait j .remote (s.jobSend j false ea op)
  | some none => .fault j ⟨0x0D, ea, 1⟩ s
  | some (some .refused) => .fault j ⟨0x07, ea, 1⟩ s
  | some (some .poison) => .fault j ⟨0x0D, ea, 1⟩ s
  | some (some (.fault sub)) => .fault j ⟨sub, ea, 1⟩ s
  | some (some (.data v)) => k v { j with got := none }
  | some (some .ack) => k 0 { j with got := none }

/-- Reads a row of `n` elements of a source end at byte offset `off`; `z` is the format in which a local or virtual end
holds them. -/
def State.copyRow (s : State) (j : Job) (cl : Nat) (pl : EPlace) (z : Nat) (raw : Bool) (n off : Nat)
    (k : Row → Job → State → JobRes) : JobRes :=
  match pl with
  | .away a =>
    s.jobAsk j (a + BitVec.ofNat 64 off) (.elems n (!raw)) fun v j =>
      let (z, l) := replyElems v n
      let (cod, l) := replyCod (s.copyCod j j.core z) z l
      k (rowOf cod z raw l) j s
  | _ =>
    match s.jelems j cl pl z (!raw) n off with
    | .error x => stopJob j x
    | .ok (l, s) =>
      if !raw && s.bookPoisoned (pl.core j) z then .fault j ⟨0x0D, pl.addr + BitVec.ofNat 64 off, 1⟩ s
      else k (rowOf (s.copyCod j (pl.core j) z) z raw l) j s

/-- The destination bytes that a channel's job has delivered grow (R168, R394). -/
def State.delivered (s : State) (cl : Nat) (j : Job) (n : Nat) : State :=
  s.modCluster cl fun x => { x with chanPtr := x.chanPtr.put j.chan (x.chanPtr.lookD j.chan 0 + n) }

/-- Bytes of a row at a destination of format `z`. -/
def rowBytes (z : Nat) (r : Row) : Nat := ((if r.cls = 4 then r.width else fmtWidth (zfFmt z)) * r.vals.length + 7) / 8

/-- Where the rows of a copy start on core `d`: MCAST names an offset, which on each core goes where that core's zone goes
(R138, R406). -/
def State.castBase (s : State) (j : Job) (mcast d base : Nat) : Nat := if mcast = 0 then base else s.jobOff j d base

/-- Writes a row at a destination end: `z` is its format, and MCAST names several cores of the cluster (R406), whose formats
were read as the job started (R386). A row for another device is sent, and the job waits until it is written there (R26,
R394). -/
def State.putEnd (s : State) (j : Job) (cl : Nat) (pl : EPlace) (z mcast off : Nat) (r : Row)
    (k : Job → State → JobRes) : JobRes :=
  match pl with
  | .win c base =>
    let cores := if mcast = 0 then [c] else (clusterCores cl).filter fun d => bit mcast (d % 8)
    let out : Except SegErr State := cores.foldl (fun a d =>
      match a with
      | .error er => .error er
      | .ok s =>
        let z := j.zfs.lookD d z
        let base := s.castBase j mcast d base
        match (s.core d).putRow (s.copyCod j d z) z base (base + off) r.width r.cls r.vals r.bad with
        | .error er => .error er
        | .ok x => .ok (s.setCore d x)) (.ok s)
    match out with
    | .error er => .fault j ⟨er.sub, er.val, 0⟩ s
    | .ok s => k j s
  | .virt va =>
    let cod := s.copyCod j j.core z
    let raws :=
      if r.cls = 4 then some (r.width, r.vals.map BitVec.toNat)
      else
        let dst := fmtCls (zfFmt z)
        let lanes := if r.cls = 5 then rowLanes cod.rm dst dst (r.vals.map (fillWord dst)) else rowLanes cod.rm (clsOf r.cls) dst r.vals
        lanes.map fun l => (fmtWidth (zfFmt z), l.map (encodeLane cod (zfFmt z)))
    match raws with
    | none => refuseJob s j 0x03
    | some (e, l) =>
      if 8 ≤ e && (va + off) % (e / 8) ≠ 0 then refuseJob s j 0x05 (Word.ofNat (va + off))
      else
        match s.jstoreRaw j cl (va + off) e l r.bad with
        | .error x => stopJob j x
        | .ok s => k j s
  | .away a =>
    let ea := a + BitVec.ofNat 64 off
    if s.upPorts (winDev ea.toNat) = [] then .fault j ⟨0x07, ea, 2⟩ s
    else .wait { j with out := j.out + 1, half := true } .acks
      (s.jobSend j true ea (.row j.te j.mode r.width r.cls r.vals r.bad))

/-- The end of a job whose writes are done: it waits for the acknowledgements of remote ones (R26). -/
def finishCopy (j : Job) (s : State) : JobRes := if j.out = 0 then .done j s else .wait j .acks s

/-- Rows of a job of the copy unit from the first not yet written on (R168, R406, R407): `row` reads one, `off` gives its
place at the destination. A job may stand between two rows (log entry 43); a row that another device has written counts
when its acknowledgement is back. -/
def copyRows (cl : Nat) (wp : EPlace) (zw mcast : Nat) (off : Nat → Nat)
    (row : State → Job → Nat → (Row → Job → State → JobRes) → JobRes) : Nat → State → Job → JobRes
  | 0, s, j => finishCopy j s
  | fuel + 1, s, j =>
    match j.failed with
    | some sub => refuseJob s j sub (wp.addr + BitVec.ofNat 64 (off j.donec))
    | none =>
      let next := fun (n : Nat) (j : Job) (s : State) =>
        let j := { j with donec := j.donec + 1, half := false, wrote := 0 }
        let s := s.delivered cl j n
        let (stand, s) := if j.m ≤ j.donec then (0, s) else s.choose
        if stand ≠ 0 then .wait j .running s else copyRows cl wp zw mcast off row fuel s j
      if j.half then next j.wrote j s
      else if j.m ≤ j.donec then finishCopy j s
      else row s j j.donec fun r j s => s.putEnd j cl wp zw mcast (off j.donec) r fun j s => next (rowBytes zw r) j s

/-- Rows of a copy in local memory lie in one zone, aligned for their elements (R396), on this device or another. -/
def endFits (pl : EPlace) (offs : List Nat) (n e : Nat) : Bool :=
  let rows := fun (base : Nat) => offs.all fun o => n = 0 || e = 0 ||
    (inZone base (base + o) (base + o + (n * e + 7) / 8) && (e < 8 || (base + o) % (e / 8) = 0))
  match pl with
  | .win _ base => rows base
  | .virt va => offs.all fun o => e < 8 || (va + o) % (e / 8) = 0
  | .away a => rows (winOff a.toNat)

def EPlace.isVirt : EPlace → Bool
  | .virt _ => true
  | _ => false

def EPlace.isAway : EPlace → Bool
  | .away _ => true
  | _ => false

/-- The formats of the two ends of a CPY (R406): source and destination ZF values and whether bits move unchanged;
none where a half of SCL is not accepted. -/
def copyFormats (xv wv : Bool) (zx zw scl : Nat) : Option (Nat × Nat × Bool) :=
  let lo := bits scl 3 0
  let hi := bits scl 7 4
  if xv && wv then (if scl = 0 then some (25, 25, true) else none)
  else if !xv && !wv then (if 1 < lo || 1 < hi then none else some (zx, zw, scl = 0))
  else if xv then
    if 1 < hi || 13 < lo then none
    else match memFmt lo with
      | none => some (zw, zw, true)
      | some f => some (f, zw, false)
  else
    if 1 < lo || 13 < hi then none
    else match memFmt hi with
      | none => some (zx, zx, true)
      | some f => some (zx, f, false)

/-- The formats of the zones at W's offset on the cores of a mask, as the job starts: the issuing core's as its ENQ captured
it, where W names that core (R386). -/
def State.mcastZones (s : State) (j : Job) (cl mcast : Nat) (wp : EPlace) : KMap Nat :=
  match wp with
  | .win c base =>
    ((clusterCores cl).filter fun d => bit mcast (d % 8)).map fun d =>
      (d, if d = c then s.jobZone j wp j.zw else (s.core d).zone (zoneOf (s.castBase j mcast d base)))
  | _ => []

/-- The destination rows of a CPY fit on every core that they go to, in each core's own zone (R406). -/
def State.destFits (s : State) (j : Job) (wp : EPlace) (mcast : Nat) (offs : List Nat) (width : Nat → Nat) (z : Nat) : Bool :=
  match wp with
  | .win _ base =>
    if mcast = 0 then endFits wp offs j.k (width z)
    else j.zfs.all fun e => endFits (.win e.1 (s.castBase j mcast e.1 base)) offs j.k (width e.2)
  | _ => endFits wp offs j.k (width z)

/-- The format of an end on another device, which the job asks for once (R396); `n` counts those that it has asked for. -/
def State.askZone (s : State) (j : Job) (pl : EPlace) (n : Nat) (known : Nat) (k : Nat → Job → State → JobRes) : JobRes :=
  match pl with
  | .away a =>
    if n < j.idx.length then k (j.idx.getD n 0) j s
    else s.jobAsk j a (.elems 0 false) fun v j => let z := (replyElems v 0).1; k z { j with idx := j.idx ++ [z] } s
  | _ => k known j s

/-- CPY once the formats of its zones are known: its rules are checked before any row is read or written (R396). -/
def cpyRows (cl : Nat) (s : State) (j : Job) (xp wp : EPlace) : JobRes :=
  let mcast := bits j.n 7 0
  match copyFormats xp.isVirt wp.isVirt j.zx j.zw j.sclf with
  | none => refuseJob s j 0x03
  | some (fx, fw, raw) =>
    let rows := List.range j.m
    let ex := fmtWidth (zfFmt fx)
    let ew := fun (z : Nat) => if raw then ex else fmtWidth (zfFmt z)
    if mcast ≠ 0 && wp.isVirt then refuseJob s j 0x07 j.q2
    else if !endFits xp (rows.map (· * j.ldx)) j.k ex then refuseJob s j 0x05 xp.addr
    else if !s.destFits j wp mcast (rows.map (· * j.ldw)) ew fw then refuseJob s j 0x05 wp.addr
    else
      copyRows cl wp fw mcast (· * j.ldw) (fun s j r k => s.copyRow j cl xp fx raw j.k (r * j.ldx) k) (j.m + 1) s
        { j with started := true }

/-- CPY (R406). The formats of ends on another device are asked for first; those on this device are as the job finds them at
its start (R386). -/
def cpyBody (cl : Nat) (s : State) (j : Job) : JobRes :=
  let mcast := bits j.n 7 0
  if !allZero [bits j.flg 1 0, bits j.flg 7 6, bits j.n 15 8, j.kstart, j.acc] then refuseJob s j 0x03
  else
    match s.eplace j.part cl false j.q1, s.eplace j.part cl (mcast ≠ 0) j.q2 with
    | .error e, _ => .fault j e s
    | _, .error e => .fault j e s
    | .ok xp, .ok wp =>
      if j.started then cpyRows cl s j xp wp
      else
        let first := j.got.isNone && j.idx = []
        let j := if !first then j
          else { j with zx := s.jobZone j xp j.zx, zw := s.jobZone j wp j.zw, zfs := s.mcastZones j cl mcast wp }
        s.askZone j xp 0 j.zx fun zx j s => s.askZone j wp (b2n xp.isAway) j.zw fun zw j s =>
          cpyRows cl s { j with zx := zx, zw := zw } xp wp

/-- GTHR and SCTR (R407): rows of bytes, through indices read at the start of the job. -/
def indexedBody (cl : Nat) (scatter : Bool) (s : State) (j : Job) : JobRes :=
  if !allZero [bits j.flg 1 0, bits j.flg 7 6, j.n] then refuseJob s j 0x03
  else
    match s.eplace j.part cl false j.q1, s.eplace j.part cl false j.q2 with
    | .error e, _ => .fault j e s
    | _, .error e => .fault j e s
    | .ok xp, .ok wp =>
      let x := s.core j.core
      if j.idxo % 4 ≠ 0 || 2 ^ 19 < j.idxo + 4 * j.m then refuseJob s j 0x05 (Word.ofNat j.idxo)
      else if !j.started && x.lpoisoned j.idxo (4 * j.m) then refuseJob s j 0x0D (Word.ofNat j.idxo)
      else
        let idx := if j.started then j.idx else (List.range j.m).map fun r => x.lmem.read (j.idxo + 4 * r) 4
        let at' := fun (r : Nat) => idx.getD r 0
        let src := fun (r : Nat) => (if scatter then r else at' r) * j.ldx
        let dst := fun (r : Nat) => (if scatter then at' r else r) * j.ldw
        let rows := List.range j.m
        if !endFits xp (rows.map src) j.k 8 then refuseJob s j 0x05 xp.addr
        else if !endFits wp (rows.map dst) j.k 8 then refuseJob s j 0x05 wp.addr
        else
          let row := fun (s : State) (j : Job) (r : Nat) (k : Row → Job → State → JobRes) =>
            match xp with
            | .away a => -- bytes of another device are read as bytes, poisoned ones among them (R266)
              s.jobAsk j (a + BitVec.ofNat 64 (src r)) (.bytes j.k) fun v j =>
                k (rowOf (s.copyCod j j.core 25) 25 true (replyElems v j.k).2) j s
            | _ => s.copyRow j cl xp 25 true j.k (src r) k
          copyRows cl wp 25 0 dst row (j.m + 1) s { j with started := true, idx := idx }

/-- FILL (R408). -/
def fillBody (cl : Nat) (s : State) (j : Job) : JobRes :=
  let hi := bits j.sclf 7 4
  if !allZero [bits j.flg 1 0, bits j.flg 7 6, j.n, j.kstart, j.acc, j.ldx, bits j.sclf 3 0] then refuseJob s j 0x03
  else
    match s.eplace j.part cl false j.q2 with
    | .error e => .fault j e s
    | .ok wp =>
      let first := !j.started && j.got.isNone
      s.askZone j wp 0 (if first then s.jobZone j wp j.zw else j.zw) fun zw j s =>
      let z := if wp.isVirt then (memFmt hi).getD 25 else zw
      let e := fmtWidth (zfFmt z)
      if (wp.isVirt && 13 < hi) || (!wp.isVirt && 1 < hi) then refuseJob s j 0x03
      else if !endFits wp ((List.range j.m).map (· * j.ldw)) j.k e then refuseJob s j 0x05 wp.addr
      else
        let row : Row := if wp.isVirt && hi = 0
          then ⟨8, 4, List.replicate j.k (Word.ofNat (bits j.q1.toNat 7 0)), []⟩
          else ⟨64, 5, List.replicate j.k j.q1, []⟩
        copyRows cl wp z 0 (· * j.ldw) (fun s j _ k => k row j s) (j.m + 1) s { j with started := true, zw := zw }

/-- Core cycles of a copy job (R412): 32 bytes in a cycle. -/
def copyCost (j : Job) : Nat := (j.donec * j.k * fmtWidth (zfFmt j.zw) / 8 + 31) / 32

/-- CPY (R406). -/
def execCpy (cluster chan : Nat) (s : State) : Res := .next (s.runJob cluster 2 (some chan) 0x20 copyCost (cpyBody cluster))
/-- GTHR (R407). -/
def execGthr (cluster chan : Nat) (s : State) : Res :=
  .next (s.runJob cluster 2 (some chan) 0x21 copyCost (indexedBody cluster false))
/-- SCTR (R407). -/
def execSctr (cluster chan : Nat) (s : State) : Res :=
  .next (s.runJob cluster 2 (some chan) 0x22 copyCost (indexedBody cluster true))
/-- FILL (R408). -/
def execFill (cluster chan : Nat) (s : State) : Res := .next (s.runJob cluster 2 (some chan) 0x23 copyCost (fillBody cluster))

/-! ### Collectives (R410, R411) -/

/-- It names the same command, members, elements and root. -/
def Job.agrees (j : Job) (cmd m k scl : Nat) : Bool := j.ecmd = cmd && j.m = m && j.k = k && (cmd ≠ 0x31 || j.sclf = scl)

/-- The descriptor of a collective's job: as it read it at its start, or, of one still queued, as its memory now holds it. -/
def State.jobDesc (s : State) (cl : Nat) (j : Job) : List Word :=
  if j.desc ≠ [] then j.desc
  else if 0x30 ≤ j.ecmd && j.ecmd ≤ 0x32 && j.m ≤ 256 then
    match s.jphys j cl .read j.q2.toNat (8 * j.m) with
    | .ok (ps, s) => leWords j.m ((s.physBytes (s.part j.part).keyGen ps).map Prod.fst)
    | .error _ => []
  else []

/-- A job of a collective of a partition that names a TAG and a descriptor. -/
def State.inColl (s : State) (cl pno tag : Nat) (desc : List Word) (j : Job) : Bool :=
  j.part = pno && 0x30 ≤ j.ecmd && j.ecmd ≤ 0x32 && j.ldw = tag && j.m ≠ 0 && descMatch (s.jobDesc cl j) desc

/-- What a member has joined under a TAG and a descriptor. -/
def Cluster.collNo? (x : Cluster) (tag rank : Nat) (desc : List Word) : Option CollNo :=
  x.collNos.find? fun e => e.tag = tag && e.rank = rank && descMatch e.desc desc

/-- A collective that a member has joined. -/
def CollNo.joined (e : CollNo) (n : Nat) : Bool := n < e.next || e.ahead.contains n

/-- The `k`-th number from `n` on that a list does not hold. -/
def nthFree (l : List Nat) : Nat → Nat → Nat → Nat
  | 0, _, n => n
  | fuel + 1, k, n =>
    if l.contains n then nthFree l fuel k (n + 1)
    else if k = 0 then n
    else nthFree l fuel (k - 1) (n + 1)

/-- Which collective of its TAG and descriptor a job belongs to (R410): the member's jobs join them in acceptance order, so
that one not yet started comes after those accepted before it that have not started either. -/
def State.collNo (s : State) (cl : Nat) (j : Job) (desc : List Word) : Nat :=
  if j.desc ≠ [] then j.no
  else
    let x := s.cluster cl
    let k := (((x.queue 2).takeWhile fun o => o.seq ≠ j.seq).filter fun o =>
      o.desc = [] && o.n = j.n && s.inColl cl j.part j.ldw desc o).length
    match x.collNo? j.ldw j.n desc with
    | some e => nthFree e.ahead (k + e.ahead.length + 1) k e.next
    | none => k

/-- The numbers of a member with one more collective joined. -/
def CollNo.join (e : CollNo) (n : Nat) : CollNo :=
  let l := insertNat e.ahead n
  let next := nthFree l (l.length + 1) 0 e.next
  { e with next := next, ahead := l.filter (next < ·) }

/-- A job that has read its descriptor has joined its collective. -/
def State.joinColl (s : State) (cl : Nat) (j : Job) : State :=
  s.modCluster cl fun x =>
    match x.collNo? j.ldw j.n j.desc with
    | some e => { x with collNos := x.collNos.map fun o => if o = e then e.join j.no else o }
    | none => { x with collNos := x.collNos ++ [CollNo.join ⟨j.ldw, j.n, j.desc, 0, []⟩ j.no] }

/-- The jobs of a collective on this device, started or queued, each with its cluster. -/
def State.collJobs (s : State) (pno tag : Nat) (desc : List Word) (no : Nat) : List (Nat × Job) :=
  s.clusters.flatMap fun e =>
    ((e.2.queue 2).filter fun j => s.inColl e.1 pno tag desc j && s.collNo e.1 j desc = no).map fun j => (e.1, j)

/-- A member that disagrees ends every job of its collective with SUB 0x03 (R411). -/
def State.collFail (s : State) (l : List (Nat × Job)) : State :=
  l.foldl (fun s q => s.jobEnd q.1 q.2 (.fault 0x03) ⟨0x03, 0, 0⟩) s

/-- The member at a contribution's receive buffer has joined that collective, and its job has ended. -/
def State.collOver (s : State) (jobs : List (Nat × Job)) (c : Contribution) : Bool :=
  (s.clusters.any fun e => e.2.collNos.any fun o =>
    o.tag = c.tag && descMatch o.desc c.desc && o.desc.getD o.rank 0 = c.dest && o.joined c.no)
  && !jobs.any fun q => q.2.own = c.dest

/-- A contribution arrives at a member's receive buffer: the cluster of the buffer's core keeps it, and the member's job, of
whichever cluster, goes on. One that comes when that job has ended is dropped. -/
def State.contribArrive (s : State) (pno : Nat) (c : Contribution) : State :=
  let jobs := s.collJobs pno c.tag c.desc c.no
  if jobs.any fun q => !q.2.agrees c.cmd c.desc.length c.k c.scl then s.collFail jobs
  else if (c.cmd = 0x31 && c.rank ≠ c.scl) || s.collOver jobs c then s
  else
    let s := s.modCluster (clusterOf (winCore c.dest.toNat)) fun x => { x with contribs := x.contribs ++ [c] }
    jobs.foldl (fun (s : State) q =>
      if q.2.own = c.dest && q.2.st = .gathering then s.setJob q.1 { q.2 with st := .running } else s) s

/-- A contribution that a job takes. -/
def contribSuits (c : Contribution) (j : Job) : Bool :=
  c.dest = j.own && c.tag = j.ldw && c.cmd = j.ecmd && c.desc = j.desc && c.no = j.no

/-- The oldest contribution of a rank for a job. -/
def Cluster.contrib (x : Cluster) (j : Job) (r : Nat) : Option Contribution := x.contribs.find? fun c => contribSuits c j && c.rank = r

/-- Removes the contributions of some ranks for a job. -/
def State.contribsDrop (s : State) (j : Job) (ranks : List Nat) : State :=
  s.modCluster j.bufCluster fun x => { x with contribs := x.contribs.filter fun c => !(contribSuits c j && ranks.contains c.rank) }

/-- Bytes of `n` elements of a job's receive buffer. -/
def Job.bufBytes (j : Job) (n : Nat) : Nat := (fmtWidth (zfFmt j.zw) * n + 7) / 8

/-- The pieces of an all-gather that have arrived from rank 0 on without a gap: the write pointer counts in ascending
address order (R168, R394). -/
def Job.prefixPieces (j : Job) : Nat := ((List.range j.m).takeWhile fun r => j.pieces.contains r).length

/-- Sends a job's contribution to every member (R410), or only to those of other devices. A broadcast's other members
send one without elements, by which a disagreement is found. -/
def State.contribute (s : State) (j : Job) (all : Bool) (cls : Nat) (vals : List Word) (bad : List Bool) : Job × State :=
  let root := j.ecmd ≠ 0x31 || j.n = j.sclf
  j.desc.foldl (fun a d =>
    let (j, s) := a
    let c : Contribution := ⟨d, j.ldw, j.desc, j.ecmd, j.n, j.k, j.sclf, j.te, cls, if root then vals else [], if root then bad else [], j.no⟩
    if s.winHere d.toNat then (j, if all then s.contribArrive j.part c else s)
    else ({ j with out := j.out + 1 }, s.jobSend j true d (.contrib c))) (j, s)

/-- Sum of two lanes under RNE (R410). -/
def collAdd (a b : Lane) : Lane :=
  match a, b with
  | .fp x, .fp y => .fp ((x.add .rne y).round32 false .rne)
  | .int x, .int y => .int (x + y)
  | .cx a b, .cx c d => .cx ((a.add .rne c).round32 false .rne) ((b.add .rne d).round32 false .rne)
  | l, _ => l

/-- Element-wise sum of rows of lanes, in order. -/
def collSum : List (List Lane) → List Lane
  | [] => []
  | l :: ls => ls.foldl (fun a b => List.zipWith collAdd a b) l

/-- Where a job's receive buffer starts on its core (R138). -/
def State.ownOff (s : State) (j : Job) : Nat := s.jobOff j (winCore j.own.toNat) (winOff j.own.toNat)

/-- Writes a row of words in a job's receive buffer, `at'` elements from its start. -/
def State.collWrite (s : State) (j : Job) (te : Bool) (at' cls : Nat) (vals : List Word) (bad : List Bool) : Except SegErr State :=
  let c := winCore j.own.toNat
  let off := s.ownOff j
  let e := fmtWidth (zfFmt j.zw)
  if at' * e % 8 ≠ 0 then .error ⟨0x05, Word.ofNat off, 0⟩
  else
    match (s.core c).putRow { s.copyCod j c j.zw with te := te } j.zw off (off + at' * e / 8) 0 cls vals bad with
    | .error er => .error er
    | .ok x => .ok (s.setCore c x)

/-- Takes into a job's receive buffer, which lies on this device, what has arrived for it: the job, whose DONE notes that its
buffer holds the result, and the state. -/
def State.collTake (s : State) (j : Job) : Except SegErr (Job × State) :=
  let x := s.cluster j.bufCluster
  let ranks := List.range j.m
  if j.ecmd = 0x30 then
    let cs := ranks.filterMap (x.contrib j)
    if cs.length < j.m then .ok (j, s)
    else
      let dst := fmtCls (zfFmt j.zw)
      let k := laneKind (dst :: cs.map fun c => clsOf c.cls)
      let off := s.ownOff j
      let c := winCore j.own.toNat
      let cod := s.copyCod j c j.zw
      if k = .cx && dst ≠ .c then .error ⟨0x03, 0, 0⟩
      else
        let lanes := collSum (cs.map fun c => c.vals.map (wordLane cod.rm k (clsOf c.cls)))
        let bad := (List.range j.k).map fun i => cs.any fun c => c.bad.getD i false
        match (s.core c).engineRow cod j.zw off off lanes (some j.te) bad with
        | .error er => .error er
        | .ok y => .ok ({ j with donec := 1 }, (s.setCore c y).contribsDrop j ranks)
  else if j.ecmd = 0x31 then
    match x.contrib j j.sclf with
    | none => .ok (j, s)
    | some c =>
      match s.collWrite j c.te 0 c.cls c.vals c.bad with
      | .error er => .error er
      | .ok s => .ok ({ j with donec := 1 }, s.contribsDrop j ranks)
  else
    let new := ranks.filter fun r => !j.pieces.contains r && (x.contrib j r).isSome
    let out : Except SegErr State := new.foldl (fun a r =>
      match a with
      | .error er => .error er
      | .ok s =>
        match x.contrib j r with
        | none => .ok s
        | some c => s.collWrite j c.te (r * j.k) c.cls c.vals c.bad) (.ok s)
    match out with
    | .error er => .error er
    | .ok s =>
      let j' := { j with pieces := new.foldl insertNat j.pieces }
      .ok (if j'.pieces.length < j.m then j' else { j' with donec := 1 }, s.contribsDrop j new)

/-- Bytes that a collective has delivered to its job's buffer, as its channel's write pointer counts them (R168, R394). -/
def Job.gotBytes (j : Job) : Nat := if j.ecmd = 0x32 then j.bufBytes (j.prefixPieces * j.k) else if j.donec = 1 then j.bufBytes j.k else 0

/-- The job of a collective after its buffer has taken in what had come: it completes, or gathers on. -/
def collStep (cl : Nat) (s : State) (j j' : Job) (more : Job → State → JobRes) : JobRes :=
  let s := s.delivered cl j (j'.gotBytes - j.gotBytes)
  if j'.donec = 1 then finishCopy j' s else more j' s

/-- What a started job does with the contributions that have arrived. Where its receive buffer lies on another device, that
device takes them in (DEDUCED, log entry 142): the job asks until the result is whole. -/
def collGather (cl : Nat) (s : State) (j : Job) : JobRes :=
  match j.failed with
  | some sub => refuseJob s j sub j.own
  | none =>
    if j.donec = 1 then finishCopy j s
    else if s.winHere j.own.toNat then
      match s.collTake j with
      | .error er => .fault j ⟨er.sub, er.val, 0⟩ s
      | .ok (j', s) => collStep cl s j j' fun j s => .wait j .gathering s
    else
      let ask := fun (j : Job) (s : State) (k : Nat → Job → JobRes) =>
        s.jobAsk j j.own (.collect j.ldw j.desc j.ecmd j.n j.no j.k j.sclf j.te j.mode j.pieces) k
      ask j s fun v j =>
        let j' := { j with donec := v % 2, pieces := (List.range j.m).filter fun r => bit v (r + 1) }
        collStep cl s j j' fun j s => ask j s fun _ j => .wait j .gathering s

/-- The pieces of a collective fit a receive buffer (R396, R410). -/
def collFits (j : Job) (own : EPlace) (e : Nat) : Bool :=
  if j.ecmd = 0x32 then ((List.range j.m).all fun r => r * j.k * e % 8 = 0) && endFits own [0] (j.m * j.k) e
  else endFits own [0] j.k e

/-- A collective job that knows its receive buffer's format: its rules are checked before anything is written, then its
contribution is made. -/
def collJoin (cl : Nat) (s : State) (j : Job) (c base : Nat) (own : EPlace) : JobRes :=
  if !collFits j own (fmtWidth (zfFmt j.zw)) then refuseJob s j 0x05 j.own
  else
    match s.jelems j cl (.win c base) j.zx true j.k 0 with
    | .error x => stopJob j x
    | .ok (l, s) =>
      let row := rowOf (s.copyCod j c j.zx) j.zx false l
      let j := { j with started := true }
      let others := (s.collJobs j.part j.ldw j.desc j.no).filter fun q => !(q.1 = cl && q.2.seq = j.seq)
      let clash := others.any fun q => !q.2.agrees j.ecmd j.m j.k j.sclf
      let early := (s.cluster j.bufCluster).contribs.any fun k =>
        contribOf j k && !j.agrees k.cmd k.desc.length k.k k.scl
      if clash || (s.winHere j.own.toNat && early) then
        let (j, s) := s.contribute j false row.cls row.vals row.bad
        .fault j ⟨0x03, 0, 0⟩ (s.collFail others)
      else
        let (j, s) := (s.setJob cl j).contribute j true row.cls row.vals row.bad
        collGather cl s j

/-- A collective job that has read its descriptor (R410): the buffers that it names, and the format of its own. -/
def collOwn (cl : Nat) (s : State) (j : Job) (c base : Nat) : JobRes :=
  let there := fun (d : Word) => 2 ^ 57 ≤ d.toNat || !isWindow d.toNat || s.winBad d.toNat
    || (s.winHere d.toNat && s.corePart (winCore d.toNat) ≠ some j.part)
    || (!s.winHere d.toNat && s.upPorts (winDev d.toNat) = [])
  if j.desc.any there then refuseJob s j 0x07 j.q2
  else
    let own := if s.winHere j.own.toNat then EPlace.win (winCore j.own.toNat) (s.ownOff j) else .away j.own
    s.askZone j own 0 ((s.core (winCore j.own.toNat)).zone (zoneOf (s.ownOff j))) fun z j s => collJoin cl s { j with zw := z } c base own

/-- A collective job (R410): its checks, the descriptor, its contribution, then what has arrived. -/
def collBody (cl : Nat) (s : State) (j : Job) : JobRes :=
  if j.started then collGather cl s j
  else if !allZero [bits j.flg 1 0, bits j.flg 7 6, j.kstart, j.acc, j.ldx] || (j.ecmd ≠ 0x31 && j.sclf ≠ 0) || j.m < 2
    || 256 < j.m || j.m ≤ j.n || 16384 < j.k || (j.ecmd = 0x31 && j.m ≤ j.sclf) then refuseJob s j 0x03
  else
    match s.eplace j.part cl true j.q1, s.eplace j.part cl false j.q2 with
    | .error e, _ => .fault j e s
    | _, .error e => .fault j e s
    | .ok (.win c base), .ok (.virt va) =>
      if c ≠ j.core then refuseJob s j 0x07 j.q1
      else if va % 64 ≠ 0 then refuseJob s j 0x05 j.q2
      else if j.desc ≠ [] then collOwn cl s j c base
      else
        match s.jphys j cl .read va (8 * j.m) with
        | .error x => stopJob j x
        | .ok (ps, s) =>
          let bs := s.physBytes (s.part j.part).keyGen ps
          if bs.any fun b => b.2 then refuseJob s j 0x0D j.q2
          else
            let desc := leWords j.m (bs.map Prod.fst)
            let j := { j with no := s.collNo cl j desc, desc := desc }
            collOwn cl (s.joinColl cl j) j c base
    | .ok (.win _ _), .ok wp => refuseJob s j 0x07 wp.addr
    | .ok xp, _ => refuseJob s j 0x07 xp.addr

/-- ARED (R410). -/
def execAred (cluster chan : Nat) (s : State) : Res := .next (s.runJob cluster 2 (some chan) 0x30 copyCost (collBody cluster))
/-- BCST (R410). -/
def execBcst (cluster chan : Nat) (s : State) : Res := .next (s.runJob cluster 2 (some chan) 0x31 copyCost (collBody cluster))
/-- AGTH (R410). -/
def execAgth (cluster chan : Nat) (s : State) : Res := .next (s.runJob cluster 2 (some chan) 0x32 copyCost (collBody cluster))

/-- COLLECTIVE_CONTRIBUTION (R410): a contribution arrives at a receive buffer of this device. -/
def execCollectiveContribution (msg : Contribution) (s : State) : Res :=
  let a := msg.dest.toNat
  if a < 2 ^ 57 && isWindow a && s.winHere a then
    match s.corePart (winCore a) with
    | some pno => .next (s.contribArrive pno msg)
    | none => .next s
  else .next s

/-- A collective's job lacks a contribution: it gathers, here or, by asking, on another device, or it parks before it has
made its own, or it waits behind a job of its channel that does not go on. -/
def Cluster.collLacks (x : Cluster) (j : Job) : Bool :=
  0x30 ≤ j.ecmd && j.ecmd ≤ 0x32 && (match j.st with
    | .gathering | .remote => true
    | .parked _ _ _ _ => !j.started
    | .queued => ((x.headJob 2 (some j.chan)).map Job.runnable) = some false
    | _ => false)

/-- The job of a channel that a collective's time-out ends first: the one accepted first. -/
def Cluster.collDue (x : Cluster) (chan : Nat) : Option Job :=
  (x.queue 2).find? fun j => j.chan = chan && x.collLacks j

/-- COLLECTIVE_TIMEOUT (R411): 2^24 fabric cycles after its job's acceptance a collective that lacks a contribution ends that
job. -/
def execCollectiveTimeout (cluster chan : Nat) (s : State) : Res :=
  match (s.cluster cluster).collDue chan with
  | some j => .next ((s.pass (Config.clkAt (j.acceptedFab + 2 ^ 24))).jobEnd cluster j (.fault 0x0D) ⟨0x0D, j.own, 0⟩)
  | none => .next s

end Sys2Proof.Machine
end

