-- ==== Sys2Proof/Machine/Layers.lean ====
section
/-!
DEFINITION. Group 0xC, layers: LSET, LGET, LSPLIT, LMERGE, LREQ, LDONE and LEPOCH (R425 to R428), on the descriptors of
R76 and the surfaces they name (R87 to R89), performed by the partition's Rink.
-/

namespace Sys2Proof.Machine

/-! ### Descriptors and surfaces (R76, R77) -/

/-- Byte offset and size of the field that a selector names. -/
def layerField (sel : Nat) : Nat × Nat :=
  match sel with
  | 0 => (0, 8)
  | 1 => (8, 8)
  | 2 => (16, 4)
  | 3 => (20, 4)
  | 4 => (24, 4)
  | 5 => (28, 2)
  | 6 => (30, 2)
  | 7 => (32, 4)
  | 8 => (36, 4)
  | 9 => (40, 4)
  | 10 => (44, 4)
  | 11 => (48, 4)
  | 12 => (52, 2)
  | 13 => (54, 1)
  | _ => (0, 8)

/-- Little-endian value of `n` bytes at an offset of a descriptor. -/
def dfield (d : List Byte) (off n : Nat) : Nat := leNat ((d.drop off).take n)

/-- A signed 16-bit field. -/
def dfield16 (d : List Byte) (off : Nat) : Int := let v := dfield d off 2; if v < 32768 then v else (v : Int) - 65536

/-- A descriptor with bytes put at an offset. -/
def dput (d : List Byte) (off : Nat) (bs : List Byte) : List Byte := d.take off ++ bs ++ d.drop (off + bs.length)

/-- A descriptor with a field set to the low bytes of a value. -/
def dset (d : List Byte) (off n v : Nat) : List Byte := dput d off (leBytes n v)

def dCsurf (d : List Byte) : Nat := dfield d 0 8
def dZsurf (d : List Byte) : Nat := dfield d 8 8
def dW (d : List Byte) : Nat := dfield d 16 2
def dH (d : List Byte) : Nat := dfield d 18 2
def dFlags (d : List Byte) : Nat := dfield d 30 2
def dVis (d : List Byte) : Bool := bit (dFlags d) 0
def dReq (d : List Byte) : Bool := bit (dFlags d) 1
def dHold (d : List Byte) : Bool := bit (dFlags d) 2

/-- A descriptor with its REQ set or cleared. -/
def dSetReq (d : List Byte) (b : Bool) : List Byte :=
  let f := dFlags d
  dset d 30 2 (f - (if bit f 1 then 2 else 0) + (if b then 2 else 0))

/-- An FP32 depth that gives a fragment (R76): neither NaN nor +Inf. -/
def depthHere (z : Nat) : Bool := bits z 30 0 ≤ 0x7F800000 && z ≠ 0x7F800000

/-- Order of depths (R85): ascending value, with -0 equal to +0. -/
def depthKey (z : Nat) : Int := if bit z 31 then -(bits z 30 0 : Int) else bits z 30 0

/-- A positive finite FP32 value in units of 2^-149. -/
def depthUnits (z : Nat) : Nat := if bits z 30 23 = 0 then bits z 22 0 else (2 ^ 23 + bits z 22 0) * 2 ^ (bits z 30 23 - 1)

/-- SPREAD of a surface's depths (R87). -/
def spreadOf (zs : List Nat) : Nat :=
  let v := (zs.filter fun z => !bit z 31 && bits z 30 23 ≠ 255 && z ≠ 0).map depthUnits
  match v with
  | [] => 0
  | u :: us =>
    let hi := us.foldl max u
    let lo := us.foldl min u
    min ((hi - lo) * 65536 / lo) 0xFFFFFFFF

/-- The 32-bit values of a list of bytes. -/
def words32 (n : Nat) (bs : List Byte) : List Nat :=
  match n with
  | 0 => []
  | n + 1 => leNat (bs.take 4) :: words32 n (bs.drop 4)

/-! ### The Rink's accesses for a thread (R425) -/

/-- Translates every page of a range under the partition's tables, for the thread being issued: a fault parks the thread
or is a precise trap whose TVAL holds the address. A window address is no virtual address (R173), and raises PROT. -/
def State.rinkParts (s : State) (acc : Acc) : List (Nat × Nat) → (List (Nat × Nat) → State → State) → State
  | [], k => k [] s
  | (va, n) :: rest, k =>
    if 2 ^ 57 ≤ va then badAccess acc .align (Word.ofNat va) s
    else if isWindow va then badAccess acc .prot (Word.ofNat va) s
    else s.xlateBy .lodge false (Word.ofNat va) acc (badAccess acc) fun pa s =>
      State.rinkParts s acc rest fun l s => k ((pa, n) :: l) s

/-- Translates a range. -/
def State.rinkRange (s : State) (acc : Acc) (va n : Nat) (k : List (Nat × Nat) → State → State) : State :=
  s.rinkParts acc (pageParts (n / 4096 + 2) va n) k

/-- Translates the pages of a surface that hold a byte of one of the pixels; the other pages, which are not touched, are
not looked at, and stand as the address 0. -/
def State.rinkPages (s : State) (acc : Acc) (is : List Nat) (o : Nat) :
    List (Nat × Nat) → (List (Nat × Nat) → State → State) → State
  | [], k => k [] s
  | (va, n) :: rest, k =>
    let more := fun (l : List (Nat × Nat)) (s : State) => State.rinkPages s acc is (o + n) rest fun m s => k (l ++ m) s
    if is.any fun i => 4 * i < o + n && o < 4 * i + 4 then s.rinkParts acc [(va, n)] more else more [(0, n)] s

/-- Translates what an instruction touches of a surface of `n` bytes: the pages of the pixels `is` (R427). -/
def State.rinkTouch (s : State) (acc : Acc) (va n : Nat) (is : List Nat) (k : List (Nat × Nat) → State → State) : State :=
  s.rinkPages acc is 0 (pageParts (n / 4096 + 2) va n) k

/-- Reads a range already translated. Poisoned data is a precise POISON trap of the instruction: R266 says of a Rink's surface
read 'as a surface fault (R86)', whose effect on an instruction it does not state (DESIGN CHOICE, log entry 137). -/
def State.rinkBytes (s : State) (va : Nat) (l : List (Nat × Nat)) (k : List Byte → State → State) : State :=
  if l.any fun q => s.dramPoisoned q.1 q.2 then badAccess .read .poison (Word.ofNat va) s
  else k (l.map fun q => s.dramBytes s.myPart.keyGen q.1 q.2).flatten (s.sliceSee s.myPartNo l)

/-- Writes a range already translated, at its slices. -/
def State.rinkStore (s : State) : List (Nat × Nat) → List Byte → State
  | [], _ => s
  | (pa, n) :: rest, bs => State.rinkStore (s.sliceWrite s.myPartNo pa (bs.take n)) rest (bs.drop n)

/-- Address of a descriptor. -/
def State.descAddr (s : State) (x : Nat) : Nat := ((s.myPart.rink.table.map fun t => t.1.toNat).getD 0) + 64 * x

/-- A handle operand is checked (R75, R425). -/
def State.withHandle (s : State) (h : Word) (k : State → State) : State :=
  match s.myPart.rink.table with
  | some (_, n) => if h.toNat < n then k s else s.trap .prot h
  | none => s.trap .prot h

/-- Reads a descriptor that will be written: its bytes, and where they lie. -/
def State.withDesc (s : State) (acc : Acc) (x : Nat) (k : List Byte → List (Nat × Nat) → State → State) : State :=
  let a := s.descAddr x
  s.rinkRange acc a 64 fun l s => s.rinkBytes a l fun d s => k d l s

/-- Changes the Rink of the thread's partition. -/
def State.modRink (s : State) (f : Rink → Rink) : State := s.modPart s.myPartNo fun p => { p with rink := f p.rink }

/-! ### LSET and LGET (R426) -/

/-- What LSET makes of a descriptor. `w` is SURF's second register. -/
def lsetDesc (d : List Byte) (sel : Nat) (v w : Word) : List Byte :=
  match sel with
  | 5 => dset d 28 2 (min v.toNat 65535)
  | 6 => dSetReq (dset d 30 2 v.toNat) (dReq d)
  | 14 => dset (dset d 0 8 v.toNat) 8 8 w.toNat
  | _ => dset d (layerField sel).1 (layerField sel).2 v.toNat

/-- LSET (R426). -/
def execLset (p : Pred) (a b : Code) (sel : Fin 15) : State → Res :=
  issue p none [rg a, if sel.val = 14 then ⟨b, .group 2 1⟩ else rg b] fun s =>
    let h := s.operand [a, b] 0
    let v := if sel.val = 14 then s.myCore.greg s.me b.toNat else s.operand [a, b] 1
    let w := if sel.val = 14 then s.myCore.greg s.me (b.toNat + 1) else 0
    s.withHandle h fun s => s.releaseThen .pkg fun s =>
      s.withDesc .write h.toNat fun d l s => (s.rinkStore l (lsetDesc d sel.val v w)).retire

/-- LGET (R426). -/
def execLget (p : Pred) (d a : Code) (sel : Fin 15) : State → Res :=
  issue p (some (rg d)) [rg a] fun s =>
    let h := s.operand [a] 0
    s.withHandle h fun s => s.withDesc .read h.toNat fun x _ s =>
      let (off, n) := layerField sel.val
      ((s.acquire .pkg).wr d (Word.ofNat (dfield x off n))).retire

/-! ### LSPLIT and LMERGE (R427) -/

/-- One pixel's four bytes. -/
def px (bs : List Byte) (i : Nat) : List Byte := (bs.drop (4 * i)).take 4

/-- The bytes of the depth +Inf. -/
def infDepth : List Byte := leBytes 4 0x7F800000

/-- Bit `i` of a mask (R159). -/
def maskBit (m : List Byte) (i : Nat) : Bool := bit (m.getD (i / 8) 0).toNat (i % 8)

/-- The parts of bytes `o` to `o + n - 1` of a run of parts. -/
def subParts : List (Nat × Nat) → Nat → Nat → List (Nat × Nat)
  | [], _, _ => []
  | (pa, k) :: l, o, n =>
    let here := min n (k - o)
    (if here = 0 then [] else [(pa + o, here)]) ++ subParts l (o - k) (n - here)

/-- The parts of the pixels `is` of a surface. -/
def pixelParts (l : List (Nat × Nat)) (is : List Nat) : List (Nat × Nat) := is.flatMap fun i => subParts l (4 * i) 4

/-- The depths of n after a split (R88), from those of s at the pixels of the mask, in order. -/
def splitDepths (m : List Byte) : List Nat → List Byte → List Byte
  | [], _ => []
  | i :: is, sz => if maskBit m i then sz.take 4 ++ splitDepths m is (sz.drop 4) else infDepth ++ splitDepths m is sz

/-- LSPLIT (R427, R88): every page that it touches is translated before any byte is written. Of s, only pixels of the mask
are read, and of n's colours and s's depths only these are written; n's depths are written everywhere. -/
def execLsplit (p : Pred) (a b c : Code) : State → Res :=
  issue p none [rg a, rg b, rg c] fun s =>
    let hs := s.operand [a, b, c] 0
    let hn := s.operand [a, b, c] 1
    let ma := (s.operand [a, b, c] 2).toNat
    s.withHandle hs fun s => s.withHandle hn fun s =>
      if hs = hn then s.trap .prot hn
      else s.releaseThen .pkg fun s =>
        s.withDesc .read hs.toNat fun ds _ s => s.withDesc .write hn.toNat fun dn ln s =>
          let cnt := dW ds * dH ds
          let mlen := (cnt + 7) / 8
          s.rinkRange .read ma mlen fun lm s => s.rinkBytes ma lm fun m s =>
            let is := (List.range cnt).filter (maskBit m)
            s.rinkTouch .read (dCsurf ds) (4 * cnt) is fun lsc s => s.rinkTouch .write (dZsurf ds) (4 * cnt) is fun lsz s =>
            s.rinkTouch .write (dCsurf dn) (4 * cnt) is fun lnc s => s.rinkRange .write (dZsurf dn) (4 * cnt) fun lnz s =>
            s.rinkBytes (dCsurf ds) (pixelParts lsc is) fun sc s => s.rinkBytes (dZsurf ds) (pixelParts lsz is) fun sz s =>
            let s := ((s.rinkStore (pixelParts lnc is) sc).rinkStore lnz (splitDepths m (List.range cnt) sz)).rinkStore
              (pixelParts lsz is) (is.flatMap fun _ => infDepth)
            let s := s.rinkStore ln (dSetReq (dput dn 16 ((ds.drop 16).take 39)) false)
            (s.modRink fun r => { r with queue := r.queue.filter (· ≠ hn.toNat) }).retire

/-- The fragment of b goes before that of a at a pixel (R85, R89). -/
def frontOf (da db : List Byte) (xa xb : Nat) (za zb : Nat) : Bool :=
  if !depthHere zb then false
  else if !depthHere za then true
  else
    let (ka, kb) := (depthKey za, depthKey zb)
    let (oa, ob) := (dfield da 52 2, dfield db 52 2)
    kb < ka || (kb = ka && (ob < oa || (ob = oa && xb < xa)))

/-- Descriptor of a after a merge (R89). -/
def mergeDesc (da db : List Byte) : List Byte :=
  let big := fun (d : List Byte) (off n : Nat) => dset d off n (max (dfield da off n) (dfield db off n))
  let d := big (big (big (big da 28 2) 32 4) 40 4) 48 4
  let d := dset d 44 4 (dfield da 44 4 ||| dfield db 44 4)
  dSetReq d (dReq da || dReq db)

/-- Descriptor of b after a merge (R89): VIS, REQ, AGE and EST are 0. -/
def mergedDesc (db : List Byte) : List Byte :=
  let f := dFlags db
  dset (dset (dset db 28 2 0) 32 4 0) 30 2 (f - bits f 1 0)

/-- The request queue after a merge of b into a (R89). -/
def mergeQueue (q : List Nat) (a b : Nat) (reqA reqB : Bool) : List Nat :=
  if reqA || !reqB then q.filter (· ≠ b)
  else if q.contains b then q.map fun x => if x = b then a else x
  else q ++ [a]

/-- LMERGE (R427, R89): the depths of both layers are compared at every pixel; colour and depth of b are moved, and pages of
a's surfaces written, only where b's fragment is kept. -/
def execLmerge (p : Pred) (a b : Code) : State → Res :=
  issue p none [rg a, rg b] fun s =>
    let ha := s.operand [a, b] 0
    let hb := s.operand [a, b] 1
    s.withHandle ha fun s => s.withHandle hb fun s =>
      if ha = hb then s.trap .prot hb
      else s.releaseThen .pkg fun s =>
        s.withDesc .write ha.toNat fun da la s => s.withDesc .write hb.toNat fun db lb s =>
          if (da.drop 16).take 12 ≠ (db.drop 16).take 12 then s.trap .prot hb
          else
            let n := 4 * (dW da * dH da)
            s.rinkRange .read (dZsurf da) n fun lza s => s.rinkRange .read (dZsurf db) n fun lzb s =>
            s.rinkBytes (dZsurf da) lza fun az s => s.rinkBytes (dZsurf db) lzb fun bz s =>
              let is := (List.range (n / 4)).filter fun i =>
                frontOf da db ha.toNat hb.toNat (leNat (px az i)) (leNat (px bz i))
              s.rinkTouch .write (dZsurf da) n is fun laz s => s.rinkTouch .write (dCsurf da) n is fun lac s =>
              s.rinkTouch .read (dCsurf db) n is fun lbc s => s.rinkBytes (dCsurf db) (pixelParts lbc is) fun bc s =>
              let s := (s.rinkStore (pixelParts lac is) bc).rinkStore (pixelParts laz is) (is.flatMap fun i => px bz i)
              let s := (s.rinkStore la (mergeDesc da db)).rinkStore lb (mergedDesc db)
              (s.modRink fun r => { r with queue := mergeQueue r.queue ha.toNat hb.toNat (dReq da) (dReq db) }).retire

/-! ### LREQ, LDONE, LEPOCH (R428) -/

/-- Threads of a partition that are parked for a reason, oldest first: stamp, core, slot. -/
def State.parkedIn (s : State) (pno : Nat) (w : Why → Bool) : List (Nat × Nat × Nat) :=
  let l := s.cores.flatMap fun e =>
    if s.corePart e.1 = some pno then
      e.2.threads.filterMap fun t => match t.2.park with
        | some p => if w p.why then some (p.stamp, e.1, t.1) else none
        | none => none
    else []
  sortBy l

/-- LREQ (R428). A handle handed over by the wake is written; otherwise the head of the queue is taken, unless an older
thread is parked for it. -/
def execLreq (p : Pred) (d : Code) : State → Res :=
  issue p (some (rg d)) [] fun s =>
    match s.me.prog.handed with
    | some h => ((s.acquire .pkg).wr d h).retire
    | none =>
      let r := s.myPart.rink
      if r.table.isNone then s.trap .prot allOnes
      else
        let older := (s.parkedIn s.myPartNo fun w => w = .lreq).any fun e =>
          match s.me.prog.stamp with | some m => e.1 < m | none => true
        match r.queue with
        | h :: rest =>
          if older then s.parkMe .lreq
          else (((s.modRink fun r => { r with queue := rest }).acquire .pkg).wr d (Word.ofNat h)).retire
        | [] => s.parkMe .lreq

/-- LREQ_WAKE (R428, R431): the oldest parked LREQ takes the handle at the head of the queue. -/
def execLreqWake (part : Nat) (s : State) : Res :=
  match (s.part part).rink.queue, s.parkedIn part fun w => w = .lreq with
  | h :: rest, (_, c, sl) :: _ =>
    .next ((s.modPart part fun p => { p with rink := { p.rink with queue := rest } }).wakeWith c sl fun g =>
      { g with handed := some (Word.ofNat h) })
  | _, _ => .next s

/-- A kind 5 record: a surface or a descriptor that the Rink cannot use (R86), naming the address, and the handle in DATA. -/
def State.surfaceRecord (s : State) (pno x addr : Nat) : State := s.emit { s.obs 5 pno with addr := addr, data := leBytes 8 x }

/-- LDONE (R428, R87): a fault of ZSURF gives SPREAD 0 and a record, and never parks. -/
def execLdone (p : Pred) (a : Code) : State → Res :=
  issue p none [rg a] fun s =>
    let h := s.operand [a] 0
    s.withHandle h fun s => s.releaseThen .pkg fun s =>
      s.withDesc .write h.toNat fun d l s =>
        let cnt := dW d * dH d
        let (spread, s) :=
          if dZsurf d % 64 ≠ 0 then (0, s.surfaceRecord s.myPartNo h.toNat (dZsurf d))
          else match s.lodgeSee s.myPartNo (dZsurf d) (4 * cnt) with
            | (some bs, s) => (spreadOf (words32 cnt bs), s)
            | (none, s) => (0, s.surfaceRecord s.myPartNo h.toNat (dZsurf d))
        let d := dSetReq (dset (dset (dset d 28 2 0) 32 4 0) 40 4 spread) false
        ((s.rinkStore l d).modRink fun r => { r with queue := r.queue.filter (· ≠ h.toNat) }).retire

/-- LEPOCH (R428, R89). -/
def execLepoch (p : Pred) (a : Code) : State → Res :=
  issue p none [rg a] fun s =>
    let i := s.operand [a] 0
    if 32 ≤ i.toNat then s.trap .prot i
    else (s.modRink fun r => { r with lepc := r.lepc.put i.toNat ((r.lepc.lookD i.toNat 0 + 1) % 2 ^ 32) }).retire

end Sys2Proof.Machine
end

