-- ==== Sys2Proof/Machine/Deliver.lean ====
section
/-!
DEFINITION. Frames on their way to threads: which core can host a launch (R97), what a core does with its first frame
(R98), delivery to a thread in WFW (R106), the making of threads for frames (R107), pops and refills of the deque (R104),
stealing (R109, R110), and the counters of outstanding frames (R113).
-/

namespace Sys2Proof.Machine

/-! ### Cores and their waking (R171) -/

/-- Cores of a partition, in package order. -/
def Part.cores (p : Part) : List Nat := p.quads.flatMap fun q => (List.range 256).map (256 * q + ·)

/-- Clusters of a partition, in package order. -/
def Part.clusters (p : Part) : List Nat := p.quads.flatMap fun q => (List.range 32).map (32 * q + ·)

/-- A sleeping core wakes: the parity sweep takes 32 core cycles before the first issue, and an entry that fails is
poisoned and counted as an uncorrectable error (R171). -/
def State.wakeCore (s : State) (c : Nat) (failed : List Nat) : State :=
  let bad := failed.filter (· < 2048)
  let s := s.modCore c fun x =>
    { x with asleep := false, idleSince := s.clk, regPoison := bad.foldl insertNat x.regPoison,
             threads := KMap.mapVals (fun t => { t with busy := max t.busy (s.clk + 32) }) x.threads }
  match s.corePart c with
  | some pno =>
    let s := s.modPart pno fun p => { p with uncorrected := p.uncorrected + bad.length }
    bad.foldl (fun (s : State) i => s.emit { s.obs 9 pno with core := c, addr := i }) s
  | none => s

/-- A core takes frames: no pre-emption of it is draining (R261), and its partition is live. -/
def State.takesFrames (s : State) (c : Nat) : Bool :=
  (match (s.core c).preempt with | some p => p.stage ≠ 1 | none => true)
  && (match s.corePart c with | some pno => (s.part pno).st = 1 | none => false) && !s.held

/-! ### Hosting (R97, R98) -/

/-- No other live launch has claimed a zone of the launch's on the core. -/
def Core.zonesFree (x : Core) (l : Launch) : Bool :=
  (List.range 16).all fun n => !bit l.zmask n || (match x.claims.look n with | some o => o = l.lid | none => true)

/-- A thread in WFW that can take a frame of a launch. -/
def Thread.waits (t : Thread) (lid : Nat) : Bool := t.idle && t.lid = lid && !t.dbg && t.stopped = []

/-- The frame on its way to the thread of a slot. -/
def Core.comingTo (x : Core) (sl : Nat) : Option Coming := x.coming.find? fun f => f.slot = sl

/-- Pre-emption class of a launch on a core (R117). -/
def State.classOf (s : State) (c lid : Nat) : Nat :=
  (((s.corePart c).bind fun pno => s.launch? pno lid).map Launch.pcls).getD 0

/-- A thread in WFW of a launch can have a frame: none is on its way to it, and its slot is not passing. A marked slot
whose thread is of class 0 passes at the thread's next WFW or EXIT only (R120). -/
def State.inWfw (s : State) (c lid sl : Nat) (t : Thread) : Bool :=
  let x := s.core c
  t.idle && t.lid = lid && (x.comingTo sl).isNone && (!x.marked sl || s.classOf c lid = 0)

/-- The slot of a thread on a core that takes a frame of a launch, and that a test admits. -/
def State.idleWith (s : State) (c lid : Nat) (free : Thread → Bool) : Option Nat :=
  let x := s.core c
  if !s.takesFrames c || x.displacedOf lid then none
  else (x.threads.find? fun e => e.2.waits lid && s.inWfw c lid e.1 e.2 && free e.2).map Prod.fst

/-- The slot of a thread on a core that takes a frame of a launch. -/
def State.idleSlot (s : State) (c lid : Nat) : Option Nat := s.idleWith c lid fun _ => true

/-- A core can host a launch (R97). -/
def State.canHost (s : State) (c : Nat) (l : Launch) : Bool :=
  let x := s.core c
  s.takesFrames c && x.zonesFree l
  && ((s.idleSlot c l.lid).isSome || (!x.displacedOf l.lid && (x.freeSlot l).isSome && (x.firstFit l.win).isSome))

/-- A new thread of a launch on a core that can have one. -/
def State.newThread (s : State) (c : Nat) (l : Launch) : Option (Nat × State) :=
  let x := s.core c
  if !s.takesFrames c || x.displacedOf l.lid || !x.zonesFree l then none else s.makeThread c l l.win

/-- What a core does the first time it takes a frame of a launch (R98). -/
def State.reside (s : State) (c : Nat) (l : Launch) : State :=
  s.modCore c fun x =>
    if x.resident.contains l.lid then x
    else
      let ns := (List.range 16).filter fun n => bit l.zmask n
      { x with resident := x.resident ++ [l.lid],
               claims := ns.foldl (fun (m : KMap Nat) n => m.put n l.lid) x.claims,
               zf := ns.foldl (fun (m : KMap Nat) n => KMap.putD 0 m n (l.zf.getD n 0)) x.zf }

/-! ### Delivery (R106) -/

/-- An acquire made for a thread of a core (R207, R177). -/
def State.acquireOn (s : State) (c : Nat) (sc : Scope) : State :=
  if wideScope sc then
    let ts := s.tsidOf c
    s.modCore c fun x => { x with dcache := x.dcache.filter fun l => l.tsid ≠ ts }
  else s

/-- The fused code that a frame whose word 0 is given starts at (R137). -/
def Launch.spliced (l : Launch) (w0 : Word) : Option Fused :=
  match l.fused with
  | some f => if w0 = f.pbody then some f else none
  | none => none

/-- Delivery of a frame to the thread in WFW in a slot (R106), with its acquire, and its trace record (R269). -/
def State.deliver (s : State) (c sl : Nat) (f : Frame) (sc : Scope) : State :=
  match s.corePart c with
  | none => s
  | some pno =>
    match s.launch? pno f.lid with
    | none => s
    | some l =>
      let s := if (s.core c).asleep then s.wakeCore c [] else s
      let s := (s.reside c l).acquireOn c sc
      let s := s.modCore c fun x =>
        match x.threads.look sl with
        | some t =>
          let x := (List.range 8).foldl (fun (x : Core) i => x.setGreg t i (f.words.getD i 0)) x
          let x := match l.spliced (f.words.getD 0 0) with
            | some g => (List.range 8).foldl (fun (x : Core) i => x.setGreg t (g.wp + i) (g.image.getD i 0)) x
            | none => x
          { x with idleSince := s.clk }
        | none => x
      let s := (s.modThread c sl fun t =>
        { t with pc := ((l.spliced (f.words.getD 0 0)).map Fused.code).getD (f.words.getD 0 0), tjoin := f.words.getD 1 0, tag := f.tag, counts := true, idle := false,
                 mesh := f.mesh, prog := Prog.fresh, spliced := (l.spliced (f.words.getD 0 0)).isSome, busy := max t.busy s.clk }).noteState c sl 0
      if bit (s.core c).trcfg 2 then
        match s.thread? c sl with
        | some t => s.emit { s.obsThread 16 pno c sl t t.pc.toNat with code := 2, addr := (f.words.getD 0 0).toNat }
        | none => s
      else s

/-- R106 would deliver an entry to a thread of a number; none stands for a thread still to be made. -/
def DqEntry.goesTo (e : DqEntry) (sth : Option Nat) : Bool := tagDom e.tag ≠ 0 || some e.sth = sth

/-- Source 1 of R106 has a frame for a thread: an entry on chip, or, with none of the launch on chip, the newest one of
the spill ring. -/
def Core.dqServes (x : Core) (lid : Nat) (sth : Option Nat) : Bool :=
  if x.deque.any fun e => e.lid = lid then x.deque.any fun e => e.lid = lid && e.goesTo sth
  else match (x.spill.lookD lid (0, [])).2.getLast? with
    | some o => o.isNone || o = sth
    | none => false

/-- A thread of a launch among cores, in their order, for a frame of one of sources 2 to 4 of R106: one in WFW that its
core's deque has nothing for, or, where none of the launch is in WFW there, a new one on the first core that can have
one (R125). `earlier`: a source before this one has a frame for the launch. -/
def State.placeIn (s : State) (cs : List Nat) (l : Launch) (earlier : Bool) : Option (Nat × Nat × State) :=
  if earlier then none
  else
    match cs.findSome? fun c => (s.idleWith c l.lid fun t => !(s.core c).dqServes l.lid (some t.sth)).map fun sl => (c, sl) with
    | some (c, sl) => if (s.core c).zonesFree l then some (c, sl, s) else none
    | none =>
      if cs.any fun c => (s.idleSlot c l.lid).isSome then none
      else
        match cs.findSome? fun c => (s.newThread c l).map fun r => (c, r.1, r.2) with
        | some r => if (s.core r.1).dqServes l.lid none then none else some r
        | none => none

/-- Scope at which the frame of a tag acquires (R103). -/
def Launch.tagScope (l : Launch) (tag : Word) : Scope := Scope.ofCode (l.lev (tagLvl tag)).scope

/-! ### Reads that a unit of the device makes for a launch -/

/-- Why such a read fails: a fault that a fault record can resolve, or a cause. -/
inductive UnitErr where
  | fault (kind level : Nat)
  | malformed
  | dead (cause : Cause)
  deriving DecidableEq, Repr

/-- Reads `n` bytes that lie in one page, as a core or a cluster does (R173, R174). -/
def State.unitRead (s : State) (via : Via) (pno : Nat) (app : Bool) (va n : Nat) : Except UnitErr (List Byte × State) :=
  if 2 ^ 57 ≤ va then .error (.dead .align)
  else if isWindow va then
    if s.winHere va && s.corePart (winCore va) = some pno then
      let x := s.core (winCore va)
      if x.lpoisoned (winOff va) n then .error (.dead .poison) else .ok (x.lmem.bytes (winOff va) n, s)
    else .error (.dead .prot)
  else
    match s.translate via pno va .read app with
    | .ok pa s => if s.dramPoisoned pa n then .error (.dead .poison) else .ok (s.dramBytes (s.part pno).keyGen pa n, s.sliceSee pno [(pa, n)])
    | .fault k l _ => .error (.fault k l)
    | .malformed _ _ => .error .malformed
    | .off => .error (.dead .pageflt)

/-! ### The deque (R104, R106) -/

/-- What a pop or a steal from a spill ring gives. -/
inductive Taken where
  | none
  | entry (e : DqEntry) (s : State)
  /-- A fault on the spill area awaits resolution. -/
  | wait (s : State)
  /-- The entry cannot be read: it is lost, with a fatal fault. -/
  | lost (s : State)
  deriving Repr

/-- An entry of a spill ring that cannot be read: one fatal fault of the launch, and its frame stops counting. -/
def State.spillLost (s : State) (c pno : Nat) (l : Launch) (va : Word) (cause : Cause) (newest : Bool) : State :=
  let s := s.modCore c fun x =>
    let (st, ns) := x.spill.lookD l.lid (0, [])
    { x with spill := x.spill.put l.lid (if newest then (st, ns.dropLast) else (st + 1, ns.drop 1)) }
  ((s.countFatal pno l.lid false).emit { s.obs 1 pno with
    code := cause.code, core := c, addr := va.toNat, lid := l.lid, kbody := l.entry.toNat }).countFrame pno l.lid c (-1)

/-- A read of a place of a launch's spill ring on a core awaits a resolution, or does so no longer (R104). -/
def Core.spillHold (x : Core) (lid i : Nat) (held : Bool) : Core :=
  let rest := x.spillWait.filter (· ≠ (lid, i))
  { x with spillWait := if held then rest ++ [(lid, i)] else rest }

/-- Reads an entry of a spill ring back (R104): `k` takes it. -/
def State.spillRead (s : State) (c pno : Nat) (l : Launch) (i : Nat) (newest : Bool) (k : DqEntry → State → Taken) : Taken :=
  let va := l.spillAddr c i
  let hold := fun (held : Bool) (s : State) => s.modCore c fun x => x.spillHold l.lid i held
  match s.unitRead (.core c) pno (l.pl = 0) va.toNat 128 with
  | .ok (bs, s) => k (DqEntry.ofBytes l.lid bs) (hold false s)
  | .error (.fault kind level) =>
    if (s.part pno).fren then .wait (hold true (s.faultMsg pno va.toNat .read kind level))
    else .lost ((hold false s).spillLost c pno l va (faultCause kind) newest)
  | .error .malformed => .lost (((hold false s).malformedRecord pno va.toNat).spillLost c pno l va .prot newest)
  | .error (.dead cause) => .lost ((hold false s).spillLost c pno l va cause newest)

/-- Source 1 of R106 for a thread: the bottommost entry on chip that goes to it, or a refill. -/
def State.dqTake (s : State) (c pno : Nat) (l : Launch) (sth : Option Nat) : Taken :=
  let x := s.core c
  match (x.deque.filter fun e => e.lid = l.lid && e.goesTo sth).getLast? with
  | some e => .entry e (s.modCore c fun x => { x with deque := (x.deque.reverse.erase e).reverse })
  | none =>
    if x.deque.any fun e => e.lid = l.lid then .none
    else
      let (st, ns) := x.spill.lookD l.lid (0, [])
      if ns = [] then .none
      else s.spillRead c pno l (st + ns.length - 1) true fun e s =>
        if e.goesTo sth then .entry e (s.modCore c fun x => { x with spill := x.spill.put l.lid (st, ns.dropLast) })
        else .none

/-- A frame from a deque entry. -/
def DqEntry.frame (e : DqEntry) : Frame := ⟨e.words, e.tag, e.lid, none⟩

/-- A steal reply that has arrived, or a frame that a resumption brought back (R265). -/
def Core.stolen (x : Core) (lid : Nat) : Option Coming :=
  match x.arrived.find? fun e => e.frame.lid = lid, x.steals.look lid with
  | some e, _ => some e
  | none, some (.here e) => some ⟨2, 0, e.frame⟩
  | _, _ => none

/-- Takes it. -/
def Core.takeStolen (x : Core) (lid : Nat) : Core :=
  match x.arrived.find? fun e => e.frame.lid = lid with
  | some e => { x with arrived := x.arrived.erase e }
  | none => { x with steals := x.steals.del lid }

/-- Gives a frame taken from a deque or a steal reply to a thread. -/
def State.deliverEntry (s : State) (c sl : Nat) (l : Launch) (e : DqEntry) : State :=
  s.deliver c sl e.frame (l.tagScope e.tag)

/-- Scope of the acquire that a frame of a source is delivered with (R103, R125, R128, R130). -/
def Launch.comingScope (l : Launch) (f : Coming) : Scope :=
  match f.kind with
  | 3 => .pkg
  | 4 | 5 => .clus
  | _ => l.tagScope f.frame.tag

/-- Gives a frame of any source to a thread. -/
def State.deliverComing (s : State) (c sl : Nat) (l : Launch) (f : Coming) : State := s.deliver c sl f.frame (l.comingScope f)

/-- A frame of sources 2 to 4 sets out for the thread in a slot, new or in WFW, and reaches it at once, or later (a choice,
log entry 6): a pre-emption of the core in between spills it (R131). No other core of the cluster can have it any more. -/
def State.setOut (s : State) (c sl : Nat) (l : Launch) (kind : Nat) (f : Frame) : State :=
  let s := (clusterCores (clusterOf c)).foldl (fun (s : State) d => s.stir d) s
  match s.choose with
  | (0, s) => s.deliverComing c sl l ⟨kind, sl, f⟩
  | (_, s) => (s.modThread c sl fun t => { t with idle := true }).modCore c fun x => { x with coming := x.coming ++ [⟨kind, sl, f⟩] }

/-- The frame on its way to the thread of a slot reaches it. -/
def State.comesIn (s : State) (c sl : Nat) (l : Launch) (f : Coming) : State :=
  (s.modCore c fun x => { x with coming := x.coming.erase f }).deliverComing c sl l f

/-! ### Stealing (R109, R110) -/

/-- Widest DOM that the levels of a launch carry. -/
def Launch.widest (l : Launch) : Nat := (l.levs.map Level.domc).foldl max 0

/-- The rings of victims of a thief within a partition: the cluster, the rest of the quadrant, of the die, of the
partition. -/
def Part.rings (p : Part) (c dom : Nat) : List (List Nat) :=
  let all := p.cores.filter (· ≠ c)
  let r0 := all.filter fun v => clusterOf v = clusterOf c
  let r1 := all.filter fun v => clusterOf v ≠ clusterOf c && quadOf v = quadOf c
  let r2 := all.filter fun v => quadOf v ≠ quadOf c && dieOf v = dieOf c
  let r3 := all.filter fun v => dieOf v ≠ dieOf c
  [r0, r1, r2, r3].take (min (dom - 1) 4)

/-- Which ring a victim lies in. -/
def ringOf (c v : Nat) : Nat :=
  if clusterOf v = clusterOf c then 0 else if quadOf v = quadOf c then 1 else if dieOf v = dieOf c then 2 else 3

/-- The victims of a round in the order asked: in each ring, from the one after the last asked. -/
def State.victims (s : State) (c pno : Nat) (l : Launch) : List Nat :=
  let x := s.core c
  (((s.part pno).rings c l.widest).zipIdx).flatMap fun (r, i) =>
    match x.lastVictim.look (4 * l.lid + i) with
    | some v => r.filter (v < ·) ++ r.filter (· ≤ v)
    | none => r

/-- The core's deque or spill ring holds an entry of a launch that R106 would deliver: to any thread of it, or to the thread
of its number (R106, R109, R117). -/
def Core.holdsFor (x : Core) (lid : Nat) : Bool :=
  let mine := fun (n : Nat) => (x.threads.any fun t => t.2.sth = n) || x.displaced.any fun t => t.1.sth = n
  (x.deque.any fun e => e.lid = lid && (tagDom e.tag ≠ 0 || mine e.sth))
  || (x.spill.lookD lid (0, [])).2.any fun o => match o with | some n => mine n | none => true

/-- Launches of which the core holds such an entry. -/
def Core.deliverableLids (x : Core) : List Nat :=
  ((x.deque.map DqEntry.lid ++ x.spill.keys).foldl insertNat []).filter x.holdsFor

/-- A core steals for a launch (R109): all its threads of the launch are in WFW, and nothing of the launch on it goes to
one of them. A core that holds none of its threads steals for it where it could host it (DEDUCED, log entry 15). -/
def State.stealsFor (s : State) (c : Nat) (l : Launch) : Bool :=
  let x := s.core c
  let ts := x.threads.filter fun e => e.2.lid = l.lid
  (ts.all fun e => e.2.idle && (x.comingTo e.1).isNone) && !x.displacedOf l.lid && s.canHost c l
  && (x.steals.look l.lid).isNone && 2 ≤ l.widest && !x.holdsFor l.lid

/-- Asks the next victim of a list, or ends the round. -/
def State.askNext (s : State) (c lid : Nat) : List Nat → State
  | [] => s.modCore c fun x => { x with steals := x.steals.put lid (.retry (s.clk + 256)) }
  | v :: rest => s.modCore c fun x =>
      { x with steals := x.steals.put lid (.asked v rest), lastVictim := x.lastVictim.put (4 * lid + ringOf c v) v }

/-- STEAL_REQUEST (R109). -/
def execStealRequest (core lid : Nat) (s : State) : Res :=
  match s.corePart core with
  | none => .next s
  | some pno =>
    match s.launch? pno lid with
    | none => .next s
    | some l => if s.stealsFor core l then .next (s.askNext core lid (s.victims core pno l)) else .next s

/-- The thief may have an entry (R109): its DOM is 2 or above, and the thief lies in the same instance of it as the
origin core. -/
def DqEntry.givable (e : DqEntry) (thief : Nat) : Bool :=
  let d := tagDom e.tag
  let o := tagOrg e.tag
  2 ≤ d && (if d = 2 then clusterOf o = clusterOf thief else if d = 3 then quadOf o = quadOf thief
    else if d = 4 then dieOf o = dieOf thief else true)

/-- What a victim gives a thief: the oldest spilled entry if it may, or the oldest entry on chip that it may. -/
def State.steal (s : State) (v thief pno : Nat) (l : Launch) : Taken :=
  let x := s.core v
  let (st, ns) := x.spill.lookD l.lid (0, [])
  let chip := fun (s : State) =>
    match (s.core v).deque.find? fun e => e.lid = l.lid && e.givable thief with
    | some e => Taken.entry e ((s.modCore v fun x => { x with deque := x.deque.erase e }).stir v)
    | none => .none
  if ns = [] then chip s
  else s.spillRead v pno l st false fun e s =>
    if e.givable thief then
      .entry e ((s.modCore v fun x => { x with spill := x.spill.put l.lid (st + 1, ns.drop 1) }).stir v)
    else chip s

/-- STEAL_SERVE (R109): the victim gives an entry, or answers none and the thief asks the next. -/
def execStealServe (core lid : Nat) (s : State) : Res :=
  match s.corePart core, (s.core core).steals.look lid with
  | some pno, some (.asked v rest) =>
    match s.launch? pno lid with
    | none => .next s
    | some l =>
      match s.steal v core pno l with
      | .entry e s => .next (s.modCore core fun x => { x with steals := x.steals.put lid (.reply e) })
      | .none => .next (s.askNext core lid rest)
      | .wait s | .lost s => .next (s.askNext core lid rest)
  | _, _ => .next s

/-- STEAL_REPLY_ARRIVAL (R110). -/
def execStealReplyArrival (core lid : Nat) (s : State) : Res :=
  match (s.core core).steals.look lid with
  | some (.reply e) =>
    .next ((s.modCore core fun x => { x with steals := x.steals.put lid (.here e) }).countCore core 8 1)
  | _ => .next s

/-- STEAL_RETRY_TIMEOUT (R109): after 256 core cycles the thief starts again at its cluster. -/
def execStealRetryTimeout (core lid : Nat) (s : State) : Res :=
  match (s.core core).steals.look lid with
  | some (.retry at') =>
    let s := (s.pass at').modCore core fun x => { x with steals := x.steals.del lid }
    execStealRequest core lid s
  | _ => .next s

/-! ### Other events of tasks -/

/-- SPAWN_RING_WAKE (R104): room on chip, or in the ring that the entry to be moved goes to. -/
def execSpawnRingWake (core slot : Nat) (s : State) : Res :=
  match s.thread? core slot, s.corePart core with
  | some t, some pno =>
    let x := s.core core
    let y := x.spillLaunch t.lid
    let room := x.deque.length < 256 || (match s.launch? pno y with
      | some l => (x.spill.lookD y (0, [])).2.length < l.spn
      | none => true)
    match t.park with
    | some ⟨.spawnRing, _, _⟩ => if room then .next (s.wake core slot) else .next s
    | _ => .next s
  | _, _ => .next s

/-- Counts held at one level of the tree move to the next, where `up` gives the place they go to. -/
def countsUp (up : Nat → Nat) (from' to' : KMap Int) : KMap Int :=
  from'.foldl (fun (m : KMap Int) e => KMap.putD 0 m (up e.1) (m.lookD (up e.1) 0 + e.2)) to'

/-- The counts of a launch move one level up the tree, those nearest to Lodge first (R113). -/
def Launch.countUp (l : Launch) : Launch :=
  if l.movingD ≠ [] then { l with pkgCount := (l.movingD.map Prod.snd).foldl (· + ·) l.pkgCount, movingD := [] }
  else if l.movingQ ≠ [] then { l with movingD := countsUp (· / 4) l.movingQ l.movingD, movingQ := [] }
  else { l with movingQ := countsUp (· / 32) l.moving l.movingQ, moving := [] }

/-- TERMINATION_COUNT (R113). -/
def execTerminationCount (part lid : Nat) (s : State) : Res := .next (s.modLaunch part lid Launch.countUp)

end Sys2Proof.Machine
end

