-- ==== Sys2Proof/Machine/Engines.lean ====
section
/-!
DEFINITION. Group 0xB: ENQ and the acceptance of its entry (R386, R387), waiting for jobs and reading their status (R388
to R390), zone formats, scale registers, codebooks and channel pointers (R391 to R394), and the events of jobs.
-/

namespace Sys2Proof.Machine

/-! ### ENQ (R386) -/

/-- ZF of the issuing core's zone that an operand address names; 0 where it names none. -/
def State.enqZone (s : State) (c : Nat) (a : Word) : Nat :=
  let n := a.toNat
  if n < 2 ^ 57 && isWindow n && s.winHere n && winCore n = c then (s.core c).zone (zoneOf (winOff n)) else 0

/-- A quarter that names an operand, which for a fused consumer goes where its zone goes (R138, R316, R395): X, but the
threshold of MSTAT and the value of FILL, and W, but that of a multicast, which names an offset on several cores. -/
def quarterMoves (ecmd mcast i : Nat) : Bool :=
  (i = 1 && ecmd ≠ 0x07 && ecmd ≠ 0x23) || (i = 2 && !(ecmd = 0x20 && mcast ≠ 0))

/-- Enters an ENQ's entry in the dispatch ring; the thread, whose PC moves on, then waits for its acceptance. A full ring
leaves the slot not ready (R121). -/
def execEnq (p : Pred) (d a : Code) : State → Res :=
  issueWith false 8 p (some (rg d)) [⟨a, .group 4 4⟩] fun s =>
    let x := s.myCore
    if 256 ≤ x.ring.length then s
    else
      let t := s.me
      let r := fun (i : Nat) => x.greg t (a.toNat + i)
      let ecmd := bits (r 0).toNat 63 56
      let q := fun (i : Nat) =>
        if quarterMoves ecmd (bits (r 0).toNat 23 16) i then s.redirectWin s.myPartNo s.cur.core t.lid t.pc.toNat (r i) else r i
      let idxo := bits (q 3).toNat 63 40
      let q3 := if (ecmd = 0x21 || ecmd = 0x22) && idxo < 2 ^ 19 then
          q 3 - Word.ofNat (idxo * 2 ^ 40) + Word.ofNat (s.redirect s.myPartNo t idxo * 2 ^ 40)
        else q 3
      let sc := bits (q 3).toNat 47 40
      let e : Entry := {
        seq := x.seqnow, sth := t.sth, lid := t.lid, word := s.cur.word, ext := 0, instr := .enq p d a,
        v0 := q 0, v1 := q 1, v2 := q 2, v3 := q3,
        z0 := s.enqZone s.cur.core (q 1), z1 := s.enqZone s.cur.core (q 2), z2 := 0, z3 := 0,
        mode := t.mode.toNat % 256, te := x.te,
        scl := if scaleCmd ecmd && bit sc 7 then x.sclReg (sc % 16) else 0, iter := 0, st := .waiting, dst := d,
        got := [], inHandler := t.act, pc := t.pc }
      let s := (s.modMyCore fun x => { x with ring := x.ring ++ [e], seqnow := (x.seqnow + 1) % 2 ^ 32 }).retire
      s.parkMe (.enq e.seq)

/-- The oldest ENQ of a thread that is neither faulted nor held. -/
def enqEntry (x : Core) (sth : Nat) : Option Entry :=
  x.ring.find? fun e => e.sth = sth && e.isEnq && e.st = .waiting

/-- The engine that an ENQ's entry goes to. -/
def Entry.eng (e : Entry) : Nat := engineOf (bits e.v0.toNat 63 56)

/-- An ENQ that can be accepted now (R387): the thread's earlier entries are done, and its engine's queue has room. -/
def State.enqReady (s : State) (c : Nat) (e : Entry) : Bool :=
  let x := s.core c
  let before := x.ring.takeWhile fun o => o.seq ≠ e.seq
  (before.all fun o => o.sth ≠ e.sth || o.st = .faulted || o.st = .held)
  && ((s.cluster (clusterOf c)).queue e.eng).length < 64
  && (match s.corePart c with | some pno => (s.part pno).st = 1 | none => false)

/-- The ENQ entry of a core that goes first into an engine's queue: the oldest in its ring that can be accepted. -/
def State.enqNext (s : State) (c eng : Nat) : Option Entry :=
  (s.core c).ring.find? fun e => e.st = .waiting && e.isEnq && e.eng = eng && s.enqReady c e

/-- The cores of a cluster in the order of their turns at an engine's queue (R170). -/
def State.enqOrder (s : State) (cl eng : Nat) : List Nat :=
  let r := (s.cluster cl).rr.lookD eng 0
  (List.range 8).map fun i => 8 * cl + (r + i) % 8

/-- The job that a core's ENQ entry becomes, of number `n` of its engine (R386, R388). -/
def State.jobOf (s : State) (c n : Nat) (e : Entry) : Job :=
  { eng := e.eng, seq := n, core := c, sth := e.sth, lid := e.lid, part := (s.corePart c).getD 0,
    q0 := e.v0, q1 := e.v1, q2 := e.v2, q3 := e.v3, zx := e.z0, zw := e.z1, mode := e.mode, te := e.te, scl := e.scl,
    enqSeq := e.seq, st := .queued, donec := 0, acceptedAt := s.clk, acceptedFab := s.fab, started := false,
    fatal := none, fadr := 0, got := none, out := 0, failed := none, pieces := [], idx := [], desc := [],
    inHandler := e.inHandler, pc := e.pc, zfs := [], half := false, wrote := 0,
    zmap := s.zonesMoved ((s.corePart c).getD 0) e.lid e.pc.toNat, no := 0 }

/-- A table load that waits for an ENQ's entry waits for the job that it has become (R393). -/
def Thread.waitsJob (c seq : Nat) (id : Nat × Nat) (t : Thread) : Thread :=
  match t.park with
  | some ⟨.cbld n ents jobs, st, si⟩ =>
    if ents.contains (c, seq) then { t with park := some ⟨.cbld n (ents.filter (· ≠ (c, seq))) (jobs ++ [id]), st, si⟩ } else t
  | _ => t

/-- An ENQ entry becomes a job (R387, R388). -/
def State.enqAccept (s : State) (c : Nat) (e : Entry) : State :=
  let cl := clusterOf c
  let n := (s.cluster cl).nextSeq.lookD e.eng 0
  let j := s.jobOf c n e
  let s := s.modCluster cl fun x =>
    { x with jobs := x.jobs.put e.eng (x.queue e.eng ++ [j]), nextSeq := x.nextSeq.put e.eng ((n + 1) % 2 ^ 14),
             accepted := x.accepted.put e.eng (x.accepted.lookD e.eng 0 + 1), rr := x.rr.put e.eng ((c + 1) % 8) }
  let s := s.modCore c fun y => { y with ring := y.ring.filter fun o => o.seq ≠ e.seq }
  let s := (clusterCores cl).foldl (fun (s : State) d => s.modCore d fun x =>
    { x with threads := KMap.mapVals (Thread.waitsJob c e.seq (e.eng, n)) x.threads }) s
  (s.enqDeliver c e.sth e.dst (Word.ofNat j.id)).cbldSettle cl

/-- ENQ_ACCEPT (R387, R170): cores are admitted in turn. -/
def execEnqAccept (core slot : Nat) (s : State) : Res :=
  match ringThread (s.core core) slot with
  | none => .next s
  | some sth =>
    match enqEntry (s.core core) sth with
    | none => .next s
    | some e =>
      let first := (s.enqOrder (clusterOf core) e.eng).find? fun c => (s.enqNext c e.eng).isSome
      if s.enqReady core e && first = some core then .next (s.enqAccept core e) else .next s

/-! ### Identifiers and status (R388 to R390) -/

/-- A number that an engine keeps the status of (R388). -/
def Cluster.live (x : Cluster) (eng n : Nat) : Bool :=
  let next := x.nextSeq.lookD eng 0
  let acc := x.accepted.lookD eng 0
  (next + 2 ^ 14 - n) % 2 ^ 14 < 1024 && (2 ^ 14 ≤ acc || n < acc)

/-- The job that a number names, done or not. -/
def Cluster.job (x : Cluster) (eng n : Nat) : Option Job :=
  match (x.queue eng).find? fun j => j.seq = n with
  | some j => some j
  | none => x.past.look (2 ^ 14 * eng + n)

def JobSt.code : JobSt → Nat
  | .queued => 0
  | .running | .remote | .acks | .gathering => 1
  | .parked _ _ _ _ => 2
  | .done => 3
  | .fault _ => 4
  | .badcmd => 5
  | .abort => 6

def JobSt.sub : JobSt → Nat
  | .fault n => n
  | _ => 0

/-- The job that an identifier names is not complete. -/
def Cluster.pending (x : Cluster) (id : Nat) : Bool :=
  let eng := bits id 15 14
  let n := bits id 13 0
  eng ≠ 3 && x.live eng n && ((x.queue eng).any fun j => j.seq = n)

/-- WAITJ (R389). -/
def execWaitj (p : Pred) (a : Code) : State → Res :=
  issue p none [rg a] fun s =>
    let id := bits (s.operand [a] 0).toNat 15 0
    if s.myCluster.pending id then s.takeSources.parkMe (.job (bits id 15 14) (bits id 13 0)) else (s.acquire .clus).retire

/-- WAITJ_WAKE (R389): the job is complete, and WAITJ runs again to its end. -/
def execWaitjWake (core slot : Nat) (s : State) : Res :=
  match (s.thread? core slot).bind (·.park) with
  | some ⟨.job eng seq, _, _⟩ =>
    if ((s.cluster (clusterOf core)).queue eng).any fun j => j.seq = seq then .next s else .next (s.wake core slot)
  | _ => .next s

/-- POLLJ (R389). -/
def execPollj (p : Pred) (d a : Code) : State → Res :=
  issue p (some (rg d)) [rg a] fun s =>
    if s.myCluster.pending (bits (s.operand [a] 0).toNat 15 0) then (s.wr d 0).retire
    else ((s.acquire .clus).wr d 1).retire

/-- DONE as JSTAT gives it (R390). -/
def Job.doneField (j : Job) : Nat :=
  if j.ecmd = 2 || j.ecmd = 6 || (0x10 ≤ j.ecmd && j.ecmd ≤ 0x12) || (0x20 ≤ j.ecmd && j.ecmd ≤ 0x23) then j.donec else 0

/-- JSTAT (R390): the status word, and an acquire at CLUS for statuses 3 to 6. -/
def execJstat (p : Pred) (d a : Code) : State → Res :=
  issue p (some (rg d)) [rg a] fun s =>
    let id := bits (s.operand [a] 0).toNat 15 0
    let eng := bits id 15 14
    let n := bits id 13 0
    let x := s.myCluster
    if eng = 3 then (s.wr d 8).retire
    else if !x.live eng n then (s.wr d 7).retire
    else
      match x.job eng n with
      | none => (s.wr d 7).retire
      | some j =>
        let w := Word.ofNat (2 ^ 32 * j.doneField + 2 ^ 8 * j.st.sub + j.st.code)
        let s := if 3 ≤ j.st.code && j.st.code ≤ 6 then s.acquire .clus else s
        (s.wr d w).retire

/-! ### Zone formats, scale registers, codebooks, pointers (R391 to R394) -/

/-- ZFSET (R391). -/
def execZfset (p : Pred) (a : Code) (idx : Fin 16) : State → Res :=
  issue p none [rg a] fun s =>
    let v := (s.operand [a] 0).toNat
    if !zfValid idx.val v then s.trapWord .illmod
    else if s.myCore.claims.look idx.val ≠ some s.me.lid then s.trap .prot (Word.ofNat (0x8000 * idx.val))
    else (s.modMyCore fun x => { x with zf := KMap.putD 0 x.zf idx.val v }).retire

/-- ZFGET (R391). -/
def execZfget (p : Pred) (d : Code) (idx : Fin 16) : State → Res :=
  compute0 p d fun s => Word.ofNat (s.myCore.zone idx.val)

/-- SCLW (R392). -/
def execSclw (p : Pred) (a : Code) (idx : Fin 16) : State → Res :=
  issue p none [rg a] fun s =>
    let v := (s.operand [a] 0).toNat
    (s.modMyCore fun x => { x with scl := KMap.putD sclReset x.scl idx.val (Word.ofNat (v - bits v 31 16 * 2 ^ 16)) }).retire

/-- A ZF value decodes through a codebook table. -/
def usesBook (z table : Nat) : Bool := zfFmt z = 18 && zfCbi z = table

/-- A job of a cluster decodes or encodes through a table of its store: the zones of the cluster's cores that its operands,
its multicast copies or its receive buffer lie in. -/
def State.jobUses (s : State) (cl : Nat) (j : Job) (table : Nat) : Bool :=
  let zoneAt := fun (c off captured : Nat) => if c = j.core then captured else (s.core c).zone (zoneOf off)
  let uses := fun (a : Word) (captured : Nat) =>
    a.toNat < 2 ^ 57 && isWindow a.toNat && s.winHere a.toNat && clusterOf (winCore a.toNat) = cl
    && usesBook (if j.started then captured else zoneAt (winCore a.toNat) (winOff a.toNat) captured) table
  let many := j.ecmd = 0x20 && (clusterCores cl).any fun c =>
    bit (bits j.n 7 0) (c % 8) && usesBook (j.zfs.lookD c ((s.core c).zone (zoneOf (s.jobOff j c (winOff j.q2.toNat))))) table
  let buf := (s.jobDesc cl j).getD j.n 0
  let coll := 0x30 ≤ j.ecmd && j.ecmd ≤ 0x32
  uses j.q1 j.zx || many
  || (if coll then uses buf (if j.started then j.zw else (s.core (winCore buf.toNat)).zone (zoneOf (s.jobOff j (winCore buf.toNat) (winOff buf.toNat))))
      else uses j.q2 j.zw)

/-- A ring entry decodes or encodes through a table of its cluster. -/
def State.entryUses (s : State) (c : Nat) (e : Entry) (table : Nat) : Bool :=
  if e.isEnq then s.jobUses (clusterOf c) (s.jobOf c 0 e) table
  else usesBook e.z0 table || usesBook e.z1 table || usesBook e.z2 table || usesBook e.z3 table

/-- The entries and jobs of a cluster that use a table. -/
def State.bookUsers (s : State) (cl table : Nat) : List (Nat × Nat) × List (Nat × Nat) :=
  ((clusterCores cl).flatMap fun c => ((s.core c).ring.filter fun e => s.entryUses c e table).map fun e => (c, e.seq),
   [0, 1, 2].flatMap fun g => (((s.cluster cl).queue g).filter fun j => s.jobUses cl j table).map fun j => (g, j.seq))

/-- CBLD (R393): the 16 entries at once, after the entries and jobs that use the table. -/
def execCbld (p : Pred) (a : Code) (idx : Fin 8) : State → Res :=
  issue p none [rg a] fun s =>
    let ea := s.operand [a] 0
    let cl := clusterOf s.cur.core
    s.locate false ea 32 .read (badAccess .read) fun pl s =>
      let (ents, jobs) := s.bookUsers cl idx.val
      if !s.me.prog.finished && (ents ≠ [] || jobs ≠ []) then s.takeSources.parkMe (.cbld idx.val ents jobs)
      else
        s.readAt pl ea 32 true (badAccess .read) fun v s =>
          let table := (List.range 16).map fun i => bits v (16 * i + 15) (16 * i)
          (s.modCluster cl fun x =>
            { x with codebook := x.codebook.put idx.val table, cbPoison := x.cbPoison.filter (· ≠ idx.val) }).retire

/-- CHWP (R394): a load after it sees the bytes that it counts, so it drops the lines of the data cache as an acquire does
(R168, R218). -/
def execChwp (p : Pred) (d : Code) (idx : Fin 16) : State → Res :=
  issue p (some (rg d)) [] fun s =>
    let v := Word.ofNat (s.myCluster.chanPtr.lookD idx.val 0)
    ((s.acquire .clus).wr d v).retire

/-! ### Other events of jobs -/

/-- ENGINE_BADCMD (R317): a command that the table does not list. -/
def execEngineBadcmd (cluster eng : Nat) (s : State) : Res :=
  match ((s.cluster cluster).queue eng).find? fun j => !knownCmd j.ecmd && j.st = .queued
      && ((s.cluster cluster).headJob eng (if eng = 2 then some j.chan else none)).map Job.seq = some j.seq with
  | some j => .next (s.jobEnd cluster j .badcmd ⟨0, 0, 0⟩)
  | none => .next s

/-- A write of an HCFG register (R272). -/
def State.hcfgWrite (s : State) (cl eng : Nat) (v : Word) : State :=
  let n := v.toNat
  s.modCluster cl fun x =>
    let x := { x with hcfg := x.hcfg.put eng (Word.ofNat (bits n 6 0 + 2 ^ 8 * bits n 9 8 + 2 ^ 11 * bits n 11 11)) }
    if bit n 10 then { x with hist := x.hist.del eng, histFrozen := x.histFrozen.filter (· ≠ eng) } else x

/-- A register write by the thread in a slot, at KER level or above. -/
def State.atKer (s : State) (core slot : Nat) (f : State → State) : Res :=
  match s.thread? core slot with
  | some t => if 1 ≤ t.pl then .next (f s) else .next s
  | none => .next s

/-- HCFG_WRITE (R272). -/
def execHcfgWrite (core slot eng : Nat) (v : Word) (s : State) : Res :=
  s.atKer core slot fun s => if eng < 3 then s.hcfgWrite (clusterOf core) eng v else s

end Sys2Proof.Machine
end

