-- ==== Sys2Proof/Machine/WorkGraph.lean ====
section
/-!
DEFINITION. The three cluster mechanisms that deliver frames without a deque: the dispenser (R123 to R125), work graphs
(R126 to R128, R429) and payload slots (R129, R130, R430), with their instructions, register writes and events.
-/

namespace Sys2Proof.Machine

/-! ### Register writes that are releases -/

/-- Makes a thread of a slot the one whose instruction is performed. -/
def State.asThread (s : State) (core slot : Nat) : State := { s with cur := ⟨core, slot, 0, 0, []⟩ }

/-- A register write, made by the thread in a slot, that is a release: the effect follows once the release completes
(R206); an event that finds it incomplete begins it, and takes effect when it is taken again. -/
def State.releasedWrite (s : State) (core slot : Nat) (sc : Scope) (k : State → State) : Res :=
  match s.thread? core slot with
  | none => .next s
  | some _ =>
    match (s.asThread core slot).release sc with
    | (true, s) => .next ((k s).modThread core slot fun t => { t with prog := { t.prog with released := false } })
    | (false, s) => .next s

/-- A register write by the thread in a slot, at any level. -/
def State.atThread (s : State) (core slot : Nat) (f : State → State) : Res :=
  match s.thread? core slot with
  | some _ => .next (f s)
  | none => .next s

/-! ### The dispenser (R123 to R125) -/

/-- Changes a cluster's dispenser. -/
def State.modDisp (s : State) (cl : Nat) (f : Disp → Disp) : State := s.modCluster cl fun x => { x with disp := f x.disp }

/-- The dispenser unbinds: its frame of the launch stops counting (R124). -/
def State.dispUnbind (s : State) (cl : Nat) : State :=
  let d := (s.cluster cl).disp
  if !d.en then s
  else (s.countFrame d.part d.lid (8 * cl) (-1)).modDisp cl fun d =>
    { d with en := false, closing := false, lid := 0, parked := none }

/-- A write of DRCFG by a thread of the cluster (R124). -/
def State.drcfgWrite (s : State) (core slot : Nat) (v : Word) : State :=
  let cl := clusterOf core
  let d := (s.cluster cl).disp
  let n := v.toNat
  let sz := bits n 12 8
  match s.thread? core slot, s.corePart core with
  | some t, some pno =>
    if d.en then
      if bit n 0 then s
      else if d.head = d.tail then s.dispUnbind cl
      else s.modDisp cl fun d => { d with closing := true }
    else if bit n 0 then
      if sz < 4 || 12 < sz || d.base.toNat % (64 * 2 ^ sz) ≠ 0 then s
      else (s.countFrame pno t.lid core 1).modDisp cl fun d =>
        { d with log2sz := sz, en := true, closing := false, lid := t.lid, part := pno, head := 0, tail := 0, tag := t.tag,
                 parked := none }
    else s.modDisp cl fun d => { d with log2sz := sz }
  | _, _ => s

/-- A write of DRBASE (R123, R124). -/
def State.drbaseWrite (s : State) (cl : Nat) (v : Word) : State :=
  s.modDisp cl fun d => if d.en then d else { d with base := Word.ofNat (v.toNat / 64 * 64) }

/-- The effect of a write to DTAIL (R124). -/
def State.dtailEffect (s : State) (cl : Nat) (v : Word) : State :=
  s.modDisp cl fun d =>
    let n := v.toNat % 2 ^ 32
    if d.en && (n + 2 ^ 32 - d.head) % 2 ^ 32 ≤ 2 ^ d.log2sz then { d with tail := n } else d

/-- A write to DTAIL that leaves HEAD equal to TAIL unbinds a dispenser whose EN was cleared (R124). -/
def State.dtailWrite (s : State) (cl : Nat) (v : Word) : State :=
  let s := s.dtailEffect cl v
  let d := (s.cluster cl).disp
  if d.closing && d.head = d.tail then s.dispUnbind cl else s

/-- DRCFG_BIND (R124). -/
def execDrcfgBind (core slot : Nat) (v : Word) (s : State) : Res :=
  if bit v.toNat 0 && !(s.cluster (clusterOf core)).disp.en then s.atKer core slot fun s => s.drcfgWrite core slot v else .next s

/-- DRCFG_UNBIND (R124). -/
def execDrcfgUnbind (core slot : Nat) (v : Word) (s : State) : Res :=
  if !bit v.toNat 0 then s.atKer core slot fun s => s.drcfgWrite core slot v else .next s

/-- DTAIL_WRITE (R124). -/
def execDtailWrite (core slot : Nat) (v : Word) (s : State) : Res :=
  s.releasedWrite core slot .pkg fun s => s.dtailWrite (clusterOf core) v

/-- A fatal fault of the dispenser's ring (R125): it unbinds, one fatal fault of the launch counts, with a record. -/
def State.dispFatal (s : State) (cl : Nat) (va : Nat) (cause : Cause) : State :=
  let d := (s.cluster cl).disp
  ((s.countFatal d.part d.lid false).emit { s.obs 6 d.part with code := cause.code, addr := va, lid := d.lid }).dispUnbind cl

/-- The cores of a cluster in rotation, starting after one. -/
def rotation (cl last : Nat) : List Nat := (List.range 8).map fun i => 8 * cl + (last + 1 + i) % 8

/-- The dispenser of a cluster has a frame of a launch (R106, source 2). -/
def Cluster.dispServes (x : Cluster) (part lid : Nat) : Bool :=
  x.disp.en && x.disp.lid = lid && x.disp.part = part && x.disp.head ≠ x.disp.tail && x.disp.parked.isNone

/-- DISPENSER_DELIVER (R125). -/
def execDispenserDeliver (cluster : Nat) (s : State) : Res :=
  let d := (s.cluster cluster).disp
  match s.launch? d.part d.lid with
  | none => .next s
  | some l =>
    if !d.en || d.head = d.tail || d.parked.isSome then .next s
    else
      match s.placeIn (rotation cluster d.last) l false with
      | none => .next s
      | some (c, sl, placed) =>
        let va := d.base.toNat + 64 * (d.head % 2 ^ d.log2sz)
        match placed.unitRead (.cluster cluster) d.part (l.pl = 0) va 64 with
        | .error (.fault kind level) =>
          if (s.part d.part).fren then
            .next ((s.faultMsg d.part va .read kind level).modDisp cluster fun d => { d with parked := some (Word.ofNat va, kind, level) })
          else .next (s.dispFatal cluster va (faultCause kind))
        | .error .malformed => .next ((s.malformedRecord d.part va).dispFatal cluster va .prot)
        | .error (.dead cause) => .next (s.dispFatal cluster va cause)
        | .ok (bs, s) =>
          let s := (s.countFrame d.part d.lid c 1).setOut c sl l 3 ⟨leWords 8 bs, d.tag, d.lid, none⟩
          let head := (d.head + 1) % 2 ^ 32
          let s := s.modDisp cluster fun d => { d with head := head, last := c % 8 }
          .next (if d.closing && head = d.tail then s.dispUnbind cluster else s)

/-! ### Work graphs (R126 to R128) -/

/-- A parked thread of a cluster that waits in WGALLOC, in a slot, displaced or saved: arrival stamp, core, thread
number. -/
def State.allocators (s : State) (cl : Nat) : List (Nat × Nat × Nat) :=
  let l := (clusterCores cl).flatMap fun c =>
    let x := s.core c
    (x.threads.map Prod.snd ++ x.displaced.map Prod.fst ++ x.saved).filterMap fun t =>
      match t.park with
      | some ⟨.wgalloc, n, _⟩ => if t.prog.handed.isNone then some (n, c, t.sth) else none
      | _ => none
  sortBy l

/-- The mark of a record handed to an allocator that has not run again. -/
abbrev handedNode : Nat := 16

/-- Records of a graph that are not free. -/
def WGraph.used (g : WGraph) : List Nat := g.alloc.keys ++ (g.nodes.flatMap WgNode.pend) ++ g.batches.flatMap Batch.live

/-- Lowest-numbered free record. -/
def WGraph.freeRec (g : WGraph) : Option Nat := let u := g.used; (List.range g.p).find? fun r => !u.contains r

/-- Address of a record. -/
def WGraph.recAddr (g : WGraph) (r : Nat) : Word := Word.ofNat (g.pool.toNat + 64 * r)

/-- The record that an address names. -/
def WGraph.recOf (g : WGraph) (a : Word) : Option Nat :=
  let n := a.toNat
  if g.pool.toNat ≤ n && (n - g.pool.toNat) % 64 = 0 && (n - g.pool.toNat) / 64 < g.p then some ((n - g.pool.toNat) / 64) else none

/-- Changes a cluster's bound graph. -/
def State.modGraph (s : State) (cl : Nat) (f : WGraph → WGraph) : State :=
  s.modCluster cl fun x => { x with wg := x.wg.map f }

/-- Changes a node of a graph. -/
def WGraph.modNode (g : WGraph) (k : Nat) (f : WgNode → WgNode) : WGraph :=
  { g with nodes := g.nodes.mapIdx fun i n => if i = k then f n else n }

/-- The lowest handle that no live batch holds (R429). -/
def WGraph.freeHandle (g : WGraph) : Nat :=
  ((List.range 4096).find? fun h => !(g.batches.any fun b => b.handle = h)).getD 0

/-- The pending batch of a node launches (R128). -/
def WGraph.launchBatch (g : WGraph) (k : Nat) : WGraph :=
  match g.nodes[k]? with
  | none => g
  | some n =>
    if n.pend = [] then g
    else { g.modNode k (fun n => { n with pend := [] }) with
      batches := g.batches ++ [⟨k, g.freeHandle, n.pend, n.pend, false⟩] }

/-- A batch whose cycle t0 + T has passed has launched before a record is added to it (R128). -/
def WGraph.launchDue (g : WGraph) (now k : Nat) : WGraph :=
  match g.nodes[k]? with
  | some n => if n.pend ≠ [] && n.t0 + n.t < now then g.launchBatch k else g
  | none => g

/-- The graph of the cluster, if it belongs to the issuing thread's launch; PROT otherwise (R429). -/
def State.withGraph (s : State) (k : WGraph → State → State) : State :=
  match s.myCluster.wg with
  | some g => if g.lid = s.me.lid && g.part = s.myPartNo then k g s else s.trap .prot 0
  | none => s.trap .prot 0

/-- The allocation that ends WGALLOC (R429). -/
def State.takeRecord (s : State) (d : Code) (r k : Nat) (a : Word) : State :=
  (((s.modGraph (clusterOf s.cur.core) fun g => { g with alloc := g.alloc.put r k }).acquire .clus).wr d a).retire

/-- WGALLOC (R429). -/
def execWgalloc (p : Pred) (d a : Code) : State → Res :=
  issue p (some (rg d)) [rg a] fun s =>
    let k := s.operand [a] 0
    s.withGraph fun g s =>
      if g.nodes.length ≤ k.toNat then s.trap .prot k
      else
        match s.me.prog.handed with
        | some w =>
          match g.recOf w with
          | some r => s.takeRecord d r k.toNat w
          | none => s.trap .prot 0
        | none =>
          match g.freeRec with
          | some r => s.takeRecord d r k.toNat (g.recAddr r)
          | none => s.takeSources.parkMe .wgalloc

/-- WGEMIT (R429, R128). -/
def execWgemit (p : Pred) (a b : Code) : State → Res :=
  issue p none [rg a, rg b] fun s =>
    let ra := s.operand [a, b] 0
    let k := s.operand [a, b] 1
    s.withGraph fun g s =>
      if g.nodes.length ≤ k.toNat then s.trap .prot k
      else
        match g.recOf ra with
        | none => s.trap .prot ra
        | some r =>
          if g.alloc.look r ≠ some k.toNat then s.trap .prot ra
          else s.takeSources.releaseThen .clus fun s =>
            let cl := clusterOf s.cur.core
            let g := g.launchDue s.clk k.toNat
            let s := s.modGraph cl fun _ => g
            let fresh := (g.nodes[k.toNat]?.map WgNode.pend).getD [] = []
            let s := if fresh then s.countFrame g.part g.lid s.cur.core 1 else s
            let s := s.modGraph cl fun g =>
              let g := { g with alloc := g.alloc.del r }
              let g := g.modNode k.toNat fun n =>
                { n with t0 := if n.pend = [] then s.clk else n.t0, pend := n.pend ++ [r] }
              match g.nodes[k.toNat]? with
              | some n => if n.b ≤ n.pend.length then g.launchBatch k.toNat else g
              | none => g
            s.retire

/-- WGTAKE (R429). -/
def execWgtake (p : Pred) (d a b : Code) : State → Res :=
  issue p (some (rg d)) [rg a, rg b] fun s =>
    let h := s.operand [a, b] 0
    let i := s.operand [a, b] 1
    s.withGraph fun g s =>
      match g.batches.find? fun t => t.handle = h.toNat with
      | none => s.trap .prot h
      | some t =>
        match t.recs[i.toNat]? with
        | none => s.trap .prot h
        | some r => (s.wr d (g.recAddr r)).retire

/-- A record becomes free, and goes straight to the oldest parked allocator (R128). -/
def State.freeRecord (s : State) (cl r : Nat) : State :=
  let s := s.modGraph cl fun g =>
    { g with alloc := g.alloc.del r,
             batches := (g.batches.map fun (b : Batch) => { b with live := b.live.filter (· ≠ r) }).filter fun b => b.live ≠ [] }
  match s.allocators cl, (s.cluster cl).wg with
  | (_, c, sth) :: _, some g =>
    let s := s.modGraph cl fun g => { g with alloc := g.alloc.put r handedNode }
    let s := s.modSth c sth fun t => { t with prog := { t.prog with handed := some (g.recAddr r) } }
    match slotOf (s.core c) sth with
    | some sl => s.wake c sl
    | none => s
  | _, _ => s

/-- A record may be freed (R429): emitted in a delivered batch, or allocated and not emitted. -/
def WGraph.freeable (g : WGraph) (r : Nat) : Bool :=
  (match g.alloc.look r with | some k => k ≠ handedNode | none => false)
  || g.batches.any fun b => b.delivered && b.live.contains r

/-- WGFREE (R429). -/
def execWgfree (p : Pred) (a : Code) : State → Res :=
  issue p none [rg a] fun s =>
    let ra := s.operand [a] 0
    s.withGraph fun g s =>
      match g.recOf ra with
      | none => s.trap .prot ra
      | some r =>
        if !g.freeable r then s.trap .prot ra
        else s.takeSources.releaseThen .clus fun s => (s.freeRecord (clusterOf s.cur.core) r).retire

/-- Fields of a descriptor out of range or misaligned (R126, R127: code 3), VMIN among them. -/
def wgBadField (a : Nat) (hdr nodes : List Byte) : Bool :=
  let nn := dfield hdr 8 2
  let p := dfield hdr 10 2
  a % 64 ≠ 0 || dfield hdr 6 2 ≠ 0 || nn = 0 || 16 < nn || p = 0 || 4096 < p || dfield hdr 16 8 % 64 ≠ 0
  || (List.range nn).any fun i =>
    let n := nodes.drop (32 * i)
    dfield n 0 8 % 8 ≠ 0 || dfield n 8 1 = 0 || 8 < dfield n 8 1 || dfield n 12 4 = 0 || 2 ^ 20 < dfield n 12 4

/-- A zero byte of a descriptor is not zero (code 4). -/
def wgBadZero (hdr nodes : List Byte) : Bool :=
  dfield hdr 12 4 ≠ 0 || dfield hdr 24 8 ≠ 0
  || (List.range (dfield hdr 8 2)).any fun i =>
    let n := nodes.drop (32 * i)
    dfield n 9 3 ≠ 0 || dfield n 24 8 ≠ 0

/-- The code that rejects a descriptor, or its header and nodes. With a graph bound the code is 5, whatever the descriptor
holds (R127, R437). -/
def State.wgRead (s : State) (pno a : Nat) (cl : Nat) : Except (Nat × State) (List Byte × List Byte × State) :=
  if (s.cluster cl).wg.isSome then .error (5, s)
  else
    match s.lodgeRead pno a 32 with
    | .error e => .error (1, s.lodgeMet pno e)
    | .ok (hdr, s) =>
      if hdr.take 4 ≠ [0x57, 0x47, 0x52, 0x46] || dfield hdr 4 2 ≠ 1 then .error (2, s)
      else
        match s.lodgeRead pno (a + 32) (32 * min (dfield hdr 8 2) 16) with
        | .error e => .error (1, s.lodgeMet pno e)
        | .ok (nodes, s) =>
          if wgBadField a hdr nodes then .error (3, s)
          else if wgBadZero hdr nodes then .error (4, s)
          else .ok (hdr, nodes, s)

/-- A write of WGDA by the thread in a slot (R127). -/
def State.wgdaWrite (s : State) (core slot : Nat) (v : Word) : State :=
  let cl := clusterOf core
  match s.thread? core slot, s.corePart core with
  | some t, some pno =>
    if v = 0 then
      match (s.cluster cl).wg with
      | some g =>
        if g.lid = t.lid && g.part = pno && g.alloc = [] && (g.nodes.all fun n => n.pend = [])
            && (g.batches.all fun b => b.delivered && b.live = []) && s.allocators cl = [] then
          s.modCluster cl fun x => { x with wg := none, wgcode := 0, wgstate := 0 }
        else s
      | none => s
    else
      let s := s.acquireOn core .clus
      match s.wgRead pno v.toNat cl with
      | .error (code, s) => s.modCluster cl fun x => { x with wgcode := code, wgstate := if x.wg.isSome then 1 else 3 }
      | .ok (hdr, nodes, s) =>
        let ns : List WgNode := (List.range (dfield hdr 8 2)).map fun i =>
          let n := nodes.drop (32 * i)
          ⟨Word.ofNat (dfield n 0 8), dfield n 8 1, dfield n 12 4, Word.ofNat (dfield n 16 8), [], 0⟩
        let g : WGraph := ⟨v, t.lid, pno, t.tag, Word.ofNat (dfield hdr 16 8), dfield hdr 10 2, ns, [], []⟩
        s.modCluster cl fun x => { x with wg := some g, wgcode := 0, wgstate := 1 }
  | _, _ => s

/-- WGDA_BIND (R127). -/
def execWgdaBind (core slot : Nat) (v : Word) (s : State) : Res :=
  if v = 0 then .next s else s.atKer core slot fun s => s.wgdaWrite core slot v

/-- WGDA_UNBIND (R127). -/
def execWgdaUnbind (core slot : Nat) (s : State) : Res := s.atKer core slot fun s => s.wgdaWrite core slot 0

/-- WG_BATCH_TIMEOUT (R128): at cycle t0 + T. -/
def execWgBatchTimeout (cluster node : Nat) (s : State) : Res :=
  match (s.cluster cluster).wg with
  | none => .next s
  | some g =>
    match g.nodes[node]? with
    | none => .next s
    | some n => if n.pend = [] then .next s else .next ((s.pass (n.t0 + n.t)).modGraph cluster fun g => g.launchBatch node)

/-- The frame of a batch (R128). -/
def WGraph.frame (g : WGraph) (b : Batch) : Frame :=
  let n := g.nodes[b.node]?
  ⟨[(n.map WgNode.entry).getD 0, (n.map WgNode.join).getD 0, Word.ofNat b.handle, Word.ofNat b.recs.length,
    Word.ofNat b.node, 0, 0, 0], g.tag, g.lid, none⟩

/-- Marks the first undelivered batch delivered. -/
def markDelivered : List Batch → List Batch
  | [] => []
  | b :: l => if b.delivered then b :: markDelivered l else { b with delivered := true } :: l

/-- The first launched batch that is not delivered. -/
def WGraph.ready (g : WGraph) : Option Batch := g.batches.find? fun b => !b.delivered

/-- Gives the next batch of a cluster's graph to a slot. -/
def State.batchTo (s : State) (cl c sl : Nat) (l : Launch) (g : WGraph) (b : Batch) : State :=
  ((s.setOut c sl l 4 (g.frame b)).modGraph cl fun g => { g with batches := markDelivered g.batches }).modCluster cl fun x =>
    { x with wgLast := c % 8 }

/-- WG_BATCH_DELIVER (R128). -/
def execWgBatchDeliver (cluster : Nat) (s : State) : Res :=
  match (s.cluster cluster).wg with
  | none => .next s
  | some g =>
    match g.ready, s.launch? g.part g.lid with
    | some b, some l =>
      let x := s.cluster cluster
      match s.placeIn (rotation cluster x.wgLast) l (x.dispServes g.part g.lid) with
      | some (c, sl, s) => .next (s.batchTo cluster c sl l g b)
      | none => .next s
    | _, _ => .next s

/-! ### Payload slots (R129, R130, R430) -/

/-- Address of a payload slot. -/
def Cluster.payAddr (x : Cluster) (n : Nat) : Word := x.payb + Word.ofNat (16384 * n)

/-- The lowest free payload slot. -/
def Cluster.freePay (x : Cluster) : Option Nat := (List.range 4).find? fun n => (x.pays.look n).isNone

/-- Threads parked in PAYA in a cluster, oldest first. -/
def State.payWaiters (s : State) (cl : Nat) : List (Nat × Nat × Nat) :=
  let l := (clusterCores cl).flatMap fun c => (s.core c).threads.filterMap fun e =>
    match e.2.park with
    | some ⟨.paya, n, _⟩ => some (n, c, e.1)
    | _ => none
  sortBy l

/-- Takes a slot for a launch. -/
def State.holdPay (s : State) (cl n lid pno : Nat) : State :=
  s.modCluster cl fun x => { x with pays := x.pays.put n ⟨1, lid, pno, 0, 0, 0, 0, 0⟩ }

/-- PAYA (R430, R130). -/
def execPaya (p : Pred) (d : Code) : State → Res :=
  issue p (some (rg d)) [] fun s =>
    let x := s.myCluster
    if x.payb = 0 then s.trap .prot 0
    else
      match s.me.prog.handed with
      | some a => ((s.acquire .clus).wr d a).retire
      | none =>
        let older := (s.payWaiters (clusterOf s.cur.core)).any fun e =>
          match s.me.prog.stamp with | some m => e.1 < m | none => true
        match x.freePay with
        | some n =>
          if older then s.parkMe .paya
          else (((s.holdPay (clusterOf s.cur.core) n s.me.lid s.myPartNo).acquire .clus).wr d (x.payAddr n)).retire
        | none => s.parkMe .paya

/-- PAYA_WAKE (R130): the oldest parked PAYA takes the lowest free slot. -/
def execPayaWake (cluster : Nat) (s : State) : Res :=
  let x := s.cluster cluster
  match x.freePay, s.payWaiters cluster with
  | some n, (_, c, sl) :: _ =>
    match s.thread? c sl, s.corePart c with
    | some t, some pno =>
      .next ((s.holdPay cluster n t.lid pno).wakeWith c sl fun g => { g with handed := some (x.payAddr n) })
    | _, _ => .next s
  | _, _ => .next s

/-- The slot that an address names, held by a launch and not published (R430). -/
def Cluster.heldPay (x : Cluster) (a : Word) (lid pno : Nat) : Option Nat :=
  (List.range 4).find? fun n => x.payAddr n = a
    && (match x.pays.look n with | some q => q.st = 1 && q.lid = lid && q.part = pno | none => false)

/-- PAYP (R430, R130). -/
def execPayp (p : Pred) (a b c : Code) : State → Res :=
  issue p none [rg a, rg b, rg c] fun s =>
    let sa := s.operand [a, b, c] 0
    let entry := s.operand [a, b, c] 1
    let n := s.operand [a, b, c] 2
    let x := s.myCluster
    if x.payb = 0 then s.trap .prot 0
    else
      match x.heldPay sa s.me.lid s.myPartNo with
      | none => s.trap .prot sa
      | some sl =>
        if n.toNat = 0 || 256 < n.toNat then s.trap .prot n
        else s.takeSources.releaseThen .clus fun s =>
          let t := s.me
          let s := s.countFrame s.myPartNo t.lid s.cur.core (n.toNat : Int)
          (s.modMyCluster fun x =>
            { x with pays := x.pays.put sl ⟨2, t.lid, s.myPartNo, entry, n.toNat, 0, 0, t.tag⟩ }).retire

/-- The published slot whose frames go next. -/
def Cluster.payReady (x : Cluster) : Option (Nat × PaySlot) := x.pays.find? fun e => e.2.st = 2 && e.2.next < e.2.n

/-- The next frame of a mesh group (R130). -/
def Cluster.payFrame (x : Cluster) (cl n : Nat) (q : PaySlot) : Frame :=
  ⟨[q.entry, 0, x.payAddr n, Word.ofNat q.next, Word.ofNat q.n, Word.ofNat n, 0, 0], q.tag, q.lid, some (cl, n)⟩

/-- Gives the next frame of a payload slot to a thread. -/
def State.payTo (s : State) (cl c sl : Nat) (l : Launch) (n : Nat) (q : PaySlot) : State :=
  (s.setOut c sl l 5 ((s.cluster cl).payFrame cl n q)).modCluster cl fun x =>
    match x.pays.look n with
    | some q => { x with pays := x.pays.put n { q with next := q.next + 1 }, payLast := c % 8 }
    | none => x

/-- The graph of a cluster has a batch to deliver to a launch (R106, source 3). -/
def Cluster.wgServes (x : Cluster) (part lid : Nat) : Option (WGraph × Batch) :=
  x.wg.bind fun g => if g.lid = lid && g.part = part then g.ready.map fun b => (g, b) else none

/-- PAYLOAD_FRAME_DELIVER (R130). -/
def execPayloadFrameDeliver (cluster : Nat) (s : State) : Res :=
  match (s.cluster cluster).payReady with
  | none => .next s
  | some (n, q) =>
    match s.launch? q.part q.lid with
    | none => .next s
    | some l =>
      let x := s.cluster cluster
      match s.placeIn (rotation cluster x.payLast) l (x.dispServes q.part q.lid || (x.wgServes q.part q.lid).isSome) with
      | some (c, sl, s) => .next (s.payTo cluster c sl l n q)
      | none => .next s

/-! ### Delivery to a given thread (R106) -/

/-- A published slot of a cluster has a frame for a launch (R106, source 4). -/
def Cluster.payServes (x : Cluster) (part lid : Nat) : Option (Nat × PaySlot) :=
  x.pays.find? fun e => e.2.st = 2 && e.2.next < e.2.n && e.2.lid = lid && e.2.part = part

/-- One of the cluster's sources, 2 to 4 of R106, has a frame for a launch. -/
def Cluster.serves (x : Cluster) (part lid : Nat) : Bool :=
  x.dispServes part lid || (x.wgServes part lid).isSome || (x.payServes part lid).isSome

/-- THREAD_CREATE (R107): for a deliverable entry, or a steal reply that has arrived, of a launch that has no thread in
WFW on the core; a reply goes last, after what the cluster's sources have for the launch (R106). -/
def execThreadCreate (core lid : Nat) (s : State) : Res :=
  match s.corePart core with
  | none => .next s
  | some pno =>
    match s.launch? pno lid with
    | none => .next s
    | some l =>
      if ((s.core core).threads.any fun e => s.inWfw core lid e.1 e.2) || (s.newThread core l).isNone then .next s
      else
        let go := fun (e : Coming) (s : State) =>
          match s.newThread core l with
          | some (sl, s) => s.deliverComing core sl l e
          | none => s
        match s.dqTake core pno l none with
        | .entry e s => .next (go ⟨2, 0, e.frame⟩ s)
        | .wait s | .lost s => .next s
        | .none =>
          if (s.cluster (clusterOf core)).serves pno lid then .next s
          else match (s.core core).stolen lid with
          | some e => .next (go e (s.modCore core fun x => x.takeStolen lid))
          | none => .next s

/-- FRAME_DELIVERY (R106): a frame on its way to the thread reaches it, or the first source that has one for the thread in
WFW gives it. -/
def execFrameDelivery (core slot : Nat) (s : State) : Res :=
  match s.thread? core slot, s.corePart core with
  | some t, some pno =>
    let cl := clusterOf core
    let x := s.cluster cl
    match s.launch? pno t.lid with
    | none => .next s
    | some l =>
      match (s.core core).comingTo slot with
      | some f => if s.takesFrames core then .next (s.comesIn core slot l f) else .next s
      | none =>
      if s.idleSlot core t.lid = none || !t.waits t.lid || !s.inWfw core t.lid slot t || !(s.core core).zonesFree l then .next s
      else
        match s.dqTake core pno l (some t.sth) with
        | .entry e s => .next (s.deliverEntry core slot l e)
        | .wait s | .lost s => .next s
        | .none =>
          if x.dispServes pno t.lid then execDispenserDeliver cl s
          else
            match x.wgServes pno t.lid with
            | some (g, b) => .next (s.batchTo cl core slot l g b)
            | none =>
              match x.payServes pno t.lid with
              | some (n, q) => .next (s.payTo cl core slot l n q)
              | none =>
                match (s.core core).stolen t.lid with
                | some e => .next ((s.modCore core fun x => x.takeStolen t.lid).deliverComing core slot l e)
                | none => .next s
  | _, _ => .next s

end Sys2Proof.Machine
end

