-- ==== Sys2Proof/Machine/Wakes.lean ====
section
/-!
DEFINITION. Events that wake parked threads and that move what is in flight on the device: channels and proxy batches
(R152 to R155), full cells (R167), the store buffer (R176), atomics at slices (R180), watched words (R181, R112), k
registers (R359), PARK (R364), release probes (R206), acknowledgements (R175), stops (R222), invalidations (R341), table
walks (R187), and the sleep of cores (R171).
-/

namespace Sys2Proof.Machine

/-- What a thread in a slot is parked for. -/
def State.whyOf (s : State) (c sl : Nat) : Option Park := (s.thread? c sl).bind (·.park)

/-- A flight by its number. -/
def State.flight? (s : State) (id : Nat) : Option Sent := s.flights.find? fun f => f.id = id

/-- Removes a flight. -/
def State.landed (s : State) (id : Nat) : State := { s with flights := s.flights.filter fun f => f.id ≠ id }

/-! ### Channels -/

/-- CHANNEL_WAKE (R152, R153, R358, R386): what the thread waits for on its channels has appeared. A thread whose ENQ was
accepted pushes its identifier and goes on; any other runs its instruction again. -/
def execChannelWake (core slot : Nat) (s : State) : Res :=
  let x := s.core core
  match s.thread? core slot with
  | none => .next s
  | some t =>
    match t.park with
    | some ⟨.chan reads write peek, n, _⟩ =>
      if !chansReady x slot (some n) reads write peek then .next s
      else
        match t.prog.finished, t.prog.handed, write with
        | true, some v, some ch =>
          if s.pushWaits core t.sth ch then .next s
          else .next (((s.push core ch t.sth v).modThread core slot fun t => { t with park := none, prog := Prog.fresh }).noteState core slot 0)
        | _, _, _ => .next (s.wake core slot)
    | some ⟨.qbind ch acks, _, _⟩ =>
      let q := x.chan ch
      let out := (q.bind.map Bind.out).getD 0
      if q.vals = [] && (x.pushers.look ch).isNone && (!acks || out = 0) then .next (s.wake core slot) else .next s
    | _ => .next s

/-- PROXY_BATCH_TIMEOUT (R154): 64 core cycles after its first entry was pushed the batch leaves. -/
def execProxyBatchTimeout (core chan : Nat) (s : State) : Res :=
  let q := (s.core core).chan chan
  if q.bind.isNone || q.vals = [] || q.due then .next s
  else .next ((s.pass (q.since + 64)).sendBatch core chan)

/-- A forwarded entry is pushed at its true queue (R155): it is acknowledged to the thread that pushed it, and its credit
goes back when it is popped. -/
def State.proxyPush (s : State) (core chan : Nat) (src : Source) (v : Word) : State :=
  let q := (s.core core).chan chan
  match q.bind with
  | none => s.modCore core fun x => x.setChan chan { q with vals := q.vals ++ [(v, 2 ^ 32)], src := q.src ++ [some src] }
  | some _ =>
    let s := s.push core chan (2 ^ 32) v
    match src with
    | .core c ch gen => s.send core 0 0 (.credit c ch gen)
    | .device dev from' id => s.depart dev (some (ordKey s.devnum core, ordKey dev from')) (.credit dev id)

/-- An ORD packet from one core to another of this device is on its way (R15): a batch or a credit. -/
def Sent.ordTo (f : Sent) (src dst : Nat) : Bool :=
  f.core = src && (match f.what with
    | .proxy d _ _ _ _ here => d = dst && !here
    | .credit d _ _ => d = dst
    | _ => false)

/-- Flights sent before one. -/
def State.before (s : State) (id : Nat) : List Sent := s.flights.takeWhile fun f => f.id ≠ id

/-- Entries that wait at a true queue, from before a flight: of one core's batches, or of those of other devices. -/
def Sent.queuedAt (f : Sent) (dst ch : Nat) (src : Option Nat) : Bool :=
  match f.what, src with
  | .proxy d c _ _ _ true, some n => d = dst && c = ch && f.core = n
  | .inbox c _ _ _ _, none => f.core = dst && c = ch
  | _, _ => false

/-- Changes what a flight is. -/
def State.setFlight (s : State) (id : Nat) (w : Flight) : State :=
  { s with flights := s.flights.map fun f => if f.id = id then { f with what := w } else f }

/-- Room for entries in a channel (R152). -/
def Core.room (x : Core) (ch : Nat) : Nat := 16 - (x.chan ch).vals.length

/-- PROXY_DELIVERY (R154, R155): ORD packets of one core for one core arrive in order (R15); entries for which the true
queue has no room wait there, in their order. -/
def execProxyDelivery (id : Nat) (s : State) : Res :=
  match s.flight? id with
  | some ⟨_, _, c, _, _, .proxy dst ch vals fromChan gen _⟩ =>
    let l := s.before id
    if (l.any fun f => f.ordTo c dst) || (l.any fun f => f.queuedAt dst ch (some c)) then .next s
    else
      let n := min vals.length ((s.core dst).room ch)
      let s := (vals.take n).foldl (fun (s : State) e =>
        (s.proxyPush dst ch (.core c fromChan gen) e.1).send c e.2 0 (.ack 1)) s
      if n = vals.length then .next (s.landed id)
      else .next (s.setFlight id (.proxy dst ch (vals.drop n) fromChan gen true))
  | some ⟨_, _, dst, _, _, .inbox ch dev score req vals⟩ =>
    if (s.before id).any fun f => f.queuedAt dst ch none then .next s
    else
      let n := min vals.length ((s.core dst).room ch)
      let s := (vals.take n).foldl (fun (s : State) v => s.proxyPush dst ch (.device dev score req) v) s
      if n = vals.length then .next ((s.landed id).depart dev none (.remoteReply req dev .ack))
      else .next (s.setFlight id (.inbox ch dev score req (vals.drop n)))
  | _ => .next s

/-- A channel gets credits back; a batch that is due then leaves (R154). -/
def State.credited (s : State) (c ch gen n : Nat) : State :=
  let q := (s.core c).chan ch
  match q.bind with
  | some b =>
    if b.gen ≠ gen then s
    else
      let s := s.modCore c fun x => x.setChan ch { q with bind := some { b with credits := b.credits + n, out := b.out - n } }
      if q.due then s.sendBatch c ch else s
  | none => s

/-- PROXY_CREDIT_RETURN (R154): a credit of this device, which ORD traffic keeps in order (R15), or one of those still out
for a batch delivered on another. -/
def execProxyCreditReturn (id : Nat) (s : State) : Res :=
  match s.flight? id with
  | some ⟨_, _, src, _, _, .credit c ch gen⟩ =>
    if (s.before id).any fun f => f.ordTo src c then .next s else .next ((s.landed id).credited c ch gen 1)
  | some ⟨_, _, c, _, _, .gcred ch gen n⟩ =>
    let s := if n ≤ 1 then s.landed id else s.setFlight id (.gcred ch gen (n - 1))
    .next (s.credited c ch gen 1)
  | _ => .next s

/-! ### Cells, k registers, cycles -/

/-- LDF_WAKE (R167, R365): when a cell is full, every non-consuming LDF parked on it is served, and the oldest consuming
one after them. -/
def execLdfWake (core slot : Nat) (s : State) : Res :=
  let x := s.core core
  match s.whyOf core slot with
  | some ⟨.ldf cell _, _, _⟩ =>
    if !x.full.contains cell then .next s
    else
      let plain := x.threads.filterMap fun e => match e.2.park with
        | some ⟨.ldf c false, _, _⟩ => if c = cell then some e.1 else none
        | _ => none
      let eater := oldestParked x fun w => w = .ldf cell true
      let served := plain ++ eater.toList
      if !served.contains slot then .next s
      else .next (served.foldr (fun sl (s : State) => s.wakeWith core sl fun g => { g with finished := true }) s)
  | _ => .next s

/-- The write of a k register that a core cycle sees under R150, unless a later write replaced it before it became
visible (R359). -/
def kStands : KReg → Option Nat → Nat → Option Word
  | [], _, _ => none
  | e :: h, newer, u =>
    if e.1 + 8 ≤ u then (match newer with | some n => if e.1 + 8 ≤ n then some e.2 else none | none => some e.2)
    else kStands h (some e.1) u

/-- KWAIT_WAKE (R359): once a write that makes the comparison hold is visible (R150), and was not replaced before. -/
def execKwaitWake (core slot : Nat) (s : State) : Res :=
  match s.whyOf core slot with
  | some ⟨.kwait k cmp ref, _, _⟩ =>
    let h := (s.core core).kregs.lookD k []
    let holds := fun (u : Nat) => (kStands h none u).any fun v => wcmpHolds cmp 64 v.toNat ref.toNat
    let go := fun (s : State) => s.wakeWith core slot fun g => { g with finished := true }
    let u := match h with | e :: _ => max s.clk (e.1 + 8) | [] => s.clk
    if holds s.clk then .next (go s)
    else if holds u then .next (go (s.pass u))
    else .next s
  | _ => .next s

/-- A thread is stopped by STOPW or a debug stop: its parking resumes under its own bound afterwards (R222). -/
def State.halted (s : State) (c sl : Nat) : Bool := (s.thread? c sl).any fun t => t.debugHeld || t.stopped ≠ []

/-- PARK_EXPIRE (R364). -/
def execParkExpire (core slot : Nat) (s : State) : Res :=
  match s.whyOf core slot with
  | some ⟨.until n, _, _⟩ => if s.halted core slot then .next s else .next ((s.pass n).wakeWith core slot fun g => { g with finished := true })
  | _ => .next s

/-! ### Stores, atomics, acknowledgements -/

/-- STORE_BUFFER_DRAIN (R176): entries of one line drain in store order. -/
def execStoreBufferDrain (core pos : Nat) (s : State) : Res :=
  let l := (s.core core).sbuf
  match l[pos]? with
  | none => .next s
  | some e => if (l.take pos).any fun o => lineOf o.addr = lineOf e.addr then .next s else .next (s.drainEntry core e)

/-- A flight up to and including the one of a number. -/
def upTo (id : Nat) (l : List Sent) : List Sent := l.filter fun f => f.id ≤ id

/-- SLICE_ATOMIC (R180): a RED or FRED is performed at its home slice, after the thread's earlier ones on the line. -/
def execSliceAtomic (id : Nat) (s : State) : Res :=
  match s.flight? id with
  | some f =>
    match f.what with
    | .red _ pa _ _ _ | .fred _ pa _ _ _ => .next (s.performAll (upTo id (s.myReds f.core f.sth (lineOf pa))))
    | _ => .next s
  | none => .next s

/-- STORE_ACK (R175): a store or reduce at another core's port is performed, after the thread's earlier ones there, and its
acknowledgement arrives; one performed already is acknowledged. -/
def execStoreAck (id : Nat) (s : State) : Res :=
  match s.flight? id with
  | some f =>
    match f.what with
    | .ack n => .next ((s.landed id).ackThread f.core f.sth n)
    | .wstore d _ _ _ | .wred d _ _ _ _ _ | .wfred d _ _ _ _ _ =>
      .next (((s.performAll (upTo id (s.toPort f.core f.sth d))).landed id).ackThread f.core f.sth 1)
    | _ => .next s
  | none => .next s

/-- RELEASE_PROBE_ECHO (R206): the thread's earlier stores at the slice have been performed. -/
def execReleaseProbeEcho (core slot slice : Nat) (s : State) : Res :=
  match s.thread? core slot with
  | none => .next s
  | some t =>
    match t.rel with
    | none => .next s
    | some r =>
      if !r.probes.contains slice || (s.core core).sbuf.any (fun e => e.sth = t.sth && e.slice = slice) then .next s
      else .next ((s.modThread core slot fun t =>
        { t with rel := some { r with probes := r.probes.filter (· ≠ slice) } }).relSettle core)

/-! ### Watched words -/

/-- WATCH_WAKE (R181): a wake packet reaches the thread, which reads its word again. -/
def execWatchWake (core slot : Nat) (s : State) : Res :=
  match s.whyOf core slot with
  | some ⟨.word _ _ _ _ .packet w, _, _⟩ => if w = .join then .next s else .next (s.wake core slot)
  | _ => .next s

/-- WATCH_POLL (R181): a waiter without a watch-table entry has its word read again. -/
def execWatchPoll (core slot : Nat) (s : State) : Res :=
  match s.whyOf core slot with
  | some ⟨.word _ _ _ _ (.poll n) w, _, _⟩ => if w = .join then .next s else .next ((s.pass n).wake core slot)
  | _ => .next s

/-- JOINW_WAKE (R112). -/
def execJoinwWake (core slot : Nat) (s : State) : Res :=
  match s.whyOf core slot with
  | some ⟨.word _ _ _ _ .packet .join, _, _⟩ => .next (s.wake core slot)
  | some ⟨.word _ _ _ _ (.poll n) .join, _, _⟩ => .next ((s.pass n).wake core slot)
  | _ => .next s

/-! ### Stops and invalidations -/

/-- Two cores lie in one instance of a scope (R1). -/
def sameInstance (sc : Scope) (a b : Nat) : Bool :=
  match sc with
  | .slot => false
  | .core => a = b
  | .clus => clusterOf a = clusterOf b
  | .quad => quadOf a = quadOf b
  | .die => dieOf a = dieOf b
  | .pkg | .dom | .sys => true

/-- The mark that a stop leaves: the issuer's core and thread number, and the scope. -/
def stopMark (core sth : Nat) (sc : Scope) : Nat × Nat × Nat := (core, sth, sc.code)

/-- The mark added to a thread. -/
def Thread.mark (t : Thread) (m : Nat × Nat × Nat) : Thread :=
  if t.stopped.contains m then t else { t with stopped := t.stopped ++ [m] }

/-- The release whose conditions a stopped thread has to meet begins, or widens the one that it is in (R222, R206). -/
def Thread.stopRel (t : Thread) (x : Core) (sc : Scope) : Thread :=
  let es := (x.sbuf.filter fun (e : SbEntry) => wideScope sc || e.sth = t.sth).map SbEntry.seq
  let r := match t.rel with
    | none => Rel.mk sc false [] es
    | some r => if wideScope sc && !wideScope r.scope then { r with scope := sc, entries := es } else r
  { t with rel := some r }.relMove x

/-- Stops every other thread of a core, as `m` says, in a slot or not. -/
def State.stopCore (s : State) (c : Nat) (m : Nat × Nat × Nat) (sc : Scope) (me : Nat × Nat) : State :=
  let x := s.core c
  let other := fun (t : Thread) => !((c, t.sth) = me)
  let x := { x with
    threads := KMap.mapVals (fun (t : Thread) => if other t then (t.mark m).stopRel x sc else t) x.threads,
    displaced := x.displaced.map (fun (e : Thread × List Word) => if other e.1 then ((e.1.mark m).stopRel x sc, e.2) else e),
    saved := x.saved.map fun (t : Thread) => if other t then (t.mark m).stopRel x sc else t }
  x.threads.foldl (fun (s : State) (e : Nat × Thread) => if other e.2 then s.noteState c e.1 3 else s) ((s.setCore c x).stir c)

/-- A STOPW of a thread stops every other thread of its partition in its instance of the scope (R222). -/
def State.stopAll (s : State) (pno core sth : Nat) (sc : Scope) : State :=
  ((s.part pno).cores.filter fun c => sameInstance sc core c).foldl
    (fun (s : State) c => s.stopCore c (stopMark core sth sc) sc (core, sth)) s

/-- A thread that a stop covers has met its conditions (R222): its vector instructions have completed, and its release
conditions hold. One that is in no slot has no slot for an echo to come to: with its UNACK at 0 every request of it
is performed, and what stays of the conditions is the buffer's entries. -/
def State.stopMet (s : State) (c : Nat) (t : Thread) (inSlot : Bool) : Bool :=
  let x := s.core c
  !vecBusy x t.sth
  && !s.vstoresOut c t.sth
  && (if inSlot && t.rel.isSome then t.relDone
    else t.unack = 0 && !(x.sbuf.any fun e => e.sth = t.sth) && ((t.relMove x).rel.map Rel.entries).getD [] = [])

/-- Every thread that a STOPW stopped has met its conditions. -/
def State.stopDone (s : State) (mark : Nat × Nat × Nat) : Bool :=
  s.cores.all fun e =>
    (e.2.threads.all fun t => !t.2.stopped.contains mark || s.stopMet e.1 t.2 true)
    && ((e.2.displaced.map Prod.fst ++ e.2.saved).all fun t => !t.stopped.contains mark || s.stopMet e.1 t false)

/-- Ends the releases that a STOPW began for the threads it stopped; one that a thread is parked in goes on. -/
def State.stopRelEnd (s : State) (mark : Nat × Nat × Nat) : State :=
  let close := fun (t : Thread) =>
    if t.stopped.contains mark && (match t.park with | some ⟨.rel, _, _⟩ => false | _ => true)
    then { t with rel := none, touched := [] } else t
  { s with cores := KMap.mapVals (fun (x : Core) =>
      { x with threads := KMap.mapVals close x.threads,
               displaced := x.displaced.map (fun (e : Thread × List Word) => (close e.1, e.2)),
               saved := x.saved.map close }) s.cores }

/-- STOPW_COMPLETE (R222): threads that came to be, or came back to a slot, since the stop began are stopped too, and it
completes when every thread that it stops has met its conditions. -/
def execStopwComplete (core slot : Nat) (s : State) : Res :=
  match s.thread? core slot with
  | none => .next s
  | some t =>
    match t.park with
    | some ⟨.stopw sc, _, _⟩ =>
      let mark := stopMark core t.sth sc
      let s := s.stopAll ((s.corePart core).getD 0) core t.sth sc
      if t.stopped = [] && s.stopDone mark then .next ((s.stopRelEnd mark).wakeWith core slot fun g => { g with finished := true }) else .next s
    | _ => .next s

/-- TLBINV_COMPLETE (R341): the last die has reported. -/
def execTlbinvComplete (core slot : Nat) (s : State) : Res :=
  match s.whyOf core slot with
  | some ⟨.tlbinv n, _, _⟩ => .next ((s.pass n).wakeWith core slot fun g => { g with finished := true })
  | _ => .next s

/-- TABLE_WALK (R187): a walk for an access of a core (1 read, 2 write, 3 execute) completes: the TLBs are filled, or
the outcome is a fault, which no access takes here. -/
def execTableWalk (core : Nat) (va : Word) (acc : Nat) (s : State) : Res :=
  let a := if acc = 2 then Acc.write else if acc = 3 then Acc.exec else Acc.read
  if 2 ^ 57 ≤ va.toNat || isWindow va.toNat then .next s
  else
    match s.corePart core with
    | none => .next s
    | some pno =>
      match s.translate (.core core) pno va.toNat a false with
      | .ok _ s => .next s
      | .malformed _ s => .next (s.malformedRecord pno va.toNat)
      | .fault _ _ s => .next s
      | .off => .next s

/-! ### Sleep (R171) -/

/-- One of the cluster's sources has a frame of a launch that a core can host (R106, R125). -/
def State.clusterFrame (s : State) (c : Nat) : Bool :=
  match s.corePart c with
  | none => false
  | some pno => (s.part pno).launches.any fun e => (s.cluster (clusterOf c)).serves pno e.1 && s.canHost c e.2

/-- A core has nothing to do: no slot can run, no job that it enqueued is running, no frame can be delivered to it or is on
its way to it. -/
def State.coreIdle (s : State) (c : Nat) : Bool :=
  let x := s.core c
  !(x.threads.any fun e => s.canRun c e.2)
  && !((s.cluster (clusterOf c)).jobs.any fun e => e.2.any fun j => j.core = c && j.st ≠ .queued)
  && x.deliverableLids = [] && !s.clusterFrame c && x.coming = []
  && x.arrived = [] && x.steals.all (fun e => match e.2 with | .reply _ | .here _ => false | _ => true)

/-- CORE_SLEEP (R171). -/
def execCoreSleep (core : Nat) (s : State) : Res :=
  if (s.core core).asleep || !s.coreIdle core then .next s
  else .next ((s.pass ((s.core core).idleSince + 4096)).modCore core fun x => { x with asleep := true })

/-- CORE_WAKE (R171): with the register-file entries that fail the sweep. -/
def execCoreWake (core : Nat) (failed : List Nat) (s : State) : Res :=
  if (s.core core).asleep then .next (s.wakeCore core failed) else .next s

end Sys2Proof.Machine
end

