-- ==== Sys2Proof/Machine/FaultRing.lean ====
section
/-!
DEFINITION. Translation faults that park (R190), the fault ring (R191, R192), their resolution (R193), and the invalidation
of translations (R341, R193).
-/

namespace Sys2Proof.Machine

/-! ### Invalidation -/

/-- Drops every TLB entry of a TSID that a predicate holds of, on every die. -/
def State.dropTlb (s : State) (tsid : Nat) (p : TlbEntry → Bool) : State :=
  let keep := fun (l : List TlbEntry) => l.filter fun e => !(e.tsid = tsid && p e)
  { s with cores := KMap.mapVals (fun (x : Core) => { x with tlb := keep x.tlb }) s.cores,
           clusters := KMap.mapVals (fun (x : Cluster) => { x with ctlb := keep x.ctlb }) s.clusters }

/-- Drops every walk-cache entry of a TSID that a predicate holds of. -/
def State.dropWalk (s : State) (tsid : Nat) (p : WalkEntry → Bool) : State :=
  { s with walkCache := KMap.mapVals (fun (l : List WalkEntry) => l.filter fun e => !(e.tsid = tsid && p e)) s.walkCache }

/-- Invalidates the translations of an address (R341). -/
def State.invalidatePage (s : State) (tsid va : Nat) : State :=
  (s.dropTlb tsid fun e => e.va ≤ va && va < e.va + e.size).dropWalk tsid fun e => e.va = va / 2 ^ (12 + 9 * (5 - e.level))

/-- Invalidates every translation of a TSID. -/
def State.invalidateAll (s : State) (tsid : Nat) : State := (s.dropTlb tsid fun _ => true).dropWalk tsid fun _ => true

/-! ### Resolution (R193) -/

/-- Cores of a partition that hold anything. -/
def State.partCores (s : State) (pno : Nat) : List Nat := s.cores.keys.filter fun c => s.corePart c = some pno

/-- Clusters of a partition that hold anything. -/
def State.partClusters (s : State) (pno : Nat) : List Nat := s.clusters.keys.filter fun cl => s.corePart (8 * cl) = some pno

/-- A parked access waits for a page and kind of access. -/
def waitsFor (page : Nat) (acc : Acc) (va : Word) (a : Acc) : Bool := va.toNat / 4096 * 4096 = page && a = acc

/-- Resumes the threads of a core that wait for a record. -/
def State.resolveThreads (s : State) (c page : Nat) (acc : Acc) (fatal : Option Cause) : State :=
  (s.core c).threads.foldl (fun (s : State) e =>
    match e.2.park with
    | some ⟨.fault va a _ _, _, _⟩ =>
      if waitsFor page acc va a then
        s.wakeWith c e.1 fun g => { g with fatal := fatal.map fun cause => (va, a, cause) }
      else s
    | _ => s) s

/-- Resumes the entries of a core's dispatch ring that wait for a record. -/
def Core.resolveEntries (x : Core) (page : Nat) (acc : Acc) (fatal : Option Cause) : Core :=
  { x with ring := x.ring.map fun e =>
      match e.st with
      | .parked va a _ _ =>
        if waitsFor page acc va a then
          { e with st := match fatal with | some cause => .fatal va a cause | none => .waiting }
        else e
      | _ => e }

/-- Resumes the jobs of a cluster that wait for a record. -/
def Cluster.resolveJobs (x : Cluster) (page : Nat) (acc : Acc) (fatal : Option Cause) : Cluster :=
  { x with jobs := KMap.mapVals (fun (l : List Job) => l.map fun j =>
      match j.st with
      | .parked va a _ _ =>
        if waitsFor page acc va a then { j with st := .running, fatal := fatal.map fun cause => (va, a, cause) } else j
      | _ => j) x.jobs }

/-- Reads of a core's spill rings that wait for a record: they are made anew, or, resolved fatally, lose the entry that each
would have read, and no other (R104, R193). -/
def State.resolveRefills (s : State) (c pno page : Nat) (acc : Acc) (fatal : Option Cause) : State :=
  (s.core c).spillWait.foldl (fun (s : State) w =>
    match s.launch? pno w.1 with
    | none => s
    | some l =>
      let va := l.spillAddr c w.2
      if !waitsFor page acc va .read then s
      else
        let s := s.modCore c fun x => x.spillHold w.1 w.2 false
        let (st, ns) := (s.core c).spill.lookD w.1 (0, [])
        let newest := w.2 + 1 = st + ns.length
        match fatal with
        | some cause => if ns ≠ [] && (newest || w.2 = st) then s.spillLost c pno l va cause newest else s
        | none => s) s

/-- Resumes every waiter of a page and kind of access: to walk anew, or with a fatal cause. -/
def State.resolve (s : State) (pno page : Nat) (acc : Acc) (fatal : Option Cause) : State :=
  let s := match fatal with | none => s.invalidatePage (s.part pno).tsid page | some _ => s
  let s := (s.partCores pno).foldl (fun (s : State) c =>
    let s := (s.resolveThreads c page acc fatal).modCore c fun x => x.resolveEntries page acc fatal
    s.resolveRefills c pno page acc fatal) s
  (s.partClusters pno).foldl (fun (s : State) cl =>
    let s := s.modCluster cl fun x => x.resolveJobs page acc fatal
    match (s.cluster cl).disp.parked with
    | some (va, _, _) =>
      if waitsFor page acc va .read then
        match fatal with
        | some cause => s.dispFatal cl va.toNat cause
        | none => s.modDisp cl fun d => { d with parked := none }
      else s
    | none => s) s

/-- How many waiters a record has (R192). -/
def State.waiters (s : State) (pno page : Nat) (acc : Acc) : Nat :=
  ((s.partCores pno).map fun c =>
    let x := s.core c
    (x.threads.filter fun e => match e.2.park with
      | some ⟨.fault va a _ _, _, _⟩ => waitsFor page acc va a
      | _ => false).length
    + (x.ring.filter fun e => match e.st with | .parked va a _ _ => waitsFor page acc va a | _ => false).length).sum
  + ((s.partClusters pno).map fun cl =>
    ((s.cluster cl).jobs.map fun e => (e.2.filter fun j => match j.st with
      | .parked va a _ _ => waitsFor page acc va a
      | _ => false).length).sum
    + (match (s.cluster cl).disp.parked with | some (va, _, _) => b2n (waitsFor page acc va .read) | none => 0)).sum

/-! ### Messages and records (R190 to R192) -/

/-- The 32 bytes of a record. -/
def frecBytes (m : FMsg) (seq nwait : Nat) : List Byte :=
  padTo 32 (leBytes 8 m.page ++ leBytes 4 seq ++ leBytes 1 m.acc.code ++ leBytes 1 m.kind ++ leBytes 1 m.level ++ leBytes 1 0
    ++ leBytes 2 (min nwait 65535))

/-- The ring has room. -/
def Part.frRoom (p : Part) : Bool := (p.frtail + 2 ^ 32 - p.frhead) % 2 ^ 32 < 2 ^ p.frlog2

/-- Lodge writes the record of a message it holds; where it cannot, the message is resolved at once (R192). -/
def State.writeRecord (s : State) (pno : Nat) (m : FMsg) : State :=
  let p := s.part pno
  let s := s.modPart pno fun p => { p with fmsgs := p.fmsgs.filter fun o => !(o.page = m.page && o.acc = m.acc) }
  let a := p.frbase.toNat + 32 * (p.frtail % 2 ^ p.frlog2)
  match s.lodgeRecord pno a (frecBytes m p.frtail (s.waiters pno m.page m.acc)) true with
  | .error e => ((s.lodgeMet pno e).resolve pno m.page m.acc (some (faultCause m.kind))).lodgeFailRecord pno a
  | .ok s =>
    let s := s.modPart pno fun p =>
      { p with frtail := (p.frtail + 1) % 2 ^ 32, frecs := p.frecs ++ [⟨p.frtail, m.page, m.acc, m.kind⟩] }
    if p.frtail = p.frhead then s.say (.msix pno 0) else s

/-- Writes the records of messages that Lodge holds, in the order held, while the ring has room. -/
def State.writeHeld (s : State) (pno : Nat) : List FMsg → State
  | [] => s
  | m :: l => if (s.part pno).frRoom then State.writeHeld (s.writeRecord pno m) pno l else s

/-- FAULT_MESSAGE (R190, R192): a message reaches Lodge, which holds at most 1,024. -/
def execFaultMessage (part pos : Nat) (s : State) : Res :=
  let p := s.part part
  match p.fmsgs[pos]? with
  | none => .next s
  | some m =>
    let held := p.fmsgs.filter FMsg.arrived
    if m.arrived || !p.fren || 1024 ≤ p.frecs.length + held.length then .next s
    else
      let m' := { m with arrived := true }
      let s := s.modPart part fun p =>
        { p with fmsgs := (p.fmsgs.filter fun o => !(o.page = m.page && o.acc = m.acc)) ++ [m'] }
      .next (s.writeHeld part (held ++ [m']))

/-- A write of FRHEAD (R191, R192). -/
def State.frheadSet (s : State) (pno : Nat) (v : Word) : State :=
  let s := s.modPart pno fun p => { p with frhead := v.toNat % 2 ^ 32 }
  if (s.part pno).fren then s.writeHeld pno ((s.part pno).fmsgs.filter FMsg.arrived) else s

/-- Clearing FRCFG.EN: every record and every message is resolved fatally (R191). -/
def State.frOff (s : State) (pno : Nat) : State :=
  let p := s.part pno
  let s := s.modPart pno fun p => { p with fren := false, frecs := [], fmsgs := [] }
  let s := p.frecs.foldl (fun (s : State) r => s.resolve pno r.page r.acc (some (faultCause r.kind))) s
  p.fmsgs.foldl (fun (s : State) m => s.resolve pno m.page m.acc (some (faultCause m.kind))) s

/-- A write of FRCFG (R191). -/
def State.frcfgWrite (s : State) (pno : Nat) (v : Word) : State :=
  let n := v.toNat
  let sz := bits n 12 8
  let p := s.part pno
  if p.fren then (if bit n 0 then s else s.frOff pno)
  else if bit n 0 then
    if sz < 4 || 12 < sz || p.frbase.toNat % (32 * 2 ^ sz) ≠ 0 then s.modPart pno fun p => { p with frlog2 := sz }
    else s.modPart pno fun p => { p with frlog2 := sz, fren := true, frhead := 0, frtail := 0, frecs := [], fmsgs := [] }
  else s.modPart pno fun p => { p with frlog2 := sz }

/-- A write of FRBASE (R191). -/
def State.frbaseWrite (s : State) (pno : Nat) (v : Word) : State :=
  s.modPart pno fun p => if p.fren then p else { p with frbase := Word.ofNat (v.toNat / 64 * 64) }

/-- A write of FRES: `act` 1 retry, 2 fatal PAGEFLT, 3 fatal PROT (R193). -/
def State.fresWrite (s : State) (pno seq act : Nat) : State :=
  match (s.part pno).frecs.find? fun r => r.seq = seq with
  | none => s
  | some r =>
    let done := s.modPart pno fun p => { p with frecs := p.frecs.filter fun o => o.seq ≠ seq }
    if act = 1 then done.resolve pno r.page r.acc none
    else if act = 2 then done.resolve pno r.page r.acc (some .pageflt)
    else if act = 3 then done.resolve pno r.page r.acc (some .prot)
    else s

/-- The counter of the host link for a partition's TSID counts an access (R52). -/
def State.hostSeen (s : State) (pno : Nat) : State :=
  let t := (s.part pno).tsid
  { s with hostCounts := s.hostCounts.put t (s.hostCounts.lookD t 0 + 1) }

/-- A host write to a live partition's register. -/
def State.hostPart (s : State) (pno : Nat) (f : State → State) : Res :=
  match s.parts.look pno with
  | some p => if p.st = 2 then .next s else .next (f (s.hostSeen pno))
  | none => .next s

/-- FRCFG_ENABLE (R191). -/
def execFrcfgEnable (part : Nat) (v : Word) (s : State) : Res :=
  if bit v.toNat 0 then s.hostPart part fun s => s.frcfgWrite part v else .next s

/-- FRCFG_DISABLE (R191). -/
def execFrcfgDisable (part : Nat) (v : Word) (s : State) : Res :=
  if bit v.toNat 0 then .next s else s.hostPart part fun s => s.frcfgWrite part v

/-- FRES_RETRY (R193). -/
def execFresRetry (part seq : Nat) (s : State) : Res := s.hostPart part fun s => s.fresWrite part seq 1
/-- FRES_FATAL_PAGEFLT (R193). -/
def execFresFatalPageflt (part seq : Nat) (s : State) : Res := s.hostPart part fun s => s.fresWrite part seq 2
/-- FRES_FATAL_PROT (R193). -/
def execFresFatalProt (part seq : Nat) (s : State) : Res := s.hostPart part fun s => s.fresWrite part seq 3

/-- FRHEAD_WRITE (R192). -/
def execFrheadWrite (part : Nat) (v : Word) (s : State) : Res := s.hostPart part fun s => s.frheadSet part v

end Sys2Proof.Machine
end

