-- ==== Sys2Proof/Machine/Links.lean ====
section
/-!
DEFINITION. Links: Gondola ports and routes (R22 to R24, R29, R30), remote accesses at their destination and their
outcomes at the source (R26, R27), host apertures (R21), virtual functions (R19), and the power manager (R16).
-/

namespace Sys2Proof.Machine

/-! ### Ports (R22 to R24, R29) -/

/-- Changes a port. -/
def State.modPort (s : State) (p : Nat) (f : Port → Port) : State :=
  { s with ports := s.ports.put p (f (s.ports.lookD p Port.zero)) }

/-- DEVNUM_WRITE (R22): ignored while any port is not down. -/
def execDevnumWrite (v : Word) (s : State) : Res :=
  if (List.range 16).all fun p => (s.ports.lookD p Port.zero).st = 0 then .next { s with devnum := bits v.toNat 9 0 } else .next s

/-- Requests of remote launches that left by a port which leaves STATE 2, and are not yet accepted (R29, R74). -/
def State.reroutePkts (s : State) (port : Nat) : State :=
  s.parts.foldl (fun (s : State) e => e.2.pkts.foldl (fun (s : State) k =>
    match k.st with
    | .remote id false at0 =>
      if at0 ≠ port then s
      else
        let set := fun (s : State) (p : Nat) => s.modPart e.1 fun x => { x with pkts := x.pkts.map fun (o : Pkt) =>
          if o.st = (PktSt.remote id false port) then { o with st := .remote id false p } else o }
        match s.pickPort (bits (k.words.getD 2 0).toNat 9 0) none with
        | some (p, s) => set s p
        | none => set s 17
    | _ => s) s) s

/-- What left by a port which leaves STATE 2: it goes on by another port of its route that is up, and with none is
lost, so that it meets the timeout of R26, or of R74 (R29). -/
def State.reroute (s : State) (port : Nat) : State :=
  (s.reroutePkts port).flights.foldl (fun (s : State) f =>
    if f.port ≠ port then s
    else
      let ord := match f.what with
        | .gpush req _ _ _ _ | .jstore req _ _ _ =>
          some (ordKey s.devnum f.core, ordKey (winDev req.addr.toNat) (winCore req.addr.toNat))
        | _ => none
      let dev := match f.what with
        | .gond req _ _ | .gpush req _ _ _ _ | .vstore req _ | .vload req _ _ | .jload req _ _ _ | .jstore req _ _ _ => winDev req.addr.toNat
        | _ => 1023
      let set := fun (s : State) (p : Nat) =>
        { s with flights := s.flights.map fun g => if g.id = f.id then { g with port := p } else g }
      match s.pickPort dev ord with
      | some (p, s) => set s p
      | none => set s 17) (s.reroutePkts port)

/-- GPS_RETRAIN (R23): the port goes down and trains, where the device is numbered (R22). -/
def execGpsRetrain (port : Nat) (s : State) : Res :=
  if 16 ≤ port then .next s
  else .next ((s.modPort port fun p => { p with verg := 0, peer := 1023, st := if s.devnum < 640 then 1 else 0 }).reroute port)

/-- LINK_TRAINING_DONE (R24): this device implements link version 1 only. -/
def execLinkTrainingDone (port peer vero : Nat) (s : State) : Res :=
  if (s.ports.lookD port Port.zero).st ≠ 1 then .next s
  else .next (s.modPort port fun p =>
    if bit p.vero 0 && bit vero 0 && peer ≠ s.devnum then { p with verg := 1, peer := peer % 1024, st := 2 }
    else { p with verg := 0, peer := 1023, st := 3 })

/-- PORT_DOWN (R29): what was in flight on the port completes on another, or meets the timeout of R26. -/
def execPortDown (port : Nat) (s : State) : Res :=
  if (s.ports.lookD port Port.zero).st ≠ 2 then .next s
  else .next ((s.modPort port fun p => { p with verg := 0, peer := 1023, st := 0 }).reroute port)

/-- The source and destination core of a packet, where its class keeps their order (R15, R28). -/
def packetOrd (pkt : GPacket) : Option (Nat × Nat) :=
  match pkt.cls with
  | .ord => some (ordKey pkt.sdev pkt.score, ordKey pkt.dest pkt.dcore)
  | .req | .rsp => none

/-- GONDOLA_FORWARD (R30, R52): a packet for another device leaves by an up port that its route names, ORD traffic of two
cores always by the same, its hop count lowered, or is dropped. -/
def execGondolaForward (pkt : GPacket) (s : State) : Res :=
  if pkt.dest = s.devnum || pkt.hop ≤ 1 then .next s
  else
    match s.pickPort pkt.dest (packetOrd pkt) with
    | none => .next s
    | some (port, s) =>
      .next ({ s with fwdCounts := s.fwdCounts.put pkt.tsid (s.fwdCounts.lookD pkt.tsid 0 + 1) }.say
        (.forward port { pkt with hop := pkt.hop - 1 }))

/-! ### Remote accesses arriving (R26, R27) -/

/-- The partition whose remote-access table admits an access, if one does. -/
def State.admits (s : State) (req : RemReq) : Option Nat :=
  let a := req.addr.toNat
  if !(isWindow a && a < 2 ^ 57 && s.winHere a) then none
  else
    match s.corePart (winCore a) with
    | none => none
    | some pno => if (s.part pno).st = 1 && (s.part pno).rat.contains (req.sdev, req.stsid) then some pno else none

/-- The source does not wait for a value: a refusal is recorded at both ends (R26). -/
def opPosted : RemOp → Bool
  | .store _ _ _ | .push _ _ | .row _ _ _ _ _ _ | .contrib _ => true
  | .amo _ _ _ ret _ | .famo _ _ _ ret _ => !ret
  | .load _ | .cas _ _ _ _ | .elems _ _ | .bytes _ | .collect .. => false

/-- Elements that another device's copy unit asks for (R228, R232, R266). -/
def State.remoteElems (s : State) (c off n : Nat) (decoded : Bool) : RemReply :=
  let z := (s.core c).zone (zoneOf off)
  if n = 0 then .data (packReply z [])
  else
    match (s.core c).readElems z (zoneOf off) false decoded n (Word.ofNat off) with
    | .error er => .fault er.sub
    | .ok l =>
      if decoded && s.bookPoisoned c z then .poison
      else .data (packReply z (if zfFmt z = 18 then bookElems (s.book c z) l else l))

/-- Takes contributions into a receive buffer of this device for a member's job on another (R410): what has come is written,
and the reply tells how far the result is. -/
def State.remoteCollect (s : State) (c off tag : Nat) (desc : List Word) (cmd rank no k scl : Nat) (te : Bool) (mode : Nat)
    (pieces : List Nat) : Option RemReply × State :=
  let j : Job := { Job.blank with
    core := c, q0 := Word.ofNat (cmd * 2 ^ 56 + desc.length * 2 ^ 32 + rank * 2 ^ 16 + k), q3 := Word.ofNat (scl * 2 ^ 40 + tag),
    zw := (s.core c).zone (zoneOf off), mode := mode, te := te, desc := desc, no := no, pieces := pieces }
  if (s.cluster j.bufCluster).contribs.any fun q => contribOf j q && !j.agrees q.cmd q.desc.length q.k q.scl then
    (some (.fault 0x03), s)
  else
    match s.collTake j with
    | .error er => (some (.fault er.sub), s)
    | .ok (j, s) => (some (.data (j.donec + 2 * j.pieces.foldl (fun n r => n + 2 ^ r) 0)), s)

/-- Performs an admitted access at the port of core `c`, offset `off`: the reply, and the state after it. The entries of a
proxy batch are answered for once they are in their queue (R154). -/
def State.remoteDo (s : State) (pno c off : Nat) (req : RemReq) : Option RemReply × State :=
  let x := s.core c
  let rmw := fun (te : Bool) (n : Nat) (f : Nat → Nat) =>
    if 2 ^ 19 < off + n then (some RemReply.refused, s)
    else if x.lpoisoned off n then (some RemReply.poison, s)
    else
      let (old, y) := x.portRmw (some te) off n f
      (some (RemReply.data old), s.setCore c y)
  match req.op with
  | .load n =>
    (some (if 2 ^ 19 < off + n then .refused else if x.lpoisoned off n then .poison else .data (x.lmem.read off n)), s)
  | .store n v full =>
    if 2 ^ 19 < off + n then (some .refused, s)
    else (some .ack, s.setCore c (x.portStore off (leBytes n v) (if full then some .dom else none)))
  | .amo op n v _ te => rmw te n fun old => amoVal op (8 * n) old v
  | .famo op n v _ te => rmw te n fun old => famoVal op n old v
  | .cas n old new te => rmw te n fun o => if o = old then new else o
  | .push ch vals => (none, s.send c 0 0 (.inbox ch req.sdev req.score req.id vals))
  | .elems n decoded => (some (s.remoteElems c off n decoded), s)
  | .row te mode width cls vals bad =>
    let z := x.zone (zoneOf off)
    let cod : Cod := ⟨te, modeFtz mode, rmOf .dyn mode, s.book c z⟩
    match x.putRow cod z off off width cls vals bad with
    | .ok y => (some (.data (rowBytes z ⟨width, cls, vals, bad⟩)), s.setCore c y)
    | .error er => (some (.fault er.sub), s)
  | .contrib m => (some .ack, s.contribArrive pno m)
  | .bytes n =>
    (some (if 2 ^ 19 < off + n then .fault 0x05
      else .data (packReply 25 ((List.range n).map fun i => ((x.lmem.get (off + i)).toNat, 0, x.lpoisoned (off + i) 1)))), s)
  | .collect tag desc cmd rank no k scl te mode pieces => s.remoteCollect c off tag desc cmd rank no k scl te mode pieces

/-- A refused write leaves an error record at the destination's Lodge (R26): in the fault log of the core's partition, or,
where the core belongs to none, for the operator alone. -/
def State.refusedHere (s : State) (core addr : Nat) : State :=
  match s.corePart core with
  | some pno => s.remoteRecord pno core addr 1
  | none => s.opRecord { kind := 4, code := 1, part := 0xFF, core := core, addr := addr, time := s.fab, tsid := 0 }

/-- REMOTE_ACCESS_ARRIVAL (R26, R27). What becomes of one that arrives while the cores are held in reset is not in the
manual: here it is performed on the held core's memory and acknowledged (DESIGN CHOICE, log entry 111). -/
def execRemoteAccessArrival (req : RemReq) (s : State) : Res :=
  let a := req.addr.toNat
  match s.admits req with
  | some pno =>
    match s.remoteDo pno (winCore a) (winOff a) req with
    | (some r, s) => .next (s.depart req.sdev none (.remoteReply req.id req.sdev r))
    | (none, s) => .next s
  | none =>
    let s := if opPosted req.op then s.refusedHere (winCore a) a else s
    .next (s.depart req.sdev none (.remoteReply req.id req.sdev .refused))

/-! ### Outcomes at the source (R26) -/

/-- What comes of a remote access: a reply, or none within 2^22 fabric cycles. -/
abbrev Outcome26 := Option RemReply

/-- A posted write is done: refused or lost, it is recorded (R26). -/
def State.postedDone (s : State) (f : Sent) (a : Word) (r : Outcome26) : State :=
  match r with
  | some .refused => s.remoteRecord ((s.corePart f.core).getD 0) f.core a.toNat 1
  | none => s.remoteRecord ((s.corePart f.core).getD 0) f.core a.toNat 2
  | _ => s

/-- A value that a job or entry asked for. -/
def State.modJob (s : State) (core eng seq : Nat) (f : Job → Job) : State :=
  s.modCluster (clusterOf core) fun x =>
    { x with jobs := x.jobs.put eng ((x.queue eng).map fun j => if j.seq = seq then f j else j) }

/-- An entry's remote read is answered. -/
def Entry.answered (e : Entry) (a : Word) (r : Outcome26) : Entry :=
  match r with
  | some (.data v) => { e with st := .waiting, got := e.got ++ [some v] }
  | some .ack => { e with st := .waiting, got := e.got ++ [some 0] }
  | some .refused | some (.fault _) => { e with st := .fatal a .read .prot }
  | some .poison | none => { e with st := .waiting, got := e.got ++ [none] }

/-- A job's remote write is answered: a row's with the bytes that it wrote (R394). A collective's job whose delivery failed
gathers no more (R411). -/
def Job.written (j : Job) (r : Outcome26) : Job :=
  let j := { j with out := j.out - 1 }
  let j := match r with
    | some (.data n) => { j with wrote := n }
    | some .refused => { j with failed := some (j.failed.getD 0x07) }
    | some (.fault sub) => { j with failed := some (j.failed.getD sub) }
    | none => { j with failed := some (j.failed.getD 0x0D) }
    | _ => j
  if (j.out = 0 && j.st = .acks) || (j.failed.isSome && j.st = .gathering) then { j with st := .running } else j

/-- The outcome of a remote access reaches what sent it. -/
def State.outcome (s : State) (f : Sent) (r : Outcome26) : State :=
  let s := s.landed f.id
  match f.what with
  | .gond _ true _ =>
    match slotOf (s.core f.core) f.sth with
    | some sl =>
      match s.whyOf f.core sl with
      | some ⟨.remote id, _, _⟩ =>
        if id = f.id then s.wakeWith f.core sl fun g => { g with reply := some r } else s
      | _ => s
    | none => s.modSth f.core f.sth fun t => { t with prog := { t.prog with reply := some r } }
  | .gond req false _ => (s.postedDone f req.addr r).ackThread f.core f.sth 1
  | .gpush req ch gen vals _ =>
    let s := s.postedDone f req.addr r
    let s := vals.foldl (fun (s : State) e => s.ackThread f.core e.2 1) s
    match r with
    | some .refused | none => s.credited f.core ch gen vals.length
    | _ => s.send f.core 0 0 (.gcred ch gen vals.length)
  | .vstore req _ => (s.postedDone f req.addr r).vecSettle f.core f.sth
  | .vload req seq _ => s.modCore f.core fun x =>
      { x with ring := x.ring.map fun e => if e.seq = seq then e.answered req.addr r else e }
  | .jload _ eng seq _ => s.modJob f.core eng seq fun j => { j with st := .running, got := some r }
  | .jstore _ eng seq _ => s.modJob f.core eng seq fun j => j.written r
  | _ => s

/-- When a remote access was sent, in fabric cycles. -/
def Flight.sentAt : Flight → Option Nat
  | .gond _ _ n | .gpush _ _ _ _ n | .vstore _ n | .vload _ _ n | .jload _ _ _ n | .jstore _ _ _ n => some n
  | _ => none

/-- A response still counts (R26, R29): it comes within 2^22 fabric cycles, over a port that is up. -/
def State.inTime (s : State) (f : Sent) : Bool :=
  match f.what.sentAt with
  | some n => s.fab < n + 2 ^ 22 && (s.ports.lookD f.port Port.zero).st = 2
  | none => false

/-- REMOTE_REPLY (R26). -/
def execRemoteReply (id : Nat) (reply : RemReply) (s : State) : Res :=
  match s.flight? id with
  | some f => if s.inTime f then .next (s.outcome f (some reply)) else .next s
  | none => .next s

/-- REMOTE_ACCESS_TIMEOUT (R26): 2^22 fabric cycles after it was sent. -/
def execRemoteAccessTimeout (id : Nat) (s : State) : Res :=
  match s.flight? id with
  | some f =>
    match f.what.sentAt with
    | some n => .next ((s.pass (Config.clkAt (n + 2 ^ 22))).outcome f none)
    | none => .next s
  | none => .next s

/-! ### The host's functions (R19 to R21) -/

/-- VF_CONFIG_ACCESS (R19): VFn belongs to partition n - 1. -/
def execVfConfigAccess (vf : Nat) (s : State) : Res :=
  if vf = 0 || (s.parts.look (vf - 1)).isNone then .next (s.say .unsupported) else .next s

/-- The cause that a failed aperture access is recorded with. -/
def LodgeErr.cause : LodgeErr → Cause
  | .fault k _ => faultCause k
  | .malformed _ => .prot
  | .off => .pageflt
  | .poison => .poison
  | .address => .align

/-- A faulting aperture access is recorded in the partition's fault log (R21). -/
def State.apertureRecord (s : State) (pno va : Nat) (e : LodgeErr) : State :=
  match e with
  | .malformed a => s.malformedRecord pno a
  | _ => s.emit { s.obs 1 pno with code := e.cause.code, addr := va }

/-- All ones of a size. -/
def onesOf (n : Nat) : Nat := 2 ^ (8 * n) - 1

/-- APERTURE_READ (R21); of a partition that is being released as one whose address does not translate (R38). -/
def execApertureRead (part off size : Nat) (s : State) : Res :=
  match s.parts.look part with
  | none => .next (s.say (.hostRead (onesOf size) false))
  | some p =>
    let va := p.apbase.toNat + off
    let s := s.hostSeen part
    if 2 ^ 34 ≤ off then .next (s.say (.hostRead (onesOf size) false))
    else if p.st = 2 then .next ((s.apertureRecord part va .off).say (.hostRead (onesOf size) false))
    else
      match s.lodgeRead part va size true with
      | .ok (bs, s) => .next (s.say (.hostRead (leNat bs) true))
      | .error e => .next ((s.apertureRecord part va e).say (.hostRead (onesOf size) false))

/-- APERTURE_WRITE (R21). -/
def execApertureWrite (part off : Nat) (data : List Byte) (s : State) : Res :=
  match s.parts.look part with
  | none => .next s
  | some p =>
    let va := p.apbase.toNat + off
    let s := s.hostSeen part
    if 2 ^ 34 ≤ off then .next s
    else if p.st = 2 then .next (s.apertureRecord part va .off)
    else
      match s.lodgeParts part .write true (pageParts (data.length / 4096 + 2) va data.length) with
      | .ok (l, s) => .next (l.foldl (fun (a : State × List Byte) q =>
          (a.1.sliceWrite part q.1 (a.2.take q.2), a.2.drop q.2)) (s, data)).1
      | .error e => .next (s.apertureRecord part va e)

/-! ### Power (R16) -/

/-- POWER_THROTTLE_START (R16): idle cycles enter matrix-engine issue; results are unchanged. The form in which an interval
is logged is not in the manual: here it is one more in a count, made at its start (DESIGN CHOICE, log entry 112). -/
def execPowerThrottleStart (s : State) : Res :=
  if s.throttle then .next s else .next { s with throttle := true, powerEvents := s.powerEvents + 1 }

/-- POWER_THROTTLE_END (R16). -/
def execPowerThrottleEnd (s : State) : Res := .next { s with throttle := false }

end Sys2Proof.Machine
end

