-- ==== Sys2Proof/Machine/Binding.lean ====
section
/-!
DEFINITION. The Binding kernel linker (spec 07): splice information (R132), matching and refusal (R134, R135), and the
fused body with its map (R136 to R138, R141).
-/

namespace Sys2Proof.Machine

/-! ### Instructions of a body -/

/-- Operand positions that an operation uses (R306): 0 DST, 1 SA, 2 SB, 3 SC. -/
def opUses (o : Op) : List Nat :=
  match o with
  | .add | .sub | .mul | .mulh | .mulhz | .div | .divz | .rem | .remz | .and | .or | .xor | .andn | .shl | .shr | .sha | .rol
  | .min | .max | .minz | .maxz | .addw | .subw | .mulw | .bfi => [0, 1, 2]
  | .clz | .popc | .brev | .bfx | .mov => [0, 1]
  | .madd => [0, 1, 2, 3]
  | .addi | .andi | .ori | .xori | .shli | .shri | .shai | .muli | .ldih => [0, 1]
  | .ldi | .getid | .pget => [0]
  | .lea => [0, 2]
  | .cmp => [1, 2]
  | .cmpi | .pset => [1]
  | .plog => []
  | .sel => [0, 1, 2]
  | .br | .nop | .exit | .wfw | .yield | .vsync | .tsclr | .rft | .bkpt | .fence | .pfence | .stopw | .resw | .trap => []
  | .call | .loop => [0]
  | .jmp | .ret => [1]
  | .callr => [0, 1]
  | .ld | .lda | .ldf => [0, 2]
  | .st | .stl | .stf | .clre => [1, 2]
  | .ldx => [0, 2, 3]
  | .stx => [1, 2, 3]
  | .pref => [2]
  | .amo | .famo => [0, 1, 2]
  | .cas => [0, 1, 2, 3]
  | .red | .fred | .watch => [1, 2]
  | .bar | .bara | .barw | .qbind | .kwait => [1, 2]
  | .joinw | .qflush | .park | .logmk | .waitj | .tspush | .ldone | .lepoch | .wgfree => [1]
  | .qpeek | .qcnt | .tnew => [0, 1]
  | .spawn => [1, 2]
  | .fadd | .fsub | .fmul | .fdiv | .fmin | .fmax | .fsgn => [0, 1, 2]
  | .ffma => [0, 1, 2, 3]
  | .fsqrt | .fcvt | .fclass => [0, 1]
  | .fcmp => [1, 2]
  | .vadd | .vsub | .vmul | .vmin | .vmax | .vand | .vor | .vxor | .vshl | .vshr | .vcmp | .vcmul | .vscl | .vdot | .vperm
  | .vgath | .vscat => [0, 1, 2]
  | .vfma | .vaxpy | .vsel | .vcmac => [0, 1, 2, 3]
  | .vabs | .vmov | .vred | .vscan | .vcvt | .vldg | .vstg | .vbcst | .vexp | .vlog | .vrcp | .vrsq | .vsin | .vcos => [0, 1]
  | .viota => [0]
  | .enq | .pollj | .jstat | .wgalloc => [0, 1]
  | .zfset | .sclw | .cbld => [1]
  | .zfget | .chwp => [0]
  | .boxt | .trit => [0, 1, 2]
  | .tspop | .lreq | .paya => [0]
  | .smpl => [0, 1, 2]
  | .sld => [0, 1]
  | .lset => [1, 2]
  | .lget => [0, 1]
  | .lsplit | .payp => [1, 2, 3]
  | .lmerge | .wgemit => [1, 2]
  | .wgtake => [0, 1, 2]
  | .srrd | .cntrd => [0]
  | .srwr | .tlbinv | .cinv => [1]

/-- Lowest bit of an operand position (R299). -/
def posLow (k : Nat) : Nat := match k with | 0 => 41 | 1 => 33 | 2 => 25 | _ => 17

/-- Operand code at a position of a word. -/
def codeAt (w k : Nat) : Nat := bits w (posLow k + 7) (posLow k)

/-- A word with an operand code put at a position. -/
def putCode (w k c : Nat) : Nat := w - codeAt w k * 2 ^ posLow k + c % 256 * 2 ^ posLow k

/-- Registers in the group at a position (R303). -/
def groupWidth (o : Op) (w k : Nat) : Nat :=
  match o, k with
  | .enq, 1 | .boxt, 1 | .trit, 1 => 4
  | .trit, 0 => 2
  | .spawn, 1 => 8
  | .lset, 2 => if bits w 3 0 = 14 then 2 else 1
  | _, _ => 1

/-- An instruction of a body: its address, its words, and its operation; a word that names none stands alone. -/
structure BIns where
  addr : Nat
  w : Nat
  e : Nat
  op : Option Op
  deriving DecidableEq, Repr

/-- The instructions of consecutive words. -/
def bodyIns : Nat → List Nat → List BIns
  | _, [] => []
  | a, [w] => [⟨a, w, 0, match decodeOp w with | .ok o => if o.long then none else some o | .error _ => none⟩]
  | a, w :: e :: rest =>
    match decodeOp w with
    | .ok o => if o.long then ⟨a, w, e, some o⟩ :: bodyIns (a + 16) rest else ⟨a, w, 0, some o⟩ :: bodyIns (a + 8) (e :: rest)
    | .error _ => ⟨a, w, 0, none⟩ :: bodyIns (a + 8) (e :: rest)

/-- Operand codes that an instruction names, register groups in full. -/
def BIns.codes (i : BIns) : List Nat :=
  match i.op with
  | none => []
  | some o => (opUses o).flatMap fun k =>
      let c := codeAt i.w k
      if c < 0x80 then (List.range (groupWidth o i.w k)).map (c + ·) else [c]

/-- The k registers that it writes. -/
def BIns.kWrites (i : BIns) : List Nat :=
  match i.op with
  | none => []
  | some o =>
    let c := codeAt i.w 0
    if (opUses o).contains 0 && 0x80 ≤ c && c < 0xA0 then [c] else []

/-- The predicates p1 to p7 that it names (R299, R311, R312). -/
def BIns.preds (i : BIns) : List Nat :=
  match i.op with
  | none => []
  | some o =>
    (bits i.w 51 49 :: (match o with
      | .cmp => [bits i.w 6 4]
      | .cmpi => [bits i.w 43 41]
      | .plog => [bits i.w 12 10, bits i.w 9 7, bits i.w 6 4]
      | .sel => [bits i.w 2 0]
      | .fcmp => [bits i.w 11 9]
      | _ => [])).filter (· ≠ 0)

/-- Target of a Form D instruction (R300). -/
def BIns.target (i : BIns) : Option Nat :=
  match i.op with
  | some .br | some .call | some .loop => some ((Word.ofNat i.addr + 8 * (fImm41 i.w).signExtend 64).toNat)
  | _ => none

/-! ### Splice information (R132) -/

structure Site where
  off : Nat
  kind : Nat
  flg : Nat
  barg : Nat
  mfmt : Nat
  boff : Nat
  istep : Nat
  cnt : Nat
  step : Nat
  zone : Nat
  loff : Nat
  deriving DecidableEq, Repr

structure Splice where
  body : Nat
  loops : Nat
  loope : Nat
  bend : Nat
  tkind : Nat
  tsel : Nat
  wmax : Nat
  tconst : Nat
  fusa : Nat
  fusn : Nat
  sites : List Site
  deriving DecidableEq, Repr

def siteOf (d : List Byte) : Site :=
  ⟨dfield d 0 4, dfield d 4 1, dfield d 5 1, dfield d 6 1, dfield d 7 1, dfield d 8 8, dfield d 16 8, dfield d 24 2,
    dfield d 26 2, dfield d 28 1, dfield d 30 2⟩

/-- A site lies within its limits; `d` are its bytes. -/
def Site.valid (x : Site) (s : Splice) (d : List Byte) : Bool :=
  let vec := x.kind = 1 || x.kind = 3
  let out := x.kind = 1 || x.kind = 2
  1 ≤ x.kind && x.kind ≤ 4
  && (x.flg = 0 || (out && x.flg = 1) || (!out && x.flg = 2))
  && x.off % 8 = 0 && s.loops ≤ s.body + x.off && s.body + x.off < s.loope
  && x.barg ≤ 5 && (if vec then x.mfmt ≤ 24 else x.mfmt ≤ 3 && x.cnt = 0)
  && x.zone ≤ 15 && x.loff ≤ 32767 && dfield d 29 1 = 0

/-- The header lies within its limits, for a launch of `nlev` levels. -/
def Splice.valid (x : Splice) (nlev : Nat) (hdr : List Byte) : Bool :=
  hdr.take 4 = [0x53, 0x50, 0x4C, 0x49] && dfield hdr 4 2 = 1 && dfield hdr 6 2 = 0 && dfield hdr 60 4 = 0
  && [x.body, x.loops, x.loope, x.bend].all (fun a => a % 8 = 0 && a < 2 ^ 57)
  && x.body ≤ x.loops && x.loops < x.loope && x.loope < x.bend
  && (x.tkind = 0 || (x.tkind = 1 && x.tsel ≤ 5) || (x.tkind = 2 && x.tsel < nlev))
  && 8 ≤ x.wmax && x.wmax ≤ 128 && x.wmax % 8 = 0
  && 1 ≤ dfield hdr 43 1 && dfield hdr 43 1 ≤ 16 && x.fusa % 4096 = 0

/-- A body with the instructions of its three parts. -/
structure Body where
  sp : Splice
  ins : List BIns
  deriving DecidableEq, Repr

def Body.part (b : Body) (lo hi : Nat) : List BIns := b.ins.filter fun i => lo ≤ i.addr && i.addr < hi
def Body.prologue (b : Body) : List BIns := b.part b.sp.body b.sp.loops
def Body.loop (b : Body) : List BIns := b.part b.sp.loops b.sp.loope
def Body.epilogue (b : Body) : List BIns := b.part b.sp.loope b.sp.bend

/-- The instructions of a body's bytes, each part decoded for itself (R132). -/
def bodyParts (sp : Splice) (bs : List Byte) : List BIns :=
  let part := fun (lo hi : Nat) =>
    bodyIns lo (leWords ((hi - lo) / 8) (bs.drop (lo - sp.body)) |>.map BitVec.toNat)
  part sp.body sp.loops ++ part sp.loops sp.loope ++ part sp.loope sp.bend

/-- Reads the splice information of a launch and the body that it names; none stands for reason 1 of R135. A body that
cannot be read counts with the splice information that names it (DESIGN CHOICE, log entry 87). -/
def State.readSplice (s : State) (pno : Nat) (l : Launch) : Option Body × State :=
  let a := l.splc.toNat
  if a = 0 || a % 64 ≠ 0 then (none, s)
  else
    match s.lodgeSee pno a 64 with
    | (none, s) => (none, s)
    | (some hdr, s) =>
      let n := dfield hdr 43 1
      let sp : Splice := ⟨dfield hdr 8 8, dfield hdr 16 8, dfield hdr 24 8, dfield hdr 32 8, dfield hdr 40 1, dfield hdr 41 1,
        dfield hdr 42 1, dfield hdr 44 4, dfield hdr 48 8, dfield hdr 56 4, []⟩
      if !sp.valid l.nlev hdr then (none, s)
      else
        match s.lodgeSee pno (a + 64) (32 * n) with
        | (none, s) => (none, s)
        | (some bs, s) =>
          let ds := (List.range n).map fun i => (bs.drop (32 * i)).take 32
          let sp := { sp with sites := ds.map siteOf }
          if !(ds.all fun d => (siteOf d).valid sp d) then (none, s)
          else
            match s.lodgeSee pno sp.body (sp.bend - sp.body) with
            | (none, s) => (none, s)
            | (some bs, s) => (some ⟨sp, bodyParts sp bs⟩, s)

/-! ### Matching (R134) -/

/-- The instruction at a site. Binding relies on what the site declares and checks no kind (R133); where no instruction
starts there, none of the body is replaced (DESIGN CHOICE, log entry 87). -/
def Body.siteIns (b : Body) (x : Site) : BIns :=
  (b.ins.find? fun i => i.addr = b.sp.body + x.off).getD ⟨b.sp.body + x.off, 0, 0, none⟩

/-- A pair that matched: the sites and their instructions. -/
structure Pair where
  out : Site
  inn : Site
  oi : BIns
  ii : BIns
  deriving DecidableEq, Repr

/-- An out-site and an in-site match. -/
def sitesMatch (pa ca : List Word) (o i : Site) : Bool :=
  ((o.kind = 1 && i.kind = 3) || (o.kind = 2 && i.kind = 4))
  && pa.getD o.barg 0 = ca.getD i.barg 0
  && o.boff = i.boff && o.istep = i.istep && o.cnt = i.cnt && o.step = i.step && o.mfmt = i.mfmt

/-- Matches the in-sites of a consumer in order, each with the first unmatched out-site. -/
def matchSites (p c : Body) (pa ca : List Word) : List Site → List Site → List Pair
  | [], _ => []
  | i :: ins, outs =>
    match outs.find? fun o => sitesMatch pa ca o i with
    | some o => ⟨o, i, p.siteIns o, c.siteIns i⟩ :: matchSites p c pa ca ins (outs.erase o)
    | none => matchSites p c pa ca ins outs

/-- What becomes of a matched pair (R138). -/
def Pair.vector (q : Pair) : Bool := q.out.kind = 1
def Pair.aliases (q : Pair) (zp zc : List Nat) : Bool :=
  q.vector && q.inn.flg = 2 && q.out.loff = q.inn.loff && zp.getD q.out.zone 0 = zc.getD q.inn.zone 0
/-- A vector pair can be a VMOV. -/
def Pair.moves (q : Pair) (zp zc : List Nat) : Bool :=
  let a := zp.getD q.out.zone 0
  let b := zc.getD q.inn.zone 0
  zfDom a = zfDom b && (q.out.mfmt = zfFmt a || q.out.mfmt = zfFmt b) && bits q.oi.w 12 10 = bits q.ii.w 12 10

/-! ### Refusal (R135) -/

/-- Operations that a body may not hold (reason 8). -/
def barred (i : BIns) : Bool :=
  match i.op with
  | some .spawn | some .tnew | some .wfw | some .joinw | some .call | some .callr | some .ret | some .rft | some .zfset
  | some .tspush | some .tspop | some .tsclr => true
  | some .srwr => fMod i.w < 0x100
  | _ => false

/-- A branch of a part leaves it, other than from the prologue to LOOPS. -/
def leaves (l : List BIns) (lo hi : Nat) (allow : Option Nat) : Bool :=
  l.any fun i => match i.target with
    | some t => !(lo ≤ t && t < hi) && some t ≠ allow
    | none => false

/-- Reason 8 holds of a body. -/
def Body.unfit (b : Body) (consumer : Bool) : Bool :=
  let sp := b.sp
  b.ins.any barred
  || (b.ins.any fun i => i.op = some .exit && i.addr ≠ sp.bend - 8)
  || leaves b.prologue sp.body sp.loops (some sp.loops) || leaves b.loop sp.loops sp.loope none
  || leaves b.epilogue sp.loope sp.bend none
  || (match b.loop.getLast? with
    | some i => !(i.op = some .loop && i.addr = sp.loope - 8 && i.target = some sp.loops)
      || (consumer && codeAt i.w 0 ≠ 0xB0 && b.ins.any fun o => o.addr ≠ i.addr && o.codes.contains (codeAt i.w 0))
    | none => true)

/-- Names that two bodies may not share (reason 7). -/
def namesClash (p c : Body) : Bool :=
  let of := fun (b : Body) (f : BIns → List Nat) => b.ins.flatMap f
  let q := fun (b : Body) => (of b BIns.codes).filter fun x => 0xA0 ≤ x && x < 0xB0
  (of p BIns.preds).any (of c BIns.preds).contains || (q p).any (q c).contains
  || (of p BIns.kWrites).any (of c BIns.codes).contains || (of c BIns.kWrites).any (of p BIns.codes).contains

/-- Trip count of a kernel from its launch record. -/
def Splice.trips (x : Splice) (l : Launch) : Nat :=
  if x.tkind = 0 then x.tconst else if x.tkind = 1 then (l.args.getD x.tsel 0).toNat else (l.lev x.tsel).count

/-! ### The fused body (R136 to R138, R141) -/

/-- What a fused body emits for one original instruction (or for none): its words with their origins, and the original
target of a branch. -/
structure Out where
  second : Bool
  addr : Nat
  doff : Nat
  words : List (Nat × Nat)
  target : Option Nat
  prologue : Bool
  deriving DecidableEq, Repr

/-- A consumer's word with its registers renumbered (R137). -/
def renumber (wp : Nat) (i : BIns) : Nat :=
  match i.op with
  | none => i.w
  | some o => (opUses o).foldl (fun w k => if codeAt w k < 0x80 then putCode w k (codeAt w k + wp) else w) i.w

/-- The words of an instruction, of an origin. -/
def BIns.out (i : BIns) (w origin : Nat) : List (Nat × Nat) :=
  match i.op with
  | some o => if o.long then [(w, origin), (i.e, origin)] else [(w, origin)]
  | none => [(w, origin)]

/-- MOV under an instruction's predicate. -/
def movWord (i : BIns) (dst src : Nat) : Nat := packWord 0 .mov (fPred i.w) (BitVec.ofNat 8 dst) (BitVec.ofNat 8 src) 0

/-- What stands at the tile-in site of a pair that keeps its own zone: a VMOV, a MOV or a BFX from the temporary. -/
def inWords (q : Pair) (wp temp : Nat) : List (Nat × Nat) :=
  let d := codeAt q.ii.w 0
  let d := if d < 0x80 then d + wp else d
  let db := BitVec.ofNat 8 d
  let tb := BitVec.ofNat 8 temp
  if q.vector then
    let m := bits q.ii.w 12 4 * 16 + bits q.oi.w 1 1 * 2 + bits q.ii.w 0 0
    let e := bits q.ii.e 63 52 * 2 ^ 52 + bits q.ii.e 51 39 * 2 ^ 39 + bits q.oi.e 38 26 * 2 ^ 26
    [(packWord 1 .vmov (fPred q.ii.w) db tb m, 2), (e, 2)]
  else if q.inn.mfmt = 3 then [(packWord 0 .mov (fPred q.ii.w) db tb 0, 2)]
  else [(packWord 0 .bfx (fPred q.ii.w) db tb (bits q.ii.w 19 19 * 2 ^ 13 + 8 * 2 ^ q.inn.mfmt * 64), 2)]

/-- The emission of a producer's instruction: for each pair whose tile-out stands here a MOV into its temporary, and the
instruction itself where a site keeps it (R138). -/
def outFirst (b : Body) (pairs : List (Pair × Option Nat)) (pro : Bool) (i : BIns) : Out :=
  let o : Out := ⟨false, i.addr, i.addr - b.sp.body, i.out i.w 0, i.target, pro⟩
  match pairs.filter fun q => q.1.oi.addr = i.addr with
  | [] => o
  | here =>
    let kept := if here.any fun q => q.1.out.flg = 1 then i.out i.w 0 else []
    { o with words := (here.filterMap Prod.snd).map (fun t => (movWord i t (codeAt i.w 1), 2)) ++ kept }

/-- The emission of a consumer's instruction: what each pair whose tile-in stands here becomes (R138). -/
def outSecond (b : Body) (wp : Nat) (pairs : List (Pair × Option Nat)) (pro : Bool) (i : BIns) : Out :=
  let o : Out := ⟨true, i.addr, i.addr - b.sp.body, i.out (renumber wp i) 1, i.target, pro⟩
  match pairs.filter fun q => q.1.ii.addr = i.addr with
  | [] => o
  | here => { o with words := here.flatMap fun q => match q.2 with | some t => inWords q.1 wp t | none => [] }

/-- The last emission of a part leaves nothing. -/
def emptyLast (l : List Out) : List Out :=
  match l.getLast? with
  | some o => l.dropLast ++ [{ o with words := [] }]
  | none => l

/-- A part without the EXIT that ends it. -/
def dropExit (part : List BIns) (l : List Out) : List Out :=
  if (part.getLast?.map BIns.op) = some (some .exit) then emptyLast l else l

/-- The five steps of R136, with the producer's LOOP at the end of step 3. -/
def fusedOuts (p c : Body) (wp : Nat) (pairs : List (Pair × Option Nat)) : List Out :=
  let f := outFirst p pairs
  let g := outSecond c wp pairs
  let closing := match p.loop.getLast? with | some i => [outFirst p pairs false i] | none => []
  p.prologue.map (f true) ++ c.prologue.map (g true) ++ emptyLast (p.loop.map (f false)) ++ emptyLast (c.loop.map (g false))
  ++ closing ++ dropExit p.epilogue (p.epilogue.map (f false)) ++ c.epilogue.map (g false)

/-- Emissions with their new addresses. -/
def placeOuts : Nat → List Out → List (Nat × Out)
  | _, [] => []
  | a, o :: l => (a, o) :: placeOuts (a + 8 * o.words.length) l

/-- New address of a branch's target: LOOPS, from a prologue, is the end of that prologue in the fused code. A target
within an instruction keeps its distance from the instruction's start. -/
def newTarget (p c : Body) (l : List (Nat × Out)) (o : Out) (t : Nat) : Nat :=
  let b := if o.second then c else p
  let nth := fun (n : Nat) => ((l[n]?).map Prod.fst).getD 0
  if o.prologue && t = b.sp.loops then nth (p.prologue.length + if o.second then c.prologue.length else 0)
  else
    let mine := l.filter fun e => e.2.second = o.second
    match mine.find? fun e => e.2.addr = t with
    | some e => e.1
    | none => ((mine.find? fun e => e.2.addr + 8 = t).map fun e => e.1 + 8).getD 0

/-- Where the matched tile-outs of a producer stand, or stood: fused address, words, and whether it is kept (R138, R139). -/
def tileOutsOf (pairs : List (Pair × Option Nat)) (l : List (Nat × Out)) : List (Nat × Nat × Nat × Bool) :=
  l.flatMap fun (a, o) =>
    let here := pairs.filter fun q => !o.second && q.1.oi.addr = o.addr
    (here.take 1).map fun q => (a, q.1.oi.w, q.1.oi.e, here.any fun p => p.1.out.flg = 1)

/-- The words of the fused code with their origins and offsets. -/
def fusedWords (p c : Body) (l : List (Nat × Out)) : List (Nat × Nat × Nat) :=
  l.flatMap fun (a, o) =>
    let own := fun (g : Nat) => if g = 2 && o.second then 6 else g
    match o.target, o.words with
    | some t, [(w, g)] =>
      let d := Word.ofNat (newTarget p c l o t) - Word.ofNat a
      [(w - w % 2 ^ 41 + d.toNat / 8 % 2 ^ 41, own g, o.doff)]
    | _, ws => ws.map fun e => (e.1, own e.2, o.doff)

/-- A fused pair: its launch, and the bytes of the fused area. -/
structure FusedPair where
  launch : Launch
  area : List Byte
  deriving DecidableEq, Repr

/-- Rounds up to 64. -/
def up64 (n : Nat) : Nat := (n + 63) / 64 * 64

/-- Links a pair that nothing refuses (R136, R137). -/
def link (p c : Body) (lp lc : Launch) (pairs : List (Pair × Option Nat)) (wt : Nat) : FusedPair :=
  let outs := placeOuts p.sp.fusa (fusedOuts p c lp.win pairs)
  let ws := fusedWords p c outs
  let code := ws.flatMap fun e => leBytes 8 e.1
  let map := ws.flatMap fun e => leBytes 8 (e.2.1 % 4 * 2 ^ 62 + e.2.2)
  let image : List Word := [Word.ofNat c.sp.body, 0] ++ (List.range 6).map fun i => lc.args.getD i 0
  let at' := up64 code.length
  let top := up64 (at' + map.length)
  let area := padTo top (padTo at' code ++ map) ++ image.flatMap fun w => leBytes 8 w.toNat
  let f : Fused := {
    code := Word.ofNat p.sp.fusa, clen := code.length, size := p.sp.fusn, orgs := ws.map fun e => e.2, image := image,
    pbody := Word.ofNat p.sp.body, cbody := Word.ofNat c.sp.body, wp := lp.win,
    zoneMap := pairs.filterMap fun q => if q.2.isNone then some (q.1.inn.zone, q.1.out.zone) else none, fatalC := 0,
    tileOuts := tileOutsOf pairs outs, elided := [], kept := [] }
  ⟨{ lp with
      win := lp.win + lc.win + wt, zmask := lp.zmask ||| lc.zmask, fused := some f,
      zf := (List.range 16).map fun n => if bit lc.zmask n then lc.zf.getD n 0 else lp.zf.getD n 0 }, area⟩

/-- The temporaries of the pairs that keep their own zones, in site order (R137). -/
def temporaries (zp zc : List Nat) : Nat → List Pair → List (Pair × Option Nat)
  | _, [] => []
  | t, q :: l => if q.aliases zp zc then (q, none) :: temporaries zp zc t l else (q, some t) :: temporaries zp zc (t + 1) l

/-- The fused area of a kernel overlaps the area of a fused launch that has not completed (R135, reason 12). -/
def Splice.inUse (x : Splice) (p : Part) : Bool :=
  p.launches.any fun e => e.2.fused.any fun g => x.fusa < g.code.toNat + g.size && g.code.toNat < x.fusa + x.fusn

/-- Judges a pair (R135): the reason that refuses it, or the fused pair. `rem` and `bar` tell that either packet has REM 1,
or the consumer BAR 1. -/
def State.bind (s : State) (pno : Nat) (lp lc : Launch) (rem : Bool) : Except (Nat × State) (FusedPair × State) :=
  match s.readSplice pno lp with
  | (none, s) => .error (1, s)
  | (some p, s) =>
    match s.readSplice pno lc with
    | (none, s) => .error (1, s)
    | (some c, s) =>
      let pairs := temporaries lp.zf lc.zf (lp.win + lc.win) (matchSites p c lp.args lc.args c.sp.sites p.sp.sites)
      let wt := 8 * (((pairs.filter fun q => q.2.isSome).length + 7) / 8)
      let win := lp.win + lc.win + wt
      if rem then .error (2, s)
      else if lp.nlev ≠ lc.nlev || lp.levs ≠ lc.levs || lp.queue ≠ lc.queue || lp.wgt ≠ lc.wgt || lp.pcls ≠ lc.pcls || lp.pl ≠ lc.pl
        then .error (3, s)
      else if p.sp.trips lp ≠ c.sp.trips lc then .error (4, s)
      else if 128 < win || p.sp.wmax < win || c.sp.wmax < win then .error (5, s)
      else if lp.zmask &&& lc.zmask ≠ 0 then .error (6, s)
      else if namesClash p c then .error (7, s)
      else if p.unfit false || c.unfit true then .error (8, s)
      else if pairs = [] then .error (9, s)
      else if pairs.any fun q => q.1.vector && q.2.isSome && !q.1.moves lp.zf lc.zf then .error (10, s)
      else
        let f := link p c lp lc pairs wt
        if p.sp.fusa = 0 || p.sp.fusn < f.area.length then .error (11, s)
        else if p.sp.inUse (s.part pno) then .error (12, s)
        else .ok (f, s)

end Sys2Proof.Machine
end

