-- ==== Sys2Proof/Machine/Lodge.lean ====
section
/-!
DEFINITION. The Lodge command interface (spec 03): queues and doorbells (R54 to R59), packets (R60 to R66), launches
(R95 to R99, R113), COPY, SIGNAL, WAIT, LAYER-TABLE, HEAD-BIND, EXPORT and IMPORT (R61, R71, R72).
-/

namespace Sys2Proof.Machine

/-! ### Writes that Lodge performs -/

/-- Writes consecutive physical parts at their slices (R202). -/
def State.sliceParts (s : State) (pno : Nat) : List (Nat × Nat) → List Byte → State
  | [], _ => s
  | (pa, n) :: rest, bs => State.sliceParts (s.sliceWrite pno pa (bs.take n)) pno rest (bs.drop n)

/-- Writes bytes of a partition's virtual space at the slices, without parking; with `clean`, poisoned memory stops it. -/
def State.lodgePut (s : State) (pno va : Nat) (bs : List Byte) (clean : Bool) : Except LodgeErr State :=
  match s.lodgeParts pno .write false (pageParts (bs.length / 4096 + 2) va bs.length) with
  | .error e => .error e
  | .ok (l, s) =>
    if clean && l.any fun q => s.dramPoisoned q.1 q.2 then .error .poison else .ok (s.sliceParts pno l bs)

def State.queue (s : State) (pno q : Nat) : Queue := (s.part pno).queues.lookD q Queue.zero
def State.modQueue (s : State) (pno q : Nat) (f : Queue → Queue) : State :=
  s.modPart pno fun p => { p with queues := p.queues.put q (f (p.queues.lookD q Queue.zero)) }

/-- Sets the dirty bit of a write that Lodge performs for a queue (R72). A bitmap that cannot be written is recorded as
any write that Lodge cannot make. -/
def State.dirtyMark (s : State) (pno q a : Nat) : State :=
  let x := s.queue pno q
  let wlen := bits x.qdtw.toNat 15 0
  let wbase := x.qdtw.toNat / 2 ^ 21 * 2 ^ 21
  if wlen = 0 || a < wbase || wbase + wlen * 2 ^ 21 ≤ a then s
  else
    let n := (a - wbase) / 4096
    let b := x.qdtb.toNat / 8 * 8 + n / 8
    match s.lodgeRead pno b 1 with
    | .error e => (s.lodgeMet pno e).lodgeFailRecord pno b
    | .ok (bs, s) =>
      match s.lodgePut pno b [bs.getD 0 0 ||| BitVec.ofNat 8 (2 ^ (n % 8))] true with
      | .ok s => s
      | .error e => (s.lodgeMet pno e).lodgeFailRecord pno b

/-! ### Queue registers (R54 to R58) -/

/-- A write of QCFG (R57). One write that sets EN and PAUSE together leaves the queue in STATE 2 at once: R57 gives the
effect of PAUSE for a queue in STATE 1 and does not say in which order one write's fields act (DESIGN CHOICE, log entry
131). -/
def State.qcfgWrite (s : State) (pno q : Nat) (v : Word) : State :=
  let n := v.toNat
  let x := s.queue pno q
  let pause := fun (x : Queue) =>
    { x with pause := bit n 1, qst := if bit n 1 && x.qst = 1 then 2 else if !bit n 1 && x.qst = 2 then 1 else x.qst }
  if x.en then
    if bit n 0 then s.modQueue pno q pause
    else
      let s := s.modPart pno fun p =>
        let gone := p.pkts.filterMap fun k => match k.st with
          | .launch lid => if k.q = q && !((p.launches.look lid).any (·.placed)) then some lid else none
          | _ => none
        { p with
          launches := p.launches.filter fun e => !gone.contains e.1,
          pkts := p.pkts.filter fun k => match k.st with | .launch lid => !gone.contains lid | _ => true }
      s.modQueue pno q fun x => { x with en := false, qst := 0, err := 0, imported := false, pause := bit n 1, pair := none, posted := [] }
  else
    let x := { x with ken := bit n 2, log2sz := bits n 12 8 }
    if bit n 0 then
      let err :=
        if (s.part pno).grant = 0 then 4
        else if x.log2sz < 4 || 16 < x.log2sz || x.base.toNat / 64 * 64 % (64 * 2 ^ x.log2sz) ≠ 0 then 1 else 0
      s.modQueue pno q fun _ => pause
        { x with en := true, err := err, qst := if err = 0 then 1 else 3, ep := x.ep + 1, posted := [],
                 head := if x.imported then x.head else 0, tail := if x.imported then x.tail else 0 }
    else s.modQueue pno q fun _ => { x with pause := bit n 1 }

/-- Every page of a run of host bus addresses answers. -/
def State.hostReach (s : State) (a n : Nat) : Bool := s.hostHoles.all fun g => g < a / 4096 || (a + n - 1) / 4096 < g

/-- What the ring slot of packet `k` of a queue holds now (R58), and the state after its read. -/
def State.slotWords (s : State) (pno q k : Nat) : Except LodgeErr (List Word × State) :=
  let x := s.queue pno q
  let a := x.base.toNat / 64 * 64 + 64 * (k % 2 ^ x.log2sz)
  if bit x.base.toNat 0 then
    match s.lodgeRead pno a 64 with
    | .ok (bs, s) => .ok (leWords 8 bs, s)
    | .error e => .error e
  else if s.hostReach a 64 then .ok (leWords 8 (s.host.bytes a 64), s.hostSeen pno) else .error .address

/-- The slots of `n` packets from HEAD on, as a doorbell finds them: what was noted of a packet already announced stays
(R58). -/
def State.postedNow (s : State) (pno q n : Nat) : KMap (List Word) :=
  let x := s.queue pno q
  (List.range n).foldl (fun (m : KMap (List Word)) i =>
    let k := (x.head + i) % 2 ^ 32
    match x.posted.look k, s.slotWords pno q k with
    | some ws, _ => m.put k ws
    | none, .ok (ws, _) => m.put k ws
    | none, .error _ => m) []

/-- A write of QDB (R57, R58). -/
def State.qdbWrite (s : State) (pno q : Nat) (v : Word) : State :=
  s.modQueue pno q fun x =>
    let t := v.toNat % 2 ^ 32
    let n := (t + 2 ^ 32 - x.head) % 2 ^ 32
    if x.qst = 0 || x.qst = 3 then x
    else if 2 ^ x.log2sz < n then { x with qst := 3, err := 2 }
    else { x with tail := t, posted := s.postedNow pno q n }

/-- A write of QBASE (R54, R57). -/
def State.qbaseWrite (s : State) (pno q : Nat) (v : Word) : State :=
  s.modQueue pno q fun x => if x.en then x else { x with base := Word.ofNat (v.toNat / 64 * 64 + v.toNat % 2) }

/-- A write of QDTW, and of QDTB (R54). -/
def State.qdtwWrite (s : State) (pno q : Nat) (v : Word) : State :=
  s.modQueue pno q fun x => { x with qdtw := Word.ofNat (v.toNat / 2 ^ 21 * 2 ^ 21 + v.toNat % 2 ^ 16) }
def State.qdtbWrite (s : State) (pno q : Nat) (v : Word) : State :=
  s.modQueue pno q fun x => { x with qdtb := Word.ofNat (v.toNat / 8 * 8) }

/-- A write of IFVW (R56). -/
def State.ifvwWrite (s : State) (pno : Nat) (v : Word) : State :=
  s.modPart pno fun p =>
    if p.queues.any fun e => e.2.en then p else { p with want := v.toNat % 256, grant := b2n (bit v.toNat 0) }

/-- QDB_WRITE (R58). -/
def execQdbWrite (part q : Nat) (v : Word) (s : State) : Res := s.hostPart part fun s => s.qdbWrite part q v
/-- QCFG_ENABLE (R57). -/
def execQcfgEnable (part q : Nat) (v : Word) (s : State) : Res :=
  if bit v.toNat 0 then s.hostPart part fun s => s.qcfgWrite part q v else .next s
/-- QCFG_DISABLE (R57). -/
def execQcfgDisable (part q : Nat) (v : Word) (s : State) : Res :=
  if bit v.toNat 0 then .next s else s.hostPart part fun s => s.qcfgWrite part q v
/-- QCFG_PAUSE (R57). -/
def execQcfgPause (part q : Nat) (v : Word) (s : State) : Res :=
  if bit v.toNat 1 then s.hostPart part fun s => s.qcfgWrite part q v else .next s
/-- QCFG_UNPAUSE (R57). -/
def execQcfgUnpause (part q : Nat) (v : Word) (s : State) : Res :=
  if bit v.toNat 1 then .next s else s.hostPart part fun s => s.qcfgWrite part q v
/-- IFVW_WRITE (R56). -/
def execIfvwWrite (part : Nat) (v : Word) (s : State) : Res := s.hostPart part fun s => s.ifvwWrite part v

/-! ### Packets (R60, R64) -/

def Pkt.hdr (k : Pkt) : Nat := (k.words.getD 0 0).toNat
def Pkt.w (k : Pkt) (i : Nat) : Nat := (k.words.getD i 0).toNat
def Pkt.type (k : Pkt) : Nat := bits k.hdr 63 56
def Pkt.bar (k : Pkt) : Bool := bit k.hdr 55
def Pkt.pc (k : Pkt) : Bool := bit k.hdr 54
def Pkt.cr (k : Pkt) : Bool := bit k.hdr 53
def Pkt.rem (k : Pkt) : Bool := bit k.hdr 52

/-- The packet has started (R61): a launch starts when its root is placed. -/
def Part.started (p : Part) (k : Pkt) : Bool :=
  match k.st with
  | .launch lid => (p.launches.look lid).any (·.placed)
  | _ => true

/-- INFL of a queue (R54). -/
def Part.infl (p : Part) (q : Nat) : Nat := (p.pkts.filter fun k => k.q = q && p.started k).length

/-- The words of a packet as Lodge has them (R58): what the slot holds, where it is as the doorbell found it; of a slot
rewritten since, unspecified values (R3). -/
def packetWords (pno q k : Nat) (old : Option (List Word)) (now : List Word) : List Word :=
  match old with
  | none => now
  | some ws =>
    if ws = now then now
    else (List.range 8).map fun i => Config.rewrittenWord pno q (8 * k + i) (ws.getD i 0) (now.getD i 0)

/-- Lodge fetches packet `k` of a queue (R58). The content of a slot rewritten before HEAD passed it is a free value (log
entry 113). -/
def State.fetchPacket (s : State) (pno q k : Nat) : Except LodgeErr (List Word × State) :=
  match s.slotWords pno q k with
  | .error e => .error e
  | .ok (now, t) => .ok (packetWords pno q k ((s.queue pno q).posted.look k) now, t)

/-- A queue may start its next packet (R57, R62), apart from that packet's BAR. -/
def State.mayStart (s : State) (pno q : Nat) : Bool :=
  let p := s.part pno
  let x := s.queue pno q
  p.st = 1 && s.booted && !s.held && x.qst = 1 && x.head ≠ x.tail
  && p.pkts.all (fun k => k.q ≠ q || (p.started k && k.st ≠ .wait))
  && (match x.pair with
    | some (c, _) => c ≠ x.head || !(p.pkts.any fun k => k.q = q && (k.k + 1) % 2 ^ 32 = c)
    | none => true)

/-- The next packet of a queue, where R62 lets it start. -/
def State.readyPacket (s : State) (pno q : Nat) : Option (Pkt × State) :=
  if !s.mayStart pno q then none
  else
    let x := s.queue pno q
    match s.fetchPacket pno q x.head with
    | .error _ => none
    | .ok (ws, s) =>
      let bref := match x.pair with | some (c, r) => if c = x.head then r else 0 | none => 0
      let k : Pkt := ⟨q, x.head, x.ep, ws, s.fab, bref, .copy⟩
      if k.bar && (s.part pno).pkts.any (fun o => o.q = q) then none else some (k, s)

/-- The fetch of a queue's next packet fails (R58). -/
def State.fetchFails (s : State) (pno q : Nat) : Bool :=
  s.mayStart pno q && (match s.fetchPacket pno q (s.queue pno q).head with | .ok _ => false | .error _ => true)

/-- A launch that waits may be placed: its queue still runs (R57). -/
def Part.mayPlace (p : Part) (l : Launch) : Bool :=
  !l.placed && (match l.origin with
    | .packet q _ _ _ => (p.queues.lookD q Queue.zero).qst = 1
    | _ => true)

/-- Where a launch's root goes (R97): the core, and the pointer after it. -/
def State.rootCore (s : State) (pno : Nat) (l : Launch) : Option (Nat × Nat) :=
  let p := s.part pno
  let cls := p.clusters
  (List.range cls.length).findSome? fun i =>
    let j := (p.rootPtr + i) % cls.length
    ((clusterCores (cls.getD j 0)).find? fun c => s.canHost c l).map fun c => (c, (j + 1) % cls.length)

/-- A LAUNCH packet of a queue that waits could be placed now. -/
def State.rootDue (s : State) (pno q : Nat) : Bool :=
  (s.part pno).launches.any fun e => (match e.2.origin with | .packet n _ _ _ => n = q | _ => false)
    && (s.part pno).mayPlace e.2 && (s.rootCore pno e.2).isSome

/-- It is a queue's turn (R59): from the queue after the one that was served last, in round-robin order, it is the first
whose next packet can start, be it a LAUNCH that waits for its root. Each other queue is so served at most once before a
queue whose packet may start. -/
def State.served (s : State) (pno q : Nat) : Bool :=
  let p := s.part pno
  let far := fun (n : Nat) => (n + 256 - p.rrq) % 256
  p.queues.all fun e =>
    far q ≤ far e.1 || !((s.readyPacket pno e.1).isSome || s.fetchFails pno e.1 || s.rootDue pno e.1)

/-- The next packet of a queue, where R62 lets it start and it is the queue's turn. -/
def State.nextPacket (s : State) (pno q : Nat) : Option (Pkt × State) :=
  if s.served pno q then s.readyPacket pno q else none

/-- The turn goes on to the queue after this one. -/
def State.turnOn (s : State) (pno q : Nat) : State := s.modPart pno fun p => { p with rrq := (q + 1) % 256 }

/-- A head feeds an encoder, or will from the next tick on (R94): an encoder is fed by at most one head. -/
def Head.feeds (h : Head) (e : Nat) : Bool :=
  (match h.bind with | some b => decide (b.enc = e) | none => false)
  || (match h.pendBind with | some (some b) => decide (b.enc = e) | _ => false)

/-- The header is free of BADPKT (R64). -/
def Pkt.headerOk (k : Pkt) : Bool :=
  1 ≤ k.type && k.type ≤ 10 && bits k.hdr 51 48 = 0 && bits k.hdr 31 0 = 0
  && (k.type = 1 || (!k.rem && !k.pc)) && (!k.cr || k.w 7 % 32 = 0)

/-- Operand words from `i` to 6 are 0. -/
def Pkt.zeroFrom (k : Pkt) (i : Nat) : Bool := (List.range 7).all fun n => n < i || k.w n = 0

/-- The operands of a HEAD-BIND are free of BADPKT (R61, R64, R92, R94). -/
def Part.headBindOk (p : Part) (k : Pkt) : Bool :=
  let w := k.w 1
  let h := bits w 4 0
  let e := bits w 12 8
  let head := p.rink.heads.lookD h Head.zero
  k.zeroFrom 4 && bits w 63 19 = 0 && bits w 15 13 = 0 && bits w 7 5 = 0 && bit p.headm h
  && (if bit w 18 then bits w 17 8 = 0 && k.w 2 = 0 && k.w 3 = 0 && head.bind.isSome
    else bit p.encm e && k.w 2 % 64 = 0 && k.w 3 % 64 = 0 && 2 ^ 20 ≤ k.w 3 && k.w 3 ≤ 2 ^ 32
      && !(p.rink.heads.any fun o => o.1 ≠ h && o.2.feeds e))

/-- The operands are free of BADPKT, as far as the packet and the state of the partition show it (R61, R64). -/
def State.operandsOk (s : State) (pno : Nat) (k : Pkt) : Bool :=
  let p := s.part pno
  match k.type with
  | 1 => k.w 1 % 128 = 0 && k.zeroFrom 3 && (if k.rem then bits (k.w 2) 15 10 = 0 && bits (k.w 2) 63 32 = 0 else k.w 2 = 0)
  | 2 => k.w 2 < 64 && k.zeroFrom 3
  | 3 => bits (k.w 1) 7 6 = 0 && bits (k.w 1) 63 17 = 0 && (bits (k.w 1) 15 8 < 64 || bits (k.w 1) 15 8 = 255) && k.zeroFrom 2
  | 4 => 1 ≤ k.w 3 && k.w 3 ≤ 2 ^ 32 && k.w 4 < 4 && k.zeroFrom 5
  | 5 => k.w 1 % 8 = 0 && k.w 3 < 3 && k.zeroFrom 4
  | 6 => k.w 1 % 8 = 0 && k.w 3 < 6 && k.zeroFrom 4
  | 7 => k.w 1 % 64 = 0 && 1 ≤ k.w 2 && k.w 2 ≤ 4096 && k.zeroFrom 3
  | 8 => p.headBindOk k
  | 9 => k.w 1 < 256 && k.w 1 ≠ k.q && k.w 2 % 64 = 0 && k.zeroFrom 3 && (p.queues.lookD (k.w 1) Queue.zero).qst = 2
  | 10 => k.w 1 < 256 && k.w 2 % 64 = 0 && k.zeroFrom 3 && !(p.queues.lookD (k.w 1) Queue.zero).en
  | _ => false

/-- The packet is no BADPKT before its memory is read. -/
def State.goodPacket (s : State) (pno : Nat) (k : Pkt) : Bool := k.headerOk && s.operandsOk pno k

/-- HEAD moves on by the packets that start (R54); what was noted of a refused pair's consumer goes with it. -/
def State.headUp (s : State) (pno q n : Nat) : State :=
  s.modQueue pno q fun x =>
    { x with head := (x.head + n) % 2 ^ 32,
             posted := x.posted.filter fun e => (List.range n).all fun i => e.1 ≠ (x.head + i) % 2 ^ 32,
             pair := match x.pair with | some (c, r) => if c = x.head then none else some (c, r) | none => none }

/-- The 32 bytes of a completion record (R65). -/
def crBytes (status tag bref tstart tend aux : Nat) : List Byte :=
  leBytes 2 status ++ leBytes 2 tag ++ leBytes 1 bref ++ leBytes 3 0 ++ leBytes 8 tstart ++ leBytes 8 tend ++ leBytes 8 aux

/-- Writes a packet's completion record (R65). -/
def State.completionRecord (s : State) (pno : Nat) (k : Pkt) (status aux : Nat) : State :=
  if !k.cr then s
  else if k.w 7 % 32 ≠ 0 then s.lodgeFailRecord pno (k.w 7)
  else
    match s.lodgePut pno (k.w 7) (crBytes status (bits k.hdr 47 32) k.bref k.tstart s.fab aux) true with
    | .ok s => s.dirtyMark pno k.q (k.w 7)
    | .error e => (s.lodgeMet pno e).lodgeFailRecord pno (k.w 7)

/-- A packet completes with a status (R65). -/
def State.complete (s : State) (pno : Nat) (k : Pkt) (status aux : Nat) : State :=
  (s.completionRecord pno k status aux).modPart pno fun p =>
    { p with pkts := p.pkts.filter fun o => !(o.q = k.q && o.k = k.k && o.ep = k.ep) }

/-- A packet starts and is outstanding. -/
def State.startPkt (s : State) (pno : Nat) (k : Pkt) (st : PktSt) : State :=
  (s.headUp pno k.q 1).modPart pno fun p => { p with pkts := p.pkts ++ [{ k with st := st }] }

/-- A packet starts and completes at the same instant. -/
def State.instantly (s : State) (pno : Nat) (k : Pkt) (status aux : Nat) : State :=
  (s.headUp pno k.q 1).complete pno k status aux

/-- The next packet of a queue, if it is of a type and no BADPKT. -/
def State.onPacket (s : State) (pno q type : Nat) (f : Pkt → State → State) : Res :=
  match s.nextPacket pno q with
  | some (k, s') => if k.type = type && s'.goodPacket pno k then .next (f k (s'.turnOn pno q)) else .next s
  | none => .next s

/-- BADPKT (R64). -/
def execBadpkt (part q : Nat) (s : State) : Res :=
  match s.nextPacket part q with
  | some (k, s') => if s'.goodPacket part k then .next s else .next ((s'.turnOn part q).instantly part k 1 0)
  | none => .next s

/-- RING_FETCH_FAULT (R58). -/
def execRingFetchFault (part q : Nat) (s : State) : Res :=
  if s.served part q && s.fetchFails part q then
    let s := match s.fetchPacket part q (s.queue part q).head with | .error e => s.lodgeMet part e | .ok _ => s
    .next (s.modQueue part q fun x => { x with qst := 3, err := 3 })
  else .next s

/-- An outstanding packet of a partition by its place among them. -/
def State.pkt? (s : State) (pno pid : Nat) : Option Pkt :=
  if (s.part pno).st = 1 then (s.part pno).pkts[pid]? else none

/-! ### Launch records (R95, R96) -/

/-- A level entry of a launch record. -/
def lrecLevel (d : List Byte) (i : Nat) : Level := ⟨dfield d (32 + 8 * i) 1, dfield d (33 + 8 * i) 1, dfield d (36 + 8 * i) 4⟩

/-- The levels used; a count above 8 is caught by check 3. -/
def lrecLevels (d : List Byte) : List Level := (List.range (min (dfield d 9 1) 8)).map (lrecLevel d)

/-- The DOMC of a level exceeds that of the level before. -/
def domRises : List Level → Bool
  | a :: b :: l => a.domc < b.domc || domRises (b :: l)
  | _ => false

/-- Checks 1 to 9 of R96 in order; 0 when all pass. `ken` admits KER. -/
def lrecCheck (d : List Byte) (ken : Bool) : Nat :=
  let lv := lrecLevels d
  let win := dfield d 8 1
  let nlev := dfield d 9 1
  if dfield d 0 8 % 8 ≠ 0 || [0, 16, 24, 96, 104, 120].any (fun o => 2 ^ 57 ≤ dfield d o 8) then 1
  else if win < 8 || 128 < win || win % 8 ≠ 0 then 2
  else if nlev = 0 || 8 < nlev then 3
  else if 15 < dfield d 10 1 || dfield d 11 1 = 0 || 1 < dfield d 12 1 || 1 < dfield d 13 1 || (dfield d 13 1 = 1 && !ken) then 4
  else if lv.any fun l => 7 < l.domc || 7 < l.scope || l.scope < l.domc || l.count = 0 then 5
  else if domRises lv then 6
  else if 46 < (lv.map fun l => clog2 l.count).sum then 7
  else if (List.range 8).any (fun i => if i < nlev then dfield d (34 + 8 * i) 2 ≠ 0 else dfield d (32 + 8 * i) 8 ≠ 0)
      || dfield d 116 4 ≠ 0 then 8
  else if dfield d 16 8 % 8 ≠ 0 || dfield d 96 8 % 8 ≠ 0 || dfield d 104 8 % 128 ≠ 0 || dfield d 120 8 % 8 ≠ 0
      || 2 ^ 20 < dfield d 112 4 || (dfield d 112 4 ≠ 0 && dfield d 104 8 = 0) then 9
  else 0

/-- What becomes of a launch record. -/
inductive Lrec where
  | bad (code : Nat)
  | fault (e : LodgeErr)
  | ok (l : Launch) (s : State)
  deriving Repr

/-- A launch from the fields of a record that passed, its ZF images and its argument words. -/
def launchOf (d : List Byte) (zf : List Nat) (args : List Word) : Launch where
  lid := 0
  entry := Word.ofNat (dfield d 0 8)
  win := dfield d 8 1
  nlev := dfield d 9 1
  queue := dfield d 10 1
  wgt := dfield d 11 1
  pcls := dfield d 12 1
  pl := dfield d 13 1
  zmask := dfield d 14 2
  zf := zf
  splc := Word.ofNat (dfield d 24 8)
  levs := lrecLevels d
  args := args
  spill := Word.ofNat (dfield d 104 8)
  spn := dfield d 112 4
  rjoin := Word.ofNat (dfield d 120 8)
  placed := false
  pkgCount := 0
  moving := []
  movingQ := []
  movingD := []
  fatals := 0
  origin := .node 0 0
  fused := none

/-- Reads `n` words that a record names, zeros where it names none. -/
def State.namedWords (s : State) (pno a n : Nat) : Except LodgeErr (List Word × State) :=
  if a = 0 then .ok (List.replicate n 0, s)
  else match s.lodgeRead pno a (8 * n) with
    | .ok (bs, s) => .ok (leWords n bs, s)
    | .error e => .error e

/-- Checks a record's bytes and reads what it names (R96). -/
def State.checkLrec (s : State) (pno : Nat) (d : List Byte) (ken : Bool) : Lrec :=
  let code := lrecCheck d ken
  if code ≠ 0 then .bad code
  else
    match s.namedWords pno (dfield d 16 8) 16 with
    | .error e => .fault e
    | .ok (zf, s) =>
      match s.namedWords pno (dfield d 96 8) 6 with
      | .error e => .fault e
      | .ok (args, s) =>
        let l := launchOf d (zf.map BitVec.toNat) args
        if (List.range 16).any fun n => bit l.zmask n && !zfValid n (l.zf.getD n 0) then .bad 10 else .ok l s

/-- Reads and checks the record at an address. -/
def State.readLrec (s : State) (pno a : Nat) (ken : Bool) : Lrec :=
  match s.lodgeRead pno a 128 with
  | .error e => .fault e
  | .ok (d, s) => s.checkLrec pno d ken

/-- A malformed entry that the reading of a record has met is entered in the fault log (R185). -/
def State.lrecMet (s : State) (pno : Nat) : Lrec → State
  | .fault e => s.lodgeMet pno e
  | _ => s

/-- A launch identifier that no live launch of the partition carries (R100). -/
def freshLid (m : KMap Launch) : Nat → Nat → Nat
  | 0, n => n
  | fuel + 1, n => if n = 0 || (KMap.look m n).isSome then freshLid m fuel ((n + 1) % 2 ^ 32) else n

/-- Adds a launch that waits to be placed: its identifier, and the state. -/
def State.addLaunch (s : State) (pno : Nat) (l : Launch) (o : Origin) : Nat × State :=
  let p := s.part pno
  let lid := freshLid p.launches (p.launches.length + 2) p.nextLid
  (lid, s.modPart pno fun p =>
    { p with nextLid := (lid + 1) % 2 ^ 32, launches := p.launches.put lid { l with lid := lid, origin := o } })

/-! ### LAUNCH (R61, R66, R134) -/

/-- The consumer of a pair with a LAUNCH that carries PC and would start (R66): the next packet of the ring, which has
arrived and is a LAUNCH with PC. -/
def State.partner (s : State) (pno : Nat) (k : Pkt) : Option (Pkt × State) :=
  let x := s.queue pno k.q
  let n := (k.k + 1) % 2 ^ 32
  if !k.pc || n = x.tail || (match x.pair with | some (c, _) => c = k.k | none => false) then none
  else
    match s.fetchPacket pno k.q n with
    | .error _ => none
    | .ok (ws, s) =>
      let c : Pkt := ⟨k.q, n, x.ep, ws, 0, 0, .copy⟩
      if c.type = 1 && c.pc then some (c, s) else none

/-- What Binding makes of a LAUNCH that would start. -/
inductive Bound where
  /-- It runs as an ordinary LAUNCH. -/
  | alone (s : State)
  /-- A pair, refused for a reason. -/
  | refused (reason : Nat) (s : State)
  /-- A fused pair, its area written. -/
  | fused (l : Launch) (mate : Pkt) (s : State)

/-- The reason that refuses a pair whose consumer is no launch that could run here (log entry 86): 1 where its splice
information cannot be read, 2 where R135 has it, and otherwise 1. -/
def State.refusedWith (s : State) (pno : Nat) (c : Pkt) (rem : Bool) : Nat × State :=
  match s.lodgeSee pno (c.w 1) 128 with
  | (some d, s) =>
    let (b, s) := if rem then s.readSplice pno (launchOf d [] []) else (none, s)
    (if b.isSome then 2 else 1, s)
  | (none, s) => (1, s)

/-- Judges the pair of a LAUNCH with PC (R66, R134, R135). `l` is the producer's launch. A fused area that Lodge cannot
write refuses nothing (R133): the failure is recorded as that of any write of Lodge's. The area is Binding's and no write for
the queue in the sense of R72, which names completion records, SIGNAL and COPY: it sets no dirty bit (DESIGN CHOICE, log
entry 132). -/
def State.judgePair (s : State) (pno : Nat) (k : Pkt) (l : Launch) : Bound :=
  match s.partner pno k with
  | none => .alone s
  | some (c, s) =>
    let rem := k.rem || c.rem || c.bar
    match (if s.goodPacket pno c then s.readLrec pno (c.w 1) (c.rem || (s.queue pno k.q).ken) else .fault .off) with
    | .ok lc s =>
      match s.bind pno l lc rem with
      | .error (r, s) => .refused r s
      | .ok (f, s) =>
        let at' := (f.launch.fused.map fun g => g.code.toNat).getD 0
        match s.lodgePut pno at' f.area false with
        | .ok s => .fused f.launch c s
        | .error e => .fused f.launch c ((s.lodgeMet pno e).lodgeFailRecord pno at')
    | r =>
      let (n, s) := (match s.lodgeRead pno (c.w 1) 128 with | .ok _ => s.lrecMet pno r | .error _ => s).refusedWith pno c rem
      .refused n s

/-- A local LAUNCH packet whose record has passed waits for its root to be placed. -/
def State.queueLaunch (s : State) (pno : Nat) (k : Pkt) (l : Launch) (mate : Option Pkt) : State :=
  let (lid, s) := s.addLaunch pno l (.packet k.q k.k k.ep (mate.map Pkt.k))
  s.modPart pno fun p =>
    { p with pkts := p.pkts ++ ({ k with st := .launch lid } :: mate.toList.map fun (m : Pkt) => { m with st := .launch lid }) }

/-- Notes the reason that refused a pair: in the producer, and for the consumer's turn. -/
def State.notePair (s : State) (pno : Nat) (k : Pkt) (reason : Nat) : Pkt × State :=
  ({ k with bref := reason }, s.modQueue pno k.q fun x => { x with pair := some ((k.k + 1) % 2 ^ 32, reason) })

/-- A LAUNCH with REM: the record goes to the other device (R73). With no port up it is lost, and ends by its time-out
(R74, log entry 93). -/
def State.sendLaunch (s : State) (pno : Nat) (k : Pkt) (d : List Byte) : State :=
  let id := s.nextId
  let s := { s with nextId := id + 1 }
  let dev := bits (k.w 2) 9 0
  let req := Answer.launchReq dev ⟨id, s.devnum, (s.part pno).tsid, bits (k.w 2) 31 16, d⟩
  if dev = s.devnum then (s.startPkt pno k (.remote id false 16)).say req
  else match s.pickPort dev none with
  | some (p, s) => (s.startPkt pno k (.remote id false p)).say (.sent p 8 req)
  | none => s.startPkt pno k (.remote id false 17)

/-- The LAUNCH packet (R61). -/
def State.launchPacket (s : State) (pno : Nat) (k : Pkt) : State :=
  let ken := (s.queue pno k.q).ken
  if k.rem then
    match s.lodgeRead pno (k.w 1) 128 with
    | .error e => (s.lodgeMet pno e).instantly pno k 2 0
    | .ok (d, s) =>
      match s.partner pno k with
      | none => s.sendLaunch pno k d
      | some (c, s) =>
        let (b, s) := s.readSplice pno (launchOf d [] [])
        let (r, s) := if b.isSome then s.refusedWith pno c true else (1, s)
        let (k, s) := s.notePair pno k r
        s.sendLaunch pno k d
  else
    match s.readLrec pno (k.w 1) ken with
    | .fault e => (s.lodgeMet pno e).instantly pno k 2 0
    | .bad code => (s.checkRecord pno code (k.w 1)).instantly pno k 1 0
    | .ok l s =>
      match s.judgePair pno k l with
      | .alone s => s.queueLaunch pno k l none
      | .refused r s =>
        let (k, s) := s.notePair pno k r
        s.queueLaunch pno k l none
      | .fused l m s => s.queueLaunch pno k l (some m)

/-- LAUNCH (R61). -/
def execLaunch (part q : Nat) (s : State) : Res := s.onPacket part q 1 fun k s => s.launchPacket part k

/-! ### Placing the root (R97 to R99) -/

/-- Invalidates the instruction-cache lines of a partition's TSID in its cores (R145). -/
def State.dropIcache (s : State) (pno : Nat) : State :=
  let t := (s.part pno).tsid
  { s with cores := s.cores.map fun e =>
      if s.corePart e.1 = some pno then (e.1, { e.2 with icache := e.2.icache.filter fun l => l.tsid ≠ t }) else e }

/-- The root frame (R99). -/
def Launch.rootFrame (l : Launch) (c : Nat) : Frame :=
  ⟨[l.entry, l.rjoin] ++ (List.range 6).map fun i => l.args.getD i 0,
    Word.ofNat ((l.lev 0).domc * 2 ^ 58 + c * 2 ^ 46), l.lid, none⟩

/-- The node of a run after its launch has started. -/
def GRun.launched (r : GRun) (lid next : Nat) : GRun := { r with open' := r.open' ++ [lid], node := next, waits := false }

/-- What the start of a launch means for what it comes from. -/
def Part.launchStarted (p : Part) (l : Launch) (now : Nat) : Part :=
  match l.origin with
  | .packet q k ep second =>
    let mine := fun (o : Pkt) => o.q = q && o.ep = ep && (o.k = k || some o.k = second)
    { p with pkts := p.pkts.map fun (o : Pkt) => if mine o then { o with tstart := now } else o }
  | .node tr n =>
    match p.trigs.look tr with
    | some t =>
      let next := match t.run.bind fun r => p.graphs.look r.slot with
        | some g => (g.nodes[n]?.map GNode.next).getD 0
        | none => 0
      { p with trigs := p.trigs.put tr { t with run := t.run.map fun r => r.launched l.lid next } }
    | none => p
  | .remote id sdev => { p with lane := p.lane.filter fun e => !(e.id = id && e.sdev = sdev) }

/-- Places the root of a launch on a core: the launch starts (R61, R97, R99). The root sees what came before the doorbell,
the trigger write or the request that the launch answers (R200): its core acquires at SYS. -/
def State.placeRoot (s : State) (pno : Nat) (l : Launch) (c ptr : Nat) : State :=
  match s.newThread c l with
  | none => s
  | some (sl, s) =>
    let s := (s.dropIcache pno).deliver c sl (l.rootFrame c) .sys
    let s := s.modPart pno fun p => { (p.launchStarted l s.fab) with rootPtr := ptr }
    let s := s.modLaunch pno l.lid fun l => { l with placed := true, pkgCount := l.pkgCount + 1 }
    match l.origin with
    | .packet q _ _ second => s.headUp pno q (if second.isSome then 2 else 1)
    | _ => s

/-- It is a waiting launch's turn: of one that a packet brought, when its queue's turn has come (R59). -/
def State.rootTurn (s : State) (pno : Nat) (l : Launch) : Bool :=
  match l.origin with
  | .packet q _ _ _ => s.served pno q
  | _ => true

/-- The turn goes on past the queue of a launch that a packet brought (R59). -/
def State.rootOn (s : State) (pno : Nat) (l : Launch) : State :=
  match l.origin with
  | .packet q _ _ _ => s.turnOn pno q
  | _ => s

/-- ROOT_PLACE (R97, R59). -/
def execRootPlace (part : Nat) (s : State) : Res :=
  let p := s.part part
  if p.st ≠ 1 || s.held then .next s
  else
    match p.launches.findSome? fun e =>
        if p.mayPlace e.2 && s.rootTurn part e.2 then (s.rootCore part e.2).map fun r => (e.2, r) else none with
    | some (l, c, ptr) => .next ((s.rootOn part l).placeRoot part l c ptr)
    | none => .next s

/-! ### The end of a launch (R113) -/

/-- Ends what a terminated launch leaves on the cores and clusters (R98, R107, R124, R127). -/
def State.removeLaunch (s : State) (pno lid : Nat) : State :=
  let s := (s.partCores pno).foldl (fun (s : State) c =>
    let s := (s.core c).threads.foldl (fun (s : State) e => if e.2.lid = lid then s.vacate c e.1 else s) s
    s.modCore c fun x => { x with
      displaced := x.displaced.filter fun e => e.1.lid ≠ lid,
      saved := x.saved.filter fun t => t.lid ≠ lid,
      claims := x.claims.filter fun e => e.2 ≠ lid,
      resident := x.resident.filter (· ≠ lid),
      spill := x.spill.del lid,
      spillWait := x.spillWait.filter fun e => e.1 ≠ lid,
      deque := x.deque.filter fun e => e.lid ≠ lid,
      steals := x.steals.del lid,
      arrived := x.arrived.filter fun e => e.frame.lid ≠ lid,
      coming := x.coming.filter fun e => e.frame.lid ≠ lid,
      lastVictim := x.lastVictim.filter fun e => e.1 / 4 ≠ lid }) s
  let s := (s.partClusters pno).foldl (fun (s : State) cl =>
    s.modCluster cl fun x =>
      let d := x.disp
      let disp := if d.en && d.lid = lid && d.part = pno then { d with en := false, closing := false, lid := 0, parked := none } else d
      let wg := match x.wg with | some g => if g.lid = lid && g.part = pno then none else some g | none => none
      { x with disp := disp, wg := wg, wgstate := if x.wg.isSome && wg.isNone then 0 else x.wgstate }) s
  s.modPart pno fun p => { p with launches := p.launches.del lid }

/-- Termination detection has nothing left to wait for (R113). -/
def State.launchOver (s : State) (pno : Nat) (l : Launch) : Bool :=
  l.placed && l.moving = [] && l.movingQ = [] && l.movingD = [] && l.pkgCount = 0
  && (s.partClusters pno).all (fun cl => (s.cluster cl).jobs.all fun e => e.2.all fun j => j.lid ≠ l.lid)
  && (s.partCores pno).all (fun c =>
    let x := s.core c
    x.ring.all (fun e => e.lid ≠ l.lid) && x.sbuf.all (fun e => e.lid ≠ l.lid)
    && x.threads.all fun e => e.2.lid ≠ l.lid || e.2.unack = 0)
  && s.flights.all fun f => !(f.lid = l.lid && s.corePart f.core = some pno)

/-- Free values for the bytes of a run that removed tile-outs would have written and no kept one has (R139, R3). -/
def State.spoilRun (s : State) (pno : Nat) (kept : List (Nat × Nat)) (r : Nat × Nat) : State :=
  (List.range r.2).foldl (fun (s : State) i =>
    let a := r.1 + i
    let b : Byte := (Config.freeWord s.freec).setWidth 8
    let drawn := { s with freec := s.freec + 1 }
    if kept.any fun k => k.1 ≤ a && a < k.1 + k.2 then s
    else if isWindow a then
      if s.winHere a && s.corePart (winCore a) = some pno
      then drawn.modCore (winCore a) fun x => { x with lmem := x.lmem.store (winOff a) [b] } else s
    else match s.physAny .lodge pno a with
      | some pa => drawn.dramWrite (s.part pno).keyGen pa [b]
      | none => s) s

/-- What a fused pair leaves unspecified when it has completed (R139). -/
def State.spoilElided (s : State) (pno : Nat) (l : Launch) : State :=
  match l.fused with
  | some f => f.elided.foldl (fun s r => s.spoilRun pno f.kept r) s
  | none => s

/-- What the completion of a launch means for what it comes from. -/
def State.launchEnds (s : State) (pno : Nat) (l : Launch) (status : Nat) : State :=
  let s := s.spoilElided pno l
  match l.origin with
  | .packet q k ep second =>
    let mine := fun (n : Nat) => (s.part pno).pkts.find? fun o => o.q = q && o.k = n && o.ep = ep
    let s := match mine k with | some o => s.complete pno o status l.fatals | none => s
    match second.bind mine with
    | some o => s.complete pno o status ((l.fused.map fun f => f.fatalC).getD 0)
    | none => s
  | .node tr _ =>
    s.modPart pno fun p =>
      match p.trigs.look tr with
      | some t => { p with trigs := p.trigs.put tr { t with
          run := t.run.map fun r => { r with open' := r.open'.filter (· ≠ l.lid) } } }
      | none => p
  | .remote id sdev => s.depart sdev none (.report id sdev (if status = 0 then .done l.fatals else .abort))

/-- LAUNCH_COMPLETE (R113). -/
def execLaunchComplete (part lid : Nat) (s : State) : Res :=
  match s.launch? part lid with
  | none => .next s
  | some l => if s.launchOver part l then .next ((s.removeLaunch part lid).launchEnds part l 0) else .next s

/-! ### COPY, SIGNAL, WAIT (R61, R63) -/

/-- COPY (R61). -/
def execCopy (part q : Nat) (s : State) : Res := s.onPacket part q 4 fun k s => s.startPkt part k .copy

/-- One run of bytes of a copy, within a page at both ends. A host address that does not answer is a fault. -/
def State.copyChunk (s : State) (pno : Nat) (k : Pkt) (src dst n : Nat) : Except LodgeErr State :=
  let r := if bit (k.w 4) 0 then
      if s.hostReach src n then .ok (s.host.bytes src n, s.hostSeen pno) else .error .address
    else s.lodgeRead pno src n
  match r with
  | .error e => .error e
  | .ok (bs, s) =>
    if bit (k.w 4) 1 then
      if s.hostReach dst n then .ok { s.hostSeen pno with host := s.host.store dst bs } else .error .address
    else match s.lodgePut pno dst bs false with
      | .ok s => .ok (s.dirtyMark pno k.q dst)
      | .error e => .error e

/-- Copies run by run: the bytes written, whether all were, and the state. -/
def State.copyRuns (s : State) (pno : Nat) (k : Pkt) : Nat → Nat → Nat × Bool × State
  | 0, done => (done, done = k.w 3, s)
  | fuel + 1, done =>
    let left := k.w 3 - done
    if left = 0 then (done, true, s)
    else
      let src := (k.w 1 + done) % 2 ^ 64
      let dst := (k.w 2 + done) % 2 ^ 64
      let n := min left (min (4096 - src % 4096) (4096 - dst % 4096))
      match s.copyChunk pno k src dst n with
      | .ok s => State.copyRuns s pno k fuel (done + n)
      | .error e => (done, false, s.lodgeMet pno e)

/-- COPY_COMPLETE (R63). -/
def execCopyComplete (part pid : Nat) (s : State) : Res :=
  match s.pkt? part pid with
  | some k =>
    if k.st ≠ .copy then .next s
    else
      let (n, all, s) := s.copyRuns part k (k.w 3 / 2048 + 4) 0
      .next (s.complete part k (if all then 0 else 2) n)
  | none => .next s

/-- One atomic of SIGNAL (R63): an error when its word cannot be reached. -/
def State.signalOp (s : State) (pno a op : Nat) (v : Word) : Except LodgeErr State :=
  match s.lodgeParts pno .write false [(a, 8)] with
  | .ok ([(pa, _)], s) =>
    if op ≠ 0 && s.dramPoisoned pa 8 then .error .poison
    else .ok (s.sliceRmw pno pa 8 fun old =>
      if op = 0 then v.toNat else if op = 1 then (old + v.toNat) % 2 ^ 64 else max old v.toNat).2
  | .ok _ => .error .address
  | .error e => .error e

/-- SIGNAL (R63). -/
def execSignal (part q : Nat) (s : State) : Res :=
  s.onPacket part q 5 fun k s =>
    match s.signalOp part (k.w 1) (k.w 3) (k.words.getD 2 0) with
    | .ok s => (s.dirtyMark part k.q (k.w 1)).instantly part k 0 0
    | .error e => (s.lodgeMet part e).instantly part k 2 0

/-- WAIT (R63). -/
def execWait (part q : Nat) (s : State) : Res := s.onPacket part q 6 fun k s => s.startPkt part k .wait

/-- The comparison of a WAIT or a COND. -/
def cmpHolds (cmp v ref : Nat) : Bool := ((WCmp.parse cmp).map fun c => wcmpHolds c 64 v ref).getD false

/-- WAIT_SATISFIED (R63). -/
def execWaitSatisfied (part pid : Nat) (s : State) : Res :=
  match s.pkt? part pid with
  | some k =>
    if k.st ≠ .wait then .next s
    else
      match s.lodgeRead part (k.w 1) 8 with
      | .error e => .next ((s.lodgeMet part e).complete part k 2 0)
      | .ok (bs, s') => if cmpHolds (k.w 3) (leNat bs) (k.w 2) then .next (s'.complete part k 0 0) else .next s
  | none => .next s

/-! ### LAYER-TABLE and HEAD-BIND (R75, R94) -/

/-- LAYER_TABLE (R75). -/
def execLayerTable (part q : Nat) (s : State) : Res :=
  s.onPacket part q 7 fun k s =>
    (s.startPkt part k .layer).modPart part fun p =>
      { p with rink := { p.rink with pending := some (Word.ofNat (k.w 1), k.w 2) } }

/-- HEAD_BIND (R94). -/
def execHeadBind (part q : Nat) (s : State) : Res :=
  s.onPacket part q 8 fun k s =>
    let w := k.w 1
    let h := bits w 4 0
    let b : Option HeadBind :=
      if bit w 18 then none else some ⟨bits w 12 8, bits w 16 16, bit w 17, Word.ofNat (k.w 2), k.w 3⟩
    (s.startPkt part k .head).modPart part fun p =>
      let x := p.rink.heads.lookD h Head.zero
      { p with rink := { p.rink with heads := p.rink.heads.put h { x with pendBind := some b } } }

/-! ### EXPORT and IMPORT (R68, R71) -/

/-- EXPORT (R71). -/
def execExportQueue (part q : Nat) (s : State) : Res := s.onPacket part q 9 fun k s => s.startPkt part k .exportQ

/-- The image of a queue (R68). -/
def Queue.image (x : Queue) : List Byte :=
  [0x4C, 0x51, 0x45, 0x58] ++ leBytes 2 1 ++ leBytes 2 0 ++ leBytes 8 x.base.toNat ++ leBytes 4 x.head ++ leBytes 4 x.tail
  ++ leBytes 1 x.log2sz ++ leBytes 7 0 ++ leBytes 8 x.qdtw.toNat ++ leBytes 8 x.qdtb.toNat ++ leBytes 16 0

/-- EXPORT_COMPLETE (R71). -/
def execExportComplete (part pid : Nat) (s : State) : Res :=
  match s.pkt? part pid with
  | some k =>
    if k.st ≠ .exportQ || (s.part part).infl (k.w 1) ≠ 0 then .next s
    else
      match s.lodgePut part (k.w 2) (s.queue part (k.w 1)).image false with
      | .ok s => .next ((s.dirtyMark part k.q (k.w 2)).complete part k 0 0)
      | .error e => .next ((s.lodgeMet part e).complete part k 2 0)
  | none => .next s

/-- An image passes the checks of R68. -/
def imageOk (d : List Byte) (grant : Nat) : Bool :=
  let n := dfield d 24 1
  d.take 4 = [0x4C, 0x51, 0x45, 0x58] && dfield d 4 2 = grant && dfield d 25 7 = 0 && dfield d 48 16 = 0
  && 4 ≤ n && n ≤ 16 && (dfield d 20 4 + 2 ^ 32 - dfield d 16 4) % 2 ^ 32 ≤ 2 ^ n

/-- IMPORT (R71). -/
def execImportQueue (part q : Nat) (s : State) : Res :=
  s.onPacket part q 10 fun k s =>
    match s.lodgeRead part (k.w 2) 64 with
    | .error e => (s.lodgeMet part e).instantly part k 2 0
    | .ok (d, s) =>
      if !imageOk d (s.part part).grant then s.instantly part k 1 0
      else
        let w := fun (o : Nat) => Word.ofNat (dfield d o 8)
        let s := (s.modQueue part (k.w 1) fun x =>
          { x with base := Word.ofNat (dfield d 8 8 / 64 * 64 + dfield d 8 8 % 2), head := dfield d 16 4, tail := dfield d 20 4,
                   log2sz := dfield d 24 1, imported := true })
        let s := (s.qdtwWrite part (k.w 1) (w 32)).qdtbWrite part (k.w 1) (w 40)
        s.instantly part k 0 0

end Sys2Proof.Machine
end

