-- ==== Sys2Proof/Machine/Graphs.lean ====
section
/-!
DEFINITION. Resident graphs and triggers (R67 to R70), and remote launches (R73, R74).
-/

namespace Sys2Proof.Machine

/-! ### Triggers (R69, R70) -/

def Trig.zero : Trig := ⟨0, 255, 0, none⟩
def State.trig (s : State) (pno n : Nat) : Trig := (s.part pno).trigs.lookD n Trig.zero
def State.modTrig (s : State) (pno n : Nat) (f : Trig → Trig) : State :=
  s.modPart pno fun p => { p with trigs := p.trigs.put n (f (p.trigs.lookD n Trig.zero)) }

/-- Value of TRIGn (R69). -/
def Trig.word (t : Trig) : Word := Word.ofNat (t.runs % 2 ^ 32 * 2 ^ 32 + t.slot % 64 * (b2n (t.slot < 64)) * 2 ^ 8 + t.st)

/-- Starts a run of the bound graph. A slot that holds no graph has no node to run: its run is complete at once. -/
def State.runStart (s : State) (pno n : Nat) : State :=
  let p := s.part pno
  s.modTrig pno n fun t =>
    match p.graphs.look t.slot with
    | some g => { t with st := 2, run := some ⟨t.slot, g.entry, [], [], false⟩ }
    | none => { t with st := 1, runs := t.runs + 1, run := none }

/-- A run is requested (R70): STATE decides, whatever the binding is by then. -/
def State.trigRequest (s : State) (pno n : Nat) : State :=
  let t := s.trig pno n
  if t.st = 1 then s.runStart pno n
  else if t.st = 2 then s.modTrig pno n fun t => { t with st := 3 }
  else s

/-- Completes the TRIGGER-BIND packets whose run is over, or will not come. -/
def State.trigPackets (s : State) (pno n : Nat) : State :=
  let t := s.trig pno n
  (s.part pno).pkts.foldl (fun (s : State) k =>
    match k.st with
    | .trigger m need => if m = n && (need ≤ t.runs || t.run.isNone) then s.complete pno k 0 0 else s
    | _ => s) s

/-- A run completes (R70): RUNS rises, and a pending run starts, of the graph bound by then. -/
def State.runDone (s : State) (pno n : Nat) : State :=
  let t := s.trig pno n
  let s := s.modTrig pno n fun t => { t with runs := t.runs + 1, run := none, st := if t.slot = 255 then 0 else 1 }
  let s := if t.st = 3 && t.slot ≠ 255 then s.runStart pno n else s
  s.trigPackets pno n

/-- TRIG_WRITE (R70): a release at SYS, then the request. -/
def execTrigWrite (core slot n : Nat) (s : State) : Res :=
  s.releasedWrite core slot .sys fun s =>
    match s.corePart core with
    | some pno => if n < 64 then s.trigRequest pno n else s
    | none => s

/-- TRIGGER_BIND (R70). -/
def execTriggerBind (part q : Nat) (s : State) : Res :=
  s.onPacket part q 3 fun k s =>
    let n := bits (k.w 1) 5 0
    let slot := bits (k.w 1) 15 8
    let s := s.modTrig part n fun t => { t with slot := slot, st := if t.run.isSome then t.st else if slot = 255 then 0 else 1 }
    let t := s.trig part n
    if !bit (k.w 1) 16 || t.st = 0 then s.instantly part k 0 0
    else
      let need := t.runs + (if t.run.isSome then 2 else 1)
      let s := s.trigRequest part n
      if need ≤ (s.trig part n).runs then s.instantly part k 0 0 else s.startPkt part k (.trigger n need)

/-! ### GRAPH-LOAD (R67) -/

/-- A node of an image. -/
def nodeOf (d : List Byte) : GNode :=
  ⟨dfield d 0 1, bit (dfield d 1 1) 0, dfield d 2 2, dfield d 4 2, Word.ofNat (dfield d 8 8), Word.ofNat (dfield d 16 8), dfield d 24 8⟩

/-- A node of an image is valid; `n` nodes are there. -/
def nodeOk (d : List Byte) (n : Nat) : Bool :=
  let k := dfield d 0 1
  let c := dfield d 24 8
  1 ≤ k && k ≤ 5 && dfield d 1 1 < 2 && dfield d 6 2 = 0 && dfield d 2 2 < n && dfield d 4 2 < n
  && (if k = 3 then c < 6 else if k = 4 then c < 3 else c = 0)

/-- The header of an image is right. -/
def graphOk (d : List Byte) : Bool :=
  let n := dfield d 8 2
  d.take 4 = [0x4C, 0x47, 0x52, 0x46] && dfield d 4 2 = 1 && dfield d 6 2 = 0 && 1 ≤ n && n ≤ 1024 && dfield d 10 2 < n
  && (d.drop 12).all (· = 0)

/-- GRAPH_LOAD (R67). The KEN that R68 names for the graph's launches is the one that the loading queue has now, and not the
one it has when a node is checked: R68 does not say which moment counts (DESIGN CHOICE, log entry 133). -/
def execGraphLoad (part q : Nat) (s : State) : Res :=
  s.onPacket part q 2 fun k s =>
    let gs := k.w 2
    if (s.part part).trigs.any fun t => t.2.run.any fun r => r.slot = gs then s.instantly part k 5 0
    else
      match s.lodgeRead part (k.w 1) 32 with
      | .error e => (s.lodgeMet part e).instantly part k 2 0
      | .ok (h, s) =>
        if !graphOk h then s.instantly part k 4 0
        else
          let n := dfield h 8 2
          match s.lodgeRead part (k.w 1 + 32) (32 * n) with
          | .error e => (s.lodgeMet part e).instantly part k 2 0
          | .ok (bs, s) =>
            let ds := (List.range n).map fun i => (bs.drop (32 * i)).take 32
            if !(ds.all fun d => nodeOk d n) then s.instantly part k 4 0
            else
              let g : GSlot := ⟨ds.map nodeOf, dfield h 10 2, (s.queue part k.q).ken⟩
              (s.modPart part fun p => { p with graphs := p.graphs.put gs g }).instantly part k 0 0

/-! ### Runs (R68) -/

/-- The run of a trigger at a node of a kind, where the node may start: a BAR node, a LOOP, a COND and an END wait until
every earlier node has completed. -/
def State.atNode (s : State) (pno tr kind : Nat) (f : GRun → GSlot → GNode → State) : Res :=
  let p := s.part pno
  match (p.trigs.look tr).bind (·.run) with
  | none => .next s
  | some r =>
    match (p.graphs.look r.slot).bind fun g => g.nodes[r.node]?.map fun n => (g, n) with
    | none => .next s
    | some (g, n) =>
      if p.st ≠ 1 || s.held || n.kind ≠ kind || r.waits || ((n.bar || kind = 2 || kind = 3 || kind = 5) && r.open' ≠ []) then
        .next s
      else .next (f r g n)

/-- Changes the run of a trigger. -/
def State.modRun (s : State) (pno tr : Nat) (f : GRun → GRun) : State :=
  s.modTrig pno tr fun t => { t with run := t.run.map f }

/-- GRAPH_NODE_LAUNCH (R68): a record that fails has no effect beyond what LAUNCH gives it, and the run goes on. -/
def execGraphNodeLaunch (part trig : Nat) (s : State) : Res :=
  s.atNode part trig 1 fun r g n =>
    let a := n.a.toNat
    let skip := fun (s : State) => s.modRun part trig fun r => { r with node := n.next }
    if a % 128 ≠ 0 then skip s
    else
      match s.readLrec part a g.ken with
      | .fault e => skip (s.lodgeMet part e)
      | .bad code => skip (s.checkRecord part code a)
      | .ok l s =>
        let (_, s) := s.addLaunch part l (.node trig r.node)
        s.modRun part trig fun r => { r with waits := true }

/-- GRAPH_NODE_SIGNAL (R68). -/
def execGraphNodeSignal (part trig : Nat) (s : State) : Res :=
  s.atNode part trig 4 fun _ _ n =>
    let s := if n.a.toNat % 8 ≠ 0 then s else (match s.signalOp part n.a.toNat n.c n.b with | .ok s => s | .error e => s.lodgeMet part e)
    s.modRun part trig fun r => { r with node := n.next }

/-- The word of a LOOP or COND. The manual does not say what one that cannot be read gives: a free value. -/
def State.nodeWord (s : State) (pno : Nat) (a : Word) : Nat × State :=
  match s.lodgeRead pno a.toNat 8 with
  | .ok (bs, s) => (leNat bs, s)
  | .error e => ((Config.freeWord s.freec).toNat, { s.lodgeMet pno e with freec := s.freec + 1 })

/-- GRAPH_NODE_LOOP (R68). -/
def execGraphNodeLoop (part trig : Nat) (s : State) : Res :=
  s.atNode part trig 2 fun r _ n =>
    let i := r.loops.lookD r.node 0 + 1
    let (w, s) := if n.a = 0 then (1, s) else s.nodeWord part n.a
    let on := i ≤ n.b.toNat && w ≠ 0
    s.modRun part trig fun r =>
      { r with loops := KMap.putD 0 r.loops r.node (if on then i else 0), node := if on then n.next else n.alt }

/-- GRAPH_NODE_COND (R68). -/
def execGraphNodeCond (part trig : Nat) (s : State) : Res :=
  s.atNode part trig 3 fun _ _ n =>
    let (w, s) := s.nodeWord part n.a
    s.modRun part trig fun r => { r with node := if cmpHolds n.c w n.b.toNat then n.next else n.alt }

/-- GRAPH_NODE_END (R68, R70). -/
def execGraphNodeEnd (part trig : Nat) (s : State) : Res := s.atNode part trig 5 fun _ _ _ => s.runDone part trig

/-! ### Remote launches at the destination (R73, R74) -/

/-- An entry of the remote-launch table matches a request. -/
def rltMatches (d : List Byte) (req : RemLaunch) : Bool :=
  dfield d 6 1 ≤ 1 && dfield d 7 9 = 0 && (dfield d 0 2 = 0xFFFF || dfield d 0 2 = req.sdev) && dfield d 2 2 = req.stsid

/-- The first entry of the table that matches; an entry that cannot be read matches nothing. -/
def State.rltFind (s : State) (pno : Nat) (req : RemLaunch) : Nat → Nat → Option (List Byte)
  | _, 0 => none
  | i, n + 1 =>
    match s.lodgeRead pno ((s.part pno).rltb.toNat + 32 * i) 32 with
    | .ok (d, _) => if rltMatches d req then some d else State.rltFind s pno req (i + 1) n
    | .error _ => State.rltFind s pno req (i + 1) n

/-- Malformed entries of the translation tables that the reading of the remote-launch table meets, up to the entry that
matches (R185). -/
def State.rltMet (s : State) (pno : Nat) (req : RemLaunch) : Nat → Nat → State
  | _, 0 => s
  | i, n + 1 =>
    match s.lodgeRead pno ((s.part pno).rltb.toNat + 32 * i) 32 with
    | .ok (d, s) => if rltMatches d req then s else State.rltMet s pno req (i + 1) n
    | .error e => State.rltMet (s.lodgeMet pno e) pno req (i + 1) n

/-- Code 5 of R73. -/
def rltWide (d e : List Byte) : Bool :=
  let m := dfield e 4 1
  (lrecLevels d).any (fun l => m < l.domc || m < l.scope || 5 < l.domc || 5 < l.scope) || dfield e 6 1 < dfield d 13 1

/-- The code that refuses a request, 0 when none does (R73). -/
def State.rltCode (s : State) (pno : Nat) (req : RemLaunch) : Nat :=
  let p := s.part pno
  let d := req.lrec
  if p.rltn = 0 then 1
  else
    match s.rltFind pno req 0 p.rltn with
    | none => 2
    | some e =>
      if dfield d 0 8 < dfield e 16 8 || dfield e 24 8 ≤ dfield d 0 8 then 3
      else if dfield e 5 1 < dfield d 8 1 then 4
      else if rltWide d e then 5
      else
        match s.checkLrec pno d true with
        | .ok _ _ => if 64 ≤ p.lane.length then 7 else 0
        | _ => 6

/-- The answer to a request leaves for its source. -/
def State.laneAnswer (s : State) (req : RemLaunch) (code : Nat) : State :=
  s.depart req.sdev none (.lane req.id req.sdev code)

/-- REMOTE_LAUNCH_REQUEST (R73). -/
def execRemoteLaunchRequest (req : RemLaunch) (s : State) : Res :=
  match s.partOfTsid req.dtsid with
  | none => .next (s.laneAnswer req 1)
  | some pno =>
    if (s.part pno).st ≠ 1 then .next (s.laneAnswer req 1)
    else
      let code := s.rltCode pno req
      let s := if (s.part pno).rltn = 0 then s else s.rltMet pno req 0 (s.part pno).rltn
      let s := if code = 6 then s.lrecMet pno (s.checkLrec pno req.lrec true) else s
      if code = 0 then
        .next ((s.modPart pno fun p => { p with lane := p.lane ++ [⟨req.id, req.sdev, padTo 128 req.lrec⟩] }).laneAnswer
          req 0)
      else .next ((s.checkRecord pno code 0).laneAnswer req code)

/-- REMOTE_LANE_START (R74): the launch at the head of the lane waits for its root to be placed. A record that no longer
passes is refused with code 6, and the refusal is entered in the fault log (log entry 93). -/
def execRemoteLaneStart (part : Nat) (s : State) : Res :=
  let p := s.part part
  let waiting := p.launches.any fun e => !e.2.placed && (match e.2.origin with | .remote _ _ => true | _ => false)
  match p.lane with
  | e :: rest =>
    if p.st ≠ 1 || s.held || waiting then .next s
    else
      match s.checkLrec part e.lrec true with
      | .ok l s => .next (s.addLaunch part l (.remote e.id e.sdev)).2
      | r =>
        let s := ((s.lrecMet part r).modPart part fun p => { p with lane := rest }).checkRecord part 6 0
        .next (s.depart e.sdev none (.report e.id e.sdev (.refused 6)))
  | [] => .next s

/-! ### Remote launches at the source (R74) -/

/-- The packet that waits for a remote launch: its partition, and whether it was accepted. -/
def State.remotePkt (s : State) (id : Nat) : Option (Nat × Pkt × Bool) :=
  s.parts.findSome? fun e => e.2.pkts.findSome? fun k => match k.st with
    | .remote i ok _ => if i = id then some (e.1, k, ok) else none
    | _ => none

/-- A message about a remote launch can still reach its packet (R29, R74): the request was not lost, a port of the other
device's route is up, and, before the acceptance, 2^22 fabric cycles have not passed. -/
def State.launchHears (s : State) (k : Pkt) : Bool :=
  match k.st with
  | .remote _ ok p =>
    (ok || s.fab < k.tstart + 2 ^ 22)
    && (p = 16 || (p ≠ 17 && s.upPorts (bits (k.words.getD 2 0).toNat 9 0) ≠ []))
  | _ => false

/-- REMOTE_LAUNCH_RESULT (R74). -/
def execRemoteLaunchResult (id : Nat) (res : RemResult) (s : State) : Res :=
  match s.remotePkt id with
  | some (pno, k, _) =>
    if !s.launchHears k then .next s
    else .next (match res with
      | .done n => s.complete pno k 0 n
      | .abort => s.complete pno k 3 0
      | .refused code => s.complete pno k 6 code)
  | none => .next s

/-- ACCEPTANCE_REPLY (R74). -/
def execAcceptanceReply (id : Nat) (s : State) : Res :=
  match s.remotePkt id with
  | some (pno, k, _) =>
    if !s.launchHears k then .next s
    else .next (s.modPart pno fun p =>
      { p with pkts := p.pkts.map fun (k : Pkt) => match k.st with
          | .remote i _ p => if i = id then { k with st := .remote i true p } else k
          | _ => k })
  | none => .next s

/-- REMOTE_LAUNCH_TIMEOUT (R74): no acceptance reply within 2^22 fabric cycles of the start; or, of an accepted launch,
the completion message is lost. -/
def execRemoteLaunchTimeout (id : Nat) (s : State) : Res :=
  match s.remotePkt id with
  | some (pno, k, ok) =>
    let s := if ok then s else s.pass (Config.clkAt (k.tstart + 2 ^ 22))
    .next (s.complete pno k 7 0)
  | none => .next s

end Sys2Proof.Machine
end

