-- ==== Sys2Proof/Machine/Crypto.lean ====
section
/-!
DEFINITION. SHA-256 (FIPS 180-4) and the RSA-3072 PKCS #1 v1.5 signature check (RFC 8017) that measured boot and
disclosure policies rest on (R42, R43, R47).
-/

namespace Sys2Proof.Machine

/-! ### SHA-256

FIPS 180-4 defines both tables by roots of primes, so the model computes them: the initial hash value holds the first 32
fractional bits of the square roots of the first 8 primes, the round constants those of the cube roots of the first 64. -/

/-- The greatest `r` below `2 ^ bits` with `r ^ k ≤ n`, one bit at a time from the most significant. -/
def rootBits (k n : Nat) : (bits : Nat) → (r : Nat) → Nat
  | 0, r => r
  | bits + 1, r => rootBits k n bits (if (r + 2 ^ bits) ^ k ≤ n then r + 2 ^ bits else r)

/-- The first 32 fractional bits of the `k`-th root of `p` (all roots taken here are below 32). -/
def rootFraction (k p : Nat) : BitVec 32 := BitVec.ofNat 32 (rootBits k (p * 2 ^ (32 * k)) 37 0)

/-- The first 64 primes: every number up to 311 with no divisor among 2 to 17 but itself. -/
def smallPrimes : List Nat :=
  (List.range 312).filter fun n => 2 ≤ n && (List.range 16).all fun d => n = d + 2 || n % (d + 2) != 0

/-- The round constants. -/
def shaK : List (BitVec 32) := smallPrimes.map (rootFraction 3)

/-- The initial hash value. -/
def shaInit : List (BitVec 32) := (smallPrimes.take 8).map (rootFraction 2)

/-- Big-endian value of bytes. -/
def beNat (bs : List Byte) : Nat := bs.foldl (fun n b => 256 * n + b.toNat) 0

/-- The `k` bytes of a number, most significant first. -/
def beBytes (k n : Nat) : List Byte := (leBytes k n).reverse

/-- The sum modulo two of three rotations to the right: the form of both Sigma functions. -/
def turns (i j k : Nat) (x : BitVec 32) : BitVec 32 := x.rotateRight i ^^^ x.rotateRight j ^^^ x.rotateRight k

/-- The sum modulo two of two rotations and a shift to the right: the form of both sigma functions of the schedule. -/
def turnsShift (i j k : Nat) (x : BitVec 32) : BitVec 32 := x.rotateRight i ^^^ x.rotateRight j ^^^ (x >>> k)

/-- The message schedule, the latest word first, extended by `n` words. -/
def shaSchedule : Nat → List (BitVec 32) → List (BitVec 32)
  | 0, w => w
  | n + 1, w =>
    let back := fun (i : Nat) => w.getD (i - 1) 0
    shaSchedule n ((turnsShift 17 19 10 (back 2) + back 7 + turnsShift 7 18 3 (back 15) + back 16) :: w)

/-- One round on the working variables `a` to `h`, in that order. -/
def shaRound (v : List (BitVec 32)) (kw : BitVec 32 × BitVec 32) : List (BitVec 32) :=
  let reg := fun (i : Nat) => v.getD i 0
  let pick := (reg 4 &&& reg 5) ||| (~~~(reg 4) &&& reg 6)
  let most := (reg 0 &&& (reg 1 ||| reg 2)) ||| (reg 1 &&& reg 2)
  let feed := kw.1 + kw.2 + reg 7 + turns 6 11 25 (reg 4) + pick
  (feed + turns 2 13 22 (reg 0) + most) :: v.take 3 ++ (reg 3 + feed) :: (v.drop 4).take 3

/-- The 32-bit words of a block. -/
def shaWords : Nat → List Byte → List (BitVec 32)
  | 0, _ => []
  | n + 1, bs => BitVec.ofNat 32 (beNat (bs.take 4)) :: shaWords n (bs.drop 4)

/-- Compresses a block into the hash value. -/
def shaBlock (h : List (BitVec 32)) (bs : List Byte) : List (BitVec 32) :=
  let w := (shaSchedule 48 (shaWords 16 bs).reverse).reverse
  List.zipWith (· + ·) h ((shaK.zip w).foldl shaRound h)

def shaBlocks : Nat → List Byte → List (BitVec 32) → List (BitVec 32)
  | 0, _, h => h
  | n + 1, bs, h => shaBlocks n (bs.drop 64) (shaBlock h (bs.take 64))

/-- The SHA-256 digest of bytes. -/
def sha256 (m : List Byte) : List Byte :=
  let z := (119 - m.length % 64) % 64
  let p := m ++ [0x80] ++ List.replicate z 0 ++ beBytes 8 (8 * m.length)
  (shaBlocks (p.length / 64) p shaInit).flatMap fun w => beBytes 4 w.toNat

/-! ### RSA -/

/-- `b ^ e mod n` by squaring; `fuel` bounds the bits of `e`. -/
def powMod (n : Nat) : Nat → Nat → Nat → Nat
  | 0, _, _ => 1 % n
  | fuel + 1, b, e =>
    if e = 0 then 1 % n
    else
      let r := powMod n fuel (b * b % n) (e / 2)
      if e % 2 = 1 then b * r % n else r

/-- The DigestInfo prefix of SHA-256. -/
def shaInfo : List Byte :=
  beBytes 19 0x3031300D060960864801650304020105000420

/-- The encoded message of 384 bytes for a digest. -/
def pkcsEncode (d : List Byte) : List Byte := [0x00, 0x01] ++ List.replicate 330 0xFF ++ [0x00] ++ shaInfo ++ d

/-- A PKCS #1 v1.5 signature of 384 octets over a message verifies under a modulus and exponent. -/
def rsaVerify (modulus exponent : Nat) (sig msg : List Byte) : Bool :=
  let x := beNat sig
  sig.length = 384 && x < modulus && beBytes 384 (powMod modulus 64 x exponent) = pkcsEncode (sha256 msg)

end Sys2Proof.Machine
end

