-- ==== Sys2Proof/Machine/Trust.lean ====
section
/-!
DEFINITION. Trust (spec 02): measured boot (R41 to R44) and SPDM (R45), handover (R35 to R38), the thermal trip (R17, R18),
and the loading of disclosure policies (R47 to R49).
-/

namespace Sys2Proof.Machine

/-! ### Measurement registers (R43) -/

def zero32 : List Byte := List.replicate 32 0
def State.measOf (s : State) (i : Nat) : List Byte := s.meas.lookD i zero32
/-- Extends a register with a digest. -/
def State.extend (s : State) (i : Nat) (d : List Byte) : State := { s with meas := s.meas.put i (sha256 (s.measOf i ++ d)) }

/-! ### Boot (R41 to R44) -/

/-- Digest of a public key as it is fused: modulus and exponent, little-endian, as the key block holds them. -/
def keyDigest (modulus : List Byte) (exponent : Nat) : List Byte := sha256 (modulus ++ leBytes 4 exponent)

/-- Why an image fails for a processor: 1 its header names another, 2 its version is below the fused minimum, 3 its
signature; 0 when it verifies (R42). -/
def State.imageFault (s : State) (proc : Nat) (i : Image) : Nat :=
  if i.names ≠ proc then 1
  else if i.version < s.minima.lookD proc 0 then 2
  else if !(s.keyDigests.any fun e => e.2 = keyDigest i.modulus i.exponent) || !rsaVerify (leNat i.modulus) i.exponent i.sig i.body
    then 3
  else 0

/-- Verifies and measures the images in order; the first that fails stops the boot with its stage and reason (R44), an
image that is missing as one that names another processor. -/
def State.bootFrom (s : State) : List Nat → List Image → State
  | [], _ => { s with booted := true }
  | n :: l, imgs =>
    match imgs with
    | [] => { s with bootStage := n, bootReason := 1 }
    | i :: rest =>
      let r := s.imageFault n i
      if r ≠ 0 then { s with bootStage := n, bootReason := r }
      else State.bootFrom { (s.extend n (sha256 i.body)) with running := s.running.put n i.version } l rest

/-- The bytes whose digest MEAS4 takes (R43). -/
def State.fuseState (s : State) : List Byte :=
  Config.fuseBytes ++ ([1, 2, 3].flatMap fun n => leBytes 4 (s.minima.lookD n 0)) ++ leBytes 2 s.devnum

/-- The boot of Patrol: MEAS0, the images, MEAS4. DESIGN CHOICE (log entry 115): R43 gives no moment for MEAS4, which is
extended after the images, and only when all of them verify. -/
def State.boot (s : State) (imgs : List Image) : State :=
  let s := (s.extend 0 (sha256 Config.romDigest)).bootFrom [1, 2, 3] imgs
  if s.booted then s.extend 4 (sha256 s.fuseState) else s

/-- The device as power-on finds it: every register at its reset value. What the fuses hold, memories outside the
package's logic, the host, and what was sent outside, stay; every owner key is gone. -/
def State.powered (s : State) : State :=
  { State.reset with
    minima := s.minima, keyDigests := s.keyDigests, host := s.host, dram := s.dram, dkey := s.dkey, dpoison := s.dpoison,
    keyGens := s.keyGens, out := s.out, choices := s.choices, freec := s.freec, stamp := s.stamp,
    nextId := s.nextId, agenda := s.agenda, hostHoles := s.hostHoles }

/-- POWER_ON (R41). -/
def execPowerOn (images : List Image) (s : State) : Res := .next (s.powered.boot images)

/-- BOOT_RESTART (R18): the device starts afresh, and a TSID 0 hold ends; the clocks that count from power-on go on, and a
thermal trip holds on until its own release. -/
def execBootRestart (images : List Image) (s : State) : Res :=
  .next ({ s.powered with clk := s.clk, tick := s.tick, trip := s.trip, tripAt := s.tripAt, trips := s.trips }.boot images)

/-- RAISE_FUSED_MINIMUM (R42). -/
def execRaiseFusedMinimum (proc : Nat) (s : State) : Res :=
  match s.running.look proc with
  | some v => if s.minima.lookD proc 0 < v then .next { s with minima := s.minima.put proc v } else .next s
  | none => .next s

/-! ### SPDM (R45) -/

/-- Error codes of SPDM 1.3. -/
abbrev spdmInvalid : Nat := 0x01
abbrev spdmUnsupported : Nat := 0x07

/-- GET_VERSION (R45): SPDM 1.3. -/
def execGetVersion (s : State) : Res := .next (s.say (.version 0x13))
/-- GET_CAPABILITIES (R45). -/
def execGetCapabilities (s : State) : Res := .next (s.say (.capabilities Config.capabilityFlags))
/-- NEGOTIATE_ALGORITHMS (R45): RSASSA-3072 and SHA-256, by their bits in SPDM 1.3. -/
def execNegotiateAlgorithms (s : State) : Res := .next (s.say (.algorithms 4 1))
/-- GET_DIGESTS (R45). -/
def execGetDigests (s : State) : Res := .next (s.say (.digests (sha256 Config.certChain)))
/-- GET_CERTIFICATE (R45). -/
def execGetCertificate (slot : Nat) (s : State) : Res :=
  .next (s.say (if slot = 0 then .certificate Config.certChain else .error spdmInvalid))
/-- CHALLENGE (R45): signed over the nonce and the measurements. -/
def execChallenge (slot : Nat) (nonce : List Byte) (s : State) : Res :=
  .next (s.say (if slot = 0 then
    .challenge (Config.deviceSign (nonce ++ sha256 ((List.range 32).flatMap s.measOf ++ leBytes 1 s.bootStage ++ leBytes 1 s.bootReason)))
    else .error spdmInvalid))
/-- GET_MEASUREMENTS (R45). DESIGN CHOICE (log entry 116): index 0 answers the count 33, and an index above 33, 0xFF too, is
an invalid request. -/
def execGetMeasurements (index : Nat) (s : State) : Res :=
  .next (s.say (if 1 ≤ index && index ≤ 32 then .measurement index (s.measOf (index - 1))
    else if index = 33 then .measurement 33 [BitVec.ofNat 8 s.bootStage, BitVec.ofNat 8 s.bootReason]
    else if index = 0 then .measurement 0 [33]
    else .error spdmInvalid))
/-- SPDM_UNSUPPORTED_REQUEST (R45). -/
def execSpdmUnsupportedRequest (_code : Nat) (s : State) : Res := .next (s.say (.error spdmUnsupported))

/-! ### Aborts (R18, R38) -/

/-- Fatal faults so far of the launch that a packet stands for: the consumer's for the second of a fused pair. -/
def Part.pktAux (p : Part) (k : Pkt) : Nat :=
  match k.st with
  | .launch lid =>
    match p.launches.look lid with
    | some l =>
      match l.origin, l.fused with
      | .packet _ _ _ (some c), some f => if c = k.k then f.fatalC else l.fatals
      | _, _ => l.fatals
    | none => 0
  | _ => 0

/-- Completes started packets that a predicate holds of with ABORT. -/
def State.abortPkts (s : State) (pno : Nat) (f : Pkt → Bool) : State :=
  let p := s.part pno
  (p.pkts.filter fun k => p.started k && f k).foldl (fun (s : State) k => s.complete pno k 3 (p.pktAux k)) s

/-- Reports the placed remote launches of a partition as aborted. -/
def State.abortRemotes (s : State) (pno : Nat) : State :=
  (s.part pno).launches.foldl (fun (s : State) e =>
    match e.2.origin with
    | .remote id sdev => if e.2.placed then s.depart sdev none (.report id sdev .abort) else s
    | _ => s) s

/-- Ends every run of a partition without completing it: STATE returns to 1. -/
def Part.endRuns (p : Part) : Part :=
  { p with
    trigs := KMap.mapVals (fun (t : Trig) =>
      if t.run.isSome then { t with run := none, st := if t.slot = 255 then 0 else 1 } else t) p.trigs,
    launches := p.launches.filter fun e => match e.2.origin with | .node _ _ => false | _ => true }

/-! ### The thermal trip (R17, R18) -/

/-- What Lodge does for a partition at a trip. -/
def State.tripPart (s : State) (pno : Nat) : State :=
  let stops := fun (k : Pkt) => match k.st with | .launch _ | .copy | .trigger _ _ | .remote _ _ _ => true | _ => false
  let s := (s.abortPkts pno stops).abortRemotes pno
  s.modPart pno fun p =>
    let p := p.endRuns
    { p with launches := p.launches.filter (fun e => !e.2.placed), fmsgs := p.fmsgs.filter FMsg.arrived,
             rink := { p.rink with samples := [] } }

/-- Every engine job of a cluster ends with ABORT (R18, R38, R390): it stands among the jobs that have ended. -/
def Cluster.abortJobs (x : Cluster) : Cluster :=
  { x with
    jobs := [],
    past := (x.jobs.flatMap Prod.snd).foldl (fun (m : KMap Job) j => m.put j.id { j with st := .abort }) x.past }

/-- What is left of a cluster that is held in reset (R18): every job has ended with ABORT, and its engines keep their numbers
and the statuses of their jobs, which R388 ties to the assign. -/
def Cluster.reset (x : Cluster) : Cluster :=
  { Cluster.zero with nextSeq := x.nextSeq, accepted := x.accepted, past := x.abortJobs.past }

/-- Every core and engine of the package is held in reset, and its state zeroed. -/
def State.holdAll (s : State) : State :=
  let s := (s.parts.keys).foldl (fun (s : State) p => s.tripPart p) s
  { s with cores := [], clusters := KMap.mapVals Cluster.reset s.clusters, slices := [], walkCache := [], watches := [], flights := [], cur := ⟨0, 0, 0, 0, []⟩ }

/-- THERMAL_TRIP (R17, R18): reported and kept also where a TSID 0 machine-check holds the package already. -/
def execThermalTrip (s : State) : Res :=
  if s.trip then .next s else .next { s.holdAll with trip := true, tripAt := s.fab, trips := s.trips + 1 }

/-- THERMAL_RELEASE (R18), at the earliest 100 ms after the trip: until then no die can have stayed at or below 90 °C for that
long since it reached 105 °C. A TSID 0 machine-check holds on. The time of the trip does not count in a release (R38). -/
def execThermalRelease (s : State) : Res :=
  if !s.trip || s.fab < s.tripAt + 160000000 then .next s
  else
    .next { s with
      trip := false,
      parts := KMap.mapVals (fun (p : Part) => if p.st = 2 then { p with relAt := p.relAt + (s.fab - max s.tripAt p.relAt) } else p) s.parts }

/-! ### Handover (R35 to R38) -/

/-- Quadrants of a mask. -/
def maskQuads (m : Nat) : List Nat := (List.range 16).filter fun q => bit m q

/-- The tenant key block at a host address, if it can be read and passes (R35, R36). -/
def State.keyBlockAt (s : State) (a : Nat) : Option (List Byte) :=
  let b := s.host.bytes a 448
  if !s.hostReach a 448 then none
  else if a % 64 ≠ 0 || (b.drop 388).any (· ≠ 0) || leNat ((b.drop 384).take 4) % 2 = 0 || leNat ((b.drop 384).take 4) < 3 then none
  else some b

/-- The code that rejects a command, 0 when none does (R36). -/
def State.phCode (s : State) (v : Nat) : Nat :=
  let op := bits v 1 0
  let pno := bits v 7 4
  let qs := maskQuads (bits v 47 32)
  let tsid := bits v 63 48
  if bits v 31 8 ≠ 0 || bits v 3 2 ≠ 0 || op = 0 || op = 3 then 7
  else if qs = [] then 1
  else if op = 1 then
    if qs.any fun q => (s.quadPart q).isSome then 2
    else if tsid = 0 || s.parts.any (fun e => e.2.tsid = tsid) then 3
    else if (s.parts.look pno).isSome then 4
    else if s.parts.any fun e => e.2.headm &&& bits s.phres.toNat 31 0 ≠ 0 || e.2.encm &&& bits s.phres.toNat 63 32 ≠ 0 then 5
    else if (s.keyBlockAt s.phkey.toNat).isNone then 6
    else 0
  else if (qs.any fun q => s.quadPart q ≠ some pno) || ((List.range 16).any fun q => s.quadPart q = some pno && !qs.contains q) then 2
  else 0

/-- An owner key index that is unused: the draw of the base dies' random source among them (R37). -/
def State.drawOki (s : State) : Nat :=
  let free := (List.range 256).filter fun k => k ≠ 0 && !s.okis.contains k
  free.getD (Config.keyIndexDraw s.freec % free.length) 0

/-- An accepted assign (R37). -/
def State.assign (s : State) (v : Nat) (block : List Byte) : State :=
  let pno := bits v 7 4
  let qs := maskQuads (bits v 47 32)
  let tsid := bits v 63 48
  let oki := s.drawOki
  let p : Part := { Part.zero with
    tsid := tsid, oki := oki, keyGen := s.keyGens + 1, quads := qs, headm := bits s.phres.toNat 31 0,
    encm := bits s.phres.toNat 63 32, keyBlock := block, intervalAt := s.fab }
  let w := Word.ofNat (2 ^ 32 + tsid * 2 ^ 16 + oki * 2 ^ 8 + pno)
  let s := { s with
    freec := s.freec + 1, keyGens := s.keyGens + 1, okis := insertNat s.okis oki, parts := s.parts.put pno p,
    qmap := qs.foldl (fun (m : KMap Word) q => m.put q w) s.qmap, meas := s.meas.put (16 + pno) zero32,
    phstate := 2, phcode := 0 }
  s.extend (16 + pno) (sha256 block)

/-- Steps 1 and 2 of an accepted release (R38): the partition stops. -/
def State.stopPart (s : State) (pno : Nat) : State :=
  let s := (s.abortPkts pno fun _ => true).abortRemotes pno
  let s := (s.part pno).lane.foldl (fun (s : State) e => s.depart e.sdev none (.report e.id e.sdev .abort)) s
  let s := s.modPart pno fun p =>
    { p.endRuns with st := 2, relAt := s.fab, pkts := [], launches := [], lane := [], frecs := [], fmsgs := [], rink := { p.rink with samples := [] } }
  let qs := (s.part pno).quads
  { s with
    cores := s.cores.map fun e => if qs.contains (quadOf e.1) then
        (e.1, { e.2 with threads := [], displaced := [], saved := [], ring := [], preempt := none, steals := [], arrived := [], coming := [], pushers := [] }) else e,
    clusters := s.clusters.map fun e => if qs.contains (quadOf (8 * e.1)) then
        (e.1, { e.2.abortJobs with contribs := [], disp := Disp.zero, wg := none, pays := [] }) else e,
    watches := s.watches.filter fun e => !qs.contains (e.1 / 32) }

/-- A write of PHCMD (R35, R36). -/
def State.phcmdWrite (s : State) (v : Word) : State :=
  let n := v.toNat
  if s.phstate = 1 || !s.booted then s
  else
    let code := s.phCode n
    if code ≠ 0 then { s with phstate := 3, phcode := code }
    else if bits n 1 0 = 1 then
      match s.keyBlockAt s.phkey.toNat with
      | some b => s.assign n b
      | none => s
    else { s.stopPart (bits n 7 4) with phstate := 1, phcode := 0, phpart := bits n 7 4 }

/-- PHCMD_ASSIGN (R37). -/
def execPhcmdAssign (v : Word) (s : State) : Res := if bits v.toNat 1 0 = 1 then .next (s.phcmdWrite v) else .next s
/-- PHCMD_RELEASE (R38). -/
def execPhcmdRelease (v : Word) (s : State) : Res := if bits v.toNat 1 0 = 2 then .next (s.phcmdWrite v) else .next s

/-- The outbound traffic of a partition has drained (R38, step 3): each store, reduce and batch has completed, or the time
of R26 has passed since the release was accepted, so that what is left has met its time-out. -/
def State.drained (s : State) (pno : Nat) : Bool :=
  (s.part pno).relAt + 2 ^ 22 ≤ s.fab
  || ((s.flights.all fun f => s.corePart f.core ≠ some pno) && (s.partCores pno).all fun c => (s.core c).sbuf = [])

/-- Steps 4 to 6 of a release (R38). The shares of the shared counters that stand under the partition's TSID stay (R52): no
step of R38 clears them, so that a partition assigned the same TSID later goes on from them (DESIGN CHOICE, log entry 135). -/
def State.scrub (s : State) (pno : Nat) : State :=
  let p := s.part pno
  let s := s.invalidateAll p.tsid
  { s with
    cores := s.cores.filter fun e => !p.quads.contains (quadOf e.1),
    clusters := s.clusters.filter fun e => !p.quads.contains (quadOf (8 * e.1)),
    watches := s.watches.filter fun e => !p.quads.contains (e.1 / 32),
    slices := s.slices.filter fun e => !p.quads.contains (e.1 / 32),
    flights := s.flights.filter fun f => s.corePart f.core ≠ some pno,
    okis := s.okis.filter (· ≠ p.oki),
    qmap := p.quads.foldl (fun (m : KMap Word) q => m.del q) s.qmap,
    meas := s.meas.put (16 + pno) zero32,
    parts := s.parts.del pno, phstate := 2 }

/-- RELEASE_SCRUB (R38): it comes at the latest 2^22 fabric cycles after the acceptance (log entry 117), within the bound of
5,242,880. -/
def execReleaseScrub (part : Nat) (s : State) : Res :=
  if (s.part part).st = 2 && (s.parts.look part).isSome && s.phstate = 1 && s.phpart = part && !s.held && s.drained part then
    .next (s.scrub part)
  else .next s

/-! ### Disclosure policies (R47 to R49) -/

/-- A write of DPLOAD (R48). While STATE is 1, CODE keeps the code of the check before: the rule does not say what it reads
then (DESIGN CHOICE, log entry 134). -/
def State.dploadEffect (s : State) (pno : Nat) (v : Word) : State :=
  s.modPart pno fun p => if p.dpState = 1 then p else { p with dpState := 1, dpAddr := v }

/-- DPLOAD_WRITE (R48). -/
def execDploadWrite (core slot : Nat) (v : Word) (s : State) : Res :=
  s.atKer core slot fun s => match s.corePart core with | some pno => s.dploadEffect pno v | none => s

/-- Value of DPSTAT (R48). -/
def Part.dpstat (p : Part) : Word := Word.ofNat (p.dpSeq * 2 ^ 32 + 2 ^ 16 + p.dpCode * 2 ^ 4 + p.dpState)

/-- Some element occurs twice. -/
def repeats : List Nat → Bool
  | [] => false
  | a :: l => l.contains a || repeats l

/-- The class entries of a policy, as class and level. -/
def policyEntries (e : List Byte) (n : Nat) : List (Nat × Nat) := (List.range n).map fun i => (dfield e (8 * i) 1, dfield e (8 * i + 1) 1)

/-- Code 4 of R48. -/
def policyBad (h e : List Byte) (n : Nat) : Bool :=
  6 < n || repeats ((policyEntries e n).map Prod.fst) || ((policyEntries e n).any fun x => x.1 = 0 || 6 < x.1 || 3 < x.2)
  || ((h.drop 20).take 12).any (· ≠ 0) || (List.range n).any fun i => dfield e (8 * i + 2) 6 ≠ 0

/-- The check of the policy at DPLOAD: the code that rejects it, or the policy with the bytes it is measured as. DESIGN
CHOICE (log entry 118): with NCLS above 6 only the header is read, so that what follows it cannot give code 1; and with no
policy in force the SEQ in force is 0, so that SEQ 0 gives code 6. -/
def State.checkPolicy (s : State) (pno : Nat) : Except (Nat × State) (Policy × List Byte × State) :=
  let p := s.part pno
  let a := p.dpAddr.toNat
  if a % 8 ≠ 0 then .error (1, s)
  else
    match s.lodgeSee pno a 64 with
    | (none, s) => .error (1, s)
    | (some h, s) =>
      let n := dfield h 10 2
      match s.lodgeSee pno (a + 64) (if n ≤ 6 then 8 * n + 384 else 0) with
      | (none, s) => .error (1, s)
      | (some e, s) =>
        let body := h ++ e.take (8 * n)
        if h.take 4 ≠ [0x44, 0x50, 0x4F, 0x4C] || dfield h 4 2 ≠ 1 then .error (2, s)
        else if dfield h 8 2 ≠ p.tsid || (h.drop 32).take 32 ≠ sha256 p.keyBlock then .error (3, s)
        else if policyBad h e n then .error (4, s)
        else if dfield h 16 4 < 1000 || 10000000 < dfield h 16 4 then .error (5, s)
        else if dfield h 12 4 ≤ p.dpSeq then .error (6, s)
        else if !rsaVerify (leNat (p.keyBlock.take 384)) (dfield p.keyBlock 384 4) (e.drop (8 * n)) body then .error (7, s)
        else .ok (⟨dfield h 12 4, dfield h 16 4, (policyEntries e n).foldl (fun (m : KMap Nat) x => m.put x.1 x.2) []⟩, h ++ e, s)

/-- POLICY_CHECK_DONE (R49). What was gathered before the switch point keeps its form: the times of the threads' states are
counted up to here under the policy that was in force. DESIGN CHOICE (log entry 119): intervals are counted from the assign
and begin anew at the switch point. -/
def execPolicyCheckDone (part : Nat) (s : State) : Res :=
  if (s.part part).dpState ≠ 1 then .next s
  else
    match s.checkPolicy part with
    | .error (code, s) => .next (s.modPart part fun p => { p with dpState := 3, dpCode := code })
    | .ok (pol, bytes, s) =>
      .next (((s.spendAll part).extend (16 + part) (sha256 bytes)).modPart part fun p =>
        { p with policy := some pol, dpSeq := pol.seq, dpCode := 0, dpState := 2, intervalAt := s.fab })

end Sys2Proof.Machine
end

