-- ==== Sys2Proof/Machine/RinkEvents.lean ====
section
/-!
DEFINITION. The frame clock (R79): installation of layer tables and bindings, the sample points of heads with the
estimate, the warp and the composite (R80 to R86), and the encoders (R92, R93).
-/

namespace Sys2Proof.Machine

/-! ### Descriptors at a sample point (R86) -/

/-- A descriptor as the Rink checks it: its bytes, if all of it reads and its first cell could be written. The check of
the write leaves nothing behind. -/
def State.sampleDesc (s : State) (pno va : Nat) : Option (List Byte) × State :=
  match s.lodgeSee pno va 64 with
  | (none, s) => (none, s)
  | (some d, s) =>
    match s.lodgeParts pno .write false [(va, 32)] with
    | .error e => (none, s.lodgeMet pno e)
    | .ok _ => (some d, s)

/-- The descriptors of handles that take part, with a record for each that cannot (R86). -/
def State.sampleDescs (s : State) (pno base : Nat) : List Nat → List (Nat × List Byte) × State
  | [] => ([], s)
  | x :: rest =>
    match s.sampleDesc pno (base + 64 * x) with
    | (none, s) => State.sampleDescs (s.surfaceRecord pno x (base + 64 * x)) pno base rest
    | (some d, s) =>
      let (l, s) := State.sampleDescs s pno base rest
      ((x, d) :: l, s)

/-! ### Step 1 (R82) -/

/-- A descriptor after step 1, and whether a request is raised. `adv` holds the lights whose epoch has advanced. -/
def ageDesc (d : List Byte) (adv : Nat) : List Byte × Bool :=
  if dHold d then (d, false)
  else
    let m := (dfield16 d 24).natAbs + (dfield16 d 26).natAbs
    let inc := m * (65536 + dfield d 40 4) / 16 + (if dfield d 44 4 &&& adv ≠ 0 then dfield d 48 4 else 0)
    let est := min (dfield d 32 4 + inc) (2 ^ 32 - 1)
    let d := dset (dset d 28 2 (min (dfield d 28 2 + 1) 65535)) 32 4 est
    if dfield d 36 4 ≤ est && !dReq d then (dSetReq d true, true) else (d, false)

/-- Step 1 over a head's layers: AGE, FLAGS and EST are written back, and requests go to the tail of the queue. Of the two
fates that R78 allows a plain store to a cell that the tick rewrites, the store is always kept: the tick ages on from what it
reads (DESIGN CHOICE, log entry 138). A handle whose REQ a plain store has cleared is pushed again, so that the queue may hold
it twice (DESIGN CHOICE, log entry 139). -/
def State.estimate (s : State) (pno base adv : Nat) : List (Nat × List Byte) → List (Nat × List Byte) × State
  | [] => ([], s)
  | (x, d) :: rest =>
    let (d', push) := ageDesc d adv
    let s := if d' = d then s else
      match s.lodgePut pno (base + 64 * x + 28) ((d'.drop 28).take 8) false with
      | .ok s => s
      | .error e => s.lodgeMet pno e
    let s := if push then s.modPart pno fun p => { p with rink := { p.rink with queue := p.rink.queue ++ [x] } } else s
    let (l, s) := State.estimate s pno base adv rest
    ((x, d') :: l, s)

/-! ### Steps 2 and 3 (R84, R85) -/

/-- A fragment: depth, ORDER, handle, colour (R, G, B, A). -/
structure Frag where
  z : Nat
  order : Nat
  x : Nat
  rgba : List Byte

/-- The fragment sorts before another (R85). -/
def Frag.before (a b : Frag) : Bool :=
  depthKey a.z < depthKey b.z || (depthKey a.z = depthKey b.z && (a.order < b.order || (a.order = b.order && a.x < b.x)))

def Frag.insert (a : Frag) : List Frag → List Frag
  | [] => [a]
  | b :: l => if a.before b then a :: b :: l else b :: Frag.insert a l

/-- Fragments in the order of R85. -/
def fragSort (l : List Frag) : List Frag := l.foldl (fun acc f => f.insert acc) []

/-- The accumulator after a fragment lies under it (R85). -/
def blend (acc : List Nat) (f : Frag) : List Nat :=
  let a := acc.getD 3 0
  (List.range 4).map fun c => min 255 (acc.getD c 0 + ((f.rgba.getD c 0).toNat * (255 - a) + 127) / 255)

/-- A pixel of a composite and the fragments dropped there (R85). -/
def composePixel (l : List Frag) : Nat × Nat :=
  let f := fragSort l
  let acc := (f.take 8).foldl blend [0, 0, 0, 0]
  (acc.getD 0 0 + 256 * acc.getD 1 0 + 65536 * acc.getD 2 0, f.length - 8)

/-- Size of the screen by mode (R61, R85). -/
def screenW (mode240 : Bool) : Nat := if mode240 then 3840 else 7680
def screenH (mode240 : Bool) : Nat := if mode240 then 2160 else 4320

/-- A warped layer on the screen: its handle and ORDER, the columns and rows of the screen that it covers, and for each
of these rows its pixels' colours and depths. -/
structure Lay where
  x : Nat
  order : Nat
  left : Nat
  right : Nat
  top : Nat
  rows : Array (Array (List Byte × Nat))

/-- Reads rows of a layer's surfaces; `n` bytes from offset `o`, each row `pitch` further. The colour of every pixel on the
screen is read, also where its depth gives no fragment, so that a fault or poison there too is a surface fault of the frame
(DESIGN CHOICE, log entry 136). -/
def State.layRows (s : State) (pno cs zs n pitch : Nat) :
    Nat → Nat → Option (List (Array (List Byte × Nat))) × State
  | 0, _ => (some [], s)
  | k + 1, o =>
    match s.lodgeSee pno (cs + o) n with
    | (none, s) => (none, s)
    | (some c, s) =>
      match s.lodgeSee pno (zs + o) n with
      | (none, s) => (none, s)
      | (some z, s) =>
        match State.layRows s pno cs zs n pitch k (o + pitch) with
        | (none, s) => (none, s)
        | (some l, s) => (some (((List.range (n / 4)).map fun i => (px c i, dfield z (4 * i) 4)).toArray :: l), s)

/-- Displacement of a layer by its age (R84). -/
def warp (age : Nat) (mv : Int) : Int := (age * mv + 8) / 16

/-- A layer as it lies on the screen; none where it has no pixel there, or where a surface cannot be used (R86). -/
def State.layer (s : State) (pno : Nat) (mode240 : Bool) (x : Nat) (d : List Byte) : Option Lay × State :=
  let bad := fun (s : State) => (none, s.surfaceRecord pno x (if dZsurf d % 64 ≠ 0 then dZsurf d else dCsurf d))
  if dCsurf d % 64 ≠ 0 || dZsurf d % 64 ≠ 0 then bad s
  else
    let age := dfield d 28 2
    let ox := dfield16 d 20 + warp age (dfield16 d 24)
    let oy := dfield16 d 22 + warp age (dfield16 d 26)
    let i0 := (-ox).toNat
    let j0 := (-oy).toNat
    let i1 := min (dW d) ((screenW mode240 : Int) - ox).toNat
    let j1 := min (dH d) ((screenH mode240 : Int) - oy).toNat
    if i1 ≤ i0 || j1 ≤ j0 then (none, s)
    else
      match s.layRows pno (dCsurf d) (dZsurf d) (4 * (i1 - i0)) (4 * dW d) (j1 - j0) (4 * (j0 * dW d + i0)) with
      | (none, s) => bad s
      | (some rows, s) =>
        (some ⟨x, dfield d 52 2, (ox + i0).toNat, (ox + i1).toNat, (oy + j0).toNat, rows.toArray⟩, s)

def State.layers (s : State) (pno : Nat) (mode240 : Bool) : List (Nat × List Byte) → List Lay × State
  | [] => ([], s)
  | (x, d) :: rest =>
    let (l, s) := s.layer pno mode240 x d
    let (ls, s) := State.layers s pno mode240 rest
    (l.toList ++ ls, s)

/-- The fragments of layers at a screen pixel. -/
def fragsAt (ls : List Lay) (x y : Nat) : List Frag :=
  ls.filterMap fun l =>
    if l.left ≤ x && x < l.right && l.top ≤ y then
      match (l.rows[y - l.top]?).bind fun r => r[x - l.left]? with
      | some (c, z) => if depthHere z then some ⟨z, l.order, l.x, c⟩ else none
      | none => none
    else none

/-- The composite of a frame: the pixels that some fragment covers, and the fragments dropped (R85). -/
def composite (ls : List Lay) : KMap Nat × Nat :=
  let least := fun (f : Lay → Nat) => (ls.map f).foldl min 65536
  let most := fun (f : Lay → Nat) => (ls.map f).foldl max 0
  let xs := (List.range (most Lay.right - least Lay.left)).map (least Lay.left + ·)
  let ys := (List.range (most (fun l => l.top + l.rows.size) - least Lay.top)).map (least Lay.top + ·)
  let all := ys.flatMap fun y => xs.filterMap fun x =>
    let f := fragsAt ls x y
    if f.isEmpty then none else some (65536 * y + x, composePixel f)
  (all.map fun e => (e.1, e.2.1), (all.map fun e => e.2.2).foldl (· + ·) 0)

/-! ### Ticks (R79, R80) -/

/-- Lights whose epoch a head has not seen (R82). -/
def lightsMoved (lepc seen : KMap Nat) : Nat :=
  (List.range 32).foldl (fun n i => if lepc.lookD i 0 ≠ seen.lookD i 0 then n + 2 ^ i else n) 0

/-- A head's sample point (R80 to R86). -/
def State.samplePoint (s : State) (pno h : Nat) (b : HeadBind) : State :=
  let r := (s.part pno).rink
  let hd := r.heads.lookD h Head.zero
  let adv := lightsMoved r.lepc hd.seen
  let frame := (hd.frame + 1) % 2 ^ 32
  let (base, n) := match r.table with | some (a, n) => (a.toNat, n) | none => (0, 0)
  let (ds, s) := s.sampleDescs pno base (List.range n)
  let set := ds.filter fun e => dVis e.2 && dfield e.2 54 1 = h
  let (ds, s) := s.estimate pno base adv (set.take 64)
  let (ls, s) := s.layers pno b.mode240 ds
  let (pixels, drop) := composite ls
  let enc := r.encs.lookD b.enc Enc.zero
  let f : Sample := ⟨h, b, frame, hd.first || frame % 256 = 0 || enc.key, enc.qp, pixels⟩
  s.modPart pno fun p =>
    { p with rink := { p.rink with
        heads := p.rink.heads.put h { hd with
          frame := frame, lxcl := min (set.length - 64) 255, fdrop := (hd.fdrop + drop) % 2 ^ 24, first := false, seen := r.lepc },
        encs := p.rink.encs.put b.enc { enc with key := false },
        samples := p.rink.samples ++ [f] } }

/-- The bindings that take effect at a tick (R94). -/
def Head.bound (h : Head) : Head :=
  match h.pendBind with
  | none => h
  | some none => { h with bind := none, pendBind := none }
  | some (some b) => { h with bind := some b, pendBind := none, frame := 0, first := true }

/-- What a tick installs before its sample points: a layer table, which empties the request queue (R75), and bindings. -/
def Rink.install (r : Rink) : Rink :=
  let r := { r with heads := KMap.mapVals Head.bound r.heads }
  match r.pending with
  | some t => { r with table := some t, pending := none, queue := [] }
  | none => r

/-- A partition's part of tick `t`. -/
def State.tickPart (s : State) (t pno : Nat) : State :=
  let s := s.modPart pno fun p => { p with rink := p.rink.install }
  let s := ((s.part pno).pkts.filter fun k => k.st = .layer || k.st = .head).foldl
    (fun (s : State) k => s.complete pno k 0 0) s
  if s.held || (s.part pno).st = 2 then s
  else (s.part pno).rink.heads.foldl (fun (s : State) e =>
    match e.2.bind with
    | some b => if b.mode240 || t % 4 = 0 then s.samplePoint pno e.1 b else s
    | none => s) s

/-- FRAME_TICK (R79). -/
def execFrameTick (s : State) : Res :=
  let t := s.tick + 1
  .next (s.parts.keys.foldl (fun (s : State) p => s.tickPart t p) { s with tick := t })

/-! ### Encoders (R92, R93) -/

/-- Red, green and blue of a pixel of a composite. -/
def rgbOf (v : Nat) : Int × Int × Int := (v % 256, v / 256 % 256, v / 65536 % 256)

/-- 10,000 times the luma of BT.709 of a colour whose channels go from 0 to 255. -/
def luma709 (c : Int × Int × Int) : Int := 2126 * c.1 + 7152 * c.2.1 + 722 * c.2.2

/-- The nearest whole number to `n / d`, a half upward. -/
def nearest (n d : Int) : Int := (2 * n + d) / (2 * d)

/-- Luma sample of a pixel in limited range (R92): 16 to 235. -/
def lumaSample (v : Nat) : Nat := (16 + nearest (219 * luma709 (rgbOf v)) 2550000).toNat

/-- A chroma sample in limited range from four pixels' sums of a channel and of lumas: 16 to 240. `k` is 10,000 times the
channel's divisor of BT.709. -/
def chromaSample (chan lumas k : Int) : Nat := (128 + nearest (224 * (10000 * chan - lumas)) (4 * 255 * k)).toNat

/-- The picture that an encoder takes of a composite (R92): its size by mode, BT.709 limited range, 4:2:0, and for HEVC each
sample shifted left by 2. Samples of black are not listed. The matrix is BT.709's (PRESUMED, log entry 120); rounding to the
nearest, and a chroma sample as the mean of its four pixels, are the model's (DESIGN CHOICE, log entry 120). -/
def HeadBind.picture (b : HeadBind) (pixels : KMap Nat) : Picture :=
  let sh := if b.codec = 1 then 4 else 1
  let block := fun (k : Nat) => k / 65536 / 2 * 65536 + k % 65536 / 2
  let sums : KMap (Int × Int × Int) := pixels.foldl (fun (m : KMap (Int × Int × Int)) e =>
    let c := rgbOf e.2
    let t := m.lookD (block e.1) (0, 0, 0)
    m.put (block e.1) (t.1 + c.1, t.2.1 + c.2.2, t.2.2 + luma709 c)) []
  let listed := fun (black : Nat) (l : List (Nat × Nat)) => l.filterMap fun e => if e.2 = black then none else some (e.1, sh * e.2)
  { width := screenW b.mode240, height := screenH b.mode240,
    luma := listed 16 (pixels.map fun e => (e.1, lumaSample e.2)),
    cb := listed 128 (sums.map fun e => (e.1, chromaSample e.2.2.1 e.2.2.2 18556)),
    cr := listed 128 (sums.map fun e => (e.1, chromaSample e.2.1 e.2.2.2 15748)) }

/-- A frame's record: header, bitstream, and zeros up to a multiple of 64 (R93). -/
def frameRecord (frame : Nat) (key : Bool) (bits : List Byte) : List Byte :=
  let n := 16 + bits.length
  padTo ((n + 63) / 64 * 64) (leBytes 4 frame ++ leBytes 4 bits.length ++ leBytes 1 (b2n key) ++ leBytes 7 0 ++ bits)

/-- Writes a record into a buffer taken as a ring of `len` bytes, from the offset where EWP stands (R93). -/
def State.ringStore (s : State) (pno buf len ewp : Nat) (bs : List Byte) : Except LodgeErr State :=
  let o := ewp % len
  let n := min bs.length (len - o)
  let parts := pageParts (n / 4096 + 2) (buf + o) n ++ pageParts ((bs.length - n) / 4096 + 2) buf (bs.length - n)
  match s.lodgeParts pno .write false parts with
  | .error e => .error e
  | .ok (l, s) => .ok (s.sliceParts pno l bs)

/-- The encoder's work on a sampled frame. -/
def State.encode (s : State) (pno : Nat) (f : Sample) : State :=
  let e := (s.part pno).rink.encs.lookD f.bind.enc Enc.zero
  let qp := if f.bind.codec = 1 then min f.qp 51 else f.qp
  let prev := if f.key then Picture.none else e.prev
  let pic := f.bind.picture f.pixels
  let bs := frameRecord f.frame f.key (Config.bitstream f.bind.codec qp f.key prev pic)
  let set := fun (s : State) (e : Enc) => s.modPart pno fun p => { p with rink := { p.rink with encs := p.rink.encs.put f.bind.enc e } }
  let e := { e with prev := Config.codedFrame f.bind.codec qp f.key prev pic }
  let drop := { e with edrop := (e.edrop + 1) % 2 ^ 32 }
  if f.bind.len < bs.length then set s drop
  else
    match s.ringStore pno f.bind.buf.toNat f.bind.len e.ewp bs with
    | .ok s => set s { e with ewp := (e.ewp + bs.length) % 2 ^ 64 }
    | .error x => (set (s.lodgeMet pno x) drop).emit { s.obs 5 pno with addr := f.bind.buf.toNat + e.ewp % f.bind.len }

/-- FRAME_ENCODE (R93): the oldest sampled frame of the first partition that has one. -/
def execFrameEncode (s : State) : Res :=
  if s.held then .next s
  else
    match s.parts.findSome? fun e => e.2.rink.samples.head?.map fun f => (e.1, f) with
    | some (pno, f) =>
      .next ((s.encode pno f).modPart pno fun p => { p with rink := { p.rink with samples := p.rink.samples.drop 1 } })
    | none => .next s

/-! ### Registers (R91) -/

/-- A write of ECFG (R91): QP is set, KEY only sets. -/
def State.ecfgWrite (s : State) (pno e : Nat) (v : Word) : State :=
  if !bit (s.part pno).encm e then s
  else s.modPart pno fun p =>
    let x := p.rink.encs.lookD e Enc.zero
    { p with rink := { p.rink with encs := p.rink.encs.put e { x with qp := bits v.toNat 7 0, key := x.key || bit v.toNat 8 } } }

def Enc.ecfg (x : Enc) : Word := Word.ofNat (x.edrop * 2 ^ 32 + b2n x.key * 2 ^ 8 + x.qp)
def Head.hstat (x : Head) : Word := Word.ofNat (x.fdrop * 2 ^ 40 + x.lxcl * 2 ^ 32 + x.frame)

/-- ECFG_KEY_SET (R91): the write of 1 to KEY with QP as it stands. -/
def execEcfgKeySet (core slot enc : Nat) (s : State) : Res :=
  s.atKer core slot fun s =>
    match s.corePart core with
    | some pno =>
      let x := (s.part pno).rink.encs.lookD (enc % 32) Enc.zero
      s.ecfgWrite pno (enc % 32) (Word.ofNat (2 ^ 8 + x.qp))
    | none => s

end Sys2Proof.Machine
end

