-- ==== Sys2Proof/Machine/Slalom.lean ====
section
/-!
DEFINITION. Slalom: the reassignment of slots at rotation boundaries (R116 to R119), the displacement of threads and
their resumption (R120).
-/

namespace Sys2Proof.Machine

/-! ### Rotation boundaries (R119) -/

/-- Launches that have a thread on a core, or a deque entry that R106 would deliver (R117); a displaced thread counts on
the core where it waits. -/
def Core.activeLids (x : Core) : List Nat :=
  (x.threads.map fun e => e.2.lid) ++ (x.displaced.map fun e => e.1.lid)
  ++ x.deliverableLids

/-- Active queues and their weights (R117). -/
def State.active (s : State) (pno c : Nat) : KMap Nat :=
  (s.core c).activeLids.foldl (fun (m : KMap Nat) lid =>
    match s.launch? pno lid with
    | some l => m.put l.queue (max (m.lookD l.queue 0) l.wgt)
    | none => m) []

/-- The queue that a slot counts for: the one it is marked to go to, or its owner. -/
def Core.countsFor (x : Core) (sl : Nat) : Option Nat := (x.owners.look sl).map fun o => o.take.getD o.queue

/-- O[q] (R119). -/
def Core.owned (x : Core) (q : Nat) : Int := (((List.range 64).filter fun sl => x.countsFor sl = some q).length : Nat)

/-- The slot found for queue `d` (R119): by class, highest number first. `rich` tells a queue that is not active or owns more
than its target. -/
def Core.giving (x : Core) (active : Nat → Bool) (rich : Nat → Bool) : Option Nat :=
  let sls := (List.range 64).reverse
  let held := fun (sl : Nat) => (x.threads.look sl).isSome
  let owner := fun (sl : Nat) => (x.owners.look sl).map Owner.queue
  [sls.find? fun sl => (owner sl).isNone,
   sls.find? fun sl => !held sl && (owner sl).any fun q => !active q,
   sls.find? fun sl => !held sl && (owner sl).any rich,
   sls.find? fun sl => held sl && !x.marked sl && (owner sl).any fun q => !active q || rich q].findSome? id

/-- One move at a boundary (R119): none when no queue is short or no slot is found. -/
def State.rotateOnce (s : State) (pno c : Nat) (act : KMap Nat) (target : Nat → Int) : Option State :=
  let x := s.core c
  let short := fun (q : Nat) => target q - x.owned q
  let best := act.keys.foldl (fun (b : Option Nat) q => match b with
    | none => some q
    | some a => if short a < short q then some q else some a) none
  match best with
  | none => none
  | some d =>
    if short d ≤ 0 then none
    else
      match x.giving (fun q => (act.look q).isSome) (fun q => (act.look q).isSome && short q < 0) with
      | none => none
      | some sl =>
        let stays := match x.threads.look sl with
          | none => true
          | some t => ((s.launch? pno t.lid).map Launch.queue) = some d
        let own := if stays then Owner.mk d none
          else match x.owners.look sl with
            | some o => { o with take := some d }
            | none => ⟨d, some d⟩
        some (s.setCore c { x with owners := x.owners.put sl own })

/-- Up to `n` moves. -/
def State.rotate (s : State) (pno c : Nat) (act : KMap Nat) (target : Nat → Int) : Nat → State
  | 0 => s
  | n + 1 =>
    match s.rotateOnce pno c act target with
    | none => s
    | some s => State.rotate s pno c act target n

/-- The boundary of a core that comes next: the one after the last that was performed. -/
def State.boundaryAt (s : State) (c : Nat) : Nat := (s.core c).lastRot + 32

/-- Threads in YIELD wake at a boundary (R364). -/
def State.yieldWake (s : State) (c : Nat) : State :=
  let due := (s.core c).threads.filterMap fun e => match e.2.park with
    | some ⟨.yield n, _, _⟩ => if n ≤ s.clk && !s.halted c e.1 then some e.1 else none
    | _ => none
  due.foldr (fun sl (s : State) => s.wakeWith c sl fun g => { g with finished := true }) s

/-- The moves of a boundary, at most 4 (R119). -/
def State.rotateAll (s : State) (pno c : Nat) : State :=
  let act := s.active pno c
  let sum := (act.map Prod.snd).foldl (· + ·) 0
  if act = [] || sum = 0 then s else s.rotate pno c act (fun q => ((64 * act.lookD q 0 / sum : Nat) : Int)) 4

/-- ROTATION_BOUNDARY (R119, R364): the boundaries that have passed are performed in their order, each once; those at
which nothing moves are passed over together. -/
def execRotationBoundary (core : Nat) (s : State) : Res :=
  match s.corePart core with
  | none => .next s
  | some pno =>
    let n := s.boundaryAt core
    let s := s.pass n
    let t := s.rotateAll pno core
    let last := if t = s then max n (s.clk / 32 * 32) else n
    .next ((t.modCore core fun x => { x with lastRot := last }).yieldWake core)

/-! ### Displacement (R120) -/

/-- How far an instruction that runs again has gone: the place it holds in line, an arrival performed, what was handed
over, and a reply that has come, stay, and with them the entries it claims (R131, R153, R172, R356, R431). One that has
performed nothing reads its channels afresh (R348). -/
def Prog.again (g : Prog) : Prog :=
  { Prog.fresh with stamp := g.stamp, arrived := g.arrived, handed := g.handed, reply := g.reply, fatal := g.fatal,
                    took := if g.arrived || g.handed.isSome || g.reply.isSome then g.took else none }

/-- A thread parked in an ENQ that has issued stays in it (R386). -/
def Thread.inEnq (t : Thread) : Bool :=
  match t.park with
  | some ⟨.enq _, _, _⟩ => true
  | some ⟨.chan _ _ _, _, _⟩ => t.prog.finished && t.prog.handed.isSome
  | _ => false

/-- A thread that goes on from where it was parked: the instruction at its PC runs again. -/
def Thread.again (t : Thread) : Thread :=
  if t.inEnq then t else { t with park := none, rel := none, prog := t.prog.again }

/-- Values of a thread's window. -/
def Core.window (x : Core) (t : Thread) : List Word := (List.range t.lim).map fun i => x.greg t i

/-- The window of a thread put into entries that are free, with what was poisoned. -/
def Core.setWindow (x : Core) (t : Thread) (ws : List Word) : Core :=
  let b := t.base
  let x := { x with
    regs := x.regs.filter fun e => e.1 < b || b + t.lim ≤ e.1,
    regPoison := x.regPoison.filter fun e => e < b || b + t.lim ≤ e }
  let x := (List.range t.lim).foldl (fun (x : Core) i => x.setGreg t i (ws.getD i 0)) x
  { x with regPoison := (t.badRegs.map (b + ·)).foldl insertNat x.regPoison }

/-- A thread's registers that are poisoned. -/
def Core.poisonedRegs (x : Core) (t : Thread) : List Nat := (List.range t.lim).filter fun i => x.regPoison.contains (t.base + i)

/-- A thread is displaced: its context and the values of its window leave the slot. R120 has them written to the core's
context buffer in the layout of R263; no register names where that buffer of a displacement lies, so what it holds is the
core's own field `displaced`, and no memory is written (DESIGN CHOICE, log entry 130). -/
def State.displace (s : State) (c sl : Nat) : State :=
  match s.thread? c sl with
  | none => s
  | some t =>
    let x := s.core c
    let kept := ({ t with badRegs := x.poisonedRegs t }, x.window t)
    (s.vacate c sl).modCore c fun x => { x with displaced := x.displaced ++ [kept] }

/-- THREAD_DISPLACE (R120). -/
def execThreadDisplace (core slot : Nat) (s : State) : Res :=
  match s.thread? core slot with
  | none => .next s
  | some t =>
    if !s.passes core slot t then .next s
    else if t.idle then (if ((s.core core).comingTo slot).isSome then .next s else .next (s.endThread core slot))
    else .next ((if t.park.isSome then s else s.pass t.busy).displace core slot)

/-- Puts a thread that is in no slot into the next one free for its launch, with a window placed first-fit (R120, R265):
the slot, or none where there is no slot or no room. -/
def State.seat (s : State) (c : Nat) (l : Launch) (t : Thread) (ws : List Word) : Option (Nat × State) :=
  let x := s.core c
  match x.freeSlot l, x.firstFit t.lim with
  | some sl, some b =>
    let t := { t.again with base := b, busy := max t.busy s.clk }
    let x := x.setWindow t ws
    let t := { t with badRegs := [], savedAt := none }
    let s := s.setCore c { x with threads := x.threads.put sl t }
    some (sl, s.noteState c sl t.logState)
  | _, _ => none

/-- The first displaced thread of each launch, in the order of displacement. -/
def firstOfEach : List Nat → List (Thread × List Word) → List (Thread × List Word)
  | _, [] => []
  | seen, e :: rest => if seen.contains e.1.lid then firstOfEach seen rest else e :: firstOfEach (e.1.lid :: seen) rest

/-- The displaced thread that can take a slot, seated there. -/
def State.reseat (s : State) (c pno : Nat) : Option State :=
  (firstOfEach [] (s.core c).displaced).findSome? fun e =>
    match s.launch? pno e.1.lid with
    | none => none
    | some l =>
      (s.seat c l e.1 e.2).map fun r =>
        r.2.modCore c fun x => { x with displaced := x.displaced.filter fun o => o.1.sth ≠ e.1.sth }

/-- A resumption is complete when every thread that it brought back is in a slot: CPSTAT of its requester becomes 2
(R265). -/
def State.resumeSettle (s : State) (c : Nat) : State :=
  match (s.core c).preempt with
  | some p =>
    if p.stage = 3 && (s.core c).displaced.all fun e => e.1.savedAt.isNone then
      (s.modCore c fun x => { x with preempt := none }).modSth p.byCore p.bySth fun t => { t with cpstat := 2 }
    else s
  | none => s

/-- DISPLACED_RESUME (R120, R265). -/
def execDisplacedResume (core : Nat) (s : State) : Res :=
  match s.corePart core with
  | none => .next s
  | some pno =>
    if !s.takesFrames core then .next s
    else match s.reseat core pno with
      | some s => .next (s.resumeSettle core)
      | none => .next s

end Sys2Proof.Machine
end

