-- ==== Sys2Proof/Machine/ThreadRegs.lean ====
section
/-!
DEFINITION. The per-thread system registers (R339, R340, R147, R235, R248, R420), read and written by number, and the
owner bytes of a core (R118).
-/

namespace Sys2Proof.Machine

/-- WIN (R147). -/
def Thread.win (t : Thread) : Word := Word.ofNat (t.base * 256 + t.lim)

/-- TSCNT (R420). -/
def Thread.tscnt (t : Thread) : Word := Word.ofNat (t.tsreg.length * 2 ^ 32 + t.tsdepth)

/-- A per-thread register by its number; `torg` is TORG. None for a number that names none. -/
def Thread.reg (t : Thread) (torg : Word) (num : Nat) : Option Word :=
  match num with
  | 0x000 => some t.mode
  | 0x001 => some t.win
  | 0x002 => some t.tvec
  | 0x003 => some t.tpc
  | 0x004 => some t.tcause
  | 0x005 => some t.tval
  | 0x006 => some t.tseq
  | 0x008 => some t.ts0
  | 0x009 => some t.ts1
  | 0x00A => some t.ts2
  | 0x00B => some t.ts3
  | 0x010 => some t.tsbase
  | 0x011 => some t.tscnt
  | 0x012 => some t.tjoin
  | 0x013 => some (Word.ofNat t.unack)
  | 0x014 => some t.dqbase
  | 0x015 => some torg
  | _ => none

/-- MODE takes a value: APX is not 3 and DRM not 5 to 7 (R235). -/
def modeOk (v : Word) : Bool := bits v.toNat 5 4 ≠ 3 && bits v.toNat 2 0 ≤ 4

/-- A write of a per-thread register: its RW fields take the value, RO fields ignore it (R248, R235, R420, R340). A MODE
value that is refused changes nothing. -/
def Thread.setReg (t : Thread) (num : Nat) (v : Word) : Thread :=
  let n := v.toNat
  match num with
  | 0x000 => if modeOk v then { t with mode := Word.ofNat (n % 64) } else t
  | 0x002 => { t with tvec := Word.ofNat (n / 8 * 8 + n % 2) }
  | 0x003 => { t with tpc := v }
  | 0x004 =>
    let c := t.tcause.toNat
    { t with tcause := Word.ofNat (c - (if bit c 61 then 2 ^ 61 else 0) + (if bit n 61 then 2 ^ 61 else 0)) }
  | 0x005 => { t with tval := v }
  | 0x008 => { t with ts0 := v }
  | 0x009 => { t with ts1 := v }
  | 0x00A => { t with ts2 := v }
  | 0x00B => { t with ts3 := v }
  | 0x010 => { t with tsbase := Word.ofNat (n / 8 * 8) }
  | 0x012 => { t with tjoin := v }
  | _ => t

/-- The owner byte of a slot (R118). -/
def Core.ownerByte (x : Core) (sl : Nat) : Nat :=
  match x.owners.look sl with
  | none => 0
  | some o => 128 + (if o.take.isSome then 64 else 0) + o.take.getD o.queue % 16

/-- SQO of eight slots (R118). -/
def Core.sqo (x : Core) (n : Nat) : Word :=
  Word.ofNat ((List.range 8).foldr (fun k v => x.ownerByte (8 * n + k) + 256 * v) 0)

end Sys2Proof.Machine
end

