-- ==== Sys2Proof/Machine/Preempt.lean ====
section
/-!
DEFINITION. Core pre-emption (R260 to R265): the request, the context buffer's image, the saving of a core and its
resumption.
-/

namespace Sys2Proof.Machine

/-! ### The image (R262 to R264) -/

/-- Header (R262). -/
def State.ctxHeader (s : State) (c nslot nring nmsg : Nat) : List Byte :=
  let x := s.core c
  padTo 4096 ([0x43, 0x54, 0x58, 0x42] ++ leBytes 2 1 ++ leBytes 2 0 ++ leBytes 2 c ++ leBytes 2 nslot ++ leBytes 2 nring
    ++ leBytes 2 nmsg ++ leBytes 8 (b2n x.te) ++ leBytes 2 (s.tsidOf c) ++ leBytes 6 0
    ++ (List.range 64).map fun sl => BitVec.ofNat 8 (x.ownerByte sl))

/-- FLAGS of a slot record (R263). A BAR whose arrival has been performed is saved as a parked one, though its thread has
been woken and has not run again (R356). -/
def Thread.flags (t : Thread) (take : Bool) : Nat :=
  let arrived := t.takeUp.prog.arrived
  b2n (t.park.isSome || arrived) + 2 * b2n t.dbg + 4 * b2n take + 8 * b2n (t.late.any fun l => l.cause = .mcnt)
  + 16 * b2n arrived

/-- The registers of a slot record, in their order (R263). -/
def savedRegs : List Nat :=
  [0x000, 0x001, 0x002, 0x003, 0x004, 0x005, 0x006, 0x008, 0x009, 0x00A, 0x00B, 0x010, 0x011, 0x012, 0x013, 0x014, 0x015]

/-- A slot record (R263). -/
def State.slotRecord (s : State) (c pno sl : Nat) (t : Thread) : List Byte :=
  let x := s.core c
  let torg := s.torg pno t
  let mask := (t.touched.filter (· < 512)).foldl (fun n j => n + 2 ^ j) 0
  padTo 2048 (
    padTo 64 (leBytes 1 1 ++ leBytes 1 t.pl ++ leBytes 1 (t.flags (x.marked sl)) ++ leBytes 1 0 ++ leBytes 4 t.lid
      ++ leBytes 8 t.pc.toNat ++ leBytes 8 t.tag.toNat ++ leBytes 1 t.preds.toNat ++ leBytes 1 (x.ownerByte sl) ++ leBytes 2 0
      ++ leBytes 4 t.sth)
    ++ padTo 192 (savedRegs.flatMap fun n => leBytes 8 ((t.reg torg n).getD 0).toNat)
    ++ leBytes 64 mask
    ++ padTo 192 ((List.range 4).flatMap fun i => leBytes 8 (t.tsreg.getD i allOnes).toNat)
    ++ (x.window t).flatMap fun w => leBytes 8 w.toNat)

/-- STATE of a ring record (R264). -/
def Entry.ctxState (e : Entry) : Nat :=
  match e.st with
  | .faulted => 4
  | .held => 3
  | .parked _ _ _ _ => 2
  | _ => match e.instr with | .enq _ _ _ => 5 | _ => 1

/-- A ring record (R264). -/
def Entry.ctxBytes (e : Entry) (slot : Nat) : List Byte :=
  padTo 128 (padTo 80 (leBytes 8 e.word ++ leBytes 8 e.ext ++ leBytes 8 e.v0.toNat ++ leBytes 8 e.v1.toNat ++ leBytes 8 e.v2.toNat
    ++ leBytes 8 e.v3.toNat ++ leBytes 2 e.iter ++ leBytes 1 slot ++ leBytes 1 e.ctxState ++ leBytes 4 e.seq
    ++ leBytes 4 e.z0 ++ leBytes 4 e.z1 ++ leBytes 4 e.z2 ++ leBytes 4 e.z3 ++ leBytes 1 e.mode ++ leBytes 1 (b2n e.te))
    ++ leBytes 8 e.scl.toNat)

/-- A message record (R264). -/
def msgRecord (kind n chan : Nat) (dest : Word) (body : List Byte) : List Byte :=
  padTo 256 (leBytes 1 kind ++ leBytes 1 n ++ leBytes 1 chan ++ leBytes 1 0 ++ leBytes 4 0 ++ leBytes 8 dest.toNat ++ body)

/-- Channels of a core whose batch is not sent. -/
def Core.unsent (x : Core) : List (Nat × Chan × Bind) :=
  x.chans.filterMap fun e => match e.2.bind with
    | some b => if e.2.vals = [] then none else some (e.1, e.2, b)
    | none => none

/-- Steal replies that no thread has taken, frames that an earlier resumption brought back, and frames of the cluster's
sources that are being delivered (R110, R131). -/
def Core.replies (x : Core) : List Coming :=
  (x.steals.filterMap fun e => match e.2 with | .reply d | .here d => some ⟨2, 0, d.frame⟩ | _ => none) ++ x.arrived ++ x.coming

/-- The undelivered messages of a core (R261, R264). -/
def Core.messages (x : Core) : List (List Byte) :=
  (x.unsent.map fun (ch, q, b) =>
    msgRecord 1 q.vals.length ch (Word.ofNat (0x01FFFE0000000000 + b.dev * 2 ^ 31 + b.core * 2 ^ 19 + b.chan))
      (q.vals.flatMap fun v => leBytes 8 v.1.toNat))
  ++ x.replies.map fun e => (msgRecord e.kind 0 0 0 (DqEntry.image ⟨e.frame.words, e.frame.tag, e.frame.lid, 0⟩)).set 3 (BitVec.ofNat 8 e.slot)

/-- Slots whose threads are saved: those that hold a frame. -/
def Core.savedSlots (x : Core) : List (Nat × Thread) := x.threads.filter fun e => !e.2.idle

/-- Ring entries of the threads that are saved, oldest first. -/
def Core.savedRing (x : Core) : List (Nat × Entry) :=
  x.ring.filterMap fun e => (slotOf x e.sth).map fun sl => (sl, e)

/-- The image of a core, as parts of the buffer (R262). -/
def State.ctxImage (s : State) (c pno : Nat) : List (Nat × List Byte) :=
  let x := s.core c
  let ts := x.savedSlots
  let ring := x.savedRing
  let msgs := x.messages
  [(0, s.ctxHeader c ts.length ring.length msgs.length)]
  ++ ((List.range 64).map fun sl =>
      (0x1000 + 0x800 * sl,
       match ts.find? fun e => e.1 = sl with
       | some e => s.slotRecord c pno sl e.2
       | none => List.replicate 2048 0))
  ++ [(0x21000, padTo 0x8000 (ring.flatMap fun e => e.2.ctxBytes e.1)),
      (0x29000, padTo 0x8000 msgs.flatten),
      (0x31000, List.replicate 0xF000 0)]

/-! ### Saving (R261) -/

/-- Sets CPSTAT of a pre-emption's requester. -/
def State.cpstatSet (s : State) (p : Preempt) (v : Word) : State :=
  s.modSth p.byCore p.bySth fun t => { t with cpstat := v }

/-- The threads of a core that wait in WFW end (R261, step 1). -/
def State.endIdle (s : State) (c : Nat) : State :=
  (s.core c).threads.foldl (fun (s : State) e => if e.2.idle then s.endThread c e.1 else s) s

/-- The ring has drained (R261, step 2): no thread's next entry can proceed; nor does a thread await the reply of an
access already sent (R348). -/
def Core.ringDrained (x : Core) : Bool :=
  (x.ring.all fun e =>
    match nextEntry x e.sth with
    | none => true
    | some n => match n.st, n.instr with
      | .parked _ _ _ _, _ => true
      | _, .enq _ _ _ => true
      | _, _ => false)
  && x.threads.all fun e =>
    (match e.2.park with | some ⟨.remote _, _, _⟩ => false | _ => true) && (e.2.prog.reply.isNone || e.2.stopped ≠ [])

/-- Writes the parts of an image: none is written unless all of it can be. -/
def State.ctxWrite (s : State) (pno base : Nat) (l : List (Nat × List Byte)) : Except LodgeErr State :=
  match s.lodgeParts pno .write false (pageParts 65 base 0x40000) with
  | .error e => .error e
  | .ok (_, s) => l.foldl (fun (r : Except LodgeErr State) e =>
      match r with
      | .ok s => s.lodgePut pno (base + e.1) e.2 false
      | .error e => .error e) (.ok s)

/-- A thread as a resumption brings it back (R265): with PN, a notice is due that tells how long it was away. -/
def Thread.notice (t : Thread) (away : Nat) : Thread :=
  if bit t.tvec.toNat 0 then { t with late := t.late ++ [⟨.preempt, 0, 0, 0, Word.ofNat (min away (2 ^ 64 - 1)), 0, t.pc⟩] } else t

/-- A request that a fault of the buffer aborts: the core goes on as if it had been restored (R261). -/
def State.preemptAbort (s : State) (c : Nat) (p : Preempt) : State :=
  let s := s.modCore c fun x =>
    { x with preempt := none, threads := KMap.mapVals (fun (t : Thread) => t.again.notice 0) x.threads }
  let s := (s.core c).threads.foldl (fun (s : State) e => s.noteState c e.1 e.2.logState) s
  s.cpstatSet p 0x33

/-- The core after its image is written: what the image holds leaves it (R261, step 4). -/
def State.emptyCore (s : State) (c : Nat) (p : Preempt) : State :=
  let x := s.core c
  let ts := x.savedSlots
  let gone := (x.savedRing).map fun e => e.2.seq
  let marks := (x.savedRing).map fun e => (e.2.seq, e.2.inHandler, e.2.pc)
  let kept := ts.map fun e => { e.2 with badRegs := x.poisonedRegs e.2, savedAt := some s.fab }
  let s := s.modCore c fun x =>
    { x with
      ring := x.ring.filter fun e => !gone.contains e.seq,
      chans := KMap.mapVals (fun (q : Chan) => if q.bind.isSome then { q with vals := [], due := false } else q) x.chans,
      pushers := x.unsent.map fun (ch, q, _) => (ch, q.vals.map Prod.snd),
      steals := x.steals.filter fun e => match e.2 with | .reply _ | .here _ => false | _ => true,
      arrived := [],
      coming := [],
      preempt := some { p with stage := 2, marks := marks } }
  let s := ts.foldl (fun (s : State) e => s.vacate c e.1) s
  (s.modCore c fun x => { x with saved := x.saved ++ kept }).cpstatSet p 2

/-- PREEMPT_SAVE (R261). -/
def execPreemptSave (core : Nat) (s : State) : Res :=
  match (s.core core).preempt, s.corePart core with
  | some p, some pno =>
    if p.stage ≠ 1 || !(s.core core).ringDrained || s.held || (s.part pno).st ≠ 1 then .next s
    else
      let s := (s.pass (((s.core core).threads.map fun e => e.2.busy).foldl max 0)).endIdle core
      if 2 ^ 57 ≤ p.buf.toNat then .next (s.preemptAbort core p)
      else
        match s.ctxWrite pno p.buf.toNat (s.ctxImage core pno) with
        | .ok s => .next (s.emptyCore core p)
        | .error e => .next ((s.lodgeMet pno e).preemptAbort core p)
  | _, _ => .next s

/-! ### Resumption (R265) -/

/-- A thread as its slot record gives it back. UNACK, which went on counting, and what no record holds are what the core
kept of it (log entry 65); WIN gives its window's size, which is placed anew. A register's reserved fields read 0 whatever
the record holds, and MODE takes no value that a write of it is refused (R9, R235). The level is the one that the record
names, also where that is not the launch's: R34 and R263 leave this open (DESIGN CHOICE, log entry 129). -/
def Thread.fromRecord (t : Thread) (r : List Byte) : Thread :=
  let n := fun (i : Nat) => dfield r (64 + 8 * i) 8
  let w := fun (i : Nat) => Word.ofNat (n i)
  let mask := dfield r 256 64
  let stack := (List.range 4).map fun i => Word.ofNat (dfield r (320 + 8 * i) 8)
  { t with
    lid := dfield r 4 4, pl := min (dfield r 1 1) 2, sth := dfield r 28 4, lim := min (dfield r 72 1) 128,
    dqbase := Word.ofNat (n 15 / 128 * 128),
    pc := Word.ofNat (dfield r 8 8), tag := Word.ofNat (dfield r 16 8),
    preds := BitVec.ofNat 8 (dfield r 24 1 / 2 * 2 + 1),
    dbg := bit (dfield r 2 1) 1,
    mode := if modeOk (w 0) then Word.ofNat (n 0 % 64) else t.mode,
    tvec := Word.ofNat (n 2 / 8 * 8 + n 2 % 2), tpc := w 3,
    tcause := Word.ofNat (n 4 / 2 ^ 61 * 2 ^ 61 + bits (n 4) 47 36 * 2 ^ 36 + n 4 % 2 ^ 18),
    tval := w 5, tseq := Word.ofNat (n 6 % 2 ^ 32), ts0 := w 7, ts1 := w 8, ts2 := w 9,
    ts3 := w 10, tsbase := Word.ofNat (n 11 / 8 * 8), tsdepth := (w 12).toNat % 2 ^ 20, tjoin := w 13,
    tsreg := stack.filter (· ≠ allOnes),
    touched := (List.range 512).filter fun j => bit mask j,
    prog := { t.prog with arrived := bit (dfield r 2 1) 4 } }

/-- Values of the window in a slot record. -/
def recordWindow (r : List Byte) (lim : Nat) : List Word := (List.range lim).map fun i => Word.ofNat (dfield r (512 + 8 * i) 8)

/-- The instruction of a ring record. -/
def recordInstr (w e : Nat) : Option Instr :=
  match decodeOp w with
  | .error _ => none
  | .ok o => decodeFields o w e

/-- The entry of a ring record, under a new sequence number, with what the core kept of it by its old number: whether it
was dispatched inside a handler, and its address. -/
def recordEntry (r : List Byte) (t : Thread) (seq : Nat) (kept : Bool × Word) : Option Entry :=
  (recordInstr (dfield r 0 8) (dfield r 8 8)).map fun i =>
    let st := dfield r 51 1
    { seq := seq, sth := t.sth, lid := t.lid, word := dfield r 0 8, ext := dfield r 8 8, instr := i,
      v0 := Word.ofNat (dfield r 16 8), v1 := Word.ofNat (dfield r 24 8), v2 := Word.ofNat (dfield r 32 8),
      v3 := Word.ofNat (dfield r 40 8), z0 := dfield r 56 4, z1 := dfield r 60 4, z2 := dfield r 64 4, z3 := dfield r 68 4,
      mode := dfield r 72 1, te := bit (dfield r 73 1) 0, scl := Word.ofNat (dfield r 80 8), iter := dfield r 48 2,
      st := if st = 3 then .held else if st = 4 then .faulted else .waiting, dst := fDst (dfield r 0 8), got := [],
      inHandler := kept.1, pc := kept.2 }

/-- A thread's references to an entry follow it to its new number (R265). -/
def Thread.renumber (t : Thread) (old new : Nat) : Thread :=
  { t with
    tseq := if t.act && t.tseq = Word.ofNat old then Word.ofNat new else t.tseq,
    late := t.late.map fun l => if l.cause = .vlate && l.seq = old then { l with seq := new } else l,
    park := match t.park with
      | some ⟨.enq n, a, b⟩ => if n = old then some ⟨.enq new, a, b⟩ else some ⟨.enq n, a, b⟩
      | p => p }

/-- Dispatches ring records again, in their order; each has the number of its slot's thread. -/
def State.redispatch (s : State) (c : Nat) (slots : List (Nat × Nat)) (marks : List (Nat × Bool × Word)) : List (List Byte) → State
  | [] => s
  | r :: rest =>
    let s :=
      match (slots.find? fun e => e.1 = dfield r 50 1).bind fun e => s.bySth c e.2 with
      | none => s
      | some t =>
        let n := (s.core c).seqnow
        match recordEntry r t n (((marks.find? fun e => e.1 = dfield r 52 4).map fun e => e.2).getD (t.act, 0)) with
        | none => s
        | some e =>
          (s.modCore c fun x => { x with ring := x.ring ++ [e], seqnow := (n + 1) % 2 ^ 32 }).modSth c t.sth fun t =>
            t.renumber (dfield r 52 4) n
    State.redispatch s c slots marks rest

/-- Delivers a message record as if it had just arrived (R265). -/
def State.redeliver (s : State) (c : Nat) (r : List Byte) : State :=
  let kind := dfield r 0 1
  if kind = 1 then
    let ch := dfield r 2 1 % 16
    let by' := (s.core c).pushers.lookD ch []
    let vals := (List.range (min (dfield r 1 1) 16)).map fun i => (Word.ofNat (dfield r (16 + 8 * i) 8), by'.getD i (2 ^ 32))
    let q := (s.core c).chan ch
    if q.bind.isNone then s
    else s.modCore c fun x => { x.setChan ch { q with vals := q.vals ++ vals, since := s.clk } with pushers := x.pushers.del ch }
  else if 2 ≤ kind && kind ≤ 5 then
    let e := (r.drop 16).take 128
    let d := DqEntry.ofBytes (dfield e 72 4) e
    let mesh := if kind = 5 then some (clusterOf c, (d.words.getD 5 0).toNat % 4) else none
    s.modCore c fun x => { x with arrived := x.arrived ++ [⟨kind, dfield r 3 1, { d.frame with mesh := mesh }⟩] }
  else s

/-- Reads `n` consecutive records. -/
def State.readRecords (s : State) (pno va size : Nat) : Nat → Except LodgeErr (List (List Byte) × State)
  | 0 => .ok ([], s)
  | n + 1 =>
    match s.lodgeRead pno va size with
    | .error e => .error e
    | .ok (r, s) =>
      match State.readRecords s pno (va + size) size n with
      | .error e => .error e
      | .ok (l, s) => .ok (r :: l, s)

/-- The parts of an image after its header: slot records, ring records, message records. -/
def State.readImage (s : State) (pno base : Nat) (h : List Byte) :
    Except LodgeErr (List (List Byte) × List (List Byte) × List (List Byte) × State) :=
  match s.readRecords pno (base + 0x1000) 2048 64 with
  | .error e => .error e
  | .ok (sl, s) =>
    match s.readRecords pno (base + 0x21000) 128 (min (dfield h 12 2) 256) with
    | .error e => .error e
    | .ok (ri, s) =>
      match s.readRecords pno (base + 0x29000) 256 (min (dfield h 14 2) 128) with
      | .error e => .error e
      | .ok (ms, s) => .ok (sl, ri, ms, s)

/-- The header belongs to a core (R265). -/
def State.headerFits (s : State) (c : Nat) (h : List Byte) : Bool :=
  h.take 4 = [0x43, 0x54, 0x58, 0x42] && dfield h 4 2 = 1 && dfield h 8 2 = c && dfield h 24 2 = s.tsidOf c

/-- Brings back what an image holds: the threads wait for slots as displaced ones do. -/
def State.restore (s : State) (c : Nat) (p : Preempt) (h : List Byte) (sl ri ms : List (List Byte)) : State :=
  let x := s.core c
  let back := (sl.zipIdx).filterMap fun (r, i) =>
    if dfield r 0 1 ≠ 1 then none
    else
      let kept := (x.saved.find? fun t => t.sth = dfield r 28 4).getD Thread.zero
      let t := kept.fromRecord r
      let t := { t with savedAt := some (kept.savedAt.getD s.fab), dbg := t.dbg || s.opHalted c }
      some (i, t.notice (s.fab - kept.savedAt.getD s.fab), recordWindow r t.lim)
  let s := s.modCore c fun x =>
    { x with te := bit (dfield h 16 8) 0, saved := [], displaced := x.displaced ++ back.map fun e => e.2, preempt := some p }
  let s := s.redispatch c (back.map fun e => (e.1, e.2.1.sth)) p.marks ri
  (ms.foldl (fun (s : State) r => s.redeliver c r) s).resumeSettle c

/-! ### CPREQ (R260) -/

/-- The code that rejects a request at once, 0 where none does. -/
def State.cpCode (s : State) (pno v : Nat) : Nat :=
  let c := bits v 11 0
  let op := bits v 17 16
  if s.corePart c ≠ some pno then 1
  else if op = 0 || op = 3 || bits v 15 12 ≠ 0 then 2
  else match (s.core c).preempt with
    | some p => if p.stage ≠ 2 || op = 1 then 5 else 0
    | none => 0

/-- A write of CPREQ by the thread in a slot. -/
def State.cpreqWrite (s : State) (core slot : Nat) (v : Word) : State :=
  match s.thread? core slot, s.corePart core with
  | some t, some pno =>
    if t.cpstat.toNat % 4 = 1 then s
    else
      let n := v.toNat
      let c := bits n 11 0
      let buf := Word.ofNat (n / 2 ^ 18 * 2 ^ 18)
      let code := s.cpCode pno n
      let reject := fun (k : Nat) (s : State) => s.modThread core slot fun t => { t with cpstat := Word.ofNat (16 * k + 3) }
      if code ≠ 0 then reject code s
      else
        let busy := s.modThread core slot fun t => { t with cpstat := 1 }
        if bits n 17 16 = 1 then
          ((busy.modCore c fun x => { x with preempt := some ⟨buf, core, t.sth, 1, []⟩ }).stir c).endIdle c
        else if 2 ^ 57 ≤ buf.toNat then reject 3 s
        else
          match s.lodgeRead pno buf.toNat 96, (s.core c).preempt with
          | .error e, _ => reject 3 (s.lodgeMet pno e)
          | .ok (h, s'), some p =>
            if !s.headerFits c h || p.buf ≠ buf then reject 4 s
            else
              match s'.readImage pno buf.toNat h with
              | .error e => reject 3 (s'.lodgeMet pno e)
              | .ok (sl, ri, ms, s') =>
                (s'.modThread core slot fun t => { t with cpstat := 1 }).restore c { p with byCore := core, bySth := t.sth, stage := 3 } h sl ri ms
          | .ok _, none => reject 4 s
  | _, _ => s

/-- CPREQ_PREEMPT (R261). -/
def execCpreqPreempt (core slot : Nat) (v : Word) (s : State) : Res :=
  s.atKer core slot fun s => if bits v.toNat 17 16 = 1 then s.cpreqWrite core slot v else s

/-- CPREQ_RESUME (R265). -/
def execCpreqResume (core slot : Nat) (v : Word) (s : State) : Res :=
  s.atKer core slot fun s => if bits v.toNat 17 16 = 2 then s.cpreqWrite core slot v else s

end Sys2Proof.Machine
end

