-- ==== Sys2Proof/Machine/Observe.lean ====
section
/-!
DEFINITION. Errors (R266, R267), the observation ring and the operator log (R258, R259), the state-change log's timeout
(R270), debug stops (R271, R53), and what the operator reads under a disclosure policy (R50 to R53).
-/

namespace Sys2Proof.Machine

/-! ### Errors (R266, R267) -/

/-- The partition that a location belongs to: for DRAM, the one under whose key the cell was written. -/
def State.errPart (s : State) : ErrLoc → Option Nat
  | .dram c => (s.dkey.look c).bind fun g => (s.parts.find? fun e => e.2.keyGen = g).map Prod.fst
  | .localMem c _ | .regFile c _ | .dataCache c _ => s.corePart c
  | .accum cl _ _ | .codebook cl _ | .samplerCache cl _ => s.corePart (8 * cl)

/-- Core and address that a record names. -/
def errWhere : ErrLoc → Nat × Nat
  | .dram c => (0xFFFF, 32 * c)
  | .localMem core c => (core, 32 * c)
  | .regFile core n => (core, n)
  | .accum cl t c => (8 * cl, 4096 * t + c)
  | .codebook cl t => (8 * cl, t)
  | .dataCache core a => (core, a)
  | .samplerCache cl a => (8 * cl, a)

/-- The record of an error. An error in state of no partition goes to the operator alone. -/
def State.errRecord (s : State) (kind : Nat) (part : Option Nat) (loc : ErrLoc) : State :=
  let (core, a) := errWhere loc
  match part with
  | some pno => s.emit { s.obs kind pno with core := core, addr := a }
  | none => s.opRecord { kind := kind, part := 0xFF, core := core, addr := a, time := s.fab, tsid := 0 }

/-- ECC_CORRECTED (R266): the register file has parity alone, which corrects nothing (R171). -/
def execEccCorrected (loc : ErrLoc) (s : State) : Res :=
  match loc with
  | .regFile _ _ => .next s
  | _ =>
    let part := s.errPart loc
    let s := match part with
      | some pno => s.modPart pno fun p => { p with corrected := p.corrected + 1 }
      | none => { s with corrected0 := s.corrected0 + 1 }
    .next (s.errRecord 8 part loc)

/-- Marks a cache line poisoned. -/
def spoil (l : List Line) (a : Nat) : List Line := l.map fun e => if e.addr = lineOf a then { e with bad := true } else e

/-- Marks a location poisoned (R266). -/
def State.poisonAt (s : State) : ErrLoc → State
  | .dram c => s.dramPoison [c]
  | .localMem core c => s.modCore core fun x => x.lpoisonAt [c % 16384]
  | .regFile core n => s.modCore core fun x => { x with regPoison := insertNat x.regPoison (n % 2048) }
  | .accum cl t c => s.modCluster cl fun x =>
      { x with tiles := x.tiles.put (t % 4) { x.tile (t % 4) with poison := insertNat (x.tile (t % 4)).poison c } }
  | .codebook cl t => s.modCluster cl fun x => { x with cbPoison := insertNat x.cbPoison (t % 8) }
  | .dataCache core a => s.modCore core fun x => { x with dcache := spoil x.dcache a }
  | .samplerCache cl a => s.modCluster cl fun x => { x with scache := spoil x.scache a }

/-- ECC_UNCORRECTABLE (R266, R171). -/
def execEccUncorrectable (loc : ErrLoc) (s : State) : Res :=
  let part := s.errPart loc
  let s := match part with
    | some pno => s.modPart pno fun p => { p with uncorrected := p.uncorrected + 1 }
    | none => { s with uncorrected0 := s.uncorrected0 + 1 }
  .next ((s.poisonAt loc).errRecord 9 part loc)

/-- MACHINE_CHECK (R267): of a partition's state, or with none, of TSID 0's. -/
def execMachineCheck (part : Option Nat) (s : State) : Res :=
  match part with
  | some pno =>
    match s.parts.look pno with
    | none => .next s
    | some _ =>
      let s := s.modPart pno fun p => { p with st := if p.st = 1 then 3 else p.st, uncorrected := p.uncorrected + 1 }
      .next (s.emit (s.obs 10 pno))
  | none =>
    let s := { s with uncorrected0 := s.uncorrected0 + 1 }.opRecord
      { kind := 10, part := 0xFF, time := s.fab, tsid := 0 }
    .next { s.holdAll with hold := true }

/-! ### Rings (R258, R259) -/

/-- A write of OBASE (R258). -/
def State.obaseWrite (s : State) (pno : Nat) (v : Word) : State :=
  s.modPart pno fun p => { p with obase := Word.ofNat (v.toNat / 64 * 64) }

/-- The geometry of a ring of 64-byte records is valid (R258). -/
def ringFits (base : Word) (log2 : Nat) : Bool := 6 ≤ log2 && log2 ≤ 16 && base.toNat % (64 * 2 ^ log2) = 0

/-- A write of OCFG (R258). -/
def State.ocfgWrite (s : State) (pno : Nat) (v : Word) : State :=
  let sz := bits v.toNat 12 8
  s.modPart pno fun p =>
    if !bit v.toNat 0 then { p with olog2 := sz, oen := false }
    else if !ringFits p.obase sz then { p with olog2 := sz, oen := false }
    else if p.oen then { p with olog2 := sz }
    else { p with olog2 := sz, oen := true, ohead := 0, otail := 0, odrop := 0 }

def Part.ocfg (p : Part) : Word := Word.ofNat (p.odrop * 2 ^ 32 + p.olog2 * 2 ^ 8 + b2n p.oen)

/-- OCFG_ENABLE (R258). -/
def execOcfgEnable (core slot : Nat) (v : Word) (s : State) : Res :=
  s.atKer core slot fun s =>
    match s.corePart core with
    | some pno => if bit v.toNat 0 then s.ocfgWrite pno v else s
    | none => s

/-- A write of OLBASE (R259). -/
def State.olbaseWrite (s : State) (v : Word) : State := { s with olog := { s.olog with base := Word.ofNat (v.toNat / 64 * 64) } }

/-- A write of OLCFG (R259). -/
def State.olcfgWrite (s : State) (v : Word) : State :=
  let sz := bits v.toNat 12 8
  let o := s.olog
  { s with olog :=
      if !bit v.toNat 0 then { o with log2sz := sz, en := false }
      else if !ringFits o.base sz then { o with log2sz := sz, en := false }
      else if o.en then { o with log2sz := sz }
      else { o with log2sz := sz, en := true, head := 0, tail := 0, drop := 0 } }

def OpLog.olcfg (o : OpLog) : Word := Word.ofNat (o.drop * 2 ^ 32 + o.log2sz * 2 ^ 8 + b2n o.en)

/-- OLCFG_ENABLE (R259). -/
def execOlcfgEnable (v : Word) (s : State) : Res := if bit v.toNat 0 then .next (s.olcfgWrite v) else .next s

/-- STATE_LOG_TIMEOUT (R270). -/
def execStateLogTimeout (core : Nat) (s : State) : Res :=
  if (s.core core).slog = [] then .next s
  else .next ((s.pass ((s.core core).slogLast + 4096)).slogFlush core)

/-- A write of SLCFG (R270): where the log starts, the threads' states are taken as they stand. -/
def State.slcfgWrite (s : State) (c : Nat) (v : Word) : State :=
  s.modCore c fun x =>
    let n := v.toNat % 2
    if x.slcfg = 0 && n = 1 then
      { x with slcfg := 1, slogLast := s.clk, slogState := KMap.mapVals (fun (t : Thread) => (t.logState, s.clk)) x.threads }
    else { x with slcfg := n }

/-! ### Debug stops (R271) -/

/-- The target that DBGS names: its core and slot. -/
def Part.dbgCore (p : Part) : Nat := bits p.dbgs.toNat 11 0
def Part.dbgSlot (p : Part) : Nat := bits p.dbgs.toNat 17 12

/-- A thread under a debug stop has stopped: it runs no handler, its instruction in flight has retired, and no access that it
sent awaits a reply. -/
def State.atRest (s : State) (t : Thread) : Bool :=
  !t.act && match t.park with
  | some ⟨.remote _, _, _⟩ => false
  | some _ => true
  | none => t.busy ≤ s.clk && t.prog.reply.isNone

/-- STATE of DBGS (R271). -/
def State.dbgState (s : State) (p : Part) : Nat :=
  match s.thread? p.dbgCore p.dbgSlot with
  | none => 3
  | some t => if !t.dbg then 0 else if s.atRest t then 2 else 1

def State.dbgsValue (s : State) (p : Part) : Word := Word.ofNat (s.dbgState p * 2 ^ 20 + p.dbgs.toNat % 2 ^ 18)

/-- Stops the thread in a slot. -/
def State.debugStop (s : State) (c sl : Nat) : State :=
  match s.thread? c sl with
  | none => s.stir c
  | some t => ((s.setThread c sl { t with dbg := true }).noteState c sl { t with dbg := true }.logState).stir c

/-- Lets it go on. -/
def State.debugResume (s : State) (c sl : Nat) : State :=
  match s.thread? c sl with
  | none => s
  | some t => (s.setThread c sl { t with dbg := false }).noteState c sl { t with dbg := false }.logState

/-- A write of DBGS (R271): ignored whole where CORE lies outside the partition. -/
def State.dbgsWrite (s : State) (pno : Nat) (v : Word) : State :=
  let n := v.toNat
  let c := bits n 11 0
  let sl := bits n 17 12
  if s.corePart c ≠ some pno then s
  else
    let s := s.modPart pno fun p => { p with dbgs := Word.ofNat (n % 2 ^ 18) }
    if bits n 19 18 = 1 then s.debugStop c sl else if bits n 19 18 = 2 then s.debugResume c sl else s

/-- DBGS_STOP (R271). -/
def execDbgsStop (core slot : Nat) (v : Word) (s : State) : Res :=
  s.atKer core slot fun s =>
    match s.corePart core with
    | some pno => if bits v.toNat 19 18 = 1 then s.dbgsWrite pno v else s
    | none => s

/-- DBGS_RESUME (R271). -/
def execDbgsResume (core slot : Nat) (v : Word) (s : State) : Res :=
  s.atKer core slot fun s =>
    match s.corePart core with
    | some pno => if bits v.toNat 19 18 = 2 then s.dbgsWrite pno v else s
    | none => s

/-- DBGA keeps SEL, the operand code and the register number (R271). -/
def dbgaKeep (v : Word) : Word :=
  Word.ofNat (bits v.toNat 63 52 * 2 ^ 52 + bits v.toNat 51 51 * 2 ^ 51 + bits v.toNat 47 40 * 2 ^ 40)

/-- A register of the thread in a slot, selected as DBGA selects it (R271): a g code at or above the window's limit names
none. -/
def State.targetReg (s : State) (pno c sl a : Nat) : Word :=
  match s.thread? c sl with
  | none => 0
  | some t =>
    if bit a 51 then (t.reg (s.torg pno t) (bits a 63 52)).getD 0
    else if bits a 47 40 < t.lim then (s.core c).greg t (bits a 47 40) else 0

/-- Value of DBGD (R271). -/
def State.dbgdValue (s : State) (pno : Nat) : Word :=
  let p := s.part pno
  if s.dbgState p ≠ 2 then 0 else s.targetReg pno p.dbgCore p.dbgSlot p.dbga.toNat

/-- A write of DBGD (R271). -/
def State.dbgdSet (s : State) (pno : Nat) (v : Word) : State :=
  let p := s.part pno
  let a := p.dbga.toNat
  if s.dbgState p ≠ 2 then s
  else match s.thread? p.dbgCore p.dbgSlot with
    | none => s
    | some t =>
      if bit a 51 then s.setThread p.dbgCore p.dbgSlot (t.setReg (bits a 63 52) v)
      else if bits a 47 40 < t.lim then s.modCore p.dbgCore fun x => x.setGreg t (bits a 47 40) v else s

/-- The register that a read by the thread in a slot goes to takes a value, if the thread has it, or if its channel has
room. -/
def State.readInto (s : State) (core slot : Nat) (d : Code) (v : Word) : State :=
  match s.thread? core slot with
  | none => s
  | some t =>
    if isGCode d && t.lim ≤ d.toNat then s
    else if isQCode d && 16 ≤ ((s.core core).chan (codeNum d)).vals.length then s
    else (s.asThread core slot).wr d v

/-- DBGD_READ (R271): an SRRD of DBGD by the thread in a slot. -/
def execDbgdRead (core slot : Nat) (d : Code) (s : State) : Res :=
  s.atKer core slot fun s =>
    match s.corePart core with
    | some pno => s.readInto core slot d (s.dbgdValue pno)
    | none => s

/-- DBGD_WRITE (R271). -/
def execDbgdWrite (core slot : Nat) (v : Word) (s : State) : Res :=
  s.atKer core slot fun s =>
    match s.corePart core with
    | some pno => s.dbgdSet pno v
    | none => s

/-! ### The operator (R50 to R53) -/

/-- A request for a debug stop is granted at level 3, and at level 2 for the whole partition (R50). -/
def Part.grantsStop (p : Part) (t : DebugTarget) : Bool :=
  p.st ≠ 2 && (p.level 6 = 3 || (p.level 6 = 2 && t = .whole))

/-- Threads in slots that a target covers, by core and slot. -/
def State.stopTargets (s : State) (pno : Nat) : DebugTarget → List (Nat × Nat)
  | .whole => (s.cores.filter fun e => s.corePart e.1 = some pno).flatMap fun e => e.2.threads.map fun t => (e.1, t.1)
  | .thread c sl => if s.corePart c = some pno then [(c, sl)] else []

/-- A stop of the whole partition reaches its threads that are displaced or saved, and those made later (R50, R215). -/
def State.stopRest (s : State) (pno : Nat) : DebugTarget → State
  | .thread _ _ => s
  | .whole =>
    let held := fun (x : Core) => { x with
      displaced := x.displaced.map fun d => ({ d.1 with dbg := true }, d.2),
      saved := x.saved.map fun t => { t with dbg := true } }
    State.modPart { s with cores := s.cores.map fun e => if s.corePart e.1 = some pno then (e.1, held e.2) else e } pno
      fun p => { p with opHalt := true }

/-- OPERATOR_DEBUG_STOP (R53). -/
def execOperatorDebugStop (part : Nat) (target : DebugTarget) (s : State) : Res :=
  let ok := match s.parts.look part with | some p => p.grantsStop target | none => false
  let s := if ok then ((s.stopTargets part target).foldl (fun (s : State) e => s.debugStop e.1 e.2) s).stopRest part target else s
  .next { s with opstops := s.opstops ++ [⟨part, target, s.clk + 4096, ok⟩] }

/-- DEBUG_STOP_ACK (R53): 4,096 core cycles after the request, granted or not. -/
def execDebugStopAck (s : State) : Res :=
  match s.opstops with
  | [] => .next s
  | o :: rest => .next ({ (s.pass o.at') with opstops := rest }.say (.stop o.granted))

/-- A counter as a level gives it (R50): at level 1 only sums are given, at interval ends. -/
def coarseCount (level n : Nat) : Nat := if level = 3 then n else if level = 2 then floorPow2 n else 0

/-- Level of a class for the operator: of a partition that is being released, and of none, only what R51 names (R40). -/
def State.opLevel (s : State) (pno cls : Nat) : Nat :=
  if (s.part pno).st = 2 || (s.parts.look pno).isNone then 0 else (s.part pno).level cls

/-- A head's HSTAT and an encoder's ECFG as the operator reads them (R91): each count under the class of event counters;
what is no count is shown at level 3 only (DESIGN CHOICE, log entry 121). -/
def Head.shown (x : Head) (lev : Nat) : Nat :=
  coarseCount lev x.fdrop * 2 ^ 40 + coarseCount lev x.lxcl * 2 ^ 32 + coarseCount lev x.frame
def Enc.shown (x : Enc) (lev : Nat) : Nat :=
  coarseCount lev x.edrop * 2 ^ 32 + if lev = 3 then b2n x.key * 2 ^ 8 + x.qp else 0

/-- A register of a thread that a debug stop holds, as the operator reads it (R50): at level 3 only. -/
def State.stopShown (s : State) (pno c sl : Nat) (a : Word) : Nat :=
  match s.thread? c sl with
  | some t =>
    if s.corePart c = some pno && s.opLevel pno 6 = 3 && t.dbg && s.atRest t then (s.targetReg pno c sl a.toNat).toNat else 0
  | none => 0

/-- Value that an operator reads (R50 to R52, R91, R274). -/
def State.disclosed (s : State) (pno : Nat) (q : DiscQuery) : Nat :=
  let p := s.part pno
  let lev := s.opLevel pno
  let mine := fun (c : Nat) => s.corePart c = some pno
  match q with
  | .coreCounter c i => if mine c then coarseCount (lev 1) ((s.core c).ctrs.lookD i 0) else 0
  | .engineCounter cl i => if mine (8 * cl) then coarseCount (lev 1) ((s.cluster cl).ectrs.lookD i 0) else 0
  | .sliceCounter j k => coarseCount (lev 1) (p.slctrs.lookD (4 * j + k) 0)
  | .bucket cl eng b => if mine (8 * cl) then coarseCount (lev 4) (((s.cluster cl).buckets eng).getD b 0) else 0
  | .partState => if (s.parts.look pno).isNone then 0 else p.st
  | .corrected => if (s.parts.look pno).isNone then s.corrected0 else p.corrected
  | .uncorrectable => if (s.parts.look pno).isNone then s.uncorrected0 else p.uncorrected
  | .fatalFaults => p.fatalsShown
  | .power => Config.powerReading s.clk
  | .dieTemp d => Config.dieTemperature d s.clk
  | .throttles => s.powerEvents
  | .trips => s.trips
  | .queueHead i => coarseCount (lev 1) (p.queues.lookD i Queue.zero).head
  | .queueInfl i => coarseCount (lev 1) (p.infl i)
  | .queueState i => (p.queues.lookD i Queue.zero).err * 16 + (p.queues.lookD i Queue.zero).qst
  | .forwarded => coarseCount (lev 1) (s.fwdCounts.lookD p.tsid 0)
  | .dramCount k => coarseCount (lev 1) (s.dramCounts.lookD (65536 * k + p.tsid) 0)
  | .bridgeCount k => coarseCount (lev 1) (s.bridgeCounts.lookD (65536 * k + p.tsid) 0)
  | .hostLinkCount => coarseCount (lev 1) (s.hostCounts.lookD p.tsid 0)
  | .ringLost => coarseCount (lev 1) p.odrop
  | .hstat h => if bit p.headm h then (p.rink.heads.lookD h Head.zero).shown (lev 1) else 0
  | .lepc x => coarseCount (lev 1) (p.rink.lepc.lookD x 0)
  | .lrqn => coarseCount (lev 1) (p.rink.queue.length % 8192)
  | .ewp e => if bit p.encm e then coarseCount (lev 1) (p.rink.encs.lookD e Enc.zero).ewp else 0
  | .ecfg e => if bit p.encm e then (p.rink.encs.lookD e Enc.zero).shown (lev 1) else 0
  | .figure cls code => if p.st = 2 || (s.parts.look pno).isNone then 0 else p.figures.lookD (65536 * cls + code) 0
  | .stopReg c sl a => s.stopShown pno c sl a

/-- OPERATOR_DISCLOSURE_READ (R50). -/
def execOperatorDisclosureRead (part : Nat) (query : DiscQuery) (s : State) : Res :=
  .next (s.say (.disclosed (s.disclosed part query)))

/-- Length of a disclosure interval in fabric cycles: MINIV, or 1 ms with no policy in force (R53). -/
def Part.interval (p : Part) : Nat :=
  match p.policy with
  | some pol => pol.miniv * 1600
  | none => 1600000

/-- The sums of a partition's Rink registers, under codes of the model's own. -/
def Part.rinkCounts (p : Part) : List (Nat × Nat) :=
  let sum := fun (l : List Nat) => l.foldl (· + ·) 0
  let hs := ((List.range 32).filter fun h => bit p.headm h).map fun h => p.rink.heads.lookD h Head.zero
  let es := ((List.range 32).filter fun e => bit p.encm e).map fun e => p.rink.encs.lookD e Enc.zero
  [(0xF007, sum (hs.map Head.fdrop)), (0xF008, sum (hs.map Head.lxcl)), (0xF009, sum (hs.map Head.frame)),
    (0xF00A, sum (es.map Enc.edrop)), (0xF00B, sum (es.map Enc.ewp)), (0xF00C, sum (p.rink.lepc.map Prod.snd)),
    (0xF00D, p.rink.queue.length % 8192)]

/-- Figures of the class of event counters that no selector names: HEAD and INFL of the queues, packets forwarded, records
lost, the shares of the DRAM controllers, the bridges and the host link (R52, R59, R274), and the Rink's counts (FDROP, LXCL
and FRAME of the heads, EDROP and EWP of the encoders, the light epochs and LRQN: R91), under codes of the model's own (DESIGN
CHOICE, log entry 102). -/
def State.sharedCounts (s : State) (pno : Nat) : List (Nat × Nat) :=
  let p := s.part pno
  let sum := fun (l : List Nat) => l.foldl (· + ·) 0
  let mine := fun (m : KMap Nat) => sum ((m.filter fun e => e.1 % 65536 = p.tsid).map Prod.snd)
  [(0xF000, sum (p.queues.map fun e => e.2.head)), (0xF001, sum (p.queues.map fun e => p.infl e.1)),
    (0xF002, s.fwdCounts.lookD p.tsid 0), (0xF003, p.odrop), (0xF004, mine s.dramCounts), (0xF005, mine s.bridgeCounts),
    (0xF006, s.hostCounts.lookD p.tsid 0)] ++ p.rinkCounts

/-- The counters of a partition's sources, with the events they count. -/
def State.allCounters (s : State) (pno : Nat) : List (Nat × Nat) :=
  let p := s.part pno
  let cs := s.cores.filter fun e => s.corePart e.1 = some pno
  let cls := s.clusters.filter fun e => s.corePart (8 * e.1) = some pno
  (cs.flatMap fun e => e.2.ctrs.map fun c => (bits (e.2.cevs.lookD c.1 0).toNat 15 0, c.2))
  ++ (cls.flatMap fun e => e.2.ectrs.map fun c => (bits (e.2.esel.lookD c.1 0).toNat 15 0, c.2))
  ++ (p.slctrs.map fun c => (bits (p.slsel.lookD (c.1 % 4) 0).toNat 15 0, c.2)) ++ s.sharedCounts pno

/-- The figures of a class, by 65,536 times the class plus an event, a state, a bucket or a cause (R50): counters and
histograms as they stand, the rest as it was gathered. -/
def State.classFigures (s : State) (pno cls : Nat) : KMap Nat :=
  let add := fun (m : KMap Nat) (e : Nat × Nat) => m.put (65536 * cls + e.1) (m.lookD (65536 * cls + e.1) 0 + e.2)
  if cls = 1 then (s.allCounters pno).foldl add []
  else if cls = 4 then
    let mine := s.clusters.filter fun e => s.corePart (8 * e.1) = some pno
    (List.range 16).foldl (fun m b =>
      add m (b, (mine.flatMap fun e => [0, 1, 2].map fun g => (e.2.buckets g).getD b 0).foldl (· + ·) 0)) []
  else (s.part pno).gather.filter fun e => e.1 / 65536 = cls

/-- What level 1 gives of a class at an interval's end (R50, R259): one record of kind 20 with the aggregate in ADDR; its
figures are read one by one. Counts gathered under a policy that granted level 1 keep that form after a switch (R49). DESIGN
CHOICE (log entry 122): a counter's or a histogram's figure is its value at the interval's end, not its increase. -/
def State.levelOneClass (s : State) (pno cls : Nat) : State :=
  let p := s.part pno
  let kept := p.gather.any fun e => e.1 / 65536 = cls
  if p.level cls ≠ 1 && !kept then s
  else
    let figs := if p.level cls = 1 then s.classFigures pno cls else p.gather.filter fun e => e.1 / 65536 = cls
    let total := (figs.map Prod.snd).foldl (· + ·) 0
    (s.modPart pno fun p => { p with figures := figs.foldl (fun (m : KMap Nat) e => m.put e.1 e.2) p.figures }).opRecord
      { s.obs 20 pno with code := cls, addr := total }

/-- DISCLOSURE_INTERVAL_END (R50, R53). -/
def execDisclosureIntervalEnd (part : Nat) (s : State) : Res :=
  match s.parts.look part with
  | none => .next s
  | some p =>
    let e := p.intervalAt + p.interval
    let s := ((s.pass (Config.clkAt e)).spendAll part).modPart part fun p => { p with figures := [] }
    let s := if p.st = 2 then s else [1, 2, 3, 4, 5].foldl (fun (s : State) cls => s.levelOneClass part cls) s
    .next (s.modPart part fun p => { p with gather := [], fatalsShown := p.fatals, intervalAt := max e s.fab })

end Sys2Proof.Machine
end

