-- ==== Sys2Proof/Machine/SysReg.lean ====
section
/-!
DEFINITION. Group 0xD: TRAP, BKPT and RFT (R336, R337, R255, R386), the system registers (R338 to R340), TLBINV and
CINV (R341, R342), STOPW and RESW (R343, R222, R223), LOGMK and CNTRD (R344, R345).
-/

namespace Sys2Proof.Machine

/-! ### Traps by instruction, and the return -/

/-- TRAP (R336). -/
def execTrap (p : Pred) (imm : BitVec 33) : State → Res := issue p none [] fun s => s.trap .swtrap (imm33 imm)

/-- BKPT (R336). -/
def execBkpt (p : Pred) : State → Res := issue p none [] fun s => s.trap .bkpt 0

/-- A thread's faulted and held entries that `f` picks restart with their captured values (R255), behind those entries of
the thread that go ahead of them: what its handler dispatched and is not yet performed (R254). -/
def Core.restart (x : Core) (sth : Nat) (f : Entry → Bool) : Core :=
  let mine := fun (e : Entry) => e.sth = sth && e.still && f e
  let back := (x.ring.filter mine).map fun e => { e with st := EntSt.waiting }
  match (x.ring.filter fun e => e.sth = sth && !e.still).getLast? with
  | none => { x with ring := x.ring.map fun e => if mine e then { e with st := .waiting } else e }
  | some l => { x with ring := x.ring.flatMap fun e => if mine e then [] else if e.seq = l.seq then e :: back else [e] }

/-- Which held entries a return acts on: all of them after a VLATE (R255); after another late cause an ENQ that it
held (R386); none after any other cause. -/
def rftActs (code : Nat) (e : Entry) : Bool :=
  code = Cause.code .vlate || ((code = Cause.code .elate || code = Cause.code .mcnt) && e.isEnq)

/-- The return from a handler (R337): the held entries are acted on, ACT is 0, and the thread goes on at TPC. It then
waits for an ENQ that is to be accepted (R386). -/
def State.rft (s : State) : State :=
  let t := s.me
  let c := s.cur.core
  if !t.act then s.retireTo t.tpc
  else
    let n := t.tcause.toNat
    let s := (s.modMe fun t => { t with tcause := Word.ofNat (t.tcause.toNat % 2 ^ 63) }).retireTo t.tpc
    let s := s.leaveHandler c t.sth
    let s := if t.dbg then (s.noteState c s.cur.slot 3).stir c else s
    if bit n 61 then
      let s := s.modMyCore fun x => x.restart t.sth (rftActs (n % 256))
      match enqEntry s.myCore t.sth with
      | some e => s.parkMe (.enq e.seq)
      | none => s
    else (s.discard c t.sth (rftActs (n % 256))).cbldSettle (clusterOf c)

/-- RFT (R337). -/
def execRft (p : Pred) : State → Res :=
  issue p none [] fun s => if goodTarget s.me.tpc then s.rft else s.trap .align s.me.tpc

/-! ### System registers (R338, R339) -/

/-- Registers that SRRD reads at KER level and above. -/
def readsAtKer (n : Nat) : Bool :=
  n = 0x101 || (0x130 ≤ n && n ≤ 0x137) || n = 0x200 || n = 0x201 || (0x204 ≤ n && n ≤ 0x206) || n = 0x210
  || (0x214 ≤ n && n ≤ 0x21C) || (0x240 ≤ n && n ≤ 0x243)

/-- Registers that SRWR writes at KER level and above. -/
def writesAtKer (n : Nat) : Bool :=
  n = 0x100 || n = 0x104 || n = 0x105 || (0x138 ≤ n && n ≤ 0x13F) || n = 0x200 || n = 0x201 || (0x204 ≤ n && n ≤ 0x206)
  || n = 0x210 || (0x214 ≤ n && n ≤ 0x21C) || (0x240 ≤ n && n ≤ 0x243) || (0x320 ≤ n && n ≤ 0x33F)
  || (0x350 ≤ n && n ≤ 0x36B) || (0x370 ≤ n && n ≤ 0x372)

/-- Registers that SRWR takes no write of at any level: ILLOPND. -/
def noWrite (n : Nat) : Bool :=
  n = 0x001 || n = 0x011 || n = 0x013 || n = 0x014 || n = 0x015 || (0x110 ≤ n && n ≤ 0x12F)

/-- Registers whose writes are ignored at FW and raise PRIV below it. -/
def writesAtFw (n : Nat) : Bool := n = 0x101 || (0x130 ≤ n && n ≤ 0x137)

/-- WGST as a thread reads it (R127). -/
def State.wgst (s : State) (t : Thread) : Word :=
  let cl := clusterOf s.cur.core
  let x := s.cluster cl
  let (free, mine) := match x.wg with
    | some g => (g.p - g.used.length, b2n (g.lid = t.lid && g.part = s.myPartNo))
    | none => (0, 0)
  Word.ofNat (free % 2 ^ 16 * 2 ^ 32 + (s.allocators cl).length % 2 ^ 16 * 2 ^ 16 + mine * 2 ^ 8 + x.wgcode * 2 ^ 4 + x.wgstate)

/-- DRCFG (R123). -/
def Disp.drcfg (d : Disp) : Word := Word.ofNat (d.lid * 2 ^ 32 + d.log2sz * 2 ^ 8 + b2n d.en)

/-- Registers of the Rink (R91): what names a head or an encoder outside the partition reads 0. -/
def Part.rinkReg (p : Part) (n : Nat) : Word :=
  if n ≤ 0x2BF then
    if bit p.headm (n - 0x2A0) then (p.rink.heads.lookD (n - 0x2A0) Head.zero).hstat else 0
  else if n ≤ 0x2DF then Word.ofNat (p.rink.lepc.lookD (n - 0x2C0) 0)
  else if n = 0x2E0 then Word.ofNat (p.rink.queue.length % 8192)
  else if n ≤ 0x31F then
    if bit p.encm (n - 0x300) then Word.ofNat (p.rink.encs.lookD (n - 0x300) Enc.zero).ewp else 0
  else if bit p.encm (n - 0x320) then (p.rink.encs.lookD (n - 0x320) Enc.zero).ecfg else 0

/-- A register of the partition by its number. -/
def State.partReg (s : State) (t : Thread) (n : Nat) : Word :=
  let p := s.myPart
  match n with
  | 0x210 => p.ptbr
  | 0x215 => t.cpstat
  | 0x216 => p.obase
  | 0x217 => p.ocfg
  | 0x218 => Word.ofNat p.otail
  | 0x219 => Word.ofNat p.ohead
  | 0x21A => s.dbgsValue p
  | 0x21B => p.dbga
  | 0x21C => s.dbgdValue s.myPartNo
  | 0x241 => p.dpstat
  | 0x242 => p.rltb
  | 0x243 => Word.ofNat p.rltn
  | _ =>
    if 0x260 ≤ n && n ≤ 0x29F then (s.trig s.myPartNo (n - 0x260)).word
    else if 0x2A0 ≤ n && n ≤ 0x33F then p.rinkReg n
    else if 0x368 ≤ n && n ≤ 0x36B then p.slsel.lookD (n - 0x368) 0
    else 0

/-- A register of the core or the cluster by its number. -/
def State.coreReg (s : State) (t : Thread) (n : Nat) : Word :=
  let x := s.myCore
  let cl := s.myCluster
  match n with
  | 0x100 => Word.ofNat (b2n x.te)
  | 0x101 => Word.ofNat (s.tsidOf s.cur.core)
  | 0x103 => Word.ofNat x.seqnow
  | 0x104 => Word.ofNat x.trcfg
  | 0x105 => Word.ofNat x.slcfg
  | 0x200 => cl.disp.base
  | 0x201 => cl.disp.drcfg
  | 0x202 => Word.ofNat cl.disp.tail
  | 0x203 => Word.ofNat cl.disp.head
  | 0x204 => match cl.wg with | some g => g.addr | none => 0
  | 0x205 => s.wgst t
  | 0x206 => cl.payb
  | _ =>
    if 0x110 ≤ n && n ≤ 0x11F then x.sclReg (n - 0x110)
    else if 0x120 ≤ n && n ≤ 0x12F then Word.ofNat (x.zone (n - 0x120))
    else if 0x130 ≤ n && n ≤ 0x137 then x.sqo (n - 0x130)
    else if 0x138 ≤ n && n ≤ 0x13F then x.cevs.lookD (n - 0x138) 0
    else if 0x350 ≤ n && n ≤ 0x367 then cl.esel.lookD (n - 0x350) 0
    else if 0x370 ≤ n && n ≤ 0x372 then cl.hcfg.lookD (n - 0x370) 0
    else 0

/-- A number of a register of the partition. -/
def isPartReg (n : Nat) : Bool := (0x210 ≤ n && n ≤ 0x33F) || (0x368 ≤ n && n ≤ 0x36B)

/-- The value that SRRD reads (R339). -/
def State.sysReg (s : State) (n : Nat) : Word :=
  let t := s.me
  match t.reg (s.torg s.myPartNo t) n with
  | some v => v
  | none => if isPartReg n then s.partReg t n else s.coreReg t n

/-- SRRD (R338). -/
def execSrrd (p : Pred) (d : Code) (num : BitVec 12) : State → Res :=
  issue p (some (rg d)) [] fun s =>
    if readsAtKer num.toNat && s.me.pl = 0 then s.trapWord .priv
    else (s.wr d (s.sysReg num.toNat)).retire

/-- The fields of a counter's selector (R273). -/
def selectorKeep (v : Word) : Word := Word.ofNat (bits v.toNat 63 32 * 2 ^ 32 + v.toNat % 2 ^ 17)

/-- A write of a register of the partition. Those that are releases are not here. -/
def State.partWrite (s : State) (n : Nat) (v : Word) : State :=
  let pno := s.myPartNo
  let w := v.toNat
  match n with
  | 0x210 => s.modPart pno fun p => { p with ptbr := Word.ofNat (bits w 51 12 * 2 ^ 12 + w % 2) }
  | 0x214 => s.cpreqWrite s.cur.core s.cur.slot v
  | 0x216 => s.obaseWrite pno v
  | 0x217 => s.ocfgWrite pno v
  | 0x219 => s.modPart pno fun p => { p with ohead := w % 2 ^ 32 }
  | 0x21A => s.dbgsWrite pno v
  | 0x21B => s.modPart pno fun p => { p with dbga := dbgaKeep v }
  | 0x21C => s.dbgdSet pno v
  | 0x240 => s.dploadEffect pno v
  | 0x242 => s.modPart pno fun p => { p with rltb := Word.ofNat (w / 32 * 32) }
  | 0x243 => s.modPart pno fun p => { p with rltn := min w 256 }
  | _ =>
    if 0x320 ≤ n && n ≤ 0x33F then s.ecfgWrite pno (n - 0x320) v
    else if 0x368 ≤ n && n ≤ 0x36B then s.modPart pno fun p => { p with slsel := p.slsel.put (n - 0x368) (selectorKeep v) }
    else s

/-- A write of a register of the core or the cluster. DTAIL, which is a release, is not here. -/
def State.coreWrite (s : State) (n : Nat) (v : Word) : State :=
  let c := s.cur.core
  let cl := clusterOf c
  let w := v.toNat
  match n with
  | 0x100 => s.modMyCore fun x => { x with te := bit w 0 }
  | 0x104 => s.modMyCore fun x => { x with trcfg := w % 16 }
  | 0x105 => s.slcfgWrite c v
  | 0x200 => s.drbaseWrite cl v
  | 0x201 => s.drcfgWrite c s.cur.slot v
  | 0x204 => s.wgdaWrite c s.cur.slot v
  | 0x206 => s.modCluster cl fun x => { x with payb := Word.ofNat (w / 2 ^ 16 * 2 ^ 16) }
  | _ =>
    if 0x138 ≤ n && n ≤ 0x13F then s.modMyCore fun x => { x with cevs := x.cevs.put (n - 0x138) (selectorKeep v) }
    else if 0x350 ≤ n && n ≤ 0x367 then s.modCluster cl fun x => { x with esel := x.esel.put (n - 0x350) (selectorKeep v) }
    else if 0x370 ≤ n && n ≤ 0x372 then s.hcfgWrite cl (n - 0x370) v
    else s

/-- The effect of a write that the register takes, and the instruction's completion (R338). -/
def State.sysWrite (s : State) (n : Nat) (v : Word) : State :=
  if n < 0x100 then (s.modMe fun t => t.setReg n v).retire
  else if n = 0x202 then s.takeSources.releaseThen .pkg fun s => (s.dtailWrite (clusterOf s.cur.core) v).retire
  else if 0x260 ≤ n && n ≤ 0x29F then s.takeSources.releaseThen .sys fun s => (s.trigRequest s.myPartNo (n - 0x260)).retire
  else if isPartReg n then (s.partWrite n v).retire
  else (s.coreWrite n v).retire

/-- SRWR (R338): what a register's rule refuses, then the level, then MODE's values (R235). -/
def execSrwr (p : Pred) (a : Code) (num : BitVec 12) : State → Res :=
  issue p none [rg a] fun s =>
    let n := num.toNat
    let v := s.operand [a] 0
    if noWrite n then s.trap .illopnd (num.setWidth 64)
    else if (writesAtKer n && s.me.pl = 0) || (writesAtFw n && s.me.pl < 2) then s.trapWord .priv
    else if n = 0 && !modeOk v then s.trapWord .illmod
    else s.sysWrite n v

/-! ### TLBINV and CINV -/

/-- TLBINV (R341). The invalidation is made at once; the thread learns of it within 64 core cycles. -/
def execTlbinv (p : Pred) (a : Code) (all : Bool) : State → Res :=
  issue p none [rg a] fun s =>
    let ts := s.tsidOf s.cur.core
    let v := (s.operand [a] 0).toNat
    if s.me.prog.finished then s.retire
    else s.takeSources.releaseThen .pkg fun s =>
      if all then (s.invalidateAll ts).parkMe (.tlbinv (s.clk + 64))
      else if 2 ^ 57 ≤ v then s.trap .align (s.operand [a] 0)
      else if isWindow v then s.retire
      else (s.invalidatePage ts v).parkMe (.tlbinv (s.clk + 64))

/-- CINV (R342). -/
def execCinv (p : Pred) (a : Code) (x : CinvKind) : State → Res :=
  issue p none [rg a] fun s =>
    let ts := s.tsidOf s.cur.core
    let v := (s.operand [a] 0).toNat
    let one := fun (size : Nat) (f : Core → (Line → Bool) → Core) =>
      if 2 ^ 57 ≤ v then s.trap .align (s.operand [a] 0)
      else if isWindow v then s.retire
      else match s.physAny (.core s.cur.core) s.myPartNo v with
        | some pa => (s.modMyCore fun y => f y fun l => !(l.tsid = ts && l.addr = pa / size * size)).retire
        | none => s.retire
    let data := fun (y : Core) (keep : Line → Bool) => { y with dcache := y.dcache.filter keep }
    let code := fun (y : Core) (keep : Line → Bool) => { y with icache := y.icache.filter keep }
    match x with
    | .line => one 32 data
    | .iline => one 64 code
    | .all => (s.modMyCore fun y => data y fun l => l.tsid ≠ ts).retire
    | .iall => (s.modMyCore fun y => code y fun l => l.tsid ≠ ts).retire

/-! ### STOPW and RESW (R222, R343) -/

/-- STOPW (R343). -/
def execStopw (p : Pred) (sc : Scope) : State → Res :=
  issue p none [] fun s =>
    if sc.code = 0 || s.me.prog.finished then (s.acquire sc).retire
    else (s.stopAll s.myPartNo s.cur.core s.me.sth sc).parkMe (.stopw sc)

/-- A thread that a RESW lets go: one parked before the stop resumes its parking under its own bound (R222). -/
def Thread.release1 (t : Thread) (m : Nat × Nat × Nat) : Thread :=
  if !t.stopped.contains m then t
  else
    let t := { t with stopped := t.stopped.filter (· ≠ m) }
    match t.stopped, t.park with
    | [], some ⟨.remote _, _, _⟩ => t
    | [], some _ => t.again
    | _, _ => t

/-- The threads of a core that a stop of the issuer stopped go on. -/
def State.goCore (s : State) (c : Nat) (m : Nat × Nat × Nat) : State :=
  let x := s.core c
  let hit := fun (t : Thread) => t.stopped.contains m && t.stopped.all (· = m)
  let parked := (x.threads.filter fun e => hit e.2 && e.2.park.isSome && !e.2.inEnq).map fun e => (c, e.2.sth)
  let x' := { x with
    threads := KMap.mapVals (fun (t : Thread) => t.release1 m) x.threads,
    displaced := x.displaced.map (fun (e : Thread × List Word) => (e.1.release1 m, e.2)),
    saved := x.saved.map fun (t : Thread) => t.release1 m }
  let s := parked.foldl (fun (s : State) e => s.unwatch e.1 e.2) (s.setCore c x')
  x'.threads.foldl (fun (s : State) (e : Nat × Thread) => if (x.threads.look e.1).any hit then s.noteState c e.1 e.2.logState else s) s

/-- RESW (R222, R343): with no stop of the issuer at this scope it is only a release. -/
def execResw (p : Pred) (sc : Scope) : State → Res :=
  issue p none [] fun s => s.releaseThen sc fun s =>
    let m := stopMark s.cur.core s.me.sth sc
    ((s.partCores s.myPartNo).foldl (fun (s : State) c => s.goCore c m) s).retire

/-! ### LOGMK and CNTRD -/

/-- LOGMK (R344). -/
def execLogmk (p : Pred) (a : Code) : State → Res :=
  issue p none [rg a] fun s =>
    let v := s.operand [a] 0
    let r := { s.obsThread 16 s.myPartNo s.cur.core s.cur.slot s.me s.me.pc.toNat with code := 0, addr := v.toNat }
    (if bit s.myCore.trcfg 0 then s.emit r else s).retire

/-- A counter by its number (R273); any other number reads 0. -/
def State.counter (s : State) (n : Nat) : Nat :=
  let cl := s.myCluster
  let p := s.myPart
  if n < 8 then s.myCore.ctrs.lookD n 0
  else if 0x10 ≤ n && n ≤ 0x27 then cl.ectrs.lookD (n - 0x10) 0
  else if 0x30 ≤ n && n ≤ 0x5F then (cl.buckets ((n - 0x30) / 16)).getD (n % 16) 0
  else if 0x100 ≤ n && (n - 0x100) / 4 < p.slices then p.slctrs.lookD (n - 0x100) 0
  else 0

/-- CNTRD (R345). -/
def execCntrd (p : Pred) (d : Code) (num : BitVec 12) : State → Res :=
  issue p (some (rg d)) [] fun s => (s.wr d (Word.ofNat (s.counter num.toNat % 2 ^ 64))).retire

end Sys2Proof.Machine
end

