-- ==== Sys2Proof/Machine/HostRegs.lean ====
section
/-!
DEFINITION. The registers that the host reaches through the base address registers (R20): doorbell pages (R54, R55,
R191) and the device-control registers of the PF (R22, R23, R30, R32, R35, R259).
-/

namespace Sys2Proof.Machine

/-- A write at an offset of a partition's doorbell pages (R54, R55, R191); reserved offsets discard it. -/
def State.pageWrite (s : State) (pno off : Nat) (v : Word) : State :=
  let q := off / 4096
  match off % 4096 with
  | 0x000 => s.qdbWrite pno q v
  | 0x008 => s.qbaseWrite pno q v
  | 0x010 => s.qcfgWrite pno q v
  | 0x020 => s.qdtwWrite pno q v
  | 0x028 => s.qdtbWrite pno q v
  | r =>
    if q ≠ 0 then s
    else match r with
      | 0x800 => s.modPart pno fun p => { p with apbase := Word.ofNat (v.toNat / 2 ^ 34 * 2 ^ 34) }
      | 0x808 => s.ifvwWrite pno v
      | 0x820 => s.frbaseWrite pno v
      | 0x828 => s.frcfgWrite pno v
      | 0x830 => s.frheadSet pno v
      | 0x840 => s.fresWrite pno (v.toNat % 2 ^ 32) (bits v.toNat 33 32)
      | _ => s

/-- A write at an offset of the PF's device-control registers. -/
def State.pfWrite (s : State) (off : Nat) (v : Word) : Res :=
  match off with
  | 0x000000 => execDevnumWrite v s
  | 0x010100 => .next (s.phcmdWrite v)
  | 0x010108 => .next (if s.phstate = 1 then s else { s with phres := v })
  | 0x010110 => .next (if s.phstate = 1 then s else { s with phkey := v })
  | 0x020000 => .next (s.olbaseWrite v)
  | 0x020008 => .next (s.olcfgWrite v)
  | 0x020010 => .next { s with olog := { s.olog with head := v.toNat % 2 ^ 32 } }
  | _ =>
    if 0x040000 ≤ off && off < 0x040400 && off % 64 = 0 then
      let n := (off - 0x040000) / 64
      let s := s.modPort n fun p => { p with vero := bits v.toNat 47 40 }
      if bit v.toNat 2 then execGpsRetrain n s else .next s
    else if 0x050000 ≤ off && off < 0x052000 && off % 8 = 0 then
      .next { s with grt := KMap.putD 0 s.grt ((off - 0x050000) / 8) (v.toNat % 2 ^ 16) }
    else .next s

/-- The partition and the page offset that a host access names, if it names doorbell pages. -/
def hostPage : HostFn → Nat → Option (Nat × Nat)
  | .vf n, off => if 1 ≤ n && n ≤ 16 && off < 0x100000 then some (n - 1, off) else none
  | .pf, off => if 0x100000 ≤ off && off < 0x1100000 then some ((off - 0x100000) / 0x100000, off % 0x100000) else none

/-- HOST_REGISTER_WRITE (R9, R20): a 64-bit write at a BAR0 offset. -/
def execHostRegisterWrite (fn : HostFn) (off : Nat) (v : Word) (s : State) : Res :=
  match hostPage fn off with
  | some (pno, o) => s.hostPart pno fun s => s.pageWrite pno o v
  | none =>
    match fn with
    | .pf => s.pfWrite off v
    | .vf _ => .next s

/-! ### Values that the host reads (R20, R54, R55, R191, R22, R23, R30, R32, R35, R259) -/

/-- QSTAT (R54). -/
def State.qstat (s : State) (pno q : Nat) : Word :=
  let x := s.queue pno q
  Word.ofNat (x.head * 2 ^ 32 + (s.part pno).infl q % 2 ^ 16 * 2 ^ 16 + x.err * 2 ^ 4 + x.qst)

/-- QCFG (R54). -/
def Queue.qcfg (x : Queue) : Word := Word.ofNat (x.log2sz * 2 ^ 8 + b2n x.ken * 4 + b2n x.pause * 2 + b2n x.en)

/-- A register of a doorbell page; a reserved offset reads all ones. -/
def State.pageRead (s : State) (pno off : Nat) : Word :=
  let q := off / 4096
  let x := s.queue pno q
  let p := s.part pno
  match off % 4096 with
  | 0x000 => 0
  | 0x008 => x.base
  | 0x010 => x.qcfg
  | 0x018 => s.qstat pno q
  | 0x020 => x.qdtw
  | 0x028 => x.qdtb
  | r =>
    if q ≠ 0 then allOnes
    else match r with
      | 0x800 => p.apbase
      | 0x808 => Word.ofNat p.want
      | 0x810 => Word.ofNat p.grant
      | 0x820 => p.frbase
      | 0x828 => Word.ofNat (p.frlog2 * 2 ^ 8 + b2n p.fren)
      | 0x830 => Word.ofNat p.frhead
      | 0x838 => Word.ofNat p.frtail
      | 0x840 => 0
      | _ => allOnes

/-- GPSn (R23). -/
def Port.gps (p : Port) : Word := Word.ofNat (p.verg * 2 ^ 48 + p.vero * 2 ^ 40 + p.peer * 2 ^ 30 + p.st)

/-- A device-control register of the PF. -/
def State.pfRead (s : State) (off : Nat) : Word :=
  match off with
  | 0x000000 => Word.ofNat s.devnum
  | 0x010100 => 0
  | 0x010108 => s.phres
  | 0x010110 => s.phkey
  | 0x010118 => Word.ofNat (s.phcode * 2 ^ 4 + s.phstate)
  | 0x020000 => s.olog.base
  | 0x020008 => s.olog.olcfg
  | 0x020010 => Word.ofNat s.olog.head
  | 0x020018 => Word.ofNat s.olog.tail
  | _ =>
    if 0x010000 ≤ off && off < 0x010080 && off % 8 = 0 then s.qmapOf ((off - 0x010000) / 8)
    else if 0x040000 ≤ off && off < 0x040400 && off % 64 = 0 then (s.ports.lookD ((off - 0x040000) / 64) Port.zero).gps
    else if 0x050000 ≤ off && off < 0x052000 && off % 8 = 0 then Word.ofNat (s.grt.lookD ((off - 0x050000) / 8) 0)
    else allOnes

/-- QSTAT as the operator reads it (R59): HEAD and INFL are event counters of the partition under its disclosure policy. -/
def State.qstatShown (s : State) (pno q : Nat) : Word :=
  let x := s.queue pno q
  let lev := s.opLevel pno 1
  Word.ofNat (coarseCount lev x.head * 2 ^ 32 + coarseCount lev ((s.part pno).infl q % 2 ^ 16) * 2 ^ 16 + x.err * 2 ^ 4 + x.qst)

/-- What a host read of a BAR0 offset returns: of a partition that is not live, all ones. DESIGN CHOICE (log entry 123): a
partition stopped by machine-check counts as live for its doorbell pages. -/
def State.hostReg (s : State) (fn : HostFn) (off : Nat) : Word :=
  match hostPage fn off with
  | some (pno, o) =>
    match s.parts.look pno with
    | some p =>
      if p.st = 2 then allOnes
      else if fn = .pf && o % 4096 = 0x018 then s.qstatShown pno (o / 4096)
      else s.pageRead pno o
    | none => allOnes
  | none =>
    match fn with
    | .pf => s.pfRead off
    | .vf _ => allOnes

end Sys2Proof.Machine
end

