-- ==== Sys2Proof/Machine/Ray.lean ====
section
/-!
DEFINITION. Group 0xC, reads through the sampler cache (R415): the ray unit (R416 to R419), the traversal stack (R420,
R421) and the sampler (R422 to R424).
-/

namespace Sys2Proof.Machine

/-! ### The cluster sampler cache (R213, R415) -/

/-- Adds a line to a sampler cache of 2,048 lines of 32 bytes. -/
def scacheAdd (l : List Line) (n : Line) : List Line :=
  (n :: l.filter fun e => !(e.tsid = n.tsid && e.addr = n.addr)).take 2048

/-- The line that the cache still holds of a cell: a capacity eviction may have taken it since its fill, whichever lines came
in (R213, R439), which is a choice of the list (log entry 6). -/
def State.scKept (s : State) (ts a : Nat) : Option Line × State :=
  match s.myCluster.scache.find? fun e => e.tsid = ts && e.addr = a with
  | none => (none, s)
  | some e =>
    let (lost, s) := s.choose
    (if lost = 0 then some e else none, s)

/-- Reads the cells at some physical addresses through the cache: none on poison. -/
def State.scCells (s : State) : List Nat → Option (List Byte) × State
  | [] => (some [], s)
  | c :: l =>
    let a := 32 * c
    let ts := s.tsidOf s.cur.core
    let (kept, s) := s.scKept ts a
    match kept with
    | some e =>
      if e.bad then (none, s)
      else
        let (r, s) := State.scCells s l
        (r.map fun bs => e.data ++ bs, s)
    | none =>
      if s.dramPoisoned a 32 then (none, s)
      else
        let d := s.dramBytes s.myPart.keyGen a 32
        let s := (s.modMyCluster fun x => { x with scache := scacheAdd x.scache ⟨ts, a, d, false⟩ }).sliceSee s.myPartNo [(a, 32)]
        let (r, s) := State.scCells s l
        (r.map fun bs => d ++ bs, s)

/-- The cells that a read's parts, one for each page, lie in: each part translates, or faults at its own address; the window
is no virtual address (R173). -/
def State.smplCells (s : State) : List (Nat × Nat) → (List Nat → State → State) → State
  | [], k => k [] s
  | (a, n) :: l, k =>
    if isWindow a then badAccess .read .prot (Word.ofNat a) s
    else s.xlate (Word.ofNat a) .read (badAccess .read) fun pa s =>
      State.smplCells s l fun cells s => k (cellsOf pa n ++ cells) s

/-- A read of `n` bytes, at most a page, at an address that is a multiple of `al` (R415). -/
def State.smplRead (s : State) (ea : Word) (n al : Nat) (k : List Byte → State → State) : State :=
  let a := ea.toNat
  if 2 ^ 57 ≤ a || a % al ≠ 0 then badAccess .read .align ea s
  else if isWindow a then badAccess .read .prot ea s
  else
    s.smplCells (pageParts 2 a n) fun cells s =>
      match s.scCells cells with
      | (none, s) => badAccess .read .poison ea s
      | (some bs, s) => k ((bs.drop (a % 32)).take n) s

/-! ### Rays (R416 to R419) -/

def f32At (bs : List Byte) (i : Nat) : Val := f32.decode false false (leNat ((bs.drop (4 * i)).take 4))

structure Vec3 where
  x : Val
  y : Val
  z : Val
  deriving Repr

def Vec3.sub (a b : Vec3) : Vec3 := ⟨a.x.add .rne b.x.neg, a.y.add .rne b.y.neg, a.z.add .rne b.z.neg⟩
def Vec3.dot (a b : Vec3) : Val := ((a.x.mul b.x).add .rne (a.y.mul b.y)).add .rne (a.z.mul b.z)
def Vec3.cross (a b : Vec3) : Vec3 :=
  ⟨(a.y.mul b.z).add .rne (a.z.mul b.y).neg, (a.z.mul b.x).add .rne (a.x.mul b.z).neg, (a.x.mul b.y).add .rne (a.y.mul b.x).neg⟩
def Vec3.all (a : Vec3) (f : Val → Bool) : Bool := f a.x && f a.y && f a.z

structure Ray where
  o : Vec3
  d : Vec3
  tmin : Val
  tmax : Val
  deriving Repr

/-- The ray of a register group (R416). -/
def rayOf (g : Nat → Word) : Ray :=
  let f := fun (i : Nat) (hi : Bool) => f32.decode false false ((g i).toNat / (if hi then 2 ^ 32 else 1) % 2 ^ 32)
  ⟨⟨f 0 false, f 0 true, f 1 false⟩, ⟨f 1 true, f 2 false, f 2 true⟩, f 3 false, f 3 true⟩

def Ray.anyNan (r : Ray) : Bool :=
  !(r.o.all fun v => !v.isNan) || !(r.d.all fun v => !v.isNan) || r.tmin.isNan || r.tmax.isNan

/-- A real zero has no sign. -/
def plusZero (v : Val) : Val := if v.isZero then Val.zero false else v

/-- One slab (R418): the interval after it, or none where the child is skipped. -/
def slab (o d lo hi : Val) (t : Val × Val) : Option (Val × Val) :=
  if d.isZero then (if o.lt lo || hi.lt o then none else some t)
  else
    let p := plusZero ((lo.add .rne o.neg).div d)
    let q := plusZero ((hi.add .rne o.neg).div d)
    if p.isNan || q.isNan then none
    else
      let (a, b) := if d.isNeg then (q, p) else (p, q)
      let n := f32.decode false false (f32.encode false false .rdn a)
      let f := f32.decode false false (f32.encode false false .rup b)
      some (if t.1.lt n then n else t.1, if f.lt t.2 then f else t.2)

/-- The box test of one child (R418): near, if it is hit. -/
def boxHit (r : Ray) (lo hi : Vec3) : Option Val :=
  if !(lo.all fun v => !v.isNan) || !(hi.all fun v => !v.isNan) || hi.x.lt lo.x || hi.y.lt lo.y || hi.z.lt lo.z then none
  else
    match slab r.o.x r.d.x lo.x hi.x (r.tmin, r.tmax) with
    | none => none
    | some t =>
      match slab r.o.y r.d.y lo.y hi.y t with
      | none => none
      | some t =>
        match slab r.o.z r.d.z lo.z hi.z t with
        | none => none
        | some (n, f) => if f.lt n then none else some n

/-- Inserts a hit child by near, then by number. -/
def hitInsert (c : Nat × Val) : List (Nat × Val) → List (Nat × Val)
  | [] => [c]
  | d :: l => if c.2.lt d.2 then c :: d :: l else d :: hitInsert c l

/-- What BOXT writes (R418). -/
def boxResult (r : Ray) (node : List Byte) : Word :=
  let hits := (List.range 4).map fun i =>
    let kind := bits (leNat ((node.drop (96 + 8 * i)).take 8)) 2 0
    if kind = 0 || r.anyNan then none
    else boxHit r ⟨f32At node (6 * i), f32At node (6 * i + 1), f32At node (6 * i + 2)⟩
      ⟨f32At node (6 * i + 3), f32At node (6 * i + 4), f32At node (6 * i + 5)⟩
  let isHit := fun (i : Nat) => (hits.getD i none).isSome
  let order := (List.range 4).foldl (fun l i => match hits.getD i none with | some n => hitInsert (i, n) l | none => l) []
  let all := order.map Prod.fst ++ (List.range 4).filter fun i => !isHit i
  let near := match order with | (_, n) :: _ => f32.encode false false .rne n | [] => 0x7F800000
  Word.ofNat (near * 2 ^ 32 + (List.range 4).foldl (fun a p => a + all.getD p 0 * 2 ^ (4 + 2 * p)) 0
    + (List.range 4).foldl (fun a i => a + (if isHit i then 2 ^ i else 0)) 0)

/-- BOXT (R417, R418). -/
def execBoxt (p : Pred) (d a b : Code) : State → Res :=
  issue p (some (rg d)) [⟨a, .group 4 1⟩, rg b] fun s =>
    let r := rayOf fun i => s.myCore.greg s.me (a.toNat + i)
    s.smplRead (s.operand [b] 0) 128 128 fun node s => (s.wr d (boxResult r node)).retire

/-- What TRIT writes: its two registers (R419). -/
def triResult (r : Ray) (tri : List Byte) : Word × Word :=
  let v := fun (i : Nat) => (⟨f32At tri (3 * i), f32At tri (3 * i + 1), f32At tri (3 * i + 2)⟩ : Vec3)
  let fin := fun (x : Val) => match x with | .fin _ _ _ => true | _ => false
  let miss : Word × Word := (0x7F800000, 0)
  if !((v 0).all fin && (v 1).all fin && (v 2).all fin && r.o.all fin && r.d.all fin && fin r.tmin && fin r.tmax) then miss
  else
    let a := (v 0).sub r.o
    let b := (v 1).sub r.o
    let c := (v 2).sub r.o
    let e0 := r.d.dot (b.cross c)
    let e1 := r.d.dot (c.cross a)
    let e2 := r.d.dot (a.cross b)
    let sum := (e0.add .rne e1).add .rne e2
    let neg := fun (x : Val) => x.isNeg && !x.isZero
    let pos := fun (x : Val) => !x.isNeg && !x.isZero
    if sum.isZero || ((neg e0 || neg e1 || neg e2) && (pos e0 || pos e1 || pos e2)) then miss
    else
      let n := a.dot (((v 1).sub (v 0)).cross ((v 2).sub (v 0)))
      -- t = n / sum, compared exactly
      let lo := r.tmin.mul sum
      let hi := r.tmax.mul sum
      if (if neg sum then lo.lt n || n.lt hi else n.lt lo || hi.lt n) then miss
      else
        let q := fun (x : Val) => f32.encode false false .rne (plusZero (x.div sum))
        (Word.ofNat (2 ^ 32 + q n), Word.ofNat (q e2 * 2 ^ 32 + q e1))

/-- TRIT (R419). -/
def execTrit (p : Pred) (d a b : Code) : State → Res :=
  issue p (some ⟨d, .group 2 1⟩) [⟨a, .group 4 1⟩, rg b] fun s =>
    let r := rayOf fun i => s.myCore.greg s.me (a.toNat + i)
    s.smplRead (s.operand [b] 0) 48 16 fun tri s =>
      let (x, y) := triResult r tri
      ((s.wr d x).wr (d + 1) y).retire

/-! ### The traversal stack (R420, R421) -/

/-- Address of spilled entry `k`, counted from the bottom (R420). -/
def Thread.spillEntry (t : Thread) (k : Nat) : Word := t.tsbase + BitVec.ofNat 64 (8 * k)

/-- TSPUSH (R421). -/
def execTspush (p : Pred) (a : Code) : State → Res :=
  issue p none [rg a] fun s =>
    let t := s.me
    let v := s.operand [a] 0
    if v = allOnes then s.trap .illopnd (a.setWidth 64)
    else if t.tsdepth = 0xFFFFF then s.trap .prot (t.spillEntry (t.tsdepth - t.tsreg.length))
    else if t.tsreg.length < 4 then
      (s.modMe fun t => { t with tsreg := t.tsreg ++ [v], tsdepth := t.tsdepth + 1 }).retire
    else
      let ea := t.spillEntry (t.tsdepth - 4)
      let bottom := t.tsreg.headD 0
      s.locate false ea 8 .write (badAccess .write) fun pl s =>
        s.writeAt pl ea 8 bottom.toNat false fun s =>
          (s.modMe fun t => { t with tsreg := t.tsreg.drop 1 ++ [v], tsdepth := t.tsdepth + 1 }).retire

/-- TSPOP (R421). -/
def execTspop (p : Pred) (d : Code) : State → Res :=
  issue p (some (rg d)) [] fun s =>
    let t := s.me
    if t.tsdepth = 0 then (s.wr d allOnes).retire
    else
      match t.tsreg.getLast? with
      | some v => ((s.modMe fun t => { t with tsreg := t.tsreg.dropLast, tsdepth := t.tsdepth - 1 }).wr d v).retire
      | none =>
        let ea := t.spillEntry (t.tsdepth - 1)
        s.locate false ea 8 .read (badAccess .read) fun pl s =>
          s.readAt pl ea 8 false (badAccess .read) fun v s =>
            ((s.modMe fun t => { t with tsdepth := t.tsdepth - 1 }).wr d (Word.ofNat v)).retire

/-- TSCLR (R421). -/
def execTsclr (p : Pred) : State → Res :=
  issue p none [] fun s => (s.modMe fun t => { t with tsreg := [], tsdepth := 0 }).retire

/-! ### The sampler (R422 to R424) -/

/-- SLD (R422). -/
def execSld (p : Pred) (d a : Code) (sz : Size) : State → Res :=
  issue p (some (rg d)) [rg a] fun s =>
    let n := sizeBytes sz
    s.smplRead (s.operand [a] 0) n n fun bs s => (s.wr d (Word.ofNat (leNat bs))).retire

/-- A texture descriptor (R423). -/
structure Texture where
  base : Word
  w : Nat
  h : Nat
  pitch : Nat
  fmt : Nat
  rep : Bool
  deriving Repr

/-- Reads a descriptor; none where it breaks a limit. -/
def textureOf (bs : List Byte) : Option Texture :=
  let f := fun (o n : Nat) => leNat ((bs.drop o).take n)
  let t : Texture := ⟨Word.ofNat (f 0 8), f 8 2, f 10 2, f 12 4, f 16 1, f 17 1 = 1⟩
  if t.base.toNat % 4 ≠ 0 || t.w = 0 || t.h = 0 || t.pitch % 4 ≠ 0 || t.pitch < 4 * t.w || 1 < t.fmt || 1 < f 17 1
    || (bs.drop 18).any fun b => b ≠ 0 then none
  else some t

/-- An index brought into range (R423). -/
def texIndex (rep : Bool) (n : Nat) (i : Int) : Nat := if rep then (i % (n : Int)).toNat else (max 0 (min ((n : Int) - 1) i)).toNat

/-- Address of a texel (R423). -/
def Texture.addr (t : Texture) (i j : Int) : Word :=
  t.base + BitVec.ofNat 64 (texIndex t.rep t.h j * t.pitch + 4 * texIndex t.rep t.w i)

/-- Reads texels, 4 bytes each, in order. -/
def State.texels (s : State) : List Word → (List Nat → State → State) → State
  | [], k => k [] s
  | a :: l, k => s.smplRead a 4 4 fun bs s => State.texels s l fun r s => k (leNat bs :: r) s

/-- The bilinear result (R424) of four texels and their weights. -/
def bilinear (fmt : Nat) (l : List (Nat × Nat)) : Nat :=
  if fmt = 0 then
    (List.range 4).foldl (fun a c =>
      a + (l.foldl (fun n q => n + q.2 * bits q.1 (8 * c + 7) (8 * c)) 32768 / 65536) * 2 ^ (8 * c)) 0
  else
    f32.encode false false .rne (exactSum ((l.filter fun q => q.2 ≠ 0).map fun q =>
      ((f32.decode false false q.1).mul (Val.ofInt q.2)).scale (-16)))

/-- SMPL (R423, R424). -/
def execSmpl (p : Pred) (d a b : Code) (x : SmplKind) : State → Res :=
  issue p (some (rg d)) [rg a, rg b] fun s =>
    let ea := s.operand [a, b] 0
    let c := (s.operand [a, b] 1).toNat
    s.smplRead ea 32 32 fun bs s =>
      match textureOf bs with
      | none => badAccess .read .prot ea s
      | some t =>
        let u := f32.decode false false (c % 2 ^ 32)
        let v := f32.decode false false (c / 2 ^ 32)
        match u, v with
        | .fin _ _ _, .fin _ _ _ =>
          let px := u.mul (Val.ofInt t.w)
          let py := v.mul (Val.ofInt t.h)
          match x with
          | .near => s.texels [t.addr px.floorInt py.floorInt] fun l s => (s.wr d (Word.ofNat (l.headD 0))).retire
          | .bil =>
            let half := Val.fin true 1 (-1)
            let px := px.add .rne half
            let py := py.add .rne half
            let i := px.floorInt
            let j := py.floorInt
            let fx := ((px.add .rne (Val.ofInt (-i))).scale 8).floorInt.toNat
            let fy := ((py.add .rne (Val.ofInt (-j))).scale 8).floorInt.toNat
            s.texels [t.addr i j, t.addr (i + 1) j, t.addr i (j + 1), t.addr (i + 1) (j + 1)] fun l s =>
              let ws := [(256 - fx) * (256 - fy), fx * (256 - fy), (256 - fx) * fy, fx * fy]
              (s.wr d (Word.ofNat (bilinear t.fmt (l.zip ws)))).retire
        | _, _ => (s.wr d 0).retire

end Sys2Proof.Machine
end

