-- ==== Sys2Proof/Machine/Dispatch.lean ====
section
/-!
DEFINITION. The dispatch of an instruction or event to its meaning: one arm for each constructor of Instr.
-/

namespace Sys2Proof.Machine

def exec (i : Instr) (s : State) : Host.Outcome State Fault Refusal :=
  match i with
  | .add p d a b => Sys2Proof.Machine.execAdd p d a b s
  | .sub p d a b => Sys2Proof.Machine.execSub p d a b s
  | .mul p d a b => Sys2Proof.Machine.execMul p d a b s
  | .mulh p d a b => Sys2Proof.Machine.execMulh p d a b s
  | .mulhz p d a b => Sys2Proof.Machine.execMulhz p d a b s
  | .div p d a b => Sys2Proof.Machine.execDiv p d a b s
  | .divz p d a b => Sys2Proof.Machine.execDivz p d a b s
  | .rem p d a b => Sys2Proof.Machine.execRem p d a b s
  | .remz p d a b => Sys2Proof.Machine.execRemz p d a b s
  | .and p d a b => Sys2Proof.Machine.execAnd p d a b s
  | .or p d a b => Sys2Proof.Machine.execOr p d a b s
  | .xor p d a b => Sys2Proof.Machine.execXor p d a b s
  | .andn p d a b => Sys2Proof.Machine.execAndn p d a b s
  | .shl p d a b => Sys2Proof.Machine.execShl p d a b s
  | .shr p d a b => Sys2Proof.Machine.execShr p d a b s
  | .sha p d a b => Sys2Proof.Machine.execSha p d a b s
  | .rol p d a b => Sys2Proof.Machine.execRol p d a b s
  | .min p d a b => Sys2Proof.Machine.execMin p d a b s
  | .max p d a b => Sys2Proof.Machine.execMax p d a b s
  | .minz p d a b => Sys2Proof.Machine.execMinz p d a b s
  | .maxz p d a b => Sys2Proof.Machine.execMaxz p d a b s
  | .clz p d a => Sys2Proof.Machine.execClz p d a s
  | .popc p d a => Sys2Proof.Machine.execPopc p d a s
  | .brev p d a => Sys2Proof.Machine.execBrev p d a s
  | .madd p d a b c => Sys2Proof.Machine.execMadd p d a b c s
  | .bfx p d a sx pos len => Sys2Proof.Machine.execBfx p d a sx pos len s
  | .bfi p d a b pos len => Sys2Proof.Machine.execBfi p d a b pos len s
  | .addw p d a b => Sys2Proof.Machine.execAddw p d a b s
  | .subw p d a b => Sys2Proof.Machine.execSubw p d a b s
  | .mulw p d a b => Sys2Proof.Machine.execMulw p d a b s
  | .addi p d a imm => Sys2Proof.Machine.execAddi p d a imm s
  | .andi p d a imm => Sys2Proof.Machine.execAndi p d a imm s
  | .ori p d a imm => Sys2Proof.Machine.execOri p d a imm s
  | .xori p d a imm => Sys2Proof.Machine.execXori p d a imm s
  | .shli p d a sh => Sys2Proof.Machine.execShli p d a sh s
  | .shri p d a sh => Sys2Proof.Machine.execShri p d a sh s
  | .shai p d a sh => Sys2Proof.Machine.execShai p d a sh s
  | .muli p d a imm => Sys2Proof.Machine.execMuli p d a imm s
  | .ldi p d imm => Sys2Proof.Machine.execLdi p d imm s
  | .ldih p d a imm => Sys2Proof.Machine.execLdih p d a imm s
  | .lea p d b off => Sys2Proof.Machine.execLea p d b off s
  | .mov p d a => Sys2Proof.Machine.execMov p d a s
  | .getid p d sel => Sys2Proof.Machine.execGetid p d sel s
  | .cmp p pd a b cc => Sys2Proof.Machine.execCmp p pd a b cc s
  | .cmpi p pd a cc imm => Sys2Proof.Machine.execCmpi p pd a cc imm s
  | .plog p pd pa pb op => Sys2Proof.Machine.execPlog p pd pa pb op s
  | .sel p d ps ns a b => Sys2Proof.Machine.execSel p d ps ns a b s
  | .pget p d => Sys2Proof.Machine.execPget p d s
  | .pset p a => Sys2Proof.Machine.execPset p a s
  | .br p imm => Sys2Proof.Machine.execBr p imm s
  | .jmp p a => Sys2Proof.Machine.execJmp p a s
  | .call p d imm => Sys2Proof.Machine.execCall p d imm s
  | .callr p d a => Sys2Proof.Machine.execCallr p d a s
  | .ret p a => Sys2Proof.Machine.execRet p a s
  | .loop p d imm => Sys2Proof.Machine.execLoop p d imm s
  | .nop p => Sys2Proof.Machine.execNop p s
  | .exit p => Sys2Proof.Machine.execExit p s
  | .ld p d b off sz sx loc => Sys2Proof.Machine.execLd p d b off sz sx loc s
  | .st p b a off sz loc => Sys2Proof.Machine.execSt p b a off sz loc s
  | .ldx p d b c sz sx loc => Sys2Proof.Machine.execLdx p d b c sz sx loc s
  | .stx p a b c sz loc => Sys2Proof.Machine.execStx p a b c sz loc s
  | .lda p d b off sz sx loc sc => Sys2Proof.Machine.execLda p d b off sz sx loc sc s
  | .stl p b a off sz loc sc => Sys2Proof.Machine.execStl p b a off sz loc sc s
  | .ldf p d b off sz sx loc cn => Sys2Proof.Machine.execLdf p d b off sz sx loc cn s
  | .stf p b a off sz loc => Sys2Proof.Machine.execStf p b a off sz loc s
  | .clre p b a off loc => Sys2Proof.Machine.execClre p b a off loc s
  | .pref p b off => Sys2Proof.Machine.execPref p b off s
  | .amo p d b a op m => Sys2Proof.Machine.execAmo p d b a op m s
  | .cas p d b a c m => Sys2Proof.Machine.execCas p d b a c m s
  | .red p b a op m => Sys2Proof.Machine.execRed p b a op m s
  | .famo p d b a op m => Sys2Proof.Machine.execFamo p d b a op m s
  | .fred p b a op m => Sys2Proof.Machine.execFred p b a op m s
  | .watch p b a off sz cmp sc => Sys2Proof.Machine.execWatch p b a off sz cmp sc s
  | .fence p k sc => Sys2Proof.Machine.execFence p k sc s
  | .pfence p k => Sys2Proof.Machine.execPfence p k s
  | .bar p a b sc => Sys2Proof.Machine.execBar p a b sc s
  | .bara p a b sc => Sys2Proof.Machine.execBara p a b sc s
  | .barw p a b sc => Sys2Proof.Machine.execBarw p a b sc s
  | .qpeek p d a => Sys2Proof.Machine.execQpeek p d a s
  | .qcnt p d a => Sys2Proof.Machine.execQcnt p d a s
  | .qbind p a b => Sys2Proof.Machine.execQbind p a b s
  | .qflush p a => Sys2Proof.Machine.execQflush p a s
  | .vsync p => Sys2Proof.Machine.execVsync p s
  | .kwait p a b cmp => Sys2Proof.Machine.execKwait p a b cmp s
  | .spawn p a b deep dom => Sys2Proof.Machine.execSpawn p a b deep dom s
  | .joinw p a sc => Sys2Proof.Machine.execJoinw p a sc s
  | .wfw p => Sys2Proof.Machine.execWfw p s
  | .tnew p d a lim => Sys2Proof.Machine.execTnew p d a lim s
  | .yield p => Sys2Proof.Machine.execYield p s
  | .park p a => Sys2Proof.Machine.execPark p a s
  | .fadd p d a b sz rm => Sys2Proof.Machine.execFadd p d a b sz rm s
  | .fsub p d a b sz rm => Sys2Proof.Machine.execFsub p d a b sz rm s
  | .fmul p d a b sz rm => Sys2Proof.Machine.execFmul p d a b sz rm s
  | .ffma p d a b c sz rm => Sys2Proof.Machine.execFfma p d a b c sz rm s
  | .fdiv p d a b sz rm => Sys2Proof.Machine.execFdiv p d a b sz rm s
  | .fsqrt p d a sz rm => Sys2Proof.Machine.execFsqrt p d a sz rm s
  | .fmin p d a b sz rm => Sys2Proof.Machine.execFmin p d a b sz rm s
  | .fmax p d a b sz rm => Sys2Proof.Machine.execFmax p d a b sz rm s
  | .fcmp p pd a b fx sz rm => Sys2Proof.Machine.execFcmp p pd a b fx sz rm s
  | .fcvt p d a fx sz rm => Sys2Proof.Machine.execFcvt p d a fx sz rm s
  | .fsgn p d a b fx sz rm => Sys2Proof.Machine.execFsgn p d a b fx sz rm s
  | .fclass p d a sz rm => Sys2Proof.Machine.execFclass p d a sz rm s
  | .vadd p d a b v => Sys2Proof.Machine.execVadd p d a b v s
  | .vsub p d a b v => Sys2Proof.Machine.execVsub p d a b v s
  | .vmul p d a b v => Sys2Proof.Machine.execVmul p d a b v s
  | .vfma p d a b c v => Sys2Proof.Machine.execVfma p d a b c v s
  | .vmin p d a b v => Sys2Proof.Machine.execVmin p d a b v s
  | .vmax p d a b v => Sys2Proof.Machine.execVmax p d a b v s
  | .vabs p d a v => Sys2Proof.Machine.execVabs p d a v s
  | .vscl p d a b v => Sys2Proof.Machine.execVscl p d a b v s
  | .vaxpy p d a b c v => Sys2Proof.Machine.execVaxpy p d a b c v s
  | .vand p d a b v => Sys2Proof.Machine.execVand p d a b v s
  | .vor p d a b v => Sys2Proof.Machine.execVor p d a b v s
  | .vxor p d a b v => Sys2Proof.Machine.execVxor p d a b v s
  | .vshl p d a b v => Sys2Proof.Machine.execVshl p d a b v s
  | .vshr p d a b v => Sys2Proof.Machine.execVshr p d a b v s
  | .vcmp p d a b v => Sys2Proof.Machine.execVcmp p d a b v s
  | .vsel p d a b c v => Sys2Proof.Machine.execVsel p d a b c v s
  | .vcmul p d a b v => Sys2Proof.Machine.execVcmul p d a b v s
  | .vcmac p d a b c v => Sys2Proof.Machine.execVcmac p d a b c v s
  | .vmov p d a v => Sys2Proof.Machine.execVmov p d a v s
  | .vred p d a v => Sys2Proof.Machine.execVred p d a v s
  | .vdot p d a b v => Sys2Proof.Machine.execVdot p d a b v s
  | .vscan p d a v => Sys2Proof.Machine.execVscan p d a v s
  | .vcvt p d a v => Sys2Proof.Machine.execVcvt p d a v s
  | .vldg p d a v => Sys2Proof.Machine.execVldg p d a v s
  | .vstg p d a v => Sys2Proof.Machine.execVstg p d a v s
  | .vgath p d a b v => Sys2Proof.Machine.execVgath p d a b v s
  | .vscat p d a b v => Sys2Proof.Machine.execVscat p d a b v s
  | .vbcst p d a v => Sys2Proof.Machine.execVbcst p d a v s
  | .viota p d v => Sys2Proof.Machine.execViota p d v s
  | .vperm p d a b v => Sys2Proof.Machine.execVperm p d a b v s
  | .vexp p d a v => Sys2Proof.Machine.execVexp p d a v s
  | .vlog p d a v => Sys2Proof.Machine.execVlog p d a v s
  | .vrcp p d a v => Sys2Proof.Machine.execVrcp p d a v s
  | .vrsq p d a v => Sys2Proof.Machine.execVrsq p d a v s
  | .vsin p d a v => Sys2Proof.Machine.execVsin p d a v s
  | .vcos p d a v => Sys2Proof.Machine.execVcos p d a v s
  | .enq p d a => Sys2Proof.Machine.execEnq p d a s
  | .waitj p a => Sys2Proof.Machine.execWaitj p a s
  | .pollj p d a => Sys2Proof.Machine.execPollj p d a s
  | .jstat p d a => Sys2Proof.Machine.execJstat p d a s
  | .zfset p a idx => Sys2Proof.Machine.execZfset p a idx s
  | .zfget p d idx => Sys2Proof.Machine.execZfget p d idx s
  | .sclw p a idx => Sys2Proof.Machine.execSclw p a idx s
  | .cbld p a idx => Sys2Proof.Machine.execCbld p a idx s
  | .chwp p d idx => Sys2Proof.Machine.execChwp p d idx s
  | .boxt p d a b => Sys2Proof.Machine.execBoxt p d a b s
  | .trit p d a b => Sys2Proof.Machine.execTrit p d a b s
  | .tspush p a => Sys2Proof.Machine.execTspush p a s
  | .tspop p d => Sys2Proof.Machine.execTspop p d s
  | .tsclr p => Sys2Proof.Machine.execTsclr p s
  | .smpl p d a b x => Sys2Proof.Machine.execSmpl p d a b x s
  | .sld p d a sz => Sys2Proof.Machine.execSld p d a sz s
  | .lset p a b sel => Sys2Proof.Machine.execLset p a b sel s
  | .lget p d a sel => Sys2Proof.Machine.execLget p d a sel s
  | .lsplit p a b c => Sys2Proof.Machine.execLsplit p a b c s
  | .lmerge p a b => Sys2Proof.Machine.execLmerge p a b s
  | .lreq p d => Sys2Proof.Machine.execLreq p d s
  | .ldone p a => Sys2Proof.Machine.execLdone p a s
  | .lepoch p a => Sys2Proof.Machine.execLepoch p a s
  | .wgalloc p d a => Sys2Proof.Machine.execWgalloc p d a s
  | .wgemit p a b => Sys2Proof.Machine.execWgemit p a b s
  | .wgtake p d a b => Sys2Proof.Machine.execWgtake p d a b s
  | .wgfree p a => Sys2Proof.Machine.execWgfree p a s
  | .paya p d => Sys2Proof.Machine.execPaya p d s
  | .payp p a b c => Sys2Proof.Machine.execPayp p a b c s
  | .trap p imm => Sys2Proof.Machine.execTrap p imm s
  | .rft p => Sys2Proof.Machine.execRft p s
  | .srrd p d num => Sys2Proof.Machine.execSrrd p d num s
  | .srwr p a num => Sys2Proof.Machine.execSrwr p a num s
  | .bkpt p => Sys2Proof.Machine.execBkpt p s
  | .tlbinv p a all => Sys2Proof.Machine.execTlbinv p a all s
  | .cinv p a x => Sys2Proof.Machine.execCinv p a x s
  | .stopw p sc => Sys2Proof.Machine.execStopw p sc s
  | .resw p sc => Sys2Proof.Machine.execResw p sc s
  | .logmk p a => Sys2Proof.Machine.execLogmk p a s
  | .cntrd p d num => Sys2Proof.Machine.execCntrd p d num s
  | .powerOn images => Sys2Proof.Machine.execPowerOn images s
  | .bootRestart images => Sys2Proof.Machine.execBootRestart images s
  | .raiseFusedMinimum proc => Sys2Proof.Machine.execRaiseFusedMinimum proc s
  | .getVersion => Sys2Proof.Machine.execGetVersion s
  | .getCapabilities => Sys2Proof.Machine.execGetCapabilities s
  | .negotiateAlgorithms => Sys2Proof.Machine.execNegotiateAlgorithms s
  | .getDigests => Sys2Proof.Machine.execGetDigests s
  | .getCertificate slot => Sys2Proof.Machine.execGetCertificate slot s
  | .challenge slot nonce => Sys2Proof.Machine.execChallenge slot nonce s
  | .getMeasurements index => Sys2Proof.Machine.execGetMeasurements index s
  | .spdmUnsupportedRequest code => Sys2Proof.Machine.execSpdmUnsupportedRequest code s
  | .thermalTrip => Sys2Proof.Machine.execThermalTrip s
  | .thermalRelease => Sys2Proof.Machine.execThermalRelease s
  | .powerThrottleStart => Sys2Proof.Machine.execPowerThrottleStart s
  | .powerThrottleEnd => Sys2Proof.Machine.execPowerThrottleEnd s
  | .phcmdAssign v => Sys2Proof.Machine.execPhcmdAssign v s
  | .phcmdRelease v => Sys2Proof.Machine.execPhcmdRelease v s
  | .releaseScrub part => Sys2Proof.Machine.execReleaseScrub part s
  | .devnumWrite v => Sys2Proof.Machine.execDevnumWrite v s
  | .gpsRetrain port => Sys2Proof.Machine.execGpsRetrain port s
  | .linkTrainingDone port peer vero => Sys2Proof.Machine.execLinkTrainingDone port peer vero s
  | .portDown port => Sys2Proof.Machine.execPortDown port s
  | .gondolaForward pkt => Sys2Proof.Machine.execGondolaForward pkt s
  | .remoteAccessArrival req => Sys2Proof.Machine.execRemoteAccessArrival req s
  | .remoteReply id reply => Sys2Proof.Machine.execRemoteReply id reply s
  | .remoteAccessTimeout id => Sys2Proof.Machine.execRemoteAccessTimeout id s
  | .vfConfigAccess vf => Sys2Proof.Machine.execVfConfigAccess vf s
  | .apertureRead part off size => Sys2Proof.Machine.execApertureRead part off size s
  | .apertureWrite part off data => Sys2Proof.Machine.execApertureWrite part off data s
  | .hostRegisterWrite fn off v => Sys2Proof.Machine.execHostRegisterWrite fn off v s
  | .qdbWrite part q v => Sys2Proof.Machine.execQdbWrite part q v s
  | .qcfgEnable part q v => Sys2Proof.Machine.execQcfgEnable part q v s
  | .qcfgDisable part q v => Sys2Proof.Machine.execQcfgDisable part q v s
  | .qcfgPause part q v => Sys2Proof.Machine.execQcfgPause part q v s
  | .qcfgUnpause part q v => Sys2Proof.Machine.execQcfgUnpause part q v s
  | .ifvwWrite part v => Sys2Proof.Machine.execIfvwWrite part v s
  | .frcfgEnable part v => Sys2Proof.Machine.execFrcfgEnable part v s
  | .frcfgDisable part v => Sys2Proof.Machine.execFrcfgDisable part v s
  | .fresRetry part seq => Sys2Proof.Machine.execFresRetry part seq s
  | .fresFatalPageflt part seq => Sys2Proof.Machine.execFresFatalPageflt part seq s
  | .fresFatalProt part seq => Sys2Proof.Machine.execFresFatalProt part seq s
  | .frheadWrite part v => Sys2Proof.Machine.execFrheadWrite part v s
  | .olcfgEnable v => Sys2Proof.Machine.execOlcfgEnable v s
  | .launch part q => Sys2Proof.Machine.execLaunch part q s
  | .rootPlace part => Sys2Proof.Machine.execRootPlace part s
  | .launchComplete part lid => Sys2Proof.Machine.execLaunchComplete part lid s
  | .graphLoad part q => Sys2Proof.Machine.execGraphLoad part q s
  | .triggerBind part q => Sys2Proof.Machine.execTriggerBind part q s
  | .copy part q => Sys2Proof.Machine.execCopy part q s
  | .copyComplete part pid => Sys2Proof.Machine.execCopyComplete part pid s
  | .signal part q => Sys2Proof.Machine.execSignal part q s
  | .wait part q => Sys2Proof.Machine.execWait part q s
  | .waitSatisfied part pid => Sys2Proof.Machine.execWaitSatisfied part pid s
  | .layerTable part q => Sys2Proof.Machine.execLayerTable part q s
  | .headBind part q => Sys2Proof.Machine.execHeadBind part q s
  | .exportQueue part q => Sys2Proof.Machine.execExportQueue part q s
  | .exportComplete part pid => Sys2Proof.Machine.execExportComplete part pid s
  | .importQueue part q => Sys2Proof.Machine.execImportQueue part q s
  | .trigWrite core slot n => Sys2Proof.Machine.execTrigWrite core slot n s
  | .graphNodeLaunch part trig => Sys2Proof.Machine.execGraphNodeLaunch part trig s
  | .graphNodeSignal part trig => Sys2Proof.Machine.execGraphNodeSignal part trig s
  | .graphNodeLoop part trig => Sys2Proof.Machine.execGraphNodeLoop part trig s
  | .graphNodeCond part trig => Sys2Proof.Machine.execGraphNodeCond part trig s
  | .graphNodeEnd part trig => Sys2Proof.Machine.execGraphNodeEnd part trig s
  | .remoteLaunchRequest req => Sys2Proof.Machine.execRemoteLaunchRequest req s
  | .remoteLaneStart part => Sys2Proof.Machine.execRemoteLaneStart part s
  | .remoteLaunchResult id res => Sys2Proof.Machine.execRemoteLaunchResult id res s
  | .remoteLaunchTimeout id => Sys2Proof.Machine.execRemoteLaunchTimeout id s
  | .dploadWrite core slot v => Sys2Proof.Machine.execDploadWrite core slot v s
  | .policyCheckDone part => Sys2Proof.Machine.execPolicyCheckDone part s
  | .operatorDisclosureRead part query => Sys2Proof.Machine.execOperatorDisclosureRead part query s
  | .operatorDebugStop part target => Sys2Proof.Machine.execOperatorDebugStop part target s
  | .debugStopAck => Sys2Proof.Machine.execDebugStopAck s
  | .disclosureIntervalEnd part => Sys2Proof.Machine.execDisclosureIntervalEnd part s
  | .frameTick => Sys2Proof.Machine.execFrameTick s
  | .frameEncode => Sys2Proof.Machine.execFrameEncode s
  | .ecfgKeySet core slot enc => Sys2Proof.Machine.execEcfgKeySet core slot enc s
  | .threadCreate core lid => Sys2Proof.Machine.execThreadCreate core lid s
  | .frameDelivery core slot => Sys2Proof.Machine.execFrameDelivery core slot s
  | .stealRequest core lid => Sys2Proof.Machine.execStealRequest core lid s
  | .stealServe core lid => Sys2Proof.Machine.execStealServe core lid s
  | .stealReplyArrival core lid => Sys2Proof.Machine.execStealReplyArrival core lid s
  | .stealRetryTimeout core lid => Sys2Proof.Machine.execStealRetryTimeout core lid s
  | .terminationCount part lid => Sys2Proof.Machine.execTerminationCount part lid s
  | .rotationBoundary core => Sys2Proof.Machine.execRotationBoundary core s
  | .threadDisplace core slot => Sys2Proof.Machine.execThreadDisplace core slot s
  | .displacedResume core => Sys2Proof.Machine.execDisplacedResume core s
  | .drcfgBind core slot v => Sys2Proof.Machine.execDrcfgBind core slot v s
  | .drcfgUnbind core slot v => Sys2Proof.Machine.execDrcfgUnbind core slot v s
  | .dtailWrite core slot v => Sys2Proof.Machine.execDtailWrite core slot v s
  | .dispenserDeliver cluster => Sys2Proof.Machine.execDispenserDeliver cluster s
  | .wgdaBind core slot v => Sys2Proof.Machine.execWgdaBind core slot v s
  | .wgdaUnbind core slot => Sys2Proof.Machine.execWgdaUnbind core slot s
  | .wgBatchTimeout cluster node => Sys2Proof.Machine.execWgBatchTimeout cluster node s
  | .wgBatchDeliver cluster => Sys2Proof.Machine.execWgBatchDeliver cluster s
  | .payloadFrameDeliver cluster => Sys2Proof.Machine.execPayloadFrameDeliver cluster s
  | .channelWake core slot => Sys2Proof.Machine.execChannelWake core slot s
  | .proxyBatchTimeout core chan => Sys2Proof.Machine.execProxyBatchTimeout core chan s
  | .proxyDelivery id => Sys2Proof.Machine.execProxyDelivery id s
  | .proxyCreditReturn id => Sys2Proof.Machine.execProxyCreditReturn id s
  | .coreSleep core => Sys2Proof.Machine.execCoreSleep core s
  | .coreWake core failed => Sys2Proof.Machine.execCoreWake core failed s
  | .ldfWake core slot => Sys2Proof.Machine.execLdfWake core slot s
  | .storeBufferDrain core pos => Sys2Proof.Machine.execStoreBufferDrain core pos s
  | .sliceAtomic id => Sys2Proof.Machine.execSliceAtomic id s
  | .watchWake core slot => Sys2Proof.Machine.execWatchWake core slot s
  | .watchPoll core slot => Sys2Proof.Machine.execWatchPoll core slot s
  | .tableWalk core va acc => Sys2Proof.Machine.execTableWalk core va acc s
  | .faultMessage part pos => Sys2Proof.Machine.execFaultMessage part pos s
  | .releaseProbeEcho core slot slice => Sys2Proof.Machine.execReleaseProbeEcho core slot slice s
  | .storeAck id => Sys2Proof.Machine.execStoreAck id s
  | .joinwWake core slot => Sys2Proof.Machine.execJoinwWake core slot s
  | .kwaitWake core slot => Sys2Proof.Machine.execKwaitWake core slot s
  | .parkExpire core slot => Sys2Proof.Machine.execParkExpire core slot s
  | .lreqWake part => Sys2Proof.Machine.execLreqWake part s
  | .payaWake cluster => Sys2Proof.Machine.execPayaWake cluster s
  | .spawnRingWake core slot => Sys2Proof.Machine.execSpawnRingWake core slot s
  | .stopwComplete core slot => Sys2Proof.Machine.execStopwComplete core slot s
  | .tlbinvComplete core slot => Sys2Proof.Machine.execTlbinvComplete core slot s
  | .vectorEntryPerform core slot => Sys2Proof.Machine.execVectorEntryPerform core slot s
  | .lateTrapEntry core slot => Sys2Proof.Machine.execLateTrapEntry core slot s
  | .enqAccept core slot => Sys2Proof.Machine.execEnqAccept core slot s
  | .waitjWake core slot => Sys2Proof.Machine.execWaitjWake core slot s
  | .engineBadcmd cluster eng => Sys2Proof.Machine.execEngineBadcmd cluster eng s
  | .lds cluster => Sys2Proof.Machine.execLds cluster s
  | .mma cluster => Sys2Proof.Machine.execMma cluster s
  | .sta cluster => Sys2Proof.Machine.execSta cluster s
  | .aclr cluster => Sys2Proof.Machine.execAclr cluster s
  | .swaps cluster => Sys2Proof.Machine.execSwaps cluster s
  | .cmma cluster => Sys2Proof.Machine.execCmma cluster s
  | .mstat cluster => Sys2Proof.Machine.execMstat cluster s
  | .fft cluster => Sys2Proof.Machine.execFft cluster s
  | .ifft cluster => Sys2Proof.Machine.execIfft cluster s
  | .xact cluster => Sys2Proof.Machine.execXact cluster s
  | .cpy cluster chan => Sys2Proof.Machine.execCpy cluster chan s
  | .gthr cluster chan => Sys2Proof.Machine.execGthr cluster chan s
  | .sctr cluster chan => Sys2Proof.Machine.execSctr cluster chan s
  | .fill cluster chan => Sys2Proof.Machine.execFill cluster chan s
  | .ared cluster chan => Sys2Proof.Machine.execAred cluster chan s
  | .bcst cluster chan => Sys2Proof.Machine.execBcst cluster chan s
  | .agth cluster chan => Sys2Proof.Machine.execAgth cluster chan s
  | .collectiveContribution msg => Sys2Proof.Machine.execCollectiveContribution msg s
  | .collectiveTimeout cluster chan => Sys2Proof.Machine.execCollectiveTimeout cluster chan s
  | .hcfgWrite core slot eng v => Sys2Proof.Machine.execHcfgWrite core slot eng v s
  | .cpreqPreempt core slot v => Sys2Proof.Machine.execCpreqPreempt core slot v s
  | .preemptSave core => Sys2Proof.Machine.execPreemptSave core s
  | .cpreqResume core slot v => Sys2Proof.Machine.execCpreqResume core slot v s
  | .dbgsStop core slot v => Sys2Proof.Machine.execDbgsStop core slot v s
  | .dbgsResume core slot v => Sys2Proof.Machine.execDbgsResume core slot v s
  | .dbgdRead core slot d => Sys2Proof.Machine.execDbgdRead core slot d s
  | .dbgdWrite core slot v => Sys2Proof.Machine.execDbgdWrite core slot v s
  | .eccCorrected loc => Sys2Proof.Machine.execEccCorrected loc s
  | .eccUncorrectable loc => Sys2Proof.Machine.execEccUncorrectable loc s
  | .machineCheck part => Sys2Proof.Machine.execMachineCheck part s
  | .ocfgEnable core slot v => Sys2Proof.Machine.execOcfgEnable core slot v s
  | .stateLogTimeout core => Sys2Proof.Machine.execStateLogTimeout core s
  | .ringFetchFault part q => Sys2Proof.Machine.execRingFetchFault part q s
  | .badpkt part q => Sys2Proof.Machine.execBadpkt part q s
  | .acceptanceReply id => Sys2Proof.Machine.execAcceptanceReply id s

end Sys2Proof.Machine
end

