-- ==== Sys2Proof/Machine/Issue.lean ====
section
/-!
DEFINITION. The issue of a thread's next instruction: selection (R121), the boundary (R252), the fetch through the
instruction cache (R145, R305), and steps 1 to 4 of R304.
-/

namespace Sys2Proof.Machine

/-- Adds a line to an instruction cache of 256 lines (R144, R145). -/
def icacheAdd (l : List Line) (n : Line) : List Line := (n :: l.filter fun e => e ≠ n).take 256

/-- Fetches the word at an address for the thread being issued: the word, or the state in which the fetch leaves the
thread (parked, or in its handler). -/
def State.fetchWord (s : State) (va : Word) : Except State (Nat × State) :=
  let c := s.cur.core
  let pno := s.myPartNo
  let bad := fun (cause : Cause) (v : Word) (s : State) => badAccess .exec cause v s
  if 2 ^ 57 ≤ va.toNat then .error (bad .align va s)
  else if isWindow va.toNat then .error (bad .prot s.me.pc s)
  else
    match s.me.prog.fatal with
    | some (v, .exec, cause) => .error (bad cause v s)
    | _ =>
      match s.translate (.core c) pno va.toNat .exec (s.me.pl = 0) with
      | .fault kind level s =>
        if s.myPart.fren then .error ((s.faultMsg pno va.toNat .exec kind level).parkMe (.fault va .exec kind level))
        else .error (bad (faultCause kind) va s)
      | .malformed _ s => .error (bad .prot va (s.malformedRecord pno va.toNat))
      | .off => .error (bad .pageflt va s)
      | .ok pa s =>
        let ts := s.tsidOf c
        let base := pa / 64 * 64
        match (s.core c).icache.find? fun l => l.tsid = ts && l.addr = base with
        | some l => .ok (leNat ((l.data.drop (pa - base)).take 8), s)
        | none =>
          if s.dramPoisoned pa 8 then .error (bad .poison va s)
          else
            let gen := s.myPart.keyGen
            let s := s.sliceSee pno [(base, 64)]
            let s' := if s.dramPoisoned base 64 then s else s.modCore c fun x =>
              { x with icache := icacheAdd x.icache ⟨ts, base, s.dramBytes gen base 64, false⟩ }
            .ok (s.dramRead gen pa 8, s')

/-- Steps 1 to 4 of R304 on a first word, the EXT word fetched only after step 3; then the instruction runs. A vector
instruction and an ENQ are no scalar instruction in flight (R121). -/
def State.runWord (s : State) (w : Nat) : Res :=
  let s := { s with cur := { s.cur with word := w, ext := 0 } }
  match decodeOp w with
  | .error .illlen => .next (s.trapWord .illlen)
  | .error _ => .next (s.trapWord .illop)
  | .ok o =>
    if o.privileged && s.me.pl = 0 then .next (s.trapWord .priv)
    else if o.long then
      let s := s.modMe fun t => { t with busy := s.clk }
      match s.fetchWord (s.me.pc + 8) with
      | .error s => .next s
      | .ok (e, s) =>
        let s := { s with cur := { s.cur with ext := e } }
        match decodeFields o w e with
        | some i => exec i s
        | none => .next (s.trapWord .illmod)
    else
      match decodeFields o w 0 with
      | some i => exec i (if o = .enq then s.modMe fun t => { t with busy := s.clk } else s)
      | none => .next (s.trapWord .illmod)

/-- The state at the boundary of the thread in a slot: its core awake, the clock past the instruction before, and the
counter notices made that the writes before it have left (R273). -/
def State.atBoundary (s : State) (c sl : Nat) : State :=
  let s := if (s.core c).asleep then s.wakeCore c [] else s
  let s := s.pass (max (s.clk + 1) (((s.thread? c sl).map Thread.busy).getD 0))
  let s := match s.corePart c with | some pno => s.settleNotices pno | none => s
  { (s.modCore c fun x => { x with idleSince := s.clk }) with cur := ⟨c, sl, 0, 0, []⟩ }

/-- The memory, address and bytes, that a tile-out of the thread would write with its registers as they stand: a VSTG or an
ST of global memory whose address is no channel (R139, R349, R368). -/
def State.tileRuns (s : State) (i : Instr) : List (Nat × Nat) :=
  match i with
  | .st _ b _ off sz false =>
    if isQCode b then []
    else
      let v := if isKCode b then kRead (s.myCore.kregs.lookD (codeNum b) []) s.clk else s.vreg b
      [((v + imm17 off).toNat, sizeBytes sz)]
  | .vstg _ d a m =>
    match vinfo i with
    | some x =>
      let e := s.captured i d a 0xB0 0xB0
      (List.range m.cnt.toNat).flatMap fun j => (e.runs s.myCore x j).map fun r => (r.1.toNat, r.2)
    | none => []
  | _ => []

/-- Notes what the tile-outs at the PC of a thread of a fused pair write, or would have written (R139). -/
def State.noteTileOuts (s : State) (t : Thread) : State :=
  if !t.spliced then s
  else
    match (s.launch? s.myPartNo t.lid).bind (·.fused) with
    | none => s
    | some f =>
      (f.tileOuts.filter fun o => o.1 = t.pc.toNat && t.executes (fPred o.2.1)).foldl (fun (s : State) o =>
        match decodeOp o.2.1 with
        | .error _ => s
        | .ok op =>
          match decodeFields op o.2.1 o.2.2.1 with
          | none => s
          | some i =>
            let add := fun (l : List (Nat × Nat)) => l ++ (s.tileRuns i).filter fun r => !l.contains r
            s.modLaunch s.myPartNo t.lid fun l => { l with fused := l.fused.map fun f =>
              if o.2.2.2 then { f with kept := add f.kept } else { f with elided := add f.elided } }) s

/-- The state in which a thread that goes on fetches its instruction: the issue is counted once (R273), and the thread
is busy for the 8 cycles of R144. -/
def State.atFetch (s : State) (t : Thread) : State :=
  let s := if t.takeUp.prog.stamp.isNone then s.countCore s.cur.core 2 1 else s
  (s.modMe fun t => { t.takeUp with busy := s.clk + 8 }).noteTileOuts t

/-- The boundary of the thread in a slot, and its next instruction. A thread that cannot run is passed over, and so is one
that leaves its slot at this boundary (R120). -/
def State.issueSlot (s : State) (c sl : Nat) : Res :=
  match s.thread? c sl with
  | none => .next s
  | some t =>
    if !s.canRun c t || s.passes c sl t then .next s
    else
      let s := s.atBoundary c sl
      if t.ending then .next s.fatalEnding
      else
        match t.lateNow (s.core c).seqnow with
        | some l => .next (s.takeLate c sl l)
        | none =>
          let s := s.atFetch t
          if t.pc.toNat % 8 ≠ 0 then .next (s.trap .align t.pc)
          else
            match s.fetchWord t.pc with
            | .error s => .next s
            | .ok (w, s) => s.runWord w

/-! ### Selection (R121) -/

/-- The first word of a thread's next instruction, looked at and not fetched. -/
def State.peekWord (s : State) (c : Nat) (t : Thread) : Option Nat :=
  match s.corePart c with
  | none => none
  | some pno =>
    match s.translate (.core c) pno t.pc.toNat .exec (t.pl = 0) with
    | .ok pa _ =>
      match (s.core c).icache.find? fun l => l.tsid = s.tsidOf c && l.addr = pa / 64 * 64 with
      | some l => some (leNat ((l.data.drop (pa % 64)).take 8))
      | none => some (s.dramRead (s.part pno).keyGen pa 8)
    | _ => none

/-- The next instruction is a vector instruction or ENQ, and the ring has no free entry. -/
def State.ringBlocks (s : State) (c : Nat) (t : Thread) : Bool :=
  256 ≤ (s.core c).ring.length && !t.ending && (t.lateNow (s.core c).seqnow).isNone
  && (match s.peekWord c t with
    | some w => (match decodeOp w with | .ok o => o.long || o = .enq | .error _ => false)
    | none => false)

/-- A slot is ready (R121). -/
def State.ready (s : State) (c sl : Nat) : Bool :=
  match s.thread? c sl with
  | none => false
  | some t => s.canRun c t && !s.passes c sl t && t.busy ≤ s.clk + 1 && !s.ringBlocks c t

/-- The first ready slot of a core in the order P, P+1, … (R121). -/
def State.pickSlot (s : State) (c : Nat) : Option Nat :=
  let p := (s.core c).issueP
  ((List.range 64).map fun i => (p + i) % 64).find? fun sl => s.ready c sl

/-- The next core, in rotation, that has a ready slot, and the slot. -/
def State.pickCore (s : State) : Option (Nat × Nat) :=
  let l := s.cores.keys
  let l := (l.filter fun c => s.turn ≤ c) ++ l.filter fun c => c < s.turn
  l.findSome? fun c => (s.pickSlot c).map fun sl => (c, sl)

/-- Issues one instruction from a slot that selection took: P and the rotation move on (R121). -/
def State.issuePicked (s : State) (c sl : Nat) : Res :=
  let s := s.modCore c fun x => { x with issueP := (sl + 1) % 64 }
  State.issueSlot { s with turn := c + 1 } c sl

end Sys2Proof.Machine
end

