-- ==== Sys2Proof/Machine/Policy.lean ====
section
/-!
DEFINITION. What the machine does when its agenda is empty (log entry 6): it issues from ready slots and lets the
events of the device happen, in turn; when neither is possible the clock moves on to the next moment at which something
is due. An event that comes from outside the device happens only from the agenda.
-/

namespace Sys2Proof.Machine

/-- An event that may happen, as its meaning on a state. -/
abbrev Ev := State → Res

/-! ### Events with no moment of their own -/

/-- Events of a parked thread, by what it waits for. -/
def parkEvents (c sl : Nat) : Why → List Ev
  | .chan _ _ _ | .qbind _ _ => [execChannelWake c sl]
  | .ldf _ _ => [execLdfWake c sl]
  | .word _ _ _ _ .packet .join => [execJoinwWake c sl]
  | .word _ _ _ _ .packet _ => [execWatchWake c sl]
  | .kwait _ _ _ => [execKwaitWake c sl]
  | .spawnRing => [execSpawnRingWake c sl]
  | .stopw _ => [execStopwComplete c sl]
  | .job _ _ => [execWaitjWake c sl]
  | _ => []

/-- Events of a thread in a slot. -/
def slotEvents (c sl : Nat) (t : Thread) : List Ev :=
  (match t.park with | some p => parkEvents c sl p.why | none => [])
  ++ (match t.rel with | some r => r.probes.map fun j => execReleaseProbeEcho c sl j | none => [])
  ++ (if t.idle then [execFrameDelivery c sl] else [])
  ++ [execThreadDisplace c sl]

/-- Launches that a core may make a thread for, or steal for. -/
def Core.dueLids (x : Core) : List Nat :=
  (x.deque.map DqEntry.lid ++ x.arrived.map (fun e => e.frame.lid) ++ x.spill.keys ++ x.steals.keys).foldl insertNat []

/-- Slots at which the entries of the ring are performed: those of its threads, and an empty one for the rest. -/
def Core.ringSlots (x : Core) : List Nat :=
  let empty := ((List.range 64).find? fun sl => (x.threads.look sl).isNone).toList
  if x.ring = [] then [] else x.threads.keys ++ empty

/-- Events of a core. -/
def coreEvents (c : Nat) (x : Core) : List Ev :=
  (x.coming.map fun e => execFrameDelivery c e.slot)
  ++ (x.threads.flatMap fun e => slotEvents c e.1 e.2)
  ++ (x.dueLids.flatMap fun l => [execThreadCreate c l, execStealServe c l, execStealReplyArrival c l])
  ++ (if x.displaced = [] then [] else [execDisplacedResume c])
  ++ (if x.preempt.isSome then [execPreemptSave c] else [])
  ++ (if x.sbuf = [] then [] else [execStoreBufferDrain c 0])
  ++ x.ringSlots.flatMap fun sl => [execVectorEntryPerform c sl, execEnqAccept c sl]

/-- Events of a copy channel, and of an engine that has jobs. -/
def chanEvents (cl ch : Nat) : List Ev :=
  [execCpy cl ch, execGthr cl ch, execSctr cl ch, execFill cl ch, execAred cl ch, execBcst cl ch, execAgth cl ch]
def engEvents (cl : Nat) (eng : Nat) (jobs : List Job) : List Ev :=
  if jobs = [] then []
  else execEngineBadcmd cl eng ::
    (if eng = 0 then [execLds cl, execMma cl, execSta cl, execAclr cl, execSwaps cl, execCmma cl, execMstat cl]
     else if eng = 1 then [execFft cl, execIfft cl, execXact cl]
     else ((jobs.map Job.chan).foldl insertNat []).flatMap fun ch => chanEvents cl ch)

/-- Events of a cluster. -/
def clusterEvents (cl : Nat) (x : Cluster) : List Ev :=
  (if x.disp.en then [execDispenserDeliver cl] else [])
  ++ (if x.wg.isSome then [execWgBatchDeliver cl] else [])
  ++ [execPayloadFrameDeliver cl, execPayaWake cl]
  ++ x.jobs.flatMap fun e => engEvents cl e.1 e.2

/-- Events of a queue that holds a packet. -/
def queueEvents (pno q : Nat) (x : Queue) : List Ev :=
  if x.qst ≠ 1 || x.head = x.tail then []
  else [execLaunch pno q, execGraphLoad pno q, execTriggerBind pno q, execCopy pno q, execSignal pno q, execWait pno q,
    execLayerTable pno q, execHeadBind pno q, execExportQueue pno q, execImportQueue pno q, execBadpkt pno q,
    execRingFetchFault pno q]

/-- Events of an outstanding packet, by its place. -/
def pktEvents (pno pid : Nat) (k : Pkt) : List Ev :=
  match k.st with
  | .copy => [execCopyComplete pno pid]
  | .wait => [execWaitSatisfied pno pid]
  | .exportQ => [execExportComplete pno pid]
  | _ => []

/-- Events of a trigger's run. -/
def trigEvents (pno n : Nat) (t : Trig) : List Ev :=
  if t.run.isNone then []
  else [execGraphNodeLaunch pno n, execGraphNodeSignal pno n, execGraphNodeLoop pno n, execGraphNodeCond pno n,
    execGraphNodeEnd pno n]

/-- Events of a partition. -/
def partEvents (pno : Nat) (p : Part) : List Ev :=
  if p.st = 2 then [execReleaseScrub pno]
  else
    (p.queues.flatMap fun e => queueEvents pno e.1 e.2)
    ++ (p.pkts.zipIdx.flatMap fun e => pktEvents pno e.2 e.1)
    ++ (p.launches.flatMap fun e => [execTerminationCount pno e.1, execLaunchComplete pno e.1])
    ++ (if p.launches.any fun e => !e.2.placed then [execRootPlace pno] else [])
    ++ (p.trigs.flatMap fun e => trigEvents pno e.1 e.2)
    ++ (if p.lane = [] then [] else [execRemoteLaneStart pno])
    ++ (if p.dpState = 1 then [execPolicyCheckDone pno] else [])
    ++ (if p.rink.queue = [] then [] else [execLreqWake pno])
    ++ (List.range p.fmsgs.length).map fun i => execFaultMessage pno i

/-- Events of what is in flight on the device. -/
def flightEvents (f : Sent) : List Ev :=
  match f.what with
  | .proxy _ _ _ _ _ _ | .inbox _ _ _ _ _ => [execProxyDelivery f.id]
  | .credit _ _ _ => [execProxyCreditReturn f.id]
  | .red _ _ _ _ _ | .fred _ _ _ _ _ => [execSliceAtomic f.id]
  | .wstore _ _ _ _ | .wred _ _ _ _ _ _ | .wfred _ _ _ _ _ _ | .ack _ => [execStoreAck f.id]
  | _ => []

/-- The cores that steal now (R109): where some core of the partition holds an entry of the launch. -/
def State.stealEvents (s : State) : List Ev :=
  s.parts.flatMap fun e => e.2.launches.flatMap fun l =>
    let holds := fun (x : Core) => x.deque.any (fun d => d.lid = l.1 && 2 ≤ tagDom d.tag) || (x.spill.lookD l.1 (0, [])).2 ≠ []
    if (s.cores.any fun c => s.corePart c.1 = some e.1 && holds c.2) && 2 ≤ l.2.widest then
      (s.partCores e.1).map fun c => execStealRequest c l.1
    else []

/-- Every event that may happen at any time. -/
def State.events (s : State) : List Ev :=
  (s.flights.flatMap flightEvents)
  ++ (s.cores.flatMap fun e => coreEvents e.1 e.2)
  ++ (s.clusters.flatMap fun e => clusterEvents e.1 e.2)
  ++ (s.parts.flatMap fun e => partEvents e.1 e.2)
  ++ s.stealEvents
  ++ [execFrameEncode]

/-! ### Events that have a moment -/

/-- Timed events of a parked thread: the core cycle and the event. -/
def parkTimed (c sl : Nat) : Why → List (Nat × Ev)
  | .word _ _ _ _ (.poll n) .join => [(n, execJoinwWake c sl)]
  | .word _ _ _ _ (.poll n) _ => [(n, execWatchPoll c sl)]
  | .until n => [(n, execParkExpire c sl)]
  | .tlbinv n => [(n, execTlbinvComplete c sl)]
  | _ => []

/-- A rotation boundary would change something: it would move a slot, or a thread waits for it. -/
def State.rotates (s : State) (c : Nat) : Bool :=
  ((s.core c).threads.any fun e => match e.2.park with | some ⟨.yield _, _, _⟩ => true | _ => false)
  || (match s.corePart c with
    | some pno =>
      let act := s.active pno c
      let sum := (act.map Prod.snd).foldl (· + ·) 0
      sum ≠ 0 && (s.rotateOnce pno c act fun q => ((64 * act.lookD q 0 / sum : Nat) : Int)).isSome
    | none => false)

/-- Timed events of a core. -/
def State.coreTimed (s : State) (c : Nat) (x : Core) : List (Nat × Ev) :=
  (x.threads.flatMap fun e => match e.2.park with | some p => parkTimed c e.1 p.why | none => [])
  ++ (x.chans.filterMap fun e =>
        if e.2.bind.isSome && e.2.vals ≠ [] && !e.2.due then some (e.2.since + 64, execProxyBatchTimeout c e.1) else none)
  ++ (x.steals.filterMap fun e => match e.2 with | .retry n => some (n, execStealRetryTimeout c e.1) | _ => none)
  ++ (if x.slog = [] then [] else [(x.slogLast + 4096, execStateLogTimeout c)])
  ++ (if x.asleep then [] else [(x.idleSince + 4096, execCoreSleep c)])
  ++ (if s.rotates c then [(s.boundaryAt c, execRotationBoundary c)] else [])

/-- Timed events of a cluster. -/
def clusterTimed (cl : Nat) (x : Cluster) : List (Nat × Ev) :=
  (match x.wg with
    | some g => g.nodes.zipIdx.filterMap fun (n, i) => if n.pend = [] then none else some (n.t0 + n.t, execWgBatchTimeout cl i)
    | none => [])
  ++ (x.queue 2).filterMap fun j =>
    if x.collDue j.chan = some j then some (Config.clkAt (j.acceptedFab + 2 ^ 24), execCollectiveTimeout cl j.chan) else none

/-- Timed events of a partition; its release is scrubbed at the latest when what was in flight has met its time-out. -/
def partTimed (pno : Nat) (p : Part) : List (Nat × Ev) :=
  (if p.st = 2 then [(Config.clkAt (p.relAt + 2 ^ 22), execReleaseScrub pno)] else [])
  ++ (Config.clkAt (p.intervalAt + p.interval), execDisclosureIntervalEnd pno)
  :: p.pkts.filterMap fun k => match k.st with
    | .remote id false _ => some (Config.clkAt (k.tstart + 2 ^ 22), execRemoteLaunchTimeout id)
    | _ => none

/-- Every event that has a moment, with it. The package frame clock ticks at 240 Hz of 700 MHz (R79). -/
def State.timed (s : State) : List (Nat × Ev) :=
  (if s.booted then [(((s.tick + 1) * 8750000 + 2) / 3, execFrameTick)] else [])
  ++ (s.opstops.take 1).map (fun o => (o.at', execDebugStopAck))
  ++ (s.cores.flatMap fun e => s.coreTimed e.1 e.2)
  ++ (s.clusters.flatMap fun e => clusterTimed e.1 e.2)
  ++ (s.parts.flatMap fun e => partTimed e.1 e.2)
  ++ s.flights.filterMap fun f => f.what.sentAt.map fun n => (Config.clkAt (n + 2 ^ 22), execRemoteAccessTimeout f.id)

/-! ### Turns -/

/-- The first event of a list that does something, with its place in the list. -/
def State.tryEvents (s : State) : Nat → List Ev → Option (Nat × State)
  | _, [] => none
  | i, e :: l =>
    match e s with
    | .next t => if t = s then State.tryEvents s (i + 1) l else some (i, t)
    | _ => State.tryEvents s (i + 1) l

/-- A core at which a rotation boundary comes by a moment: it goes before any event and any issue of that moment, so that
the boundary finds the active queues of its own moment (R119). -/
def State.rotationBy (s : State) (n : Nat) : Option State :=
  (s.cores.find? fun e => s.boundaryAt e.1 ≤ n && (s.corePart e.1).isSome && !s.held).bind fun e =>
    match execRotationBoundary e.1 s with | .next t => some t | _ => none

/-- The moment at which the thread in a slot issues next: its instruction in flight has retired. -/
def State.issueMoment (s : State) (c sl : Nat) : Nat := max (s.clk + 1) (((s.thread? c sl).map Thread.busy).getD 0)

/-- One event that can happen now, taken in rotation. -/
def State.eventTurn (s : State) : Option State :=
  match s.rotationBy s.clk with
  | some t => some t
  | none =>
  let l := (s.timed.filter fun e => e.1 ≤ s.clk).map Prod.snd ++ s.events
  let k := s.evTurn % max l.length 1
  match s.tryEvents k (l.drop k ++ l.take k) with
  | some (i, t) => some ((s.rotationBy t.clk).getD { t with evTurn := i + 1 })
  | none => none

/-- The boundaries that come next at cores where one moves a slot (R119). -/
def State.moves (s : State) : List Nat :=
  s.cores.filterMap fun e => match s.corePart e.1 with
    | some pno => if !s.held && s.rotateAll pno e.1 ≠ s then some (s.boundaryAt e.1) else none
    | none => none

/-- The next core cycle at which a thread's instruction in flight has retired, a boundary moves a slot or an event is due;
the next one where nothing is. -/
def State.nextMoment (s : State) : Nat :=
  let busy := s.cores.flatMap fun e => e.2.threads.filterMap fun t => if s.canRun e.1 t.2 then some (t.2.busy - 1) else none
  let l := (busy ++ s.moves ++ s.timed.map Prod.fst).filter fun n => s.clk < n
  match l with
  | [] => s.clk + 1
  | n :: l => l.foldl min n

/-- One turn of the machine's own: issues and events alternate where both are possible. -/
def State.selfTurn (s : State) : Res :=
  let event := fun (other : State → Res) =>
    match s.eventTurn with
    | some t => .next { t with phase := false }
    | none => other s
  let slot := fun (other : State → Res) =>
    match s.pickCore with
    | some (c, sl) =>
      match s.rotationBy (s.issueMoment c sl) with
      | some t => .next t
      | none => State.issuePicked { s with phase := true } c sl
    | none => other s
  let wait := fun (s : State) => .next (s.pass s.nextMoment)
  if s.phase then event (fun _ => slot wait) else slot (fun _ => event wait)

end Sys2Proof.Machine
end

