-- ==== Sys2Proof/Machine/Step.lean ====
section
/-!
DEFINITION. One step of the machine, and the placing of one instruction where the next step fetches it.
-/

namespace Sys2Proof.Machine

/-- One step: the first turn of the agenda, after the rotation boundaries that come by then, or one of the machine's own
choosing. An agenda turn names an event; an
instruction of the Kamlyn set is only ever issued from a slot. -/
def step (s : State) : Host.Outcome State Fault Refusal :=
  match s.agenda with
  | .event i :: l => if i.isCode then .next { s with agenda := l } else exec i { s with agenda := l }
  | .slot c sl :: l =>
    match s.rotationBy (s.issueMoment c sl) with
    | some t => .next t
    | none => State.issueSlot { s with agenda := l } c sl
  | [] => s.selfTurn

/-- The launch that a placed instruction belongs to. -/
def placedLaunch : Launch where
  lid := 1
  entry := 0x6000
  win := 128
  nlev := 1
  queue := 0
  wgt := 0
  pcls := 0
  pl := 1
  zmask := 0
  zf := []
  splc := 0
  levs := [⟨0, 5, 1⟩]
  args := []
  spill := 0
  spn := 0
  rjoin := 0
  placed := true
  pkgCount := 1
  moving := []
  movingQ := []
  movingD := []
  fatals := 0
  origin := .node 0 0
  fused := none

/-- The thread that runs a placed instruction: KER level, a full window, at virtual address 0x6000. -/
def placedThread : Thread := { Thread.zero with lid := 1, pl := 1, pc := 0x6000, lim := 128, counts := true }

/-- Translation tables for one page: virtual and physical 0x6000, readable, writable, executable, for APP too, with its
A and D bits set (R184). -/
def placedTables (m : Memory) : Memory :=
  let e := fun (m : Memory) (a v : Nat) => m.store a (leBytes 8 v)
  e (e (e (e (e m 0x1000 0x2001) 0x2000 0x3001) 0x3000 0x4001) 0x4000 0x5001) 0x5030 0x607F

/-- An instruction of `nbits` bits (with zeros above, up to 128) stored where the next step fetches: the launch,
tables and thread that a fetch needs stand for what power-on, assignment and a LAUNCH packet set up. -/
def State.withFetchWord (s : State) (nbits w : Nat) : State :=
  let code := leBytes 16 (w % 2 ^ nbits)
  { s with
    booted := true
    trip := false
    hold := false
    qmap := s.qmap.put 0 (Word.ofNat (2 ^ 32 + 2 ^ 16 + 1))
    parts := s.parts.put 1 { Part.zero with
      tsid := 1, quads := [0], launches := [(1, placedLaunch)], nextLid := 2, rootPtr := 0, ptbr := 0x1001 }
    cores := s.cores.put 0 { Core.zero with threads := [(0, placedThread)] }
    clusters := s.clusters.put 0 Cluster.zero
    dram := (placedTables s.dram).store 0x6000 code
    dkey := []
    dpoison := []
    walkCache := []
    agenda := []
    phase := false
    turn := 0 }

end Sys2Proof.Machine
end

