-- ==== Sys2Proof/Safety.lean ====
section
/-!
DEFINITION. The terms in which claims speak: when an instruction issues and completes (R301 to R304, R153, R171), the
state that its effect starts from, what a completed instruction leaves alone, and what a safe run is.
-/

namespace Sys2Proof.Machine

/-- The instruction being issued goes ahead: a thread issues it; its operand codes are legal and in the window (R304,
steps 5 and 6); its predicate selects it (R301); no register it reads is poisoned (R171); it reads no bound channel
(R154); every channel condition holds (R153; ENQ, with `wait` false, needs no room, R386); and a push to a bound channel
keeps UNACK below 2^32 - 1 (R175). -/
abbrev IssuesWith (wait : Bool) (s : State) (p : Pred) (dst : Option Pos) (srcs : List Pos) : Prop :=
  s.me?.isSome = true
  ∧ operandTrap (dst.toList ++ srcs) s.me.lim = none
  ∧ s.me.executes p = true
  ∧ poisonedReg s.myCore s.me srcs = none
  ∧ (∀ ch ∈ popsOf (regCodes srcs), (s.myCore.chan ch).bind = none)
  ∧ chansReady s.myCore s.cur.slot s.me.prog.stamp (popsOf (regCodes srcs)) (if wait then destChan dst else none) false
      = true
  ∧ (∀ ch ∈ (if wait then destChan dst else none), (s.myCore.chan ch).bind.isSome = true → s.me.unack < 2 ^ 32 - 1)

/-- As `IssuesWith`, for every instruction but ENQ. -/
abbrev Issues (s : State) (p : Pred) (dst : Option Pos) (srcs : List Pos) : Prop := IssuesWith true s p dst srcs

/-- The state that the effect of an instruction starts from: the channels that its sources pop are noted (R153). -/
def began (s : State) (srcs : List Pos) : State := { s with cur := { s.cur with pops := popsOf (regCodes srcs) } }

/-- The state after an instruction that writes `v` to `d`, pops its sources' channels and falls through (R320). -/
def wrote (s : State) (srcs : List Pos) (d : Code) (v : Word) : State := ((began s srcs).wr d v).retire

/-- As `wrote`, for an instruction that writes no register. -/
def passed (s : State) (srcs : List Pos) : State := (began s srcs).retire

/-- The state-change log of the issuing core is off (R270). -/
abbrev LogOff (s : State) : Prop := bit s.myCore.slcfg 0 = false

/-- What stands after a thread's instruction as it stood before, wherever nothing of the instruction reaches: the
memories, every other core, every other thread of the core, the clusters and the partitions, and the package's
registers. -/
structure Elsewhere (s t : State) : Prop where
  dram : ∀ a, t.dram.get a = s.dram.get a
  host : ∀ a, t.host.get a = s.host.get a
  cores : ∀ c, c ≠ s.cur.core → t.core c = s.core c
  threads : ∀ sl, sl ≠ s.cur.slot → t.thread? s.cur.core sl = s.thread? s.cur.core sl
  clusters : t.clusters = s.clusters
  parts : t.parts = s.parts
  qmap : t.qmap = s.qmap
  grt : t.grt = s.grt
  ports : t.ports = s.ports
  minima : t.minima = s.minima
  watches : t.watches = s.watches
  dpoison : t.dpoison = s.dpoison
  clk : t.clk = s.clk
  cur : t.cur.core = s.cur.core ∧ t.cur.slot = s.cur.slot

/-- The issuing core's memories and registers that are neither the register file, the shared registers nor channels. -/
structure CoreKept (s t : State) : Prop where
  lmem : ∀ a, t.myCore.lmem.get a = s.myCore.lmem.get a
  full : t.myCore.full = s.myCore.full
  fx : t.myCore.fx = s.myCore.fx
  lpoison : t.myCore.lpoison = s.myCore.lpoison
  zf : t.myCore.zf = s.myCore.zf
  claims : t.myCore.claims = s.myCore.claims
  scl : t.myCore.scl = s.myCore.scl
  te : t.myCore.te = s.myCore.te
  seqnow : t.myCore.seqnow = s.myCore.seqnow
  ring : t.myCore.ring = s.myCore.ring
  deque : t.myCore.deque = s.myCore.deque
  sbuf : t.myCore.sbuf = s.myCore.sbuf
  dcache : t.myCore.dcache = s.myCore.dcache
  tlb : t.myCore.tlb = s.myCore.tlb
  trcfg : t.myCore.trcfg = s.myCore.trcfg
  slcfg : t.myCore.slcfg = s.myCore.slcfg
  ctrs : t.myCore.ctrs = s.myCore.ctrs

/-- The special registers of the issuing thread: everything of it but PC, the predicates and UNACK. -/
structure ThreadKept (t u : Thread) : Prop where
  lid : u.lid = t.lid
  pl : u.pl = t.pl
  tag : u.tag = t.tag
  sth : u.sth = t.sth
  base : u.base = t.base
  lim : u.lim = t.lim
  mode : u.mode = t.mode
  tvec : u.tvec = t.tvec
  tpc : u.tpc = t.tpc
  tcause : u.tcause = t.tcause
  tval : u.tval = t.tval
  tseq : u.tseq = t.tseq
  ts : u.ts0 = t.ts0 ∧ u.ts1 = t.ts1 ∧ u.ts2 = t.ts2 ∧ u.ts3 = t.ts3
  tsbase : u.tsbase = t.tsbase
  tjoin : u.tjoin = t.tjoin
  dqbase : u.dqbase = t.dqbase
  cpstat : u.cpstat = t.cpstat
  stack : u.tsreg = t.tsreg ∧ u.tsdepth = t.tsdepth
  touched : u.touched = t.touched
  late : u.late = t.late

/-- The frame of an instruction that writes the register `d` and nothing else: every register but `d`, every channel
but `d` and those it pops, every predicate, every special register, and everything elsewhere, is as it was; PC moves to
the next instruction. -/
structure RegisterFrame (s t : State) (d : Code) (srcs : List Pos) : Prop where
  elsewhere : Elsewhere s t
  core : CoreKept s t
  regs : ∀ n, ¬ (isGCode d = true ∧ n = s.me.base + codeNum d) → t.myCore.regs.lookD n 0 = s.myCore.regs.lookD n 0
  kregs : ∀ n, ¬ (isKCode d = true ∧ n = codeNum d) → t.myCore.kregs.lookD n [] = s.myCore.kregs.lookD n []
  chans : ∀ n, ¬ (isQCode d = true ∧ n = codeNum d) → n ∉ popsOf (regCodes srcs) → t.myCore.chan n = s.myCore.chan n
  thread : ThreadKept s.me t.me
  preds : t.me.preds = s.me.preds
  unack : t.me.unack = s.me.unack
  pc : t.me.pc = s.me.pc + 8

/-- The frame of an instruction that writes predicates and no register. -/
structure PredicateFrame (s t : State) (srcs : List Pos) : Prop where
  elsewhere : Elsewhere s t
  core : CoreKept s t
  regs : t.myCore.regs = s.myCore.regs
  kregs : t.myCore.kregs = s.myCore.kregs
  chans : ∀ n, n ∉ popsOf (regCodes srcs) → t.myCore.chan n = s.myCore.chan n
  thread : ThreadKept s.me t.me
  unack : t.me.unack = s.me.unack
  pc : t.me.pc = s.me.pc + 8

/-- The shell that an instruction issues through: whether a destination channel is waited for, its length in bytes, its
predicate, the position it writes and the positions it reads, in the order of R302 (R301 to R306). -/
structure Shell where
  wait : Bool
  len : Nat
  pred : Pred
  dst : Option Pos
  srcs : List Pos

/-- A position of a vector instruction: with a segment count of 0 it is checked and not read (R300). -/
abbrev vecPos (m : VMod) (x : Code) : Pos := ⟨x, if m.cnt = 0 then .named else .vec⟩

/-- The operand positions that each instruction of the Kamlyn set uses (R306, R302, R303); an event has none. -/
def Instr.shell : Sys2Proof.Instr → Option Shell
  | .add p d a b => some ⟨true, 8, p, some (rg d), [rg a, rg b]⟩
  | .sub p d a b => some ⟨true, 8, p, some (rg d), [rg a, rg b]⟩
  | .mul p d a b => some ⟨true, 8, p, some (rg d), [rg a, rg b]⟩
  | .mulh p d a b => some ⟨true, 8, p, some (rg d), [rg a, rg b]⟩
  | .mulhz p d a b => some ⟨true, 8, p, some (rg d), [rg a, rg b]⟩
  | .div p d a b => some ⟨true, 8, p, some (rg d), [rg a, rg b]⟩
  | .divz p d a b => some ⟨true, 8, p, some (rg d), [rg a, rg b]⟩
  | .rem p d a b => some ⟨true, 8, p, some (rg d), [rg a, rg b]⟩
  | .remz p d a b => some ⟨true, 8, p, some (rg d), [rg a, rg b]⟩
  | .and p d a b => some ⟨true, 8, p, some (rg d), [rg a, rg b]⟩
  | .or p d a b => some ⟨true, 8, p, some (rg d), [rg a, rg b]⟩
  | .xor p d a b => some ⟨true, 8, p, some (rg d), [rg a, rg b]⟩
  | .andn p d a b => some ⟨true, 8, p, some (rg d), [rg a, rg b]⟩
  | .shl p d a b => some ⟨true, 8, p, some (rg d), [rg a, rg b]⟩
  | .shr p d a b => some ⟨true, 8, p, some (rg d), [rg a, rg b]⟩
  | .sha p d a b => some ⟨true, 8, p, some (rg d), [rg a, rg b]⟩
  | .rol p d a b => some ⟨true, 8, p, some (rg d), [rg a, rg b]⟩
  | .min p d a b => some ⟨true, 8, p, some (rg d), [rg a, rg b]⟩
  | .max p d a b => some ⟨true, 8, p, some (rg d), [rg a, rg b]⟩
  | .minz p d a b => some ⟨true, 8, p, some (rg d), [rg a, rg b]⟩
  | .maxz p d a b => some ⟨true, 8, p, some (rg d), [rg a, rg b]⟩
  | .clz p d a => some ⟨true, 8, p, some (rg d), [rg a]⟩
  | .popc p d a => some ⟨true, 8, p, some (rg d), [rg a]⟩
  | .brev p d a => some ⟨true, 8, p, some (rg d), [rg a]⟩
  | .madd p d a b c => some ⟨true, 8, p, some (rg d), [rg a, rg b, rg c]⟩
  | .bfx p d a _ _ _ => some ⟨true, 8, p, some (rg d), [rg a]⟩
  | .bfi p d a b _ _ => some ⟨true, 8, p, some (rg d), [rg a, rg b]⟩
  | .addw p d a b => some ⟨true, 8, p, some (rg d), [rg a, rg b]⟩
  | .subw p d a b => some ⟨true, 8, p, some (rg d), [rg a, rg b]⟩
  | .mulw p d a b => some ⟨true, 8, p, some (rg d), [rg a, rg b]⟩
  | .addi p d a _ => some ⟨true, 8, p, some (rg d), [rg a]⟩
  | .andi p d a _ => some ⟨true, 8, p, some (rg d), [rg a]⟩
  | .ori p d a _ => some ⟨true, 8, p, some (rg d), [rg a]⟩
  | .xori p d a _ => some ⟨true, 8, p, some (rg d), [rg a]⟩
  | .shli p d a _ => some ⟨true, 8, p, some (rg d), [rg a]⟩
  | .shri p d a _ => some ⟨true, 8, p, some (rg d), [rg a]⟩
  | .shai p d a _ => some ⟨true, 8, p, some (rg d), [rg a]⟩
  | .muli p d a _ => some ⟨true, 8, p, some (rg d), [rg a]⟩
  | .ldi p d _ => some ⟨true, 8, p, some (rg d), []⟩
  | .ldih p d a _ => some ⟨true, 8, p, some (rg d), [rg a]⟩
  | .lea p d b _ => some ⟨true, 8, p, some (rg d), [rg b]⟩
  | .mov p d a => some ⟨true, 8, p, some (rg d), [rg a]⟩
  | .getid p d _ => some ⟨true, 8, p, some (rg d), []⟩
  | .cmp p _ a b _ => some ⟨true, 8, p, none, [rg a, rg b]⟩
  | .cmpi p _ a _ _ => some ⟨true, 8, p, none, [rg a]⟩
  | .plog p _ _ _ _ => some ⟨true, 8, p, none, []⟩
  | .sel p d _ _ a b => some ⟨true, 8, p, some (rg d), [rg a, rg b]⟩
  | .pget p d => some ⟨true, 8, p, some (rg d), []⟩
  | .pset p a => some ⟨true, 8, p, none, [rg a]⟩
  | .br p _ => some ⟨true, 8, p, none, []⟩
  | .jmp p a => some ⟨true, 8, p, none, [rg a]⟩
  | .call p d _ => some ⟨true, 8, p, some (rg d), []⟩
  | .callr p d a => some ⟨true, 8, p, some (rg d), [rg a]⟩
  | .ret p a => some ⟨true, 8, p, none, [rg a]⟩
  | .loop p d _ => some ⟨true, 8, p, some (rg d), [rg d]⟩
  | .nop p => some ⟨true, 8, p, none, []⟩
  | .exit p => some ⟨true, 8, p, none, []⟩
  | .ld p d b _ _ _ _ => some ⟨true, 8, p, some (rg d), [rg b]⟩
  | .st p b a _ _ _ => some ⟨true, 8, p, none, [rg a, rg b]⟩
  | .ldx p d b c _ _ _ => some ⟨true, 8, p, some (rg d), [rg b, rg c]⟩
  | .stx p a b c _ _ => some ⟨true, 8, p, none, [rg a, rg b, rg c]⟩
  | .lda p d b _ _ _ _ _ => some ⟨true, 8, p, some (rg d), [rg b]⟩
  | .stl p b a _ _ _ _ => some ⟨true, 8, p, none, [rg a, rg b]⟩
  | .ldf p d b _ _ _ _ _ => some ⟨true, 8, p, some (rg d), [rg b]⟩
  | .stf p b a _ _ _ => some ⟨true, 8, p, none, [rg a, rg b]⟩
  | .clre p b a _ _ => some ⟨true, 8, p, none, [rg a, rg b]⟩
  | .pref p b _ => some ⟨true, 8, p, none, [rg b]⟩
  | .amo p d b a _ _ => some ⟨true, 8, p, some (rg d), [rg a, rg b]⟩
  | .cas p d b a c _ => some ⟨true, 8, p, some (rg d), [rg a, rg b, rg c]⟩
  | .red p b a _ _ => some ⟨true, 8, p, none, [rg a, rg b]⟩
  | .famo p d b a _ _ => some ⟨true, 8, p, some (rg d), [rg a, rg b]⟩
  | .fred p b a _ _ => some ⟨true, 8, p, none, [rg a, rg b]⟩
  | .watch p b a _ _ _ _ => some ⟨true, 8, p, none, [rg a, rg b]⟩
  | .fence p _ _ => some ⟨true, 8, p, none, []⟩
  | .pfence p _ => some ⟨true, 8, p, none, []⟩
  | .bar p a b _ => some ⟨true, 8, p, none, [rg a, rg b]⟩
  | .bara p a b _ => some ⟨true, 8, p, none, [rg a, rg b]⟩
  | .barw p a b _ => some ⟨true, 8, p, none, [rg a, rg b]⟩
  | .qpeek p d a => some ⟨true, 8, p, some (rg d), [⟨a, .chan⟩]⟩
  | .qcnt p d a => some ⟨true, 8, p, some (rg d), [⟨a, .chan⟩]⟩
  | .qbind p a b => some ⟨true, 8, p, none, [⟨a, .chan⟩, rg b]⟩
  | .qflush p a => some ⟨true, 8, p, none, [⟨a, .chan⟩]⟩
  | .vsync p => some ⟨true, 8, p, none, []⟩
  | .kwait p a b _ => some ⟨true, 8, p, none, [⟨a, .kreg⟩, rg b]⟩
  | .spawn p a b _ _ => some ⟨true, 8, p, none, [⟨a, .group 8 1⟩, rg b]⟩
  | .joinw p a _ => some ⟨true, 8, p, none, [rg a]⟩
  | .wfw p => some ⟨true, 8, p, none, []⟩
  | .tnew p d a _ => some ⟨true, 8, p, some (rg d), [rg a]⟩
  | .yield p => some ⟨true, 8, p, none, []⟩
  | .park p a => some ⟨true, 8, p, none, [rg a]⟩
  | .fadd p d a b _ _ => some ⟨true, 8, p, some (rg d), [rg a, rg b]⟩
  | .fsub p d a b _ _ => some ⟨true, 8, p, some (rg d), [rg a, rg b]⟩
  | .fmul p d a b _ _ => some ⟨true, 8, p, some (rg d), [rg a, rg b]⟩
  | .ffma p d a b c _ _ => some ⟨true, 8, p, some (rg d), [rg a, rg b, rg c]⟩
  | .fdiv p d a b _ _ => some ⟨true, 8, p, some (rg d), [rg a, rg b]⟩
  | .fsqrt p d a _ _ => some ⟨true, 8, p, some (rg d), [rg a]⟩
  | .fmin p d a b _ _ => some ⟨true, 8, p, some (rg d), [rg a, rg b]⟩
  | .fmax p d a b _ _ => some ⟨true, 8, p, some (rg d), [rg a, rg b]⟩
  | .fcmp p _ a b _ _ _ => some ⟨true, 8, p, none, [rg a, rg b]⟩
  | .fcvt p d a _ _ _ => some ⟨true, 8, p, some (rg d), [rg a]⟩
  | .fsgn p d a b _ _ _ => some ⟨true, 8, p, some (rg d), [rg a, rg b]⟩
  | .fclass p d a _ _ => some ⟨true, 8, p, some (rg d), [rg a]⟩
  | .vadd p d a b m => some ⟨false, 16, p, none, [vecPos m d, vecPos m a, vecPos m b]⟩
  | .vsub p d a b m => some ⟨false, 16, p, none, [vecPos m d, vecPos m a, vecPos m b]⟩
  | .vmul p d a b m => some ⟨false, 16, p, none, [vecPos m d, vecPos m a, vecPos m b]⟩
  | .vfma p d a b c m => some ⟨false, 16, p, none, [vecPos m d, vecPos m a, vecPos m b, vecPos m c]⟩
  | .vmin p d a b m => some ⟨false, 16, p, none, [vecPos m d, vecPos m a, vecPos m b]⟩
  | .vmax p d a b m => some ⟨false, 16, p, none, [vecPos m d, vecPos m a, vecPos m b]⟩
  | .vabs p d a m => some ⟨false, 16, p, none, [vecPos m d, vecPos m a]⟩
  | .vscl p d a b m => some ⟨false, 16, p, none, [vecPos m d, vecPos m a, vecPos m b]⟩
  | .vaxpy p d a b c m => some ⟨false, 16, p, none, [vecPos m d, vecPos m a, vecPos m b, vecPos m c]⟩
  | .vand p d a b m => some ⟨false, 16, p, none, [vecPos m d, vecPos m a, vecPos m b]⟩
  | .vor p d a b m => some ⟨false, 16, p, none, [vecPos m d, vecPos m a, vecPos m b]⟩
  | .vxor p d a b m => some ⟨false, 16, p, none, [vecPos m d, vecPos m a, vecPos m b]⟩
  | .vshl p d a b m => some ⟨false, 16, p, none, [vecPos m d, vecPos m a, vecPos m b]⟩
  | .vshr p d a b m => some ⟨false, 16, p, none, [vecPos m d, vecPos m a, vecPos m b]⟩
  | .vcmp p d a b m => some ⟨false, 16, p, none, [vecPos m d, vecPos m a, vecPos m b]⟩
  | .vsel p d a b c m => some ⟨false, 16, p, none, [vecPos m d, vecPos m a, vecPos m b, vecPos m c]⟩
  | .vcmul p d a b m => some ⟨false, 16, p, none, [vecPos m d, vecPos m a, vecPos m b]⟩
  | .vcmac p d a b c m => some ⟨false, 16, p, none, [vecPos m d, vecPos m a, vecPos m b, vecPos m c]⟩
  | .vmov p d a m => some ⟨false, 16, p, none, [vecPos m d, vecPos m a]⟩
  | .vred p d a m => some ⟨false, 16, p, none, [vecPos m d, vecPos m a]⟩
  | .vdot p d a b m => some ⟨false, 16, p, none, [vecPos m d, vecPos m a, vecPos m b]⟩
  | .vscan p d a m => some ⟨false, 16, p, none, [vecPos m d, vecPos m a]⟩
  | .vcvt p d a m => some ⟨false, 16, p, none, [vecPos m d, vecPos m a]⟩
  | .vldg p d a m => some ⟨false, 16, p, none, [vecPos m d, vecPos m a]⟩
  | .vstg p d a m => some ⟨false, 16, p, none, [vecPos m d, vecPos m a]⟩
  | .vgath p d a b m => some ⟨false, 16, p, none, [vecPos m d, vecPos m a, vecPos m b]⟩
  | .vscat p d a b m => some ⟨false, 16, p, none, [vecPos m d, vecPos m a, vecPos m b]⟩
  | .vbcst p d a m => some ⟨false, 16, p, none, [vecPos m d, vecPos m a]⟩
  | .viota p d m => some ⟨false, 16, p, none, [vecPos m d]⟩
  | .vperm p d a b m => some ⟨false, 16, p, none, [vecPos m d, vecPos m a, vecPos m b]⟩
  | .vexp p d a m => some ⟨false, 16, p, none, [vecPos m d, vecPos m a]⟩
  | .vlog p d a m => some ⟨false, 16, p, none, [vecPos m d, vecPos m a]⟩
  | .vrcp p d a m => some ⟨false, 16, p, none, [vecPos m d, vecPos m a]⟩
  | .vrsq p d a m => some ⟨false, 16, p, none, [vecPos m d, vecPos m a]⟩
  | .vsin p d a m => some ⟨false, 16, p, none, [vecPos m d, vecPos m a]⟩
  | .vcos p d a m => some ⟨false, 16, p, none, [vecPos m d, vecPos m a]⟩
  | .enq p d a => some ⟨false, 8, p, some (rg d), [⟨a, .group 4 4⟩]⟩
  | .waitj p a => some ⟨true, 8, p, none, [rg a]⟩
  | .pollj p d a => some ⟨true, 8, p, some (rg d), [rg a]⟩
  | .jstat p d a => some ⟨true, 8, p, some (rg d), [rg a]⟩
  | .zfset p a _ => some ⟨true, 8, p, none, [rg a]⟩
  | .zfget p d _ => some ⟨true, 8, p, some (rg d), []⟩
  | .sclw p a _ => some ⟨true, 8, p, none, [rg a]⟩
  | .cbld p a _ => some ⟨true, 8, p, none, [rg a]⟩
  | .chwp p d _ => some ⟨true, 8, p, some (rg d), []⟩
  | .boxt p d a b => some ⟨true, 8, p, some (rg d), [⟨a, .group 4 1⟩, rg b]⟩
  | .trit p d a b => some ⟨true, 8, p, some ⟨d, .group 2 1⟩, [⟨a, .group 4 1⟩, rg b]⟩
  | .tspush p a => some ⟨true, 8, p, none, [rg a]⟩
  | .tspop p d => some ⟨true, 8, p, some (rg d), []⟩
  | .tsclr p => some ⟨true, 8, p, none, []⟩
  | .smpl p d a b _ => some ⟨true, 8, p, some (rg d), [rg a, rg b]⟩
  | .sld p d a _ => some ⟨true, 8, p, some (rg d), [rg a]⟩
  | .lset p a b sel => some ⟨true, 8, p, none, [rg a, if sel.val = 14 then ⟨b, .group 2 1⟩ else rg b]⟩
  | .lget p d a _ => some ⟨true, 8, p, some (rg d), [rg a]⟩
  | .lsplit p a b c => some ⟨true, 8, p, none, [rg a, rg b, rg c]⟩
  | .lmerge p a b => some ⟨true, 8, p, none, [rg a, rg b]⟩
  | .lreq p d => some ⟨true, 8, p, some (rg d), []⟩
  | .ldone p a => some ⟨true, 8, p, none, [rg a]⟩
  | .lepoch p a => some ⟨true, 8, p, none, [rg a]⟩
  | .wgalloc p d a => some ⟨true, 8, p, some (rg d), [rg a]⟩
  | .wgemit p a b => some ⟨true, 8, p, none, [rg a, rg b]⟩
  | .wgtake p d a b => some ⟨true, 8, p, some (rg d), [rg a, rg b]⟩
  | .wgfree p a => some ⟨true, 8, p, none, [rg a]⟩
  | .paya p d => some ⟨true, 8, p, some (rg d), []⟩
  | .payp p a b c => some ⟨true, 8, p, none, [rg a, rg b, rg c]⟩
  | .trap p _ => some ⟨true, 8, p, none, []⟩
  | .rft p => some ⟨true, 8, p, none, []⟩
  | .srrd p d _ => some ⟨true, 8, p, some (rg d), []⟩
  | .srwr p a _ => some ⟨true, 8, p, none, [rg a]⟩
  | .bkpt p => some ⟨true, 8, p, none, []⟩
  | .tlbinv p a _ => some ⟨true, 8, p, none, [rg a]⟩
  | .cinv p a _ => some ⟨true, 8, p, none, [rg a]⟩
  | .stopw p _ => some ⟨true, 8, p, none, []⟩
  | .resw p _ => some ⟨true, 8, p, none, []⟩
  | .logmk p a => some ⟨true, 8, p, none, [rg a]⟩
  | .cntrd p d _ => some ⟨true, 8, p, some (rg d), []⟩
  | .powerOn _ | .bootRestart _ | .raiseFusedMinimum _ | .getVersion
  | .getCapabilities | .negotiateAlgorithms | .getDigests | .getCertificate _
  | .challenge _ _ | .getMeasurements _ | .spdmUnsupportedRequest _ | .thermalTrip
  | .thermalRelease | .powerThrottleStart | .powerThrottleEnd | .phcmdAssign _
  | .phcmdRelease _ | .releaseScrub _ | .devnumWrite _ | .gpsRetrain _
  | .linkTrainingDone _ _ _ | .portDown _ | .gondolaForward _ | .remoteAccessArrival _
  | .remoteReply _ _ | .remoteAccessTimeout _ | .vfConfigAccess _ | .apertureRead _ _ _
  | .apertureWrite _ _ _ | .hostRegisterWrite _ _ _ | .qdbWrite _ _ _ | .qcfgEnable _ _ _
  | .qcfgDisable _ _ _ | .qcfgPause _ _ _ | .qcfgUnpause _ _ _ | .ifvwWrite _ _
  | .frcfgEnable _ _ | .frcfgDisable _ _ | .fresRetry _ _ | .fresFatalPageflt _ _
  | .fresFatalProt _ _ | .frheadWrite _ _ | .olcfgEnable _ | .launch _ _
  | .rootPlace _ | .launchComplete _ _ | .graphLoad _ _ | .triggerBind _ _
  | .copy _ _ | .copyComplete _ _ | .signal _ _ | .wait _ _
  | .waitSatisfied _ _ | .layerTable _ _ | .headBind _ _ | .exportQueue _ _
  | .exportComplete _ _ | .importQueue _ _ | .trigWrite _ _ _ | .graphNodeLaunch _ _
  | .graphNodeSignal _ _ | .graphNodeLoop _ _ | .graphNodeCond _ _ | .graphNodeEnd _ _
  | .remoteLaunchRequest _ | .remoteLaneStart _ | .remoteLaunchResult _ _ | .remoteLaunchTimeout _
  | .dploadWrite _ _ _ | .policyCheckDone _ | .operatorDisclosureRead _ _ | .operatorDebugStop _ _
  | .debugStopAck | .disclosureIntervalEnd _ | .frameTick | .frameEncode
  | .ecfgKeySet _ _ _ | .threadCreate _ _ | .frameDelivery _ _ | .stealRequest _ _
  | .stealServe _ _ | .stealReplyArrival _ _ | .stealRetryTimeout _ _ | .terminationCount _ _
  | .rotationBoundary _ | .threadDisplace _ _ | .displacedResume _ | .drcfgBind _ _ _
  | .drcfgUnbind _ _ _ | .dtailWrite _ _ _ | .dispenserDeliver _ | .wgdaBind _ _ _
  | .wgdaUnbind _ _ | .wgBatchTimeout _ _ | .wgBatchDeliver _ | .payloadFrameDeliver _
  | .channelWake _ _ | .proxyBatchTimeout _ _ | .proxyDelivery _ | .proxyCreditReturn _
  | .coreSleep _ | .coreWake _ _ | .ldfWake _ _ | .storeBufferDrain _ _
  | .sliceAtomic _ | .watchWake _ _ | .watchPoll _ _ | .tableWalk _ _ _
  | .faultMessage _ _ | .releaseProbeEcho _ _ _ | .storeAck _ | .joinwWake _ _
  | .kwaitWake _ _ | .parkExpire _ _ | .lreqWake _ | .payaWake _
  | .spawnRingWake _ _ | .stopwComplete _ _ | .tlbinvComplete _ _ | .vectorEntryPerform _ _
  | .lateTrapEntry _ _ | .enqAccept _ _ | .waitjWake _ _ | .engineBadcmd _ _
  | .lds _ | .mma _ | .sta _ | .aclr _
  | .swaps _ | .cmma _ | .mstat _ | .fft _
  | .ifft _ | .xact _ | .cpy _ _ | .gthr _ _
  | .sctr _ _ | .fill _ _ | .ared _ _ | .bcst _ _
  | .agth _ _ | .collectiveContribution _ | .collectiveTimeout _ _ | .hcfgWrite _ _ _ _
  | .cpreqPreempt _ _ _ | .preemptSave _ | .cpreqResume _ _ _ | .dbgsStop _ _ _
  | .dbgsResume _ _ _ | .dbgdRead _ _ _ | .dbgdWrite _ _ _ | .eccCorrected _
  | .eccUncorrectable _ | .machineCheck _ | .ocfgEnable _ _ _ | .stateLogTimeout _
  | .ringFetchFault _ _ | .badpkt _ _ | .acceptanceReply _ => none

/-- The instruction goes ahead in its shell. -/
abbrev GoesAhead (s : State) (sh : Shell) : Prop := IssuesWith sh.wait s sh.pred sh.dst sh.srcs

/-- The local offset at which an access of `n` bytes at `ea` is performed, where it lands at the issuing core's own port
and waits for no vector entry (R173, R174, R347, R169); `loc` is L. -/
def State.ownPort (s : State) (loc : Bool) (ea : Word) (n : Nat) : Option Nat :=
  if vecBusy s.myCore s.me.sth || ea.toNat % n != 0 then none
  else if loc then (if ea.toNat < 2 ^ 19 then some (s.redirect s.myPartNo s.me ea.toNat) else none)
  else if ea.toNat < 2 ^ 57 && isWindow ea.toNat && !s.winBad ea.toNat && s.winHere ea.toNat
      && s.corePart (winCore ea.toNat) == some s.myPartNo && winCore ea.toNat == s.cur.core then
    some (s.redirect s.myPartNo s.me (winOff ea.toNat))
  else none

/-- The physical address that an access of `n` bytes at a virtual address is translated to, and the state of the
translation, where it waits for no vector entry and no fault is due (R173, R185, R380). -/
def State.dramPort (s : State) (ea : Word) (n : Nat) (acc : Acc) : Option (Nat × State) :=
  if 2 ^ 57 ≤ ea.toNat || ea.toNat % n != 0 || isWindow ea.toNat || s.me.prog.fatal.isSome then none
  else
    match s.translate (.core s.cur.core) s.myPartNo ea.toNat acc (s.me.pl = 0) with
    | .ok pa t => if t.globalBusy t.cur.core t.me.sth ea n then none else some (pa, t)
    | _ => none

/-- A release at a scope has nothing to wait for (R206): the scope is SLOT, the instruction has released already, or the
thread has no write unacknowledged, no slice touched and no store in the buffer that the scope covers. -/
abbrev ReleaseHolds (s : State) (sc : Scope) : Prop :=
  sc.code = 0 ∨ s.me.prog.released = true
  ∨ (s.me.rel = none ∧ s.me.unack = 0 ∧ s.me.touched = [] ∧ ∀ e ∈ s.myCore.sbuf, wideScope sc = false ∧ e.sth ≠ s.me.sth)

/-- The frame of an instruction that stores `n` bytes at offset `o` of the issuing core's local memory and writes no
register: every other byte of every memory, every register, predicate, channel that is not popped and special register
is as it was; PC moves on. -/
structure PortFrame (s t : State) (o n : Nat) (srcs : List Pos) : Prop where
  elsewhere : Elsewhere s t
  lmem : ∀ a, ¬ (o ≤ a ∧ a < o + n) → t.myCore.lmem.get a = s.myCore.lmem.get a
  regs : t.myCore.regs = s.myCore.regs
  kregs : t.myCore.kregs = s.myCore.kregs
  chans : ∀ ch, ch ∉ popsOf (regCodes srcs) → t.myCore.chan ch = s.myCore.chan ch
  zf : t.myCore.zf = s.myCore.zf
  scl : t.myCore.scl = s.myCore.scl
  te : t.myCore.te = s.myCore.te
  seqnow : t.myCore.seqnow = s.myCore.seqnow
  ring : t.myCore.ring = s.myCore.ring
  deque : t.myCore.deque = s.myCore.deque
  sbuf : t.myCore.sbuf = s.myCore.sbuf
  thread : ThreadKept s.me t.me
  preds : t.me.preds = s.me.preds
  unack : t.me.unack = s.me.unack
  pc : t.me.pc = s.me.pc + 8

/-- The cells that the parts of a read of the ray unit or the sampler lie in, one part for each page, and the state of
their translations (R415, R185). -/
def State.sampleCells : State → List (Nat × Nat) → Option (List Nat × State)
  | s, [] => some ([], s)
  | s, (a, n) :: l =>
    if isWindow a || s.me.prog.fatal.isSome then none
    else
      match s.translate (.core s.cur.core) s.myPartNo a .read (s.me.pl = 0) with
      | .ok pa t => (State.sampleCells t l).map fun r => (cellsOf pa n ++ r.1, r.2)
      | _ => none

/-- The bytes that a read of the ray unit or the sampler answers, and the state after it (R415): the address is aligned
and virtual, the tables translate each page of it, and no cell of it is poisoned. -/
def State.sampled (s : State) (ea : Word) (n al : Nat) : Option (List Byte × State) :=
  if 2 ^ 57 ≤ ea.toNat || ea.toNat % al != 0 || isWindow ea.toNat then none
  else
    (s.sampleCells (pageParts 2 ea.toNat n)).bind fun q =>
      match q.2.scCells q.1 with
      | (some bs, u) => some ((bs.drop (ea.toNat % 32)).take n, u)
      | (none, _) => none

/-- Where the Rink finds the runs of a range, and the state of their translations (R425, R185). -/
def State.rinkPlaces (acc : Acc) : State → List (Nat × Nat) → Option (List (Nat × Nat) × State)
  | s, [] => some ([], s)
  | s, (va, n) :: rest =>
    if 2 ^ 57 ≤ va || isWindow va || s.me.prog.fatal.isSome then none
    else
      match s.translate .lodge s.myPartNo va acc false with
      | .ok pa t => (State.rinkPlaces acc t rest).map fun r => ((pa, n) :: r.1, r.2)
      | _ => none

/-- Where the Rink finds the `n` bytes at an address: physical runs, page by page. -/
def State.rinkPlace (s : State) (acc : Acc) (va n : Nat) : Option (List (Nat × Nat) × State) :=
  State.rinkPlaces acc s (pageParts (n / 4096 + 2) va n)

/-- Where the Rink finds what it touches of a surface: the pages that hold a byte of one of the pixels (R427); the others
stand as the address 0. -/
def State.rinkSome (acc : Acc) (is : List Nat) : State → Nat → List (Nat × Nat) → Option (List (Nat × Nat) × State)
  | s, _, [] => some ([], s)
  | s, o, (va, n) :: rest =>
    if is.any fun i => 4 * i < o + n && o < 4 * i + 4 then
      (State.rinkPlaces acc s [(va, n)]).bind fun q => (State.rinkSome acc is q.2 (o + n) rest).map fun r => (q.1 ++ r.1, r.2)
    else (State.rinkSome acc is s (o + n) rest).map fun r => ((0, n) :: r.1, r.2)

/-- Where the pages of the pixels `is` of a surface of `n` bytes lie. -/
def State.rinkFind (s : State) (acc : Acc) (va n : Nat) (is : List Nat) : Option (List (Nat × Nat) × State) :=
  State.rinkSome acc is s 0 (pageParts (n / 4096 + 2) va n)

/-- The bytes of a range. -/
def State.rinkGet (s : State) (l : List (Nat × Nat)) : List Byte :=
  (l.map fun q => s.dramBytes s.myPart.keyGen q.1 q.2).flatten

/-- The Rink reads a range already translated, none of it poisoned: its bytes, and the state after the slices have been
looked up (R266, R179). -/
def State.rinkRead (s : State) (l : List (Nat × Nat)) : Option (List Byte × State) :=
  if l.any fun q => s.dramPoisoned q.1 q.2 then none else some (s.rinkGet l, s.sliceSee s.myPartNo l)

/-- A descriptor of the installed table as the Rink reads it: its bytes, where they lie, and the state after it (R75). -/
def State.rinkDesc (s : State) (acc : Acc) (x : Nat) : Option (List Byte × List (Nat × Nat) × State) :=
  (s.rinkPlace acc (s.descAddr x) 64).bind fun q => (q.2.rinkRead q.1).map fun r => (r.1, q.1, r.2)

/-- What LSPLIT has read, and where its writes go (R88): both descriptors, the mask, the source's colours and depths at the
pixels of the mask, and the parts of the descriptor and of the surfaces that are written. -/
structure SplitView where
  ds : List Byte
  dn : List Byte
  m : List Byte
  sc : List Byte
  sz : List Byte
  ln : List (Nat × Nat)
  lnc : List (Nat × Nat)
  lnz : List (Nat × Nat)
  lsz : List (Nat × Nat)
  s : State
  deriving DecidableEq

/-- Pixels of the layer that is split. -/
def SplitView.cnt (v : SplitView) : Nat := dW v.ds * dH v.ds

/-- Pixels of the layer that the mask names. -/
def SplitView.is (v : SplitView) : List Nat := (List.range v.cnt).filter (maskBit v.m)

/-- The reads of LSPLIT, every page that it touches translated before any byte is read of a surface. -/
def State.splitView (s : State) (hs hn ma : Nat) : Option SplitView :=
  (s.rinkDesc .read hs).bind fun (ds, _, s) => (s.rinkDesc .write hn).bind fun (dn, ln, s) =>
    let cnt := dW ds * dH ds
    (s.rinkPlace .read ma ((cnt + 7) / 8)).bind fun (lm, s) => (s.rinkRead lm).bind fun (m, s) =>
    let is := (List.range cnt).filter (maskBit m)
    (s.rinkFind .read (dCsurf ds) (4 * cnt) is).bind fun (lsc, s) =>
    (s.rinkFind .write (dZsurf ds) (4 * cnt) is).bind fun (lsz, s) =>
    (s.rinkFind .write (dCsurf dn) (4 * cnt) is).bind fun (lnc, s) =>
    (s.rinkPlace .write (dZsurf dn) (4 * cnt)).bind fun (lnz, s) =>
    (s.rinkRead (pixelParts lsc is)).bind fun (sc, s) => (s.rinkRead (pixelParts lsz is)).map fun (sz, s) => ⟨ds, dn, m, sc, sz, ln, lnc, lnz, lsz, s⟩

/-- What LMERGE has read of the surfaces of two layers, where the first one's lie, and the pixels at which the second one's
fragment sorts first (R89): depths of every pixel, and the second one's colours at those. -/
structure MergeView where
  az : List Byte
  bz : List Byte
  is : List Nat
  bc : List Byte
  lac : List (Nat × Nat)
  laz : List (Nat × Nat)
  s : State
  deriving DecidableEq

/-- The reads of LMERGE of a and b, whose handles are `ha` and `hb`. -/
def State.mergeView (s : State) (ha hb : Nat) (da db : List Byte) : Option MergeView :=
  let n := 4 * (dW da * dH da)
  (s.rinkPlace .read (dZsurf da) n).bind fun (lza, s) => (s.rinkPlace .read (dZsurf db) n).bind fun (lzb, s) =>
  (s.rinkRead lza).bind fun (az, s) => (s.rinkRead lzb).bind fun (bz, s) =>
  let is := (List.range (dW da * dH da)).filter fun i => frontOf da db ha hb (leNat (px az i)) (leNat (px bz i))
  (s.rinkFind .write (dZsurf da) n is).bind fun (laz, s) => (s.rinkFind .write (dCsurf da) n is).bind fun (lac, s) =>
  (s.rinkFind .read (dCsurf db) n is).bind fun (lbc, s) => (s.rinkRead (pixelParts lbc is)).map fun (bc, s) =>
    ⟨az, bz, is, bc, lac, laz, s⟩

/-- No core logs the states of its threads or counts events (R270, R273): the passing of time and a thread's waking then
touch nothing else. -/
abbrev Quiet (s : State) : Prop := ∀ e ∈ s.cores, bit e.2.slcfg 0 = false ∧ e.2.cevs = []

/-- What the thread in a slot is parked for. -/
def State.parkedFor (s : State) (c sl : Nat) : Option Why := (s.whyOf c sl).map Park.why

/-- The thread in a slot wakes: it is parked no more, stands on the same instruction, and that issues next; its core's
registers and every memory are as they were. -/
structure Woken (s t : State) (c sl : Nat) : Prop where
  thread : ∃ u v, s.thread? c sl = some u ∧ t.thread? c sl = some v ∧ v.park = none ∧ v.pc = u.pc ∧ v.preds = u.preds
  agenda : t.agenda = .slot c sl :: s.agenda
  regs : (t.core c).regs = (s.core c).regs
  lmem : (t.core c).lmem = (s.core c).lmem
  dram : t.dram = s.dram

/-- As `Quiet`, and no engine counts events or keeps a histogram, and no core traces its jobs (R269, R272, R273). -/
abbrev QuietEngines (s : State) : Prop :=
  Quiet s ∧ (∀ e ∈ s.clusters, e.2.esel = [] ∧ e.2.hcfg = []) ∧ (∀ e ∈ s.cores, bit e.2.trcfg 3 = false)

/-- An engine, or a channel of the copy unit, takes up a job: it is the first there, its command is `cmd`, it is queued or
running in a live partition, and no fault is due at it (R387, R409). -/
abbrev JobReady (s : State) (cl eng : Nat) (ch : Option Nat) (cmd : Nat) (j : Job) : Prop :=
  (s.cluster cl).headJob eng ch = some j ∧ j.ecmd = cmd ∧ j.runnable = true ∧ (s.part j.part).st = 1 ∧ j.fatal = none
  ∧ bit (s.core j.core).trcfg 3 = false

/-- A job as its acceptance leaves it (R387): nothing of it has run. -/
abbrev Job.isNew (j : Job) : Prop :=
  j.st = .queued ∧ j.started = false ∧ j.donec = 0 ∧ j.half = false ∧ j.failed = none ∧ j.out = 0 ∧ j.got = none ∧ j.idx = [] ∧ j.zfs = []

/-- A job has completed after `n` cycles with the effect that `u` holds: it has left its queue, its status is kept, and
nothing else of the engine, of local memory, of the registers and of DRAM has changed (R387, R390). -/
structure JobDone (u t : State) (cl : Nat) (j : Job) (n : Nat) : Prop where
  queue : (t.cluster cl).queue j.eng = ((u.cluster cl).queue j.eng).filter fun o => decide (o.seq ≠ j.seq)
  status : ((t.cluster cl).past.look j.id).map Job.st = some .done
  clk : t.clk = u.clk + n
  tiles : (t.cluster cl).tiles = (u.cluster cl).tiles
  planes : (t.cluster cl).active = (u.cluster cl).active ∧ (t.cluster cl).shadow = (u.cluster cl).shadow
  chanPtr : (t.cluster cl).chanPtr = (u.cluster cl).chanPtr
  contribs : (t.cluster cl).contribs = (u.cluster cl).contribs
  lmem : ∀ c, (t.core c).lmem = (u.core c).lmem ∧ (t.core c).full = (u.core c).full ∧ (t.core c).fx = (u.core c).fx
  regs : ∀ c, (t.core c).regs = (u.core c).regs
  dram : t.dram = u.dram ∧ t.dpoison = u.dpoison

/-- The instructions that write one register and do nothing else. -/
def registerResult : Instr → Bool
  | .add .. | .sub .. | .mul .. | .mulh .. | .mulhz .. | .div .. | .divz .. | .rem .. | .remz .. | .and .. | .or ..
  | .xor .. | .andn .. | .shl .. | .shr .. | .sha .. | .rol .. | .min .. | .max .. | .minz .. | .maxz .. | .clz ..
  | .popc .. | .brev .. | .madd .. | .bfx .. | .bfi .. | .addw .. | .subw .. | .mulw .. | .addi .. | .andi .. | .ori ..
  | .xori .. | .shli .. | .shri .. | .shai .. | .muli .. | .ldi .. | .ldih .. | .lea .. | .mov .. | .getid .. | .sel ..
  | .pget .. | .fadd .. | .fsub .. | .fmul .. | .ffma .. | .fdiv .. | .fsqrt .. | .fmin .. | .fmax .. | .fcvt ..
  | .fsgn .. | .fclass .. => true
  | _ => false

/-- The instructions that write one predicate, or p1 to p7, and do nothing else. -/
def predicateResult : Instr → Bool
  | .cmp .. | .cmpi .. | .plog .. | .pset .. | .fcmp .. => true
  | _ => false

/-- Nothing watches the issuing core: no state-change log, no trace of traps, no counters (R269, R270, R273). -/
abbrev Unwatched (s : State) : Prop := LogOff s ∧ bit s.myCore.trcfg 1 = false ∧ s.myCore.cevs = []

/-- A run of `n` steps from a state: every step answers a next state. -/
def SafeRun : Nat → State → Prop
  | 0, _ => True
  | n + 1, s => ∃ t, step s = .next t ∧ SafeRun n t

/-- The fused security-version minima of `t` are at least those of `s` (R42). -/
def MinimaRise (s t : State) : Prop := ∀ i, s.minima.lookD i 0 ≤ t.minima.lookD i 0

/-- Memories of a state in their canonical form. -/
abbrev State.memWf (s : State) : Prop :=
  s.dram.wf = true ∧ s.host.wf = true ∧ (∀ e ∈ s.cores, e.2.lmem.wf = true)

end Sys2Proof.Machine
end

