-- ==== Sys2Proof/Certificates/Slice0/Obligations.lean ====
section
/-!
DEFINITION. The obligations: statements about the machine, each formalising rules of the spec that its docstring names.
-/

open Sys2Proof Sys2Proof.Machine

/-- Words written out in the spec decode to the instructions that the spec gives them (R309, R324 to R337). -/
def Obligations.WrittenWordsDecode : Prop :=
  decodeWords [0x09000A0189ABCDEF] = .ok (.ldi .always 5 0x189ABCDEF)
  ∧ decodeWords [0x09200A0A0091A2B3] = .ok (.ldih .always 5 5 0x0091A2B3)
  ∧ decodeWords [0x1020240E00000064] = .ok (.cmpi .always 2 7 .lt 100)
  ∧ decodeWords [0x20000C00040C0000] = .ok (.ld .always 6 2 0 .w true false)
  ∧ decodeWords [0x00000A0A0C000000] = .ok (.add .always 5 5 6)
  ∧ decodeWords [0x18A009FFFFFFFFFD] = .ok (.loop .always 4 (-3))
  ∧ decodeWords [0x2020000A06060000] = .ok (.st .always 3 5 0 .d false)
  ∧ decodeWords [0x18E0000000000000] = .ok (.exit .always)
  ∧ decodeWords [0x4000080A0C000001] = .ok (.fadd .always 4 5 6 .s .rtz)
  ∧ decodeWords [0x6800000000000011] = .ok (.trap .always 17)
  ∧ decodeWords [0x68400A0000000100] = .ok (.srrd .always 5 0x100)

/-- Every well-formed instruction of the Kamlyn set, laid out as bytes, decodes to itself: no operand of any encoding is
dropped, at any value that the encoding admits (R299 to R314). -/
def Obligations.EncodedInstructionsDecode : Prop :=
  ∀ i : Instr, i.isCode = true → i.wf = true → decode ((encode i).flatMap (leBytes 8)) = .ok i

/-- The decoder answers only instructions of the set that are well formed, whatever the words: reserved values and
non-zero unused sub-fields are refused (R304 steps 1, 2 and 4, R307 to R314). The checks on the first word go in the
order of R304: an opcode that the grid leaves empty is ILLOP whatever LEN holds, LEN is judged next, and neither
needs an EXT word. The instructions that R306 marks privileged raise PRIV at APP level, with the first word in TVAL,
before any sub-field is judged; ILLOP and ILLLEN go before it (R304 steps 1 to 3). At KER level and above the
sub-fields are judged next. -/
def Obligations.WordsAreJudgedInOrder : Prop :=
  (∀ (ws : List Nat) (i : Instr), decodeWords ws = .ok i → i.isCode = true ∧ i.wf = true)
  ∧ ((∀ (w : Nat) (rest : List Nat), Op.ofCode (bits w 62 53) = none → decodeWords (w :: rest) = .error .illop)
     ∧ (∀ (w : Nat) (rest : List Nat) (o : Op), Op.ofCode (bits w 62 53) = some o → (bit w 63 ≠ o.long) →
         decodeWords (w :: rest) = .error .illlen)
     ∧ (∀ g i : Nat, 14 ≤ g → g < 16 → i < 64 → Op.ofCode (64 * g + i) = none))
  ∧ (∀ (s : State) (w : Nat) (o : Op),
       let n : State := { s with cur := { s.cur with word := w, ext := 0 } }
       (decodeOp w = .error .illop → s.runWord w = .next (n.trap .illop (Word.ofNat w)))
       ∧ (decodeOp w = .error .illlen → s.runWord w = .next (n.trap .illlen (Word.ofNat w)))
       ∧ (decodeOp w = .ok o → o = .stopw ∨ o = .resw ∨ o = .tlbinv → s.me.pl = 0 →
           s.runWord w = .next (n.trap .priv (Word.ofNat w)))
       ∧ (decodeOp w = .ok o → o.long = false → s.me.pl ≠ 0 ∨ ¬ (o = .stopw ∨ o = .resw ∨ o = .tlbinv) →
           decodeFields o w 0 = none → s.runWord w = .next (n.trap .illmod (Word.ofNat w))))

/-- A turn of the agenda issues the instruction that the bytes at PC decode to: where the thread of the slot can run, is
not ending, has no late cause due and an aligned PC, and the fetch answers the words, `step` is `exec` of the
decoded instruction, on the state of the fetch with the words noted. A long instruction's EXT word is fetched after
the privilege check (R304, R305). A rotation boundary that comes by the moment of the issue goes first (R119). -/
def Obligations.StepRunsTheDecodedInstruction : Prop :=
  (∀ (s u : State) (c sl : Nat) (rest : List Turn), s.agenda = .slot c sl :: rest → s.rotationBy (s.issueMoment c sl) = some u →
    step s = .next u)
  ∧ ∀ (s s2 : State) (c sl w : Nat) (rest : List Turn) (t : Thread) (o : Op),
    s.agenda = .slot c sl :: rest → s.rotationBy (s.issueMoment c sl) = none → s.thread? c sl = some t →
    State.canRun { s with agenda := rest } c t = true → State.passes { s with agenda := rest } c sl t = false →
    t.ending = false →
    (let b := State.atBoundary { s with agenda := rest } c sl
     t.lateNow (b.core c).seqnow = none ∧ t.pc.toNat % 8 = 0 ∧ (b.atFetch t).fetchWord t.pc = .ok (w, s2)) →
    decodeOp w = .ok o → ¬ (o.privileged = true ∧ s2.me.pl = 0) →
    (let s3 : State := { s2 with cur := { s2.cur with word := w, ext := 0 } }
     let free : State := s3.modMe fun t => { t with busy := s3.clk }
     (∀ i, decodeWords [w] = .ok i → step s = exec i (if o = .enq then free else s3))
     ∧ (∀ (e : Nat) (s4 : State) (i : Instr), o.long = true → free.fetchWord (free.me.pc + 8) = .ok (e, s4) →
          decodeWords [w, e] = .ok i → step s = exec i { s4 with cur := { s4.cur with ext := e } }))

/-- A turn of the agenda that names an event is the event, and with an empty agenda, in an issuing turn, the slot that
selection takes issues next; P moves past it (R121). -/
def Obligations.StepTakesEventsAndSelectedSlots : Prop :=
  (∀ (s : State) (i : Instr) (rest : List Turn), s.agenda = .event i :: rest → i.isCode = false →
      step s = exec i { s with agenda := rest })
  ∧ (∀ (s : State) (c sl : Nat), s.agenda = [] → s.phase = false → s.pickCore = some (c, sl) →
      s.ready c sl = true
      ∧ (∀ u, s.rotationBy (s.issueMoment c sl) = some u → step s = .next u)
      ∧ (s.rotationBy (s.issueMoment c sl) = none → step s = State.issueSlot { (({ s with phase := true } : State).modCore c fun x =>
          { x with issueP := (sl + 1) % 64 }) with turn := c + 1 } c sl))

/-- The two-operand instructions of group 0x0 (R321, R322, R323): each goes ahead, writes the result of the rule's table
to DST, and falls through. DIV and REM have the corners of R322; no case traps. -/
def Obligations.TwoOperandResults : Prop :=
  ∀ (s : State) (p : Pred) (d a b : Code), Issues s p (some (rg d)) [rg a, rg b] →
    let x := s.operand [a, b] 0
    let y := s.operand [a, b] 1
    let out := wrote s [rg a, rg b] d
    exec (.add p d a b) s = .next (out (x + y))
    ∧ exec (.sub p d a b) s = .next (out (x - y))
    ∧ exec (.mul p d a b) s = .next (out (x * y))
    ∧ exec (.mulh p d a b) s = .next (out (BitVec.ofInt 64 (x.toInt * y.toInt / 2 ^ 64)))
    ∧ exec (.mulhz p d a b) s = .next (out (BitVec.ofNat 64 (x.toNat * y.toNat / 2 ^ 64)))
    ∧ exec (.div p d a b) s = .next (out (if y = 0 then 0xFFFFFFFFFFFFFFFF else x.sdiv y))
    ∧ exec (.divz p d a b) s = .next (out (if y = 0 then 0xFFFFFFFFFFFFFFFF else x / y))
    ∧ exec (.rem p d a b) s = .next (out (if y = 0 then x else x.srem y))
    ∧ exec (.remz p d a b) s = .next (out (if y = 0 then x else x % y))
    ∧ exec (.and p d a b) s = .next (out (x &&& y))
    ∧ exec (.or p d a b) s = .next (out (x ||| y))
    ∧ exec (.xor p d a b) s = .next (out (x ^^^ y))
    ∧ exec (.andn p d a b) s = .next (out (x &&& ~~~y))
    ∧ exec (.shl p d a b) s = .next (out (x <<< (y.toNat % 64)))
    ∧ exec (.shr p d a b) s = .next (out (x >>> (y.toNat % 64)))
    ∧ exec (.sha p d a b) s = .next (out (x.sshiftRight (y.toNat % 64)))
    ∧ exec (.rol p d a b) s = .next (out (x <<< (y.toNat % 64) ||| x >>> (64 - y.toNat % 64)))
    ∧ exec (.min p d a b) s = .next (out (if x.slt y then x else y))
    ∧ exec (.max p d a b) s = .next (out (if x.slt y then y else x))
    ∧ exec (.minz p d a b) s = .next (out (if x.ult y then x else y))
    ∧ exec (.maxz p d a b) s = .next (out (if x.ult y then y else x))
    ∧ exec (.addw p d a b) s = .next (out (((x + y).setWidth 32).signExtend 64))
    ∧ exec (.subw p d a b) s = .next (out (((x - y).setWidth 32).signExtend 64))
    ∧ exec (.mulw p d a b) s = .next (out (((x * y).setWidth 32).signExtend 64))
    ∧ (∀ (pos : Fin 64) (len : Fin 65), 1 ≤ len.val → pos.val + len.val ≤ 64 → ∃ r : Word,
        exec (.bfi p d a b pos len) s = .next (out r)
        ∧ ∀ n < 64, r.getLsbD n =
            if pos.val ≤ n ∧ n < pos.val + len.val then y.getLsbD (n - pos.val) else x.getLsbD n)
    ∧ (∀ (ps : Fin 8) (ns : Bool),
        exec (.sel p d ps ns a b) s = .next (out (if (s.me.pred ps ^^ ns) = true then x else y)))

/-- MADD, the one-operand instructions of group 0x0, and MOV (R321, R323, R324). The instructions of group 0x1 with an
immediate, LEA, and the reads of identity and predicates (R324, R105, R326). -/
def Obligations.OtherScalarResults : Prop :=
  ((∀ (s : State) (p : Pred) (d a : Code), Issues s p (some (rg d)) [rg a] →
     let x := s.operand [a] 0
     let out := wrote s [rg a] d
     (∃ r : Word, exec (.clz p d a) s = .next (out r) ∧ (x = 0 → r = 64)
       ∧ (x ≠ 0 → r.toNat < 64 ∧ x.getLsbD (63 - r.toNat) = true ∧ ∀ n < 64, 63 - r.toNat < n → x.getLsbD n = false))
     ∧ exec (.popc p d a) s = .next (out (BitVec.ofNat 64 ((List.range 64).countP fun n => x.getLsbD n)))
     ∧ (∃ r : Word, exec (.brev p d a) s = .next (out r) ∧ ∀ n < 64, r.getLsbD n = x.getLsbD (63 - n))
     ∧ (∀ (sx : Bool) (pos : Fin 64) (len : Fin 65), 1 ≤ len.val → pos.val + len.val ≤ 64 → ∃ r : Word,
         exec (.bfx p d a sx pos len) s = .next (out r)
         ∧ ∀ n < 64, r.getLsbD n =
             if n < len.val then x.getLsbD (pos.val + n) else sx && x.getLsbD (pos.val + len.val - 1))
     ∧ exec (.mov p d a) s = .next (out x))
   ∧ (∀ (s : State) (p : Pred) (d a b c : Code), Issues s p (some (rg d)) [rg a, rg b, rg c] →
       exec (.madd p d a b c) s = .next (wrote s [rg a, rg b, rg c] d
         (s.operand [a, b, c] 0 * s.operand [a, b, c] 1 + s.operand [a, b, c] 2))))
  ∧ ((∀ (s : State) (p : Pred) (d a : Code) (imm : BitVec 33) (sh : Fin 64) (hi : BitVec 31) (off : BitVec 17),
       Issues s p (some (rg d)) [rg a] →
       let x := s.operand [a] 0
       let i : Word := imm.signExtend 64
       let out := wrote s [rg a] d
       exec (.addi p d a imm) s = .next (out (x + i))
       ∧ exec (.andi p d a imm) s = .next (out (x &&& i))
       ∧ exec (.ori p d a imm) s = .next (out (x ||| i))
       ∧ exec (.xori p d a imm) s = .next (out (x ^^^ i))
       ∧ exec (.muli p d a imm) s = .next (out (x * i))
       ∧ exec (.shli p d a sh) s = .next (out (x <<< sh.val))
       ∧ exec (.shri p d a sh) s = .next (out (x >>> sh.val))
       ∧ exec (.shai p d a sh) s = .next (out (x.sshiftRight sh.val))
       ∧ exec (.ldih p d a hi) s = .next (out (hi ++ x.setWidth 33))
       ∧ exec (.lea p d a off) s = .next (out (x + off.signExtend 64)))
     ∧ (∀ (s : State) (p : Pred) (d : Code) (imm : BitVec 33), Issues s p (some (rg d)) [] →
         exec (.ldi p d imm) s = .next (wrote s [] d (imm.signExtend 64))
         ∧ (∃ r : Word, exec (.pget p d) s = .next (wrote s [] d r)
             ∧ ∀ n < 64, r.getLsbD n = (decide (n = 0) || (decide (n < 8) && s.me.preds.getLsbD n))))
     ∧ (∀ (s : State) (p : Pred) (d : Code) (l : Launch), Issues s p (some (rg d)) [] →
         s.launch? s.myPartNo s.me.lid = some l →
         let out := fun n : Nat => Host.Outcome.next (wrote s [] d (Word.ofNat n))
         exec (.getid p d 8) s = out (tagLvl s.me.tag)
         ∧ exec (.getid p d 9) s = out l.nlev
         ∧ exec (.getid p d 10) s = out (l.lev (tagLvl s.me.tag)).count
         ∧ exec (.getid p d 11) s = out (tagDom s.me.tag)
         ∧ exec (.getid p d 12) s = out s.me.lid
         ∧ exec (.getid p d 13) s = out s.cur.core
         ∧ exec (.getid p d 14) s = out s.cur.slot
         ∧ ∀ sel : Fin 15, sel.val ≤ 7 → exec (.getid p d sel) s = out (l.index s.me.tag sel.val)))

/-- CMP, CMPI and PLOG set one predicate to the truth that R325 and R326 give, with PD 0 discarded (R146), and PSET sets
p1 to p7. -/
def Obligations.ComparesSetOnePredicate : Prop :=
  (∀ (s : State) (p : Pred) (pd : Fin 8) (a b : Code) (cc : CC), Issues s p none [rg a, rg b] →
    let x := s.operand [a, b] 0
    let y := s.operand [a, b] 1
    exec (.cmp p pd a b cc) s = .next ((began s [rg a, rg b]).wrPred pd
      (match cc with
        | .eq => x == y | .ne => x != y | .lt => x.slt y | .ge => !x.slt y | .le => !y.slt x | .gt => y.slt x
        | .ltu => x.ult y | .geu => !x.ult y | .leu => !y.ult x | .gtu => y.ult x)).retire)
  ∧ (∀ (s : State) (p : Pred) (pd : Fin 8) (a : Code) (cc : CC) (imm : BitVec 33), Issues s p none [rg a] →
    let x := s.operand [a] 0
    let y : Word := imm.signExtend 64
    exec (.cmpi p pd a cc imm) s = .next ((began s [rg a]).wrPred pd
      (match cc with
        | .eq => x == y | .ne => x != y | .lt => x.slt y | .ge => !x.slt y | .le => !y.slt x | .gt => y.slt x
        | .ltu => x.ult y | .geu => !x.ult y | .leu => !y.ult x | .gtu => y.ult x)).retire)
  ∧ (∀ (s : State) (p : Pred) (pd pa pb : Fin 8), Issues s p none [] →
      let x := s.me.pred pa
      let y := s.me.pred pb
      let out := fun v : Bool => Host.Outcome.next ((began s []).wrPred pd v).retire
      exec (.plog p pd pa pb .and) s = out (x && y) ∧ exec (.plog p pd pa pb .or) s = out (x || y)
      ∧ exec (.plog p pd pa pb .xor) s = out (x ^^ y) ∧ exec (.plog p pd pa pb .andn) s = out (x && !y)
      ∧ exec (.plog p pd pa pb .not) s = out (!x) ∧ exec (.plog p pd pa pb .movp) s = out x)
  ∧ (∀ (s : State) (srcs : List Pos) (pd n : Fin 8) (v : Bool), s.me?.isSome = true → LogOff s →
      (((began s srcs).wrPred pd v).retire).me.pred n = if n = pd ∧ pd ≠ 0 then v else s.me.pred n)
  ∧ (∀ (s : State) (p : Pred) (a : Code), Issues s p none [rg a] → LogOff s →
      ∃ t, exec (.pset p a) s = .next t ∧ t.me.pc = s.me.pc + 8
        ∧ ∀ n : Fin 8, n ≠ 0 → t.me.pred n = (s.operand [a] 0).getLsbD n.val)

/-- An instruction that its predicate does not select has no effect but to fall through by its length: no channel is
popped, nothing is parked on (R301). -/
def Obligations.UnselectedInstructionsFallThrough : Prop :=
  ∀ (i : Instr) (sh : Shell) (s : State) (t : Thread), Instr.shell i = some sh → s.me? = some t →
    operandTrap (sh.dst.toList ++ sh.srcs) t.lim = none → t.executes sh.pred = false →
    exec i s = .next (State.retireTo { s with cur := { s.cur with pops := [] } } (t.pc + BitVec.ofNat 64 sh.len))

/-- Steps 5 and 6 of R304, for every instruction and whether or not its predicate selects it: a code that a position
does not accept raises ILLOPND, and only then a register at or above the window limit raises WINDOW; TVAL names the
first such code in the order DST, SA, SB, SC (R146, R148, R302, R303). A selected instruction that reads a poisoned
register raises POISON with that operand code; one that reads a bound channel raises ILLOPND; one whose channels are
not ready parks with none of its effect (R171, R251, R154, R153). -/
def Obligations.OperandsAreJudgedBeforeTheEffect : Prop :=
  (∀ (i : Instr) (sh : Shell) (s : State) (t : Thread), Instr.shell i = some sh → s.me? = some t →
     let ps := sh.dst.toList ++ sh.srcs
     (∀ (before after : List Pos) (q : Pos), ps = before ++ q :: after → q.legal = false →
         (∀ r ∈ before, r.legal = true) → exec i s = .next (s.trap .illopnd (q.code.setWidth 64)))
     ∧ (∀ (before after : List Pos) (q : Pos), ps = before ++ q :: after → (∀ r ∈ ps, r.legal = true) →
         q.inWindow t.lim = false → (∀ r ∈ before, r.inWindow t.lim = true) →
         exec i s = .next (s.trap .window (q.code.setWidth 64))))
  ∧ (∀ (i : Instr) (sh : Shell) (s : State) (t : Thread), Instr.shell i = some sh → s.me? = some t →
       operandTrap (sh.dst.toList ++ sh.srcs) t.lim = none → t.executes sh.pred = true →
       let chans := popsOf (regCodes sh.srcs)
       (∀ g, poisonedReg s.myCore t sh.srcs = some g → exec i s = .next (s.trap .poison (BitVec.ofNat 64 g)))
       ∧ (∀ ch, poisonedReg s.myCore t sh.srcs = none →
           chans.find? (fun ch => (s.myCore.chan ch).bind.isSome) = some ch →
           exec i s = .next (s.trap .illopnd (BitVec.ofNat 64 (0xA0 + ch))))
       ∧ (poisonedReg s.myCore t sh.srcs = none → (∀ ch ∈ chans, (s.myCore.chan ch).bind = none) →
           chansReady s.myCore s.cur.slot t.prog.stamp chans (if sh.wait then destChan sh.dst else none) false = false →
           exec i s = .next (s.parkMe (.chan chans (if sh.wait then destChan sh.dst else none) false))))

/-- A result written to a g register is what that register of the window reads, and clears its poison; a k register
reads as the value from the eighth core cycle on, and as before until then; a write to zero is discarded; an unbound
channel gains the value at its newest end and loses what the sources popped at its oldest (R146, R148, R150, R152,
R153). -/
def Obligations.WrittenRegistersReadBack : Prop :=
  ∀ (s : State) (srcs : List Pos) (d : Code) (v : Word), s.me?.isSome = true → LogOff s →
    let t := wrote s srcs d v
    (isGCode d = true → t.myCore.greg t.me (codeNum d) = v ∧ s.me.base + codeNum d ∉ t.myCore.regPoison)
    ∧ (isKCode d = true → ∀ r, s.clk ≤ r → kRead (t.myCore.kregs.lookD (codeNum d) []) r =
        if s.clk + 8 ≤ r then v else kRead (s.myCore.kregs.lookD (codeNum d) []) r)
    ∧ (d = 0xB0 → t = passed s srcs)
    ∧ ((isQCode d = true → (s.myCore.chan (codeNum d)).bind = none) → ∀ n, (t.myCore.chan n).vals =
          ((s.myCore.chan n).vals ++ if isQCode d = true ∧ codeNum d = n then [(v, s.me.sth)] else []).drop
            ((popsOf (regCodes srcs)).count n))

/-- The frame of the register results: each completes, and changes nothing but its destination, the channels its sources
pop, and PC (R320, R321, R324, R326, R330). Where the destination is a bound channel the push may send a batch
(R154), which this statement does not speak of. The frame of the predicate results: no register, no memory and no
special register changes (R325, R326, R333). -/
def Obligations.ScalarResultsChangeNothingElse : Prop :=
  (∀ (i : Instr) (sh : Shell) (d : Code) (s : State), registerResult i = true → Instr.shell i = some sh →
     sh.dst = some (rg d) → GoesAhead s sh → LogOff s →
     (isQCode d = true → (s.myCore.chan (codeNum d)).bind = none) →
     ∃ t, exec i s = .next t ∧ RegisterFrame s t d sh.srcs)
  ∧ (∀ (i : Instr) (sh : Shell) (s : State), predicateResult i = true → Instr.shell i = some sh →
       GoesAhead s sh → LogOff s → ∃ t, exec i s = .next t ∧ PredicateFrame s t sh.srcs)

/-- Scalar floating point (R330 to R335): the result is the exact operation on the operands read in the format of SZ
under MODE.FTZ, rounded once under RM or MODE.DRM; FCLASS sets the one bit of its operand's class, FTZ or not.
Values of floating point that R237, R331 and R332 fix: the canonical NaN, the invalid operations, FMIN and FMAX with
a NaN and with zeros, the square root below zero. -/
def Obligations.FloatResults : Prop :=
  ((∀ (s : State) (p : Pred) (d a b : Code) (sz : FSize) (rm : RM), Issues s p (some (rg d)) [rg a, rg b] →
     let m := s.me.mode.toNat
     let f := match sz with | .s => f32 | .d => f64
     let read := fun w : Word => f.decode false (bit m 3) (w.toNat % 2 ^ (match sz with | .s => 32 | .d => 64))
     let mode := rmOf rm m
     let x := read (s.operand [a, b] 0)
     let y := read (s.operand [a, b] 1)
     let out := fun v : Val => Host.Outcome.next
       (wrote s [rg a, rg b] d (Word.ofNat (f.encode false (bit m 3) mode v)))
     exec (.fadd p d a b sz rm) s = out (x.add mode y)
     ∧ exec (.fsub p d a b sz rm) s = out (x.add mode y.neg)
     ∧ exec (.fmul p d a b sz rm) s = out (x.mul y)
     ∧ exec (.fdiv p d a b sz rm) s = out (x.div y)
     ∧ exec (.fmin p d a b sz rm) s = out (x.lesser y)
     ∧ exec (.fmax p d a b sz rm) s = out (x.greater y)
     ∧ (∀ fx : FSgn, ∃ r : Word, exec (.fsgn p d a b fx sz rm) s = .next (wrote s [rg a, rg b] d r)
         ∧ ∀ n < 64, r.getLsbD n =
           let top := match sz with | .s => 31 | .d => 63
           let u := s.operand [a, b] 0
           let w := s.operand [a, b] 1
           if n = top then (match fx with
             | .sgj => w.getLsbD top | .sgn => !w.getLsbD top | .sgx => u.getLsbD top ^^ w.getLsbD top)
           else decide (n < top) && u.getLsbD n))
   ∧ (∀ (s : State) (p : Pred) (d a : Code) (sz : FSize) (rm : RM), Issues s p (some (rg d)) [rg a] →
     let m := s.me.mode.toNat
     let fmt := fun sz : FSize => match sz with | .s => f32 | .d => f64
     let other : FSize := match sz with | .s => .d | .d => .s
     let read := fun (sz : FSize) (w : Word) =>
       (fmt sz).decode false (bit m 3) (w.toNat % 2 ^ (match sz with | .s => 32 | .d => 64))
     let mode := rmOf rm m
     let w := s.operand [a] 0
     let out := fun v : Val => Host.Outcome.next (wrote s [rg a] d (Word.ofNat ((fmt sz).encode false (bit m 3) mode v)))
     exec (.fsqrt p d a sz rm) s = out (read sz w).sqrt
     ∧ exec (.fcvt p d a .xf sz rm) s = out (read other w)
     ∧ exec (.fcvt p d a .fs sz rm) s = out (Val.ofInt w.toInt)
     ∧ exec (.fcvt p d a .fz sz rm) s = out (Val.ofInt w.toNat)
     ∧ exec (.fcvt p d a .sf sz rm) s = .next (wrote s [rg a] d
         (BitVec.ofInt 64 ((read sz w).toRange mode (-2 ^ 63) (2 ^ 63 - 1))))
     ∧ exec (.fcvt p d a .zf sz rm) s = .next (wrote s [rg a] d
         (BitVec.ofInt 64 ((read sz w).toRange mode 0 (2 ^ 64 - 1))))
     ∧ (let k : Nat := match (fmt sz).decode false false (w.toNat % 2 ^ (match sz with | .s => 32 | .d => 64)) with
           | .nan => 8
           | .inf n => if n then 0 else 7
           | .fin n 0 _ => if n then 3 else 4
           | .fin n m _ => if m < 2 ^ (match sz with | .s => 23 | .d => 52) then (if n then 2 else 5) else if n then 1 else 6
         exec (.fclass p d a sz rm) s = .next (wrote s [rg a] d (Word.ofNat (2 ^ k)))))
   ∧ (∀ (s : State) (p : Pred) (d a b c : Code) (sz : FSize) (rm : RM), Issues s p (some (rg d)) [rg a, rg b, rg c] →
     let m := s.me.mode.toNat
     let f := match sz with | .s => f32 | .d => f64
     let read := fun w : Word => f.decode false (bit m 3) (w.toNat % 2 ^ (match sz with | .s => 32 | .d => 64))
     exec (.ffma p d a b c sz rm) s = .next (wrote s [rg a, rg b, rg c] d (Word.ofNat (f.encode false (bit m 3) (rmOf rm m)
       (((read (s.operand [a, b, c] 0)).mul (read (s.operand [a, b, c] 1))).add (rmOf rm m)
         (read (s.operand [a, b, c] 2)))))))
   ∧ (∀ (s : State) (p : Pred) (pd : Fin 8) (a b : Code) (fx : FCmp) (sz : FSize) (rm : RM), Issues s p none [rg a, rg b] →
     let m := s.me.mode.toNat
     let f := match sz with | .s => f32 | .d => f64
     let read := fun w : Word => f.decode false (bit m 3) (w.toNat % 2 ^ (match sz with | .s => 32 | .d => 64))
     let x := read (s.operand [a, b] 0)
     let y := read (s.operand [a, b] 1)
     ∃ v : Bool, exec (.fcmp p pd a b fx sz rm) s = .next ((began s [rg a, rg b]).wrPred pd v).retire
       ∧ ((x.isNan || y.isNan) = true → (v = true ↔ fx = .ne ∨ fx = .un))
       ∧ ((x.isNan || y.isNan) = false → v = (match fx with
           | .eq => x.cmp y == .eq | .lt => x.cmp y == .lt | .le => x.cmp y != .gt | .un => false
           | .ne => x.cmp y != .eq | .ge => x.cmp y != .lt | .gt => x.cmp y == .gt | .or => true))))
  ∧ ((∀ (rm : RM) (ftz : Bool), f32.encode false ftz rm .nan = 0x7FC00000 ∧ f64.encode false ftz rm .nan = 0x7FF8000000000000)
     ∧ (∀ (rm : RM) (x : Val), (Val.nan.add rm x).isNan = true ∧ (x.add rm .nan).isNan = true
         ∧ (Val.nan.mul x).isNan = true ∧ (x.mul .nan).isNan = true ∧ (Val.nan.div x).isNan = true
         ∧ (x.div .nan).isNan = true ∧ Val.nan.sqrt.isNan = true)
     ∧ (∀ (rm : RM) (n : Bool), ((Val.inf n).add rm (.inf !n)).isNan = true)
     ∧ (∀ (n k : Bool) (e : Int), ((Val.fin n 0 e).mul (.inf k)).isNan = true ∧ ((Val.inf k).mul (.fin n 0 e)).isNan = true
         ∧ ((Val.inf n).div (.inf k)).isNan = true ∧ ((Val.fin n 0 e).div (.fin k 0 e)).isNan = true)
     ∧ (∀ (n k : Bool) (m : Nat) (e f : Int), m ≠ 0 → (Val.fin n m e).div (.fin k 0 f) = .inf (n ^^ k))
     ∧ (∀ (m : Nat) (e : Int), m ≠ 0 → (Val.fin true m e).sqrt.isNan = true)
     ∧ (∀ x : Val, x.isNan = false → Val.nan.lesser x = x ∧ x.lesser .nan = x ∧ Val.nan.greater x = x ∧ x.greater .nan = x)
     ∧ (Val.nan.lesser .nan).isNan = true ∧ (Val.nan.greater .nan).isNan = true
     ∧ (∀ (n k : Bool) (e f : Int), (Val.fin n 0 e).cmp (.fin k 0 f) = .eq))

/-- The control instructions of group 0x3, on targets that may be taken: PC takes the target, CALL and CALLR link the
next instruction's address, and LOOP counts its register down and branches while it is not 0; with a counter of 0 it
neither writes nor branches (R327). A control transfer whose new PC has bits [63:57] not all 0, or is not a multiple
of 8, raises ALIGN at the transfer with TVAL holding that PC, and writes neither PC nor the link (R328, R305). -/
def Obligations.ControlTransfers : Prop :=
  ((∀ (s : State) (p : Pred) (imm : BitVec 41), Issues s p none [] →
     let t := s.me.pc + 8 * imm.signExtend 64
     t.toNat < 2 ^ 57 → t.toNat % 8 = 0 → exec (.br p imm) s = .next ((began s []).retireTo t))
   ∧ (∀ (s : State) (p : Pred) (d : Code) (imm : BitVec 41), Issues s p (some (rg d)) [] →
     let t := s.me.pc + 8 * imm.signExtend 64
     t.toNat < 2 ^ 57 → t.toNat % 8 = 0 →
       exec (.call p d imm) s = .next (((began s []).wr d (s.me.pc + 8)).retireTo t))
   ∧ (∀ (s : State) (p : Pred) (a : Code), Issues s p none [rg a] →
     let t := s.operand [a] 0
     t.toNat < 2 ^ 57 → t.toNat % 8 = 0 →
       exec (.jmp p a) s = .next ((began s [rg a]).retireTo t) ∧ exec (.ret p a) s = .next ((began s [rg a]).retireTo t))
   ∧ (∀ (s : State) (p : Pred) (d a : Code), Issues s p (some (rg d)) [rg a] →
     let t := s.operand [a] 0
     t.toNat < 2 ^ 57 → t.toNat % 8 = 0 →
       exec (.callr p d a) s = .next (((began s [rg a]).wr d (s.me.pc + 8)).retireTo t))
   ∧ (∀ (s : State) (p : Pred) (d : Code) (imm : BitVec 41), Issues s p (some (rg d)) [rg d] →
     let c := s.operand [d] 0
     let t := s.me.pc + 8 * imm.signExtend 64
     (c = 0 → exec (.loop p d imm) s = .next (passed s [rg d]))
     ∧ (c = 1 → exec (.loop p d imm) s = .next (wrote s [rg d] d 0))
     ∧ (c ≠ 0 → c ≠ 1 → t.toNat < 2 ^ 57 → t.toNat % 8 = 0 →
         exec (.loop p d imm) s = .next (((began s [rg d]).wr d (c - 1)).retireTo t)))
   ∧ (∀ (s : State) (p : Pred), Issues s p none [] → exec (.nop p) s = .next (passed s [])))
  ∧ (∀ (s : State) (p : Pred) (d a : Code) (imm : BitVec 41),
       let f := s.me.pc + 8 * imm.signExtend 64
       let t := s.operand [a] 0
       (¬ (f.toNat < 2 ^ 57 ∧ f.toNat % 8 = 0) →
         (Issues s p none [] → exec (.br p imm) s = .next ((began s []).trap .align f))
         ∧ (Issues s p (some (rg d)) [] → exec (.call p d imm) s = .next ((began s []).trap .align f))
         ∧ (Issues s p (some (rg d)) [rg d] → s.operand [d] 0 ≠ 0 → s.operand [d] 0 ≠ 1 →
             exec (.loop p d imm) s = .next ((began s [rg d]).trap .align f)))
       ∧ (¬ (t.toNat < 2 ^ 57 ∧ t.toNat % 8 = 0) →
         (Issues s p none [rg a] → exec (.jmp p a) s = .next ((began s [rg a]).trap .align t)
           ∧ exec (.ret p a) s = .next ((began s [rg a]).trap .align t))
         ∧ (Issues s p (some (rg d)) [rg a] → exec (.callr p d a) s = .next ((began s [rg a]).trap .align t))))

/-- A precise trap of a thread that has a handler and is in none is entered as R249 says: TPC takes the address of the
instruction, TCAUSE the cause with ACT 1, TVAL the value, TSEQ 0, and PC the address that TVEC names; no register,
channel, predicate, memory or other thread changes, and the thread keeps its window, level and mode. The codes of
R251. A precise trap is fatal where TVEC.BASE is 0 or ACT is 1: no handler is entered, one fatal fault of the launch
and of the partition is counted, and the thread ends as EXIT does at its next turns (R250). That the end comes as
further turns, `ending` set and PC kept until then, is the model's choice (log entry 56). -/
def Obligations.TrapsEnterTheHandler : Prop :=
  (∀ (s : State) (t : Thread) (cause : Cause) (val : Word) (acc : Nat), s.me? = some t → Unwatched s →
     8 ≤ t.tvec.toNat → bit t.tcause.toNat 63 = false → acc < 4 →
     let u := s.trapAcc cause val acc
     u.me.tpc = t.pc ∧ u.me.tval = val ∧ u.me.tseq = 0
     ∧ u.me.pc.toNat = t.tvec.toNat / 8 * 8
     ∧ bit u.me.tcause.toNat 63 = true ∧ bit u.me.tcause.toNat 62 = false ∧ bits u.me.tcause.toNat 17 16 = acc
     ∧ bits u.me.tcause.toNat 15 8 = 0 ∧ bits u.me.tcause.toNat 7 0 = cause.code
     ∧ u.me.base = t.base ∧ u.me.lim = t.lim ∧ u.me.pl = t.pl ∧ u.me.mode = t.mode ∧ u.me.preds = t.preds
     ∧ u.me.tvec = t.tvec ∧ u.me.tag = t.tag
     ∧ u.myCore.regs = s.myCore.regs ∧ u.myCore.kregs = s.myCore.kregs ∧ u.myCore.chans = s.myCore.chans
     ∧ CoreKept s u ∧ Elsewhere s u)
  ∧ ([Cause.illop, .illopnd, .illmod, .window, .align, .pageflt, .prot, .domain, .fmtmis, .vlate, .elate, .mcnt, .poison,
       .swtrap, .bkpt, .preempt, .illlen, .priv].map Cause.code = (List.range 18).map (· + 1))
  ∧ (∀ (s : State) (t : Thread) (cause : Cause) (val : Word) (acc pno : Nat) (p : Part) (l : Launch),
       s.me? = some t → Unwatched s → s.corePart s.cur.core = some pno → s.part? pno = some p →
       p.launches.look t.lid = some l → l.fused = none → p.oen = false → s.olog.en = false →
       (t.tvec.toNat < 8 ∨ bit t.tcause.toNat 63 = true) →
       let u := s.trapAcc cause val acc
       u.me.ending = true ∧ u.me.pc = t.pc ∧ u.me.tcause = t.tcause ∧ u.me.tpc = t.tpc
       ∧ ((u.part pno).launches.look t.lid).map Launch.fatals = some (l.fatals + 1)
       ∧ (u.part pno).fatals = p.fatals + 1
       ∧ u.myCore.regs = s.myCore.regs)

/-- TRAP raises SWTRAP with its immediate and BKPT raises BKPT with 0, at the instruction (R336). RFT with ACT 0 is a
jump to TPC; with ACT 1 and no vector or engine work of the thread in the ring it clears ACT and goes on at TPC, and
a bad TPC raises ALIGN there (R337). -/
def Obligations.TrapInstructionsAndReturn : Prop :=
  (∀ (s : State) (p : Pred) (imm : BitVec 33), Issues s p none [] →
    exec (.trap p imm) s = .next ((began s []).trap .swtrap (imm.signExtend 64))
    ∧ exec (.bkpt p) s = .next ((began s []).trap .bkpt 0))
  ∧ (∀ (s : State) (p : Pred), Issues s p none [] → s.me.tpc.toNat < 2 ^ 57 → s.me.tpc.toNat % 8 = 0 →
    (bit s.me.tcause.toNat 63 = false → exec (.rft p) s = .next ((began s []).retireTo s.me.tpc))
    ∧ (bit s.me.tcause.toNat 63 = true → bit s.me.tcause.toNat 61 = true → LogOff s →
        (∀ e ∈ s.myCore.ring, e.sth ≠ s.me.sth) →
        ∃ t, exec (.rft p) s = .next t ∧ t.me.pc = s.me.tpc ∧ bit t.me.tcause.toNat 63 = false
          ∧ bits t.me.tcause.toNat 62 0 = bits s.me.tcause.toNat 62 0 ∧ t.myCore.regs = s.myCore.regs
          ∧ (∀ a, t.dram.get a = s.dram.get a)))
  ∧ (∀ (s : State) (p : Pred), Issues s p none [] → ¬ (s.me.tpc.toNat < 2 ^ 57 ∧ s.me.tpc.toNat % 8 = 0) →
      exec (.rft p) s = .next ((began s []).trap .align s.me.tpc))

/-- SRRD reads the thread's own registers at every level, and those of the core and partition that KER may read; below
KER these raise PRIV (R338, R339, R147, R175). SRWR writes the RW fields of the register and leaves the RO ones; a
MODE value that R235 excludes raises ILLMOD, a register that takes no write raises ILLOPND with its number, and one
that needs KER raises PRIV at APP level (R235, R248, R338, R339, R340). -/
def Obligations.SystemRegisters : Prop :=
  (∀ (s : State) (p : Pred) (d : Code), Issues s p (some (rg d)) [] →
     let out := fun v : Word => Host.Outcome.next (wrote s [] d v)
     (exec (.srrd p d 0x000) s = out s.me.mode ∧ exec (.srrd p d 0x001) s = out (Word.ofNat (s.me.base * 256 + s.me.lim))
       ∧ exec (.srrd p d 0x002) s = out s.me.tvec ∧ exec (.srrd p d 0x003) s = out s.me.tpc
       ∧ exec (.srrd p d 0x004) s = out s.me.tcause ∧ exec (.srrd p d 0x005) s = out s.me.tval
       ∧ exec (.srrd p d 0x006) s = out s.me.tseq ∧ exec (.srrd p d 0x008) s = out s.me.ts0
       ∧ exec (.srrd p d 0x009) s = out s.me.ts1 ∧ exec (.srrd p d 0x00A) s = out s.me.ts2
       ∧ exec (.srrd p d 0x00B) s = out s.me.ts3 ∧ exec (.srrd p d 0x010) s = out s.me.tsbase
       ∧ exec (.srrd p d 0x012) s = out s.me.tjoin ∧ exec (.srrd p d 0x013) s = out (Word.ofNat s.me.unack)
       ∧ exec (.srrd p d 0x014) s = out s.me.dqbase ∧ exec (.srrd p d 0x100) s = out (Word.ofNat (b2n s.myCore.te))
       ∧ exec (.srrd p d 0x103) s = out (Word.ofNat s.myCore.seqnow))
     ∧ (s.me.pl ≠ 0 → exec (.srrd p d 0x101) s = out (Word.ofNat (s.tsidOf s.cur.core))
       ∧ exec (.srrd p d 0x210) s = out s.myPart.ptbr ∧ exec (.srrd p d 0x216) s = out s.myPart.obase)
     ∧ (s.me.pl = 0 → ∀ num : BitVec 12, num = 0x101 ∨ num = 0x200 ∨ num = 0x201 ∨ num = 0x210 ∨ num = 0x214 ∨ num = 0x240 →
         exec (.srrd p d num) s = .next ((began s []).trapWord .priv)))
  ∧ (∀ (s : State) (p : Pred) (a : Code), Issues s p none [rg a] →
       let v := s.operand [a] 0
       let out := fun f : Thread → Thread => Host.Outcome.next (((began s [rg a]).modMe f).retire)
       (bits v.toNat 5 4 ≠ 3 → bits v.toNat 2 0 ≤ 4 → exec (.srwr p a 0x000) s = out fun t => { t with mode := v &&& 0x3F })
       ∧ (bits v.toNat 5 4 = 3 ∨ 4 < bits v.toNat 2 0 → exec (.srwr p a 0x000) s = .next ((began s [rg a]).trapWord .illmod))
       ∧ exec (.srwr p a 0x002) s = out (fun t => { t with tvec := v &&& ~~~6 })
       ∧ exec (.srwr p a 0x003) s = out (fun t => { t with tpc := v })
       ∧ exec (.srwr p a 0x005) s = out (fun t => { t with tval := v })
       ∧ exec (.srwr p a 0x006) s = out id
       ∧ exec (.srwr p a 0x008) s = out (fun t => { t with ts0 := v })
       ∧ exec (.srwr p a 0x009) s = out (fun t => { t with ts1 := v })
       ∧ exec (.srwr p a 0x00A) s = out (fun t => { t with ts2 := v })
       ∧ exec (.srwr p a 0x00B) s = out (fun t => { t with ts3 := v })
       ∧ exec (.srwr p a 0x010) s = out (fun t => { t with tsbase := v &&& ~~~7 })
       ∧ exec (.srwr p a 0x012) s = out (fun t => { t with tjoin := v })
       ∧ (∃ f, exec (.srwr p a 0x004) s = out f ∧ ∀ t : Thread, ∀ n < 64,
           (f t).tcause.getLsbD n = if n = 61 then v.getLsbD 61 else t.tcause.getLsbD n)
       ∧ (∀ num : BitVec 12, num = 0x001 ∨ num = 0x011 ∨ num = 0x013 ∨ num = 0x014 ∨ num = 0x015
             ∨ (0x110 ≤ num.toNat ∧ num.toNat ≤ 0x12F) →
           exec (.srwr p a num) s = .next ((began s [rg a]).trap .illopnd (num.setWidth 64)))
       ∧ (s.me.pl = 0 → ∀ num : BitVec 12, num = 0x100 ∨ num = 0x101 ∨ num = 0x104 ∨ num = 0x200 ∨ num = 0x210 ∨ num = 0x240 →
           exec (.srwr p a num) s = .next ((began s [rg a]).trapWord .priv))
       ∧ (s.me.pl ≠ 0 →
           exec (.srwr p a 0x100) s = .next (((began s [rg a]).modMyCore fun x => { x with te := v.getLsbD 0 }).retire)
           ∧ exec (.srwr p a 0x210) s = .next (((began s [rg a]).modPart s.myPartNo fun q =>
               { q with ptbr := v &&& 0x000FFFFFFFFFF001 }).retire)))

/-- LD, LDX and LDA of the issuing core's own local memory, with L or through the core's window: the value is the SZ
bytes at the address, little-endian, widened by SX; nothing but the destination changes, and LDA acquires (R349,
R6). ST, STX and STL to the issuing core's own local memory: the SZ low bytes of SA are stored at the address, and
no other byte, no register, no predicate and no full/empty state changes; STL does so when its release has nothing
left to wait for (R349, R206). -/
def Obligations.LocalLoadsAndStores : Prop :=
  (∀ (s : State) (p : Pred) (d b c : Code) (off : BitVec 17) (sz : Size) (sx loc : Bool) (sc : Scope) (o : Nat),
     let n := sizeBytes sz
     let v := s.myCore.lmem.read o n
     let w : Word := if sx then (BitVec.ofNat (8 * n) v).signExtend 64 else BitVec.ofNat 64 v
     s.myCore.lpoisoned o n = false →
     (Issues s p (some (rg d)) [rg b] → s.ownPort loc (s.operand [b] 0 + off.signExtend 64) n = some o →
       exec (.ld p d b off sz sx loc) s = .next (wrote s [rg b] d w)
       ∧ exec (.lda p d b off sz sx loc sc) s = .next ((((began s [rg b]).acquire sc).wr d w).retire)
       ∧ (LogOff s → (isQCode d = true → (s.myCore.chan (codeNum d)).bind = none) →
           RegisterFrame s (wrote s [rg b] d w) d [rg b]))
     ∧ (Issues s p (some (rg d)) [rg b, rg c] →
         s.ownPort loc (s.operand [b, c] 0 + s.operand [b, c] 1 * BitVec.ofNat 64 n) n = some o →
         exec (.ldx p d b c sz sx loc) s = .next (wrote s [rg b, rg c] d w)))
  ∧ (∀ (s : State) (p : Pred) (a b c : Code) (off : BitVec 17) (sz : Size) (loc : Bool) (sc : Scope) (o : Nat),
       let n := sizeBytes sz
       let stored := fun (i : Instr) (srcs : List Pos) (v : Word) => ∃ t, exec i s = .next t ∧ PortFrame s t o n srcs
         ∧ t.myCore.lmem.read o n = v.toNat % 2 ^ (8 * n) ∧ t.myCore.full = s.myCore.full
       LogOff s →
       (Issues s p none [rg a, rg b] → s.ownPort loc (s.operand [a, b] 1 + off.signExtend 64) n = some o →
         stored (.st p b a off sz loc) [rg a, rg b] (s.operand [a, b] 0)
         ∧ (ReleaseHolds s sc → stored (.stl p b a off sz loc sc) [rg a, rg b] (s.operand [a, b] 0)))
       ∧ (Issues s p none [rg a, rg b, rg c] →
           s.ownPort loc (s.operand [a, b, c] 1 + s.operand [a, b, c] 2 * BitVec.ofNat 64 n) n = some o →
           stored (.stx p a b c sz loc) [rg a, rg b, rg c] (s.operand [a, b, c] 0)))

/-- Loads and stores of a virtual address that the tables translate, each form (R349): a load whose line is neither
buffered nor cached reads the bytes of DRAM and brings the line into the data cache, one whose line is cached reads
the line, and LDA acquires; a store enters the store buffer with its physical address and bytes and leaves DRAM as
it is, STL once its release has completed (R174, R176, R202, R206, R207). A scalar access that is not a multiple of
its size, or beyond the address space, raises ALIGN with its address, and none of its effect happens; an LDF, STF or
CLRE of a virtual address raises PROT (R347, R349, R351, R251). -/
def Obligations.VirtualAccessesAndBadAddresses : Prop :=
  ((∀ (s t : State) (p : Pred) (d b c : Code) (off : BitVec 17) (sz : Size) (sx : Bool) (pa : Nat),
     let n := sizeBytes sz
     let goes := fun (srcs : List Pos) (ea : Word) => Issues s p (some (rg d)) srcs
       ∧ (began s srcs).dramPort ea n .read = some (pa, t)
     let wide := fun v : Nat => if sx then (BitVec.ofNat (8 * n) v).signExtend 64 else BitVec.ofNat 64 v
     let w := wide (leNat (t.dramBytes t.myPart.keyGen pa n))
     let line : Line := ⟨t.tsidOf t.cur.core, pa / 32 * 32, t.dramBytes t.myPart.keyGen (pa / 32 * 32) 32, false⟩
     let mine := fun l : Line => l.tsid = t.tsidOf t.cur.core && l.addr = pa / 32 * 32
     let ea := s.operand [b] 0 + off.signExtend 64
     t.flights = [] →
     (t.myCore.sbuf = [] → t.dramPoisoned pa n = false → t.myCore.cevs = [] → t.myPart.slsel = [] →
       (∀ l ∈ t.myCore.dcache, mine l = false) →
       let u := (t.sliceSee t.myPartNo [(pa, n)]).modMyCore fun x => { x with dcache := dcacheAdd x.dcache line }
       (goes [rg b] ea → exec (.ld p d b off sz sx false) s = .next ((u.wr d w).retire)
         ∧ ∀ sc, ∃ g : State, exec (.lda p d b off sz sx false sc) s = .next (((g.acquire sc).wr d w).retire)
             ∧ g.dram = t.dram ∧ g.myCore.regs = t.myCore.regs ∧ g.myCore.lmem = t.myCore.lmem)
       ∧ (goes [rg b, rg c] (s.operand [b, c] 0 + s.operand [b, c] 1 * BitVec.ofNat 64 n) →
           exec (.ldx p d b c sz sx false) s = .next ((u.wr d w).retire))
       ∧ u.dram = t.dram)
     ∧ (∀ l, t.myCore.dcache.find? mine = some l → l.bad = false → goes [rg b] ea →
         exec (.ld p d b off sz sx false) s = .next ((t.wr d (wide (leNat ((l.data.drop (pa - l.addr)).take n)))).retire)))
   ∧ (∀ (s g t : State) (p : Pred) (a b c : Code) (off : BitVec 17) (sz : Size) (sc : Scope) (pa : Nat),
     let n := sizeBytes sz
     let ea := s.operand [a, b] 1 + off.signExtend 64
     let stored := fun (i : Instr) (v : Word) => ∃ u : State, exec i s = .next u
       ∧ (∀ x, u.dram.get x = t.dram.get x) ∧ (∀ x, u.host.get x = t.host.get x)
       ∧ u.myCore.regs = t.myCore.regs ∧ (∀ x, u.myCore.lmem.get x = t.myCore.lmem.get x)
       ∧ ∃ e : SbEntry, u.myCore.sbuf = t.myCore.sbuf ++ [e] ∧ e.addr = pa ∧ e.sth = t.me.sth ∧ e.tsid = t.myPart.tsid
         ∧ e.data = leBytes n (v.toNat % 2 ^ (8 * n))
     t.myCore.sbuf.length < 16 → LogOff t → t.me?.isSome = true →
     (Issues s p none [rg a, rg b] → (began s [rg a, rg b]).dramPort ea n .write = some (pa, t) →
       stored (.st p b a off sz false) (s.operand [a, b] 0))
     ∧ (Issues s p none [rg a, rg b] → (began s [rg a, rg b]).release sc = (true, g) →
         g.dramPort (g.operand [a, b] 1 + off.signExtend 64) n .write = some (pa, t) →
         stored (.stl p b a off sz false sc) (g.operand [a, b] 0))
     ∧ (Issues s p none [rg a, rg b, rg c] → (began s [rg a, rg b, rg c]).dramPort
           (s.operand [a, b, c] 1 + s.operand [a, b, c] 2 * BitVec.ofNat 64 n) n .write = some (pa, t) →
         stored (.stx p a b c sz false) (s.operand [a, b, c] 0))))
  ∧ (∀ (s : State) (p : Pred) (d a b : Code) (off : BitVec 17) (sz : Size) (sx loc cn : Bool),
       let n := sizeBytes sz
       let bad := fun ea : Word => (if loc then 2 ^ 19 else 2 ^ 57) ≤ ea.toNat ∨ ea.toNat % n ≠ 0
       (Issues s p (some (rg d)) [rg b] →
         let ea := s.operand [b] 0 + off.signExtend 64
         (bad ea → exec (.ld p d b off sz sx loc) s = .next ((began s [rg b]).trap .align ea))
         ∧ (loc = false → ea.toNat < 2 ^ 57 → ea.toNat % n = 0 → isWindow ea.toNat = false →
             exec (.ldf p d b off sz sx loc cn) s = .next ((began s [rg b]).trapAcc .prot ea 1)))
       ∧ (Issues s p none [rg a, rg b] →
         let ea := s.operand [a, b] 1 + off.signExtend 64
         (bad ea → exec (.st p b a off sz loc) s = .next ((began s [rg a, rg b]).trap .align ea))
         ∧ (loc = false → ea.toNat < 2 ^ 57 → ea.toNat % n = 0 → isWindow ea.toNat = false →
             exec (.stf p b a off sz loc) s = .next ((began s [rg a, rg b]).trapAcc .prot ea 2)
             ∧ exec (.clre p b a off loc) s = .next ((began s [rg a, rg b]).trapAcc .prot ea 2))))

/-- Full and empty cells (R351, R166, R167): an LDF whose cell is full and for which no older thread waits reads it,
acquires at the scope of what filled the cell (R212), and with CN leaves it empty; on an empty cell it parks with
none of its effect. STF stores and leaves its cell full; CLRE empties the cells that its range touches and no other.
PREF never parks and never traps, and writes no register (R350). -/
def Obligations.FullEmptyCells : Prop :=
  (∀ (s : State) (p : Pred) (d b : Code) (off : BitVec 17) (sz : Size) (sx loc cn : Bool) (o : Nat),
    let n := sizeBytes sz
    let g := began s [rg b]
    let v := s.myCore.lmem.read o n
    Issues s p (some (rg d)) [rg b] → s.ownPort loc (s.operand [b] 0 + off.signExtend 64) n = some o →
    (o / 32 ∈ s.myCore.full → (∀ e ∈ s.myCore.threads, ∀ q, e.2.park = some q → ∀ k, q.why ≠ .ldf (o / 32) k) →
      s.myCore.lpoisoned o n = false →
      exec (.ldf p d b off sz sx loc cn) s = .next (((((if cn then g.modMyCore fun x =>
          { x with full := x.full.filter fun q => !([o / 32].contains q) } else g).acquire (s.myCore.fillScope (o / 32))).wr d
        (if sx then (BitVec.ofNat (8 * n) v).signExtend 64 else BitVec.ofNat 64 v))).retire))
    ∧ (o / 32 ∉ s.myCore.full → LogOff s → ∃ t, exec (.ldf p d b off sz sx loc cn) s = .next t
        ∧ t.me.pc = s.me.pc ∧ (t.me.park.map Park.why) = some (.ldf (o / 32) cn) ∧ t.myCore.full = s.myCore.full
        ∧ t.myCore.regs = s.myCore.regs ∧ (∀ x, t.myCore.lmem.get x = s.myCore.lmem.get x)))
  ∧ (∀ (s : State) (p : Pred) (a b : Code) (off : BitVec 17) (sz : Size) (loc : Bool) (o : Nat),
    let n := sizeBytes sz
    Issues s p none [rg a, rg b] → s.ownPort loc (s.operand [a, b] 1 + off.signExtend 64) n = some o → LogOff s →
    ReleaseHolds s .core → ∃ t, exec (.stf p b a off sz loc) s = .next t ∧ PortFrame s t o n [rg a, rg b]
      ∧ t.myCore.lmem.read o n = (s.operand [a, b] 0).toNat % 2 ^ (8 * n)
      ∧ (∀ q, q ∈ t.myCore.full ↔ q ∈ s.myCore.full ∨ q = o / 32))
  ∧ (∀ (s : State) (p : Pred) (a b : Code) (off : BitVec 17) (loc : Bool) (o : Nat),
    let n := (s.operand [a, b] 0).toNat
    Issues s p none [rg a, rg b] → s.ownPort loc (s.operand [a, b] 1 + off.signExtend 64) 1 = some o → LogOff s →
    o + n ≤ 2 ^ 19 → ∃ t, exec (.clre p b a off loc) s = .next t ∧ PortFrame s t o 0 [rg a, rg b]
      ∧ (∀ q, q ∈ t.myCore.full ↔ q ∈ s.myCore.full ∧ ¬ (32 * q < o + n ∧ o < 32 * q + 32 ∧ n ≠ 0)))
  ∧ (∀ (s : State) (p : Pred) (b : Code) (off : BitVec 17), Issues s p none [rg b] → LogOff s →
      ∃ t, exec (.pref p b off) s = .next t ∧ t.me.pc = s.me.pc + 8 ∧ t.myCore.regs = s.myCore.regs
        ∧ (∀ x, t.myCore.lmem.get x = s.myCore.lmem.get x)
        ∧ (isWindow (s.operand [b] 0 + off.signExtend 64).toNat = true → t = passed s [rg b]))

/-- AMO, CAS, RED, FAMO and FRED at the issuing core's port: one indivisible read and write of the SZ bytes. The
returning ones answer the old value; ORD with a release happens when the release holds, and with an acquire
acquires. The same at the home slice of a virtual address that the tables translate, with nothing of the core on its
way there (R180): the slice's bytes become the new value, and no other byte that the partition reads changes; RED
and FRED leave for the slice and count in UNACK until it has performed them. The operations of AMO and RED on an
SZ-byte value, and of FAMO and FRED on a BF16 (H) or FP32 (W) value (R352, R242, R332): what is written for each OP;
the sum is rounded once under RNE with subnormals kept, MIN and MAX answer one of the two patterns unchanged, with
-0 below +0 and a NaN giving way, and two NaNs give the canonical NaN. -/
def Obligations.Atomics : Prop :=
  (∀ (s : State) (p : Pred) (d a b c : Code) (m : AtMod) (o : Nat),
     let n := sizeBytes m.sz
     let old := s.myCore.lmem.read o n
     let low := fun w : Word => w.toNat % 2 ^ (8 * n)
     let after := fun (g : State) (new : Nat) => g.modMyCore fun x =>
       { x with lmem := x.lmem.store o (leBytes n new), lpoison := x.lpoison.filter fun q => !(cellsCovered o n).contains q,
                fx := x.fx.filter fun q => !(cellsCovered o n).contains q }
     let acq := fun g : State => if m.ord = .acq ∨ m.ord = .ar then g.acquire m.scope else g
     (m.ord = .rel ∨ m.ord = .ar → ReleaseHolds s m.scope) → s.myCore.lpoisoned o n = false →
     (Issues s p (some (rg d)) [rg a, rg b] → s.ownPort false (s.operand [a, b] 1) n = some o →
       let ret := fun new : Nat => Host.Outcome.next (((acq (after (began s [rg a, rg b]) new)).wr d (Word.ofNat old)).retire)
       (∀ op : AtOp, exec (.amo p d b a op m) s = ret (amoVal op (8 * n) old (low (s.operand [a, b] 0))))
       ∧ (∀ op : FAtOp, exec (.famo p d b a op m) s = ret (famoVal op n old (low (s.operand [a, b] 0)))))
     ∧ (Issues s p (some (rg d)) [rg a, rg b, rg c] → s.ownPort false (s.operand [a, b, c] 1) n = some o →
         exec (.cas p d b a c m) s = .next (((acq (after (began s [rg a, rg b, rg c])
           (if old = low (s.operand [a, b, c] 0) then low (s.operand [a, b, c] 2) else old))).wr d (Word.ofNat old)).retire))
     ∧ (Issues s p none [rg a, rg b] → s.ownPort false (s.operand [a, b] 1) n = some o →
         (∀ op : AtOp, exec (.red p b a op m) s =
           .next (after (began s [rg a, rg b]) (amoVal op (8 * n) old (low (s.operand [a, b] 0)))).retire)
         ∧ (∀ op : FAtOp, exec (.fred p b a op m) s =
           .next (after (began s [rg a, rg b]) (famoVal op n old (low (s.operand [a, b] 0)))).retire)))
  ∧ (∀ (s t : State) (p : Pred) (d a b c : Code) (m : AtMod) (pa : Nat),
       let n := sizeBytes m.sz
       let gen := t.myPart.keyGen
       let old := t.dramRead gen pa n
       let low := fun w : Word => w.toNat % 2 ^ (8 * n)
       let acq := fun g : State => if m.ord = .acq ∨ m.ord = .ar then g.acquire m.scope else g
       let goes := fun (dst : Option Pos) (srcs : List Pos) (ea : Word) => Issues s p dst srcs
         ∧ (began s srcs).dramPort ea n .write = some (pa, t)
       (m.ord = .rel ∨ m.ord = .ar → ReleaseHolds s m.scope) → t.me?.isSome = true → t.me.unack < 2 ^ 32 - 1 →
       t.myCore.sbuf = [] → t.flights = [] → t.dramPoisoned pa n = false → t.myPart.slsel = [] → t.watches = [] →
       let ret := fun (i : Instr) (new : Nat) => ∃ u : State, exec i s = .next (((acq u).wr d (Word.ofNat old)).retire)
         ∧ u.dramRead gen pa n = new % 2 ^ (8 * n)
         ∧ (∀ x, ¬ (pa ≤ x ∧ x < pa + n) → u.dramRead gen x 1 = t.dramRead gen x 1)
         ∧ u.myCore.regs = t.myCore.regs ∧ u.myCore.lmem = t.myCore.lmem
       let sent := fun (i : Instr) (f : Flight) => ∃ u : State, exec i s = .next u.retire ∧ u.me.unack = t.me.unack + 1
         ∧ (u.flights.map fun q => (q.port, q.core, q.sth, q.what)) = [(16, t.cur.core, t.me.sth, f)]
         ∧ u.dram = t.dram ∧ u.myCore.regs = t.myCore.regs ∧ u.myCore.lmem = t.myCore.lmem
       (goes (some (rg d)) [rg a, rg b] (s.operand [a, b] 1) →
         (∀ op : AtOp, ret (.amo p d b a op m) (amoVal op (8 * n) old (low (s.operand [a, b] 0))))
         ∧ (∀ op : FAtOp, ret (.famo p d b a op m) (famoVal op n old (low (s.operand [a, b] 0)))))
       ∧ (goes (some (rg d)) [rg a, rg b, rg c] (s.operand [a, b, c] 1) →
           ret (.cas p d b a c m) (if old = low (s.operand [a, b, c] 0) then low (s.operand [a, b, c] 2) else old))
       ∧ (goes none [rg a, rg b] (s.operand [a, b] 1) →
           (∀ op : AtOp, sent (.red p b a op m) (.red (t.tsidOf t.cur.core) pa n op (low (s.operand [a, b] 0))))
           ∧ (∀ op : FAtOp, sent (.fred p b a op m) (.fred (t.tsidOf t.cur.core) pa n op (low (s.operand [a, b] 0))))))
  ∧ ((∀ (n old v : Nat), (n = 32 ∨ n = 64) → old < 2 ^ n → v < 2 ^ n →
       let z := fun x : Nat => (BitVec.ofNat n x).toInt
       amoVal .add n old v = (old + v) % 2 ^ n
       ∧ amoVal .min n old v = (if z old ≤ z v then old else v)
       ∧ amoVal .max n old v = (if z v ≤ z old then old else v)
       ∧ amoVal .minz n old v = min old v
       ∧ amoVal .maxz n old v = max old v
       ∧ amoVal .and n old v = (old &&& v) ∧ amoVal .or n old v = (old ||| v) ∧ amoVal .xor n old v = (old ^^^ v)
       ∧ amoVal .swap n old v = v)
     ∧ (∀ (size old v : Nat), size = 2 ∨ size = 4 → old < 2 ^ (8 * size) → v < 2 ^ (8 * size) →
       let f := if size = 2 then bf16 else f32
       let a := f.decode false false old
       let b := f.decode false false v
       let neg := fun x : Nat => bit x (8 * size - 1)
       let nan := if size = 2 then 0x7FC0 else 0x7FC00000
       famoVal .add size old v = f.encode false false .rne (a.add .rne b)
       ∧ (a.isNan = true ∨ b.isNan = true → famoVal .add size old v = nan)
       ∧ (a.isNan = true → b.isNan = true → famoVal .min size old v = nan ∧ famoVal .max size old v = nan)
       ∧ (a.isNan = true → b.isNan = false → famoVal .min size old v = v ∧ famoVal .max size old v = v)
       ∧ (a.isNan = false → b.isNan = true → famoVal .min size old v = old ∧ famoVal .max size old v = old)
       ∧ (a.isNan = false → b.isNan = false →
           famoVal .min size old v = (if a.cmp b = .lt ∨ a.cmp b = .eq ∧ (neg old = true ∨ neg v = false) then old else v)
           ∧ famoVal .max size old v = (if a.cmp b = .gt ∨ a.cmp b = .eq ∧ (neg old = false ∨ neg v = true) then old else v))))

/-- FENCE, PFENCE and VSYNC complete when what they wait for is done (R354, R355, R169, R206, R210): REL waits for the
release, ACQ acquires, FULL does both; VEC and VSYNC wait for vector work, ENG for jobs; SMP drops the cluster
sampler cache and delays the next instruction by 64 core cycles. None changes a register or a byte of memory. -/
def Obligations.FencesComplete : Prop :=
  ∀ (s : State) (p : Pred) (sc : Scope), Issues s p none [] → LogOff s →
    let same := fun t : State => t.me.pc = s.me.pc + 8 ∧ t.myCore.regs = s.myCore.regs ∧ t.me.preds = s.me.preds
      ∧ (∀ a, t.dram.get a = s.dram.get a) ∧ (∀ a, t.myCore.lmem.get a = s.myCore.lmem.get a)
      ∧ (∀ c, c ≠ s.cur.core → t.core c = s.core c)
    exec (.fence p .acq sc) s = .next (((began s []).acquire sc).retire)
    ∧ (ReleaseHolds s sc → (∃ t, exec (.fence p .rel sc) s = .next t ∧ same t) ∧ ∃ t, exec (.fence p .full sc) s = .next t ∧ same t
        ∧ (wideScope sc = true → ∀ l ∈ t.myCore.dcache, l.tsid ≠ s.tsidOf s.cur.core))
    ∧ (vecBusy s.myCore s.me.sth = false → exec (.vsync p) s = .next (passed s [])
        ∧ (s.vstoresOut s.cur.core s.me.sth = false → exec (.pfence p .vec) s = .next (passed s [])))
    ∧ (s.jobsOut s.cur.core s.me.sth = false →
        exec (.pfence p .eng) s = .next (((began s []).acquire .clus).retire))
    ∧ (∃ t, exec (.pfence p .smp) s = .next t ∧ same t ∧ s.clk + 64 ≤ t.me.busy
        ∧ ∀ l ∈ t.myCluster.scache, l.tsid ≠ s.tsidOf s.cur.core)
    ∧ (vecBusy s.myCore s.me.sth = false → s.vstoresOut s.cur.core s.me.sth = false →
        s.jobsOut s.cur.core s.me.sth = false → ∃ t, exec (.pfence p .all) s = .next t ∧ same t ∧ s.clk + 64 ≤ t.me.busy)
    ∧ (vecBusy s.myCore s.me.sth = true → ∃ t, exec (.vsync p) s = .next t ∧ t.me.pc = s.me.pc
        ∧ t.me.park.map Park.why = some .vsync)

/-- WATCH, BARW and JOINW on a word at the issuing core's port (R353, R356, R362, R181): where the comparison holds the
wait ends at once and acquires; where it does not the thread parks with PC on the instruction, and nothing else
changes. BARA adds to the word at the issuing core's port, and BAR adds 1 and completes where the count then reaches
its target (R356): no other byte changes and no register is written. -/
def Obligations.WaitsAndBarriers : Prop :=
  (∀ (s : State) (p : Pred) (a b : Code) (off : BitVec 17) (sz : Size) (cmp : WCmp) (sc : Scope) (o : Nat), LogOff s →
     let parked := fun (t : State) (ea : Word) => t.me.pc = s.me.pc ∧ t.myCore.regs = s.myCore.regs
       ∧ (∀ x, t.myCore.lmem.get x = s.myCore.lmem.get x) ∧ (∀ x, t.dram.get x = s.dram.get x)
       ∧ ∃ n c r h j, t.me.park.map Park.why = some (.word ea n c r h j)
     (Issues s p none [rg a, rg b] →
       (let ea := s.operand [a, b] 1 + off.signExtend 64
        let n := sizeBytes sz
        let holds := wcmpHolds cmp (8 * n) (s.myCore.lmem.read o n) ((s.operand [a, b] 0).toNat % 2 ^ (8 * n))
        s.ownPort false ea n = some o → s.myCore.lpoisoned o n = false →
          (holds = true → exec (.watch p b a off sz cmp sc) s = .next (((began s [rg a, rg b]).acquire sc).retire))
          ∧ (holds = false → ∃ t, exec (.watch p b a off sz cmp sc) s = .next t ∧ parked t ea))
       ∧ (let ea := s.operand [a, b] 0
          let v := s.myCore.lmem.read o 8
          s.ownPort false ea 8 = some o → s.myCore.lpoisoned o 8 = false →
          ((s.operand [a, b] 1).toNat ≤ v → exec (.barw p a b sc) s = .next (((began s [rg a, rg b]).acquire sc).retire))
          ∧ (v < (s.operand [a, b] 1).toNat → ∃ t, exec (.barw p a b sc) s = .next t ∧ parked t ea)))
     ∧ (Issues s p none [rg a] →
         s.ownPort false (s.operand [a] 0) 8 = some o → s.myCore.lpoisoned o 8 = false →
         (s.myCore.lmem.read o 8 = 0 → exec (.joinw p a sc) s = .next (((began s [rg a]).acquire sc).retire))
         ∧ (s.myCore.lmem.read o 8 ≠ 0 → ∃ t, exec (.joinw p a sc) s = .next t ∧ parked t (s.operand [a] 0))))
  ∧ (∀ (s : State) (p : Pred) (a b : Code) (sc : Scope) (o : Nat), LogOff s → Issues s p none [rg a, rg b] →
       ReleaseHolds s sc → s.ownPort false (s.operand [a, b] 0) 8 = some o →
       let v := s.myCore.lmem.read o 8
       (∃ t, exec (.bara p a b sc) s = .next t ∧ PortFrame s t o 8 [rg a, rg b]
         ∧ t.myCore.lmem.read o 8 = (v + (s.operand [a, b] 1).toNat) % 2 ^ 64)
       ∧ (s.me.prog.arrived = false → s.myCore.lpoisoned o 8 = false → (s.operand [a, b] 1).toNat ≤ (v + 1) % 2 ^ 64 →
           ∃ t, exec (.bar p a b sc) s = .next t ∧ PortFrame s t o 8 [rg a, rg b]
             ∧ t.myCore.lmem.read o 8 = (v + 1) % 2 ^ 64))

/-- QPEEK reads the oldest entry and leaves it; QCNT reads the occupancy; QFLUSH sends a batch of a bound channel and of
an unbound one changes nothing; QBIND with 0 unbinds, and with a channel of the device's window binds or rebinds an
empty channel with 16 credits; KWAIT completes where its comparison holds under R150 and parks otherwise. -/
def Obligations.ChannelInstructions : Prop :=
  (∀ (s : State) (p : Pred) (d a : Code), Issues s p (some (rg d)) [⟨a, .chan⟩] →
    let q := s.myCore.chan (codeNum a)
    exec (.qcnt p d a) s = .next (wrote s [⟨a, .chan⟩] d (Word.ofNat q.vals.length))
    ∧ (∀ v n rest, q.bind = none → q.vals = (v, n) :: rest →
        chansReady s.myCore s.cur.slot s.me.prog.stamp [codeNum a] (destChan (some (rg d))) true = true →
        exec (.qpeek p d a) s = .next (wrote s [⟨a, .chan⟩] d v)))
  ∧ (∀ (s : State) (p : Pred) (a : Code), Issues s p none [⟨a, .chan⟩] →
      ((s.myCore.chan (codeNum a)).bind = none → exec (.qflush p a) s = .next (passed s [⟨a, .chan⟩]))
      ∧ (∀ bd, (s.myCore.chan (codeNum a)).bind = some bd → LogOff s → ∃ t, exec (.qflush p a) s = .next t
          ∧ t.me.pc = s.me.pc + 8 ∧ t.myCore.regs = s.myCore.regs ∧ (∀ x, t.myCore.lmem.get x = s.myCore.lmem.get x)
          ∧ (t.myCore.chan (codeNum a)).vals = (s.myCore.chan (codeNum a)).vals.drop
              (min (min (s.myCore.chan (codeNum a)).vals.length 16) bd.credits)))
  ∧ (∀ (s : State) (p : Pred) (a b : Code), Issues s p none [⟨a, .chan⟩, rg b] →
    let q := s.myCore.chan (codeNum a)
    let v := s.operand [b] 0
    q.vals = [] →
    (v = 0 → q.bind = none → exec (.qbind p a b) s = .next (passed s [⟨a, .chan⟩, rg b]))
    ∧ (∀ bd, v = 0 → q.bind = some bd → bd.out = 0 → s.myCore.pushers.look (codeNum a) = none → LogOff s →
        ∃ t, exec (.qbind p a b) s = .next t ∧ t.me.pc = s.me.pc + 8
          ∧ (codeNum a ∉ popsOf (regCodes [rg b]) → t.myCore.chan (codeNum a) = Chan.empty))
    ∧ (v ≠ 0 → (q.bind = none ∨ s.myCore.pushers.look (codeNum a) = none) → isWindow v.toNat = true → v.toNat < 2 ^ 57 → bits v.toNat 18 4 = 0 → s.winHere v.toNat = true →
        s.winBad v.toNat = false → s.corePart (winCore v.toNat) = some s.myPartNo →
        ¬ (winCore v.toNat = s.cur.core ∧ bits v.toNat 3 0 = codeNum a) → LogOff s →
        ∃ t, exec (.qbind p a b) s = .next t ∧ t.me.pc = s.me.pc + 8
          ∧ (codeNum a ∉ popsOf (regCodes [rg b]) → ((t.myCore.chan (codeNum a)).bind.map fun k => (k.dev, k.core, k.chan, k.credits, k.out)) =
            some (winDev v.toNat, winCore v.toNat, bits v.toNat 3 0, 16, 0))))
  ∧ (∀ (s : State) (p : Pred) (a b : Code) (cmp : WCmp), Issues s p none [⟨a, .kreg⟩, rg b] →
    let v := (kRead (s.myCore.kregs.lookD (codeNum a) []) s.clk).toNat
    let holds := wcmpHolds cmp 64 v (s.operand [b] 0).toNat
    (holds = true ∨ s.me.prog.finished = true → exec (.kwait p a b cmp) s = .next (passed s [⟨a, .kreg⟩, rg b]))
    ∧ (holds = false → s.me.prog.finished = false → LogOff s → ∃ t, exec (.kwait p a b cmp) s = .next t ∧ t.me.pc = s.me.pc
        ∧ t.me.park.map Park.why = some (.kwait (codeNum a) cmp (s.operand [b] 0))))

/-- SPAWN adds an entry to the issuing core's deque (R360, R100): the eight words of its register group, the child's
level state, and no change of any register. A level past the launch's raises ILLOPND with SA's code, an index not
below the level's COUNT ILLOPND with SB's code, and a domain wider than the level's DOMC ILLMOD, in that order
(R102). WFW and an EXIT without a join counter end the frame (R361, R329): a thread that waits for work stays in its
slot and idles; one that TNEW made leaves its slot. EXIT with a join counter at the own port first takes 1 from it
(R112). Inside a handler, ACT 1, both also clear ACT, discard the thread's faulted and held entries and let the late
causes still due lapse, each of which counts as a fault of the partition; a PREEMPT notice is none (R329, R361,
R51). -/
def Obligations.SpawnsAndFrameEnds : Prop :=
  (∀ (s : State) (p : Pred) (a b : Code) (deep : Bool) (dom : Fin 9) (l : Launch), LogOff s →
     Issues s p none [⟨a, .group 8 1⟩, rg b] → s.launch? s.myPartNo s.me.lid = some l →
     let lvl := tagLvl s.me.tag + b2n deep
     let lev := l.lev lvl
     let i := (s.operand [b] 0).toNat
     let d := if dom.val = 0 then lev.domc else dom.val - 1
     let raises := fun r : State => exec (.spawn p a b deep dom) s = .next r
     let g := began s [⟨a, .group 8 1⟩, rg b]
     let child := fun t : State => t.myCore.deque = s.myCore.deque ++
         [⟨(List.range 8).map fun j => s.myCore.greg s.me (a.toNat + j), l.childTag s.me.tag lvl d s.cur.core i, s.me.lid,
           if d = 0 then s.me.sth else 0⟩]
     (l.nlev ≤ lvl → raises (g.trap .illopnd (a.setWidth 64)))
     ∧ (lvl < l.nlev → lev.count ≤ i → raises (g.trap .illopnd (b.setWidth 64)))
     ∧ (lvl < l.nlev → i < lev.count → lev.domc < d → raises (g.trapWord .illmod))
     ∧ (lvl < l.nlev → i < lev.count → d ≤ lev.domc → ReleaseHolds s (Scope.ofCode lev.scope) →
     s.myCore.deque.length < 256 →
     ∃ t, exec (.spawn p a b deep dom) s = .next t ∧ child t ∧ t.me.pc = s.me.pc + 8 ∧ t.myCore.regs = s.myCore.regs
       ∧ (∀ x, t.dram.get x = s.dram.get x) ∧ (∀ x, t.myCore.lmem.get x = s.myCore.lmem.get x)
       ∧ (lvl < 8 → d < 8 → s.cur.core < 2 ^ 12 → tagLvl (l.childTag s.me.tag lvl d s.cur.core i) = lvl
           ∧ tagDom (l.childTag s.me.tag lvl d s.cur.core i) = d ∧ tagOrg (l.childTag s.me.tag lvl d s.cur.core i) = s.cur.core)))
  ∧ ((∀ (s : State) (p : Pred) (pno : Nat) (q : Part), LogOff s → Issues s p none [] → s.corePart s.cur.core = some pno →
       s.parts.look pno = some q → s.me.act = true → s.me.mesh = none → s.me.tnew = false → s.myCore.marked s.cur.slot = false →
       (∀ e ∈ s.myCore.ring, e.sth = s.me.sth → e.still = true → e.isEnq = false) →
       (∀ c ∈ clusterCores (clusterOf s.cur.core), ∀ e ∈ (s.core c).threads, ∀ x y z, e.2.park.map Park.why ≠ some (.cbld x y z)) →
       (s.me.tjoin = 0 → exec (.exit p) s = exec (.wfw p) s)
       ∧ ∃ t, exec (.wfw p) s = .next t ∧ t.me.idle = true ∧ t.me.park = none ∧ t.me.act = false ∧ t.me.late = []
           ∧ t.myCore.ring.map Entry.seq = (s.myCore.ring.filter fun e => !(e.sth = s.me.sth && e.still)).map Entry.seq
           ∧ (∀ e ∈ t.myCore.ring, e.sth = s.me.sth → e.inHandler = false)
           ∧ (t.part pno).fatals = q.fatals + (s.me.late.filter fun l => l.cause ≠ .preempt).length
           ∧ t.myCore.regs = s.myCore.regs ∧ (∀ x, t.dram.get x = s.dram.get x) ∧ (∀ x, t.myCore.lmem.get x = s.myCore.lmem.get x))
     ∧ ∀ (s : State) (p : Pred) (pno : Nat), LogOff s → Issues s p none [] → s.corePart s.cur.core = some pno →
       s.me.act = false → s.me.ending = false → s.me.mesh = none →
       (s.me.tjoin = 0 → exec (.exit p) s = exec (.wfw p) s)
       ∧ (s.me.tnew = false → s.myCore.marked s.cur.slot = false → ∃ t, exec (.wfw p) s = .next t ∧ t.me.idle = true
           ∧ t.me.park = none ∧ t.me.base = s.me.base ∧ t.me.lim = s.me.lim ∧ t.myCore.regs = s.myCore.regs
           ∧ (∀ x, t.dram.get x = s.dram.get x) ∧ (∀ x, t.myCore.lmem.get x = s.myCore.lmem.get x))
       ∧ (s.me.tnew = true → s.me.late = [] → s.watches = [] → ∃ t, exec (.wfw p) s = .next t ∧ t.me? = none
           ∧ (∀ sl, sl ≠ s.cur.slot → t.thread? s.cur.core sl = s.thread? s.cur.core sl) ∧ t.myCore.regs = s.myCore.regs)
       ∧ (∀ o, s.me.tjoin ≠ 0 → s.ownPort false s.me.tjoin 8 = some o → ReleaseHolds s (s.levelScope s.myPartNo s.me) →
           s.myCore.lpoisoned o 8 = false → s.me.tnew = false → s.myCore.marked s.cur.slot = false →
           ∃ t, exec (.exit p) s = .next t ∧ t.me.idle = true
             ∧ t.myCore.lmem.read o 8 = (s.myCore.lmem.read o 8 + 2 ^ 64 - 1) % 2 ^ 64
             ∧ ∀ x, ¬ (o ≤ x ∧ x < o + 8) → t.myCore.lmem.get x = s.myCore.lmem.get x))

/-- TNEW answers all ones where the core has no free slot or no room for the window, and otherwise makes a thread in the
lowest free slot, whose PC is SA and whose g0 is the creator's slot, and answers that slot (R363, R107, R149). YIELD
and PARK park until a core cycle, and PARK of 0 only goes on (R364). A thread is made in the lowest free slot with a
window of entries that no other window overlaps, all of them 0 and none poisoned, and with every register 0 and only
p0 true; no other thread moves (R107, R148, R149). -/
def Obligations.ThreadsMadeAndParked : Prop :=
  ((∀ (s g : State) (p : Pred) (d a : Code) (lim : Fin 17) (l : Launch), LogOff s → Issues s p (some (rg d)) [rg a] →
     (began s [rg a]).takeSources.release .core = (true, g) → s.launch? s.myPartNo s.me.lid = some l → isGCode d = true →
     (g.myCore.freeSlot l = none ∨ g.myCore.firstFit (8 * lim.val) = none ∨ s.myCore.displacedOf s.me.lid = true →
       ∃ t, exec (.tnew p d a lim) s = .next t ∧ t.me.pc = s.me.pc + 8 ∧ t.myCore.greg t.me (codeNum d) = allOnes)
     ∧ (∀ sl b, g.myCore.freeSlot l = some sl → g.myCore.firstFit (8 * lim.val) = some b →
         s.myCore.displacedOf s.me.lid = false → 1 ≤ lim.val → s.me.base + s.me.lim ≤ b ∨ b + 8 * lim.val ≤ s.me.base →
         ∃ t u, exec (.tnew p d a lim) s = .next t ∧ t.thread? s.cur.core sl = some u
           ∧ u.pc = s.operand [a] 0 ∧ u.lid = l.lid ∧ u.pl = l.pl ∧ u.tag = s.me.tag ∧ u.base = b ∧ u.lim = 8 * lim.val
           ∧ u.tnew = true ∧ t.myCore.greg u 0 = Word.ofNat s.cur.slot
           ∧ t.me.pc = s.me.pc + 8 ∧ t.myCore.greg s.me (codeNum d) = Word.ofNat sl))
   ∧ (∀ (s : State) (p : Pred), LogOff s → Issues s p none [] →
       (s.me.prog.finished = true → exec (.yield p) s = .next (passed s []))
       ∧ (s.me.prog.finished = false → ∃ t n, exec (.yield p) s = .next t ∧ t.me.pc = s.me.pc
           ∧ t.me.park.map Park.why = some (.yield n) ∧ s.clk < n ∧ n ≤ s.clk + 32 ∧ n % 32 = 0))
   ∧ (∀ (s : State) (p : Pred) (a : Code), LogOff s → Issues s p none [rg a] →
       let n := bits (s.operand [a] 0).toNat 19 0
       (n = 0 ∨ s.me.prog.finished = true → exec (.park p a) s = .next (passed s [rg a]))
       ∧ (n ≠ 0 → s.me.prog.finished = false → ∃ t, exec (.park p a) s = .next t ∧ t.me.pc = s.me.pc
           ∧ t.me.park.map Park.why = some (.until (s.clk + n)))))
  ∧ (∀ (s t : State) (c : Nat) (l : Launch) (win sl : Nat), s.makeThread c l win = some (sl, t) →
       ∃ u : Thread, t.thread? c sl = some u ∧ s.thread? c sl = none ∧ sl < 64
         ∧ (∀ k < sl, (s.core c).freeFor l k = false)
         ∧ u.lim = win ∧ u.base + win ≤ 2048 ∧ u.lid = l.lid ∧ u.pl = l.pl ∧ u.preds = 1 ∧ u.mode = 0 ∧ u.tvec = 0
         ∧ u.tcause = 0 ∧ u.tjoin = 0 ∧ u.unack = 0 ∧ u.tsdepth = 0 ∧ u.park = none
         ∧ (∀ n < win, (t.core c).greg u n = 0 ∧ u.base + n ∉ (t.core c).regPoison)
         ∧ (∀ sm, sm ≠ sl → t.thread? c sm = s.thread? c sm)
         ∧ (∀ e ∈ (s.core c).threads, e.2.base + e.2.lim ≤ u.base ∨ u.base + win ≤ e.2.base)
         ∧ (∀ n, n < u.base ∨ u.base + win ≤ n → (t.core c).regs.lookD n 0 = (s.core c).regs.lookD n 0))

/-- Every vector instruction, each named here with its operands, enters the dispatch ring and goes on after 16 bytes:
the entry carries SEQNOW, which then counts up, the values of the registers that the operands name (0 for a position
that the form does not use), and the ZF of the zones of its local operands; no register and no byte of memory
changes. A count of 0 enters nothing (R253, R300). The 0 at a position that a form does not use is the model's
choice (log entry 16). -/
def Obligations.VectorInstructionsEnterTheRing : Prop :=
  (∀ (s : State) (p : Pred) (d a b c : Code) (m : VMod), m.cnt ≠ 0 → s.myCore.ring.length < 256 → LogOff s →
    let enters := fun (i : Instr) => ∃ (t : State) (e : Entry), exec i s = .next t ∧ t.myCore.ring = s.myCore.ring ++ [e] ∧ e.instr = i
      ∧ e.st = .waiting ∧ t.me.pc = s.me.pc + 16
    let goes := fun (l : List Code) => IssuesWith false s p none (l.map (vecPos m))
    (goes [d, a, b, c] → enters (.vfma p d a b c m) ∧ enters (.vaxpy p d a b c m) ∧ enters (.vsel p d a b c m) ∧ enters (.vcmac p d a b c m))
    ∧ (goes [d, a, b] → enters (.vadd p d a b m) ∧ enters (.vsub p d a b m) ∧ enters (.vmul p d a b m) ∧ enters (.vmin p d a b m)
      ∧ enters (.vmax p d a b m) ∧ enters (.vscl p d a b m) ∧ enters (.vand p d a b m) ∧ enters (.vor p d a b m) ∧ enters (.vxor p d a b m)
      ∧ enters (.vshl p d a b m) ∧ enters (.vshr p d a b m) ∧ enters (.vcmp p d a b m) ∧ enters (.vcmul p d a b m) ∧ enters (.vdot p d a b m)
      ∧ enters (.vgath p d a b m) ∧ enters (.vscat p d a b m) ∧ enters (.vperm p d a b m))
    ∧ (goes [d, a] → enters (.vabs p d a m) ∧ enters (.vmov p d a m) ∧ enters (.vred p d a m) ∧ enters (.vscan p d a m) ∧ enters (.vcvt p d a m)
      ∧ enters (.vldg p d a m) ∧ enters (.vstg p d a m) ∧ enters (.vbcst p d a m) ∧ enters (.vexp p d a m) ∧ enters (.vlog p d a m)
      ∧ enters (.vrcp p d a m) ∧ enters (.vrsq p d a m) ∧ enters (.vsin p d a m) ∧ enters (.vcos p d a m))
    ∧ (goes [d] → enters (.viota p d m)))
  ∧ (∀ (i : Instr) (sh : Shell) (v : VInfo) (s : State), Instr.shell i = some sh → sh.len = 16 → vinfo i = some v →
    GoesAhead s sh → LogOff s →
    (v.m.cnt = 0 → exec i s = .next ((began s sh.srcs).retireLong))
    ∧ (v.m.cnt ≠ 0 → s.myCore.ring.length < 256 → ∃ (t : State) (e : Entry), exec i s = .next t
        ∧ t.myCore.ring = s.myCore.ring ++ [e] ∧ e.seq = s.myCore.seqnow ∧ t.myCore.seqnow = (s.myCore.seqnow + 1) % 2 ^ 32
        ∧ e.sth = s.me.sth ∧ e.lid = s.me.lid ∧ e.instr = i ∧ e.st = .waiting ∧ e.iter = 0 ∧ e.te = s.myCore.te
        ∧ e.word = s.cur.word ∧ e.ext = s.cur.ext
        ∧ ((s.launch? s.myPartNo s.me.lid).bind (·.fused) = none → [e.v0, e.v1, e.v2, e.v3] =
            (sh.srcs.map fun q => if isGCode q.code = true then s.myCore.greg s.me (codeNum q.code) else 0)
              ++ List.replicate (4 - sh.srcs.length) 0)
        ∧ (v.dst = true → e.z0 = s.myCore.zfAt e.v0) ∧ (v.sa = true → e.z1 = s.myCore.zfAt e.v1)
        ∧ (v.sb = true → e.z2 = s.myCore.zfAt e.v2) ∧ (v.sc = true → e.z3 = s.myCore.zfAt e.v3)
        ∧ t.me.pc = s.me.pc + 16 ∧ ThreadKept s.me t.me ∧ t.me.preds = s.me.preds ∧ t.me.unack = s.me.unack
        ∧ Elsewhere s t ∧ t.myCore.regs = s.myCore.regs ∧ t.myCore.kregs = s.myCore.kregs
        ∧ (∀ a, t.myCore.lmem.get a = s.myCore.lmem.get a) ∧ t.myCore.full = s.myCore.full))

/-- What a lane of a vector instruction becomes (R371 to R376, R241): integer lanes wrap in 64 bits, floating lanes are
rounded once under RM and FTZ, a truth value is 1 or 0, VPERM picks by the low six bits of an index, VRED combines
neighbours in a tree and VSCAN runs along the lanes. -/
def Obligations.VectorLanes : Prop :=
  ∀ (v : VEnv) (p : Pred) (d a b c : Code) (m : VMod) (x y z : List Word) (f g h : List Val), x.length = y.length →
    y.length = z.length → f.length = g.length → g.length = h.length →
    let I := fun (l : List Word) => l.map Lane.int
    let F := fun (l : List Val) => l.map Lane.fp
    let int2 := fun (i : Instr) (o : Word → Word → Word) => vlanes v i (I x) (I y) [] = I (List.zipWith o x y)
    let fp2 := fun (i : Instr) (o : Val → Val → Val) =>
      vlanes v i (F f) (F g) [] = F ((List.zipWith o f g).map fun r => r.round32 v.ftz v.rm)
    let fp1 := fun (i : Instr) (o : Apx) => vlanes v i (F f) [] [] = F (f.map fun r => o.run v.rm v.ftz v.apx v.wide r)
    (int2 (.vadd p d a b m) (· + ·) ∧ int2 (.vsub p d a b m) (· - ·) ∧ int2 (.vmul p d a b m) (· * ·)
      ∧ int2 (.vand p d a b m) (· &&& ·) ∧ int2 (.vor p d a b m) (· ||| ·) ∧ int2 (.vxor p d a b m) (· ^^^ ·)
      ∧ int2 (.vmin p d a b m) (fun q r => if q.toInt ≤ r.toInt then q else r)
      ∧ int2 (.vmax p d a b m) (fun q r => if r.toInt ≤ q.toInt then q else r)
      ∧ int2 (.vshl p d a b m) (fun q r => q <<< (r.toNat % 64))
      ∧ int2 (.vshr p d a b m) (fun q r => if m.vx.toNat = 1 then q.sshiftRight (r.toNat % 64) else q >>> (r.toNat % 64))
      ∧ (v.kind = .int → int2 (.vcmp p d a b m) (fun q r => if intCmpHolds (vcmpCode m.vx.toNat) q.toInt r.toInt = true then 1 else 0))
      ∧ vlanes v (.vfma p d a b c m) (I x) (I y) (I z) = I (List.zipWith (· + ·) (List.zipWith (· * ·) x y) z)
      ∧ (∀ k, vlanes v (.vaxpy p d a b c m) (I x) (I y) (I (k :: z)) = I (List.zipWith (fun q r => k * q + r) x y))
      ∧ (∀ i < x.length, (vlanes v (.vsel p d a b c m) (I x) (I y) (I z))[i]? =
          some (.int (if z.getD i 0 ≠ 0 then x.getD i 0 else y.getD i 0)))
      ∧ vlanes v (.vmov p d a m) (I x) [] [] = I x
      ∧ vlanes v (.vabs p d a m) (I x) [] [] = I (x.map fun w => if w.toInt < 0 then -w else w)
      ∧ vlanes v (.vscl p d a b m) (I x) [] [] = I (x.map (· * v.scalar))
      ∧ vlanes v (.vcvt p d a m) (I x) [] [] = I (x.map fun w => match m.vx.toNat with
          | 0 => w | 1 => 0 | 2 => BitVec.ofInt 64 (max 0 (min 1 w.toInt)) | _ => BitVec.ofInt 64 (max (-1) (min 1 w.toInt)))
      ∧ (v.kind = .int → vlanes v (.vbcst p d a m) [] [] [] = I (List.replicate v.n v.scalar)
          ∧ vlanes v (.viota p d m) [] [] [] = I ((List.range v.n).map fun i => Word.ofNat (64 * v.j + i))
          ∧ vlanes v (.vperm p d a b m) (I x) (I y) [] = I (y.map fun w => x.getD (w.toNat % 64) 0)))
    ∧ (fp2 (.vadd p d a b m) (Val.add v.rm) ∧ fp2 (.vsub p d a b m) (fun q r => Val.add v.rm q r.neg) ∧ fp2 (.vmul p d a b m) Val.mul
      ∧ fp2 (.vmin p d a b m) Val.lesser ∧ fp2 (.vmax p d a b m) Val.greater
      ∧ vlanes v (.vfma p d a b c m) (F f) (F g) (F h) = F ((List.zipWith (fun q r => Val.add v.rm q r) (List.zipWith Val.mul f g) h).map
          fun r => r.round32 v.ftz v.rm)
      ∧ fp1 (.vexp p d a m) .exp ∧ fp1 (.vlog p d a m) .log ∧ fp1 (.vrcp p d a m) .rcp ∧ fp1 (.vrsq p d a m) .rsq
      ∧ fp1 (.vsin p d a m) .sin ∧ fp1 (.vcos p d a m) .cos)
    ∧ (∀ q r s t : Val, m.vx = 0 → vlanes v (.vcmul p d a b m) [.cx q r] [.cx s t] [] = (if v.packed = [] then [] else
        [.cx (((q.mul s).add v.rm (r.mul t).neg).round32 v.ftz v.rm) (((q.mul t).add v.rm (r.mul s)).round32 v.ftz v.rm)]))
    ∧ (∀ (o : Lane → Lane → Lane) (k l q r : Lane), treeReduce o 6 [k, l, q, r] = some (o (o k l) (o q r))
        ∧ treeReduce o 6 [k, l, q] = some (o (o k l) q) ∧ scanFrom o none [k, l, q] = [k, o k l, o (o k l) q])

/-- ENQ enters its four words in the ring and waits with PC past it; POLLJ, WAITJ and JSTAT read the status of a job of
the cluster: engine 3 answers 8, a number whose status is not kept answers 7, a kept one its status, sub-code and
count, and what reports an end acquires at CLUS (R386, R388 to R390). -/
def Obligations.JobInstructions : Prop :=
  (∀ (s : State) (p : Pred) (d a : Code), IssuesWith false s p (some (rg d)) [⟨a, .group 4 4⟩] → LogOff s →
    s.myCore.ring.length < 256 → ∃ t e, exec (.enq p d a) s = .next t ∧ t.myCore.ring = s.myCore.ring ++ [e]
      ∧ e.seq = s.myCore.seqnow ∧ e.dst = d ∧ e.st = .waiting ∧ e.instr = .enq p d a
      ∧ e.v0 = s.myCore.greg s.me a.toNat
      ∧ ((s.launch? s.myPartNo s.me.lid).bind (·.fused) = none →
          [e.v1, e.v2, e.v3] = [1, 2, 3].map fun i => s.myCore.greg s.me (a.toNat + i))
      ∧ t.me.pc = s.me.pc + 8 ∧ t.me.park.map Park.why = some (.enq s.myCore.seqnow) ∧ t.myCore.regs = s.myCore.regs
      ∧ (∀ x, t.dram.get x = s.dram.get x) ∧ (∀ x, t.myCore.lmem.get x = s.myCore.lmem.get x))
  ∧ (∀ (s : State) (p : Pred) (a : Code), Issues s p none [rg a] →
    let id := bits (s.operand [a] 0).toNat 15 0
    (s.myCluster.pending id = false → exec (.waitj p a) s = .next (((began s [rg a]).acquire .clus).retire))
    ∧ (s.myCluster.pending id = true → LogOff s → ∃ t, exec (.waitj p a) s = .next t ∧ t.me.pc = s.me.pc
        ∧ t.me.park.map Park.why = some (.job (bits id 15 14) (bits id 13 0))))
  ∧ (∀ (s : State) (p : Pred) (d a : Code), Issues s p (some (rg d)) [rg a] →
    let id := bits (s.operand [a] 0).toNat 15 0
    let n := bits id 13 0
    let g := began s [rg a]
    exec (.pollj p d a) s = (if s.myCluster.pending id = true then .next (wrote s [rg a] d 0)
      else .next (((g.acquire .clus).wr d 1).retire))
    ∧ (bits id 15 14 = 3 → exec (.jstat p d a) s = .next (wrote s [rg a] d 8))
    ∧ (bits id 15 14 ≠ 3 → s.myCluster.live (bits id 15 14) n = false → exec (.jstat p d a) s = .next (wrote s [rg a] d 7))
    ∧ (∀ j, bits id 15 14 ≠ 3 → s.myCluster.live (bits id 15 14) n = true → s.myCluster.job (bits id 15 14) n = some j →
        let going := fun code : Nat => exec (.jstat p d a) s = .next (wrote s [rg a] d (Word.ofNat (2 ^ 32 * j.doneField + code)))
        let ended := fun code : Nat =>
          exec (.jstat p d a) s = .next (((g.acquire .clus).wr d (Word.ofNat (2 ^ 32 * j.doneField + code))).retire)
        (j.st = .queued → going 0)
        ∧ (j.st = .running ∨ j.st = .remote ∨ j.st = .acks ∨ j.st = .gathering → going 1)
        ∧ (∀ v u w x, j.st = .parked v u w x → going 2)
        ∧ (j.st = .badcmd → ended 5) ∧ (j.st = .abort → ended 6)
        ∧ (j.st = .done → exec (.jstat p d a) s =
            .next (((g.acquire .clus).wr d (Word.ofNat (2 ^ 32 * j.doneField + 3))).retire))
        ∧ (∀ sub, j.st = .fault sub → exec (.jstat p d a) s =
            .next (((g.acquire .clus).wr d (Word.ofNat (2 ^ 32 * j.doneField + 256 * sub + 4))).retire))))

/-- ZFSET sets the ZF of a zone that the thread's launch claims, refuses a value that R391 excludes with ILLMOD and an
unclaimed zone with PROT naming it; ZFGET reads it; SCLW sets a scale register with bits [31:16] 0; CBLD loads the
sixteen entries of a table when nothing uses it; CHWP reads a channel pointer of the cluster, and a load after it
sees what it counts (R391 to R394, R218). -/
def Obligations.ZonesScalesAndCodebooks : Prop :=
  (∀ (s : State) (p : Pred) (a : Code) (idx : Fin 16), Issues s p none [rg a] → LogOff s →
    let v := (s.operand [a] 0).toNat
    let z := fun t : State => t.myCore.zf.lookD idx.val 0
    (zfValid idx.val v = false → exec (.zfset p a idx) s = .next ((began s [rg a]).trapWord .illmod))
    ∧ (zfValid idx.val v = true → s.myCore.claims.look idx.val ≠ some s.me.lid →
        exec (.zfset p a idx) s = .next ((began s [rg a]).trap .prot (Word.ofNat (0x8000 * idx.val))))
    ∧ (zfValid idx.val v = true → s.myCore.claims.look idx.val = some s.me.lid → ∃ t, exec (.zfset p a idx) s = .next t
        ∧ z t = v ∧ (∀ k, k ≠ idx.val → t.myCore.zf.lookD k 0 = s.myCore.zf.lookD k 0) ∧ t.me.pc = s.me.pc + 8
        ∧ t.myCore.regs = s.myCore.regs ∧ (∀ x, t.myCore.lmem.get x = s.myCore.lmem.get x))
    ∧ (∃ t, exec (.sclw p a idx) s = .next t ∧ t.me.pc = s.me.pc + 8 ∧ t.myCore.regs = s.myCore.regs
        ∧ (t.myCore.sclReg idx.val).toNat = v - bits v 31 16 * 2 ^ 16
        ∧ ∀ k, k ≠ idx.val → t.myCore.sclReg k = s.myCore.sclReg k))
  ∧ (∀ (s : State) (p : Pred) (d : Code) (idx : Fin 16), Issues s p (some (rg d)) [] →
      exec (.zfget p d idx) s = .next (wrote s [] d (Word.ofNat (s.myCore.zone idx.val)))
      ∧ exec (.chwp p d idx) s =
          .next ((((began s []).acquire .clus).wr d (Word.ofNat (s.myCluster.chanPtr.lookD idx.val 0))).retire))
  ∧ (∀ (s : State) (p : Pred) (a : Code) (idx : Fin 8) (o : Nat), Issues s p none [rg a] → LogOff s →
      s.ownPort false (s.operand [a] 0) 32 = some o → s.myCore.lpoisoned o 32 = false →
      s.bookUsers (clusterOf s.cur.core) idx.val = ([], []) →
      ∃ t, exec (.cbld p a idx) s = .next t ∧ t.me.pc = s.me.pc + 8 ∧ t.myCore.regs = s.myCore.regs
        ∧ (∀ i < 16, (t.myCluster.codebook.lookD idx.val []).getD i 0 = s.myCore.lmem.read (o + 2 * i) 2)
        ∧ ∀ k, k ≠ idx.val → t.myCluster.codebook.look k = s.myCluster.codebook.look k)

/-- BOXT and TRIT write the results of their tests on the bytes that the cluster's sampler cache answers. A child of
BOXT that is empty, or whose box or ray holds a NaN or has a lower corner above the upper, is a miss; otherwise its
three slabs give near, the largest of TMIN and of the entries rounded down, and it is hit where near is not above
the smallest of TMAX and of the exits rounded up; DST holds the nearest hit's near, the order of the children, hits
by near and then by number before misses by number, and the mask of hits. TRIT misses on a value that is not finite,
on a sum of 0, on E values of both signs and outside [TMIN, TMAX], and otherwise writes t, u and v of its exact
quotients. SLD reads the SZ bytes; SMPL reads one texel (NEAR) or blends four (BIL), and answers 0 on a coordinate
that is not finite, reading only the descriptor (R415 to R424). -/
def Obligations.RayTestsAndSamples : Prop :=
  (∀ (s t : State) (p : Pred) (d a b : Code) (bs : List Byte),
    let r := rayOf fun i => s.myCore.greg s.me (a.toNat + i)
    (Issues s p (some (rg d)) [⟨a, .group 4 1⟩, rg b] →
      (began s [⟨a, .group 4 1⟩, rg b]).sampled (s.operand [b] 0) 128 128 = some (bs, t) →
      exec (.boxt p d a b) s = .next ((t.wr d (boxResult r bs)).retire))
    ∧ (Issues s p (some ⟨d, .group 2 1⟩) [⟨a, .group 4 1⟩, rg b] →
      (began s [⟨a, .group 4 1⟩, rg b]).sampled (s.operand [b] 0) 48 16 = some (bs, t) →
      exec (.trit p d a b) s = .next (((t.wr d (triResult r bs).1).wr (d + 1) (triResult r bs).2).retire)))
  ∧ (∀ (r : Ray) (node : List Byte),
      let near := fun i : Nat => if bits (leNat ((node.drop (96 + 8 * i)).take 8)) 2 0 = 0 ∨ r.anyNan = true then none
        else boxHit r ⟨f32At node (6 * i), f32At node (6 * i + 1), f32At node (6 * i + 2)⟩
          ⟨f32At node (6 * i + 3), f32At node (6 * i + 4), f32At node (6 * i + 5)⟩
      let w := (boxResult r node).toNat
      let place := fun p : Nat => bits w (5 + 2 * p) (4 + 2 * p)
      (∀ i < 4, bit w i = (near i).isSome) ∧ bits w 31 12 = 0
      ∧ (∀ i < 4, ∃ p < 4, place p = i)
      ∧ (∀ p q, p < q → q < 4 → match near (place p), near (place q) with
          | some x, some y => x.lt y = true ∨ y.lt x = false ∧ place p < place q
          | none, some _ => False
          | some _, none => True
          | none, none => place p < place q)
      ∧ bits w 63 32 = match near (place 0) with | some x => f32.encode false false .rne x | none => 0x7F800000)
  ∧ (∀ (r : Ray) (lo hi : Vec3), r.anyNan = false →
      let axes : List (Val × Val × Val × Val) := [(r.o.x, r.d.x, lo.x, hi.x), (r.o.y, r.d.y, lo.y, hi.y), (r.o.z, r.d.z, lo.z, hi.z)]
      let cut := fun e : Val × Val × Val × Val =>
        let p := plusZero ((e.2.2.1.add .rne e.1.neg).div e.2.1)
        let q := plusZero ((e.2.2.2.add .rne e.1.neg).div e.2.1)
        if e.2.1.isNeg then (q, p) else (p, q)
      let via := fun (rm : RM) (v : Val) => f32.decode false false (f32.encode false false rm v)
      let slanted := axes.filter fun e => !e.2.1.isZero
      let near := slanted.foldl (fun t e => let n := via .rdn (cut e).1; if t.lt n then n else t) r.tmin
      let far := slanted.foldl (fun t e => let f := via .rup (cut e).2; if f.lt t then f else t) r.tmax
      (lo.all (fun v => !v.isNan) = false ∨ hi.all (fun v => !v.isNan) = false ∨ (∃ e ∈ axes, e.2.2.2.lt e.2.2.1 = true) →
        boxHit r lo hi = none)
      ∧ ((∃ e ∈ axes, e.2.1.isZero = true ∧ (e.1.lt e.2.2.1 = true ∨ e.2.2.2.lt e.1 = true)) → boxHit r lo hi = none)
      ∧ ((∃ e ∈ slanted, (cut e).1.isNan = true ∨ (cut e).2.isNan = true) → boxHit r lo hi = none)
      ∧ (lo.all (fun v => !v.isNan) = true → hi.all (fun v => !v.isNan) = true → (∀ e ∈ axes, e.2.2.2.lt e.2.2.1 = false) →
          (∀ e ∈ axes, e.2.1.isZero = true → e.1.lt e.2.2.1 = false ∧ e.2.2.2.lt e.1 = false) →
          (∀ e ∈ slanted, (cut e).1.isNan = false ∧ (cut e).2.isNan = false) →
          boxHit r lo hi = if far.lt near = true then none else some near))
  ∧ (∀ (r : Ray) (tri : List Byte),
      let v := fun i : Nat => (⟨f32At tri (3 * i), f32At tri (3 * i + 1), f32At tri (3 * i + 2)⟩ : Vec3)
      let finite := fun w : Val => ∃ n m e, w = .fin n m e
      let all := fun u : Vec3 => finite u.x ∧ finite u.y ∧ finite u.z
      let ok := all (v 0) ∧ all (v 1) ∧ all (v 2) ∧ all r.o ∧ all r.d ∧ finite r.tmin ∧ finite r.tmax
      let zero := Val.zero false
      let e0 := r.d.dot (((v 1).sub r.o).cross ((v 2).sub r.o))
      let e1 := r.d.dot (((v 2).sub r.o).cross ((v 0).sub r.o))
      let e2 := r.d.dot (((v 0).sub r.o).cross ((v 1).sub r.o))
      let sum := (e0.add .rne e1).add .rne e2
      let n := ((v 0).sub r.o).dot (((v 1).sub (v 0)).cross ((v 2).sub (v 0)))
      let outside := if sum.lt zero = true then (r.tmin.mul sum).lt n = true ∨ n.lt (r.tmax.mul sum) = true
        else n.lt (r.tmin.mul sum) = true ∨ (r.tmax.mul sum).lt n = true
      let mixed := (∃ e ∈ [e0, e1, e2], e.lt zero = true) ∧ ∃ e ∈ [e0, e1, e2], zero.lt e = true
      let out := fun x : Val => f32.encode false false .rne (plusZero (x.div sum))
      (¬ ok ∨ sum.isZero = true ∨ mixed ∨ outside → triResult r tri = (0x7F800000, 0))
      ∧ (ok → sum.isZero = false → ¬ mixed → ¬ outside →
          triResult r tri = (Word.ofNat (2 ^ 32 + out n), Word.ofNat (out e2 * 2 ^ 32 + out e1))))
  ∧ (∀ (s t : State) (p : Pred) (d a : Code) (sz : Size) (bs : List Byte), Issues s p (some (rg d)) [rg a] →
      (began s [rg a]).sampled (s.operand [a] 0) (sizeBytes sz) (sizeBytes sz) = some (bs, t) →
      exec (.sld p d a sz) s = .next ((t.wr d (Word.ofNat (leNat bs))).retire))
  ∧ (∀ (s : State) (p : Pred) (d a : Code) (sz : Size), Issues s p (some (rg d)) [rg a] →
      let ea := s.operand [a] 0
      ea.toNat % sizeBytes sz ≠ 0 → exec (.sld p d a sz) s = .next ((began s [rg a]).trapAcc .align ea 0))
  ∧ (∀ (s t : State) (p : Pred) (d a b : Code) (x : SmplKind) (bs : List Byte), Issues s p (some (rg d)) [rg a, rg b] →
      (began s [rg a, rg b]).sampled (s.operand [a, b] 0) 32 32 = some (bs, t) →
      let c := (s.operand [a, b] 1).toNat
      let u := f32.decode false false (c % 2 ^ 32)
      let v := f32.decode false false (c / 2 ^ 32)
      let finite := fun w : Val => w.isNan = false ∧ (∀ n, w ≠ .inf n)
      (textureOf bs = none → exec (.smpl p d a b x) s = .next (t.trapAcc .prot (s.operand [a, b] 0) 1))
      ∧ (∀ tx, textureOf bs = some tx →
          (¬ (finite u ∧ finite v) → exec (.smpl p d a b x) s = .next ((t.wr d 0).retire))
          ∧ (finite u → finite v → ∀ cs t1,
              t.sampled (tx.addr (u.mul (Val.ofInt tx.w)).floorInt (v.mul (Val.ofInt tx.h)).floorInt) 4 4 = some (cs, t1) →
              exec (.smpl p d a b .near) s = .next ((t1.wr d (Word.ofNat (leNat cs))).retire))
          ∧ (finite u → finite v → ∀ c00 c10 c01 c11 t1 t2 t3 t4,
              let px := (u.mul (Val.ofInt tx.w)).add .rne (Val.fin true 1 (-1))
              let py := (v.mul (Val.ofInt tx.h)).add .rne (Val.fin true 1 (-1))
              let i := px.floorInt
              let j := py.floorInt
              let fx := ((px.add .rne (Val.ofInt (-i))).scale 8).floorInt.toNat
              let fy := ((py.add .rne (Val.ofInt (-j))).scale 8).floorInt.toNat
              t.sampled (tx.addr i j) 4 4 = some (c00, t1) → t1.sampled (tx.addr (i + 1) j) 4 4 = some (c10, t2) →
              t2.sampled (tx.addr i (j + 1)) 4 4 = some (c01, t3) →
              t3.sampled (tx.addr (i + 1) (j + 1)) 4 4 = some (c11, t4) →
              exec (.smpl p d a b .bil) s = .next ((t4.wr d (Word.ofNat (bilinear tx.fmt
                [(leNat c00, (256 - fx) * (256 - fy)), (leNat c10, fx * (256 - fy)), (leNat c01, (256 - fx) * fy),
                 (leNat c11, fx * fy)]))).retire))))
  ∧ (∀ c w0 w1 w2 w3 : Nat, c < 2 ^ 32 → w0 + w1 + w2 + w3 = 65536 →
      bilinear 0 [(c, w0), (c, w1), (c, w2), (c, w3)] = c)

/-- The traversal stack is a stack (R420, R421): a push onto a register that is not full puts the value on top, a pop of
a register that is not empty takes the newest value, an empty stack answers all ones, TSCLR empties it; and a value
of all ones or a full stack is refused. -/
def Obligations.TheTraversalStackIsAStack : Prop :=
  (∀ (s : State) (p : Pred) (a : Code), Issues s p none [rg a] → LogOff s →
    let v := s.operand [a] 0
    (v = allOnes → exec (.tspush p a) s = .next ((began s [rg a]).trap .illopnd (a.setWidth 64)))
    ∧ (v ≠ allOnes → s.me.tsdepth = 0xFFFFF → exec (.tspush p a) s =
        .next ((began s [rg a]).trap .prot (s.me.tsbase + BitVec.ofNat 64 (8 * (s.me.tsdepth - s.me.tsreg.length)))))
    ∧ (v ≠ allOnes → s.me.tsdepth ≠ 0xFFFFF → s.me.tsreg.length < 4 → ∃ t, exec (.tspush p a) s = .next t
        ∧ t.me.tsreg = s.me.tsreg ++ [v] ∧ t.me.tsdepth = s.me.tsdepth + 1 ∧ t.me.pc = s.me.pc + 8
        ∧ t.myCore.regs = s.myCore.regs ∧ (∀ x, t.myCore.lmem.get x = s.myCore.lmem.get x) ∧ ∀ x, t.dram.get x = s.dram.get x)
    ∧ (∀ bottom r1 r2 r3 o, v ≠ allOnes → s.me.tsdepth ≠ 0xFFFFF → s.me.tsreg = [bottom, r1, r2, r3] →
        s.ownPort false (s.me.tsbase + BitVec.ofNat 64 (8 * (s.me.tsdepth - 4))) 8 = some o →
        ∃ t, exec (.tspush p a) s = .next t ∧ t.me.tsreg = [r1, r2, r3, v] ∧ t.me.tsdepth = s.me.tsdepth + 1
          ∧ t.myCore.lmem.read o 8 = bottom.toNat
          ∧ ∀ x, ¬ (o ≤ x ∧ x < o + 8) → t.myCore.lmem.get x = s.myCore.lmem.get x))
  ∧ (∀ (s : State) (p : Pred) (d : Code), Issues s p (some (rg d)) [] → LogOff s → isGCode d = true →
      let got := fun t : State => t.myCore.greg t.me (codeNum d)
      (s.me.tsdepth = 0 → exec (.tspop p d) s = .next (wrote s [] d allOnes))
      ∧ (∀ rest v, s.me.tsdepth ≠ 0 → s.me.tsreg = rest ++ [v] → ∃ t, exec (.tspop p d) s = .next t ∧ got t = v
          ∧ t.me.tsreg = rest ∧ t.me.tsdepth = s.me.tsdepth - 1 ∧ t.me.pc = s.me.pc + 8)
      ∧ (∀ o, s.me.tsdepth ≠ 0 → s.me.tsreg = [] → s.ownPort false
            (s.me.tsbase + BitVec.ofNat 64 (8 * (s.me.tsdepth - 1))) 8 = some o → s.myCore.lpoisoned o 8 = false →
          ∃ t, exec (.tspop p d) s = .next t ∧ (got t).toNat = s.myCore.lmem.read o 8 ∧ t.me.tsreg = []
            ∧ t.me.tsdepth = s.me.tsdepth - 1))
  ∧ (∀ (s : State) (p : Pred), Issues s p none [] → LogOff s → ∃ t, exec (.tsclr p) s = .next t ∧ t.me.tsreg = []
      ∧ t.me.tsdepth = 0 ∧ t.me.pc = s.me.pc + 8 ∧ t.myCore.regs = s.myCore.regs
      ∧ (∀ x, t.myCore.lmem.get x = s.myCore.lmem.get x) ∧ ∀ x, t.dram.get x = s.dram.get x)

/-- LGET reads a field of a descriptor of the installed table, acquiring at PKG; LSET writes one after a release at PKG.
A handle outside the table raises PROT with the handle (R75, R77, R425, R426). LREQ takes the handle at the head of
the partition's request queue, or parks on an empty one, and raises PROT with all ones where no table is installed;
LDONE clears AGE, EST and REQ and takes the handle out of the queue; LEPOCH adds 1 to a light epoch and refuses a
light above 31 (R75, R87, R89, R428). -/
def Obligations.LayerFieldsAndRequests : Prop :=
  ((∀ (s u : State) (p : Pred) (d a : Code) (sel : Fin 15) (tab : Word) (n : Nat) (dd : List Byte) (l : List (Nat × Nat)),
     Issues s p (some (rg d)) [rg a] → s.myPart.rink.table = some (tab, n) →
     let h := s.operand [a] 0
     let g := began s [rg a]
     let fld := layerField sel.val
     (n ≤ h.toNat → exec (.lget p d a sel) s = .next (g.trap .prot h))
     ∧ (h.toNat < n → g.rinkDesc .read h.toNat = some (dd, l, u) →
         exec (.lget p d a sel) s =
           .next (((u.acquire .pkg).wr d (Word.ofNat (leNat ((dd.drop fld.1).take fld.2)))).retire)))
   ∧ (∀ (s g u : State) (p : Pred) (a b : Code) (sel : Fin 15) (tab : Word) (n : Nat) (dd : List Byte)
       (l : List (Nat × Nat)),
     let srcs := [rg a, if sel.val = 14 then ⟨b, .group 2 1⟩ else rg b]
     let h := s.operand [a, b] 0
     let v := if sel.val = 14 then s.myCore.greg s.me b.toNat else s.operand [a, b] 1
     let w := if sel.val = 14 then s.myCore.greg s.me (b.toNat + 1) else 0
     Issues s p none srcs → s.myPart.rink.table = some (tab, n) →
     (n ≤ h.toNat → exec (.lset p a b sel) s = .next ((began s srcs).trap .prot h))
     ∧ (h.toNat < n → (began s srcs).release .pkg = (true, g) →
         g.rinkDesc .write h.toNat = some (dd, l, u) →
         exec (.lset p a b sel) s = .next ((u.rinkStore l (lsetDesc dd sel.val v w)).retire)))
   ∧ (∀ (d : List Byte) (sel : Nat) (v w : Word), d.length = 64 → sel < 14 → sel ≠ 5 → sel ≠ 6 →
       let fld := layerField sel
       (lsetDesc d sel v w).length = 64 ∧ dfield (lsetDesc d sel v w) fld.1 fld.2 = v.toNat % 2 ^ (8 * fld.2)
       ∧ ∀ i < 64, ¬ (fld.1 ≤ i ∧ i < fld.1 + fld.2) → (lsetDesc d sel v w).getD i 0 = d.getD i 0)
   ∧ (∀ (d : List Byte) (v w : Word), d.length = 64 → dReq (lsetDesc d 6 v w) = dReq d
       ∧ dVis (lsetDesc d 6 v w) = v.getLsbD 0 ∧ dHold (lsetDesc d 6 v w) = v.getLsbD 2
       ∧ dfield (lsetDesc d 5 v w) 28 2 = min v.toNat 65535))
  ∧ ((∀ (s : State) (p : Pred) (d : Code) (pno : Nat) (q : Part), Issues s p (some (rg d)) [] → LogOff s →
       s.corePart s.cur.core = some pno → s.part? pno = some q → s.me.prog.handed = none →
       (q.rink.table = none → exec (.lreq p d) s = .next ((began s []).trap .prot allOnes))
       ∧ (∀ h rest, q.rink.table ≠ none → q.rink.queue = h :: rest → s.parkedIn pno (fun w => w = .lreq) = [] → isGCode d = true →
           ∃ t, exec (.lreq p d) s = .next t ∧ (t.part pno).rink.queue = rest ∧ t.myCore.greg t.me (codeNum d) = Word.ofNat h
             ∧ t.me.pc = s.me.pc + 8)
       ∧ (q.rink.table ≠ none → q.rink.queue = [] → ∃ t, exec (.lreq p d) s = .next t ∧ t.me.pc = s.me.pc
           ∧ t.me.park.map Park.why = some .lreq))
     ∧ (∀ (s g0 g : State) (p : Pred) (a : Code) (tab : Word) (n : Nat) (dd : List Byte) (l : List (Nat × Nat)),
       let h := s.operand [a] 0
       Issues s p none [rg a] → s.myPart.rink.table = some (tab, n) → h.toNat < n →
       (began s [rg a]).release .pkg = (true, g0) → g0.rinkDesc .write h.toNat = some (dd, l, g) →
       ∃ (spread : Nat) (u : State), exec (.ldone p a) s = .next (((u.rinkStore l
           (dSetReq (dset (dset (dset dd 28 2 0) 32 4 0) 40 4 spread) false)).modRink fun r =>
             { r with queue := r.queue.filter (· ≠ h.toNat) }).retire)
         ∧ (dZsurf dd % 64 ≠ 0 → spread = 0)
         ∧ (∀ bs u', dZsurf dd % 64 = 0 → g.lodgeRead g.myPartNo (dZsurf dd) (4 * (dW dd * dH dd)) = .ok (bs, u') →
             u = u' ∧ spread = spreadOf (words32 (dW dd * dH dd) bs)))
     ∧ (∀ (s : State) (p : Pred) (a : Code) (pno : Nat) (q : Part), Issues s p none [rg a] →
       s.corePart s.cur.core = some pno → s.part? pno = some q →
       let i := s.operand [a] 0
       (32 ≤ i.toNat → exec (.lepoch p a) s = .next ((began s [rg a]).trap .prot i))
       ∧ (i.toNat < 32 → LogOff s → ∃ t, exec (.lepoch p a) s = .next t ∧ t.me.pc = s.me.pc + 8
           ∧ (t.part pno).rink.lepc.lookD i.toNat 0 = (q.rink.lepc.lookD i.toNat 0 + 1) % 2 ^ 32
           ∧ ∀ k, k ≠ i.toNat → (t.part pno).rink.lepc.lookD k 0 = q.rink.lepc.lookD k 0)))

/-- LSPLIT writes the surfaces of the two layers, the destination's descriptor, and takes it out of the queue; a handle
outside the table and equal handles raise PROT, for LMERGE and LDONE as well (R425). Pixel by pixel: where the mask
is 1 the destination takes colour and depth and the source becomes +Inf; elsewhere the destination's depth is +Inf
and everything else stays (R88, R427). LMERGE keeps at each pixel the fragment in front, and touches colours and a's
surfaces nowhere else; it writes both descriptors and moves the request queue; layers whose geometry differs raise
PROT with b's handle (R89, R427). -/
def Obligations.LayersSplitAndMerge : Prop :=
  ((∀ (s g : State) (p : Pred) (a b c : Code) (tab : Word) (n : Nat) (v : SplitView),
     let srcs := [rg a, rg b, rg c]
     let hs := s.operand [a, b, c] 0
     let hn := s.operand [a, b, c] 1
     Issues s p none srcs → s.myPart.rink.table = some (tab, n) → hs.toNat < n → hn.toNat < n →
     (hs = hn → exec (.lsplit p a b c) s = .next ((began s srcs).trap .prot hn))
     ∧ (hs ≠ hn → (began s srcs).release .pkg = (true, g) →
         g.splitView hs.toNat hn.toNat (s.operand [a, b, c] 2).toNat = some v →
         exec (.lsplit p a b c) s = .next ((((((v.s.rinkStore (pixelParts v.lnc v.is) v.sc).rinkStore v.lnz
             (splitDepths v.m (List.range v.cnt) v.sz)).rinkStore (pixelParts v.lsz v.is)
             (v.is.flatMap fun _ => leBytes 4 0x7F800000)).rinkStore
             v.ln (dSetReq (dput v.dn 16 ((v.ds.drop 16).take 39)) false)).modRink
               fun q => { q with queue := q.queue.filter (· ≠ hn.toNat) }).retire)))
   ∧ (∀ (pa cnt : Nat) (is : List Nat), (∀ i ∈ is, i < cnt) →
       pixelParts [(pa, 4 * cnt)] is = is.map fun i => (pa + 4 * i, 4))
   ∧ (∀ (cnt i : Nat) (m z : List Byte), i < cnt → z.length = 4 * cnt →
       px (splitDepths m (List.range cnt) (((List.range cnt).filter (maskBit m)).flatMap (px z))) i =
         if maskBit m i then px z i else leBytes 4 0x7F800000)
   ∧ (∀ (s : State) (p : Pred) (a b c : Code),
       let bad := fun h : Word => ∀ tab n, s.myPart.rink.table = some (tab, n) → n ≤ h.toNat
       let stops := fun (i : Instr) (srcs : List Pos) (h : Word) => exec i s = .next ((began s srcs).trap .prot h)
       (Issues s p none [rg a, rg b, rg c] →
         (bad (s.operand [a, b, c] 0) → stops (.lsplit p a b c) [rg a, rg b, rg c] (s.operand [a, b, c] 0))
         ∧ (¬ bad (s.operand [a, b, c] 0) → bad (s.operand [a, b, c] 1) →
             stops (.lsplit p a b c) [rg a, rg b, rg c] (s.operand [a, b, c] 1)))
       ∧ (Issues s p none [rg a, rg b] →
         (bad (s.operand [a, b] 0) → stops (.lmerge p a b) [rg a, rg b] (s.operand [a, b] 0))
         ∧ (¬ bad (s.operand [a, b] 0) → bad (s.operand [a, b] 1) ∨ s.operand [a, b] 0 = s.operand [a, b] 1 →
             stops (.lmerge p a b) [rg a, rg b] (s.operand [a, b] 1)))
       ∧ (Issues s p none [rg a] → bad (s.operand [a] 0) → stops (.ldone p a) [rg a] (s.operand [a] 0))))
  ∧ ((∀ (s g g1 g2 : State) (p : Pred) (a b : Code) (tab : Word) (n : Nat) (da db : List Byte) (la lb : List (Nat × Nat))
         (v : MergeView),
       let srcs := [rg a, rg b]
       let ha := s.operand [a, b] 0
       let hb := s.operand [a, b] 1
       Issues s p none srcs → s.myPart.rink.table = some (tab, n) → ha.toNat < n → hb.toNat < n → ha ≠ hb →
       (began s srcs).release .pkg = (true, g) → g.rinkDesc .write ha.toNat = some (da, la, g1) →
       g1.rinkDesc .write hb.toNat = some (db, lb, g2) →
       ((da.drop 16).take 12 ≠ (db.drop 16).take 12 → exec (.lmerge p a b) s = .next (g2.trap .prot hb))
       ∧ ((da.drop 16).take 12 = (db.drop 16).take 12 → g2.mergeView ha.toNat hb.toNat da db = some v →
           exec (.lmerge p a b) s = .next (((((v.s.rinkStore (pixelParts v.lac v.is) v.bc).rinkStore
               (pixelParts v.laz v.is) (v.is.flatMap (px v.bz))).rinkStore
               la (mergeDesc da db)).rinkStore lb (mergedDesc db)).modRink fun q =>
                 { q with queue := mergeQueue q.queue ha.toNat hb.toNat (dReq da) (dReq db) }).retire))
     ∧ (∀ (da db : List Byte) (xa xb za zb : Nat), frontOf da db xa xb za zb = true ↔
         depthHere zb = true ∧ (depthHere za = false ∨ depthKey zb < depthKey za ∨ (depthKey zb = depthKey za
           ∧ (dfield db 52 2 < dfield da 52 2 ∨ (dfield db 52 2 = dfield da 52 2 ∧ xb < xa)))))
     ∧ (∀ da db : List Byte, da.length = 64 → db.length = 64 →
         let m := mergeDesc da db
         dfield m 32 4 = max (dfield da 32 4) (dfield db 32 4) ∧ dfield m 44 4 = (dfield da 44 4 ||| dfield db 44 4)
         ∧ dfield m 36 4 = dfield da 36 4 ∧ dReq m = (dReq da || dReq db) ∧ dVis m = dVis da
         ∧ dfield (mergedDesc db) 32 4 = 0 ∧ dfield (mergedDesc db) 28 2 = 0 ∧ dVis (mergedDesc db) = false
         ∧ dReq (mergedDesc db) = false))

/-- WGALLOC takes the lowest free record for a node and parks where none is free; WGEMIT adds an allocated record to its
node's pending batch; WGTAKE answers the address of a record of a batch; WGFREE frees one; a graph of another
launch, a node, record or handle that is not one raises PROT (R128, R429). PAYA takes the lowest free payload slot
of the cluster and answers its address, or parks; PAYP publishes a held slot with its entry address and thread
count, and refuses a count of 0 or above 256; both raise PROT where PAYB is 0 (R129, R130, R430). -/
def Obligations.WorkGraphsAndPayloads : Prop :=
  (∀ (s : State) (p : Pred) (d a b : Code) (g : WGraph), LogOff s → s.myCluster.wg = some g → g.lid = s.me.lid →
     g.part = s.myPartNo → s.me.prog.handed = none →
     (Issues s p (some (rg d)) [rg a] →
       let k := (s.operand [a] 0).toNat
       (g.nodes.length ≤ k → exec (.wgalloc p d a) s = .next ((began s [rg a]).trap .prot (s.operand [a] 0)))
       ∧ (∀ r, k < g.nodes.length → g.freeRec = some r → isGCode d = true → ∃ t, exec (.wgalloc p d a) s = .next t
           ∧ t.myCore.greg t.me (codeNum d) = Word.ofNat (g.pool.toNat + 64 * r) ∧ t.me.pc = s.me.pc + 8
           ∧ t.myCluster.wg = some { g with alloc := g.alloc.put r k })
       ∧ (k < g.nodes.length → g.freeRec = none → ∃ t, exec (.wgalloc p d a) s = .next t ∧ t.me.pc = s.me.pc
           ∧ t.me.park.map Park.why = some .wgalloc))
     ∧ (∀ r n, Issues s p none [rg a, rg b] → ReleaseHolds s .clus →
         let k := (s.operand [a, b] 1).toNat
         g.nodes[k]? = some n → g.recOf (s.operand [a, b] 0) = some r → g.alloc.look r = some k → n.pend.length + 1 < n.b →
         (n.pend = [] ∨ s.clk ≤ n.t0 + n.t) →
         ∃ t h, exec (.wgemit p a b) s = .next t ∧ t.me.pc = s.me.pc + 8 ∧ t.myCluster.wg = some h ∧ h.alloc = g.alloc.del r
           ∧ (h.nodes[k]?.map WgNode.pend) = some (n.pend ++ [r]) ∧ ∀ j, j ≠ k → h.nodes[j]? = g.nodes[j]?)
     ∧ (∀ t r, Issues s p (some (rg d)) [rg a, rg b] →
         (g.batches.find? fun x => x.handle = (s.operand [a, b] 0).toNat) = some t → t.recs[(s.operand [a, b] 1).toNat]? = some r →
         exec (.wgtake p d a b) s = .next (wrote s [rg a, rg b] d (Word.ofNat (g.pool.toNat + 64 * r))))
     ∧ (∀ r, Issues s p none [rg a] → ReleaseHolds s .clus → g.recOf (s.operand [a] 0) = some r → g.freeable r = true →
         s.allocators (clusterOf s.cur.core) = [] → ∃ t h, exec (.wgfree p a) s = .next t ∧ t.me.pc = s.me.pc + 8
           ∧ t.myCluster.wg = some h ∧ h.alloc = g.alloc.del r ∧ ∀ x ∈ h.batches, r ∉ x.live)
     ∧ (Issues s p none [rg a] → g.recOf (s.operand [a] 0) = none →
         exec (.wgfree p a) s = .next ((began s [rg a]).trap .prot (s.operand [a] 0))))
  ∧ (∀ (s : State) (p : Pred) (d a b c : Code), LogOff s → s.me.prog.handed = none →
       (Issues s p (some (rg d)) [] →
         (s.myCluster.payb = 0 → exec (.paya p d) s = .next ((began s []).trap .prot 0))
         ∧ (∀ n, s.myCluster.payb ≠ 0 → s.myCluster.freePay = some n → s.payWaiters (clusterOf s.cur.core) = [] → isGCode d = true →
             ∃ t, exec (.paya p d) s = .next t ∧ t.me.pc = s.me.pc + 8
               ∧ t.myCore.greg t.me (codeNum d) = s.myCluster.payb + Word.ofNat (16384 * n)
               ∧ (t.myCluster.pays.look n).map PaySlot.st = some 1)
         ∧ (s.myCluster.payb ≠ 0 → s.myCluster.freePay = none → ∃ t, exec (.paya p d) s = .next t ∧ t.me.pc = s.me.pc
             ∧ t.me.park.map Park.why = some .paya))
       ∧ (Issues s p none [rg a, rg b, rg c] →
         let n := (s.operand [a, b, c] 2).toNat
         (s.myCluster.payb = 0 → exec (.payp p a b c) s = .next ((began s [rg a, rg b, rg c]).trap .prot 0))
         ∧ (∀ sl, s.myCluster.payb ≠ 0 → s.myCluster.heldPay (s.operand [a, b, c] 0) s.me.lid s.myPartNo = some sl →
             (n = 0 ∨ 256 < n → exec (.payp p a b c) s =
               .next ((began s [rg a, rg b, rg c]).trap .prot (s.operand [a, b, c] 2)))
             ∧ (1 ≤ n → n ≤ 256 → ReleaseHolds s .clus → ∃ t q, exec (.payp p a b c) s = .next t ∧ t.me.pc = s.me.pc + 8
                 ∧ t.myCluster.pays.look sl = some q ∧ q.st = 2 ∧ q.entry = s.operand [a, b, c] 1 ∧ q.n = n ∧ q.next = 0
                 ∧ q.lid = s.me.lid))))

/-- TLBINV after its release removes the partition's translations of a page, or all of them, from every TLB and walk
cache and parks until the dies have reported, then goes on; CINV drops the data-cache or instruction-cache lines of
the partition, all of them or the one of an address (R341, R342). That TLBINV removes at its issue and the dies
report 64 core cycles later (log entry 70) and that CINV finds its line by a translation (log entry 71) are the
model's choices. STOPW marks every other thread of the partition in the issuer's instance of the scope stopped and
parks until they have stopped, then acquires; RESW takes the mark off all of them; LOGMK writes a record only where
TRCFG bit 0 is set; CNTRD reads a counter of the core, and 0 for a number that names none (R222, R273, R343 to
R345). That STOPW marks all its threads at once (log entry 68) and that RESW ends the stop that its own thread made
(DEDUCED, log entry 69) are the model's choices. -/
def Obligations.StopsInvalidationsAndMarks : Prop :=
  (∀ (s : State) (p : Pred) (a : Code), Issues s p none [rg a] → LogOff s →
     let ts := s.tsidOf s.cur.core
     let v := (s.operand [a] 0).toNat
     let kept := fun t : State => t.myCore.regs = s.myCore.regs ∧ (∀ x, t.dram.get x = s.dram.get x)
       ∧ (∀ x, t.myCore.lmem.get x = s.myCore.lmem.get x)
     (∀ al, s.me.prog.finished = true → exec (.tlbinv p a al) s = .next (passed s [rg a]))
     ∧ (s.me.prog.finished = false → ReleaseHolds s .pkg →
         (∃ t, exec (.tlbinv p a true) s = .next t ∧ kept t ∧ t.me.pc = s.me.pc
           ∧ t.me.park.map Park.why = some (.tlbinv (s.clk + 64))
           ∧ (∀ e ∈ t.cores, ∀ x ∈ e.2.tlb, x.tsid ≠ ts) ∧ (∀ e ∈ t.clusters, ∀ x ∈ e.2.ctlb, x.tsid ≠ ts)
           ∧ ∀ e ∈ t.walkCache, ∀ x ∈ e.2, x.tsid ≠ ts)
         ∧ (v < 2 ^ 57 → isWindow v = false → ∃ t, exec (.tlbinv p a false) s = .next t ∧ kept t ∧ t.me.pc = s.me.pc
             ∧ (∀ e ∈ t.cores, ∀ x ∈ e.2.tlb, ¬ (x.tsid = ts ∧ x.va ≤ v ∧ v < x.va + x.size))
             ∧ ∀ e ∈ t.clusters, ∀ x ∈ e.2.ctlb, ¬ (x.tsid = ts ∧ x.va ≤ v ∧ v < x.va + x.size))
         ∧ (2 ^ 57 ≤ v → ∃ g : State, exec (.tlbinv p a false) s = .next (g.trap .align (s.operand [a] 0))))
     ∧ (∃ t, exec (.cinv p a .all) s = .next t ∧ kept t ∧ t.me.pc = s.me.pc + 8
         ∧ t.myCore.dcache = s.myCore.dcache.filter fun l => l.tsid ≠ ts)
     ∧ (∃ t, exec (.cinv p a .iall) s = .next t ∧ kept t ∧ t.me.pc = s.me.pc + 8
         ∧ t.myCore.icache = s.myCore.icache.filter fun l => l.tsid ≠ ts)
     ∧ (∀ pa, v < 2 ^ 57 → isWindow v = false → (began s [rg a]).physAny (.core s.cur.core) s.myPartNo v = some pa →
         ∃ t, exec (.cinv p a .line) s = .next t ∧ kept t
           ∧ ∀ l, l ∈ t.myCore.dcache ↔ l ∈ s.myCore.dcache ∧ ¬ (l.tsid = ts ∧ l.addr = pa / 32 * 32))
     ∧ (∀ pa, v < 2 ^ 57 → isWindow v = false → (began s [rg a]).physAny (.core s.cur.core) s.myPartNo v = some pa →
         ∃ t, exec (.cinv p a .iline) s = .next t ∧ kept t
           ∧ ∀ l, l ∈ t.myCore.icache ↔ l ∈ s.myCore.icache ∧ ¬ (l.tsid = ts ∧ l.addr = pa / 64 * 64)))
  ∧ ((∀ (s : State) (p : Pred) (sc : Scope), Issues s p none [] → (∀ e ∈ s.cores, bit e.2.slcfg 0 = false) →
       let mark := (s.cur.core, s.me.sth, sc.code)
       (s.me.prog.finished = true ∨ sc.code = 0 → exec (.stopw p sc) s = .next (((began s []).acquire sc).retire))
       ∧ (s.me.prog.finished = false → sc.code ≠ 0 → ∃ t, exec (.stopw p sc) s = .next t ∧ t.me.pc = s.me.pc
           ∧ t.me.park.map Park.why = some (.stopw sc) ∧ t.myCore.regs = s.myCore.regs
           ∧ ∀ c sl u, c ∈ s.partCores s.myPartNo → sameInstance sc s.cur.core c = true → s.thread? c sl = some u →
               ¬ (c = s.cur.core ∧ u.sth = s.me.sth) → ∃ w, t.thread? c sl = some w ∧ mark ∈ w.stopped ∧ w.pc = u.pc)
       ∧ (ReleaseHolds s sc → ∃ t, exec (.resw p sc) s = .next t ∧ t.me.pc = s.me.pc + 8 ∧ t.myCore.regs = s.myCore.regs
           ∧ ∀ c sl u, c ∈ s.partCores s.myPartNo → t.thread? c sl = some u → mark ∉ u.stopped))
     ∧ (∀ (s : State) (p : Pred) (a : Code), Issues s p none [rg a] →
         (bit s.myCore.trcfg 0 = false → exec (.logmk p a) s = .next (passed s [rg a]))
         ∧ (bit s.myCore.trcfg 0 = true → ∃ r : Obs, exec (.logmk p a) s = .next (((began s [rg a]).emit r).retire)
             ∧ r.kind = 16 ∧ r.code = 0 ∧ r.addr = (s.operand [a] 0).toNat ∧ r.core = s.cur.core ∧ r.slot = s.cur.slot
             ∧ r.lid = s.me.lid ∧ r.part = s.myPartNo))
     ∧ (∀ (s : State) (p : Pred) (d : Code) (num : BitVec 12), Issues s p (some (rg d)) [] →
         (num.toNat < 8 → exec (.cntrd p d num) s =
           .next (wrote s [] d (Word.ofNat (s.myCore.ctrs.lookD num.toNat 0 % 2 ^ 64))))
         ∧ (0x08 ≤ num.toNat → num.toNat < 0x10 ∨ 0x28 ≤ num.toNat ∧ num.toNat < 0x30 ∨ 0x60 ≤ num.toNat ∧ num.toNat < 0x100 →
             exec (.cntrd p d num) s = .next (wrote s [] d 0))))

/-- At power-on nothing is booted and no quadrant is assigned; every memory reads as the model's choice 0 (log entry 4),
no core holds a thread, and the fused minima are the model's choice 0 (log entry 2). The instant at which nothing is
booted yet (log entry 1), the values of registers without a reset column, the operator log's EN among them (log
entry 3), and the empty agenda (log entry 6) are the model's choices too. -/
def Obligations.ResetLeaves : Prop :=
  State.reset.booted = false ∧ State.reset.trip = false ∧ State.reset.parts = [] ∧ State.reset.memWf
  ∧ (∀ a, State.reset.dram.get a = 0) ∧ (∀ a, State.reset.host.get a = 0)
  ∧ (∀ q, State.reset.quadPart q = none) ∧ (∀ c, State.reset.corePart c = none) ∧ (∀ c sl, State.reset.thread? c sl = none)
  ∧ (∀ i, State.reset.minima.lookD i 0 = 0) ∧ State.reset.olog.en = false ∧ State.reset.agenda = []
  ∧ (∀ c n, kRead ((State.reset.core c).kregs.lookD n []) 8 = 0)

/-- A write to DRAM under a key is read back under that key, and leaves every other byte as it was under it. What R185
makes of a table entry: V 0 is not present; reserved bits, a leaf above level 3, a table entry at level 5, a
misaligned leaf, W without R, or an owner key index that is neither 0 nor the partition's make it malformed. -/
def Obligations.MemoryAndTables : Prop :=
  (∀ (s : State) (gen pa : Nat) (bs : List Byte), s.dram.wf = true →
     let t := s.dramWrite gen pa bs
     t.dramBytes gen pa bs.length = bs ∧ t.dram.wf = true
     ∧ (∀ a, a < pa ∨ pa + bs.length ≤ a → t.dramByte gen a = s.dramByte gen a)
     ∧ (∀ c, c ∈ t.dpoison ↔ c ∈ s.dpoison ∧ ¬ (pa ≤ 32 * c ∧ 32 * c + 32 ≤ pa + bs.length ∧ bs ≠ []))
     ∧ t.cores = s.cores ∧ t.host = s.host ∧ t.parts = s.parts)
  ∧ (∀ (oki level e : Nat), 1 ≤ level → level ≤ 5 → oki < 256 → e < 2 ^ 64 →
       (bit e 0 = false → judgePte oki level e = .absent)
       ∧ (bit e 0 = true → bits e 3 1 = 0 → level = 5 → judgePte oki level e = .malformed)
       ∧ (bit e 0 = true → bits e 3 1 ≠ 0 → level ≤ 2 → judgePte oki level e = .malformed)
       ∧ (bit e 0 = true → bit e 2 = true → bit e 1 = false → judgePte oki level e = .malformed)
       ∧ (bit e 0 = true → bits e 3 1 ≠ 0 → bits e 63 56 ≠ 0 → bits e 63 56 ≠ oki → judgePte oki level e = .malformed)
       ∧ (bit e 0 = true → bits e 55 52 ≠ 0 ∨ bits e 11 9 ≠ 0 ∨ bit e 7 = true → judgePte oki level e = .malformed)
       ∧ (∀ pa n, judgePte oki level e = .leaf pa n → pa = bits e 51 12 * 4096 ∧ pa % n = 0 ∧ 3 ≤ level
           ∧ (n = 2 ^ 30 ∧ level = 3 ∨ n = 2 ^ 21 ∧ level = 4 ∨ n = 2 ^ 16 ∧ level = 5 ∧ bit e 8 = true
             ∨ n = 2 ^ 12 ∧ level = 5 ∧ bit e 8 = false))
       ∧ (∀ pa, judgePte oki level e = .table pa → pa = bits e 51 12 * 4096 ∧ level ≤ 4 ∧ bits e 3 1 = 0))

/-- Every step answers a next state: from no state does the machine stop, whatever the thread, the memory or the event. -/
def Obligations.EveryStepAnswers : Prop :=
  ∀ s : State, ∃ t, step s = .next t

/-- No step lowers a fused security-version minimum (R42). -/
def Obligations.FusedMinimaNeverFall : Prop :=
  ∀ s t : State, step s = .next t → MinimaRise s t

/-- POWER_ON and BOOT_RESTART find the package at its reset values, with the fuses, the memories and the host as they
were, and boot: the device runs where three images, in order for Lodge, the handlers and the base dies, each pass
the checks of R42; the first that fails stops the boot with its stage and its reason. RAISE_FUSED_MINIMUM raises the
minimum of an image that runs to its version and never lowers one (R41, R42, R44). What a power cycle and a boot
restart keep is the model's choice (log entry 98). Every SPDM request is answered once and changes nothing else:
SPDM 1.3, RSASSA-3072 with SHA-256, the digest and the certificates of slot 0, the challenge and the measurements of
indexes 1 to 33; another slot, another index and every other request are answered with an error (R45). The version,
the algorithms and the error codes are those of SPDM 1.3 (PRESUMED, log entry 97), and InvalidRequest for an index
above 33 is the model's choice (log entry 116). -/
def Obligations.BootAndSpdm : Prop :=
  ((∀ (s : State) (imgs : List Image) (e : Sys2Proof.Instr), e = .powerOn imgs ∨ e = .bootRestart imgs → ∃ t, exec e s = .next t
       ∧ t.minima = s.minima ∧ t.keyDigests = s.keyDigests ∧ t.dram = s.dram ∧ t.host = s.host
       ∧ t.parts = [] ∧ t.cores = [] ∧ t.clusters = [] ∧ t.qmap = [] ∧ t.devnum = 1023 ∧ t.flights = []
       ∧ (e = .bootRestart imgs → t.clk = s.clk ∧ t.trips = s.trips)
       ∧ (e = .powerOn imgs → t.clk = 0 ∧ t.trips = 0)
       ∧ (t.booted = true ↔ ∃ a b c rest, imgs = a :: b :: c :: rest ∧ s.imageFault 1 a = 0 ∧ s.imageFault 2 b = 0
           ∧ s.imageFault 3 c = 0)
       ∧ (∀ a rest, imgs = a :: rest → s.imageFault 1 a ≠ 0 → t.bootStage = 1 ∧ t.bootReason = s.imageFault 1 a)
       ∧ (∀ a b c rest, imgs = a :: b :: c :: rest → s.imageFault 1 a = 0 → s.imageFault 2 b = 0 → s.imageFault 3 c = 0 →
           t.running.look 1 = some a.version ∧ t.running.look 2 = some b.version ∧ t.running.look 3 = some c.version
           ∧ t.bootStage = 0 ∧ t.measOf 1 = sha256 (zero32 ++ sha256 a.body)))
   ∧ (∀ (s : State) (proc : Nat) (i : Image), s.imageFault proc i = 0 ↔
       i.names = proc ∧ s.minima.lookD proc 0 ≤ i.version
       ∧ (∃ e ∈ s.keyDigests, e.2 = sha256 (i.modulus ++ leBytes 4 i.exponent))
       ∧ rsaVerify (leNat i.modulus) i.exponent i.sig i.body = true)
   ∧ (∀ (s : State) (proc v : Nat), s.running.look proc = some v → ∃ t, exec (.raiseFusedMinimum proc) s = .next t
       ∧ t.minima.lookD proc 0 = max (s.minima.lookD proc 0) v
       ∧ (∀ j, j ≠ proc → t.minima.lookD j 0 = s.minima.lookD j 0) ∧ t.running = s.running ∧ t.parts = s.parts
       ∧ t.cores = s.cores))
  ∧ (∀ (s : State) (slot index code : Nat) (nonce : List Byte),
       let answered := fun (e : Sys2Proof.Instr) (a : Answer) => exec e s = .next { s with out := s.out ++ [a] }
       answered .getVersion (.version 0x13)
       ∧ answered .getCapabilities (.capabilities Config.capabilityFlags)
       ∧ answered .negotiateAlgorithms (.algorithms 4 1)
       ∧ answered .getDigests (.digests (sha256 Config.certChain))
       ∧ answered (.getCertificate 0) (.certificate Config.certChain)
       ∧ (slot ≠ 0 → answered (.getCertificate slot) (.error 1) ∧ answered (.challenge slot nonce) (.error 1))
       ∧ (∃ sig, answered (.challenge 0 nonce) (.challenge sig))
       ∧ (1 ≤ index → index ≤ 32 → answered (.getMeasurements index) (.measurement index (s.measOf (index - 1))))
       ∧ answered (.getMeasurements 33) (.measurement 33 [BitVec.ofNat 8 s.bootStage, BitVec.ofNat 8 s.bootReason])
       ∧ (33 < index → answered (.getMeasurements index) (.error 1))
       ∧ answered (.spdmUnsupportedRequest code) (.error 7))

/-- A thermal trip zeroes every core and cluster and counts; its release lets the package run, and a held machine-check
holds. An idle throttle starts and ends without touching a core. PHCMD assigns the quadrants that it names to a
partition with a fresh owner key, or says why not; a release stops the partition, and its scrub gives the quadrants
back. DEVNUM is written while every port is down (R16 to R18, R22, R35 to R38). That a trip drops what is in flight
(DEDUCED, log entry 99) and that a throttle is logged as one count, made at its start (log entry 112), are the
model's choices. -/
def Obligations.TripsAndHandover : Prop :=
  (∀ s : State, s.trip = false → ∃ t, exec .thermalTrip s = .next t ∧ t.trip = true ∧ t.trips = s.trips + 1 ∧ t.cores = []
      ∧ (∀ c, t.cluster c = (s.cluster c).reset) ∧ t.flights = [] ∧ t.cur.pops = [])
  ∧ (∀ (x : Cluster) (eng n : Nat), x.reset.jobs = [] ∧ x.reset.live eng n = x.live eng n
      ∧ (∀ j, x.jobs = [(eng, [j])] → x.reset.past.look j.id = some { j with st := .abort }))
  ∧ (∀ s : State, (s.trip = false ∨ s.fab < s.tripAt + 160000000 → exec .thermalRelease s = .next s)
      ∧ (s.trip = true → s.tripAt + 160000000 ≤ s.fab → ∃ t, exec .thermalRelease s = .next t ∧ t.trip = false ∧ t.hold = s.hold ∧ t.trips = s.trips
          ∧ t.cores = s.cores ∧ t.parts.keys = s.parts.keys ∧ ∀ n p, s.parts.look n = some p → p.st ≠ 2 → t.parts.look n = some p))
  ∧ (∀ s : State, s.throttle = false → exec .powerThrottleStart s =
      .next { s with throttle := true, powerEvents := s.powerEvents + 1 })
  ∧ (∀ s : State, exec .powerThrottleEnd s = .next { s with throttle := false })
  ∧ (∀ (s : State) (v : Word), bits v.toNat 1 0 = 1 → s.booted = true → s.phstate ≠ 1 →
      (s.phCode v.toNat ≠ 0 → exec (.phcmdAssign v) s = .next { s with phstate := 3, phcode := s.phCode v.toNat })
      ∧ (s.phCode v.toNat = 0 → ∃ (t : State) (p : Part), exec (.phcmdAssign v) s = .next t ∧ t.phstate = 2 ∧ t.phcode = 0
          ∧ t.parts.look (bits v.toNat 7 4) = some p ∧ p.tsid = bits v.toNat 63 48 ∧ p.st = 1
          ∧ p.quads = maskQuads (bits v.toNat 47 32) ∧ p.keyGen = s.keyGens + 1 ∧ t.keyGens = s.keyGens + 1
          ∧ p.headm = bits s.phres.toNat 31 0 ∧ p.encm = bits s.phres.toNat 63 32 ∧ p.queues = [] ∧ p.launches = []
          ∧ (∀ q, q ∈ maskQuads (bits v.toNat 47 32) → t.quadPart q = some (bits v.toNat 7 4)
              ∧ bits (t.qmapOf q).toNat 31 16 = bits v.toNat 63 48 ∧ bits (t.qmapOf q).toNat 15 8 = p.oki % 256)
          ∧ (∀ q, q ∉ maskQuads (bits v.toNat 47 32) → t.qmapOf q = s.qmapOf q)
          ∧ (∀ n, n ≠ bits v.toNat 7 4 → t.parts.look n = s.parts.look n) ∧ t.cores = s.cores ∧ t.dram = s.dram))
  ∧ (∀ (s : State) (v : Word), bits v.toNat 1 0 = 2 → s.booted = true → s.phstate ≠ 1 →
      (s.phCode v.toNat ≠ 0 → exec (.phcmdRelease v) s = .next { s with phstate := 3, phcode := s.phCode v.toNat })
      ∧ (s.phCode v.toNat = 0 → ∃ t : State, exec (.phcmdRelease v) s = .next t ∧ t.phstate = 1 ∧ t.phcode = 0
          ∧ t.phpart = bits v.toNat 7 4
          ∧ ∀ p : Part, t.parts.look (bits v.toNat 7 4) = some p → p.st = 2 ∧ p.pkts = [] ∧ p.launches = [] ∧ p.lane = []
              ∧ ∀ c, quadOf c ∈ p.quads → (t.core c).threads = [] ∧ (t.core c).ring = []))
  ∧ (∀ (s : State) (n : Nat) (p : Part), s.parts.look n = some p → p.st = 2 → s.phstate = 1 → s.phpart = n → s.held = false →
      s.drained n = true → ∃ t, exec (.releaseScrub n) s = .next t ∧ t.phstate = 2 ∧ t.parts.look n = none
        ∧ (∀ q ∈ p.quads, t.quadPart q = none) ∧ p.oki ∉ t.okis ∧ t.measOf (16 + n) = zero32
        ∧ (∀ c, quadOf c ∈ p.quads → t.core c = Core.zero)
        ∧ (∀ m, m ≠ n → t.parts.look m = s.parts.look m) ∧ t.dram = s.dram)
  ∧ (∀ (s : State) (v : Word), (∀ p, p < 16 → (s.ports.lookD p Port.zero).st = 0) →
      exec (.devnumWrite v) s = .next { s with devnum := v.toNat % 1024 })

/-- Ports go down, train and come up on the one version and with another device; a packet for another device leaves by
an up port of its route with its hop count lowered, and is dropped without one; a remote access that the
destination's table admits is performed at the core's port, any other is refused; and an outcome at the source
reaches the thread that waits for it (R23, R24, R26, R27, R29, R30). A remote access performed also while a hold
keeps the cores in reset (log entry 111), an unnumbered port that stays at STATE 0 (log entry 83) and the woken slot
at the head of the agenda (log entry 21) are the model's choices. -/
def Obligations.LinksAndRemoteAccesses : Prop :=
  (∀ (s : State) (n : Nat), let port := fun (t : State) => t.ports.lookD n Port.zero
      let others := fun (t : State) => ∀ m, m ≠ n → t.ports.lookD m Port.zero = s.ports.lookD m Port.zero
      (n < 16 → ∃ t, exec (.gpsRetrain n) s = .next t ∧ (port t).verg = 0 ∧ (port t).peer = 1023
        ∧ (port t).vero = (port s).vero ∧ (port t).st = (if s.devnum < 640 then 1 else 0) ∧ others t)
      ∧ (∀ peer vero, (port s).st = 1 → ∃ t, exec (.linkTrainingDone n peer vero) s = .next t ∧ others t
          ∧ ((port s).vero % 2 = 1 ∧ vero % 2 = 1 ∧ peer ≠ s.devnum → (port t).st = 2 ∧ (port t).verg = 1
              ∧ (port t).peer = peer % 1024)
          ∧ (¬ ((port s).vero % 2 = 1 ∧ vero % 2 = 1 ∧ peer ≠ s.devnum) → (port t).st = 3 ∧ (port t).verg = 0
              ∧ (port t).peer = 1023 ∧ ∀ d, n ∉ t.upPorts d))
      ∧ ((port s).st = 2 → ∃ t, exec (.portDown n) s = .next t ∧ (port t).st = 0 ∧ (port t).peer = 1023 ∧ others t))
  ∧ (∀ (s : State) (k : GPacket), k.dest ≠ s.devnum → 1 < k.hop → s.upPorts k.dest ≠ [] →
      ∃ (t : State) (port : Nat), exec (.gondolaForward k) s = .next t ∧ t.out = s.out ++ [.forward port { k with hop := k.hop - 1 }]
        ∧ port ∈ s.upPorts k.dest ∧ t.fwdCounts.lookD k.tsid 0 = s.fwdCounts.lookD k.tsid 0 + 1 ∧ t.cores = s.cores
        ∧ ∀ a b, packetOrd k = some (a, b) →
            (s.upPorts k.dest)[Config.ordPort a b % (s.upPorts k.dest).length]? = some port)
  ∧ (∀ (s : State) (k : GPacket), k.hop ≤ 1 ∨ s.upPorts k.dest = [] → exec (.gondolaForward k) s = .next s)
  ∧ (∀ (s : State) (dev : Nat) (a : Answer), (dev = s.devnum → s.depart dev none a = s.say a)
      ∧ (dev ≠ s.devnum → s.upPorts dev = [] → s.depart dev none a = s)
      ∧ (dev ≠ s.devnum → s.upPorts dev ≠ [] → ∃ port ∈ s.upPorts dev, (s.depart dev none a).out = s.out ++ [.sent port 8 a]
          ∧ (s.depart dev none a).cores = s.cores))
  ∧ (∀ (s : State) (r : RemReq) (pno n v : Nat), s.admits r = some pno → winOff r.addr.toNat + n ≤ 2 ^ 19 →
      let c := winCore r.addr.toNat
      let o := winOff r.addr.toNat
      (r.op = .load n → (s.core c).lpoisoned o n = false → exec (.remoteAccessArrival r) s =
        .next (s.depart r.sdev none (.remoteReply r.id r.sdev (.data ((s.core c).lmem.read o n)))))
      ∧ (∀ full, r.op = .store n v full → ∃ t, exec (.remoteAccessArrival r) s = .next t
          ∧ (t.core c).lmem.bytes o n = leBytes n v ∧ (∀ a, a < o ∨ o + n ≤ a → (t.core c).lmem.get a = (s.core c).lmem.get a)
          ∧ t.out = (s.depart r.sdev none (.remoteReply r.id r.sdev .ack)).out ∧ ∀ d, d ≠ c → t.core d = s.core d)
      ∧ (∀ op ret te, r.op = .amo op n v ret te → (s.core c).lpoisoned o n = false → ∃ t, exec (.remoteAccessArrival r) s = .next t
          ∧ (t.core c).lmem.read o n = amoVal op (8 * n) ((s.core c).lmem.read o n) v % 256 ^ n
          ∧ t.out = (s.depart r.sdev none (.remoteReply r.id r.sdev (.data ((s.core c).lmem.read o n)))).out))
  ∧ (∀ (s : State) (r : RemReq), s.admits r = none → exec (.remoteAccessArrival r) s =
      .next ((if opPosted r.op then s.refusedHere (winCore r.addr.toNat) r.addr.toNat else s).depart r.sdev none
        (.remoteReply r.id r.sdev .refused)))
  ∧ (∀ (s : State) (f : Sent) (req : RemReq) (at' sl : Nat) (reply : RemReply), s.flight? f.id = some f → Quiet s →
      f.what = .gond req true at' → slotOf (s.core f.core) f.sth = some sl → s.parkedFor f.core sl = some (.remote f.id) →
      (s.inTime f = true → ∃ t, exec (.remoteReply f.id reply) s = .next t ∧ t.flight? f.id = none ∧ Woken s t f.core sl
        ∧ (t.thread? f.core sl).map (fun u => u.prog.reply) = some (some (some reply)))
      ∧ (s.inTime f = false → exec (.remoteReply f.id reply) s = .next s)
      ∧ (∃ t, exec (.remoteAccessTimeout f.id) s = .next t ∧ t.flight? f.id = none ∧ Woken s t f.core sl
        ∧ t.clk = max s.clk (Config.clkAt (at' + 2 ^ 22))
        ∧ (t.thread? f.core sl).map (fun u => u.prog.reply) = some (some none)))

/-- What the host does: a configuration access to a function of no partition is answered as unsupported; an aperture
access is translated by the partition's tables, and one that fails reads as all ones, or writes nothing, and is
recorded in the fault log; that the record is of kind 1, with the access's address, is the model's choice (log entry
66), and so are the pages that answer while a partition is stopped by a machine-check (log entry 123); a write at a
BAR offset is a write of the register that lies there, and an offset that is reserved discards it (R19 to R21, R54
to R58, R191). Queues (R54 to R58): enabling one with a good ring makes it idle at packet 0, or where an import left
it; disabling returns it to the reset state; pausing stops an active queue and no other; a doorbell moves TAIL
within the ring and stops the queue past it; and no queue is enabled while the host wants no interface version that
Lodge has. -/
def Obligations.HostRegisters : Prop :=
  ((∀ (s : State) (n : Nat), (n = 0 ∨ s.parts.look (n - 1) = none →
       exec (.vfConfigAccess n) s = .next { s with out := s.out ++ [.unsupported] })
     ∧ (n ≠ 0 → s.parts.look (n - 1) ≠ none → exec (.vfConfigAccess n) s = .next s))
   ∧ (∀ (s : State) (pno off size : Nat) (p : Part), s.parts.look pno = some p → p.st ≠ 2 → off < 2 ^ 34 →
       (∀ bs t, (s.hostSeen pno).lodgeRead pno (p.apbase.toNat + off) size true = .ok (bs, t) →
         exec (.apertureRead pno off size) s = .next (t.say (.hostRead (leNat bs) true)))
       ∧ (∀ e, (s.hostSeen pno).lodgeRead pno (p.apbase.toNat + off) size true = .error e → exec (.apertureRead pno off size) s =
           .next (((s.hostSeen pno).apertureRecord pno (p.apbase.toNat + off) e).say (.hostRead (2 ^ (8 * size) - 1) false)))
       ∧ (∀ (data : List Byte) e, data.length = size → (s.hostSeen pno).lodgeParts pno .write true
             (pageParts (size / 4096 + 2) (p.apbase.toNat + off) size) = .error e →
           exec (.apertureWrite pno off data) s = .next ((s.hostSeen pno).apertureRecord pno (p.apbase.toNat + off) e))
       ∧ (∀ (data : List Byte) (pa : Nat) (t : State), data.length = size →
           (s.hostSeen pno).lodgeParts pno .write true (pageParts (size / 4096 + 2) (p.apbase.toNat + off) size) = .ok ([(pa, size)], t) →
           exec (.apertureWrite pno off data) s = .next (t.sliceWrite pno pa data)))
   ∧ (∀ (s : State) (pno va a kind level : Nat),
       let one := fun (c : Cause) => s.emit { s.obs 1 pno with code := c.code, addr := va }
       s.apertureRecord pno va (.fault kind level) = one (if kind = 2 then .prot else .pageflt)
       ∧ s.apertureRecord pno va .off = one .pageflt ∧ s.apertureRecord pno va .poison = one .poison
       ∧ s.apertureRecord pno va .address = one .align
       ∧ s.apertureRecord pno va (.malformed a) = s.emit { s.obs 7 pno with addr := a })
   ∧ (∀ (s : State) (pno off size : Nat) (data : List Byte), s.parts.look pno = none ∨ 2 ^ 34 ≤ off →
       let u := if s.parts.look pno = none then s else s.hostSeen pno
       exec (.apertureRead pno off size) s = .next (u.say (.hostRead (2 ^ (8 * size) - 1) false))
       ∧ exec (.apertureWrite pno off data) s = .next u)
   ∧ (∀ (s : State) (pno off size : Nat) (data : List Byte) (p : Part), s.parts.look pno = some p → p.st = 2 → off < 2 ^ 34 →
       let u := (s.hostSeen pno).apertureRecord pno (p.apbase.toNat + off) .off
       exec (.apertureRead pno off size) s = .next (u.say (.hostRead (2 ^ (8 * size) - 1) false))
       ∧ exec (.apertureWrite pno off data) s = .next u)
   ∧ (∀ (s : State) (pno q : Nat) (v : Word), pno < 16 → q < 256 → s.parts.look pno ≠ none → (s.part pno).st ≠ 2 →
       let at' := fun (o : Nat) => exec (.hostRegisterWrite (.vf (pno + 1)) (4096 * q + o) v) s
       at' 0x000 = exec (.qdbWrite pno q v) s
       ∧ (at' 0x010 = if bit v.toNat 0 then exec (.qcfgEnable pno q v) s else exec (.qcfgDisable pno q v) s)
       ∧ (q = 0 → at' 0x808 = exec (.ifvwWrite pno v) s ∧ at' 0x830 = exec (.frheadWrite pno v) s
           ∧ (∃ t, at' 0x800 = .next t ∧ (t.part pno).apbase.toNat = v.toNat / 2 ^ 34 * 2 ^ 34))
       ∧ at' 0x900 = .next (s.hostSeen pno)))
  ∧ (∀ (s : State) (pno q : Nat) (v : Word) (p : Part), s.parts.look pno = some p → p.st ≠ 2 →
       let x := s.queue pno q
       let sz := bits v.toNat 12 8
       let after := fun (e : Sys2Proof.Instr) (f : Queue → Prop) => ∃ t, exec e s = .next t ∧ f (t.queue pno q)
         ∧ (∀ r, r ≠ q → t.queue pno r = s.queue pno r) ∧ (∀ n, n ≠ pno → t.parts.look n = s.parts.look n) ∧ t.cores = s.cores
       (bit v.toNat 0 = true → x.en = false → p.grant ≠ 0 → 4 ≤ sz → sz ≤ 16 → x.base.toNat / 64 * 64 % (64 * 2 ^ sz) = 0 →
         after (.qcfgEnable pno q v) fun y => y.en = true ∧ y.err = 0 ∧ y.log2sz = sz ∧ y.qst = (if bit v.toNat 1 then 2 else 1)
           ∧ (x.imported = false → y.head = 0 ∧ y.tail = 0) ∧ (x.imported = true → y.head = x.head ∧ y.tail = x.tail))
       ∧ (bit v.toNat 0 = true → x.en = false → p.grant = 0 →
           after (.qcfgEnable pno q v) fun y => y.en = true ∧ y.err = 4 ∧ y.qst = 3)
       ∧ (bit v.toNat 0 = false → x.en = true →
           after (.qcfgDisable pno q v) fun y => y.en = false ∧ y.qst = 0 ∧ y.err = 0 ∧ y.imported = false ∧ y.base = x.base)
       ∧ (bit v.toNat 0 = true → bit v.toNat 1 = true → x.en = true → x.qst = 1 →
           after (.qcfgPause pno q v) fun y => y.pause = true ∧ y.qst = 2 ∧ y.head = x.head ∧ y.tail = x.tail)
       ∧ (bit v.toNat 0 = true → bit v.toNat 1 = false → x.en = true → x.qst = 2 →
           after (.qcfgUnpause pno q v) fun y => y.pause = false ∧ y.qst = 1 ∧ y.head = x.head ∧ y.tail = x.tail)
       ∧ (x.qst = 1 ∨ x.qst = 2 → (v.toNat % 2 ^ 32 + 2 ^ 32 - x.head) % 2 ^ 32 ≤ 2 ^ x.log2sz →
           after (.qdbWrite pno q v) fun y => y.tail = v.toNat % 2 ^ 32 ∧ y.qst = x.qst ∧ y.head = x.head)
       ∧ (x.qst = 1 ∨ x.qst = 2 → 2 ^ x.log2sz < (v.toNat % 2 ^ 32 + 2 ^ 32 - x.head) % 2 ^ 32 →
           after (.qdbWrite pno q v) fun y => y.qst = 3 ∧ y.err = 2 ∧ y.tail = x.tail)
       ∧ ((∀ e ∈ p.queues, e.2.en = false) → ∃ t, exec (.ifvwWrite pno v) s = .next t ∧ (t.part pno).want = v.toNat % 256
           ∧ (t.part pno).grant = (if bit v.toNat 0 then 1 else 0))
       ∧ ((∃ e ∈ p.queues, e.2.en = true) → ∃ t, exec (.ifvwWrite pno v) s = .next t ∧ t.parts.look pno = some p
           ∧ (∀ n, n ≠ pno → t.parts.look n = s.parts.look n) ∧ t.cores = s.cores))

/-- The fault ring and the operator log (R191 to R193, R259): enabling one with a good ring empties it; disabling the
fault ring leaves no record outstanding; an answer to a record takes it off the list and leaves the others; the
host's index moves to what it wrote. A walk fills what it fills and no access takes its fault; a fault message
reaches Lodge while the ring is on and becomes a record with the next number; an answer lets the access go on (R187,
R190 to R192). The woken thread at the head of the agenda (log entry 21) and the registers of a stopped partition
that answer (log entry 123) are the model's choices. -/
def Obligations.FaultsReachTheHost : Prop :=
  ((∀ (s : State) (pno : Nat) (v : Word) (p : Part), s.parts.look pno = some p → p.st ≠ 2 →
     (bit v.toNat 0 = true → p.fren = false → 4 ≤ bits v.toNat 12 8 → bits v.toNat 12 8 ≤ 12 →
       p.frbase.toNat % (32 * 2 ^ bits v.toNat 12 8) = 0 → ∃ t, exec (.frcfgEnable pno v) s = .next t
         ∧ (t.part pno).fren = true ∧ (t.part pno).frhead = 0 ∧ (t.part pno).frtail = 0 ∧ (t.part pno).frecs = []
         ∧ (t.part pno).frlog2 = bits v.toNat 12 8 ∧ t.cores = s.cores)
     ∧ (bit v.toNat 0 = false → p.fren = true → p.frecs = [] → p.fmsgs = [] → ∃ t, exec (.frcfgDisable pno v) s = .next t
         ∧ (t.part pno).fren = false ∧ t.cores = s.cores)
     ∧ (∀ seq r, p.frecs.find? (fun r => decide (r.seq = seq)) = some r →
         let rest := (s.hostSeen pno).modPart pno fun p => { p with frecs := p.frecs.filter fun o => decide (o.seq ≠ seq) }
         exec (.fresRetry pno seq) s = .next (rest.resolve pno r.page r.acc none)
         ∧ exec (.fresFatalPageflt pno seq) s = .next (rest.resolve pno r.page r.acc (some .pageflt))
         ∧ exec (.fresFatalProt pno seq) s = .next (rest.resolve pno r.page r.acc (some .prot)))
     ∧ (∀ seq, p.frecs.find? (fun r => decide (r.seq = seq)) = none → exec (.fresRetry pno seq) s = .next (s.hostSeen pno)
         ∧ exec (.fresFatalPageflt pno seq) s = .next (s.hostSeen pno)
         ∧ exec (.fresFatalProt pno seq) s = .next (s.hostSeen pno))
     ∧ (p.fmsgs = [] → ∃ t, exec (.frheadWrite pno v) s = .next t ∧ (t.part pno).frhead = v.toNat % 2 ^ 32
         ∧ (t.part pno).frecs = p.frecs ∧ t.cores = s.cores))
   ∧ (∀ (s : State) (v : Word), bit v.toNat 0 = true → s.olog.en = false → ringFits s.olog.base (bits v.toNat 12 8) = true →
       exec (.olcfgEnable v) s = .next { s with olog := ⟨s.olog.base, bits v.toNat 12 8, true, 0, 0, 0⟩ })
   ∧ (∀ (s t : State) (c sl : Nat) (page : Word) (acc : Acc) (u : Thread) (fatal : Option Cause), Quiet s →
       (s.core c).threads = [(sl, u)] → u.park.map Park.why = some (.fault page acc 1 1) →
       s.resolveThreads c (page.toNat / 4096 * 4096) acc fatal = t → Woken s t c sl
         ∧ (t.thread? c sl).map (fun w => w.prog.fatal) = some (fatal.map fun cause => (page, acc, cause))))
  ∧ ((∀ (s : State) (c pno : Nat) (va : Word), va.toNat < 2 ^ 57 → isWindow va.toNat = false → s.corePart c = some pno →
         (∀ pa t, s.translate (.core c) pno va.toNat .read false = .ok pa t → exec (.tableWalk c va 1) s = .next t)
         ∧ (∀ pa t, s.translate (.core c) pno va.toNat .write false = .ok pa t → exec (.tableWalk c va 2) s = .next t)
         ∧ (∀ pa t, s.translate (.core c) pno va.toNat .exec false = .ok pa t → exec (.tableWalk c va 3) s = .next t)
         ∧ (∀ k l t, s.translate (.core c) pno va.toNat .read false = .fault k l t → exec (.tableWalk c va 1) s = .next t)
           ∧ (∀ k t, s.translate (.core c) pno va.toNat .read false = .malformed k t →
               exec (.tableWalk c va 1) s = .next (t.malformedRecord pno va.toNat)))
     ∧ (∀ (s : State) (pno : Nat) (p : Part) (m : FMsg), s.parts.look pno = some p → p.fren = true → p.fmsgs = [m] → m.arrived = false →
         p.frecs.length < 1024 → p.frRoom = true →
         let q := s.modPart pno fun p => { p with fmsgs := [{ m with arrived := true }] }
         exec (.faultMessage pno 0) s = .next (q.writeRecord pno { m with arrived := true }))
     ∧ (∀ (s u : State) (pno : Nat) (m : FMsg) (p : Part), s.parts.look pno = some p → p.frtail ≠ p.frhead → p.frtail < 2 ^ 32 →
         (s.modPart pno fun p => { p with fmsgs := p.fmsgs.filter fun o => !(o.page = m.page && o.acc = m.acc) }).lodgeRecord pno
           (p.frbase.toNat + 32 * (p.frtail % 2 ^ p.frlog2))
           (frecBytes m p.frtail ((s.modPart pno fun p => { p with fmsgs := p.fmsgs.filter fun o => !(o.page = m.page && o.acc = m.acc) }).waiters
             pno m.page m.acc)) true = .ok u → (u.parts.look pno).isSome = true →
         ∃ q, (s.writeRecord pno m).parts.look pno = some q ∧ q.frtail = (p.frtail + 1) % 2 ^ 32
           ∧ q.frecs = (u.part pno).frecs ++ [⟨p.frtail, m.page, m.acc, m.kind⟩])
     ∧ (∀ (m : FMsg) (seq nwait : Nat), m.page < 2 ^ 57 → m.kind < 256 → m.level < 256 → let b := frecBytes m seq nwait
         b.length = 32 ∧ dfield b 0 8 = m.page ∧ dfield b 8 4 = seq % 2 ^ 32 ∧ dfield b 12 1 = m.acc.code ∧ dfield b 13 1 = m.kind
         ∧ dfield b 14 1 = m.level ∧ dfield b 16 2 = min nwait 65535))

/-- A queue's next packet starts, and where its type says so completes at once (R61 to R64, R71, R75, R94): COPY, WAIT,
EXPORT, LAYER-TABLE and HEAD-BIND are outstanding with HEAD past them; SIGNAL performs its atomic and completes;
IMPORT and GRAPH-LOAD complete with a status, GRAPH-LOAD holding the nodes of a good image; and a packet that breaks
a rule completes with BADPKT. That GRAPH-LOAD answers BUSY before its image is read is the model's choice (log entry
89). What completes later (R58, R63, R71): a COPY copies its bytes and completes with the count; a WAIT completes
when its comparison holds; an EXPORT writes the image of a queue that has nothing in flight; and a ring that cannot
be fetched stops its queue. -/
def Obligations.PacketsStartAndComplete : Prop :=
  (∀ (s h : State) (pno q : Nat) (k : Pkt), s.nextPacket pno q = some (k, h) →
     let g := h.turnOn pno q
     let good := fun n => k.type = n ∧ h.goodPacket pno k = true
     let start := fun (st : PktSt) => (g.headUp pno k.q 1).modPart pno fun p => { p with pkts := p.pkts ++ [{ k with st := st }] }
     let ends := fun (u : State) (status : Nat) => (u.headUp pno k.q 1).complete pno k status 0
     (good 4 → exec (.copy pno q) s = .next (start .copy))
     ∧ (good 6 → exec (.wait pno q) s = .next (start .wait))
     ∧ (good 9 → exec (.exportQueue pno q) s = .next (start .exportQ))
     ∧ (good 7 → ∃ t, exec (.layerTable pno q) s = .next t ∧ t.cores = (start .layer).cores
         ∧ ∀ p, t.parts.look pno = some p → p.rink.pending = some (Word.ofNat (k.w 1), k.w 2))
     ∧ (good 8 → ∃ t, exec (.headBind pno q) s = .next t ∧ ∀ p, t.parts.look pno = some p →
         (p.rink.heads.lookD (bits (k.w 1) 4 0) Head.zero).pendBind = some (if bit (k.w 1) 18 then none
           else some ⟨bits (k.w 1) 12 8, bits (k.w 1) 16 16, bit (k.w 1) 17, Word.ofNat (k.w 2), k.w 3⟩))
     ∧ (good 5 → ∀ u, g.signalOp pno (k.w 1) (k.w 3) (k.words.getD 2 0) = .ok u →
         exec (.signal pno q) s = .next (ends (u.dirtyMark pno k.q (k.w 1)) 0))
     ∧ (good 5 → ∀ e, g.signalOp pno (k.w 1) (k.w 3) (k.words.getD 2 0) = .error e →
         exec (.signal pno q) s = .next (ends (g.lodgeMet pno e) 2))
     ∧ (good 10 → ∀ d u, g.lodgeRead pno (k.w 2) 64 = .ok (d, u) → imageOk d (u.part pno).grant = true →
         ∃ t, exec (.importQueue pno q) s = .next t ∧ ∃ v, t = ends v 0 ∧ ∀ p, v.parts.look pno = some p →
           let x := p.queues.lookD (k.w 1) Queue.zero
           x.head = dfield d 16 4 ∧ x.tail = dfield d 20 4 ∧ x.log2sz = dfield d 24 1 ∧ x.imported = true
           ∧ x.base.toNat = dfield d 8 8 / 64 * 64 + dfield d 8 8 % 2)
     ∧ (good 10 → ∀ d u, g.lodgeRead pno (k.w 2) 64 = .ok (d, u) → imageOk d (u.part pno).grant = false →
         exec (.importQueue pno q) s = .next (ends u 1))
     ∧ (good 2 → (∀ e ∈ (g.part pno).trigs, ∀ r, e.2.run = some r → r.slot ≠ k.w 2) →
         (∀ e, g.lodgeRead pno (k.w 1) 32 = .error e → exec (.graphLoad pno q) s = .next (ends (g.lodgeMet pno e) 2))
         ∧ (∀ h u, g.lodgeRead pno (k.w 1) 32 = .ok (h, u) → graphOk h = false → exec (.graphLoad pno q) s = .next (ends u 4))
         ∧ (∀ h u bs v, g.lodgeRead pno (k.w 1) 32 = .ok (h, u) → graphOk h = true →
             u.lodgeRead pno (k.w 1 + 32) (32 * dfield h 8 2) = .ok (bs, v) →
             (∀ i < dfield h 8 2, nodeOk ((bs.drop (32 * i)).take 32) (dfield h 8 2) = true) →
             ∃ t, exec (.graphLoad pno q) s = .next t ∧ ∃ w, t = ends w 0 ∧ ∀ p, w.parts.look pno = some p →
               ∃ y, p.graphs.look (k.w 2) = some y ∧ y.entry = dfield h 10 2 ∧ y.nodes.length = dfield h 8 2
                 ∧ ∀ i < dfield h 8 2, y.nodes[i]? = some (nodeOf ((bs.drop (32 * i)).take 32))))
     ∧ (good 2 → (∃ e ∈ (g.part pno).trigs, ∃ r, e.2.run = some r ∧ r.slot = k.w 2) →
         exec (.graphLoad pno q) s = .next (ends g 5))
     ∧ (h.goodPacket pno k = false → exec (.badpkt pno q) s = .next (ends g 1)))
  ∧ ((∀ (s : State) (pno pid : Nat) (k : Pkt), s.pkt? pno pid = some k →
       (k.st = .copy → (∀ t n, s.copyRuns pno k (k.w 3 / 2048 + 4) 0 = (n, true, t) →
           exec (.copyComplete pno pid) s = .next (t.complete pno k 0 n))
         ∧ (∀ t n, s.copyRuns pno k (k.w 3 / 2048 + 4) 0 = (n, false, t) →
           exec (.copyComplete pno pid) s = .next (t.complete pno k 2 n)))
       ∧ (k.st = .copy → bits (k.w 4) 1 0 = 3 → s.hostHoles = [] → k.w 1 + k.w 3 ≤ 2 ^ 64 → k.w 2 + k.w 3 ≤ 2 ^ 64 →
           (k.w 1 + k.w 3 ≤ k.w 2 ∨ k.w 2 + k.w 3 ≤ k.w 1) → ∃ t : State, exec (.copyComplete pno pid) s = .next (t.complete pno k 0 (k.w 3))
             ∧ t.host.bytes (k.w 2) (k.w 3) = s.host.bytes (k.w 1) (k.w 3)
             ∧ (∀ a, a < k.w 2 ∨ k.w 2 + k.w 3 ≤ a → t.host.get a = s.host.get a) ∧ t.dram = s.dram ∧ t.cores = s.cores)
       ∧ (k.st = .wait → ∀ bs t, s.lodgeRead pno (k.w 1) 8 = .ok (bs, t) →
           (cmpHolds (k.w 3) (leNat bs) (k.w 2) = true → exec (.waitSatisfied pno pid) s = .next (t.complete pno k 0 0))
           ∧ (cmpHolds (k.w 3) (leNat bs) (k.w 2) = false → exec (.waitSatisfied pno pid) s = .next s))
       ∧ (k.st = .exportQ → (s.part pno).infl (k.w 1) = 0 → ∀ t, s.lodgePut pno (k.w 2) (s.queue pno (k.w 1)).image false = .ok t →
           exec (.exportComplete pno pid) s = .next ((t.dirtyMark pno k.q (k.w 2)).complete pno k 0 0)))
     ∧ (∀ (s : State) (pno q : Nat) (e : LodgeErr), s.mayStart pno q = true → s.served pno q = true →
         s.fetchPacket pno q (s.queue pno q).head = .error e → (s.parts.look pno).isSome = true →
         ∃ t, exec (.ringFetchFault pno q) s = .next t ∧ (t.queue pno q).qst = 3 ∧ (t.queue pno q).err = 3
           ∧ (∀ r, r ≠ q → t.queue pno r = s.queue pno r) ∧ ((∀ va, e ≠ .malformed va) → t.cores = s.cores))
     ∧ (∀ (s : State) (pno : Nat) (k : Pkt) (status aux : Nat), k.cr = false → ∀ p, s.parts.look pno = some p →
         ∃ r, (s.complete pno k status aux).parts.look pno = some r ∧ (s.complete pno k status aux).dram = s.dram
           ∧ (∀ o ∈ r.pkts, ¬ (o.q = k.q ∧ o.k = k.k ∧ o.ep = k.ep)) ∧ r.queues = p.queues)
     ∧ (∀ status tag bref t0 t1 aux, (crBytes status tag bref t0 t1 aux).length = 32
         ∧ dfield (crBytes status tag bref t0 t1 aux) 0 2 = status % 2 ^ 16
         ∧ dfield (crBytes status tag bref t0 t1 aux) 2 2 = tag % 2 ^ 16
         ∧ dfield (crBytes status tag bref t0 t1 aux) 24 8 = aux % 2 ^ 64))

/-- A LAUNCH whose record passes its checks waits for its root, which is placed on a core that can host it: a frame with
the entry, the join counter and six arguments, at the origin of the level-0 domain; a launch that is over, with
nothing of it left anywhere, completes; a record that fails completes its packet with a status (R61, R96 to R99,
R113). TERMINATION_COUNT moves the count of one level up as a whole (the model's choice, log entry 55), and the
root's ORG is the core that takes it (log entry 95, the model's choice). -/
def Obligations.LaunchesStartAndEnd : Prop :=
  (∀ (s h : State) (pno q : Nat) (k : Pkt), s.nextPacket pno q = some (k, h) → k.type = 1 → h.goodPacket pno k = true →
      k.rem = false → k.pc = false →
      let g := h.turnOn pno q
      let r := g.readLrec pno (k.w 1) (g.queue pno k.q).ken
      (∀ e, r = .fault e → exec (.launch pno q) s = .next (((g.lodgeMet pno e).headUp pno k.q 1).complete pno k 2 0))
      ∧ (∀ code, r = .bad code → exec (.launch pno q) s =
          .next (((g.checkRecord pno code (k.w 1)).headUp pno k.q 1).complete pno k 1 0))
      ∧ (∀ l u p, r = .ok l u → u.parts.look pno = some p → ∃ (t : State) (x : Part) (lid : Nat) (y : Launch),
          exec (.launch pno q) s = .next t ∧ t.parts.look pno = some x ∧ x.launches.look lid = some y ∧ y.lid = lid
          ∧ y.entry = l.entry ∧ y.win = l.win ∧ y.levs = l.levs ∧ y.args = l.args ∧ y.placed = l.placed
          ∧ y.origin = .packet k.q k.k k.ep none ∧ x.pkts = p.pkts ++ [{ k with st := .launch lid }]
          ∧ (∀ m, m ≠ lid → x.launches.look m = p.launches.look m) ∧ t.cores = u.cores))
  ∧ (∀ (s : State) (pno c ptr : Nat) (l : Launch), (s.part pno).st = 1 → s.held = false →
      (s.part pno).launches.findSome? (fun e => if (s.part pno).mayPlace e.2 && s.rootTurn pno e.2 then (s.rootCore pno e.2).map fun r => (e.2, r) else none)
        = some (l, c, ptr) → Quiet s → bit (s.core c).trcfg 2 = false → s.launch? pno l.lid = some l → s.corePart c = some pno →
      l.fused = none → ∀ sl u, (s.rootOn pno l).newThread c l = some (sl, u) → ∃ t v m, exec (.rootPlace pno) s = .next t
        ∧ t.thread? c sl = some v ∧ v.pc = l.entry ∧ v.tjoin = l.rjoin ∧ v.lid = l.lid ∧ v.idle = false ∧ v.counts = true
        ∧ v.tag = (l.rootFrame c).tag ∧ (∀ i < 8, (t.core c).greg v i = (l.rootFrame c).words.getD i 0)
        ∧ t.launch? pno l.lid = some m ∧ m.placed = true ∧ m.pkgCount = l.pkgCount + 1)
  ∧ (∀ (l : Launch) (c : Nat), (l.rootFrame c).words = [l.entry, l.rjoin] ++ (List.range 6).map (fun i => l.args.getD i 0)
      ∧ ((l.lev 0).domc < 8 → c < 4096 → tagLvl (l.rootFrame c).tag = 0 ∧ tagDom (l.rootFrame c).tag = (l.lev 0).domc
        ∧ tagOrg (l.rootFrame c).tag = c ∧ tagIdx (l.rootFrame c).tag = 0))
  ∧ (∀ (s : State) (pno lid : Nat) (l : Launch), s.launch? pno lid = some l → s.launchOver pno l = true →
      exec (.launchComplete pno lid) s = .next ((s.removeLaunch pno lid).launchEnds pno l 0)
      ∧ ∀ t, t = s.removeLaunch pno lid → t.launch? pno lid = none)
  ∧ (∀ (s : State) (pno lid : Nat) (l : Launch), s.launch? pno lid = some l → ∃ t m, exec (.terminationCount pno lid) s = .next t
      ∧ t.launch? pno lid = some m ∧ m.placed = l.placed ∧ m.fatals = l.fatals
      ∧ (l.movingD ≠ [] → m.movingD = [] ∧ m.movingQ = l.movingQ ∧ m.moving = l.moving
          ∧ m.pkgCount = (l.movingD.map Prod.snd).foldl (· + ·) l.pkgCount)
      ∧ (l.movingD = [] → m.pkgCount = l.pkgCount
          ∧ (l.movingQ ≠ [] → m.movingQ = [] ∧ m.moving = l.moving ∧ ∀ q n, n ≠ 0 → l.movingQ = [(q, n)] → m.movingD = [(q / 4, n)])
          ∧ (l.movingQ = [] → m.moving = [] ∧ m.movingD = []
              ∧ ∀ c n, n ≠ 0 → l.moving = [(c, n)] → m.movingQ = [(c / 32, n)])))

/-- Triggers, runs and remote launches (R68 to R74): a bound trigger runs its graph from the entry; a SIGNAL node
performs its atomic and goes on; a LOOP without a word goes round its count of times; a COND takes one of two ways;
an END completes the run and counts it; a LAUNCH node adds a launch. A remote launch that the table refuses is
answered with the code, an accepted one waits in the lane and starts; its result or its loss completes the packet
that asked. What a trigger's STATE makes of a request and of an empty slot (DEDUCED, log entry 90) and refusal 6 for
a launch that fails as its lane starts it (log entry 93) are the model's choices. -/
def Obligations.GraphsAndRemoteLaunches : Prop :=
  (∀ (s : State) (pno tr kind : Nat) (p : Part) (t : Trig) (r : GRun) (y : GSlot) (n : GNode), s.parts.look pno = some p →
    p.trigs.look tr = some t → t.run = some r → p.graphs.look r.slot = some y → y.nodes[r.node]? = some n → p.st = 1 →
    s.held = false → n.kind = kind → r.waits = false → r.open' = [] →
    let run := fun (u : State) => (u.trig pno tr).run
    (kind = 1 → n.a.toNat % 128 = 0 → ∀ l u, s.readLrec pno n.a.toNat y.ken = .ok l u → 
        exec (.graphNodeLaunch pno tr) s = .next ((u.addLaunch pno l (.node tr r.node)).2.modRun pno tr
          fun r => { r with waits := true }))
    ∧ (kind = 4 → n.a.toNat % 8 = 0 → ∀ u, s.signalOp pno n.a.toNat n.c n.b = .ok u → exec (.graphNodeSignal pno tr) s =
        .next (u.modRun pno tr fun r => { r with node := n.next }))
    ∧ (kind = 2 → n.a = 0 → ∃ v, exec (.graphNodeLoop pno tr) s = .next v
        ∧ run v = some { r with loops := KMap.putD 0 r.loops r.node (if r.loops.lookD r.node 0 + 1 ≤ n.b.toNat then r.loops.lookD r.node 0 + 1 else 0),
                                node := if r.loops.lookD r.node 0 + 1 ≤ n.b.toNat then n.next else n.alt })
    ∧ (kind = 3 → ∀ bs u, s.lodgeRead pno n.a.toNat 8 = .ok (bs, u) → exec (.graphNodeCond pno tr) s =
        .next (u.modRun pno tr fun r => { r with node := if cmpHolds n.c (leNat bs) n.b.toNat then n.next else n.alt }))
    ∧ (kind = 5 → p.pkts = [] → ∃ v, exec (.graphNodeEnd pno tr) s = .next v ∧ v.cores = s.cores
        ∧ (t.st = 2 → t.slot ≠ 255 → run v = none ∧ (v.trig pno tr).st = 1 ∧ (v.trig pno tr).runs = t.runs + 1)
        ∧ (t.st = 3 → ∀ y2, p.graphs.look t.slot = some y2 → t.slot ≠ 255 → (v.trig pno tr).st = 2
            ∧ (v.trig pno tr).runs = t.runs + 1 ∧ run v = some ⟨t.slot, y2.entry, [], [], false⟩)))
  ∧ (∀ (s h : State) (pno q : Nat) (k : Pkt) (p : Part), s.nextPacket pno q = some (k, h) → k.type = 3 →
      h.goodPacket pno k = true → bit (k.w 1) 16 = false → h.parts.look pno = some p → ∃ u : State,
        exec (.triggerBind pno q) s = .next ((u.headUp pno k.q 1).complete pno k 0 0)
        ∧ (u.trig pno (bits (k.w 1) 5 0)).slot = bits (k.w 1) 15 8 ∧ u.cores = h.cores)
  ∧ (∀ (s : State) (c sl n pno : Nat) (u : Thread) (y : GSlot), s.thread? c sl = some u → s.corePart c = some pno → n < 64 →
      u.prog.released = false → u.rel = none → u.unack = 0 → u.touched = [] → (s.core c).sbuf = [] →
      (s.trig pno n).st = 1 → (s.trig pno n).slot ≠ 255 → (s.parts.look pno).isSome = true →
      (s.part pno).graphs.look (s.trig pno n).slot = some y → ∃ t, exec (.trigWrite c sl n) s = .next t
        ∧ (t.trig pno n).st = 2 ∧ (t.trig pno n).run = some ⟨(s.trig pno n).slot, y.entry, [], [], false⟩)
  ∧ (∀ (s : State) (r : RemLaunch), (s.partOfTsid r.dtsid = none → exec (.remoteLaunchRequest r) s = .next (s.depart r.sdev none (.lane r.id r.sdev 1)))
      ∧ (∀ pno, s.partOfTsid r.dtsid = some pno → (s.part pno).st = 1 →
          let g := if (s.part pno).rltn = 0 then s else s.rltMet pno r 0 (s.part pno).rltn
          let n := s.rltCode pno r
          (n = 0 → (g.parts.look pno).isSome = true → ∃ t, exec (.remoteLaunchRequest r) s = .next t
            ∧ t.out = (g.depart r.sdev none (.lane r.id r.sdev 0)).out
            ∧ (t.part pno).lane = (g.part pno).lane ++ [⟨r.id, r.sdev, padTo 128 r.lrec⟩] ∧ t.cores = g.cores)
          ∧ (n ≠ 0 → n ≠ 6 → exec (.remoteLaunchRequest r) s = .next ((g.checkRecord pno n 0).depart r.sdev none (.lane r.id r.sdev n)))
          ∧ (n = 6 → exec (.remoteLaunchRequest r) s =
              .next (((g.lrecMet pno (g.checkLrec pno r.lrec true)).checkRecord pno 6 0).depart r.sdev none (.lane r.id r.sdev 6)))))
  ∧ (∀ (s : State) (pno : Nat) (e : LaneEntry) (rest : List LaneEntry), (s.part pno).lane = e :: rest → (s.part pno).st = 1 →
      s.held = false → (s.part pno).launches = [] →
      (∀ l u, s.checkLrec pno e.lrec true = .ok l u → exec (.remoteLaneStart pno) s = .next (u.addLaunch pno l (.remote e.id e.sdev)).2)
      ∧ ((∀ l u, s.checkLrec pno e.lrec true ≠ .ok l u) → exec (.remoteLaneStart pno) s =
          .next ((((s.lrecMet pno (s.checkLrec pno e.lrec true)).modPart pno fun p => { p with lane := rest }).checkRecord pno 6 0).depart e.sdev none
            (.report e.id e.sdev (.refused 6)))))
  ∧ (∀ (s : State) (id pno : Nat) (k : Pkt) (ok : Bool), s.remotePkt id = some (pno, k, ok) →
      (s.launchHears k = true → (∀ n, exec (.remoteLaunchResult id (.done n)) s = .next (s.complete pno k 0 n))
        ∧ exec (.remoteLaunchResult id .abort) s = .next (s.complete pno k 3 0)
        ∧ (∀ n, exec (.remoteLaunchResult id (.refused n)) s = .next (s.complete pno k 6 n)))
      ∧ (s.launchHears k = false → exec (.acceptanceReply id) s = .next s ∧ ∀ r, exec (.remoteLaunchResult id r) s = .next s)
      ∧ (ok = false → k.tstart + 2 ^ 22 ≤ s.fab → s.launchHears k = false)
      ∧ (s.upPorts (bits (k.w 2) 9 0) = [] → (∀ b, k.st ≠ .remote id b 16) → s.launchHears k = false)
      ∧ (ok = true → exec (.remoteLaunchTimeout id) s = .next (s.complete pno k 7 0))
      ∧ (ok = false → exec (.remoteLaunchTimeout id) s = .next ((s.pass (Config.clkAt (k.tstart + 2 ^ 22))).complete pno k 7 0))
      ∧ (s.launchHears k = true → ∃ t, exec (.acceptanceReply id) s = .next t ∧ t.cores = s.cores
          ∧ ∀ p, s.parts.look pno = some p → ∃ r, t.parts.look pno = some r ∧ r.pkts.length = p.pkts.length
            ∧ ∀ o ∈ r.pkts, ∀ b n, o.st = .remote id b n → b = true))

/-- A policy loads through DPLOAD and its check: rejected with its code, or in force with its levels and measured into
the partition's register; the operator reads a counter exactly at level 3, as a power of two at level 2 and as 0
below; a debug stop that the level grants stops every thread of its target and is answered 4,096 core cycles later,
granted or not; and an interval's end clears what was gathered (R47 to R53). The throttles read as a count (log
entry 112), the intervals' origin (log entry 119) and a stop that the operator cannot take back (DEDUCED, log entry
80) are the model's choices. -/
def Obligations.PoliciesAndTheOperator : Prop :=
  (∀ (s : State) (c sl pno : Nat) (v : Word) (u : Thread) (p : Part), s.thread? c sl = some u → 1 ≤ u.pl → s.corePart c = some pno →
      s.parts.look pno = some p → ∃ t q, exec (.dploadWrite c sl v) s = .next t ∧ t.parts.look pno = some q ∧ t.cores = s.cores
        ∧ q.policy = p.policy ∧ (p.dpState ≠ 1 → q.dpState = 1 ∧ q.dpAddr = v) ∧ (p.dpState = 1 → q = p))
  ∧ (∀ (s : State) (pno : Nat) (p : Part), s.parts.look pno = some p → p.dpState = 1 →
      (∀ code u, s.checkPolicy pno = .error (code, u) → (u.parts.look pno).isSome = true → ∃ t q, exec (.policyCheckDone pno) s = .next t ∧ t.parts.look pno = some q
        ∧ q.dpState = 3 ∧ q.dpCode = code ∧ q.policy = p.policy ∧ q.dpSeq = p.dpSeq ∧ t.meas = u.meas)
      ∧ (∀ pol bytes u, s.checkPolicy pno = .ok (pol, bytes, u) → (u.parts.look pno).isSome = true →
        ∃ t q, exec (.policyCheckDone pno) s = .next t ∧ t.parts.look pno = some q ∧ q.dpState = 2 ∧ q.dpCode = 0
          ∧ q.policy = some pol ∧ q.dpSeq = pol.seq ∧ t.measOf (16 + pno) = sha256 (u.measOf (16 + pno) ++ sha256 bytes)))
  ∧ (∀ (s : State) (pno : Nat) (p : Part), s.parts.look pno = some p → p.st = 1 →
      let reads := fun (q : DiscQuery) (n : Nat) => exec (.operatorDisclosureRead pno q) s = .next (s.say (.disclosed n))
      (∀ c i, s.corePart c = some pno → let n := (s.core c).ctrs.lookD i 0
        reads (.coreCounter c i) (if p.level 1 = 3 then n else if p.level 1 = 2 then floorPow2 n else 0))
      ∧ (∀ c i, s.corePart c ≠ some pno → reads (.coreCounter c i) 0)
      ∧ (∀ q, let n := (p.queues.lookD q Queue.zero).head;
          reads (.queueHead q) (if p.level 1 = 3 then n else if p.level 1 = 2 then floorPow2 n else 0))
      ∧ (let n := s.hostCounts.lookD p.tsid 0;
          reads .hostLinkCount (if p.level 1 = 3 then n else if p.level 1 = 2 then floorPow2 n else 0))
      ∧ (∀ c sl a, p.level 6 ≠ 3 → reads (.stopReg c sl a) 0)
      ∧ reads .partState 1 ∧ reads .corrected p.corrected ∧ reads .uncorrectable p.uncorrected ∧ reads .fatalFaults p.fatalsShown
      ∧ reads .throttles s.powerEvents ∧ reads .trips s.trips)
  ∧ (∀ (s : State) (pno : Nat) (target : DebugTarget) (p : Part), s.parts.look pno = some p → Quiet s →
      ∃ t, exec (.operatorDebugStop pno target) s = .next t ∧ t.opstops = s.opstops ++ [⟨pno, target, s.clk + 4096, p.grantsStop target⟩]
        ∧ (p.grantsStop target = false → t.cores = s.cores)
        ∧ (∀ c sl u, p.grantsStop target = true → (c, sl) ∈ s.stopTargets pno target → s.thread? c sl = some u →
            t.thread? c sl = some { u with dbg := true })
        ∧ (p.grantsStop .whole = true → target = .whole → ∀ c, s.corePart c = some pno → s.parts.look pno = some p →
            t.opHalted c = true ∧ (∀ e ∈ (t.core c).displaced, e.1.dbg = true) ∧ (∀ u ∈ (t.core c).saved, u.dbg = true)
            ∧ ∀ l win sl w v, t.makeThread c l win = some (sl, w) → w.thread? c sl = some v → v.dbg = true))
  ∧ (∀ (s : State) (o : OpStop) (rest : List OpStop), s.opstops = o :: rest → Quiet s → exec .debugStopAck s =
      .next { s with clk := max s.clk o.at', opstops := rest, out := s.out ++ [.stop o.granted] })
  ∧ (∀ (s : State) (pno : Nat) (p : Part), s.parts.look pno = some p → ∃ t, exec (.disclosureIntervalEnd pno) s = .next t
      ∧ ∀ q, t.parts.look pno = some q → q.gather = [] ∧ q.fatalsShown = q.fatals ∧ p.intervalAt + p.interval ≤ q.intervalAt)

/-- A tick counts, installs a pending layer table with an empty request queue and the pending bindings of heads, which
start a new run of frames; at a head's sample point its frame number rises and a frame goes to its encoder with the
encoder's KEY taken; a frame that is encoded leaves the list, and its record moves EWP on or counts as dropped; the
composite blends front to back, so what lies under an opaque pixel does not show; KEY is set without changing QP
(R75, R79 to R85, R91 to R94). FRAME 1 for the first frame of a run, with KEY and QP taken at the sample point
(DEDUCED, log entry 100), and BT.709 with its rounding (PRESUMED and DESIGN CHOICE, log entry 120) are the model's
choices. -/
def Obligations.FramesAndEncoders : Prop :=
  (∀ (s : State) (pno : Nat) (p : Part), s.parts = [(pno, p)] → p.pkts = [] →
      (p.rink.heads.all fun e => e.2.bound.bind.isNone) = true →
      ∃ t q, exec .frameTick s = .next t ∧ t.tick = s.tick + 1 ∧ t.parts = [(pno, q)] ∧ q.rink.pending = none
        ∧ q.rink.table = (match p.rink.pending with | some x => some x | none => p.rink.table)
        ∧ q.rink.queue = (if p.rink.pending.isSome then [] else p.rink.queue) ∧ q.rink.samples = p.rink.samples
        ∧ t.cores = s.cores ∧ t.dram = s.dram)
  ∧ (∀ (h : Head), (∀ b, h.pendBind = some (some b) → h.bound = { h with bind := some b, pendBind := none, frame := 0, first := true })
      ∧ (h.pendBind = some none → h.bound = { h with bind := none, pendBind := none }) ∧ (h.pendBind = none → h.bound = h))
  ∧ (∀ (s : State) (pno h : Nat) (b : HeadBind) (p : Part), s.parts.look pno = some p → p.rink.table = none →
      let hd := p.rink.heads.lookD h Head.zero
      let en := p.rink.encs.lookD b.enc Enc.zero
      ∃ q f, (s.samplePoint pno h b).parts.look pno = some q ∧ q.rink.samples = p.rink.samples ++ [f] ∧ f.head = h ∧ f.bind = b
        ∧ f.frame = (hd.frame + 1) % 2 ^ 32 ∧ f.qp = en.qp ∧ f.pixels = []
        ∧ f.key = (hd.first || decide (f.frame % 256 = 0) || en.key)
        ∧ (q.rink.heads.lookD h Head.zero).frame = f.frame ∧ (q.rink.encs.lookD b.enc Enc.zero).key = false)
  ∧ (∀ (acc : List Nat) (f : Frag) (r g b a : Nat), acc = [r, g, b, a] → r ≤ 255 → g ≤ 255 → b ≤ 255 →
      (a = 255 → blend acc f = acc)
      ∧ (∀ x y z w : Byte, f.rgba = [x, y, z, w] → blend [0, 0, 0, 0] f = [x.toNat, y.toNat, z.toNat, w.toNat]))
  ∧ (∀ (s : State) (pno : Nat) (p : Part) (f : Sample) (rest : List Sample) (more : KMap Part), s.held = false →
      s.parts = (pno, p) :: more → p.rink.samples = f :: rest → ∃ t, exec .frameEncode s = .next t
        ∧ t = (s.encode pno f).modPart pno fun p => { p with rink := { p.rink with samples := p.rink.samples.drop 1 } })
  ∧ (∀ (s : State) (pno : Nat) (p : Part) (f : Sample), s.parts.look pno = some p →
      let e := p.rink.encs.lookD f.bind.enc Enc.zero
      let qp := if f.bind.codec = 1 then min f.qp 51 else f.qp
      let bs := frameRecord f.frame f.key (Config.bitstream f.bind.codec qp f.key (if f.key then Picture.none else e.prev)
        (f.bind.picture f.pixels))
      let enc := fun (t : State) => (t.part pno).rink.encs.lookD f.bind.enc Enc.zero
      bs.length % 64 = 0
      ∧ (f.bind.len < bs.length → (enc (s.encode pno f)).edrop = (e.edrop + 1) % 2 ^ 32
          ∧ (enc (s.encode pno f)).ewp = e.ewp ∧ (s.encode pno f).dram = s.dram)
      ∧ (bs.length ≤ f.bind.len → match s.ringStore pno f.bind.buf.toNat f.bind.len e.ewp bs with
          | .ok t => (t.parts.look pno).isSome = true → (enc (s.encode pno f)).ewp = (e.ewp + bs.length) % 2 ^ 64
            ∧ (enc (s.encode pno f)).edrop = e.edrop ∧ (s.encode pno f).dram = t.dram
          | .error _ => p.oen = false → s.olog.en = false → (enc (s.encode pno f)).edrop = (e.edrop + 1) % 2 ^ 32
            ∧ (enc (s.encode pno f)).ewp = e.ewp))
  ∧ (∀ (b : HeadBind) (px : KMap Nat) (a : Nat), (b.picture px).width = (if b.mode240 then 3840 else 7680)
      ∧ (b.picture px).height = (if b.mode240 then 2160 else 4320)
      ∧ (b.picture [(a, 0xFFFFFF)]).luma = [(a, if b.codec = 1 then 940 else 235)])
  ∧ (∀ (s : State) (c sl n pno : Nat) (u : Thread), s.thread? c sl = some u → 1 ≤ u.pl → s.corePart c = some pno →
      (s.parts.look pno).isSome = true → n < 32 → bit (s.part pno).encm n = true →
      ((s.part pno).rink.encs.lookD n Enc.zero).qp < 256 → ∃ t, exec (.ecfgKeySet c sl n) s = .next t
        ∧ ((t.part pno).rink.encs.lookD n Enc.zero).key = true
        ∧ ((t.part pno).rink.encs.lookD n Enc.zero).qp = ((s.part pno).rink.encs.lookD n Enc.zero).qp ∧ t.cores = s.cores)

/-- A frame goes to a thread in WFW, or to a new one: registers 0 to 7 take its words, PC its word 0, TJOIN its word 1
and the level state its TAG, and the thread runs. A core with idle threads only asks victims ring by ring, an entry
comes back by a reply, and a round without one starts again 256 cycles later (R98, R104 to R110). -/
def Obligations.FramesReachThreads : Prop :=
  (∀ (s : State) (c sl pno : Nat) (f : Frame) (sc : Scope) (l : Launch) (u : Thread), s.corePart c = some pno → Quiet s →
      s.launch? pno f.lid = some l → l.fused = none → bit (s.core c).trcfg 2 = false → s.thread? c sl = some u →
      ∃ v, (s.deliver c sl f sc).thread? c sl = some v ∧ v.pc = f.words.getD 0 0 ∧ v.tjoin = f.words.getD 1 0 ∧ v.tag = f.tag
        ∧ v.idle = false ∧ v.counts = true ∧ v.mesh = f.mesh ∧ v.lid = u.lid ∧ v.sth = u.sth ∧ v.preds = u.preds
        ∧ (∀ i < 8, ((s.deliver c sl f sc).core c).greg v i = f.words.getD i 0)
        ∧ (∀ i, 8 ≤ i → ((s.deliver c sl f sc).core c).greg v i = (s.core c).greg u i)
        ∧ (∀ a, ((s.deliver c sl f sc).core c).lmem.get a = (s.core c).lmem.get a) ∧ (s.deliver c sl f sc).dram = s.dram)
  ∧ (∀ (s : State) (c sl pno : Nat) (l : Launch) (t : Thread) (e : DqEntry) (u : State), s.thread? c sl = some t →
      s.corePart c = some pno → s.launch? pno t.lid = some l → s.idleSlot c t.lid ≠ none → t.waits t.lid = true →
      (s.core c).zonesFree l = true → s.inWfw c t.lid sl t = true → s.dqTake c pno l (some t.sth) = .entry e u →
      exec (.frameDelivery c sl) s = .next (u.deliver c sl e.frame (l.tagScope e.tag)))
  ∧ (∀ (s : State) (c sl pno : Nat) (l : Launch) (t : Thread) (f : Coming), s.thread? c sl = some t → s.corePart c = some pno →
      s.launch? pno t.lid = some l → (s.core c).comingTo sl = some f → s.takesFrames c = true →
      exec (.frameDelivery c sl) s = .next ((s.modCore c fun x => { x with coming := x.coming.erase f }).deliver c sl f.frame
        (l.comingScope f)))
  ∧ (∀ (s u : State) (c pno lid : Nat) (l : Launch) (e : DqEntry), s.corePart c = some pno → s.launch? pno lid = some l →
      ((s.core c).threads.any fun x => s.inWfw c lid x.1 x.2) = false → (s.newThread c l).isSome = true →
      s.dqTake c pno l none = .entry e u → ∀ sl w, u.newThread c l = some (sl, w) →
      exec (.threadCreate c lid) s = .next (w.deliver c sl e.frame (l.tagScope e.tag)))
  ∧ (∀ (s : State) (c pno lid : Nat) (l : Launch), s.corePart c = some pno → s.launch? pno lid = some l → s.stealsFor c l = true →
      ∃ t, exec (.stealRequest c lid) s = .next t ∧ (t.core c).regs = (s.core c).regs ∧ t.dram = s.dram
        ∧ (s.victims c pno l = [] → (t.core c).steals.look lid = some (.retry (s.clk + 256)))
        ∧ (∀ v rest, s.victims c pno l = v :: rest → (t.core c).steals.look lid = some (.asked v rest)
            ∧ (t.core c).lastVictim.look (4 * lid + ringOf c v) = some v))
  ∧ (∀ (s : State) (c pno lid v : Nat) (rest : List Nat) (l : Launch), s.corePart c = some pno → s.launch? pno lid = some l →
      (s.core c).steals.look lid = some (.asked v rest) →
      (∀ e u, s.steal v c pno l = .entry e u → ∃ t, exec (.stealServe c lid) s = .next t ∧ (t.core c).steals.look lid = some (.reply e))
      ∧ (s.steal v c pno l = .none → ∃ t, exec (.stealServe c lid) s = .next t
          ∧ (∀ w more, rest = w :: more → (t.core c).steals.look lid = some (.asked w more))
          ∧ (rest = [] → (t.core c).steals.look lid = some (.retry (s.clk + 256)))))
  ∧ (∀ (s : State) (c lid : Nat) (e : DqEntry), (s.core c).steals.look lid = some (.reply e) → (s.core c).cevs = [] →
      ∃ t, exec (.stealReplyArrival c lid) s = .next t ∧ (t.core c).steals.look lid = some (.here e)
        ∧ (t.core c).threads = (s.core c).threads)
  ∧ (∀ (s : State) (c lid n : Nat), (s.core c).steals.look lid = some (.retry n) → Quiet s → exec (.stealRetryTimeout c lid) s =
      exec (.stealRequest c lid) ({ s with clk := max s.clk n }.modCore c fun x => { x with steals := x.steals.del lid }))
  ∧ (∀ (e : DqEntry) (thief : Nat), e.givable thief = true → 2 ≤ tagDom e.tag
      ∧ (tagDom e.tag = 2 → clusterOf (tagOrg e.tag) = clusterOf thief) ∧ (tagDom e.tag = 3 → quadOf (tagOrg e.tag) = quadOf thief)
      ∧ (tagDom e.tag = 4 → dieOf (tagOrg e.tag) = dieOf thief))

/-- A rotation boundary is noted and wakes the threads in YIELD; a thread in a slot marked TAKE leaves it with its
registers, and a displaced thread that finds a slot and a window has them back (R119, R120, R364). -/
def Obligations.ThreadsRotate : Prop :=
  (∀ (s : State) (c pno : Nat), s.corePart c = some pno → Quiet s → 
      let u := { s with clk := max s.clk (s.boundaryAt c) }
      ∃ t, exec (.rotationBoundary c) s = .next t
      ∧ (t.core c).lastRot = (if u.rotateAll pno c = u then max (s.boundaryAt c) (u.clk / 32 * 32) else s.boundaryAt c) ∧ t.clk = u.clk
      ∧ (t.core c).regs = (s.core c).regs ∧ (t.core c).lmem = (s.core c).lmem ∧ t.dram = s.dram
      ∧ ∀ sl u n, s.thread? c sl = some u → s.parkedFor c sl = some (.yield n) → n ≤ t.clk → u.dbg = false → u.stopped = [] →
          (t.thread? c sl).map (fun v => (v.park, v.prog.finished)) = some (none, true))
  ∧ (∀ (s : State) (c sl : Nat) (u : Thread), s.thread? c sl = some u → Quiet s → s.passes c sl u = true → u.idle = false →
      ∃ t kept, exec (.threadDisplace c sl) s = .next t ∧ t.thread? c sl = none
        ∧ (t.core c).displaced = (s.core c).displaced ++ [(kept, (List.range u.lim).map fun i => (s.core c).greg u i)]
        ∧ kept.pc = u.pc ∧ kept.sth = u.sth ∧ kept.preds = u.preds ∧ kept.tag = u.tag ∧ kept.park = u.park ∧ kept.unack = u.unack
        ∧ (∀ m, m ≠ sl → t.thread? c m = s.thread? c m))
  ∧ (∀ (s : State) (c sl : Nat) (u : Thread), s.thread? c sl = some u → s.passes c sl u = true → u.idle = true →
      (s.core c).comingTo sl = none → exec (.threadDisplace c sl) s = .next (s.endThread c sl))
  ∧ (∀ (s w : State) (c sl : Nat) (l : Launch) (u : Thread) (ws : List Word), bit (s.core c).slcfg 0 = false →
      s.seat c l u ws = some (sl, w) → ∃ v, w.thread? c sl = some v ∧ s.thread? c sl = none ∧ v.pc = u.pc ∧ v.preds = u.preds
        ∧ v.lid = u.lid ∧ v.sth = u.sth ∧ v.lim = u.lim ∧ v.base + v.lim ≤ 2048
        ∧ (∀ i < u.lim, (w.core c).greg v i = ws.getD i 0) ∧ ∀ m, m ≠ sl → w.thread? c m = s.thread? c m)
  ∧ (∀ (s u : State) (c pno : Nat), s.corePart c = some pno → s.takesFrames c = true → s.reseat c pno = some u →
      exec (.displacedResume c) s = .next (u.resumeSettle c))

/-- A cluster's dispenser, work graph and payload slots bind, deliver and unbind: a bound ring starts empty, a frame is
delivered from its head and HEAD moves on, TAIL moves within the ring; a batch launches when its time is up and is
delivered as entry, join counter, handle, count and node, the frames of a mesh group one by one (R123 to R130). That
a cluster's rotation starts after its core 0 (log entry 64) and that a woken slot stands at the head of the agenda
(log entry 21) are the model's choices. Bound channels: a batch leaves 64 cycles after its first entry with as many
entries as there are credits, is pushed in order at the true queue and acknowledged, and its credits come back as it
is popped; a parked reader or writer of a channel wakes when what it waits for is there (R152 to R155, R365). A
batch delivered and acknowledged in one event, which delivers what fits, is the model's choice (log entry 26), and
so is the woken slot at the head of the agenda (log entry 21). -/
def Obligations.ClusterDeliveriesAndBoundChannels : Prop :=
  ((∀ (s : State) (c sl pno : Nat) (v : Word) (u : Thread), s.thread? c sl = some u → 1 ≤ u.pl → s.corePart c = some pno →
       let cl := clusterOf c
       let d := (s.cluster cl).disp
       let sz := bits v.toNat 12 8
       let after := fun (e : Sys2Proof.Instr) (f : Disp → Prop) => ∃ t, exec e s = .next t ∧ f (t.cluster cl).disp ∧ t.cores = s.cores
         ∧ ∀ m, m ≠ cl → t.cluster m = s.cluster m
       (bit v.toNat 0 = true → d.en = false → 4 ≤ sz → sz ≤ 12 → d.base.toNat % (64 * 2 ^ sz) = 0 → after (.drcfgBind c sl v)
         fun e => e.en = true ∧ e.head = 0 ∧ e.tail = 0 ∧ e.lid = u.lid ∧ e.part = pno ∧ e.tag = u.tag ∧ e.log2sz = sz ∧ e.base = d.base)
       ∧ (bit v.toNat 0 = false → d.en = true → d.head = d.tail → after (.drcfgUnbind c sl v) fun e => e.en = false ∧ e.lid = 0)
       ∧ (bit v.toNat 0 = false → d.en = true → d.head ≠ d.tail → after (.drcfgUnbind c sl v)
           fun e => e.en = true ∧ e.closing = true ∧ e.head = d.head)
       ∧ (u.prog.released = false → u.rel = none → u.unack = 0 → u.touched = [] → (s.core c).sbuf = [] → d.en = true →
           (v.toNat % 2 ^ 32 + 2 ^ 32 - d.head) % 2 ^ 32 ≤ 2 ^ d.log2sz → ∃ t, exec (.dtailWrite c sl v) s = .next t
             ∧ (d.closing = false → (t.cluster cl).disp = { d with tail := v.toNat % 2 ^ 32 })
             ∧ (d.closing = true → d.head = v.toNat % 2 ^ 32 → (t.cluster cl).disp.en = false)))
   ∧ (∀ (s : State) (c sl kind : Nat) (l : Launch) (f : Frame), (∃ g : State, g.dram = s.dram
       ∧ g.cores = ((clusterCores (clusterOf c)).foldl (fun (u : State) d => u.stir d) s).cores
       ∧ s.setOut c sl l kind f = g.deliver c sl f (l.comingScope ⟨kind, sl, f⟩))
     ∨ ((s.setOut c sl l kind f).core c).coming = (s.core c).coming ++ [⟨kind, sl, f⟩])
   ∧ (∀ (s u w : State) (cl c sl : Nat) (l : Launch) (bs : List Byte), let d := (s.cluster cl).disp
       s.launch? d.part d.lid = some l → d.en = true → d.head ≠ d.tail → d.parked = none →
       s.placeIn (rotation cl d.last) l false = some (c, sl, u) →
       u.unitRead (.cluster cl) d.part (l.pl = 0) (d.base.toNat + 64 * (d.head % 2 ^ d.log2sz)) 64 = .ok (bs, w) →
       ∃ (v g : State), v = (g.setOut c sl l 3 ⟨leWords 8 bs, d.tag, d.lid, none⟩).modDisp cl
           (fun e => { e with head := (d.head + 1) % 2 ^ 32, last := c % 8 }) ∧ g.cores = w.cores
         ∧ exec (.dispenserDeliver cl) s =
             .next (if d.closing = true ∧ (d.head + 1) % 2 ^ 32 = d.tail then v.dispUnbind cl else v))
   ∧ (∀ (s : State) (c sl pno : Nat) (v : Word) (u : Thread), s.thread? c sl = some u → 1 ≤ u.pl → s.corePart c = some pno →
       let cl := clusterOf c
       (v ≠ 0 → ∀ code w, (s.acquireOn c .clus).wgRead pno v.toNat cl = .error (code, w) →
           ∃ t, exec (.wgdaBind c sl v) s = .next t ∧ (t.cluster cl).wgcode = code
         ∧ (t.cluster cl).wg = (s.cluster cl).wg ∧ (t.cluster cl).wgstate = if (s.cluster cl).wg.isSome then 1 else 3)
       ∧ (v ≠ 0 → ∀ hdr nodes w, (s.acquireOn c .clus).wgRead pno v.toNat cl = .ok (hdr, nodes, w) → ∃ t y, exec (.wgdaBind c sl v) s = .next t
           ∧ (t.cluster cl).wg = some y ∧ (t.cluster cl).wgstate = 1 ∧ (t.cluster cl).wgcode = 0 ∧ y.addr = v ∧ y.lid = u.lid
           ∧ y.part = pno ∧ y.p = dfield hdr 10 2 ∧ y.nodes.length = dfield hdr 8 2 ∧ y.alloc = [] ∧ y.batches = [])
       ∧ (∀ y, (s.cluster cl).wg = some y → y.lid = u.lid → y.part = pno → y.alloc = [] → (∀ n ∈ y.nodes, n.pend = []) →
           y.batches = [] → s.allocators cl = [] → ∃ t, exec (.wgdaUnbind c sl) s = .next t ∧ (t.cluster cl).wg = none
             ∧ (t.cluster cl).wgstate = 0 ∧ t.cores = s.cores))
   ∧ (∀ (s : State) (cl k : Nat) (y : WGraph) (n : WgNode), (s.cluster cl).wg = some y → y.nodes[k]? = some n → n.pend ≠ [] → Quiet s →
       ∃ t z, exec (.wgBatchTimeout cl k) s = .next t ∧ t.clk = max s.clk (n.t0 + n.t) ∧ (t.cluster cl).wg = some z
         ∧ z.batches = y.batches ++ [⟨k, y.freeHandle, n.pend, n.pend, false⟩] ∧ (z.nodes[k]?).map WgNode.pend = some []
         ∧ t.cores = s.cores)
   ∧ (∀ (s u : State) (cl c sl : Nat) (y : WGraph) (b : Batch) (l : Launch) (n : WgNode), (s.cluster cl).wg = some y →
       y.ready = some b → s.launch? y.part y.lid = some l → y.nodes[b.node]? = some n →
       s.placeIn (rotation cl (s.cluster cl).wgLast) l ((s.cluster cl).dispServes y.part y.lid) = some (c, sl, u) →
       exec (.wgBatchDeliver cl) s = .next (((u.setOut c sl l 4 ⟨[n.entry, n.join, Word.ofNat b.handle, Word.ofNat b.recs.length,
           Word.ofNat b.node, 0, 0, 0], y.tag, y.lid, none⟩).modGraph cl (fun g =>
             { g with batches := markDelivered g.batches })).modCluster cl fun x => { x with wgLast := c % 8 }))
   ∧ (∀ (s u : State) (cl c sl n : Nat) (q : PaySlot) (l : Launch), (s.cluster cl).payReady = some (n, q) →
       s.launch? q.part q.lid = some l →
       s.placeIn (rotation cl (s.cluster cl).payLast) l ((s.cluster cl).dispServes q.part q.lid
         || ((s.cluster cl).wgServes q.part q.lid).isSome) = some (c, sl, u) → u.cluster cl = s.cluster cl →
       exec (.payloadFrameDeliver cl) s = .next ((u.setOut c sl l 5 ⟨[q.entry, 0, (s.cluster cl).payb + Word.ofNat (16384 * n),
           Word.ofNat q.next, Word.ofNat q.n, Word.ofNat n, 0, 0], q.tag, q.lid, some (cl, n)⟩).modCluster cl fun x =>
             match x.pays.look n with
             | some q => { x with pays := x.pays.put n { q with next := q.next + 1 }, payLast := c % 8 }
             | none => x)))
  ∧ ((∀ (s : State) (c ch : Nat) (b : Bind), let q := (s.core c).chan ch
         q.bind = some b → q.vals ≠ [] → q.due = false → Quiet s → b.dev = 1023 → 0 < b.credits →
         let n := min (min q.vals.length 16) b.credits
         ∃ t, exec (.proxyBatchTimeout c ch) s = .next t ∧ t.clk = max s.clk (q.since + 64)
           ∧ ((t.core c).chan ch).vals = q.vals.drop n
           ∧ (((t.core c).chan ch).bind).map (fun x => (x.credits, x.out)) = some (b.credits - n, b.out + n)
           ∧ t.flights = s.flights ++ [⟨s.nextId, 16, c, 0, 0, .proxy b.core b.chan (q.vals.take n) ch b.gen false⟩])
     ∧ (∀ (s : State) (id port c sth lid dst ch from' gen : Nat) (v : Word) (by' : Nat) (here : Bool),
         s.flights = [⟨id, port, c, sth, lid, .proxy dst ch [(v, by')] from' gen here⟩] → ((s.core dst).chan ch).bind = none →
         (((s.core dst).chan ch).vals.length < 16 → s.nextId ≠ id → ∃ t, exec (.proxyDelivery id) s = .next t
           ∧ ((t.core dst).chan ch).vals.map Prod.fst = ((s.core dst).chan ch).vals.map Prod.fst ++ [v]
           ∧ t.flights = [⟨s.nextId, 16, c, by', 0, .ack 1⟩] ∧ (t.core dst).regs = (s.core dst).regs)
         ∧ (((s.core dst).chan ch).vals.length = 16 → exec (.proxyDelivery id) s =
             .next { s with flights := [⟨id, port, c, sth, lid, .proxy dst ch [(v, by')] from' gen true⟩] }))
     ∧ (∀ (s : State) (f : Sent) (c ch gen : Nat) (b : Bind), s.flight? f.id = some f → f.what = .credit c ch gen →
         ((s.core c).chan ch).bind = some b → b.gen = gen → ((s.core c).chan ch).due = false →
         ((s.before f.id).any fun g => g.ordTo f.core c) = false →
         ∃ t, exec (.proxyCreditReturn f.id) s = .next t ∧ t.flight? f.id = none ∧ ((t.core c).chan ch).vals = ((s.core c).chan ch).vals
           ∧ (((t.core c).chan ch).bind).map (fun x => (x.credits, x.out)) = some (b.credits + 1, b.out - 1))
     ∧ (∀ (s : State) (c sl stamp since : Nat) (reads : List Nat) (write : Option Nat) (peek : Bool) (u : Thread), Quiet s →
         s.thread? c sl = some u → u.park = some ⟨.chan reads write peek, stamp, since⟩ → u.prog.handed = none →
         (chansReady (s.core c) sl (some stamp) reads write peek = true → ∃ t, exec (.channelWake c sl) s = .next t ∧ Woken s t c sl)
         ∧ (chansReady (s.core c) sl (some stamp) reads write peek = false → exec (.channelWake c sl) s = .next s)))

/-- A parked thread wakes when what it waits for has happened, and only then: a full cell, a word, a k register's value
in sight, a cycle, the stop of every thread, the dies' reports, a job's end, room in a ring, a request, a payload
slot (R104, R130, R167, R181, R222, R341, R359, R364, R389, R428). That a woken thread issues at once, at the head
of the agenda, is the model's choice (log entry 21). -/
def Obligations.ParkedThreadsWake : Prop :=
  ∀ (s : State) (c sl : Nat), Quiet s →
    let wakes := fun (e : Sys2Proof.Instr) => ∃ t, exec e s = .next t ∧ Woken s t c sl ∧ t.clk = s.clk
    let wakesAt := fun (e : Sys2Proof.Instr) (n : Nat) => ∃ t, exec e s = .next t ∧ Woken s t c sl ∧ t.clk = max s.clk n
    (∀ ea size cmp ref w, w ≠ .join → s.parkedFor c sl = some (.word ea size cmp ref .packet w) → wakes (.watchWake c sl))
    ∧ (∀ ea size cmp ref, s.parkedFor c sl = some (.word ea size cmp ref .packet .join) → wakes (.joinwWake c sl))
    ∧ (∀ ea size cmp ref n w, w ≠ .join → s.parkedFor c sl = some (.word ea size cmp ref (.poll n) w) → wakesAt (.watchPoll c sl) n)
    ∧ (∀ ea size cmp ref n, s.parkedFor c sl = some (.word ea size cmp ref (.poll n) .join) → wakesAt (.joinwWake c sl) n)
    ∧ (∀ k cmp ref, s.parkedFor c sl = some (.kwait k cmp ref) →
        let h := (s.core c).kregs.lookD k []
        let now := (kStands h none s.clk).any fun v => wcmpHolds cmp 64 v.toNat ref.toNat
        (now = true → wakes (.kwaitWake c sl))
        ∧ (∀ e rest, h = e :: rest → now = false → s.clk < e.1 + 8 →
            (wcmpHolds cmp 64 e.2.toNat ref.toNat = true → wakesAt (.kwaitWake c sl) (e.1 + 8))
            ∧ (wcmpHolds cmp 64 e.2.toNat ref.toNat = false → exec (.kwaitWake c sl) s = .next s)))
    ∧ (∀ n, s.parkedFor c sl = some (.until n) → s.halted c sl = false → wakesAt (.parkExpire c sl) n)
    ∧ (∀ n, s.parkedFor c sl = some (.until n) → s.halted c sl = true → exec (.parkExpire c sl) s = .next s)
    ∧ (∀ n, s.parkedFor c sl = some (.tlbinv n) → wakesAt (.tlbinvComplete c sl) n)
    ∧ (∀ eng seq, s.parkedFor c sl = some (.job eng seq) →
        ((∀ j ∈ (s.cluster (clusterOf c)).queue eng, j.seq ≠ seq) → wakes (.waitjWake c sl))
        ∧ ((∃ j ∈ (s.cluster (clusterOf c)).queue eng, j.seq = seq) → exec (.waitjWake c sl) s = .next s))
    ∧ (∀ pno, s.parkedFor c sl = some .spawnRing → s.corePart c = some pno → (s.core c).deque.length < 256 →
        wakes (.spawnRingWake c sl))
    ∧ (∀ cell, s.parkedFor c sl = some (.ldf cell false) → cell ∉ (s.core c).full → exec (.ldfWake c sl) s = .next s)
    ∧ (∀ cell u, (s.core c).threads = [(sl, u)] → s.parkedFor c sl = some (.ldf cell false) → cell ∈ (s.core c).full →
        wakes (.ldfWake c sl))
    ∧ (∀ sc u, s.thread? c sl = some u → u.park.map Park.why = some (.stopw sc) → u.stopped = [] →
        (s.stopAll ((s.corePart c).getD 0) c u.sth sc).stopDone (c, u.sth, sc.code) = true → ∃ t v, exec (.stopwComplete c sl) s = .next t ∧ t.thread? c sl = some v
          ∧ v.park = none ∧ v.prog.finished = true ∧ v.pc = u.pc ∧ t.agenda = .slot c sl :: s.agenda ∧ t.dram = s.dram)
    ∧ (∀ sc u, s.thread? c sl = some u → u.park.map Park.why = some (.stopw sc) →
        (s.stopAll ((s.corePart c).getD 0) c u.sth sc).stopDone (c, u.sth, sc.code) = false →
        exec (.stopwComplete c sl) s = .next (s.stopAll ((s.corePart c).getD 0) c u.sth sc))
    ∧ (∀ pno p h rest stamp, s.parts.look pno = some p → p.rink.queue = h :: rest →
        s.parkedIn pno (fun w => decide (w = .lreq)) = [(stamp, c, sl)] → (s.thread? c sl).isSome = true → ∃ t,
        exec (.lreqWake pno) s = .next t ∧ Woken s t c sl ∧ (t.part pno).rink.queue = rest
          ∧ (t.thread? c sl).map (fun u => u.prog.handed) = some (some (Word.ofNat h)))
    ∧ (∀ cl n stamp pno u rest, (s.cluster cl).freePay = some n → s.payWaiters cl = (stamp, c, sl) :: rest → s.thread? c sl = some u →
        s.corePart c = some pno → ∃ t, exec (.payaWake cl) s = .next t ∧ Woken s t c sl
          ∧ ((t.cluster cl).pays.look n).map (fun q => (q.st, q.lid, q.part)) = some (1, u.lid, pno)
          ∧ (t.thread? c sl).map (fun u => u.prog.handed) = some (some ((s.cluster cl).payb + Word.ofNat (16384 * n))))

/-- What is on its way gets there: a buffered store drains to its bytes, a reduction is performed at its slice, a store
at another core's port is performed and acknowledged, a release's probe comes back once the thread's stores at the
slice are out; and a core sleeps after 4,096 idle cycles and wakes with what its parity sweep found poisoned (R171,
R175, R176, R180, R206). A store performed and acknowledged in one event (log entry 25) and the woken slot at the
head of the agenda (log entry 21) are the model's choices. -/
def Obligations.FlightsLand : Prop :=
  (∀ (s : State) (c : Nat) (e : SbEntry), (s.core c).sbuf = [e] → s.myReds c e.sth (lineOf e.addr) = [] →
      (∀ v ∈ (s.core c).threads, v.2.rel = none ∧ v.2.park.map Park.why ≠ some .sbFull) →
      exec (.storeBufferDrain c 0) s = .next ((s.modCore c fun x => x.sbDrop e.seq).sliceWrite ((s.corePart c).getD 0) e.addr e.data))
  ∧ (∀ (s : State) (c : Nat) (x : Core) (e : SbEntry), x = (s.core c).sbDrop e.seq → e ∉ x.sbuf)
  ∧ (∀ (s : State) (id po c sth lid ts pa size v : Nat) (op : AtOp), 0 < size →
      s.flights = [⟨id, po, c, sth, lid, .red ts pa size op v⟩] →
      exec (.sliceAtomic id) s = .next (({ s with flights := [⟨id, po, c, sth, lid, .ack 1⟩] }.dropLine c (lineOf pa)).sliceRmw
        ((s.corePart c).getD 0) pa size fun old => amoVal op (8 * size) old v).2)
  ∧ (∀ (s : State) (id po c sth lid d off : Nat) (bs : List Byte) (full : Bool) (sl : Nat) (u : Thread),
      s.flights = [⟨id, po, c, sth, lid, .wstore d off bs full⟩] → Quiet s → (s.core c).threads = [(sl, u)] → u.sth = sth →
      u.park = none → u.rel = none → c ≠ d → ∃ t, exec (.storeAck id) s = .next t ∧ t.flights = []
        ∧ (t.core d).lmem.bytes off bs.length = bs ∧ (∀ a, a < off ∨ off + bs.length ≤ a → (t.core d).lmem.get a = (s.core d).lmem.get a)
        ∧ (full = true → ∀ cell ∈ cellsOf off bs.length, cell ∈ (t.core d).full)
        ∧ (t.thread? c sl).map (fun w => (w.unack, w.pc)) = some (u.unack - 1, u.pc))
  ∧ (∀ (s : State) (id po c sth lid n sl : Nat) (u : Thread), s.flights = [⟨id, po, c, sth, lid, .ack n⟩] → Quiet s →
      (s.core c).threads = [(sl, u)] → u.sth = sth → u.park = none → u.rel = none → ∃ t, exec (.storeAck id) s = .next t
        ∧ t.flights = [] ∧ (t.thread? c sl).map (fun w => w.unack) = some (u.unack - n) ∧ (t.core c).lmem = (s.core c).lmem)
  ∧ (∀ (s : State) (c sl j : Nat) (u : Thread) (r : Rel), Quiet s → (s.core c).threads = [(sl, u)] → u.rel = some r → j ∈ r.probes →
      ((∃ e ∈ (s.core c).sbuf, e.sth = u.sth ∧ e.slice = j) → exec (.releaseProbeEcho c sl j) s = .next s)
      ∧ ((s.core c).sbuf = [] → r.probes = [j] → r.probed = true → r.entries = [] → u.unack = 0 → u.park.map Park.why = some .rel →
          ∃ t, exec (.releaseProbeEcho c sl j) s = .next t ∧ Woken s t c sl
            ∧ (t.thread? c sl).map (fun w => (w.rel, w.touched, w.prog.released)) = some (none, [], true)))
  ∧ (∀ (s : State) (c : Nat), (s.core c).asleep = false → s.coreIdle c = true → Quiet s → ∃ t, exec (.coreSleep c) s = .next t
      ∧ (t.core c).asleep = true ∧ t.clk = max s.clk ((s.core c).idleSince + 4096) ∧ (t.core c).regs = (s.core c).regs)
  ∧ (∀ (s : State) (c : Nat) (failed : List Nat), (s.core c).asleep = true → ∃ t, exec (.coreWake c failed) s = .next t
      ∧ (t.core c).asleep = false ∧ (t.core c).regs = (s.core c).regs
      ∧ (∀ n, n ∈ (t.core c).regPoison ↔ n ∈ (s.core c).regPoison ∨ n ∈ failed ∧ n < 2048)
      ∧ (∀ pno p, s.corePart c = some pno → s.parts.look pno = some p →
          (t.part pno).uncorrected = p.uncorrected + (failed.filter fun n => decide (n < 2048)).length)
      ∧ ∀ sl u, s.thread? c sl = some u → (t.thread? c sl).map (fun v => (v.busy, v.pc)) = some (max u.busy (s.clk + 32), u.pc))

/-- The next entry of a thread is performed whole and leaves the ring: an entry of one segment whose sources can be read
and whose destination can be written stores the lanes that its instruction makes of them (R371 to R381:
element-wise, scanned, reduced, loaded or stored); one whose operands R369 refuses becomes a late fault of its
thread, the entries behind it held; and a thread at a boundary takes the first cause due, at its handler, with TPC
the instruction not yet issued (R249, R252, R254, R366). -/
def Obligations.EntriesPerformAndFault : Prop :=
  (∀ (s u : State) (c sl sth pno : Nat) (e : Entry) (i : VInfo), ringThread (s.core c) sl = some sth →
      nextEntry (s.core c) sth = some e → s.corePart c = some pno → (s.part pno).st = 1 → vinfo e.instr = some i → e.st = .waiting →
      vchecks i e = none →
      let app : Bool := match s.launch? pno e.lid with | some l => decide (l.pl = 0) | none => true
      let left := fun (t : State) => (t.core c).ring = (u.core c).ring.filter (fun o => decide (o.seq ≠ e.seq))
        ∧ (t.core c).lmem = (u.core c).lmem ∧ (t.core c).full = (u.core c).full ∧ (t.core c).regs = (u.core c).regs ∧ t.dram = u.dram
      Quiet u →
      ((i.kind = .red ∨ i.kind = .dot) → s.vreduce c e i = .ok u → ∃ t, exec (.vectorEntryPerform c sl) s = .next t ∧ left t)
      ∧ (i.kind ≠ .red → i.kind ≠ .dot → s.vrun pno c e i app (i.m.cnt.toNat - e.iter) e.iter = .ok u →
          ∃ t, exec (.vectorEntryPerform c sl) s = .next t ∧ left t))
  ∧ (∀ (s u : State) (pno c : Nat) (e : Entry) (i : VInfo) (app : Bool) (a b x : List Lane), e.iter = 0 → i.m.cnt = 1 → Quiet u →
      i.kind ∉ [.ldg, .gath, .stg, .scat, .scan] → let v := s.venv c e i 0
      s.vsources c e i v.kind 0 v.n = .ok (a, b, x) → s.vwrite' c e i.m.rm (e.dstOp i.m) 0 (vlanes v e.instr a b x) = .ok u →
      s.vrun pno c e i app 1 0 = .ok u)
  ∧ (∀ (s u : State) (c sl sth pno : Nat) (e : Entry) (i : VInfo) (a b x : List Lane) (l : Lane), ringThread (s.core c) sl = some sth →
      nextEntry (s.core c) sth = some e → s.corePart c = some pno → (s.part pno).st = 1 → vinfo e.instr = some i → e.st = .waiting →
      vchecks i e = none → e.iter = 0 → i.m.cnt = 1 → Quiet u →
      let app : Bool := match s.launch? pno e.lid with | some l => decide (l.pl = 0) | none => true
      let v := s.venv c e i 0
      let stores := fun (w : State) (l : List Lane) => w.vwrite' c e i.m.rm (e.dstOp i.m) 0 l = .ok u
      let done := ∃ t, exec (.vectorEntryPerform c sl) s = .next t
        ∧ (t.core c).ring = (u.core c).ring.filter (fun o => decide (o.seq ≠ e.seq)) ∧ (t.core c).lmem = (u.core c).lmem
        ∧ (t.core c).full = (u.core c).full ∧ (t.core c).regs = (u.core c).regs ∧ t.dram = u.dram
      (i.kind ∉ [.ldg, .gath, .stg, .scat, .scan, .red, .dot] → s.vsources c e i v.kind 0 v.n = .ok (a, b, x) →
        stores s (vlanes v e.instr a b x) → done)
      ∧ (i.kind = .scan → s.vsources c e i v.kind 0 v.n = .ok (a, b, x) → stores s (scanFrom (v.combine i.m.vx.toNat) none a) → done)
      ∧ (i.kind = .red ∨ i.kind = .dot → s.vtotal c e i 1 0 none = .ok (some l) → stores s [v.round l] → done)
      ∧ (i.kind = .ldg ∨ i.kind = .gath → s.vload pno c e i app 0 = .ok u → done)
      ∧ (i.kind = .stg ∨ i.kind = .scat → s.vstore pno c e i app 0 = .ok u → done))
  ∧ (∀ (s : State) (c sl sth pno : Nat) (e : Entry) (i : VInfo) (er : SegErr) (u : Thread), ringThread (s.core c) sl = some sth →
      nextEntry (s.core c) sth = some e → s.corePart c = some pno → (s.part pno).st = 1 → vinfo e.instr = some i → e.st = .waiting →
      vchecks i e = some er → (s.core c).threads = [(sl, u)] → u.sth = sth → e.sth = sth → u.park = none → e.inHandler = false →
      ∃ t, exec (.vectorEntryPerform c sl) s = .next t
        ∧ (t.thread? c sl).map (fun v => (v.late, v.pc)) = some (u.late ++ [⟨.vlate, er.sub, er.acc, 0, er.val, e.seq, e.pc⟩], u.pc)
        ∧ (t.core c).lmem = (s.core c).lmem ∧ (∀ o ∈ (t.core c).ring, o.seq = e.seq → o.sth = sth → o.st = .faulted)
        ∧ (∀ o ∈ (t.core c).ring, o.sth = sth → o.seq ≠ e.seq → o.st = .faulted ∨ o.st = .held ∨ o.inHandler = true))
  ∧ (∀ (s : State) (c sl : Nat) (u : Thread) (l : Late), s.thread? c sl = some u → s.canRun c u = true → Quiet s →
      bit (s.core c).trcfg 1 = false → u.lateNow (s.core c).seqnow = some l → u.handler ≠ 0 → l.iter < 2 ^ 16 → l.acc < 4 →
      l.sub < 256 → ∃ t v, exec (.lateTrapEntry c sl) s = .next t ∧ t.thread? c sl = some v ∧ v.pc = u.handler ∧ v.tpc = u.pc
        ∧ v.tval = l.val ∧ v.tseq.toNat = l.seq % 2 ^ 64 ∧ bit v.tcause.toNat 63 = true
        ∧ bit v.tcause.toNat 62 = decide (l.cause ≠ .preempt) ∧ bits v.tcause.toNat 7 0 = l.cause.code
        ∧ bits v.tcause.toNat 15 8 = l.sub ∧ v.late = lateRemove l u.late ∧ (t.core c).regs = (s.core c).regs ∧ t.dram = s.dram)

/-- ENQ's entry becomes a job at the end of its engine's queue under the next number, its identifier is written to the
register and its thread goes on; a command that R317 does not list ends with status 5 (R317, R318, R386, R387). A
contribution that arrives before its member's job is kept, but one of a broadcast only from its root, and none that
comes for a job of the member that has ended; and a collective that still lacks one 2^24 fabric cycles after its
acceptance ends with SUB 0x0D and leaves nothing of what had arrived for it (R410, R411). That a contribution is
kept for a job not yet there, that a broadcast's from another than its root is dropped, and which jobs are one
collective, is the model's choice (log entry 47). -/
def Obligations.JobsAndCollectives : Prop :=
  ((∀ (s : State) (c sl : Nat) (e : Entry) (u : Thread), ringThread (s.core c) sl = some e.sth → enqEntry (s.core c) e.sth = some e →
       s.enqReady c e = true → ((s.enqOrder (clusterOf c) e.eng).find? fun k => (s.enqNext k e.eng).isSome) = some c → Quiet s →
       slotOf (s.core c) e.sth = some sl → s.thread? c sl = some u → isGCode e.dst = true →
       let eng := engineOf (bits e.v0.toNat 63 56)
       let n := (s.cluster (clusterOf c)).nextSeq.lookD eng 0
       ∃ t j w, exec (.enqAccept c sl) s = .next t ∧ (t.cluster (clusterOf c)).queue eng = (s.cluster (clusterOf c)).queue eng ++ [j]
         ∧ [j.q0, j.q1, j.q2, j.q3] = [e.v0, e.v1, e.v2, e.v3] ∧ j.eng = eng ∧ j.seq = n ∧ j.core = c ∧ j.sth = e.sth ∧ j.st = .queued
         ∧ (t.cluster (clusterOf c)).nextSeq.lookD eng 0 = (n + 1) % 2 ^ 14
         ∧ (t.core c).ring = (s.core c).ring.filter (fun o => decide (o.seq ≠ e.seq)) ∧ t.thread? c sl = some w ∧ w.park = none
         ∧ w.pc = u.pc ∧ (t.core c).greg w (codeNum e.dst) = Word.ofNat (2 ^ 14 * eng + n)
         ∧ (∀ k, k ≠ codeNum e.dst → (t.core c).greg w k = (s.core c).greg u k) ∧ (t.core c).lmem = (s.core c).lmem ∧ t.dram = s.dram)
   ∧ (∀ (s : State) (cl eng : Nat) (j : Job), (s.cluster cl).queue eng = [j] → j.eng = eng → knownCmd j.ecmd = false → j.st = .queued →
       QuietEngines s → ∃ t, exec (.engineBadcmd cl eng) s = .next t ∧ (t.cluster cl).queue eng = []
         ∧ ((t.cluster cl).past.look j.id).map Job.st = some .badcmd ∧ t.dram = s.dram ∧ ∀ k, (t.core k).lmem = (s.core k).lmem))
  ∧ ((∀ (s : State) (k : Contribution) (pno : Nat), k.dest.toNat < 2 ^ 57 → isWindow k.dest.toNat = true → s.winHere k.dest.toNat = true →
         s.corePart (winCore k.dest.toNat) = some pno → s.collJobs pno k.tag k.desc k.no = [] →
         let cl := clusterOf (winCore k.dest.toNat)
         (s.collOver [] k = true → exec (.collectiveContribution k) s = .next s)
         ∧ (k.cmd = 0x31 → k.rank ≠ k.scl → exec (.collectiveContribution k) s = .next s)
         ∧ (s.collOver [] k = false → k.cmd ≠ 0x31 ∨ k.rank = k.scl → ∃ t, exec (.collectiveContribution k) s = .next t
             ∧ (t.cluster cl).contribs = (s.cluster cl).contribs ++ [k] ∧ t.cores = s.cores ∧ t.dram = s.dram))
     ∧ (∀ (s : State) (k : Contribution), s.winHere k.dest.toNat = false ∨ s.corePart (winCore k.dest.toNat) = none →
         exec (.collectiveContribution k) s = .next s)
     ∧ (∀ (s : State) (cl ch : Nat) (j : Job) (p : Part), (s.cluster cl).headJob 2 (some ch) = some j → j.started = true →
         0x30 ≤ j.ecmd → j.ecmd ≤ 0x32 → j.st = .gathering → QuietEngines s → j.eng = 2 → s.parts.look j.part = some p →
         p.oen = false → s.olog.en = false → ∃ t, exec (.collectiveTimeout cl ch) s = .next t
           ∧ t.clk = max s.clk (Config.clkAt (j.acceptedFab + 2 ^ 24))
           ∧ ((t.cluster cl).past.look j.id).map (fun q => (q.st, q.fadr)) = some (.fault 0x0D, j.own)
           ∧ (t.cluster cl).queue 2 = ((s.cluster cl).queue 2).filter (fun o => decide (o.seq ≠ j.seq))
           ∧ (j.desc ≠ [] → ∀ c ∈ (t.cluster j.bufCluster).contribs, contribOf j c = false)))

/-- Every command of the matrix engine, the transform unit and the copy unit runs when it is first at its engine, or on
its channel: the job then completes after its cycles with the effect its rule gives, or ends with its fault (R396 to
R411). A new job of one block (LDS, MMA, CMMA) or one row (STA, the transforms, CPY, GTHR, SCTR, FILL) on operands
in local memory that fit, hold no poison and can be read and written ends DONE: the plane, the tile or the row takes
the value that the rule computes, and a copy's channel pointer the bytes it wrote; a collective whose contributions
have all arrived writes their sum, the root's elements or the last piece, and ends DONE. SWAPS exchanges the planes,
ACLR clears a tile's region and sets its tag, which is spatial after power-on, after a release and after an assign;
MSTAT stores and clears the counters. -/
def Obligations.EngineCommandsRun : Prop :=
  (∀ (s : State) (cl ch : Nat) (j : Job),
    let runs := fun (e : Sys2Proof.Instr) (eng : Nat) (chan : Option Nat) (cmd : Nat) (body : State → Job → JobRes)
        (cost : Job → Nat) =>
      let g := if j.st = .queued then s.startJob cl j else s
      JobReady s cl eng chan cmd j → match body g { j with st := .running } with
        | .done k v => QuietEngines v → ∃ t, exec e s = .next t ∧ JobDone v t cl k (cost k)
        | .wait k st v => exec e s = .next (v.setJob cl { k with st := st })
        | .fault k er v => exec e s = .next (v.jobEnd cl k (.fault er.sub) er)
    runs (.lds cl) 0 none 0x01 (ldsBody cl) ldsCost ∧ runs (.mma cl) 0 none 0x02 (mmaBody cl) mmaCost
    ∧ runs (.sta cl) 0 none 0x03 (staBody cl) (·.m) ∧ runs (.aclr cl) 0 none 0x04 (aclrBody cl) (·.m)
    ∧ runs (.swaps cl) 0 none 0x05 (swapsBody cl) (fun _ => 1) ∧ runs (.cmma cl) 0 none 0x06 (cmmaBody cl) cmmaCost
    ∧ runs (.mstat cl) 0 none 0x07 (mstatBody cl) (fun _ => 1) ∧ runs (.fft cl) 1 none 0x10 (xfmBody cl .fwd) (xfmCost 1)
    ∧ runs (.ifft cl) 1 none 0x11 (xfmBody cl .inv) (xfmCost 1)
    ∧ runs (.xact cl) 1 none 0x12 (fun s j => xfmBody cl (.act (bits j.flg 7 4)) s j) (xfmCost 3)
    ∧ runs (.cpy cl ch) 2 (some ch) 0x20 (cpyBody cl) copyCost
    ∧ runs (.gthr cl ch) 2 (some ch) 0x21 (indexedBody cl false) copyCost
    ∧ runs (.sctr cl ch) 2 (some ch) 0x22 (indexedBody cl true) copyCost
    ∧ runs (.fill cl ch) 2 (some ch) 0x23 (fillBody cl) copyCost
    ∧ runs (.ared cl ch) 2 (some ch) 0x30 (collBody cl) copyCost ∧ runs (.bcst cl ch) 2 (some ch) 0x31 (collBody cl) copyCost
    ∧ runs (.agth cl ch) 2 (some ch) 0x32 (collBody cl) copyCost)
  ∧ (∀ (s : State) (cl ch : Nat) (j : Job), QuietEngines s → j.isNew →
      let r : Job := { j with st := .running }
      let u := s.startJob cl j
      let ready := fun (eng : Nat) (chan : Option Nat) (cmd : Nat) => JobReady s cl eng chan cmd j ∧ j.eng = eng
      let ends := fun (i : Sys2Proof.Instr) (cost : Job → Nat) (f : State → Prop) => ∃ (k : Job) (v t : State),
        exec i s = .next t ∧ k.id = j.id ∧ k.eng = j.eng ∧ JobDone v t cl k (cost k) ∧ f v
      let at' := fun (own : Bool) (a : Word) (c o : Nat) => s.eplace j.part cl own a = .ok (.win c o)
      let put := fun (c : Nat) (x : Core) (v : State) => v.core c = x ∧ ∀ d, d ≠ c → v.core d = s.core d
      let grew := fun (n : Nat) (v : State) => (v.cluster cl).chanPtr.lookD ch 0 = n
      let tl := (s.cluster cl).tile j.acc
      (∀ c o cols, ready 0 none 0x01 → [bits j.flg 2 0, j.m, j.acc, j.ldx] = [0, 0, 0, 0] → j.q1 = 0 → j.n ≤ 128 →
        j.kstart < (j.k + 127) / 128 → j.sclOk = true → j.vfmt ≤ 11 → at' true j.q2 c o → let z := s.matZone r (.win c o) j.zw
        matCheck (.win c o) z j.ldw j.n j.k = none → s.readW r cl (.win c o) z j.kstart = .ok (cols, s) →
        ends (.lds cl) ldsCost fun v => v.cores = s.cores ∧ (v.cluster cl).active = (s.cluster cl).active
          ∧ (v.cluster cl).shadow = planeOf cols (min j.k (128 * j.kstart + 128) - 128 * j.kstart))
      ∧ (∀ cx bx cw bw cols rows, ready 0 none 0x02 → bits j.flg 2 1 = 0 → 1 ≤ j.m → j.m ≤ 128 → 1 ≤ j.n → j.n ≤ 128 → 1 ≤ j.k →
        j.k ≤ 128 → j.acc ≤ 3 → j.kstart = 0 → j.sclOk = true → j.vfmt ≤ 11 → at' true j.q1 cx bx → at' true j.q2 cw bw →
        let zx := s.matZone r (.win cx bx) j.zx
        let zw := s.matZone r (.win cw bw) j.zw
        let e := max (fmtWidth (zfFmt zx)) (fmtWidth (zfFmt zw))
        let u1 := if bit j.flg 0 then s.modTile cl j.acc fun t => { t.clear j.m j.n with spectral := false } else s
        let u2 := u1.modCluster cl fun x => ({ x with shadow := planeOf cols j.k } : Cluster).swap
        matCheck (.win cx bx) zx j.ldx j.m j.k = none → matCheck (.win cw bw) zw j.ldw j.n j.k = none → tl.thr = 0 →
        tl.poisoned j.m j.n = false → bit j.flg 0 = true ∨ tl.spectral = false → u1.readW r cl (.win cw bw) zw 0 = .ok (cols, u1) →
        u2.jruns (fun s m => s.jvals r cl (.win cx bx) zx j.k (m * j.ldx)) (List.range j.m) = .ok (rows, u2) →
        ends (.mma cl) mmaCost fun v => v.cores = s.cores ∧ (v.cluster cl).active = planeOf cols j.k
          ∧ (v.cluster cl).shadow = (s.cluster cl).active ∧ ∃ k, v = u2.tileAdd cl k (groupSize e)
            ((List.range j.m).flatMap fun m => (List.range j.n).map fun n => (128 * m + n, (List.range j.k).map fun k =>
              (((rows.getD m []).getD k (Val.zero false)).scale j.xexp).mul (planeAt (planeOf cols j.k) k n))))
      ∧ (∀ c o x, ready 0 none 0x03 → [bits j.flg 2 0, j.k, j.kstart, j.ldw] = [0, 0, 0, 0] → j.q2 = 0 → j.m = 1 → j.n ≤ 128 → j.acc ≤ 3 →
        j.sclOk = true → j.vfmt ≤ 11 → at' true j.q1 c o → let z := s.matZone r (.win c o) j.zx
        tl.spectral = false → zfDom z ≠ 1 → fmtCls (zfFmt z) = .f ∨ fmtCls (zfFmt z) = .i → tl.poisoned 1 j.n = false → tl.thr = 0 →
        rowsFit o j.ldx 1 ((fmtWidth (zfFmt z) * j.n + 7) / 8) (fmtWidth (zfFmt z)) = true → runFit z o j.ldx = true →
        (s.core c).engineRow (s.jobCod r c false (rmOf .dyn j.mode) z) z o o ((List.range j.n).map fun n => Lane.fp (match j.osc with
          | some k => ((tl.at 0 n).mul k).round32 false .rne | none => tl.at 0 n)) none [] = .ok x →
        ends (.sta cl) (·.m) fun v => put c x v ∧ ((v.cluster cl).tile j.acc).vals = tl.vals)
      ∧ (∀ cx bx cw bw cols rows, ready 0 none 0x06 → j.flg ≤ 1 → 1 ≤ j.m → j.m ≤ 128 → 1 ≤ j.n → 1 ≤ j.k → j.k ≤ 64 → j.acc ≤ 3 →
        j.kstart = 0 → j.sclf = 0 → at' true j.q1 cx bx → at' true j.q2 cw bw →
        let zx := s.jobZone r (.win cx bx) j.zx
        let zw := s.jobZone r (.win cw bw) j.zw
        let b := 2 ^ zfBlk zx
        let h := b / 2
        let u1 := if bit j.flg 0 then s.modTile cl j.acc fun t => { t.clear j.m (j.n * b) with spectral := true } else s
        let z := (Val.zero false, Val.zero false)
        zfDom zx = 1 → zfDom zw = 1 → zfFmt zw = 19 → zfFmt zx = 19 ∨ zfFmt zx = 20 → zfBlk zx = zfBlk zw → j.n * b ≤ 128 →
        rowsFit bx j.ldx j.m (j.k * h * fmtWidth (zfFmt zx) / 8) (fmtWidth (zfFmt zx)) = true → rowsFit bw j.ldw j.n (j.k * h * 4) 32 = true →
        tl.thr = 0 → tl.poisoned j.m (2 * h * j.n) = false → bit j.flg 0 = true ∨ tl.spectral = true →
        u1.jruns (fun s m => s.jcomplex r cl (.win cx bx) zx (j.k * h) (m * j.ldx)) (List.range j.m) = .ok (rows, u1) →
        u1.jruns (fun s i => s.jcomplex r cl (.win cw bw) zw (j.k * h) (i * j.ldw)) (List.range j.n) = .ok (cols, u1) →
        ends (.cmma cl) cmmaCost fun v => v.cores = s.cores ∧ ∃ k, v = u1.tileAdd cl k 8
          ((List.range j.m).flatMap fun m => (List.range j.n).flatMap fun i => (List.range h).flatMap fun k =>
            let ps := (List.range j.k).map fun q => binMul k ((cols.getD i []).getD (q * h + k) z) ((rows.getD m []).getD (q * h + k) z)
            [(128 * m + 2 * (i * h + k), ps.map Prod.fst), (128 * m + 2 * (i * h + k) + 1, ps.map Prod.snd)]))
      ∧ (∀ cx bx cw bw x, [j.n, j.k, bits j.q3.toNat 63 40] = [0, 0, 0] → j.m = 1 → at' true j.q1 cx bx → at' true j.q2 cw bw →
        let zx := s.jobZone r (.win cx bx) j.zx
        let zw := s.jobZone r (.win cw bw) j.zw
        let real := fun z : Nat => fmtCls (zfFmt z) = .f ∨ fmtCls (zfFmt z) = .i
        let fits := fun (l dx dw : Nat) => zfDom zx = dx ∧ zfDom zw = dw
          ∧ rowsFit bx j.ldx 1 (((if dx = 1 then 2 ^ l / 2 else 2 ^ l) * fmtWidth (zfFmt zx) + 7) / 8) (fmtWidth (zfFmt zx)) = true
          ∧ rowsFit bw j.ldw 1 (((if dw = 1 then 2 ^ l / 2 else 2 ^ l) * fmtWidth (zfFmt zw) + 7) / 8) (fmtWidth (zfFmt zw)) = true
        let row := fun (lanes : List Lane) => (s.core cw).engineRow (s.jobCod r cw false .rne zw) zw bw bw lanes none [] = .ok x
        (ready 1 none 0x10 → j.flg = 0 → real zx → fits (zfBlk zw) 0 1 → ∀ vs,
          s.jvals r cl (.win cx bx) zx (2 ^ zfBlk zw) 0 = .ok (vs, s) → row ((fftBlock (zfBlk zw) vs).map fun q => .cx q.1 q.2) →
          ends (.fft cl) (xfmCost 1) (put cw x))
        ∧ (ready 1 none 0x11 → j.flg = 0 → real zw → fits (zfBlk zx) 1 0 → ∀ vs,
          s.jcomplex r cl (.win cx bx) zx (2 ^ zfBlk zx / 2) 0 = .ok (vs, s) → row ((ifftBlock (zfBlk zx) vs).map Lane.fp) →
          ends (.ifft cl) (xfmCost 1) (put cw x))
        ∧ (ready 1 none 0x12 → bits j.flg 3 0 = 0 → bits j.flg 7 4 ≤ 3 → zfBlk zx = zfBlk zw → fits (zfBlk zx) 1 1 → ∀ vs,
          s.jcomplex r cl (.win cx bx) zx (2 ^ zfBlk zx / 2) 0 = .ok (vs, s) → row ((fftBlock (zfBlk zx) (((ifftBlock (zfBlk zx) vs).map
            fun y => xactVal (bits j.flg 7 4) (y.round32 false .rne)).map fun y => y.round32 false .rne)).map fun q => .cx q.1 q.2) →
          ends (.xact cl) (xfmCost 3) (put cw x)))
      ∧ (∀ cx bx cw bw fx fw raw l x, ready 2 (some ch) 0x20 → [bits j.flg 1 0, bits j.flg 7 6, j.n, j.kstart, j.acc] = [0, 0, 0, 0, 0] →
        j.m = 1 → at' false j.q1 cx bx → at' false j.q2 cw bw →
        copyFormats false false (s.jobZone r (.win cx bx) j.zx) (s.jobZone r (.win cw bw) j.zw) j.sclf = some (fx, fw, raw) →
        let row := rowOf (u.copyCod r cx fx) fx raw l
        endFits (.win cx bx) [0] j.k (fmtWidth (zfFmt fx)) = true →
        endFits (.win cw bw) [0] j.k (if raw then fmtWidth (zfFmt fx) else fmtWidth (zfFmt fw)) = true →
        u.jelems r cl (.win cx bx) fx (!raw) j.k 0 = .ok (l, u) → raw = true ∨ u.bookPoisoned cx fx = false →
        (s.core cw).putRow (u.copyCod r cw fw) fw bw bw row.width row.cls row.vals row.bad = .ok x →
        ends (.cpy cl ch) copyCost fun v => put cw x v ∧ grew (rowBytes fw row) v)
      ∧ (∀ cx bx cw bw l x, [bits j.flg 1 0, bits j.flg 7 6, j.n] = [0, 0, 0] → j.m = 1 → at' false j.q1 cx bx → at' false j.q2 cw bw →
        j.idxo % 4 = 0 → j.idxo + 4 ≤ 2 ^ 19 → (s.core j.core).lpoisoned j.idxo 4 = false →
        let i := (s.core j.core).lmem.read j.idxo 4
        let row := rowOf (u.copyCod r cx 25) 25 true l
        let moves := fun (e : Sys2Proof.Instr) (src dst : Nat) => endFits (.win cx bx) [src] j.k 8 = true → endFits (.win cw bw) [dst] j.k 8 = true →
          u.jelems r cl (.win cx bx) 25 false j.k src = .ok (l, u) →
          (s.core cw).putRow (u.copyCod r cw 25) 25 bw (bw + dst) row.width row.cls row.vals row.bad = .ok x →
          ends e copyCost fun v => put cw x v ∧ grew (rowBytes 25 row) v
        (ready 2 (some ch) 0x21 → moves (.gthr cl ch) (i * j.ldx) 0) ∧ (ready 2 (some ch) 0x22 → moves (.sctr cl ch) 0 (i * j.ldw)))
      ∧ (∀ c o x, ready 2 (some ch) 0x23 → [bits j.flg 1 0, bits j.flg 7 6, j.n, j.kstart, j.acc, j.ldx, bits j.sclf 3 0] = [0, 0, 0, 0, 0, 0, 0] →
        bits j.sclf 7 4 ≤ 1 → j.m = 1 → at' false j.q2 c o → let z := s.jobZone r (.win c o) j.zw
        endFits (.win c o) [0] j.k (fmtWidth (zfFmt z)) = true →
        (s.core c).putRow (u.copyCod r c z) z o o 64 5 (List.replicate j.k j.q1) [] = .ok x →
        ends (.fill cl ch) copyCost fun v => put c x v ∧ grew ((fmtWidth (zfFmt z) * j.k + 7) / 8) v))
  ∧ (∀ (s : State) (cl ch : Nat) (j : Job), QuietEngines s → j.st = .running → j.started = true → j.failed = none → j.donec = 0 →
      j.out = 0 → j.eng = 2 → s.winHere j.own.toNat = true →
      let ends := fun (i : Sys2Proof.Instr) (n : Nat) (f : State → Prop) => ∃ (k : Job) (v t : State),
        exec i s = .next t ∧ k.id = j.id ∧ k.eng = j.eng ∧ JobDone v t cl k (copyCost k) ∧ f v
          ∧ (v.cluster cl).chanPtr.lookD j.chan 0 = (s.cluster cl).chanPtr.lookD j.chan 0 + n
      let got := fun (r : Nat) => (s.cluster j.bufCluster).contrib j r
      let c := winCore j.own.toNat
      let o := s.ownOff j
      (∀ y, JobReady s cl 2 (some ch) 0x30 j → let cs := (List.range j.m).filterMap got
        let k := laneKind (fmtCls (zfFmt j.zw) :: cs.map fun c => clsOf c.cls)
        let cod := s.copyCod j c j.zw
        cs.length = j.m → (k = .cx → fmtCls (zfFmt j.zw) = .c) →
        (s.core c).engineRow cod j.zw o o (collSum (cs.map fun q => q.vals.map (wordLane cod.rm k (clsOf q.cls)))) (some j.te)
          ((List.range j.k).map fun i => cs.any fun q => q.bad.getD i false) = .ok y →
        ends (.ared cl ch) (j.bufBytes j.k) fun v => v.core c = y ∧ ∀ d, d ≠ c → v.core d = s.core d)
      ∧ (∀ q w, JobReady s cl 2 (some ch) 0x31 j → got j.sclf = some q → s.collWrite j q.te 0 q.cls q.vals q.bad = .ok w →
        ends (.bcst cl ch) (j.bufBytes j.k) fun v => v.cores = w.cores)
      ∧ (∀ r q w, JobReady s cl 2 (some ch) 0x32 j → got r = some q →
        ((List.range j.m).filter fun i => !j.pieces.contains i && (got i).isSome) = [r] → (insertNat j.pieces r).length = j.m →
        s.collWrite j q.te (r * j.k) q.cls q.vals q.bad = .ok w → ∃ n, ends (.agth cl ch) n fun v => v.cores = w.cores))
  ∧ (∀ (s : State) (cl : Nat) (j : Job), QuietEngines s →
      (JobReady s cl 0 none 0x05 j → [j.flg, j.m, j.n, j.k] = [0, 0, 0, 0] → [j.q1, j.q2, j.q3] = [0, 0, 0] →
        ∃ t, exec (.swaps cl) s = .next t ∧ (t.cluster cl).active = (s.cluster cl).shadow ∧ (t.cluster cl).shadow = (s.cluster cl).active
          ∧ (t.cluster cl).tiles = (s.cluster cl).tiles)
      ∧ (∀ sp : Bool, JobReady s cl 0 none 0x04 j → j.flg = (if sp then 4 else 0) → j.k = 0 → j.q1 = 0 → j.q2 = 0 →
          j.q3.toNat = j.acc * 2 ^ 48 → j.acc ≤ 3 → j.m ≤ 128 → j.n ≤ 128 →
          ∃ t, exec (.aclr cl) s = .next t ∧ ((t.cluster cl).tile j.acc).spectral = sp
            ∧ (∀ r k, k < 128 → ((t.cluster cl).tile j.acc).vals.lookD (128 * r + k) 0
                = if r < j.m ∧ k < j.n then 0 else ((s.cluster cl).tile j.acc).vals.lookD (128 * r + k) 0)
            ∧ ∀ n, n ≠ j.acc → (t.cluster cl).tile n = (s.cluster cl).tile n)
      ∧ (∀ n, ((State.reset.cluster cl).tile n).spectral = false)
      ∧ (∀ (u t : State) (m : Nat) (p : Part), u.parts.look m = some p → quadOf (8 * cl) ∈ p.quads → exec (.releaseScrub m) u = .next t →
          t.parts.look m = none → t.cluster cl = Cluster.zero)
      ∧ (∀ (u t : State) (v : Word) (n : Nat), u.cluster cl = Cluster.zero → exec (.phcmdAssign v) u = .next t →
          ((t.cluster cl).tile n).spectral = false)
      ∧ (∀ c off, JobReady s cl 0 none 0x07 j → j.flg = 4 → j.m = 0 → j.n = 0 → j.k = 0 → j.q3.toNat = j.acc * 2 ^ 48 → j.acc ≤ 3 →
          s.eplace j.part cl true j.q2 = .ok (.win c off) → j.q2.toNat % 32 = 0 → let x := (s.cluster cl).tile j.acc
          ∃ t, exec (.mstat cl) s = .next t ∧ (t.core c).lmem.bytes off 16
              = leBytes 4 x.sat ++ leBytes 4 x.nan ++ leBytes 4 x.bso ++ leBytes 4 x.thr
            ∧ (∀ a, a < off ∨ off + 32 ≤ a → (t.core c).lmem.get a = (s.core c).lmem.get a)
            ∧ (let y := (t.cluster cl).tile j.acc; y.sat = 0 ∧ y.nan = 0 ∧ y.bso = 0 ∧ y.thr = x.thr ∧ y.vals = x.vals)))
  ∧ (∀ (s u : State) (cl : Nat) (cost : Job → Nat) (j : Job) (e : JErr) (w : Thread) (p : Part), QuietEngines u →
      s = jobResult cl cost (.fault j e u) → u.bySth j.core j.sth = some w → w.park = none → u.parts.look j.part = some p →
      p.oen = false → u.olog.en = false → (j.inHandler = true → w.act = false) →
      (s.cluster cl).queue j.eng = ((u.cluster cl).queue j.eng).filter (fun o => decide (o.seq ≠ j.seq))
      ∧ ((s.cluster cl).past.look j.id).map (fun q => (q.st, q.fadr)) = some (.fault e.sub, e.adr)
      ∧ (s.bySth j.core j.sth).map Thread.late = some (w.late ++ [⟨.elate, e.sub, e.acc, 0, Word.ofNat j.id, j.enqSeq, j.pc⟩]))

/-- CPREQ: a request that a rule refuses ends with status 3 and its code and changes nothing else; a pre-emption makes
the request, which holds the core; when the ring has drained the core is saved, its slots then empty and its threads
kept, or, where the buffer cannot be written, goes on with code 3; a resumption is refused for an image that cannot
be read (3) or is not the core's (4), and otherwise restores it (R260 to R265). The order of codes 3 and 4 (DEDUCED,
log entry 73), no byte written where the buffer does not translate whole (log entry 74) and idle threads that end
(DEDUCED, log entry 77) are the model's choices. -/
def Obligations.CoresAreSavedAndRestored : Prop :=
  (∀ (s : State) (c sl pno : Nat) (v : Word) (u : Thread), s.thread? c sl = some u → 1 ≤ u.pl → s.corePart c = some pno →
      u.cpstat.toNat % 4 ≠ 1 →
      let code := s.cpCode pno v.toNat
      let d := bits v.toNat 11 0
      let buf := v.toNat / 2 ^ 18 * 2 ^ 18
      let rejectedOn := fun (k : Nat) (g : State) => g.modThread c sl fun t => { t with cpstat := Word.ofNat (16 * k + 3) }
      let rejected := fun (k : Nat) => rejectedOn k s
      (code ≠ 0 → bits v.toNat 17 16 = 1 → exec (.cpreqPreempt c sl v) s = .next (rejected code))
      ∧ (code ≠ 0 → bits v.toNat 17 16 = 2 → exec (.cpreqResume c sl v) s = .next (rejected code))
      ∧ (code = 0 → bits v.toNat 17 16 = 1 → (∀ e ∈ (s.core d).threads, e.2.idle = false) → ∃ t w, exec (.cpreqPreempt c sl v) s = .next t
          ∧ (t.core d).preempt = some ⟨Word.ofNat buf, c, u.sth, 1, []⟩ ∧ t.thread? c sl = some w ∧ w.cpstat = 1 ∧ w.pc = u.pc
          ∧ t.dram = s.dram ∧ (∀ k e, t.thread? d k = some e → t.canRun d e = true → e.prog.reply.isSome = true))
      ∧ (code = 0 → bits v.toNat 17 16 = 2 → buf < 2 ^ 57 →
          exec (.cpreqResume c sl v) s = .next (match s.lodgeRead pno buf 96, (s.core d).preempt with
            | .error e, _ => rejectedOn 3 (s.lodgeMet pno e)
            | .ok _, none => rejected 4
            | .ok (h, w), some q =>
              if s.headerFits d h = false ∨ q.buf ≠ Word.ofNat buf then rejected 4
              else match w.readImage pno buf h with
                | .error e => rejectedOn 3 (w.lodgeMet pno e)
                | .ok (r, ri, ms, w) => (w.modThread c sl fun t => { t with cpstat := 1 }).restore d
                    { q with byCore := c, bySth := u.sth, stage := 3 } h r ri ms))
      ∧ (code = 0 → bits v.toNat 17 16 = 2 → 2 ^ 57 ≤ buf → exec (.cpreqResume c sl v) s = .next (rejected 3)))
  ∧ (∀ (s : State) (c pno : Nat) (p : Preempt), (s.core c).preempt = some p → p.stage = 1 → s.corePart c = some pno →
      (s.core c).ringDrained = true → s.held = false → (s.part pno).st = 1 → (∀ e ∈ (s.core c).threads, e.2.busy ≤ s.clk ∧ e.2.idle = false) →
      (2 ^ 57 ≤ p.buf.toNat → exec (.preemptSave c) s = .next (s.preemptAbort c p))
      ∧ (p.buf.toNat < 2 ^ 57 → exec (.preemptSave c) s = .next (match s.ctxWrite pno p.buf.toNat (s.ctxImage c pno) with
          | .error e => (s.lodgeMet pno e).preemptAbort c p
          | .ok w => w.emptyCore c p)))
  ∧ (∀ (s : State) (c : Nat) (p : Preempt), Quiet s → (∀ e ∈ (s.core c).threads, e.2.idle = false) → p.byCore ≠ c →
      ((s.emptyCore c p).core c).threads = [] ∧ ((s.emptyCore c p).core c).preempt.map (fun q => (q.buf, q.byCore, q.bySth, q.stage)) = some (p.buf, p.byCore, p.bySth, 2)
      ∧ ((s.emptyCore c p).core c).saved.length = (s.core c).saved.length + (s.core c).threads.length
      ∧ ((s.emptyCore c p).core c).regs = (s.core c).regs ∧ ((s.emptyCore c p).core c).lmem = (s.core c).lmem
      ∧ (∀ u, s.bySth p.byCore p.bySth = some u → ((s.emptyCore c p).bySth p.byCore p.bySth).map Thread.cpstat = some 2))
  ∧ (∀ (s : State) (c : Nat) (p : Preempt), Quiet s → p.byCore ≠ c → ((s.preemptAbort c p).core c).preempt = none
      ∧ ((s.preemptAbort c p).core c).regs = (s.core c).regs ∧ (s.preemptAbort c p).dram = s.dram
      ∧ (∀ u, s.bySth p.byCore p.bySth = some u → ((s.preemptAbort c p).bySth p.byCore p.bySth).map Thread.cpstat = some 0x33))

/-- Errors: a corrected one counts and changes nothing; an uncorrectable one counts and poisons the location; a machine
check of a partition makes it inoperable, and one of no partition holds the package; a write of HCFG clears the
histogram by its bit 10; OCFG.EN empties a well-formed ring; and a record of one state change leaves after 4,096
cycles (R258, R266, R267, R270, R272). A thread of level KER or above stops and restarts a thread of its partition
by DBGS, and reads and writes its registers by DBGD while it is stopped; a target outside the partition is ignored,
and a thread that is not stopped reads as 0 (R271). That a thread inside its handler runs on until it has returned,
STATE then 1 (R250), is DEDUCED, log entry 140. -/
def Obligations.ErrorsAndDebugStops : Prop :=
  ((∀ (s : State) (loc : ErrLoc) (pno : Nat) (p : Part), s.errPart loc = some pno → s.parts.look pno = some p → p.oen = false →
       s.olog.en = false →
       ((∀ c n, loc ≠ .regFile c n) → ∃ t, exec (.eccCorrected loc) s = .next t ∧ (t.part pno).corrected = p.corrected + 1
         ∧ (t.part pno).odrop = (p.odrop + 1) % 2 ^ 32 ∧ t.cores = s.cores ∧ t.dram = s.dram ∧ t.dpoison = s.dpoison)
       ∧ (∃ t, exec (.eccUncorrectable loc) s = .next t ∧ (t.part pno).uncorrected = p.uncorrected + 1
         ∧ (t.part pno).corrected = p.corrected ∧ t.dram = s.dram
         ∧ (∀ k, loc = .dram k → k ∈ t.dpoison ∧ ∀ a, a ≠ k → (a ∈ t.dpoison ↔ a ∈ s.dpoison))
         ∧ (∀ c k, loc = .localMem c k → k < 16384 → k ∈ (t.core c).lpoison ∧ (t.core c).lmem = (s.core c).lmem)
         ∧ (∀ c n, loc = .regFile c n → n < 2048 → n ∈ (t.core c).regPoison ∧ (t.core c).regs = (s.core c).regs)
         ∧ (∀ cl n k, loc = .accum cl n k → n < 4 → k ∈ ((t.cluster cl).tile n).poison)
         ∧ (∀ cl n, loc = .codebook cl n → n < 8 → n ∈ (t.cluster cl).cbPoison)))
   ∧ (∀ (s : State) (pno : Nat) (p : Part), s.parts.look pno = some p → p.oen = false → s.olog.en = false → p.st = 1 →
       ∃ t, exec (.machineCheck (some pno)) s = .next t ∧ (t.part pno).st = 3 ∧ (t.part pno).uncorrected = p.uncorrected + 1
         ∧ t.cores = s.cores ∧ ∀ c u, s.corePart c = some pno → t.canRun c u = false)
   ∧ (∀ s : State, ∃ t, exec (.machineCheck none) s = .next t ∧ t.hold = true ∧ t.held = true ∧ t.trip = s.trip ∧ t.cores = []
       ∧ t.uncorrected0 = s.uncorrected0 + 1)
   ∧ (∀ (s : State) (c sl eng : Nat) (v : Word) (u : Thread), s.thread? c sl = some u → 1 ≤ u.pl → eng < 3 →
       ∃ t, exec (.hcfgWrite c sl eng v) s = .next t ∧ t.cores = s.cores
         ∧ bits ((t.cluster (clusterOf c)).hcfg.lookD eng 0).toNat 6 0 = bits v.toNat 6 0
         ∧ bits ((t.cluster (clusterOf c)).hcfg.lookD eng 0).toNat 9 8 = bits v.toNat 9 8
         ∧ bit ((t.cluster (clusterOf c)).hcfg.lookD eng 0).toNat 11 = bit v.toNat 11
         ∧ ((t.cluster (clusterOf c)).buckets eng = if bit v.toNat 10 = true then List.replicate 16 0
             else (s.cluster (clusterOf c)).buckets eng) ∧ (∀ g, g ≠ eng → (t.cluster (clusterOf c)).buckets g = (s.cluster (clusterOf c)).buckets g))
   ∧ (∀ (s : State) (c sl pno : Nat) (v : Word) (u : Thread) (p : Part), s.thread? c sl = some u → 1 ≤ u.pl → s.corePart c = some pno →
       s.parts.look pno = some p → bit v.toNat 0 = true → p.oen = false → ∃ t, exec (.ocfgEnable c sl v) s = .next t ∧ t.cores = s.cores
         ∧ (t.part pno).olog2 = bits v.toNat 12 8
         ∧ (ringFits p.obase (bits v.toNat 12 8) = false → (t.part pno).oen = false)
         ∧ (ringFits p.obase (bits v.toNat 12 8) = true →
             [(t.part pno).ohead, (t.part pno).otail, (t.part pno).odrop] = [0, 0, 0] ∧ (t.part pno).oen = true))
   ∧ (∀ (s : State) (c pno : Nat) (e : SlogEntry) (p : Part), (s.core c).slog = [e] → (s.core c).cevs = [] →
       (∀ x ∈ s.cores, x.2.cevs = []) → s.corePart c = some pno → s.parts.look pno = some p → p.oen = false → s.olog.en = false →
       ∃ t, exec (.stateLogTimeout c) s = .next t ∧ (t.core c).slog = [] ∧ t.clk = max s.clk ((s.core c).slogLast + 4096)
         ∧ (t.core c).regs = (s.core c).regs ∧ (t.part pno).odrop = (p.odrop + 1) % 2 ^ 32))
  ∧ (∀ (s : State) (c sl pno : Nat) (v : Word) (u w : Thread) (p : Part), s.thread? c sl = some u → 1 ≤ u.pl → s.corePart c = some pno →
       s.parts.look pno = some p → Quiet s →
       let k := bits v.toNat 11 0
       let n := bits v.toNat 17 12
       (bits v.toNat 19 18 = 1 → s.corePart k = some pno → s.thread? k n = some w → ∃ t, exec (.dbgsStop c sl v) s = .next t
           ∧ t.thread? k n = some { w with dbg := true } ∧ (t.part pno).dbgs.toNat = v.toNat % 2 ^ 18
           ∧ (w.act = false → w.park = none → w.busy ≤ s.clk → w.prog.reply = none → t.dbgState (t.part pno) = 2)
           ∧ (w.act = true → t.dbgState (t.part pno) = 1)
           ∧ (w.act = false → w.prog.reply = none → t.canRun k { w with dbg := true } = false) ∧ (t.core k).regs = (s.core k).regs)
       ∧ (bits v.toNat 19 18 = 2 → s.corePart k = some pno → s.thread? k n = some w → ∃ t, exec (.dbgsResume c sl v) s = .next t
           ∧ t.thread? k n = some { w with dbg := false } ∧ (t.core k).regs = (s.core k).regs)
       ∧ (bits v.toNat 19 18 = 1 → s.corePart k ≠ some pno → exec (.dbgsStop c sl v) s = .next s)
       ∧ (bits v.toNat 19 18 = 2 → s.corePart k ≠ some pno → exec (.dbgsResume c sl v) s = .next s)
       ∧ (∀ d : Code, isGCode d = true → d.toNat < u.lim →
           let reads := fun (x : Word) => ∃ t, exec (.dbgdRead c sl d) s = .next t ∧ (t.core c).greg u d.toNat = x
             ∧ (∀ m, m ≠ d.toNat → (t.core c).greg u m = (s.core c).greg u m) ∧ t.dram = s.dram
           let g := bits p.dbga.toNat 47 40
           (s.dbgState p ≠ 2 → reads 0)
           ∧ (s.dbgState p = 2 → s.thread? p.dbgCore p.dbgSlot = some w → bit p.dbga.toNat 51 = false → g < w.lim →
               reads ((s.core p.dbgCore).greg w g))
           ∧ (∀ y, s.dbgState p = 2 → s.thread? p.dbgCore p.dbgSlot = some w → bit p.dbga.toNat 51 = true →
               w.reg (s.torg pno w) (bits p.dbga.toNat 63 52) = some y → reads y))
       ∧ (s.dbgState p = 2 → s.thread? p.dbgCore p.dbgSlot = some w →
           (bit p.dbga.toNat 51 = false → bits p.dbga.toNat 47 40 < w.lim → ∃ t, exec (.dbgdWrite c sl v) s = .next t
             ∧ (t.core p.dbgCore).greg w (bits p.dbga.toNat 47 40) = v ∧ t.thread? p.dbgCore p.dbgSlot = some w
             ∧ (∀ m, m ≠ bits p.dbga.toNat 47 40 → (t.core p.dbgCore).greg w m = (s.core p.dbgCore).greg w m))
           ∧ (bit p.dbga.toNat 51 = true → ∃ t, exec (.dbgdWrite c sl v) s = .next t
             ∧ t.thread? p.dbgCore p.dbgSlot = some (w.setReg (bits p.dbga.toNat 63 52) v) ∧ (t.core p.dbgCore).regs = (s.core p.dbgCore).regs))
       ∧ (s.dbgState p ≠ 2 → exec (.dbgdWrite c sl v) s = .next s))
end

