-- ==== Sys2Proof/Laws/Exec.lean ====
section
/-!
SUPPORT. The dispatch, one equation for each constructor of Instr: `exec` of an instruction is its meaning.
-/

namespace Sys2Proof.Machine

theorem exec_add (p : Pred) (d a b : Code) (s : State) :
    exec (.add p d a b) s = execAdd p d a b s := rfl
theorem exec_sub (p : Pred) (d a b : Code) (s : State) :
    exec (.sub p d a b) s = execSub p d a b s := rfl
theorem exec_mul (p : Pred) (d a b : Code) (s : State) :
    exec (.mul p d a b) s = execMul p d a b s := rfl
theorem exec_mulh (p : Pred) (d a b : Code) (s : State) :
    exec (.mulh p d a b) s = execMulh p d a b s := rfl
theorem exec_mulhz (p : Pred) (d a b : Code) (s : State) :
    exec (.mulhz p d a b) s = execMulhz p d a b s := rfl
theorem exec_div (p : Pred) (d a b : Code) (s : State) :
    exec (.div p d a b) s = execDiv p d a b s := rfl
theorem exec_divz (p : Pred) (d a b : Code) (s : State) :
    exec (.divz p d a b) s = execDivz p d a b s := rfl
theorem exec_rem (p : Pred) (d a b : Code) (s : State) :
    exec (.rem p d a b) s = execRem p d a b s := rfl
theorem exec_remz (p : Pred) (d a b : Code) (s : State) :
    exec (.remz p d a b) s = execRemz p d a b s := rfl
theorem exec_and (p : Pred) (d a b : Code) (s : State) :
    exec (.and p d a b) s = execAnd p d a b s := rfl
theorem exec_or (p : Pred) (d a b : Code) (s : State) :
    exec (.or p d a b) s = execOr p d a b s := rfl
theorem exec_xor (p : Pred) (d a b : Code) (s : State) :
    exec (.xor p d a b) s = execXor p d a b s := rfl
theorem exec_andn (p : Pred) (d a b : Code) (s : State) :
    exec (.andn p d a b) s = execAndn p d a b s := rfl
theorem exec_shl (p : Pred) (d a b : Code) (s : State) :
    exec (.shl p d a b) s = execShl p d a b s := rfl
theorem exec_shr (p : Pred) (d a b : Code) (s : State) :
    exec (.shr p d a b) s = execShr p d a b s := rfl
theorem exec_sha (p : Pred) (d a b : Code) (s : State) :
    exec (.sha p d a b) s = execSha p d a b s := rfl
theorem exec_rol (p : Pred) (d a b : Code) (s : State) :
    exec (.rol p d a b) s = execRol p d a b s := rfl
theorem exec_min (p : Pred) (d a b : Code) (s : State) :
    exec (.min p d a b) s = execMin p d a b s := rfl
theorem exec_max (p : Pred) (d a b : Code) (s : State) :
    exec (.max p d a b) s = execMax p d a b s := rfl
theorem exec_minz (p : Pred) (d a b : Code) (s : State) :
    exec (.minz p d a b) s = execMinz p d a b s := rfl
theorem exec_maxz (p : Pred) (d a b : Code) (s : State) :
    exec (.maxz p d a b) s = execMaxz p d a b s := rfl
theorem exec_clz (p : Pred) (d a : Code) (s : State) :
    exec (.clz p d a) s = execClz p d a s := rfl
theorem exec_popc (p : Pred) (d a : Code) (s : State) :
    exec (.popc p d a) s = execPopc p d a s := rfl
theorem exec_brev (p : Pred) (d a : Code) (s : State) :
    exec (.brev p d a) s = execBrev p d a s := rfl
theorem exec_madd (p : Pred) (d a b c : Code) (s : State) :
    exec (.madd p d a b c) s = execMadd p d a b c s := rfl
theorem exec_bfx (p : Pred) (d a : Code) (sx : Bool) (pos : Fin 64) (len : Fin 65) (s : State) :
    exec (.bfx p d a sx pos len) s = execBfx p d a sx pos len s := rfl
theorem exec_bfi (p : Pred) (d a b : Code) (pos : Fin 64) (len : Fin 65) (s : State) :
    exec (.bfi p d a b pos len) s = execBfi p d a b pos len s := rfl
theorem exec_addw (p : Pred) (d a b : Code) (s : State) :
    exec (.addw p d a b) s = execAddw p d a b s := rfl
theorem exec_subw (p : Pred) (d a b : Code) (s : State) :
    exec (.subw p d a b) s = execSubw p d a b s := rfl
theorem exec_mulw (p : Pred) (d a b : Code) (s : State) :
    exec (.mulw p d a b) s = execMulw p d a b s := rfl
theorem exec_addi (p : Pred) (d a : Code) (imm : BitVec 33) (s : State) :
    exec (.addi p d a imm) s = execAddi p d a imm s := rfl
theorem exec_andi (p : Pred) (d a : Code) (imm : BitVec 33) (s : State) :
    exec (.andi p d a imm) s = execAndi p d a imm s := rfl
theorem exec_ori (p : Pred) (d a : Code) (imm : BitVec 33) (s : State) :
    exec (.ori p d a imm) s = execOri p d a imm s := rfl
theorem exec_xori (p : Pred) (d a : Code) (imm : BitVec 33) (s : State) :
    exec (.xori p d a imm) s = execXori p d a imm s := rfl
theorem exec_shli (p : Pred) (d a : Code) (sh : Fin 64) (s : State) :
    exec (.shli p d a sh) s = execShli p d a sh s := rfl
theorem exec_shri (p : Pred) (d a : Code) (sh : Fin 64) (s : State) :
    exec (.shri p d a sh) s = execShri p d a sh s := rfl
theorem exec_shai (p : Pred) (d a : Code) (sh : Fin 64) (s : State) :
    exec (.shai p d a sh) s = execShai p d a sh s := rfl
theorem exec_muli (p : Pred) (d a : Code) (imm : BitVec 33) (s : State) :
    exec (.muli p d a imm) s = execMuli p d a imm s := rfl
theorem exec_ldi (p : Pred) (d : Code) (imm : BitVec 33) (s : State) :
    exec (.ldi p d imm) s = execLdi p d imm s := rfl
theorem exec_ldih (p : Pred) (d a : Code) (imm : BitVec 31) (s : State) :
    exec (.ldih p d a imm) s = execLdih p d a imm s := rfl
theorem exec_lea (p : Pred) (d b : Code) (off : BitVec 17) (s : State) :
    exec (.lea p d b off) s = execLea p d b off s := rfl
theorem exec_mov (p : Pred) (d a : Code) (s : State) :
    exec (.mov p d a) s = execMov p d a s := rfl
theorem exec_getid (p : Pred) (d : Code) (sel : Fin 15) (s : State) :
    exec (.getid p d sel) s = execGetid p d sel s := rfl
theorem exec_cmp (p : Pred) (pd : Fin 8) (a b : Code) (cc : CC) (s : State) :
    exec (.cmp p pd a b cc) s = execCmp p pd a b cc s := rfl
theorem exec_cmpi (p : Pred) (pd : Fin 8) (a : Code) (cc : CC) (imm : BitVec 33) (s : State) :
    exec (.cmpi p pd a cc imm) s = execCmpi p pd a cc imm s := rfl
theorem exec_plog (p : Pred) (pd pa pb : Fin 8) (op : PlogOp) (s : State) :
    exec (.plog p pd pa pb op) s = execPlog p pd pa pb op s := rfl
theorem exec_sel (p : Pred) (d : Code) (ps : Fin 8) (ns : Bool) (a b : Code) (s : State) :
    exec (.sel p d ps ns a b) s = execSel p d ps ns a b s := rfl
theorem exec_pget (p : Pred) (d : Code) (s : State) :
    exec (.pget p d) s = execPget p d s := rfl
theorem exec_pset (p : Pred) (a : Code) (s : State) :
    exec (.pset p a) s = execPset p a s := rfl
theorem exec_br (p : Pred) (imm : BitVec 41) (s : State) :
    exec (.br p imm) s = execBr p imm s := rfl
theorem exec_jmp (p : Pred) (a : Code) (s : State) :
    exec (.jmp p a) s = execJmp p a s := rfl
theorem exec_call (p : Pred) (d : Code) (imm : BitVec 41) (s : State) :
    exec (.call p d imm) s = execCall p d imm s := rfl
theorem exec_callr (p : Pred) (d a : Code) (s : State) :
    exec (.callr p d a) s = execCallr p d a s := rfl
theorem exec_ret (p : Pred) (a : Code) (s : State) :
    exec (.ret p a) s = execRet p a s := rfl
theorem exec_loop (p : Pred) (d : Code) (imm : BitVec 41) (s : State) :
    exec (.loop p d imm) s = execLoop p d imm s := rfl
theorem exec_nop (p : Pred) (s : State) :
    exec (.nop p) s = execNop p s := rfl
theorem exec_exit (p : Pred) (s : State) :
    exec (.exit p) s = execExit p s := rfl
theorem exec_ld (p : Pred) (d b : Code) (off : BitVec 17) (sz : Size) (sx loc : Bool) (s : State) :
    exec (.ld p d b off sz sx loc) s = execLd p d b off sz sx loc s := rfl
theorem exec_st (p : Pred) (b a : Code) (off : BitVec 17) (sz : Size) (loc : Bool) (s : State) :
    exec (.st p b a off sz loc) s = execSt p b a off sz loc s := rfl
theorem exec_ldx (p : Pred) (d b c : Code) (sz : Size) (sx loc : Bool) (s : State) :
    exec (.ldx p d b c sz sx loc) s = execLdx p d b c sz sx loc s := rfl
theorem exec_stx (p : Pred) (a b c : Code) (sz : Size) (loc : Bool) (s : State) :
    exec (.stx p a b c sz loc) s = execStx p a b c sz loc s := rfl
theorem exec_lda (p : Pred) (d b : Code) (off : BitVec 17) (sz : Size) (sx loc : Bool) (sc : Scope) (s : State) :
    exec (.lda p d b off sz sx loc sc) s = execLda p d b off sz sx loc sc s := rfl
theorem exec_stl (p : Pred) (b a : Code) (off : BitVec 17) (sz : Size) (loc : Bool) (sc : Scope) (s : State) :
    exec (.stl p b a off sz loc sc) s = execStl p b a off sz loc sc s := rfl
theorem exec_ldf (p : Pred) (d b : Code) (off : BitVec 17) (sz : Size) (sx loc cn : Bool) (s : State) :
    exec (.ldf p d b off sz sx loc cn) s = execLdf p d b off sz sx loc cn s := rfl
theorem exec_stf (p : Pred) (b a : Code) (off : BitVec 17) (sz : Size) (loc : Bool) (s : State) :
    exec (.stf p b a off sz loc) s = execStf p b a off sz loc s := rfl
theorem exec_clre (p : Pred) (b a : Code) (off : BitVec 17) (loc : Bool) (s : State) :
    exec (.clre p b a off loc) s = execClre p b a off loc s := rfl
theorem exec_pref (p : Pred) (b : Code) (off : BitVec 17) (s : State) :
    exec (.pref p b off) s = execPref p b off s := rfl
theorem exec_amo (p : Pred) (d b a : Code) (op : AtOp) (m : AtMod) (s : State) :
    exec (.amo p d b a op m) s = execAmo p d b a op m s := rfl
theorem exec_cas (p : Pred) (d b a c : Code) (m : AtMod) (s : State) :
    exec (.cas p d b a c m) s = execCas p d b a c m s := rfl
theorem exec_red (p : Pred) (b a : Code) (op : AtOp) (m : AtMod) (s : State) :
    exec (.red p b a op m) s = execRed p b a op m s := rfl
theorem exec_famo (p : Pred) (d b a : Code) (op : FAtOp) (m : AtMod) (s : State) :
    exec (.famo p d b a op m) s = execFamo p d b a op m s := rfl
theorem exec_fred (p : Pred) (b a : Code) (op : FAtOp) (m : AtMod) (s : State) :
    exec (.fred p b a op m) s = execFred p b a op m s := rfl
theorem exec_watch (p : Pred) (b a : Code) (off : BitVec 17) (sz : Size) (cmp : WCmp) (sc : Scope) (s : State) :
    exec (.watch p b a off sz cmp sc) s = execWatch p b a off sz cmp sc s := rfl
theorem exec_fence (p : Pred) (k : FenceKind) (sc : Scope) (s : State) :
    exec (.fence p k sc) s = execFence p k sc s := rfl
theorem exec_pfence (p : Pred) (k : PathKind) (s : State) :
    exec (.pfence p k) s = execPfence p k s := rfl
theorem exec_bar (p : Pred) (a b : Code) (sc : Scope) (s : State) :
    exec (.bar p a b sc) s = execBar p a b sc s := rfl
theorem exec_bara (p : Pred) (a b : Code) (sc : Scope) (s : State) :
    exec (.bara p a b sc) s = execBara p a b sc s := rfl
theorem exec_barw (p : Pred) (a b : Code) (sc : Scope) (s : State) :
    exec (.barw p a b sc) s = execBarw p a b sc s := rfl
theorem exec_qpeek (p : Pred) (d a : Code) (s : State) :
    exec (.qpeek p d a) s = execQpeek p d a s := rfl
theorem exec_qcnt (p : Pred) (d a : Code) (s : State) :
    exec (.qcnt p d a) s = execQcnt p d a s := rfl
theorem exec_qbind (p : Pred) (a b : Code) (s : State) :
    exec (.qbind p a b) s = execQbind p a b s := rfl
theorem exec_qflush (p : Pred) (a : Code) (s : State) :
    exec (.qflush p a) s = execQflush p a s := rfl
theorem exec_vsync (p : Pred) (s : State) :
    exec (.vsync p) s = execVsync p s := rfl
theorem exec_kwait (p : Pred) (a b : Code) (cmp : WCmp) (s : State) :
    exec (.kwait p a b cmp) s = execKwait p a b cmp s := rfl
theorem exec_spawn (p : Pred) (a b : Code) (deep : Bool) (dom : Fin 9) (s : State) :
    exec (.spawn p a b deep dom) s = execSpawn p a b deep dom s := rfl
theorem exec_joinw (p : Pred) (a : Code) (sc : Scope) (s : State) :
    exec (.joinw p a sc) s = execJoinw p a sc s := rfl
theorem exec_wfw (p : Pred) (s : State) :
    exec (.wfw p) s = execWfw p s := rfl
theorem exec_tnew (p : Pred) (d a : Code) (lim : Fin 17) (s : State) :
    exec (.tnew p d a lim) s = execTnew p d a lim s := rfl
theorem exec_yield (p : Pred) (s : State) :
    exec (.yield p) s = execYield p s := rfl
theorem exec_park (p : Pred) (a : Code) (s : State) :
    exec (.park p a) s = execPark p a s := rfl
theorem exec_fadd (p : Pred) (d a b : Code) (sz : FSize) (rm : RM) (s : State) :
    exec (.fadd p d a b sz rm) s = execFadd p d a b sz rm s := rfl
theorem exec_fsub (p : Pred) (d a b : Code) (sz : FSize) (rm : RM) (s : State) :
    exec (.fsub p d a b sz rm) s = execFsub p d a b sz rm s := rfl
theorem exec_fmul (p : Pred) (d a b : Code) (sz : FSize) (rm : RM) (s : State) :
    exec (.fmul p d a b sz rm) s = execFmul p d a b sz rm s := rfl
theorem exec_ffma (p : Pred) (d a b c : Code) (sz : FSize) (rm : RM) (s : State) :
    exec (.ffma p d a b c sz rm) s = execFfma p d a b c sz rm s := rfl
theorem exec_fdiv (p : Pred) (d a b : Code) (sz : FSize) (rm : RM) (s : State) :
    exec (.fdiv p d a b sz rm) s = execFdiv p d a b sz rm s := rfl
theorem exec_fsqrt (p : Pred) (d a : Code) (sz : FSize) (rm : RM) (s : State) :
    exec (.fsqrt p d a sz rm) s = execFsqrt p d a sz rm s := rfl
theorem exec_fmin (p : Pred) (d a b : Code) (sz : FSize) (rm : RM) (s : State) :
    exec (.fmin p d a b sz rm) s = execFmin p d a b sz rm s := rfl
theorem exec_fmax (p : Pred) (d a b : Code) (sz : FSize) (rm : RM) (s : State) :
    exec (.fmax p d a b sz rm) s = execFmax p d a b sz rm s := rfl
theorem exec_fcmp (p : Pred) (pd : Fin 8) (a b : Code) (fx : FCmp) (sz : FSize) (rm : RM) (s : State) :
    exec (.fcmp p pd a b fx sz rm) s = execFcmp p pd a b fx sz rm s := rfl
theorem exec_fcvt (p : Pred) (d a : Code) (fx : FCvt) (sz : FSize) (rm : RM) (s : State) :
    exec (.fcvt p d a fx sz rm) s = execFcvt p d a fx sz rm s := rfl
theorem exec_fsgn (p : Pred) (d a b : Code) (fx : FSgn) (sz : FSize) (rm : RM) (s : State) :
    exec (.fsgn p d a b fx sz rm) s = execFsgn p d a b fx sz rm s := rfl
theorem exec_fclass (p : Pred) (d a : Code) (sz : FSize) (rm : RM) (s : State) :
    exec (.fclass p d a sz rm) s = execFclass p d a sz rm s := rfl
theorem exec_vadd (p : Pred) (d a b : Code) (v : VMod) (s : State) :
    exec (.vadd p d a b v) s = execVadd p d a b v s := rfl
theorem exec_vsub (p : Pred) (d a b : Code) (v : VMod) (s : State) :
    exec (.vsub p d a b v) s = execVsub p d a b v s := rfl
theorem exec_vmul (p : Pred) (d a b : Code) (v : VMod) (s : State) :
    exec (.vmul p d a b v) s = execVmul p d a b v s := rfl
theorem exec_vfma (p : Pred) (d a b c : Code) (v : VMod) (s : State) :
    exec (.vfma p d a b c v) s = execVfma p d a b c v s := rfl
theorem exec_vmin (p : Pred) (d a b : Code) (v : VMod) (s : State) :
    exec (.vmin p d a b v) s = execVmin p d a b v s := rfl
theorem exec_vmax (p : Pred) (d a b : Code) (v : VMod) (s : State) :
    exec (.vmax p d a b v) s = execVmax p d a b v s := rfl
theorem exec_vabs (p : Pred) (d a : Code) (v : VMod) (s : State) :
    exec (.vabs p d a v) s = execVabs p d a v s := rfl
theorem exec_vscl (p : Pred) (d a b : Code) (v : VMod) (s : State) :
    exec (.vscl p d a b v) s = execVscl p d a b v s := rfl
theorem exec_vaxpy (p : Pred) (d a b c : Code) (v : VMod) (s : State) :
    exec (.vaxpy p d a b c v) s = execVaxpy p d a b c v s := rfl
theorem exec_vand (p : Pred) (d a b : Code) (v : VMod) (s : State) :
    exec (.vand p d a b v) s = execVand p d a b v s := rfl
theorem exec_vor (p : Pred) (d a b : Code) (v : VMod) (s : State) :
    exec (.vor p d a b v) s = execVor p d a b v s := rfl
theorem exec_vxor (p : Pred) (d a b : Code) (v : VMod) (s : State) :
    exec (.vxor p d a b v) s = execVxor p d a b v s := rfl
theorem exec_vshl (p : Pred) (d a b : Code) (v : VMod) (s : State) :
    exec (.vshl p d a b v) s = execVshl p d a b v s := rfl
theorem exec_vshr (p : Pred) (d a b : Code) (v : VMod) (s : State) :
    exec (.vshr p d a b v) s = execVshr p d a b v s := rfl
theorem exec_vcmp (p : Pred) (d a b : Code) (v : VMod) (s : State) :
    exec (.vcmp p d a b v) s = execVcmp p d a b v s := rfl
theorem exec_vsel (p : Pred) (d a b c : Code) (v : VMod) (s : State) :
    exec (.vsel p d a b c v) s = execVsel p d a b c v s := rfl
theorem exec_vcmul (p : Pred) (d a b : Code) (v : VMod) (s : State) :
    exec (.vcmul p d a b v) s = execVcmul p d a b v s := rfl
theorem exec_vcmac (p : Pred) (d a b c : Code) (v : VMod) (s : State) :
    exec (.vcmac p d a b c v) s = execVcmac p d a b c v s := rfl
theorem exec_vmov (p : Pred) (d a : Code) (v : VMod) (s : State) :
    exec (.vmov p d a v) s = execVmov p d a v s := rfl
theorem exec_vred (p : Pred) (d a : Code) (v : VMod) (s : State) :
    exec (.vred p d a v) s = execVred p d a v s := rfl
theorem exec_vdot (p : Pred) (d a b : Code) (v : VMod) (s : State) :
    exec (.vdot p d a b v) s = execVdot p d a b v s := rfl
theorem exec_vscan (p : Pred) (d a : Code) (v : VMod) (s : State) :
    exec (.vscan p d a v) s = execVscan p d a v s := rfl
theorem exec_vcvt (p : Pred) (d a : Code) (v : VMod) (s : State) :
    exec (.vcvt p d a v) s = execVcvt p d a v s := rfl
theorem exec_vldg (p : Pred) (d a : Code) (v : VMod) (s : State) :
    exec (.vldg p d a v) s = execVldg p d a v s := rfl
theorem exec_vstg (p : Pred) (d a : Code) (v : VMod) (s : State) :
    exec (.vstg p d a v) s = execVstg p d a v s := rfl
theorem exec_vgath (p : Pred) (d a b : Code) (v : VMod) (s : State) :
    exec (.vgath p d a b v) s = execVgath p d a b v s := rfl
theorem exec_vscat (p : Pred) (d a b : Code) (v : VMod) (s : State) :
    exec (.vscat p d a b v) s = execVscat p d a b v s := rfl
theorem exec_vbcst (p : Pred) (d a : Code) (v : VMod) (s : State) :
    exec (.vbcst p d a v) s = execVbcst p d a v s := rfl
theorem exec_viota (p : Pred) (d : Code) (v : VMod) (s : State) :
    exec (.viota p d v) s = execViota p d v s := rfl
theorem exec_vperm (p : Pred) (d a b : Code) (v : VMod) (s : State) :
    exec (.vperm p d a b v) s = execVperm p d a b v s := rfl
theorem exec_vexp (p : Pred) (d a : Code) (v : VMod) (s : State) :
    exec (.vexp p d a v) s = execVexp p d a v s := rfl
theorem exec_vlog (p : Pred) (d a : Code) (v : VMod) (s : State) :
    exec (.vlog p d a v) s = execVlog p d a v s := rfl
theorem exec_vrcp (p : Pred) (d a : Code) (v : VMod) (s : State) :
    exec (.vrcp p d a v) s = execVrcp p d a v s := rfl
theorem exec_vrsq (p : Pred) (d a : Code) (v : VMod) (s : State) :
    exec (.vrsq p d a v) s = execVrsq p d a v s := rfl
theorem exec_vsin (p : Pred) (d a : Code) (v : VMod) (s : State) :
    exec (.vsin p d a v) s = execVsin p d a v s := rfl
theorem exec_vcos (p : Pred) (d a : Code) (v : VMod) (s : State) :
    exec (.vcos p d a v) s = execVcos p d a v s := rfl
theorem exec_enq (p : Pred) (d a : Code) (s : State) :
    exec (.enq p d a) s = execEnq p d a s := rfl
theorem exec_waitj (p : Pred) (a : Code) (s : State) :
    exec (.waitj p a) s = execWaitj p a s := rfl
theorem exec_pollj (p : Pred) (d a : Code) (s : State) :
    exec (.pollj p d a) s = execPollj p d a s := rfl
theorem exec_jstat (p : Pred) (d a : Code) (s : State) :
    exec (.jstat p d a) s = execJstat p d a s := rfl
theorem exec_zfset (p : Pred) (a : Code) (idx : Fin 16) (s : State) :
    exec (.zfset p a idx) s = execZfset p a idx s := rfl
theorem exec_zfget (p : Pred) (d : Code) (idx : Fin 16) (s : State) :
    exec (.zfget p d idx) s = execZfget p d idx s := rfl
theorem exec_sclw (p : Pred) (a : Code) (idx : Fin 16) (s : State) :
    exec (.sclw p a idx) s = execSclw p a idx s := rfl
theorem exec_cbld (p : Pred) (a : Code) (idx : Fin 8) (s : State) :
    exec (.cbld p a idx) s = execCbld p a idx s := rfl
theorem exec_chwp (p : Pred) (d : Code) (idx : Fin 16) (s : State) :
    exec (.chwp p d idx) s = execChwp p d idx s := rfl
theorem exec_boxt (p : Pred) (d a b : Code) (s : State) :
    exec (.boxt p d a b) s = execBoxt p d a b s := rfl
theorem exec_trit (p : Pred) (d a b : Code) (s : State) :
    exec (.trit p d a b) s = execTrit p d a b s := rfl
theorem exec_tspush (p : Pred) (a : Code) (s : State) :
    exec (.tspush p a) s = execTspush p a s := rfl
theorem exec_tspop (p : Pred) (d : Code) (s : State) :
    exec (.tspop p d) s = execTspop p d s := rfl
theorem exec_tsclr (p : Pred) (s : State) :
    exec (.tsclr p) s = execTsclr p s := rfl
theorem exec_smpl (p : Pred) (d a b : Code) (x : SmplKind) (s : State) :
    exec (.smpl p d a b x) s = execSmpl p d a b x s := rfl
theorem exec_sld (p : Pred) (d a : Code) (sz : Size) (s : State) :
    exec (.sld p d a sz) s = execSld p d a sz s := rfl
theorem exec_lset (p : Pred) (a b : Code) (sel : Fin 15) (s : State) :
    exec (.lset p a b sel) s = execLset p a b sel s := rfl
theorem exec_lget (p : Pred) (d a : Code) (sel : Fin 15) (s : State) :
    exec (.lget p d a sel) s = execLget p d a sel s := rfl
theorem exec_lsplit (p : Pred) (a b c : Code) (s : State) :
    exec (.lsplit p a b c) s = execLsplit p a b c s := rfl
theorem exec_lmerge (p : Pred) (a b : Code) (s : State) :
    exec (.lmerge p a b) s = execLmerge p a b s := rfl
theorem exec_lreq (p : Pred) (d : Code) (s : State) :
    exec (.lreq p d) s = execLreq p d s := rfl
theorem exec_ldone (p : Pred) (a : Code) (s : State) :
    exec (.ldone p a) s = execLdone p a s := rfl
theorem exec_lepoch (p : Pred) (a : Code) (s : State) :
    exec (.lepoch p a) s = execLepoch p a s := rfl
theorem exec_wgalloc (p : Pred) (d a : Code) (s : State) :
    exec (.wgalloc p d a) s = execWgalloc p d a s := rfl
theorem exec_wgemit (p : Pred) (a b : Code) (s : State) :
    exec (.wgemit p a b) s = execWgemit p a b s := rfl
theorem exec_wgtake (p : Pred) (d a b : Code) (s : State) :
    exec (.wgtake p d a b) s = execWgtake p d a b s := rfl
theorem exec_wgfree (p : Pred) (a : Code) (s : State) :
    exec (.wgfree p a) s = execWgfree p a s := rfl
theorem exec_paya (p : Pred) (d : Code) (s : State) :
    exec (.paya p d) s = execPaya p d s := rfl
theorem exec_payp (p : Pred) (a b c : Code) (s : State) :
    exec (.payp p a b c) s = execPayp p a b c s := rfl
theorem exec_trap (p : Pred) (imm : BitVec 33) (s : State) :
    exec (.trap p imm) s = execTrap p imm s := rfl
theorem exec_rft (p : Pred) (s : State) :
    exec (.rft p) s = execRft p s := rfl
theorem exec_srrd (p : Pred) (d : Code) (num : BitVec 12) (s : State) :
    exec (.srrd p d num) s = execSrrd p d num s := rfl
theorem exec_srwr (p : Pred) (a : Code) (num : BitVec 12) (s : State) :
    exec (.srwr p a num) s = execSrwr p a num s := rfl
theorem exec_bkpt (p : Pred) (s : State) :
    exec (.bkpt p) s = execBkpt p s := rfl
theorem exec_tlbinv (p : Pred) (a : Code) (all : Bool) (s : State) :
    exec (.tlbinv p a all) s = execTlbinv p a all s := rfl
theorem exec_cinv (p : Pred) (a : Code) (x : CinvKind) (s : State) :
    exec (.cinv p a x) s = execCinv p a x s := rfl
theorem exec_stopw (p : Pred) (sc : Scope) (s : State) :
    exec (.stopw p sc) s = execStopw p sc s := rfl
theorem exec_resw (p : Pred) (sc : Scope) (s : State) :
    exec (.resw p sc) s = execResw p sc s := rfl
theorem exec_logmk (p : Pred) (a : Code) (s : State) :
    exec (.logmk p a) s = execLogmk p a s := rfl
theorem exec_cntrd (p : Pred) (d : Code) (num : BitVec 12) (s : State) :
    exec (.cntrd p d num) s = execCntrd p d num s := rfl
theorem exec_powerOn (images : List Image) (s : State) :
    exec (.powerOn images) s = execPowerOn images s := rfl
theorem exec_bootRestart (images : List Image) (s : State) :
    exec (.bootRestart images) s = execBootRestart images s := rfl
theorem exec_raiseFusedMinimum (proc : Nat) (s : State) :
    exec (.raiseFusedMinimum proc) s = execRaiseFusedMinimum proc s := rfl
theorem exec_getVersion (s : State) :
    exec .getVersion s = execGetVersion s := rfl
theorem exec_getCapabilities (s : State) :
    exec .getCapabilities s = execGetCapabilities s := rfl
theorem exec_negotiateAlgorithms (s : State) :
    exec .negotiateAlgorithms s = execNegotiateAlgorithms s := rfl
theorem exec_getDigests (s : State) :
    exec .getDigests s = execGetDigests s := rfl
theorem exec_getCertificate (slot : Nat) (s : State) :
    exec (.getCertificate slot) s = execGetCertificate slot s := rfl
theorem exec_challenge (slot : Nat) (nonce : List Byte) (s : State) :
    exec (.challenge slot nonce) s = execChallenge slot nonce s := rfl
theorem exec_getMeasurements (index : Nat) (s : State) :
    exec (.getMeasurements index) s = execGetMeasurements index s := rfl
theorem exec_spdmUnsupportedRequest (code : Nat) (s : State) :
    exec (.spdmUnsupportedRequest code) s = execSpdmUnsupportedRequest code s := rfl
theorem exec_thermalTrip (s : State) :
    exec .thermalTrip s = execThermalTrip s := rfl
theorem exec_thermalRelease (s : State) :
    exec .thermalRelease s = execThermalRelease s := rfl
theorem exec_powerThrottleStart (s : State) :
    exec .powerThrottleStart s = execPowerThrottleStart s := rfl
theorem exec_powerThrottleEnd (s : State) :
    exec .powerThrottleEnd s = execPowerThrottleEnd s := rfl
theorem exec_phcmdAssign (v : Word) (s : State) :
    exec (.phcmdAssign v) s = execPhcmdAssign v s := rfl
theorem exec_phcmdRelease (v : Word) (s : State) :
    exec (.phcmdRelease v) s = execPhcmdRelease v s := rfl
theorem exec_releaseScrub (part : Nat) (s : State) :
    exec (.releaseScrub part) s = execReleaseScrub part s := rfl
theorem exec_devnumWrite (v : Word) (s : State) :
    exec (.devnumWrite v) s = execDevnumWrite v s := rfl
theorem exec_gpsRetrain (port : Nat) (s : State) :
    exec (.gpsRetrain port) s = execGpsRetrain port s := rfl
theorem exec_linkTrainingDone (port peer vero : Nat) (s : State) :
    exec (.linkTrainingDone port peer vero) s = execLinkTrainingDone port peer vero s := rfl
theorem exec_portDown (port : Nat) (s : State) :
    exec (.portDown port) s = execPortDown port s := rfl
theorem exec_gondolaForward (pkt : GPacket) (s : State) :
    exec (.gondolaForward pkt) s = execGondolaForward pkt s := rfl
theorem exec_remoteAccessArrival (req : RemReq) (s : State) :
    exec (.remoteAccessArrival req) s = execRemoteAccessArrival req s := rfl
theorem exec_remoteReply (id : Nat) (reply : RemReply) (s : State) :
    exec (.remoteReply id reply) s = execRemoteReply id reply s := rfl
theorem exec_remoteAccessTimeout (id : Nat) (s : State) :
    exec (.remoteAccessTimeout id) s = execRemoteAccessTimeout id s := rfl
theorem exec_vfConfigAccess (vf : Nat) (s : State) :
    exec (.vfConfigAccess vf) s = execVfConfigAccess vf s := rfl
theorem exec_apertureRead (part off size : Nat) (s : State) :
    exec (.apertureRead part off size) s = execApertureRead part off size s := rfl
theorem exec_apertureWrite (part off : Nat) (data : List Byte) (s : State) :
    exec (.apertureWrite part off data) s = execApertureWrite part off data s := rfl
theorem exec_hostRegisterWrite (fn : HostFn) (off : Nat) (v : Word) (s : State) :
    exec (.hostRegisterWrite fn off v) s = execHostRegisterWrite fn off v s := rfl
theorem exec_qdbWrite (part q : Nat) (v : Word) (s : State) :
    exec (.qdbWrite part q v) s = execQdbWrite part q v s := rfl
theorem exec_qcfgEnable (part q : Nat) (v : Word) (s : State) :
    exec (.qcfgEnable part q v) s = execQcfgEnable part q v s := rfl
theorem exec_qcfgDisable (part q : Nat) (v : Word) (s : State) :
    exec (.qcfgDisable part q v) s = execQcfgDisable part q v s := rfl
theorem exec_qcfgPause (part q : Nat) (v : Word) (s : State) :
    exec (.qcfgPause part q v) s = execQcfgPause part q v s := rfl
theorem exec_qcfgUnpause (part q : Nat) (v : Word) (s : State) :
    exec (.qcfgUnpause part q v) s = execQcfgUnpause part q v s := rfl
theorem exec_ifvwWrite (part : Nat) (v : Word) (s : State) :
    exec (.ifvwWrite part v) s = execIfvwWrite part v s := rfl
theorem exec_frcfgEnable (part : Nat) (v : Word) (s : State) :
    exec (.frcfgEnable part v) s = execFrcfgEnable part v s := rfl
theorem exec_frcfgDisable (part : Nat) (v : Word) (s : State) :
    exec (.frcfgDisable part v) s = execFrcfgDisable part v s := rfl
theorem exec_fresRetry (part seq : Nat) (s : State) :
    exec (.fresRetry part seq) s = execFresRetry part seq s := rfl
theorem exec_fresFatalPageflt (part seq : Nat) (s : State) :
    exec (.fresFatalPageflt part seq) s = execFresFatalPageflt part seq s := rfl
theorem exec_fresFatalProt (part seq : Nat) (s : State) :
    exec (.fresFatalProt part seq) s = execFresFatalProt part seq s := rfl
theorem exec_frheadWrite (part : Nat) (v : Word) (s : State) :
    exec (.frheadWrite part v) s = execFrheadWrite part v s := rfl
theorem exec_olcfgEnable (v : Word) (s : State) :
    exec (.olcfgEnable v) s = execOlcfgEnable v s := rfl
theorem exec_launch (part q : Nat) (s : State) :
    exec (.launch part q) s = execLaunch part q s := rfl
theorem exec_rootPlace (part : Nat) (s : State) :
    exec (.rootPlace part) s = execRootPlace part s := rfl
theorem exec_launchComplete (part lid : Nat) (s : State) :
    exec (.launchComplete part lid) s = execLaunchComplete part lid s := rfl
theorem exec_graphLoad (part q : Nat) (s : State) :
    exec (.graphLoad part q) s = execGraphLoad part q s := rfl
theorem exec_triggerBind (part q : Nat) (s : State) :
    exec (.triggerBind part q) s = execTriggerBind part q s := rfl
theorem exec_copy (part q : Nat) (s : State) :
    exec (.copy part q) s = execCopy part q s := rfl
theorem exec_copyComplete (part pid : Nat) (s : State) :
    exec (.copyComplete part pid) s = execCopyComplete part pid s := rfl
theorem exec_signal (part q : Nat) (s : State) :
    exec (.signal part q) s = execSignal part q s := rfl
theorem exec_wait (part q : Nat) (s : State) :
    exec (.wait part q) s = execWait part q s := rfl
theorem exec_waitSatisfied (part pid : Nat) (s : State) :
    exec (.waitSatisfied part pid) s = execWaitSatisfied part pid s := rfl
theorem exec_layerTable (part q : Nat) (s : State) :
    exec (.layerTable part q) s = execLayerTable part q s := rfl
theorem exec_headBind (part q : Nat) (s : State) :
    exec (.headBind part q) s = execHeadBind part q s := rfl
theorem exec_exportQueue (part q : Nat) (s : State) :
    exec (.exportQueue part q) s = execExportQueue part q s := rfl
theorem exec_exportComplete (part pid : Nat) (s : State) :
    exec (.exportComplete part pid) s = execExportComplete part pid s := rfl
theorem exec_importQueue (part q : Nat) (s : State) :
    exec (.importQueue part q) s = execImportQueue part q s := rfl
theorem exec_trigWrite (core slot n : Nat) (s : State) :
    exec (.trigWrite core slot n) s = execTrigWrite core slot n s := rfl
theorem exec_graphNodeLaunch (part trig : Nat) (s : State) :
    exec (.graphNodeLaunch part trig) s = execGraphNodeLaunch part trig s := rfl
theorem exec_graphNodeSignal (part trig : Nat) (s : State) :
    exec (.graphNodeSignal part trig) s = execGraphNodeSignal part trig s := rfl
theorem exec_graphNodeLoop (part trig : Nat) (s : State) :
    exec (.graphNodeLoop part trig) s = execGraphNodeLoop part trig s := rfl
theorem exec_graphNodeCond (part trig : Nat) (s : State) :
    exec (.graphNodeCond part trig) s = execGraphNodeCond part trig s := rfl
theorem exec_graphNodeEnd (part trig : Nat) (s : State) :
    exec (.graphNodeEnd part trig) s = execGraphNodeEnd part trig s := rfl
theorem exec_remoteLaunchRequest (req : RemLaunch) (s : State) :
    exec (.remoteLaunchRequest req) s = execRemoteLaunchRequest req s := rfl
theorem exec_remoteLaneStart (part : Nat) (s : State) :
    exec (.remoteLaneStart part) s = execRemoteLaneStart part s := rfl
theorem exec_remoteLaunchResult (id : Nat) (res : RemResult) (s : State) :
    exec (.remoteLaunchResult id res) s = execRemoteLaunchResult id res s := rfl
theorem exec_remoteLaunchTimeout (id : Nat) (s : State) :
    exec (.remoteLaunchTimeout id) s = execRemoteLaunchTimeout id s := rfl
theorem exec_dploadWrite (core slot : Nat) (v : Word) (s : State) :
    exec (.dploadWrite core slot v) s = execDploadWrite core slot v s := rfl
theorem exec_policyCheckDone (part : Nat) (s : State) :
    exec (.policyCheckDone part) s = execPolicyCheckDone part s := rfl
theorem exec_operatorDisclosureRead (part : Nat) (query : DiscQuery) (s : State) :
    exec (.operatorDisclosureRead part query) s = execOperatorDisclosureRead part query s := rfl
theorem exec_operatorDebugStop (part : Nat) (target : DebugTarget) (s : State) :
    exec (.operatorDebugStop part target) s = execOperatorDebugStop part target s := rfl
theorem exec_debugStopAck (s : State) :
    exec .debugStopAck s = execDebugStopAck s := rfl
theorem exec_disclosureIntervalEnd (part : Nat) (s : State) :
    exec (.disclosureIntervalEnd part) s = execDisclosureIntervalEnd part s := rfl
theorem exec_frameTick (s : State) :
    exec .frameTick s = execFrameTick s := rfl
theorem exec_frameEncode (s : State) :
    exec .frameEncode s = execFrameEncode s := rfl
theorem exec_ecfgKeySet (core slot enc : Nat) (s : State) :
    exec (.ecfgKeySet core slot enc) s = execEcfgKeySet core slot enc s := rfl
theorem exec_threadCreate (core lid : Nat) (s : State) :
    exec (.threadCreate core lid) s = execThreadCreate core lid s := rfl
theorem exec_frameDelivery (core slot : Nat) (s : State) :
    exec (.frameDelivery core slot) s = execFrameDelivery core slot s := rfl
theorem exec_stealRequest (core lid : Nat) (s : State) :
    exec (.stealRequest core lid) s = execStealRequest core lid s := rfl
theorem exec_stealServe (core lid : Nat) (s : State) :
    exec (.stealServe core lid) s = execStealServe core lid s := rfl
theorem exec_stealReplyArrival (core lid : Nat) (s : State) :
    exec (.stealReplyArrival core lid) s = execStealReplyArrival core lid s := rfl
theorem exec_stealRetryTimeout (core lid : Nat) (s : State) :
    exec (.stealRetryTimeout core lid) s = execStealRetryTimeout core lid s := rfl
theorem exec_terminationCount (part lid : Nat) (s : State) :
    exec (.terminationCount part lid) s = execTerminationCount part lid s := rfl
theorem exec_rotationBoundary (core : Nat) (s : State) :
    exec (.rotationBoundary core) s = execRotationBoundary core s := rfl
theorem exec_threadDisplace (core slot : Nat) (s : State) :
    exec (.threadDisplace core slot) s = execThreadDisplace core slot s := rfl
theorem exec_displacedResume (core : Nat) (s : State) :
    exec (.displacedResume core) s = execDisplacedResume core s := rfl
theorem exec_drcfgBind (core slot : Nat) (v : Word) (s : State) :
    exec (.drcfgBind core slot v) s = execDrcfgBind core slot v s := rfl
theorem exec_drcfgUnbind (core slot : Nat) (v : Word) (s : State) :
    exec (.drcfgUnbind core slot v) s = execDrcfgUnbind core slot v s := rfl
theorem exec_dtailWrite (core slot : Nat) (v : Word) (s : State) :
    exec (.dtailWrite core slot v) s = execDtailWrite core slot v s := rfl
theorem exec_dispenserDeliver (cluster : Nat) (s : State) :
    exec (.dispenserDeliver cluster) s = execDispenserDeliver cluster s := rfl
theorem exec_wgdaBind (core slot : Nat) (v : Word) (s : State) :
    exec (.wgdaBind core slot v) s = execWgdaBind core slot v s := rfl
theorem exec_wgdaUnbind (core slot : Nat) (s : State) :
    exec (.wgdaUnbind core slot) s = execWgdaUnbind core slot s := rfl
theorem exec_wgBatchTimeout (cluster node : Nat) (s : State) :
    exec (.wgBatchTimeout cluster node) s = execWgBatchTimeout cluster node s := rfl
theorem exec_wgBatchDeliver (cluster : Nat) (s : State) :
    exec (.wgBatchDeliver cluster) s = execWgBatchDeliver cluster s := rfl
theorem exec_payloadFrameDeliver (cluster : Nat) (s : State) :
    exec (.payloadFrameDeliver cluster) s = execPayloadFrameDeliver cluster s := rfl
theorem exec_channelWake (core slot : Nat) (s : State) :
    exec (.channelWake core slot) s = execChannelWake core slot s := rfl
theorem exec_proxyBatchTimeout (core chan : Nat) (s : State) :
    exec (.proxyBatchTimeout core chan) s = execProxyBatchTimeout core chan s := rfl
theorem exec_proxyDelivery (id : Nat) (s : State) :
    exec (.proxyDelivery id) s = execProxyDelivery id s := rfl
theorem exec_proxyCreditReturn (id : Nat) (s : State) :
    exec (.proxyCreditReturn id) s = execProxyCreditReturn id s := rfl
theorem exec_coreSleep (core : Nat) (s : State) :
    exec (.coreSleep core) s = execCoreSleep core s := rfl
theorem exec_coreWake (core : Nat) (failed : List Nat) (s : State) :
    exec (.coreWake core failed) s = execCoreWake core failed s := rfl
theorem exec_ldfWake (core slot : Nat) (s : State) :
    exec (.ldfWake core slot) s = execLdfWake core slot s := rfl
theorem exec_storeBufferDrain (core pos : Nat) (s : State) :
    exec (.storeBufferDrain core pos) s = execStoreBufferDrain core pos s := rfl
theorem exec_sliceAtomic (id : Nat) (s : State) :
    exec (.sliceAtomic id) s = execSliceAtomic id s := rfl
theorem exec_watchWake (core slot : Nat) (s : State) :
    exec (.watchWake core slot) s = execWatchWake core slot s := rfl
theorem exec_watchPoll (core slot : Nat) (s : State) :
    exec (.watchPoll core slot) s = execWatchPoll core slot s := rfl
theorem exec_tableWalk (core : Nat) (va : Word) (acc : Nat) (s : State) :
    exec (.tableWalk core va acc) s = execTableWalk core va acc s := rfl
theorem exec_faultMessage (part pos : Nat) (s : State) :
    exec (.faultMessage part pos) s = execFaultMessage part pos s := rfl
theorem exec_releaseProbeEcho (core slot slice : Nat) (s : State) :
    exec (.releaseProbeEcho core slot slice) s = execReleaseProbeEcho core slot slice s := rfl
theorem exec_storeAck (id : Nat) (s : State) :
    exec (.storeAck id) s = execStoreAck id s := rfl
theorem exec_joinwWake (core slot : Nat) (s : State) :
    exec (.joinwWake core slot) s = execJoinwWake core slot s := rfl
theorem exec_kwaitWake (core slot : Nat) (s : State) :
    exec (.kwaitWake core slot) s = execKwaitWake core slot s := rfl
theorem exec_parkExpire (core slot : Nat) (s : State) :
    exec (.parkExpire core slot) s = execParkExpire core slot s := rfl
theorem exec_lreqWake (part : Nat) (s : State) :
    exec (.lreqWake part) s = execLreqWake part s := rfl
theorem exec_payaWake (cluster : Nat) (s : State) :
    exec (.payaWake cluster) s = execPayaWake cluster s := rfl
theorem exec_spawnRingWake (core slot : Nat) (s : State) :
    exec (.spawnRingWake core slot) s = execSpawnRingWake core slot s := rfl
theorem exec_stopwComplete (core slot : Nat) (s : State) :
    exec (.stopwComplete core slot) s = execStopwComplete core slot s := rfl
theorem exec_tlbinvComplete (core slot : Nat) (s : State) :
    exec (.tlbinvComplete core slot) s = execTlbinvComplete core slot s := rfl
theorem exec_vectorEntryPerform (core slot : Nat) (s : State) :
    exec (.vectorEntryPerform core slot) s = execVectorEntryPerform core slot s := rfl
theorem exec_lateTrapEntry (core slot : Nat) (s : State) :
    exec (.lateTrapEntry core slot) s = execLateTrapEntry core slot s := rfl
theorem exec_enqAccept (core slot : Nat) (s : State) :
    exec (.enqAccept core slot) s = execEnqAccept core slot s := rfl
theorem exec_waitjWake (core slot : Nat) (s : State) :
    exec (.waitjWake core slot) s = execWaitjWake core slot s := rfl
theorem exec_engineBadcmd (cluster eng : Nat) (s : State) :
    exec (.engineBadcmd cluster eng) s = execEngineBadcmd cluster eng s := rfl
theorem exec_lds (cluster : Nat) (s : State) :
    exec (.lds cluster) s = execLds cluster s := rfl
theorem exec_mma (cluster : Nat) (s : State) :
    exec (.mma cluster) s = execMma cluster s := rfl
theorem exec_sta (cluster : Nat) (s : State) :
    exec (.sta cluster) s = execSta cluster s := rfl
theorem exec_aclr (cluster : Nat) (s : State) :
    exec (.aclr cluster) s = execAclr cluster s := rfl
theorem exec_swaps (cluster : Nat) (s : State) :
    exec (.swaps cluster) s = execSwaps cluster s := rfl
theorem exec_cmma (cluster : Nat) (s : State) :
    exec (.cmma cluster) s = execCmma cluster s := rfl
theorem exec_mstat (cluster : Nat) (s : State) :
    exec (.mstat cluster) s = execMstat cluster s := rfl
theorem exec_fft (cluster : Nat) (s : State) :
    exec (.fft cluster) s = execFft cluster s := rfl
theorem exec_ifft (cluster : Nat) (s : State) :
    exec (.ifft cluster) s = execIfft cluster s := rfl
theorem exec_xact (cluster : Nat) (s : State) :
    exec (.xact cluster) s = execXact cluster s := rfl
theorem exec_cpy (cluster chan : Nat) (s : State) :
    exec (.cpy cluster chan) s = execCpy cluster chan s := rfl
theorem exec_gthr (cluster chan : Nat) (s : State) :
    exec (.gthr cluster chan) s = execGthr cluster chan s := rfl
theorem exec_sctr (cluster chan : Nat) (s : State) :
    exec (.sctr cluster chan) s = execSctr cluster chan s := rfl
theorem exec_fill (cluster chan : Nat) (s : State) :
    exec (.fill cluster chan) s = execFill cluster chan s := rfl
theorem exec_ared (cluster chan : Nat) (s : State) :
    exec (.ared cluster chan) s = execAred cluster chan s := rfl
theorem exec_bcst (cluster chan : Nat) (s : State) :
    exec (.bcst cluster chan) s = execBcst cluster chan s := rfl
theorem exec_agth (cluster chan : Nat) (s : State) :
    exec (.agth cluster chan) s = execAgth cluster chan s := rfl
theorem exec_collectiveContribution (msg : Contribution) (s : State) :
    exec (.collectiveContribution msg) s = execCollectiveContribution msg s := rfl
theorem exec_collectiveTimeout (cluster chan : Nat) (s : State) :
    exec (.collectiveTimeout cluster chan) s = execCollectiveTimeout cluster chan s := rfl
theorem exec_hcfgWrite (core slot eng : Nat) (v : Word) (s : State) :
    exec (.hcfgWrite core slot eng v) s = execHcfgWrite core slot eng v s := rfl
theorem exec_cpreqPreempt (core slot : Nat) (v : Word) (s : State) :
    exec (.cpreqPreempt core slot v) s = execCpreqPreempt core slot v s := rfl
theorem exec_preemptSave (core : Nat) (s : State) :
    exec (.preemptSave core) s = execPreemptSave core s := rfl
theorem exec_cpreqResume (core slot : Nat) (v : Word) (s : State) :
    exec (.cpreqResume core slot v) s = execCpreqResume core slot v s := rfl
theorem exec_dbgsStop (core slot : Nat) (v : Word) (s : State) :
    exec (.dbgsStop core slot v) s = execDbgsStop core slot v s := rfl
theorem exec_dbgsResume (core slot : Nat) (v : Word) (s : State) :
    exec (.dbgsResume core slot v) s = execDbgsResume core slot v s := rfl
theorem exec_dbgdRead (core slot : Nat) (d : Code) (s : State) :
    exec (.dbgdRead core slot d) s = execDbgdRead core slot d s := rfl
theorem exec_dbgdWrite (core slot : Nat) (v : Word) (s : State) :
    exec (.dbgdWrite core slot v) s = execDbgdWrite core slot v s := rfl
theorem exec_eccCorrected (loc : ErrLoc) (s : State) :
    exec (.eccCorrected loc) s = execEccCorrected loc s := rfl
theorem exec_eccUncorrectable (loc : ErrLoc) (s : State) :
    exec (.eccUncorrectable loc) s = execEccUncorrectable loc s := rfl
theorem exec_machineCheck (part : Option Nat) (s : State) :
    exec (.machineCheck part) s = execMachineCheck part s := rfl
theorem exec_ocfgEnable (core slot : Nat) (v : Word) (s : State) :
    exec (.ocfgEnable core slot v) s = execOcfgEnable core slot v s := rfl
theorem exec_stateLogTimeout (core : Nat) (s : State) :
    exec (.stateLogTimeout core) s = execStateLogTimeout core s := rfl
theorem exec_ringFetchFault (part q : Nat) (s : State) :
    exec (.ringFetchFault part q) s = execRingFetchFault part q s := rfl
theorem exec_badpkt (part q : Nat) (s : State) :
    exec (.badpkt part q) s = execBadpkt part q s := rfl
theorem exec_acceptanceReply (id : Nat) (s : State) :
    exec (.acceptanceReply id) s = execAcceptanceReply id s := rfl

end Sys2Proof.Machine
end

