-- ==== Sys2Proof/Laws/Maps.lean ====
section
/-!
SUPPORT. Maps by key: what a read gives after a write, after a removal, and after a write that lists nothing for the
default.
-/

namespace Sys2Proof.Machine

variable {α : Type}

@[simp] theorem KMap.look_nil (i : Nat) : KMap.look ([] : KMap α) i = none := rfl

theorem KMap.look_put (m : KMap α) (i j : Nat) (x : α) :
    KMap.look (KMap.put m i x) j = if j = i then some x else KMap.look m j := by
  induction m with
  | nil => by_cases h : i = j <;> simp [KMap.put, KMap.look, h, eq_comm]
  | cons e m ih =>
    obtain ⟨k, v⟩ := e
    unfold KMap.put
    split
    · by_cases h : i = j <;> simp [KMap.look, h, eq_comm]
    · split
      · rename_i h; subst h
        by_cases h : i = j <;> simp [KMap.look, h, eq_comm]
      · by_cases h : k = j
        · subst h; rename_i h1 h2; simp [KMap.look, Ne.symm h2]
        · simp [KMap.look, h, ih]

@[simp] theorem KMap.look_put_self (m : KMap α) (i : Nat) (x : α) : KMap.look (KMap.put m i x) i = some x := by
  simp [KMap.look_put]

theorem KMap.look_put_ne (m : KMap α) {i j : Nat} (x : α) (h : j ≠ i) : KMap.look (KMap.put m i x) j = KMap.look m j := by
  simp [KMap.look_put, h]

theorem KMap.lookD_put (m : KMap α) (i j : Nat) (x d : α) :
    KMap.lookD (KMap.put m i x) j d = if j = i then x else KMap.lookD m j d := by
  unfold KMap.lookD; rw [KMap.look_put]; split <;> rfl

@[simp] theorem KMap.lookD_put_self (m : KMap α) (i : Nat) (x d : α) : KMap.lookD (KMap.put m i x) i d = x := by
  simp [KMap.lookD_put]

theorem KMap.look_del (m : KMap α) (i j : Nat) : KMap.look (KMap.del m i) j = if j = i then none else KMap.look m j := by
  unfold KMap.del
  induction m with
  | nil => simp
  | cons e m ih =>
    obtain ⟨k, v⟩ := e
    by_cases hk : k = i
    · subst hk
      simp only [List.filter, ne_eq, not_true_eq_false, decide_false]
      rw [ih]; by_cases h : j = k
      · simp [h]
      · simp [KMap.look, h, Ne.symm h]
    · simp only [List.filter, ne_eq, hk, not_false_eq_true, decide_true, KMap.look]
      by_cases h : k = j
      · subst h; simp [hk]
      · simp only [h, if_false]; exact ih

theorem KMap.lookD_putD [DecidableEq α] (d : α) (m : KMap α) (i j : Nat) (x : α) :
    KMap.lookD (KMap.putD d m i x) j d = if j = i then x else KMap.lookD m j d := by
  unfold KMap.putD
  split
  · rename_i h; subst h; unfold KMap.lookD; rw [KMap.look_del]; split <;> rfl
  · exact KMap.lookD_put m i j x d

theorem KMap.look_mapVals {β : Type} (f : α → β) (m : KMap α) (i : Nat) :
    KMap.look (KMap.mapVals f m) i = (KMap.look m i).map f := by
  unfold KMap.mapVals
  induction m with
  | nil => rfl
  | cons e m ih =>
    obtain ⟨k, v⟩ := e
    by_cases h : k = i
    · simp [KMap.look, h]
    · simp only [List.map, KMap.look, h, if_false]; exact ih

end Sys2Proof.Machine
end

