-- ==== Sys2Proof/Laws/Memory.lean ====
section
/-!
SUPPORT. Memories: a byte written is the byte read, every other byte is left as it was, and every operation keeps the
canonical form.
-/

namespace Sys2Proof.Machine

/-- Lists of cells as Memory holds them are read past everything at or below an address they are asked for. -/
theorem Memory.get_dropWhile (m : Memory) (a x : Nat) (h : a < x) :
    Memory.get (m.dropWhile fun e => e.1 ≤ a) x = Memory.get m x := by
  induction m with
  | nil => rfl
  | cons e m ih =>
    obtain ⟨k, v⟩ := e
    by_cases hk : k ≤ a
    · have h1 : k ≠ x := by omega
      have h2 : ¬ x < k := by omega
      simp only [List.dropWhile, hk, decide_true, Memory.get, h1, h2, if_false]; exact ih
    · simp [List.dropWhile, hk]

theorem Memory.get_dropWhile_low (m : Memory) (a x : Nat) (h : x ≤ a) :
    Memory.get (m.dropWhile fun e => e.1 ≤ a) x = 0 := by
  induction m with
  | nil => rfl
  | cons e m ih =>
    obtain ⟨k, v⟩ := e
    by_cases hk : k ≤ a
    · simp only [List.dropWhile, hk, decide_true]; exact ih
    · have h1 : k ≠ x := by omega
      have h2 : x < k := by omega
      simp [List.dropWhile, hk, Memory.get, h1, h2]

/-- A read after a write of one byte. -/
theorem Memory.get_set (m : Memory) (a x : Nat) (b : Byte) :
    Memory.get (Memory.set m a b) x = if x = a then b else Memory.get m x := by
  induction m with
  | nil =>
    unfold Memory.set
    by_cases hb : b = 0
    · simp [hb, Memory.get]
    · rw [if_neg hb]
      by_cases hx : a = x
      · simp [Memory.get, hx]
      · simp [Memory.get, hx, Ne.symm hx]
  | cons e m ih =>
    obtain ⟨k, v⟩ := e
    unfold Memory.set
    split
    · rename_i hak
      by_cases hb : b = 0
      · simp only [hb, if_true]
        by_cases hx : x = a
        · subst hx; have h1 : k ≠ x := by omega
          simp [Memory.get, h1, hak]
        · simp [hx]
      · simp only [hb, if_false]
        by_cases hx : x = a
        · subst hx; simp [Memory.get]
        · rw [Memory.get]
          simp only [Ne.symm hx, hx, if_false]
          split
          · rename_i h; have h1 : k ≠ x := by omega
            have h2 : x < k := by omega
            simp [Memory.get, h1, h2]
          · rfl
    · rename_i hak
      split
      · rename_i hk; subst hk
        by_cases hb : b = 0
        · simp only [hb, if_true]
          by_cases hx : x = a
          · subst hx; simp [Memory.get_dropWhile_low]
          · rw [if_neg hx]
            by_cases hlt : x < a
            · rw [Memory.get_dropWhile_low _ _ _ (by omega)]; simp [Memory.get, Ne.symm hx, hlt]
            · rw [Memory.get_dropWhile _ _ _ (by omega)]; simp [Memory.get, Ne.symm hx, hlt]
        · simp only [hb, if_false]
          by_cases hx : x = a
          · subst hx; simp [Memory.get]
          · simp [Memory.get, hx, Ne.symm hx]
      · rename_i hk
        by_cases hx : k = x
        · subst hx; simp [Memory.get, Ne.symm hk]
        · by_cases hlt : x < k
          · have : x ≠ a := by omega
            simp [Memory.get, hx, hlt, this]
          · simp only [Memory.get, hx, hlt, if_false]; exact ih

@[simp] theorem Memory.get_set_self (m : Memory) (a : Nat) (b : Byte) : Memory.get (Memory.set m a b) a = b := by
  simp [Memory.get_set]

theorem Memory.get_set_ne (m : Memory) {a x : Nat} (b : Byte) (h : x ≠ a) :
    Memory.get (Memory.set m a b) x = Memory.get m x := by simp [Memory.get_set, h]

/-- A read after a write of a run of bytes. -/
theorem Memory.get_store (bs : List Byte) : ∀ (m : Memory) (a x : Nat),
    Memory.get (Memory.store m a bs) x =
      if a ≤ x ∧ x < a + bs.length then bs.getD (x - a) 0 else Memory.get m x := by
  induction bs with
  | nil => intro m a x; simp [Memory.store]
  | cons b bs ih =>
    intro m a x
    rw [Memory.store, ih, Memory.get_set]
    simp only [List.length_cons]
    by_cases h : x = a
    · subst h; simp
    · by_cases h2 : a + 1 ≤ x ∧ x < a + 1 + bs.length
      · have h3 : a ≤ x ∧ x < a + (bs.length + 1) := by omega
        rw [if_pos h2, if_pos h3]
        have : x - a = (x - (a + 1)) + 1 := by omega
        rw [this]; rfl
      · have h3 : ¬ (a ≤ x ∧ x < a + (bs.length + 1)) := by omega
        rw [if_neg h2, if_neg h3, if_neg h]

theorem Memory.bytes_congr (m m' : Memory) (n : Nat) : ∀ (a : Nat),
    (∀ i, i < n → Memory.get m (a + i) = Memory.get m' (a + i)) → Memory.bytes m a n = Memory.bytes m' a n := by
  induction n with
  | zero => intro a _; rfl
  | succ n ih =>
    intro a h
    unfold Memory.bytes
    have h0 := h 0 (by omega)
    rw [Nat.add_zero] at h0
    rw [h0, ih (a + 1) fun i hi => by have := h (i + 1) (by omega); rwa [Nat.add_assoc, Nat.add_comm 1]]

theorem Memory.bytes_store (bs : List Byte) : ∀ (m : Memory) (a : Nat),
    Memory.bytes (Memory.store m a bs) a bs.length = bs := by
  induction bs with
  | nil => intro m a; rfl
  | cons b bs ih =>
    intro m a
    simp only [Memory.store, List.length_cons, Memory.bytes]
    rw [ih, Memory.get_store]
    have : ¬ (a + 1 ≤ a ∧ a < a + 1 + bs.length) := by omega
    rw [if_neg this]; simp

/-! ### The canonical form -/

theorem Memory.wfFrom_mono (m : Memory) {lo lo' : Nat} (h : lo' ≤ lo) (hw : Memory.wfFrom lo m = true) :
    Memory.wfFrom lo' m = true := by
  cases m with
  | nil => rfl
  | cons e m =>
    obtain ⟨k, v⟩ := e
    simp only [Memory.wfFrom, Bool.and_eq_true, decide_eq_true_eq] at hw ⊢
    exact ⟨⟨by omega, hw.1.2⟩, hw.2⟩

theorem Memory.wfFrom_dropWhile (m : Memory) (p : Host.Cell → Bool) : ∀ (lo : Nat),
    Memory.wfFrom lo m = true → Memory.wfFrom lo (m.dropWhile p) = true := by
  induction m with
  | nil => intro lo _; rfl
  | cons e m ih =>
    obtain ⟨k, v⟩ := e
    intro lo h
    simp only [List.dropWhile]
    split
    · simp only [Memory.wfFrom, Bool.and_eq_true, decide_eq_true_eq] at h
      exact Memory.wfFrom_mono _ (by omega) (ih _ h.2)
    · exact h

theorem Memory.wfFrom_set (m : Memory) : ∀ (lo a : Nat) (b : Byte), lo ≤ a → Memory.wfFrom lo m = true →
    Memory.wfFrom lo (Memory.set m a b) = true := by
  induction m with
  | nil =>
    intro lo a b h _
    unfold Memory.set
    split
    · rfl
    · rename_i hb; simp only [Memory.wfFrom, Bool.and_true, Bool.and_eq_true, decide_eq_true_eq, bne_iff_ne]; exact ⟨h, hb⟩
  | cons e m ih =>
    obtain ⟨k, v⟩ := e
    intro lo a b h hw
    have hw' := hw
    simp only [Memory.wfFrom, Bool.and_eq_true, decide_eq_true_eq, bne_iff_ne, ne_eq] at hw
    unfold Memory.set
    split
    · rename_i hak
      split
      · exact hw'
      · rename_i hb
        simp only [Memory.wfFrom, Bool.and_eq_true, decide_eq_true_eq, bne_iff_ne, ne_eq]
        exact ⟨⟨h, hb⟩, ⟨by omega, hw.1.2⟩, hw.2⟩
    · split
      · rename_i hk; subst hk
        split
        · exact Memory.wfFrom_dropWhile _ _ _ (Memory.wfFrom_mono _ (by omega) hw.2)
        · rename_i hb
          simp only [Memory.wfFrom, Bool.and_eq_true, decide_eq_true_eq, bne_iff_ne, ne_eq]
          exact ⟨⟨h, hb⟩, hw.2⟩
      · simp only [Memory.wfFrom, Bool.and_eq_true, decide_eq_true_eq, bne_iff_ne, ne_eq]
        exact ⟨hw.1, ih _ _ _ (by omega) hw.2⟩

/-- A write keeps the canonical form. -/
theorem Memory.wf_set (m : Memory) (a : Nat) (b : Byte) (h : m.wf = true) : (Memory.set m a b).wf = true :=
  Memory.wfFrom_set m 0 a b (Nat.zero_le _) h

theorem Memory.wf_store (bs : List Byte) : ∀ (m : Memory) (a : Nat), m.wf = true → (Memory.store m a bs).wf = true := by
  induction bs with
  | nil => intro m a h; exact h
  | cons b bs ih => intro m a h; exact ih _ _ (Memory.wf_set m a b h)

theorem Memory.wfFrom_filter (m : Memory) (p : Host.Cell → Bool) : ∀ (lo : Nat),
    Memory.wfFrom lo m = true → Memory.wfFrom lo (m.filter p) = true := by
  induction m with
  | nil => intro lo _; rfl
  | cons e m ih =>
    obtain ⟨k, v⟩ := e
    intro lo h
    simp only [Memory.wfFrom, Bool.and_eq_true, decide_eq_true_eq] at h
    simp only [List.filter]
    split
    · simp only [Memory.wfFrom, Bool.and_eq_true, decide_eq_true_eq]; exact ⟨h.1, ih _ h.2⟩
    · exact Memory.wfFrom_mono _ (by omega) (ih _ h.2)

/-- Clearing keeps it. -/
theorem Memory.wf_clear (m : Memory) (a n : Nat) (h : m.wf = true) : (Memory.clear m a n).wf = true :=
  Memory.wfFrom_filter m _ 0 h

/-- Reset's memories have it. -/
theorem reset_memories_wf : State.reset.dram.wf = true ∧ State.reset.host.wf = true ∧ Core.zero.lmem.wf = true := by
  decide

/-! ### Little-endian bytes (R6) -/

theorem leBytes_length (n : Nat) : ∀ v, (leBytes n v).length = n := by
  induction n with
  | zero => intro v; rfl
  | succ n ih => intro v; simp [leBytes, ih]

theorem leNat_leBytes (n : Nat) : ∀ v, leNat (leBytes n v) = v % 256 ^ n := by
  induction n with
  | zero => intro v; simp [leBytes, leNat, Nat.mod_one]
  | succ n ih =>
    intro v
    simp only [leBytes, leNat, ih, BitVec.toNat_ofNat]
    rw [show 256 ^ (n + 1) = 256 * 256 ^ n by rw [Nat.pow_succ, Nat.mul_comm], Nat.mod_mul]

/-- A number stored in `n` bytes is read back from them. -/
theorem Memory.read_store (m : Memory) (a n v : Nat) : Memory.read (Memory.store m a (leBytes n v)) a n = v % 256 ^ n := by
  unfold Memory.read
  have h := Memory.bytes_store (leBytes n v) m a
  rw [leBytes_length] at h
  rw [h, leNat_leBytes]

end Sys2Proof.Machine
end

