-- ==== Sys2Proof/Laws/State.lean ====
section
/-!
SUPPORT. One lemma for each field and each named update of the state, a core and a thread: what an update does not name
it leaves as it was.
-/

namespace Sys2Proof.Machine

@[simp] theorem State.setCore_clk (s : State) (c : Nat) (x : Core) : (s.setCore c x).clk = s.clk := rfl
@[simp] theorem State.setCore_booted (s : State) (c : Nat) (x : Core) : (s.setCore c x).booted = s.booted := rfl
@[simp] theorem State.setCore_bootStage (s : State) (c : Nat) (x : Core) : (s.setCore c x).bootStage = s.bootStage := rfl
@[simp] theorem State.setCore_bootReason (s : State) (c : Nat) (x : Core) : (s.setCore c x).bootReason = s.bootReason := rfl
@[simp] theorem State.setCore_trip (s : State) (c : Nat) (x : Core) : (s.setCore c x).trip = s.trip := rfl
@[simp] theorem State.setCore_hold (s : State) (c : Nat) (x : Core) : (s.setCore c x).hold = s.hold := rfl
@[simp] theorem State.setCore_tripAt (s : State) (c : Nat) (x : Core) : (s.setCore c x).tripAt = s.tripAt := rfl
@[simp] theorem State.setCore_throttle (s : State) (c : Nat) (x : Core) : (s.setCore c x).throttle = s.throttle := rfl
@[simp] theorem State.setCore_meas (s : State) (c : Nat) (x : Core) : (s.setCore c x).meas = s.meas := rfl
@[simp] theorem State.setCore_minima (s : State) (c : Nat) (x : Core) : (s.setCore c x).minima = s.minima := rfl
@[simp] theorem State.setCore_keyDigests (s : State) (c : Nat) (x : Core) : (s.setCore c x).keyDigests = s.keyDigests := rfl
@[simp] theorem State.setCore_running (s : State) (c : Nat) (x : Core) : (s.setCore c x).running = s.running := rfl
@[simp] theorem State.setCore_devnum (s : State) (c : Nat) (x : Core) : (s.setCore c x).devnum = s.devnum := rfl
@[simp] theorem State.setCore_ports (s : State) (c : Nat) (x : Core) : (s.setCore c x).ports = s.ports := rfl
@[simp] theorem State.setCore_grt (s : State) (c : Nat) (x : Core) : (s.setCore c x).grt = s.grt := rfl
@[simp] theorem State.setCore_qmap (s : State) (c : Nat) (x : Core) : (s.setCore c x).qmap = s.qmap := rfl
@[simp] theorem State.setCore_phres (s : State) (c : Nat) (x : Core) : (s.setCore c x).phres = s.phres := rfl
@[simp] theorem State.setCore_phkey (s : State) (c : Nat) (x : Core) : (s.setCore c x).phkey = s.phkey := rfl
@[simp] theorem State.setCore_phcode (s : State) (c : Nat) (x : Core) : (s.setCore c x).phcode = s.phcode := rfl
@[simp] theorem State.setCore_phstate (s : State) (c : Nat) (x : Core) : (s.setCore c x).phstate = s.phstate := rfl
@[simp] theorem State.setCore_phpart (s : State) (c : Nat) (x : Core) : (s.setCore c x).phpart = s.phpart := rfl
@[simp] theorem State.setCore_olog (s : State) (c : Nat) (x : Core) : (s.setCore c x).olog = s.olog := rfl
@[simp] theorem State.setCore_opstops (s : State) (c : Nat) (x : Core) : (s.setCore c x).opstops = s.opstops := rfl
@[simp] theorem State.setCore_keyGens (s : State) (c : Nat) (x : Core) : (s.setCore c x).keyGens = s.keyGens := rfl
@[simp] theorem State.setCore_okis (s : State) (c : Nat) (x : Core) : (s.setCore c x).okis = s.okis := rfl
@[simp] theorem State.setCore_parts (s : State) (c : Nat) (x : Core) : (s.setCore c x).parts = s.parts := rfl
@[simp] theorem State.setCore_clusters (s : State) (c : Nat) (x : Core) : (s.setCore c x).clusters = s.clusters := rfl
@[simp] theorem State.setCore_walkCache (s : State) (c : Nat) (x : Core) : (s.setCore c x).walkCache = s.walkCache := rfl
@[simp] theorem State.setCore_watches (s : State) (c : Nat) (x : Core) : (s.setCore c x).watches = s.watches := rfl
@[simp] theorem State.setCore_slices (s : State) (c : Nat) (x : Core) : (s.setCore c x).slices = s.slices := rfl
@[simp] theorem State.setCore_dram (s : State) (c : Nat) (x : Core) : (s.setCore c x).dram = s.dram := rfl
@[simp] theorem State.setCore_dkey (s : State) (c : Nat) (x : Core) : (s.setCore c x).dkey = s.dkey := rfl
@[simp] theorem State.setCore_dpoison (s : State) (c : Nat) (x : Core) : (s.setCore c x).dpoison = s.dpoison := rfl
@[simp] theorem State.setCore_host (s : State) (c : Nat) (x : Core) : (s.setCore c x).host = s.host := rfl
@[simp] theorem State.setCore_hostHoles (s : State) (c : Nat) (x : Core) : (s.setCore c x).hostHoles = s.hostHoles := rfl
@[simp] theorem State.setCore_flights (s : State) (c : Nat) (x : Core) : (s.setCore c x).flights = s.flights := rfl
@[simp] theorem State.setCore_nextId (s : State) (c : Nat) (x : Core) : (s.setCore c x).nextId = s.nextId := rfl
@[simp] theorem State.setCore_tick (s : State) (c : Nat) (x : Core) : (s.setCore c x).tick = s.tick := rfl
@[simp] theorem State.setCore_fwdCounts (s : State) (c : Nat) (x : Core) : (s.setCore c x).fwdCounts = s.fwdCounts := rfl
@[simp] theorem State.setCore_dramCounts (s : State) (c : Nat) (x : Core) : (s.setCore c x).dramCounts = s.dramCounts := rfl
@[simp] theorem State.setCore_bridgeCounts (s : State) (c : Nat) (x : Core) : (s.setCore c x).bridgeCounts = s.bridgeCounts := rfl
@[simp] theorem State.setCore_hostCounts (s : State) (c : Nat) (x : Core) : (s.setCore c x).hostCounts = s.hostCounts := rfl
@[simp] theorem State.setCore_powerEvents (s : State) (c : Nat) (x : Core) : (s.setCore c x).powerEvents = s.powerEvents := rfl
@[simp] theorem State.setCore_trips (s : State) (c : Nat) (x : Core) : (s.setCore c x).trips = s.trips := rfl
@[simp] theorem State.setCore_corrected0 (s : State) (c : Nat) (x : Core) : (s.setCore c x).corrected0 = s.corrected0 := rfl
@[simp] theorem State.setCore_uncorrected0 (s : State) (c : Nat) (x : Core) : (s.setCore c x).uncorrected0 = s.uncorrected0 := rfl
@[simp] theorem State.setCore_out (s : State) (c : Nat) (x : Core) : (s.setCore c x).out = s.out := rfl
@[simp] theorem State.setCore_cur (s : State) (c : Nat) (x : Core) : (s.setCore c x).cur = s.cur := rfl
@[simp] theorem State.setCore_agenda (s : State) (c : Nat) (x : Core) : (s.setCore c x).agenda = s.agenda := rfl
@[simp] theorem State.setCore_phase (s : State) (c : Nat) (x : Core) : (s.setCore c x).phase = s.phase := rfl
@[simp] theorem State.setCore_evTurn (s : State) (c : Nat) (x : Core) : (s.setCore c x).evTurn = s.evTurn := rfl
@[simp] theorem State.setCore_turn (s : State) (c : Nat) (x : Core) : (s.setCore c x).turn = s.turn := rfl
@[simp] theorem State.setCore_choices (s : State) (c : Nat) (x : Core) : (s.setCore c x).choices = s.choices := rfl
@[simp] theorem State.setCore_freec (s : State) (c : Nat) (x : Core) : (s.setCore c x).freec = s.freec := rfl
@[simp] theorem State.setCore_stamp (s : State) (c : Nat) (x : Core) : (s.setCore c x).stamp = s.stamp := rfl

@[simp] theorem State.modCore_clk (s : State) (c : Nat) (f : Core → Core) : (s.modCore c f).clk = s.clk := rfl
@[simp] theorem State.modCore_booted (s : State) (c : Nat) (f : Core → Core) : (s.modCore c f).booted = s.booted := rfl
@[simp] theorem State.modCore_bootStage (s : State) (c : Nat) (f : Core → Core) : (s.modCore c f).bootStage = s.bootStage := rfl
@[simp] theorem State.modCore_bootReason (s : State) (c : Nat) (f : Core → Core) : (s.modCore c f).bootReason = s.bootReason := rfl
@[simp] theorem State.modCore_trip (s : State) (c : Nat) (f : Core → Core) : (s.modCore c f).trip = s.trip := rfl
@[simp] theorem State.modCore_hold (s : State) (c : Nat) (f : Core → Core) : (s.modCore c f).hold = s.hold := rfl
@[simp] theorem State.modCore_tripAt (s : State) (c : Nat) (f : Core → Core) : (s.modCore c f).tripAt = s.tripAt := rfl
@[simp] theorem State.modCore_throttle (s : State) (c : Nat) (f : Core → Core) : (s.modCore c f).throttle = s.throttle := rfl
@[simp] theorem State.modCore_meas (s : State) (c : Nat) (f : Core → Core) : (s.modCore c f).meas = s.meas := rfl
@[simp] theorem State.modCore_minima (s : State) (c : Nat) (f : Core → Core) : (s.modCore c f).minima = s.minima := rfl
@[simp] theorem State.modCore_keyDigests (s : State) (c : Nat) (f : Core → Core) : (s.modCore c f).keyDigests = s.keyDigests := rfl
@[simp] theorem State.modCore_running (s : State) (c : Nat) (f : Core → Core) : (s.modCore c f).running = s.running := rfl
@[simp] theorem State.modCore_devnum (s : State) (c : Nat) (f : Core → Core) : (s.modCore c f).devnum = s.devnum := rfl
@[simp] theorem State.modCore_ports (s : State) (c : Nat) (f : Core → Core) : (s.modCore c f).ports = s.ports := rfl
@[simp] theorem State.modCore_grt (s : State) (c : Nat) (f : Core → Core) : (s.modCore c f).grt = s.grt := rfl
@[simp] theorem State.modCore_qmap (s : State) (c : Nat) (f : Core → Core) : (s.modCore c f).qmap = s.qmap := rfl
@[simp] theorem State.modCore_phres (s : State) (c : Nat) (f : Core → Core) : (s.modCore c f).phres = s.phres := rfl
@[simp] theorem State.modCore_phkey (s : State) (c : Nat) (f : Core → Core) : (s.modCore c f).phkey = s.phkey := rfl
@[simp] theorem State.modCore_phcode (s : State) (c : Nat) (f : Core → Core) : (s.modCore c f).phcode = s.phcode := rfl
@[simp] theorem State.modCore_phstate (s : State) (c : Nat) (f : Core → Core) : (s.modCore c f).phstate = s.phstate := rfl
@[simp] theorem State.modCore_phpart (s : State) (c : Nat) (f : Core → Core) : (s.modCore c f).phpart = s.phpart := rfl
@[simp] theorem State.modCore_olog (s : State) (c : Nat) (f : Core → Core) : (s.modCore c f).olog = s.olog := rfl
@[simp] theorem State.modCore_opstops (s : State) (c : Nat) (f : Core → Core) : (s.modCore c f).opstops = s.opstops := rfl
@[simp] theorem State.modCore_keyGens (s : State) (c : Nat) (f : Core → Core) : (s.modCore c f).keyGens = s.keyGens := rfl
@[simp] theorem State.modCore_okis (s : State) (c : Nat) (f : Core → Core) : (s.modCore c f).okis = s.okis := rfl
@[simp] theorem State.modCore_parts (s : State) (c : Nat) (f : Core → Core) : (s.modCore c f).parts = s.parts := rfl
@[simp] theorem State.modCore_clusters (s : State) (c : Nat) (f : Core → Core) : (s.modCore c f).clusters = s.clusters := rfl
@[simp] theorem State.modCore_walkCache (s : State) (c : Nat) (f : Core → Core) : (s.modCore c f).walkCache = s.walkCache := rfl
@[simp] theorem State.modCore_watches (s : State) (c : Nat) (f : Core → Core) : (s.modCore c f).watches = s.watches := rfl
@[simp] theorem State.modCore_slices (s : State) (c : Nat) (f : Core → Core) : (s.modCore c f).slices = s.slices := rfl
@[simp] theorem State.modCore_dram (s : State) (c : Nat) (f : Core → Core) : (s.modCore c f).dram = s.dram := rfl
@[simp] theorem State.modCore_dkey (s : State) (c : Nat) (f : Core → Core) : (s.modCore c f).dkey = s.dkey := rfl
@[simp] theorem State.modCore_dpoison (s : State) (c : Nat) (f : Core → Core) : (s.modCore c f).dpoison = s.dpoison := rfl
@[simp] theorem State.modCore_host (s : State) (c : Nat) (f : Core → Core) : (s.modCore c f).host = s.host := rfl
@[simp] theorem State.modCore_hostHoles (s : State) (c : Nat) (f : Core → Core) : (s.modCore c f).hostHoles = s.hostHoles := rfl
@[simp] theorem State.modCore_flights (s : State) (c : Nat) (f : Core → Core) : (s.modCore c f).flights = s.flights := rfl
@[simp] theorem State.modCore_nextId (s : State) (c : Nat) (f : Core → Core) : (s.modCore c f).nextId = s.nextId := rfl
@[simp] theorem State.modCore_tick (s : State) (c : Nat) (f : Core → Core) : (s.modCore c f).tick = s.tick := rfl
@[simp] theorem State.modCore_fwdCounts (s : State) (c : Nat) (f : Core → Core) : (s.modCore c f).fwdCounts = s.fwdCounts := rfl
@[simp] theorem State.modCore_dramCounts (s : State) (c : Nat) (f : Core → Core) : (s.modCore c f).dramCounts = s.dramCounts := rfl
@[simp] theorem State.modCore_bridgeCounts (s : State) (c : Nat) (f : Core → Core) : (s.modCore c f).bridgeCounts = s.bridgeCounts := rfl
@[simp] theorem State.modCore_hostCounts (s : State) (c : Nat) (f : Core → Core) : (s.modCore c f).hostCounts = s.hostCounts := rfl
@[simp] theorem State.modCore_powerEvents (s : State) (c : Nat) (f : Core → Core) : (s.modCore c f).powerEvents = s.powerEvents := rfl
@[simp] theorem State.modCore_trips (s : State) (c : Nat) (f : Core → Core) : (s.modCore c f).trips = s.trips := rfl
@[simp] theorem State.modCore_corrected0 (s : State) (c : Nat) (f : Core → Core) : (s.modCore c f).corrected0 = s.corrected0 := rfl
@[simp] theorem State.modCore_uncorrected0 (s : State) (c : Nat) (f : Core → Core) : (s.modCore c f).uncorrected0 = s.uncorrected0 := rfl
@[simp] theorem State.modCore_out (s : State) (c : Nat) (f : Core → Core) : (s.modCore c f).out = s.out := rfl
@[simp] theorem State.modCore_cur (s : State) (c : Nat) (f : Core → Core) : (s.modCore c f).cur = s.cur := rfl
@[simp] theorem State.modCore_agenda (s : State) (c : Nat) (f : Core → Core) : (s.modCore c f).agenda = s.agenda := rfl
@[simp] theorem State.modCore_phase (s : State) (c : Nat) (f : Core → Core) : (s.modCore c f).phase = s.phase := rfl
@[simp] theorem State.modCore_evTurn (s : State) (c : Nat) (f : Core → Core) : (s.modCore c f).evTurn = s.evTurn := rfl
@[simp] theorem State.modCore_turn (s : State) (c : Nat) (f : Core → Core) : (s.modCore c f).turn = s.turn := rfl
@[simp] theorem State.modCore_choices (s : State) (c : Nat) (f : Core → Core) : (s.modCore c f).choices = s.choices := rfl
@[simp] theorem State.modCore_freec (s : State) (c : Nat) (f : Core → Core) : (s.modCore c f).freec = s.freec := rfl
@[simp] theorem State.modCore_stamp (s : State) (c : Nat) (f : Core → Core) : (s.modCore c f).stamp = s.stamp := rfl

@[simp] theorem State.setCluster_clk (s : State) (c : Nat) (x : Cluster) : (s.setCluster c x).clk = s.clk := rfl
@[simp] theorem State.setCluster_booted (s : State) (c : Nat) (x : Cluster) : (s.setCluster c x).booted = s.booted := rfl
@[simp] theorem State.setCluster_bootStage (s : State) (c : Nat) (x : Cluster) : (s.setCluster c x).bootStage = s.bootStage := rfl
@[simp] theorem State.setCluster_bootReason (s : State) (c : Nat) (x : Cluster) : (s.setCluster c x).bootReason = s.bootReason := rfl
@[simp] theorem State.setCluster_trip (s : State) (c : Nat) (x : Cluster) : (s.setCluster c x).trip = s.trip := rfl
@[simp] theorem State.setCluster_hold (s : State) (c : Nat) (x : Cluster) : (s.setCluster c x).hold = s.hold := rfl
@[simp] theorem State.setCluster_tripAt (s : State) (c : Nat) (x : Cluster) : (s.setCluster c x).tripAt = s.tripAt := rfl
@[simp] theorem State.setCluster_throttle (s : State) (c : Nat) (x : Cluster) : (s.setCluster c x).throttle = s.throttle := rfl
@[simp] theorem State.setCluster_meas (s : State) (c : Nat) (x : Cluster) : (s.setCluster c x).meas = s.meas := rfl
@[simp] theorem State.setCluster_minima (s : State) (c : Nat) (x : Cluster) : (s.setCluster c x).minima = s.minima := rfl
@[simp] theorem State.setCluster_keyDigests (s : State) (c : Nat) (x : Cluster) : (s.setCluster c x).keyDigests = s.keyDigests := rfl
@[simp] theorem State.setCluster_running (s : State) (c : Nat) (x : Cluster) : (s.setCluster c x).running = s.running := rfl
@[simp] theorem State.setCluster_devnum (s : State) (c : Nat) (x : Cluster) : (s.setCluster c x).devnum = s.devnum := rfl
@[simp] theorem State.setCluster_ports (s : State) (c : Nat) (x : Cluster) : (s.setCluster c x).ports = s.ports := rfl
@[simp] theorem State.setCluster_grt (s : State) (c : Nat) (x : Cluster) : (s.setCluster c x).grt = s.grt := rfl
@[simp] theorem State.setCluster_qmap (s : State) (c : Nat) (x : Cluster) : (s.setCluster c x).qmap = s.qmap := rfl
@[simp] theorem State.setCluster_phres (s : State) (c : Nat) (x : Cluster) : (s.setCluster c x).phres = s.phres := rfl
@[simp] theorem State.setCluster_phkey (s : State) (c : Nat) (x : Cluster) : (s.setCluster c x).phkey = s.phkey := rfl
@[simp] theorem State.setCluster_phcode (s : State) (c : Nat) (x : Cluster) : (s.setCluster c x).phcode = s.phcode := rfl
@[simp] theorem State.setCluster_phstate (s : State) (c : Nat) (x : Cluster) : (s.setCluster c x).phstate = s.phstate := rfl
@[simp] theorem State.setCluster_phpart (s : State) (c : Nat) (x : Cluster) : (s.setCluster c x).phpart = s.phpart := rfl
@[simp] theorem State.setCluster_olog (s : State) (c : Nat) (x : Cluster) : (s.setCluster c x).olog = s.olog := rfl
@[simp] theorem State.setCluster_opstops (s : State) (c : Nat) (x : Cluster) : (s.setCluster c x).opstops = s.opstops := rfl
@[simp] theorem State.setCluster_keyGens (s : State) (c : Nat) (x : Cluster) : (s.setCluster c x).keyGens = s.keyGens := rfl
@[simp] theorem State.setCluster_okis (s : State) (c : Nat) (x : Cluster) : (s.setCluster c x).okis = s.okis := rfl
@[simp] theorem State.setCluster_parts (s : State) (c : Nat) (x : Cluster) : (s.setCluster c x).parts = s.parts := rfl
@[simp] theorem State.setCluster_cores (s : State) (c : Nat) (x : Cluster) : (s.setCluster c x).cores = s.cores := rfl
@[simp] theorem State.setCluster_walkCache (s : State) (c : Nat) (x : Cluster) : (s.setCluster c x).walkCache = s.walkCache := rfl
@[simp] theorem State.setCluster_watches (s : State) (c : Nat) (x : Cluster) : (s.setCluster c x).watches = s.watches := rfl
@[simp] theorem State.setCluster_slices (s : State) (c : Nat) (x : Cluster) : (s.setCluster c x).slices = s.slices := rfl
@[simp] theorem State.setCluster_dram (s : State) (c : Nat) (x : Cluster) : (s.setCluster c x).dram = s.dram := rfl
@[simp] theorem State.setCluster_dkey (s : State) (c : Nat) (x : Cluster) : (s.setCluster c x).dkey = s.dkey := rfl
@[simp] theorem State.setCluster_dpoison (s : State) (c : Nat) (x : Cluster) : (s.setCluster c x).dpoison = s.dpoison := rfl
@[simp] theorem State.setCluster_host (s : State) (c : Nat) (x : Cluster) : (s.setCluster c x).host = s.host := rfl
@[simp] theorem State.setCluster_hostHoles (s : State) (c : Nat) (x : Cluster) : (s.setCluster c x).hostHoles = s.hostHoles := rfl
@[simp] theorem State.setCluster_flights (s : State) (c : Nat) (x : Cluster) : (s.setCluster c x).flights = s.flights := rfl
@[simp] theorem State.setCluster_nextId (s : State) (c : Nat) (x : Cluster) : (s.setCluster c x).nextId = s.nextId := rfl
@[simp] theorem State.setCluster_tick (s : State) (c : Nat) (x : Cluster) : (s.setCluster c x).tick = s.tick := rfl
@[simp] theorem State.setCluster_fwdCounts (s : State) (c : Nat) (x : Cluster) : (s.setCluster c x).fwdCounts = s.fwdCounts := rfl
@[simp] theorem State.setCluster_dramCounts (s : State) (c : Nat) (x : Cluster) : (s.setCluster c x).dramCounts = s.dramCounts := rfl
@[simp] theorem State.setCluster_bridgeCounts (s : State) (c : Nat) (x : Cluster) : (s.setCluster c x).bridgeCounts = s.bridgeCounts := rfl
@[simp] theorem State.setCluster_hostCounts (s : State) (c : Nat) (x : Cluster) : (s.setCluster c x).hostCounts = s.hostCounts := rfl
@[simp] theorem State.setCluster_powerEvents (s : State) (c : Nat) (x : Cluster) : (s.setCluster c x).powerEvents = s.powerEvents := rfl
@[simp] theorem State.setCluster_trips (s : State) (c : Nat) (x : Cluster) : (s.setCluster c x).trips = s.trips := rfl
@[simp] theorem State.setCluster_corrected0 (s : State) (c : Nat) (x : Cluster) : (s.setCluster c x).corrected0 = s.corrected0 := rfl
@[simp] theorem State.setCluster_uncorrected0 (s : State) (c : Nat) (x : Cluster) : (s.setCluster c x).uncorrected0 = s.uncorrected0 := rfl
@[simp] theorem State.setCluster_out (s : State) (c : Nat) (x : Cluster) : (s.setCluster c x).out = s.out := rfl
@[simp] theorem State.setCluster_cur (s : State) (c : Nat) (x : Cluster) : (s.setCluster c x).cur = s.cur := rfl
@[simp] theorem State.setCluster_agenda (s : State) (c : Nat) (x : Cluster) : (s.setCluster c x).agenda = s.agenda := rfl
@[simp] theorem State.setCluster_phase (s : State) (c : Nat) (x : Cluster) : (s.setCluster c x).phase = s.phase := rfl
@[simp] theorem State.setCluster_evTurn (s : State) (c : Nat) (x : Cluster) : (s.setCluster c x).evTurn = s.evTurn := rfl
@[simp] theorem State.setCluster_turn (s : State) (c : Nat) (x : Cluster) : (s.setCluster c x).turn = s.turn := rfl
@[simp] theorem State.setCluster_choices (s : State) (c : Nat) (x : Cluster) : (s.setCluster c x).choices = s.choices := rfl
@[simp] theorem State.setCluster_freec (s : State) (c : Nat) (x : Cluster) : (s.setCluster c x).freec = s.freec := rfl
@[simp] theorem State.setCluster_stamp (s : State) (c : Nat) (x : Cluster) : (s.setCluster c x).stamp = s.stamp := rfl

@[simp] theorem State.modCluster_clk (s : State) (c : Nat) (f : Cluster → Cluster) : (s.modCluster c f).clk = s.clk := rfl
@[simp] theorem State.modCluster_booted (s : State) (c : Nat) (f : Cluster → Cluster) : (s.modCluster c f).booted = s.booted := rfl
@[simp] theorem State.modCluster_bootStage (s : State) (c : Nat) (f : Cluster → Cluster) : (s.modCluster c f).bootStage = s.bootStage := rfl
@[simp] theorem State.modCluster_bootReason (s : State) (c : Nat) (f : Cluster → Cluster) : (s.modCluster c f).bootReason = s.bootReason := rfl
@[simp] theorem State.modCluster_trip (s : State) (c : Nat) (f : Cluster → Cluster) : (s.modCluster c f).trip = s.trip := rfl
@[simp] theorem State.modCluster_hold (s : State) (c : Nat) (f : Cluster → Cluster) : (s.modCluster c f).hold = s.hold := rfl
@[simp] theorem State.modCluster_tripAt (s : State) (c : Nat) (f : Cluster → Cluster) : (s.modCluster c f).tripAt = s.tripAt := rfl
@[simp] theorem State.modCluster_throttle (s : State) (c : Nat) (f : Cluster → Cluster) : (s.modCluster c f).throttle = s.throttle := rfl
@[simp] theorem State.modCluster_meas (s : State) (c : Nat) (f : Cluster → Cluster) : (s.modCluster c f).meas = s.meas := rfl
@[simp] theorem State.modCluster_minima (s : State) (c : Nat) (f : Cluster → Cluster) : (s.modCluster c f).minima = s.minima := rfl
@[simp] theorem State.modCluster_keyDigests (s : State) (c : Nat) (f : Cluster → Cluster) : (s.modCluster c f).keyDigests = s.keyDigests := rfl
@[simp] theorem State.modCluster_running (s : State) (c : Nat) (f : Cluster → Cluster) : (s.modCluster c f).running = s.running := rfl
@[simp] theorem State.modCluster_devnum (s : State) (c : Nat) (f : Cluster → Cluster) : (s.modCluster c f).devnum = s.devnum := rfl
@[simp] theorem State.modCluster_ports (s : State) (c : Nat) (f : Cluster → Cluster) : (s.modCluster c f).ports = s.ports := rfl
@[simp] theorem State.modCluster_grt (s : State) (c : Nat) (f : Cluster → Cluster) : (s.modCluster c f).grt = s.grt := rfl
@[simp] theorem State.modCluster_qmap (s : State) (c : Nat) (f : Cluster → Cluster) : (s.modCluster c f).qmap = s.qmap := rfl
@[simp] theorem State.modCluster_phres (s : State) (c : Nat) (f : Cluster → Cluster) : (s.modCluster c f).phres = s.phres := rfl
@[simp] theorem State.modCluster_phkey (s : State) (c : Nat) (f : Cluster → Cluster) : (s.modCluster c f).phkey = s.phkey := rfl
@[simp] theorem State.modCluster_phcode (s : State) (c : Nat) (f : Cluster → Cluster) : (s.modCluster c f).phcode = s.phcode := rfl
@[simp] theorem State.modCluster_phstate (s : State) (c : Nat) (f : Cluster → Cluster) : (s.modCluster c f).phstate = s.phstate := rfl
@[simp] theorem State.modCluster_phpart (s : State) (c : Nat) (f : Cluster → Cluster) : (s.modCluster c f).phpart = s.phpart := rfl
@[simp] theorem State.modCluster_olog (s : State) (c : Nat) (f : Cluster → Cluster) : (s.modCluster c f).olog = s.olog := rfl
@[simp] theorem State.modCluster_opstops (s : State) (c : Nat) (f : Cluster → Cluster) : (s.modCluster c f).opstops = s.opstops := rfl
@[simp] theorem State.modCluster_keyGens (s : State) (c : Nat) (f : Cluster → Cluster) : (s.modCluster c f).keyGens = s.keyGens := rfl
@[simp] theorem State.modCluster_okis (s : State) (c : Nat) (f : Cluster → Cluster) : (s.modCluster c f).okis = s.okis := rfl
@[simp] theorem State.modCluster_parts (s : State) (c : Nat) (f : Cluster → Cluster) : (s.modCluster c f).parts = s.parts := rfl
@[simp] theorem State.modCluster_cores (s : State) (c : Nat) (f : Cluster → Cluster) : (s.modCluster c f).cores = s.cores := rfl
@[simp] theorem State.modCluster_walkCache (s : State) (c : Nat) (f : Cluster → Cluster) : (s.modCluster c f).walkCache = s.walkCache := rfl
@[simp] theorem State.modCluster_watches (s : State) (c : Nat) (f : Cluster → Cluster) : (s.modCluster c f).watches = s.watches := rfl
@[simp] theorem State.modCluster_slices (s : State) (c : Nat) (f : Cluster → Cluster) : (s.modCluster c f).slices = s.slices := rfl
@[simp] theorem State.modCluster_dram (s : State) (c : Nat) (f : Cluster → Cluster) : (s.modCluster c f).dram = s.dram := rfl
@[simp] theorem State.modCluster_dkey (s : State) (c : Nat) (f : Cluster → Cluster) : (s.modCluster c f).dkey = s.dkey := rfl
@[simp] theorem State.modCluster_dpoison (s : State) (c : Nat) (f : Cluster → Cluster) : (s.modCluster c f).dpoison = s.dpoison := rfl
@[simp] theorem State.modCluster_host (s : State) (c : Nat) (f : Cluster → Cluster) : (s.modCluster c f).host = s.host := rfl
@[simp] theorem State.modCluster_hostHoles (s : State) (c : Nat) (f : Cluster → Cluster) : (s.modCluster c f).hostHoles = s.hostHoles := rfl
@[simp] theorem State.modCluster_flights (s : State) (c : Nat) (f : Cluster → Cluster) : (s.modCluster c f).flights = s.flights := rfl
@[simp] theorem State.modCluster_nextId (s : State) (c : Nat) (f : Cluster → Cluster) : (s.modCluster c f).nextId = s.nextId := rfl
@[simp] theorem State.modCluster_tick (s : State) (c : Nat) (f : Cluster → Cluster) : (s.modCluster c f).tick = s.tick := rfl
@[simp] theorem State.modCluster_fwdCounts (s : State) (c : Nat) (f : Cluster → Cluster) : (s.modCluster c f).fwdCounts = s.fwdCounts := rfl
@[simp] theorem State.modCluster_dramCounts (s : State) (c : Nat) (f : Cluster → Cluster) : (s.modCluster c f).dramCounts = s.dramCounts := rfl
@[simp] theorem State.modCluster_bridgeCounts (s : State) (c : Nat) (f : Cluster → Cluster) : (s.modCluster c f).bridgeCounts = s.bridgeCounts := rfl
@[simp] theorem State.modCluster_hostCounts (s : State) (c : Nat) (f : Cluster → Cluster) : (s.modCluster c f).hostCounts = s.hostCounts := rfl
@[simp] theorem State.modCluster_powerEvents (s : State) (c : Nat) (f : Cluster → Cluster) : (s.modCluster c f).powerEvents = s.powerEvents := rfl
@[simp] theorem State.modCluster_trips (s : State) (c : Nat) (f : Cluster → Cluster) : (s.modCluster c f).trips = s.trips := rfl
@[simp] theorem State.modCluster_corrected0 (s : State) (c : Nat) (f : Cluster → Cluster) : (s.modCluster c f).corrected0 = s.corrected0 := rfl
@[simp] theorem State.modCluster_uncorrected0 (s : State) (c : Nat) (f : Cluster → Cluster) : (s.modCluster c f).uncorrected0 = s.uncorrected0 := rfl
@[simp] theorem State.modCluster_out (s : State) (c : Nat) (f : Cluster → Cluster) : (s.modCluster c f).out = s.out := rfl
@[simp] theorem State.modCluster_cur (s : State) (c : Nat) (f : Cluster → Cluster) : (s.modCluster c f).cur = s.cur := rfl
@[simp] theorem State.modCluster_agenda (s : State) (c : Nat) (f : Cluster → Cluster) : (s.modCluster c f).agenda = s.agenda := rfl
@[simp] theorem State.modCluster_phase (s : State) (c : Nat) (f : Cluster → Cluster) : (s.modCluster c f).phase = s.phase := rfl
@[simp] theorem State.modCluster_evTurn (s : State) (c : Nat) (f : Cluster → Cluster) : (s.modCluster c f).evTurn = s.evTurn := rfl
@[simp] theorem State.modCluster_turn (s : State) (c : Nat) (f : Cluster → Cluster) : (s.modCluster c f).turn = s.turn := rfl
@[simp] theorem State.modCluster_choices (s : State) (c : Nat) (f : Cluster → Cluster) : (s.modCluster c f).choices = s.choices := rfl
@[simp] theorem State.modCluster_freec (s : State) (c : Nat) (f : Cluster → Cluster) : (s.modCluster c f).freec = s.freec := rfl
@[simp] theorem State.modCluster_stamp (s : State) (c : Nat) (f : Cluster → Cluster) : (s.modCluster c f).stamp = s.stamp := rfl

@[simp] theorem State.setPart_clk (s : State) (p : Nat) (x : Part) : (s.setPart p x).clk = s.clk := rfl
@[simp] theorem State.setPart_booted (s : State) (p : Nat) (x : Part) : (s.setPart p x).booted = s.booted := rfl
@[simp] theorem State.setPart_bootStage (s : State) (p : Nat) (x : Part) : (s.setPart p x).bootStage = s.bootStage := rfl
@[simp] theorem State.setPart_bootReason (s : State) (p : Nat) (x : Part) : (s.setPart p x).bootReason = s.bootReason := rfl
@[simp] theorem State.setPart_trip (s : State) (p : Nat) (x : Part) : (s.setPart p x).trip = s.trip := rfl
@[simp] theorem State.setPart_hold (s : State) (p : Nat) (x : Part) : (s.setPart p x).hold = s.hold := rfl
@[simp] theorem State.setPart_tripAt (s : State) (p : Nat) (x : Part) : (s.setPart p x).tripAt = s.tripAt := rfl
@[simp] theorem State.setPart_throttle (s : State) (p : Nat) (x : Part) : (s.setPart p x).throttle = s.throttle := rfl
@[simp] theorem State.setPart_meas (s : State) (p : Nat) (x : Part) : (s.setPart p x).meas = s.meas := rfl
@[simp] theorem State.setPart_minima (s : State) (p : Nat) (x : Part) : (s.setPart p x).minima = s.minima := rfl
@[simp] theorem State.setPart_keyDigests (s : State) (p : Nat) (x : Part) : (s.setPart p x).keyDigests = s.keyDigests := rfl
@[simp] theorem State.setPart_running (s : State) (p : Nat) (x : Part) : (s.setPart p x).running = s.running := rfl
@[simp] theorem State.setPart_devnum (s : State) (p : Nat) (x : Part) : (s.setPart p x).devnum = s.devnum := rfl
@[simp] theorem State.setPart_ports (s : State) (p : Nat) (x : Part) : (s.setPart p x).ports = s.ports := rfl
@[simp] theorem State.setPart_grt (s : State) (p : Nat) (x : Part) : (s.setPart p x).grt = s.grt := rfl
@[simp] theorem State.setPart_qmap (s : State) (p : Nat) (x : Part) : (s.setPart p x).qmap = s.qmap := rfl
@[simp] theorem State.setPart_phres (s : State) (p : Nat) (x : Part) : (s.setPart p x).phres = s.phres := rfl
@[simp] theorem State.setPart_phkey (s : State) (p : Nat) (x : Part) : (s.setPart p x).phkey = s.phkey := rfl
@[simp] theorem State.setPart_phcode (s : State) (p : Nat) (x : Part) : (s.setPart p x).phcode = s.phcode := rfl
@[simp] theorem State.setPart_phstate (s : State) (p : Nat) (x : Part) : (s.setPart p x).phstate = s.phstate := rfl
@[simp] theorem State.setPart_phpart (s : State) (p : Nat) (x : Part) : (s.setPart p x).phpart = s.phpart := rfl
@[simp] theorem State.setPart_olog (s : State) (p : Nat) (x : Part) : (s.setPart p x).olog = s.olog := rfl
@[simp] theorem State.setPart_opstops (s : State) (p : Nat) (x : Part) : (s.setPart p x).opstops = s.opstops := rfl
@[simp] theorem State.setPart_keyGens (s : State) (p : Nat) (x : Part) : (s.setPart p x).keyGens = s.keyGens := rfl
@[simp] theorem State.setPart_okis (s : State) (p : Nat) (x : Part) : (s.setPart p x).okis = s.okis := rfl
@[simp] theorem State.setPart_cores (s : State) (p : Nat) (x : Part) : (s.setPart p x).cores = s.cores := rfl
@[simp] theorem State.setPart_clusters (s : State) (p : Nat) (x : Part) : (s.setPart p x).clusters = s.clusters := rfl
@[simp] theorem State.setPart_walkCache (s : State) (p : Nat) (x : Part) : (s.setPart p x).walkCache = s.walkCache := rfl
@[simp] theorem State.setPart_watches (s : State) (p : Nat) (x : Part) : (s.setPart p x).watches = s.watches := rfl
@[simp] theorem State.setPart_slices (s : State) (p : Nat) (x : Part) : (s.setPart p x).slices = s.slices := rfl
@[simp] theorem State.setPart_dram (s : State) (p : Nat) (x : Part) : (s.setPart p x).dram = s.dram := rfl
@[simp] theorem State.setPart_dkey (s : State) (p : Nat) (x : Part) : (s.setPart p x).dkey = s.dkey := rfl
@[simp] theorem State.setPart_dpoison (s : State) (p : Nat) (x : Part) : (s.setPart p x).dpoison = s.dpoison := rfl
@[simp] theorem State.setPart_host (s : State) (p : Nat) (x : Part) : (s.setPart p x).host = s.host := rfl
@[simp] theorem State.setPart_hostHoles (s : State) (p : Nat) (x : Part) : (s.setPart p x).hostHoles = s.hostHoles := rfl
@[simp] theorem State.setPart_flights (s : State) (p : Nat) (x : Part) : (s.setPart p x).flights = s.flights := rfl
@[simp] theorem State.setPart_nextId (s : State) (p : Nat) (x : Part) : (s.setPart p x).nextId = s.nextId := rfl
@[simp] theorem State.setPart_tick (s : State) (p : Nat) (x : Part) : (s.setPart p x).tick = s.tick := rfl
@[simp] theorem State.setPart_fwdCounts (s : State) (p : Nat) (x : Part) : (s.setPart p x).fwdCounts = s.fwdCounts := rfl
@[simp] theorem State.setPart_dramCounts (s : State) (p : Nat) (x : Part) : (s.setPart p x).dramCounts = s.dramCounts := rfl
@[simp] theorem State.setPart_bridgeCounts (s : State) (p : Nat) (x : Part) : (s.setPart p x).bridgeCounts = s.bridgeCounts := rfl
@[simp] theorem State.setPart_hostCounts (s : State) (p : Nat) (x : Part) : (s.setPart p x).hostCounts = s.hostCounts := rfl
@[simp] theorem State.setPart_powerEvents (s : State) (p : Nat) (x : Part) : (s.setPart p x).powerEvents = s.powerEvents := rfl
@[simp] theorem State.setPart_trips (s : State) (p : Nat) (x : Part) : (s.setPart p x).trips = s.trips := rfl
@[simp] theorem State.setPart_corrected0 (s : State) (p : Nat) (x : Part) : (s.setPart p x).corrected0 = s.corrected0 := rfl
@[simp] theorem State.setPart_uncorrected0 (s : State) (p : Nat) (x : Part) : (s.setPart p x).uncorrected0 = s.uncorrected0 := rfl
@[simp] theorem State.setPart_out (s : State) (p : Nat) (x : Part) : (s.setPart p x).out = s.out := rfl
@[simp] theorem State.setPart_cur (s : State) (p : Nat) (x : Part) : (s.setPart p x).cur = s.cur := rfl
@[simp] theorem State.setPart_agenda (s : State) (p : Nat) (x : Part) : (s.setPart p x).agenda = s.agenda := rfl
@[simp] theorem State.setPart_phase (s : State) (p : Nat) (x : Part) : (s.setPart p x).phase = s.phase := rfl
@[simp] theorem State.setPart_evTurn (s : State) (p : Nat) (x : Part) : (s.setPart p x).evTurn = s.evTurn := rfl
@[simp] theorem State.setPart_turn (s : State) (p : Nat) (x : Part) : (s.setPart p x).turn = s.turn := rfl
@[simp] theorem State.setPart_choices (s : State) (p : Nat) (x : Part) : (s.setPart p x).choices = s.choices := rfl
@[simp] theorem State.setPart_freec (s : State) (p : Nat) (x : Part) : (s.setPart p x).freec = s.freec := rfl
@[simp] theorem State.setPart_stamp (s : State) (p : Nat) (x : Part) : (s.setPart p x).stamp = s.stamp := rfl

@[simp] theorem State.modPart_clk (s : State) (p : Nat) (f : Part → Part) : (s.modPart p f).clk = s.clk := by unfold State.modPart; split <;> rfl
@[simp] theorem State.modPart_booted (s : State) (p : Nat) (f : Part → Part) : (s.modPart p f).booted = s.booted := by unfold State.modPart; split <;> rfl
@[simp] theorem State.modPart_bootStage (s : State) (p : Nat) (f : Part → Part) : (s.modPart p f).bootStage = s.bootStage := by unfold State.modPart; split <;> rfl
@[simp] theorem State.modPart_bootReason (s : State) (p : Nat) (f : Part → Part) : (s.modPart p f).bootReason = s.bootReason := by unfold State.modPart; split <;> rfl
@[simp] theorem State.modPart_trip (s : State) (p : Nat) (f : Part → Part) : (s.modPart p f).trip = s.trip := by unfold State.modPart; split <;> rfl
@[simp] theorem State.modPart_hold (s : State) (p : Nat) (f : Part → Part) : (s.modPart p f).hold = s.hold := by unfold State.modPart; split <;> rfl
@[simp] theorem State.modPart_tripAt (s : State) (p : Nat) (f : Part → Part) : (s.modPart p f).tripAt = s.tripAt := by unfold State.modPart; split <;> rfl
@[simp] theorem State.modPart_throttle (s : State) (p : Nat) (f : Part → Part) : (s.modPart p f).throttle = s.throttle := by unfold State.modPart; split <;> rfl
@[simp] theorem State.modPart_meas (s : State) (p : Nat) (f : Part → Part) : (s.modPart p f).meas = s.meas := by unfold State.modPart; split <;> rfl
@[simp] theorem State.modPart_minima (s : State) (p : Nat) (f : Part → Part) : (s.modPart p f).minima = s.minima := by unfold State.modPart; split <;> rfl
@[simp] theorem State.modPart_keyDigests (s : State) (p : Nat) (f : Part → Part) : (s.modPart p f).keyDigests = s.keyDigests := by unfold State.modPart; split <;> rfl
@[simp] theorem State.modPart_running (s : State) (p : Nat) (f : Part → Part) : (s.modPart p f).running = s.running := by unfold State.modPart; split <;> rfl
@[simp] theorem State.modPart_devnum (s : State) (p : Nat) (f : Part → Part) : (s.modPart p f).devnum = s.devnum := by unfold State.modPart; split <;> rfl
@[simp] theorem State.modPart_ports (s : State) (p : Nat) (f : Part → Part) : (s.modPart p f).ports = s.ports := by unfold State.modPart; split <;> rfl
@[simp] theorem State.modPart_grt (s : State) (p : Nat) (f : Part → Part) : (s.modPart p f).grt = s.grt := by unfold State.modPart; split <;> rfl
@[simp] theorem State.modPart_qmap (s : State) (p : Nat) (f : Part → Part) : (s.modPart p f).qmap = s.qmap := by unfold State.modPart; split <;> rfl
@[simp] theorem State.modPart_phres (s : State) (p : Nat) (f : Part → Part) : (s.modPart p f).phres = s.phres := by unfold State.modPart; split <;> rfl
@[simp] theorem State.modPart_phkey (s : State) (p : Nat) (f : Part → Part) : (s.modPart p f).phkey = s.phkey := by unfold State.modPart; split <;> rfl
@[simp] theorem State.modPart_phcode (s : State) (p : Nat) (f : Part → Part) : (s.modPart p f).phcode = s.phcode := by unfold State.modPart; split <;> rfl
@[simp] theorem State.modPart_phstate (s : State) (p : Nat) (f : Part → Part) : (s.modPart p f).phstate = s.phstate := by unfold State.modPart; split <;> rfl
@[simp] theorem State.modPart_phpart (s : State) (p : Nat) (f : Part → Part) : (s.modPart p f).phpart = s.phpart := by unfold State.modPart; split <;> rfl
@[simp] theorem State.modPart_olog (s : State) (p : Nat) (f : Part → Part) : (s.modPart p f).olog = s.olog := by unfold State.modPart; split <;> rfl
@[simp] theorem State.modPart_opstops (s : State) (p : Nat) (f : Part → Part) : (s.modPart p f).opstops = s.opstops := by unfold State.modPart; split <;> rfl
@[simp] theorem State.modPart_keyGens (s : State) (p : Nat) (f : Part → Part) : (s.modPart p f).keyGens = s.keyGens := by unfold State.modPart; split <;> rfl
@[simp] theorem State.modPart_okis (s : State) (p : Nat) (f : Part → Part) : (s.modPart p f).okis = s.okis := by unfold State.modPart; split <;> rfl
@[simp] theorem State.modPart_cores (s : State) (p : Nat) (f : Part → Part) : (s.modPart p f).cores = s.cores := by unfold State.modPart; split <;> rfl
@[simp] theorem State.modPart_clusters (s : State) (p : Nat) (f : Part → Part) : (s.modPart p f).clusters = s.clusters := by unfold State.modPart; split <;> rfl
@[simp] theorem State.modPart_walkCache (s : State) (p : Nat) (f : Part → Part) : (s.modPart p f).walkCache = s.walkCache := by unfold State.modPart; split <;> rfl
@[simp] theorem State.modPart_watches (s : State) (p : Nat) (f : Part → Part) : (s.modPart p f).watches = s.watches := by unfold State.modPart; split <;> rfl
@[simp] theorem State.modPart_slices (s : State) (p : Nat) (f : Part → Part) : (s.modPart p f).slices = s.slices := by unfold State.modPart; split <;> rfl
@[simp] theorem State.modPart_dram (s : State) (p : Nat) (f : Part → Part) : (s.modPart p f).dram = s.dram := by unfold State.modPart; split <;> rfl
@[simp] theorem State.modPart_dkey (s : State) (p : Nat) (f : Part → Part) : (s.modPart p f).dkey = s.dkey := by unfold State.modPart; split <;> rfl
@[simp] theorem State.modPart_dpoison (s : State) (p : Nat) (f : Part → Part) : (s.modPart p f).dpoison = s.dpoison := by unfold State.modPart; split <;> rfl
@[simp] theorem State.modPart_host (s : State) (p : Nat) (f : Part → Part) : (s.modPart p f).host = s.host := by unfold State.modPart; split <;> rfl
@[simp] theorem State.modPart_hostHoles (s : State) (p : Nat) (f : Part → Part) : (s.modPart p f).hostHoles = s.hostHoles := by unfold State.modPart; split <;> rfl
@[simp] theorem State.modPart_flights (s : State) (p : Nat) (f : Part → Part) : (s.modPart p f).flights = s.flights := by unfold State.modPart; split <;> rfl
@[simp] theorem State.modPart_nextId (s : State) (p : Nat) (f : Part → Part) : (s.modPart p f).nextId = s.nextId := by unfold State.modPart; split <;> rfl
@[simp] theorem State.modPart_tick (s : State) (p : Nat) (f : Part → Part) : (s.modPart p f).tick = s.tick := by unfold State.modPart; split <;> rfl
@[simp] theorem State.modPart_fwdCounts (s : State) (p : Nat) (f : Part → Part) : (s.modPart p f).fwdCounts = s.fwdCounts := by unfold State.modPart; split <;> rfl
@[simp] theorem State.modPart_dramCounts (s : State) (p : Nat) (f : Part → Part) : (s.modPart p f).dramCounts = s.dramCounts := by unfold State.modPart; split <;> rfl
@[simp] theorem State.modPart_bridgeCounts (s : State) (p : Nat) (f : Part → Part) : (s.modPart p f).bridgeCounts = s.bridgeCounts := by unfold State.modPart; split <;> rfl
@[simp] theorem State.modPart_hostCounts (s : State) (p : Nat) (f : Part → Part) : (s.modPart p f).hostCounts = s.hostCounts := by unfold State.modPart; split <;> rfl
@[simp] theorem State.modPart_powerEvents (s : State) (p : Nat) (f : Part → Part) : (s.modPart p f).powerEvents = s.powerEvents := by unfold State.modPart; split <;> rfl
@[simp] theorem State.modPart_trips (s : State) (p : Nat) (f : Part → Part) : (s.modPart p f).trips = s.trips := by unfold State.modPart; split <;> rfl
@[simp] theorem State.modPart_corrected0 (s : State) (p : Nat) (f : Part → Part) : (s.modPart p f).corrected0 = s.corrected0 := by unfold State.modPart; split <;> rfl
@[simp] theorem State.modPart_uncorrected0 (s : State) (p : Nat) (f : Part → Part) : (s.modPart p f).uncorrected0 = s.uncorrected0 := by unfold State.modPart; split <;> rfl
@[simp] theorem State.modPart_out (s : State) (p : Nat) (f : Part → Part) : (s.modPart p f).out = s.out := by unfold State.modPart; split <;> rfl
@[simp] theorem State.modPart_cur (s : State) (p : Nat) (f : Part → Part) : (s.modPart p f).cur = s.cur := by unfold State.modPart; split <;> rfl
@[simp] theorem State.modPart_agenda (s : State) (p : Nat) (f : Part → Part) : (s.modPart p f).agenda = s.agenda := by unfold State.modPart; split <;> rfl
@[simp] theorem State.modPart_phase (s : State) (p : Nat) (f : Part → Part) : (s.modPart p f).phase = s.phase := by unfold State.modPart; split <;> rfl
@[simp] theorem State.modPart_evTurn (s : State) (p : Nat) (f : Part → Part) : (s.modPart p f).evTurn = s.evTurn := by unfold State.modPart; split <;> rfl
@[simp] theorem State.modPart_turn (s : State) (p : Nat) (f : Part → Part) : (s.modPart p f).turn = s.turn := by unfold State.modPart; split <;> rfl
@[simp] theorem State.modPart_choices (s : State) (p : Nat) (f : Part → Part) : (s.modPart p f).choices = s.choices := by unfold State.modPart; split <;> rfl
@[simp] theorem State.modPart_freec (s : State) (p : Nat) (f : Part → Part) : (s.modPart p f).freec = s.freec := by unfold State.modPart; split <;> rfl
@[simp] theorem State.modPart_stamp (s : State) (p : Nat) (f : Part → Part) : (s.modPart p f).stamp = s.stamp := by unfold State.modPart; split <;> rfl

@[simp] theorem State.setThread_clk (s : State) (c sl : Nat) (x : Thread) : (s.setThread c sl x).clk = s.clk := rfl
@[simp] theorem State.setThread_booted (s : State) (c sl : Nat) (x : Thread) : (s.setThread c sl x).booted = s.booted := rfl
@[simp] theorem State.setThread_bootStage (s : State) (c sl : Nat) (x : Thread) : (s.setThread c sl x).bootStage = s.bootStage := rfl
@[simp] theorem State.setThread_bootReason (s : State) (c sl : Nat) (x : Thread) : (s.setThread c sl x).bootReason = s.bootReason := rfl
@[simp] theorem State.setThread_trip (s : State) (c sl : Nat) (x : Thread) : (s.setThread c sl x).trip = s.trip := rfl
@[simp] theorem State.setThread_hold (s : State) (c sl : Nat) (x : Thread) : (s.setThread c sl x).hold = s.hold := rfl
@[simp] theorem State.setThread_tripAt (s : State) (c sl : Nat) (x : Thread) : (s.setThread c sl x).tripAt = s.tripAt := rfl
@[simp] theorem State.setThread_throttle (s : State) (c sl : Nat) (x : Thread) : (s.setThread c sl x).throttle = s.throttle := rfl
@[simp] theorem State.setThread_meas (s : State) (c sl : Nat) (x : Thread) : (s.setThread c sl x).meas = s.meas := rfl
@[simp] theorem State.setThread_minima (s : State) (c sl : Nat) (x : Thread) : (s.setThread c sl x).minima = s.minima := rfl
@[simp] theorem State.setThread_keyDigests (s : State) (c sl : Nat) (x : Thread) : (s.setThread c sl x).keyDigests = s.keyDigests := rfl
@[simp] theorem State.setThread_running (s : State) (c sl : Nat) (x : Thread) : (s.setThread c sl x).running = s.running := rfl
@[simp] theorem State.setThread_devnum (s : State) (c sl : Nat) (x : Thread) : (s.setThread c sl x).devnum = s.devnum := rfl
@[simp] theorem State.setThread_ports (s : State) (c sl : Nat) (x : Thread) : (s.setThread c sl x).ports = s.ports := rfl
@[simp] theorem State.setThread_grt (s : State) (c sl : Nat) (x : Thread) : (s.setThread c sl x).grt = s.grt := rfl
@[simp] theorem State.setThread_qmap (s : State) (c sl : Nat) (x : Thread) : (s.setThread c sl x).qmap = s.qmap := rfl
@[simp] theorem State.setThread_phres (s : State) (c sl : Nat) (x : Thread) : (s.setThread c sl x).phres = s.phres := rfl
@[simp] theorem State.setThread_phkey (s : State) (c sl : Nat) (x : Thread) : (s.setThread c sl x).phkey = s.phkey := rfl
@[simp] theorem State.setThread_phcode (s : State) (c sl : Nat) (x : Thread) : (s.setThread c sl x).phcode = s.phcode := rfl
@[simp] theorem State.setThread_phstate (s : State) (c sl : Nat) (x : Thread) : (s.setThread c sl x).phstate = s.phstate := rfl
@[simp] theorem State.setThread_phpart (s : State) (c sl : Nat) (x : Thread) : (s.setThread c sl x).phpart = s.phpart := rfl
@[simp] theorem State.setThread_olog (s : State) (c sl : Nat) (x : Thread) : (s.setThread c sl x).olog = s.olog := rfl
@[simp] theorem State.setThread_opstops (s : State) (c sl : Nat) (x : Thread) : (s.setThread c sl x).opstops = s.opstops := rfl
@[simp] theorem State.setThread_keyGens (s : State) (c sl : Nat) (x : Thread) : (s.setThread c sl x).keyGens = s.keyGens := rfl
@[simp] theorem State.setThread_okis (s : State) (c sl : Nat) (x : Thread) : (s.setThread c sl x).okis = s.okis := rfl
@[simp] theorem State.setThread_parts (s : State) (c sl : Nat) (x : Thread) : (s.setThread c sl x).parts = s.parts := rfl
@[simp] theorem State.setThread_clusters (s : State) (c sl : Nat) (x : Thread) : (s.setThread c sl x).clusters = s.clusters := rfl
@[simp] theorem State.setThread_walkCache (s : State) (c sl : Nat) (x : Thread) : (s.setThread c sl x).walkCache = s.walkCache := rfl
@[simp] theorem State.setThread_watches (s : State) (c sl : Nat) (x : Thread) : (s.setThread c sl x).watches = s.watches := rfl
@[simp] theorem State.setThread_slices (s : State) (c sl : Nat) (x : Thread) : (s.setThread c sl x).slices = s.slices := rfl
@[simp] theorem State.setThread_dram (s : State) (c sl : Nat) (x : Thread) : (s.setThread c sl x).dram = s.dram := rfl
@[simp] theorem State.setThread_dkey (s : State) (c sl : Nat) (x : Thread) : (s.setThread c sl x).dkey = s.dkey := rfl
@[simp] theorem State.setThread_dpoison (s : State) (c sl : Nat) (x : Thread) : (s.setThread c sl x).dpoison = s.dpoison := rfl
@[simp] theorem State.setThread_host (s : State) (c sl : Nat) (x : Thread) : (s.setThread c sl x).host = s.host := rfl
@[simp] theorem State.setThread_hostHoles (s : State) (c sl : Nat) (x : Thread) : (s.setThread c sl x).hostHoles = s.hostHoles := rfl
@[simp] theorem State.setThread_flights (s : State) (c sl : Nat) (x : Thread) : (s.setThread c sl x).flights = s.flights := rfl
@[simp] theorem State.setThread_nextId (s : State) (c sl : Nat) (x : Thread) : (s.setThread c sl x).nextId = s.nextId := rfl
@[simp] theorem State.setThread_tick (s : State) (c sl : Nat) (x : Thread) : (s.setThread c sl x).tick = s.tick := rfl
@[simp] theorem State.setThread_fwdCounts (s : State) (c sl : Nat) (x : Thread) : (s.setThread c sl x).fwdCounts = s.fwdCounts := rfl
@[simp] theorem State.setThread_dramCounts (s : State) (c sl : Nat) (x : Thread) : (s.setThread c sl x).dramCounts = s.dramCounts := rfl
@[simp] theorem State.setThread_bridgeCounts (s : State) (c sl : Nat) (x : Thread) : (s.setThread c sl x).bridgeCounts = s.bridgeCounts := rfl
@[simp] theorem State.setThread_hostCounts (s : State) (c sl : Nat) (x : Thread) : (s.setThread c sl x).hostCounts = s.hostCounts := rfl
@[simp] theorem State.setThread_powerEvents (s : State) (c sl : Nat) (x : Thread) : (s.setThread c sl x).powerEvents = s.powerEvents := rfl
@[simp] theorem State.setThread_trips (s : State) (c sl : Nat) (x : Thread) : (s.setThread c sl x).trips = s.trips := rfl
@[simp] theorem State.setThread_corrected0 (s : State) (c sl : Nat) (x : Thread) : (s.setThread c sl x).corrected0 = s.corrected0 := rfl
@[simp] theorem State.setThread_uncorrected0 (s : State) (c sl : Nat) (x : Thread) : (s.setThread c sl x).uncorrected0 = s.uncorrected0 := rfl
@[simp] theorem State.setThread_out (s : State) (c sl : Nat) (x : Thread) : (s.setThread c sl x).out = s.out := rfl
@[simp] theorem State.setThread_cur (s : State) (c sl : Nat) (x : Thread) : (s.setThread c sl x).cur = s.cur := rfl
@[simp] theorem State.setThread_agenda (s : State) (c sl : Nat) (x : Thread) : (s.setThread c sl x).agenda = s.agenda := rfl
@[simp] theorem State.setThread_phase (s : State) (c sl : Nat) (x : Thread) : (s.setThread c sl x).phase = s.phase := rfl
@[simp] theorem State.setThread_evTurn (s : State) (c sl : Nat) (x : Thread) : (s.setThread c sl x).evTurn = s.evTurn := rfl
@[simp] theorem State.setThread_turn (s : State) (c sl : Nat) (x : Thread) : (s.setThread c sl x).turn = s.turn := rfl
@[simp] theorem State.setThread_choices (s : State) (c sl : Nat) (x : Thread) : (s.setThread c sl x).choices = s.choices := rfl
@[simp] theorem State.setThread_freec (s : State) (c sl : Nat) (x : Thread) : (s.setThread c sl x).freec = s.freec := rfl
@[simp] theorem State.setThread_stamp (s : State) (c sl : Nat) (x : Thread) : (s.setThread c sl x).stamp = s.stamp := rfl

@[simp] theorem State.modThread_clk (s : State) (c sl : Nat) (f : Thread → Thread) : (s.modThread c sl f).clk = s.clk := by unfold State.modThread; split <;> rfl
@[simp] theorem State.modThread_booted (s : State) (c sl : Nat) (f : Thread → Thread) : (s.modThread c sl f).booted = s.booted := by unfold State.modThread; split <;> rfl
@[simp] theorem State.modThread_bootStage (s : State) (c sl : Nat) (f : Thread → Thread) : (s.modThread c sl f).bootStage = s.bootStage := by unfold State.modThread; split <;> rfl
@[simp] theorem State.modThread_bootReason (s : State) (c sl : Nat) (f : Thread → Thread) : (s.modThread c sl f).bootReason = s.bootReason := by unfold State.modThread; split <;> rfl
@[simp] theorem State.modThread_trip (s : State) (c sl : Nat) (f : Thread → Thread) : (s.modThread c sl f).trip = s.trip := by unfold State.modThread; split <;> rfl
@[simp] theorem State.modThread_hold (s : State) (c sl : Nat) (f : Thread → Thread) : (s.modThread c sl f).hold = s.hold := by unfold State.modThread; split <;> rfl
@[simp] theorem State.modThread_tripAt (s : State) (c sl : Nat) (f : Thread → Thread) : (s.modThread c sl f).tripAt = s.tripAt := by unfold State.modThread; split <;> rfl
@[simp] theorem State.modThread_throttle (s : State) (c sl : Nat) (f : Thread → Thread) : (s.modThread c sl f).throttle = s.throttle := by unfold State.modThread; split <;> rfl
@[simp] theorem State.modThread_meas (s : State) (c sl : Nat) (f : Thread → Thread) : (s.modThread c sl f).meas = s.meas := by unfold State.modThread; split <;> rfl
@[simp] theorem State.modThread_minima (s : State) (c sl : Nat) (f : Thread → Thread) : (s.modThread c sl f).minima = s.minima := by unfold State.modThread; split <;> rfl
@[simp] theorem State.modThread_keyDigests (s : State) (c sl : Nat) (f : Thread → Thread) : (s.modThread c sl f).keyDigests = s.keyDigests := by unfold State.modThread; split <;> rfl
@[simp] theorem State.modThread_running (s : State) (c sl : Nat) (f : Thread → Thread) : (s.modThread c sl f).running = s.running := by unfold State.modThread; split <;> rfl
@[simp] theorem State.modThread_devnum (s : State) (c sl : Nat) (f : Thread → Thread) : (s.modThread c sl f).devnum = s.devnum := by unfold State.modThread; split <;> rfl
@[simp] theorem State.modThread_ports (s : State) (c sl : Nat) (f : Thread → Thread) : (s.modThread c sl f).ports = s.ports := by unfold State.modThread; split <;> rfl
@[simp] theorem State.modThread_grt (s : State) (c sl : Nat) (f : Thread → Thread) : (s.modThread c sl f).grt = s.grt := by unfold State.modThread; split <;> rfl
@[simp] theorem State.modThread_qmap (s : State) (c sl : Nat) (f : Thread → Thread) : (s.modThread c sl f).qmap = s.qmap := by unfold State.modThread; split <;> rfl
@[simp] theorem State.modThread_phres (s : State) (c sl : Nat) (f : Thread → Thread) : (s.modThread c sl f).phres = s.phres := by unfold State.modThread; split <;> rfl
@[simp] theorem State.modThread_phkey (s : State) (c sl : Nat) (f : Thread → Thread) : (s.modThread c sl f).phkey = s.phkey := by unfold State.modThread; split <;> rfl
@[simp] theorem State.modThread_phcode (s : State) (c sl : Nat) (f : Thread → Thread) : (s.modThread c sl f).phcode = s.phcode := by unfold State.modThread; split <;> rfl
@[simp] theorem State.modThread_phstate (s : State) (c sl : Nat) (f : Thread → Thread) : (s.modThread c sl f).phstate = s.phstate := by unfold State.modThread; split <;> rfl
@[simp] theorem State.modThread_phpart (s : State) (c sl : Nat) (f : Thread → Thread) : (s.modThread c sl f).phpart = s.phpart := by unfold State.modThread; split <;> rfl
@[simp] theorem State.modThread_olog (s : State) (c sl : Nat) (f : Thread → Thread) : (s.modThread c sl f).olog = s.olog := by unfold State.modThread; split <;> rfl
@[simp] theorem State.modThread_opstops (s : State) (c sl : Nat) (f : Thread → Thread) : (s.modThread c sl f).opstops = s.opstops := by unfold State.modThread; split <;> rfl
@[simp] theorem State.modThread_keyGens (s : State) (c sl : Nat) (f : Thread → Thread) : (s.modThread c sl f).keyGens = s.keyGens := by unfold State.modThread; split <;> rfl
@[simp] theorem State.modThread_okis (s : State) (c sl : Nat) (f : Thread → Thread) : (s.modThread c sl f).okis = s.okis := by unfold State.modThread; split <;> rfl
@[simp] theorem State.modThread_parts (s : State) (c sl : Nat) (f : Thread → Thread) : (s.modThread c sl f).parts = s.parts := by unfold State.modThread; split <;> rfl
@[simp] theorem State.modThread_clusters (s : State) (c sl : Nat) (f : Thread → Thread) : (s.modThread c sl f).clusters = s.clusters := by unfold State.modThread; split <;> rfl
@[simp] theorem State.modThread_walkCache (s : State) (c sl : Nat) (f : Thread → Thread) : (s.modThread c sl f).walkCache = s.walkCache := by unfold State.modThread; split <;> rfl
@[simp] theorem State.modThread_watches (s : State) (c sl : Nat) (f : Thread → Thread) : (s.modThread c sl f).watches = s.watches := by unfold State.modThread; split <;> rfl
@[simp] theorem State.modThread_slices (s : State) (c sl : Nat) (f : Thread → Thread) : (s.modThread c sl f).slices = s.slices := by unfold State.modThread; split <;> rfl
@[simp] theorem State.modThread_dram (s : State) (c sl : Nat) (f : Thread → Thread) : (s.modThread c sl f).dram = s.dram := by unfold State.modThread; split <;> rfl
@[simp] theorem State.modThread_dkey (s : State) (c sl : Nat) (f : Thread → Thread) : (s.modThread c sl f).dkey = s.dkey := by unfold State.modThread; split <;> rfl
@[simp] theorem State.modThread_dpoison (s : State) (c sl : Nat) (f : Thread → Thread) : (s.modThread c sl f).dpoison = s.dpoison := by unfold State.modThread; split <;> rfl
@[simp] theorem State.modThread_host (s : State) (c sl : Nat) (f : Thread → Thread) : (s.modThread c sl f).host = s.host := by unfold State.modThread; split <;> rfl
@[simp] theorem State.modThread_hostHoles (s : State) (c sl : Nat) (f : Thread → Thread) : (s.modThread c sl f).hostHoles = s.hostHoles := by unfold State.modThread; split <;> rfl
@[simp] theorem State.modThread_flights (s : State) (c sl : Nat) (f : Thread → Thread) : (s.modThread c sl f).flights = s.flights := by unfold State.modThread; split <;> rfl
@[simp] theorem State.modThread_nextId (s : State) (c sl : Nat) (f : Thread → Thread) : (s.modThread c sl f).nextId = s.nextId := by unfold State.modThread; split <;> rfl
@[simp] theorem State.modThread_tick (s : State) (c sl : Nat) (f : Thread → Thread) : (s.modThread c sl f).tick = s.tick := by unfold State.modThread; split <;> rfl
@[simp] theorem State.modThread_fwdCounts (s : State) (c sl : Nat) (f : Thread → Thread) : (s.modThread c sl f).fwdCounts = s.fwdCounts := by unfold State.modThread; split <;> rfl
@[simp] theorem State.modThread_dramCounts (s : State) (c sl : Nat) (f : Thread → Thread) : (s.modThread c sl f).dramCounts = s.dramCounts := by unfold State.modThread; split <;> rfl
@[simp] theorem State.modThread_bridgeCounts (s : State) (c sl : Nat) (f : Thread → Thread) : (s.modThread c sl f).bridgeCounts = s.bridgeCounts := by unfold State.modThread; split <;> rfl
@[simp] theorem State.modThread_hostCounts (s : State) (c sl : Nat) (f : Thread → Thread) : (s.modThread c sl f).hostCounts = s.hostCounts := by unfold State.modThread; split <;> rfl
@[simp] theorem State.modThread_powerEvents (s : State) (c sl : Nat) (f : Thread → Thread) : (s.modThread c sl f).powerEvents = s.powerEvents := by unfold State.modThread; split <;> rfl
@[simp] theorem State.modThread_trips (s : State) (c sl : Nat) (f : Thread → Thread) : (s.modThread c sl f).trips = s.trips := by unfold State.modThread; split <;> rfl
@[simp] theorem State.modThread_corrected0 (s : State) (c sl : Nat) (f : Thread → Thread) : (s.modThread c sl f).corrected0 = s.corrected0 := by unfold State.modThread; split <;> rfl
@[simp] theorem State.modThread_uncorrected0 (s : State) (c sl : Nat) (f : Thread → Thread) : (s.modThread c sl f).uncorrected0 = s.uncorrected0 := by unfold State.modThread; split <;> rfl
@[simp] theorem State.modThread_out (s : State) (c sl : Nat) (f : Thread → Thread) : (s.modThread c sl f).out = s.out := by unfold State.modThread; split <;> rfl
@[simp] theorem State.modThread_cur (s : State) (c sl : Nat) (f : Thread → Thread) : (s.modThread c sl f).cur = s.cur := by unfold State.modThread; split <;> rfl
@[simp] theorem State.modThread_agenda (s : State) (c sl : Nat) (f : Thread → Thread) : (s.modThread c sl f).agenda = s.agenda := by unfold State.modThread; split <;> rfl
@[simp] theorem State.modThread_phase (s : State) (c sl : Nat) (f : Thread → Thread) : (s.modThread c sl f).phase = s.phase := by unfold State.modThread; split <;> rfl
@[simp] theorem State.modThread_evTurn (s : State) (c sl : Nat) (f : Thread → Thread) : (s.modThread c sl f).evTurn = s.evTurn := by unfold State.modThread; split <;> rfl
@[simp] theorem State.modThread_turn (s : State) (c sl : Nat) (f : Thread → Thread) : (s.modThread c sl f).turn = s.turn := by unfold State.modThread; split <;> rfl
@[simp] theorem State.modThread_choices (s : State) (c sl : Nat) (f : Thread → Thread) : (s.modThread c sl f).choices = s.choices := by unfold State.modThread; split <;> rfl
@[simp] theorem State.modThread_freec (s : State) (c sl : Nat) (f : Thread → Thread) : (s.modThread c sl f).freec = s.freec := by unfold State.modThread; split <;> rfl
@[simp] theorem State.modThread_stamp (s : State) (c sl : Nat) (f : Thread → Thread) : (s.modThread c sl f).stamp = s.stamp := by unfold State.modThread; split <;> rfl

@[simp] theorem State.modMe_clk (s : State) (f : Thread → Thread) : (s.modMe f).clk = s.clk := by unfold State.modMe; simp
@[simp] theorem State.modMe_booted (s : State) (f : Thread → Thread) : (s.modMe f).booted = s.booted := by unfold State.modMe; simp
@[simp] theorem State.modMe_bootStage (s : State) (f : Thread → Thread) : (s.modMe f).bootStage = s.bootStage := by unfold State.modMe; simp
@[simp] theorem State.modMe_bootReason (s : State) (f : Thread → Thread) : (s.modMe f).bootReason = s.bootReason := by unfold State.modMe; simp
@[simp] theorem State.modMe_trip (s : State) (f : Thread → Thread) : (s.modMe f).trip = s.trip := by unfold State.modMe; simp
@[simp] theorem State.modMe_hold (s : State) (f : Thread → Thread) : (s.modMe f).hold = s.hold := by unfold State.modMe; simp
@[simp] theorem State.modMe_tripAt (s : State) (f : Thread → Thread) : (s.modMe f).tripAt = s.tripAt := by unfold State.modMe; simp
@[simp] theorem State.modMe_throttle (s : State) (f : Thread → Thread) : (s.modMe f).throttle = s.throttle := by unfold State.modMe; simp
@[simp] theorem State.modMe_meas (s : State) (f : Thread → Thread) : (s.modMe f).meas = s.meas := by unfold State.modMe; simp
@[simp] theorem State.modMe_minima (s : State) (f : Thread → Thread) : (s.modMe f).minima = s.minima := by unfold State.modMe; simp
@[simp] theorem State.modMe_keyDigests (s : State) (f : Thread → Thread) : (s.modMe f).keyDigests = s.keyDigests := by unfold State.modMe; simp
@[simp] theorem State.modMe_running (s : State) (f : Thread → Thread) : (s.modMe f).running = s.running := by unfold State.modMe; simp
@[simp] theorem State.modMe_devnum (s : State) (f : Thread → Thread) : (s.modMe f).devnum = s.devnum := by unfold State.modMe; simp
@[simp] theorem State.modMe_ports (s : State) (f : Thread → Thread) : (s.modMe f).ports = s.ports := by unfold State.modMe; simp
@[simp] theorem State.modMe_grt (s : State) (f : Thread → Thread) : (s.modMe f).grt = s.grt := by unfold State.modMe; simp
@[simp] theorem State.modMe_qmap (s : State) (f : Thread → Thread) : (s.modMe f).qmap = s.qmap := by unfold State.modMe; simp
@[simp] theorem State.modMe_phres (s : State) (f : Thread → Thread) : (s.modMe f).phres = s.phres := by unfold State.modMe; simp
@[simp] theorem State.modMe_phkey (s : State) (f : Thread → Thread) : (s.modMe f).phkey = s.phkey := by unfold State.modMe; simp
@[simp] theorem State.modMe_phcode (s : State) (f : Thread → Thread) : (s.modMe f).phcode = s.phcode := by unfold State.modMe; simp
@[simp] theorem State.modMe_phstate (s : State) (f : Thread → Thread) : (s.modMe f).phstate = s.phstate := by unfold State.modMe; simp
@[simp] theorem State.modMe_phpart (s : State) (f : Thread → Thread) : (s.modMe f).phpart = s.phpart := by unfold State.modMe; simp
@[simp] theorem State.modMe_olog (s : State) (f : Thread → Thread) : (s.modMe f).olog = s.olog := by unfold State.modMe; simp
@[simp] theorem State.modMe_opstops (s : State) (f : Thread → Thread) : (s.modMe f).opstops = s.opstops := by unfold State.modMe; simp
@[simp] theorem State.modMe_keyGens (s : State) (f : Thread → Thread) : (s.modMe f).keyGens = s.keyGens := by unfold State.modMe; simp
@[simp] theorem State.modMe_okis (s : State) (f : Thread → Thread) : (s.modMe f).okis = s.okis := by unfold State.modMe; simp
@[simp] theorem State.modMe_parts (s : State) (f : Thread → Thread) : (s.modMe f).parts = s.parts := by unfold State.modMe; simp
@[simp] theorem State.modMe_clusters (s : State) (f : Thread → Thread) : (s.modMe f).clusters = s.clusters := by unfold State.modMe; simp
@[simp] theorem State.modMe_walkCache (s : State) (f : Thread → Thread) : (s.modMe f).walkCache = s.walkCache := by unfold State.modMe; simp
@[simp] theorem State.modMe_watches (s : State) (f : Thread → Thread) : (s.modMe f).watches = s.watches := by unfold State.modMe; simp
@[simp] theorem State.modMe_slices (s : State) (f : Thread → Thread) : (s.modMe f).slices = s.slices := by unfold State.modMe; simp
@[simp] theorem State.modMe_dram (s : State) (f : Thread → Thread) : (s.modMe f).dram = s.dram := by unfold State.modMe; simp
@[simp] theorem State.modMe_dkey (s : State) (f : Thread → Thread) : (s.modMe f).dkey = s.dkey := by unfold State.modMe; simp
@[simp] theorem State.modMe_dpoison (s : State) (f : Thread → Thread) : (s.modMe f).dpoison = s.dpoison := by unfold State.modMe; simp
@[simp] theorem State.modMe_host (s : State) (f : Thread → Thread) : (s.modMe f).host = s.host := by unfold State.modMe; simp
@[simp] theorem State.modMe_hostHoles (s : State) (f : Thread → Thread) : (s.modMe f).hostHoles = s.hostHoles := by unfold State.modMe; simp
@[simp] theorem State.modMe_flights (s : State) (f : Thread → Thread) : (s.modMe f).flights = s.flights := by unfold State.modMe; simp
@[simp] theorem State.modMe_nextId (s : State) (f : Thread → Thread) : (s.modMe f).nextId = s.nextId := by unfold State.modMe; simp
@[simp] theorem State.modMe_tick (s : State) (f : Thread → Thread) : (s.modMe f).tick = s.tick := by unfold State.modMe; simp
@[simp] theorem State.modMe_fwdCounts (s : State) (f : Thread → Thread) : (s.modMe f).fwdCounts = s.fwdCounts := by unfold State.modMe; simp
@[simp] theorem State.modMe_dramCounts (s : State) (f : Thread → Thread) : (s.modMe f).dramCounts = s.dramCounts := by unfold State.modMe; simp
@[simp] theorem State.modMe_bridgeCounts (s : State) (f : Thread → Thread) : (s.modMe f).bridgeCounts = s.bridgeCounts := by unfold State.modMe; simp
@[simp] theorem State.modMe_hostCounts (s : State) (f : Thread → Thread) : (s.modMe f).hostCounts = s.hostCounts := by unfold State.modMe; simp
@[simp] theorem State.modMe_powerEvents (s : State) (f : Thread → Thread) : (s.modMe f).powerEvents = s.powerEvents := by unfold State.modMe; simp
@[simp] theorem State.modMe_trips (s : State) (f : Thread → Thread) : (s.modMe f).trips = s.trips := by unfold State.modMe; simp
@[simp] theorem State.modMe_corrected0 (s : State) (f : Thread → Thread) : (s.modMe f).corrected0 = s.corrected0 := by unfold State.modMe; simp
@[simp] theorem State.modMe_uncorrected0 (s : State) (f : Thread → Thread) : (s.modMe f).uncorrected0 = s.uncorrected0 := by unfold State.modMe; simp
@[simp] theorem State.modMe_out (s : State) (f : Thread → Thread) : (s.modMe f).out = s.out := by unfold State.modMe; simp
@[simp] theorem State.modMe_cur (s : State) (f : Thread → Thread) : (s.modMe f).cur = s.cur := by unfold State.modMe; simp
@[simp] theorem State.modMe_agenda (s : State) (f : Thread → Thread) : (s.modMe f).agenda = s.agenda := by unfold State.modMe; simp
@[simp] theorem State.modMe_phase (s : State) (f : Thread → Thread) : (s.modMe f).phase = s.phase := by unfold State.modMe; simp
@[simp] theorem State.modMe_evTurn (s : State) (f : Thread → Thread) : (s.modMe f).evTurn = s.evTurn := by unfold State.modMe; simp
@[simp] theorem State.modMe_turn (s : State) (f : Thread → Thread) : (s.modMe f).turn = s.turn := by unfold State.modMe; simp
@[simp] theorem State.modMe_choices (s : State) (f : Thread → Thread) : (s.modMe f).choices = s.choices := by unfold State.modMe; simp
@[simp] theorem State.modMe_freec (s : State) (f : Thread → Thread) : (s.modMe f).freec = s.freec := by unfold State.modMe; simp
@[simp] theorem State.modMe_stamp (s : State) (f : Thread → Thread) : (s.modMe f).stamp = s.stamp := by unfold State.modMe; simp

@[simp] theorem State.modMyCore_clk (s : State) (f : Core → Core) : (s.modMyCore f).clk = s.clk := rfl
@[simp] theorem State.modMyCore_booted (s : State) (f : Core → Core) : (s.modMyCore f).booted = s.booted := rfl
@[simp] theorem State.modMyCore_bootStage (s : State) (f : Core → Core) : (s.modMyCore f).bootStage = s.bootStage := rfl
@[simp] theorem State.modMyCore_bootReason (s : State) (f : Core → Core) : (s.modMyCore f).bootReason = s.bootReason := rfl
@[simp] theorem State.modMyCore_trip (s : State) (f : Core → Core) : (s.modMyCore f).trip = s.trip := rfl
@[simp] theorem State.modMyCore_hold (s : State) (f : Core → Core) : (s.modMyCore f).hold = s.hold := rfl
@[simp] theorem State.modMyCore_tripAt (s : State) (f : Core → Core) : (s.modMyCore f).tripAt = s.tripAt := rfl
@[simp] theorem State.modMyCore_throttle (s : State) (f : Core → Core) : (s.modMyCore f).throttle = s.throttle := rfl
@[simp] theorem State.modMyCore_meas (s : State) (f : Core → Core) : (s.modMyCore f).meas = s.meas := rfl
@[simp] theorem State.modMyCore_minima (s : State) (f : Core → Core) : (s.modMyCore f).minima = s.minima := rfl
@[simp] theorem State.modMyCore_keyDigests (s : State) (f : Core → Core) : (s.modMyCore f).keyDigests = s.keyDigests := rfl
@[simp] theorem State.modMyCore_running (s : State) (f : Core → Core) : (s.modMyCore f).running = s.running := rfl
@[simp] theorem State.modMyCore_devnum (s : State) (f : Core → Core) : (s.modMyCore f).devnum = s.devnum := rfl
@[simp] theorem State.modMyCore_ports (s : State) (f : Core → Core) : (s.modMyCore f).ports = s.ports := rfl
@[simp] theorem State.modMyCore_grt (s : State) (f : Core → Core) : (s.modMyCore f).grt = s.grt := rfl
@[simp] theorem State.modMyCore_qmap (s : State) (f : Core → Core) : (s.modMyCore f).qmap = s.qmap := rfl
@[simp] theorem State.modMyCore_phres (s : State) (f : Core → Core) : (s.modMyCore f).phres = s.phres := rfl
@[simp] theorem State.modMyCore_phkey (s : State) (f : Core → Core) : (s.modMyCore f).phkey = s.phkey := rfl
@[simp] theorem State.modMyCore_phcode (s : State) (f : Core → Core) : (s.modMyCore f).phcode = s.phcode := rfl
@[simp] theorem State.modMyCore_phstate (s : State) (f : Core → Core) : (s.modMyCore f).phstate = s.phstate := rfl
@[simp] theorem State.modMyCore_phpart (s : State) (f : Core → Core) : (s.modMyCore f).phpart = s.phpart := rfl
@[simp] theorem State.modMyCore_olog (s : State) (f : Core → Core) : (s.modMyCore f).olog = s.olog := rfl
@[simp] theorem State.modMyCore_opstops (s : State) (f : Core → Core) : (s.modMyCore f).opstops = s.opstops := rfl
@[simp] theorem State.modMyCore_keyGens (s : State) (f : Core → Core) : (s.modMyCore f).keyGens = s.keyGens := rfl
@[simp] theorem State.modMyCore_okis (s : State) (f : Core → Core) : (s.modMyCore f).okis = s.okis := rfl
@[simp] theorem State.modMyCore_parts (s : State) (f : Core → Core) : (s.modMyCore f).parts = s.parts := rfl
@[simp] theorem State.modMyCore_clusters (s : State) (f : Core → Core) : (s.modMyCore f).clusters = s.clusters := rfl
@[simp] theorem State.modMyCore_walkCache (s : State) (f : Core → Core) : (s.modMyCore f).walkCache = s.walkCache := rfl
@[simp] theorem State.modMyCore_watches (s : State) (f : Core → Core) : (s.modMyCore f).watches = s.watches := rfl
@[simp] theorem State.modMyCore_slices (s : State) (f : Core → Core) : (s.modMyCore f).slices = s.slices := rfl
@[simp] theorem State.modMyCore_dram (s : State) (f : Core → Core) : (s.modMyCore f).dram = s.dram := rfl
@[simp] theorem State.modMyCore_dkey (s : State) (f : Core → Core) : (s.modMyCore f).dkey = s.dkey := rfl
@[simp] theorem State.modMyCore_dpoison (s : State) (f : Core → Core) : (s.modMyCore f).dpoison = s.dpoison := rfl
@[simp] theorem State.modMyCore_host (s : State) (f : Core → Core) : (s.modMyCore f).host = s.host := rfl
@[simp] theorem State.modMyCore_hostHoles (s : State) (f : Core → Core) : (s.modMyCore f).hostHoles = s.hostHoles := rfl
@[simp] theorem State.modMyCore_flights (s : State) (f : Core → Core) : (s.modMyCore f).flights = s.flights := rfl
@[simp] theorem State.modMyCore_nextId (s : State) (f : Core → Core) : (s.modMyCore f).nextId = s.nextId := rfl
@[simp] theorem State.modMyCore_tick (s : State) (f : Core → Core) : (s.modMyCore f).tick = s.tick := rfl
@[simp] theorem State.modMyCore_fwdCounts (s : State) (f : Core → Core) : (s.modMyCore f).fwdCounts = s.fwdCounts := rfl
@[simp] theorem State.modMyCore_dramCounts (s : State) (f : Core → Core) : (s.modMyCore f).dramCounts = s.dramCounts := rfl
@[simp] theorem State.modMyCore_bridgeCounts (s : State) (f : Core → Core) : (s.modMyCore f).bridgeCounts = s.bridgeCounts := rfl
@[simp] theorem State.modMyCore_hostCounts (s : State) (f : Core → Core) : (s.modMyCore f).hostCounts = s.hostCounts := rfl
@[simp] theorem State.modMyCore_powerEvents (s : State) (f : Core → Core) : (s.modMyCore f).powerEvents = s.powerEvents := rfl
@[simp] theorem State.modMyCore_trips (s : State) (f : Core → Core) : (s.modMyCore f).trips = s.trips := rfl
@[simp] theorem State.modMyCore_corrected0 (s : State) (f : Core → Core) : (s.modMyCore f).corrected0 = s.corrected0 := rfl
@[simp] theorem State.modMyCore_uncorrected0 (s : State) (f : Core → Core) : (s.modMyCore f).uncorrected0 = s.uncorrected0 := rfl
@[simp] theorem State.modMyCore_out (s : State) (f : Core → Core) : (s.modMyCore f).out = s.out := rfl
@[simp] theorem State.modMyCore_cur (s : State) (f : Core → Core) : (s.modMyCore f).cur = s.cur := rfl
@[simp] theorem State.modMyCore_agenda (s : State) (f : Core → Core) : (s.modMyCore f).agenda = s.agenda := rfl
@[simp] theorem State.modMyCore_phase (s : State) (f : Core → Core) : (s.modMyCore f).phase = s.phase := rfl
@[simp] theorem State.modMyCore_evTurn (s : State) (f : Core → Core) : (s.modMyCore f).evTurn = s.evTurn := rfl
@[simp] theorem State.modMyCore_turn (s : State) (f : Core → Core) : (s.modMyCore f).turn = s.turn := rfl
@[simp] theorem State.modMyCore_choices (s : State) (f : Core → Core) : (s.modMyCore f).choices = s.choices := rfl
@[simp] theorem State.modMyCore_freec (s : State) (f : Core → Core) : (s.modMyCore f).freec = s.freec := rfl
@[simp] theorem State.modMyCore_stamp (s : State) (f : Core → Core) : (s.modMyCore f).stamp = s.stamp := rfl

@[simp] theorem State.soon_clk (s : State) (l : List Turn) : (s.soon l).clk = s.clk := rfl
@[simp] theorem State.soon_booted (s : State) (l : List Turn) : (s.soon l).booted = s.booted := rfl
@[simp] theorem State.soon_bootStage (s : State) (l : List Turn) : (s.soon l).bootStage = s.bootStage := rfl
@[simp] theorem State.soon_bootReason (s : State) (l : List Turn) : (s.soon l).bootReason = s.bootReason := rfl
@[simp] theorem State.soon_trip (s : State) (l : List Turn) : (s.soon l).trip = s.trip := rfl
@[simp] theorem State.soon_hold (s : State) (l : List Turn) : (s.soon l).hold = s.hold := rfl
@[simp] theorem State.soon_tripAt (s : State) (l : List Turn) : (s.soon l).tripAt = s.tripAt := rfl
@[simp] theorem State.soon_throttle (s : State) (l : List Turn) : (s.soon l).throttle = s.throttle := rfl
@[simp] theorem State.soon_meas (s : State) (l : List Turn) : (s.soon l).meas = s.meas := rfl
@[simp] theorem State.soon_minima (s : State) (l : List Turn) : (s.soon l).minima = s.minima := rfl
@[simp] theorem State.soon_keyDigests (s : State) (l : List Turn) : (s.soon l).keyDigests = s.keyDigests := rfl
@[simp] theorem State.soon_running (s : State) (l : List Turn) : (s.soon l).running = s.running := rfl
@[simp] theorem State.soon_devnum (s : State) (l : List Turn) : (s.soon l).devnum = s.devnum := rfl
@[simp] theorem State.soon_ports (s : State) (l : List Turn) : (s.soon l).ports = s.ports := rfl
@[simp] theorem State.soon_grt (s : State) (l : List Turn) : (s.soon l).grt = s.grt := rfl
@[simp] theorem State.soon_qmap (s : State) (l : List Turn) : (s.soon l).qmap = s.qmap := rfl
@[simp] theorem State.soon_phres (s : State) (l : List Turn) : (s.soon l).phres = s.phres := rfl
@[simp] theorem State.soon_phkey (s : State) (l : List Turn) : (s.soon l).phkey = s.phkey := rfl
@[simp] theorem State.soon_phcode (s : State) (l : List Turn) : (s.soon l).phcode = s.phcode := rfl
@[simp] theorem State.soon_phstate (s : State) (l : List Turn) : (s.soon l).phstate = s.phstate := rfl
@[simp] theorem State.soon_phpart (s : State) (l : List Turn) : (s.soon l).phpart = s.phpart := rfl
@[simp] theorem State.soon_olog (s : State) (l : List Turn) : (s.soon l).olog = s.olog := rfl
@[simp] theorem State.soon_opstops (s : State) (l : List Turn) : (s.soon l).opstops = s.opstops := rfl
@[simp] theorem State.soon_keyGens (s : State) (l : List Turn) : (s.soon l).keyGens = s.keyGens := rfl
@[simp] theorem State.soon_okis (s : State) (l : List Turn) : (s.soon l).okis = s.okis := rfl
@[simp] theorem State.soon_parts (s : State) (l : List Turn) : (s.soon l).parts = s.parts := rfl
@[simp] theorem State.soon_cores (s : State) (l : List Turn) : (s.soon l).cores = s.cores := rfl
@[simp] theorem State.soon_clusters (s : State) (l : List Turn) : (s.soon l).clusters = s.clusters := rfl
@[simp] theorem State.soon_walkCache (s : State) (l : List Turn) : (s.soon l).walkCache = s.walkCache := rfl
@[simp] theorem State.soon_watches (s : State) (l : List Turn) : (s.soon l).watches = s.watches := rfl
@[simp] theorem State.soon_slices (s : State) (l : List Turn) : (s.soon l).slices = s.slices := rfl
@[simp] theorem State.soon_dram (s : State) (l : List Turn) : (s.soon l).dram = s.dram := rfl
@[simp] theorem State.soon_dkey (s : State) (l : List Turn) : (s.soon l).dkey = s.dkey := rfl
@[simp] theorem State.soon_dpoison (s : State) (l : List Turn) : (s.soon l).dpoison = s.dpoison := rfl
@[simp] theorem State.soon_host (s : State) (l : List Turn) : (s.soon l).host = s.host := rfl
@[simp] theorem State.soon_hostHoles (s : State) (l : List Turn) : (s.soon l).hostHoles = s.hostHoles := rfl
@[simp] theorem State.soon_flights (s : State) (l : List Turn) : (s.soon l).flights = s.flights := rfl
@[simp] theorem State.soon_nextId (s : State) (l : List Turn) : (s.soon l).nextId = s.nextId := rfl
@[simp] theorem State.soon_tick (s : State) (l : List Turn) : (s.soon l).tick = s.tick := rfl
@[simp] theorem State.soon_fwdCounts (s : State) (l : List Turn) : (s.soon l).fwdCounts = s.fwdCounts := rfl
@[simp] theorem State.soon_dramCounts (s : State) (l : List Turn) : (s.soon l).dramCounts = s.dramCounts := rfl
@[simp] theorem State.soon_bridgeCounts (s : State) (l : List Turn) : (s.soon l).bridgeCounts = s.bridgeCounts := rfl
@[simp] theorem State.soon_hostCounts (s : State) (l : List Turn) : (s.soon l).hostCounts = s.hostCounts := rfl
@[simp] theorem State.soon_powerEvents (s : State) (l : List Turn) : (s.soon l).powerEvents = s.powerEvents := rfl
@[simp] theorem State.soon_trips (s : State) (l : List Turn) : (s.soon l).trips = s.trips := rfl
@[simp] theorem State.soon_corrected0 (s : State) (l : List Turn) : (s.soon l).corrected0 = s.corrected0 := rfl
@[simp] theorem State.soon_uncorrected0 (s : State) (l : List Turn) : (s.soon l).uncorrected0 = s.uncorrected0 := rfl
@[simp] theorem State.soon_out (s : State) (l : List Turn) : (s.soon l).out = s.out := rfl
@[simp] theorem State.soon_cur (s : State) (l : List Turn) : (s.soon l).cur = s.cur := rfl
@[simp] theorem State.soon_phase (s : State) (l : List Turn) : (s.soon l).phase = s.phase := rfl
@[simp] theorem State.soon_evTurn (s : State) (l : List Turn) : (s.soon l).evTurn = s.evTurn := rfl
@[simp] theorem State.soon_turn (s : State) (l : List Turn) : (s.soon l).turn = s.turn := rfl
@[simp] theorem State.soon_choices (s : State) (l : List Turn) : (s.soon l).choices = s.choices := rfl
@[simp] theorem State.soon_freec (s : State) (l : List Turn) : (s.soon l).freec = s.freec := rfl
@[simp] theorem State.soon_stamp (s : State) (l : List Turn) : (s.soon l).stamp = s.stamp := rfl

@[simp] theorem State.say_clk (s : State) (a : Answer) : (s.say a).clk = s.clk := rfl
@[simp] theorem State.say_booted (s : State) (a : Answer) : (s.say a).booted = s.booted := rfl
@[simp] theorem State.say_bootStage (s : State) (a : Answer) : (s.say a).bootStage = s.bootStage := rfl
@[simp] theorem State.say_bootReason (s : State) (a : Answer) : (s.say a).bootReason = s.bootReason := rfl
@[simp] theorem State.say_trip (s : State) (a : Answer) : (s.say a).trip = s.trip := rfl
@[simp] theorem State.say_hold (s : State) (a : Answer) : (s.say a).hold = s.hold := rfl
@[simp] theorem State.say_tripAt (s : State) (a : Answer) : (s.say a).tripAt = s.tripAt := rfl
@[simp] theorem State.say_throttle (s : State) (a : Answer) : (s.say a).throttle = s.throttle := rfl
@[simp] theorem State.say_meas (s : State) (a : Answer) : (s.say a).meas = s.meas := rfl
@[simp] theorem State.say_minima (s : State) (a : Answer) : (s.say a).minima = s.minima := rfl
@[simp] theorem State.say_keyDigests (s : State) (a : Answer) : (s.say a).keyDigests = s.keyDigests := rfl
@[simp] theorem State.say_running (s : State) (a : Answer) : (s.say a).running = s.running := rfl
@[simp] theorem State.say_devnum (s : State) (a : Answer) : (s.say a).devnum = s.devnum := rfl
@[simp] theorem State.say_ports (s : State) (a : Answer) : (s.say a).ports = s.ports := rfl
@[simp] theorem State.say_grt (s : State) (a : Answer) : (s.say a).grt = s.grt := rfl
@[simp] theorem State.say_qmap (s : State) (a : Answer) : (s.say a).qmap = s.qmap := rfl
@[simp] theorem State.say_phres (s : State) (a : Answer) : (s.say a).phres = s.phres := rfl
@[simp] theorem State.say_phkey (s : State) (a : Answer) : (s.say a).phkey = s.phkey := rfl
@[simp] theorem State.say_phcode (s : State) (a : Answer) : (s.say a).phcode = s.phcode := rfl
@[simp] theorem State.say_phstate (s : State) (a : Answer) : (s.say a).phstate = s.phstate := rfl
@[simp] theorem State.say_phpart (s : State) (a : Answer) : (s.say a).phpart = s.phpart := rfl
@[simp] theorem State.say_olog (s : State) (a : Answer) : (s.say a).olog = s.olog := rfl
@[simp] theorem State.say_opstops (s : State) (a : Answer) : (s.say a).opstops = s.opstops := rfl
@[simp] theorem State.say_keyGens (s : State) (a : Answer) : (s.say a).keyGens = s.keyGens := rfl
@[simp] theorem State.say_okis (s : State) (a : Answer) : (s.say a).okis = s.okis := rfl
@[simp] theorem State.say_parts (s : State) (a : Answer) : (s.say a).parts = s.parts := rfl
@[simp] theorem State.say_cores (s : State) (a : Answer) : (s.say a).cores = s.cores := rfl
@[simp] theorem State.say_clusters (s : State) (a : Answer) : (s.say a).clusters = s.clusters := rfl
@[simp] theorem State.say_walkCache (s : State) (a : Answer) : (s.say a).walkCache = s.walkCache := rfl
@[simp] theorem State.say_watches (s : State) (a : Answer) : (s.say a).watches = s.watches := rfl
@[simp] theorem State.say_slices (s : State) (a : Answer) : (s.say a).slices = s.slices := rfl
@[simp] theorem State.say_dram (s : State) (a : Answer) : (s.say a).dram = s.dram := rfl
@[simp] theorem State.say_dkey (s : State) (a : Answer) : (s.say a).dkey = s.dkey := rfl
@[simp] theorem State.say_dpoison (s : State) (a : Answer) : (s.say a).dpoison = s.dpoison := rfl
@[simp] theorem State.say_host (s : State) (a : Answer) : (s.say a).host = s.host := rfl
@[simp] theorem State.say_hostHoles (s : State) (a : Answer) : (s.say a).hostHoles = s.hostHoles := rfl
@[simp] theorem State.say_flights (s : State) (a : Answer) : (s.say a).flights = s.flights := rfl
@[simp] theorem State.say_nextId (s : State) (a : Answer) : (s.say a).nextId = s.nextId := rfl
@[simp] theorem State.say_tick (s : State) (a : Answer) : (s.say a).tick = s.tick := rfl
@[simp] theorem State.say_fwdCounts (s : State) (a : Answer) : (s.say a).fwdCounts = s.fwdCounts := rfl
@[simp] theorem State.say_dramCounts (s : State) (a : Answer) : (s.say a).dramCounts = s.dramCounts := rfl
@[simp] theorem State.say_bridgeCounts (s : State) (a : Answer) : (s.say a).bridgeCounts = s.bridgeCounts := rfl
@[simp] theorem State.say_hostCounts (s : State) (a : Answer) : (s.say a).hostCounts = s.hostCounts := rfl
@[simp] theorem State.say_powerEvents (s : State) (a : Answer) : (s.say a).powerEvents = s.powerEvents := rfl
@[simp] theorem State.say_trips (s : State) (a : Answer) : (s.say a).trips = s.trips := rfl
@[simp] theorem State.say_corrected0 (s : State) (a : Answer) : (s.say a).corrected0 = s.corrected0 := rfl
@[simp] theorem State.say_uncorrected0 (s : State) (a : Answer) : (s.say a).uncorrected0 = s.uncorrected0 := rfl
@[simp] theorem State.say_cur (s : State) (a : Answer) : (s.say a).cur = s.cur := rfl
@[simp] theorem State.say_agenda (s : State) (a : Answer) : (s.say a).agenda = s.agenda := rfl
@[simp] theorem State.say_phase (s : State) (a : Answer) : (s.say a).phase = s.phase := rfl
@[simp] theorem State.say_evTurn (s : State) (a : Answer) : (s.say a).evTurn = s.evTurn := rfl
@[simp] theorem State.say_turn (s : State) (a : Answer) : (s.say a).turn = s.turn := rfl
@[simp] theorem State.say_choices (s : State) (a : Answer) : (s.say a).choices = s.choices := rfl
@[simp] theorem State.say_freec (s : State) (a : Answer) : (s.say a).freec = s.freec := rfl
@[simp] theorem State.say_stamp (s : State) (a : Answer) : (s.say a).stamp = s.stamp := rfl

@[simp] theorem State.reach_booted (s : State) (c : Nat) : (s.reach c).booted = s.booted := rfl
@[simp] theorem State.reach_bootStage (s : State) (c : Nat) : (s.reach c).bootStage = s.bootStage := rfl
@[simp] theorem State.reach_bootReason (s : State) (c : Nat) : (s.reach c).bootReason = s.bootReason := rfl
@[simp] theorem State.reach_trip (s : State) (c : Nat) : (s.reach c).trip = s.trip := rfl
@[simp] theorem State.reach_hold (s : State) (c : Nat) : (s.reach c).hold = s.hold := rfl
@[simp] theorem State.reach_tripAt (s : State) (c : Nat) : (s.reach c).tripAt = s.tripAt := rfl
@[simp] theorem State.reach_throttle (s : State) (c : Nat) : (s.reach c).throttle = s.throttle := rfl
@[simp] theorem State.reach_meas (s : State) (c : Nat) : (s.reach c).meas = s.meas := rfl
@[simp] theorem State.reach_minima (s : State) (c : Nat) : (s.reach c).minima = s.minima := rfl
@[simp] theorem State.reach_keyDigests (s : State) (c : Nat) : (s.reach c).keyDigests = s.keyDigests := rfl
@[simp] theorem State.reach_running (s : State) (c : Nat) : (s.reach c).running = s.running := rfl
@[simp] theorem State.reach_devnum (s : State) (c : Nat) : (s.reach c).devnum = s.devnum := rfl
@[simp] theorem State.reach_ports (s : State) (c : Nat) : (s.reach c).ports = s.ports := rfl
@[simp] theorem State.reach_grt (s : State) (c : Nat) : (s.reach c).grt = s.grt := rfl
@[simp] theorem State.reach_qmap (s : State) (c : Nat) : (s.reach c).qmap = s.qmap := rfl
@[simp] theorem State.reach_phres (s : State) (c : Nat) : (s.reach c).phres = s.phres := rfl
@[simp] theorem State.reach_phkey (s : State) (c : Nat) : (s.reach c).phkey = s.phkey := rfl
@[simp] theorem State.reach_phcode (s : State) (c : Nat) : (s.reach c).phcode = s.phcode := rfl
@[simp] theorem State.reach_phstate (s : State) (c : Nat) : (s.reach c).phstate = s.phstate := rfl
@[simp] theorem State.reach_phpart (s : State) (c : Nat) : (s.reach c).phpart = s.phpart := rfl
@[simp] theorem State.reach_olog (s : State) (c : Nat) : (s.reach c).olog = s.olog := rfl
@[simp] theorem State.reach_opstops (s : State) (c : Nat) : (s.reach c).opstops = s.opstops := rfl
@[simp] theorem State.reach_keyGens (s : State) (c : Nat) : (s.reach c).keyGens = s.keyGens := rfl
@[simp] theorem State.reach_okis (s : State) (c : Nat) : (s.reach c).okis = s.okis := rfl
@[simp] theorem State.reach_parts (s : State) (c : Nat) : (s.reach c).parts = s.parts := rfl
@[simp] theorem State.reach_cores (s : State) (c : Nat) : (s.reach c).cores = s.cores := rfl
@[simp] theorem State.reach_clusters (s : State) (c : Nat) : (s.reach c).clusters = s.clusters := rfl
@[simp] theorem State.reach_walkCache (s : State) (c : Nat) : (s.reach c).walkCache = s.walkCache := rfl
@[simp] theorem State.reach_watches (s : State) (c : Nat) : (s.reach c).watches = s.watches := rfl
@[simp] theorem State.reach_slices (s : State) (c : Nat) : (s.reach c).slices = s.slices := rfl
@[simp] theorem State.reach_dram (s : State) (c : Nat) : (s.reach c).dram = s.dram := rfl
@[simp] theorem State.reach_dkey (s : State) (c : Nat) : (s.reach c).dkey = s.dkey := rfl
@[simp] theorem State.reach_dpoison (s : State) (c : Nat) : (s.reach c).dpoison = s.dpoison := rfl
@[simp] theorem State.reach_host (s : State) (c : Nat) : (s.reach c).host = s.host := rfl
@[simp] theorem State.reach_hostHoles (s : State) (c : Nat) : (s.reach c).hostHoles = s.hostHoles := rfl
@[simp] theorem State.reach_flights (s : State) (c : Nat) : (s.reach c).flights = s.flights := rfl
@[simp] theorem State.reach_nextId (s : State) (c : Nat) : (s.reach c).nextId = s.nextId := rfl
@[simp] theorem State.reach_tick (s : State) (c : Nat) : (s.reach c).tick = s.tick := rfl
@[simp] theorem State.reach_fwdCounts (s : State) (c : Nat) : (s.reach c).fwdCounts = s.fwdCounts := rfl
@[simp] theorem State.reach_dramCounts (s : State) (c : Nat) : (s.reach c).dramCounts = s.dramCounts := rfl
@[simp] theorem State.reach_bridgeCounts (s : State) (c : Nat) : (s.reach c).bridgeCounts = s.bridgeCounts := rfl
@[simp] theorem State.reach_hostCounts (s : State) (c : Nat) : (s.reach c).hostCounts = s.hostCounts := rfl
@[simp] theorem State.reach_powerEvents (s : State) (c : Nat) : (s.reach c).powerEvents = s.powerEvents := rfl
@[simp] theorem State.reach_trips (s : State) (c : Nat) : (s.reach c).trips = s.trips := rfl
@[simp] theorem State.reach_corrected0 (s : State) (c : Nat) : (s.reach c).corrected0 = s.corrected0 := rfl
@[simp] theorem State.reach_uncorrected0 (s : State) (c : Nat) : (s.reach c).uncorrected0 = s.uncorrected0 := rfl
@[simp] theorem State.reach_out (s : State) (c : Nat) : (s.reach c).out = s.out := rfl
@[simp] theorem State.reach_cur (s : State) (c : Nat) : (s.reach c).cur = s.cur := rfl
@[simp] theorem State.reach_agenda (s : State) (c : Nat) : (s.reach c).agenda = s.agenda := rfl
@[simp] theorem State.reach_phase (s : State) (c : Nat) : (s.reach c).phase = s.phase := rfl
@[simp] theorem State.reach_evTurn (s : State) (c : Nat) : (s.reach c).evTurn = s.evTurn := rfl
@[simp] theorem State.reach_turn (s : State) (c : Nat) : (s.reach c).turn = s.turn := rfl
@[simp] theorem State.reach_choices (s : State) (c : Nat) : (s.reach c).choices = s.choices := rfl
@[simp] theorem State.reach_freec (s : State) (c : Nat) : (s.reach c).freec = s.freec := rfl
@[simp] theorem State.reach_stamp (s : State) (c : Nat) : (s.reach c).stamp = s.stamp := rfl

@[simp] theorem State.send_clk (s : State) (c sth lid : Nat) (w : Flight) : (s.send c sth lid w).clk = s.clk := rfl
@[simp] theorem State.send_booted (s : State) (c sth lid : Nat) (w : Flight) : (s.send c sth lid w).booted = s.booted := rfl
@[simp] theorem State.send_bootStage (s : State) (c sth lid : Nat) (w : Flight) : (s.send c sth lid w).bootStage = s.bootStage := rfl
@[simp] theorem State.send_bootReason (s : State) (c sth lid : Nat) (w : Flight) : (s.send c sth lid w).bootReason = s.bootReason := rfl
@[simp] theorem State.send_trip (s : State) (c sth lid : Nat) (w : Flight) : (s.send c sth lid w).trip = s.trip := rfl
@[simp] theorem State.send_hold (s : State) (c sth lid : Nat) (w : Flight) : (s.send c sth lid w).hold = s.hold := rfl
@[simp] theorem State.send_tripAt (s : State) (c sth lid : Nat) (w : Flight) : (s.send c sth lid w).tripAt = s.tripAt := rfl
@[simp] theorem State.send_throttle (s : State) (c sth lid : Nat) (w : Flight) : (s.send c sth lid w).throttle = s.throttle := rfl
@[simp] theorem State.send_meas (s : State) (c sth lid : Nat) (w : Flight) : (s.send c sth lid w).meas = s.meas := rfl
@[simp] theorem State.send_minima (s : State) (c sth lid : Nat) (w : Flight) : (s.send c sth lid w).minima = s.minima := rfl
@[simp] theorem State.send_keyDigests (s : State) (c sth lid : Nat) (w : Flight) : (s.send c sth lid w).keyDigests = s.keyDigests := rfl
@[simp] theorem State.send_running (s : State) (c sth lid : Nat) (w : Flight) : (s.send c sth lid w).running = s.running := rfl
@[simp] theorem State.send_devnum (s : State) (c sth lid : Nat) (w : Flight) : (s.send c sth lid w).devnum = s.devnum := rfl
@[simp] theorem State.send_ports (s : State) (c sth lid : Nat) (w : Flight) : (s.send c sth lid w).ports = s.ports := rfl
@[simp] theorem State.send_grt (s : State) (c sth lid : Nat) (w : Flight) : (s.send c sth lid w).grt = s.grt := rfl
@[simp] theorem State.send_qmap (s : State) (c sth lid : Nat) (w : Flight) : (s.send c sth lid w).qmap = s.qmap := rfl
@[simp] theorem State.send_phres (s : State) (c sth lid : Nat) (w : Flight) : (s.send c sth lid w).phres = s.phres := rfl
@[simp] theorem State.send_phkey (s : State) (c sth lid : Nat) (w : Flight) : (s.send c sth lid w).phkey = s.phkey := rfl
@[simp] theorem State.send_phcode (s : State) (c sth lid : Nat) (w : Flight) : (s.send c sth lid w).phcode = s.phcode := rfl
@[simp] theorem State.send_phstate (s : State) (c sth lid : Nat) (w : Flight) : (s.send c sth lid w).phstate = s.phstate := rfl
@[simp] theorem State.send_phpart (s : State) (c sth lid : Nat) (w : Flight) : (s.send c sth lid w).phpart = s.phpart := rfl
@[simp] theorem State.send_olog (s : State) (c sth lid : Nat) (w : Flight) : (s.send c sth lid w).olog = s.olog := rfl
@[simp] theorem State.send_opstops (s : State) (c sth lid : Nat) (w : Flight) : (s.send c sth lid w).opstops = s.opstops := rfl
@[simp] theorem State.send_keyGens (s : State) (c sth lid : Nat) (w : Flight) : (s.send c sth lid w).keyGens = s.keyGens := rfl
@[simp] theorem State.send_okis (s : State) (c sth lid : Nat) (w : Flight) : (s.send c sth lid w).okis = s.okis := rfl
@[simp] theorem State.send_parts (s : State) (c sth lid : Nat) (w : Flight) : (s.send c sth lid w).parts = s.parts := rfl
@[simp] theorem State.send_cores (s : State) (c sth lid : Nat) (w : Flight) : (s.send c sth lid w).cores = s.cores := rfl
@[simp] theorem State.send_clusters (s : State) (c sth lid : Nat) (w : Flight) : (s.send c sth lid w).clusters = s.clusters := rfl
@[simp] theorem State.send_walkCache (s : State) (c sth lid : Nat) (w : Flight) : (s.send c sth lid w).walkCache = s.walkCache := rfl
@[simp] theorem State.send_watches (s : State) (c sth lid : Nat) (w : Flight) : (s.send c sth lid w).watches = s.watches := rfl
@[simp] theorem State.send_slices (s : State) (c sth lid : Nat) (w : Flight) : (s.send c sth lid w).slices = s.slices := rfl
@[simp] theorem State.send_dram (s : State) (c sth lid : Nat) (w : Flight) : (s.send c sth lid w).dram = s.dram := rfl
@[simp] theorem State.send_dkey (s : State) (c sth lid : Nat) (w : Flight) : (s.send c sth lid w).dkey = s.dkey := rfl
@[simp] theorem State.send_dpoison (s : State) (c sth lid : Nat) (w : Flight) : (s.send c sth lid w).dpoison = s.dpoison := rfl
@[simp] theorem State.send_host (s : State) (c sth lid : Nat) (w : Flight) : (s.send c sth lid w).host = s.host := rfl
@[simp] theorem State.send_hostHoles (s : State) (c sth lid : Nat) (w : Flight) : (s.send c sth lid w).hostHoles = s.hostHoles := rfl
@[simp] theorem State.send_tick (s : State) (c sth lid : Nat) (w : Flight) : (s.send c sth lid w).tick = s.tick := rfl
@[simp] theorem State.send_fwdCounts (s : State) (c sth lid : Nat) (w : Flight) : (s.send c sth lid w).fwdCounts = s.fwdCounts := rfl
@[simp] theorem State.send_dramCounts (s : State) (c sth lid : Nat) (w : Flight) : (s.send c sth lid w).dramCounts = s.dramCounts := rfl
@[simp] theorem State.send_bridgeCounts (s : State) (c sth lid : Nat) (w : Flight) : (s.send c sth lid w).bridgeCounts = s.bridgeCounts := rfl
@[simp] theorem State.send_hostCounts (s : State) (c sth lid : Nat) (w : Flight) : (s.send c sth lid w).hostCounts = s.hostCounts := rfl
@[simp] theorem State.send_powerEvents (s : State) (c sth lid : Nat) (w : Flight) : (s.send c sth lid w).powerEvents = s.powerEvents := rfl
@[simp] theorem State.send_trips (s : State) (c sth lid : Nat) (w : Flight) : (s.send c sth lid w).trips = s.trips := rfl
@[simp] theorem State.send_corrected0 (s : State) (c sth lid : Nat) (w : Flight) : (s.send c sth lid w).corrected0 = s.corrected0 := rfl
@[simp] theorem State.send_uncorrected0 (s : State) (c sth lid : Nat) (w : Flight) : (s.send c sth lid w).uncorrected0 = s.uncorrected0 := rfl
@[simp] theorem State.send_out (s : State) (c sth lid : Nat) (w : Flight) : (s.send c sth lid w).out = s.out := rfl
@[simp] theorem State.send_cur (s : State) (c sth lid : Nat) (w : Flight) : (s.send c sth lid w).cur = s.cur := rfl
@[simp] theorem State.send_agenda (s : State) (c sth lid : Nat) (w : Flight) : (s.send c sth lid w).agenda = s.agenda := rfl
@[simp] theorem State.send_phase (s : State) (c sth lid : Nat) (w : Flight) : (s.send c sth lid w).phase = s.phase := rfl
@[simp] theorem State.send_evTurn (s : State) (c sth lid : Nat) (w : Flight) : (s.send c sth lid w).evTurn = s.evTurn := rfl
@[simp] theorem State.send_turn (s : State) (c sth lid : Nat) (w : Flight) : (s.send c sth lid w).turn = s.turn := rfl
@[simp] theorem State.send_choices (s : State) (c sth lid : Nat) (w : Flight) : (s.send c sth lid w).choices = s.choices := rfl
@[simp] theorem State.send_freec (s : State) (c sth lid : Nat) (w : Flight) : (s.send c sth lid w).freec = s.freec := rfl
@[simp] theorem State.send_stamp (s : State) (c sth lid : Nat) (w : Flight) : (s.send c sth lid w).stamp = s.stamp := rfl

@[simp] theorem Core.setThread_owners (x : Core) (sl : Nat) (t : Thread) : (x.setThread sl t).owners = x.owners := rfl
@[simp] theorem Core.setThread_regs (x : Core) (sl : Nat) (t : Thread) : (x.setThread sl t).regs = x.regs := rfl
@[simp] theorem Core.setThread_regPoison (x : Core) (sl : Nat) (t : Thread) : (x.setThread sl t).regPoison = x.regPoison := rfl
@[simp] theorem Core.setThread_kregs (x : Core) (sl : Nat) (t : Thread) : (x.setThread sl t).kregs = x.kregs := rfl
@[simp] theorem Core.setThread_chans (x : Core) (sl : Nat) (t : Thread) : (x.setThread sl t).chans = x.chans := rfl
@[simp] theorem Core.setThread_lmem (x : Core) (sl : Nat) (t : Thread) : (x.setThread sl t).lmem = x.lmem := rfl
@[simp] theorem Core.setThread_full (x : Core) (sl : Nat) (t : Thread) : (x.setThread sl t).full = x.full := rfl
@[simp] theorem Core.setThread_fillers (x : Core) (sl : Nat) (t : Thread) : (x.setThread sl t).fillers = x.fillers := rfl
@[simp] theorem Core.setThread_fx (x : Core) (sl : Nat) (t : Thread) : (x.setThread sl t).fx = x.fx := rfl
@[simp] theorem Core.setThread_lpoison (x : Core) (sl : Nat) (t : Thread) : (x.setThread sl t).lpoison = x.lpoison := rfl
@[simp] theorem Core.setThread_zf (x : Core) (sl : Nat) (t : Thread) : (x.setThread sl t).zf = x.zf := rfl
@[simp] theorem Core.setThread_claims (x : Core) (sl : Nat) (t : Thread) : (x.setThread sl t).claims = x.claims := rfl
@[simp] theorem Core.setThread_resident (x : Core) (sl : Nat) (t : Thread) : (x.setThread sl t).resident = x.resident := rfl
@[simp] theorem Core.setThread_scl (x : Core) (sl : Nat) (t : Thread) : (x.setThread sl t).scl = x.scl := rfl
@[simp] theorem Core.setThread_te (x : Core) (sl : Nat) (t : Thread) : (x.setThread sl t).te = x.te := rfl
@[simp] theorem Core.setThread_seqnow (x : Core) (sl : Nat) (t : Thread) : (x.setThread sl t).seqnow = x.seqnow := rfl
@[simp] theorem Core.setThread_trcfg (x : Core) (sl : Nat) (t : Thread) : (x.setThread sl t).trcfg = x.trcfg := rfl
@[simp] theorem Core.setThread_slcfg (x : Core) (sl : Nat) (t : Thread) : (x.setThread sl t).slcfg = x.slcfg := rfl
@[simp] theorem Core.setThread_cevs (x : Core) (sl : Nat) (t : Thread) : (x.setThread sl t).cevs = x.cevs := rfl
@[simp] theorem Core.setThread_ctrs (x : Core) (sl : Nat) (t : Thread) : (x.setThread sl t).ctrs = x.ctrs := rfl
@[simp] theorem Core.setThread_ring (x : Core) (sl : Nat) (t : Thread) : (x.setThread sl t).ring = x.ring := rfl
@[simp] theorem Core.setThread_dcache (x : Core) (sl : Nat) (t : Thread) : (x.setThread sl t).dcache = x.dcache := rfl
@[simp] theorem Core.setThread_sbuf (x : Core) (sl : Nat) (t : Thread) : (x.setThread sl t).sbuf = x.sbuf := rfl
@[simp] theorem Core.setThread_tlb (x : Core) (sl : Nat) (t : Thread) : (x.setThread sl t).tlb = x.tlb := rfl
@[simp] theorem Core.setThread_icache (x : Core) (sl : Nat) (t : Thread) : (x.setThread sl t).icache = x.icache := rfl
@[simp] theorem Core.setThread_deque (x : Core) (sl : Nat) (t : Thread) : (x.setThread sl t).deque = x.deque := rfl
@[simp] theorem Core.setThread_spill (x : Core) (sl : Nat) (t : Thread) : (x.setThread sl t).spill = x.spill := rfl
@[simp] theorem Core.setThread_displaced (x : Core) (sl : Nat) (t : Thread) : (x.setThread sl t).displaced = x.displaced := rfl
@[simp] theorem Core.setThread_saved (x : Core) (sl : Nat) (t : Thread) : (x.setThread sl t).saved = x.saved := rfl
@[simp] theorem Core.setThread_arrived (x : Core) (sl : Nat) (t : Thread) : (x.setThread sl t).arrived = x.arrived := rfl
@[simp] theorem Core.setThread_coming (x : Core) (sl : Nat) (t : Thread) : (x.setThread sl t).coming = x.coming := rfl
@[simp] theorem Core.setThread_pushers (x : Core) (sl : Nat) (t : Thread) : (x.setThread sl t).pushers = x.pushers := rfl
@[simp] theorem Core.setThread_steals (x : Core) (sl : Nat) (t : Thread) : (x.setThread sl t).steals = x.steals := rfl
@[simp] theorem Core.setThread_lastVictim (x : Core) (sl : Nat) (t : Thread) : (x.setThread sl t).lastVictim = x.lastVictim := rfl
@[simp] theorem Core.setThread_spillWait (x : Core) (sl : Nat) (t : Thread) : (x.setThread sl t).spillWait = x.spillWait := rfl
@[simp] theorem Core.setThread_slog (x : Core) (sl : Nat) (t : Thread) : (x.setThread sl t).slog = x.slog := rfl
@[simp] theorem Core.setThread_slogLast (x : Core) (sl : Nat) (t : Thread) : (x.setThread sl t).slogLast = x.slogLast := rfl
@[simp] theorem Core.setThread_slogState (x : Core) (sl : Nat) (t : Thread) : (x.setThread sl t).slogState = x.slogState := rfl
@[simp] theorem Core.setThread_preempt (x : Core) (sl : Nat) (t : Thread) : (x.setThread sl t).preempt = x.preempt := rfl
@[simp] theorem Core.setThread_asleep (x : Core) (sl : Nat) (t : Thread) : (x.setThread sl t).asleep = x.asleep := rfl
@[simp] theorem Core.setThread_idleSince (x : Core) (sl : Nat) (t : Thread) : (x.setThread sl t).idleSince = x.idleSince := rfl
@[simp] theorem Core.setThread_nextSth (x : Core) (sl : Nat) (t : Thread) : (x.setThread sl t).nextSth = x.nextSth := rfl
@[simp] theorem Core.setThread_lastRot (x : Core) (sl : Nat) (t : Thread) : (x.setThread sl t).lastRot = x.lastRot := rfl
@[simp] theorem Core.setThread_issueP (x : Core) (sl : Nat) (t : Thread) : (x.setThread sl t).issueP = x.issueP := rfl

@[simp] theorem Core.setGreg_threads (x : Core) (t : Thread) (n : Nat) (v : Word) : (x.setGreg t n v).threads = x.threads := rfl
@[simp] theorem Core.setGreg_owners (x : Core) (t : Thread) (n : Nat) (v : Word) : (x.setGreg t n v).owners = x.owners := rfl
@[simp] theorem Core.setGreg_kregs (x : Core) (t : Thread) (n : Nat) (v : Word) : (x.setGreg t n v).kregs = x.kregs := rfl
@[simp] theorem Core.setGreg_chans (x : Core) (t : Thread) (n : Nat) (v : Word) : (x.setGreg t n v).chans = x.chans := rfl
@[simp] theorem Core.setGreg_lmem (x : Core) (t : Thread) (n : Nat) (v : Word) : (x.setGreg t n v).lmem = x.lmem := rfl
@[simp] theorem Core.setGreg_full (x : Core) (t : Thread) (n : Nat) (v : Word) : (x.setGreg t n v).full = x.full := rfl
@[simp] theorem Core.setGreg_fillers (x : Core) (t : Thread) (n : Nat) (v : Word) : (x.setGreg t n v).fillers = x.fillers := rfl
@[simp] theorem Core.setGreg_fx (x : Core) (t : Thread) (n : Nat) (v : Word) : (x.setGreg t n v).fx = x.fx := rfl
@[simp] theorem Core.setGreg_lpoison (x : Core) (t : Thread) (n : Nat) (v : Word) : (x.setGreg t n v).lpoison = x.lpoison := rfl
@[simp] theorem Core.setGreg_zf (x : Core) (t : Thread) (n : Nat) (v : Word) : (x.setGreg t n v).zf = x.zf := rfl
@[simp] theorem Core.setGreg_claims (x : Core) (t : Thread) (n : Nat) (v : Word) : (x.setGreg t n v).claims = x.claims := rfl
@[simp] theorem Core.setGreg_resident (x : Core) (t : Thread) (n : Nat) (v : Word) : (x.setGreg t n v).resident = x.resident := rfl
@[simp] theorem Core.setGreg_scl (x : Core) (t : Thread) (n : Nat) (v : Word) : (x.setGreg t n v).scl = x.scl := rfl
@[simp] theorem Core.setGreg_te (x : Core) (t : Thread) (n : Nat) (v : Word) : (x.setGreg t n v).te = x.te := rfl
@[simp] theorem Core.setGreg_seqnow (x : Core) (t : Thread) (n : Nat) (v : Word) : (x.setGreg t n v).seqnow = x.seqnow := rfl
@[simp] theorem Core.setGreg_trcfg (x : Core) (t : Thread) (n : Nat) (v : Word) : (x.setGreg t n v).trcfg = x.trcfg := rfl
@[simp] theorem Core.setGreg_slcfg (x : Core) (t : Thread) (n : Nat) (v : Word) : (x.setGreg t n v).slcfg = x.slcfg := rfl
@[simp] theorem Core.setGreg_cevs (x : Core) (t : Thread) (n : Nat) (v : Word) : (x.setGreg t n v).cevs = x.cevs := rfl
@[simp] theorem Core.setGreg_ctrs (x : Core) (t : Thread) (n : Nat) (v : Word) : (x.setGreg t n v).ctrs = x.ctrs := rfl
@[simp] theorem Core.setGreg_ring (x : Core) (t : Thread) (n : Nat) (v : Word) : (x.setGreg t n v).ring = x.ring := rfl
@[simp] theorem Core.setGreg_dcache (x : Core) (t : Thread) (n : Nat) (v : Word) : (x.setGreg t n v).dcache = x.dcache := rfl
@[simp] theorem Core.setGreg_sbuf (x : Core) (t : Thread) (n : Nat) (v : Word) : (x.setGreg t n v).sbuf = x.sbuf := rfl
@[simp] theorem Core.setGreg_tlb (x : Core) (t : Thread) (n : Nat) (v : Word) : (x.setGreg t n v).tlb = x.tlb := rfl
@[simp] theorem Core.setGreg_icache (x : Core) (t : Thread) (n : Nat) (v : Word) : (x.setGreg t n v).icache = x.icache := rfl
@[simp] theorem Core.setGreg_deque (x : Core) (t : Thread) (n : Nat) (v : Word) : (x.setGreg t n v).deque = x.deque := rfl
@[simp] theorem Core.setGreg_spill (x : Core) (t : Thread) (n : Nat) (v : Word) : (x.setGreg t n v).spill = x.spill := rfl
@[simp] theorem Core.setGreg_displaced (x : Core) (t : Thread) (n : Nat) (v : Word) : (x.setGreg t n v).displaced = x.displaced := rfl
@[simp] theorem Core.setGreg_saved (x : Core) (t : Thread) (n : Nat) (v : Word) : (x.setGreg t n v).saved = x.saved := rfl
@[simp] theorem Core.setGreg_arrived (x : Core) (t : Thread) (n : Nat) (v : Word) : (x.setGreg t n v).arrived = x.arrived := rfl
@[simp] theorem Core.setGreg_coming (x : Core) (t : Thread) (n : Nat) (v : Word) : (x.setGreg t n v).coming = x.coming := rfl
@[simp] theorem Core.setGreg_pushers (x : Core) (t : Thread) (n : Nat) (v : Word) : (x.setGreg t n v).pushers = x.pushers := rfl
@[simp] theorem Core.setGreg_steals (x : Core) (t : Thread) (n : Nat) (v : Word) : (x.setGreg t n v).steals = x.steals := rfl
@[simp] theorem Core.setGreg_lastVictim (x : Core) (t : Thread) (n : Nat) (v : Word) : (x.setGreg t n v).lastVictim = x.lastVictim := rfl
@[simp] theorem Core.setGreg_spillWait (x : Core) (t : Thread) (n : Nat) (v : Word) : (x.setGreg t n v).spillWait = x.spillWait := rfl
@[simp] theorem Core.setGreg_slog (x : Core) (t : Thread) (n : Nat) (v : Word) : (x.setGreg t n v).slog = x.slog := rfl
@[simp] theorem Core.setGreg_slogLast (x : Core) (t : Thread) (n : Nat) (v : Word) : (x.setGreg t n v).slogLast = x.slogLast := rfl
@[simp] theorem Core.setGreg_slogState (x : Core) (t : Thread) (n : Nat) (v : Word) : (x.setGreg t n v).slogState = x.slogState := rfl
@[simp] theorem Core.setGreg_preempt (x : Core) (t : Thread) (n : Nat) (v : Word) : (x.setGreg t n v).preempt = x.preempt := rfl
@[simp] theorem Core.setGreg_asleep (x : Core) (t : Thread) (n : Nat) (v : Word) : (x.setGreg t n v).asleep = x.asleep := rfl
@[simp] theorem Core.setGreg_idleSince (x : Core) (t : Thread) (n : Nat) (v : Word) : (x.setGreg t n v).idleSince = x.idleSince := rfl
@[simp] theorem Core.setGreg_nextSth (x : Core) (t : Thread) (n : Nat) (v : Word) : (x.setGreg t n v).nextSth = x.nextSth := rfl
@[simp] theorem Core.setGreg_lastRot (x : Core) (t : Thread) (n : Nat) (v : Word) : (x.setGreg t n v).lastRot = x.lastRot := rfl
@[simp] theorem Core.setGreg_issueP (x : Core) (t : Thread) (n : Nat) (v : Word) : (x.setGreg t n v).issueP = x.issueP := rfl

@[simp] theorem Core.setKreg_threads (x : Core) (n u : Nat) (v : Word) : (x.setKreg n u v).threads = x.threads := rfl
@[simp] theorem Core.setKreg_owners (x : Core) (n u : Nat) (v : Word) : (x.setKreg n u v).owners = x.owners := rfl
@[simp] theorem Core.setKreg_regs (x : Core) (n u : Nat) (v : Word) : (x.setKreg n u v).regs = x.regs := rfl
@[simp] theorem Core.setKreg_regPoison (x : Core) (n u : Nat) (v : Word) : (x.setKreg n u v).regPoison = x.regPoison := rfl
@[simp] theorem Core.setKreg_chans (x : Core) (n u : Nat) (v : Word) : (x.setKreg n u v).chans = x.chans := rfl
@[simp] theorem Core.setKreg_lmem (x : Core) (n u : Nat) (v : Word) : (x.setKreg n u v).lmem = x.lmem := rfl
@[simp] theorem Core.setKreg_full (x : Core) (n u : Nat) (v : Word) : (x.setKreg n u v).full = x.full := rfl
@[simp] theorem Core.setKreg_fillers (x : Core) (n u : Nat) (v : Word) : (x.setKreg n u v).fillers = x.fillers := rfl
@[simp] theorem Core.setKreg_fx (x : Core) (n u : Nat) (v : Word) : (x.setKreg n u v).fx = x.fx := rfl
@[simp] theorem Core.setKreg_lpoison (x : Core) (n u : Nat) (v : Word) : (x.setKreg n u v).lpoison = x.lpoison := rfl
@[simp] theorem Core.setKreg_zf (x : Core) (n u : Nat) (v : Word) : (x.setKreg n u v).zf = x.zf := rfl
@[simp] theorem Core.setKreg_claims (x : Core) (n u : Nat) (v : Word) : (x.setKreg n u v).claims = x.claims := rfl
@[simp] theorem Core.setKreg_resident (x : Core) (n u : Nat) (v : Word) : (x.setKreg n u v).resident = x.resident := rfl
@[simp] theorem Core.setKreg_scl (x : Core) (n u : Nat) (v : Word) : (x.setKreg n u v).scl = x.scl := rfl
@[simp] theorem Core.setKreg_te (x : Core) (n u : Nat) (v : Word) : (x.setKreg n u v).te = x.te := rfl
@[simp] theorem Core.setKreg_seqnow (x : Core) (n u : Nat) (v : Word) : (x.setKreg n u v).seqnow = x.seqnow := rfl
@[simp] theorem Core.setKreg_trcfg (x : Core) (n u : Nat) (v : Word) : (x.setKreg n u v).trcfg = x.trcfg := rfl
@[simp] theorem Core.setKreg_slcfg (x : Core) (n u : Nat) (v : Word) : (x.setKreg n u v).slcfg = x.slcfg := rfl
@[simp] theorem Core.setKreg_cevs (x : Core) (n u : Nat) (v : Word) : (x.setKreg n u v).cevs = x.cevs := rfl
@[simp] theorem Core.setKreg_ctrs (x : Core) (n u : Nat) (v : Word) : (x.setKreg n u v).ctrs = x.ctrs := rfl
@[simp] theorem Core.setKreg_ring (x : Core) (n u : Nat) (v : Word) : (x.setKreg n u v).ring = x.ring := rfl
@[simp] theorem Core.setKreg_dcache (x : Core) (n u : Nat) (v : Word) : (x.setKreg n u v).dcache = x.dcache := rfl
@[simp] theorem Core.setKreg_sbuf (x : Core) (n u : Nat) (v : Word) : (x.setKreg n u v).sbuf = x.sbuf := rfl
@[simp] theorem Core.setKreg_tlb (x : Core) (n u : Nat) (v : Word) : (x.setKreg n u v).tlb = x.tlb := rfl
@[simp] theorem Core.setKreg_icache (x : Core) (n u : Nat) (v : Word) : (x.setKreg n u v).icache = x.icache := rfl
@[simp] theorem Core.setKreg_deque (x : Core) (n u : Nat) (v : Word) : (x.setKreg n u v).deque = x.deque := rfl
@[simp] theorem Core.setKreg_spill (x : Core) (n u : Nat) (v : Word) : (x.setKreg n u v).spill = x.spill := rfl
@[simp] theorem Core.setKreg_displaced (x : Core) (n u : Nat) (v : Word) : (x.setKreg n u v).displaced = x.displaced := rfl
@[simp] theorem Core.setKreg_saved (x : Core) (n u : Nat) (v : Word) : (x.setKreg n u v).saved = x.saved := rfl
@[simp] theorem Core.setKreg_arrived (x : Core) (n u : Nat) (v : Word) : (x.setKreg n u v).arrived = x.arrived := rfl
@[simp] theorem Core.setKreg_coming (x : Core) (n u : Nat) (v : Word) : (x.setKreg n u v).coming = x.coming := rfl
@[simp] theorem Core.setKreg_pushers (x : Core) (n u : Nat) (v : Word) : (x.setKreg n u v).pushers = x.pushers := rfl
@[simp] theorem Core.setKreg_steals (x : Core) (n u : Nat) (v : Word) : (x.setKreg n u v).steals = x.steals := rfl
@[simp] theorem Core.setKreg_lastVictim (x : Core) (n u : Nat) (v : Word) : (x.setKreg n u v).lastVictim = x.lastVictim := rfl
@[simp] theorem Core.setKreg_spillWait (x : Core) (n u : Nat) (v : Word) : (x.setKreg n u v).spillWait = x.spillWait := rfl
@[simp] theorem Core.setKreg_slog (x : Core) (n u : Nat) (v : Word) : (x.setKreg n u v).slog = x.slog := rfl
@[simp] theorem Core.setKreg_slogLast (x : Core) (n u : Nat) (v : Word) : (x.setKreg n u v).slogLast = x.slogLast := rfl
@[simp] theorem Core.setKreg_slogState (x : Core) (n u : Nat) (v : Word) : (x.setKreg n u v).slogState = x.slogState := rfl
@[simp] theorem Core.setKreg_preempt (x : Core) (n u : Nat) (v : Word) : (x.setKreg n u v).preempt = x.preempt := rfl
@[simp] theorem Core.setKreg_asleep (x : Core) (n u : Nat) (v : Word) : (x.setKreg n u v).asleep = x.asleep := rfl
@[simp] theorem Core.setKreg_idleSince (x : Core) (n u : Nat) (v : Word) : (x.setKreg n u v).idleSince = x.idleSince := rfl
@[simp] theorem Core.setKreg_nextSth (x : Core) (n u : Nat) (v : Word) : (x.setKreg n u v).nextSth = x.nextSth := rfl
@[simp] theorem Core.setKreg_lastRot (x : Core) (n u : Nat) (v : Word) : (x.setKreg n u v).lastRot = x.lastRot := rfl
@[simp] theorem Core.setKreg_issueP (x : Core) (n u : Nat) (v : Word) : (x.setKreg n u v).issueP = x.issueP := rfl

@[simp] theorem Core.setChan_threads (x : Core) (n : Nat) (q : Chan) : (x.setChan n q).threads = x.threads := rfl
@[simp] theorem Core.setChan_owners (x : Core) (n : Nat) (q : Chan) : (x.setChan n q).owners = x.owners := rfl
@[simp] theorem Core.setChan_regs (x : Core) (n : Nat) (q : Chan) : (x.setChan n q).regs = x.regs := rfl
@[simp] theorem Core.setChan_regPoison (x : Core) (n : Nat) (q : Chan) : (x.setChan n q).regPoison = x.regPoison := rfl
@[simp] theorem Core.setChan_kregs (x : Core) (n : Nat) (q : Chan) : (x.setChan n q).kregs = x.kregs := rfl
@[simp] theorem Core.setChan_lmem (x : Core) (n : Nat) (q : Chan) : (x.setChan n q).lmem = x.lmem := rfl
@[simp] theorem Core.setChan_full (x : Core) (n : Nat) (q : Chan) : (x.setChan n q).full = x.full := rfl
@[simp] theorem Core.setChan_fillers (x : Core) (n : Nat) (q : Chan) : (x.setChan n q).fillers = x.fillers := rfl
@[simp] theorem Core.setChan_fx (x : Core) (n : Nat) (q : Chan) : (x.setChan n q).fx = x.fx := rfl
@[simp] theorem Core.setChan_lpoison (x : Core) (n : Nat) (q : Chan) : (x.setChan n q).lpoison = x.lpoison := rfl
@[simp] theorem Core.setChan_zf (x : Core) (n : Nat) (q : Chan) : (x.setChan n q).zf = x.zf := rfl
@[simp] theorem Core.setChan_claims (x : Core) (n : Nat) (q : Chan) : (x.setChan n q).claims = x.claims := rfl
@[simp] theorem Core.setChan_resident (x : Core) (n : Nat) (q : Chan) : (x.setChan n q).resident = x.resident := rfl
@[simp] theorem Core.setChan_scl (x : Core) (n : Nat) (q : Chan) : (x.setChan n q).scl = x.scl := rfl
@[simp] theorem Core.setChan_te (x : Core) (n : Nat) (q : Chan) : (x.setChan n q).te = x.te := rfl
@[simp] theorem Core.setChan_seqnow (x : Core) (n : Nat) (q : Chan) : (x.setChan n q).seqnow = x.seqnow := rfl
@[simp] theorem Core.setChan_trcfg (x : Core) (n : Nat) (q : Chan) : (x.setChan n q).trcfg = x.trcfg := rfl
@[simp] theorem Core.setChan_slcfg (x : Core) (n : Nat) (q : Chan) : (x.setChan n q).slcfg = x.slcfg := rfl
@[simp] theorem Core.setChan_cevs (x : Core) (n : Nat) (q : Chan) : (x.setChan n q).cevs = x.cevs := rfl
@[simp] theorem Core.setChan_ctrs (x : Core) (n : Nat) (q : Chan) : (x.setChan n q).ctrs = x.ctrs := rfl
@[simp] theorem Core.setChan_ring (x : Core) (n : Nat) (q : Chan) : (x.setChan n q).ring = x.ring := rfl
@[simp] theorem Core.setChan_dcache (x : Core) (n : Nat) (q : Chan) : (x.setChan n q).dcache = x.dcache := rfl
@[simp] theorem Core.setChan_sbuf (x : Core) (n : Nat) (q : Chan) : (x.setChan n q).sbuf = x.sbuf := rfl
@[simp] theorem Core.setChan_tlb (x : Core) (n : Nat) (q : Chan) : (x.setChan n q).tlb = x.tlb := rfl
@[simp] theorem Core.setChan_icache (x : Core) (n : Nat) (q : Chan) : (x.setChan n q).icache = x.icache := rfl
@[simp] theorem Core.setChan_deque (x : Core) (n : Nat) (q : Chan) : (x.setChan n q).deque = x.deque := rfl
@[simp] theorem Core.setChan_spill (x : Core) (n : Nat) (q : Chan) : (x.setChan n q).spill = x.spill := rfl
@[simp] theorem Core.setChan_displaced (x : Core) (n : Nat) (q : Chan) : (x.setChan n q).displaced = x.displaced := rfl
@[simp] theorem Core.setChan_saved (x : Core) (n : Nat) (q : Chan) : (x.setChan n q).saved = x.saved := rfl
@[simp] theorem Core.setChan_arrived (x : Core) (n : Nat) (q : Chan) : (x.setChan n q).arrived = x.arrived := rfl
@[simp] theorem Core.setChan_coming (x : Core) (n : Nat) (q : Chan) : (x.setChan n q).coming = x.coming := rfl
@[simp] theorem Core.setChan_pushers (x : Core) (n : Nat) (q : Chan) : (x.setChan n q).pushers = x.pushers := rfl
@[simp] theorem Core.setChan_steals (x : Core) (n : Nat) (q : Chan) : (x.setChan n q).steals = x.steals := rfl
@[simp] theorem Core.setChan_lastVictim (x : Core) (n : Nat) (q : Chan) : (x.setChan n q).lastVictim = x.lastVictim := rfl
@[simp] theorem Core.setChan_spillWait (x : Core) (n : Nat) (q : Chan) : (x.setChan n q).spillWait = x.spillWait := rfl
@[simp] theorem Core.setChan_slog (x : Core) (n : Nat) (q : Chan) : (x.setChan n q).slog = x.slog := rfl
@[simp] theorem Core.setChan_slogLast (x : Core) (n : Nat) (q : Chan) : (x.setChan n q).slogLast = x.slogLast := rfl
@[simp] theorem Core.setChan_slogState (x : Core) (n : Nat) (q : Chan) : (x.setChan n q).slogState = x.slogState := rfl
@[simp] theorem Core.setChan_preempt (x : Core) (n : Nat) (q : Chan) : (x.setChan n q).preempt = x.preempt := rfl
@[simp] theorem Core.setChan_asleep (x : Core) (n : Nat) (q : Chan) : (x.setChan n q).asleep = x.asleep := rfl
@[simp] theorem Core.setChan_idleSince (x : Core) (n : Nat) (q : Chan) : (x.setChan n q).idleSince = x.idleSince := rfl
@[simp] theorem Core.setChan_nextSth (x : Core) (n : Nat) (q : Chan) : (x.setChan n q).nextSth = x.nextSth := rfl
@[simp] theorem Core.setChan_lastRot (x : Core) (n : Nat) (q : Chan) : (x.setChan n q).lastRot = x.lastRot := rfl
@[simp] theorem Core.setChan_issueP (x : Core) (n : Nat) (q : Chan) : (x.setChan n q).issueP = x.issueP := rfl

@[simp] theorem Thread.enter_lid (t : Thread) (c : Cause) (l r : Bool) (i a u : Nat) (v q p : Word) : (t.enter c l r i a u v q p).lid = t.lid := rfl
@[simp] theorem Thread.enter_pl (t : Thread) (c : Cause) (l r : Bool) (i a u : Nat) (v q p : Word) : (t.enter c l r i a u v q p).pl = t.pl := rfl
@[simp] theorem Thread.enter_tag (t : Thread) (c : Cause) (l r : Bool) (i a u : Nat) (v q p : Word) : (t.enter c l r i a u v q p).tag = t.tag := rfl
@[simp] theorem Thread.enter_preds (t : Thread) (c : Cause) (l r : Bool) (i a u : Nat) (v q p : Word) : (t.enter c l r i a u v q p).preds = t.preds := rfl
@[simp] theorem Thread.enter_sth (t : Thread) (c : Cause) (l r : Bool) (i a u : Nat) (v q p : Word) : (t.enter c l r i a u v q p).sth = t.sth := rfl
@[simp] theorem Thread.enter_base (t : Thread) (c : Cause) (l r : Bool) (i a u : Nat) (v q p : Word) : (t.enter c l r i a u v q p).base = t.base := rfl
@[simp] theorem Thread.enter_lim (t : Thread) (c : Cause) (l r : Bool) (i a u : Nat) (v q p : Word) : (t.enter c l r i a u v q p).lim = t.lim := rfl
@[simp] theorem Thread.enter_mode (t : Thread) (c : Cause) (l r : Bool) (i a u : Nat) (v q p : Word) : (t.enter c l r i a u v q p).mode = t.mode := rfl
@[simp] theorem Thread.enter_tvec (t : Thread) (c : Cause) (l r : Bool) (i a u : Nat) (v q p : Word) : (t.enter c l r i a u v q p).tvec = t.tvec := rfl
@[simp] theorem Thread.enter_ts0 (t : Thread) (c : Cause) (l r : Bool) (i a u : Nat) (v q p : Word) : (t.enter c l r i a u v q p).ts0 = t.ts0 := rfl
@[simp] theorem Thread.enter_ts1 (t : Thread) (c : Cause) (l r : Bool) (i a u : Nat) (v q p : Word) : (t.enter c l r i a u v q p).ts1 = t.ts1 := rfl
@[simp] theorem Thread.enter_ts2 (t : Thread) (c : Cause) (l r : Bool) (i a u : Nat) (v q p : Word) : (t.enter c l r i a u v q p).ts2 = t.ts2 := rfl
@[simp] theorem Thread.enter_ts3 (t : Thread) (c : Cause) (l r : Bool) (i a u : Nat) (v q p : Word) : (t.enter c l r i a u v q p).ts3 = t.ts3 := rfl
@[simp] theorem Thread.enter_tsbase (t : Thread) (c : Cause) (l r : Bool) (i a u : Nat) (v q p : Word) : (t.enter c l r i a u v q p).tsbase = t.tsbase := rfl
@[simp] theorem Thread.enter_tjoin (t : Thread) (c : Cause) (l r : Bool) (i a u : Nat) (v q p : Word) : (t.enter c l r i a u v q p).tjoin = t.tjoin := rfl
@[simp] theorem Thread.enter_unack (t : Thread) (c : Cause) (l r : Bool) (i a u : Nat) (v q p : Word) : (t.enter c l r i a u v q p).unack = t.unack := rfl
@[simp] theorem Thread.enter_dqbase (t : Thread) (c : Cause) (l r : Bool) (i a u : Nat) (v q p : Word) : (t.enter c l r i a u v q p).dqbase = t.dqbase := rfl
@[simp] theorem Thread.enter_cpstat (t : Thread) (c : Cause) (l r : Bool) (i a u : Nat) (v q p : Word) : (t.enter c l r i a u v q p).cpstat = t.cpstat := rfl
@[simp] theorem Thread.enter_tsreg (t : Thread) (c : Cause) (l r : Bool) (i a u : Nat) (v q p : Word) : (t.enter c l r i a u v q p).tsreg = t.tsreg := rfl
@[simp] theorem Thread.enter_tsdepth (t : Thread) (c : Cause) (l r : Bool) (i a u : Nat) (v q p : Word) : (t.enter c l r i a u v q p).tsdepth = t.tsdepth := rfl
@[simp] theorem Thread.enter_touched (t : Thread) (c : Cause) (l r : Bool) (i a u : Nat) (v q p : Word) : (t.enter c l r i a u v q p).touched = t.touched := rfl
@[simp] theorem Thread.enter_spliced (t : Thread) (c : Cause) (l r : Bool) (i a u : Nat) (v q p : Word) : (t.enter c l r i a u v q p).spliced = t.spliced := rfl
@[simp] theorem Thread.enter_counts (t : Thread) (c : Cause) (l r : Bool) (i a u : Nat) (v q p : Word) : (t.enter c l r i a u v q p).counts = t.counts := rfl
@[simp] theorem Thread.enter_tnew (t : Thread) (c : Cause) (l r : Bool) (i a u : Nat) (v q p : Word) : (t.enter c l r i a u v q p).tnew = t.tnew := rfl
@[simp] theorem Thread.enter_idle (t : Thread) (c : Cause) (l r : Bool) (i a u : Nat) (v q p : Word) : (t.enter c l r i a u v q p).idle = t.idle := rfl
@[simp] theorem Thread.enter_begun (t : Thread) (c : Cause) (l r : Bool) (i a u : Nat) (v q p : Word) : (t.enter c l r i a u v q p).begun = t.begun := rfl
@[simp] theorem Thread.enter_late (t : Thread) (c : Cause) (l r : Bool) (i a u : Nat) (v q p : Word) : (t.enter c l r i a u v q p).late = t.late := rfl
@[simp] theorem Thread.enter_ending (t : Thread) (c : Cause) (l r : Bool) (i a u : Nat) (v q p : Word) : (t.enter c l r i a u v q p).ending = t.ending := rfl
@[simp] theorem Thread.enter_dbg (t : Thread) (c : Cause) (l r : Bool) (i a u : Nat) (v q p : Word) : (t.enter c l r i a u v q p).dbg = t.dbg := rfl
@[simp] theorem Thread.enter_stopped (t : Thread) (c : Cause) (l r : Bool) (i a u : Nat) (v q p : Word) : (t.enter c l r i a u v q p).stopped = t.stopped := rfl
@[simp] theorem Thread.enter_busy (t : Thread) (c : Cause) (l r : Bool) (i a u : Nat) (v q p : Word) : (t.enter c l r i a u v q p).busy = t.busy := rfl
@[simp] theorem Thread.enter_mesh (t : Thread) (c : Cause) (l r : Bool) (i a u : Nat) (v q p : Word) : (t.enter c l r i a u v q p).mesh = t.mesh := rfl
@[simp] theorem Thread.enter_savedAt (t : Thread) (c : Cause) (l r : Bool) (i a u : Nat) (v q p : Word) : (t.enter c l r i a u v q p).savedAt = t.savedAt := rfl
@[simp] theorem Thread.enter_badRegs (t : Thread) (c : Cause) (l r : Bool) (i a u : Nat) (v q p : Word) : (t.enter c l r i a u v q p).badRegs = t.badRegs := rfl

end Sys2Proof.Machine
end

