-- ==== Sys2Proof/Laws/Ops.lean ====
section
/-!
SUPPORT. What the shared operations do, said once: the shell that an instruction issues through, the retiring of an
instruction, the writing of a register, and the taking of a trap.
-/

namespace Sys2Proof.Machine

/-! ### Cores and threads after an update -/

theorem State.core_setCore (s : State) (c d : Nat) (x : Core) :
    (s.setCore c x).core d = if d = c then x else s.core d := by
  simp [State.core, State.setCore, KMap.lookD_put]

@[simp] theorem State.core_setCore_self (s : State) (c : Nat) (x : Core) : (s.setCore c x).core c = x := by
  simp [State.core_setCore]

theorem State.core_modCore (s : State) (c d : Nat) (f : Core → Core) :
    (s.modCore c f).core d = if d = c then f (s.core c) else s.core d := State.core_setCore s c d _

@[simp] theorem State.core_modCore_self (s : State) (c : Nat) (f : Core → Core) :
    (s.modCore c f).core c = f (s.core c) := by simp [State.core_modCore]

theorem State.core_modCore_ne (s : State) {c d : Nat} (f : Core → Core) (h : d ≠ c) :
    (s.modCore c f).core d = s.core d := by simp [State.core_modCore, h]

theorem State.thread_setThread (s : State) (c sl d sm : Nat) (t : Thread) :
    (s.setThread c sl t).thread? d sm = if d = c ∧ sm = sl then some t else s.thread? d sm := by
  unfold State.thread? State.setThread
  rw [State.core_modCore]
  by_cases hd : d = c
  · subst hd
    by_cases hs : sm = sl <;> simp [Core.setThread, KMap.look_put, hs]
  · simp [hd]

theorem State.modThread_some (s : State) {c sl : Nat} (f : Thread → Thread) {t : Thread} (h : s.thread? c sl = some t) :
    s.modThread c sl f = s.setThread c sl (f t) := by simp [State.modThread, h]

theorem State.modThread_none (s : State) {c sl : Nat} (f : Thread → Thread) (h : s.thread? c sl = none) :
    s.modThread c sl f = s := by simp [State.modThread, h]

theorem State.thread_modThread (s : State) (c sl d sm : Nat) (f : Thread → Thread) :
    (s.modThread c sl f).thread? d sm =
      if d = c ∧ sm = sl then (s.thread? c sl).map f else s.thread? d sm := by
  unfold State.modThread
  cases h : s.thread? c sl with
  | none => by_cases hd : d = c ∧ sm = sl <;> simp [hd, h]
  | some t => simp [State.thread_setThread]

/-! ### The shell of an instruction (R301 to R304, R153) -/

/-- An instruction that goes ahead has its effect. -/
theorem issueWith_goes {wait : Bool} {len : Nat} {p : Pred} {dst : Option Pos} {srcs : List Pos}
    {body : State → State} {s : State} (h : IssuesWith wait s p dst srcs) :
    issueWith wait len p dst srcs body s = .next (body (began s srcs)) := by
  obtain ⟨h1, h2, h3, h4, h5, h6, h7⟩ := h
  obtain ⟨t, ht⟩ := Option.isSome_iff_exists.mp h1
  have hme : s.me = t := by simp [State.me, ht]
  rw [hme] at h2 h3 h4 h6 h7
  have h5' : (popsOf (regCodes srcs)).find? (fun ch => (s.myCore.chan ch).bind.isSome) = none := by
    simp only [List.find?_eq_none]
    intro ch hch; simp [h5 ch hch]
  simp only [issueWith, ht, h2, h3, h4, h5', began]
  rw [h6]
  have h7' : ((Option.any (fun ch => (s.myCore.chan ch).bind.isSome) (if wait = true then destChan dst else none))
      && decide (2 ^ 32 - 1 ≤ t.unack)) = false := by
    cases hd : (if wait = true then destChan dst else none) with
    | none => simp
    | some ch =>
      rw [hd] at h7
      have h7 := h7 ch rfl
      cases hb : (s.myCore.chan ch).bind.isSome with
      | false => simp [hb]
      | true => have := h7 hb; simp; omega
  simp only [Bool.not_true, Bool.false_eq_true, if_false]
  rw [h7']
  simp

theorem issue_goes {p : Pred} {dst : Option Pos} {srcs : List Pos} {body : State → State} {s : State}
    (h : Issues s p dst srcs) : issue p dst srcs body s = .next (body (began s srcs)) := issueWith_goes h

/-- An instruction whose predicate does not select it falls through, its operands judged and nothing else done. -/
theorem issueWith_skips {wait : Bool} {len : Nat} {p : Pred} {dst : Option Pos} {srcs : List Pos}
    {body : State → State} {s : State} {t : Thread} (ht : s.me? = some t)
    (h : operandTrap (dst.toList ++ srcs) t.lim = none) (hp : t.executes p = false) :
    issueWith wait len p dst srcs body s =
      .next ({ s with cur := { s.cur with pops := [] } }.retireTo (t.pc + BitVec.ofNat 64 len)) := by
  simp [issueWith, ht, h, hp]

/-- An instruction with an operand code that is not legal, or a register outside the window, traps whether or not its
predicate selects it. -/
theorem issueWith_operandTrap {wait : Bool} {len : Nat} {p : Pred} {dst : Option Pos} {srcs : List Pos}
    {body : State → State} {s : State} {t : Thread} {cause : Cause} {code : Code} (ht : s.me? = some t)
    (h : operandTrap (dst.toList ++ srcs) t.lim = some (cause, code)) :
    issueWith wait len p dst srcs body s = .next (s.trap cause (code.setWidth 64)) := by
  simp [issueWith, ht, h]

/-- Every instruction that issues through the shell answers a next state. -/
theorem issueWith_next (wait : Bool) (len : Nat) (p : Pred) (dst : Option Pos) (srcs : List Pos)
    (body : State → State) (s : State) (h : s.me?.isSome = true) :
    ∃ t, issueWith wait len p dst srcs body s = .next t := by
  obtain ⟨t, ht⟩ := Option.isSome_iff_exists.mp h
  simp only [issueWith, ht]
  repeat' split
  all_goals exact ⟨_, rfl⟩

/-! ### What a begun instruction reads -/

@[simp] theorem began_operand (s : State) (srcs : List Pos) (l : List Code) (i : Nat) :
    (began s srcs).operand l i = s.operand l i := (rfl)
@[simp] theorem began_me (s : State) (srcs : List Pos) : (began s srcs).me = s.me := (rfl)
@[simp] theorem began_me? (s : State) (srcs : List Pos) : (began s srcs).me? = s.me? := (rfl)
@[simp] theorem began_myCore (s : State) (srcs : List Pos) : (began s srcs).myCore = s.myCore := (rfl)

/-! ### Instructions that compute (R320) -/

theorem compute1_goes {p : Pred} {d a : Code} {f : Word → Word} {s : State}
    (h : Issues s p (some (rg d)) [rg a]) :
    compute1 p d a f s = .next (wrote s [rg a] d (f (s.operand [a] 0))) := issue_goes h

theorem compute2_goes {p : Pred} {d a b : Code} {f : Word → Word → Word} {s : State}
    (h : Issues s p (some (rg d)) [rg a, rg b]) :
    compute2 p d a b f s = .next (wrote s [rg a, rg b] d (f (s.operand [a, b] 0) (s.operand [a, b] 1))) := issue_goes h

theorem compute3_goes {p : Pred} {d a b c : Code} {f : Word → Word → Word → Word} {s : State}
    (h : Issues s p (some (rg d)) [rg a, rg b, rg c]) :
    compute3 p d a b c f s = .next (wrote s [rg a, rg b, rg c] d
      (f (s.operand [a, b, c] 0) (s.operand [a, b, c] 1) (s.operand [a, b, c] 2))) := issue_goes h

theorem compute0_goes {p : Pred} {d : Code} {f : State → Word} {s : State} (h : Issues s p (some (rg d)) []) :
    compute0 p d f s = .next (wrote s [] d (f (began s []))) := issue_goes h

/-! ### Writing a register (R146, R148, R150) -/

/-- A write of a g register stands in the register file, at the window's base. -/
theorem wr_g {s : State} {d : Code} (v : Word) (h : isGCode d = true) :
    s.wr d v = s.modMyCore fun x => x.setGreg s.me (codeNum d) v := by simp [State.wr, h]

theorem wr_k {s : State} {d : Code} (v : Word) (h : isKCode d = true) :
    s.wr d v = s.modMyCore fun x => x.setKreg (codeNum d) s.clk v := by
  have hg : isGCode d = false := by
    simp only [isKCode, isGCode, Bool.and_eq_true, decide_eq_true_eq, decide_eq_false_iff_not] at *; omega
  simp [State.wr, hg, h]

theorem wr_zero {s : State} (v : Word) : s.wr 0xB0 v = s := rfl

theorem greg_setGreg (x : Core) (t : Thread) (n m : Nat) (v : Word) :
    (x.setGreg t n v).greg t m = if m = n then v else x.greg t m := by
  simp only [Core.greg, Core.setGreg, KMap.lookD_putD]
  by_cases h : m = n <;> simp [h]

/-- The write clears the entry's poison. -/
theorem setGreg_clean (x : Core) (t : Thread) (n : Nat) (v : Word) :
    t.base + n ∉ (x.setGreg t n v).regPoison := by
  simp [Core.setGreg]

/-- A k register reads as its new value from the eighth core cycle after the write on, and not before. -/
theorem kRead_setKreg (x : Core) (n u r : Nat) (v : Word) :
    kRead ((x.setKreg n u v).kregs.lookD n []) r =
      if u + 8 ≤ r then v else kRead (kPrune (x.kregs.lookD n []) u) r := by
  simp only [Core.setKreg, KMap.lookD_put_self, kRead, List.find?_cons]
  by_cases h : u + 8 ≤ r <;> simp [h]

/-! ### Retiring (R320) and traps (R249, R250) -/

@[simp] theorem noteState_off (s : State) (c sl st : Nat) (h : bit (s.core c).slcfg 0 = false) :
    s.noteState c sl st = s := by simp [State.noteState, h]

/-- What pops may change: a core's channels, what is in flight, and what is said outside. -/
structure PopOnly (s t : State) (c : Nat) : Prop where
  rest : t = { s with cores := t.cores, flights := t.flights, nextId := t.nextId, out := t.out }
  other : ∀ d, d ≠ c → t.core d = s.core d
  here : t.core c = { s.core c with chans := (t.core c).chans }

theorem PopOnly.refl (s : State) (c : Nat) : PopOnly s s c := ⟨rfl, fun _ _ => rfl, rfl⟩

theorem PopOnly.trans {s t u : State} {c : Nat} (h : PopOnly s t c) (k : PopOnly t u c) : PopOnly s u c := by
  refine ⟨?_, fun d hd => (k.other d hd).trans (h.other d hd), ?_⟩
  · have h1 := k.rest; rw [h.rest] at h1; exact h1
  · have h1 := k.here; rw [h.here] at h1; exact h1

/-- What leaves by the port of ORD traffic changes nothing but what is said outside. -/
theorem State.depart_ord (s : State) (dev : Nat) (k : Nat × Nat) (a : Answer) :
    ∃ o, s.depart dev (some k) a = { s with out := o } := by
  unfold State.depart State.pickPort
  by_cases hd : dev = s.devnum
  · rw [if_pos hd]; exact ⟨_, rfl⟩
  · rw [if_neg hd]
    cases hp : s.upPorts dev with
    | nil => exact ⟨s.out, rfl⟩
    | cons p ps => exact ⟨_, rfl⟩

theorem State.pop_only (s : State) (c ch : Nat) : PopOnly s (s.pop c ch) c := by
  have base : ∀ x : Chan, PopOnly s (s.modCore c fun y => y.setChan ch x) c := fun x =>
    ⟨rfl, fun d hd => State.core_modCore_ne s _ hd, by simp [Core.setChan]⟩
  have more : ∀ (t : State) (fl : List Sent) (n : Nat) (o : List Answer), PopOnly s t c →
      PopOnly s { t with flights := fl, nextId := n, out := o } c := fun t fl n o h =>
    ⟨by have := h.rest; rw [this], h.other, h.here⟩
  unfold State.pop
  simp only
  split
  · exact more _ _ _ _ (base _)
  · obtain ⟨o, ho⟩ := State.depart_ord (s.modCore c fun y => y.setChan ch
      { (s.core c).chan ch with vals := ((s.core c).chan ch).vals.drop 1, src := ((s.core c).chan ch).src.drop 1 }) _ _ _
    rw [ho]
    exact more _ _ _ _ (base _)
  · exact base _

theorem State.doPops_only (s : State) : PopOnly s s.doPops s.cur.core := by
  have : ∀ (l : List Nat) (t : State), PopOnly s t s.cur.core → t.cur.core = s.cur.core →
      PopOnly s (l.foldl (fun s ch => s.pop s.cur.core ch) t) s.cur.core := by
    intro l
    induction l with
    | nil => intro t h _; exact h
    | cons ch l ih =>
      intro t h hc
      have h1 : PopOnly t (t.pop t.cur.core ch) s.cur.core := by rw [hc]; exact State.pop_only t _ ch
      exact ih _ (h.trans h1) (by
        have h2 : (t.pop t.cur.core ch).cur = t.cur := by rw [h1.rest]
        show (t.pop t.cur.core ch).cur.core = _
        rw [h2]; exact hc)
  exact this s.cur.pops s (PopOnly.refl _ _) rfl

@[simp] theorem State.doPops_cur (s : State) : s.doPops.cur = s.cur := by rw [s.doPops_only.rest]

theorem State.doPops_thread (s : State) (c sl : Nat) : s.doPops.thread? c sl = s.thread? c sl := by
  unfold State.thread?
  by_cases h : c = s.cur.core
  · subst h; rw [s.doPops_only.here]
  · rw [s.doPops_only.other c h]

@[simp] theorem State.doPops_me? (s : State) : s.doPops.me? = s.me? := by
  unfold State.me?; rw [State.doPops_cur, State.doPops_thread]

/-- How a completed instruction leaves the thread. -/
def Thread.passedTo (t : Thread) (pc : Word) : Thread :=
  { t with pc := pc, park := none, prog := Prog.fresh, rel := none }

/-- Retiring, with the state-change log off: the pops are made, and the thread goes on at `pc`. -/
theorem State.retireTo_off {s : State} (pc : Word) {t : Thread} (ht : s.me? = some t) (h : LogOff s) :
    s.retireTo pc = s.doPops.setThread s.cur.core s.cur.slot (t.passedTo pc) := by
  have hl : bit (s.doPops.core s.cur.core).slcfg 0 = false := by rw [s.doPops_only.here]; exact h
  have ht' : s.doPops.thread? s.doPops.cur.core s.doPops.cur.slot = some t := by
    have := State.doPops_me? s; unfold State.me? at this; rw [this]; exact ht
  simp only [State.retireTo, State.modMe]
  rw [State.modThread_some _ _ ht', State.doPops_cur]
  rw [noteState_off]
  · rfl
  · rw [State.setThread, State.core_modCore_self]; exact hl

@[simp] theorem State.retireTo_me {s : State} (pc : Word) {t : Thread} (ht : s.me? = some t) (h : LogOff s) :
    (s.retireTo pc).me = t.passedTo pc := by
  rw [State.retireTo_off pc ht h]
  have hc : (s.doPops.setThread s.cur.core s.cur.slot (t.passedTo pc)).cur = s.cur := State.doPops_cur s
  simp [State.me, State.me?, State.thread_setThread]

/-- The issuing core after a retirement. -/
theorem State.retireTo_myCore {s : State} (pc : Word) {t : Thread} (ht : s.me? = some t) (h : LogOff s) :
    (s.retireTo pc).myCore = { s.myCore with
      chans := (s.doPops.core s.cur.core).chans, threads := s.myCore.threads.put s.cur.slot (t.passedTo pc) } := by
  rw [State.retireTo_off pc ht h]
  have hc : (s.doPops.setThread s.cur.core s.cur.slot (t.passedTo pc)).cur = s.cur := State.doPops_cur s
  show (s.doPops.setThread s.cur.core s.cur.slot (t.passedTo pc)).core _ = _
  rw [hc, State.setThread, State.core_modCore_self, s.doPops_only.here]
  rfl

/-- A precise trap of a thread that has a handler and runs no handler: the entry of R249. -/
theorem trapAcc_enters {s : State} {t : Thread} (cause : Cause) (val : Word) (acc : Nat) (ht : s.me? = some t)
    (hh : t.handler ≠ 0) (ha : t.act = false) :
    s.trapAcc cause val acc =
      (((s.countCore s.cur.core 7 1).traceTrap s.cur.core s.cur.slot cause val t.pc).modMe fun u =>
        u.enter cause false false 0 acc 0 val 0 u.pc).noteState s.cur.core s.cur.slot 0 := by
  have hme : s.me = t := by simp [State.me, ht]
  have h : ¬ (t.handler = 0 ∨ t.act = true) := fun h => h.elim hh (by simp [ha])
  simp only [State.trapAcc, hme, Bool.or_eq_true, decide_eq_true_eq]
  rw [if_neg h]

/-! ### The frame of a written register -/

/-- A state that differs from another in its issuing core alone, where the other threads stand as they were. -/
structure OwnCore (s u : State) : Prop where
  rest : u = { s with cores := u.cores, cur := u.cur }
  cur : u.cur.core = s.cur.core ∧ u.cur.slot = s.cur.slot
  other : ∀ c, c ≠ s.cur.core → u.core c = s.core c
  threads : ∀ sl, sl ≠ s.cur.slot → (u.core s.cur.core).threads.look sl = (s.core s.cur.core).threads.look sl

theorem OwnCore.elsewhere {s u : State} (h : OwnCore s u) (pc : Word) {t : Thread} (ht : u.me? = some t)
    (hl : LogOff u) : Elsewhere s (u.retireTo pc) := by
  have hp := u.doPops_only
  rw [h.cur.1] at hp
  rw [State.retireTo_off pc ht hl]
  have hr := h.rest
  have hc := h.cur
  have ho := h.other
  have e : u.doPops.setThread u.cur.core u.cur.slot (t.passedTo pc) =
      { u.doPops with cores := (u.doPops.setThread u.cur.core u.cur.slot (t.passedTo pc)).cores } := rfl
  constructor
  case cores =>
    intro c hcc
    rw [State.setThread, State.core_modCore_ne _ _ (by rw [hc.1]; exact hcc)]
    exact (hp.other c hcc).trans (ho c hcc)
  case threads =>
    intro sl hs
    rw [hc.1, hc.2, State.thread_setThread, if_neg (by simp [hs]), State.doPops_thread]
    exact h.threads sl hs
  case cur =>
    have : (u.doPops.setThread u.cur.core u.cur.slot (t.passedTo pc)).cur = u.cur := State.doPops_cur u
    rw [this]; exact hc
  case dram => intro a; rw [e, hp.rest, hr]
  case host => intro a; rw [e, hp.rest, hr]
  all_goals rw [e, hp.rest, hr]

/-- What a retirement does to the channels: the pops noted are made, oldest entries first. -/
theorem State.pop_chan (s : State) (c ch n : Nat) : ((s.pop c ch).core c).chan n =
    if n = ch then { (s.core c).chan ch with vals := ((s.core c).chan ch).vals.drop 1, src := ((s.core c).chan ch).src.drop 1 }
    else (s.core c).chan n := by
  have key : ∀ x : Chan, ((s.modCore c fun y => y.setChan ch x).core c).chan n = if n = ch then x else (s.core c).chan n := by
    intro x
    rw [State.core_modCore_self]; simp [Core.chan, Core.setChan, KMap.lookD_put]
  unfold State.pop
  simp only
  split
  · exact key _
  · obtain ⟨o, ho⟩ := State.depart_ord (s.modCore c fun y => y.setChan ch
      { (s.core c).chan ch with vals := ((s.core c).chan ch).vals.drop 1, src := ((s.core c).chan ch).src.drop 1 }) _ _ _
    rw [ho]
    exact key _
  · exact key _

theorem State.doPops_vals (s : State) (n : Nat) : ((s.doPops.core s.cur.core).chan n).vals =
    (((s.core s.cur.core).chan n).vals).drop (s.cur.pops.count n) := by
  have : ∀ (l : List Nat) (t : State), t.cur.core = s.cur.core →
      (((l.foldl (fun s ch => s.pop s.cur.core ch) t).core s.cur.core).chan n).vals =
        (((t.core s.cur.core).chan n).vals).drop (l.count n) := by
    intro l
    induction l with
    | nil => intro t _; simp
    | cons ch l ih =>
      intro t ht
      have h1 : (t.pop t.cur.core ch).cur = t.cur := by rw [(State.pop_only t t.cur.core ch).rest]
      have h2 := ih (t.pop t.cur.core ch) (by rw [h1]; exact ht)
      rw [List.foldl_cons, h2, ht, State.pop_chan]
      by_cases h : n = ch
      · subst h; simp
      · simp [h, Ne.symm h]
  exact this s.cur.pops s rfl

theorem State.doPops_chan_of_not_mem (s : State) (n : Nat) (h : n ∉ s.cur.pops) :
    (s.doPops.core s.cur.core).chan n = (s.core s.cur.core).chan n := by
  have : ∀ (l : List Nat) (t : State), t.cur.core = s.cur.core → n ∉ l →
      ((l.foldl (fun s ch => s.pop s.cur.core ch) t).core s.cur.core).chan n = (t.core s.cur.core).chan n := by
    intro l
    induction l with
    | nil => intro t _ _; rfl
    | cons ch l ih =>
      intro t ht hn
      have h1 : (t.pop t.cur.core ch).cur = t.cur := by rw [(State.pop_only t t.cur.core ch).rest]
      have h2 := ih (t.pop t.cur.core ch) (by rw [h1]; exact ht) (fun hm => hn (List.mem_cons_of_mem _ hm))
      rw [List.foldl_cons, h2, ht, State.pop_chan, if_neg (fun he => hn (by simp [he]))]
  exact this s.cur.pops s rfl h

/-- A push to a channel that is bound to nothing. -/
theorem State.push_unbound {s : State} {c ch : Nat} (sth : Nat) (v : Word) (h : ((s.core c).chan ch).bind = none) :
    s.push c ch sth v = s.modCore c fun x => x.setChan ch
      { (s.core c).chan ch with vals := ((s.core c).chan ch).vals ++ [(v, sth)],
                                 src := ((s.core c).chan ch).src ++ [none] } := by
  simp [State.push, h]

/-- What a written register leaves of the issuing core, by the kind of the operand code. -/
theorem State.wr_core {s : State} {d : Code} (v : Word)
    (hq : isQCode d = true → (s.myCore.chan (codeNum d)).bind = none) :
    s.wr d v = s ∧ isGCode d = false ∧ isKCode d = false ∧ isQCode d = false
    ∨ ∃ x : Core, s.wr d v = s.modCore s.cur.core (fun _ => x)
      ∧ (isGCode d = true ∧ x = s.myCore.setGreg s.me (codeNum d) v
        ∨ isKCode d = true ∧ x = s.myCore.setKreg (codeNum d) s.clk v
        ∨ isQCode d = true ∧ x = s.myCore.setChan (codeNum d)
            { s.myCore.chan (codeNum d) with vals := (s.myCore.chan (codeNum d)).vals ++ [(v, s.me.sth)],
                                              src := (s.myCore.chan (codeNum d)).src ++ [none] }) := by
  unfold State.wr
  cases hg : isGCode d with
  | true => exact .inr ⟨_, rfl, .inl ⟨rfl, rfl⟩⟩
  | false =>
    cases hk : isKCode d with
    | true => exact .inr ⟨_, rfl, .inr (.inl ⟨rfl, rfl⟩)⟩
    | false =>
      cases hc : isQCode d with
      | true => exact .inr ⟨_, State.push_unbound _ _ (hq hc), .inr (.inr ⟨rfl, rfl⟩)⟩
      | false => exact .inl ⟨rfl, rfl, rfl, rfl⟩

theorem OwnCore.began (s : State) (srcs : List Pos) : OwnCore s (began s srcs) :=
  ⟨rfl, ⟨rfl, rfl⟩, fun _ _ => rfl, fun _ _ => rfl⟩

/-- A core replaced by one with the same threads. -/
theorem OwnCore.modCore {s u : State} (h : OwnCore s u) (f : Core → Core)
    (hf : (f (u.core u.cur.core)).threads = (u.core u.cur.core).threads) : OwnCore s (u.modCore u.cur.core f) := by
  refine ⟨?_, h.cur, fun c hc => ?_, fun sl hs => ?_⟩
  · have h1 := h.rest
    show ({ u with cores := _ } : State) = _
    rw [h1]; rfl
  · rw [State.core_modCore_ne _ _ (by rw [h.cur.1]; exact hc)]; exact h.other c hc
  · rw [h.cur.1, State.core_modCore_self]
    rw [h.cur.1] at hf
    rw [hf]; exact h.threads sl hs

theorem State.me?_modCore (s : State) (f : Core → Core) (hf : (f s.myCore).threads = s.myCore.threads) :
    (s.modCore s.cur.core f).me? = s.me? := by
  show (State.thread? _ _ _) = _
  unfold State.thread?
  show ((s.modCore s.cur.core f).core s.cur.core).threads.look s.cur.slot = _
  rw [State.core_modCore_self]
  show (f s.myCore).threads.look s.cur.slot = _
  rw [hf]; rfl

/-! ### Fused code (R137, R139) -/

/-- A thread in no fused code notes no tile-out. -/
theorem State.noteTileOuts_plain (s : State) {t : Thread} (h : t.spliced = false) : s.noteTileOuts t = s := by
  simp [State.noteTileOuts, h]

/-- The end of a launch that is not fused leaves memory to what its code stored. -/
theorem State.spoilElided_alone (s : State) (pno : Nat) {l : Launch} (h : l.fused = none) : s.spoilElided pno l = s := by
  simp [State.spoilElided, h]

end Sys2Proof.Machine
end

