-- ==== Sys2Proof/Laws/Frames.lean ====
section
/-!
SUPPORT. What a completed register result leaves (its core, its thread, its frame), where a local access lands, and what
counting and tracing leave alone when they are off: the lemmas that the proofs about instructions cite.
-/

namespace Sys2Proof.Machine

open Sys2Proof

/-- Dropping what is past the horizon leaves every later read of a shared register as it was (R150). -/
theorem kRead_prune (h : KReg) (u r : Nat) (hur : u ≤ r) : kRead (kPrune h u) r = kRead h r := by
  unfold kRead
  congr 2
  induction h with
  | nil => rfl
  | cons e h ih =>
    unfold kPrune
    split
    · rename_i he; have : e.1 + 8 ≤ r := by omega
      simp [this]
    · simp only [List.find?_cons]; split
      · rfl
      · exact ih

/-- A write of a destination that is no bound channel stays in the issuing core. -/
theorem own_of_wr {s : State} {srcs : List Pos} {d : Code} (v : Word)
    (hq : isQCode d = true → (s.myCore.chan (codeNum d)).bind = none) :
    OwnCore s ((began s srcs).wr d v) ∧ ((began s srcs).wr d v).me? = s.me? ∧ ((began s srcs).wr d v).cur = (began s srcs).cur := by
  rcases State.wr_core (s := began s srcs) v hq with ⟨h, _⟩ | ⟨x, h, hx⟩
  · rw [h]; exact ⟨OwnCore.began _ _, rfl, rfl⟩
  · have ht : x.threads = (began s srcs).myCore.threads := by
      rcases hx with ⟨_, rfl⟩ | ⟨_, rfl⟩ | ⟨_, rfl⟩ <;> rfl
    rw [h]
    exact ⟨(OwnCore.began s srcs).modCore _ ht, State.me?_modCore _ _ ht, rfl⟩

/-- The issuing core and thread after a register result: the destination written, the channels popped, PC past it. -/
theorem wrote_core {s : State} {srcs : List Pos} {d : Code} (v : Word) {t : Thread} (ht : s.me? = some t) (hl : LogOff s)
    (hq : isQCode d = true → (s.myCore.chan (codeNum d)).bind = none) :
    (wrote s srcs d v).myCore = { ((began s srcs).wr d v).myCore with
      chans := ((((began s srcs).wr d v).doPops).core s.cur.core).chans, threads := s.myCore.threads.put s.cur.slot (t.passedTo (t.pc + 8)) }
    ∧ (wrote s srcs d v).me = t.passedTo (t.pc + 8) := by
  obtain ⟨ho, hm, hc⟩ := own_of_wr (srcs := srcs) v hq
  have hm' : ((began s srcs).wr d v).me? = some t := hm.trans ht
  have hme : ((began s srcs).wr d v).me = t := by simp [State.me, hm']
  have hlw : LogOff ((began s srcs).wr d v) ∧ ((began s srcs).wr d v).myCore.threads = s.myCore.threads := by
    rcases State.wr_core (s := began s srcs) v hq with ⟨h, _⟩ | ⟨x, h, hx⟩
    · rw [h]; exact ⟨hl, rfl⟩
    · have : x.slcfg = (began s srcs).myCore.slcfg ∧ x.threads = s.myCore.threads := by
        rcases hx with ⟨_, rfl⟩ | ⟨_, rfl⟩ | ⟨_, rfl⟩ <;> exact ⟨rfl, rfl⟩
      have e : ((began s srcs).wr d v).myCore = x := by
        rw [h]; exact State.core_modCore_self _ _ _
      unfold LogOff; rw [e, this.1]; exact ⟨hl, this.2⟩
  have hcc : ((began s srcs).wr d v).cur.core = s.cur.core := by rw [hc]; rfl
  have hcs : ((began s srcs).wr d v).cur.slot = s.cur.slot := by rw [hc]; rfl
  refine ⟨?_, ?_⟩
  · unfold wrote State.retire
    rw [State.retireTo_myCore _ hm' hlw.1, hlw.2, hme, hcs, hcc]
  · unfold wrote State.retire
    rw [State.retireTo_me _ hm' hlw.1, hme]

/-- A code is in one of the register files. -/
theorem code_kinds (d : Code) : (isGCode d = true → isKCode d = false ∧ isQCode d = false) ∧ (isKCode d = true → isQCode d = false) := by
  simp only [isGCode, isKCode, isQCode, Bool.and_eq_true, decide_eq_true_eq, Bool.and_eq_false_iff, decide_eq_false_iff_not]
  omega

/-- A register result changes nothing but its destination, the channels it pops and PC. -/
theorem frame_wrote {s : State} {srcs : List Pos} {d : Code} (v : Word) (hs : s.me?.isSome = true) (hl : LogOff s)
    (hb : isQCode d = true → (s.myCore.chan (codeNum d)).bind = none) : RegisterFrame s (wrote s srcs d v) d srcs := by
  obtain ⟨t, ht⟩ := Option.isSome_iff_exists.mp hs
  have hme : s.me = t := by simp [State.me, ht]
  obtain ⟨h1, h2⟩ := wrote_core (srcs := srcs) (d := d) v ht hl hb
  obtain ⟨ho, hm, hc⟩ := own_of_wr (srcs := srcs) v hb
  have hcc : ((began s srcs).wr d v).cur.core = s.cur.core := by rw [hc]; rfl
  have hlw : LogOff ((began s srcs).wr d v) := by
    rcases State.wr_core (s := began s srcs) v hb with ⟨h, _⟩ | ⟨x, h, hx⟩
    · rw [h]; exact hl
    · have : x.slcfg = (began s srcs).myCore.slcfg := by
        rcases hx with ⟨_, rfl⟩ | ⟨_, rfl⟩ | ⟨_, rfl⟩ <;> rfl
      have e : ((began s srcs).wr d v).myCore = x := by
        rw [h]; exact State.core_modCore_self _ _ _
      unfold LogOff; rw [e, this]; exact hl
  have hx : (d = d ∧ ((began s srcs).wr d v).myCore = s.myCore) ∨
     (isGCode d = true ∧ ((began s srcs).wr d v).myCore = s.myCore.setGreg s.me (codeNum d) v
        ∨ isKCode d = true ∧ ((began s srcs).wr d v).myCore = s.myCore.setKreg (codeNum d) s.clk v
        ∨ isQCode d = true ∧ ((began s srcs).wr d v).myCore = s.myCore.setChan (codeNum d)
            { s.myCore.chan (codeNum d) with vals := (s.myCore.chan (codeNum d)).vals ++ [(v, s.me.sth)],
                                              src := (s.myCore.chan (codeNum d)).src ++ [none] }) := by
    rcases State.wr_core (s := began s srcs) v hb with ⟨h, h5, h6, h7⟩ | ⟨x, h, hx⟩
    · left; rw [h]; exact ⟨rfl, rfl⟩
    · right
      have e : ((began s srcs).wr d v).myCore = x := by rw [h]; exact State.core_modCore_self _ _ _
      rw [e]; exact hx
  constructor
  · exact ho.elsewhere _ (hm.trans ht) hlw
  · constructor
    case lmem => intro a; rw [h1]; rcases hx with ⟨_, hx⟩ | ⟨_, hx⟩ | ⟨_, hx⟩ | ⟨_, hx⟩ <;> rw [hx] <;> rfl
    all_goals (rw [h1]; rcases hx with ⟨_, hx⟩ | ⟨_, hx⟩ | ⟨_, hx⟩ | ⟨_, hx⟩ <;> rw [hx] <;> rfl)
  · intro n hn
    rw [h1]
    show KMap.lookD (((began s srcs).wr d v).myCore).regs _ _ = _
    rcases hx with ⟨_, hx⟩ | ⟨h5, hx⟩ | ⟨_, hx⟩ | ⟨_, hx⟩ <;> rw [hx]
    · simp only [Core.setGreg, KMap.lookD_putD]
      rw [if_neg (fun h => hn ⟨h5, h⟩)]
    · rfl
    · rfl
  · intro n hn
    rw [h1]
    show KMap.lookD (((began s srcs).wr d v).myCore).kregs _ _ = _
    rcases hx with ⟨_, hx⟩ | ⟨h5, hx⟩ | ⟨h5, hx⟩ | ⟨_, hx⟩ <;> rw [hx]
    · rfl
    · simp only [Core.setKreg, KMap.lookD_put]
      rw [if_neg (fun h => hn ⟨h5, h⟩)]
    · rfl
  · intro n hn hp
    rw [h1]
    show ((((began s srcs).wr d v).doPops).core s.cur.core).chan n = _
    have h3 := State.doPops_chan_of_not_mem ((began s srcs).wr d v) n (by rw [hc]; exact hp)
    rw [hcc] at h3
    have e : ((began s srcs).wr d v).core s.cur.core = ((began s srcs).wr d v).myCore := by unfold State.myCore; rw [hcc]
    rw [h3, e]
    rcases hx with ⟨_, hx⟩ | ⟨h5, hx⟩ | ⟨h5, hx⟩ | ⟨h5, hx⟩ <;> rw [hx]
    · rfl
    · rfl
    · simp only [Core.chan, Core.setChan, KMap.lookD_put]
      rw [if_neg (fun h => hn ⟨h5, h⟩)]
  · rw [h2, hme]; constructor <;> first | rfl | exact ⟨rfl, rfl⟩ | exact ⟨rfl, rfl, rfl, rfl⟩
  · rw [h2, hme]; rfl
  · rw [h2, hme]; rfl
  · rw [h2, hme]; rfl

/-- An access at the own port is located there. -/
theorem State.locate_own {s : State} {loc : Bool} {ea : Word} {n o : Nat} (h : s.ownPort loc ea n = some o) (acc : Acc)
    (bad : Cause → Word → State → State) (k : Place → State → State) : s.locate loc ea n acc bad k = k (.here o) s := by
  unfold State.ownPort at h
  split at h
  · cases h
  rename_i h0
  simp only [Bool.or_eq_true, bne_iff_ne, ne_eq, not_or, Bool.not_eq_true, Decidable.not_not] at h0
  unfold State.locate
  cases loc
  · simp only [Bool.false_eq_true, if_false] at h ⊢
    split at h
    · rename_i h1
      simp only [Bool.and_eq_true, decide_eq_true_eq, Bool.not_eq_true', beq_iff_eq] at h1
      obtain ⟨⟨⟨⟨⟨h1, h2⟩, h3⟩, h4⟩, h5⟩, h6⟩ := h1
      have : ¬ (2 ^ 57 ≤ ea.toNat) := by omega
      cases h
      simp only [this, h0, h2, h3, h4, h6, decide_false, Bool.false_or, ne_eq, not_true_eq_false, Bool.false_eq_true, if_false, if_true]
      simp [← h6]
      exact fun hh => absurd h5 hh
    · cases h
  · simp only [if_true] at h ⊢
    split at h
    · rename_i h1
      have : ¬ (2 ^ 19 ≤ ea.toNat) := by omega
      cases h
      simp only [this, h0, decide_false, Bool.false_or, ne_eq, not_true_eq_false, Bool.false_eq_true, if_false]
    · cases h

theorem State.ownPort_began (s : State) (srcs : List Pos) (loc : Bool) (ea : Word) (n : Nat) : (began s srcs).ownPort loc ea n = s.ownPort loc ea n := rfl

/-- A read of bytes that are not poisoned answers them. -/
theorem State.portRead_clean {s : State} {c o n : Nat} (h : (s.core c).lpoisoned o n = false) (bad k) : s.portRead c o n bad k = k ((s.core c).lmem.read o n) s := by
  simp [State.portRead, h]

/-- Counting is off. -/
theorem countCore_off (s : State) (h : s.myCore.cevs = []) (ev n : Nat) : s.countCore s.cur.core ev n = s := by
  have : (s.core s.cur.core).cevs = [] := h
  unfold State.countCore; simp [this]

/-- Tracing of traps is off. -/
theorem traceTrap_off (s : State) (h : bit s.myCore.trcfg 1 = false) (cause : Cause) (v pc : Word) : s.traceTrap s.cur.core s.cur.slot cause v pc = s := by
  have : bit (s.core s.cur.core).trcfg 1 = false := h
  unfold State.traceTrap; simp [this]

end Sys2Proof.Machine
end

