-- ==== Sys2Proof/Laws/PerInstr.lean ====
section
/-!
SUPPORT. Per instruction: its encoding is as long as R299 and R300 say, as many words as PC moves on by
where the instruction falls through, and none for a whole-device event; and every word of it fits in 64 bits.
-/

namespace Sys2Proof.Laws

open Sys2Proof

theorem Size_code_lt (x : Size) : x.code < 4 := by cases x <;> decide
theorem Scope_code_lt (x : Scope) : x.code < 8 := by cases x <;> decide
theorem AtOp_code_lt (x : AtOp) : x.code < 16 := by cases x <;> decide
theorem FAtOp_code_lt (x : FAtOp) : x.code < 16 := by cases x <;> decide
theorem Ord4_code_lt (x : Ord4) : x.code < 4 := by cases x <;> decide
theorem WCmp_code_lt (x : WCmp) : x.code < 8 := by cases x <;> decide
theorem FenceKind_code_lt (x : FenceKind) : x.code < 4 := by cases x <;> decide
theorem PathKind_code_lt (x : PathKind) : x.code < 4 := by cases x <;> decide
theorem CC_code_lt (x : CC) : x.code < 16 := by cases x <;> decide
theorem PlogOp_code_lt (x : PlogOp) : x.code < 16 := by cases x <;> decide
theorem FSize_code_lt (x : FSize) : x.code < 2 := by cases x <;> decide
theorem RM_code_lt (x : RM) : x.code < 8 := by cases x <;> decide
theorem FCmp_code_lt (x : FCmp) : x.code < 16 := by cases x <;> decide
theorem FCvt_code_lt (x : FCvt) : x.code < 16 := by cases x <;> decide
theorem FSgn_code_lt (x : FSgn) : x.code < 16 := by cases x <;> decide
theorem CinvKind_code_lt (x : CinvKind) : x.code < 4 := by cases x <;> decide
theorem SmplKind_code_lt (x : SmplKind) : x.code < 4 := by cases x <;> decide
theorem b2n_lt (b : Bool) : b2n b < 2 := by cases b <;> decide
theorem op_code_lt (o : Op) : o.code < 1024 := by cases o <;> decide

theorem packWord_lt (len : Nat) (o : Op) (p : Pred) (d a : Code) (low : Nat) (hl : len < 2) (h : low < 2 ^ 33) :
    packWord len o p d a low < 2 ^ 64 := by
  have h1 := op_code_lt o
  have h2 := b2n_lt p.pn
  have h3 := p.px.isLt
  have h4 := d.isLt
  have h5 := a.isLt
  unfold packWord
  omega

/-- The words of an encoding: they take up `n` bytes, and each is a word. -/
def Fits (n : Nat) (ws : List Nat) : Prop := 8 * ws.length = n ∧ ∀ w ∈ ws, w < 2 ^ 64

theorem encA_fits (o : Op) (p : Pred) (d a b c : Code) (m : Nat) (h : m < 2 ^ 17) : Fits 8 (encA o p d a b c m) := by
  have h1 := b.isLt
  have h2 := c.isLt
  have := packWord_lt 0 o p d a (2 ^ 25 * b.toNat + 2 ^ 17 * c.toNat + m) (by decide) (by omega)
  simpa [Fits, encA] using this

theorem encB_fits (o : Op) (p : Pred) (d a : Code) (imm : Nat) (h : imm < 2 ^ 33) : Fits 8 (encB o p d a imm) := by
  simpa [Fits, encB] using packWord_lt 0 o p d a imm (by decide) h

theorem encC_fits (o : Op) (p : Pred) (d a b : Code) (m : Nat) (off : BitVec 17) (h : m < 2 ^ 8) :
    Fits 8 (encC o p d a b m off) := by
  have h1 := b.isLt
  have h2 := off.isLt
  have := packWord_lt 0 o p d a (2 ^ 25 * b.toNat + 2 ^ 17 * m + off.toNat) (by decide) (by omega)
  simpa [Fits, encC] using this

theorem encD_fits (o : Op) (p : Pred) (d : Code) (imm : BitVec 41) : Fits 8 (encD o p d imm) := by
  have h1 := op_code_lt o
  have h2 := b2n_lt p.pn
  have h3 := p.px.isLt
  have h4 := d.isLt
  have h5 := imm.isLt
  have : packWord 0 o p d 0 imm.toNat < 2 ^ 64 := by
    unfold packWord
    have h6 : (0 : Code).toNat = 0 := rfl
    omega
  simpa [Fits, encD] using this

theorem encV_fits (o : Op) (p : Pred) (d a b c : Code) (v : VMod) : Fits 16 (encV o p d a b c v) := by
  have hm : modV v < 2 ^ 17 := by
    have h1 := v.vx.isLt
    have h2 := RM_code_lt v.rm
    have h3 := v.tail.isLt
    have h4 := b2n_lt v.dc
    have h5 := b2n_lt v.db
    have h6 := b2n_lt v.da
    have h7 := b2n_lt v.dd
    unfold modV
    omega
  have he : extV v < 2 ^ 64 := by
    have h1 := v.cnt.isLt
    have h2 := v.std.isLt
    have h3 := v.sta.isLt
    have h4 := v.stb.isLt
    have h5 := v.stc.isLt
    unfold extV
    omega
  have h1 := b.isLt
  have h2 := c.isLt
  have := packWord_lt 1 o p d a (2 ^ 25 * b.toNat + 2 ^ 17 * c.toNat + modV v) (by decide) (by omega)
  simpa [Fits, encV] using ⟨this, he⟩

theorem modM_lt (sz : Size) (sx loc : Bool) (sc : Scope) (cn : Bool) : modM sz sx loc sc cn < 2 ^ 8 := by
  have h1 := b2n_lt cn
  have h2 := Scope_code_lt sc
  have h3 := b2n_lt loc
  have h4 := b2n_lt sx
  have h5 := Size_code_lt sz
  unfold modM
  omega

theorem modAT_lt (op : Nat) (m : AtMod) (h : op < 16) : modAT op m < 2 ^ 17 := by
  have h2 := Scope_code_lt m.scope
  have h3 := Ord4_code_lt m.ord
  have h5 := Size_code_lt m.sz
  unfold modAT
  omega

theorem modFP_lt (pd fx : Nat) (sz : FSize) (rm : RM) (h1 : pd < 8) (h2 : fx < 16) : modFP pd fx sz rm < 2 ^ 17 := by
  have h3 := FSize_code_lt sz
  have h4 := RM_code_lt rm
  unfold modFP
  omega

/-- The bytes that PC moves on by where the instruction falls through; a whole-device event has none (R299, R300). -/
def size (i : Instr) : Nat :=
  match Machine.Instr.shell i with
  | some sh => sh.len
  | none => 0

/-- The words of the instruction's encoding. -/
def Encoded.Statement (i : Instr) : Prop := Fits (size i) (encode i)

theorem Encoded.add (p : Pred) (d : Code) (a : Code) (b : Code) : Encoded.Statement (.add p d a b) :=
  show Fits 8 (encA Op.add p d a b 0 0) from
    encA_fits _ _ _ _ _ _ _ (by decide)
theorem Encoded.sub (p : Pred) (d : Code) (a : Code) (b : Code) : Encoded.Statement (.sub p d a b) :=
  show Fits 8 (encA Op.sub p d a b 0 0) from
    encA_fits _ _ _ _ _ _ _ (by decide)
theorem Encoded.mul (p : Pred) (d : Code) (a : Code) (b : Code) : Encoded.Statement (.mul p d a b) :=
  show Fits 8 (encA Op.mul p d a b 0 0) from
    encA_fits _ _ _ _ _ _ _ (by decide)
theorem Encoded.mulh (p : Pred) (d : Code) (a : Code) (b : Code) : Encoded.Statement (.mulh p d a b) :=
  show Fits 8 (encA Op.mulh p d a b 0 0) from
    encA_fits _ _ _ _ _ _ _ (by decide)
theorem Encoded.mulhz (p : Pred) (d : Code) (a : Code) (b : Code) : Encoded.Statement (.mulhz p d a b) :=
  show Fits 8 (encA Op.mulhz p d a b 0 0) from
    encA_fits _ _ _ _ _ _ _ (by decide)
theorem Encoded.div (p : Pred) (d : Code) (a : Code) (b : Code) : Encoded.Statement (.div p d a b) :=
  show Fits 8 (encA Op.div p d a b 0 0) from
    encA_fits _ _ _ _ _ _ _ (by decide)
theorem Encoded.divz (p : Pred) (d : Code) (a : Code) (b : Code) : Encoded.Statement (.divz p d a b) :=
  show Fits 8 (encA Op.divz p d a b 0 0) from
    encA_fits _ _ _ _ _ _ _ (by decide)
theorem Encoded.rem (p : Pred) (d : Code) (a : Code) (b : Code) : Encoded.Statement (.rem p d a b) :=
  show Fits 8 (encA Op.rem p d a b 0 0) from
    encA_fits _ _ _ _ _ _ _ (by decide)
theorem Encoded.remz (p : Pred) (d : Code) (a : Code) (b : Code) : Encoded.Statement (.remz p d a b) :=
  show Fits 8 (encA Op.remz p d a b 0 0) from
    encA_fits _ _ _ _ _ _ _ (by decide)
theorem Encoded.and (p : Pred) (d : Code) (a : Code) (b : Code) : Encoded.Statement (.and p d a b) :=
  show Fits 8 (encA Op.and p d a b 0 0) from
    encA_fits _ _ _ _ _ _ _ (by decide)
theorem Encoded.or (p : Pred) (d : Code) (a : Code) (b : Code) : Encoded.Statement (.or p d a b) :=
  show Fits 8 (encA Op.or p d a b 0 0) from
    encA_fits _ _ _ _ _ _ _ (by decide)
theorem Encoded.xor (p : Pred) (d : Code) (a : Code) (b : Code) : Encoded.Statement (.xor p d a b) :=
  show Fits 8 (encA Op.xor p d a b 0 0) from
    encA_fits _ _ _ _ _ _ _ (by decide)
theorem Encoded.andn (p : Pred) (d : Code) (a : Code) (b : Code) : Encoded.Statement (.andn p d a b) :=
  show Fits 8 (encA Op.andn p d a b 0 0) from
    encA_fits _ _ _ _ _ _ _ (by decide)
theorem Encoded.shl (p : Pred) (d : Code) (a : Code) (b : Code) : Encoded.Statement (.shl p d a b) :=
  show Fits 8 (encA Op.shl p d a b 0 0) from
    encA_fits _ _ _ _ _ _ _ (by decide)
theorem Encoded.shr (p : Pred) (d : Code) (a : Code) (b : Code) : Encoded.Statement (.shr p d a b) :=
  show Fits 8 (encA Op.shr p d a b 0 0) from
    encA_fits _ _ _ _ _ _ _ (by decide)
theorem Encoded.sha (p : Pred) (d : Code) (a : Code) (b : Code) : Encoded.Statement (.sha p d a b) :=
  show Fits 8 (encA Op.sha p d a b 0 0) from
    encA_fits _ _ _ _ _ _ _ (by decide)
theorem Encoded.rol (p : Pred) (d : Code) (a : Code) (b : Code) : Encoded.Statement (.rol p d a b) :=
  show Fits 8 (encA Op.rol p d a b 0 0) from
    encA_fits _ _ _ _ _ _ _ (by decide)
theorem Encoded.min (p : Pred) (d : Code) (a : Code) (b : Code) : Encoded.Statement (.min p d a b) :=
  show Fits 8 (encA Op.min p d a b 0 0) from
    encA_fits _ _ _ _ _ _ _ (by decide)
theorem Encoded.max (p : Pred) (d : Code) (a : Code) (b : Code) : Encoded.Statement (.max p d a b) :=
  show Fits 8 (encA Op.max p d a b 0 0) from
    encA_fits _ _ _ _ _ _ _ (by decide)
theorem Encoded.minz (p : Pred) (d : Code) (a : Code) (b : Code) : Encoded.Statement (.minz p d a b) :=
  show Fits 8 (encA Op.minz p d a b 0 0) from
    encA_fits _ _ _ _ _ _ _ (by decide)
theorem Encoded.maxz (p : Pred) (d : Code) (a : Code) (b : Code) : Encoded.Statement (.maxz p d a b) :=
  show Fits 8 (encA Op.maxz p d a b 0 0) from
    encA_fits _ _ _ _ _ _ _ (by decide)
theorem Encoded.clz (p : Pred) (d : Code) (a : Code) : Encoded.Statement (.clz p d a) :=
  show Fits 8 (encA Op.clz p d a 0 0 0) from
    encA_fits _ _ _ _ _ _ _ (by decide)
theorem Encoded.popc (p : Pred) (d : Code) (a : Code) : Encoded.Statement (.popc p d a) :=
  show Fits 8 (encA Op.popc p d a 0 0 0) from
    encA_fits _ _ _ _ _ _ _ (by decide)
theorem Encoded.brev (p : Pred) (d : Code) (a : Code) : Encoded.Statement (.brev p d a) :=
  show Fits 8 (encA Op.brev p d a 0 0 0) from
    encA_fits _ _ _ _ _ _ _ (by decide)
theorem Encoded.madd (p : Pred) (d : Code) (a : Code) (b : Code) (c : Code) : Encoded.Statement (.madd p d a b c) :=
  show Fits 8 (encA Op.madd p d a b c 0) from
    encA_fits _ _ _ _ _ _ _ (by decide)
theorem Encoded.bfx (p : Pred) (d : Code) (a : Code) (sx : Bool) (pos : Fin 64) (len : Fin 65) : Encoded.Statement (.bfx p d a sx pos len) :=
  show Fits 8 (encA Op.bfx p d a 0 0 (2 ^ 13 * b2n sx + 2 ^ 6 * len.val + pos.val)) from
    encA_fits _ _ _ _ _ _ _ (by
      have h0 := b2n_lt sx
      have h1 := pos.isLt
      have h2 := len.isLt
      omega)
theorem Encoded.bfi (p : Pred) (d : Code) (a : Code) (b : Code) (pos : Fin 64) (len : Fin 65) : Encoded.Statement (.bfi p d a b pos len) :=
  show Fits 8 (encA Op.bfi p d a b 0 (2 ^ 6 * len.val + pos.val)) from
    encA_fits _ _ _ _ _ _ _ (by
      have h0 := pos.isLt
      have h1 := len.isLt
      omega)
theorem Encoded.addw (p : Pred) (d : Code) (a : Code) (b : Code) : Encoded.Statement (.addw p d a b) :=
  show Fits 8 (encA Op.addw p d a b 0 0) from
    encA_fits _ _ _ _ _ _ _ (by decide)
theorem Encoded.subw (p : Pred) (d : Code) (a : Code) (b : Code) : Encoded.Statement (.subw p d a b) :=
  show Fits 8 (encA Op.subw p d a b 0 0) from
    encA_fits _ _ _ _ _ _ _ (by decide)
theorem Encoded.mulw (p : Pred) (d : Code) (a : Code) (b : Code) : Encoded.Statement (.mulw p d a b) :=
  show Fits 8 (encA Op.mulw p d a b 0 0) from
    encA_fits _ _ _ _ _ _ _ (by decide)
theorem Encoded.addi (p : Pred) (d : Code) (a : Code) (imm : BitVec 33) : Encoded.Statement (.addi p d a imm) :=
  show Fits 8 (encB Op.addi p d a imm.toNat) from
    encB_fits _ _ _ _ _ (by
      have h0 := imm.isLt
      omega)
theorem Encoded.andi (p : Pred) (d : Code) (a : Code) (imm : BitVec 33) : Encoded.Statement (.andi p d a imm) :=
  show Fits 8 (encB Op.andi p d a imm.toNat) from
    encB_fits _ _ _ _ _ (by
      have h0 := imm.isLt
      omega)
theorem Encoded.ori (p : Pred) (d : Code) (a : Code) (imm : BitVec 33) : Encoded.Statement (.ori p d a imm) :=
  show Fits 8 (encB Op.ori p d a imm.toNat) from
    encB_fits _ _ _ _ _ (by
      have h0 := imm.isLt
      omega)
theorem Encoded.xori (p : Pred) (d : Code) (a : Code) (imm : BitVec 33) : Encoded.Statement (.xori p d a imm) :=
  show Fits 8 (encB Op.xori p d a imm.toNat) from
    encB_fits _ _ _ _ _ (by
      have h0 := imm.isLt
      omega)
theorem Encoded.shli (p : Pred) (d : Code) (a : Code) (sh : Fin 64) : Encoded.Statement (.shli p d a sh) :=
  show Fits 8 (encB Op.shli p d a sh.val) from
    encB_fits _ _ _ _ _ (by
      have h0 := sh.isLt
      omega)
theorem Encoded.shri (p : Pred) (d : Code) (a : Code) (sh : Fin 64) : Encoded.Statement (.shri p d a sh) :=
  show Fits 8 (encB Op.shri p d a sh.val) from
    encB_fits _ _ _ _ _ (by
      have h0 := sh.isLt
      omega)
theorem Encoded.shai (p : Pred) (d : Code) (a : Code) (sh : Fin 64) : Encoded.Statement (.shai p d a sh) :=
  show Fits 8 (encB Op.shai p d a sh.val) from
    encB_fits _ _ _ _ _ (by
      have h0 := sh.isLt
      omega)
theorem Encoded.muli (p : Pred) (d : Code) (a : Code) (imm : BitVec 33) : Encoded.Statement (.muli p d a imm) :=
  show Fits 8 (encB Op.muli p d a imm.toNat) from
    encB_fits _ _ _ _ _ (by
      have h0 := imm.isLt
      omega)
theorem Encoded.ldi (p : Pred) (d : Code) (imm : BitVec 33) : Encoded.Statement (.ldi p d imm) :=
  show Fits 8 (encB Op.ldi p d 0 imm.toNat) from
    encB_fits _ _ _ _ _ (by
      have h0 := imm.isLt
      omega)
theorem Encoded.ldih (p : Pred) (d : Code) (a : Code) (imm : BitVec 31) : Encoded.Statement (.ldih p d a imm) :=
  show Fits 8 (encB Op.ldih p d a imm.toNat) from
    encB_fits _ _ _ _ _ (by
      have h0 := imm.isLt
      omega)
theorem Encoded.lea (p : Pred) (d : Code) (b : Code) (off : BitVec 17) : Encoded.Statement (.lea p d b off) :=
  show Fits 8 (encC Op.lea p d 0 b 0 off) from
    encC_fits _ _ _ _ _ _ _ (by decide)
theorem Encoded.mov (p : Pred) (d : Code) (a : Code) : Encoded.Statement (.mov p d a) :=
  show Fits 8 (encA Op.mov p d a 0 0 0) from
    encA_fits _ _ _ _ _ _ _ (by decide)
theorem Encoded.getid (p : Pred) (d : Code) (sel : Fin 15) : Encoded.Statement (.getid p d sel) :=
  show Fits 8 (encA Op.getid p d 0 0 0 sel.val) from
    encA_fits _ _ _ _ _ _ _ (by
      have h0 := sel.isLt
      omega)
theorem Encoded.cmp (p : Pred) (pd : Fin 8) (a : Code) (b : Code) (cc : CC) : Encoded.Statement (.cmp p pd a b cc) :=
  show Fits 8 (encA Op.cmp p 0 a b 0 (2 ^ 4 * pd.val + cc.code)) from
    encA_fits _ _ _ _ _ _ _ (by
      have h0 := pd.isLt
      have h1 := CC_code_lt cc
      omega)
theorem Encoded.cmpi (p : Pred) (pd : Fin 8) (a : Code) (cc : CC) (imm : BitVec 33) : Encoded.Statement (.cmpi p pd a cc imm) :=
  show Fits 8 (encB Op.cmpi p (BitVec.ofNat 8 (2 ^ 3 * cc.code + pd.val)) a imm.toNat) from
    encB_fits _ _ _ _ _ (by
      have h0 := pd.isLt
      have h1 := CC_code_lt cc
      have h2 := imm.isLt
      omega)
theorem Encoded.plog (p : Pred) (pd : Fin 8) (pa : Fin 8) (pb : Fin 8) (op : PlogOp) : Encoded.Statement (.plog p pd pa pb op) :=
  show Fits 8 (encA Op.plog p 0 0 0 0 (2 ^ 10 * pb.val + 2 ^ 7 * pa.val + 2 ^ 4 * pd.val + op.code)) from
    encA_fits _ _ _ _ _ _ _ (by
      have h0 := pd.isLt
      have h1 := pa.isLt
      have h2 := pb.isLt
      have h3 := PlogOp_code_lt op
      omega)
theorem Encoded.sel (p : Pred) (d : Code) (ps : Fin 8) (ns : Bool) (a : Code) (b : Code) : Encoded.Statement (.sel p d ps ns a b) :=
  show Fits 8 (encA Op.sel p d a b 0 (2 ^ 3 * b2n ns + ps.val)) from
    encA_fits _ _ _ _ _ _ _ (by
      have h0 := ps.isLt
      have h1 := b2n_lt ns
      omega)
theorem Encoded.pget (p : Pred) (d : Code) : Encoded.Statement (.pget p d) :=
  show Fits 8 (encA Op.pget p d 0 0 0 0) from
    encA_fits _ _ _ _ _ _ _ (by decide)
theorem Encoded.pset (p : Pred) (a : Code) : Encoded.Statement (.pset p a) :=
  show Fits 8 (encA Op.pset p 0 a 0 0 0) from
    encA_fits _ _ _ _ _ _ _ (by decide)
theorem Encoded.br (p : Pred) (imm : BitVec 41) : Encoded.Statement (.br p imm) :=
  show Fits 8 (encD Op.br p 0 imm) from
    encD_fits ..
theorem Encoded.jmp (p : Pred) (a : Code) : Encoded.Statement (.jmp p a) :=
  show Fits 8 (encA Op.jmp p 0 a 0 0 0) from
    encA_fits _ _ _ _ _ _ _ (by decide)
theorem Encoded.call (p : Pred) (d : Code) (imm : BitVec 41) : Encoded.Statement (.call p d imm) :=
  show Fits 8 (encD Op.call p d imm) from
    encD_fits ..
theorem Encoded.callr (p : Pred) (d : Code) (a : Code) : Encoded.Statement (.callr p d a) :=
  show Fits 8 (encA Op.callr p d a 0 0 0) from
    encA_fits _ _ _ _ _ _ _ (by decide)
theorem Encoded.ret (p : Pred) (a : Code) : Encoded.Statement (.ret p a) :=
  show Fits 8 (encA Op.ret p 0 a 0 0 0) from
    encA_fits _ _ _ _ _ _ _ (by decide)
theorem Encoded.loop (p : Pred) (d : Code) (imm : BitVec 41) : Encoded.Statement (.loop p d imm) :=
  show Fits 8 (encD Op.loop p d imm) from
    encD_fits ..
theorem Encoded.nop (p : Pred) : Encoded.Statement (.nop p) :=
  show Fits 8 (encA Op.nop p 0 0 0 0 0) from
    encA_fits _ _ _ _ _ _ _ (by decide)
theorem Encoded.exit (p : Pred) : Encoded.Statement (.exit p) :=
  show Fits 8 (encA Op.exit p 0 0 0 0 0) from
    encA_fits _ _ _ _ _ _ _ (by decide)
theorem Encoded.ld (p : Pred) (d : Code) (b : Code) (off : BitVec 17) (sz : Size) (sx : Bool) (loc : Bool) : Encoded.Statement (.ld p d b off sz sx loc) :=
  show Fits 8 (encC Op.ld p d 0 b (modM sz sx loc .slot false) off) from
    encC_fits _ _ _ _ _ _ _ (modM_lt ..)
theorem Encoded.st (p : Pred) (b : Code) (a : Code) (off : BitVec 17) (sz : Size) (loc : Bool) : Encoded.Statement (.st p b a off sz loc) :=
  show Fits 8 (encC Op.st p 0 a b (modM sz false loc .slot false) off) from
    encC_fits _ _ _ _ _ _ _ (modM_lt ..)
theorem Encoded.ldx (p : Pred) (d : Code) (b : Code) (c : Code) (sz : Size) (sx : Bool) (loc : Bool) : Encoded.Statement (.ldx p d b c sz sx loc) :=
  show Fits 8 (encA Op.ldx p d 0 b c (modM sz sx loc .slot false)) from
    encA_fits _ _ _ _ _ _ _ (lt_trans (modM_lt ..) (by decide))
theorem Encoded.stx (p : Pred) (a : Code) (b : Code) (c : Code) (sz : Size) (loc : Bool) : Encoded.Statement (.stx p a b c sz loc) :=
  show Fits 8 (encA Op.stx p 0 a b c (modM sz false loc .slot false)) from
    encA_fits _ _ _ _ _ _ _ (lt_trans (modM_lt ..) (by decide))
theorem Encoded.lda (p : Pred) (d : Code) (b : Code) (off : BitVec 17) (sz : Size) (sx : Bool) (loc : Bool) (sc : Scope) : Encoded.Statement (.lda p d b off sz sx loc sc) :=
  show Fits 8 (encC Op.lda p d 0 b (modM sz sx loc sc false) off) from
    encC_fits _ _ _ _ _ _ _ (modM_lt ..)
theorem Encoded.stl (p : Pred) (b : Code) (a : Code) (off : BitVec 17) (sz : Size) (loc : Bool) (sc : Scope) : Encoded.Statement (.stl p b a off sz loc sc) :=
  show Fits 8 (encC Op.stl p 0 a b (modM sz false loc sc false) off) from
    encC_fits _ _ _ _ _ _ _ (modM_lt ..)
theorem Encoded.ldf (p : Pred) (d : Code) (b : Code) (off : BitVec 17) (sz : Size) (sx : Bool) (loc : Bool) (cn : Bool) : Encoded.Statement (.ldf p d b off sz sx loc cn) :=
  show Fits 8 (encC Op.ldf p d 0 b (modM sz sx loc .slot cn) off) from
    encC_fits _ _ _ _ _ _ _ (modM_lt ..)
theorem Encoded.stf (p : Pred) (b : Code) (a : Code) (off : BitVec 17) (sz : Size) (loc : Bool) : Encoded.Statement (.stf p b a off sz loc) :=
  show Fits 8 (encC Op.stf p 0 a b (modM sz false loc .slot false) off) from
    encC_fits _ _ _ _ _ _ _ (modM_lt ..)
theorem Encoded.clre (p : Pred) (b : Code) (a : Code) (off : BitVec 17) (loc : Bool) : Encoded.Statement (.clre p b a off loc) :=
  show Fits 8 (encC Op.clre p 0 a b (modM .b false loc .slot false) off) from
    encC_fits _ _ _ _ _ _ _ (modM_lt ..)
theorem Encoded.pref (p : Pred) (b : Code) (off : BitVec 17) : Encoded.Statement (.pref p b off) :=
  show Fits 8 (encC Op.pref p 0 0 b 0 off) from
    encC_fits _ _ _ _ _ _ _ (by decide)
theorem Encoded.amo (p : Pred) (d : Code) (b : Code) (a : Code) (op : AtOp) (m : AtMod) : Encoded.Statement (.amo p d b a op m) :=
  show Fits 8 (encA Op.amo p d a b 0 (modAT op.code m)) from
    encA_fits _ _ _ _ _ _ _ (modAT_lt _ _ (AtOp_code_lt op))
theorem Encoded.cas (p : Pred) (d : Code) (b : Code) (a : Code) (c : Code) (m : AtMod) : Encoded.Statement (.cas p d b a c m) :=
  show Fits 8 (encA Op.cas p d a b c (modAT 0 m)) from
    encA_fits _ _ _ _ _ _ _ (modAT_lt _ _ (by decide))
theorem Encoded.red (p : Pred) (b : Code) (a : Code) (op : AtOp) (m : AtMod) : Encoded.Statement (.red p b a op m) :=
  show Fits 8 (encA Op.red p 0 a b 0 (modAT op.code m)) from
    encA_fits _ _ _ _ _ _ _ (modAT_lt _ _ (AtOp_code_lt op))
theorem Encoded.famo (p : Pred) (d : Code) (b : Code) (a : Code) (op : FAtOp) (m : AtMod) : Encoded.Statement (.famo p d b a op m) :=
  show Fits 8 (encA Op.famo p d a b 0 (modAT op.code m)) from
    encA_fits _ _ _ _ _ _ _ (modAT_lt _ _ (FAtOp_code_lt op))
theorem Encoded.fred (p : Pred) (b : Code) (a : Code) (op : FAtOp) (m : AtMod) : Encoded.Statement (.fred p b a op m) :=
  show Fits 8 (encA Op.fred p 0 a b 0 (modAT op.code m)) from
    encA_fits _ _ _ _ _ _ _ (modAT_lt _ _ (FAtOp_code_lt op))
theorem Encoded.watch (p : Pred) (b : Code) (a : Code) (off : BitVec 17) (sz : Size) (cmp : WCmp) (sc : Scope) : Encoded.Statement (.watch p b a off sz cmp sc) :=
  show Fits 8 (encC Op.watch p 0 a b (2 ^ 5 * sc.code + 2 ^ 2 * cmp.code + sz.code) off) from
    encC_fits _ _ _ _ _ _ _ (by
      have h0 := Size_code_lt sz
      have h1 := WCmp_code_lt cmp
      have h2 := Scope_code_lt sc
      omega)
theorem Encoded.fence (p : Pred) (k : FenceKind) (sc : Scope) : Encoded.Statement (.fence p k sc) :=
  show Fits 8 (encA Op.fence p 0 0 0 0 (2 ^ 2 * sc.code + k.code)) from
    encA_fits _ _ _ _ _ _ _ (by
      have h0 := FenceKind_code_lt k
      have h1 := Scope_code_lt sc
      omega)
theorem Encoded.pfence (p : Pred) (k : PathKind) : Encoded.Statement (.pfence p k) :=
  show Fits 8 (encA Op.pfence p 0 0 0 0 k.code) from
    encA_fits _ _ _ _ _ _ _ (by
      have h0 := PathKind_code_lt k
      omega)
theorem Encoded.bar (p : Pred) (a : Code) (b : Code) (sc : Scope) : Encoded.Statement (.bar p a b sc) :=
  show Fits 8 (encA Op.bar p 0 a b 0 sc.code) from
    encA_fits _ _ _ _ _ _ _ (by
      have h0 := Scope_code_lt sc
      omega)
theorem Encoded.bara (p : Pred) (a : Code) (b : Code) (sc : Scope) : Encoded.Statement (.bara p a b sc) :=
  show Fits 8 (encA Op.bara p 0 a b 0 sc.code) from
    encA_fits _ _ _ _ _ _ _ (by
      have h0 := Scope_code_lt sc
      omega)
theorem Encoded.barw (p : Pred) (a : Code) (b : Code) (sc : Scope) : Encoded.Statement (.barw p a b sc) :=
  show Fits 8 (encA Op.barw p 0 a b 0 sc.code) from
    encA_fits _ _ _ _ _ _ _ (by
      have h0 := Scope_code_lt sc
      omega)
theorem Encoded.qpeek (p : Pred) (d : Code) (a : Code) : Encoded.Statement (.qpeek p d a) :=
  show Fits 8 (encA Op.qpeek p d a 0 0 0) from
    encA_fits _ _ _ _ _ _ _ (by decide)
theorem Encoded.qcnt (p : Pred) (d : Code) (a : Code) : Encoded.Statement (.qcnt p d a) :=
  show Fits 8 (encA Op.qcnt p d a 0 0 0) from
    encA_fits _ _ _ _ _ _ _ (by decide)
theorem Encoded.qbind (p : Pred) (a : Code) (b : Code) : Encoded.Statement (.qbind p a b) :=
  show Fits 8 (encA Op.qbind p 0 a b 0 0) from
    encA_fits _ _ _ _ _ _ _ (by decide)
theorem Encoded.qflush (p : Pred) (a : Code) : Encoded.Statement (.qflush p a) :=
  show Fits 8 (encA Op.qflush p 0 a 0 0 0) from
    encA_fits _ _ _ _ _ _ _ (by decide)
theorem Encoded.vsync (p : Pred) : Encoded.Statement (.vsync p) :=
  show Fits 8 (encA Op.vsync p 0 0 0 0 0) from
    encA_fits _ _ _ _ _ _ _ (by decide)
theorem Encoded.kwait (p : Pred) (a : Code) (b : Code) (cmp : WCmp) : Encoded.Statement (.kwait p a b cmp) :=
  show Fits 8 (encA Op.kwait p 0 a b 0 cmp.code) from
    encA_fits _ _ _ _ _ _ _ (by
      have h0 := WCmp_code_lt cmp
      omega)
theorem Encoded.spawn (p : Pred) (a : Code) (b : Code) (deep : Bool) (dom : Fin 9) : Encoded.Statement (.spawn p a b deep dom) :=
  show Fits 8 (encA Op.spawn p 0 a b 0 (2 ^ 4 * b2n deep + dom.val)) from
    encA_fits _ _ _ _ _ _ _ (by
      have h0 := b2n_lt deep
      have h1 := dom.isLt
      omega)
theorem Encoded.joinw (p : Pred) (a : Code) (sc : Scope) : Encoded.Statement (.joinw p a sc) :=
  show Fits 8 (encA Op.joinw p 0 a 0 0 sc.code) from
    encA_fits _ _ _ _ _ _ _ (by
      have h0 := Scope_code_lt sc
      omega)
theorem Encoded.wfw (p : Pred) : Encoded.Statement (.wfw p) :=
  show Fits 8 (encA Op.wfw p 0 0 0 0 0) from
    encA_fits _ _ _ _ _ _ _ (by decide)
theorem Encoded.tnew (p : Pred) (d : Code) (a : Code) (lim : Fin 17) : Encoded.Statement (.tnew p d a lim) :=
  show Fits 8 (encA Op.tnew p d a 0 0 lim.val) from
    encA_fits _ _ _ _ _ _ _ (by
      have h0 := lim.isLt
      omega)
theorem Encoded.yield (p : Pred) : Encoded.Statement (.yield p) :=
  show Fits 8 (encA Op.yield p 0 0 0 0 0) from
    encA_fits _ _ _ _ _ _ _ (by decide)
theorem Encoded.park (p : Pred) (a : Code) : Encoded.Statement (.park p a) :=
  show Fits 8 (encA Op.park p 0 a 0 0 0) from
    encA_fits _ _ _ _ _ _ _ (by decide)
theorem Encoded.fadd (p : Pred) (d : Code) (a : Code) (b : Code) (sz : FSize) (rm : RM) : Encoded.Statement (.fadd p d a b sz rm) :=
  show Fits 8 (encA Op.fadd p d a b 0 (modFP 0 0 sz rm)) from
    encA_fits _ _ _ _ _ _ _ (modFP_lt _ _ _ _ (by decide) (by decide))
theorem Encoded.fsub (p : Pred) (d : Code) (a : Code) (b : Code) (sz : FSize) (rm : RM) : Encoded.Statement (.fsub p d a b sz rm) :=
  show Fits 8 (encA Op.fsub p d a b 0 (modFP 0 0 sz rm)) from
    encA_fits _ _ _ _ _ _ _ (modFP_lt _ _ _ _ (by decide) (by decide))
theorem Encoded.fmul (p : Pred) (d : Code) (a : Code) (b : Code) (sz : FSize) (rm : RM) : Encoded.Statement (.fmul p d a b sz rm) :=
  show Fits 8 (encA Op.fmul p d a b 0 (modFP 0 0 sz rm)) from
    encA_fits _ _ _ _ _ _ _ (modFP_lt _ _ _ _ (by decide) (by decide))
theorem Encoded.ffma (p : Pred) (d : Code) (a : Code) (b : Code) (c : Code) (sz : FSize) (rm : RM) : Encoded.Statement (.ffma p d a b c sz rm) :=
  show Fits 8 (encA Op.ffma p d a b c (modFP 0 0 sz rm)) from
    encA_fits _ _ _ _ _ _ _ (modFP_lt _ _ _ _ (by decide) (by decide))
theorem Encoded.fdiv (p : Pred) (d : Code) (a : Code) (b : Code) (sz : FSize) (rm : RM) : Encoded.Statement (.fdiv p d a b sz rm) :=
  show Fits 8 (encA Op.fdiv p d a b 0 (modFP 0 0 sz rm)) from
    encA_fits _ _ _ _ _ _ _ (modFP_lt _ _ _ _ (by decide) (by decide))
theorem Encoded.fsqrt (p : Pred) (d : Code) (a : Code) (sz : FSize) (rm : RM) : Encoded.Statement (.fsqrt p d a sz rm) :=
  show Fits 8 (encA Op.fsqrt p d a 0 0 (modFP 0 0 sz rm)) from
    encA_fits _ _ _ _ _ _ _ (modFP_lt _ _ _ _ (by decide) (by decide))
theorem Encoded.fmin (p : Pred) (d : Code) (a : Code) (b : Code) (sz : FSize) (rm : RM) : Encoded.Statement (.fmin p d a b sz rm) :=
  show Fits 8 (encA Op.fmin p d a b 0 (modFP 0 0 sz rm)) from
    encA_fits _ _ _ _ _ _ _ (modFP_lt _ _ _ _ (by decide) (by decide))
theorem Encoded.fmax (p : Pred) (d : Code) (a : Code) (b : Code) (sz : FSize) (rm : RM) : Encoded.Statement (.fmax p d a b sz rm) :=
  show Fits 8 (encA Op.fmax p d a b 0 (modFP 0 0 sz rm)) from
    encA_fits _ _ _ _ _ _ _ (modFP_lt _ _ _ _ (by decide) (by decide))
theorem Encoded.fcmp (p : Pred) (pd : Fin 8) (a : Code) (b : Code) (fx : FCmp) (sz : FSize) (rm : RM) : Encoded.Statement (.fcmp p pd a b fx sz rm) :=
  show Fits 8 (encA Op.fcmp p 0 a b 0 (modFP pd.val fx.code sz rm)) from
    encA_fits _ _ _ _ _ _ _ (modFP_lt _ _ _ _ pd.isLt (FCmp_code_lt fx))
theorem Encoded.fcvt (p : Pred) (d : Code) (a : Code) (fx : FCvt) (sz : FSize) (rm : RM) : Encoded.Statement (.fcvt p d a fx sz rm) :=
  show Fits 8 (encA Op.fcvt p d a 0 0 (modFP 0 fx.code sz rm)) from
    encA_fits _ _ _ _ _ _ _ (modFP_lt _ _ _ _ (by decide) (FCvt_code_lt fx))
theorem Encoded.fsgn (p : Pred) (d : Code) (a : Code) (b : Code) (fx : FSgn) (sz : FSize) (rm : RM) : Encoded.Statement (.fsgn p d a b fx sz rm) :=
  show Fits 8 (encA Op.fsgn p d a b 0 (modFP 0 fx.code sz rm)) from
    encA_fits _ _ _ _ _ _ _ (modFP_lt _ _ _ _ (by decide) (FSgn_code_lt fx))
theorem Encoded.fclass (p : Pred) (d : Code) (a : Code) (sz : FSize) (rm : RM) : Encoded.Statement (.fclass p d a sz rm) :=
  show Fits 8 (encA Op.fclass p d a 0 0 (modFP 0 0 sz rm)) from
    encA_fits _ _ _ _ _ _ _ (modFP_lt _ _ _ _ (by decide) (by decide))
theorem Encoded.vadd (p : Pred) (d : Code) (a : Code) (b : Code) (v : VMod) : Encoded.Statement (.vadd p d a b v) :=
  show Fits 16 (encV Op.vadd p d a b 0 v) from
    encV_fits ..
theorem Encoded.vsub (p : Pred) (d : Code) (a : Code) (b : Code) (v : VMod) : Encoded.Statement (.vsub p d a b v) :=
  show Fits 16 (encV Op.vsub p d a b 0 v) from
    encV_fits ..
theorem Encoded.vmul (p : Pred) (d : Code) (a : Code) (b : Code) (v : VMod) : Encoded.Statement (.vmul p d a b v) :=
  show Fits 16 (encV Op.vmul p d a b 0 v) from
    encV_fits ..
theorem Encoded.vfma (p : Pred) (d : Code) (a : Code) (b : Code) (c : Code) (v : VMod) : Encoded.Statement (.vfma p d a b c v) :=
  show Fits 16 (encV Op.vfma p d a b c v) from
    encV_fits ..
theorem Encoded.vmin (p : Pred) (d : Code) (a : Code) (b : Code) (v : VMod) : Encoded.Statement (.vmin p d a b v) :=
  show Fits 16 (encV Op.vmin p d a b 0 v) from
    encV_fits ..
theorem Encoded.vmax (p : Pred) (d : Code) (a : Code) (b : Code) (v : VMod) : Encoded.Statement (.vmax p d a b v) :=
  show Fits 16 (encV Op.vmax p d a b 0 v) from
    encV_fits ..
theorem Encoded.vabs (p : Pred) (d : Code) (a : Code) (v : VMod) : Encoded.Statement (.vabs p d a v) :=
  show Fits 16 (encV Op.vabs p d a 0 0 v) from
    encV_fits ..
theorem Encoded.vscl (p : Pred) (d : Code) (a : Code) (b : Code) (v : VMod) : Encoded.Statement (.vscl p d a b v) :=
  show Fits 16 (encV Op.vscl p d a b 0 v) from
    encV_fits ..
theorem Encoded.vaxpy (p : Pred) (d : Code) (a : Code) (b : Code) (c : Code) (v : VMod) : Encoded.Statement (.vaxpy p d a b c v) :=
  show Fits 16 (encV Op.vaxpy p d a b c v) from
    encV_fits ..
theorem Encoded.vand (p : Pred) (d : Code) (a : Code) (b : Code) (v : VMod) : Encoded.Statement (.vand p d a b v) :=
  show Fits 16 (encV Op.vand p d a b 0 v) from
    encV_fits ..
theorem Encoded.vor (p : Pred) (d : Code) (a : Code) (b : Code) (v : VMod) : Encoded.Statement (.vor p d a b v) :=
  show Fits 16 (encV Op.vor p d a b 0 v) from
    encV_fits ..
theorem Encoded.vxor (p : Pred) (d : Code) (a : Code) (b : Code) (v : VMod) : Encoded.Statement (.vxor p d a b v) :=
  show Fits 16 (encV Op.vxor p d a b 0 v) from
    encV_fits ..
theorem Encoded.vshl (p : Pred) (d : Code) (a : Code) (b : Code) (v : VMod) : Encoded.Statement (.vshl p d a b v) :=
  show Fits 16 (encV Op.vshl p d a b 0 v) from
    encV_fits ..
theorem Encoded.vshr (p : Pred) (d : Code) (a : Code) (b : Code) (v : VMod) : Encoded.Statement (.vshr p d a b v) :=
  show Fits 16 (encV Op.vshr p d a b 0 v) from
    encV_fits ..
theorem Encoded.vcmp (p : Pred) (d : Code) (a : Code) (b : Code) (v : VMod) : Encoded.Statement (.vcmp p d a b v) :=
  show Fits 16 (encV Op.vcmp p d a b 0 v) from
    encV_fits ..
theorem Encoded.vsel (p : Pred) (d : Code) (a : Code) (b : Code) (c : Code) (v : VMod) : Encoded.Statement (.vsel p d a b c v) :=
  show Fits 16 (encV Op.vsel p d a b c v) from
    encV_fits ..
theorem Encoded.vcmul (p : Pred) (d : Code) (a : Code) (b : Code) (v : VMod) : Encoded.Statement (.vcmul p d a b v) :=
  show Fits 16 (encV Op.vcmul p d a b 0 v) from
    encV_fits ..
theorem Encoded.vcmac (p : Pred) (d : Code) (a : Code) (b : Code) (c : Code) (v : VMod) : Encoded.Statement (.vcmac p d a b c v) :=
  show Fits 16 (encV Op.vcmac p d a b c v) from
    encV_fits ..
theorem Encoded.vmov (p : Pred) (d : Code) (a : Code) (v : VMod) : Encoded.Statement (.vmov p d a v) :=
  show Fits 16 (encV Op.vmov p d a 0 0 v) from
    encV_fits ..
theorem Encoded.vred (p : Pred) (d : Code) (a : Code) (v : VMod) : Encoded.Statement (.vred p d a v) :=
  show Fits 16 (encV Op.vred p d a 0 0 v) from
    encV_fits ..
theorem Encoded.vdot (p : Pred) (d : Code) (a : Code) (b : Code) (v : VMod) : Encoded.Statement (.vdot p d a b v) :=
  show Fits 16 (encV Op.vdot p d a b 0 v) from
    encV_fits ..
theorem Encoded.vscan (p : Pred) (d : Code) (a : Code) (v : VMod) : Encoded.Statement (.vscan p d a v) :=
  show Fits 16 (encV Op.vscan p d a 0 0 v) from
    encV_fits ..
theorem Encoded.vcvt (p : Pred) (d : Code) (a : Code) (v : VMod) : Encoded.Statement (.vcvt p d a v) :=
  show Fits 16 (encV Op.vcvt p d a 0 0 v) from
    encV_fits ..
theorem Encoded.vldg (p : Pred) (d : Code) (a : Code) (v : VMod) : Encoded.Statement (.vldg p d a v) :=
  show Fits 16 (encV Op.vldg p d a 0 0 v) from
    encV_fits ..
theorem Encoded.vstg (p : Pred) (d : Code) (a : Code) (v : VMod) : Encoded.Statement (.vstg p d a v) :=
  show Fits 16 (encV Op.vstg p d a 0 0 v) from
    encV_fits ..
theorem Encoded.vgath (p : Pred) (d : Code) (a : Code) (b : Code) (v : VMod) : Encoded.Statement (.vgath p d a b v) :=
  show Fits 16 (encV Op.vgath p d a b 0 v) from
    encV_fits ..
theorem Encoded.vscat (p : Pred) (d : Code) (a : Code) (b : Code) (v : VMod) : Encoded.Statement (.vscat p d a b v) :=
  show Fits 16 (encV Op.vscat p d a b 0 v) from
    encV_fits ..
theorem Encoded.vbcst (p : Pred) (d : Code) (a : Code) (v : VMod) : Encoded.Statement (.vbcst p d a v) :=
  show Fits 16 (encV Op.vbcst p d a 0 0 v) from
    encV_fits ..
theorem Encoded.viota (p : Pred) (d : Code) (v : VMod) : Encoded.Statement (.viota p d v) :=
  show Fits 16 (encV Op.viota p d 0 0 0 v) from
    encV_fits ..
theorem Encoded.vperm (p : Pred) (d : Code) (a : Code) (b : Code) (v : VMod) : Encoded.Statement (.vperm p d a b v) :=
  show Fits 16 (encV Op.vperm p d a b 0 v) from
    encV_fits ..
theorem Encoded.vexp (p : Pred) (d : Code) (a : Code) (v : VMod) : Encoded.Statement (.vexp p d a v) :=
  show Fits 16 (encV Op.vexp p d a 0 0 v) from
    encV_fits ..
theorem Encoded.vlog (p : Pred) (d : Code) (a : Code) (v : VMod) : Encoded.Statement (.vlog p d a v) :=
  show Fits 16 (encV Op.vlog p d a 0 0 v) from
    encV_fits ..
theorem Encoded.vrcp (p : Pred) (d : Code) (a : Code) (v : VMod) : Encoded.Statement (.vrcp p d a v) :=
  show Fits 16 (encV Op.vrcp p d a 0 0 v) from
    encV_fits ..
theorem Encoded.vrsq (p : Pred) (d : Code) (a : Code) (v : VMod) : Encoded.Statement (.vrsq p d a v) :=
  show Fits 16 (encV Op.vrsq p d a 0 0 v) from
    encV_fits ..
theorem Encoded.vsin (p : Pred) (d : Code) (a : Code) (v : VMod) : Encoded.Statement (.vsin p d a v) :=
  show Fits 16 (encV Op.vsin p d a 0 0 v) from
    encV_fits ..
theorem Encoded.vcos (p : Pred) (d : Code) (a : Code) (v : VMod) : Encoded.Statement (.vcos p d a v) :=
  show Fits 16 (encV Op.vcos p d a 0 0 v) from
    encV_fits ..
theorem Encoded.enq (p : Pred) (d : Code) (a : Code) : Encoded.Statement (.enq p d a) :=
  show Fits 8 (encA Op.enq p d a 0 0 0) from
    encA_fits _ _ _ _ _ _ _ (by decide)
theorem Encoded.waitj (p : Pred) (a : Code) : Encoded.Statement (.waitj p a) :=
  show Fits 8 (encA Op.waitj p 0 a 0 0 0) from
    encA_fits _ _ _ _ _ _ _ (by decide)
theorem Encoded.pollj (p : Pred) (d : Code) (a : Code) : Encoded.Statement (.pollj p d a) :=
  show Fits 8 (encA Op.pollj p d a 0 0 0) from
    encA_fits _ _ _ _ _ _ _ (by decide)
theorem Encoded.jstat (p : Pred) (d : Code) (a : Code) : Encoded.Statement (.jstat p d a) :=
  show Fits 8 (encA Op.jstat p d a 0 0 0) from
    encA_fits _ _ _ _ _ _ _ (by decide)
theorem Encoded.zfset (p : Pred) (a : Code) (idx : Fin 16) : Encoded.Statement (.zfset p a idx) :=
  show Fits 8 (encA Op.zfset p 0 a 0 0 idx.val) from
    encA_fits _ _ _ _ _ _ _ (by
      have h0 := idx.isLt
      omega)
theorem Encoded.zfget (p : Pred) (d : Code) (idx : Fin 16) : Encoded.Statement (.zfget p d idx) :=
  show Fits 8 (encA Op.zfget p d 0 0 0 idx.val) from
    encA_fits _ _ _ _ _ _ _ (by
      have h0 := idx.isLt
      omega)
theorem Encoded.sclw (p : Pred) (a : Code) (idx : Fin 16) : Encoded.Statement (.sclw p a idx) :=
  show Fits 8 (encA Op.sclw p 0 a 0 0 idx.val) from
    encA_fits _ _ _ _ _ _ _ (by
      have h0 := idx.isLt
      omega)
theorem Encoded.cbld (p : Pred) (a : Code) (idx : Fin 8) : Encoded.Statement (.cbld p a idx) :=
  show Fits 8 (encA Op.cbld p 0 a 0 0 idx.val) from
    encA_fits _ _ _ _ _ _ _ (by
      have h0 := idx.isLt
      omega)
theorem Encoded.chwp (p : Pred) (d : Code) (idx : Fin 16) : Encoded.Statement (.chwp p d idx) :=
  show Fits 8 (encA Op.chwp p d 0 0 0 idx.val) from
    encA_fits _ _ _ _ _ _ _ (by
      have h0 := idx.isLt
      omega)
theorem Encoded.boxt (p : Pred) (d : Code) (a : Code) (b : Code) : Encoded.Statement (.boxt p d a b) :=
  show Fits 8 (encA Op.boxt p d a b 0 0) from
    encA_fits _ _ _ _ _ _ _ (by decide)
theorem Encoded.trit (p : Pred) (d : Code) (a : Code) (b : Code) : Encoded.Statement (.trit p d a b) :=
  show Fits 8 (encA Op.trit p d a b 0 0) from
    encA_fits _ _ _ _ _ _ _ (by decide)
theorem Encoded.tspush (p : Pred) (a : Code) : Encoded.Statement (.tspush p a) :=
  show Fits 8 (encA Op.tspush p 0 a 0 0 0) from
    encA_fits _ _ _ _ _ _ _ (by decide)
theorem Encoded.tspop (p : Pred) (d : Code) : Encoded.Statement (.tspop p d) :=
  show Fits 8 (encA Op.tspop p d 0 0 0 0) from
    encA_fits _ _ _ _ _ _ _ (by decide)
theorem Encoded.tsclr (p : Pred) : Encoded.Statement (.tsclr p) :=
  show Fits 8 (encA Op.tsclr p 0 0 0 0 0) from
    encA_fits _ _ _ _ _ _ _ (by decide)
theorem Encoded.smpl (p : Pred) (d : Code) (a : Code) (b : Code) (x : SmplKind) : Encoded.Statement (.smpl p d a b x) :=
  show Fits 8 (encA Op.smpl p d a b 0 x.code) from
    encA_fits _ _ _ _ _ _ _ (by
      have h0 := SmplKind_code_lt x
      omega)
theorem Encoded.sld (p : Pred) (d : Code) (a : Code) (sz : Size) : Encoded.Statement (.sld p d a sz) :=
  show Fits 8 (encA Op.sld p d a 0 0 sz.code) from
    encA_fits _ _ _ _ _ _ _ (by
      have h0 := Size_code_lt sz
      omega)
theorem Encoded.lset (p : Pred) (a : Code) (b : Code) (sel : Fin 15) : Encoded.Statement (.lset p a b sel) :=
  show Fits 8 (encA Op.lset p 0 a b 0 sel.val) from
    encA_fits _ _ _ _ _ _ _ (by
      have h0 := sel.isLt
      omega)
theorem Encoded.lget (p : Pred) (d : Code) (a : Code) (sel : Fin 15) : Encoded.Statement (.lget p d a sel) :=
  show Fits 8 (encA Op.lget p d a 0 0 sel.val) from
    encA_fits _ _ _ _ _ _ _ (by
      have h0 := sel.isLt
      omega)
theorem Encoded.lsplit (p : Pred) (a : Code) (b : Code) (c : Code) : Encoded.Statement (.lsplit p a b c) :=
  show Fits 8 (encA Op.lsplit p 0 a b c 0) from
    encA_fits _ _ _ _ _ _ _ (by decide)
theorem Encoded.lmerge (p : Pred) (a : Code) (b : Code) : Encoded.Statement (.lmerge p a b) :=
  show Fits 8 (encA Op.lmerge p 0 a b 0 0) from
    encA_fits _ _ _ _ _ _ _ (by decide)
theorem Encoded.lreq (p : Pred) (d : Code) : Encoded.Statement (.lreq p d) :=
  show Fits 8 (encA Op.lreq p d 0 0 0 0) from
    encA_fits _ _ _ _ _ _ _ (by decide)
theorem Encoded.ldone (p : Pred) (a : Code) : Encoded.Statement (.ldone p a) :=
  show Fits 8 (encA Op.ldone p 0 a 0 0 0) from
    encA_fits _ _ _ _ _ _ _ (by decide)
theorem Encoded.lepoch (p : Pred) (a : Code) : Encoded.Statement (.lepoch p a) :=
  show Fits 8 (encA Op.lepoch p 0 a 0 0 0) from
    encA_fits _ _ _ _ _ _ _ (by decide)
theorem Encoded.wgalloc (p : Pred) (d : Code) (a : Code) : Encoded.Statement (.wgalloc p d a) :=
  show Fits 8 (encA Op.wgalloc p d a 0 0 0) from
    encA_fits _ _ _ _ _ _ _ (by decide)
theorem Encoded.wgemit (p : Pred) (a : Code) (b : Code) : Encoded.Statement (.wgemit p a b) :=
  show Fits 8 (encA Op.wgemit p 0 a b 0 0) from
    encA_fits _ _ _ _ _ _ _ (by decide)
theorem Encoded.wgtake (p : Pred) (d : Code) (a : Code) (b : Code) : Encoded.Statement (.wgtake p d a b) :=
  show Fits 8 (encA Op.wgtake p d a b 0 0) from
    encA_fits _ _ _ _ _ _ _ (by decide)
theorem Encoded.wgfree (p : Pred) (a : Code) : Encoded.Statement (.wgfree p a) :=
  show Fits 8 (encA Op.wgfree p 0 a 0 0 0) from
    encA_fits _ _ _ _ _ _ _ (by decide)
theorem Encoded.paya (p : Pred) (d : Code) : Encoded.Statement (.paya p d) :=
  show Fits 8 (encA Op.paya p d 0 0 0 0) from
    encA_fits _ _ _ _ _ _ _ (by decide)
theorem Encoded.payp (p : Pred) (a : Code) (b : Code) (c : Code) : Encoded.Statement (.payp p a b c) :=
  show Fits 8 (encA Op.payp p 0 a b c 0) from
    encA_fits _ _ _ _ _ _ _ (by decide)
theorem Encoded.trap (p : Pred) (imm : BitVec 33) : Encoded.Statement (.trap p imm) :=
  show Fits 8 (encB Op.trap p 0 0 imm.toNat) from
    encB_fits _ _ _ _ _ (by
      have h0 := imm.isLt
      omega)
theorem Encoded.rft (p : Pred) : Encoded.Statement (.rft p) :=
  show Fits 8 (encA Op.rft p 0 0 0 0 0) from
    encA_fits _ _ _ _ _ _ _ (by decide)
theorem Encoded.srrd (p : Pred) (d : Code) (num : BitVec 12) : Encoded.Statement (.srrd p d num) :=
  show Fits 8 (encA Op.srrd p d 0 0 0 num.toNat) from
    encA_fits _ _ _ _ _ _ _ (by
      have h0 := num.isLt
      omega)
theorem Encoded.srwr (p : Pred) (a : Code) (num : BitVec 12) : Encoded.Statement (.srwr p a num) :=
  show Fits 8 (encA Op.srwr p 0 a 0 0 num.toNat) from
    encA_fits _ _ _ _ _ _ _ (by
      have h0 := num.isLt
      omega)
theorem Encoded.bkpt (p : Pred) : Encoded.Statement (.bkpt p) :=
  show Fits 8 (encA Op.bkpt p 0 0 0 0 0) from
    encA_fits _ _ _ _ _ _ _ (by decide)
theorem Encoded.tlbinv (p : Pred) (a : Code) (all : Bool) : Encoded.Statement (.tlbinv p a all) :=
  show Fits 8 (encA Op.tlbinv p 0 a 0 0 (b2n all)) from
    encA_fits _ _ _ _ _ _ _ (by
      have h0 := b2n_lt all
      omega)
theorem Encoded.cinv (p : Pred) (a : Code) (x : CinvKind) : Encoded.Statement (.cinv p a x) :=
  show Fits 8 (encA Op.cinv p 0 a 0 0 x.code) from
    encA_fits _ _ _ _ _ _ _ (by
      have h0 := CinvKind_code_lt x
      omega)
theorem Encoded.stopw (p : Pred) (sc : Scope) : Encoded.Statement (.stopw p sc) :=
  show Fits 8 (encA Op.stopw p 0 0 0 0 sc.code) from
    encA_fits _ _ _ _ _ _ _ (by
      have h0 := Scope_code_lt sc
      omega)
theorem Encoded.resw (p : Pred) (sc : Scope) : Encoded.Statement (.resw p sc) :=
  show Fits 8 (encA Op.resw p 0 0 0 0 sc.code) from
    encA_fits _ _ _ _ _ _ _ (by
      have h0 := Scope_code_lt sc
      omega)
theorem Encoded.logmk (p : Pred) (a : Code) : Encoded.Statement (.logmk p a) :=
  show Fits 8 (encA Op.logmk p 0 a 0 0 0) from
    encA_fits _ _ _ _ _ _ _ (by decide)
theorem Encoded.cntrd (p : Pred) (d : Code) (num : BitVec 12) : Encoded.Statement (.cntrd p d num) :=
  show Fits 8 (encA Op.cntrd p d 0 0 0 num.toNat) from
    encA_fits _ _ _ _ _ _ _ (by
      have h0 := num.isLt
      omega)
theorem Encoded.powerOn (images : List Image) : Encoded.Statement (.powerOn images) :=
  ⟨rfl, fun _ h => nomatch h⟩
theorem Encoded.bootRestart (images : List Image) : Encoded.Statement (.bootRestart images) :=
  ⟨rfl, fun _ h => nomatch h⟩
theorem Encoded.raiseFusedMinimum (proc : Nat) : Encoded.Statement (.raiseFusedMinimum proc) :=
  ⟨rfl, fun _ h => nomatch h⟩
theorem Encoded.getVersion : Encoded.Statement (.getVersion) :=
  ⟨rfl, fun _ h => nomatch h⟩
theorem Encoded.getCapabilities : Encoded.Statement (.getCapabilities) :=
  ⟨rfl, fun _ h => nomatch h⟩
theorem Encoded.negotiateAlgorithms : Encoded.Statement (.negotiateAlgorithms) :=
  ⟨rfl, fun _ h => nomatch h⟩
theorem Encoded.getDigests : Encoded.Statement (.getDigests) :=
  ⟨rfl, fun _ h => nomatch h⟩
theorem Encoded.getCertificate (slot : Nat) : Encoded.Statement (.getCertificate slot) :=
  ⟨rfl, fun _ h => nomatch h⟩
theorem Encoded.challenge (slot : Nat) (nonce : List Byte) : Encoded.Statement (.challenge slot nonce) :=
  ⟨rfl, fun _ h => nomatch h⟩
theorem Encoded.getMeasurements (index : Nat) : Encoded.Statement (.getMeasurements index) :=
  ⟨rfl, fun _ h => nomatch h⟩
theorem Encoded.spdmUnsupportedRequest (code : Nat) : Encoded.Statement (.spdmUnsupportedRequest code) :=
  ⟨rfl, fun _ h => nomatch h⟩
theorem Encoded.thermalTrip : Encoded.Statement (.thermalTrip) :=
  ⟨rfl, fun _ h => nomatch h⟩
theorem Encoded.thermalRelease : Encoded.Statement (.thermalRelease) :=
  ⟨rfl, fun _ h => nomatch h⟩
theorem Encoded.powerThrottleStart : Encoded.Statement (.powerThrottleStart) :=
  ⟨rfl, fun _ h => nomatch h⟩
theorem Encoded.powerThrottleEnd : Encoded.Statement (.powerThrottleEnd) :=
  ⟨rfl, fun _ h => nomatch h⟩
theorem Encoded.phcmdAssign (v : Word) : Encoded.Statement (.phcmdAssign v) :=
  ⟨rfl, fun _ h => nomatch h⟩
theorem Encoded.phcmdRelease (v : Word) : Encoded.Statement (.phcmdRelease v) :=
  ⟨rfl, fun _ h => nomatch h⟩
theorem Encoded.releaseScrub (part : Nat) : Encoded.Statement (.releaseScrub part) :=
  ⟨rfl, fun _ h => nomatch h⟩
theorem Encoded.devnumWrite (v : Word) : Encoded.Statement (.devnumWrite v) :=
  ⟨rfl, fun _ h => nomatch h⟩
theorem Encoded.gpsRetrain (port : Nat) : Encoded.Statement (.gpsRetrain port) :=
  ⟨rfl, fun _ h => nomatch h⟩
theorem Encoded.linkTrainingDone (port : Nat) (peer : Nat) (vero : Nat) : Encoded.Statement (.linkTrainingDone port peer vero) :=
  ⟨rfl, fun _ h => nomatch h⟩
theorem Encoded.portDown (port : Nat) : Encoded.Statement (.portDown port) :=
  ⟨rfl, fun _ h => nomatch h⟩
theorem Encoded.gondolaForward (pkt : GPacket) : Encoded.Statement (.gondolaForward pkt) :=
  ⟨rfl, fun _ h => nomatch h⟩
theorem Encoded.remoteAccessArrival (req : RemReq) : Encoded.Statement (.remoteAccessArrival req) :=
  ⟨rfl, fun _ h => nomatch h⟩
theorem Encoded.remoteReply (id : Nat) (reply : RemReply) : Encoded.Statement (.remoteReply id reply) :=
  ⟨rfl, fun _ h => nomatch h⟩
theorem Encoded.remoteAccessTimeout (id : Nat) : Encoded.Statement (.remoteAccessTimeout id) :=
  ⟨rfl, fun _ h => nomatch h⟩
theorem Encoded.vfConfigAccess (vf : Nat) : Encoded.Statement (.vfConfigAccess vf) :=
  ⟨rfl, fun _ h => nomatch h⟩
theorem Encoded.apertureRead (part : Nat) (off : Nat) (size : Nat) : Encoded.Statement (.apertureRead part off size) :=
  ⟨rfl, fun _ h => nomatch h⟩
theorem Encoded.apertureWrite (part : Nat) (off : Nat) (data : List Byte) : Encoded.Statement (.apertureWrite part off data) :=
  ⟨rfl, fun _ h => nomatch h⟩
theorem Encoded.hostRegisterWrite (fn : HostFn) (off : Nat) (v : Word) : Encoded.Statement (.hostRegisterWrite fn off v) :=
  ⟨rfl, fun _ h => nomatch h⟩
theorem Encoded.qdbWrite (part : Nat) (q : Nat) (v : Word) : Encoded.Statement (.qdbWrite part q v) :=
  ⟨rfl, fun _ h => nomatch h⟩
theorem Encoded.qcfgEnable (part : Nat) (q : Nat) (v : Word) : Encoded.Statement (.qcfgEnable part q v) :=
  ⟨rfl, fun _ h => nomatch h⟩
theorem Encoded.qcfgDisable (part : Nat) (q : Nat) (v : Word) : Encoded.Statement (.qcfgDisable part q v) :=
  ⟨rfl, fun _ h => nomatch h⟩
theorem Encoded.qcfgPause (part : Nat) (q : Nat) (v : Word) : Encoded.Statement (.qcfgPause part q v) :=
  ⟨rfl, fun _ h => nomatch h⟩
theorem Encoded.qcfgUnpause (part : Nat) (q : Nat) (v : Word) : Encoded.Statement (.qcfgUnpause part q v) :=
  ⟨rfl, fun _ h => nomatch h⟩
theorem Encoded.ifvwWrite (part : Nat) (v : Word) : Encoded.Statement (.ifvwWrite part v) :=
  ⟨rfl, fun _ h => nomatch h⟩
theorem Encoded.frcfgEnable (part : Nat) (v : Word) : Encoded.Statement (.frcfgEnable part v) :=
  ⟨rfl, fun _ h => nomatch h⟩
theorem Encoded.frcfgDisable (part : Nat) (v : Word) : Encoded.Statement (.frcfgDisable part v) :=
  ⟨rfl, fun _ h => nomatch h⟩
theorem Encoded.fresRetry (part : Nat) (seq : Nat) : Encoded.Statement (.fresRetry part seq) :=
  ⟨rfl, fun _ h => nomatch h⟩
theorem Encoded.fresFatalPageflt (part : Nat) (seq : Nat) : Encoded.Statement (.fresFatalPageflt part seq) :=
  ⟨rfl, fun _ h => nomatch h⟩
theorem Encoded.fresFatalProt (part : Nat) (seq : Nat) : Encoded.Statement (.fresFatalProt part seq) :=
  ⟨rfl, fun _ h => nomatch h⟩
theorem Encoded.frheadWrite (part : Nat) (v : Word) : Encoded.Statement (.frheadWrite part v) :=
  ⟨rfl, fun _ h => nomatch h⟩
theorem Encoded.olcfgEnable (v : Word) : Encoded.Statement (.olcfgEnable v) :=
  ⟨rfl, fun _ h => nomatch h⟩
theorem Encoded.launch (part : Nat) (q : Nat) : Encoded.Statement (.launch part q) :=
  ⟨rfl, fun _ h => nomatch h⟩
theorem Encoded.rootPlace (part : Nat) : Encoded.Statement (.rootPlace part) :=
  ⟨rfl, fun _ h => nomatch h⟩
theorem Encoded.launchComplete (part : Nat) (lid : Nat) : Encoded.Statement (.launchComplete part lid) :=
  ⟨rfl, fun _ h => nomatch h⟩
theorem Encoded.graphLoad (part : Nat) (q : Nat) : Encoded.Statement (.graphLoad part q) :=
  ⟨rfl, fun _ h => nomatch h⟩
theorem Encoded.triggerBind (part : Nat) (q : Nat) : Encoded.Statement (.triggerBind part q) :=
  ⟨rfl, fun _ h => nomatch h⟩
theorem Encoded.copy (part : Nat) (q : Nat) : Encoded.Statement (.copy part q) :=
  ⟨rfl, fun _ h => nomatch h⟩
theorem Encoded.copyComplete (part : Nat) (pid : Nat) : Encoded.Statement (.copyComplete part pid) :=
  ⟨rfl, fun _ h => nomatch h⟩
theorem Encoded.signal (part : Nat) (q : Nat) : Encoded.Statement (.signal part q) :=
  ⟨rfl, fun _ h => nomatch h⟩
theorem Encoded.wait (part : Nat) (q : Nat) : Encoded.Statement (.wait part q) :=
  ⟨rfl, fun _ h => nomatch h⟩
theorem Encoded.waitSatisfied (part : Nat) (pid : Nat) : Encoded.Statement (.waitSatisfied part pid) :=
  ⟨rfl, fun _ h => nomatch h⟩
theorem Encoded.layerTable (part : Nat) (q : Nat) : Encoded.Statement (.layerTable part q) :=
  ⟨rfl, fun _ h => nomatch h⟩
theorem Encoded.headBind (part : Nat) (q : Nat) : Encoded.Statement (.headBind part q) :=
  ⟨rfl, fun _ h => nomatch h⟩
theorem Encoded.exportQueue (part : Nat) (q : Nat) : Encoded.Statement (.exportQueue part q) :=
  ⟨rfl, fun _ h => nomatch h⟩
theorem Encoded.exportComplete (part : Nat) (pid : Nat) : Encoded.Statement (.exportComplete part pid) :=
  ⟨rfl, fun _ h => nomatch h⟩
theorem Encoded.importQueue (part : Nat) (q : Nat) : Encoded.Statement (.importQueue part q) :=
  ⟨rfl, fun _ h => nomatch h⟩
theorem Encoded.trigWrite (core : Nat) (slot : Nat) (n : Nat) : Encoded.Statement (.trigWrite core slot n) :=
  ⟨rfl, fun _ h => nomatch h⟩
theorem Encoded.graphNodeLaunch (part : Nat) (trig : Nat) : Encoded.Statement (.graphNodeLaunch part trig) :=
  ⟨rfl, fun _ h => nomatch h⟩
theorem Encoded.graphNodeSignal (part : Nat) (trig : Nat) : Encoded.Statement (.graphNodeSignal part trig) :=
  ⟨rfl, fun _ h => nomatch h⟩
theorem Encoded.graphNodeLoop (part : Nat) (trig : Nat) : Encoded.Statement (.graphNodeLoop part trig) :=
  ⟨rfl, fun _ h => nomatch h⟩
theorem Encoded.graphNodeCond (part : Nat) (trig : Nat) : Encoded.Statement (.graphNodeCond part trig) :=
  ⟨rfl, fun _ h => nomatch h⟩
theorem Encoded.graphNodeEnd (part : Nat) (trig : Nat) : Encoded.Statement (.graphNodeEnd part trig) :=
  ⟨rfl, fun _ h => nomatch h⟩
theorem Encoded.remoteLaunchRequest (req : RemLaunch) : Encoded.Statement (.remoteLaunchRequest req) :=
  ⟨rfl, fun _ h => nomatch h⟩
theorem Encoded.remoteLaneStart (part : Nat) : Encoded.Statement (.remoteLaneStart part) :=
  ⟨rfl, fun _ h => nomatch h⟩
theorem Encoded.remoteLaunchResult (id : Nat) (res : RemResult) : Encoded.Statement (.remoteLaunchResult id res) :=
  ⟨rfl, fun _ h => nomatch h⟩
theorem Encoded.remoteLaunchTimeout (id : Nat) : Encoded.Statement (.remoteLaunchTimeout id) :=
  ⟨rfl, fun _ h => nomatch h⟩
theorem Encoded.dploadWrite (core : Nat) (slot : Nat) (v : Word) : Encoded.Statement (.dploadWrite core slot v) :=
  ⟨rfl, fun _ h => nomatch h⟩
theorem Encoded.policyCheckDone (part : Nat) : Encoded.Statement (.policyCheckDone part) :=
  ⟨rfl, fun _ h => nomatch h⟩
theorem Encoded.operatorDisclosureRead (part : Nat) (query : DiscQuery) : Encoded.Statement (.operatorDisclosureRead part query) :=
  ⟨rfl, fun _ h => nomatch h⟩
theorem Encoded.operatorDebugStop (part : Nat) (target : DebugTarget) : Encoded.Statement (.operatorDebugStop part target) :=
  ⟨rfl, fun _ h => nomatch h⟩
theorem Encoded.debugStopAck : Encoded.Statement (.debugStopAck) :=
  ⟨rfl, fun _ h => nomatch h⟩
theorem Encoded.disclosureIntervalEnd (part : Nat) : Encoded.Statement (.disclosureIntervalEnd part) :=
  ⟨rfl, fun _ h => nomatch h⟩
theorem Encoded.frameTick : Encoded.Statement (.frameTick) :=
  ⟨rfl, fun _ h => nomatch h⟩
theorem Encoded.frameEncode : Encoded.Statement (.frameEncode) :=
  ⟨rfl, fun _ h => nomatch h⟩
theorem Encoded.ecfgKeySet (core : Nat) (slot : Nat) (enc : Nat) : Encoded.Statement (.ecfgKeySet core slot enc) :=
  ⟨rfl, fun _ h => nomatch h⟩
theorem Encoded.threadCreate (core : Nat) (lid : Nat) : Encoded.Statement (.threadCreate core lid) :=
  ⟨rfl, fun _ h => nomatch h⟩
theorem Encoded.frameDelivery (core : Nat) (slot : Nat) : Encoded.Statement (.frameDelivery core slot) :=
  ⟨rfl, fun _ h => nomatch h⟩
theorem Encoded.stealRequest (core : Nat) (lid : Nat) : Encoded.Statement (.stealRequest core lid) :=
  ⟨rfl, fun _ h => nomatch h⟩
theorem Encoded.stealServe (core : Nat) (lid : Nat) : Encoded.Statement (.stealServe core lid) :=
  ⟨rfl, fun _ h => nomatch h⟩
theorem Encoded.stealReplyArrival (core : Nat) (lid : Nat) : Encoded.Statement (.stealReplyArrival core lid) :=
  ⟨rfl, fun _ h => nomatch h⟩
theorem Encoded.stealRetryTimeout (core : Nat) (lid : Nat) : Encoded.Statement (.stealRetryTimeout core lid) :=
  ⟨rfl, fun _ h => nomatch h⟩
theorem Encoded.terminationCount (part : Nat) (lid : Nat) : Encoded.Statement (.terminationCount part lid) :=
  ⟨rfl, fun _ h => nomatch h⟩
theorem Encoded.rotationBoundary (core : Nat) : Encoded.Statement (.rotationBoundary core) :=
  ⟨rfl, fun _ h => nomatch h⟩
theorem Encoded.threadDisplace (core : Nat) (slot : Nat) : Encoded.Statement (.threadDisplace core slot) :=
  ⟨rfl, fun _ h => nomatch h⟩
theorem Encoded.displacedResume (core : Nat) : Encoded.Statement (.displacedResume core) :=
  ⟨rfl, fun _ h => nomatch h⟩
theorem Encoded.drcfgBind (core : Nat) (slot : Nat) (v : Word) : Encoded.Statement (.drcfgBind core slot v) :=
  ⟨rfl, fun _ h => nomatch h⟩
theorem Encoded.drcfgUnbind (core : Nat) (slot : Nat) (v : Word) : Encoded.Statement (.drcfgUnbind core slot v) :=
  ⟨rfl, fun _ h => nomatch h⟩
theorem Encoded.dtailWrite (core : Nat) (slot : Nat) (v : Word) : Encoded.Statement (.dtailWrite core slot v) :=
  ⟨rfl, fun _ h => nomatch h⟩
theorem Encoded.dispenserDeliver (cluster : Nat) : Encoded.Statement (.dispenserDeliver cluster) :=
  ⟨rfl, fun _ h => nomatch h⟩
theorem Encoded.wgdaBind (core : Nat) (slot : Nat) (v : Word) : Encoded.Statement (.wgdaBind core slot v) :=
  ⟨rfl, fun _ h => nomatch h⟩
theorem Encoded.wgdaUnbind (core : Nat) (slot : Nat) : Encoded.Statement (.wgdaUnbind core slot) :=
  ⟨rfl, fun _ h => nomatch h⟩
theorem Encoded.wgBatchTimeout (cluster : Nat) (node : Nat) : Encoded.Statement (.wgBatchTimeout cluster node) :=
  ⟨rfl, fun _ h => nomatch h⟩
theorem Encoded.wgBatchDeliver (cluster : Nat) : Encoded.Statement (.wgBatchDeliver cluster) :=
  ⟨rfl, fun _ h => nomatch h⟩
theorem Encoded.payloadFrameDeliver (cluster : Nat) : Encoded.Statement (.payloadFrameDeliver cluster) :=
  ⟨rfl, fun _ h => nomatch h⟩
theorem Encoded.channelWake (core : Nat) (slot : Nat) : Encoded.Statement (.channelWake core slot) :=
  ⟨rfl, fun _ h => nomatch h⟩
theorem Encoded.proxyBatchTimeout (core : Nat) (chan : Nat) : Encoded.Statement (.proxyBatchTimeout core chan) :=
  ⟨rfl, fun _ h => nomatch h⟩
theorem Encoded.proxyDelivery (id : Nat) : Encoded.Statement (.proxyDelivery id) :=
  ⟨rfl, fun _ h => nomatch h⟩
theorem Encoded.proxyCreditReturn (id : Nat) : Encoded.Statement (.proxyCreditReturn id) :=
  ⟨rfl, fun _ h => nomatch h⟩
theorem Encoded.coreSleep (core : Nat) : Encoded.Statement (.coreSleep core) :=
  ⟨rfl, fun _ h => nomatch h⟩
theorem Encoded.coreWake (core : Nat) (failed : List Nat) : Encoded.Statement (.coreWake core failed) :=
  ⟨rfl, fun _ h => nomatch h⟩
theorem Encoded.ldfWake (core : Nat) (slot : Nat) : Encoded.Statement (.ldfWake core slot) :=
  ⟨rfl, fun _ h => nomatch h⟩
theorem Encoded.storeBufferDrain (core : Nat) (pos : Nat) : Encoded.Statement (.storeBufferDrain core pos) :=
  ⟨rfl, fun _ h => nomatch h⟩
theorem Encoded.sliceAtomic (id : Nat) : Encoded.Statement (.sliceAtomic id) :=
  ⟨rfl, fun _ h => nomatch h⟩
theorem Encoded.watchWake (core : Nat) (slot : Nat) : Encoded.Statement (.watchWake core slot) :=
  ⟨rfl, fun _ h => nomatch h⟩
theorem Encoded.watchPoll (core : Nat) (slot : Nat) : Encoded.Statement (.watchPoll core slot) :=
  ⟨rfl, fun _ h => nomatch h⟩
theorem Encoded.tableWalk (core : Nat) (va : Word) (acc : Nat) : Encoded.Statement (.tableWalk core va acc) :=
  ⟨rfl, fun _ h => nomatch h⟩
theorem Encoded.faultMessage (part : Nat) (pos : Nat) : Encoded.Statement (.faultMessage part pos) :=
  ⟨rfl, fun _ h => nomatch h⟩
theorem Encoded.releaseProbeEcho (core : Nat) (slot : Nat) (slice : Nat) : Encoded.Statement (.releaseProbeEcho core slot slice) :=
  ⟨rfl, fun _ h => nomatch h⟩
theorem Encoded.storeAck (id : Nat) : Encoded.Statement (.storeAck id) :=
  ⟨rfl, fun _ h => nomatch h⟩
theorem Encoded.joinwWake (core : Nat) (slot : Nat) : Encoded.Statement (.joinwWake core slot) :=
  ⟨rfl, fun _ h => nomatch h⟩
theorem Encoded.kwaitWake (core : Nat) (slot : Nat) : Encoded.Statement (.kwaitWake core slot) :=
  ⟨rfl, fun _ h => nomatch h⟩
theorem Encoded.parkExpire (core : Nat) (slot : Nat) : Encoded.Statement (.parkExpire core slot) :=
  ⟨rfl, fun _ h => nomatch h⟩
theorem Encoded.lreqWake (part : Nat) : Encoded.Statement (.lreqWake part) :=
  ⟨rfl, fun _ h => nomatch h⟩
theorem Encoded.payaWake (cluster : Nat) : Encoded.Statement (.payaWake cluster) :=
  ⟨rfl, fun _ h => nomatch h⟩
theorem Encoded.spawnRingWake (core : Nat) (slot : Nat) : Encoded.Statement (.spawnRingWake core slot) :=
  ⟨rfl, fun _ h => nomatch h⟩
theorem Encoded.stopwComplete (core : Nat) (slot : Nat) : Encoded.Statement (.stopwComplete core slot) :=
  ⟨rfl, fun _ h => nomatch h⟩
theorem Encoded.tlbinvComplete (core : Nat) (slot : Nat) : Encoded.Statement (.tlbinvComplete core slot) :=
  ⟨rfl, fun _ h => nomatch h⟩
theorem Encoded.vectorEntryPerform (core : Nat) (slot : Nat) : Encoded.Statement (.vectorEntryPerform core slot) :=
  ⟨rfl, fun _ h => nomatch h⟩
theorem Encoded.lateTrapEntry (core : Nat) (slot : Nat) : Encoded.Statement (.lateTrapEntry core slot) :=
  ⟨rfl, fun _ h => nomatch h⟩
theorem Encoded.enqAccept (core : Nat) (slot : Nat) : Encoded.Statement (.enqAccept core slot) :=
  ⟨rfl, fun _ h => nomatch h⟩
theorem Encoded.waitjWake (core : Nat) (slot : Nat) : Encoded.Statement (.waitjWake core slot) :=
  ⟨rfl, fun _ h => nomatch h⟩
theorem Encoded.engineBadcmd (cluster : Nat) (eng : Nat) : Encoded.Statement (.engineBadcmd cluster eng) :=
  ⟨rfl, fun _ h => nomatch h⟩
theorem Encoded.lds (cluster : Nat) : Encoded.Statement (.lds cluster) :=
  ⟨rfl, fun _ h => nomatch h⟩
theorem Encoded.mma (cluster : Nat) : Encoded.Statement (.mma cluster) :=
  ⟨rfl, fun _ h => nomatch h⟩
theorem Encoded.sta (cluster : Nat) : Encoded.Statement (.sta cluster) :=
  ⟨rfl, fun _ h => nomatch h⟩
theorem Encoded.aclr (cluster : Nat) : Encoded.Statement (.aclr cluster) :=
  ⟨rfl, fun _ h => nomatch h⟩
theorem Encoded.swaps (cluster : Nat) : Encoded.Statement (.swaps cluster) :=
  ⟨rfl, fun _ h => nomatch h⟩
theorem Encoded.cmma (cluster : Nat) : Encoded.Statement (.cmma cluster) :=
  ⟨rfl, fun _ h => nomatch h⟩
theorem Encoded.mstat (cluster : Nat) : Encoded.Statement (.mstat cluster) :=
  ⟨rfl, fun _ h => nomatch h⟩
theorem Encoded.fft (cluster : Nat) : Encoded.Statement (.fft cluster) :=
  ⟨rfl, fun _ h => nomatch h⟩
theorem Encoded.ifft (cluster : Nat) : Encoded.Statement (.ifft cluster) :=
  ⟨rfl, fun _ h => nomatch h⟩
theorem Encoded.xact (cluster : Nat) : Encoded.Statement (.xact cluster) :=
  ⟨rfl, fun _ h => nomatch h⟩
theorem Encoded.cpy (cluster : Nat) (chan : Nat) : Encoded.Statement (.cpy cluster chan) :=
  ⟨rfl, fun _ h => nomatch h⟩
theorem Encoded.gthr (cluster : Nat) (chan : Nat) : Encoded.Statement (.gthr cluster chan) :=
  ⟨rfl, fun _ h => nomatch h⟩
theorem Encoded.sctr (cluster : Nat) (chan : Nat) : Encoded.Statement (.sctr cluster chan) :=
  ⟨rfl, fun _ h => nomatch h⟩
theorem Encoded.fill (cluster : Nat) (chan : Nat) : Encoded.Statement (.fill cluster chan) :=
  ⟨rfl, fun _ h => nomatch h⟩
theorem Encoded.ared (cluster : Nat) (chan : Nat) : Encoded.Statement (.ared cluster chan) :=
  ⟨rfl, fun _ h => nomatch h⟩
theorem Encoded.bcst (cluster : Nat) (chan : Nat) : Encoded.Statement (.bcst cluster chan) :=
  ⟨rfl, fun _ h => nomatch h⟩
theorem Encoded.agth (cluster : Nat) (chan : Nat) : Encoded.Statement (.agth cluster chan) :=
  ⟨rfl, fun _ h => nomatch h⟩
theorem Encoded.collectiveContribution (msg : Contribution) : Encoded.Statement (.collectiveContribution msg) :=
  ⟨rfl, fun _ h => nomatch h⟩
theorem Encoded.collectiveTimeout (cluster : Nat) (chan : Nat) : Encoded.Statement (.collectiveTimeout cluster chan) :=
  ⟨rfl, fun _ h => nomatch h⟩
theorem Encoded.hcfgWrite (core : Nat) (slot : Nat) (eng : Nat) (v : Word) : Encoded.Statement (.hcfgWrite core slot eng v) :=
  ⟨rfl, fun _ h => nomatch h⟩
theorem Encoded.cpreqPreempt (core : Nat) (slot : Nat) (v : Word) : Encoded.Statement (.cpreqPreempt core slot v) :=
  ⟨rfl, fun _ h => nomatch h⟩
theorem Encoded.preemptSave (core : Nat) : Encoded.Statement (.preemptSave core) :=
  ⟨rfl, fun _ h => nomatch h⟩
theorem Encoded.cpreqResume (core : Nat) (slot : Nat) (v : Word) : Encoded.Statement (.cpreqResume core slot v) :=
  ⟨rfl, fun _ h => nomatch h⟩
theorem Encoded.dbgsStop (core : Nat) (slot : Nat) (v : Word) : Encoded.Statement (.dbgsStop core slot v) :=
  ⟨rfl, fun _ h => nomatch h⟩
theorem Encoded.dbgsResume (core : Nat) (slot : Nat) (v : Word) : Encoded.Statement (.dbgsResume core slot v) :=
  ⟨rfl, fun _ h => nomatch h⟩
theorem Encoded.dbgdRead (core : Nat) (slot : Nat) (d : Code) : Encoded.Statement (.dbgdRead core slot d) :=
  ⟨rfl, fun _ h => nomatch h⟩
theorem Encoded.dbgdWrite (core : Nat) (slot : Nat) (v : Word) : Encoded.Statement (.dbgdWrite core slot v) :=
  ⟨rfl, fun _ h => nomatch h⟩
theorem Encoded.eccCorrected (loc : ErrLoc) : Encoded.Statement (.eccCorrected loc) :=
  ⟨rfl, fun _ h => nomatch h⟩
theorem Encoded.eccUncorrectable (loc : ErrLoc) : Encoded.Statement (.eccUncorrectable loc) :=
  ⟨rfl, fun _ h => nomatch h⟩
theorem Encoded.machineCheck (part : Option Nat) : Encoded.Statement (.machineCheck part) :=
  ⟨rfl, fun _ h => nomatch h⟩
theorem Encoded.ocfgEnable (core : Nat) (slot : Nat) (v : Word) : Encoded.Statement (.ocfgEnable core slot v) :=
  ⟨rfl, fun _ h => nomatch h⟩
theorem Encoded.stateLogTimeout (core : Nat) : Encoded.Statement (.stateLogTimeout core) :=
  ⟨rfl, fun _ h => nomatch h⟩
theorem Encoded.ringFetchFault (part : Nat) (q : Nat) : Encoded.Statement (.ringFetchFault part q) :=
  ⟨rfl, fun _ h => nomatch h⟩
theorem Encoded.badpkt (part : Nat) (q : Nat) : Encoded.Statement (.badpkt part q) :=
  ⟨rfl, fun _ h => nomatch h⟩
theorem Encoded.acceptanceReply (id : Nat) : Encoded.Statement (.acceptanceReply id) :=
  ⟨rfl, fun _ h => nomatch h⟩

end Sys2Proof.Laws
end

