-- ==== Sys2Proof/Laws/Shell.lean ====
section
/-!
SUPPORT. Every instruction of the Kamlyn set issues through its shell: what holds of the shell holds of all of them.
-/

namespace Sys2Proof.Machine

/-- The instruction is an effect issued through a shell. -/
def ThroughShell (i : Instr) (sh : Shell) : Prop :=
  ∃ body : State → State, ∀ s, exec i s = issueWith sh.wait sh.len sh.pred sh.dst sh.srcs body s

theorem shell_add (p : Pred) (d a b : Code) {hull : Shell}
    (h : Instr.shell (.add p d a b) = some hull) : ThroughShell (.add p d a b) hull := by
  cases h
  refine ⟨?_, fun s => ?_⟩
  rotate_left
  · rw [exec_add]
    unfold execAdd compute2 issue
    rfl
theorem shell_sub (p : Pred) (d a b : Code) {hull : Shell}
    (h : Instr.shell (.sub p d a b) = some hull) : ThroughShell (.sub p d a b) hull := by
  cases h
  refine ⟨?_, fun s => ?_⟩
  rotate_left
  · rw [exec_sub]
    unfold execSub compute2 issue
    rfl
theorem shell_mul (p : Pred) (d a b : Code) {hull : Shell}
    (h : Instr.shell (.mul p d a b) = some hull) : ThroughShell (.mul p d a b) hull := by
  cases h
  refine ⟨?_, fun s => ?_⟩
  rotate_left
  · rw [exec_mul]
    unfold execMul compute2 issue
    rfl
theorem shell_mulh (p : Pred) (d a b : Code) {hull : Shell}
    (h : Instr.shell (.mulh p d a b) = some hull) : ThroughShell (.mulh p d a b) hull := by
  cases h
  refine ⟨?_, fun s => ?_⟩
  rotate_left
  · rw [exec_mulh]
    unfold execMulh compute2 issue
    rfl
theorem shell_mulhz (p : Pred) (d a b : Code) {hull : Shell}
    (h : Instr.shell (.mulhz p d a b) = some hull) : ThroughShell (.mulhz p d a b) hull := by
  cases h
  refine ⟨?_, fun s => ?_⟩
  rotate_left
  · rw [exec_mulhz]
    unfold execMulhz compute2 issue
    rfl
theorem shell_div (p : Pred) (d a b : Code) {hull : Shell}
    (h : Instr.shell (.div p d a b) = some hull) : ThroughShell (.div p d a b) hull := by
  cases h
  refine ⟨?_, fun s => ?_⟩
  rotate_left
  · rw [exec_div]
    unfold execDiv compute2 issue
    rfl
theorem shell_divz (p : Pred) (d a b : Code) {hull : Shell}
    (h : Instr.shell (.divz p d a b) = some hull) : ThroughShell (.divz p d a b) hull := by
  cases h
  refine ⟨?_, fun s => ?_⟩
  rotate_left
  · rw [exec_divz]
    unfold execDivz compute2 issue
    rfl
theorem shell_rem (p : Pred) (d a b : Code) {hull : Shell}
    (h : Instr.shell (.rem p d a b) = some hull) : ThroughShell (.rem p d a b) hull := by
  cases h
  refine ⟨?_, fun s => ?_⟩
  rotate_left
  · rw [exec_rem]
    unfold execRem compute2 issue
    rfl
theorem shell_remz (p : Pred) (d a b : Code) {hull : Shell}
    (h : Instr.shell (.remz p d a b) = some hull) : ThroughShell (.remz p d a b) hull := by
  cases h
  refine ⟨?_, fun s => ?_⟩
  rotate_left
  · rw [exec_remz]
    unfold execRemz compute2 issue
    rfl
theorem shell_and (p : Pred) (d a b : Code) {hull : Shell}
    (h : Instr.shell (.and p d a b) = some hull) : ThroughShell (.and p d a b) hull := by
  cases h
  refine ⟨?_, fun s => ?_⟩
  rotate_left
  · rw [exec_and]
    unfold execAnd compute2 issue
    rfl
theorem shell_or (p : Pred) (d a b : Code) {hull : Shell}
    (h : Instr.shell (.or p d a b) = some hull) : ThroughShell (.or p d a b) hull := by
  cases h
  refine ⟨?_, fun s => ?_⟩
  rotate_left
  · rw [exec_or]
    unfold execOr compute2 issue
    rfl
theorem shell_xor (p : Pred) (d a b : Code) {hull : Shell}
    (h : Instr.shell (.xor p d a b) = some hull) : ThroughShell (.xor p d a b) hull := by
  cases h
  refine ⟨?_, fun s => ?_⟩
  rotate_left
  · rw [exec_xor]
    unfold execXor compute2 issue
    rfl
theorem shell_andn (p : Pred) (d a b : Code) {hull : Shell}
    (h : Instr.shell (.andn p d a b) = some hull) : ThroughShell (.andn p d a b) hull := by
  cases h
  refine ⟨?_, fun s => ?_⟩
  rotate_left
  · rw [exec_andn]
    unfold execAndn compute2 issue
    rfl
theorem shell_shl (p : Pred) (d a b : Code) {hull : Shell}
    (h : Instr.shell (.shl p d a b) = some hull) : ThroughShell (.shl p d a b) hull := by
  cases h
  refine ⟨?_, fun s => ?_⟩
  rotate_left
  · rw [exec_shl]
    unfold execShl compute2 issue
    rfl
theorem shell_shr (p : Pred) (d a b : Code) {hull : Shell}
    (h : Instr.shell (.shr p d a b) = some hull) : ThroughShell (.shr p d a b) hull := by
  cases h
  refine ⟨?_, fun s => ?_⟩
  rotate_left
  · rw [exec_shr]
    unfold execShr compute2 issue
    rfl
theorem shell_sha (p : Pred) (d a b : Code) {hull : Shell}
    (h : Instr.shell (.sha p d a b) = some hull) : ThroughShell (.sha p d a b) hull := by
  cases h
  refine ⟨?_, fun s => ?_⟩
  rotate_left
  · rw [exec_sha]
    unfold execSha compute2 issue
    rfl
theorem shell_rol (p : Pred) (d a b : Code) {hull : Shell}
    (h : Instr.shell (.rol p d a b) = some hull) : ThroughShell (.rol p d a b) hull := by
  cases h
  refine ⟨?_, fun s => ?_⟩
  rotate_left
  · rw [exec_rol]
    unfold execRol compute2 issue
    rfl
theorem shell_min (p : Pred) (d a b : Code) {hull : Shell}
    (h : Instr.shell (.min p d a b) = some hull) : ThroughShell (.min p d a b) hull := by
  cases h
  refine ⟨?_, fun s => ?_⟩
  rotate_left
  · rw [exec_min]
    unfold execMin compute2 issue
    rfl
theorem shell_max (p : Pred) (d a b : Code) {hull : Shell}
    (h : Instr.shell (.max p d a b) = some hull) : ThroughShell (.max p d a b) hull := by
  cases h
  refine ⟨?_, fun s => ?_⟩
  rotate_left
  · rw [exec_max]
    unfold execMax compute2 issue
    rfl
theorem shell_minz (p : Pred) (d a b : Code) {hull : Shell}
    (h : Instr.shell (.minz p d a b) = some hull) : ThroughShell (.minz p d a b) hull := by
  cases h
  refine ⟨?_, fun s => ?_⟩
  rotate_left
  · rw [exec_minz]
    unfold execMinz compute2 issue
    rfl
theorem shell_maxz (p : Pred) (d a b : Code) {hull : Shell}
    (h : Instr.shell (.maxz p d a b) = some hull) : ThroughShell (.maxz p d a b) hull := by
  cases h
  refine ⟨?_, fun s => ?_⟩
  rotate_left
  · rw [exec_maxz]
    unfold execMaxz compute2 issue
    rfl
theorem shell_clz (p : Pred) (d a : Code) {hull : Shell}
    (h : Instr.shell (.clz p d a) = some hull) : ThroughShell (.clz p d a) hull := by
  cases h
  refine ⟨?_, fun s => ?_⟩
  rotate_left
  · rw [exec_clz]
    unfold execClz compute1 issue
    rfl
theorem shell_popc (p : Pred) (d a : Code) {hull : Shell}
    (h : Instr.shell (.popc p d a) = some hull) : ThroughShell (.popc p d a) hull := by
  cases h
  refine ⟨?_, fun s => ?_⟩
  rotate_left
  · rw [exec_popc]
    unfold execPopc compute1 issue
    rfl
theorem shell_brev (p : Pred) (d a : Code) {hull : Shell}
    (h : Instr.shell (.brev p d a) = some hull) : ThroughShell (.brev p d a) hull := by
  cases h
  refine ⟨?_, fun s => ?_⟩
  rotate_left
  · rw [exec_brev]
    unfold execBrev compute1 issue
    rfl
theorem shell_madd (p : Pred) (d a b c : Code) {hull : Shell}
    (h : Instr.shell (.madd p d a b c) = some hull) : ThroughShell (.madd p d a b c) hull := by
  cases h
  refine ⟨?_, fun s => ?_⟩
  rotate_left
  · rw [exec_madd]
    unfold execMadd compute3 issue
    rfl
theorem shell_bfx (p : Pred) (d a : Code) (sx : Bool) (pos : Fin 64) (len : Fin 65) {hull : Shell}
    (h : Instr.shell (.bfx p d a sx pos len) = some hull) : ThroughShell (.bfx p d a sx pos len) hull := by
  cases h
  refine ⟨?_, fun s => ?_⟩
  rotate_left
  · rw [exec_bfx]
    unfold execBfx compute1 issue
    rfl
theorem shell_bfi (p : Pred) (d a b : Code) (pos : Fin 64) (len : Fin 65) {hull : Shell}
    (h : Instr.shell (.bfi p d a b pos len) = some hull) : ThroughShell (.bfi p d a b pos len) hull := by
  cases h
  refine ⟨?_, fun s => ?_⟩
  rotate_left
  · rw [exec_bfi]
    unfold execBfi compute2 issue
    rfl
theorem shell_addw (p : Pred) (d a b : Code) {hull : Shell}
    (h : Instr.shell (.addw p d a b) = some hull) : ThroughShell (.addw p d a b) hull := by
  cases h
  refine ⟨?_, fun s => ?_⟩
  rotate_left
  · rw [exec_addw]
    unfold execAddw compute2 issue
    rfl
theorem shell_subw (p : Pred) (d a b : Code) {hull : Shell}
    (h : Instr.shell (.subw p d a b) = some hull) : ThroughShell (.subw p d a b) hull := by
  cases h
  refine ⟨?_, fun s => ?_⟩
  rotate_left
  · rw [exec_subw]
    unfold execSubw compute2 issue
    rfl
theorem shell_mulw (p : Pred) (d a b : Code) {hull : Shell}
    (h : Instr.shell (.mulw p d a b) = some hull) : ThroughShell (.mulw p d a b) hull := by
  cases h
  refine ⟨?_, fun s => ?_⟩
  rotate_left
  · rw [exec_mulw]
    unfold execMulw compute2 issue
    rfl
theorem shell_addi (p : Pred) (d a : Code) (imm : BitVec 33) {hull : Shell}
    (h : Instr.shell (.addi p d a imm) = some hull) : ThroughShell (.addi p d a imm) hull := by
  cases h
  refine ⟨?_, fun s => ?_⟩
  rotate_left
  · rw [exec_addi]
    unfold execAddi compute1 issue
    rfl
theorem shell_andi (p : Pred) (d a : Code) (imm : BitVec 33) {hull : Shell}
    (h : Instr.shell (.andi p d a imm) = some hull) : ThroughShell (.andi p d a imm) hull := by
  cases h
  refine ⟨?_, fun s => ?_⟩
  rotate_left
  · rw [exec_andi]
    unfold execAndi compute1 issue
    rfl
theorem shell_ori (p : Pred) (d a : Code) (imm : BitVec 33) {hull : Shell}
    (h : Instr.shell (.ori p d a imm) = some hull) : ThroughShell (.ori p d a imm) hull := by
  cases h
  refine ⟨?_, fun s => ?_⟩
  rotate_left
  · rw [exec_ori]
    unfold execOri compute1 issue
    rfl
theorem shell_xori (p : Pred) (d a : Code) (imm : BitVec 33) {hull : Shell}
    (h : Instr.shell (.xori p d a imm) = some hull) : ThroughShell (.xori p d a imm) hull := by
  cases h
  refine ⟨?_, fun s => ?_⟩
  rotate_left
  · rw [exec_xori]
    unfold execXori compute1 issue
    rfl
theorem shell_shli (p : Pred) (d a : Code) (sh : Fin 64) {hull : Shell}
    (h : Instr.shell (.shli p d a sh) = some hull) : ThroughShell (.shli p d a sh) hull := by
  cases h
  refine ⟨?_, fun s => ?_⟩
  rotate_left
  · rw [exec_shli]
    unfold execShli compute1 issue
    rfl
theorem shell_shri (p : Pred) (d a : Code) (sh : Fin 64) {hull : Shell}
    (h : Instr.shell (.shri p d a sh) = some hull) : ThroughShell (.shri p d a sh) hull := by
  cases h
  refine ⟨?_, fun s => ?_⟩
  rotate_left
  · rw [exec_shri]
    unfold execShri compute1 issue
    rfl
theorem shell_shai (p : Pred) (d a : Code) (sh : Fin 64) {hull : Shell}
    (h : Instr.shell (.shai p d a sh) = some hull) : ThroughShell (.shai p d a sh) hull := by
  cases h
  refine ⟨?_, fun s => ?_⟩
  rotate_left
  · rw [exec_shai]
    unfold execShai compute1 issue
    rfl
theorem shell_muli (p : Pred) (d a : Code) (imm : BitVec 33) {hull : Shell}
    (h : Instr.shell (.muli p d a imm) = some hull) : ThroughShell (.muli p d a imm) hull := by
  cases h
  refine ⟨?_, fun s => ?_⟩
  rotate_left
  · rw [exec_muli]
    unfold execMuli compute1 issue
    rfl
theorem shell_ldi (p : Pred) (d : Code) (imm : BitVec 33) {hull : Shell}
    (h : Instr.shell (.ldi p d imm) = some hull) : ThroughShell (.ldi p d imm) hull := by
  cases h
  refine ⟨?_, fun s => ?_⟩
  rotate_left
  · rw [exec_ldi]
    unfold execLdi compute0 issue
    rfl
theorem shell_ldih (p : Pred) (d a : Code) (imm : BitVec 31) {hull : Shell}
    (h : Instr.shell (.ldih p d a imm) = some hull) : ThroughShell (.ldih p d a imm) hull := by
  cases h
  refine ⟨?_, fun s => ?_⟩
  rotate_left
  · rw [exec_ldih]
    unfold execLdih compute1 issue
    rfl
theorem shell_lea (p : Pred) (d b : Code) (off : BitVec 17) {hull : Shell}
    (h : Instr.shell (.lea p d b off) = some hull) : ThroughShell (.lea p d b off) hull := by
  cases h
  refine ⟨?_, fun s => ?_⟩
  rotate_left
  · rw [exec_lea]
    unfold execLea compute1 issue
    rfl
theorem shell_mov (p : Pred) (d a : Code) {hull : Shell}
    (h : Instr.shell (.mov p d a) = some hull) : ThroughShell (.mov p d a) hull := by
  cases h
  refine ⟨?_, fun s => ?_⟩
  rotate_left
  · rw [exec_mov]
    unfold execMov compute1 issue
    rfl
theorem shell_getid (p : Pred) (d : Code) (sel : Fin 15) {hull : Shell}
    (h : Instr.shell (.getid p d sel) = some hull) : ThroughShell (.getid p d sel) hull := by
  cases h
  refine ⟨?_, fun s => ?_⟩
  rotate_left
  · rw [exec_getid]
    unfold execGetid compute0 issue
    rfl
theorem shell_cmp (p : Pred) (pd : Fin 8) (a b : Code) (cc : CC) {hull : Shell}
    (h : Instr.shell (.cmp p pd a b cc) = some hull) : ThroughShell (.cmp p pd a b cc) hull := by
  cases h
  refine ⟨?_, fun s => ?_⟩
  rotate_left
  · rw [exec_cmp]
    unfold execCmp issue
    rfl
theorem shell_cmpi (p : Pred) (pd : Fin 8) (a : Code) (cc : CC) (imm : BitVec 33) {hull : Shell}
    (h : Instr.shell (.cmpi p pd a cc imm) = some hull) : ThroughShell (.cmpi p pd a cc imm) hull := by
  cases h
  refine ⟨?_, fun s => ?_⟩
  rotate_left
  · rw [exec_cmpi]
    unfold execCmpi issue
    rfl
theorem shell_plog (p : Pred) (pd pa pb : Fin 8) (op : PlogOp) {hull : Shell}
    (h : Instr.shell (.plog p pd pa pb op) = some hull) : ThroughShell (.plog p pd pa pb op) hull := by
  cases h
  refine ⟨?_, fun s => ?_⟩
  rotate_left
  · rw [exec_plog]
    unfold execPlog issue
    rfl
theorem shell_sel (p : Pred) (d : Code) (ps : Fin 8) (ns : Bool) (a b : Code) {hull : Shell}
    (h : Instr.shell (.sel p d ps ns a b) = some hull) : ThroughShell (.sel p d ps ns a b) hull := by
  cases h
  refine ⟨?_, fun s => ?_⟩
  rotate_left
  · rw [exec_sel]
    unfold execSel issue
    rfl
theorem shell_pget (p : Pred) (d : Code) {hull : Shell}
    (h : Instr.shell (.pget p d) = some hull) : ThroughShell (.pget p d) hull := by
  cases h
  refine ⟨?_, fun s => ?_⟩
  rotate_left
  · rw [exec_pget]
    unfold execPget compute0 issue
    rfl
theorem shell_pset (p : Pred) (a : Code) {hull : Shell}
    (h : Instr.shell (.pset p a) = some hull) : ThroughShell (.pset p a) hull := by
  cases h
  refine ⟨?_, fun s => ?_⟩
  rotate_left
  · rw [exec_pset]
    unfold execPset issue
    rfl
theorem shell_br (p : Pred) (imm : BitVec 41) {hull : Shell}
    (h : Instr.shell (.br p imm) = some hull) : ThroughShell (.br p imm) hull := by
  cases h
  refine ⟨?_, fun s => ?_⟩
  rotate_left
  · rw [exec_br]
    unfold execBr issue
    rfl
theorem shell_jmp (p : Pred) (a : Code) {hull : Shell}
    (h : Instr.shell (.jmp p a) = some hull) : ThroughShell (.jmp p a) hull := by
  cases h
  refine ⟨?_, fun s => ?_⟩
  rotate_left
  · rw [exec_jmp]
    unfold execJmp issue
    rfl
theorem shell_call (p : Pred) (d : Code) (imm : BitVec 41) {hull : Shell}
    (h : Instr.shell (.call p d imm) = some hull) : ThroughShell (.call p d imm) hull := by
  cases h
  refine ⟨?_, fun s => ?_⟩
  rotate_left
  · rw [exec_call]
    unfold execCall issue
    rfl
theorem shell_callr (p : Pred) (d a : Code) {hull : Shell}
    (h : Instr.shell (.callr p d a) = some hull) : ThroughShell (.callr p d a) hull := by
  cases h
  refine ⟨?_, fun s => ?_⟩
  rotate_left
  · rw [exec_callr]
    unfold execCallr issue
    rfl
theorem shell_ret (p : Pred) (a : Code) {hull : Shell}
    (h : Instr.shell (.ret p a) = some hull) : ThroughShell (.ret p a) hull := by
  cases h
  refine ⟨?_, fun s => ?_⟩
  rotate_left
  · rw [exec_ret]
    unfold execRet issue
    rfl
theorem shell_loop (p : Pred) (d : Code) (imm : BitVec 41) {hull : Shell}
    (h : Instr.shell (.loop p d imm) = some hull) : ThroughShell (.loop p d imm) hull := by
  cases h
  refine ⟨?_, fun s => ?_⟩
  rotate_left
  · rw [exec_loop]
    unfold execLoop issue
    rfl
theorem shell_nop (p : Pred) {hull : Shell}
    (h : Instr.shell (.nop p) = some hull) : ThroughShell (.nop p) hull := by
  cases h
  refine ⟨?_, fun s => ?_⟩
  rotate_left
  · rw [exec_nop]
    unfold execNop issue
    rfl
theorem shell_exit (p : Pred) {hull : Shell}
    (h : Instr.shell (.exit p) = some hull) : ThroughShell (.exit p) hull := by
  cases h
  refine ⟨?_, fun s => ?_⟩
  rotate_left
  · rw [exec_exit]
    unfold execExit issue
    rfl
theorem shell_ld (p : Pred) (d b : Code) (off : BitVec 17) (sz : Size) (sx loc : Bool) {hull : Shell}
    (h : Instr.shell (.ld p d b off sz sx loc) = some hull) : ThroughShell (.ld p d b off sz sx loc) hull := by
  cases h
  refine ⟨?_, fun s => ?_⟩
  rotate_left
  · rw [exec_ld]
    unfold execLd issue
    rfl
theorem shell_st (p : Pred) (b a : Code) (off : BitVec 17) (sz : Size) (loc : Bool) {hull : Shell}
    (h : Instr.shell (.st p b a off sz loc) = some hull) : ThroughShell (.st p b a off sz loc) hull := by
  cases h
  refine ⟨?_, fun s => ?_⟩
  rotate_left
  · rw [exec_st]
    unfold execSt issue
    rfl
theorem shell_ldx (p : Pred) (d b c : Code) (sz : Size) (sx loc : Bool) {hull : Shell}
    (h : Instr.shell (.ldx p d b c sz sx loc) = some hull) : ThroughShell (.ldx p d b c sz sx loc) hull := by
  cases h
  refine ⟨?_, fun s => ?_⟩
  rotate_left
  · rw [exec_ldx]
    unfold execLdx issue
    rfl
theorem shell_stx (p : Pred) (a b c : Code) (sz : Size) (loc : Bool) {hull : Shell}
    (h : Instr.shell (.stx p a b c sz loc) = some hull) : ThroughShell (.stx p a b c sz loc) hull := by
  cases h
  refine ⟨?_, fun s => ?_⟩
  rotate_left
  · rw [exec_stx]
    unfold execStx issue
    rfl
theorem shell_lda (p : Pred) (d b : Code) (off : BitVec 17) (sz : Size) (sx loc : Bool) (sc : Scope) {hull : Shell}
    (h : Instr.shell (.lda p d b off sz sx loc sc) = some hull) : ThroughShell (.lda p d b off sz sx loc sc) hull := by
  cases h
  refine ⟨?_, fun s => ?_⟩
  rotate_left
  · rw [exec_lda]
    unfold execLda issue
    rfl
theorem shell_stl (p : Pred) (b a : Code) (off : BitVec 17) (sz : Size) (loc : Bool) (sc : Scope) {hull : Shell}
    (h : Instr.shell (.stl p b a off sz loc sc) = some hull) : ThroughShell (.stl p b a off sz loc sc) hull := by
  cases h
  refine ⟨?_, fun s => ?_⟩
  rotate_left
  · rw [exec_stl]
    unfold execStl issue
    rfl
theorem shell_ldf (p : Pred) (d b : Code) (off : BitVec 17) (sz : Size) (sx loc cn : Bool) {hull : Shell}
    (h : Instr.shell (.ldf p d b off sz sx loc cn) = some hull) : ThroughShell (.ldf p d b off sz sx loc cn) hull := by
  cases h
  refine ⟨?_, fun s => ?_⟩
  rotate_left
  · rw [exec_ldf]
    unfold execLdf issue
    rfl
theorem shell_stf (p : Pred) (b a : Code) (off : BitVec 17) (sz : Size) (loc : Bool) {hull : Shell}
    (h : Instr.shell (.stf p b a off sz loc) = some hull) : ThroughShell (.stf p b a off sz loc) hull := by
  cases h
  refine ⟨?_, fun s => ?_⟩
  rotate_left
  · rw [exec_stf]
    unfold execStf issue
    rfl
theorem shell_clre (p : Pred) (b a : Code) (off : BitVec 17) (loc : Bool) {hull : Shell}
    (h : Instr.shell (.clre p b a off loc) = some hull) : ThroughShell (.clre p b a off loc) hull := by
  cases h
  refine ⟨?_, fun s => ?_⟩
  rotate_left
  · rw [exec_clre]
    unfold execClre issue
    rfl
theorem shell_pref (p : Pred) (b : Code) (off : BitVec 17) {hull : Shell}
    (h : Instr.shell (.pref p b off) = some hull) : ThroughShell (.pref p b off) hull := by
  cases h
  refine ⟨?_, fun s => ?_⟩
  rotate_left
  · rw [exec_pref]
    unfold execPref issue
    rfl
theorem shell_amo (p : Pred) (d b a : Code) (op : AtOp) (m : AtMod) {hull : Shell}
    (h : Instr.shell (.amo p d b a op m) = some hull) : ThroughShell (.amo p d b a op m) hull := by
  cases h
  refine ⟨?_, fun s => ?_⟩
  rotate_left
  · rw [exec_amo]
    unfold execAmo issue
    rfl
theorem shell_cas (p : Pred) (d b a c : Code) (m : AtMod) {hull : Shell}
    (h : Instr.shell (.cas p d b a c m) = some hull) : ThroughShell (.cas p d b a c m) hull := by
  cases h
  refine ⟨?_, fun s => ?_⟩
  rotate_left
  · rw [exec_cas]
    unfold execCas issue
    rfl
theorem shell_red (p : Pred) (b a : Code) (op : AtOp) (m : AtMod) {hull : Shell}
    (h : Instr.shell (.red p b a op m) = some hull) : ThroughShell (.red p b a op m) hull := by
  cases h
  refine ⟨?_, fun s => ?_⟩
  rotate_left
  · rw [exec_red]
    unfold execRed issue
    rfl
theorem shell_famo (p : Pred) (d b a : Code) (op : FAtOp) (m : AtMod) {hull : Shell}
    (h : Instr.shell (.famo p d b a op m) = some hull) : ThroughShell (.famo p d b a op m) hull := by
  cases h
  refine ⟨?_, fun s => ?_⟩
  rotate_left
  · rw [exec_famo]
    unfold execFamo issue
    rfl
theorem shell_fred (p : Pred) (b a : Code) (op : FAtOp) (m : AtMod) {hull : Shell}
    (h : Instr.shell (.fred p b a op m) = some hull) : ThroughShell (.fred p b a op m) hull := by
  cases h
  refine ⟨?_, fun s => ?_⟩
  rotate_left
  · rw [exec_fred]
    unfold execFred issue
    rfl
theorem shell_watch (p : Pred) (b a : Code) (off : BitVec 17) (sz : Size) (cmp : WCmp) (sc : Scope) {hull : Shell}
    (h : Instr.shell (.watch p b a off sz cmp sc) = some hull) : ThroughShell (.watch p b a off sz cmp sc) hull := by
  cases h
  refine ⟨?_, fun s => ?_⟩
  rotate_left
  · rw [exec_watch]
    unfold execWatch issue
    rfl
theorem shell_fence (p : Pred) (k : FenceKind) (sc : Scope) {hull : Shell}
    (h : Instr.shell (.fence p k sc) = some hull) : ThroughShell (.fence p k sc) hull := by
  cases h
  refine ⟨?_, fun s => ?_⟩
  rotate_left
  · rw [exec_fence]
    unfold execFence issue
    rfl
theorem shell_pfence (p : Pred) (k : PathKind) {hull : Shell}
    (h : Instr.shell (.pfence p k) = some hull) : ThroughShell (.pfence p k) hull := by
  cases h
  refine ⟨?_, fun s => ?_⟩
  rotate_left
  · rw [exec_pfence]
    unfold execPfence issue
    rfl
theorem shell_bar (p : Pred) (a b : Code) (sc : Scope) {hull : Shell}
    (h : Instr.shell (.bar p a b sc) = some hull) : ThroughShell (.bar p a b sc) hull := by
  cases h
  refine ⟨?_, fun s => ?_⟩
  rotate_left
  · rw [exec_bar]
    unfold execBar issue
    rfl
theorem shell_bara (p : Pred) (a b : Code) (sc : Scope) {hull : Shell}
    (h : Instr.shell (.bara p a b sc) = some hull) : ThroughShell (.bara p a b sc) hull := by
  cases h
  refine ⟨?_, fun s => ?_⟩
  rotate_left
  · rw [exec_bara]
    unfold execBara issue
    rfl
theorem shell_barw (p : Pred) (a b : Code) (sc : Scope) {hull : Shell}
    (h : Instr.shell (.barw p a b sc) = some hull) : ThroughShell (.barw p a b sc) hull := by
  cases h
  refine ⟨?_, fun s => ?_⟩
  rotate_left
  · rw [exec_barw]
    unfold execBarw issue
    rfl
theorem shell_qpeek (p : Pred) (d a : Code) {hull : Shell}
    (h : Instr.shell (.qpeek p d a) = some hull) : ThroughShell (.qpeek p d a) hull := by
  cases h
  refine ⟨?_, fun s => ?_⟩
  rotate_left
  · rw [exec_qpeek]
    unfold execQpeek issue
    rfl
theorem shell_qcnt (p : Pred) (d a : Code) {hull : Shell}
    (h : Instr.shell (.qcnt p d a) = some hull) : ThroughShell (.qcnt p d a) hull := by
  cases h
  refine ⟨?_, fun s => ?_⟩
  rotate_left
  · rw [exec_qcnt]
    unfold execQcnt issue
    rfl
theorem shell_qbind (p : Pred) (a b : Code) {hull : Shell}
    (h : Instr.shell (.qbind p a b) = some hull) : ThroughShell (.qbind p a b) hull := by
  cases h
  refine ⟨?_, fun s => ?_⟩
  rotate_left
  · rw [exec_qbind]
    unfold execQbind issue
    rfl
theorem shell_qflush (p : Pred) (a : Code) {hull : Shell}
    (h : Instr.shell (.qflush p a) = some hull) : ThroughShell (.qflush p a) hull := by
  cases h
  refine ⟨?_, fun s => ?_⟩
  rotate_left
  · rw [exec_qflush]
    unfold execQflush issue
    rfl
theorem shell_vsync (p : Pred) {hull : Shell}
    (h : Instr.shell (.vsync p) = some hull) : ThroughShell (.vsync p) hull := by
  cases h
  refine ⟨?_, fun s => ?_⟩
  rotate_left
  · rw [exec_vsync]
    unfold execVsync issue
    rfl
theorem shell_kwait (p : Pred) (a b : Code) (cmp : WCmp) {hull : Shell}
    (h : Instr.shell (.kwait p a b cmp) = some hull) : ThroughShell (.kwait p a b cmp) hull := by
  cases h
  refine ⟨?_, fun s => ?_⟩
  rotate_left
  · rw [exec_kwait]
    unfold execKwait issue
    rfl
theorem shell_spawn (p : Pred) (a b : Code) (deep : Bool) (dom : Fin 9) {hull : Shell}
    (h : Instr.shell (.spawn p a b deep dom) = some hull) : ThroughShell (.spawn p a b deep dom) hull := by
  cases h
  refine ⟨?_, fun s => ?_⟩
  rotate_left
  · rw [exec_spawn]
    unfold execSpawn issue
    rfl
theorem shell_joinw (p : Pred) (a : Code) (sc : Scope) {hull : Shell}
    (h : Instr.shell (.joinw p a sc) = some hull) : ThroughShell (.joinw p a sc) hull := by
  cases h
  refine ⟨?_, fun s => ?_⟩
  rotate_left
  · rw [exec_joinw]
    unfold execJoinw issue
    rfl
theorem shell_wfw (p : Pred) {hull : Shell}
    (h : Instr.shell (.wfw p) = some hull) : ThroughShell (.wfw p) hull := by
  cases h
  refine ⟨?_, fun s => ?_⟩
  rotate_left
  · rw [exec_wfw]
    unfold execWfw issue
    rfl
theorem shell_tnew (p : Pred) (d a : Code) (lim : Fin 17) {hull : Shell}
    (h : Instr.shell (.tnew p d a lim) = some hull) : ThroughShell (.tnew p d a lim) hull := by
  cases h
  refine ⟨?_, fun s => ?_⟩
  rotate_left
  · rw [exec_tnew]
    unfold execTnew issue
    rfl
theorem shell_yield (p : Pred) {hull : Shell}
    (h : Instr.shell (.yield p) = some hull) : ThroughShell (.yield p) hull := by
  cases h
  refine ⟨?_, fun s => ?_⟩
  rotate_left
  · rw [exec_yield]
    unfold execYield issue
    rfl
theorem shell_park (p : Pred) (a : Code) {hull : Shell}
    (h : Instr.shell (.park p a) = some hull) : ThroughShell (.park p a) hull := by
  cases h
  refine ⟨?_, fun s => ?_⟩
  rotate_left
  · rw [exec_park]
    unfold execPark issue
    rfl
theorem shell_fadd (p : Pred) (d a b : Code) (sz : FSize) (rm : RM) {hull : Shell}
    (h : Instr.shell (.fadd p d a b sz rm) = some hull) : ThroughShell (.fadd p d a b sz rm) hull := by
  cases h
  refine ⟨?_, fun s => ?_⟩
  rotate_left
  · rw [exec_fadd]
    unfold execFadd fp2 issue
    rfl
theorem shell_fsub (p : Pred) (d a b : Code) (sz : FSize) (rm : RM) {hull : Shell}
    (h : Instr.shell (.fsub p d a b sz rm) = some hull) : ThroughShell (.fsub p d a b sz rm) hull := by
  cases h
  refine ⟨?_, fun s => ?_⟩
  rotate_left
  · rw [exec_fsub]
    unfold execFsub fp2 issue
    rfl
theorem shell_fmul (p : Pred) (d a b : Code) (sz : FSize) (rm : RM) {hull : Shell}
    (h : Instr.shell (.fmul p d a b sz rm) = some hull) : ThroughShell (.fmul p d a b sz rm) hull := by
  cases h
  refine ⟨?_, fun s => ?_⟩
  rotate_left
  · rw [exec_fmul]
    unfold execFmul fp2 issue
    rfl
theorem shell_ffma (p : Pred) (d a b c : Code) (sz : FSize) (rm : RM) {hull : Shell}
    (h : Instr.shell (.ffma p d a b c sz rm) = some hull) : ThroughShell (.ffma p d a b c sz rm) hull := by
  cases h
  refine ⟨?_, fun s => ?_⟩
  rotate_left
  · rw [exec_ffma]
    unfold execFfma issue
    rfl
theorem shell_fdiv (p : Pred) (d a b : Code) (sz : FSize) (rm : RM) {hull : Shell}
    (h : Instr.shell (.fdiv p d a b sz rm) = some hull) : ThroughShell (.fdiv p d a b sz rm) hull := by
  cases h
  refine ⟨?_, fun s => ?_⟩
  rotate_left
  · rw [exec_fdiv]
    unfold execFdiv fp2 issue
    rfl
theorem shell_fsqrt (p : Pred) (d a : Code) (sz : FSize) (rm : RM) {hull : Shell}
    (h : Instr.shell (.fsqrt p d a sz rm) = some hull) : ThroughShell (.fsqrt p d a sz rm) hull := by
  cases h
  refine ⟨?_, fun s => ?_⟩
  rotate_left
  · rw [exec_fsqrt]
    unfold execFsqrt fp1 issue
    rfl
theorem shell_fmin (p : Pred) (d a b : Code) (sz : FSize) (rm : RM) {hull : Shell}
    (h : Instr.shell (.fmin p d a b sz rm) = some hull) : ThroughShell (.fmin p d a b sz rm) hull := by
  cases h
  refine ⟨?_, fun s => ?_⟩
  rotate_left
  · rw [exec_fmin]
    unfold execFmin fp2 issue
    rfl
theorem shell_fmax (p : Pred) (d a b : Code) (sz : FSize) (rm : RM) {hull : Shell}
    (h : Instr.shell (.fmax p d a b sz rm) = some hull) : ThroughShell (.fmax p d a b sz rm) hull := by
  cases h
  refine ⟨?_, fun s => ?_⟩
  rotate_left
  · rw [exec_fmax]
    unfold execFmax fp2 issue
    rfl
theorem shell_fcmp (p : Pred) (pd : Fin 8) (a b : Code) (fx : FCmp) (sz : FSize) (rm : RM) {hull : Shell}
    (h : Instr.shell (.fcmp p pd a b fx sz rm) = some hull) : ThroughShell (.fcmp p pd a b fx sz rm) hull := by
  cases h
  refine ⟨?_, fun s => ?_⟩
  rotate_left
  · rw [exec_fcmp]
    unfold execFcmp issue
    rfl
theorem shell_fcvt (p : Pred) (d a : Code) (fx : FCvt) (sz : FSize) (rm : RM) {hull : Shell}
    (h : Instr.shell (.fcvt p d a fx sz rm) = some hull) : ThroughShell (.fcvt p d a fx sz rm) hull := by
  cases h
  refine ⟨?_, fun s => ?_⟩
  rotate_left
  · rw [exec_fcvt]
    unfold execFcvt fp1 issue
    rfl
theorem shell_fsgn (p : Pred) (d a b : Code) (fx : FSgn) (sz : FSize) (rm : RM) {hull : Shell}
    (h : Instr.shell (.fsgn p d a b fx sz rm) = some hull) : ThroughShell (.fsgn p d a b fx sz rm) hull := by
  cases h
  refine ⟨?_, fun s => ?_⟩
  rotate_left
  · rw [exec_fsgn]
    unfold execFsgn compute2 issue
    rfl
theorem shell_fclass (p : Pred) (d a : Code) (sz : FSize) (rm : RM) {hull : Shell}
    (h : Instr.shell (.fclass p d a sz rm) = some hull) : ThroughShell (.fclass p d a sz rm) hull := by
  cases h
  refine ⟨?_, fun s => ?_⟩
  rotate_left
  · rw [exec_fclass]
    unfold execFclass compute1 issue
    rfl
theorem shell_vadd (p : Pred) (d a b : Code) (v : VMod) {hull : Shell}
    (h : Instr.shell (.vadd p d a b v) = some hull) : ThroughShell (.vadd p d a b v) hull := by
  cases h
  refine ⟨?_, fun s => ?_⟩
  rotate_left
  · rw [exec_vadd]
    unfold execVadd vdispatch
    rfl
theorem shell_vsub (p : Pred) (d a b : Code) (v : VMod) {hull : Shell}
    (h : Instr.shell (.vsub p d a b v) = some hull) : ThroughShell (.vsub p d a b v) hull := by
  cases h
  refine ⟨?_, fun s => ?_⟩
  rotate_left
  · rw [exec_vsub]
    unfold execVsub vdispatch
    rfl
theorem shell_vmul (p : Pred) (d a b : Code) (v : VMod) {hull : Shell}
    (h : Instr.shell (.vmul p d a b v) = some hull) : ThroughShell (.vmul p d a b v) hull := by
  cases h
  refine ⟨?_, fun s => ?_⟩
  rotate_left
  · rw [exec_vmul]
    unfold execVmul vdispatch
    rfl
theorem shell_vfma (p : Pred) (d a b c : Code) (v : VMod) {hull : Shell}
    (h : Instr.shell (.vfma p d a b c v) = some hull) : ThroughShell (.vfma p d a b c v) hull := by
  cases h
  refine ⟨?_, fun s => ?_⟩
  rotate_left
  · rw [exec_vfma]
    unfold execVfma vdispatch
    rfl
theorem shell_vmin (p : Pred) (d a b : Code) (v : VMod) {hull : Shell}
    (h : Instr.shell (.vmin p d a b v) = some hull) : ThroughShell (.vmin p d a b v) hull := by
  cases h
  refine ⟨?_, fun s => ?_⟩
  rotate_left
  · rw [exec_vmin]
    unfold execVmin vdispatch
    rfl
theorem shell_vmax (p : Pred) (d a b : Code) (v : VMod) {hull : Shell}
    (h : Instr.shell (.vmax p d a b v) = some hull) : ThroughShell (.vmax p d a b v) hull := by
  cases h
  refine ⟨?_, fun s => ?_⟩
  rotate_left
  · rw [exec_vmax]
    unfold execVmax vdispatch
    rfl
theorem shell_vabs (p : Pred) (d a : Code) (v : VMod) {hull : Shell}
    (h : Instr.shell (.vabs p d a v) = some hull) : ThroughShell (.vabs p d a v) hull := by
  cases h
  refine ⟨?_, fun s => ?_⟩
  rotate_left
  · rw [exec_vabs]
    unfold execVabs vdispatch
    rfl
theorem shell_vscl (p : Pred) (d a b : Code) (v : VMod) {hull : Shell}
    (h : Instr.shell (.vscl p d a b v) = some hull) : ThroughShell (.vscl p d a b v) hull := by
  cases h
  refine ⟨?_, fun s => ?_⟩
  rotate_left
  · rw [exec_vscl]
    unfold execVscl vdispatch
    rfl
theorem shell_vaxpy (p : Pred) (d a b c : Code) (v : VMod) {hull : Shell}
    (h : Instr.shell (.vaxpy p d a b c v) = some hull) : ThroughShell (.vaxpy p d a b c v) hull := by
  cases h
  refine ⟨?_, fun s => ?_⟩
  rotate_left
  · rw [exec_vaxpy]
    unfold execVaxpy vdispatch
    rfl
theorem shell_vand (p : Pred) (d a b : Code) (v : VMod) {hull : Shell}
    (h : Instr.shell (.vand p d a b v) = some hull) : ThroughShell (.vand p d a b v) hull := by
  cases h
  refine ⟨?_, fun s => ?_⟩
  rotate_left
  · rw [exec_vand]
    unfold execVand vdispatch
    rfl
theorem shell_vor (p : Pred) (d a b : Code) (v : VMod) {hull : Shell}
    (h : Instr.shell (.vor p d a b v) = some hull) : ThroughShell (.vor p d a b v) hull := by
  cases h
  refine ⟨?_, fun s => ?_⟩
  rotate_left
  · rw [exec_vor]
    unfold execVor vdispatch
    rfl
theorem shell_vxor (p : Pred) (d a b : Code) (v : VMod) {hull : Shell}
    (h : Instr.shell (.vxor p d a b v) = some hull) : ThroughShell (.vxor p d a b v) hull := by
  cases h
  refine ⟨?_, fun s => ?_⟩
  rotate_left
  · rw [exec_vxor]
    unfold execVxor vdispatch
    rfl
theorem shell_vshl (p : Pred) (d a b : Code) (v : VMod) {hull : Shell}
    (h : Instr.shell (.vshl p d a b v) = some hull) : ThroughShell (.vshl p d a b v) hull := by
  cases h
  refine ⟨?_, fun s => ?_⟩
  rotate_left
  · rw [exec_vshl]
    unfold execVshl vdispatch
    rfl
theorem shell_vshr (p : Pred) (d a b : Code) (v : VMod) {hull : Shell}
    (h : Instr.shell (.vshr p d a b v) = some hull) : ThroughShell (.vshr p d a b v) hull := by
  cases h
  refine ⟨?_, fun s => ?_⟩
  rotate_left
  · rw [exec_vshr]
    unfold execVshr vdispatch
    rfl
theorem shell_vcmp (p : Pred) (d a b : Code) (v : VMod) {hull : Shell}
    (h : Instr.shell (.vcmp p d a b v) = some hull) : ThroughShell (.vcmp p d a b v) hull := by
  cases h
  refine ⟨?_, fun s => ?_⟩
  rotate_left
  · rw [exec_vcmp]
    unfold execVcmp vdispatch
    rfl
theorem shell_vsel (p : Pred) (d a b c : Code) (v : VMod) {hull : Shell}
    (h : Instr.shell (.vsel p d a b c v) = some hull) : ThroughShell (.vsel p d a b c v) hull := by
  cases h
  refine ⟨?_, fun s => ?_⟩
  rotate_left
  · rw [exec_vsel]
    unfold execVsel vdispatch
    rfl
theorem shell_vcmul (p : Pred) (d a b : Code) (v : VMod) {hull : Shell}
    (h : Instr.shell (.vcmul p d a b v) = some hull) : ThroughShell (.vcmul p d a b v) hull := by
  cases h
  refine ⟨?_, fun s => ?_⟩
  rotate_left
  · rw [exec_vcmul]
    unfold execVcmul vdispatch
    rfl
theorem shell_vcmac (p : Pred) (d a b c : Code) (v : VMod) {hull : Shell}
    (h : Instr.shell (.vcmac p d a b c v) = some hull) : ThroughShell (.vcmac p d a b c v) hull := by
  cases h
  refine ⟨?_, fun s => ?_⟩
  rotate_left
  · rw [exec_vcmac]
    unfold execVcmac vdispatch
    rfl
theorem shell_vmov (p : Pred) (d a : Code) (v : VMod) {hull : Shell}
    (h : Instr.shell (.vmov p d a v) = some hull) : ThroughShell (.vmov p d a v) hull := by
  cases h
  refine ⟨?_, fun s => ?_⟩
  rotate_left
  · rw [exec_vmov]
    unfold execVmov vdispatch
    rfl
theorem shell_vred (p : Pred) (d a : Code) (v : VMod) {hull : Shell}
    (h : Instr.shell (.vred p d a v) = some hull) : ThroughShell (.vred p d a v) hull := by
  cases h
  refine ⟨?_, fun s => ?_⟩
  rotate_left
  · rw [exec_vred]
    unfold execVred vdispatch
    rfl
theorem shell_vdot (p : Pred) (d a b : Code) (v : VMod) {hull : Shell}
    (h : Instr.shell (.vdot p d a b v) = some hull) : ThroughShell (.vdot p d a b v) hull := by
  cases h
  refine ⟨?_, fun s => ?_⟩
  rotate_left
  · rw [exec_vdot]
    unfold execVdot vdispatch
    rfl
theorem shell_vscan (p : Pred) (d a : Code) (v : VMod) {hull : Shell}
    (h : Instr.shell (.vscan p d a v) = some hull) : ThroughShell (.vscan p d a v) hull := by
  cases h
  refine ⟨?_, fun s => ?_⟩
  rotate_left
  · rw [exec_vscan]
    unfold execVscan vdispatch
    rfl
theorem shell_vcvt (p : Pred) (d a : Code) (v : VMod) {hull : Shell}
    (h : Instr.shell (.vcvt p d a v) = some hull) : ThroughShell (.vcvt p d a v) hull := by
  cases h
  refine ⟨?_, fun s => ?_⟩
  rotate_left
  · rw [exec_vcvt]
    unfold execVcvt vdispatch
    rfl
theorem shell_vldg (p : Pred) (d a : Code) (v : VMod) {hull : Shell}
    (h : Instr.shell (.vldg p d a v) = some hull) : ThroughShell (.vldg p d a v) hull := by
  cases h
  refine ⟨?_, fun s => ?_⟩
  rotate_left
  · rw [exec_vldg]
    unfold execVldg vdispatch
    rfl
theorem shell_vstg (p : Pred) (d a : Code) (v : VMod) {hull : Shell}
    (h : Instr.shell (.vstg p d a v) = some hull) : ThroughShell (.vstg p d a v) hull := by
  cases h
  refine ⟨?_, fun s => ?_⟩
  rotate_left
  · rw [exec_vstg]
    unfold execVstg vdispatch
    rfl
theorem shell_vgath (p : Pred) (d a b : Code) (v : VMod) {hull : Shell}
    (h : Instr.shell (.vgath p d a b v) = some hull) : ThroughShell (.vgath p d a b v) hull := by
  cases h
  refine ⟨?_, fun s => ?_⟩
  rotate_left
  · rw [exec_vgath]
    unfold execVgath vdispatch
    rfl
theorem shell_vscat (p : Pred) (d a b : Code) (v : VMod) {hull : Shell}
    (h : Instr.shell (.vscat p d a b v) = some hull) : ThroughShell (.vscat p d a b v) hull := by
  cases h
  refine ⟨?_, fun s => ?_⟩
  rotate_left
  · rw [exec_vscat]
    unfold execVscat vdispatch
    rfl
theorem shell_vbcst (p : Pred) (d a : Code) (v : VMod) {hull : Shell}
    (h : Instr.shell (.vbcst p d a v) = some hull) : ThroughShell (.vbcst p d a v) hull := by
  cases h
  refine ⟨?_, fun s => ?_⟩
  rotate_left
  · rw [exec_vbcst]
    unfold execVbcst vdispatch
    rfl
theorem shell_viota (p : Pred) (d : Code) (v : VMod) {hull : Shell}
    (h : Instr.shell (.viota p d v) = some hull) : ThroughShell (.viota p d v) hull := by
  cases h
  refine ⟨?_, fun s => ?_⟩
  rotate_left
  · rw [exec_viota]
    unfold execViota vdispatch
    rfl
theorem shell_vperm (p : Pred) (d a b : Code) (v : VMod) {hull : Shell}
    (h : Instr.shell (.vperm p d a b v) = some hull) : ThroughShell (.vperm p d a b v) hull := by
  cases h
  refine ⟨?_, fun s => ?_⟩
  rotate_left
  · rw [exec_vperm]
    unfold execVperm vdispatch
    rfl
theorem shell_vexp (p : Pred) (d a : Code) (v : VMod) {hull : Shell}
    (h : Instr.shell (.vexp p d a v) = some hull) : ThroughShell (.vexp p d a v) hull := by
  cases h
  refine ⟨?_, fun s => ?_⟩
  rotate_left
  · rw [exec_vexp]
    unfold execVexp vdispatch
    rfl
theorem shell_vlog (p : Pred) (d a : Code) (v : VMod) {hull : Shell}
    (h : Instr.shell (.vlog p d a v) = some hull) : ThroughShell (.vlog p d a v) hull := by
  cases h
  refine ⟨?_, fun s => ?_⟩
  rotate_left
  · rw [exec_vlog]
    unfold execVlog vdispatch
    rfl
theorem shell_vrcp (p : Pred) (d a : Code) (v : VMod) {hull : Shell}
    (h : Instr.shell (.vrcp p d a v) = some hull) : ThroughShell (.vrcp p d a v) hull := by
  cases h
  refine ⟨?_, fun s => ?_⟩
  rotate_left
  · rw [exec_vrcp]
    unfold execVrcp vdispatch
    rfl
theorem shell_vrsq (p : Pred) (d a : Code) (v : VMod) {hull : Shell}
    (h : Instr.shell (.vrsq p d a v) = some hull) : ThroughShell (.vrsq p d a v) hull := by
  cases h
  refine ⟨?_, fun s => ?_⟩
  rotate_left
  · rw [exec_vrsq]
    unfold execVrsq vdispatch
    rfl
theorem shell_vsin (p : Pred) (d a : Code) (v : VMod) {hull : Shell}
    (h : Instr.shell (.vsin p d a v) = some hull) : ThroughShell (.vsin p d a v) hull := by
  cases h
  refine ⟨?_, fun s => ?_⟩
  rotate_left
  · rw [exec_vsin]
    unfold execVsin vdispatch
    rfl
theorem shell_vcos (p : Pred) (d a : Code) (v : VMod) {hull : Shell}
    (h : Instr.shell (.vcos p d a v) = some hull) : ThroughShell (.vcos p d a v) hull := by
  cases h
  refine ⟨?_, fun s => ?_⟩
  rotate_left
  · rw [exec_vcos]
    unfold execVcos vdispatch
    rfl
theorem shell_enq (p : Pred) (d a : Code) {hull : Shell}
    (h : Instr.shell (.enq p d a) = some hull) : ThroughShell (.enq p d a) hull := by
  cases h
  refine ⟨?_, fun s => ?_⟩
  rotate_left
  · rw [exec_enq]
    unfold execEnq
    rfl
theorem shell_waitj (p : Pred) (a : Code) {hull : Shell}
    (h : Instr.shell (.waitj p a) = some hull) : ThroughShell (.waitj p a) hull := by
  cases h
  refine ⟨?_, fun s => ?_⟩
  rotate_left
  · rw [exec_waitj]
    unfold execWaitj issue
    rfl
theorem shell_pollj (p : Pred) (d a : Code) {hull : Shell}
    (h : Instr.shell (.pollj p d a) = some hull) : ThroughShell (.pollj p d a) hull := by
  cases h
  refine ⟨?_, fun s => ?_⟩
  rotate_left
  · rw [exec_pollj]
    unfold execPollj issue
    rfl
theorem shell_jstat (p : Pred) (d a : Code) {hull : Shell}
    (h : Instr.shell (.jstat p d a) = some hull) : ThroughShell (.jstat p d a) hull := by
  cases h
  refine ⟨?_, fun s => ?_⟩
  rotate_left
  · rw [exec_jstat]
    unfold execJstat issue
    rfl
theorem shell_zfset (p : Pred) (a : Code) (idx : Fin 16) {hull : Shell}
    (h : Instr.shell (.zfset p a idx) = some hull) : ThroughShell (.zfset p a idx) hull := by
  cases h
  refine ⟨?_, fun s => ?_⟩
  rotate_left
  · rw [exec_zfset]
    unfold execZfset issue
    rfl
theorem shell_zfget (p : Pred) (d : Code) (idx : Fin 16) {hull : Shell}
    (h : Instr.shell (.zfget p d idx) = some hull) : ThroughShell (.zfget p d idx) hull := by
  cases h
  refine ⟨?_, fun s => ?_⟩
  rotate_left
  · rw [exec_zfget]
    unfold execZfget compute0 issue
    rfl
theorem shell_sclw (p : Pred) (a : Code) (idx : Fin 16) {hull : Shell}
    (h : Instr.shell (.sclw p a idx) = some hull) : ThroughShell (.sclw p a idx) hull := by
  cases h
  refine ⟨?_, fun s => ?_⟩
  rotate_left
  · rw [exec_sclw]
    unfold execSclw issue
    rfl
theorem shell_cbld (p : Pred) (a : Code) (idx : Fin 8) {hull : Shell}
    (h : Instr.shell (.cbld p a idx) = some hull) : ThroughShell (.cbld p a idx) hull := by
  cases h
  refine ⟨?_, fun s => ?_⟩
  rotate_left
  · rw [exec_cbld]
    unfold execCbld issue
    rfl
theorem shell_chwp (p : Pred) (d : Code) (idx : Fin 16) {hull : Shell}
    (h : Instr.shell (.chwp p d idx) = some hull) : ThroughShell (.chwp p d idx) hull := by
  cases h
  refine ⟨?_, fun s => ?_⟩
  rotate_left
  · rw [exec_chwp]
    unfold execChwp issue
    rfl
theorem shell_boxt (p : Pred) (d a b : Code) {hull : Shell}
    (h : Instr.shell (.boxt p d a b) = some hull) : ThroughShell (.boxt p d a b) hull := by
  cases h
  refine ⟨?_, fun s => ?_⟩
  rotate_left
  · rw [exec_boxt]
    unfold execBoxt issue
    rfl
theorem shell_trit (p : Pred) (d a b : Code) {hull : Shell}
    (h : Instr.shell (.trit p d a b) = some hull) : ThroughShell (.trit p d a b) hull := by
  cases h
  refine ⟨?_, fun s => ?_⟩
  rotate_left
  · rw [exec_trit]
    unfold execTrit issue
    rfl
theorem shell_tspush (p : Pred) (a : Code) {hull : Shell}
    (h : Instr.shell (.tspush p a) = some hull) : ThroughShell (.tspush p a) hull := by
  cases h
  refine ⟨?_, fun s => ?_⟩
  rotate_left
  · rw [exec_tspush]
    unfold execTspush issue
    rfl
theorem shell_tspop (p : Pred) (d : Code) {hull : Shell}
    (h : Instr.shell (.tspop p d) = some hull) : ThroughShell (.tspop p d) hull := by
  cases h
  refine ⟨?_, fun s => ?_⟩
  rotate_left
  · rw [exec_tspop]
    unfold execTspop issue
    rfl
theorem shell_tsclr (p : Pred) {hull : Shell}
    (h : Instr.shell (.tsclr p) = some hull) : ThroughShell (.tsclr p) hull := by
  cases h
  refine ⟨?_, fun s => ?_⟩
  rotate_left
  · rw [exec_tsclr]
    unfold execTsclr issue
    rfl
theorem shell_smpl (p : Pred) (d a b : Code) (x : SmplKind) {hull : Shell}
    (h : Instr.shell (.smpl p d a b x) = some hull) : ThroughShell (.smpl p d a b x) hull := by
  cases h
  refine ⟨?_, fun s => ?_⟩
  rotate_left
  · rw [exec_smpl]
    unfold execSmpl issue
    rfl
theorem shell_sld (p : Pred) (d a : Code) (sz : Size) {hull : Shell}
    (h : Instr.shell (.sld p d a sz) = some hull) : ThroughShell (.sld p d a sz) hull := by
  cases h
  refine ⟨?_, fun s => ?_⟩
  rotate_left
  · rw [exec_sld]
    unfold execSld issue
    rfl
theorem shell_lset (p : Pred) (a b : Code) (sel : Fin 15) {hull : Shell}
    (h : Instr.shell (.lset p a b sel) = some hull) : ThroughShell (.lset p a b sel) hull := by
  cases h
  refine ⟨?_, fun s => ?_⟩
  rotate_left
  · rw [exec_lset]
    unfold execLset issue
    rfl
theorem shell_lget (p : Pred) (d a : Code) (sel : Fin 15) {hull : Shell}
    (h : Instr.shell (.lget p d a sel) = some hull) : ThroughShell (.lget p d a sel) hull := by
  cases h
  refine ⟨?_, fun s => ?_⟩
  rotate_left
  · rw [exec_lget]
    unfold execLget issue
    rfl
theorem shell_lsplit (p : Pred) (a b c : Code) {hull : Shell}
    (h : Instr.shell (.lsplit p a b c) = some hull) : ThroughShell (.lsplit p a b c) hull := by
  cases h
  refine ⟨?_, fun s => ?_⟩
  rotate_left
  · rw [exec_lsplit]
    unfold execLsplit issue
    rfl
theorem shell_lmerge (p : Pred) (a b : Code) {hull : Shell}
    (h : Instr.shell (.lmerge p a b) = some hull) : ThroughShell (.lmerge p a b) hull := by
  cases h
  refine ⟨?_, fun s => ?_⟩
  rotate_left
  · rw [exec_lmerge]
    unfold execLmerge issue
    rfl
theorem shell_lreq (p : Pred) (d : Code) {hull : Shell}
    (h : Instr.shell (.lreq p d) = some hull) : ThroughShell (.lreq p d) hull := by
  cases h
  refine ⟨?_, fun s => ?_⟩
  rotate_left
  · rw [exec_lreq]
    unfold execLreq issue
    rfl
theorem shell_ldone (p : Pred) (a : Code) {hull : Shell}
    (h : Instr.shell (.ldone p a) = some hull) : ThroughShell (.ldone p a) hull := by
  cases h
  refine ⟨?_, fun s => ?_⟩
  rotate_left
  · rw [exec_ldone]
    unfold execLdone issue
    rfl
theorem shell_lepoch (p : Pred) (a : Code) {hull : Shell}
    (h : Instr.shell (.lepoch p a) = some hull) : ThroughShell (.lepoch p a) hull := by
  cases h
  refine ⟨?_, fun s => ?_⟩
  rotate_left
  · rw [exec_lepoch]
    unfold execLepoch issue
    rfl
theorem shell_wgalloc (p : Pred) (d a : Code) {hull : Shell}
    (h : Instr.shell (.wgalloc p d a) = some hull) : ThroughShell (.wgalloc p d a) hull := by
  cases h
  refine ⟨?_, fun s => ?_⟩
  rotate_left
  · rw [exec_wgalloc]
    unfold execWgalloc issue
    rfl
theorem shell_wgemit (p : Pred) (a b : Code) {hull : Shell}
    (h : Instr.shell (.wgemit p a b) = some hull) : ThroughShell (.wgemit p a b) hull := by
  cases h
  refine ⟨?_, fun s => ?_⟩
  rotate_left
  · rw [exec_wgemit]
    unfold execWgemit issue
    rfl
theorem shell_wgtake (p : Pred) (d a b : Code) {hull : Shell}
    (h : Instr.shell (.wgtake p d a b) = some hull) : ThroughShell (.wgtake p d a b) hull := by
  cases h
  refine ⟨?_, fun s => ?_⟩
  rotate_left
  · rw [exec_wgtake]
    unfold execWgtake issue
    rfl
theorem shell_wgfree (p : Pred) (a : Code) {hull : Shell}
    (h : Instr.shell (.wgfree p a) = some hull) : ThroughShell (.wgfree p a) hull := by
  cases h
  refine ⟨?_, fun s => ?_⟩
  rotate_left
  · rw [exec_wgfree]
    unfold execWgfree issue
    rfl
theorem shell_paya (p : Pred) (d : Code) {hull : Shell}
    (h : Instr.shell (.paya p d) = some hull) : ThroughShell (.paya p d) hull := by
  cases h
  refine ⟨?_, fun s => ?_⟩
  rotate_left
  · rw [exec_paya]
    unfold execPaya issue
    rfl
theorem shell_payp (p : Pred) (a b c : Code) {hull : Shell}
    (h : Instr.shell (.payp p a b c) = some hull) : ThroughShell (.payp p a b c) hull := by
  cases h
  refine ⟨?_, fun s => ?_⟩
  rotate_left
  · rw [exec_payp]
    unfold execPayp issue
    rfl
theorem shell_trap (p : Pred) (imm : BitVec 33) {hull : Shell}
    (h : Instr.shell (.trap p imm) = some hull) : ThroughShell (.trap p imm) hull := by
  cases h
  refine ⟨?_, fun s => ?_⟩
  rotate_left
  · rw [exec_trap]
    unfold execTrap issue
    rfl
theorem shell_rft (p : Pred) {hull : Shell}
    (h : Instr.shell (.rft p) = some hull) : ThroughShell (.rft p) hull := by
  cases h
  refine ⟨?_, fun s => ?_⟩
  rotate_left
  · rw [exec_rft]
    unfold execRft issue
    rfl
theorem shell_srrd (p : Pred) (d : Code) (num : BitVec 12) {hull : Shell}
    (h : Instr.shell (.srrd p d num) = some hull) : ThroughShell (.srrd p d num) hull := by
  cases h
  refine ⟨?_, fun s => ?_⟩
  rotate_left
  · rw [exec_srrd]
    unfold execSrrd issue
    rfl
theorem shell_srwr (p : Pred) (a : Code) (num : BitVec 12) {hull : Shell}
    (h : Instr.shell (.srwr p a num) = some hull) : ThroughShell (.srwr p a num) hull := by
  cases h
  refine ⟨?_, fun s => ?_⟩
  rotate_left
  · rw [exec_srwr]
    unfold execSrwr issue
    rfl
theorem shell_bkpt (p : Pred) {hull : Shell}
    (h : Instr.shell (.bkpt p) = some hull) : ThroughShell (.bkpt p) hull := by
  cases h
  refine ⟨?_, fun s => ?_⟩
  rotate_left
  · rw [exec_bkpt]
    unfold execBkpt issue
    rfl
theorem shell_tlbinv (p : Pred) (a : Code) (all : Bool) {hull : Shell}
    (h : Instr.shell (.tlbinv p a all) = some hull) : ThroughShell (.tlbinv p a all) hull := by
  cases h
  refine ⟨?_, fun s => ?_⟩
  rotate_left
  · rw [exec_tlbinv]
    unfold execTlbinv issue
    rfl
theorem shell_cinv (p : Pred) (a : Code) (x : CinvKind) {hull : Shell}
    (h : Instr.shell (.cinv p a x) = some hull) : ThroughShell (.cinv p a x) hull := by
  cases h
  refine ⟨?_, fun s => ?_⟩
  rotate_left
  · rw [exec_cinv]
    unfold execCinv issue
    rfl
theorem shell_stopw (p : Pred) (sc : Scope) {hull : Shell}
    (h : Instr.shell (.stopw p sc) = some hull) : ThroughShell (.stopw p sc) hull := by
  cases h
  refine ⟨?_, fun s => ?_⟩
  rotate_left
  · rw [exec_stopw]
    unfold execStopw issue
    rfl
theorem shell_resw (p : Pred) (sc : Scope) {hull : Shell}
    (h : Instr.shell (.resw p sc) = some hull) : ThroughShell (.resw p sc) hull := by
  cases h
  refine ⟨?_, fun s => ?_⟩
  rotate_left
  · rw [exec_resw]
    unfold execResw issue
    rfl
theorem shell_logmk (p : Pred) (a : Code) {hull : Shell}
    (h : Instr.shell (.logmk p a) = some hull) : ThroughShell (.logmk p a) hull := by
  cases h
  refine ⟨?_, fun s => ?_⟩
  rotate_left
  · rw [exec_logmk]
    unfold execLogmk issue
    rfl
theorem shell_cntrd (p : Pred) (d : Code) (num : BitVec 12) {hull : Shell}
    (h : Instr.shell (.cntrd p d num) = some hull) : ThroughShell (.cntrd p d num) hull := by
  cases h
  refine ⟨?_, fun s => ?_⟩
  rotate_left
  · rw [exec_cntrd]
    unfold execCntrd issue
    rfl

/-- An instruction with a shell is its effect, issued through that shell. -/
theorem exec_shell (i : Instr) (sh : Shell) (h : Instr.shell i = some sh) : ThroughShell i sh := by
  cases i
  case add p d a b => exact shell_add p d a b h
  case sub p d a b => exact shell_sub p d a b h
  case mul p d a b => exact shell_mul p d a b h
  case mulh p d a b => exact shell_mulh p d a b h
  case mulhz p d a b => exact shell_mulhz p d a b h
  case div p d a b => exact shell_div p d a b h
  case divz p d a b => exact shell_divz p d a b h
  case rem p d a b => exact shell_rem p d a b h
  case remz p d a b => exact shell_remz p d a b h
  case and p d a b => exact shell_and p d a b h
  case or p d a b => exact shell_or p d a b h
  case xor p d a b => exact shell_xor p d a b h
  case andn p d a b => exact shell_andn p d a b h
  case shl p d a b => exact shell_shl p d a b h
  case shr p d a b => exact shell_shr p d a b h
  case sha p d a b => exact shell_sha p d a b h
  case rol p d a b => exact shell_rol p d a b h
  case min p d a b => exact shell_min p d a b h
  case max p d a b => exact shell_max p d a b h
  case minz p d a b => exact shell_minz p d a b h
  case maxz p d a b => exact shell_maxz p d a b h
  case clz p d a => exact shell_clz p d a h
  case popc p d a => exact shell_popc p d a h
  case brev p d a => exact shell_brev p d a h
  case madd p d a b c => exact shell_madd p d a b c h
  case bfx p d a sx pos len => exact shell_bfx p d a sx pos len h
  case bfi p d a b pos len => exact shell_bfi p d a b pos len h
  case addw p d a b => exact shell_addw p d a b h
  case subw p d a b => exact shell_subw p d a b h
  case mulw p d a b => exact shell_mulw p d a b h
  case addi p d a imm => exact shell_addi p d a imm h
  case andi p d a imm => exact shell_andi p d a imm h
  case ori p d a imm => exact shell_ori p d a imm h
  case xori p d a imm => exact shell_xori p d a imm h
  case shli p d a amount => exact shell_shli p d a amount h
  case shri p d a amount => exact shell_shri p d a amount h
  case shai p d a amount => exact shell_shai p d a amount h
  case muli p d a imm => exact shell_muli p d a imm h
  case ldi p d imm => exact shell_ldi p d imm h
  case ldih p d a imm => exact shell_ldih p d a imm h
  case lea p d b off => exact shell_lea p d b off h
  case mov p d a => exact shell_mov p d a h
  case getid p d sel => exact shell_getid p d sel h
  case cmp p pd a b cc => exact shell_cmp p pd a b cc h
  case cmpi p pd a cc imm => exact shell_cmpi p pd a cc imm h
  case plog p pd pa pb op => exact shell_plog p pd pa pb op h
  case sel p d ps ns a b => exact shell_sel p d ps ns a b h
  case pget p d => exact shell_pget p d h
  case pset p a => exact shell_pset p a h
  case br p imm => exact shell_br p imm h
  case jmp p a => exact shell_jmp p a h
  case call p d imm => exact shell_call p d imm h
  case callr p d a => exact shell_callr p d a h
  case ret p a => exact shell_ret p a h
  case loop p d imm => exact shell_loop p d imm h
  case nop p => exact shell_nop p h
  case exit p => exact shell_exit p h
  case ld p d b off sz sx loc => exact shell_ld p d b off sz sx loc h
  case st p b a off sz loc => exact shell_st p b a off sz loc h
  case ldx p d b c sz sx loc => exact shell_ldx p d b c sz sx loc h
  case stx p a b c sz loc => exact shell_stx p a b c sz loc h
  case lda p d b off sz sx loc sc => exact shell_lda p d b off sz sx loc sc h
  case stl p b a off sz loc sc => exact shell_stl p b a off sz loc sc h
  case ldf p d b off sz sx loc cn => exact shell_ldf p d b off sz sx loc cn h
  case stf p b a off sz loc => exact shell_stf p b a off sz loc h
  case clre p b a off loc => exact shell_clre p b a off loc h
  case pref p b off => exact shell_pref p b off h
  case amo p d b a op m => exact shell_amo p d b a op m h
  case cas p d b a c m => exact shell_cas p d b a c m h
  case red p b a op m => exact shell_red p b a op m h
  case famo p d b a op m => exact shell_famo p d b a op m h
  case fred p b a op m => exact shell_fred p b a op m h
  case watch p b a off sz cmp sc => exact shell_watch p b a off sz cmp sc h
  case fence p k sc => exact shell_fence p k sc h
  case pfence p k => exact shell_pfence p k h
  case bar p a b sc => exact shell_bar p a b sc h
  case bara p a b sc => exact shell_bara p a b sc h
  case barw p a b sc => exact shell_barw p a b sc h
  case qpeek p d a => exact shell_qpeek p d a h
  case qcnt p d a => exact shell_qcnt p d a h
  case qbind p a b => exact shell_qbind p a b h
  case qflush p a => exact shell_qflush p a h
  case vsync p => exact shell_vsync p h
  case kwait p a b cmp => exact shell_kwait p a b cmp h
  case spawn p a b deep dom => exact shell_spawn p a b deep dom h
  case joinw p a sc => exact shell_joinw p a sc h
  case wfw p => exact shell_wfw p h
  case tnew p d a lim => exact shell_tnew p d a lim h
  case yield p => exact shell_yield p h
  case park p a => exact shell_park p a h
  case fadd p d a b sz rm => exact shell_fadd p d a b sz rm h
  case fsub p d a b sz rm => exact shell_fsub p d a b sz rm h
  case fmul p d a b sz rm => exact shell_fmul p d a b sz rm h
  case ffma p d a b c sz rm => exact shell_ffma p d a b c sz rm h
  case fdiv p d a b sz rm => exact shell_fdiv p d a b sz rm h
  case fsqrt p d a sz rm => exact shell_fsqrt p d a sz rm h
  case fmin p d a b sz rm => exact shell_fmin p d a b sz rm h
  case fmax p d a b sz rm => exact shell_fmax p d a b sz rm h
  case fcmp p pd a b fx sz rm => exact shell_fcmp p pd a b fx sz rm h
  case fcvt p d a fx sz rm => exact shell_fcvt p d a fx sz rm h
  case fsgn p d a b fx sz rm => exact shell_fsgn p d a b fx sz rm h
  case fclass p d a sz rm => exact shell_fclass p d a sz rm h
  case vadd p d a b v => exact shell_vadd p d a b v h
  case vsub p d a b v => exact shell_vsub p d a b v h
  case vmul p d a b v => exact shell_vmul p d a b v h
  case vfma p d a b c v => exact shell_vfma p d a b c v h
  case vmin p d a b v => exact shell_vmin p d a b v h
  case vmax p d a b v => exact shell_vmax p d a b v h
  case vabs p d a v => exact shell_vabs p d a v h
  case vscl p d a b v => exact shell_vscl p d a b v h
  case vaxpy p d a b c v => exact shell_vaxpy p d a b c v h
  case vand p d a b v => exact shell_vand p d a b v h
  case vor p d a b v => exact shell_vor p d a b v h
  case vxor p d a b v => exact shell_vxor p d a b v h
  case vshl p d a b v => exact shell_vshl p d a b v h
  case vshr p d a b v => exact shell_vshr p d a b v h
  case vcmp p d a b v => exact shell_vcmp p d a b v h
  case vsel p d a b c v => exact shell_vsel p d a b c v h
  case vcmul p d a b v => exact shell_vcmul p d a b v h
  case vcmac p d a b c v => exact shell_vcmac p d a b c v h
  case vmov p d a v => exact shell_vmov p d a v h
  case vred p d a v => exact shell_vred p d a v h
  case vdot p d a b v => exact shell_vdot p d a b v h
  case vscan p d a v => exact shell_vscan p d a v h
  case vcvt p d a v => exact shell_vcvt p d a v h
  case vldg p d a v => exact shell_vldg p d a v h
  case vstg p d a v => exact shell_vstg p d a v h
  case vgath p d a b v => exact shell_vgath p d a b v h
  case vscat p d a b v => exact shell_vscat p d a b v h
  case vbcst p d a v => exact shell_vbcst p d a v h
  case viota p d v => exact shell_viota p d v h
  case vperm p d a b v => exact shell_vperm p d a b v h
  case vexp p d a v => exact shell_vexp p d a v h
  case vlog p d a v => exact shell_vlog p d a v h
  case vrcp p d a v => exact shell_vrcp p d a v h
  case vrsq p d a v => exact shell_vrsq p d a v h
  case vsin p d a v => exact shell_vsin p d a v h
  case vcos p d a v => exact shell_vcos p d a v h
  case enq p d a => exact shell_enq p d a h
  case waitj p a => exact shell_waitj p a h
  case pollj p d a => exact shell_pollj p d a h
  case jstat p d a => exact shell_jstat p d a h
  case zfset p a idx => exact shell_zfset p a idx h
  case zfget p d idx => exact shell_zfget p d idx h
  case sclw p a idx => exact shell_sclw p a idx h
  case cbld p a idx => exact shell_cbld p a idx h
  case chwp p d idx => exact shell_chwp p d idx h
  case boxt p d a b => exact shell_boxt p d a b h
  case trit p d a b => exact shell_trit p d a b h
  case tspush p a => exact shell_tspush p a h
  case tspop p d => exact shell_tspop p d h
  case tsclr p => exact shell_tsclr p h
  case smpl p d a b x => exact shell_smpl p d a b x h
  case sld p d a sz => exact shell_sld p d a sz h
  case lset p a b sel => exact shell_lset p a b sel h
  case lget p d a sel => exact shell_lget p d a sel h
  case lsplit p a b c => exact shell_lsplit p a b c h
  case lmerge p a b => exact shell_lmerge p a b h
  case lreq p d => exact shell_lreq p d h
  case ldone p a => exact shell_ldone p a h
  case lepoch p a => exact shell_lepoch p a h
  case wgalloc p d a => exact shell_wgalloc p d a h
  case wgemit p a b => exact shell_wgemit p a b h
  case wgtake p d a b => exact shell_wgtake p d a b h
  case wgfree p a => exact shell_wgfree p a h
  case paya p d => exact shell_paya p d h
  case payp p a b c => exact shell_payp p a b c h
  case trap p imm => exact shell_trap p imm h
  case rft p => exact shell_rft p h
  case srrd p d num => exact shell_srrd p d num h
  case srwr p a num => exact shell_srwr p a num h
  case bkpt p => exact shell_bkpt p h
  case tlbinv p a all => exact shell_tlbinv p a all h
  case cinv p a x => exact shell_cinv p a x h
  case stopw p sc => exact shell_stopw p sc h
  case resw p sc => exact shell_resw p sc h
  case logmk p a => exact shell_logmk p a h
  case cntrd p d num => exact shell_cntrd p d num h
  case powerOn => cases h
  case bootRestart => cases h
  case raiseFusedMinimum => cases h
  case getVersion => cases h
  case getCapabilities => cases h
  case negotiateAlgorithms => cases h
  case getDigests => cases h
  case getCertificate => cases h
  case challenge => cases h
  case getMeasurements => cases h
  case spdmUnsupportedRequest => cases h
  case thermalTrip => cases h
  case thermalRelease => cases h
  case powerThrottleStart => cases h
  case powerThrottleEnd => cases h
  case phcmdAssign => cases h
  case phcmdRelease => cases h
  case releaseScrub => cases h
  case devnumWrite => cases h
  case gpsRetrain => cases h
  case linkTrainingDone => cases h
  case portDown => cases h
  case gondolaForward => cases h
  case remoteAccessArrival => cases h
  case remoteReply => cases h
  case remoteAccessTimeout => cases h
  case vfConfigAccess => cases h
  case apertureRead => cases h
  case apertureWrite => cases h
  case hostRegisterWrite => cases h
  case qdbWrite => cases h
  case qcfgEnable => cases h
  case qcfgDisable => cases h
  case qcfgPause => cases h
  case qcfgUnpause => cases h
  case ifvwWrite => cases h
  case frcfgEnable => cases h
  case frcfgDisable => cases h
  case fresRetry => cases h
  case fresFatalPageflt => cases h
  case fresFatalProt => cases h
  case frheadWrite => cases h
  case olcfgEnable => cases h
  case launch => cases h
  case rootPlace => cases h
  case launchComplete => cases h
  case graphLoad => cases h
  case triggerBind => cases h
  case copy => cases h
  case copyComplete => cases h
  case signal => cases h
  case wait => cases h
  case waitSatisfied => cases h
  case layerTable => cases h
  case headBind => cases h
  case exportQueue => cases h
  case exportComplete => cases h
  case importQueue => cases h
  case trigWrite => cases h
  case graphNodeLaunch => cases h
  case graphNodeSignal => cases h
  case graphNodeLoop => cases h
  case graphNodeCond => cases h
  case graphNodeEnd => cases h
  case remoteLaunchRequest => cases h
  case remoteLaneStart => cases h
  case remoteLaunchResult => cases h
  case remoteLaunchTimeout => cases h
  case dploadWrite => cases h
  case policyCheckDone => cases h
  case operatorDisclosureRead => cases h
  case operatorDebugStop => cases h
  case debugStopAck => cases h
  case disclosureIntervalEnd => cases h
  case frameTick => cases h
  case frameEncode => cases h
  case ecfgKeySet => cases h
  case threadCreate => cases h
  case frameDelivery => cases h
  case stealRequest => cases h
  case stealServe => cases h
  case stealReplyArrival => cases h
  case stealRetryTimeout => cases h
  case terminationCount => cases h
  case rotationBoundary => cases h
  case threadDisplace => cases h
  case displacedResume => cases h
  case drcfgBind => cases h
  case drcfgUnbind => cases h
  case dtailWrite => cases h
  case dispenserDeliver => cases h
  case wgdaBind => cases h
  case wgdaUnbind => cases h
  case wgBatchTimeout => cases h
  case wgBatchDeliver => cases h
  case payloadFrameDeliver => cases h
  case channelWake => cases h
  case proxyBatchTimeout => cases h
  case proxyDelivery => cases h
  case proxyCreditReturn => cases h
  case coreSleep => cases h
  case coreWake => cases h
  case ldfWake => cases h
  case storeBufferDrain => cases h
  case sliceAtomic => cases h
  case watchWake => cases h
  case watchPoll => cases h
  case tableWalk => cases h
  case faultMessage => cases h
  case releaseProbeEcho => cases h
  case storeAck => cases h
  case joinwWake => cases h
  case kwaitWake => cases h
  case parkExpire => cases h
  case lreqWake => cases h
  case payaWake => cases h
  case spawnRingWake => cases h
  case stopwComplete => cases h
  case tlbinvComplete => cases h
  case vectorEntryPerform => cases h
  case lateTrapEntry => cases h
  case enqAccept => cases h
  case waitjWake => cases h
  case engineBadcmd => cases h
  case lds => cases h
  case mma => cases h
  case sta => cases h
  case aclr => cases h
  case swaps => cases h
  case cmma => cases h
  case mstat => cases h
  case fft => cases h
  case ifft => cases h
  case xact => cases h
  case cpy => cases h
  case gthr => cases h
  case sctr => cases h
  case fill => cases h
  case ared => cases h
  case bcst => cases h
  case agth => cases h
  case collectiveContribution => cases h
  case collectiveTimeout => cases h
  case hcfgWrite => cases h
  case cpreqPreempt => cases h
  case preemptSave => cases h
  case cpreqResume => cases h
  case dbgsStop => cases h
  case dbgsResume => cases h
  case dbgdRead => cases h
  case dbgdWrite => cases h
  case eccCorrected => cases h
  case eccUncorrectable => cases h
  case machineCheck => cases h
  case ocfgEnable => cases h
  case stateLogTimeout => cases h
  case ringFetchFault => cases h
  case badpkt => cases h
  case acceptanceReply => cases h

/-- An instruction that goes ahead answers a next state. -/
theorem exec_goes_ahead {i : Instr} {sh : Shell} {s : State} (h : Instr.shell i = some sh) (hg : GoesAhead s sh) :
    ∃ t, exec i s = .next t := by
  obtain ⟨body, hb⟩ := exec_shell i sh h
  exact ⟨_, (hb s).trans (issueWith_goes hg)⟩

end Sys2Proof.Machine
end

