-- ==== Sys2Proof/Tests/Slice0.lean ====
section
/-! SUPPORT. Tests: words decoded by hand, ill-formed terms, values that the spec works out, and for every obligation
with hypotheses a state and operands that meet them all.

The witnesses are named witness_<statement> (a primed name, or the name of a part of the statement, where a statement
has several witnesses). O3 WordsAreJudgedInOrder(+'); O4 StepRunsTheDecodedInstruction; O6, O7, O8, O12, O13
ScalarIssues and GoesAhead; O11 GoesAhead; O19 VirtualAccesses(+'), BadAddresses; O21 also AtomicsAtTheSlice and AtomicOperations; O23,
O25, O32 also their primed names; O25 also SpawnsTrap; O31 also RayResults; O24 also its primed names and BoundChannelInstructions; O26 also NewThreads; O27 and
O29 also their primed names; O30 Zones; O33 also LayerRequests; O34 also LayersMerge; O35 also Payloads; O36
Invalidations, Stops; O44 also QueueRegisters; O46 PacketsStart(+'), PacketsFail, PacketsComplete(+'); O47 and O48 also their
primed names and RemoteLaunches(+'), O48 RemoteLaneRefused; O53 ClusterDeliveries, WorkGraphs, PayloadFrames,
BoundChannels; O56 also LateTraps; O57 JobsAreAcceptedAndRefused, CollectivesGatherOrTimeOut; O58 also its primed
name, EngineResults(+'), StaAndCmma, Transforms, Copies, Collectives and EngineFaults; O60 Errors, DebugStops; every
other statement with hypotheses the witness of its own name. O1, O37 and O39 have no hypotheses.
-/

namespace Sys2Proof.Tests
open Sys2Proof Sys2Proof.Machine
set_option Elab.async false

/-- The state whose next step issues the instruction at 0x6000, for a thread of level KER in slot 0 of core 0. -/
def base : State := State.reset.withFetchWord 64 0
/-- With register `n` of the thread set. -/
def g (s : State) (n : Nat) (v : Word) : State := s.modMyCore fun x => x.setGreg s.me n v
/-- With the thread changed. -/
def th (s : State) (f : Thread → Thread) : State := s.modMe f
/-- With the core changed. -/
def co (s : State) (f : Core → Core) : State := s.modMyCore f
/-- With the cluster changed. -/
def cl (s : State) (f : Cluster → Cluster) : State := s.modCluster 0 f
/-- With the partition changed. -/
def pa (s : State) (f : Part → Part) : State := s.modPart 1 f
/-- The thread at APP level. -/
def app : State := th base fun t => { t with pl := 0 }
/-- Parked in slot 0. -/
def parked (s : State) (w : Why) : State := th s fun t => { t with park := some ⟨w, 0, 0⟩ }
/-- The state that an outcome answers. -/
def out (r : Host.Outcome State Fault Refusal) : State := match r with | .next t => t | _ => State.reset
def p : Pred := .always
/-- A read or write of a unit fails. -/
def isErr {α : Type} (e : Except LodgeErr α) : Bool := match e with | .error _ => true | .ok _ => false
/-- An address of local memory of core 0, through its window. -/
def win (off : Nat) : Word := BitVec.ofNat 64 (2 ^ 57 - 2 ^ 31 + off)

/-- The predicate of the words below: PN 1, PX 3. -/
def q : Pred := ⟨true, 3⟩
/-- Words of group 0x0, from the positions of R299 and the grid of R306. -/
theorem test_integer_words_decode : decodeTableWord 64 0x00160A0C0E000000 = some (.add q 5 6 7)
    ∧ decodeTableWord 64 0x00360A0C0E000000 = some (.sub q 5 6 7)
    ∧ decodeTableWord 64 0x00560A0C0E000000 = some (.mul q 5 6 7)
    ∧ decodeTableWord 64 0x00760A0C0E000000 = some (.mulh q 5 6 7)
    ∧ decodeTableWord 64 0x00960A0C0E000000 = some (.mulhz q 5 6 7)
    ∧ decodeTableWord 64 0x00B60A0C0E000000 = some (.div q 5 6 7)
    ∧ decodeTableWord 64 0x00D60A0C0E000000 = some (.divz q 5 6 7)
    ∧ decodeTableWord 64 0x00F60A0C0E000000 = some (.rem q 5 6 7)
    ∧ decodeTableWord 64 0x01160A0C0E000000 = some (.remz q 5 6 7)
    ∧ decodeTableWord 64 0x01360A0C0E000000 = some (.and q 5 6 7)
    ∧ decodeTableWord 64 0x01560A0C0E000000 = some (.or q 5 6 7)
    ∧ decodeTableWord 64 0x01760A0C0E000000 = some (.xor q 5 6 7)
    ∧ decodeTableWord 64 0x01960A0C0E000000 = some (.andn q 5 6 7)
    ∧ decodeTableWord 64 0x01B60A0C0E000000 = some (.shl q 5 6 7)
    ∧ decodeTableWord 64 0x01D60A0C0E000000 = some (.shr q 5 6 7)
    ∧ decodeTableWord 64 0x01F60A0C0E000000 = some (.sha q 5 6 7)
    ∧ decodeTableWord 64 0x02160A0C0E000000 = some (.rol q 5 6 7)
    ∧ decodeTableWord 64 0x02360A0C0E000000 = some (.min q 5 6 7)
    ∧ decodeTableWord 64 0x02560A0C0E000000 = some (.max q 5 6 7)
    ∧ decodeTableWord 64 0x02760A0C0E000000 = some (.minz q 5 6 7)
    ∧ decodeTableWord 64 0x02960A0C0E000000 = some (.maxz q 5 6 7)
    ∧ decodeTableWord 64 0x02B60A0C00000000 = some (.clz q 5 6)
    ∧ decodeTableWord 64 0x02D60A0C00000000 = some (.popc q 5 6)
    ∧ decodeTableWord 64 0x02F60A0C00000000 = some (.brev q 5 6)
    ∧ decodeTableWord 64 0x03160A0C0E120000 = some (.madd q 5 6 7 9)
    ∧ decodeTableWord 64 0x03360A0C00002204 = some (.bfx q 5 6 true 4 8)
    ∧ decodeTableWord 64 0x03560A0C0E000204 = some (.bfi q 5 6 7 4 8)
    ∧ decodeTableWord 64 0x03760A0C0E000000 = some (.addw q 5 6 7)
    ∧ decodeTableWord 64 0x03960A0C0E000000 = some (.subw q 5 6 7)
    ∧ decodeTableWord 64 0x03B60A0C0E000000 = some (.mulw q 5 6 7) := by
  and_intros <;> decide +kernel
/-- Words of group 0x1, from the positions of R299 and the grid of R306. -/
theorem test_immediate_words_decode : decodeTableWord 64 0x08160A0DF0000003 = some (.addi q 5 6 0x1F0000003)
    ∧ decodeTableWord 64 0x08360A0DF0000003 = some (.andi q 5 6 0x1F0000003)
    ∧ decodeTableWord 64 0x08560A0DF0000003 = some (.ori q 5 6 0x1F0000003)
    ∧ decodeTableWord 64 0x08760A0DF0000003 = some (.xori q 5 6 0x1F0000003)
    ∧ decodeTableWord 64 0x08960A0C0000002B = some (.shli q 5 6 43)
    ∧ decodeTableWord 64 0x08B60A0C0000002B = some (.shri q 5 6 43)
    ∧ decodeTableWord 64 0x08D60A0C0000002B = some (.shai q 5 6 43)
    ∧ decodeTableWord 64 0x08F60A0DF0000003 = some (.muli q 5 6 0x1F0000003)
    ∧ decodeTableWord 64 0x09160A0123456789 = some (.ldi q 5 0x123456789)
    ∧ decodeTableWord 64 0x09360A0C7FFFFFFE = some (.ldih q 5 6 0x7FFFFFFE)
    ∧ decodeTableWord 64 0x09560A000E01FFF8 = some (.lea q 5 7 0x1FFF8)
    ∧ decodeTableWord 64 0x09760A0C00000000 = some (.mov q 5 6)
    ∧ decodeTableWord 64 0x09960A000000000D = some (.getid q 5 13) := by
  and_intros <;> decide +kernel
/-- Words of group 0x2, from the positions of R299 and the grid of R306. -/
theorem test_compare_words_decode : decodeTableWord 64 0x1016000C0E000046 = some (.cmp q 4 6 7 .ltu)
    ∧ decodeTableWord 64 0x1036680DFFFFFFFF = some (.cmpi q 4 6 .ltu 0x1FFFFFFFF)
    ∧ decodeTableWord 64 0x1056000000001723 = some (.plog q 2 6 5 .andn)
    ∧ decodeTableWord 64 0x10760A0C0E00000D = some (.sel q 5 5 true 6 7)
    ∧ decodeTableWord 64 0x10960A0000000000 = some (.pget q 5)
    ∧ decodeTableWord 64 0x10B6000C00000000 = some (.pset q 6) := by
  and_intros <;> decide +kernel
/-- Words of group 0x3, from the positions of R299 and the grid of R306. -/
theorem test_control_words_decode : decodeTableWord 64 0x181601FFFFFFFFF0 = some (.br q 0x1FFFFFFFFF0)
    ∧ decodeTableWord 64 0x1836000C00000000 = some (.jmp q 6)
    ∧ decodeTableWord 64 0x18560A0000000010 = some (.call q 5 0x10)
    ∧ decodeTableWord 64 0x18760A0C00000000 = some (.callr q 5 6)
    ∧ decodeTableWord 64 0x1896000C00000000 = some (.ret q 6)
    ∧ decodeTableWord 64 0x18B60BFFFFFFFFFD = some (.loop q 5 0x1FFFFFFFFFD)
    ∧ decodeTableWord 64 0x18D6000000000000 = some (.nop q)
    ∧ decodeTableWord 64 0x18F6000000000000 = some (.exit q) := by
  and_intros <;> decide +kernel
/-- Words of group 0x4, from the positions of R299 and the grid of R306. -/
theorem test_memory_words_decode : decodeTableWord 64 0x20160A000E0C0108 = some (.ld q 5 7 0x108 .w true false)
    ∧ decodeTableWord 64 0x2036000C0E120108 = some (.st q 7 6 0x108 .h true)
    ∧ decodeTableWord 64 0x20560A000E120008 = some (.ldx q 5 7 9 .b false true)
    ∧ decodeTableWord 64 0x2076000C0E120003 = some (.stx q 6 7 9 .d false)
    ∧ decodeTableWord 64 0x20960A000EAC0008 = some (.lda q 5 7 8 .w true false .pkg)
    ∧ decodeTableWord 64 0x20B6000C0E640000 = some (.stl q 7 6 0 .w false .quad)
    ∧ decodeTableWord 64 0x20D60A000F060020 = some (.ldf q 5 7 0x20 .d false false true)
    ∧ decodeTableWord 64 0x20F6000C0E160020 = some (.stf q 7 6 0x20 .d true)
    ∧ decodeTableWord 64 0x2116000C0E100020 = some (.clre q 7 6 0x20 true)
    ∧ decodeTableWord 64 0x213600000E000020 = some (.pref q 7 0x20) := by
  and_intros <;> decide +kernel
/-- Words of group 0x5, from the positions of R299 and the grid of R306. -/
theorem test_atomic_words_decode : decodeTableWord 64 0x28160A0C0E0005F7 = some (.amo q 5 7 6 .maxz ⟨.d, .ar, .pkg⟩)
    ∧ decodeTableWord 64 0x28360A0C0E120260 = some (.cas q 5 7 6 9 ⟨.w, .acq, .clus⟩)
    ∧ decodeTableWord 64 0x2856000C0E0006A2 = some (.red q 7 6 .or ⟨.w, .rel, .dom⟩)
    ∧ decodeTableWord 64 0x28760A0C0E000015 = some (.famo q 5 7 6 .max ⟨.h, .rlx, .slot⟩)
    ∧ decodeTableWord 64 0x2896000C0E000024 = some (.fred q 7 6 .min ⟨.w, .rlx, .slot⟩)
    ∧ decodeTableWord 64 0x28B6000C0F160040 = some (.watch q 7 6 0x40 .d .geu .die) := by
  and_intros <;> decide +kernel
/-- Words of group 0x6, from the positions of R299 and the grid of R306. -/
theorem test_sync_words_decode : decodeTableWord 64 0x301600000000001F = some (.fence q .full .sys)
    ∧ decodeTableWord 64 0x3036000000000002 = some (.pfence q .smp)
    ∧ decodeTableWord 64 0x3056000C0E000003 = some (.bar q 6 7 .quad)
    ∧ decodeTableWord 64 0x3076000C0E000003 = some (.bara q 6 7 .quad)
    ∧ decodeTableWord 64 0x3096000C0E000003 = some (.barw q 6 7 .quad)
    ∧ decodeTableWord 64 0x30B60B4C00000000 = some (.qpeek q 5 0xA6)
    ∧ decodeTableWord 64 0x30D60B4C00000000 = some (.qcnt q 5 0xA6)
    ∧ decodeTableWord 64 0x30F6014C0E000000 = some (.qbind q 0xA6 7)
    ∧ decodeTableWord 64 0x3116014C00000000 = some (.qflush q 0xA6)
    ∧ decodeTableWord 64 0x3136000000000000 = some (.vsync q)
    ∧ decodeTableWord 64 0x3156010A0E000005 = some (.kwait q 0x85 7 .lts) := by
  and_intros <;> decide +kernel
/-- Words of group 0x7, from the positions of R299 and the grid of R306. -/
theorem test_task_words_decode : decodeTableWord 64 0x381600200E000017 = some (.spawn q 16 7 true 7)
    ∧ decodeTableWord 64 0x3836000C00000006 = some (.joinw q 6 .dom)
    ∧ decodeTableWord 64 0x3856000000000000 = some (.wfw q)
    ∧ decodeTableWord 64 0x38760A0C0000000C = some (.tnew q 5 6 12)
    ∧ decodeTableWord 64 0x3896000000000000 = some (.yield q)
    ∧ decodeTableWord 64 0x38B6000C00000000 = some (.park q 6) := by
  and_intros <;> decide +kernel
/-- Words of group 0x8, from the positions of R299 and the grid of R306. -/
theorem test_float_words_decode : decodeTableWord 64 0x40160A0C0E000001 = some (.fadd q 5 6 7 .s .rtz)
    ∧ decodeTableWord 64 0x40360A0C0E00000A = some (.fsub q 5 6 7 .d .rup)
    ∧ decodeTableWord 64 0x40560A0C0E000003 = some (.fmul q 5 6 7 .s .rdn)
    ∧ decodeTableWord 64 0x40760A0C0E12000A = some (.ffma q 5 6 7 9 .d .rup)
    ∧ decodeTableWord 64 0x40960A0C0E00000C = some (.fdiv q 5 6 7 .d .rmm)
    ∧ decodeTableWord 64 0x40B60A0C00000001 = some (.fsqrt q 5 6 .s .rtz)
    ∧ decodeTableWord 64 0x40D60A0C0E000007 = some (.fmin q 5 6 7 .s .dyn)
    ∧ decodeTableWord 64 0x40F60A0C0E000008 = some (.fmax q 5 6 7 .d .rne)
    ∧ decodeTableWord 64 0x4116000C0E000868 = some (.fcmp q 4 6 7 .un .d .rne)
    ∧ decodeTableWord 64 0x41360A0C00000044 = some (.fcvt q 5 6 .fz .s .rmm)
    ∧ decodeTableWord 64 0x41560A0C0E000048 = some (.fsgn q 5 6 7 .sgx .d .rne)
    ∧ decodeTableWord 64 0x41760A0C00000008 = some (.fclass q 5 6 .d .rne) := by
  and_intros <;> decide +kernel
/-- Words of group 0x9, from the positions of R299 and the grid of R306. -/
theorem test_vector_words_decode : decodeTableWord 128 0x0098800107FFE003C8160A0C0E000613 = some (.vadd q 5 6 7 ⟨0, .rtz, 33, false, false, true, true, 9, 0x1100, 0x0041, 0x1FFF, 0x0003⟩)
    ∧ decodeTableWord 128 0x0098800107FFE003C8360A0C0E000613 = some (.vsub q 5 6 7 ⟨0, .rtz, 33, false, false, true, true, 9, 0x1100, 0x0041, 0x1FFF, 0x0003⟩)
    ∧ decodeTableWord 128 0x0098800107FFE003C8560A0C0E000613 = some (.vmul q 5 6 7 ⟨0, .rtz, 33, false, false, true, true, 9, 0x1100, 0x0041, 0x1FFF, 0x0003⟩)
    ∧ decodeTableWord 128 0x0098800107FFE003C8760A0C0E120619 = some (.vfma q 5 6 7 9 ⟨0, .rtz, 33, true, false, false, true, 9, 0x1100, 0x0041, 0x1FFF, 0x0003⟩)
    ∧ decodeTableWord 128 0x0098800107FFE003C8960A0C0E000613 = some (.vmin q 5 6 7 ⟨0, .rtz, 33, false, false, true, true, 9, 0x1100, 0x0041, 0x1FFF, 0x0003⟩)
    ∧ decodeTableWord 128 0x0098800107FFE003C8B60A0C0E000613 = some (.vmax q 5 6 7 ⟨0, .rtz, 33, false, false, true, true, 9, 0x1100, 0x0041, 0x1FFF, 0x0003⟩)
    ∧ decodeTableWord 128 0x0098800107FFE003C8D60A0C00000612 = some (.vabs q 5 6 ⟨0, .rtz, 33, false, false, true, false, 9, 0x1100, 0x0041, 0x1FFF, 0x0003⟩)
    ∧ decodeTableWord 128 0x0098800107FFE003C8F60A0C0E000612 = some (.vscl q 5 6 7 ⟨0, .rtz, 33, false, false, true, false, 9, 0x1100, 0x0041, 0x1FFF, 0x0003⟩)
    ∧ decodeTableWord 128 0x0098800107FFE003C9160A0C0E120618 = some (.vaxpy q 5 6 7 9 ⟨0, .rtz, 33, true, false, false, false, 9, 0x1100, 0x0041, 0x1FFF, 0x0003⟩)
    ∧ decodeTableWord 128 0x0098800107FFE003C9360A0C0E000613 = some (.vand q 5 6 7 ⟨0, .rtz, 33, false, false, true, true, 9, 0x1100, 0x0041, 0x1FFF, 0x0003⟩)
    ∧ decodeTableWord 128 0x0098800107FFE003C9560A0C0E000613 = some (.vor q 5 6 7 ⟨0, .rtz, 33, false, false, true, true, 9, 0x1100, 0x0041, 0x1FFF, 0x0003⟩)
    ∧ decodeTableWord 128 0x0098800107FFE003C9760A0C0E000613 = some (.vxor q 5 6 7 ⟨0, .rtz, 33, false, false, true, true, 9, 0x1100, 0x0041, 0x1FFF, 0x0003⟩)
    ∧ decodeTableWord 128 0x0098800107FFE003C9960A0C0E000613 = some (.vshl q 5 6 7 ⟨0, .rtz, 33, false, false, true, true, 9, 0x1100, 0x0041, 0x1FFF, 0x0003⟩)
    ∧ decodeTableWord 128 0x0098800107FFE003C9B60A0C0E000613 = some (.vshr q 5 6 7 ⟨0, .rtz, 33, false, false, true, true, 9, 0x1100, 0x0041, 0x1FFF, 0x0003⟩)
    ∧ decodeTableWord 128 0x0098800107FFE003C9D60A0C0E00E614 = some (.vcmp q 5 6 7 ⟨7, .rtz, 33, false, true, false, false, 9, 0x1100, 0x0041, 0x1FFF, 0x0003⟩)
    ∧ decodeTableWord 128 0x0098800107FFE003C9F60A0C0E120619 = some (.vsel q 5 6 7 9 ⟨0, .rtz, 33, true, false, false, true, 9, 0x1100, 0x0041, 0x1FFF, 0x0003⟩)
    ∧ decodeTableWord 128 0x0098800107FFE003CA160A0C0E002614 = some (.vcmul q 5 6 7 ⟨1, .rtz, 33, false, true, false, false, 9, 0x1100, 0x0041, 0x1FFF, 0x0003⟩)
    ∧ decodeTableWord 128 0x0098800107FFE003CA360A0C0E12261A = some (.vcmac q 5 6 7 9 ⟨1, .rtz, 33, true, false, true, false, 9, 0x1100, 0x0041, 0x1FFF, 0x0003⟩)
    ∧ decodeTableWord 128 0x0098800107FFE003CA560A0C00000612 = some (.vmov q 5 6 ⟨0, .rtz, 33, false, false, true, false, 9, 0x1100, 0x0041, 0x1FFF, 0x0003⟩) := by
  and_intros <;> decide +kernel
/-- Words of group 0xA, from the positions of R299 and the grid of R306. -/
theorem test_vector2_words_decode : decodeTableWord 128 0x0098800107FFE003D0160A0C0000A611 = some (.vred q 5 6 ⟨5, .rtz, 33, false, false, false, true, 9, 0x1100, 0x0041, 0x1FFF, 0x0003⟩)
    ∧ decodeTableWord 128 0x0098800107FFE003D0360A0C0E002616 = some (.vdot q 5 6 7 ⟨1, .rtz, 33, false, true, true, false, 9, 0x1100, 0x0041, 0x1FFF, 0x0003⟩)
    ∧ decodeTableWord 128 0x0098800107FFE003D0560A0C00004611 = some (.vscan q 5 6 ⟨2, .rtz, 33, false, false, false, true, 9, 0x1100, 0x0041, 0x1FFF, 0x0003⟩)
    ∧ decodeTableWord 128 0x0098800107FFE003D0760A0C00000612 = some (.vcvt q 5 6 ⟨0, .rtz, 33, false, false, true, false, 9, 0x1100, 0x0041, 0x1FFF, 0x0003⟩)
    ∧ decodeTableWord 128 0x0098800107FFE003D0960A0C00002611 = some (.vldg q 5 6 ⟨1, .rtz, 33, false, false, false, true, 9, 0x1100, 0x0041, 0x1FFF, 0x0003⟩)
    ∧ decodeTableWord 128 0x0098800107FFE003D0B60A0C00002612 = some (.vstg q 5 6 ⟨1, .rtz, 33, false, false, true, false, 9, 0x1100, 0x0041, 0x1FFF, 0x0003⟩)
    ∧ decodeTableWord 128 0x0098800107FFE003D0D60A0C0E002615 = some (.vgath q 5 6 7 ⟨1, .rtz, 33, false, true, false, true, 9, 0x1100, 0x0041, 0x1FFF, 0x0003⟩)
    ∧ decodeTableWord 128 0x0098800107FFE003D0F60A0C0E002616 = some (.vscat q 5 6 7 ⟨1, .rtz, 33, false, true, true, false, 9, 0x1100, 0x0041, 0x1FFF, 0x0003⟩)
    ∧ decodeTableWord 128 0x0098800107FFE003D1160A0C00000611 = some (.vbcst q 5 6 ⟨0, .rtz, 33, false, false, false, true, 9, 0x1100, 0x0041, 0x1FFF, 0x0003⟩)
    ∧ decodeTableWord 128 0x0098800107FFE003D1360A0000000611 = some (.viota q 5 ⟨0, .rtz, 33, false, false, false, true, 9, 0x1100, 0x0041, 0x1FFF, 0x0003⟩)
    ∧ decodeTableWord 128 0x0098800107FFE003D1560A0C0E000613 = some (.vperm q 5 6 7 ⟨0, .rtz, 33, false, false, true, true, 9, 0x1100, 0x0041, 0x1FFF, 0x0003⟩)
    ∧ decodeTableWord 128 0x0098800107FFE003D1760A0C00000612 = some (.vexp q 5 6 ⟨0, .rtz, 33, false, false, true, false, 9, 0x1100, 0x0041, 0x1FFF, 0x0003⟩)
    ∧ decodeTableWord 128 0x0098800107FFE003D1960A0C00000612 = some (.vlog q 5 6 ⟨0, .rtz, 33, false, false, true, false, 9, 0x1100, 0x0041, 0x1FFF, 0x0003⟩)
    ∧ decodeTableWord 128 0x0098800107FFE003D1B60A0C00000612 = some (.vrcp q 5 6 ⟨0, .rtz, 33, false, false, true, false, 9, 0x1100, 0x0041, 0x1FFF, 0x0003⟩)
    ∧ decodeTableWord 128 0x0098800107FFE003D1D60A0C00000612 = some (.vrsq q 5 6 ⟨0, .rtz, 33, false, false, true, false, 9, 0x1100, 0x0041, 0x1FFF, 0x0003⟩)
    ∧ decodeTableWord 128 0x0098800107FFE003D1F60A0C00000612 = some (.vsin q 5 6 ⟨0, .rtz, 33, false, false, true, false, 9, 0x1100, 0x0041, 0x1FFF, 0x0003⟩)
    ∧ decodeTableWord 128 0x0098800107FFE003D2160A0C00000612 = some (.vcos q 5 6 ⟨0, .rtz, 33, false, false, true, false, 9, 0x1100, 0x0041, 0x1FFF, 0x0003⟩) := by
  and_intros <;> decide +kernel
/-- Words of group 0xB, from the positions of R299 and the grid of R306. -/
theorem test_job_words_decode : decodeTableWord 64 0x58160A1000000000 = some (.enq q 5 8)
    ∧ decodeTableWord 64 0x5836000C00000000 = some (.waitj q 6)
    ∧ decodeTableWord 64 0x58560A0C00000000 = some (.pollj q 5 6)
    ∧ decodeTableWord 64 0x58760A0C00000000 = some (.jstat q 5 6)
    ∧ decodeTableWord 64 0x5896000C0000000F = some (.zfset q 6 15)
    ∧ decodeTableWord 64 0x58B60A000000000F = some (.zfget q 5 15)
    ∧ decodeTableWord 64 0x58D6000C00000009 = some (.sclw q 6 9)
    ∧ decodeTableWord 64 0x58F6000C00000007 = some (.cbld q 6 7)
    ∧ decodeTableWord 64 0x59160A000000000E = some (.chwp q 5 14) := by
  and_intros <;> decide +kernel
/-- Words of group 0xC, from the positions of R299 and the grid of R306. -/
theorem test_graphics_words_decode : decodeTableWord 64 0x60160A0C0E000000 = some (.boxt q 5 6 7)
    ∧ decodeTableWord 64 0x60360A0C0E000000 = some (.trit q 5 6 7)
    ∧ decodeTableWord 64 0x6056000C00000000 = some (.tspush q 6)
    ∧ decodeTableWord 64 0x60760A0000000000 = some (.tspop q 5)
    ∧ decodeTableWord 64 0x6096000000000000 = some (.tsclr q)
    ∧ decodeTableWord 64 0x60B60A0C0E000001 = some (.smpl q 5 6 7 .bil)
    ∧ decodeTableWord 64 0x60D60A0C00000002 = some (.sld q 5 6 .w)
    ∧ decodeTableWord 64 0x60F6000C0E00000E = some (.lset q 6 7 14)
    ∧ decodeTableWord 64 0x61160A0C0000000B = some (.lget q 5 6 11)
    ∧ decodeTableWord 64 0x6136000C0E120000 = some (.lsplit q 6 7 9)
    ∧ decodeTableWord 64 0x6156000C0E000000 = some (.lmerge q 6 7)
    ∧ decodeTableWord 64 0x61760A0000000000 = some (.lreq q 5)
    ∧ decodeTableWord 64 0x6196000C00000000 = some (.ldone q 6)
    ∧ decodeTableWord 64 0x61B6000C00000000 = some (.lepoch q 6)
    ∧ decodeTableWord 64 0x61D60A0C00000000 = some (.wgalloc q 5 6)
    ∧ decodeTableWord 64 0x61F6000C0E000000 = some (.wgemit q 6 7)
    ∧ decodeTableWord 64 0x62160A0C0E000000 = some (.wgtake q 5 6 7)
    ∧ decodeTableWord 64 0x6236000C00000000 = some (.wgfree q 6)
    ∧ decodeTableWord 64 0x62560A0000000000 = some (.paya q 5)
    ∧ decodeTableWord 64 0x6276000C0E120000 = some (.payp q 6 7 9) := by
  and_intros <;> decide +kernel
/-- Words of group 0xD, from the positions of R299 and the grid of R306. -/
theorem test_system_words_decode : decodeTableWord 64 0x6816000100000001 = some (.trap q 0x100000001)
    ∧ decodeTableWord 64 0x6836000000000000 = some (.rft q)
    ∧ decodeTableWord 64 0x68560A00000002E0 = some (.srrd q 5 0x2E0)
    ∧ decodeTableWord 64 0x6876000C00000010 = some (.srwr q 6 0x010)
    ∧ decodeTableWord 64 0x6896000000000000 = some (.bkpt q)
    ∧ decodeTableWord 64 0x68B6000C00000001 = some (.tlbinv q 6 true)
    ∧ decodeTableWord 64 0x68D6000C00000002 = some (.cinv q 6 .iline)
    ∧ decodeTableWord 64 0x68F6000000000001 = some (.stopw q .core)
    ∧ decodeTableWord 64 0x6916000000000001 = some (.resw q .core)
    ∧ decodeTableWord 64 0x6936000C00000000 = some (.logmk q 6)
    ∧ decodeTableWord 64 0x69560A0000000FFF = some (.cntrd q 5 0xFFF) := by
  and_intros <;> decide +kernel

/-! ### Ill-formed terms, each refused by its check (R307 to R314) -/
/-- A layout-AT modifier and a layout-V modifier. -/
def am (sz : Size) (o : Ord4) (sc : Scope) : AtMod := ⟨sz, o, sc⟩
def vb (vx : Nat) (dc db da dd : Bool) : VMod := ⟨BitVec.ofNat 4 vx, .rne, 0, dc, db, da, dd, 1, 0, 0, 0, 0⟩
theorem test_ill_formed_scalar : Instr.wf (.bfx p 1 2 true 60 8) = false ∧ Instr.wf (.bfx p 1 2 true 4 0) = false ∧ Instr.wf (.bfi p 1 2 3 60 8) = false
    ∧ Instr.wf (.plog p 1 2 3 .not) = false ∧ Instr.wf (.plog p 1 2 3 .movp) = false ∧ Instr.wf (.tnew p 1 2 0) = false
    ∧ Instr.wf (.amo p 1 2 3 .add (am .h .rlx .slot)) = false ∧ Instr.wf (.amo p 1 2 3 .add (am .d .rlx .pkg)) = false
    ∧ Instr.wf (.cas p 1 2 3 4 (am .b .acq .pkg)) = false ∧ Instr.wf (.red p 1 2 .swap (am .d .rlx .slot)) = false
    ∧ Instr.wf (.red p 1 2 .add (am .d .acq .pkg)) = false ∧ Instr.wf (.famo p 1 2 3 .add (am .d .rlx .slot)) = false
    ∧ Instr.wf (.fred p 1 2 .add (am .h .ar .pkg)) = false ∧ Instr.wf (.srrd p 1 7) = false ∧ Instr.wf (.srwr p 1 0xFFF) = false := by
  and_intros <;> decide +kernel
theorem test_ill_formed_two_sources : ∀ i ∈ [Instr.vadd p 1 2 3, .vsub p 1 2 3, .vmul p 1 2 3, .vmin p 1 2 3, .vmax p 1 2 3, .vand p 1 2 3, .vor p 1 2 3,
    .vxor p 1 2 3, .vshl p 1 2 3, .vperm p 1 2 3], Instr.wf (i (vb 1 false false false false)) = false ∧ Instr.wf (i (vb 0 true false false false)) = false := by decide +kernel
theorem test_ill_formed_one_source : ∀ i ∈ [Instr.vabs p 1 2, .vmov p 1 2, .vexp p 1 2, .vlog p 1 2, .vrcp p 1 2, .vrsq p 1 2, .vsin p 1 2, .vcos p 1 2, .vscl p 1 2 3],
    Instr.wf (i (vb 1 false false false false)) = false ∧ Instr.wf (i (vb 0 true false false false)) = false ∧ Instr.wf (i (vb 0 false true false false)) = false := by decide +kernel
theorem test_ill_formed_variants : Instr.wf (.vshr p 1 2 3 (vb 2 false false false false)) = false ∧ Instr.wf (.vcmp p 1 2 3 (vb 8 false false false false)) = false
    ∧ Instr.wf (.vcmul p 1 2 3 (vb 2 false false false false)) = false ∧ Instr.wf (.vcmac p 1 2 3 4 (vb 2 false false false false)) = false
    ∧ Instr.wf (.vfma p 1 2 3 4 (vb 1 false false false false)) = false ∧ Instr.wf (.vaxpy p 1 2 3 4 (vb 1 false false false false)) = false
    ∧ Instr.wf (.vsel p 1 2 3 4 (vb 1 false false false false)) = false ∧ Instr.wf (.vred p 1 2 (vb 6 false false false false)) = false
    ∧ Instr.wf (.vscan p 1 2 (vb 6 false false false false)) = false ∧ Instr.wf (.vdot p 1 2 3 (vb 2 false false false false)) = false
    ∧ Instr.wf (.vcvt p 1 2 (vb 4 false false false false)) = false := by and_intros <;> decide +kernel
theorem test_ill_formed_directions : Instr.wf (.vldg p 1 2 (vb 14 false false false false)) = false ∧ Instr.wf (.vldg p 1 2 (vb 0 false false true false)) = false
    ∧ Instr.wf (.vstg p 1 2 (vb 0 false false false true)) = false ∧ Instr.wf (.vgath p 1 2 3 (vb 0 false false true false)) = false
    ∧ Instr.wf (.vscat p 1 2 3 (vb 0 false false false true)) = false ∧ Instr.wf (.vbcst p 1 2 (vb 0 false false true false)) = false
    ∧ Instr.wf (.viota p 1 (vb 0 false false true false)) = false ∧ Instr.wf (.vshr p 1 2 3 (vb 0 true false false false)) = false
    ∧ Instr.wf (.vcmp p 1 2 3 (vb 0 true false false false)) = false ∧ Instr.wf (.vcmul p 1 2 3 (vb 0 true false false false)) = false
    ∧ Instr.wf (.vred p 1 2 (vb 0 false true false false)) = false ∧ Instr.wf (.vscan p 1 2 (vb 0 true false false false)) = false
    ∧ Instr.wf (.vdot p 1 2 3 (vb 0 true false false false)) = false ∧ Instr.wf (.vcvt p 1 2 (vb 0 false true false false)) = false := by and_intros <;> decide +kernel

/-! ### Values that the spec works out -/
/-- A state with a in g6 and b in g7. -/
def ab (a b : Word) : State := g (g base 6 a) 7 b
/-- Register g5 after an instruction. -/
def r5 (i : Instr) (s : State) : Word := (out (exec i s)).myCore.greg (out (exec i s)).me 5
/-- R323's table. -/
theorem test_division_table : r5 (.div p 5 6 7) (ab (-7) 2) = -3 ∧ r5 (.rem p 5 6 7) (ab (-7) 2) = -1
    ∧ r5 (.div p 5 6 7) (ab 7 0) = 0xFFFFFFFFFFFFFFFF ∧ r5 (.rem p 5 6 7) (ab 7 0) = 7
    ∧ r5 (.div p 5 6 7) (ab 0x8000000000000000 (-1)) = 0x8000000000000000 ∧ r5 (.rem p 5 6 7) (ab 0x8000000000000000 (-1)) = 0 := by
  and_intros <;> decide +kernel
/-- R323's table. -/
theorem test_integer_table : r5 (.mulhz p 5 6 7) (ab (-1) (-1)) = 0xFFFFFFFFFFFFFFFE ∧ r5 (.mulh p 5 6 7) (ab (-1) (-1)) = 0
    ∧ r5 (.shl p 5 6 7) (ab 1 70) = 0x40 ∧ r5 (.sha p 5 6 7) (ab 0x8000000000000000 4) = 0xF800000000000000
    ∧ r5 (.addw p 5 6 7) (ab 0x7FFFFFFF 1) = 0xFFFFFFFF80000000 ∧ r5 (.clz p 5 6) (ab 1 0) = 63
    ∧ r5 (.bfx p 5 6 true 4 8) (ab 0x0F70 0) = 0xFFFFFFFFFFFFFFF7 := by and_intros <;> decide +kernel
/-- R324's pair of words, from 0x0123_4567_89AB_CDEF. -/
theorem test_constant_pair : r5 (.ldi p 5 0x189ABCDEF) base = 0xFFFFFFFF89ABCDEF
    ∧ r5 (.ldih p 5 5 0x0091A2B3) (g base 5 0xFFFFFFFF89ABCDEF) = 0x0123456789ABCDEF := by and_intros <;> decide +kernel
/-- R335's table. -/
theorem test_float_table : r5 (.fadd p 5 6 7 .s .rtz) (ab 0x7F7FFFFF 0x7F7FFFFF) = 0x7F7FFFFF ∧ r5 (.fadd p 5 6 7 .s .rne) (ab 0x7F7FFFFF 0x7F7FFFFF) = 0x7F800000
    ∧ r5 (.fcvt p 5 6 .xf .s .rup) (ab 0x3FF0000000000001 0) = 0x3F800001 ∧ r5 (.fcvt p 5 6 .xf .s .rne) (ab 0x3FF0000000000001 0) = 0x3F800000
    ∧ r5 (.fcvt p 5 6 .sf .s .rne) (ab 0xC0200000 0) = 0xFFFFFFFFFFFFFFFE ∧ r5 (.fcvt p 5 6 .sf .s .rne) (ab 0x7F800000 0) = 0x7FFFFFFFFFFFFFFF
    ∧ r5 (.fcvt p 5 6 .zf .s .rne) (ab 0xBFC00000 0) = 0 := by and_intros <;> decide +kernel
/-- R335's table. -/
theorem test_float_specials : r5 (.fmin p 5 6 7 .s .rne) (ab 0x7FC00000 0x3F800000) = 0x3F800000 ∧ r5 (.fmin p 5 6 7 .s .rne) (ab 0x80000000 0) = 0x80000000
    ∧ r5 (.fsqrt p 5 6 .s .rne) (ab 0xC0800000 0) = 0x7FC00000 ∧ r5 (.fclass p 5 6 .s .rne) (ab 1 0) = 0x20
    ∧ (out (exec (.fcmp p 2 6 7 .ne .s .rne) (ab 0x7FC00000 0x3F800000))).me.preds.getLsbD 2 = true
    ∧ (out (exec (.fcmp p 2 6 7 .lt .s .rne) (ab 0x7FC00000 0x3F800000))).me.preds.getLsbD 2 = false := by and_intros <;> decide +kernel
/-- R327: LOOP writes and branches while the count is not 0. -/
theorem test_loop : (out (exec (.loop p 5 (-3)) (g base 5 2))).me.pc = 0x6000 - 24 ∧ r5 (.loop p 5 (-3)) (g base 5 2) = 1
    ∧ (out (exec (.loop p 5 (-3)) (g base 5 1))).me.pc = 0x6008 ∧ r5 (.loop p 5 (-3)) (g base 5 0) = 0 := by and_intros <;> decide +kernel
/-- The table after R315 at APP level, and its line on predication. -/
theorem test_word_fates : Op.ofCode (bits 0x7000000000000000 62 53) = none ∧ Op.ofCode (bits 0x03C0000000000000 62 53) = none
    ∧ decodeTableWord 64 0x4800141618000000 = none ∧ decodeTableWord 64 0x68E0000000010000 = none ∧ decodeTableWord 64 0x20200008060C0000 = none
    ∧ (out ((th app fun t => { t with tvec := 0x7000 }).runWord 0x68E0000000010000)).me.tcause.toNat % 256 = Cause.priv.code ∧ exec (.exit ⟨true, 0⟩) base = .next (base.retire) := by
  and_intros <;> first | decide +kernel | rfl
/-- The window address of core 3 of cluster 5, quadrant 1, die 2 of device 37 at 0x1_0040 (worked at R25). -/
theorem test_window_address : winDev 0x01FFFE12C9590040 = 37 ∧ winOff 0x01FFFE12C9590040 = 0x10040
    ∧ winCore 0x01FFFE12C9590040 = 1024 * 2 + 256 * 1 + 8 * 5 + 3 := by and_intros <;> decide +kernel
/-- R150's example: k3 := 7 at cycle 100, and 2 before. -/
theorem test_k_register_latency : kRead [(100, 7), (0, 2)] 101 = 2 ∧ kRead [(100, 7), (0, 2)] 107 = 2 ∧ kRead [(100, 7), (0, 2)] 108 = 7 := by
  and_intros <;> decide +kernel
/-- R239's example: FP32 lane values in an E4M3 zone (format 3). -/
theorem test_e4m3_encoding :
    let e := fun (te : Bool) (rm : RM) (x : Nat) => encodeLane ⟨te, false, rm, []⟩ 3 (.fp (f32.decode false false x))
    [0x43960000, 0x3E99999A, 0x3A83126F, 0xC47A0000, 0x7FC00000].map (e false .rne) = [0x78, 0x2A, 0x01, 0xF8, 0x7C]
    ∧ [0x43960000, 0x3E99999A, 0x3A83126F, 0xC47A0000, 0x7FC00000].map (e true .rne) = [0x79, 0x2A, 0x01, 0xFF, 0x00]
    ∧ [0x43960000, 0x3E99999A, 0x3A83126F, 0xC47A0000, 0x7FC00000].map (e false .rtz) = [0x77, 0x29, 0x00, 0xF7, 0x7C] := by
  and_intros <;> decide +kernel
/-- R246's example: the transform of (1, 2, 3, 4) is stored as (10, −2), (−2, 2). -/
theorem test_fft_of_four : (fftBlock 2 [Val.ofInt 1, Val.ofInt 2, Val.ofInt 3, Val.ofInt 4]).map (fun q => (q.1.round32 false .rne, q.2.round32 false .rne))
    = [((Val.ofInt 10).round32 false .rne, (Val.ofInt (-2)).round32 false .rne), ((Val.ofInt (-2)).round32 false .rne, (Val.ofInt 2).round32 false .rne)] := by decide +kernel
/-- The pixel worked at R85: fragments A, B and C. -/
theorem test_composed_pixel : composePixel [⟨0x40000000, 1, 0, [100, 0, 0, 128]⟩, ⟨0x40000000, 0, 1, [0, 60, 0, 64]⟩, ⟨0x40A00000, 5, 2, [0, 0, 200, 255]⟩]
    = (75 + 256 * 60 + 65536 * 75, 0) := by decide +kernel
/-- R103's example: the TAG of a deeper frame with index 17, spawned at level 1, index 3, by core 0x62B. -/
def spawned : State :=
  let l : Launch := { placedLaunch with nlev := 3, levs := [⟨5, 5, 1⟩, ⟨3, 3, 4⟩, ⟨2, 2, 32⟩] }
  let s := pa (th base fun t => { t with tag := Word.ofNat (2 ^ 61 + 3 * 2 ^ 58 + 3) }) fun q => { q with launches := [(1, l)], quads := [6] }
  { s with cur := { s.cur with core := 0x62B }, qmap := [(6, Word.ofNat (2 ^ 32 + 2 ^ 16 + 1))], cores := [(0x62B, s.core 0)], clusters := [] }
theorem test_spawned_tag : (out (exec (.spawn p 16 7 true 0) (g spawned 7 17))).myCore.deque.map DqEntry.tag = [0x498AC00000000047] := by decide +kernel
/-- The ray of R419's example, and its triangle at 0x6200. -/
def rayState : State :=
  let f := fun (x : Nat) => leBytes 4 x
  let v := fun (a b c : Nat) => f a ++ f b ++ f c
  let tri := v 0x40800000 0xBF800000 0xBF800000 ++ v 0x40800000 0x3F800000 0xBF800000 ++ v 0x40800000 0xBF800000 0x3F800000 ++ leBytes 12 0
  let s : State := { base with dram := base.dram.store 0x6200 tri }
  g (g (g (g (g s 8 0) 9 0x3F80000000000000) 10 0) 11 0x42C8000000000000) 13 0x6200
/-- R419's example: g22 and g23. -/
theorem test_ray_triangle : (out (exec (.trit p 22 8 13) rayState)).myCore.greg base.me 22 = 0x0000000140800000
    ∧ (out (exec (.trit p 22 8 13) rayState)).myCore.greg base.me 23 = 0x3F0000003F000000 := by and_intros <;> decide +kernel
/-- The node of R419's example: children 0 to 2 with their boxes, child 3 EMPTY. -/
def boxState : State :=
  let f := fun (l : List Nat) => l.flatMap fun x => leBytes 4 x
  let lo := [[0x40A00000, 0xBF800000, 0xBF800000], [0x40000000, 0xBF800000, 0xBF800000], [0x40000000, 0x40000000, 0xBF800000], [0, 0, 0]]
  let hi := [[0x40C00000, 0x3F800000, 0x3F800000], [0x40400000, 0x3F800000, 0x3F800000], [0x40400000, 0x40400000, 0x3F800000], [0, 0, 0]]
  let box := (List.range 4).flatMap fun i => f (lo.getD i []) ++ f (hi.getD i [])
  let s : State := { rayState with dram := base.dram.store 0x6200 (box ++ [1, 1, 1, 0].flatMap fun k => leBytes 8 k) }
  g s 12 0x6200
theorem test_ray_box : (out (exec (.boxt p 20 8 12) boxState)).myCore.greg base.me 20 = 0x4000000000000E13 := by decide +kernel
/-- R421's table: the fifth push spills the oldest entry; the sixth pop finds nothing. -/
def stack (n : Nat) (reg : List Word) : State := th base fun t => { t with tsbase := 0x6100, tsreg := reg, tsdepth := n }
theorem test_traversal_stack : (out (exec (.tspush p 6) (g (stack 4 [0x100, 0x200, 0x300, 0x400]) 6 0x500))).me.tsreg = [0x200, 0x300, 0x400, 0x500]
    ∧ (out (exec (.tspush p 6) (g (stack 4 [0x100, 0x200, 0x300, 0x400]) 6 0x500))).me.tsdepth = 5
    ∧ r5 (.tspop p 5) (stack 5 [0x200, 0x300, 0x400, 0x500]) = 0x500 ∧ r5 (.tspop p 5) (stack 0 []) = 0xFFFFFFFFFFFFFFFF := by and_intros <;> decide +kernel
/-- R50's example: 1,000,000 at level 2. -/
theorem test_level_two : floorPow2 1000000 = 524288 := by decide +kernel
/-- R371's example: VSHL in Z8 and RAW8 zones, TAIL 4. -/
def shl4 (zf : Nat) : State :=
  let m : VMod := ⟨0, .rne, 4, false, false, false, false, 1, 0, 0, 0, 0⟩
  let s := co base fun x => { x with lmem := (x.lmem.store 0x8000 [0x90, 0x01, 0x7F, 0xFF]).store 0x8100 [1, 1, 1, 4], zf := [(0, zf), (1, 9)] }
  out (Machine.execVectorEntryPerform 0 0 (out (exec (.vshl p 1 2 3 m) (g (g (g s 1 0x10) 2 0x8000) 3 0x8100))))
theorem test_vector_shift : (shl4 9).myCore.lmem.bytes 0x10 4 = [0xFF, 0x02, 0xFE, 0xFF] ∧ (shl4 25).myCore.lmem.bytes 0x10 4 = [0x20, 0x02, 0xFE, 0xF0]
    ∧ (shl4 1).me.late.map Late.cause = [.vlate] := by and_intros <;> decide +kernel
/-- A store that covers a page's last bytes, little-endian (R6). -/
theorem test_store_bytes : (out (exec (.st p 7 6 0 .d true) (ab 0x0102030405060708 0x7FFF8))).myCore.lmem.bytes 0x7FFF8 8 = [8, 7, 6, 5, 4, 3, 2, 1] := by decide +kernel
/-! ### Reset (R41, R113), and the first step after it -/
/-- Nothing but the device's own clock moves at first: no partition, no thread. -/
theorem test_reset : State.reset.parts = [] ∧ State.reset.cores = [] ∧ State.reset.booted = false ∧ Memory.wf State.reset.dram = true := by
  and_intros <;> decide +kernel
theorem test_first_step : (out (step (State.reset.withFetchWord 64 0x09000A0189ABCDEF))).myCore.greg base.me 5 = 0xFFFFFFFF89ABCDEF
    ∧ ((out (step (State.reset.withFetchWord 64 0x09000A0189ABCDEF))).thread? 0 0).map Thread.pc = some 0x6008 := by and_intros <;> decide +kernel
/-- The example of the hash standard that R42 uses: the digest of "abc". -/
theorem test_sha256 : beNat (sha256 [0x61, 0x62, 0x63]) = 0xBA7816BF8F01CFEA414140DE5DAE2223B00361A396177A9CB410FF61F20015AD := by decide +kernel


namespace PartA

/-- Two operands: the dividend -7 and the divisor 2. -/
def two : State := g (g base 2 (-7)) 3 2
theorem witness_EncodedInstructionsDecode : Instr.isCode (.bfi p 1 2 3 63 1) = true ∧ Instr.wf (.bfi p 1 2 3 63 1) = true := by
  decide +kernel
theorem witness_WordsAreJudgedInOrder : Op.ofCode (bits 0x7FE0000000000000 62 53) = none ∧ Op.ofCode (bits 0x8000000000000000 62 53) = some .add
    ∧ bit 0x8000000000000000 63 ≠ Op.long .add ∧ app.me.pl = 0
    ∧ decodeFields .bkpt (2 ^ 53 * Op.code .bkpt + 1) 0 = none ∧ base.me.pl ≠ 0 ∧ Op.long .bkpt = false := by and_intros <;> decide +kernel
theorem witness_WordsAreJudgedInOrder' : decodeWords [0x00000A0A0C000000] = .ok (.add .always 5 5 6)
    ∧ decodeOp (2 ^ 53 * Op.code .stopw) = .ok .stopw ∧ decodeOp (2 ^ 53 * Op.code .bkpt + 1) = .ok .bkpt
    ∧ decodeOp 0xFFFFFFFFFFFFFFFF = .error .illop ∧ decodeOp 0x8000000000000000 = .error .illlen := by and_intros <;> rfl
/-- The next turn issues slot 0, at a page that holds an ADD. -/
def placed : State := { State.reset.withFetchWord 64 0x00000A0A0C000000 with agenda := [.slot 0 0] }
def atFetch : State := (State.atBoundary { placed with agenda := [] } 0 0).atFetch placed.me
def fetched : State := match atFetch.fetchWord 0x6000 with | .ok (_, s) => s | .error s => s
theorem fetched_ok : atFetch.fetchWord 0x6000 = .ok (0x00000A0A0C000000, fetched) := by
  have h : (match atFetch.fetchWord 0x6000 with | .ok (w, _) => w == 0x00000A0A0C000000 | .error _ => false) = true := by
    decide +kernel
  unfold fetched
  split at h
  · rename_i w s e; rw [e]; rw [beq_iff_eq.mp h]
  · cases h
theorem witness_StepRunsTheDecodedInstruction : placed.agenda = [.slot 0 0] ∧ placed.thread? 0 0 = some placed.me
    ∧ State.canRun { placed with agenda := [] } 0 placed.me = true ∧ placed.me.ending = false
    ∧ placed.me.lateNow 0 = none ∧ placed.me.pc = 0x6000 ∧ placed.me.pc.toNat % 8 = 0
    ∧ (placed.rotationBy (placed.issueMoment 0 0)).isNone = true
    ∧ (({ placed with clk := 31 } : State).rotationBy (({ placed with clk := 31 } : State).issueMoment 0 0)).isSome = true := by and_intros <;> decide +kernel
theorem witness_StepTakesEventsAndSelectedSlots : Instr.isCode .frameTick = false ∧ base.agenda = [] ∧ base.phase = false
    ∧ base.pickCore = some (0, 0) ∧ (base.rotationBy (base.issueMoment 0 0)).isNone = true
    ∧ ({ base with clk := 31 } : State).pickCore = some (0, 0)
    ∧ (({ base with clk := 31 } : State).rotationBy (({ base with clk := 31 } : State).issueMoment 0 0)).isSome = true := by and_intros <;> decide +kernel
theorem witness_ScalarIssues : Issues two p (some (rg 1)) [rg 2, rg 3] ∧ Issues two p (some (rg 1)) [rg 2]
    ∧ Issues two p (some (rg 1)) [rg 2, rg 3, rg 1] ∧ Issues two p (some (rg 1)) [] ∧ Issues two p none [rg 2, rg 3]
    ∧ Issues two p none [rg 2] ∧ Issues two p none [] ∧ two.launch? two.myPartNo two.me.lid = some placedLaunch
    ∧ LogOff two ∧ two.me?.isSome = true := by and_intros <;> decide +kernel
theorem witness_UnselectedInstructionsFallThrough : base.me? = some base.me
    ∧ operandTrap [rg 1, rg 2, rg 3] base.me.lim = none ∧ base.me.executes ⟨true, 0⟩ = false := by and_intros <;> decide +kernel
theorem witness_OperandsAreJudgedBeforeTheEffect : Pos.legal (rg 0xFF) = false ∧ Pos.legal (rg 1) = true
    ∧ Pos.inWindow (rg 0x7F) 127 = false ∧ Pos.inWindow (rg 0x7E) 127 = true
    ∧ poisonedReg (co two fun x => { x with regPoison := [2] }).myCore two.me [rg 2] = some 2
    ∧ poisonedReg two.myCore two.me [rg 0xA0] = none
    ∧ (popsOf (regCodes [rg 0xA0])).find? (fun ch => ((co two fun x =>
        { x with chans := [(0, ⟨[], some ⟨1023, 0, 1, 16, 0, 0⟩, 0, false, []⟩)] }).myCore.chan ch).bind.isSome) = some 0
    ∧ chansReady two.myCore 0 none (popsOf (regCodes [rg 0xA0])) none false = false
    ∧ two.me.executes p = true := by and_intros <;> decide +kernel
theorem witness_GoesAhead : registerResult (.add p 1 2 3) = true ∧ predicateResult (.cmp p 1 2 3 .eq) = true
    ∧ GoesAhead two ⟨true, 8, p, some (rg 1), [rg 2, rg 3]⟩ ∧ GoesAhead two ⟨true, 8, p, none, [rg 2, rg 3]⟩
    ∧ GoesAhead two ⟨true, 8, p, some (rg 0xA3), [rg 2, rg 3]⟩ ∧ (two.myCore.chan 3).bind = none := by and_intros <;> decide +kernel
theorem witness_ControlTransfers : (two.me.pc + 8 * BitVec.signExtend 64 (1 : BitVec 41)).toNat < 2 ^ 57
    ∧ Issues (g base 2 0x7000) p (some (rg 1)) [rg 2] ∧ ((g base 2 0x7000).operand [2] 0).toNat = 0x7000
    ∧ Issues (g base 4 2) p (some (rg 4)) [rg 4] ∧ (g base 4 2).operand [4] 0 = 2 ∧ (base.operand [4] 0) = 0
    ∧ ((g base 2 0x7001).operand [2] 0).toNat % 8 ≠ 0
    ∧ ¬ ((base.me.pc + 8 * BitVec.signExtend 64 (-2 ^ 40 : BitVec 41)).toNat < 2 ^ 57) := by and_intros <;> decide +kernel
/-- A thread with a handler at 0x8000. -/
def handled : State := th base fun t => { t with tvec := 0x8001 }
theorem witness_TrapsEnterTheHandler : handled.me? = some handled.me ∧ Unwatched handled ∧ 8 ≤ handled.me.tvec.toNat
    ∧ bit handled.me.tcause.toNat 63 = false ∧ base.me? = some base.me ∧ Unwatched base ∧ base.corePart base.cur.core = some 1
    ∧ base.part? 1 = some base.myPart ∧ base.myPart.launches.look base.me.lid = some placedLaunch ∧ placedLaunch.fused = none
    ∧ base.myPart.oen = false ∧ base.olog.en = false ∧ base.me.tvec.toNat < 8 := by and_intros <;> decide +kernel
def inHandler : State := th base fun t => { t with tpc := 0x6010, tcause := 0xA000000000000001 }
theorem witness_TrapInstructionsAndReturn : Issues base p none [] ∧ base.me.tpc.toNat < 2 ^ 57 ∧ bit base.me.tcause.toNat 63 = false
    ∧ Issues inHandler p none [] ∧ inHandler.me.tpc.toNat < 2 ^ 57 ∧ inHandler.me.tpc.toNat % 8 = 0
    ∧ bit inHandler.me.tcause.toNat 63 = true ∧ bit inHandler.me.tcause.toNat 61 = true ∧ LogOff inHandler
    ∧ (∀ e ∈ inHandler.myCore.ring, e.sth ≠ inHandler.me.sth)
    ∧ ¬ ((th base fun t => { t with tpc := 4 }).me.tpc.toNat % 8 = 0) := by and_intros <;> decide +kernel
theorem witness_SystemRegisters : Issues base p (some (rg 1)) [] ∧ base.me.pl ≠ 0 ∧ Issues app p (some (rg 1)) [] ∧ app.me.pl = 0
    ∧ Issues (g base 2 4) p none [rg 2] ∧ bits ((g base 2 4).operand [2] 0).toNat 5 4 ≠ 3
    ∧ bits ((g base 2 4).operand [2] 0).toNat 2 0 ≤ 4 ∧ 4 < bits ((g base 2 5).operand [2] 0).toNat 2 0
    ∧ Issues (g app 2 4) p none [rg 2] := by and_intros <;> decide +kernel
/-- Register 1 holds an address of local memory, register 2 a value and register 3 an index. -/
def local' : State := g (g (g base 1 (win 0x100)) 2 0x8182838485868788) 3 1
theorem witness_LocalLoadsAndStores : Issues local' p (some (rg 4)) [rg 1] ∧ Issues local' p (some (rg 4)) [rg 1, rg 3]
    ∧ Issues local' p none [rg 2, rg 1] ∧ Issues local' p none [rg 2, rg 1, rg 3]
    ∧ local'.ownPort false (local'.operand [1] 0 + BitVec.signExtend 64 (8 : BitVec 17)) 8 = some 0x108
    ∧ local'.ownPort true 0x7FFF8 8 = some 0x7FFF8
    ∧ local'.ownPort false (local'.operand [1, 3] 0 + local'.operand [1, 3] 1 * BitVec.ofNat 64 8) 8 = some 0x108
    ∧ local'.ownPort false (local'.operand [2, 1] 1 + BitVec.signExtend 64 (8 : BitVec 17)) 8 = some 0x108
    ∧ local'.ownPort false (local'.operand [2, 1, 3] 1 + local'.operand [2, 1, 3] 2 * BitVec.ofNat 64 8) 8 = some 0x108
    ∧ local'.myCore.lpoisoned 0x108 8 = false ∧ LogOff local' ∧ ReleaseHolds local' .pkg := by and_intros <;> decide +kernel
/-- Register 1 holds a virtual address of the mapped page. -/
def virt : State := g (g base 1 0x6100) 2 0x1122
def virtRead : State := match (began virt [rg 1]).dramPort 0x6104 4 .read with | some (_, t) => t | none => virt
def virtWrite : State := match (began virt [rg 2, rg 1]).dramPort 0x6104 4 .write with | some (_, t) => t | none => virt
theorem witness_VirtualAccesses : Issues virt p (some (rg 4)) [rg 1]
    ∧ (began virt [rg 1]).dramPort (virt.operand [1] 0 + BitVec.signExtend 64 (4 : BitVec 17)) 4 .read = some (0x6104, virtRead)
    ∧ virtRead.myCore.sbuf = [] ∧ virtRead.flights = [] ∧ virtRead.dramPoisoned 0x6104 4 = false ∧ virtRead.myCore.cevs = [] ∧ virtRead.myPart.slsel = []
    ∧ (∀ l ∈ virtRead.myCore.dcache, ¬ (l.tsid = virtRead.tsidOf virtRead.cur.core ∧ l.addr = 0x6104 / 32 * 32))
    ∧ Issues virt p none [rg 2, rg 1]
    ∧ (began virt [rg 2, rg 1]).dramPort (virt.operand [2, 1] 1 + BitVec.signExtend 64 (4 : BitVec 17)) 4 .write
        = some (0x6104, virtWrite)
    ∧ virtWrite.myCore.sbuf.length < 16 ∧ LogOff virtWrite ∧ virtWrite.me?.isSome = true := by and_intros <;> decide +kernel
/-- As `virt`, with an index in register 3. -/
def virtX : State := g virt 3 1
def virtXRead : State := match (began virtX [rg 1, rg 3]).dramPort 0x6104 4 .read with | some (_, t) => t | none => virt
def virtXWrite : State := match (began virtX [rg 2, rg 1, rg 3]).dramPort 0x6104 4 .write with | some (_, t) => t | none => virt
/-- As `virt`, with the line in the data cache. -/
def cached : State := co virt fun x => { x with dcache := [⟨1, 0x6100, List.replicate 32 7, false⟩] }
def cachedRead : State := match (began cached [rg 1]).dramPort 0x6104 4 .read with | some (_, t) => t | none => virt
theorem witness_VirtualAccesses' : Issues virtX p (some (rg 4)) [rg 1, rg 3]
    ∧ (began virtX [rg 1, rg 3]).dramPort (virtX.operand [1, 3] 0 + virtX.operand [1, 3] 1 * BitVec.ofNat 64 4) 4 .read
        = some (0x6104, virtXRead) ∧ virtXRead.flights = [] ∧ virtXRead.myCore.sbuf = [] ∧ virtXRead.myCore.dcache = []
    ∧ Issues virtX p none [rg 2, rg 1, rg 3]
    ∧ (began virtX [rg 2, rg 1, rg 3]).dramPort (virtX.operand [2, 1, 3] 1 + virtX.operand [2, 1, 3] 2 * BitVec.ofNat 64 4) 4 .write
        = some (0x6104, virtXWrite) ∧ virtXWrite.myCore.sbuf = [] ∧ virtXWrite.me?.isSome = true ∧ LogOff virtXWrite
    ∧ (began cached [rg 1]).dramPort (cached.operand [1] 0 + BitVec.signExtend 64 (4 : BitVec 17)) 4 .read = some (0x6104, cachedRead)
    ∧ cachedRead.flights = [] ∧ Issues cached p (some (rg 4)) [rg 1]
    ∧ cachedRead.myCore.dcache.find? (fun l => l.tsid = cachedRead.tsidOf cachedRead.cur.core && l.addr = 0x6104 / 32 * 32)
        = some ⟨1, 0x6100, List.replicate 32 7, false⟩
    ∧ ((began virt [rg 2, rg 1]).release .pkg).1 = true ∧ ((began virt [rg 2, rg 1]).release .pkg).2.operand [2, 1] 1 = 0x6100
    ∧ ((((began virt [rg 2, rg 1]).release .pkg).2.dramPort 0x6104 4 .write).map Prod.fst) = some 0x6104 := by and_intros <;> decide +kernel
theorem witness_BadAddresses : (virt.operand [1] 0 + BitVec.signExtend 64 (1 : BitVec 17)).toNat % 8 ≠ 0 ∧ (virt.operand [1] 0).toNat < 2 ^ 57 ∧ (virt.operand [1] 0).toNat % 8 = 0
    ∧ isWindow (virt.operand [1] 0).toNat = false ∧ 2 ^ 19 ≤ (virt.operand [1] 0).toNat + 2 ^ 19 := by and_intros <;> decide +kernel
/-- The cell of 0x100 is full. -/
def full' : State := co local' fun x => { x with full := [8] }
theorem witness_FullEmptyCells : Issues full' p (some (rg 4)) [rg 1] ∧ full'.ownPort false (full'.operand [1] 0 + 0) 8 = some 0x100
    ∧ 0x100 / 32 ∈ full'.myCore.full ∧ (∀ e ∈ full'.myCore.threads, e.2.park = none) ∧ full'.myCore.lpoisoned 0x100 8 = false
    ∧ 0x100 / 32 ∉ local'.myCore.full ∧ LogOff full' ∧ ReleaseHolds full' .core ∧ 0x100 + (3 : Nat) ≤ 2 ^ 19 := by and_intros <;> decide +kernel
def at' : AtMod := ⟨.d, .ar, .slot⟩
/-- Register 1 holds a virtual address, 2 a comparand and 3 a value. -/
def slice' : State := g (g (g base 1 0x6100) 2 0) 3 9
def sliceW (srcs : List Pos) : State := match (began slice' srcs).dramPort 0x6100 8 .write with | some (_, t) => t | none => base
theorem witness_Atomics : Issues local' p (some (rg 4)) [rg 2, rg 1] ∧ local'.ownPort false (local'.operand [2, 1] 1) 8 = some 0x100
    ∧ Issues local' p (some (rg 4)) [rg 2, rg 1, rg 3] ∧ local'.ownPort false (local'.operand [2, 1, 3] 1) 8 = some 0x100
    ∧ Issues local' p none [rg 2, rg 1] ∧ at'.scope.code = 0 ∧ local'.myCore.lpoisoned 0x100 8 = false := by and_intros <;> decide +kernel
theorem witness_AtomicsAtTheSlice : Issues slice' p (some (rg 4)) [rg 2, rg 1] ∧ Issues slice' p (some (rg 4)) [rg 2, rg 1, rg 3]
    ∧ Issues slice' p none [rg 2, rg 1] ∧ ReleaseHolds slice' .slot
    ∧ (began slice' [rg 2, rg 1]).dramPort (slice'.operand [2, 1] 1) 8 .write = some (0x6100, sliceW [rg 2, rg 1])
    ∧ (began slice' [rg 2, rg 1, rg 3]).dramPort (slice'.operand [2, 1, 3] 1) 8 .write = some (0x6100, sliceW [rg 2, rg 1, rg 3])
    ∧ ∀ srcs ∈ [[rg 2, rg 1], [rg 2, rg 1, rg 3]], (sliceW srcs).me?.isSome = true ∧ (sliceW srcs).me.unack < 2 ^ 32 - 1
        ∧ (sliceW srcs).myCore.sbuf = [] ∧ (sliceW srcs).flights = [] ∧ (sliceW srcs).dramPoisoned 0x6100 8 = false
        ∧ (sliceW srcs).myPart.slsel = [] ∧ (sliceW srcs).watches = [] := by and_intros <;> decide +kernel
theorem witness_AtomicOperations : (0xFFFFFFFF : Nat) < 2 ^ 32 ∧ (0x7FC1 : Nat) < 2 ^ (8 * 2) ∧ (bf16.decode false false 0x7FC1).isNan = true
    ∧ (bf16.decode false false 0x3F80).isNan = false ∧ (f32.decode false false 0xFFC00000).isNan = true := by and_intros <;> decide +kernel
theorem witness_VectorLanes : ([1, 2] : List Word).length = ([3, 4] : List Word).length
    ∧ ([Val.ofInt 1] : List Val).length = [Val.ofInt 2].length := ⟨rfl, rfl⟩
theorem next_of {r : Host.Outcome State Fault Refusal} (h : (match r with | .next _ => true | _ => false) = true) :
    ∃ t, r = .next t := by
  cases r with
  | next t => exact ⟨t, rfl⟩
  | fault _ => cases h
  | refused _ => cases h
theorem witness_FusedMinimaNeverFall : ∃ t, step base = .next t := next_of (by decide +kernel)

end PartA

namespace PartE

def vm (n : Nat) : VMod := ⟨0, .rne, 0, false, false, false, false, BitVec.ofNat 12 n, 0, 0, 0, 0⟩
/-- One vector entry of the thread waits in the ring. -/
def ringed : State := (out (exec (.vadd p 1 2 3 (vm 1)) base))
theorem witness_FencesComplete : Issues base p none [] ∧ LogOff base ∧ ReleaseHolds base .pkg ∧ wideScope .pkg = true
    ∧ vecBusy base.myCore base.me.sth = false ∧ base.vstoresOut 0 base.me.sth = false ∧ base.jobsOut 0 base.me.sth = false
    ∧ Issues ringed p none [] ∧ LogOff ringed ∧ vecBusy ringed.myCore ringed.me.sth = true := by
  and_intros <;> decide +kernel
/-- A word of 5 at 0x100 of local memory; register 1 holds its address and register 2 a 5. -/
def word : State := g (g (co base fun x => { x with lmem := [(0x100, 5)] }) 1 (win 0x100)) 2 5
def zero' : State := g base 1 (win 0x200)
theorem witness_WaitsAndBarriers : LogOff word ∧ Issues word p none [rg 2, rg 1] ∧ Issues word p none [rg 1, rg 2]
    ∧ word.ownPort false (word.operand [2, 1] 1 + 0) 8 = some 0x100 ∧ word.ownPort false (word.operand [1, 2] 0) 8 = some 0x100
    ∧ word.myCore.lpoisoned 0x100 8 = false ∧ wcmpHolds .eq 64 (word.myCore.lmem.read 0x100 8) 5 = true
    ∧ wcmpHolds .ne 64 (word.myCore.lmem.read 0x100 8) 5 = false ∧ (word.operand [1, 2] 1).toNat ≤ word.myCore.lmem.read 0x100 8 := by
  and_intros <;> decide +kernel
theorem witness_WaitsAndBarriers' : word.myCore.lmem.read 0x100 8 < ((g word 2 6).operand [1, 2] 1).toNat
    ∧ Issues word p none [rg 1] ∧ word.ownPort false (word.operand [1] 0) 8 = some 0x100 ∧ word.myCore.lmem.read 0x100 8 ≠ 0
    ∧ zero'.ownPort false (zero'.operand [1] 0) 8 = some 0x200 ∧ zero'.myCore.lmem.read 0x200 8 = 0
    ∧ Issues zero' p none [rg 1] ∧ ReleaseHolds word .pkg ∧ word.me.prog.arrived = false
    ∧ ((g word 2 6).operand [1, 2] 1).toNat ≤ (word.myCore.lmem.read 0x100 8 + 1) % 2 ^ 64 := by
  and_intros <;> decide +kernel
/-- Two values in channel 1; register 2 names channel 3 of core 0. -/
def chans' : State := g (co base fun x => { x with chans := [(1, ⟨[(7, 0), (8, 0)], none, 0, false, [none, none]⟩)], kregs := [(2, [(0, 9)])] }) 2 (win 3)
theorem witness_ChannelInstructions : Issues chans' p (some (rg 4)) [⟨0xA1, .chan⟩] ∧ (chans'.myCore.chan 1).bind = none
    ∧ (chans'.myCore.chan (codeNum 0xA1)).vals = [(7, 0), (8, 0)]
    ∧ chansReady chans'.myCore 0 chans'.me.prog.stamp [codeNum 0xA1] (destChan (some (rg 4))) true = true
    ∧ Issues chans' p none [⟨0xA1, .chan⟩] ∧ Issues base p none [⟨0xA2, .chan⟩, rg 2] ∧ base.operand [2] 0 = 0
    ∧ (base.myCore.chan 2).vals = [] ∧ LogOff chans' := by and_intros <;> decide +kernel
theorem witness_ChannelInstructions' : Issues chans' p none [⟨0xA2, .chan⟩, rg 2] ∧ chans'.operand [2] 0 ≠ 0
    ∧ (chans'.myCore.chan (codeNum 0xA2)).vals = [] ∧ isWindow (chans'.operand [2] 0).toNat = true
    ∧ bits (chans'.operand [2] 0).toNat 18 4 = 0 ∧ chans'.winHere (chans'.operand [2] 0).toNat = true
    ∧ chans'.winBad (chans'.operand [2] 0).toNat = false ∧ chans'.corePart (winCore (chans'.operand [2] 0).toNat) = some 1
    ∧ bits (chans'.operand [2] 0).toNat 3 0 ≠ codeNum 0xA2 ∧ codeNum 0xA2 ∉ popsOf (regCodes [rg 2])
    ∧ (chans'.myCore.pushers.look 2) = none ∧ chans'.winBad (chans'.operand [2] 0).toNat = false := by and_intros <;> decide +kernel
theorem witness_ChannelInstructions'' : Issues chans' p none [⟨0x82, .kreg⟩, rg 3] ∧ chans'.me.prog.finished = false ∧ (chans'.operand [3] 0) = 0
    ∧ wcmpHolds .ne 64 (kRead (chans'.myCore.kregs.lookD (codeNum 0x82) []) 8).toNat 0 = true
    ∧ wcmpHolds .eq 64 (kRead (chans'.myCore.kregs.lookD (codeNum 0x82) []) 8).toNat 0 = false := by
  and_intros <;> decide +kernel
/-- Channel 1 is bound to channel 3 of core 0 and holds two entries, channel 2 is bound and empty. -/
def bounds : State := co chans' fun x => { x with chans := [(1, ⟨[(7, 0), (8, 0)], some ⟨1023, 0, 3, 16, 0, 0⟩, 0, false, []⟩),
  (2, ⟨[], some ⟨1023, 0, 3, 16, 0, 0⟩, 0, false, []⟩)] }
theorem witness_BoundChannelInstructions : Issues bounds p none [⟨0xA1, .chan⟩]
    ∧ (bounds.myCore.chan (codeNum 0xA1)).bind = some ⟨1023, 0, 3, 16, 0, 0⟩ ∧ LogOff bounds
    ∧ Issues (g bounds 2 0) p none [⟨0xA2, .chan⟩, rg 2] ∧ (g bounds 2 0).operand [2] 0 = 0
    ∧ ((g bounds 2 0).myCore.chan (codeNum 0xA2)).bind = some ⟨1023, 0, 3, 16, 0, 0⟩
    ∧ ((g bounds 2 0).myCore.chan (codeNum 0xA2)).vals = [] ∧ bounds.myCore.pushers.look (codeNum 0xA2) = none
    ∧ codeNum 0xA2 ∉ popsOf (regCodes [rg 2]) ∧ Issues bounds p none [⟨0xA2, .chan⟩, rg 2] ∧ bounds.operand [2] 0 ≠ 0
    ∧ ¬ (winCore (bounds.operand [2] 0).toNat = bounds.cur.core ∧ bits (bounds.operand [2] 0).toNat 3 0 = codeNum 0xA2)
    ∧ bounds.winHere (bounds.operand [2] 0).toNat = true := by and_intros <;> decide +kernel
theorem witness_SpawnsAndFrameEnds : LogOff base ∧ Issues base p none [⟨8, .group 8 1⟩, rg 2]
    ∧ base.launch? base.myPartNo base.me.lid = some placedLaunch ∧ tagLvl base.me.tag + b2n false < placedLaunch.nlev
    ∧ (base.operand [2] 0).toNat < (placedLaunch.lev 0).count ∧ ReleaseHolds base (Scope.ofCode (placedLaunch.lev 0).scope)
    ∧ base.myCore.deque.length < 256 ∧ (placedLaunch.lev 0).domc ≤ (placedLaunch.lev 0).domc
    ∧ Issues base p none [] ∧ base.corePart base.cur.core = some 1 := by and_intros <;> decide +kernel
/-- The thread runs its handler. -/
def handles : State := co (th base fun t => { t with tcause := 2 ^ 63, late := [⟨.elate, 7, 0, 0, 3, 0, 0⟩, ⟨.preempt, 0, 0, 0, 3, 0, 0⟩] }) fun x =>
  { x with ring := [⟨4, 0, 1, 0, 0, .nop p, 0, 0, 0, 0, 0, 0, 0, 0, 0, false, 0, 0, .held, 0, [], false, 0⟩, ⟨5, 0, 1, 0, 0, .nop p, 0, 0, 0, 0, 0, 0, 0, 0, 0, false, 0, 0, .waiting, 0, [], true, 0⟩] }
/-- The thread's frame stands at the deepest level. -/
def deepest : State := th base fun t => { t with tag := Word.ofNat (2 ^ 63 - 1) }
theorem witness_SpawnsAndFrameEnds'' : handles.me.act = true ∧ Issues handles p none [] ∧ LogOff handles ∧ handles.corePart handles.cur.core = some 1
    ∧ handles.parts.look 1 = some handles.myPart ∧ handles.me.mesh = none ∧ handles.me.tnew = false ∧ handles.myCore.marked handles.cur.slot = false
    ∧ (∀ e ∈ handles.myCore.ring, e.sth = handles.me.sth → e.still = true → e.isEnq = false) ∧ handles.me.tjoin = 0
    ∧ (∀ c ∈ clusterCores (clusterOf handles.cur.core), ∀ e ∈ (handles.core c).threads, e.2.park = none) := by and_intros <;> decide +kernel
theorem witness_SpawnsTrap : (placedLaunch.nlev ≤ tagLvl base.me.tag + b2n true ∨ tagLvl base.me.tag + b2n false < placedLaunch.nlev)
    ∧ Issues (g base 2 (2 ^ 32)) p none [⟨8, .group 8 1⟩, rg 2] ∧ (placedLaunch.lev 0).count ≤ ((g base 2 (2 ^ 32)).operand [2] 0).toNat
    ∧ placedLaunch.nlev ≤ tagLvl deepest.me.tag ∧ Issues deepest p none [⟨8, .group 8 1⟩, rg 2]
    ∧ (placedLaunch.lev (tagLvl base.me.tag)).domc < 7 := by
  and_intros <;> decide +kernel
def newer : State := th base fun t => { t with tnew := true }
def joins : State := th word fun t => { t with tjoin := win 0x100 }
theorem witness_SpawnsAndFrameEnds' : base.me.act = false ∧ base.me.ending = false ∧ base.me.mesh = none ∧ base.me.tjoin = 0
    ∧ base.me.tnew = false ∧ base.myCore.marked base.cur.slot = false ∧ newer.me.tnew = true ∧ newer.me.late = [] ∧ newer.watches = []
    ∧ joins.me.tjoin ≠ 0 ∧ joins.ownPort false joins.me.tjoin 8 = some 0x100
    ∧ ReleaseHolds joins (joins.levelScope joins.myPartNo joins.me) ∧ joins.myCore.lpoisoned 0x100 8 = false
    ∧ Issues newer p none [] ∧ Issues joins p none [] ∧ newer.me.act = false ∧ joins.me.act = false := by
  and_intros <;> decide +kernel
/-- The thread's window has 8 entries, so that a new window fits beside it. -/
def small : State := th (g base 1 0x7000) fun t => { t with lim := 8 }
theorem witness_ThreadsMadeAndParked : LogOff small ∧ Issues small p (some (rg 2)) [rg 1] ∧ ((began small [rg 1]).release .core).1 = true
    ∧ small.launch? small.myPartNo small.me.lid = some placedLaunch
    ∧ ((began small [rg 1]).release .core).2.myCore.freeSlot placedLaunch = some 1
    ∧ ((began small [rg 1]).release .core).2.myCore.firstFit (8 * 16) = some 8 ∧ small.myCore.displacedOf small.me.lid = false
    ∧ small.me.base + small.me.lim ≤ 8 ∧ ((began small [rg 1]).release .core).2.myCore.firstFit (8 * 300) = none
    ∧ small.me.prog.finished = false ∧ Issues small p none [] ∧ Issues small p none [rg 1] := by and_intros <;> decide +kernel
theorem witness_NewThreads : (base.makeThread 0 placedLaunch 64).isSome = true := by decide +kernel
theorem witness_VectorInstructionsEnterTheRing' : Instr.shell (.vadd p 1 2 3 (vm 1)) =
    some ⟨false, 16, p, none, [⟨1, .vec⟩, ⟨2, .vec⟩, ⟨3, .vec⟩]⟩ := rfl
theorem witness_VectorInstructionsEnterTheRing : (vinfo (.vadd p 1 2 3 (vm 1))).isSome = true ∧ GoesAhead base ⟨false, 16, p, none, [⟨1, .vec⟩, ⟨2, .vec⟩, ⟨3, .vec⟩]⟩
    ∧ LogOff base ∧ base.myCore.ring.length < 256 ∧ (vm 1).cnt ≠ 0 ∧ (vm 0).cnt = 0 ∧ placedLaunch.fused = none := by
  and_intros <;> decide +kernel
theorem witness_JobInstructions : IssuesWith false base p (some (rg 1)) [⟨8, .group 4 4⟩] ∧ LogOff base ∧ base.myCore.ring.length < 256
    ∧ Issues base p none [rg 2] ∧ Issues base p (some (rg 1)) [rg 2] ∧ base.myCluster.pending 0 = false
    ∧ Issues (g base 2 0xC000) p (some (rg 1)) [rg 2] ∧ bits (bits ((g base 2 0xC000).operand [2] 0).toNat 15 0) 15 14 = 3
    ∧ base.myCluster.live 0 0 = false := by and_intros <;> decide +kernel
def job0 : Job := ⟨0, 5, 0, 0, 1, 1, 0x0500000000000000, 0, 0, 0, 0, 0, 0, true, 0, 0, .queued, 0, 0, 0, false, none, 0, none, 0, none, [], [], [], false, 0, [], false, 0, [], 0⟩
/-- A job of number 5 of the matrix engine is queued, and one of number 4 is done. -/
def jobs : State := cl (g (g base 2 5) 3 4) fun x => { x with jobs := [(0, [job0])], nextSeq := [(0, 6)], accepted := [(0, 6)], past := [(4, { job0 with seq := 4, st := .done, donec := 3 })] }
/-- As `jobs`, with the status of job 4 set. -/
def ended (st : JobSt) : State := cl jobs fun x => { x with past := [(4, { job0 with seq := 4, st := st })] }
/-- As `jobs`, with the status of job 5 set. -/
def going (st : JobSt) : State := cl jobs fun x => { x with jobs := [(0, [{ job0 with st := st }])] }
theorem witness_JobInstructions' : Issues jobs p none [rg 2] ∧ jobs.myCluster.pending (bits (jobs.operand [2] 0).toNat 15 0) = true
    ∧ jobs.myCluster.live 0 5 = true ∧ jobs.myCluster.job 0 5 = some job0 ∧ job0.st = .queued ∧ jobs.myCluster.live 0 4 = true
    ∧ ((jobs.myCluster.job 0 4).map Job.st) = some .done
    ∧ (((ended .badcmd).myCluster.job 0 4).map Job.st) = some .badcmd ∧ (ended .badcmd).myCluster.live 0 4 = true
    ∧ (((ended .abort).myCluster.job 0 4).map Job.st) = some .abort ∧ (((ended (.fault 7)).myCluster.job 0 4).map Job.st) = some (.fault 7)
    ∧ (((going .running).myCluster.job 0 5).map Job.st) = some .running ∧ (going .running).myCluster.live 0 5 = true
    ∧ (((going (.parked 0 .read 0 0)).myCluster.job 0 5).map Job.st) = some (.parked 0 .read 0 0)
    ∧ Issues (ended .abort) p (some (rg 1)) [rg 3] ∧ Issues (going .running) p (some (rg 1)) [rg 2] ∧ LogOff jobs ∧ Issues jobs p (some (rg 1)) [rg 2] := by
  and_intros <;> decide +kernel
def claims : State := co (g base 1 0x4) fun x => { x with claims := [(2, 1)] }
theorem witness_Zones : Issues claims p none [rg 1] ∧ LogOff claims ∧ zfValid 2 (claims.operand [1] 0).toNat = true
    ∧ claims.myCore.claims.look 2 = some claims.me.lid ∧ claims.myCore.claims.look 3 ≠ some claims.me.lid
    ∧ zfValid 3 (claims.operand [1] 0).toNat = true ∧ zfValid 2 ((g claims 1 0x1C).operand [1] 0).toNat = false
    ∧ Issues (g claims 1 0x1C) p none [rg 1] ∧ Issues word p none [rg 1] ∧ word.ownPort false (word.operand [1] 0) 32 = some 0x100
    ∧ word.myCore.lpoisoned 0x100 32 = false ∧ word.bookUsers (clusterOf word.cur.core) 3 = ([], []) := by
  and_intros <;> decide +kernel
/-- The mapped page as a node, a triangle and a texture descriptor. -/
def rays : State := g base 1 0x6100
/-- A descriptor of a 2 by 2 texture of format 1 at 0x6200, and its texels. -/
def texels : State := g { rays with dram := ((rays.dram.store 0x6100 (leBytes 8 0x6200 ++ leBytes 2 2 ++ leBytes 2 2 ++ leBytes 4 8 ++ [1, 1])).store 0x6200
  (leBytes 8 0x0000_00FF_0000_0055 ++ leBytes 8 0x0000_00AA_0000_0000)) } 2 0x3F0000003F000000
def read' (s : State) (srcs : List Pos) (ea : Word) (n al : Nat) : List Byte × State := match (began s srcs).sampled ea n al with | some x => x | none => ([], s)
theorem witness_RayTestsAndSamples : Issues rays p (some (rg 8)) [⟨4, .group 4 1⟩, rg 1]
    ∧ ((began rays [⟨4, .group 4 1⟩, rg 1]).sampled (rays.operand [1] 0) 128 128).isSome = true
    ∧ Issues rays p (some ⟨8, .group 2 1⟩) [⟨4, .group 4 1⟩, rg 1]
    ∧ ((began rays [⟨4, .group 4 1⟩, rg 1]).sampled (rays.operand [1] 0) 48 16).isSome = true
    ∧ Issues rays p (some (rg 8)) [rg 1] ∧ ((began rays [rg 1]).sampled (rays.operand [1] 0) 8 8).isSome = true
    ∧ (g rays 1 0x6101 |>.operand [1] 0).toNat % sizeBytes .d ≠ 0
    ∧ Issues texels p (some (rg 8)) [rg 1, rg 2] ∧ ((began texels [rg 1, rg 2]).sampled (texels.operand [1, 2] 0) 32 32).isSome = true
    ∧ textureOf (read' rays [rg 1, rg 2] 0x6100 32 32).1 = none
    ∧ (textureOf (read' texels [rg 1, rg 2] 0x6100 32 32).1).isSome = true := by and_intros <;> decide +kernel
def fw (x : Int) : Nat := f32.encode false false .rne (Val.ofInt x)
def rayW (o d : List Int) (lo hi : Nat) : Ray := rayOf fun i => let l := (o.map fw) ++ (d.map fw) ++ [lo, hi]; Word.ofNat (l.getD (2*i) 0 + 2^32 * l.getD (2*i+1) 0)
/-- A triangle of the plane z = 5 that the ray along z meets at 5. -/
def tri5 : List Byte := ([0, 0, 5, 4, 0, 5, 0, 4, 5].map fw).flatMap (leBytes 4 ·)
def rayZ : Ray := rayW [1, 1, 0] [0, 0, 1] 0 (fw 100)
/-- A ray that a box's slabs bound: its origin is on a face that it runs along. -/
def rayX : Ray := rayW [0, 0, 0] [1, 0, 0] 0 (fw 100)
theorem witness_RayResults : rayZ.anyNan = false ∧ rayX.anyNan = false ∧ (rayOf fun _ => allOnes).anyNan = true
    ∧ (boxHit rayX ⟨Val.ofInt 1, Val.ofInt (-1), Val.ofInt (-1)⟩ ⟨Val.ofInt 2, Val.ofInt 1, Val.ofInt 1⟩).isSome = true
    ∧ boxHit rayX ⟨Val.ofInt 1, Val.ofInt 3, Val.ofInt (-1)⟩ ⟨Val.ofInt 2, Val.ofInt 4, Val.ofInt 1⟩ = none
    ∧ boxHit rayX ⟨Val.ofInt 2, Val.ofInt (-1), Val.ofInt (-1)⟩ ⟨Val.ofInt 1, Val.ofInt 1, Val.ofInt 1⟩ = none
    ∧ (triResult rayZ tri5).1 = Word.ofNat (2 ^ 32 + 0x40A00000) ∧ (triResult rayX tri5).1 = 0x7F800000
    ∧ (triResult (rayOf fun _ => allOnes) tri5).1 = 0x7F800000 := by and_intros <;> decide +kernel
theorem witness_TheTraversalStackIsAStack : Issues word p none [rg 2] ∧ word.operand [2] 0 ≠ allOnes ∧ (g word 2 allOnes).operand [2] 0 = allOnes
    ∧ word.me.tsdepth ≠ 0xFFFFF ∧ word.me.tsreg.length < 4 ∧ word.me.tsdepth = 0 ∧ Issues word p (some (rg 3)) [] ∧ LogOff word := by
  and_intros <;> decide +kernel
def stack4 : State := th word fun t => { t with tsbase := win 0x200, tsdepth := 4, tsreg := [1, 2, 3, 4] }
def stack0 : State := th word fun t => { t with tsbase := win 0x100, tsdepth := 1, tsreg := [] }
theorem witness_TheTraversalStackIsAStack' : stack4.me.tsreg = [1, 2, 3, 4]
    ∧ stack4.ownPort false (stack4.me.tsbase + BitVec.ofNat 64 (8 * (stack4.me.tsdepth - 4))) 8 = some 0x200
    ∧ Issues stack4 p none [rg 2] ∧ stack4.me.tsreg = [1, 2, 3] ++ [4] ∧ stack0.me.tsreg = [] ∧ stack0.me.tsdepth ≠ 0
    ∧ stack0.ownPort false (stack0.me.tsbase + BitVec.ofNat 64 (8 * (stack0.me.tsdepth - 1))) 8 = some 0x100
    ∧ stack0.myCore.lpoisoned 0x100 8 = false ∧ Issues stack0 p (some (rg 3)) [] ∧ isGCode 3 = true
    ∧ (th stack4 fun t => { t with tsdepth := 0xFFFFF }).me.tsdepth = 0xFFFFF := by and_intros <;> decide +kernel

end PartE

namespace PartF

/-- A layer table of four 2 by 1 layers at 0x6400, with surfaces at 0x6600. -/
def layer (n : Nat) : List Byte :=
  leBytes 8 (0x6600 + 0x80 * n) ++ leBytes 8 (0x6640 + 0x80 * n) ++ leBytes 2 2 ++ leBytes 2 1 ++ leBytes 8 0 ++ leBytes 2 3 ++ leBytes 2 1
    ++ leBytes 32 n
def layers : State := pa { base with dram := ((base.dram.store 0x6400 (layer 0)).store 0x6440 (layer 1)).store 0x6800 [1] } fun q =>
  { q with rink := { q.rink with table := some (0x6400, 4), queue := [1, 2] } }
/-- Registers 1, 2 and 3 hold handle 0, handle 1 and the address of a mask. -/
def split' : State := g (g layers 2 1) 3 0x6800
/-- A descriptor as the Rink reads it. -/
def desc (s : State) (acc : Acc) (x : Nat) : List Byte × List (Nat × Nat) × State :=
  match s.rinkDesc acc x with | some d => d | none => ([], [], s)
def got : List Byte × List (Nat × Nat) × State := desc (began split' [rg 2]) .read 1
def set' : State := ((began split' [rg 2, rg 3]).release .pkg).2
def put' : List Byte × List (Nat × Nat) × State := desc set' .write 1
theorem witness_LayerFieldsAndRequests : Issues split' p (some (rg 4)) [rg 2] ∧ split'.myPart.rink.table = some (0x6400, 4)
    ∧ (split'.operand [2] 0).toNat < 4 ∧ 4 ≤ (split'.operand [3] 0).toNat ∧ (began split' [rg 2]).rinkDesc .read 1 = some got
    ∧ got.1 = layer 1 ∧ Issues split' p none [rg 2, rg 3] ∧ ((began split' [rg 2, rg 3]).release .pkg).1 = true
    ∧ set'.rinkDesc .write 1 = some put' ∧ (layer 1).length = 64
    ∧ Issues split' p none [rg 2, ⟨8, .group 2 1⟩] ∧ Issues split' p none [rg 2] := by and_intros <;> decide +kernel
theorem witness_LayerRequests : Issues layers p (some (rg 4)) [] ∧ LogOff layers ∧ layers.corePart layers.cur.core = some 1
    ∧ layers.part? 1 = some layers.myPart ∧ layers.me.prog.handed = none ∧ base.myPart.rink.table = none
    ∧ layers.myPart.rink.queue = 1 :: [2] ∧ layers.parkedIn 1 (fun w => w = .lreq) = [] ∧ isGCode 4 = true
    ∧ (pa layers fun q => { q with rink := { q.rink with queue := [] } }).myPart.rink.queue = []
    ∧ Issues (g layers 2 31) p none [rg 2] ∧ ((g layers 2 31).operand [2] 0).toNat < 32 ∧ 32 ≤ ((g layers 2 32).operand [2] 0).toNat := by
  and_intros <;> decide +kernel
def sp0 : State := ((began split' [rg 1, rg 2, rg 3]).release .pkg).2
/-- What LSPLIT of `split'` reads. -/
def view : SplitView := match sp0.splitView 0 1 0x6800 with | some v => v | none => ⟨[], [], [], [], [], [], [], [], [], sp0⟩
theorem witness_LayersSplitAndMerge : Issues split' p none [rg 1, rg 2, rg 3] ∧ (split'.operand [1, 2, 3] 0).toNat < 4
    ∧ split'.operand [1, 2, 3] 0 ≠ split'.operand [1, 2, 3] 1 ∧ ((began split' [rg 1, rg 2, rg 3]).release .pkg).1 = true
    ∧ sp0.splitView 0 1 0x6800 = some view ∧ (split'.operand [1, 2, 3] 2).toNat = 0x6800 ∧ view.m = [1] ∧ view.cnt = 2
    ∧ Issues split' p none [rg 1, rg 1, rg 3] ∧ base.myPart.rink.table = none ∧ 4 ≤ (split'.operand [3, 3, 3] 1).toNat := by
  and_intros <;> decide +kernel
def mg0 : State := ((began split' [rg 1, rg 2]).release .pkg).2
def mg1 : List Byte × List (Nat × Nat) × State := desc mg0 .write 0
def mg2 : List Byte × List (Nat × Nat) × State := desc mg1.2.2 .write 1
def mview : MergeView := match mg2.2.2.mergeView 0 1 mg1.1 mg2.1 with | some v => v | none => ⟨[], [], [], [], [], [], mg0⟩
/-- As `split'`, with layer 1 of another width. -/
def wider : State := { split' with dram := split'.dram.store 0x6450 [9] }
def wg0 : State := ((began wider [rg 1, rg 2]).release .pkg).2
theorem witness_LayersMerge : Issues split' p none [rg 1, rg 2] ∧ ((began split' [rg 1, rg 2]).release .pkg).1 = true
    ∧ mg0.rinkDesc .write 0 = some mg1 ∧ mg1.2.2.rinkDesc .write 1 = some mg2
    ∧ (mg1.1.drop 16).take 12 = (mg2.1.drop 16).take 12 ∧ mg2.2.2.mergeView 0 1 mg1.1 mg2.1 = some mview
    ∧ Issues wider p none [rg 1, rg 2] ∧ ((began wider [rg 1, rg 2]).release .pkg).1 = true
    ∧ wg0.rinkDesc .write 0 = some (desc wg0 .write 0) ∧ (desc wg0 .write 0).2.2.rinkDesc .write 1 = some (desc (desc wg0 .write 0).2.2 .write 1)
    ∧ ((desc wg0 .write 0).1.drop 16).take 12 ≠ ((desc (desc wg0 .write 0).2.2 .write 1).1.drop 16).take 12 := by
  and_intros <;> decide +kernel
/-- A bound work graph of two nodes and a pool of four records at 0x6800; record 1 is allocated for node 0. -/
def graph : WGraph := ⟨0x6900, 1, 1, 0, 0x6800, 4, [⟨0x7000, 8, 64, 0, [], 0⟩, ⟨0x7100, 8, 64, 0, [2], 0⟩], [(1, 0), (2, 1)], [⟨1, 5, [3], [3], true⟩]⟩
def works : State := cl (g (g base 1 0x6840) 2 0) fun x => { x with wg := some graph, wgstate := 1, payb := 0x100000 }
def wfull : State := cl works fun x => { x with wg := some { graph with p := 1, alloc := [(0, 0)] } }
theorem witness_WorkGraphsAndPayloads : LogOff works ∧ works.myCluster.wg = some graph ∧ graph.lid = works.me.lid
    ∧ graph.part = works.myPartNo ∧ works.me.prog.handed = none ∧ Issues works p (some (rg 4)) [rg 2]
    ∧ (works.operand [2] 0).toNat < graph.nodes.length ∧ graph.freeRec = some 0 ∧ graph.nodes.length ≤ (works.operand [1] 0).toNat
    ∧ (works.operand [2] 0).toNat < 2 ∧ ({ graph with p := 1, alloc := [(0, 0)] } : WGraph).freeRec = none
    ∧ wfull.myCluster.wg = some { graph with p := 1, alloc := [(0, 0)] } ∧ Issues wfull p (some (rg 4)) [rg 2] := by
  and_intros <;> decide +kernel
theorem witness_WorkGraphsAndPayloads' : Issues works p none [rg 1, rg 2] ∧ ReleaseHolds works .clus
    ∧ graph.nodes[(works.operand [1, 2] 1).toNat]? = some ⟨0x7000, 8, 64, 0, [], 0⟩ ∧ graph.recOf (works.operand [1, 2] 0) = some 1
    ∧ graph.alloc.look 1 = some 0 ∧ Issues (g works 3 5) p (some (rg 4)) [rg 3, rg 2]
    ∧ (graph.batches.find? fun x => x.handle = ((g works 3 5).operand [3, 2] 0).toNat) = some ⟨1, 5, [3], [3], true⟩
    ∧ ([3] : List Nat)[((g works 3 5).operand [3, 2] 1).toNat]? = some 3 ∧ Issues works p none [rg 1]
    ∧ graph.recOf (works.operand [1] 0) = some 1 ∧ graph.freeable 1 = true ∧ works.allocators (clusterOf works.cur.core) = []
    ∧ graph.recOf (works.operand [2] 0) = none ∧ Issues works p none [rg 2] := by and_intros <;> decide +kernel
/-- Payload slot 0 is held; register 1 holds its address, 2 an entry and 3 a count. -/
def pays : State := cl (g (g (g works 1 0x100000) 2 0x7000) 3 256) fun x => { x with pays := [(0, ⟨1, 1, 1, 0, 0, 0, 0, 0⟩)] }
def payFull : State := cl works fun x => { x with pays := (List.range 4).map fun n => (n, ⟨1, 1, 1, 0, 0, 0, 0, 0⟩) }
theorem witness_Payloads : LogOff pays ∧ pays.me.prog.handed = none ∧ Issues pays p (some (rg 4)) [] ∧ base.myCluster.payb = 0
    ∧ pays.myCluster.payb ≠ 0 ∧ pays.myCluster.freePay = some 1 ∧ pays.payWaiters (clusterOf pays.cur.core) = []
    ∧ payFull.myCluster.freePay = none ∧ payFull.myCluster.payb ≠ 0 ∧ Issues payFull p (some (rg 4)) []
    ∧ Issues pays p none [rg 1, rg 2, rg 3] ∧ pays.myCluster.heldPay (pays.operand [1, 2, 3] 0) pays.me.lid pays.myPartNo = some 0
    ∧ (pays.operand [1, 2, 3] 2).toNat = 256 ∧ ReleaseHolds pays .clus ∧ ((g pays 3 257).operand [1, 2, 3] 2).toNat = 257 := by
  and_intros <;> decide +kernel
/-- A line of each cache and a translation of each TLB, of the partition. -/
def cached : State := cl (co (g base 1 0x6100) fun x => { x with dcache := [⟨1, 0x6100, [], false⟩, ⟨1, 0x6120, [], false⟩], icache := [⟨1, 0x6100, [], false⟩], tlb := [⟨1, 0x6000, 4096, 0x6000, true, true, true, true, true⟩] }) fun x => { x with ctlb := [⟨1, 0x6000, 4096, 0x6000, true, true, true, true, true⟩] }
theorem witness_Invalidations : Issues cached p none [rg 1] ∧ LogOff cached ∧ cached.me.prog.finished = false ∧ ReleaseHolds cached .pkg
    ∧ (cached.operand [1] 0).toNat < 2 ^ 57 ∧ isWindow (cached.operand [1] 0).toNat = false
    ∧ 2 ^ 57 ≤ ((g cached 1 (2 ^ 57)).operand [1] 0).toNat ∧ (began cached [rg 1]).physAny (.core cached.cur.core) cached.myPartNo 0x6100 = some 0x6100
    ∧ (th cached fun t => { t with prog := { t.prog with finished := true } }).me.prog.finished = true := by and_intros <;> decide +kernel
/-- Another thread in slot 1. -/
def pair : State := co base fun x => { x with threads := x.threads.put 1 { base.me with sth := 7, pc := 0x6040, base := 128 } }
theorem witness_Stops : Issues pair p none [] ∧ (∀ e ∈ pair.cores, bit e.2.slcfg 0 = false) ∧ pair.me.prog.finished = false
    ∧ Scope.code .pkg ≠ 0 ∧ Scope.code .slot = 0 ∧ 0 ∈ pair.partCores pair.myPartNo ∧ sameInstance .pkg pair.cur.core 0 = true
    ∧ (pair.thread? 0 1).isSome = true ∧ ReleaseHolds pair .pkg ∧ Issues base p none [rg 1] ∧ bit base.myCore.trcfg 0 = false
    ∧ bit (co base fun x => { x with trcfg := 1 }).myCore.trcfg 0 = true ∧ Issues base p (some (rg 1)) [] := by
  and_intros <;> decide +kernel
theorem witness_MemoryAndTables : base.dram.wf = true ∧ bit 0x607F 0 = true ∧ judgePte 0 5 0x607F = .leaf 0x6000 4096
    ∧ judgePte 0 1 0x2001 = .table 0x2000 := by and_intros <;> decide +kernel

end PartF

namespace PartH

/-- An image that verifies: a modulus of all ones and an exponent of 1, whose signature is the encoded digest itself. -/
def image (n : Nat) : Image := ⟨n, 3, [], pkcsEncode (sha256 []), List.replicate 384 0xFF, 1⟩
def fused : State := { base with keyDigests := [(0, keyDigest (List.replicate 384 0xFF) 1)], minima := [(1, 2), (2, 2), (3, 2)], running := [(1, 5)] }
theorem witness_BootAndSpdm : fused.imageFault 1 (image 1) = 0 ∧ fused.imageFault 2 (image 2) = 0 ∧ fused.imageFault 3 (image 3) = 0
    ∧ fused.imageFault 1 (image 2) ≠ 0 ∧ fused.running.look 1 = some 5 := by and_intros <;> decide +kernel
/-- A host owner key block at 0 and no partition. -/
def owner : State := { State.reset with booted := true, host := [(383, 0x80), (384, 3)] }
def assign : Word := 2 ^ 48 * 5 + 2 ^ 32 * 3 + 16 * 2 + 1
def release' : Word := 2 ^ 32 * 1 + 16 * 1 + 2
def releasing : State := pa { base with phstate := 1, phpart := 1 } fun q => { q with st := 2 }
theorem witness_TripsAndHandover : base.trip = false ∧ base.throttle = false ∧ bits assign.toNat 1 0 = 1 ∧ owner.booted = true
    ∧ owner.phstate ≠ 1 ∧ owner.phCode assign.toNat = 0 ∧ base.phCode assign.toNat ≠ 0 ∧ base.booted = true ∧ base.phstate ≠ 1
    ∧ bits release'.toNat 1 0 = 2 ∧ base.phCode release'.toNat = 0 ∧ owner.phCode release'.toNat ≠ 0
    ∧ releasing.parts.look 1 = some releasing.myPart ∧ releasing.myPart.st = 2 ∧ releasing.drained 1 = true ∧ releasing.phstate = 1 ∧ releasing.phpart = 1
    ∧ releasing.held = false ∧ ({ base with trip := true, clk := 70000000 } : State).trip = true
    ∧ ({ base with trip := true, clk := 70000000 } : State).tripAt + 160000000 ≤ ({ base with trip := true, clk := 70000000 } : State).fab := by
  and_intros <;> decide +kernel
theorem witness_TripsAndHandover' : ∀ q, q < 16 → (base.ports.lookD q Port.zero).st = 0 := by decide +kernel
/-- Device 5, whose port 2 is up towards device 9, which it routes there; port 3 trains. -/
def linked : State := { base with devnum := 5, ports := [(2, ⟨1, 1, 9, 2⟩), (3, ⟨0, 1, 1023, 1⟩)], grt := [(9, 4)] }
def packet : GPacket := ⟨9, 3, 1, 0, .req, 6, 0, 0⟩
/-- The partition admits accesses of partition 7 of device 9. -/
def admits' : State := pa linked fun q => { q with rat := [(9, 7)] }
def request (op : RemOp) : RemReq := ⟨4, 9, 0, 7, win 0x7FFF8, op⟩
def sent : Sent := ⟨6, 2, 0, 0, 1, .gond (request (.load 8)) true 100⟩
def awaits : State := { parked linked (.remote 6) with flights := [sent] }
theorem witness_LinksAndRemoteAccesses : (linked.ports.lookD 3 Port.zero).st = 1 ∧ (linked.ports.lookD 2 Port.zero).st = 2
    ∧ (linked.ports.lookD 3 Port.zero).vero % 2 = 1 ∧ packet.dest ≠ linked.devnum ∧ 1 < packet.hop ∧ linked.upPorts packet.dest ≠ []
    ∧ linked.upPorts 8 = [] ∧ admits'.admits (request (.load 8)) = some 1 ∧ winOff (request (.load 8)).addr.toNat + 8 ≤ 2 ^ 19
    ∧ (admits'.core 0).lpoisoned 0x7FFF8 8 = false ∧ linked.admits (request (.load 8)) = none ∧ opPosted (.load 8) = false
    ∧ awaits.flight? sent.id = some sent ∧ Quiet awaits ∧ slotOf (awaits.core sent.core) sent.sth = some 0
    ∧ awaits.parkedFor 0 0 = some (.remote sent.id) ∧ awaits.inTime sent = true
    ∧ ({ awaits with ports := [] } : State).inTime sent = false ∧ packetOrd { packet with cls := .ord } ≠ none
    ∧ 9 ≠ linked.devnum ∧ linked.upPorts 9 ≠ [] := by and_intros <;> decide +kernel
def aperture : State := pa base fun q => { q with apbase := 0x6000 }
def apWrite : List (Nat × Nat) × State := match (aperture.hostSeen 1).lodgeParts 1 .write true (pageParts 2 0x6100 8) with | .ok x => x | .error _ => ([], base)
theorem witness_HostRegisters : base.parts.look 1 = some base.myPart ∧ base.myPart.st ≠ 2 ∧ base.parts.look 0 = none
    ∧ aperture.parts.look 1 = some aperture.myPart ∧ isErr ((aperture.hostSeen 1).lodgeRead 1 0x6100 8 true) = false
    ∧ isErr ((aperture.hostSeen 1).lodgeRead 1 0x9000 8 true) = true ∧ apWrite.1 = [(0x6100, 8)]
    ∧ isErr ((aperture.hostSeen 1).lodgeParts 1 .write true (pageParts 2 0x6100 8)) = false
    ∧ isErr ((aperture.hostSeen 1).lodgeParts 1 .write true (pageParts 2 0x9000 8)) = true := by and_intros <;> decide +kernel
def ring0 : State := pa base fun q => { q with grant := 1, queues := [(3, { Queue.zero with base := 0x6C01 })] }
def ring1 : State := pa base fun q => { q with grant := 1, queues := [(3, { Queue.zero with base := 0x6C01, log2sz := 4, en := true, qst := 1, head := 5, tail := 5 })] }
def ring2 : State := pa base fun q => { q with grant := 1, queues := [(3, { Queue.zero with base := 0x6C01, log2sz := 4, en := true, qst := 2, head := 5, tail := 5, pause := true })] }
theorem witness_QueueRegisters : (ring0.queue 1 3).en = false ∧ ring0.myPart.grant ≠ 0
    ∧ (ring0.queue 1 3).base.toNat / 64 * 64 % (64 * 2 ^ 4) = 0 ∧ (ring1.queue 1 3).en = true ∧ (ring1.queue 1 3).qst = 1
    ∧ (ring2.queue 1 3).qst = 2 ∧ base.myPart.grant = 0 ∧ (21 + 2 ^ 32 - (ring1.queue 1 3).head) % 2 ^ 32 ≤ 2 ^ 4
    ∧ 2 ^ (ring1.queue 1 3).log2sz < (22 + 2 ^ 32 - (ring1.queue 1 3).head) % 2 ^ 32
    ∧ (∀ e ∈ ring0.myPart.queues, e.2.en = false) ∧ (∃ e ∈ ring1.myPart.queues, e.2.en = true) := by and_intros <;> decide +kernel
def frec : FRec := ⟨4, 0x6000, .read, 1⟩
def fr0 : State := pa base fun q => { q with frbase := 0x6C00 }
def fr1 : State := pa base fun q => { q with frbase := 0x6C00, fren := true, frlog2 := 4 }
def fr2 : State := pa (parked fr1 (.fault 0x6000 .read 1 1)) fun q => { q with frecs := [frec], frtail := 5, frhead := 4 }
def fr3 : State := pa fr1 fun q => { q with fmsgs := [⟨0x9000, .read, 1, 5, false⟩], frtail := 5, frhead := 4 }
theorem witness_FaultsReachTheHost : fr0.myPart.fren = false ∧ fr0.myPart.frbase.toNat % (32 * 2 ^ 4) = 0 ∧ fr1.myPart.fren = true
    ∧ fr1.myPart.frecs = [] ∧ fr1.myPart.fmsgs = [] ∧ fr2.myPart.frecs.find? (fun r => decide (r.seq = 4)) = some frec
    ∧ fr2.myPart.frecs.find? (fun r => decide (r.seq = 5)) = none ∧ base.olog.en = false ∧ ringFits base.olog.base 6 = true ∧ Quiet fr2
    ∧ (fr2.core 0).threads = [(0, fr2.me)] ∧ fr2.me.park.map Park.why = some (.fault 0x6000 .read 1 1)
    ∧ fr3.myPart.fmsgs = [⟨0x9000, .read, 1, 5, false⟩] ∧ fr3.myPart.frecs.length < 1024 ∧ fr3.myPart.frRoom = true
    ∧ fr3.myPart.frtail ≠ fr3.myPart.frhead := by and_intros <;> decide +kernel

end PartH

namespace PartI

/-- Queue 3, whose ring of 16 packets lies at 0x6C00, holds one packet of a type with operands. -/
def packetOf (type : Nat) (ws : List Word) : List Byte := leBytes 8 (type * 2 ^ 56) ++ ws.flatMap fun w => leBytes 8 w.toNat
def ringed' (s : State) (type : Nat) (ws : List Word) : State := pa { s with dram := s.dram.store 0x6C00 (packetOf type ws) } fun q =>
  { q with grant := 1, queues := [(3, { Queue.zero with base := 0x6C01, log2sz := 4, en := true, qst := 1, tail := 1 }), (5, { Queue.zero with qst := 2 })], headm := 1, encm := 1 }
def next' (s : State) : Pkt × State := match s.nextPacket 1 3 with | some x => x | none => (⟨0, 0, 0, [], 0, 0, .copy⟩, s)
def goodOf (s : State) (type : Nat) : Bool := (s.nextPacket 1 3).isSome && (next' s).1.type = type && (next' s).2.goodPacket 1 (next' s).1
def pCopy := ringed' base 4 [0x100, 0x200, 8, 3]
def pWait := ringed' base 6 [0x6100, 0, 0]
def pExport := ringed' base 9 [5, 0x6200]
def pLayer := ringed' base 7 [0x6400, 4]
def pBind := ringed' base 8 [2 ^ 17, 0, 2 ^ 20]
def pSignal' := ringed' base 5 [0x6100, 5, 1]
def pImport := ringed' { base with dram := base.dram.store 0x6200 ([0x4C, 0x51, 0x45, 0x58] ++ leBytes 2 1 ++ leBytes 2 0 ++ leBytes 8 0x8001 ++ leBytes 4 7 ++ leBytes 4 9 ++ [5]) } 10 [6, 0x6200]
def node (k next alt : Nat) (a b c : Nat) : List Byte := [BitVec.ofNat 8 k, 0] ++ leBytes 2 next ++ leBytes 2 alt ++ leBytes 2 0 ++ leBytes 8 a ++ leBytes 8 b ++ leBytes 8 c
def pGraph := ringed' { base with dram := base.dram.store 0x6200 ([0x4C, 0x47, 0x52, 0x46] ++ leBytes 4 1 ++ leBytes 2 1 ++ leBytes 2 0 ++ leBytes 20 0 ++ node 5 0 0 0 0 0) } 2 [0x6200, 9]
def pBad := ringed' base 11 []
theorem witness_PacketsStart : goodOf pCopy 4 = true ∧ goodOf pWait 6 = true ∧ goodOf pExport 9 = true ∧ goodOf pLayer 7 = true
    ∧ goodOf pBind 8 = true ∧ goodOf pSignal' 5 = true ∧ goodOf pImport 10 = true ∧ goodOf pGraph 2 = true
    ∧ (pBad.nextPacket 1 3).isSome = true ∧ (next' pBad).2.goodPacket 1 (next' pBad).1 = false := by and_intros <;> decide +kernel
theorem witness_PacketsStart' : (match ((next' pSignal').2.turnOn 1 3).signalOp 1 0x6100 1 5 with | .ok _ => true | .error _ => false) = true
    ∧ (match ((next' pImport).2.turnOn 1 3).lodgeRead 1 0x6200 64 with | .ok (d, u) => imageOk d (u.part 1).grant | .error _ => false) = true
    ∧ (match ((next' pGraph).2.turnOn 1 3).lodgeRead 1 0x6200 32 with | .ok (d, _) => graphOk d | .error _ => false) = true
    ∧ (∀ e ∈ (((next' pGraph).2.turnOn 1 3).part 1).trigs, ∀ r, e.2.run = some r → r.slot ≠ 9) := by
  refine ⟨by decide +kernel, by decide +kernel, by decide +kernel, fun e h => ?_⟩
  exact absurd h (by rw [show (((next' pGraph).2.turnOn 1 3).part 1).trigs = [] by decide +kernel]; simp)
/-- Packets whose operands lie in no mapped page, or name what is no graph or image. -/
def pSignalOff := ringed' base 5 [0x9000, 5, 1]
def pGraphOff := ringed' base 2 [0x9000, 9]
def pGraphBad := ringed' base 2 [0x6100, 9]
def pImportBad := ringed' base 10 [6, 0x6200]
theorem witness_PacketsFail : goodOf pSignalOff 5 = true ∧ goodOf pGraphOff 2 = true ∧ goodOf pGraphBad 2 = true ∧ goodOf pImportBad 10 = true
    ∧ isErr (((next' pSignalOff).2.turnOn 1 3).signalOp 1 0x9000 1 5) = true ∧ isErr (((next' pGraphOff).2.turnOn 1 3).lodgeRead 1 0x9000 32) = true
    ∧ (match ((next' pGraphBad).2.turnOn 1 3).lodgeRead 1 0x6100 32 with | .ok (d, _) => !graphOk d | .error _ => false) = true
    ∧ (match ((next' pImportBad).2.turnOn 1 3).lodgeRead 1 0x6200 64 with | .ok (d, u) => !imageOk d (u.part 1).grant | .error _ => false) = true := by
  and_intros <;> decide +kernel
/-- Outstanding packets of each kind. -/
def pkt (type : Nat) (ws : List Word) (st : PktSt) : Pkt := ⟨3, 0, 0, (Word.ofNat (type * 2 ^ 56) :: ws) ++ List.replicate 7 0, 0, 0, st⟩
def outst (k : Pkt) : State := pa base fun q => { q with pkts := [k], queues := [(3, { Queue.zero with en := true, qst := 1 }), (5, { Queue.zero with qst := 2 })] }
def oCopy := { outst (pkt 4 [0x100, 0x200, 8, 3] .copy) with host := Memory.store [] 0x100 [1, 2, 3, 4, 5, 6, 7, 8] }
def oWait := outst (pkt 6 [0x6100, 0, 0] .wait)
def oExport := outst (pkt 9 [5, 0x6200] .exportQ)
theorem witness_PacketsComplete : oCopy.pkt? 1 0 = some (pkt 4 [0x100, 0x200, 8, 3] .copy) ∧ bits ((pkt 4 [0x100, 0x200, 8, 3] .copy).w 4) 1 0 = 3
    ∧ (pkt 4 [0x100, 0x200, 8, 3] .copy).w 1 + 8 ≤ 0x200 ∧ oWait.pkt? 1 0 = some (pkt 6 [0x6100, 0, 0] .wait)
    ∧ isErr (oWait.lodgeRead 1 0x6100 8) = false ∧ cmpHolds 0 0 0 = true ∧ cmpHolds 1 0 0 = false
    ∧ oExport.pkt? 1 0 = some (pkt 9 [5, 0x6200] .exportQ) ∧ oExport.myPart.infl 5 = 0
    ∧ isErr (oExport.lodgePut 1 0x6200 (oExport.queue 1 5).image false) = false
    ∧ oCopy.hostHoles = [] ∧ (pkt 4 [] .copy).cr = false := by and_intros <;> decide +kernel
def unfetched : State := pa pCopy fun q => { q with queues := [(3, { Queue.zero with base := 0x9001, log2sz := 4, en := true, qst := 1, tail := 1 })] }
theorem witness_PacketsComplete' : unfetched.mayStart 1 3 = true ∧ unfetched.served 1 3 = true ∧ isErr (unfetched.fetchPacket 1 3 0) = true
    ∧ (unfetched.parts.look 1).isSome = true := by and_intros <;> decide +kernel
/-- A launch record at 0x6200: entry 0x7000, a window of 64, one level, weight 1. -/
def lrec : List Byte := leBytes 8 0x7000 ++ [64, 1, 0, 1, 0, 0, 0, 0] ++ leBytes 8 0 ++ leBytes 8 0 ++ ([5, 5, 0, 0] ++ leBytes 4 1) ++ List.replicate 88 0
def withLrec (s : State) : State := { s with dram := s.dram.store 0x6200 lrec }
def pLaunch := ringed' (withLrec base) 1 [0x6200]
def lr : Launch × State := match ((next' pLaunch).2.turnOn 1 3).readLrec 1 0x6200 false with | .ok l s => (l, s) | _ => (placedLaunch, base)
/-- A launch of identifier 2 waits to be placed. -/
def root : Launch := { placedLaunch with lid := 2, placed := false, pkgCount := 0, win := 64 }
def unplaced : State := pa base fun q => { q with launches := [(1, placedLaunch), (2, root)] }
def over' : State := pa base fun q => { q with launches := [(1, placedLaunch), (2, { root with placed := true })] }
theorem witness_LaunchesStartAndEnd : goodOf pLaunch 1 = true ∧ (next' pLaunch).1.rem = false ∧ (next' pLaunch).1.pc = false
    ∧ ((next' pLaunch).2.turnOn 1 3).readLrec 1 0x6200 false = .ok lr.1 lr.2 ∧ (lr.2.parts.look 1).isSome = true := by
  refine ⟨by decide +kernel, by decide +kernel, by decide +kernel, ?_, by decide +kernel⟩
  have h : (match ((next' pLaunch).2.turnOn 1 3).readLrec 1 0x6200 false with | .ok _ _ => true | _ => false) = true := by decide +kernel
  unfold lr
  split at h
  · rename_i l s e; rw [e]
  · cases h
theorem witness_LaunchesStartAndEnd' : base.myPart.st = 1 ∧ base.held = false
    ∧ (unplaced.part 1).launches.findSome? (fun e => if (unplaced.part 1).mayPlace e.2 && unplaced.rootTurn 1 e.2 then (unplaced.rootCore 1 e.2).map fun r => (e.2, r) else none) = some (root, 0, 1)
    ∧ Quiet unplaced ∧ bit (unplaced.core 0).trcfg 2 = false ∧ unplaced.launch? 1 root.lid = some root ∧ unplaced.corePart 0 = some 1
    ∧ root.fused = none ∧ (unplaced.newThread 0 root).isSome = true ∧ over'.launch? 1 2 = some { root with placed := true }
    ∧ over'.launchOver 1 { root with placed := true } = true := by and_intros <;> decide +kernel
/-- A run of trigger 4 in slot 9 at its one node. -/
def run' (s : State) (n : GNode) (st : Nat) : State := pa s fun q => { q with trigs := [(4, ⟨2, 9, st, some ⟨9, 0, [], [], false⟩⟩)], graphs := [(9, ⟨[n], 0, false⟩)] }
theorem witness_GraphsAndRemoteLaunches : let s := run' base ⟨4, false, 0, 0, 0x6100, 5, 1⟩ 2
    s.parts.look 1 = some s.myPart ∧ s.myPart.trigs.look 4 = some ⟨2, 9, 2, some ⟨9, 0, [], [], false⟩⟩
    ∧ s.myPart.graphs.look 9 = some ⟨[⟨4, false, 0, 0, 0x6100, 5, 1⟩], 0, false⟩ ∧ s.myPart.st = 1 ∧ s.held = false
    ∧ (match s.signalOp 1 0x6100 1 5 with | .ok _ => true | .error _ => false) = true ∧ s.myPart.pkts = [] := by and_intros <;> decide +kernel
def pTrig := ringed' base 3 [2 ^ 8 * 9 + 4]
def idleTrig : State := pa base fun q => { q with trigs := [(4, ⟨2, 9, 1, none⟩)], graphs := [(9, ⟨[⟨5, false, 0, 0, 0, 0, 0⟩], 0, false⟩)] }
theorem witness_GraphsAndRemoteLaunches' : goodOf pTrig 3 = true ∧ bit ((next' pTrig).1.w 1) 16 = false ∧ idleTrig.thread? 0 0 = some idleTrig.me
    ∧ idleTrig.me.prog.released = false ∧ idleTrig.me.rel = none ∧ idleTrig.me.unack = 0 ∧ idleTrig.me.touched = [] ∧ (idleTrig.core 0).sbuf = []
    ∧ (idleTrig.trig 1 4).st = 1 ∧ (idleTrig.trig 1 4).slot ≠ 255 ∧ idleTrig.partOfTsid 1 = some 1 ∧ idleTrig.partOfTsid 2 = none := by
  and_intros <;> decide +kernel
def remote : RemLaunch := ⟨8, 9, 7, 1, lrec⟩
/-- The remote-launch table at 0x6300 admits partition 7 of device 9, any entry below 0x10000, windows to 128. -/
def rlt : State := pa { base with dram := base.dram.store 0x6300 (leBytes 2 9 ++ leBytes 2 7 ++ [5, 128, 1] ++ leBytes 9 0 ++ leBytes 8 0 ++ leBytes 8 0x10000) } fun q => { q with rltb := 0x6300, rltn := 1 }
def laned : State := pa base fun q => { q with lane := [⟨8, 9, lrec⟩], launches := [] }
def badLane : State := pa base fun q => { q with lane := [⟨8, 9, []⟩], launches := [] }
theorem witness_RemoteLaneRefused : (match badLane.checkLrec 1 [] true with | .ok _ _ => true | _ => false) = false
    ∧ badLane.myPart.lane = ⟨8, 9, []⟩ :: [] ∧ badLane.held = false := by and_intros <;> decide +kernel
def kRem : Pkt := pkt 1 [0x6200, 9] (.remote 21 true 16)
def oRem := outst kRem
theorem witness_RemoteLaunches : laned.myPart.lane = ⟨8, 9, lrec⟩ :: [] ∧ laned.myPart.st = 1 ∧ laned.myPart.launches = []
    ∧ (match laned.checkLrec 1 lrec true with | .ok _ _ => true | _ => false) = true ∧ oRem.remotePkt 21 = some (1, kRem, true)
    ∧ (outst { kRem with st := .remote 21 false 16 }).remotePkt 21 = some (1, { kRem with st := .remote 21 false 16 }, false)
    ∧ oRem.launchHears kRem = true ∧ oRem.launchHears { kRem with st := .remote 21 true 17 } = false
    ∧ ({ oRem with clk := 10 ^ 7 } : State).launchHears { kRem with st := .remote 21 false 16 } = false
    ∧ kRem.tstart + 2 ^ 22 ≤ ({ oRem with clk := 10 ^ 7 } : State).fab := by
  and_intros <;> decide +kernel
theorem witness_RemoteLaunches' : rlt.rltCode 1 remote = 0 ∧ base.rltCode 1 remote = 1 ∧ rlt.rltCode 1 { remote with lrec := [] } = 6
    ∧ oRem.upPorts (bits (kRem.w 2) 9 0) = [] ∧ (rlt.rltMet 1 remote 0 1).parts.look 1 = some (rlt.rltMet 1 remote 0 1).myPart := by and_intros <;> decide +kernel

end PartI

namespace PartJ

/-- A key block, and a policy for partition 1 under it: class 1 at level 3, sequence 5, an interval of 1,000. -/
def policyKey : List Byte := List.replicate 383 0 ++ [0x80] ++ leBytes 4 1
/-- Its SHA-256 digest, and that of the policy's body: computed by another program. -/
def policyKeyDigest : List Byte := [0xDA, 0xDA, 0xE9, 0x53, 0x69, 0x4B, 0xB5, 0xEE, 0xE0, 0x84, 0x1A, 0x69, 0x74, 0x7A, 0x2E, 0x1F, 0x25, 0xA6, 0x80, 0xFD, 0xC0, 0xBC, 0xC2, 0x8A, 0xC1, 0x97, 0x50, 0xF3, 0x7A, 0xA6, 0x86, 0xD4]
def bodyDigest : List Byte := [0x5D, 0x90, 0xFD, 0x16, 0x90, 0x9C, 0x8F, 0x54, 0x80, 0x85, 0xF5, 0x6B, 0x40, 0x37, 0x9C, 0x98, 0x22, 0xE0, 0x01, 0x79, 0xB7, 0xCA, 0x69, 0x01, 0x04, 0x89, 0xAA, 0x5D, 0x60, 0x37, 0xEE, 0x81]
def policyBody : List Byte := [0x44, 0x50, 0x4F, 0x4C] ++ leBytes 2 1 ++ leBytes 2 0 ++ leBytes 2 1 ++ leBytes 2 1 ++ leBytes 4 5 ++ leBytes 4 1000 ++ leBytes 12 0 ++ policyKeyDigest ++ leBytes 8 (3 * 2 ^ 8 + 1)
def loading (b : List Byte) : State := pa { base with dram := base.dram ++ ((List.range b.length).zip b).filterMap fun e => if e.2 = 0 then none else some (0x6200 + e.1, e.2) } fun q => { q with keyBlock := policyKey, dpState := 1, dpAddr := 0x6200 }
def policed : State := loading (policyBody ++ pkcsEncode bodyDigest)
def inForce (lv : Nat) : State := pa (co base fun x => { x with ctrs := [(3, 77)] }) fun q => { q with policy := some ⟨5, 1000, [(1, lv), (6, 2)]⟩ }
theorem witness_PoliciesAndTheOperator : base.thread? 0 0 = some base.me ∧ 1 ≤ base.me.pl ∧ base.corePart 0 = some 1 ∧ base.parts.look 1 = some base.myPart
    ∧ base.myPart.dpState ≠ 1 ∧ policed.myPart.dpState = 1 ∧ policed.parts.look 1 = some policed.myPart
    ∧ (match policed.checkPolicy 1 with | .ok (_, _, u) => (u.parts.look 1).isSome | .error _ => false) = true
    ∧ (match (loading policyBody).checkPolicy 1 with | .error c => decide (c.1 = 7) && (c.2.parts.look 1).isSome | _ => false) = true
    ∧ base.myPart.st = 1 ∧ base.corePart 3000 ≠ some 1 ∧ Quiet base ∧ (inForce 3).myPart.grantsStop .whole = true
    ∧ base.myPart.grantsStop .whole = false ∧ (0, 0) ∈ (inForce 3).stopTargets 1 .whole ∧ (inForce 3).corePart 0 = some 1
    ∧ (base.makeThread 0 placedLaunch 64).isSome = true := by and_intros <;> decide +kernel
theorem witness_PoliciesAndTheOperator' : ({ base with opstops := [⟨1, .whole, 9, true⟩] }).opstops = ⟨1, .whole, 9, true⟩ :: [] ∧ Quiet { base with opstops := [⟨1, .whole, 9, true⟩] } := by
  and_intros <;> decide +kernel
def bound0 : HeadBind := ⟨0, 0, true, 0x6800, 2 ^ 20⟩
/-- A layer table and, in `ticking'`, head 0's binding are pending. -/
def ticking : State := pa base fun q => { q with rink := { q.rink with pending := some (0x6400, 0), queue := [3] } }
def ticking' : State := pa ticking fun q => { q with rink := { q.rink with heads := [(0, { Head.zero with pendBind := some (some bound0) })] } }
def frame0 : Sample := ⟨0, bound0, 5, true, 30, []⟩
def sampled : State := pa base fun q => { q with rink := { q.rink with samples := [frame0] } }
def frame1 : Sample := { frame0 with bind := { bound0 with len := (frameRecord 5 true (Config.bitstream 0 30 true Picture.none (bound0.picture []))).length } }
def enc1 : State := pa base fun q => { q with encm := 1, rink := { q.rink with encs := [(0, { Enc.zero with qp := 44 })] } }
theorem witness_FramesAndEncoders : ticking.parts = [(1, ticking.myPart)] ∧ ticking.myPart.pkts = []
    ∧ (ticking.myPart.rink.heads.all fun e => e.2.bound.bind.isNone) = true ∧ ticking'.parts.look 1 = some ticking'.myPart
    ∧ ticking'.myPart.rink.table = none ∧ sampled.held = false ∧ sampled.parts = (1, sampled.myPart) :: [] ∧ sampled.myPart.rink.samples = frame0 :: []
    ∧ enc1.thread? 0 0 = some base.me ∧ bit enc1.myPart.encm 0 = true
    ∧ (enc1.myPart.rink.encs.lookD 0 Enc.zero).qp < 256 ∧ base.myPart.oen = false ∧ base.olog.en = false := by and_intros <;> decide +kernel
theorem witness_FramesAndEncoders' : (frameRecord 5 true (Config.bitstream 0 30 true Picture.none (bound0.picture []))).length ≤ frame1.bind.len
    ∧ ({ bound0 with len := 0 } : HeadBind).len < (frameRecord 5 true (Config.bitstream 0 30 true Picture.none (bound0.picture []))).length := by
  refine ⟨Nat.le_refl _, ?_⟩
  simp [frameRecord, padTo, leBytes]
  omega

end PartJ

namespace PartK

/-- A tag: its level 0, a DOM, and an origin core. -/
def tagOf (dom org : Nat) : Word := Word.ofNat (2 ^ 58 * dom + 2 ^ 46 * org)
def entry1 : DqEntry := ⟨[0x6008, 0x6100, 1, 2, 3, 4, 5, 6], tagOf 4 0, 1, 0⟩
/-- The thread waits for work, and its core's deque holds an entry. -/
def idle : State := co (th base fun t => { t with idle := true, counts := false }) fun x => { x with deque := [entry1] }
/-- The thread runs, and an entry waits for a new one. -/
def queued : State := co base fun x => { x with deque := [entry1] }
def taken (s : State) (sth : Option Nat) : State := match s.dqTake 0 1 placedLaunch sth with | .entry _ u => u | _ => s
/-- Core 1 holds an entry; core 0 waits, and then has asked core 1. -/
def wide : Launch := { placedLaunch with levs := [⟨5, 5, 1⟩] }
def victim : State := { pa idle (fun q => { q with launches := [(1, wide)] }) with cores := [(0, { idle.core 0 with deque := [] }), (1, { Core.zero with deque := [entry1] })] }
def asked : State := victim.modCore 0 fun x => { x with steals := [(1, .asked 1 [2])] }
def asked' : State := victim.modCore 0 fun x => { x with steals := [(1, .asked 3 [])] }
theorem witness_FramesReachThreads : idle.corePart 0 = some 1 ∧ Quiet idle ∧ idle.launch? 1 entry1.frame.lid = some placedLaunch ∧ placedLaunch.fused = none
    ∧ bit (idle.core 0).trcfg 2 = false ∧ idle.thread? 0 0 = some idle.me ∧ idle.idleSlot 0 idle.me.lid ≠ none ∧ idle.me.waits idle.me.lid = true
    ∧ (idle.core 0).zonesFree placedLaunch = true ∧ idle.inWfw 0 1 0 idle.me = true
    ∧ (match idle.dqTake 0 1 placedLaunch (some 0) with | .entry e _ => decide (e = entry1) | _ => false) = true
    ∧ ((queued.core 0).threads.any fun x => queued.inWfw 0 1 x.1 x.2) = false ∧ (queued.newThread 0 placedLaunch).isSome = true
    ∧ (match queued.dqTake 0 1 placedLaunch none with | .entry e _ => decide (e = entry1) | _ => false) = true
    ∧ ((taken queued none).newThread 0 placedLaunch).isSome = true := by and_intros <;> decide +kernel
/-- A dispenser's frame is on its way to the thread of slot 0. -/
def coming1 : Coming := ⟨3, 0, entry1.frame⟩
def comes : State := co (th base fun t => { t with idle := true, counts := false }) fun x => { x with coming := [coming1] }
/-- No other core to ask. -/
def lonely : State := pa victim fun q => { q with quads := [] }
theorem witness_FramesReachThreads' : victim.corePart 0 = some 1 ∧ victim.launch? 1 1 = some wide ∧ victim.stealsFor 0 wide = true
    ∧ victim.victims 0 1 wide ≠ [] ∧ (asked.core 0).steals.look 1 = some (.asked 1 [2]) ∧ (asked'.core 0).steals.look 1 = some (.asked 3 [])
    ∧ (match asked.steal 1 0 1 wide with | .entry e _ => decide (e = entry1) | _ => false) = true
    ∧ (match asked'.steal 3 0 1 wide with | .none => true | _ => false) = true
    ∧ (match asked.steal 2 0 1 wide with | .none => true | _ => false) = true
    ∧ (co base fun x => { x with steals := [(1, .reply entry1)] }).myCore.steals.look 1 = some (.reply entry1)
    ∧ (co base fun x => { x with steals := [(1, .reply entry1)] }).myCore.cevs = []
    ∧ (co base fun x => { x with steals := [(1, .retry 99)] }).myCore.steals.look 1 = some (.retry 99)
    ∧ Quiet (co base fun x => { x with steals := [(1, .retry 99)] }) ∧ entry1.givable 1 = true
    ∧ comes.thread? 0 0 = some comes.me ∧ comes.launch? 1 comes.me.lid = some placedLaunch
    ∧ (comes.core 0).comingTo 0 = some coming1 ∧ comes.takesFrames 0 = true ∧ lonely.stealsFor 0 wide = true ∧ lonely.victims 0 1 wide = [] := by and_intros <;> decide +kernel
/-- Threads for rotation: in YIELD; in a slot marked TAKE, of a launch of class 1; and displaced. -/
def yields : State := parked base (.yield 16)
def marked : State := pa (co base fun x => { x with owners := [(0, ⟨0, some 1⟩)] }) fun q => { q with launches := [(1, { placedLaunch with pcls := 1 })] }
def away : Thread := { base.me with pc := 0x6010, sth := 7, lim := 16, preds := 3 }
def displaced' : State := co base fun x => { x with displaced := [(away, (List.range 16).map Word.ofNat)] }
theorem witness_ThreadsRotate : yields.corePart 0 = some 1 ∧ Quiet yields ∧ yields.thread? 0 0 = some yields.me ∧ yields.parkedFor 0 0 = some (.yield 16)
    ∧ 16 ≤ (out (exec (.rotationBoundary 0) yields)).clk ∧ yields.me.dbg = false ∧ yields.me.stopped = []
    ∧ marked.thread? 0 0 = some marked.me ∧ Quiet marked ∧ marked.passes 0 0 marked.me = true ∧ marked.me.idle = false
    ∧ (th marked fun t => { t with idle := true }).passes 0 0 (th marked fun t => { t with idle := true }).me = true
    ∧ ((th marked fun t => { t with idle := true }).core 0).comingTo 0 = none
    ∧ bit (displaced'.core 0).slcfg 0 = false ∧ (displaced'.seat 0 placedLaunch away ((List.range 16).map Word.ofNat)).map Prod.fst = some 1
    ∧ displaced'.takesFrames 0 = true ∧ (displaced'.reseat 0 1).isSome = true := by and_intros <;> decide +kernel
/-- The dispenser of cluster 0 bound, with a frame in its ring at 0x6C00; and closed down. -/
def disp0 : Disp := { Disp.zero with base := 0x6C00, log2sz := 4, en := true, lid := 1, part := 1, head := 5, tail := 5, tag := tagOf 5 0, last := 2 }
def ringOne : State := { cl (co base fun x => { x with threads := [] }) (fun x => { x with disp := { disp0 with tail := 6 } }) with dram := base.dram.store (0x6C00 + 64 * 5) (leBytes 8 0x6010 ++ leBytes 56 7) }
def unbound : State := cl base fun x => { x with disp := { Disp.zero with base := 0x6C00 } }
def bound5 : State := cl base fun x => { x with disp := disp0 }
def bound6 : State := cl base fun x => { x with disp := { disp0 with tail := 6 } }
def ringPlace : Nat × Nat × State := match ringOne.placeIn (rotation 0 2) placedLaunch false with | some r => r | none => (0, 0, base)
theorem witness_ClusterDeliveries : unbound.thread? 0 0 = some base.me ∧ 1 ≤ base.me.pl ∧ unbound.corePart 0 = some 1 ∧ (unbound.cluster 0).disp.en = false
    ∧ (unbound.cluster 0).disp.base.toNat % (64 * 2 ^ 4) = 0 ∧ (bound5.cluster 0).disp.en = true ∧ (bound5.cluster 0).disp.head = (bound5.cluster 0).disp.tail
    ∧ (bound6.cluster 0).disp.head ≠ (bound6.cluster 0).disp.tail ∧ base.me.prog.released = false ∧ base.me.rel = none ∧ base.me.unack = 0
    ∧ base.me.touched = [] ∧ (bound5.core 0).sbuf = [] ∧ ((21 : Word).toNat % 2 ^ 32 + 2 ^ 32 - (bound5.cluster 0).disp.head) % 2 ^ 32 ≤ 2 ^ 4
    ∧ ringOne.launch? 1 1 = some placedLaunch ∧ (ringOne.cluster 0).disp.parked = none ∧ (ringOne.placeIn (rotation 0 2) placedLaunch false).isSome = true
    ∧ ((ringPlace.2.2.unitRead (.cluster 0) 1 false (0x6C00 + 64 * 5) 64).toOption).isSome = true ∧ (ringOne.cluster 0).disp.closing = false := by
  and_intros <;> decide +kernel
def wgDesc : List Byte := [0x57, 0x47, 0x52, 0x46] ++ leBytes 2 1 ++ leBytes 2 0 ++ leBytes 2 1 ++ leBytes 2 8 ++ leBytes 4 0 ++ leBytes 8 0x6C00 ++ leBytes 8 0 ++ leBytes 8 0x6010 ++ [2, 0, 0, 0] ++ leBytes 4 100 ++ leBytes 8 0x6108 ++ leBytes 8 0
def described : State := { base with dram := base.dram.store 0x6400 wgDesc }
def node0 : WgNode := ⟨0x6010, 2, 100, 0x6108, [], 0⟩
def graph0 : WGraph := ⟨0x6400, 1, 1, 0, 0x6C00, 8, [node0], [], []⟩
def graphed (y : WGraph) : State := cl base fun x => { x with wg := some y, wgstate := 1 }
def pending : WGraph := { graph0 with nodes := [{ node0 with pend := [3], t0 := 50 }] }
def batched : WGraph := { graph0 with batches := [⟨0, 0, [3], [3], false⟩] }
theorem witness_WorkGraphs : (match (described.acquireOn 0 .clus).wgRead 1 0x6400 0 with | .ok _ => true | .error _ => false) = true
    ∧ (match (base.acquireOn 0 .clus).wgRead 1 0x6400 0 with | .ok _ => false | .error e => decide (e.1 = 2)) = true
    ∧ ((graphed graph0).cluster 0).wg = some graph0 ∧ graph0.lid = base.me.lid ∧ graph0.part = 1 ∧ graph0.alloc = []
    ∧ (∀ n ∈ graph0.nodes, n.pend = []) ∧ graph0.batches = [] ∧ (graphed graph0).allocators 0 = []
    ∧ pending.nodes[0]? = some { node0 with pend := [3], t0 := 50 } ∧ Quiet (graphed pending) ∧ batched.ready = some ⟨0, 0, [3], [3], false⟩
    ∧ ((graphed batched).placeIn (rotation 0 ((graphed batched).cluster 0).wgLast) placedLaunch false).isSome = true
    ∧ ((graphed batched).cluster 0).dispServes 1 1 = false := by and_intros <;> decide +kernel
def paySlot : PaySlot := ⟨2, 1, 1, 0x6010, 4, 1, 0, 0⟩
def paid : State := cl base fun x => { x with payb := 0x6000, pays := [(2, paySlot)] }
def payPlace : Nat × Nat × State := match paid.placeIn (rotation 0 (paid.cluster 0).payLast) placedLaunch false with | some r => r | none => (0, 0, base)
theorem witness_PayloadFrames : (paid.cluster 0).payReady = some (2, paySlot) ∧ paid.launch? 1 1 = some placedLaunch ∧ (paid.placeIn (rotation 0 (paid.cluster 0).payLast) placedLaunch false).isSome = true
    ∧ payPlace.2.2.cluster 0 = paid.cluster 0
    ∧ ((paid.cluster 0).dispServes 1 1 || ((paid.cluster 0).wgServes 1 1).isSome) = false := by and_intros <;> decide +kernel
/-- Channel 3 of core 0 bound to channel 4 of core 1, with an entry to send. -/
def bnd : Bind := ⟨1023, 1, 4, 2, 0, 9⟩
def chanOf (q : Chan) : State := co base fun x => x.setChan 3 q
def sends : State := chanOf ⟨[(7, 0), (8, 0), (9, 0)], some bnd, 10, false, []⟩
def proxied : State := { base with flights := [⟨5, 16, 0, 2, 0, .proxy 1 4 [(7, 2)] 3 9 false⟩], nextId := 6 }
/-- As `proxied`, with the true queue full. -/
def proxyFull : State := proxied.modCore 1 fun x => x.setChan 4 ⟨List.replicate 16 (7, 0), none, 0, false, []⟩
def credits : State := { chanOf ⟨[(7, 0)], some { bnd with out := 2 }, 10, false, []⟩ with flights := [⟨5, 16, 1, 0, 0, .credit 0 3 9⟩] }
def reader (n : Nat) : State := parked (chanOf ⟨List.replicate n (7, 0), none, 0, false, []⟩) (.chan [3] none false)
theorem witness_BoundChannels : ((sends.core 0).chan 3).bind = some bnd ∧ ((sends.core 0).chan 3).vals ≠ [] ∧ ((sends.core 0).chan 3).due = false ∧ Quiet sends
    ∧ bnd.dev = 1023 ∧ 0 < bnd.credits ∧ ((proxied.core 1).chan 4).bind = none ∧ ((proxied.core 1).chan 4).vals.length < 16 ∧ proxied.nextId ≠ 5
    ∧ ((proxyFull.core 1).chan 4).vals.length = 16 ∧ ((proxyFull.core 1).chan 4).bind = none ∧ ((credits.before 5).any fun g => g.ordTo 1 0) = false
    ∧ credits.flight? 5 = some ⟨5, 16, 1, 0, 0, .credit 0 3 9⟩ ∧ ((credits.core 0).chan 3).bind = some { bnd with out := 2 } ∧ bnd.gen = 9
    ∧ ((credits.core 0).chan 3).due = false ∧ Quiet (reader 0) ∧ (reader 1).thread? 0 0 = some (reader 1).me ∧ (reader 1).me.park = some ⟨.chan [3] none false, 0, 0⟩
    ∧ (reader 1).me.prog.handed = none ∧ chansReady ((reader 1).core 0) 0 (some 0) [3] none false = true
    ∧ chansReady ((reader 0).core 0) 0 (some 0) [3] none false = false := by and_intros <;> decide +kernel

end PartK

namespace PartL

/-- The thread parked for each of what the wakes name. -/
def wWatch := parked base (.word 0x6100 8 .eq 1 .packet .watch)
def wPoll := parked base (.word 0x6100 8 .eq 1 (.poll 300) .watch)
def wJoin := parked base (.word 0x6100 4 .eq 0 .packet .join)
def wJoinPoll := parked base (.word 0x6100 4 .eq 0 (.poll 300) .join)
def wK := parked (co { base with clk := 100 } fun x => { x with kregs := [(3, [(0, 7)])] }) (.kwait 3 .eq 7)
def wK1 := parked (co { base with clk := 100 } fun x => { x with kregs := [(3, [(96, 7), (0, 1)])] }) (.kwait 3 .eq 7)
def wBar := parked base (.word 0x6100 8 .eq 1 .packet .barrier)
def wUntil := parked base (.until 300)
def wDbg := th wUntil fun t => { t with dbg := true }
def wTlb := parked base (.tlbinv 300)
def job0 : Job := ⟨1, 4, 0, 0, 1, 1, 0, 0, 0, 0, 0, 0, 0, false, 0, 2, .queued, 0, 0, 0, false, none, 0, none, 0, none, [], [], [], false, 0, [], false, 0, [], 0⟩
def wJob := parked base (.job 1 4)
def wJob' := cl wJob fun x => { x with jobs := [(1, [job0])] }
def wRing := parked base .spawnRing
def wLdf := parked base (.ldf 9 false)
def wLdf' := co wLdf fun x => { x with full := [9] }
def wStop := parked base (.stopw .pkg)
def wStop' := co wStop fun x => { x with threads := x.threads ++ [(1, { base.me with sth := 1, unack := 2, stopped := [(0, 0, Scope.pkg.code)], rel := some ⟨.pkg, true, [], []⟩ })] }
def wLreq := pa (parked base .lreq) fun q => { q with rink := { q.rink with queue := [5, 6] } }
def wPaya := parked base .paya
theorem witness_ParkedThreadsWake : Quiet wWatch ∧ wWatch.parkedFor 0 0 = some (.word 0x6100 8 .eq 1 .packet .watch) ∧ wJoin.parkedFor 0 0 = some (.word 0x6100 4 .eq 0 .packet .join)
    ∧ wPoll.parkedFor 0 0 = some (.word 0x6100 8 .eq 1 (.poll 300) .watch) ∧ wJoinPoll.parkedFor 0 0 = some (.word 0x6100 4 .eq 0 (.poll 300) .join)
    ∧ wK.parkedFor 0 0 = some (.kwait 3 .eq 7) ∧ ((kStands ((wK.core 0).kregs.lookD 3 []) none wK.clk).any fun v => wcmpHolds .eq 64 v.toNat (7 : Word).toNat) = true
    ∧ (wK1.core 0).kregs.lookD 3 [] = (96, 7) :: [(0, 1)] ∧ ((kStands ((wK1.core 0).kregs.lookD 3 []) none wK1.clk).any fun v => wcmpHolds .eq 64 v.toNat (7 : Word).toNat) = false
    ∧ wK1.clk < 96 + 8 ∧ Quiet wK1 ∧ wBar.parkedFor 0 0 = some (.word 0x6100 8 .eq 1 .packet .barrier)
    ∧ wUntil.parkedFor 0 0 = some (.until 300) ∧ wUntil.halted 0 0 = false ∧ wDbg.parkedFor 0 0 = some (.until 300) ∧ wDbg.halted 0 0 = true
    ∧ wTlb.parkedFor 0 0 = some (.tlbinv 300) ∧ wJob.parkedFor 0 0 = some (.job 1 4) ∧ (∀ j ∈ (wJob.cluster (clusterOf 0)).queue 1, j.seq ≠ 4)
    ∧ (∃ j ∈ (wJob'.cluster (clusterOf 0)).queue 1, j.seq = 4) ∧ wRing.parkedFor 0 0 = some .spawnRing ∧ wRing.corePart 0 = some 1
    ∧ (wRing.core 0).deque.length < 256 := by and_intros <;> decide +kernel
theorem witness_ParkedThreadsWake' : wLdf.parkedFor 0 0 = some (.ldf 9 false) ∧ 9 ∉ (wLdf.core 0).full ∧ (wLdf'.core 0).threads = [(0, wLdf'.me)] ∧ 9 ∈ (wLdf'.core 0).full
    ∧ wStop.thread? 0 0 = some wStop.me ∧ wStop.me.park.map Park.why = some (.stopw .pkg) ∧ wStop.me.stopped = [] ∧ (wStop.stopAll ((wStop.corePart 0).getD 0) 0 wStop.me.sth .pkg).stopDone (0, wStop.me.sth, Scope.pkg.code) = true
    ∧ (wStop'.stopAll ((wStop'.corePart 0).getD 0) 0 wStop.me.sth .pkg).stopDone (0, wStop.me.sth, Scope.pkg.code) = false
    ∧ wStop'.thread? 0 0 = some wStop.me ∧ wLreq.parts.look 1 = some wLreq.myPart ∧ wLreq.myPart.rink.queue = 5 :: [6]
    ∧ wLreq.parkedIn 1 (fun w => decide (w = .lreq)) = [(0, 0, 0)] ∧ (wLreq.thread? 0 0).isSome = true ∧ (wPaya.cluster 0).freePay = some 0
    ∧ wPaya.payWaiters 0 = (0, 0, 0) :: [] ∧ wPaya.thread? 0 0 = some wPaya.me ∧ wPaya.corePart 0 = some 1 := by and_intros <;> decide +kernel
def flying (w : Flight) : State := { base with flights := [⟨5, 16, 0, 0, 1, w⟩], nextId := 6 }
def sbe : SbEntry := ⟨4, 1, 0x6100, [1, 2, 3, 4], 0, 1, 0⟩
def buffered : State := co base fun x => { x with sbuf := [sbe] }
def relOf (n : Nat) : State := th (parked base .rel) fun t => { t with rel := some ⟨.pkg, true, [n], []⟩, touched := [n] }
def asleep : State := co base fun x => { x with asleep := true }
def quietCore : State := parked base (.until 99999)
theorem witness_FlightsLand : (buffered.core 0).sbuf = [sbe] ∧ buffered.myReds 0 sbe.sth (lineOf sbe.addr) = []
    ∧ (∀ v ∈ (buffered.core 0).threads, v.2.rel = none ∧ v.2.park.map Park.why ≠ some .sbFull)
    ∧ (flying (.red 1 0x6100 8 .add 5)).flights = [⟨5, 16, 0, 0, 1, .red 1 0x6100 8 .add 5⟩] ∧ (flying (.wstore 1 64 [7] true)).flights = [⟨5, 16, 0, 0, 1, .wstore 1 64 [7] true⟩]
    ∧ Quiet (flying (.wstore 1 64 [7] true)) ∧ ((flying (.wstore 1 64 [7] true)).core 0).threads = [(0, base.me)] ∧ base.me.sth = 0 ∧ base.me.park = none ∧ base.me.rel = none
    ∧ (flying (.ack 1)).flights = [⟨5, 16, 0, 0, 1, .ack 1⟩] ∧ Quiet (relOf 3) ∧ ((relOf 3).core 0).threads = [(0, (relOf 3).me)] ∧ (relOf 3).me.rel = some ⟨.pkg, true, [3], []⟩
    ∧ ((relOf 3).core 0).sbuf = [] ∧ (relOf 3).me.unack = 0 ∧ (relOf 3).me.park.map Park.why = some .rel
    ∧ (∃ e ∈ ((co (relOf 0) fun x => { x with sbuf := [sbe] }).core 0).sbuf, e.sth = (relOf 0).me.sth ∧ e.slice = 0)
    ∧ (quietCore.core 0).asleep = false ∧ quietCore.coreIdle 0 = true ∧ Quiet quietCore ∧ (asleep.core 0).asleep = true ∧ asleep.corePart 0 = some 1 ∧ asleep.parts.look 1 = some asleep.myPart := by and_intros <;> decide +kernel

end PartL

namespace PartM

def vm (n : Nat) : VMod := ⟨0, .rne, 0, false, false, false, false, BitVec.ofNat 12 n, 0, 0, 0, 0⟩
/-- A vector entry of an instruction waits in the ring. -/
def holding (i : Instr) : State := out (exec i base)
def iAdd : Instr := .vadd p 1 2 3 (vm 1)
def iRed : Instr := .vred p 1 2 (vm 1)
def entOf (s : State) : Entry := s.myCore.ring.getD 0 ⟨0, 0, 0, 0, 0, .nop p, 0, 0, 0, 0, 0, 0, 0, 0, 0, false, 0, 0, .held, 0, [], false, 0⟩
def vAdd : VInfo := ⟨.lanes, true, true, false, true, vm 1⟩
def vRed : VInfo := ⟨.red, true, false, false, true, vm 1⟩
def okOf {ε α : Type} (d : α) (r : Except ε α) : α := match r with | .ok a => a | .error _ => d
def isOk' {ε α : Type} (r : Except ε α) : Bool := match r with | .ok _ => true | .error _ => false
def sAdd : State := holding iAdd
def sRed : State := holding iRed
def uAdd : State := okOf sAdd (match sAdd.vrun 1 0 (entOf sAdd) vAdd false 1 0 with | .ok s => Except.ok s | .error _ => .error ())
def uRed : State := okOf sRed (match sRed.vreduce 0 (entOf sRed) vRed with | .ok s => Except.ok s | .error _ => .error ())
/-- An operand off the end of local memory. -/
def sBad : State := holding' where holding' := out (exec iAdd (g base 2 (Word.ofNat (2 ^ 19))))
def segErr : SegErr := (vchecks vAdd (entOf sBad)).getD ⟨0, 0, 0⟩
theorem witness_EntriesPerformAndFault : ringThread (sAdd.core 0) 0 = some 0 ∧ nextEntry (sAdd.core 0) 0 = some (entOf sAdd) ∧ sAdd.corePart 0 = some 1
    ∧ (sAdd.part 1).st = 1 ∧ vinfo (entOf sAdd).instr = some vAdd ∧ (entOf sAdd).st = .waiting ∧ vchecks vAdd (entOf sAdd) = none ∧ Quiet uAdd
    ∧ isOk' (sAdd.vrun 1 0 (entOf sAdd) vAdd false 1 0) = true ∧ vAdd.kind ≠ .red ∧ vAdd.kind ≠ .dot
    ∧ nextEntry (sRed.core 0) 0 = some (entOf sRed) ∧ vinfo (entOf sRed).instr = some vRed ∧ vchecks vRed (entOf sRed) = none
    ∧ isOk' (sRed.vreduce 0 (entOf sRed) vRed) = true ∧ Quiet uRed ∧ ringThread (sRed.core 0) 0 = some 0 := by and_intros <;> decide +kernel
def laneSrc : List Lane × List Lane × List Lane := match sAdd.vsources 0 (entOf sAdd) vAdd (sAdd.venv 0 (entOf sAdd) vAdd 0).kind 0 (sAdd.venv 0 (entOf sAdd) vAdd 0).n with | .ok x => x | .error _ => ([], [], [])
theorem witness_EntriesPerformAndFault' : (entOf sAdd).iter = 0 ∧ vAdd.m.cnt = 1 ∧ vAdd.kind ∉ [.ldg, .gath, .stg, .scat, .scan]
    ∧ isOk' (sAdd.vsources 0 (entOf sAdd) vAdd (sAdd.venv 0 (entOf sAdd) vAdd 0).kind 0 (sAdd.venv 0 (entOf sAdd) vAdd 0).n) = true
    ∧ isOk' (sAdd.vwrite' 0 (entOf sAdd) vAdd.m.rm ((entOf sAdd).dstOp vAdd.m) 0 (vlanes (sAdd.venv 0 (entOf sAdd) vAdd 0) (entOf sAdd).instr laneSrc.1 laneSrc.2.1 laneSrc.2.2)) = true
    ∧ nextEntry (sBad.core 0) 0 = some (entOf sBad) ∧ vchecks vAdd (entOf sBad) = some segErr ∧ (sBad.core 0).threads = [(0, sBad.me)] ∧ sBad.me.sth = 0
    ∧ (entOf sBad).sth = 0 ∧ sBad.me.park = none ∧ (entOf sBad).inHandler = false ∧ vinfo (entOf sBad).instr = some vAdd ∧ (entOf sBad).st = .waiting := by
  and_intros <;> decide +kernel
def late0 : Late := ⟨.vlate, 5, 1, 3, 0x77, 12, 0⟩
/-- A late cause is due and the thread has a handler. -/
def dueLate : State := th base fun t => { t with late := [late0], tvec := 0x7000 }
theorem witness_LateTraps : dueLate.thread? 0 0 = some dueLate.me ∧ dueLate.canRun 0 dueLate.me = true ∧ Quiet dueLate ∧ bit (dueLate.core 0).trcfg 1 = false
    ∧ dueLate.me.lateNow (dueLate.core 0).seqnow = some late0 ∧ dueLate.me.handler ≠ 0 ∧ late0.iter < 2 ^ 16 ∧ late0.acc < 4 ∧ late0.sub < 256 := by
  and_intros <;> decide +kernel
/-- An ENQ waits in the ring for its acceptance. -/
def sEnq : State := out (exec (.enq p 1 8) (g (g base 8 (Word.ofNat (2 ^ 56))) 9 5))
def jobOf (eng cmd : Nat) (flg m n k : Nat) (q1 q2 q3 : Word) (zx zw : Nat) : Job := ⟨eng, 4, 0, 0, 1, 1, Word.ofNat (cmd * 2 ^ 56 + flg * 2 ^ 48 + m * 2 ^ 32 + n * 2 ^ 16 + k), q1, q2, q3, zx, zw, 0, false, 0, 2, .queued, 0, 0, 0, false, none, 0, none, 0, none, [], [], [], false, 0, [], false, 0, [], 0⟩
def onEngine (j : Job) : State := cl base fun x => { x with jobs := [(j.eng, [j])] }
def badJob : Job := jobOf 0 0x0F 0 0 0 0 0 0 0 0 0
theorem witness_JobsAreAcceptedAndRefused : ringThread (sEnq.core 0) 0 = some (entOf sEnq).sth ∧ enqEntry (sEnq.core 0) (entOf sEnq).sth = some (entOf sEnq)
    ∧ sEnq.enqReady 0 (entOf sEnq) = true ∧ ((sEnq.enqOrder (clusterOf 0) (entOf sEnq).eng).find? fun k => (sEnq.enqNext k (entOf sEnq).eng).isSome) = some 0 ∧ Quiet sEnq
    ∧ slotOf (sEnq.core 0) (entOf sEnq).sth = some 0 ∧ sEnq.thread? 0 0 = some sEnq.me ∧ isGCode (entOf sEnq).dst = true
    ∧ ((onEngine badJob).cluster 0).queue 0 = [badJob] ∧ badJob.eng = 0 ∧ knownCmd badJob.ecmd = false ∧ badJob.st = .queued ∧ QuietEngines (onEngine badJob) := by
  and_intros <;> decide +kernel
def done (r : JobRes) : Bool := match r with | .done _ u => decide (QuietEngines u) | _ => false
def sp (f b : Nat) : Nat := f + 2 ^ 8 + 2 ^ 12 * b
/-- The state from which a job runs. -/
abbrev ran (j : Job) : State := if j.st = .queued then (onEngine j).startJob 0 j else onEngine j
abbrev Runs (j : Job) (chan : Option Nat) (cmd : Nat) (body : State → Job → JobRes) : Prop := JobReady (onEngine j) 0 j.eng chan cmd j ∧ done (body (ran j) { j with st := .running }) = true
def jLds := jobOf 0 0x01 0 0 1 1 0 (win 0) 0 0 0
def jMma := jobOf 0 0x02 1 1 1 1 (win 0) (win 64) 0 0 0
def jSta := jobOf 0 0x03 0 1 1 0 (win 0) 0 0 0 0
def jAclr (f : Nat) := jobOf 0 0x04 f 2 3 0 0 0 (Word.ofNat (2 ^ 48)) 0 0
def jSwaps := jobOf 0 0x05 0 0 0 0 0 0 0 0 0
def jCmma := jobOf 0 0x06 1 1 1 1 (win 0) (win 64) 0 (sp 19 2) (sp 19 2)
def jMstat := jobOf 0 0x07 4 0 0 0 0 (win 32) (Word.ofNat (2 ^ 48)) 0 0
def jFft := jobOf 1 0x10 0 1 0 0 (win 0) (win 64) 0 0 (sp 19 2)
def jIfft := jobOf 1 0x11 0 1 0 0 (win 0) (win 64) 0 (sp 19 2) 0
def jXact := jobOf 1 0x12 0 1 0 0 (win 0) (win 64) 0 (sp 19 2) (sp 19 2)
def jCpy := jobOf 2 0x20 4 1 0 4 (win 0) (win 64) 0 0 0
def jGthr (cmd : Nat) := jobOf 2 cmd 4 1 0 4 (win 0) (win 64) 0 25 25
def jFill := jobOf 2 0x23 4 1 0 4 7 (win 64) 0 0 0
/-- A collective whose buffer holds the result already. -/
def jColl (cmd : Nat) := { jobOf 2 cmd 4 2 0 4 (win 0) 0x6000 0 0 0 with started := true, donec := 1, desc := [win 64, win 96] }
theorem witness_EngineCommandsRun : Runs jLds none 0x01 (ldsBody 0) ∧ Runs jMma none 0x02 (mmaBody 0) ∧ Runs jSta none 0x03 (staBody 0)
    ∧ Runs (jAclr 4) none 0x04 (aclrBody 0) ∧ Runs jSwaps none 0x05 (swapsBody 0) ∧ Runs jCmma none 0x06 (cmmaBody 0) ∧ Runs jMstat none 0x07 (mstatBody 0)
    ∧ Runs jFft none 0x10 (xfmBody 0 .fwd) ∧ Runs jIfft none 0x11 (xfmBody 0 .inv) ∧ Runs jXact none 0x12 (fun s j => xfmBody 0 (.act (bits j.flg 7 4)) s j)
    ∧ Runs jCpy (some 1) 0x20 (cpyBody 0) ∧ Runs (jGthr 0x21) (some 1) 0x21 (indexedBody 0 false) ∧ Runs (jGthr 0x22) (some 1) 0x22 (indexedBody 0 true)
    ∧ Runs jFill (some 1) 0x23 (fillBody 0) ∧ Runs (jColl 0x30) (some 1) 0x30 (collBody 0) ∧ Runs (jColl 0x31) (some 1) 0x31 (collBody 0)
    ∧ Runs (jColl 0x32) (some 1) 0x32 (collBody 0) := by and_intros <;> decide +kernel
theorem witness_EngineCommandsRun' : [jSwaps.flg, jSwaps.m, jSwaps.n, jSwaps.k] = [0, 0, 0, 0] ∧ [jSwaps.q1, jSwaps.q2, jSwaps.q3] = [0, 0, 0] ∧ QuietEngines (onEngine jSwaps)
    ∧ (jAclr 4).flg = 4 ∧ (jAclr 0).flg = 0 ∧ (jAclr 4).k = 0 ∧ (jAclr 4).q1 = 0 ∧ (jAclr 4).q2 = 0 ∧ (jAclr 4).q3.toNat = (jAclr 4).acc * 2 ^ 48 ∧ (jAclr 4).acc = 1
    ∧ (jAclr 4).m ≤ 128 ∧ (jAclr 4).n ≤ 128 ∧ JobReady (onEngine (jAclr 0)) 0 0 none 0x04 (jAclr 0) ∧ jMstat.flg = 4 ∧ jMstat.m = 0 ∧ jMstat.n = 0 ∧ jMstat.k = 0
    ∧ jMstat.q3.toNat = jMstat.acc * 2 ^ 48 ∧ jMstat.acc ≤ 3 ∧ (onEngine jMstat).eplace 1 0 true jMstat.q2 = .ok (.win 0 32) ∧ jMstat.q2.toNat % 32 = 0 := by
  and_intros <;> first | rfl | decide +kernel
theorem witness_EngineFaults : QuietEngines (onEngine jLds) ∧ (onEngine jLds).bySth jLds.core jLds.sth = some base.me ∧ base.me.park = none
    ∧ (onEngine jLds).parts.look jLds.part = some base.myPart ∧ base.myPart.oen = false ∧ (onEngine jLds).olog.en = false := by and_intros <;> decide +kernel
/-- A job as its engine runs it. -/
abbrev rj (j : Job) : Job := { j with st := .running }
def sameOf {α : Type} (s : State) (r : Except (JStop × State) (α × State)) : Bool := match r with | .ok q => decide (q.2 = s) | .error _ => false
def valOf {α : Type} (d : α) (r : Except (JStop × State) (α × State)) : α := match r with | .ok q => q.1 | .error _ => d
theorem witness_EngineResults : jLds.isNew ∧ QuietEngines (onEngine jLds) ∧ [bits jLds.flg 2 0, jLds.m, jLds.acc, jLds.ldx] = [0, 0, 0, 0] ∧ jLds.q1 = 0 ∧ jLds.n ≤ 128
    ∧ jLds.kstart < (jLds.k + 127) / 128 ∧ jLds.sclOk = true ∧ jLds.vfmt ≤ 11 ∧ (onEngine jLds).eplace 1 0 true jLds.q2 = .ok (.win 0 0)
    ∧ matCheck (.win 0 0) ((onEngine jLds).matZone (rj jLds) (.win 0 0) jLds.zw) jLds.ldw jLds.n jLds.k = none
    ∧ sameOf (onEngine jLds) ((onEngine jLds).readW (rj jLds) 0 (.win 0 0) 0 0) = true ∧ JobReady (onEngine jLds) 0 0 none 0x01 jLds ∧ jLds.eng = 0 := by
  and_intros <;> first | rfl | decide +kernel
/-- The state in which MMA reads its weights, and the one in which it reads X. -/
def mma1 : State := (onEngine jMma).modTile 0 0 fun t => { t.clear 1 1 with spectral := false }
def mma2 : State := mma1.modCluster 0 fun x => ({ x with shadow := planeOf (valOf [] (mma1.readW (rj jMma) 0 (.win 0 64) 0 0)) 1 } : Cluster).swap
theorem witness_EngineResults' : jMma.isNew ∧ bits jMma.flg 2 1 = 0 ∧ jMma.m = 1 ∧ jMma.n = 1 ∧ jMma.k = 1 ∧ jMma.acc ≤ 3 ∧ jMma.kstart = 0 ∧ jMma.sclOk = true ∧ jMma.vfmt ≤ 11
    ∧ (onEngine jMma).eplace 1 0 true jMma.q1 = .ok (.win 0 0) ∧ (onEngine jMma).eplace 1 0 true jMma.q2 = .ok (.win 0 64) ∧ QuietEngines (onEngine jMma)
    ∧ (onEngine jMma).matZone (rj jMma) (.win 0 0) jMma.zx = 0 ∧ (onEngine jMma).matZone (rj jMma) (.win 0 64) jMma.zw = 0
    ∧ matCheck (.win 0 0) 0 jMma.ldx 1 1 = none ∧ matCheck (.win 0 64) 0 jMma.ldw 1 1 = none ∧ (((onEngine jMma).cluster 0).tile 0).thr = 0
    ∧ (((onEngine jMma).cluster 0).tile 0).poisoned 1 1 = false ∧ bit jMma.flg 0 = true ∧ sameOf mma1 (mma1.readW (rj jMma) 0 (.win 0 64) 0 0) = true
    ∧ sameOf mma2 (mma2.jruns (fun s m => s.jvals (rj jMma) 0 (.win 0 0) 0 1 (m * jMma.ldx)) (List.range 1)) = true ∧ JobReady (onEngine jMma) 0 0 none 0x02 jMma := by
  and_intros <;> first | rfl | decide +kernel
theorem witness_StaAndCmma : jSta.isNew ∧ [bits jSta.flg 2 0, jSta.k, jSta.kstart, jSta.ldw] = [0, 0, 0, 0] ∧ jSta.q2 = 0 ∧ jSta.m = 1 ∧ jSta.n ≤ 128 ∧ jSta.acc ≤ 3
    ∧ jSta.sclOk = true ∧ jSta.vfmt ≤ 11 ∧ (onEngine jSta).eplace 1 0 true jSta.q1 = .ok (.win 0 0) ∧ (onEngine jSta).matZone (rj jSta) (.win 0 0) jSta.zx = 0
    ∧ (((onEngine jSta).cluster 0).tile 0).spectral = false ∧ (((onEngine jSta).cluster 0).tile 0).poisoned 1 1 = false ∧ (((onEngine jSta).cluster 0).tile 0).thr = 0
    ∧ rowsFit 0 jSta.ldx 1 4 32 = true ∧ runFit 0 0 jSta.ldx = true
    ∧ isOk' (((onEngine jSta).core 0).engineRow ((onEngine jSta).jobCod (rj jSta) 0 false (rmOf .dyn jSta.mode) 0) 0 0 0 [Lane.fp ((((onEngine jSta).cluster 0).tile 0).at 0 0)] none []) = true
    ∧ jCmma.isNew ∧ jCmma.flg ≤ 1 ∧ jCmma.m = 1 ∧ jCmma.n = 1 ∧ jCmma.k = 1 ∧ jCmma.acc ≤ 3 ∧ jCmma.kstart = 0 ∧ jCmma.sclf = 0
    ∧ (onEngine jCmma).eplace 1 0 true jCmma.q1 = .ok (.win 0 0) ∧ (onEngine jCmma).eplace 1 0 true jCmma.q2 = .ok (.win 0 64)
    ∧ zfDom (sp 19 2) = 1 ∧ zfFmt (sp 19 2) = 19 ∧ zfBlk (sp 19 2) = 2 ∧ rowsFit 0 jCmma.ldx 1 (1 * 2 * 32 / 8) 32 = true ∧ rowsFit 64 jCmma.ldw 1 (1 * 2 * 4) 32 = true
    ∧ sameOf (onEngine jCmma) ((onEngine jCmma).jruns (fun s m => s.jcomplex (rj jCmma) 0 (.win 0 0) (sp 19 2) 2 (m * jCmma.ldx)) (List.range 1)) = true := by
  and_intros <;> first | rfl | decide +kernel
def spec2 : Cod := (onEngine jFft).jobCod (rj jFft) 0 false .rne (sp 19 2)
theorem witness_Transforms : jFft.isNew ∧ [jFft.n, jFft.k, bits jFft.q3.toNat 63 40] = [0, 0, 0] ∧ jFft.m = 1 ∧ (onEngine jFft).eplace 1 0 true jFft.q1 = .ok (.win 0 0)
    ∧ (onEngine jFft).eplace 1 0 true jFft.q2 = .ok (.win 0 64) ∧ jFft.flg = 0 ∧ fmtCls (zfFmt 0) = .f ∧ zfDom 0 = 0 ∧ rowsFit 0 jFft.ldx 1 16 32 = true ∧ rowsFit 64 jFft.ldw 1 8 32 = true
    ∧ sameOf (onEngine jFft) ((onEngine jFft).jvals (rj jFft) 0 (.win 0 0) 0 4 0) = true
    ∧ isOk' (((onEngine jFft).core 0).engineRow spec2 (sp 19 2) 64 64 ((fftBlock 2 (valOf [] ((onEngine jFft).jvals (rj jFft) 0 (.win 0 0) 0 4 0))).map fun q => .cx q.1 q.2) none []) = true
    ∧ jXact.isNew ∧ bits jXact.flg 3 0 = 0 ∧ bits jXact.flg 7 4 ≤ 3 ∧ sameOf (onEngine jXact) ((onEngine jXact).jcomplex (rj jXact) 0 (.win 0 0) (sp 19 2) 2 0) = true
    ∧ isOk' (((onEngine jIfft).core 0).engineRow ((onEngine jIfft).jobCod (rj jIfft) 0 false .rne 0) 0 64 64 ((ifftBlock 2 (valOf [] ((onEngine jIfft).jcomplex (rj jIfft) 0 (.win 0 0) (sp 19 2) 2 0))).map Lane.fp) none []) = true := by
  and_intros <;> first | rfl | decide +kernel
/-- A row of four elements that a copy moves as bits. -/
def cpyRow : Row := rowOf ((ran jCpy).copyCod (rj jCpy) 0 0) 0 true (valOf [] ((ran jCpy).jelems (rj jCpy) 0 (.win 0 0) 0 false 4 0))
def gthrRow : Row := rowOf ((ran (jGthr 0x21)).copyCod (rj (jGthr 0x21)) 0 25) 25 true (valOf [] ((ran (jGthr 0x21)).jelems (rj (jGthr 0x21)) 0 (.win 0 0) 25 false 4 0))
theorem witness_Copies : jCpy.isNew ∧ [bits jCpy.flg 1 0, bits jCpy.flg 7 6, jCpy.n, jCpy.kstart, jCpy.acc] = [0, 0, 0, 0, 0] ∧ jCpy.m = 1
    ∧ (onEngine jCpy).eplace 1 0 false jCpy.q1 = .ok (.win 0 0) ∧ (onEngine jCpy).eplace 1 0 false jCpy.q2 = .ok (.win 0 64) ∧ copyFormats false false 0 0 jCpy.sclf = some (0, 0, true)
    ∧ endFits (.win 0 0) [0] 4 32 = true ∧ endFits (.win 0 64) [0] 4 32 = true ∧ sameOf (ran jCpy) ((ran jCpy).jelems (rj jCpy) 0 (.win 0 0) 0 false 4 0) = true
    ∧ isOk' (((onEngine jCpy).core 0).putRow ((ran jCpy).copyCod (rj jCpy) 0 0) 0 64 64 cpyRow.width cpyRow.cls cpyRow.vals cpyRow.bad) = true
    ∧ (jGthr 0x21).isNew ∧ [bits (jGthr 0x21).flg 1 0, bits (jGthr 0x21).flg 7 6, (jGthr 0x21).n] = [0, 0, 0] ∧ (jGthr 0x21).idxo = 0 ∧ (base.core 0).lpoisoned 0 4 = false
    ∧ endFits (.win 0 64) [0] 4 8 = true ∧ sameOf (ran (jGthr 0x21)) ((ran (jGthr 0x21)).jelems (rj (jGthr 0x21)) 0 (.win 0 0) 25 false 4 0) = true
    ∧ isOk' (((onEngine (jGthr 0x22)).core 0).putRow ((ran (jGthr 0x22)).copyCod (rj (jGthr 0x22)) 0 25) 25 64 64 gthrRow.width gthrRow.cls gthrRow.vals gthrRow.bad) = true
    ∧ jFill.isNew ∧ [bits jFill.flg 1 0, bits jFill.flg 7 6, jFill.n, jFill.kstart, jFill.acc, jFill.ldx, bits jFill.sclf 3 0] = [0, 0, 0, 0, 0, 0, 0] ∧ bits jFill.sclf 7 4 ≤ 1
    ∧ isOk' (((onEngine jFill).core 0).putRow ((ran jFill).copyCod (rj jFill) 0 0) 0 64 64 64 5 (List.replicate 4 jFill.q1) []) = true := by
  and_intros <;> first | rfl | decide +kernel
/-- A started collective of two members, all of whose contributions have arrived. -/
def member (cmd rank scl : Nat) : Contribution := ⟨win 64, 0, [win 64, win 96], cmd, rank, 4, scl, false, 0, [1, 2, 3, 4], [], 0⟩
def jMem (cmd : Nat) (got : List Nat) : Job := { jobOf 2 cmd 4 2 0 4 (win 0) 0x6000 0 0 0 with st := .running, started := true, desc := [win 64, win 96], pieces := got }
def gathered (cmd : Nat) (got : List Nat) : State := cl (onEngine (jMem cmd got)) fun x => { x with contribs := [member cmd 0 0, member cmd 1 0] }
def got (cmd r : Nat) (l : List Nat) : Option Contribution := ((gathered cmd l).cluster (jMem cmd l).bufCluster).contrib (jMem cmd l) r
theorem witness_Collectives : QuietEngines (gathered 0x30 []) ∧ (jMem 0x30 []).failed = none ∧ (jMem 0x30 []).donec = 0 ∧ (jMem 0x30 []).out = 0 ∧ (gathered 0x30 []).winHere (jMem 0x30 []).own.toNat = true
    ∧ JobReady (gathered 0x30 []) 0 2 (some 1) 0x30 (jMem 0x30 []) ∧ ((List.range 2).filterMap fun r => got 0x30 r []).length = 2
    ∧ laneKind (fmtCls (zfFmt 0) :: ((List.range 2).filterMap fun r => got 0x30 r []).map fun c => clsOf c.cls) ≠ .cx
    ∧ isOk' (((gathered 0x30 []).core 0).engineRow ((gathered 0x30 []).copyCod (jMem 0x30 []) 0 0) 0 64 64 (collSum (((List.range 2).filterMap fun r => got 0x30 r []).map
        fun q => q.vals.map (wordLane .rne .fp (clsOf q.cls)))) (some false) [false, false, false, false]) = true
    ∧ JobReady (gathered 0x31 []) 0 2 (some 1) 0x31 (jMem 0x31 []) ∧ got 0x31 0 [] = some (member 0x31 0 0)
    ∧ isOk' ((gathered 0x31 []).collWrite (jMem 0x31 []) false 0 0 [1, 2, 3, 4] []) = true
    ∧ JobReady (gathered 0x32 [0]) 0 2 (some 1) 0x32 (jMem 0x32 [0]) ∧ got 0x32 1 [0] = some (member 0x32 1 0)
    ∧ ((List.range 2).filter fun i => !([0].contains i) && (got 0x32 i [0]).isSome) = [1] ∧ (insertNat [0] 1).length = 2
    ∧ isOk' ((gathered 0x32 [0]).collWrite (jMem 0x32 [0]) false 4 0 [1, 2, 3, 4] []) = true := by
  and_intros <;> first | rfl | decide +kernel
def contrib (cmd rank scl : Nat) : Contribution := ⟨win 64, 9, [win 64, win 96], cmd, rank, 4, scl, false, 5, [1, 2, 3, 4], [], 0⟩
def jLate : Job := { jColl 0x30 with st := .gathering, donec := 0 }
theorem witness_CollectivesGatherOrTimeOut : (contrib 0x31 1 0).dest.toNat < 2 ^ 57 ∧ isWindow (contrib 0x31 1 0).dest.toNat = true ∧ base.winHere (contrib 0x31 1 0).dest.toNat = true
    ∧ base.corePart (winCore (contrib 0x31 1 0).dest.toNat) = some 1 ∧ base.collJobs 1 9 [win 64, win 96] 0 = [] ∧ base.collOver [] (contrib 0x30 1 0) = false
    ∧ (cl base fun x => { x with collNos := [⟨9, 0, [win 64, win 96], 1, []⟩] }).collOver [] (contrib 0x30 1 0) = true ∧ jLate.desc ≠ [] ∧ (contrib 0x31 1 0).cmd = 0x31 ∧ (contrib 0x31 1 0).rank ≠ (contrib 0x31 1 0).scl
    ∧ (contrib 0x31 0 0).rank = (contrib 0x31 0 0).scl ∧ base.winHere 0 = false ∧ ((onEngine jLate).cluster 0).headJob 2 (some 1) = some jLate ∧ jLate.started = true
    ∧ 0x30 ≤ jLate.ecmd ∧ jLate.ecmd ≤ 0x32 ∧ jLate.st = .gathering ∧ QuietEngines (onEngine jLate) ∧ jLate.eng = 2 ∧ (onEngine jLate).parts.look jLate.part = some base.myPart := by
  and_intros <;> decide +kernel

end PartM

namespace PartN

/-- Core 0 asks for core 1, which runs a thread; 2 MiB from 0x200000 are mapped to the same address. -/
def mate : Thread := { base.me with sth := 3, pc := 0x6040 }
def two : State := { base with cores := base.cores.put 1 { Core.zero with threads := [(4, mate)], regs := [(5, 9)] }, dram := base.dram.store 0x4008 (leBytes 8 0x20007F) }
def cpv (d op : Nat) : Word := Word.ofNat (0x200000 + 2 ^ 16 * op + d)
def asked1 : Preempt := ⟨0x200000, 0, 0, 1, []⟩
def stage (n : Nat) (s : State) : State := s.modCore 1 fun x => { x with preempt := some { asked1 with stage := n } }
def afar (s : State) : State := s.modCore 1 fun x => { x with preempt := some { asked1 with buf := Word.ofNat (2 ^ 57) } }
theorem witness_CoresAreSavedAndRestored : two.thread? 0 0 = some base.me ∧ 1 ≤ base.me.pl ∧ two.corePart 0 = some 1 ∧ base.me.cpstat.toNat % 4 ≠ 1
    ∧ two.cpCode 1 (cpv 3000 1).toNat ≠ 0 ∧ two.cpCode 1 (cpv 3000 2).toNat ≠ 0 ∧ bits (cpv 3000 1).toNat 17 16 = 1 ∧ bits (cpv 3000 2).toNat 17 16 = 2
    ∧ two.cpCode 1 (cpv 1 1).toNat = 0 ∧ bits (cpv 1 1).toNat 17 16 = 1 ∧ (∀ e ∈ (two.core 1).threads, e.2.idle = false)
    ∧ (stage 2 two).cpCode 1 (cpv 1 2).toNat = 0 ∧ bits (cpv 1 2).toNat 17 16 = 2 ∧ (cpv 1 2).toNat / 2 ^ 18 * 2 ^ 18 < 2 ^ 57
    ∧ ((stage 2 two).core 1).preempt.map Preempt.buf = some (Word.ofNat ((cpv 1 2).toNat / 2 ^ 18 * 2 ^ 18))
    ∧ two.cpCode 1 (cpv 1 2 + Word.ofNat (2 ^ 57)).toNat = 0 ∧ 2 ^ 57 ≤ (cpv 1 2 + Word.ofNat (2 ^ 57)).toNat / 2 ^ 18 * 2 ^ 18 := by and_intros <;> decide +kernel
theorem witness_CoresAreSavedAndRestored' : ((stage 1 two).core 1).preempt = some asked1 ∧ asked1.stage = 1 ∧ (stage 1 two).corePart 1 = some 1
    ∧ ((stage 1 two).core 1).ringDrained = true ∧ two.held = false ∧ (two.part 1).st = 1 ∧ (∀ e ∈ ((stage 1 two).core 1).threads, e.2.busy ≤ two.clk ∧ e.2.idle = false)
    ∧ asked1.buf.toNat < 2 ^ 57 ∧ ((afar two).core 1).ringDrained = true ∧ 2 ^ 57 ≤ (Word.ofNat (2 ^ 57)).toNat ∧ Quiet two ∧ asked1.byCore ≠ 1
    ∧ two.bySth asked1.byCore asked1.bySth = some base.me := by and_intros <;> decide +kernel
/-- Errors. -/
def keyed : State := pa { base with dkey := [(9, 1)] } fun q => { q with keyGen := 1 }
def logged : State := co base fun x => { x with slog := [⟨5, 0, 0, 0, 0, 5, 1⟩] }
theorem witness_Errors : keyed.errPart (.dram 9) = some 1 ∧ base.errPart (.localMem 0 9) = some 1 ∧ base.errPart (.regFile 0 9) = some 1 ∧ base.errPart (.accum 0 1 9) = some 1
    ∧ base.errPart (.codebook 0 3) = some 1 ∧ keyed.parts.look 1 = some keyed.myPart ∧ keyed.myPart.oen = false ∧ keyed.olog.en = false ∧ keyed.myPart.st = 1 ∧ base.corePart 0 = some 1
    ∧ (logged.core 0).slog = [⟨5, 0, 0, 0, 0, 5, 1⟩] ∧ (logged.core 0).cevs = [] ∧ (∀ x ∈ logged.cores, x.2.cevs = []) ∧ logged.corePart 0 = some 1
    ∧ ringFits base.myPart.obase 6 = true ∧ ringFits base.myPart.obase 40 = false ∧ bit (0x601 : Word).toNat 0 = true ∧ bits (0x601 : Word).toNat 12 8 = 6
    ∧ ringFits (pa base fun q => { q with obase := 64 }).myPart.obase 6 = false := by and_intros <;> decide +kernel
/-- Core 1's thread as the target of a debug stop; and stopped, with the register named by DBGA. -/
def dbv (k n op : Nat) : Word := Word.ofNat (k + 2 ^ 12 * n + 2 ^ 18 * op)
def stopped' (a : Nat) : State := pa (two.modThread 1 4 fun t => { t with dbg := true }) fun q => { q with dbgs := Word.ofNat (1 + 2 ^ 12 * 4), dbga := Word.ofNat a }
def gA (n : Nat) : Nat := 2 ^ 40 * n
def rA (n : Nat) : Nat := 2 ^ 52 * n + 2 ^ 51
/-- The target runs its handler. -/
def handling : State := two.modThread 1 4 fun t => { t with tcause := 2 ^ 63 }
theorem witness_DebugStops : two.parts.look 1 = some two.myPart ∧ Quiet two ∧ bits (dbv 1 4 1).toNat 19 18 = 1 ∧ two.corePart (bits (dbv 1 4 1).toNat 11 0) = some 1
    ∧ two.thread? 1 4 = some mate ∧ bits (dbv 1 4 2).toNat 19 18 = 2 ∧ two.corePart (bits (dbv 3000 4 2).toNat 11 0) ≠ some 1 ∧ bits (dbv 3000 4 1).toNat 19 18 = 1
    ∧ bits (dbv 3000 4 2).toNat 19 18 = 2 ∧ mate.park = none ∧ mate.busy ≤ two.clk ∧ mate.prog.reply = none ∧ mate.act = false
    ∧ (handling.thread? 1 4).map Thread.act = some true ∧ Quiet handling
    ∧ isGCode (7 : Code) = true ∧ (7 : Code).toNat < base.me.lim ∧ two.dbgState two.myPart ≠ 2 ∧ (stopped' (gA 5)).dbgState (stopped' (gA 5)).myPart = 2
    ∧ (stopped' (gA 5)).thread? (stopped' (gA 5)).myPart.dbgCore (stopped' (gA 5)).myPart.dbgSlot = some { mate with dbg := true } ∧ bit (gA 5) 51 = false
    ∧ bits (stopped' (gA 5)).myPart.dbga.toNat 47 40 < mate.lim ∧ bit (stopped' (rA 3)).myPart.dbga.toNat 51 = true ∧ (stopped' (rA 3)).dbgState (stopped' (rA 3)).myPart = 2
    ∧ ((({ mate with dbg := true } : Thread).reg 0 (bits (stopped' (rA 3)).myPart.dbga.toNat 63 52)).isSome) = true := by and_intros <;> decide +kernel

end PartN

end Sys2Proof.Tests
end

section
/-! Maps: what a lookup finds after a change of every entry, a filter or a fold of writes. -/
namespace Sys2Proof.Machine

variable {α : Type}

/-- A map whose entries are changed under their keys. -/
theorem KMap.look_map (f : Nat × α → Nat × α) (hf : ∀ e, (f e).1 = e.1) (m : KMap α) (i : Nat) :
    KMap.look (List.map f m) i = (KMap.look m i).map fun x => (f (i, x)).2 := by
  induction m with
  | nil => rfl
  | cons e m ih =>
    obtain ⟨k, v⟩ := e
    have hk : f (k, v) = (k, (f (k, v)).2) := Prod.ext (hf _) rfl
    rw [List.map_cons, hk]
    by_cases h : k = i
    · subst h; simp [KMap.look]
    · simp only [KMap.look, h, if_false]; exact ih

/-- A map of which the keys that `p` admits are kept. -/
theorem KMap.look_filter (p : Nat → Bool) (m : KMap α) (i : Nat) :
    KMap.look (List.filter (fun e => p e.1) m) i = if p i then KMap.look m i else none := by
  induction m with
  | nil => simp
  | cons e m ih =>
    obtain ⟨k, v⟩ := e
    rw [List.filter_cons]
    by_cases hp : p k = true
    · rw [if_pos hp]
      by_cases h : k = i
      · subst h; simp [KMap.look, hp]
      · simp only [KMap.look, h, if_false]; exact ih
    · rw [if_neg hp, ih]
      by_cases h : k = i
      · subst h; simp [hp]
      · simp [KMap.look, h]

theorem KMap.look_foldl_put (l : List Nat) (x : α) (m : KMap α) (i : Nat) :
    KMap.look (l.foldl (fun (m : KMap α) k => m.put k x) m) i = if i ∈ l then some x else KMap.look m i := by
  induction l generalizing m with
  | nil => simp
  | cons k l ih =>
    rw [List.foldl_cons, ih, KMap.look_put]
    by_cases hl : i ∈ l <;> by_cases hk : i = k <;> simp [hl, hk]

theorem KMap.look_foldl_del (l : List Nat) (m : KMap α) (i : Nat) :
    KMap.look (l.foldl (fun (m : KMap α) k => m.del k) m) i = if i ∈ l then none else KMap.look m i := by
  induction l generalizing m with
  | nil => simp
  | cons k l ih =>
    rw [List.foldl_cons, ih, KMap.look_del]
    by_cases hl : i ∈ l <;> by_cases hk : i = k <;> simp [hl, hk]

@[simp] theorem KMap.keys_mapVals {β : Type} (f : α → β) (m : KMap α) : (KMap.mapVals f m).keys = m.keys := by
  simp [KMap.keys, KMap.mapVals, Function.comp_def]

theorem KMap.lookD_mapVals {β : Type} (f : α → β) (m : KMap α) (i : Nat) (d : α) :
    KMap.lookD (KMap.mapVals f m) i (f d) = f (KMap.lookD m i d) := by
  unfold KMap.lookD
  rw [KMap.look_mapVals, Option.getD_map]

theorem KMap.mem_of_look {m : KMap α} {i : Nat} {x : α} (h : KMap.look m i = some x) : (i, x) ∈ m := by
  induction m with
  | nil => cases h
  | cons e m ih =>
    obtain ⟨k, v⟩ := e
    unfold KMap.look at h
    split at h
    · rename_i hk; cases h; subst hk; exact List.mem_cons_self
    · exact List.mem_cons_of_mem _ (ih h)

end Sys2Proof.Machine
end

section
/-! A field of bits is below its width. -/
namespace Sys2Proof.Machine

theorem bits_lt (x hi lo : Nat) : bits x hi lo < 2 ^ (hi + 1 - lo) := Nat.mod_lt _ (Nat.two_pow_pos _)

end Sys2Proof.Machine
end


section
/-! What Lodge's accesses for a partition may change. -/

namespace Sys2Proof.Machine

/-- What the device's own accesses for a partition, the records that it makes and the packets that it sends may change:
memory and its bookkeeping, the partitions' registers, the threads that a watched word tells, the operator's log and what
is said outside (R65, R179 to R188, R257 to R259). Every other part of the state is as it was. -/
structure LodgeWork (s t : State) : Prop where
  rest : t = { s with
    dram := t.dram, dkey := t.dkey, dpoison := t.dpoison, watches := t.watches, slices := t.slices,
    walkCache := t.walkCache, dramCounts := t.dramCounts, bridgeCounts := t.bridgeCounts, choices := t.choices,
    parts := t.parts, cores := t.cores, olog := t.olog, host := t.host, out := t.out }

namespace LodgeWork

theorem of (s : State) (dram : Memory) (dkey : KMap Nat) (dpoison : List Nat) (watches : KMap (List Watch))
    (slices : KMap (List SliceLine)) (walkCache : KMap (List WalkEntry)) (dramCounts bridgeCounts : KMap Nat)
    (choices : List Nat) (parts : KMap Part) (cores : KMap Core) (olog : OpLog) (host : Memory) (out : List Answer) :
    LodgeWork s { s with
      dram := dram, dkey := dkey, dpoison := dpoison, watches := watches, slices := slices, walkCache := walkCache,
      dramCounts := dramCounts, bridgeCounts := bridgeCounts, choices := choices, parts := parts, cores := cores,
      olog := olog, host := host, out := out } := ⟨rfl⟩

theorem refl (s : State) : LodgeWork s s := ⟨rfl⟩

theorem trans {s t u : State} (h : LodgeWork s t) (k : LodgeWork t u) : LodgeWork s u := by
  refine ⟨?_⟩
  have e := k.rest
  rw [h.rest] at e
  exact e

theorem clusters {s t : State} (h : LodgeWork s t) : t.clusters = s.clusters := by rw [h.rest]

theorem foldl {α : Type} {f : State → α → State} (h : ∀ s a, LodgeWork s (f s a)) (l : List α) (s : State) :
    LodgeWork s (l.foldl f s) := by
  induction l generalizing s with
  | nil => exact refl s
  | cons a l ih => exact (h s a).trans (ih (f s a))

theorem ite {s t u : State} {c : Prop} [Decidable c] (h : LodgeWork s t) (k : LodgeWork s u) :
    LodgeWork s (if c then t else u) := by
  split
  · exact h
  · exact k

end LodgeWork

/-! ### Parts, cores and threads -/

theorem State.modPart_work (s : State) (pno : Nat) (f : Part → Part) : LodgeWork s (s.modPart pno f) := by
  unfold State.modPart; split <;> exact .of ..

theorem State.modCore_work (s : State) (c : Nat) (f : Core → Core) : LodgeWork s (s.modCore c f) := .of ..

theorem State.modThread_work (s : State) (c sl : Nat) (f : Thread → Thread) : LodgeWork s (s.modThread c sl f) := by
  unfold State.modThread; split
  · exact State.modCore_work ..
  · exact .refl s

theorem State.modSth_work (s : State) (c sth : Nat) (f : Thread → Thread) : LodgeWork s (s.modSth c sth f) := by
  unfold State.modSth; split
  · exact State.modThread_work ..
  · exact State.modCore_work ..

/-! ### DRAM, watched words and slices -/

theorem State.rekey_work (s : State) (gen u : Nat) : LodgeWork s (s.rekey gen u) := by
  unfold State.rekey; split
  · exact .of ..
  · split <;> exact .of ..

theorem State.dramWrite_work (s : State) (gen pa : Nat) (bs : List Byte) : LodgeWork s (s.dramWrite gen pa bs) :=
  (LodgeWork.foldl (fun t u => State.rekey_work t gen u) (cellsOf pa bs.length) s).trans (.of ..)

theorem State.watchFree_work (s : State) (pno pa n : Nat) : LodgeWork s (s.watchFree pno pa n).2.2 := by
  unfold State.watchFree
  split
  · exact .refl s
  · dsimp only
    split
    · exact .refl s
    · exact .trans (.of ..) (LodgeWork.foldl (fun t (w : Nat × Nat) => t.modSth_work w.1 w.2 Thread.packet) _ _)

theorem State.watchAfter_work (s : State) (pno pa n : Nat) : LodgeWork s (s.watchAfter pno pa n) := by
  have h := s.watchFree_work pno pa n
  unfold State.watchAfter
  dsimp only
  split
  · exact h
  · exact h.trans (State.modPart_work ..)

theorem State.sliceFetch_work (s : State) (tsid ph blk miss : Nat) : LodgeWork s (s.sliceFetch tsid ph blk miss) := by
  unfold State.sliceFetch; dsimp only; split <;> exact .of ..

theorem State.sliceLook_work (s : State) (pno blk a n : Nat) : LodgeWork s (s.sliceLook pno blk a n).2 := by
  unfold State.sliceLook; dsimp only; split
  · exact .of ..
  · exact .trans (.of ..) (State.sliceFetch_work ..)

theorem State.walkSee_work (s : State) (pno pa : Nat) : LodgeWork s (s.walkSee pno pa) :=
  (State.sliceLook_work ..).trans (State.modPart_work ..)

/-! ### Translation (R185, R187, R188) -/

theorem State.markPte_work (s : State) (pno : Nat) (p : Part) (pa e : Nat) (acc : Acc) :
    LodgeWork s (s.markPte pno p pa e acc) := by
  unfold State.markPte; dsimp only; split
  · exact ((s.walkSee_work pno pa).trans (State.dramWrite_work ..)).trans (State.watchAfter_work ..)
  · exact .refl s

/-- Every state that a walk answers is the work of the walk, and a walk that fails answers no address. -/
def WalkWork (s : State) : Except Walked (Nat × TlbEntry × State) → Prop
  | .ok (_, _, t) => LodgeWork s t
  | .error (.fault _ _ t) | .error (.malformed _ t) => LodgeWork s t
  | .error .off => True
  | .error (.ok _ _) => False

theorem WalkWork.after {s t : State} (h : LodgeWork s t) {r : Except Walked (Nat × TlbEntry × State)} (k : WalkWork t r) :
    WalkWork s r := by
  match r, k with
  | .ok (_, _, _), k => exact h.trans k
  | .error (.fault _ _ _), k => exact h.trans k
  | .error (.malformed _ _), k => exact h.trans k
  | .error .off, _ => trivial

theorem State.leafEnd_work (s : State) (pno : Nat) (p : Part) (level ptePa e pa size va : Nat) (acc : Acc) (app : Bool) :
    WalkWork s (s.leafEnd pno p level ptePa e pa size va acc app) := by
  unfold State.leafEnd; split
  · exact State.markPte_work ..
  · exact LodgeWork.refl s

theorem State.walkFrom_work (pno : Nat) (p : Part) (va : Nat) (acc : Acc) (app : Bool) (levels : List Nat) :
    ∀ (s : State) (tab : Nat), WalkWork s (s.walkFrom pno p va acc app levels tab) := by
  induction levels with
  | nil => intro s tab; exact LodgeWork.refl s
  | cons level rest ih =>
    intro s tab
    unfold State.walkFrom
    dsimp only
    split
    · exact State.walkSee_work ..
    · exact State.walkSee_work ..
    · exact .after (State.walkSee_work ..) (ih _ _)
    · split
      · refine .after (s.walkSee_work pno (tab + 8 * vaIndex level va)) ?_
        split
        · split
          · exact .after (State.walkSee_work ..) (State.leafEnd_work ..)
          · exact State.walkSee_work ..
        · exact State.walkSee_work ..
      · exact .after (State.walkSee_work ..) (State.leafEnd_work ..)

theorem State.choose_work (s : State) : LodgeWork s s.choose.2 := by
  unfold State.choose; split
  · exact .refl s
  · exact .of ..

theorem State.walk_work (s : State) (via : Via) (pno : Nat) (p : Part) (va : Nat) (acc : Acc) (app : Bool) :
    WalkWork s (s.walk via pno p va acc app) := by
  unfold State.walk
  dsimp only
  split
  · trivial
  · split
    · exact LodgeWork.refl s
    · split
      · exact .after s.choose_work (State.walkFrom_work ..)
      · have h := WalkWork.after s.choose_work
          (s.choose.2.walkFrom_work pno p va acc app [1, 2, 3, 4, 5] (bits p.ptbr.toNat 51 12 * 4096))
        split
        · rename_i hw; rw [hw] at h; exact h
        · rename_i hw
          rw [hw] at h
          exact LodgeWork.trans h (.of ..)

/-- A translation for the device itself fills no TLB. -/
theorem State.translate_work {s t : State} {pno va pa : Nat} {acc : Acc} {app : Bool}
    (h : s.translate .lodge pno va acc app = .ok pa t) : LodgeWork s t := by
  unfold State.translate at h
  split at h
  · cases h
  · rename_i p _
    have hw := s.walk_work .lodge pno p va acc app
    dsimp only at h
    split at h
    · rename_i hr; rw [hr, h] at hw; exact hw.elim
    · rename_i hr; rw [hr] at hw; cases h; exact hw

theorem State.lodgeParts_work {pno : Nat} {acc : Acc} {app : Bool} {t : State} (l : List (Nat × Nat)) :
    ∀ {s : State} {r : List (Nat × Nat)}, s.lodgeParts pno acc app l = .ok (r, t) → LodgeWork s t := by
  induction l with
  | nil => intro s r h; cases h; exact .refl _
  | cons q rest ih =>
    intro s r h
    unfold State.lodgeParts at h
    split at h
    · cases h
    · split at h
      · rename_i ht
        split at h
        · rename_i hl
          cases h
          exact (State.translate_work ht).trans (ih hl)
        · cases h
      all_goals cases h

theorem State.lodgeRead_work {s t : State} {pno va n : Nat} {app : Bool} {bs : List Byte}
    (h : s.lodgeRead pno va n app = .ok (bs, t)) : LodgeWork s t := by
  unfold State.lodgeRead at h
  split at h
  · cases h
  · rename_i hl
    split at h
    · cases h
    · cases h; exact State.lodgeParts_work _ hl

/-! ### Records (R257 to R259) -/

theorem State.opRecord_work (s : State) (r : Obs) : LodgeWork s (s.opRecord r) := by
  unfold State.opRecord; dsimp only; split <;> exact .of ..

theorem State.gather_work (s : State) (pno key n : Nat) : LodgeWork s (s.gather pno key n) := State.modPart_work ..

theorem State.opFilter_work (s : State) (r : Obs) : LodgeWork s (s.opFilter r) := by
  have record := s.opRecord_work
  have sum := s.gather_work r.part
  have same := LodgeWork.refl s
  exact .ite (record r) (.ite (record r) (.ite same (.ite (record r.coarse)
    (.ite (.ite (.ite (sum ..) same) (.ite (sum ..) same)) same))))

theorem State.recordParts_work (pno : Nat) (l : List (Nat × Nat)) :
    ∀ (s : State) (bs : List Byte), LodgeWork s (s.recordParts pno l bs) := by
  induction l with
  | nil => intro s bs; exact .refl s
  | cons q rest ih =>
    intro s bs
    exact ((State.dramWrite_work ..).trans (State.watchAfter_work ..)).trans (ih _ _)

theorem State.lodgeRecord_work {s t : State} {pno va : Nat} {bs : List Byte} {clean : Bool}
    (h : s.lodgeRecord pno va bs clean = .ok t) : LodgeWork s t := by
  unfold State.lodgeRecord at h
  split at h
  · cases h
  · rename_i hl
    split at h
    · cases h
    · cases h; exact (State.lodgeParts_work _ hl).trans (State.recordParts_work ..)

theorem State.ringRecord_work (s : State) (r : Obs) : LodgeWork s (s.ringRecord r) := by
  have lost := s.modPart_work r.part fun p => { p with odrop := (p.odrop + 1) % 2 ^ 32 }
  unfold State.ringRecord
  dsimp only
  split
  · split
    · rename_i hr; exact (State.lodgeRecord_work hr).trans (State.modPart_work ..)
    · exact lost.trans (State.opFilter_work ..)
    · exact lost
  · exact lost

theorem State.emit1_work (s : State) (r : Obs) : LodgeWork s (s.emit1 r) := by
  unfold State.emit1; split
  · exact s.opFilter_work r
  · exact (s.ringRecord_work r).trans (State.opFilter_work ..)

theorem State.settleNotices_work (s : State) (pno : Nat) : LodgeWork s (s.settleNotices pno) := by
  unfold State.settleNotices; dsimp only; split
  · exact .refl s
  · exact (State.modPart_work ..).trans (LodgeWork.foldl (fun t _ => State.emit1_work t _) _ _)

theorem State.emit_work (s : State) (r : Obs) : LodgeWork s (s.emit r) :=
  (s.emit1_work r).trans (State.settleNotices_work ..)

theorem State.lodgeMet_work (s : State) (pno : Nat) (e : LodgeErr) : LodgeWork s (s.lodgeMet pno e) := by
  unfold State.lodgeMet; split
  · exact State.emit_work ..
  · exact .refl s

/-! ### Writes at the slices (R179, R202, R273) -/

theorem State.countSlice_work (s : State) (pno j ev n : Nat) : LodgeWork s (s.countSlice pno j ev n) := by
  unfold State.countSlice
  dsimp only
  split
  · exact .refl s
  · refine LodgeWork.foldl (fun t k => ?_) _ s
    split
    · exact (State.modPart_work ..).trans (State.emit_work ..)
    · exact State.modPart_work ..

theorem State.sliceSee_work (s : State) (pno : Nat) (runs : List (Nat × Nat)) : LodgeWork s (s.sliceSee pno runs) :=
  LodgeWork.foldl (fun t _ => LodgeWork.foldl
    (fun u _ => (State.sliceLook_work u ..).trans (State.countSlice_work ..)) _ t) _ s

theorem State.watchCheck_work (s : State) (pno pa n : Nat) : LodgeWork s (s.watchCheck pno pa n) := by
  have h := s.watchFree_work pno pa n
  unfold State.watchCheck
  dsimp only
  split
  · exact h
  · exact h.trans (State.countSlice_work ..)

theorem State.sliceWrite_work (s : State) (pno pa : Nat) (bs : List Byte) : LodgeWork s (s.sliceWrite pno pa bs) :=
  LodgeWork.foldl (fun t _ => ((State.dramWrite_work t ..).trans (State.sliceSee_work ..)).trans
    (State.watchCheck_work ..)) _ s

theorem State.sliceParts_work (pno : Nat) (l : List (Nat × Nat)) :
    ∀ (s : State) (bs : List Byte), LodgeWork s (s.sliceParts pno l bs) := by
  induction l with
  | nil => intro s bs; exact .refl s
  | cons q rest ih => intro s bs; exact (State.sliceWrite_work ..).trans (ih _ _)

theorem State.lodgePut_work {s t : State} {pno va : Nat} {bs : List Byte} {clean : Bool}
    (h : s.lodgePut pno va bs clean = .ok t) : LodgeWork s t := by
  unfold State.lodgePut at h
  split at h
  · cases h
  · rename_i hl
    split at h
    · cases h
    · cases h; exact (State.lodgeParts_work _ hl).trans (State.sliceParts_work ..)

/-- A failed access of Lodge is recorded with what it met. -/
theorem State.lodgeFailed_work (s : State) (pno a : Nat) (e : LodgeErr) :
    LodgeWork s ((s.lodgeMet pno e).lodgeFailRecord pno a) :=
  (s.lodgeMet_work pno e).trans (State.emit_work ..)

/-! ### Packets that complete (R65) -/

theorem State.dirtyMark_work (s : State) (pno q a : Nat) : LodgeWork s (s.dirtyMark pno q a) := by
  rw [State.dirtyMark]
  split
  · exact .refl s
  · extract_lets n b
    clear_value n b
    revert n b
    -- `id` keeps the bitmap's address a variable for the kernel, which would otherwise evaluate the read at it
    refine id ?_
    intro n b
    split
    · exact State.lodgeFailed_work ..
    · rename_i hr
      refine (State.lodgeRead_work hr).trans ?_
      split
      · rename_i hp; exact State.lodgePut_work hp
      · exact State.lodgeFailed_work ..

theorem State.completionRecord_work (s : State) (pno : Nat) (k : Pkt) (status aux : Nat) :
    LodgeWork s (s.completionRecord pno k status aux) := by
  unfold State.completionRecord
  split
  · exact .refl s
  · split
    · exact State.emit_work ..
    · split
      · rename_i hp; exact (State.lodgePut_work hp).trans (State.dirtyMark_work ..)
      · exact State.lodgeFailed_work ..

theorem State.complete_work (s : State) (pno : Nat) (k : Pkt) (status aux : Nat) :
    LodgeWork s (s.complete pno k status aux) :=
  (s.completionRecord_work pno k status aux).trans (State.modPart_work ..)

/-! ### What leaves the device (R30), and aborts (R18, R38) -/

theorem State.pickPort_work {s t : State} {dev p : Nat} {ord : Option (Nat × Nat)} (h : s.pickPort dev ord = some (p, t)) :
    LodgeWork s t := by
  unfold State.pickPort at h
  split at h
  · cases h
  · cases ord with
    | none => cases h; exact s.choose_work
    | some o => cases h; exact .refl s

theorem State.depart_work (s : State) (dev : Nat) (ord : Option (Nat × Nat)) (a : Answer) :
    LodgeWork s (s.depart dev ord a) := by
  unfold State.depart
  split
  · exact .of ..
  · split
    · rename_i hp; exact (State.pickPort_work hp).trans (.of ..)
    · exact .refl s

theorem State.abortPkts_work (s : State) (pno : Nat) (f : Pkt → Bool) : LodgeWork s (s.abortPkts pno f) :=
  LodgeWork.foldl (fun t _ => State.complete_work t ..) _ s

theorem State.abortRemotes_work (s : State) (pno : Nat) : LodgeWork s (s.abortRemotes pno) := by
  refine LodgeWork.foldl (fun t e => ?_) _ s
  split
  · split
    · exact State.depart_work ..
    · exact .refl t
  · exact .refl t

theorem State.tripPart_work (s : State) (pno : Nat) : LodgeWork s (s.tripPart pno) :=
  ((State.abortPkts_work ..).trans (State.abortRemotes_work ..)).trans (State.modPart_work ..)

end Sys2Proof.Machine
end

section
/-! Trips and throttles (R16 to R18), and the handover of quadrants (R35 to R38). -/
namespace Sys2Proof.Machine

theorem State.part_of_look {s : State} {n : Nat} {p : Part} (h : s.parts.look n = some p) : s.part n = p := by
  simp [State.part, KMap.lookD, h]

theorem State.modPart_some {s : State} {n : Nat} {p : Part} (f : Part → Part) (h : s.parts.look n = some p) :
    s.modPart n f = s.setPart n (f p) := by
  simp [State.modPart, h]

theorem State.look_modPart (s : State) (n m : Nat) (f : Part → Part) :
    (s.modPart n f).parts.look m = if m = n then (s.parts.look n).map f else s.parts.look m := by
  unfold State.modPart
  cases h : s.parts.look n with
  | none =>
    by_cases hm : m = n
    · subst hm; simp [h]
    · simp [hm]
  | some p => simp [State.setPart, KMap.look_put]

theorem State.holdAll_clusters (s : State) : s.holdAll.clusters = KMap.mapVals Cluster.reset s.clusters := by
  unfold State.holdAll
  dsimp only
  rw [(LodgeWork.foldl State.tripPart_work _ s).clusters]

theorem State.holdAll_cluster (s : State) (c : Nat) : s.holdAll.cluster c = (s.cluster c).reset := by
  have zero : Cluster.zero = Cluster.zero.reset := rfl
  unfold State.cluster
  rw [State.holdAll_clusters]
  conv => lhs; rw [zero]
  exact KMap.lookD_mapVals Cluster.reset s.clusters c Cluster.zero

/-- A trip that finds the package untripped. -/
theorem thermalTrip_holds (s : State) (h : s.trip = false) :
    ∃ t, exec .thermalTrip s = .next t ∧ t.trip = true ∧ t.trips = s.trips + 1 ∧ t.cores = []
      ∧ (∀ c, t.cluster c = (s.cluster c).reset) ∧ t.flights = [] ∧ t.cur.pops = [] := by
  refine ⟨{ s.holdAll with trip := true, tripAt := s.fab, trips := s.trips + 1 }, ?_, rfl, rfl, rfl, s.holdAll_cluster, rfl, rfl⟩
  simp [exec_thermalTrip, execThermalTrip, h]

/-- What a cluster in reset keeps: the numbers of its engines, and its jobs as aborted (R388, R390). -/
theorem Cluster.reset_jobs (x : Cluster) (eng n : Nat) : x.reset.jobs = [] ∧ x.reset.live eng n = x.live eng n
    ∧ ∀ j, x.jobs = [(eng, [j])] → x.reset.past.look j.id = some { j with st := .abort } := by
  refine ⟨rfl, rfl, fun j hj => ?_⟩
  simp [Cluster.reset, Cluster.abortJobs, hj]

theorem thermalRelease_early (s : State) (h : s.trip = false ∨ s.fab < s.tripAt + 160000000) :
    exec .thermalRelease s = .next s := by
  simp only [exec_thermalRelease, execThermalRelease]
  rw [if_pos (by simpa using h)]

theorem thermalRelease_due (s : State) (h : s.trip = true) (hd : s.tripAt + 160000000 ≤ s.fab) :
    ∃ t, exec .thermalRelease s = .next t ∧ t.trip = false ∧ t.hold = s.hold ∧ t.trips = s.trips
      ∧ t.cores = s.cores ∧ t.parts.keys = s.parts.keys
      ∧ ∀ n p, s.parts.look n = some p → p.st ≠ 2 → t.parts.look n = some p := by
  have late : ¬ (!s.trip || decide (s.fab < s.tripAt + 160000000)) = true := by simp [h, hd]
  simp only [exec_thermalRelease, execThermalRelease]
  rw [if_neg late]
  refine ⟨_, rfl, rfl, rfl, rfl, rfl, ?_, fun n p hp hst => ?_⟩
  · dsimp only; exact KMap.keys_mapVals _ s.parts
  dsimp only
  rw [KMap.look_mapVals, hp, Option.map_some, if_neg hst]

theorem powerThrottleStart_idle (s : State) (h : s.throttle = false) :
    exec .powerThrottleStart s = .next { s with throttle := true, powerEvents := s.powerEvents + 1 } := by
  simp [exec_powerThrottleStart, execPowerThrottleStart, h]

/-! ### Handover -/

theorem phcmdWrite_refused {s : State} {v : Word} (hb : s.booted = true) (hp : s.phstate ≠ 1)
    (hc : s.phCode v.toNat ≠ 0) : s.phcmdWrite v = { s with phstate := 3, phcode := s.phCode v.toNat } := by
  simp [State.phcmdWrite, hb, hp, hc]

theorem phcmdWrite_release {s : State} {v : Word} (ho : bits v.toNat 1 0 = 2) (hb : s.booted = true) (hp : s.phstate ≠ 1)
    (hc : s.phCode v.toNat = 0) : s.phcmdWrite v =
      { s.stopPart (bits v.toNat 7 4) with phstate := 1, phcode := 0, phpart := bits v.toNat 7 4 } := by
  simp [State.phcmdWrite, hb, hp, hc, ho]

/-- An assign that nothing rejects has its key block (R36). -/
theorem State.keyBlock_of_phCode {s : State} {v : Nat} (ho : bits v 1 0 = 1) (hc : s.phCode v = 0) :
    ∃ b, s.keyBlockAt s.phkey.toNat = some b := by
  cases hk : s.keyBlockAt s.phkey.toNat with
  | some b => exact ⟨b, rfl⟩
  | none =>
    simp only [State.phCode, ho, hk, Option.isNone_none, if_true] at hc
    split_ifs at hc

theorem phcmdWrite_assign {s : State} {v : Word} (ho : bits v.toNat 1 0 = 1) (hb : s.booted = true) (hp : s.phstate ≠ 1)
    (hc : s.phCode v.toNat = 0) : ∃ b, s.phcmdWrite v = s.assign v.toNat b := by
  obtain ⟨b, hk⟩ := State.keyBlock_of_phCode ho hc
  exact ⟨b, by simp [State.phcmdWrite, hb, hp, hc, ho, hk]⟩

/-- An owner key index is a byte. -/
theorem State.drawOki_lt (s : State) : s.drawOki < 256 := by
  unfold State.drawOki
  extract_lets free
  rw [List.getD_eq_getElem?_getD]
  cases h : free[Config.keyIndexDraw s.freec % free.length]? with
  | none => simp
  | some k =>
    have hk := List.mem_of_getElem? h
    simp only [free, List.mem_filter, List.mem_range] at hk
    exact hk.1

/-- The fields of a quadrant's QMAP (R32). -/
theorem qmap_fields {tsid oki pno : Nat} (ht : tsid < 2 ^ 16) (ho : oki < 2 ^ 8) (hp : pno < 2 ^ 4) :
    let w := (Word.ofNat (2 ^ 32 + tsid * 2 ^ 16 + oki * 2 ^ 8 + pno)).toNat
    bit w 32 = true ∧ bits w 3 0 = pno ∧ bits w 31 16 = tsid ∧ bits w 15 8 = oki := by
  have hw : (Word.ofNat (2 ^ 32 + tsid * 2 ^ 16 + oki * 2 ^ 8 + pno)).toNat = 2 ^ 32 + tsid * 2 ^ 16 + oki * 2 ^ 8 + pno := by
    rw [BitVec.toNat_ofNat]; omega
  dsimp only
  rw [hw]
  simp only [bit, bits, beq_iff_eq]
  omega

/-- What an accepted assign makes (R37): the partition, its quadrants' QMAP, and nothing of another partition. -/
theorem State.assign_holds (s : State) (v : Nat) (block : List Byte) : ∃ p : Part,
    (s.assign v block).phstate = 2 ∧ (s.assign v block).phcode = 0
    ∧ (s.assign v block).parts.look (bits v 7 4) = some p ∧ p.tsid = bits v 63 48 ∧ p.st = 1
    ∧ p.quads = maskQuads (bits v 47 32) ∧ p.keyGen = s.keyGens + 1 ∧ (s.assign v block).keyGens = s.keyGens + 1
    ∧ p.headm = bits s.phres.toNat 31 0 ∧ p.encm = bits s.phres.toNat 63 32 ∧ p.queues = [] ∧ p.launches = []
    ∧ (∀ q, q ∈ maskQuads (bits v 47 32) → (s.assign v block).quadPart q = some (bits v 7 4)
        ∧ bits ((s.assign v block).qmapOf q).toNat 31 16 = bits v 63 48
        ∧ bits ((s.assign v block).qmapOf q).toNat 15 8 = p.oki % 256)
    ∧ (∀ q, q ∉ maskQuads (bits v 47 32) → (s.assign v block).qmapOf q = s.qmapOf q)
    ∧ (∀ n, n ≠ bits v 7 4 → (s.assign v block).parts.look n = s.parts.look n)
    ∧ (s.assign v block).cores = s.cores ∧ (s.assign v block).dram = s.dram := by
  have hqmap : ∀ q, (s.assign v block).qmapOf q = if q ∈ maskQuads (bits v 47 32)
      then Word.ofNat (2 ^ 32 + bits v 63 48 * 2 ^ 16 + s.drawOki * 2 ^ 8 + bits v 7 4) else s.qmapOf q := by
    intro q
    simp only [State.qmapOf, KMap.lookD, State.assign, State.extend, KMap.look_foldl_put]
    split <;> rfl
  obtain ⟨h32, hpno, htsid, hoki⟩ := qmap_fields (bits_lt v 63 48) s.drawOki_lt (bits_lt v 7 4)
  refine ⟨_, rfl, rfl, KMap.look_put_self .., rfl, rfl, rfl, rfl, rfl, rfl, rfl, rfl, rfl, fun q hq => ?_, fun q hq => ?_,
    fun n hn => KMap.look_put_ne _ _ hn, rfl, rfl⟩
  · simp only [State.quadPart, hqmap, if_pos hq, h32, hpno, htsid, hoki, if_true, true_and]
    exact (Nat.mod_eq_of_lt s.drawOki_lt).symm
  · rw [hqmap, if_neg hq]

/-- What steps 1 and 2 of a release leave of the partition (R38): its registers, and its cores emptied. -/
theorem State.stopPart_holds (s : State) (n : Nat) (p : Part) (h : (s.stopPart n).parts.look n = some p) :
    p.st = 2 ∧ p.pkts = [] ∧ p.launches = [] ∧ p.lane = []
    ∧ ∀ c, quadOf c ∈ p.quads → ((s.stopPart n).core c).threads = [] ∧ ((s.stopPart n).core c).ring = [] := by
  generalize ht : s.stopPart n = t at h ⊢
  unfold State.stopPart at ht
  extract_lets _ b d qs at ht
  subst ht
  replace h : d.parts.look n = some p := h
  have hqs : qs = p.quads := by rw [← State.part_of_look h]
  have stopped := h
  rw [State.look_modPart, if_pos rfl] at stopped
  obtain ⟨p', -, rfl⟩ := Option.map_eq_some_iff.mp stopped
  refine ⟨rfl, rfl, rfl, rfl, fun c hc => ?_⟩
  rw [← hqs] at hc
  simp only [State.core, KMap.lookD]
  rw [KMap.look_map _ fun e => by split <;> rfl]
  cases d.cores.look c <;> simp [hc, Core.zero]

theorem phcmdRelease_holds (s : State) (v : Word) (ho : bits v.toNat 1 0 = 2) (hb : s.booted = true) (hp : s.phstate ≠ 1)
    (hc : s.phCode v.toNat = 0) : ∃ t : State, exec (.phcmdRelease v) s = .next t ∧ t.phstate = 1 ∧ t.phcode = 0
      ∧ t.phpart = bits v.toNat 7 4
      ∧ ∀ p : Part, t.parts.look (bits v.toNat 7 4) = some p → p.st = 2 ∧ p.pkts = [] ∧ p.launches = [] ∧ p.lane = []
        ∧ ∀ c, quadOf c ∈ p.quads → (t.core c).threads = [] ∧ (t.core c).ring = [] := by
  have stopped := s.stopPart_holds (bits v.toNat 7 4)
  rw [exec_phcmdRelease, execPhcmdRelease, if_pos ho, phcmdWrite_release ho hb hp hc]
  generalize s.stopPart (bits v.toNat 7 4) = u at stopped ⊢
  exact ⟨_, rfl, rfl, rfl, rfl, stopped⟩

theorem releaseScrub_holds (s : State) (n : Nat) (p : Part) (hp : s.parts.look n = some p) (hst : p.st = 2)
    (hph : s.phstate = 1) (hpp : s.phpart = n) (hh : s.held = false) (hd : s.drained n = true) :
    ∃ t, exec (.releaseScrub n) s = .next t ∧ t.phstate = 2 ∧ t.parts.look n = none
      ∧ (∀ q ∈ p.quads, t.quadPart q = none) ∧ p.oki ∉ t.okis ∧ t.measOf (16 + n) = zero32
      ∧ (∀ c, quadOf c ∈ p.quads → t.core c = Core.zero)
      ∧ (∀ m, m ≠ n → t.parts.look m = s.parts.look m) ∧ t.dram = s.dram := by
  have hpart := State.part_of_look hp
  refine ⟨s.scrub n, ?_, rfl, ?_, fun q hq => ?_, ?_, ?_, fun c hc => ?_, fun m hm => ?_, rfl⟩
  · simp [exec_releaseScrub, execReleaseScrub, hpart, hst, hp, hph, hpp, hh, hd]
  · simp [State.scrub, KMap.look_del]
  · simp only [State.quadPart, State.qmapOf, KMap.lookD, State.scrub, hpart, KMap.look_foldl_del, if_pos hq]
    rfl
  · simp [State.scrub, hpart]
  · simp [State.scrub, State.measOf]
  · simp only [State.core, KMap.lookD, State.scrub, hpart]
    rw [KMap.look_filter fun c => !p.quads.contains (quadOf c)]
    simp [hc]
  · simp only [State.scrub, KMap.look_del, if_neg hm]
    rfl

theorem devnumWrite_down (s : State) (v : Word) (h : ∀ p, p < 16 → (s.ports.lookD p Port.zero).st = 0) :
    exec (.devnumWrite v) s = .next { s with devnum := v.toNat % 1024 } := by
  have all : ((List.range 16).all fun p => (s.ports.lookD p Port.zero).st = 0) = true := by
    simpa using h
  simp [exec_devnumWrite, execDevnumWrite, all, bits]

/-- Settles O42: each event by the lemma about it; that a trip leaves the clusters to be zeroed as it found them
rests on `State.tripPart_work`, which follows every access that Lodge makes for the packets it aborts. -/
theorem tripsAndHandover : Obligations.TripsAndHandover := by
  refine ⟨thermalTrip_holds, Cluster.reset_jobs, fun s => ⟨thermalRelease_early s, thermalRelease_due s⟩,
    powerThrottleStart_idle, fun s => rfl, fun s v ho hb hp => ⟨fun hc => ?_, fun hc => ?_⟩,
    fun s v ho hb hp => ⟨fun hc => ?_, phcmdRelease_holds s v ho hb hp⟩, releaseScrub_holds, devnumWrite_down⟩
  · rw [exec_phcmdAssign, execPhcmdAssign, if_pos ho, phcmdWrite_refused hb hp hc]
  · obtain ⟨block, hw⟩ := phcmdWrite_assign ho hb hp hc
    obtain ⟨p, hassign⟩ := s.assign_holds v.toNat block
    exact ⟨s.assign v.toNat block, p, by rw [exec_phcmdAssign, execPhcmdAssign, if_pos ho, hw], hassign⟩
  · rw [exec_phcmdRelease, execPhcmdRelease, if_pos ho, phcmdWrite_refused hb hp hc]

end Sys2Proof.Machine
end

section
/-! Link ports, forwarding, and remote accesses at both their ends (R22 to R30). -/

namespace Sys2Proof.Machine

/-! ### Ports (R23, R24, R29) -/

theorem State.modPort_port (s : State) (n m : Nat) (f : Port → Port) : (s.modPort n f).ports.lookD m Port.zero =
    if m = n then f (s.ports.lookD n Port.zero) else s.ports.lookD m Port.zero :=
  KMap.lookD_put ..

/-- What every step of a fold keeps, the fold keeps. -/
theorem State.foldl_keeps {α β : Type} (g : State → β) {f : State → α → State} (h : ∀ s a, g (f s a) = g s) (l : List α)
    (s : State) : g (l.foldl f s) = g s := by
  induction l generalizing s with
  | nil => rfl
  | cons a l ih => rw [List.foldl_cons, ih, h]

theorem LodgeWork.ports {s t : State} (h : LodgeWork s t) : t.ports = s.ports := by rw [h.rest]

theorem State.reroutePkts_work (s : State) (port : Nat) : LodgeWork s (s.reroutePkts port) := by
  refine LodgeWork.foldl (fun t e => LodgeWork.foldl (fun u k => ?_) _ t) _ s
  split
  · refine .ite (.refl u) ?_
    dsimp only
    split
    · rename_i hp; exact (State.pickPort_work hp).trans (State.modPart_work ..)
    · exact State.modPart_work ..
  · exact .refl u

theorem State.reroute_ports (s : State) (port : Nat) : (s.reroute port).ports = s.ports := by
  unfold State.reroute
  refine (State.foldl_keeps State.ports (fun t f => ?_) _ _).trans (s.reroutePkts_work port).ports
  split
  · rfl
  · dsimp only
    split
    · rename_i hp; exact (State.pickPort_work hp).ports
    · rfl

/-- A port that has left STATE 2, its traffic rerouted: the port is what it was made, the others as they were. -/
theorem State.reroute_modPort (s : State) (n m : Nat) (f : Port → Port) :
    ((s.modPort n f).reroute n).ports.lookD m Port.zero =
      if m = n then f (s.ports.lookD n Port.zero) else s.ports.lookD m Port.zero := by
  rw [State.reroute_ports, State.modPort_port]

theorem gpsRetrain_port (s : State) (n : Nat) (hn : n < 16) : ∃ t, exec (.gpsRetrain n) s = .next t
    ∧ (t.ports.lookD n Port.zero).verg = 0 ∧ (t.ports.lookD n Port.zero).peer = 1023
    ∧ (t.ports.lookD n Port.zero).vero = (s.ports.lookD n Port.zero).vero
    ∧ (t.ports.lookD n Port.zero).st = (if s.devnum < 640 then 1 else 0)
    ∧ ∀ m, m ≠ n → t.ports.lookD m Port.zero = s.ports.lookD m Port.zero := by
  refine ⟨_, by rw [exec_gpsRetrain, execGpsRetrain, if_neg (by omega)], ?_⟩
  simp +contextual [State.reroute_modPort]

theorem linkTrainingDone_port (s : State) (n peer vero : Nat) (h : (s.ports.lookD n Port.zero).st = 1) :
    ∃ t, exec (.linkTrainingDone n peer vero) s = .next t
      ∧ (∀ m, m ≠ n → t.ports.lookD m Port.zero = s.ports.lookD m Port.zero)
      ∧ ((s.ports.lookD n Port.zero).vero % 2 = 1 ∧ vero % 2 = 1 ∧ peer ≠ s.devnum →
          (t.ports.lookD n Port.zero).st = 2 ∧ (t.ports.lookD n Port.zero).verg = 1
          ∧ (t.ports.lookD n Port.zero).peer = peer % 1024)
      ∧ (¬ ((s.ports.lookD n Port.zero).vero % 2 = 1 ∧ vero % 2 = 1 ∧ peer ≠ s.devnum) →
          (t.ports.lookD n Port.zero).st = 3 ∧ (t.ports.lookD n Port.zero).verg = 0
          ∧ (t.ports.lookD n Port.zero).peer = 1023 ∧ ∀ d, n ∉ t.upPorts d) := by
  refine ⟨_, by rw [exec_linkTrainingDone, execLinkTrainingDone, if_neg (by simp [h])], fun m hm => ?_, fun hv => ?_,
    fun hv => ?_⟩
  · rw [State.modPort_port, if_neg hm]
  · have good : (bit (s.ports.lookD n Port.zero).vero 0 && bit vero 0 && decide (peer ≠ s.devnum)) = true := by
      simpa [bit, and_assoc] using hv
    rw [State.modPort_port, if_pos rfl, if_pos good]
    exact ⟨rfl, rfl, rfl⟩
  · have bad : ¬ (bit (s.ports.lookD n Port.zero).vero 0 && bit vero 0 && decide (peer ≠ s.devnum)) = true := by
      simpa [bit, and_assoc] using hv
    refine ⟨?_, ?_, ?_, fun d hd => ?_⟩
    · rw [State.modPort_port, if_pos rfl, if_neg bad]
    · rw [State.modPort_port, if_pos rfl, if_neg bad]
    · rw [State.modPort_port, if_pos rfl, if_neg bad]
    · unfold State.upPorts at hd
      split at hd
      · cases hd
      · rw [List.mem_filter, State.modPort_port, if_pos rfl, if_neg bad] at hd
        simp at hd

theorem portDown_port (s : State) (n : Nat) (h : (s.ports.lookD n Port.zero).st = 2) : ∃ t, exec (.portDown n) s = .next t
    ∧ (t.ports.lookD n Port.zero).st = 0 ∧ (t.ports.lookD n Port.zero).peer = 1023
    ∧ ∀ m, m ≠ n → t.ports.lookD m Port.zero = s.ports.lookD m Port.zero := by
  refine ⟨_, by rw [exec_portDown, execPortDown, if_neg (by simp [h])], ?_⟩
  simp +contextual [State.reroute_modPort]

/-! ### Leaving the device (R30) -/

theorem State.pickPort_none {s : State} {dev : Nat} (h : s.upPorts dev = []) (ord : Option (Nat × Nat)) :
    s.pickPort dev ord = none := by
  simp [State.pickPort, h]

/-- A packet leaves by an up port of its route; ORD traffic of two cores by the one that is theirs; and only a choice is
used up. -/
theorem State.pickPort_some {s : State} {dev : Nat} (h : s.upPorts dev ≠ []) (ord : Option (Nat × Nat)) :
    ∃ (p : Nat) (l : List Nat), s.pickPort dev ord = some (p, { s with choices := l }) ∧ p ∈ s.upPorts dev
      ∧ ∀ a b, ord = some (a, b) → (s.upPorts dev)[Config.ordPort a b % (s.upPorts dev).length]? = some p := by
  unfold State.pickPort
  cases hup : s.upPorts dev with
  | nil => exact absurd hup h
  | cons p ps =>
    have pick : ∀ k, (p :: ps)[k % (p :: ps).length]? = some ((p :: ps).getD (k % (ps.length + 1)) p) := by
      intro k
      have hk : k % (ps.length + 1) < (p :: ps).length := Nat.mod_lt _ (Nat.succ_pos _)
      rw [List.getD_eq_getElem _ _ hk]
      exact List.getElem?_eq_getElem hk
    cases ord with
    | none =>
      obtain ⟨l, hl⟩ : ∃ l, s.choose.2 = { s with choices := l } := ⟨s.choose.2.choices, by
        unfold State.choose; split <;> rfl⟩
      refine ⟨_, l, by dsimp only; rw [hl], List.mem_of_getElem? (pick s.choose.1), fun a b hab => by cases hab⟩
    | some o =>
      refine ⟨_, s.choices, rfl, List.mem_of_getElem? (pick _), fun a b hab => ?_⟩
      cases hab
      exact pick _

theorem gondolaForward_leaves (s : State) (k : GPacket) (hd : k.dest ≠ s.devnum) (hh : 1 < k.hop)
    (hup : s.upPorts k.dest ≠ []) : ∃ (t : State) (port : Nat), exec (.gondolaForward k) s = .next t
      ∧ t.out = s.out ++ [.forward port { k with hop := k.hop - 1 }] ∧ port ∈ s.upPorts k.dest
      ∧ t.fwdCounts.lookD k.tsid 0 = s.fwdCounts.lookD k.tsid 0 + 1 ∧ t.cores = s.cores
      ∧ ∀ a b, packetOrd k = some (a, b) →
          (s.upPorts k.dest)[Config.ordPort a b % (s.upPorts k.dest).length]? = some port := by
  obtain ⟨port, l, hp, hmem, hord⟩ := State.pickPort_some hup (packetOrd k)
  have stays : ¬ (decide (k.dest = s.devnum) || decide (k.hop ≤ 1)) = true := by simp [hd, hh]
  rw [exec_gondolaForward, execGondolaForward, if_neg stays, hp]
  exact ⟨_, port, rfl, rfl, hmem, KMap.lookD_put_self .., rfl, hord⟩

theorem gondolaForward_dropped (s : State) (k : GPacket) (h : k.hop ≤ 1 ∨ s.upPorts k.dest = []) :
    exec (.gondolaForward k) s = .next s := by
  rw [exec_gondolaForward, execGondolaForward]
  split
  · rfl
  · rename_i stays
    rw [State.pickPort_none (h.resolve_left fun hh => stays (by simp [hh]))]

theorem State.depart_here (s : State) {dev : Nat} (a : Answer) (h : dev = s.devnum) : s.depart dev none a = s.say a :=
  if_pos h

theorem State.depart_lost (s : State) {dev : Nat} (a : Answer) (h : dev ≠ s.devnum) (hup : s.upPorts dev = []) :
    s.depart dev none a = s := by
  rw [State.depart, if_neg h, State.pickPort_none hup]

theorem State.depart_leaves (s : State) {dev : Nat} (a : Answer) (h : dev ≠ s.devnum) (hup : s.upPorts dev ≠ []) :
    ∃ port ∈ s.upPorts dev, (s.depart dev none a).out = s.out ++ [.sent port 8 a] ∧ (s.depart dev none a).cores = s.cores := by
  obtain ⟨port, l, hp, hmem, -⟩ := State.pickPort_some hup none
  rw [State.depart, if_neg h, hp]
  exact ⟨port, hmem, rfl, rfl⟩

/-- What departs uses up a choice at most and is said outside. -/
theorem State.depart_cores (s : State) (dev : Nat) (ord : Option (Nat × Nat)) (a : Answer) :
    (s.depart dev ord a).cores = s.cores := by
  unfold State.depart
  split
  · rfl
  · by_cases hup : s.upPorts dev = []
    · rw [State.pickPort_none hup]
    · obtain ⟨p, l, hp, -⟩ := State.pickPort_some hup ord
      rw [hp]; rfl

theorem State.depart_core (s : State) (dev : Nat) (ord : Option (Nat × Nat)) (a : Answer) (c : Nat) :
    (s.depart dev ord a).core c = s.core c := by
  unfold State.core; rw [State.depart_cores]

theorem State.pickPort_setCore (s : State) (dev : Nat) (ord : Option (Nat × Nat)) (c : Nat) (x : Core) :
    (s.setCore c x).pickPort dev ord = (s.pickPort dev ord).map fun r => (r.1, r.2.setCore c x) := by
  have choose : (s.setCore c x).choose = (s.choose.1, s.choose.2.setCore c x) := by
    unfold State.choose
    dsimp only [State.setCore_choices]
    split <;> rfl
  have up : (s.setCore c x).upPorts dev = s.upPorts dev := rfl
  unfold State.pickPort
  rw [up, choose]
  split
  · rfl
  · cases ord <;> rfl

/-- Whether a core is written before or after something departs is all the same. -/
theorem State.depart_setCore (s : State) (dev : Nat) (ord : Option (Nat × Nat)) (a : Answer) (c : Nat) (x : Core) :
    (s.setCore c x).depart dev ord a = (s.depart dev ord a).setCore c x := by
  by_cases h : dev = s.devnum
  · simp only [State.depart, State.setCore_devnum, h, if_true]; rfl
  · simp only [State.depart, State.setCore_devnum, if_neg h, State.pickPort_setCore]
    cases s.pickPort dev ord <;> rfl

/-! ### Remote accesses at their destination (R26, R27) -/

@[simp] theorem Core.portStore_lmem (x : Core) (off : Nat) (bs : List Byte) (full : Option Scope) :
    (x.portStore off bs full).lmem = x.lmem.store off bs := by
  cases full <;> rfl

@[simp] theorem Core.foreign_lmem (x : Core) (off n : Nat) (te : Option Bool) : (x.foreign off n te).lmem = x.lmem := by
  unfold Core.foreign
  split
  · dsimp only; split <;> rfl
  · rfl

/-- A remote access whose effect is a core's new contents and a reply. -/
theorem remoteAccess_admitted {s : State} {r : RemReq} {pno : Nat} (ha : s.admits r = some pno) {reply : RemReply} {t : State}
    (hr : s.remoteDo pno (winCore r.addr.toNat) (winOff r.addr.toNat) r = (some reply, t)) :
    exec (.remoteAccessArrival r) s = .next (t.depart r.sdev none (.remoteReply r.id r.sdev reply)) := by
  simp only [exec_remoteAccessArrival, execRemoteAccessArrival, ha, hr]

section
variable {s : State} {r : RemReq} {pno n : Nat} (ha : s.admits r = some pno) (hw : winOff r.addr.toNat + n ≤ 2 ^ 19)
include ha hw

theorem remoteLoad_answers (ho : r.op = .load n)
    (hp : (s.core (winCore r.addr.toNat)).lpoisoned (winOff r.addr.toNat) n = false) :
    exec (.remoteAccessArrival r) s = .next (s.depart r.sdev none (.remoteReply r.id r.sdev
      (.data ((s.core (winCore r.addr.toNat)).lmem.read (winOff r.addr.toNat) n)))) := by
  refine remoteAccess_admitted ha ?_
  simp only [State.remoteDo, ho, hp, if_neg (Nat.not_lt.mpr hw), Bool.false_eq_true, if_false]

theorem remoteStore_performed {v : Nat} {full : Bool} (ho : r.op = .store n v full) :
    ∃ t, exec (.remoteAccessArrival r) s = .next t
      ∧ (t.core (winCore r.addr.toNat)).lmem.bytes (winOff r.addr.toNat) n = leBytes n v
      ∧ (∀ a, a < winOff r.addr.toNat ∨ winOff r.addr.toNat + n ≤ a →
          (t.core (winCore r.addr.toNat)).lmem.get a = (s.core (winCore r.addr.toNat)).lmem.get a)
      ∧ t.out = (s.depart r.sdev none (.remoteReply r.id r.sdev .ack)).out
      ∧ ∀ d, d ≠ winCore r.addr.toNat → t.core d = s.core d := by
  have hdo : s.remoteDo pno (winCore r.addr.toNat) (winOff r.addr.toNat) r = (some .ack, s.setCore (winCore r.addr.toNat)
      ((s.core (winCore r.addr.toNat)).portStore (winOff r.addr.toNat) (leBytes n v) (if full then some .dom else none))) := by
    simp only [State.remoteDo, ho, if_neg (Nat.not_lt.mpr hw)]
  refine ⟨_, remoteAccess_admitted ha hdo, ?_, fun a hout => ?_, ?_, fun d hd => ?_⟩
  · rw [State.depart_setCore, State.core_setCore_self, Core.portStore_lmem]
    have h := Memory.bytes_store (leBytes n v) (s.core (winCore r.addr.toNat)).lmem (winOff r.addr.toNat)
    rwa [leBytes_length] at h
  · rw [State.depart_setCore, State.core_setCore_self, Core.portStore_lmem, Memory.get_store, leBytes_length,
      if_neg (by omega)]
  · rw [State.depart_setCore, State.setCore_out]
  · rw [State.depart_setCore, State.core_setCore, if_neg hd, State.depart_core]

theorem remoteAmo_performed {op : AtOp} {v : Nat} {ret te : Bool} (ho : r.op = .amo op n v ret te)
    (hp : (s.core (winCore r.addr.toNat)).lpoisoned (winOff r.addr.toNat) n = false) :
    ∃ t, exec (.remoteAccessArrival r) s = .next t
      ∧ (t.core (winCore r.addr.toNat)).lmem.read (winOff r.addr.toNat) n =
          amoVal op (8 * n) ((s.core (winCore r.addr.toNat)).lmem.read (winOff r.addr.toNat) n) v % 256 ^ n
      ∧ t.out = (s.depart r.sdev none (.remoteReply r.id r.sdev
          (.data ((s.core (winCore r.addr.toNat)).lmem.read (winOff r.addr.toNat) n)))).out := by
  have hdo : s.remoteDo pno (winCore r.addr.toNat) (winOff r.addr.toNat) r =
      (some (.data ((s.core (winCore r.addr.toNat)).lmem.read (winOff r.addr.toNat) n)), s.setCore (winCore r.addr.toNat)
        ((s.core (winCore r.addr.toNat)).portRmw (some te) (winOff r.addr.toNat) n fun old => amoVal op (8 * n) old v).2) := by
    simp only [State.remoteDo, ho, hp, if_neg (Nat.not_lt.mpr hw), Bool.false_eq_true, if_false, Core.portRmw]
  refine ⟨_, remoteAccess_admitted ha hdo, ?_, ?_⟩
  · rw [State.depart_setCore, State.core_setCore_self, Core.portRmw]
    exact (congrArg (Memory.read · _ n) (Core.foreign_lmem ..)).trans (Memory.read_store ..)
  · rw [State.depart_setCore, State.setCore_out]

end

theorem remoteAccess_refused (s : State) (r : RemReq) (ha : s.admits r = none) : exec (.remoteAccessArrival r) s =
    .next ((if opPosted r.op then s.refusedHere (winCore r.addr.toNat) r.addr.toNat else s).depart r.sdev none
      (.remoteReply r.id r.sdev .refused)) := by
  simp only [exec_remoteAccessArrival, execRemoteAccessArrival, ha]

/-! ### Outcomes at the source (R26) -/

/-- On a quiet core no state is logged. -/
theorem Quiet.logOff {s : State} (h : Quiet s) (c : Nat) : bit (s.core c).slcfg 0 = false := by
  unfold State.core KMap.lookD
  cases hc : s.cores.look c with
  | none => rfl
  | some x => exact (h _ (KMap.mem_of_look hc)).1

/-- Where no core counts, the passing of time changes the clock alone. -/
theorem State.pass_quiet {s : State} (h : Quiet s) (c : Nat) : s.pass c = { s with clk := max s.clk c } := by
  have still : ∀ (l : KMap Core) (t : State), (∀ e ∈ l, e.2.cevs = []) → l.foldl (fun (a : State) e =>
      if e.2.cevs = [] then a else (a.countCore e.1 1 (c - s.clk)).countCore e.1 5 ((c - s.clk) * e.2.parkedSlots)) t = t := by
    intro l
    induction l with
    | nil => intro t _; rfl
    | cons e l ih =>
      intro t hl
      rw [List.foldl_cons, if_pos (hl e List.mem_cons_self)]
      exact ih t fun o ho => hl o (List.mem_cons_of_mem _ ho)
  unfold State.pass
  split
  · rename_i hc; rw [Nat.max_eq_left hc]
  · rename_i hc
    rw [Nat.max_eq_right (by omega)]
    exact still s.cores _ fun e he => (h e he).2

/-- An update of a thread leaves the rest of its core. -/
theorem State.core_modThread (s : State) (c sl : Nat) (f : Thread → Thread) : (s.modThread c sl f).core c =
    { s.core c with threads := ((s.modThread c sl f).core c).threads } := by
  unfold State.modThread
  split
  · rw [State.setThread, State.core_modCore_self]; rfl
  · rfl

/-- A thread that wakes on a quiet core: its instruction stands as `f` left it, and issues next. -/
theorem State.wakeWith_quiet {s : State} (h : Quiet s) {c sl : Nat} {u : Thread} (hu : s.thread? c sl = some u)
    (f : Prog → Prog) : Woken s (s.wakeWith c sl f) c sl
      ∧ (s.wakeWith c sl f).thread? c sl = some { u with park := none, prog := { f u.prog with woken := true } }
      ∧ (s.wakeWith c sl f).flights = s.flights ∧ (s.wakeWith c sl f).clk = s.clk := by
  generalize ht : s.wakeWith c sl f = t
  unfold State.wakeWith State.wake at ht
  set noted := s.modThread c sl fun t => { t with prog := f t.prog } with hnoted
  set ready := noted.modThread c sl fun t => { t with park := none, prog := { t.prog with woken := true } } with hready
  have hcore : ready.core c = { s.core c with threads := (ready.core c).threads } := by
    rw [hready, State.core_modThread, hnoted, State.core_modThread s]
  have hthread : ready.thread? c sl = some { u with park := none, prog := { f u.prog with woken := true } } := by
    rw [hready, State.thread_modThread, if_pos ⟨rfl, rfl⟩, hnoted, State.thread_modThread, if_pos ⟨rfl, rfl⟩, hu]
    rfl
  have hoff : bit (ready.core c).slcfg 0 = false := by rw [hcore]; exact h.logOff c
  rw [noteState_off _ _ _ _ hoff] at ht
  subst ht
  refine ⟨⟨⟨u, _, hu, hthread, rfl, rfl, rfl⟩, ?_, ?_, ?_, ?_⟩, hthread, ?_, ?_⟩
  · simp [State.soon, hready, hnoted]
  · exact (congrArg Core.regs hcore).trans rfl
  · exact (congrArg Core.lmem hcore).trans rfl
  · simp [hready, hnoted]
  · simp [hready, hnoted]
  · simp [hready, hnoted]

theorem State.landed_flight (s : State) (id : Nat) : (s.landed id).flight? id = none := by
  simp [State.landed, State.flight?, List.find?_eq_none]

/-- The outcome of a remote access that a thread waits for wakes the thread with it. -/
theorem State.outcome_wakes {s : State} {f : Sent} {req : RemReq} {at' sl : Nat} (r : Outcome26) (hq : Quiet s)
    (hw : f.what = .gond req true at') (hs : slotOf (s.core f.core) f.sth = some sl)
    (hp : s.parkedFor f.core sl = some (.remote f.id)) :
    (s.outcome f r).flight? f.id = none ∧ Woken s (s.outcome f r) f.core sl ∧ (s.outcome f r).clk = s.clk
      ∧ ((s.outcome f r).thread? f.core sl).map (fun u => u.prog.reply) = some (some r) := by
  obtain ⟨⟨why, stamp, since⟩, hwhy, rfl⟩ := Option.map_eq_some_iff.mp hp
  obtain ⟨u, hu, -⟩ := Option.bind_eq_some_iff.mp hwhy
  have hout : s.outcome f r = (s.landed f.id).wakeWith f.core sl fun g => { g with reply := some r } := by
    have hs' : slotOf ((s.landed f.id).core f.core) f.sth = some sl := hs
    have hwhy' : (s.landed f.id).whyOf f.core sl = some ⟨.remote f.id, stamp, since⟩ := hwhy
    simp only [State.outcome, hw, hs', hwhy', if_true]
  obtain ⟨woken, hthread, hflights, hclk⟩ := State.wakeWith_quiet (s := s.landed f.id) hq hu fun g => { g with reply := some r }
  rw [hout]
  refine ⟨?_, ⟨woken.thread, woken.agenda, woken.regs, woken.lmem, woken.dram⟩, hclk, ?_⟩
  · rw [State.flight?, hflights]; exact s.landed_flight f.id
  · rw [hthread]; rfl

section
variable {s : State} {f : Sent} {req : RemReq} {at' sl : Nat} (hf : s.flight? f.id = some f) (hq : Quiet s)
  (hw : f.what = .gond req true at') (hs : slotOf (s.core f.core) f.sth = some sl)
  (hp : s.parkedFor f.core sl = some (.remote f.id))
include hf

theorem remoteReply_late (reply : RemReply) (ht : s.inTime f = false) : exec (.remoteReply f.id reply) s = .next s := by
  simp [exec_remoteReply, execRemoteReply, hf, ht]

include hq hw hs hp

theorem remoteReply_wakes (reply : RemReply) (ht : s.inTime f = true) : ∃ t, exec (.remoteReply f.id reply) s = .next t
    ∧ t.flight? f.id = none ∧ Woken s t f.core sl
    ∧ (t.thread? f.core sl).map (fun u => u.prog.reply) = some (some (some reply)) := by
  obtain ⟨hgone, woken, -, hreply⟩ := State.outcome_wakes (some reply) hq hw hs hp
  exact ⟨_, by simp [exec_remoteReply, execRemoteReply, hf, ht], hgone, woken, hreply⟩

theorem remoteAccessTimeout_wakes : ∃ t, exec (.remoteAccessTimeout f.id) s = .next t ∧ t.flight? f.id = none
    ∧ Woken s t f.core sl ∧ t.clk = max s.clk (Config.clkAt (at' + 2 ^ 22))
    ∧ (t.thread? f.core sl).map (fun u => u.prog.reply) = some (some none) := by
  have hsent : f.what.sentAt = some at' := by rw [hw]; rfl
  have hpass := State.pass_quiet hq (Config.clkAt (at' + 2 ^ 22))
  obtain ⟨hgone, woken, hclk, hreply⟩ := State.outcome_wakes
    (s := { s with clk := max s.clk (Config.clkAt (at' + 2 ^ 22)) }) none hq hw hs hp
  refine ⟨_, by rw [exec_remoteAccessTimeout, execRemoteAccessTimeout, hf]; dsimp only; rw [hsent]; dsimp only; rw [hpass],
    hgone, ⟨woken.thread, woken.agenda, woken.regs, woken.lmem, woken.dram⟩, hclk, hreply⟩

end

/-- Settles O43: each event by the lemma about it. -/
theorem linksAndRemoteAccesses : Obligations.LinksAndRemoteAccesses := by
  refine ⟨fun s n => ⟨gpsRetrain_port s n, linkTrainingDone_port s n, portDown_port s n⟩, gondolaForward_leaves,
    gondolaForward_dropped, fun s dev a => ⟨s.depart_here a, s.depart_lost a, s.depart_leaves a⟩, fun s r pno n v ha hw =>
    ⟨remoteLoad_answers ha hw, fun full => remoteStore_performed ha hw, fun op ret te => remoteAmo_performed ha hw⟩,
    remoteAccess_refused, fun s f req at' sl reply hf hq hw hs hp => ⟨remoteReply_wakes hf hq hw hs hp reply,
    remoteReply_late hf reply, remoteAccessTimeout_wakes hf hq hw hs hp⟩⟩

end Sys2Proof.Machine
end

section
/-! What the host does (R19 to R21), and the registers of queues (R54 to R58). -/

namespace Sys2Proof.Machine

/-! ### Configuration accesses and apertures (R19, R21) -/

theorem vfConfigAccess_answers (s : State) (n : Nat) :
    (n = 0 ∨ s.parts.look (n - 1) = none → exec (.vfConfigAccess n) s = .next { s with out := s.out ++ [.unsupported] })
    ∧ (n ≠ 0 → s.parts.look (n - 1) ≠ none → exec (.vfConfigAccess n) s = .next s) := by
  rw [exec_vfConfigAccess, execVfConfigAccess]
  exact ⟨fun h => if_pos (by simpa using h), fun h0 h => if_neg (by simp [h0, h])⟩

theorem apertureRecord_kinds (s : State) (pno va a kind level : Nat) :
    s.apertureRecord pno va (.fault kind level) = s.emit { s.obs 1 pno with
        code := (if kind = 2 then Cause.prot else .pageflt).code, addr := va }
    ∧ s.apertureRecord pno va .off = s.emit { s.obs 1 pno with code := Cause.pageflt.code, addr := va }
    ∧ s.apertureRecord pno va .poison = s.emit { s.obs 1 pno with code := Cause.poison.code, addr := va }
    ∧ s.apertureRecord pno va .address = s.emit { s.obs 1 pno with code := Cause.align.code, addr := va }
    ∧ s.apertureRecord pno va (.malformed a) = s.emit { s.obs 7 pno with addr := a } :=
  ⟨rfl, rfl, rfl, rfl, rfl⟩

section
variable {s : State} {pno off size : Nat} {p : Part} (hp : s.parts.look pno = some p) (hst : p.st ≠ 2) (ho : off < 2 ^ 34)
include hp hst ho

theorem apertureRead_answers {bs : List Byte} {t : State}
    (h : (s.hostSeen pno).lodgeRead pno (p.apbase.toNat + off) size true = .ok (bs, t)) :
    exec (.apertureRead pno off size) s = .next (t.say (.hostRead (leNat bs) true)) := by
  simp only [exec_apertureRead, execApertureRead, hp, if_neg (Nat.not_le.mpr ho), if_neg hst, h]

theorem apertureRead_fails {e : LodgeErr}
    (h : (s.hostSeen pno).lodgeRead pno (p.apbase.toNat + off) size true = .error e) :
    exec (.apertureRead pno off size) s = .next (((s.hostSeen pno).apertureRecord pno (p.apbase.toNat + off) e).say
      (.hostRead (2 ^ (8 * size) - 1) false)) := by
  simp only [exec_apertureRead, execApertureRead, hp, if_neg (Nat.not_le.mpr ho), if_neg hst, h, onesOf]

theorem apertureWrite_fails {data : List Byte} {e : LodgeErr} (hd : data.length = size)
    (h : (s.hostSeen pno).lodgeParts pno .write true (pageParts (size / 4096 + 2) (p.apbase.toNat + off) size) = .error e) :
    exec (.apertureWrite pno off data) s = .next ((s.hostSeen pno).apertureRecord pno (p.apbase.toNat + off) e) := by
  subst hd
  simp only [exec_apertureWrite, execApertureWrite, hp, if_neg (Nat.not_le.mpr ho), if_neg hst, h]

theorem apertureWrite_writes {data : List Byte} {pa : Nat} {t : State} (hd : data.length = size)
    (h : (s.hostSeen pno).lodgeParts pno .write true (pageParts (size / 4096 + 2) (p.apbase.toNat + off) size) =
      .ok ([(pa, size)], t)) : exec (.apertureWrite pno off data) s = .next (t.sliceWrite pno pa data) := by
  subst hd
  simp only [exec_apertureWrite, execApertureWrite, hp, if_neg (Nat.not_le.mpr ho), if_neg hst, h, List.foldl_cons,
    List.foldl_nil, List.take_length]

end

/-- An access past the aperture, or of no partition, reaches nothing (R21). -/
theorem aperture_outside (s : State) (pno off size : Nat) (data : List Byte) (h : s.parts.look pno = none ∨ 2 ^ 34 ≤ off) :
    let u := if s.parts.look pno = none then s else s.hostSeen pno
    exec (.apertureRead pno off size) s = .next (u.say (.hostRead (2 ^ (8 * size) - 1) false))
    ∧ exec (.apertureWrite pno off data) s = .next u := by
  simp only [exec_apertureRead, execApertureRead, exec_apertureWrite, execApertureWrite, onesOf]
  cases hp : s.parts.look pno with
  | none => exact ⟨rfl, rfl⟩
  | some p =>
    have ho : 2 ^ 34 ≤ off := h.resolve_left (by simp [hp])
    simp only [if_pos ho, reduceCtorEq, if_false, and_self]

/-- The aperture of a partition that is being released answers as one whose address does not translate (R38). -/
theorem aperture_releasing (s : State) (pno off size : Nat) (data : List Byte) (p : Part) (hp : s.parts.look pno = some p)
    (hst : p.st = 2) (ho : off < 2 ^ 34) :
    let u := (s.hostSeen pno).apertureRecord pno (p.apbase.toNat + off) .off
    exec (.apertureRead pno off size) s = .next (u.say (.hostRead (2 ^ (8 * size) - 1) false))
    ∧ exec (.apertureWrite pno off data) s = .next u := by
  simp only [exec_apertureRead, execApertureRead, exec_apertureWrite, execApertureWrite, onesOf, hp,
    if_neg (Nat.not_le.mpr ho), if_pos hst, and_self]

/-! ### Registers by offset (R20, R54, R55) -/

/-- A host write to a live partition's register has its effect. -/
theorem State.hostPart_live {s : State} {pno : Nat} {p : Part} (hp : s.parts.look pno = some p) (hst : p.st ≠ 2)
    (f : State → State) : s.hostPart pno f = .next (f (s.hostSeen pno)) := by
  simp only [State.hostPart, hp, if_neg hst]

/-- A virtual function's doorbell pages are its partition's. -/
theorem hostPage_vf {pno q o : Nat} (hn : pno < 16) (hq : q < 256) (ho : o < 4096) :
    hostPage (.vf (pno + 1)) (4096 * q + o) = some (pno, 4096 * q + o) := by
  have inside : (decide (1 ≤ pno + 1) && decide (pno + 1 ≤ 16) && decide (4096 * q + o < 0x100000)) = true := by
    simp only [Bool.and_eq_true, decide_eq_true_eq]; omega
  exact if_pos inside

/-- A register of a doorbell page, by its offset there. -/
theorem hostRegisterWrite_vf {s : State} {pno q o : Nat} {p : Part} (v : Word) (hn : pno < 16) (hq : q < 256) (ho : o < 4096)
    (hp : s.parts.look pno = some p) (hst : p.st ≠ 2) : exec (.hostRegisterWrite (.vf (pno + 1)) (4096 * q + o) v) s =
      .next ((s.hostSeen pno).pageWrite pno (4096 * q + o) v) := by
  rw [exec_hostRegisterWrite, execHostRegisterWrite, hostPage_vf hn hq ho]
  exact State.hostPart_live hp hst _

theorem pageWrite_offsets (s : State) (pno q : Nat) (v : Word) :
    s.pageWrite pno (4096 * q + 0x000) v = s.qdbWrite pno q v
    ∧ s.pageWrite pno (4096 * q + 0x010) v = s.qcfgWrite pno q v
    ∧ s.pageWrite pno (4096 * q + 0x900) v = s := by
  have hdiv : ∀ o, o < 4096 → (4096 * q + o) / 4096 = q := fun o ho => by omega
  have hmod : ∀ o, o < 4096 → (4096 * q + o) % 4096 = o := fun o ho => by omega
  unfold State.pageWrite
  rw [hdiv _ (by omega), hdiv _ (by omega), hdiv _ (by omega), hmod _ (by omega), hmod _ (by omega), hmod _ (by omega)]
  exact ⟨rfl, rfl, (ite_self s : (if q ≠ 0 then s else s) = s)⟩

/-- The registers of the partition itself lie in the first page alone. -/
theorem pageWrite_first (s : State) (pno : Nat) (v : Word) :
    s.pageWrite pno (4096 * 0 + 0x808) v = s.ifvwWrite pno v
    ∧ s.pageWrite pno (4096 * 0 + 0x830) v = s.frheadSet pno v
    ∧ s.pageWrite pno (4096 * 0 + 0x800) v =
        s.modPart pno fun p => { p with apbase := Word.ofNat (v.toNat / 2 ^ 34 * 2 ^ 34) } :=
  ⟨rfl, rfl, rfl⟩

theorem hostRegisterWrite_registers (s : State) (pno q : Nat) (v : Word) (hn : pno < 16) (hq : q < 256)
    (hp : s.parts.look pno ≠ none) (hst : (s.part pno).st ≠ 2) :
    let at' := fun (o : Nat) => exec (.hostRegisterWrite (.vf (pno + 1)) (4096 * q + o) v) s
    at' 0x000 = exec (.qdbWrite pno q v) s
    ∧ (at' 0x010 = if bit v.toNat 0 then exec (.qcfgEnable pno q v) s else exec (.qcfgDisable pno q v) s)
    ∧ (q = 0 → at' 0x808 = exec (.ifvwWrite pno v) s ∧ at' 0x830 = exec (.frheadWrite pno v) s
        ∧ (∃ t, at' 0x800 = .next t ∧ (t.part pno).apbase.toNat = v.toNat / 2 ^ 34 * 2 ^ 34))
    ∧ at' 0x900 = .next (s.hostSeen pno) := by
  intro at'
  obtain ⟨p, hp⟩ := Option.ne_none_iff_exists'.mp hp
  rw [State.part_of_look hp] at hst
  have live := State.hostPart_live hp hst
  have reg : ∀ o, o < 4096 → at' o = .next ((s.hostSeen pno).pageWrite pno (4096 * q + o) v) :=
    fun o ho => hostRegisterWrite_vf v hn hq ho hp hst
  obtain ⟨hqdb, hqcfg, hreserved⟩ := pageWrite_offsets (s.hostSeen pno) pno q v
  refine ⟨?_, ?_, fun h0 => ?_, ?_⟩
  · rw [reg _ (by omega), hqdb, exec_qdbWrite, execQdbWrite, live]
  · rw [reg _ (by omega), hqcfg]
    cases hv : bit v.toNat 0 with
    | true => simp [exec_qcfgEnable, execQcfgEnable, hv, live]
    | false => simp [exec_qcfgDisable, execQcfgDisable, hv, live]
  · subst h0
    obtain ⟨hifvw, hfrhead, hapbase⟩ := pageWrite_first (s.hostSeen pno) pno v
    refine ⟨?_, ?_, _, reg _ (by omega), ?_⟩
    · rw [reg _ (by omega), hifvw, exec_ifvwWrite, execIfvwWrite, live]
    · rw [reg _ (by omega), hfrhead, exec_frheadWrite, execFrheadWrite, live]
    · have hseen : (s.hostSeen pno).parts.look pno = some p := hp
      rw [hapbase, State.modPart_some _ hseen, State.part, State.setPart, KMap.lookD_put_self, BitVec.toNat_ofNat]
      omega
  · rw [reg _ (by omega), hreserved]

/-! ### Queues (R54 to R58) -/

theorem State.queue_modQueue {s : State} {pno : Nat} {p : Part} (hp : s.parts.look pno = some p) (q r : Nat)
    (f : Queue → Queue) : (s.modQueue pno q f).queue pno r = if r = q then f (s.queue pno q) else s.queue pno r := by
  simp only [State.queue, State.modQueue, State.modPart_some _ hp, State.part, State.setPart, KMap.lookD_put_self,
    KMap.lookD_put]
  simp [KMap.lookD, hp]

/-- A queue after PAUSE has been written (R57). -/
def Queue.paused (x : Queue) (b : Bool) : Queue :=
  { x with pause := b, qst := if b && x.qst = 1 then 2 else if !b && x.qst = 2 then 1 else x.qst }

/-- ERR of a queue that is enabled by a write of `n` under a granted interface version (R56, R57). -/
def Queue.enableErr (x : Queue) (grant n : Nat) : Nat :=
  if grant = 0 then 4
  else if bits n 12 8 < 4 || 16 < bits n 12 8 || x.base.toNat / 64 * 64 % (64 * 2 ^ bits n 12 8) ≠ 0 then 1 else 0

/-- A queue after EN has been set (R57). -/
def Queue.enabled (x : Queue) (grant n : Nat) : Queue :=
  let err := x.enableErr grant n
  Queue.paused { x with
    ken := bit n 2, log2sz := bits n 12 8, en := true, err := err, qst := if err = 0 then 1 else 3, ep := x.ep + 1,
    posted := [], head := if x.imported then x.head else 0, tail := if x.imported then x.tail else 0 } (bit n 1)

theorem Queue.enableErr_good {x : Queue} {grant n : Nat} (hg : grant ≠ 0) (hlo : 4 ≤ bits n 12 8) (hhi : bits n 12 8 ≤ 16)
    (hb : x.base.toNat / 64 * 64 % (64 * 2 ^ bits n 12 8) = 0) : x.enableErr grant n = 0 := by
  simp [Queue.enableErr, hg, hb, Nat.not_lt.mpr hlo, Nat.not_lt.mpr hhi]

theorem Queue.enabled_qst (x : Queue) (grant n : Nat) : (x.enabled grant n).qst =
    if x.enableErr grant n ≠ 0 then 3 else if bit n 1 then 2 else 1 := by
  unfold Queue.enabled Queue.paused
  by_cases h : x.enableErr grant n = 0
  · cases hb : bit n 1 <;> simp [h]
  · simp [h]

theorem State.qcfgWrite_enables {s : State} {pno q : Nat} {v : Word} (hen : (s.queue pno q).en = false)
    (h0 : bit v.toNat 0 = true) : s.qcfgWrite pno q v = s.modQueue pno q fun _ =>
      (s.queue pno q).enabled (s.part pno).grant v.toNat := by
  simp only [State.qcfgWrite, hen, h0, Bool.false_eq_true, if_false, if_true]
  rfl

theorem State.qcfgWrite_pauses {s : State} {pno q : Nat} {v : Word} (hen : (s.queue pno q).en = true)
    (h0 : bit v.toNat 0 = true) : s.qcfgWrite pno q v = s.modQueue pno q fun x => x.paused (bit v.toNat 1) := by
  simp only [State.qcfgWrite, hen, h0, if_true]
  rfl

/-- A host access has its effect on a queue of a partition, as `P` says, and on no other queue, partition or core. -/
def QueueAfter (s : State) (pno q : Nat) (r : Res) (P : Queue → Prop) : Prop :=
  ∃ t, r = .next t ∧ P (t.queue pno q) ∧ (∀ r, r ≠ q → t.queue pno r = s.queue pno r)
    ∧ (∀ n, n ≠ pno → t.parts.look n = s.parts.look n) ∧ t.cores = s.cores

theorem QueueAfter.modQueue {s t : State} {pno q : Nat} {p : Part} {f : Queue → Queue} {P : Queue → Prop}
    (hp : t.parts.look pno = some p) (hq : ∀ r, t.queue pno r = s.queue pno r)
    (hn : ∀ n, n ≠ pno → t.parts.look n = s.parts.look n) (hc : t.cores = s.cores) (h : P (f (s.queue pno q))) :
    QueueAfter s pno q (.next (t.modQueue pno q f)) P := by
  refine ⟨_, rfl, ?_, fun r hr => ?_, fun n hne => ?_, ?_⟩
  · rw [State.queue_modQueue hp, if_pos rfl, hq]; exact h
  · rw [State.queue_modQueue hp, if_neg hr, hq]
  · rw [State.modQueue, State.look_modPart, if_neg hne, hn n hne]
  · rw [State.modQueue, State.modPart_cores, hc]

section
variable {s : State} {pno q : Nat} {v : Word} {p : Part} (hp : s.parts.look pno = some p) (hst : p.st ≠ 2)
include hp

/-- A change of one queue after the access has been counted. -/
theorem QueueAfter.seen {f : Queue → Queue} {P : Queue → Prop} (h : P (f (s.queue pno q))) :
    QueueAfter s pno q (.next ((s.hostSeen pno).modQueue pno q f)) P :=
  .modQueue (t := s.hostSeen pno) hp (fun _ => rfl) (fun _ _ => rfl) rfl h

include hst

theorem qcfgEnable_after (h0 : bit v.toNat 0 = true) (hen : (s.queue pno q).en = false) {P : Queue → Prop}
    (h : P ((s.queue pno q).enabled p.grant v.toNat)) : QueueAfter s pno q (exec (.qcfgEnable pno q v) s) P := by
  rw [exec_qcfgEnable, execQcfgEnable, if_pos h0, State.hostPart_live hp hst,
    State.qcfgWrite_enables (s := s.hostSeen pno) hen h0]
  refine .seen hp ?_
  rw [State.part_of_look (s := s.hostSeen pno) hp]
  exact h

theorem qcfgEnable_good (h0 : bit v.toNat 0 = true) (hen : (s.queue pno q).en = false) (hg : p.grant ≠ 0)
    (hlo : 4 ≤ bits v.toNat 12 8) (hhi : bits v.toNat 12 8 ≤ 16)
    (hb : (s.queue pno q).base.toNat / 64 * 64 % (64 * 2 ^ bits v.toNat 12 8) = 0) :
    QueueAfter s pno q (exec (.qcfgEnable pno q v) s) fun y => y.en = true ∧ y.err = 0 ∧ y.log2sz = bits v.toNat 12 8
      ∧ y.qst = (if bit v.toNat 1 then 2 else 1) ∧ ((s.queue pno q).imported = false → y.head = 0 ∧ y.tail = 0)
      ∧ ((s.queue pno q).imported = true → y.head = (s.queue pno q).head ∧ y.tail = (s.queue pno q).tail) := by
  have herr := Queue.enableErr_good hg hlo hhi hb
  refine qcfgEnable_after hp hst h0 hen ⟨rfl, herr, rfl, ?_, fun hi => ?_, fun hi => ?_⟩
  · rw [Queue.enabled_qst, if_neg (not_not.mpr herr)]
  · simp [Queue.enabled, Queue.paused, hi]
  · simp [Queue.enabled, Queue.paused, hi]

theorem qcfgEnable_ungranted (h0 : bit v.toNat 0 = true) (hen : (s.queue pno q).en = false) (hg : p.grant = 0) :
    QueueAfter s pno q (exec (.qcfgEnable pno q v) s) fun y => y.en = true ∧ y.err = 4 ∧ y.qst = 3 := by
  have herr : (s.queue pno q).enableErr p.grant v.toNat = 4 := if_pos hg
  refine qcfgEnable_after hp hst h0 hen ⟨rfl, herr, ?_⟩
  rw [Queue.enabled_qst, herr]
  rfl

theorem qcfgDisable_after (h0 : bit v.toNat 0 = false) (hen : (s.queue pno q).en = true) :
    QueueAfter s pno q (exec (.qcfgDisable pno q v) s) fun y => y.en = false ∧ y.qst = 0 ∧ y.err = 0 ∧ y.imported = false
      ∧ y.base = (s.queue pno q).base := by
  have hen' : ((s.hostSeen pno).queue pno q).en = true := hen
  rw [exec_qcfgDisable, execQcfgDisable, if_neg (by simp [h0]), State.hostPart_live hp hst]
  simp only [State.qcfgWrite, hen', h0, Bool.false_eq_true, if_false, if_true]
  rw [State.modPart_some (s := s.hostSeen pno) _ hp]
  refine .modQueue (KMap.look_put_self ..) (fun r => ?_) (fun n hn => KMap.look_put_ne _ _ hn) rfl ⟨rfl, rfl, rfl, rfl, rfl⟩
  rw [State.queue, State.queue, State.part_of_look hp, State.part, State.setPart, KMap.lookD_put_self]

theorem qcfgPause_after (h0 : bit v.toNat 0 = true) (h1 : bit v.toNat 1 = true) (hen : (s.queue pno q).en = true)
    (hr : (s.queue pno q).qst = 1) : QueueAfter s pno q (exec (.qcfgPause pno q v) s) fun y => y.pause = true ∧ y.qst = 2
      ∧ y.head = (s.queue pno q).head ∧ y.tail = (s.queue pno q).tail := by
  rw [exec_qcfgPause, execQcfgPause, if_pos h1, State.hostPart_live hp hst,
    State.qcfgWrite_pauses (s := s.hostSeen pno) hen h0]
  exact .seen hp (by simp [Queue.paused, h1, hr])

theorem qcfgUnpause_after (h0 : bit v.toNat 0 = true) (h1 : bit v.toNat 1 = false) (hen : (s.queue pno q).en = true)
    (hr : (s.queue pno q).qst = 2) : QueueAfter s pno q (exec (.qcfgUnpause pno q v) s) fun y => y.pause = false
      ∧ y.qst = 1 ∧ y.head = (s.queue pno q).head ∧ y.tail = (s.queue pno q).tail := by
  rw [exec_qcfgUnpause, execQcfgUnpause, if_neg (by simp [h1]), State.hostPart_live hp hst,
    State.qcfgWrite_pauses (s := s.hostSeen pno) hen h0]
  exact .seen hp (by simp [Queue.paused, h1, hr])

theorem qdbWrite_within (hr : (s.queue pno q).qst = 1 ∨ (s.queue pno q).qst = 2)
    (hn : (v.toNat % 2 ^ 32 + 2 ^ 32 - (s.queue pno q).head) % 2 ^ 32 ≤ 2 ^ (s.queue pno q).log2sz) :
    QueueAfter s pno q (exec (.qdbWrite pno q v) s) fun y => y.tail = v.toNat % 2 ^ 32 ∧ y.qst = (s.queue pno q).qst
      ∧ y.head = (s.queue pno q).head := by
  have on : ¬ (decide ((s.queue pno q).qst = 0) || decide ((s.queue pno q).qst = 3)) = true := by
    rcases hr with h | h <;> simp [h]
  rw [exec_qdbWrite, execQdbWrite, State.hostPart_live hp hst]
  refine .seen hp ?_
  dsimp only
  rw [if_neg on, if_neg (Nat.not_lt.mpr hn)]
  exact ⟨rfl, rfl, rfl⟩

theorem qdbWrite_past (hr : (s.queue pno q).qst = 1 ∨ (s.queue pno q).qst = 2)
    (hn : 2 ^ (s.queue pno q).log2sz < (v.toNat % 2 ^ 32 + 2 ^ 32 - (s.queue pno q).head) % 2 ^ 32) :
    QueueAfter s pno q (exec (.qdbWrite pno q v) s) fun y => y.qst = 3 ∧ y.err = 2 ∧ y.tail = (s.queue pno q).tail := by
  have on : ¬ (decide ((s.queue pno q).qst = 0) || decide ((s.queue pno q).qst = 3)) = true := by
    rcases hr with h | h <;> simp [h]
  rw [exec_qdbWrite, execQdbWrite, State.hostPart_live hp hst]
  refine .seen hp ?_
  dsimp only
  rw [if_neg on, if_pos hn]
  exact ⟨rfl, rfl, rfl⟩

theorem ifvwWrite_wants (he : ∀ e ∈ p.queues, e.2.en = false) : ∃ t, exec (.ifvwWrite pno v) s = .next t
    ∧ (t.part pno).want = v.toNat % 256 ∧ (t.part pno).grant = (if bit v.toNat 0 then 1 else 0) := by
  have allOff : ¬ (p.queues.any fun e => e.2.en) = true := by simpa using he
  rw [exec_ifvwWrite, execIfvwWrite, State.hostPart_live hp hst, State.ifvwWrite,
    State.modPart_some (s := s.hostSeen pno) _ hp, if_neg allOff]
  refine ⟨_, rfl, ?_, ?_⟩
  · rw [State.part, State.setPart, KMap.lookD_put_self]
  · rw [State.part, State.setPart, KMap.lookD_put_self]
    rfl

theorem ifvwWrite_ignored (he : ∃ e ∈ p.queues, e.2.en = true) : ∃ t, exec (.ifvwWrite pno v) s = .next t
    ∧ t.parts.look pno = some p ∧ (∀ n, n ≠ pno → t.parts.look n = s.parts.look n) ∧ t.cores = s.cores := by
  have oneOn : (p.queues.any fun e => e.2.en) = true := by simpa using he
  rw [exec_ifvwWrite, execIfvwWrite, State.hostPart_live hp hst, State.ifvwWrite,
    State.modPart_some (s := s.hostSeen pno) _ hp, if_pos oneOn]
  exact ⟨_, rfl, KMap.look_put_self .., fun n hn => KMap.look_put_ne _ _ hn, rfl⟩

end

/-- Settles O44: each access by the lemma about it. -/
theorem hostRegisters : Obligations.HostRegisters := by
  refine ⟨⟨vfConfigAccess_answers, fun s pno off size p hp hst ho => ⟨fun bs t => apertureRead_answers hp hst ho,
    fun e => apertureRead_fails hp hst ho, fun data e => apertureWrite_fails hp hst ho,
    fun data pa t => apertureWrite_writes hp hst ho⟩, apertureRecord_kinds, aperture_outside, aperture_releasing,
    hostRegisterWrite_registers⟩, fun s pno q v p hp hst => ⟨qcfgEnable_good hp hst, qcfgEnable_ungranted hp hst,
    qcfgDisable_after hp hst, qcfgPause_after hp hst, qcfgUnpause_after hp hst, qdbWrite_within hp hst,
    qdbWrite_past hp hst, ifvwWrite_wants hp hst, ifvwWrite_ignored hp hst⟩⟩

end Sys2Proof.Machine
end

section
/-! What power-on leaves (R38, R41, R150). -/

namespace Sys2Proof.Machine

/-- Settles O37: at reset every map and memory is empty, and a lookup in an empty map finds nothing. -/
theorem resetLeaves : Obligations.ResetLeaves := by
  have noPart : ∀ q, State.reset.quadPart q = none := fun q => by
    simp [State.quadPart, State.qmapOf, State.reset, KMap.lookD, bit]
  have noThread : ∀ c sl, State.reset.thread? c sl = none := fun _ _ => rfl
  have wf : State.reset.memWf := ⟨rfl, rfl, fun e he => nomatch he⟩
  exact ⟨rfl, rfl, rfl, wf, fun _ => rfl, fun _ => rfl, noPart, fun c => noPart (quadOf c), noThread, fun _ => rfl, rfl, rfl,
    fun _ _ => rfl⟩

end Sys2Proof.Machine
end

section
/-! Boot (R41 to R44): what it may change, and when each of its images verifies. -/

namespace Sys2Proof.Machine

/-- The images in order each verify for their processor. -/
def State.AllVerify (s : State) : List Nat → List Image → Prop
  | [], _ => True
  | _ :: _, [] => False
  | n :: ns, i :: imgs => s.imageFault n i = 0 ∧ s.AllVerify ns imgs

/-- A check of an image reads the fuses alone. -/
theorem State.imageFault_congr {s t : State} (hm : t.minima = s.minima) (hk : t.keyDigests = s.keyDigests) (n : Nat)
    (i : Image) : t.imageFault n i = s.imageFault n i := by
  unfold State.imageFault; rw [hm, hk]

theorem State.AllVerify.congr {s t : State} (hm : t.minima = s.minima) (hk : t.keyDigests = s.keyDigests) :
    ∀ (ns : List Nat) (imgs : List Image), t.AllVerify ns imgs ↔ s.AllVerify ns imgs
  | [], _ => .rfl
  | _ :: _, [] => .rfl
  | n :: ns, i :: imgs => by
    rw [State.AllVerify, State.AllVerify, State.imageFault_congr hm hk, State.AllVerify.congr hm hk ns imgs]

theorem State.allVerify_three (s : State) (imgs : List Image) : s.AllVerify [1, 2, 3] imgs ↔
    ∃ a b c rest, imgs = a :: b :: c :: rest ∧ s.imageFault 1 a = 0 ∧ s.imageFault 2 b = 0 ∧ s.imageFault 3 c = 0 := by
  constructor
  · intro h
    match imgs, h with
    | a :: b :: c :: rest, ⟨ha, hb, hc, _⟩ => exact ⟨a, b, c, rest, rfl, ha, hb, hc⟩
  · rintro ⟨a, b, c, rest, rfl, ha, hb, hc⟩
    exact ⟨ha, hb, hc, trivial⟩

/-- The three reasons for which an image fails are the three checks of R42. -/
theorem State.imageFault_eq_zero_iff (s : State) (proc : Nat) (i : Image) : s.imageFault proc i = 0 ↔
    i.names = proc ∧ s.minima.lookD proc 0 ≤ i.version
    ∧ (∃ e ∈ s.keyDigests, e.2 = sha256 (i.modulus ++ leBytes 4 i.exponent))
    ∧ rsaVerify (leNat i.modulus) i.exponent i.sig i.body = true := by
  unfold State.imageFault
  split
  case isTrue hn => exact ⟨nofun, fun h => absurd h.1 hn⟩
  case isFalse hn =>
    have names : i.names = proc := Decidable.not_not.mp hn
    split
    case isTrue hv => exact ⟨nofun, fun h => absurd hv (Nat.not_lt.mpr h.2.1)⟩
    case isFalse hv =>
      have fused : (s.keyDigests.any fun e => decide (e.2 = keyDigest i.modulus i.exponent)) = true ↔
          ∃ e ∈ s.keyDigests, e.2 = sha256 (i.modulus ++ leBytes 4 i.exponent) := by
        rw [List.any_eq_true]
        exact exists_congr fun e => and_congr_right fun _ => decide_eq_true_iff
      rw [ite_eq_right_iff, ← fused]
      simp [names, Nat.not_lt.mp hv]

/-- What a boot writes: the measurements, the versions that run, and its own end. -/
structure BootWork (s t : State) : Prop where
  rest : t = { s with
    meas := t.meas, running := t.running, booted := t.booted, bootStage := t.bootStage, bootReason := t.bootReason }

/-- The state after an image that verifies: it is measured, and its version runs. -/
def State.verified (s : State) (n : Nat) (i : Image) : State :=
  { (s.extend n (sha256 i.body)) with running := s.running.put n i.version }

theorem State.bootFrom_verified (s : State) (n : Nat) (ns : List Nat) (i : Image) (imgs : List Image)
    (hf : s.imageFault n i = 0) : s.bootFrom (n :: ns) (i :: imgs) = (s.verified n i).bootFrom ns imgs := by
  rw [State.bootFrom, if_neg (not_not.mpr hf)]
  rfl

theorem State.bootFrom_fails (s : State) (n : Nat) (ns : List Nat) (i : Image) (imgs : List Image)
    (hf : s.imageFault n i ≠ 0) : s.bootFrom (n :: ns) (i :: imgs) =
      { s with bootStage := n, bootReason := s.imageFault n i } := by
  rw [State.bootFrom, if_pos hf]

theorem BootWork.trans {s t u : State} (h : BootWork s t) (k : BootWork t u) : BootWork s u := by
  refine ⟨?_⟩
  have e := k.rest
  rw [h.rest] at e
  exact e

theorem State.extend_boots (s : State) (i : Nat) (d : List Byte) : BootWork s (s.extend i d) := ⟨rfl⟩

theorem State.bootFrom_boots (s : State) (ns : List Nat) (imgs : List Image) : BootWork s (s.bootFrom ns imgs) := by
  induction ns generalizing s imgs with
  | nil => exact ⟨rfl⟩
  | cons n ns ih =>
    cases imgs with
    | nil => exact ⟨rfl⟩
    | cons i imgs =>
      by_cases hf : s.imageFault n i = 0
      · rw [s.bootFrom_verified n ns i imgs hf]
        exact BootWork.trans ⟨rfl⟩ (ih ..)
      · rw [s.bootFrom_fails n ns i imgs hf]
        exact ⟨rfl⟩

theorem State.boot_boots (s : State) (imgs : List Image) : BootWork s (s.boot imgs) := by
  have h := (s.extend_boots 0 (sha256 Config.romDigest)).trans (State.bootFrom_boots _ [1, 2, 3] imgs)
  unfold State.boot
  dsimp only
  split
  · exact h.trans (State.extend_boots ..)
  · exact h

theorem State.bootFrom_booted (s : State) (h : s.booted = false) (ns : List Nat) (imgs : List Image) :
    (s.bootFrom ns imgs).booted = true ↔ s.AllVerify ns imgs := by
  induction ns generalizing s imgs with
  | nil => exact iff_of_true rfl trivial
  | cons n ns ih =>
    cases imgs with
    | nil => simp [State.bootFrom, State.AllVerify, h]
    | cons i imgs =>
      rw [State.AllVerify]
      by_cases hf : s.imageFault n i = 0
      · rw [s.bootFrom_verified n ns i imgs hf, ih (s.verified n i) h, and_iff_right hf]
        exact State.AllVerify.congr (s := s) (t := s.verified n i) rfl rfl ..
      · rw [s.bootFrom_fails n ns i imgs hf]
        simp [hf, h]

/-- A boot that ends with the device running measures the fuses last. -/
theorem State.boot_of_booted {s t : State} {imgs : List Image}
    (h : (s.extend 0 (sha256 Config.romDigest)).bootFrom [1, 2, 3] imgs = t) (hb : t.booted = true) :
    s.boot imgs = t.extend 4 (sha256 t.fuseState) := by
  unfold State.boot
  rw [h]
  exact if_pos hb

theorem State.boot_booted (s : State) (h : s.booted = false) (imgs : List Image) :
    (s.boot imgs).booted = true ↔ s.AllVerify [1, 2, 3] imgs := by
  have same : (s.extend 0 (sha256 Config.romDigest)).AllVerify [1, 2, 3] imgs ↔ s.AllVerify [1, 2, 3] imgs :=
    State.AllVerify.congr (s := s) (t := s.extend 0 _) rfl rfl ..
  refine Iff.trans ?_ ((State.bootFrom_booted (s.extend 0 (sha256 Config.romDigest)) h [1, 2, 3] imgs).trans same)
  unfold State.boot
  dsimp only
  split <;> rfl

/-- The first image fails: its stage and its reason. -/
theorem State.boot_first_fails (s : State) (h : s.booted = false) (a : Image) (rest : List Image)
    (hf : s.imageFault 1 a ≠ 0) : (s.boot (a :: rest)).bootStage = 1
      ∧ (s.boot (a :: rest)).bootReason = s.imageFault 1 a := by
  have hf' : (s.extend 0 (sha256 Config.romDigest)).imageFault 1 a = s.imageFault 1 a := State.imageFault_congr rfl rfl ..
  unfold State.boot
  rw [State.bootFrom_fails _ _ _ _ _ (hf'.trans_ne hf), hf']
  dsimp only
  rw [if_neg (by simp [State.extend, h])]
  exact ⟨rfl, rfl⟩

theorem State.measOf_extend_ne (s : State) {i j : Nat} (d : List Byte) (h : j ≠ i) :
    (s.extend i d).measOf j = s.measOf j :=
  congrArg (Option.getD · zero32) (KMap.look_put_ne _ _ h)

theorem State.measOf_extend_self (s : State) (i : Nat) (d : List Byte) :
    (s.extend i d).measOf i = sha256 (s.measOf i ++ d) := KMap.lookD_put_self ..

theorem State.measOf_booted (s : State) (b : Bool) (j : Nat) : State.measOf { s with booted := b } j = s.measOf j := rfl

theorem State.measOf_verified_ne (s : State) {n j : Nat} (i : Image) (h : j ≠ n) :
    (s.verified n i).measOf j = s.measOf j := s.measOf_extend_ne _ h

theorem State.measOf_verified_self (s : State) (n : Nat) (i : Image) :
    (s.verified n i).measOf n = sha256 (s.measOf n ++ sha256 i.body) := s.measOf_extend_self ..

/-- What stands when three images have verified. -/
def State.verifiedThree (s : State) (a b c : Image) : State :=
  (((s.extend 0 (sha256 Config.romDigest)).verified 1 a).verified 2 b).verified 3 c

theorem State.bootStage_verified (s : State) (n : Nat) (i : Image) : (s.verified n i).bootStage = s.bootStage := rfl

theorem State.bootStage_verifiedThree (s : State) (a b c : Image) : (s.verifiedThree a b c).bootStage = s.bootStage := by
  rw [State.verifiedThree, State.bootStage_verified, State.bootStage_verified, State.bootStage_verified]
  rfl

theorem State.measOf_verifiedThree (s : State) (a b c : Image) :
    (s.verifiedThree a b c).measOf 1 = sha256 (s.measOf 1 ++ sha256 a.body) := by
  rw [State.verifiedThree, State.measOf_verified_ne _ _ (by decide), State.measOf_verified_ne _ _ (by decide),
    State.measOf_verified_self, State.measOf_extend_ne _ _ (by decide)]

theorem State.boot_three (s : State) {a b c : Image} (rest : List Image)
    (ha : s.imageFault 1 a = 0) (hb : s.imageFault 2 b = 0) (hc : s.imageFault 3 c = 0) :
    ∃ d, s.boot (a :: b :: c :: rest) = State.extend { s.verifiedThree a b c with booted := true } 4 d := by
  let s0 := s.extend 0 (sha256 Config.romDigest)
  have first : s0.imageFault 1 a = 0 := (State.imageFault_congr rfl rfl ..).trans ha
  have second : (s0.verified 1 a).imageFault 2 b = 0 := (State.imageFault_congr rfl rfl ..).trans hb
  have third : ((s0.verified 1 a).verified 2 b).imageFault 3 c = 0 := (State.imageFault_congr rfl rfl ..).trans hc
  have ran : s0.bootFrom [1, 2, 3] (a :: b :: c :: rest) = { s.verifiedThree a b c with booted := true } := by
    rw [State.bootFrom_verified _ _ _ _ _ first, State.bootFrom_verified _ _ _ _ _ second,
      State.bootFrom_verified _ _ _ _ _ third]
    rfl
  exact ⟨_, State.boot_of_booted ran rfl⟩

theorem State.boot_three_runs (s : State) {a b c : Image} (rest : List Image)
    (ha : s.imageFault 1 a = 0) (hb : s.imageFault 2 b = 0) (hc : s.imageFault 3 c = 0) :
    (s.boot (a :: b :: c :: rest)).running = ((s.running.put 1 a.version).put 2 b.version).put 3 c.version
      ∧ (s.boot (a :: b :: c :: rest)).bootStage = s.bootStage
      ∧ (s.boot (a :: b :: c :: rest)).measOf 1 = sha256 (s.measOf 1 ++ sha256 a.body) := by
  obtain ⟨d, hd⟩ := s.boot_three rest ha hb hc
  rw [hd]
  refine ⟨rfl, s.bootStage_verifiedThree a b c, ?_⟩
  rw [State.measOf_extend_ne _ _ (by decide), State.measOf_booted, State.measOf_verifiedThree]

/-- A state from which POWER_ON and BOOT_RESTART boot: the reset state, but for what stands outside the package's logic and
the clocks. -/
structure Unbooted (s t : State) : Prop where
  rest : t = { s.powered with clk := t.clk, tick := t.tick, trip := t.trip, tripAt := t.tripAt, trips := t.trips }

/-- The state from which BOOT_RESTART boots. -/
def State.restarted (s : State) : State :=
  { s.powered with clk := s.clk, tick := s.tick, trip := s.trip, tripAt := s.tripAt, trips := s.trips }

/-- The part of `BootAndSpdm` that POWER_ON and BOOT_RESTART share. -/
theorem Unbooted.boots {s t : State} (h : Unbooted s t) (imgs : List Image) :
    (t.boot imgs).minima = s.minima ∧ (t.boot imgs).keyDigests = s.keyDigests ∧ (t.boot imgs).dram = s.dram
      ∧ (t.boot imgs).host = s.host ∧ (t.boot imgs).parts = [] ∧ (t.boot imgs).cores = [] ∧ (t.boot imgs).clusters = []
      ∧ (t.boot imgs).qmap = [] ∧ (t.boot imgs).devnum = 1023 ∧ (t.boot imgs).flights = [] := by
  rw [(t.boot_boots imgs).rest, h.rest]
  exact ⟨rfl, rfl, rfl, rfl, rfl, rfl, rfl, rfl, rfl, rfl⟩

theorem Unbooted.ends {s t : State} (h : Unbooted s t) (imgs : List Image) :
    ((t.boot imgs).booted = true ↔ ∃ a b c rest, imgs = a :: b :: c :: rest ∧ s.imageFault 1 a = 0 ∧ s.imageFault 2 b = 0
        ∧ s.imageFault 3 c = 0)
      ∧ (∀ a rest, imgs = a :: rest → s.imageFault 1 a ≠ 0 →
        (t.boot imgs).bootStage = 1 ∧ (t.boot imgs).bootReason = s.imageFault 1 a)
      ∧ (∀ a b c rest, imgs = a :: b :: c :: rest → s.imageFault 1 a = 0 → s.imageFault 2 b = 0 → s.imageFault 3 c = 0 →
        (t.boot imgs).running.look 1 = some a.version ∧ (t.boot imgs).running.look 2 = some b.version
          ∧ (t.boot imgs).running.look 3 = some c.version ∧ (t.boot imgs).bootStage = 0
          ∧ (t.boot imgs).measOf 1 = sha256 (zero32 ++ sha256 a.body)) := by
  have unbooted : t.booted = false := by rw [h.rest]; rfl
  have fault : ∀ n i, t.imageFault n i = s.imageFault n i :=
    State.imageFault_congr (by rw [h.rest]; rfl) (by rw [h.rest]; rfl)
  refine ⟨?_, ?_, ?_⟩
  · rw [State.boot_booted _ unbooted, State.allVerify_three]
    simp only [fault]
  · rintro a rest rfl ha
    rw [← fault] at ha ⊢
    exact t.boot_first_fails unbooted a rest ha
  · rintro a b c rest rfl ha hb hc
    rw [← fault] at ha hb hc
    obtain ⟨runs, stage, meas⟩ := t.boot_three_runs rest ha hb hc
    rw [runs, stage, meas]
    refine ⟨?_, ?_, KMap.look_put_self .., by rw [h.rest]; rfl, by rw [h.rest]; rfl⟩
    · rw [KMap.look_put_ne _ _ (by decide), KMap.look_put_ne _ _ (by decide), KMap.look_put_self]
    · rw [KMap.look_put_ne _ _ (by decide), KMap.look_put_self]

/-- RAISE_FUSED_MINIMUM takes the greater of the minimum and the version that runs. -/
theorem execRaiseFusedMinimum_raises {s : State} {proc v : Nat} (h : s.running.look proc = some v) :
    ∃ t, execRaiseFusedMinimum proc s = .next t ∧ t.minima.lookD proc 0 = max (s.minima.lookD proc 0) v
      ∧ (∀ j, j ≠ proc → t.minima.lookD j 0 = s.minima.lookD j 0) ∧ t.running = s.running ∧ t.parts = s.parts
      ∧ t.cores = s.cores := by
  unfold execRaiseFusedMinimum
  rw [h]
  dsimp only
  split
  case isTrue hv =>
    refine ⟨_, rfl, ?_, fun j hj => ?_, rfl, rfl, rfl⟩
    · rw [KMap.lookD_put_self, Nat.max_eq_right (Nat.le_of_lt hv)]
    · rw [KMap.lookD_put, if_neg hj]
  case isFalse hv => exact ⟨_, rfl, (Nat.max_eq_left (Nat.not_lt.mp hv)).symm, fun _ _ => rfl, rfl, rfl, rfl⟩

theorem powerOn_boots (s : State) (imgs : List Image) : (s.powered.boot imgs).clk = 0 ∧ (s.powered.boot imgs).trips = 0 := by
  rw [(s.powered.boot_boots imgs).rest]
  exact ⟨rfl, rfl⟩

theorem bootRestart_boots (s : State) (imgs : List Image) :
    (s.restarted.boot imgs).clk = s.clk ∧ (s.restarted.boot imgs).trips = s.trips := by
  rw [(s.restarted.boot_boots imgs).rest]
  exact ⟨rfl, rfl⟩

theorem execGetCertificate_other (s : State) {slot : Nat} (h : slot ≠ 0) :
    execGetCertificate slot s = .next (s.say (.error 1)) := by
  rw [execGetCertificate, if_neg h]

theorem execChallenge_other (s : State) {slot : Nat} (nonce : List Byte) (h : slot ≠ 0) :
    execChallenge slot nonce s = .next (s.say (.error 1)) := by
  rw [execChallenge, if_neg h]

theorem execGetMeasurements_within (s : State) {index : Nat} (lo : 1 ≤ index) (hi : index ≤ 32) :
    execGetMeasurements index s = .next (s.say (.measurement index (s.measOf (index - 1)))) := by
  rw [execGetMeasurements, if_pos (by simp [lo, hi])]

theorem execGetMeasurements_above (s : State) {index : Nat} (h : 33 < index) :
    execGetMeasurements index s = .next (s.say (.error 1)) := by
  rw [execGetMeasurements, if_neg (by simp; omega), if_neg (by omega), if_neg (by omega)]

/-- Settles O41: a boot by what it may change and by the images that verify; each SPDM request by its answer. -/
theorem bootAndSpdm : Obligations.BootAndSpdm := by
  refine ⟨⟨?_, State.imageFault_eq_zero_iff, fun s proc v h => execRaiseFusedMinimum_raises h⟩, ?_⟩
  · rintro s imgs e (rfl | rfl)
    · have start : Unbooted s s.powered := ⟨rfl⟩
      obtain ⟨h1, h2, h3, h4, h5, h6, h7, h8, h9, h10⟩ := start.boots imgs
      exact ⟨_, rfl, h1, h2, h3, h4, h5, h6, h7, h8, h9, h10, nofun, fun _ => powerOn_boots s imgs, start.ends imgs⟩
    · have start : Unbooted s s.restarted := ⟨rfl⟩
      obtain ⟨h1, h2, h3, h4, h5, h6, h7, h8, h9, h10⟩ := start.boots imgs
      exact ⟨_, rfl, h1, h2, h3, h4, h5, h6, h7, h8, h9, h10, fun _ => bootRestart_boots s imgs, nofun, start.ends imgs⟩
  · intro s slot index code nonce
    refine ⟨rfl, rfl, rfl, rfl, rfl, fun h => ?_, ⟨_, rfl⟩, fun lo hi => ?_, rfl, fun h => ?_, rfl⟩
    · exact ⟨execGetCertificate_other s h, execChallenge_other s nonce h⟩
    · exact execGetMeasurements_within s lo hi
    · exact execGetMeasurements_above s h

end Sys2Proof.Machine
end

section
/-! What Lodge's accesses for a partition and the records that it makes leave of the policy in force (R47, R49). -/

namespace Sys2Proof.Machine

/-- What of a partition a policy check alone may change: the policy and the SEQ in force (R49). -/
def Part.inForce (p : Part) : Option Policy × Nat := (p.policy, p.dpSeq)

/-- Every partition keeps the policy and the SEQ in force. -/
structure PolicyKept (s t : State) : Prop where
  keeps : ∀ n, (t.parts.look n).map Part.inForce = (s.parts.look n).map Part.inForce

namespace PolicyKept

theorem refl (s : State) : PolicyKept s s := ⟨fun _ => rfl⟩

theorem trans {s t u : State} (h : PolicyKept s t) (k : PolicyKept t u) : PolicyKept s u :=
  ⟨fun n => (k.keeps n).trans (h.keeps n)⟩

theorem of_parts {s t : State} (h : t.parts = s.parts) : PolicyKept s t := ⟨fun n => by rw [h]⟩

theorem foldl {α : Type} {f : State → α → State} (h : ∀ s a, PolicyKept s (f s a)) (l : List α) (s : State) :
    PolicyKept s (l.foldl f s) := by
  induction l generalizing s with
  | nil => exact refl s
  | cons a l ih => exact (h s a).trans (ih (f s a))

theorem ite {s t u : State} {c : Prop} [Decidable c] (h : PolicyKept s t) (k : PolicyKept s u) :
    PolicyKept s (if c then t else u) := by
  split
  · exact h
  · exact k

theorem modPart {f : Part → Part} (hf : ∀ p, (f p).inForce = p.inForce) (s : State) (pno : Nat) :
    PolicyKept s (s.modPart pno f) := by
  refine ⟨fun n => ?_⟩
  rw [State.look_modPart]
  split
  case isTrue h =>
    rw [h, Option.map_map]
    exact congrArg (Option.map · _) (funext hf)
  case isFalse => rfl

/-- The partition that stands after it has the policy and the SEQ that it had before. -/
theorem policy {s t : State} (h : PolicyKept s t) {n : Nat} {p q : Part} (hp : s.parts.look n = some p)
    (hq : t.parts.look n = some q) : q.policy = p.policy ∧ q.dpSeq = p.dpSeq := by
  have e := h.keeps n
  rw [hp, hq] at e
  exact Prod.mk.inj (Option.some.inj e)

end PolicyKept

/-! ### Memory, watched words and slices -/

theorem State.modSth_parts (s : State) (c sth : Nat) (f : Thread → Thread) : (s.modSth c sth f).parts = s.parts := by
  unfold State.modSth; split
  · exact s.modThread_parts ..
  · rfl

theorem State.rekey_parts (s : State) (gen u : Nat) : (s.rekey gen u).parts = s.parts := by
  unfold State.rekey; split
  · rfl
  · split <;> rfl

theorem State.dramWrite_policyKept (s : State) (gen pa : Nat) (bs : List Byte) : PolicyKept s (s.dramWrite gen pa bs) :=
  (PolicyKept.foldl (fun t u => .of_parts (t.rekey_parts gen u)) (cellsOf pa bs.length) s).trans (.of_parts rfl)

theorem State.watchFree_policyKept (s : State) (pno pa n : Nat) : PolicyKept s (s.watchFree pno pa n).2.2 := by
  unfold State.watchFree
  split
  · exact .refl s
  · dsimp only
    split
    · exact .refl s
    · refine .trans ?_ (.foldl (fun t (w : Nat × Nat) => .of_parts (t.modSth_parts w.1 w.2 Thread.packet)) _ _)
      exact .of_parts rfl

theorem Part.countQuiet_inForce (p : Part) (j ev n : Nat) : (p.countQuiet j ev n).inForce = p.inForce := by
  unfold Part.countQuiet
  split
  · rfl
  · exact List.foldlRecOn (motive := fun q : Part => q.inForce = p.inForce) _ _ rfl fun _ h _ _ => h

theorem State.watchAfter_policyKept (s : State) (pno pa n : Nat) : PolicyKept s (s.watchAfter pno pa n) :=
  (s.watchFree_policyKept pno pa n).trans (.ite (.refl _) (.modPart (fun p => p.countQuiet_inForce ..) _ _))

theorem State.sliceFetch_parts (s : State) (tsid ph blk miss : Nat) : (s.sliceFetch tsid ph blk miss).parts = s.parts := by
  unfold State.sliceFetch; dsimp only; split <;> rfl

theorem State.sliceLook_parts (s : State) (pno blk a n : Nat) : (s.sliceLook pno blk a n).2.parts = s.parts := by
  unfold State.sliceLook; dsimp only; split
  · rfl
  · exact State.sliceFetch_parts ..

theorem State.walkSee_policyKept (s : State) (pno pa : Nat) : PolicyKept s (s.walkSee pno pa) :=
  .trans (.of_parts (s.sliceLook_parts ..)) (.modPart (fun p => p.countQuiet_inForce ..) _ _)

/-! ### Translation (R185, R187, R188) -/

theorem State.markPte_policyKept (s : State) (pno : Nat) (p : Part) (pa e : Nat) (acc : Acc) :
    PolicyKept s (s.markPte pno p pa e acc) :=
  .ite (((s.walkSee_policyKept pno pa).trans (State.dramWrite_policyKept ..)).trans (State.watchAfter_policyKept ..)) (.refl s)

/-- What a walk answers keeps the policies. -/
def WalkPolicyKept (s : State) : Except Walked (Nat × TlbEntry × State) → Prop
  | .ok (_, _, t) => PolicyKept s t
  | .error (.fault _ _ t) | .error (.malformed _ t) => PolicyKept s t
  | .error .off => True
  | .error (.ok _ _) => False

theorem WalkPolicyKept.after {s t : State} (h : PolicyKept s t) {r : Except Walked (Nat × TlbEntry × State)}
    (k : WalkPolicyKept t r) : WalkPolicyKept s r := by
  match r, k with
  | .ok (_, _, _), k => exact h.trans k
  | .error (.fault _ _ _), k => exact h.trans k
  | .error (.malformed _ _), k => exact h.trans k
  | .error .off, _ => trivial

theorem State.leafEnd_policyKept (s : State) (pno : Nat) (p : Part) (level ptePa e pa size va : Nat) (acc : Acc) (app : Bool) :
    WalkPolicyKept s (s.leafEnd pno p level ptePa e pa size va acc app) := by
  unfold State.leafEnd; split
  · exact State.markPte_policyKept ..
  · exact .refl s

theorem State.walkFrom_policyKept (pno : Nat) (p : Part) (va : Nat) (acc : Acc) (app : Bool) (levels : List Nat) :
    ∀ (s : State) (tab : Nat), WalkPolicyKept s (s.walkFrom pno p va acc app levels tab) := by
  induction levels with
  | nil => exact fun s _ => .refl s
  | cons level rest ih =>
    intro s tab
    have seen := s.walkSee_policyKept pno (tab + 8 * vaIndex level va)
    unfold State.walkFrom
    dsimp only
    cases judgePte p.oki level (s.dramRead p.keyGen (tab + 8 * vaIndex level va) 8) with
    | absent => exact seen
    | malformed => exact seen
    | table next => exact .after seen (ih ..)
    | leaf pa size =>
      dsimp only
      split
      · refine .after seen ?_
        split
        · split
          · exact .after (State.walkSee_policyKept ..) (State.leafEnd_policyKept ..)
          · exact State.walkSee_policyKept ..
        · exact State.walkSee_policyKept ..
      · exact .after seen (State.leafEnd_policyKept ..)

theorem State.choose_parts (s : State) : s.choose.2.parts = s.parts := by
  unfold State.choose; split <;> rfl

theorem State.walk_policyKept (s : State) (via : Via) (pno : Nat) (p : Part) (va : Nat) (acc : Acc) (app : Bool) :
    WalkPolicyKept s (s.walk via pno p va acc app) := by
  have chosen : PolicyKept s s.choose.2 := .of_parts s.choose_parts
  have walked := WalkPolicyKept.after chosen
    (s.choose.2.walkFrom_policyKept pno p va acc app [1, 2, 3, 4, 5] (bits p.ptbr.toNat 51 12 * 4096))
  unfold State.walk
  dsimp only
  split
  · trivial
  split
  · exact .refl s
  split
  · exact .after chosen (State.walkFrom_policyKept ..)
  split
  · rename_i hw; rw [hw] at walked; exact walked
  · rename_i hw
    rw [hw] at walked
    exact PolicyKept.trans walked (.of_parts rfl)

theorem State.translate_policyKept {s t : State} {pno va pa : Nat} {acc : Acc} {app : Bool}
    (h : s.translate .lodge pno va acc app = .ok pa t) : PolicyKept s t := by
  unfold State.translate at h
  split at h
  · cases h
  · rename_i p _
    have hw := s.walk_policyKept .lodge pno p va acc app
    dsimp only at h
    split at h
    · rename_i hr; rw [hr, h] at hw; exact hw.elim
    · rename_i hr; rw [hr] at hw; cases h; exact hw

theorem State.lodgeParts_policyKept {pno : Nat} {acc : Acc} {app : Bool} {t : State} (l : List (Nat × Nat)) :
    ∀ {s : State} {r : List (Nat × Nat)}, s.lodgeParts pno acc app l = .ok (r, t) → PolicyKept s t := by
  induction l with
  | nil => intro s r h; cases h; exact .refl _
  | cons q rest ih =>
    intro s r h
    unfold State.lodgeParts at h
    split at h
    · cases h
    split at h
    · rename_i ht
      split at h
      · rename_i hl
        cases h
        exact (State.translate_policyKept ht).trans (ih hl)
      · cases h
    all_goals cases h

theorem State.lodgeRead_policyKept {s t : State} {pno va n : Nat} {app : Bool} {bs : List Byte}
    (h : s.lodgeRead pno va n app = .ok (bs, t)) : PolicyKept s t := by
  unfold State.lodgeRead at h
  split at h
  · cases h
  · rename_i hl
    split at h
    · cases h
    · cases h; exact State.lodgeParts_policyKept _ hl

/-! ### Records (R257 to R259) -/

theorem State.opRecord_parts (s : State) (r : Obs) : (s.opRecord r).parts = s.parts := by
  unfold State.opRecord; dsimp only; split <;> rfl

theorem State.gather_policyKept (s : State) (pno key n : Nat) : PolicyKept s (s.gather pno key n) :=
  .modPart (fun _ => by rfl) _ _

theorem State.opFilter_policyKept (s : State) (r : Obs) : PolicyKept s (s.opFilter r) := by
  have record := fun r => PolicyKept.of_parts (s.opRecord_parts r)
  have sum := s.gather_policyKept r.part
  have same := PolicyKept.refl s
  exact .ite (record r) (.ite (record r) (.ite same (.ite (record r.coarse)
    (.ite (.ite (.ite (sum ..) same) (.ite (sum ..) same)) same))))

theorem State.recordParts_policyKept (pno : Nat) (l : List (Nat × Nat)) :
    ∀ (s : State) (bs : List Byte), PolicyKept s (s.recordParts pno l bs) := by
  induction l with
  | nil => exact fun s _ => .refl s
  | cons q rest ih => exact fun s bs => ((State.dramWrite_policyKept ..).trans (State.watchAfter_policyKept ..)).trans (ih _ _)

theorem State.lodgeRecord_policyKept {s t : State} {pno va : Nat} {bs : List Byte} {clean : Bool}
    (h : s.lodgeRecord pno va bs clean = .ok t) : PolicyKept s t := by
  unfold State.lodgeRecord at h
  split at h
  · cases h
  · rename_i hl
    split at h
    · cases h
    · cases h; exact (State.lodgeParts_policyKept _ hl).trans (State.recordParts_policyKept ..)

theorem State.ringRecord_policyKept (s : State) (r : Obs) : PolicyKept s (s.ringRecord r) := by
  have lost : PolicyKept s (s.modPart r.part fun p => { p with odrop := (p.odrop + 1) % 2 ^ 32 }) :=
    .modPart (fun _ => by rfl) _ _
  unfold State.ringRecord
  dsimp only
  split
  · split
    · rename_i hr; exact (State.lodgeRecord_policyKept hr).trans (.modPart (fun _ => by rfl) _ _)
    · exact lost.trans (State.opFilter_policyKept ..)
    · exact lost
  · exact lost

theorem State.emit1_policyKept (s : State) (r : Obs) : PolicyKept s (s.emit1 r) := by
  unfold State.emit1
  split
  · exact s.opFilter_policyKept r
  · exact (s.ringRecord_policyKept r).trans (State.opFilter_policyKept ..)

theorem State.settleNotices_policyKept (s : State) (pno : Nat) : PolicyKept s (s.settleNotices pno) :=
  .ite (.refl s) (.trans (.modPart (fun _ => by rfl) _ _) (.foldl (fun t _ => t.emit1_policyKept _) _ _))

theorem State.emit_policyKept (s : State) (r : Obs) : PolicyKept s (s.emit r) :=
  (s.emit1_policyKept r).trans (State.settleNotices_policyKept ..)

theorem State.lodgeMet_policyKept (s : State) (pno : Nat) (e : LodgeErr) : PolicyKept s (s.lodgeMet pno e) := by
  unfold State.lodgeMet
  split
  · exact s.emit_policyKept _
  · exact .refl s

theorem State.lodgeSee_policyKept (s : State) (pno va n : Nat) : PolicyKept s (s.lodgeSee pno va n).2 := by
  unfold State.lodgeSee
  split
  · rename_i h; exact State.lodgeRead_policyKept h
  · exact s.lodgeMet_policyKept ..

/-! ### The check of a policy (R48) -/

/-- A check that rejects a policy keeps the policies in force. -/
theorem State.checkPolicy_policyKept {s u : State} {pno code : Nat} (h : s.checkPolicy pno = .error (code, u)) :
    PolicyKept s u := by
  have header := s.lodgeSee_policyKept pno (s.part pno).dpAddr.toNat 64
  unfold State.checkPolicy at h
  dsimp only at h
  split at h
  · cases h; exact .refl s
  split at h
  · rename_i hs; rw [hs] at header; cases h; exact header
  rename_i hb t hs
  rw [hs] at header
  have both := header.trans (t.lodgeSee_policyKept pno ((s.part pno).dpAddr.toNat + 64)
    (if dfield hb 10 2 ≤ 6 then 8 * dfield hb 10 2 + 384 else 0))
  split at h
  · rename_i hs; rw [hs] at both; cases h; exact both
  rename_i hs
  rw [hs] at both
  iterate 6
    split at h
    · cases h; exact both
  cases h

end Sys2Proof.Machine
end

section
/-! The operator's debug stops (R50, R53). -/

namespace Sys2Proof.Machine

theorem State.thread_setCore (s : State) (c d sl : Nat) (x : Core) (h : x.threads = (s.core c).threads) :
    (s.setCore c x).thread? d sl = s.thread? d sl := by
  rw [State.thread?, State.core_setCore]
  split
  case isTrue hd => rw [h, hd]; rfl
  case isFalse => rfl

theorem State.core_of_look {s : State} {c : Nat} {x : Core} (h : s.cores.look c = some x) : s.core c = x := by
  simp [State.core, KMap.lookD, h]

theorem State.thread_stir (s : State) (c d sl : Nat) : (s.stir c).thread? d sl = s.thread? d sl := by
  unfold State.stir
  split
  · rename_i hx; exact s.thread_setCore _ _ _ _ (by rw [State.core_of_look hx])
  · rfl

theorem State.slcfg_setCore (s : State) (c d : Nat) (x : Core) (h : x.slcfg = (s.core c).slcfg) :
    ((s.setCore c x).core d).slcfg = (s.core d).slcfg := by
  rw [State.core_setCore]
  split
  case isTrue hd => rw [h, hd]
  case isFalse => rfl

theorem State.slcfg_stir (s : State) (c d : Nat) : ((s.stir c).core d).slcfg = (s.core d).slcfg := by
  unfold State.stir
  split
  · rename_i hx; exact s.slcfg_setCore _ _ _ (by rw [State.core_of_look hx])
  · rfl

theorem State.rest_stir (s : State) (c : Nat) : s.stir c = { s with cores := (s.stir c).cores } := by
  unfold State.stir; split <;> rfl

/-- A thread under a debug stop. -/
def Thread.debugStopped (u : Thread) : Thread := { u with dbg := true }

/-- Debug stops of the threads of a list, where no core logs the states of its threads: no more than their threads change. -/
structure DebugStopped (l : List (Nat × Nat)) (s t : State) : Prop where
  rest : t = { s with cores := t.cores }
  slcfg : ∀ c, (t.core c).slcfg = (s.core c).slcfg
  threads : ∀ c sl, t.thread? c sl = if (c, sl) ∈ l then (s.thread? c sl).map Thread.debugStopped else s.thread? c sl

theorem State.debugStop_stops (s : State) (hoff : ∀ c, bit (s.core c).slcfg 0 = false) (c sl : Nat) :
    DebugStopped [(c, sl)] s (s.debugStop c sl) := by
  unfold State.debugStop
  cases hu : s.thread? c sl with
  | none =>
    refine ⟨s.rest_stir c, s.slcfg_stir c, fun d k => ?_⟩
    rw [s.thread_stir]
    split
    case isTrue h =>
      obtain ⟨rfl, rfl⟩ := Prod.mk.inj (List.mem_singleton.mp h)
      rw [hu]; rfl
    case isFalse => rfl
  | some u =>
    have hset : ∀ d, ((s.setThread c sl { u with dbg := true }).core d).slcfg = (s.core d).slcfg := fun d =>
      s.slcfg_setCore _ _ _ rfl
    dsimp only
    rw [noteState_off _ _ _ _ (by rw [hset]; exact hoff c)]
    refine ⟨State.rest_stir _ c, fun d => (State.slcfg_stir _ c d).trans (hset d), fun d k => ?_⟩
    rw [State.thread_stir, State.thread_setThread]
    by_cases h : d = c ∧ k = sl
    · obtain ⟨rfl, rfl⟩ := h
      simp [hu, Thread.debugStopped]
    · simp [h]

theorem DebugStopped.trans {l m : List (Nat × Nat)} {s t u : State} (h : DebugStopped l s t) (k : DebugStopped m t u) :
    DebugStopped (l ++ m) s u := by
  refine ⟨?_, fun c => (k.slcfg c).trans (h.slcfg c), fun c sl => ?_⟩
  · have e := k.rest
    rw [h.rest] at e
    exact e
  · have twice : ∀ o : Option Thread, (o.map Thread.debugStopped).map Thread.debugStopped = o.map Thread.debugStopped := by
      rintro (_ | u) <;> rfl
    rw [k.threads, h.threads]
    by_cases hl : (c, sl) ∈ l <;> by_cases hm : (c, sl) ∈ m <;> simp only [List.mem_append, hl, hm, twice, or_true, or_false,
      if_true, if_false]

theorem State.debugStops (l : List (Nat × Nat)) : ∀ (s : State), (∀ c, bit (s.core c).slcfg 0 = false) →
    DebugStopped l s (l.foldl (fun (s : State) e => s.debugStop e.1 e.2) s) := by
  induction l with
  | nil => exact fun s _ => ⟨rfl, fun _ => rfl, fun _ _ => rfl⟩
  | cons e l ih =>
    intro s hoff
    have first := s.debugStop_stops hoff e.1 e.2
    exact first.trans (ih _ fun c => by rw [first.slcfg]; exact hoff c)

/-- A core whose waiting and saved threads a stop of the whole partition reaches. -/
def Core.haltRest (x : Core) : Core :=
  { x with displaced := x.displaced.map fun d => ({ d.1 with dbg := true }, d.2),
           saved := x.saved.map fun t => { t with dbg := true } }

theorem State.core_stopRest (s : State) (pno c : Nat) : (s.stopRest pno .whole).core c =
    if s.corePart c = some pno then (s.core c).haltRest else s.core c := by
  have cores : (s.stopRest pno .whole).cores =
      s.cores.map fun e => if s.corePart e.1 = some pno then (e.1, e.2.haltRest) else e := by
    unfold State.stopRest State.modPart
    dsimp only
    split <;> rfl
  have keys : ∀ e : Nat × Core, (if s.corePart e.1 = some pno then (e.1, e.2.haltRest) else e).1 = e.1 := fun e => by
    split <;> rfl
  rw [State.core, KMap.lookD, cores, KMap.look_map _ keys, State.core, KMap.lookD]
  split
  · cases s.cores.look c <;> rfl
  · cases s.cores.look c <;> rfl

theorem State.thread_stopRest (s : State) (pno : Nat) (target : DebugTarget) (c sl : Nat) :
    (s.stopRest pno target).thread? c sl = s.thread? c sl := by
  cases target with
  | thread => rfl
  | whole =>
    rw [State.thread?, State.core_stopRest]
    split <;> rfl

/-- A partition that the operator has stopped whole makes no thread that runs. -/
theorem State.makeThread_halted {t w : State} {c win sl : Nat} {l : Launch} {v : Thread} (halted : t.opHalted c = true)
    (h : t.makeThread c l win = some (sl, w)) (hv : w.thread? c sl = some v) : v.dbg = true := by
  unfold State.makeThread at h
  dsimp only at h
  split at h
  · obtain ⟨rfl, rfl⟩ := Prod.mk.inj (Option.some.inj h)
    rw [State.thread?, State.core_setCore_self, KMap.look_put_self] at hv
    rw [← Option.some.inj hv]
    exact halted
  · cases h

theorem State.corePart_stopRest (s : State) (pno c : Nat) : (s.stopRest pno .whole).corePart c = s.corePart c := by
  unfold State.stopRest State.modPart
  dsimp only
  split <;> rfl

/-- What a stop of the whole partition leaves on a core of it. -/
theorem State.stopRest_halts {s : State} {pno c : Nat} {p : Part} (hp : s.parts.look pno = some p)
    (hc : s.corePart c = some pno) : (s.stopRest pno .whole).opHalted c = true
      ∧ (∀ e ∈ ((s.stopRest pno .whole).core c).displaced, e.1.dbg = true)
      ∧ (∀ u ∈ ((s.stopRest pno .whole).core c).saved, u.dbg = true) := by
  refine ⟨?_, ?_, ?_⟩
  · have part : (s.stopRest pno .whole).part pno = { p with opHalt := true } := by
      rw [State.part, KMap.lookD, State.stopRest, State.look_modPart, if_pos rfl]
      exact congrArg (fun o => (Option.map _ o).getD Part.zero) hp
    rw [State.opHalted, State.corePart_stopRest, hc]
    dsimp only
    rw [part]
  · rw [State.core_stopRest, if_pos hc]
    intro e he
    obtain ⟨d, -, rfl⟩ := List.mem_map.mp he
    rfl
  · rw [State.core_stopRest, if_pos hc]
    intro e he
    obtain ⟨d, -, rfl⟩ := List.mem_map.mp he
    rfl

/-- What a request for a debug stop leaves of the threads, before it is entered for its answer. -/
def State.operatorStopped (s : State) (pno : Nat) (target : DebugTarget) : State :=
  ((s.stopTargets pno target).foldl (fun (s : State) e => s.debugStop e.1 e.2) s).stopRest pno target

theorem State.operatorStopped_thread {s : State} (hq : Quiet s) {pno : Nat} {target : DebugTarget} {c sl : Nat}
    (hmem : (c, sl) ∈ s.stopTargets pno target) {u : Thread} (hu : s.thread? c sl = some u) :
    (s.operatorStopped pno target).thread? c sl = some { u with dbg := true } := by
  rw [State.operatorStopped, State.thread_stopRest, (State.debugStops _ s hq.logOff).threads, if_pos hmem, hu]
  rfl

theorem State.operatorStopped_whole {s : State} (hq : Quiet s) {pno c : Nat} {p : Part} (hp : s.parts.look pno = some p)
    (hc : s.corePart c = some pno) : (s.operatorStopped pno .whole).opHalted c = true
      ∧ (∀ e ∈ ((s.operatorStopped pno .whole).core c).displaced, e.1.dbg = true)
      ∧ (∀ u ∈ ((s.operatorStopped pno .whole).core c).saved, u.dbg = true) := by
  have rest := (State.debugStops (s.stopTargets pno .whole) s hq.logOff).rest
  refine State.stopRest_halts (p := p) ?_ ?_
  · rw [rest]; exact hp
  · rw [rest]; exact hc

theorem State.operatorStopped_keeps {s : State} (hq : Quiet s) (pno : Nat) (target : DebugTarget) :
    (s.operatorStopped pno target).opstops = s.opstops ∧ (s.operatorStopped pno target).clk = s.clk := by
  have stops := (State.debugStops (s.stopTargets pno target) s hq.logOff).rest
  unfold State.operatorStopped
  rw [stops]
  cases target with
  | thread => exact ⟨rfl, rfl⟩
  | whole =>
    unfold State.stopRest State.modPart
    dsimp only
    split <;> exact ⟨rfl, rfl⟩

/-- The stop that a request enters for its answer (R53). -/
theorem operatorDebugStop_answers {s : State} (hq : Quiet s) {pno : Nat} (target : DebugTarget) {p : Part}
    (hp : s.parts.look pno = some p) :
    exec (.operatorDebugStop pno target) s = .next
      { (if p.grantsStop target then s.operatorStopped pno target else s) with
        opstops := s.opstops ++ [⟨pno, target, s.clk + 4096, p.grantsStop target⟩] } := by
  have keeps : (if p.grantsStop target then s.operatorStopped pno target else s).opstops = s.opstops
      ∧ (if p.grantsStop target then s.operatorStopped pno target else s).clk = s.clk := by
    split
    · exact State.operatorStopped_keeps hq pno target
    · exact ⟨rfl, rfl⟩
  rw [← keeps.1, ← keeps.2, exec_operatorDebugStop, execOperatorDebugStop, hp]
  rfl

/-- A request for a debug stop, granted or not (R50, R53). -/
theorem operatorDebugStop_stops {s : State} (hq : Quiet s) {pno : Nat} (target : DebugTarget) {p : Part}
    (hp : s.parts.look pno = some p) :
    ∃ t, exec (.operatorDebugStop pno target) s = .next t
      ∧ t.opstops = s.opstops ++ [⟨pno, target, s.clk + 4096, p.grantsStop target⟩]
      ∧ (p.grantsStop target = false → t.cores = s.cores)
      ∧ (∀ c sl u, p.grantsStop target = true → (c, sl) ∈ s.stopTargets pno target → s.thread? c sl = some u →
          t.thread? c sl = some { u with dbg := true })
      ∧ (p.grantsStop .whole = true → target = .whole → ∀ c, s.corePart c = some pno → s.parts.look pno = some p →
          t.opHalted c = true ∧ (∀ e ∈ (t.core c).displaced, e.1.dbg = true) ∧ (∀ u ∈ (t.core c).saved, u.dbg = true)
          ∧ ∀ l win sl w v, t.makeThread c l win = some (sl, w) → w.thread? c sl = some v → v.dbg = true) := by
  refine ⟨_, operatorDebugStop_answers hq target hp, rfl, fun hg => ?_, fun c sl u hg hmem hu => ?_, ?_⟩
  · rw [hg]; rfl
  · rw [hg]; exact State.operatorStopped_thread hq hmem hu
  · rintro hg rfl c hc -
    rw [hg]
    obtain ⟨halted, displaced, saved⟩ := State.operatorStopped_whole hq hp hc
    exact ⟨halted, displaced, saved, fun l win sl w v => State.makeThread_halted halted⟩

/-- The answer to a debug stop (R53). -/
theorem debugStopAck_says {s : State} {o : OpStop} {rest : List OpStop} (h : s.opstops = o :: rest) (hq : Quiet s) :
    exec .debugStopAck s =
      .next { s with clk := max s.clk o.at', opstops := rest, out := s.out ++ [.stop o.granted] } := by
  rw [exec_debugStopAck, execDebugStopAck, h]
  dsimp only
  rw [State.pass_quiet hq]
  rfl

end Sys2Proof.Machine
end

section
/-! Disclosure policies (R47 to R49), what the operator reads (R50 to R52), and the end of an interval (R53). -/

namespace Sys2Proof.Machine

theorem State.look_modPart_some {s : State} {n : Nat} {p : Part} (f : Part → Part) (h : s.parts.look n = some p) :
    (s.modPart n f).parts.look n = some (f p) := by
  rw [State.look_modPart, if_pos rfl, h]; rfl

/-- A write of DPLOAD by a thread at KER level (R48). -/
theorem dploadWrite_loads {s : State} {c sl pno : Nat} (v : Word) {u : Thread} {p : Part} (hu : s.thread? c sl = some u)
    (hpl : 1 ≤ u.pl) (hc : s.corePart c = some pno) (hp : s.parts.look pno = some p) :
    ∃ t q, exec (.dploadWrite c sl v) s = .next t ∧ t.parts.look pno = some q ∧ t.cores = s.cores
      ∧ q.policy = p.policy ∧ (p.dpState ≠ 1 → q.dpState = 1 ∧ q.dpAddr = v) ∧ (p.dpState = 1 → q = p) := by
  have writes : exec (.dploadWrite c sl v) s = .next (s.dploadEffect pno v) := by
    rw [exec_dploadWrite, execDploadWrite, State.atKer, hu]
    dsimp only
    rw [if_pos hpl, hc]
  refine ⟨_, _, writes, State.look_modPart_some _ hp, ?_, ?_, fun h => ?_, fun h => if_pos h⟩
  · rw [State.dploadEffect, State.modPart_cores]
  · split <;> rfl
  · rw [if_neg h]; exact ⟨rfl, rfl⟩

theorem LodgeWork.meas {s t : State} (h : LodgeWork s t) : t.meas = s.meas := by rw [h.rest]

theorem State.spendState_work (s : State) (pno c sl : Nat) : LodgeWork s (s.spendState pno c sl) := by
  unfold State.spendState
  split
  · exact .ite (s.gather_work ..) (.refl s)
  · exact .refl s

theorem State.spendState_policyKept (s : State) (pno c sl : Nat) : PolicyKept s (s.spendState pno c sl) := by
  unfold State.spendState
  split
  · exact .ite (s.gather_policyKept ..) (.refl s)
  · exact .refl s

theorem State.spendAll_work (s : State) (pno : Nat) : LodgeWork s (s.spendAll pno) :=
  .foldl (fun t _ => .ite (.refl t) ((LodgeWork.foldl (fun t _ => t.spendState_work ..) _ t).trans (State.modCore_work ..))) _ s

theorem State.spendAll_policyKept (s : State) (pno : Nat) : PolicyKept s (s.spendAll pno) :=
  .foldl (fun t _ => .ite (.refl t) ((PolicyKept.foldl (fun t _ => t.spendState_policyKept ..) _ t).trans (.of_parts (State.modCore_parts ..)))) _ s

theorem PolicyKept.look {s t : State} (h : PolicyKept s t) {n : Nat} (hs : (s.parts.look n).isSome = true) :
    ∃ q, t.parts.look n = some q := by
  have e := congrArg Option.isSome (h.keeps n)
  rw [Option.isSome_map, Option.isSome_map, hs] at e
  exact Option.isSome_iff_exists.mp e

/-- A policy that the check rejects (R49). -/
theorem policyCheckDone_rejects {s u : State} {pno code : Nat} {p : Part} (hp : s.parts.look pno = some p)
    (hst : p.dpState = 1) (h : s.checkPolicy pno = .error (code, u)) (hu : (u.parts.look pno).isSome = true) :
    ∃ t q, exec (.policyCheckDone pno) s = .next t ∧ t.parts.look pno = some q
      ∧ q.dpState = 3 ∧ q.dpCode = code ∧ q.policy = p.policy ∧ q.dpSeq = p.dpSeq ∧ t.meas = u.meas := by
  obtain ⟨q, hq⟩ := Option.isSome_iff_exists.mp hu
  obtain ⟨policy, seq⟩ := (State.checkPolicy_policyKept h).policy hp hq
  refine ⟨u.modPart pno fun p => { p with dpState := 3, dpCode := code }, _, ?_, State.look_modPart_some _ hq, rfl, rfl,
    policy, seq, (u.modPart_work ..).meas⟩
  rw [exec_policyCheckDone, execPolicyCheckDone, State.part_of_look hp, if_neg (not_not.mpr hst), h]

/-- A policy that the check accepts is in force, and measured (R49). -/
theorem policyCheckDone_accepts {s u : State} {pno : Nat} {p : Part} {pol : Policy} {bytes : List Byte}
    (hp : s.parts.look pno = some p) (hst : p.dpState = 1) (h : s.checkPolicy pno = .ok (pol, bytes, u))
    (hu : (u.parts.look pno).isSome = true) :
    ∃ t q, exec (.policyCheckDone pno) s = .next t ∧ t.parts.look pno = some q ∧ q.dpState = 2 ∧ q.dpCode = 0
      ∧ q.policy = some pol ∧ q.dpSeq = pol.seq ∧ t.measOf (16 + pno) = sha256 (u.measOf (16 + pno) ++ sha256 bytes) := by
  obtain ⟨q, hq⟩ := (u.spendAll_policyKept pno).look hu
  have measured : ((u.spendAll pno).extend (16 + pno) (sha256 bytes)).parts.look pno = some q := hq
  have steps : exec (.policyCheckDone pno) s = .next (((u.spendAll pno).extend (16 + pno) (sha256 bytes)).modPart pno
      fun p => { p with policy := some pol, dpSeq := pol.seq, dpCode := 0, dpState := 2, intervalAt := u.fab }) := by
    rw [exec_policyCheckDone, execPolicyCheckDone, State.part_of_look hp, if_neg (not_not.mpr hst), h]
  refine ⟨_, _, steps, State.look_modPart_some _ measured, rfl, rfl, rfl, rfl, ?_⟩
  rw [State.measOf, (State.modPart_work ..).meas, State.extend, KMap.lookD_put_self, State.measOf, (u.spendAll_work pno).meas]
  rfl

section
variable {s : State} {pno : Nat} {p : Part} (hp : s.parts.look pno = some p) (hst : p.st = 1)
include hp hst

theorem State.opLevel_live (cls : Nat) : s.opLevel pno cls = p.level cls := by
  rw [State.opLevel, State.part_of_look hp, hst, hp, if_neg (by simp)]

/-- What the operator reads of a partition that runs, by its levels (R50 to R52). -/
theorem operatorReads_live :
    let reads := fun (q : DiscQuery) (n : Nat) => exec (.operatorDisclosureRead pno q) s = .next (s.say (.disclosed n))
    (∀ c i, s.corePart c = some pno → reads (.coreCounter c i) (coarseCount (p.level 1) ((s.core c).ctrs.lookD i 0)))
    ∧ (∀ c i, s.corePart c ≠ some pno → reads (.coreCounter c i) 0)
    ∧ (∀ q, reads (.queueHead q) (coarseCount (p.level 1) (p.queues.lookD q Queue.zero).head))
    ∧ reads .hostLinkCount (coarseCount (p.level 1) (s.hostCounts.lookD p.tsid 0))
    ∧ (∀ c sl a, p.level 6 ≠ 3 → reads (.stopReg c sl a) 0)
    ∧ reads .partState 1 ∧ reads .corrected p.corrected ∧ reads .uncorrectable p.uncorrected
    ∧ reads .fatalFaults p.fatalsShown ∧ reads .throttles s.powerEvents ∧ reads .trips s.trips := by
  have answer : ∀ {q n}, s.disclosed pno q = n →
      exec (.operatorDisclosureRead pno q) s = .next (s.say (.disclosed n)) := by
    rintro q n rfl; rfl
  have level := State.opLevel_live hp hst
  have part := State.part_of_look hp
  refine ⟨fun c i hc => answer ?_, fun c i hc => answer ?_, fun q => answer ?_, answer ?_, fun c sl a h6 => answer ?_, answer ?_,
    answer ?_, answer ?_, answer ?_, answer rfl, answer rfl⟩
  · simp [State.disclosed, hc, level]
  · simp [State.disclosed, hc]
  · simp [State.disclosed, part, level]
  · simp [State.disclosed, part, level]
  · rw [State.disclosed, State.stopShown]
    split
    · simp [level, h6]
    · rfl
  · simp [State.disclosed, hp, part, hst]
  · simp [State.disclosed, hp, part]
  · simp [State.disclosed, hp, part]
  · simp [State.disclosed, part]

end

/-- The end of an interval (R53). -/
theorem disclosureIntervalEnd_clears {s : State} {pno : Nat} {p : Part} (hp : s.parts.look pno = some p) :
    ∃ t, exec (.disclosureIntervalEnd pno) s = .next t
      ∧ ∀ q, t.parts.look pno = some q →
        q.gather = [] ∧ q.fatalsShown = q.fatals ∧ p.intervalAt + p.interval ≤ q.intervalAt := by
  rw [exec_disclosureIntervalEnd, execDisclosureIntervalEnd, hp]
  refine ⟨_, rfl, fun q hq => ?_⟩
  rw [State.look_modPart, if_pos rfl] at hq
  obtain ⟨r, -, rfl⟩ := Option.map_eq_some_iff.mp hq
  exact ⟨rfl, rfl, Nat.le_max_left ..⟩

/-- Settles O49: each clause by the lemma about its event. -/
theorem policiesAndTheOperator : Obligations.PoliciesAndTheOperator :=
  ⟨fun _ _ _ _ v _ _ => dploadWrite_loads v,
    fun _ _ _ hp hst => ⟨fun _ _ => policyCheckDone_rejects hp hst, fun _ _ _ => policyCheckDone_accepts hp hst⟩,
    fun _ _ _ => operatorReads_live, fun _ _ target _ hp hq => operatorDebugStop_stops hq target hp,
    fun _ _ _ => debugStopAck_says, fun _ _ _ => disclosureIntervalEnd_clears⟩

end Sys2Proof.Machine
end

section
/-! What an operation of the machine leaves of the fuses: an answer that carries a state carries the fuses that it was
given (R42). Every operation but RAISE_FUSED_MINIMUM is such, and the sections below say so of each, in the model's order. -/

namespace Sys2Proof.Machine

/-- What an instruction or event answers has the fuses `m`. -/
def FusesKept (m : KMap Nat) : Res → Prop
  | .next t => t.minima = m
  | _ => True

@[simp] theorem fusesKept_next (m : KMap Nat) (t : State) : FusesKept m (.next t) ↔ t.minima = m := Iff.rfl

@[simp] theorem fusesKept_fault (m : KMap Nat) (e : Fault) : FusesKept m (.fault e) := trivial

/-- What a part of an engine's job answers has the fuses `m`. -/
def JobRes.Keeps (m : KMap Nat) : JobRes → Prop
  | .done _ t | .fault _ _ t | .wait _ _ t => t.minima = m

@[simp] theorem JobRes.keeps_done (m : KMap Nat) (j : Job) (t : State) :
    JobRes.Keeps m (.done j t) ↔ t.minima = m := Iff.rfl

@[simp] theorem JobRes.keeps_fault (m : KMap Nat) (j : Job) (e : JErr) (t : State) :
    JobRes.Keeps m (.fault j e t) ↔ t.minima = m := Iff.rfl

@[simp] theorem JobRes.keeps_wait (m : KMap Nat) (j : Job) (e : JobSt) (t : State) :
    JobRes.Keeps m (.wait j e t) ↔ t.minima = m := Iff.rfl

theorem JobRes.Keeps.of_eq {m n : KMap Nat} {r : JobRes} (h : n = m) (hr : JobRes.Keeps n r) : JobRes.Keeps m r :=
  h ▸ hr

theorem JobRes.Keeps.ite {m : KMap Nat} {c : Prop} [Decidable c] {r₁ r₂ : JobRes} (h₁ : r₁.Keeps m) (h₂ : r₂.Keeps m) :
    JobRes.Keeps m (if c then r₁ else r₂) := by
  split
  · exact h₁
  · exact h₂

theorem stopJob_kept {m : KMap Nat} {j : Job} {p : JStop × State} (h : p.2.minima = m) :
    JobRes.Keeps m (stopJob j p) := by
  obtain ⟨e | st, t⟩ := p
  · exact h
  · exact h

/-- What the reading of a dispenser's entry answers has the fuses `m`. -/
def Taken.Keeps (m : KMap Nat) : Taken → Prop
  | .none => True
  | .entry _ t | .wait t | .lost t => t.minima = m

@[simp] theorem Taken.keeps_none (m : KMap Nat) : Taken.Keeps m .none := trivial

@[simp] theorem Taken.keeps_entry (m : KMap Nat) (e : DqEntry) (t : State) :
    Taken.Keeps m (.entry e t) ↔ t.minima = m := Iff.rfl

theorem Taken.Keeps.of_eq {m n : KMap Nat} {r : Taken} (h : n = m) (hr : Taken.Keeps n r) : Taken.Keeps m r := h ▸ hr

theorem Taken.Keeps.entry {r : Taken} {m : KMap Nat} (hr : r.Keeps m) {e : DqEntry} {t : State} (h : r = .entry e t) :
    t.minima = m := by
  subst h; exact hr

theorem Taken.Keeps.wait {r : Taken} {m : KMap Nat} (hr : r.Keeps m) {t : State} (h : r = .wait t) : t.minima = m := by
  subst h; exact hr

theorem Taken.Keeps.lost {r : Taken} {m : KMap Nat} (hr : r.Keeps m) {t : State} (h : r = .lost t) : t.minima = m := by
  subst h; exact hr

/-- What a translation answers has the fuses `m`. -/
def Walked.Keeps (m : KMap Nat) : Walked → Prop
  | .off => True
  | .ok _ t | .fault _ _ t | .malformed _ t => t.minima = m

@[simp] theorem Walked.keeps_off (m : KMap Nat) : Walked.Keeps m .off := trivial

@[simp] theorem Walked.keeps_ok (m : KMap Nat) (pa : Nat) (t : State) : Walked.Keeps m (.ok pa t) ↔ t.minima = m := Iff.rfl

theorem Walked.Keeps.ok {r : Walked} {m : KMap Nat} (hr : r.Keeps m) {pa : Nat} {t : State} (h : r = .ok pa t) :
    t.minima = m := by
  subst h; exact hr

theorem Walked.Keeps.fault {r : Walked} {m : KMap Nat} (hr : r.Keeps m) {k l : Nat} {t : State} (h : r = .fault k l t) :
    t.minima = m := by
  subst h; exact hr

theorem Walked.Keeps.malformed {r : Walked} {m : KMap Nat} (hr : r.Keeps m) {l : Nat} {t : State}
    (h : r = .malformed l t) : t.minima = m := by
  subst h; exact hr

/-- What the reading of a launch record answers has the fuses `m`. -/
def Lrec.Keeps (m : KMap Nat) : Lrec → Prop
  | .ok _ t => t.minima = m
  | _ => True

@[simp] theorem Lrec.keeps_ok (m : KMap Nat) (l : Launch) (t : State) : Lrec.Keeps m (.ok l t) ↔ t.minima = m := Iff.rfl

@[simp] theorem Lrec.keeps_bad (m : KMap Nat) (l : Nat) : Lrec.Keeps m (.bad l) := trivial

@[simp] theorem Lrec.keeps_fault (m : KMap Nat) (e : LodgeErr) : Lrec.Keeps m (.fault e) := trivial

theorem Lrec.Keeps.ok {r : Lrec} {m : KMap Nat} (hr : r.Keeps m) {l : Launch} {t : State} (h : r = .ok l t) :
    t.minima = m := by
  subst h; exact hr

/-- What the binding of a launch answers has the fuses `m`. -/
def Bound.Keeps (m : KMap Nat) : Bound → Prop
  | .alone t | .refused _ t | .fused _ _ t => t.minima = m

theorem Bound.Keeps.alone {r : Bound} {m : KMap Nat} (hr : r.Keeps m) {t : State} (h : r = .alone t) : t.minima = m := by
  subst h; exact hr

theorem Bound.Keeps.refused {r : Bound} {m : KMap Nat} (hr : r.Keeps m) {l : Nat} {t : State} (h : r = .refused l t) :
    t.minima = m := by
  subst h; exact hr

theorem Bound.Keeps.fused {r : Bound} {m : KMap Nat} (hr : r.Keeps m) {l : Launch} {k : Pkt} {t : State}
    (h : r = .fused l k t) : t.minima = m := by
  subst h; exact hr

theorem minima_of_eq {α : Type} {r : α × State} {m : KMap Nat} (hr : r.2.minima = m) {x : α} {t : State}
    (h : r = (x, t)) : t.minima = m := by
  subst h; exact hr

theorem ite_minima {c : Prop} [Decidable c] {s t : State} {m : KMap Nat} (hs : s.minima = m) (ht : t.minima = m) :
    (if c then s else t).minima = m := by
  split
  · exact hs
  · exact ht

@[simp] theorem foldl_minima {α : Type} {f : State → α → State} (h : ∀ s a, (f s a).minima = s.minima) (l : List α)
    (s : State) : (l.foldl f s).minima = s.minima := State.foldl_keeps State.minima h l s

@[simp] theorem foldr_minima {α : Type} {f : α → State → State} (h : ∀ a s, (f a s).minima = s.minima) (l : List α)
    (s : State) : (l.foldr f s).minima = s.minima := by
  induction l with
  | nil => rfl
  | cons a l ih => rw [List.foldr_cons, h, ih]

theorem foldl_fst_minima {α β : Type} {f : State × β → α → State × β} (h : ∀ a x, (f a x).1.minima = a.1.minima)
    (l : List α) (a : State × β) : (l.foldl f a).1.minima = a.1.minima := by
  induction l generalizing a with
  | nil => rfl
  | cons x l ih => rw [List.foldl_cons, ih, h]

/-- Lodge's own work writes none of the fuses. -/
theorem LodgeWork.minima {s t : State} (h : LodgeWork s t) : t.minima = s.minima := by rw [h.rest]

theorem WalkWork.minima {s : State} {r : Except Walked (Nat × TlbEntry × State)} (h : WalkWork s r) :
    (∀ {x y u}, r = .ok (x, y, u) → u.minima = s.minima) ∧ ∀ {w}, r = .error w → Walked.Keeps s.minima w := by
  constructor
  · rintro x y u rfl
    exact LodgeWork.minima h
  · rintro w rfl
    match w, h with
    | .fault _ _ _, h | .malformed _ _, h => exact LodgeWork.minima h
    | .off, _ => trivial

end Sys2Proof.Machine
end

section
/-! The state's own operations, translation and the operator's records: the fuses stay (R42). -/

namespace Sys2Proof.Machine

@[simp] theorem State.stir_minima (s : State) (c : Nat) : (s.stir c).minima = s.minima := by
  unfold State.stir; split <;> simp

@[simp] theorem State.setMe_minima (s : State) (t : Thread) : (s.setMe t).minima = s.minima := rfl

@[simp] theorem State.modMyCluster_minima (s : State) (f : Cluster → Cluster) :
    (s.modMyCluster f).minima = s.minima := rfl

@[simp] theorem State.modSth_minima (s : State) (c sth : Nat) (f : Thread → Thread) :
    (s.modSth c sth f).minima = s.minima := LodgeWork.minima (s.modSth_work ..)

@[simp] theorem State.modLaunch_minima (s : State) (part lid : Nat) (f : Launch → Launch) :
    (s.modLaunch part lid f).minima = s.minima := by simp [State.modLaunch]

@[simp] theorem State.tickStamp_minima (s : State) : (s.tickStamp).2.minima = s.minima := rfl

@[simp] theorem State.choose_minima (s : State) : (s.choose).2.minima = s.minima := LodgeWork.minima (s.choose_work ..)

@[simp] theorem State.dramWrite_minima (s : State) (gen pa : Nat) (bs : List Byte) :
    (s.dramWrite gen pa bs).minima = s.minima := LodgeWork.minima (s.dramWrite_work ..)

@[simp] theorem State.dramPoison_minima (s : State) (cells : List Nat) : (s.dramPoison cells).minima = s.minima := rfl

theorem State.walk_minima {s : State} {via : Via} {pno : Nat} {p : Part} {va : Nat} {acc : Acc} {app : Bool} :
    (∀ {x y u}, (s.walk via pno p va acc app) = .ok (x, y, u) → u.minima = s.minima) ∧
    ∀ {w}, (s.walk via pno p va acc app) = .error w → Walked.Keeps s.minima w := by
  exact (s.walk_work via pno p va acc app).minima

@[simp] theorem State.translate_kept (s : State) (via : Via) (pno va : Nat) (acc : Acc) (app : Bool) :
    Walked.Keeps s.minima (s.translate via pno va acc app) := by
  unfold State.translate
  split
  · simp
  · dsimp only
    split
    · split <;> simp
    · split
      next h => simp [State.walk_minima.2 h]
      next h => split <;> simp [State.walk_minima.1 h]

theorem State.lodgeParts_minima {s : State} {pno : Nat} {acc : Acc} {app : Bool} {x0 : List (Nat × Nat)} :
    ∀ {x u}, (s.lodgeParts pno acc app x0) = .ok (x, u) → u.minima = s.minima := by
  exact fun h => (State.lodgeParts_work _ h).minima

theorem State.lodgeRead_minima {s : State} {pno va n : Nat} {app : Bool} :
    ∀ {x u}, (s.lodgeRead pno va n app) = .ok (x, u) → u.minima = s.minima := by
  exact fun h => (State.lodgeRead_work h).minima

@[simp] theorem State.opRecord_minima (s : State) (r : Obs) : (s.opRecord r).minima = s.minima :=
  LodgeWork.minima (s.opRecord_work ..)

@[simp] theorem State.recordParts_minima (s : State) (pno : Nat) (x0 : List (Nat × Nat)) (x1 : List Byte) :
    (s.recordParts pno x0 x1).minima = s.minima := LodgeWork.minima (s.recordParts_work ..)

theorem State.lodgeRecord_minima {s : State} {pno va : Nat} {bs : List Byte} {clean : Bool} :
    ∀ {u}, (s.lodgeRecord pno va bs clean) = .ok u → u.minima = s.minima := by
  unfold State.lodgeRecord
  split
  · simp
  next h => split <;> simp [State.lodgeParts_minima h]

@[simp] theorem State.settleNotices_minima (s : State) (pno : Nat) : (s.settleNotices pno).minima = s.minima :=
  LodgeWork.minima (s.settleNotices_work ..)

@[simp] theorem State.emit_minima (s : State) (r : Obs) : (s.emit r).minima = s.minima :=
  LodgeWork.minima (s.emit_work ..)

@[simp] theorem State.countFatal_minima (s : State) (pno lid : Nat) (second : Bool) :
    (s.countFatal pno lid second).minima = s.minima := by simp [State.countFatal]

@[simp] theorem State.malformedRecord_minima (s : State) (pno va : Nat) :
    (s.malformedRecord pno va).minima = s.minima := by simp [State.malformedRecord]

@[simp] theorem State.lodgeMet_minima (s : State) (pno : Nat) (e : LodgeErr) : (s.lodgeMet pno e).minima = s.minima :=
  LodgeWork.minima (s.lodgeMet_work ..)

@[simp] theorem State.lodgeSee_minima (s : State) (pno va n : Nat) : (s.lodgeSee pno va n).2.minima = s.minima := by
  unfold State.lodgeSee
  split
  next h => simp [State.lodgeRead_minima h]
  · simp

@[simp] theorem State.remoteRecord_minima (s : State) (pno core : Nat) (addr code : Nat) :
    (s.remoteRecord pno core addr code).minima = s.minima := by simp [State.remoteRecord]

@[simp] theorem State.lodgeFailRecord_minima (s : State) (pno addr : Nat) :
    (s.lodgeFailRecord pno addr).minima = s.minima := by simp [State.lodgeFailRecord]

@[simp] theorem State.checkRecord_minima (s : State) (pno code addr : Nat) :
    (s.checkRecord pno code addr).minima = s.minima := by simp [State.checkRecord]

end Sys2Proof.Machine
end

section
/-! The operations that instructions share: counting, waiting, fetching and retiring: the fuses stay (R42). -/

namespace Sys2Proof.Machine

@[simp] theorem State.countCore_minima (s : State) (c ev n : Nat) : (s.countCore c ev n).minima = s.minima := by
  unfold State.countCore
  dsimp only
  split
  · simp
  · refine foldl_minima (fun t x => ?_) _ _
    (repeat' split) <;> simp

@[simp] theorem State.pass_minima (s : State) (c : Nat) : (s.pass c).minima = s.minima := by
  unfold State.pass
  simp [apply_ite State.minima]

@[simp] theorem State.slogFlush_minima (s : State) (c : Nat) : (s.slogFlush c).minima = s.minima := by
  unfold State.slogFlush
  dsimp only
  split <;> simp

@[simp] theorem State.spendState_minima (s : State) (pno c sl : Nat) : (s.spendState pno c sl).minima = s.minima :=
  (s.spendState_work ..).minima

@[simp] theorem State.noteState_minima (s : State) (c sl st : Nat) : (s.noteState c sl st).minima = s.minima := by
  unfold State.noteState
  split <;> simp [apply_ite State.minima]

@[simp] theorem State.spendAll_minima (s : State) (pno : Nat) : (s.spendAll pno).minima = s.minima :=
  (s.spendAll_work ..).minima

@[simp] theorem State.sendBy_minima (s : State) (port core sth lid : Nat) (w : Flight) :
    (s.sendBy port core sth lid w).minima = s.minima := rfl

@[simp] theorem State.unackUp_minima (s : State) (c sth n : Nat) : (s.unackUp c sth n).minima = s.minima := by
  simp [State.unackUp]

theorem State.pickPort_minima {s : State} {dev : Nat} {ord : Option (Nat × Nat)} :
    ∀ {x u}, (s.pickPort dev ord) = some (x, u) → u.minima = s.minima := by
  unfold State.pickPort
  dsimp only
  (repeat' split) <;> simp

@[simp] theorem State.depart_minima (s : State) (dev : Nat) (ord : Option (Nat × Nat)) (a : Answer) :
    (s.depart dev ord a).minima = s.minima := LodgeWork.minima (s.depart_work ..)

@[simp] theorem State.gondola_minima (s : State) (core sth lid : Nat) (ord : Option (Nat × Nat)) (req : RemReq)
    (w : Flight) :
    (s.gondola core sth lid ord req w).minima = s.minima := by
  unfold State.gondola
  split
  next h => simp [State.pickPort_minima h]
  · simp

@[simp] theorem State.sendBatch_minima (s : State) (c ch : Nat) : (s.sendBatch c ch).minima = s.minima := by
  unfold State.sendBatch
  dsimp only
  split
  · simp
  · split
    · simp
    · split
      · simp
      · split
        · simp
          refine foldl_minima (fun _ _ => by simp) _ _
        · simp

@[simp] theorem State.push_minima (s : State) (c ch sth : Nat) (v : Word) : (s.push c ch sth v).minima = s.minima := by
  unfold State.push
  dsimp only
  split <;> simp [apply_ite State.minima]

@[simp] theorem State.pop_minima (s : State) (c ch : Nat) : (s.pop c ch).minima = s.minima := by
  unfold State.pop
  dsimp only
  split <;> simp

@[simp] theorem State.wr_minima (s : State) (d : Code) (v : Word) : (s.wr d v).minima = s.minima := by
  unfold State.wr
  (repeat' split) <;> simp

@[simp] theorem State.wrPred_minima (s : State) (pd : Fin 8) (v : Bool) : (s.wrPred pd v).minima = s.minima := by
  unfold State.wrPred; split <;> simp

@[simp] theorem State.doPops_minima (s : State) : (s.doPops).minima = s.minima := by simp [State.doPops]

@[simp] theorem State.takeSources_minima (s : State) : (s.takeSources).minima = s.minima := by
  unfold State.takeSources; split <;> simp

@[simp] theorem State.retireTo_minima (s : State) (pc : Word) : (s.retireTo pc).minima = s.minima := by
  simp [State.retireTo]

@[simp] theorem State.retire_minima (s : State) : (s.retire).minima = s.minima := by simp [State.retire]

@[simp] theorem State.retireLong_minima (s : State) : (s.retireLong).minima = s.minima := by simp [State.retireLong]

@[simp] theorem State.parkMe_minima (s : State) (w : Why) : (s.parkMe w).minima = s.minima := by
  unfold State.parkMe
  dsimp only
  split <;> simp

@[simp] theorem State.wake_minima (s : State) (c sl : Nat) : (s.wake c sl).minima = s.minima := by simp [State.wake]

@[simp] theorem State.wakeWith_minima (s : State) (c sl : Nat) (f : Prog → Prog) :
    (s.wakeWith c sl f).minima = s.minima := by simp [State.wakeWith]

@[simp] theorem State.traceTrap_minima (s : State) (c sl : Nat) (cause : Cause) (val : Word) (pc : Word) :
    (s.traceTrap c sl cause val pc).minima = s.minima := by
  unfold State.traceTrap
  (repeat' split) <;> simp

@[simp] theorem State.fatalTrap_minima (s : State) (c sl : Nat) (cause : Cause) (sub : Nat) (val : Word) (seq : Nat) :
    (s.fatalTrap c sl cause sub val seq).minima = s.minima := by
  unfold State.fatalTrap; split <;> simp

@[simp] theorem State.trapAcc_minima (s : State) (cause : Cause) (val : Word) (acc : Nat) :
    (s.trapAcc cause val acc).minima = s.minima := by
  unfold State.trapAcc
  simp [apply_ite State.minima]

@[simp] theorem State.trap_minima (s : State) (cause : Cause) (val : Word) : (s.trap cause val).minima = s.minima := by
  simp [State.trap]

@[simp] theorem State.trapWord_minima (s : State) (cause : Cause) : (s.trapWord cause).minima = s.minima := by
  simp [State.trapWord]

@[simp] theorem State.holdEnq_minima (s : State) (c sth : Nat) : (s.holdEnq c sth).minima = s.minima := by
  unfold State.holdEnq
  (repeat' split) <;> simp

@[simp] theorem State.lateDue_minima (s : State) (c sth : Nat) (l : Late) : (s.lateDue c sth l).minima = s.minima := by
  simp [State.lateDue]

@[simp] theorem State.workLate_minima (s : State) (c sth : Nat) (inHandler : Bool) (l : Late) :
    (s.workLate c sth inHandler l).minima = s.minima := by
  unfold State.workLate
  (repeat' split) <;> simp

@[simp] theorem State.release_minima (s : State) (sc : Scope) : (s.release sc).2.minima = s.minima := by
  unfold State.release
  dsimp only
  (repeat' split) <;> simp

@[simp] theorem State.releaseThen_minima {s : State} {sc : Scope} {k : State → State}
    (hk : ∀ t, (k t).minima = t.minima) :
    (s.releaseThen sc k).minima = s.minima := by
  unfold State.releaseThen
  split
  next h => simp [hk, minima_of_eq (State.release_minima ..) h]
  next h => simp [minima_of_eq (State.release_minima ..) h]

@[simp] theorem State.relSettle_minima (s : State) (c : Nat) : (s.relSettle c).minima = s.minima := by
  unfold State.relSettle
  refine foldl_minima (fun t x => ?_) _ _
  dsimp only
  (repeat' split) <;> simp

@[simp] theorem State.acquire_minima (s : State) (sc : Scope) : (s.acquire sc).minima = s.minima := by
  unfold State.acquire; split <;> simp

@[simp] theorem State.ackThread_minima (s : State) (c sth n : Nat) : (s.ackThread c sth n).minima = s.minima := by
  unfold State.ackThread
  dsimp only
  (repeat' split) <;> simp

@[simp] theorem State.touch_minima (s : State) (c sth slice : Nat) : (s.touch c sth slice).minima = s.minima := by
  simp [State.touch]

@[simp] theorem issueWith_kept {wait : Bool} {len : Nat} {p : Pred} {dst : Option Pos} {srcs : List Pos}
    {body : State → State} {s : State} (hbody : ∀ t, (body t).minima = t.minima) :
    FusesKept s.minima (issueWith wait len p dst srcs body s) := by
  unfold issueWith
  dsimp only
  (repeat' split) <;> simp [hbody]

@[simp] theorem issue_kept {p : Pred} {dst : Option Pos} {srcs : List Pos} {body : State → State} {s : State}
    (hbody : ∀ t, (body t).minima = t.minima) :
    FusesKept s.minima (issue p dst srcs body s) := by
  unfold issue
  simp [hbody]

@[simp] theorem compute1_kept (p : Pred) (d a : Code) (f : Word → Word) (s : State) :
    FusesKept s.minima (compute1 p d a f s) := by simp [compute1]

@[simp] theorem compute2_kept (p : Pred) (d a b : Code) (f : Word → Word → Word) (s : State) :
    FusesKept s.minima (compute2 p d a b f s) := by simp [compute2]

@[simp] theorem compute3_kept (p : Pred) (d a b c : Code) (f : Word → Word → Word → Word) (s : State) :
    FusesKept s.minima (compute3 p d a b c f s) := by simp [compute3]

@[simp] theorem compute0_kept (p : Pred) (d : Code) (f : State → Word) (s : State) :
    FusesKept s.minima (compute0 p d f s) := by simp [compute0]

end Sys2Proof.Machine
end

section
/-! The ways to memory, and the loads and stores: the fuses stay (R42). -/

namespace Sys2Proof.Machine

@[simp] theorem State.countSlice_minima (s : State) (pno j ev n : Nat) :
    (s.countSlice pno j ev n).minima = s.minima := LodgeWork.minima (s.countSlice_work ..)

@[simp] theorem State.sliceSee_minima (s : State) (pno : Nat) (runs : List (Nat × Nat)) :
    (s.sliceSee pno runs).minima = s.minima := LodgeWork.minima (s.sliceSee_work ..)

@[simp] theorem State.sliceWrite_minima (s : State) (pno pa : Nat) (bs : List Byte) :
    (s.sliceWrite pno pa bs).minima = s.minima := LodgeWork.minima (s.sliceWrite_work ..)

@[simp] theorem State.faultMsg_minima (s : State) (pno va : Nat) (acc : Acc) (kind level : Nat) :
    (s.faultMsg pno va acc kind level).minima = s.minima := by simp [State.faultMsg]

@[simp] theorem State.xlateBy_minima {s : State} {via : Via} {app : Bool} {ea : Word} {acc : Acc}
    {bad : Cause → Word → State → State} {k : Nat → State → State} (hbad : ∀ y0 y1 t, (bad y0 y1 t).minima = t.minima)
    (hk : ∀ y0 t, (k y0 t).minima = t.minima) :
    (s.xlateBy via app ea acc bad k).minima = s.minima := by
  unfold State.xlateBy
  dsimp only
  split
  · simp [hbad]
  · split
    next h => simp [hk, (State.translate_kept ..).ok h]
    next h => simp [apply_ite State.minima, hbad, (State.translate_kept ..).fault h]
    next h => simp [hbad, (State.translate_kept ..).malformed h]
    next h => simp [hbad]

@[simp] theorem State.xlate_minima {s : State} {ea : Word} {acc : Acc} {bad : Cause → Word → State → State}
    {k : Nat → State → State} (hbad : ∀ y0 y1 t, (bad y0 y1 t).minima = t.minima)
    (hk : ∀ y0 t, (k y0 t).minima = t.minima) :
    (s.xlate ea acc bad k).minima = s.minima := by
  unfold State.xlate
  simp [hbad, hk]

@[simp] theorem State.locate_minima {s : State} {loc : Bool} {ea : Word} {size : Nat} {acc : Acc}
    {bad : Cause → Word → State → State} {k : Place → State → State} (hbad : ∀ y0 y1 t, (bad y0 y1 t).minima = t.minima)
    (hk : ∀ y0 t, (k y0 t).minima = t.minima) :
    (s.locate loc ea size acc bad k).minima = s.minima := by
  unfold State.locate
  simp [apply_ite State.minima, hbad, hk]

@[simp] theorem badAccess_minima (acc : Acc) (c : Cause) (v : Word) (s : State) :
    (badAccess acc c v s).minima = s.minima := by
  unfold badAccess; split <;> simp

@[simp] theorem State.sendAway_minima (s : State) (ea : Word) (op : RemOp) (returns : Bool) :
    (s.sendAway ea op returns).1.minima = s.minima := by simp [State.sendAway]

@[simp] theorem State.awaitAway_minima {s : State} {ea : Word} {op : RemOp} {bad : Cause → Word → State → State}
    {k : Nat → State → State} (hbad : ∀ y0 y1 t, (bad y0 y1 t).minima = t.minima)
    (hk : ∀ y0 t, (k y0 t).minima = t.minima) :
    (s.awaitAway ea op bad k).minima = s.minima := by
  unfold State.awaitAway
  split <;> simp [hk, hbad, apply_ite State.minima]

@[simp] theorem State.withUnack_minima {s : State} {k : State → State} (hk : ∀ t, (k t).minima = t.minima) :
    (s.withUnack k).minima = s.minima := by
  unfold State.withUnack
  simp [apply_ite State.minima, hk]

@[simp] theorem State.postAway_minima {s : State} {ea : Word} {op : RemOp} {k : State → State}
    (hk : ∀ t, (k t).minima = t.minima) :
    (s.postAway ea op k).minima = s.minima := by
  unfold State.postAway
  simp [apply_ite State.minima, hk]

@[simp] theorem State.sliceRmw_minima (s : State) (pno pa size : Nat) (f : Nat → Nat) :
    (s.sliceRmw pno pa size f).2.minima = s.minima := by simp [State.sliceRmw]

@[simp] theorem State.dropLine_minima (s : State) (c line : Nat) : (s.dropLine c line).minima = s.minima := rfl

@[simp] theorem State.performFlight_minima (s : State) (f : Sent) : (s.performFlight f).minima = s.minima := by
  unfold State.performFlight; split <;> simp

@[simp] theorem State.performAll_minima (s : State) (l : List Sent) : (s.performAll l).minima = s.minima := by
  simp [State.performAll]

@[simp] theorem State.drainEntry_minima (s : State) (c : Nat) (e : SbEntry) : (s.drainEntry c e).minima = s.minima := by
  unfold State.drainEntry
  dsimp only
  split <;> simp

@[simp] theorem State.settleLine_minima (s : State) (c sth line : Nat) :
    (s.settleLine c sth line).minima = s.minima := by simp [State.settleLine]

@[simp] theorem State.vread_minima {s : State} {pa size : Nat} {home : Bool} {bad : State → State}
    {k : Nat → State → State} (hbad : ∀ t, (bad t).minima = t.minima) (hk : ∀ y0 t, (k y0 t).minima = t.minima) :
    (s.vread pa size home bad k).minima = s.minima := by
  unfold State.vread
  dsimp only
  split <;> simp [apply_ite State.minima, hbad, hk]

@[simp] theorem State.portRead_minima {s : State} {c off size : Nat} {bad : State → State} {k : Nat → State → State}
    (hbad : ∀ t, (bad t).minima = t.minima) (hk : ∀ y0 t, (k y0 t).minima = t.minima) :
    (s.portRead c off size bad k).minima = s.minima := by
  unfold State.portRead
  simp [apply_ite State.minima, hbad, hk]

@[simp] theorem State.readAt_minima {s : State} {pl : Place} {ea : Word} {size : Nat} {home : Bool}
    {bad : Cause → Word → State → State} {k : Nat → State → State} (hbad : ∀ y0 y1 t, (bad y0 y1 t).minima = t.minima)
    (hk : ∀ y0 t, (k y0 t).minima = t.minima) :
    (s.readAt pl ea size home bad k).minima = s.minima := by
  unfold State.readAt
  split <;> simp [hbad, hk]

@[simp] theorem State.writeAt_minima {s : State} {pl : Place} {ea : Word} {size v : Nat} {setFull : Bool}
    {k : State → State} (hk : ∀ t, (k t).minima = t.minima) :
    (s.writeAt pl ea size v setFull k).minima = s.minima := by
  unfold State.writeAt
  split <;> simp [apply_ite State.minima, hk]

@[simp] theorem loadBody_minima (d : Code) (sz : Size) (sx loc : Bool) (acq : Option Scope) (ea : Word) (s : State) :
    (loadBody d sz sx loc acq ea s).minima = s.minima := by
  unfold loadBody; split <;> simp

@[simp] theorem storeBody_minima (sz : Size) (loc : Bool) (ea v : Word) (s : State) :
    (storeBody sz loc ea v s).minima = s.minima := by simp [storeBody]

@[simp] theorem execLd_kept (p : Pred) (d b : Code) (off : BitVec 17) (sz : Size) (sx loc : Bool) (s : State) :
    FusesKept s.minima (execLd p d b off sz sx loc s) := by simp [execLd]

@[simp] theorem execSt_kept (p : Pred) (b a : Code) (off : BitVec 17) (sz : Size) (loc : Bool) (s : State) :
    FusesKept s.minima (execSt p b a off sz loc s) := by simp [execSt]

@[simp] theorem execLdx_kept (p : Pred) (d b c : Code) (sz : Size) (sx loc : Bool) (s : State) :
    FusesKept s.minima (execLdx p d b c sz sx loc s) := by simp [execLdx]

@[simp] theorem execStx_kept (p : Pred) (a b c : Code) (sz : Size) (loc : Bool) (s : State) :
    FusesKept s.minima (execStx p a b c sz loc s) := by simp [execStx]

@[simp] theorem execLda_kept (p : Pred) (d b : Code) (off : BitVec 17) (sz : Size) (sx loc : Bool) (sc : Scope)
    (s : State) :
    FusesKept s.minima (execLda p d b off sz sx loc sc s) := by simp [execLda]

@[simp] theorem execStl_kept (p : Pred) (b a : Code) (off : BitVec 17) (sz : Size) (loc : Bool) (sc : Scope)
    (s : State) :
    FusesKept s.minima (execStl p b a off sz loc sc s) := by simp [execStl]

@[simp] theorem execLdf_kept (p : Pred) (d b : Code) (off : BitVec 17) (sz : Size) (sx loc cn : Bool) (s : State) :
    FusesKept s.minima (execLdf p d b off sz sx loc cn s) := by
  unfold execLdf
  refine issue_kept (fun t => ?_)
  dsimp only
  split
  · simp
  · refine State.locate_minima (by simp) (fun x u => ?_)
    split <;> simp [apply_ite State.minima]

@[simp] theorem execStf_kept (p : Pred) (b a : Code) (off : BitVec 17) (sz : Size) (loc : Bool) (s : State) :
    FusesKept s.minima (execStf p b a off sz loc s) := by
  unfold execStf
  refine issue_kept (fun t => ?_)
  dsimp only
  split
  · simp
  · refine State.locate_minima (by simp) (by simp)

@[simp] theorem execClre_kept (p : Pred) (b a : Code) (off : BitVec 17) (loc : Bool) (s : State) :
    FusesKept s.minima (execClre p b a off loc s) := by
  unfold execClre
  refine issue_kept (fun t => ?_)
  dsimp only
  split
  · simp
  · refine State.locate_minima (by simp) (fun x u => ?_)
    split <;> simp [apply_ite State.minima]

@[simp] theorem execPref_kept (p : Pred) (b : Code) (off : BitVec 17) (s : State) :
    FusesKept s.minima (execPref p b off s) := by
  unfold execPref
  refine issue_kept (fun t => ?_)
  dsimp only
  split
  · simp
  · split
    next h => simp [apply_ite State.minima, (State.translate_kept ..).ok h]
    next h => simp [(State.translate_kept ..).fault h]
    next h => simp [(State.translate_kept ..).malformed h]
    next h => simp

end Sys2Proof.Machine
end

section
/-! The atomics and the waits for a word: the fuses stay (R42). -/

namespace Sys2Proof.Machine

@[simp] theorem State.rmwAt_minima {s : State} {pl : Place} {ea : Word} {size : Nat} {f : Nat → Nat} {op : RemOp}
    {bad : Cause → Word → State → State} {k : Nat → State → State} (hbad : ∀ y0 y1 t, (bad y0 y1 t).minima = t.minima)
    (hk : ∀ y0 t, (k y0 t).minima = t.minima) :
    (s.rmwAt pl ea size f op bad k).minima = s.minima := by
  unfold State.rmwAt
  split <;> simp [apply_ite State.minima, hbad, hk]

@[simp] theorem State.redAt_minima {s : State} {pl : Place} {ea : Word} {size : Nat} {f : Nat → Nat}
    {virt : Nat → Flight} {port : Nat → Nat → Flight} {op : RemOp} {k : State → State}
    (hk : ∀ t, (k t).minima = t.minima) :
    (s.redAt pl ea size f virt port op k).minima = s.minima := by
  unfold State.redAt
  split <;> simp [hk]

@[simp] theorem State.redInt_minima {s : State} {pl : Place} {ea : Word} {size : Nat} {op : AtOp} {v : Nat}
    {k : State → State} (hk : ∀ t, (k t).minima = t.minima) :
    (s.redInt pl ea size op v k).minima = s.minima := by
  unfold State.redInt
  simp [hk]

@[simp] theorem State.ordered_minima {s : State} {m : AtMod} {k : State → State} (hk : ∀ t, (k t).minima = t.minima) :
    (s.ordered m k).minima = s.minima := by
  unfold State.ordered
  simp [apply_ite State.minima, hk]

@[simp] theorem atomicBody_minima (d : Code) (m : AtMod) (ea : Word) (f : Nat → Nat) (op : RemOp) (s : State) :
    (atomicBody d m ea f op s).minima = s.minima := by
  unfold atomicBody
  dsimp only
  refine State.locate_minima (by simp) (fun x t => ?_)
  simp [apply_ite State.minima]

@[simp] theorem execAmo_kept (p : Pred) (d b a : Code) (op : AtOp) (m : AtMod) (s : State) :
    FusesKept s.minima (execAmo p d b a op m s) := by simp [execAmo]

@[simp] theorem execCas_kept (p : Pred) (d b a c : Code) (m : AtMod) (s : State) :
    FusesKept s.minima (execCas p d b a c m s) := by simp [execCas]

@[simp] theorem execRed_kept (p : Pred) (b a : Code) (op : AtOp) (m : AtMod) (s : State) :
    FusesKept s.minima (execRed p b a op m s) := by
  unfold execRed
  refine issue_kept (fun t => ?_)
  dsimp only
  refine State.locate_minima (by simp) (by simp)

@[simp] theorem execFamo_kept (p : Pred) (d b a : Code) (op : FAtOp) (m : AtMod) (s : State) :
    FusesKept s.minima (execFamo p d b a op m s) := by simp [execFamo]

@[simp] theorem execFred_kept (p : Pred) (b a : Code) (op : FAtOp) (m : AtMod) (s : State) :
    FusesKept s.minima (execFred p b a op m s) := by
  unfold execFred
  refine issue_kept (fun t => ?_)
  dsimp only
  refine State.locate_minima (by simp) (by simp)

theorem State.watchJoin_minima {s : State} {pa size : Nat} {cmp : WCmp} {ref : Nat} :
    ∀ {u}, (s.watchJoin pa size cmp ref) = some u → u.minima = s.minima := by
  unfold State.watchJoin
  dsimp only
  split <;> simp

@[simp] theorem State.unwatch_minima (s : State) (c sth : Nat) : (s.unwatch c sth).minima = s.minima := rfl

@[simp] theorem State.waitWord_minima {s : State} {ea : Word} {size : Nat} {cmp : WCmp} {ref : Nat} {sc : Scope}
    {acc : Acc} {wait : WordWait} {k : State → State} (hk : ∀ t, (k t).minima = t.minima) :
    (s.waitWord ea size cmp ref sc acc wait k).minima = s.minima := by
  unfold State.waitWord
  refine State.locate_minima (by simp) (fun x t => ?_)
  refine State.readAt_minima (by simp) (fun y u => ?_)
  split
  · simp [hk]
  · dsimp only
    split
    · split
      next h => simp [State.watchJoin_minima h]
      · simp
    · simp

@[simp] theorem execWatch_kept (p : Pred) (b a : Code) (off : BitVec 17) (sz : Size) (cmp : WCmp) (sc : Scope)
    (s : State) :
    FusesKept s.minima (execWatch p b a off sz cmp sc s) := by simp [execWatch]

end Sys2Proof.Machine
end

section
/-! Fences, watches, barriers and queues: the fuses stay (R42). -/

namespace Sys2Proof.Machine

@[simp] theorem execFence_kept (p : Pred) (k : FenceKind) (sc : Scope) (s : State) :
    FusesKept s.minima (execFence p k sc s) := by
  unfold execFence; split <;> simp

@[simp] theorem State.dropSampler_minima (s : State) : (s.dropSampler).minima = s.minima := rfl

@[simp] theorem execPfence_kept (p : Pred) (k : PathKind) (s : State) : FusesKept s.minima (execPfence p k s) := by
  unfold execPfence
  simp [apply_ite State.minima]

@[simp] theorem execVsync_kept (p : Pred) (s : State) : FusesKept s.minima (execVsync p s) := by
  unfold execVsync
  simp [apply_ite State.minima]

@[simp] theorem State.arrive_minima {s : State} {ea : Word} {n : Nat} {sc : Scope} {k : State → State}
    (hk : ∀ t, (k t).minima = t.minima) :
    (s.arrive ea n sc k).minima = s.minima := by
  unfold State.arrive
  refine State.locate_minima (by simp) (fun x t => ?_)
  simp [hk]

@[simp] theorem execBar_kept (p : Pred) (a b : Code) (sc : Scope) (s : State) :
    FusesKept s.minima (execBar p a b sc s) := by
  unfold execBar
  refine issue_kept (fun t => ?_)
  simp [apply_ite State.minima]

@[simp] theorem execBara_kept (p : Pred) (a b : Code) (sc : Scope) (s : State) :
    FusesKept s.minima (execBara p a b sc s) := by simp [execBara]

@[simp] theorem execBarw_kept (p : Pred) (a b : Code) (sc : Scope) (s : State) :
    FusesKept s.minima (execBarw p a b sc s) := by simp [execBarw]

@[simp] theorem execQpeek_kept (p : Pred) (d a : Code) (s : State) : FusesKept s.minima (execQpeek p d a s) := by
  unfold execQpeek
  simp [apply_ite State.minima]

@[simp] theorem execQcnt_kept (p : Pred) (d a : Code) (s : State) : FusesKept s.minima (execQcnt p d a s) := by
  simp [execQcnt]

@[simp] theorem State.bindChan_minima (s : State) (n : Nat) (v : Word) : (s.bindChan n v).minima = s.minima := rfl

@[simp] theorem execQbind_kept (p : Pred) (a b : Code) (s : State) : FusesKept s.minima (execQbind p a b s) := by
  unfold execQbind
  refine issue_kept (fun t => ?_)
  dsimp only
  split
  · split <;> simp [apply_ite State.minima]
  · split
    · simp
    · split
      · split <;> simp [apply_ite State.minima]
      · refine State.awaitAway_minima (by simp) (fun x u => ?_)
        split <;> simp [apply_ite State.minima]

@[simp] theorem execQflush_kept (p : Pred) (a : Code) (s : State) : FusesKept s.minima (execQflush p a s) := by
  simp [execQflush]

@[simp] theorem execKwait_kept (p : Pred) (a b : Code) (cmp : WCmp) (s : State) :
    FusesKept s.minima (execKwait p a b cmp s) := by
  unfold execKwait
  simp [apply_ite State.minima]

end Sys2Proof.Machine
end

section
/-! Frames of a trap and its handler, and the control transfers: the fuses stay (R42). -/

namespace Sys2Proof.Machine

@[simp] theorem State.leaveHandler_minima (s : State) (c sth : Nat) : (s.leaveHandler c sth).minima = s.minima := by
  unfold State.leaveHandler
  simp [apply_ite State.minima]

@[simp] theorem State.cbldSettle_minima (s : State) (cl : Nat) : (s.cbldSettle cl).minima = s.minima := by
  unfold State.cbldSettle
  refine foldl_minima (fun t c => foldl_minima (fun u e => ?_) _ _) _ _
  split
  · simp only [apply_ite State.minima, State.wakeWith_minima, ite_self]
  · rfl

@[simp] theorem State.wrSth_minima (s : State) (c sth : Nat) (d : Code) (v : Word) :
    (s.wrSth c sth d v).minima = s.minima := by
  unfold State.wrSth
  (repeat' split) <;> simp

@[simp] theorem State.enqDeliver_minima (s : State) (c sth : Nat) (d : Code) (v : Word) :
    (s.enqDeliver c sth d v).minima = s.minima := by
  unfold State.enqDeliver
  dsimp only
  (repeat' split) <;> simp

@[simp] theorem State.discard_minima (s : State) (c sth : Nat) (f : Entry → Bool) :
    (s.discard c sth f).minima = s.minima := by simp [State.discard]

@[simp] theorem State.discardEach_minima {k : State → State} {x0 : List Entry} {s : State}
    (hk : ∀ t, (k t).minima = t.minima) :
    (State.discardEach k x0 s).minima = s.minima := by
  induction x0 generalizing s with
  | nil => exact hk s
  | cons e rest ih =>
    rw [State.discardEach]
    split
    · simp
    · rw [ih]; simp

@[simp] theorem State.discardThen_minima {s : State} {k : State → State} (hk : ∀ t, (k t).minima = t.minima) :
    (s.discardThen k).minima = s.minima := by
  unfold State.discardThen
  simp [apply_ite State.minima, hk]

@[simp] theorem State.countFrame_minima (s : State) (pno lid core : Nat) (d : Int) :
    (s.countFrame pno lid core d).minima = s.minima := by simp [State.countFrame]

@[simp] theorem State.countFault_minima (s : State) (pno n : Nat) : (s.countFault pno n).minima = s.minima := by
  simp [State.countFault]

@[simp] theorem State.closeHandler_minima (s : State) (c sl : Nat) : (s.closeHandler c sl).minima = s.minima := by
  unfold State.closeHandler
  (repeat' split) <;> simp

@[simp] theorem State.lateAtEnd_minima (s : State) (pno lid : Nat) (l : Late) :
    (s.lateAtEnd pno lid l).minima = s.minima := by
  unfold State.lateAtEnd; split <;> simp

@[simp] theorem State.meshDone_minima (s : State) (t : Thread) : (s.meshDone t).minima = s.minima := by
  unfold State.meshDone; split <;> simp

@[simp] theorem State.vacate_minima (s : State) (c sl : Nat) : (s.vacate c sl).minima = s.minima := by
  unfold State.vacate; split <;> simp

@[simp] theorem State.endThread_minima (s : State) (c sl : Nat) : (s.endThread c sl).minima = s.minima := by
  unfold State.endThread
  (repeat' split) <;> simp

@[simp] theorem State.waitForWork_minima (s : State) (c sl : Nat) : (s.waitForWork c sl).minima = s.minima := by
  unfold State.waitForWork
  dsimp only
  (repeat' split) <;> simp

@[simp] theorem State.exitWith_minima {s : State} {bad : Cause → Word → State → State}
    (hbad : ∀ y0 y1 t, (bad y0 y1 t).minima = t.minima) :
    (s.exitWith bad).minima = s.minima := by
  unfold State.exitWith
  refine State.discardThen_minima fun t => ?_
  dsimp only
  split
  · exact State.waitForWork_minima ..
  · refine State.locate_minima (fun x y u => hbad ..) fun x u => ?_
    exact State.releaseThen_minima fun w => State.rmwAt_minima (fun _ _ _ => hbad ..) fun _ v =>
      State.waitForWork_minima ..

@[simp] theorem State.fatalEnding_minima (s : State) : (s.fatalEnding).minima = s.minima := by simp [State.fatalEnding]

@[simp] theorem execExit_kept (p : Pred) (s : State) : FusesKept s.minima (execExit p s) := by simp [execExit]

@[simp] theorem execWfw_kept (p : Pred) (s : State) : FusesKept s.minima (execWfw p s) := by simp [execWfw]

@[simp] theorem State.transfer_minima {s : State} {target : Word} {eff : State → State}
    (heff : ∀ t, (eff t).minima = t.minima) :
    (s.transfer target eff).minima = s.minima := by
  unfold State.transfer
  simp [apply_ite State.minima, heff]

@[simp] theorem execBr_kept (p : Pred) (imm : BitVec 41) (s : State) : FusesKept s.minima (execBr p imm s) := by
  simp [execBr]

@[simp] theorem execJmp_kept (p : Pred) (a : Code) (s : State) : FusesKept s.minima (execJmp p a s) := by simp [execJmp]

@[simp] theorem execCall_kept (p : Pred) (d : Code) (imm : BitVec 41) (s : State) :
    FusesKept s.minima (execCall p d imm s) := by simp [execCall]

@[simp] theorem execCallr_kept (p : Pred) (d a : Code) (s : State) : FusesKept s.minima (execCallr p d a s) := by
  simp [execCallr]

@[simp] theorem execRet_kept (p : Pred) (a : Code) (s : State) : FusesKept s.minima (execRet p a s) := by simp [execRet]

@[simp] theorem execLoop_kept (p : Pred) (d : Code) (imm : BitVec 41) (s : State) :
    FusesKept s.minima (execLoop p d imm s) := by
  unfold execLoop
  simp [apply_ite State.minima]

@[simp] theorem execNop_kept (p : Pred) (s : State) : FusesKept s.minima (execNop p s) := by simp [execNop]

end Sys2Proof.Machine
end

section
/-! The integer instructions: the fuses stay (R42). -/

namespace Sys2Proof.Machine

@[simp] theorem execAdd_kept (p : Pred) (d a b : Code) (s : State) : FusesKept s.minima (execAdd p d a b s) := by
  simp [execAdd]

@[simp] theorem execSub_kept (p : Pred) (d a b : Code) (s : State) : FusesKept s.minima (execSub p d a b s) := by
  simp [execSub]

@[simp] theorem execMul_kept (p : Pred) (d a b : Code) (s : State) : FusesKept s.minima (execMul p d a b s) := by
  simp [execMul]

@[simp] theorem execMulh_kept (p : Pred) (d a b : Code) (s : State) : FusesKept s.minima (execMulh p d a b s) := by
  simp [execMulh]

@[simp] theorem execMulhz_kept (p : Pred) (d a b : Code) (s : State) : FusesKept s.minima (execMulhz p d a b s) := by
  simp [execMulhz]

@[simp] theorem execDiv_kept (p : Pred) (d a b : Code) (s : State) : FusesKept s.minima (execDiv p d a b s) := by
  simp [execDiv]

@[simp] theorem execDivz_kept (p : Pred) (d a b : Code) (s : State) : FusesKept s.minima (execDivz p d a b s) := by
  simp [execDivz]

@[simp] theorem execRem_kept (p : Pred) (d a b : Code) (s : State) : FusesKept s.minima (execRem p d a b s) := by
  simp [execRem]

@[simp] theorem execRemz_kept (p : Pred) (d a b : Code) (s : State) : FusesKept s.minima (execRemz p d a b s) := by
  simp [execRemz]

@[simp] theorem execAnd_kept (p : Pred) (d a b : Code) (s : State) : FusesKept s.minima (execAnd p d a b s) := by
  simp [execAnd]

@[simp] theorem execOr_kept (p : Pred) (d a b : Code) (s : State) : FusesKept s.minima (execOr p d a b s) := by
  simp [execOr]

@[simp] theorem execXor_kept (p : Pred) (d a b : Code) (s : State) : FusesKept s.minima (execXor p d a b s) := by
  simp [execXor]

@[simp] theorem execAndn_kept (p : Pred) (d a b : Code) (s : State) : FusesKept s.minima (execAndn p d a b s) := by
  simp [execAndn]

@[simp] theorem execShl_kept (p : Pred) (d a b : Code) (s : State) : FusesKept s.minima (execShl p d a b s) := by
  simp [execShl]

@[simp] theorem execShr_kept (p : Pred) (d a b : Code) (s : State) : FusesKept s.minima (execShr p d a b s) := by
  simp [execShr]

@[simp] theorem execSha_kept (p : Pred) (d a b : Code) (s : State) : FusesKept s.minima (execSha p d a b s) := by
  simp [execSha]

@[simp] theorem execRol_kept (p : Pred) (d a b : Code) (s : State) : FusesKept s.minima (execRol p d a b s) := by
  simp [execRol]

@[simp] theorem execMin_kept (p : Pred) (d a b : Code) (s : State) : FusesKept s.minima (execMin p d a b s) := by
  simp [execMin]

@[simp] theorem execMax_kept (p : Pred) (d a b : Code) (s : State) : FusesKept s.minima (execMax p d a b s) := by
  simp [execMax]

@[simp] theorem execMinz_kept (p : Pred) (d a b : Code) (s : State) : FusesKept s.minima (execMinz p d a b s) := by
  simp [execMinz]

@[simp] theorem execMaxz_kept (p : Pred) (d a b : Code) (s : State) : FusesKept s.minima (execMaxz p d a b s) := by
  simp [execMaxz]

@[simp] theorem execClz_kept (p : Pred) (d a : Code) (s : State) : FusesKept s.minima (execClz p d a s) := by
  simp [execClz]

@[simp] theorem execPopc_kept (p : Pred) (d a : Code) (s : State) : FusesKept s.minima (execPopc p d a s) := by
  simp [execPopc]

@[simp] theorem execBrev_kept (p : Pred) (d a : Code) (s : State) : FusesKept s.minima (execBrev p d a s) := by
  simp [execBrev]

@[simp] theorem execMadd_kept (p : Pred) (d a b c : Code) (s : State) : FusesKept s.minima (execMadd p d a b c s) := by
  simp [execMadd]

@[simp] theorem execBfx_kept (p : Pred) (d a : Code) (sx : Bool) (pos : Fin 64) (len : Fin 65) (s : State) :
    FusesKept s.minima (execBfx p d a sx pos len s) := by simp [execBfx]

@[simp] theorem execBfi_kept (p : Pred) (d a b : Code) (pos : Fin 64) (len : Fin 65) (s : State) :
    FusesKept s.minima (execBfi p d a b pos len s) := by simp [execBfi]

@[simp] theorem execAddw_kept (p : Pred) (d a b : Code) (s : State) : FusesKept s.minima (execAddw p d a b s) := by
  simp [execAddw]

@[simp] theorem execSubw_kept (p : Pred) (d a b : Code) (s : State) : FusesKept s.minima (execSubw p d a b s) := by
  simp [execSubw]

@[simp] theorem execMulw_kept (p : Pred) (d a b : Code) (s : State) : FusesKept s.minima (execMulw p d a b s) := by
  simp [execMulw]

@[simp] theorem execAddi_kept (p : Pred) (d a : Code) (imm : BitVec 33) (s : State) :
    FusesKept s.minima (execAddi p d a imm s) := by simp [execAddi]

@[simp] theorem execAndi_kept (p : Pred) (d a : Code) (imm : BitVec 33) (s : State) :
    FusesKept s.minima (execAndi p d a imm s) := by simp [execAndi]

@[simp] theorem execOri_kept (p : Pred) (d a : Code) (imm : BitVec 33) (s : State) :
    FusesKept s.minima (execOri p d a imm s) := by simp [execOri]

@[simp] theorem execXori_kept (p : Pred) (d a : Code) (imm : BitVec 33) (s : State) :
    FusesKept s.minima (execXori p d a imm s) := by simp [execXori]

@[simp] theorem execShli_kept (p : Pred) (d a : Code) (sh : Fin 64) (s : State) :
    FusesKept s.minima (execShli p d a sh s) := by simp [execShli]

@[simp] theorem execShri_kept (p : Pred) (d a : Code) (sh : Fin 64) (s : State) :
    FusesKept s.minima (execShri p d a sh s) := by simp [execShri]

@[simp] theorem execShai_kept (p : Pred) (d a : Code) (sh : Fin 64) (s : State) :
    FusesKept s.minima (execShai p d a sh s) := by simp [execShai]

@[simp] theorem execMuli_kept (p : Pred) (d a : Code) (imm : BitVec 33) (s : State) :
    FusesKept s.minima (execMuli p d a imm s) := by simp [execMuli]

@[simp] theorem execLdi_kept (p : Pred) (d : Code) (imm : BitVec 33) (s : State) :
    FusesKept s.minima (execLdi p d imm s) := by simp [execLdi]

@[simp] theorem execLdih_kept (p : Pred) (d a : Code) (imm : BitVec 31) (s : State) :
    FusesKept s.minima (execLdih p d a imm s) := by simp [execLdih]

@[simp] theorem execLea_kept (p : Pred) (d b : Code) (off : BitVec 17) (s : State) :
    FusesKept s.minima (execLea p d b off s) := by simp [execLea]

@[simp] theorem execMov_kept (p : Pred) (d a : Code) (s : State) : FusesKept s.minima (execMov p d a s) := by
  simp [execMov]

@[simp] theorem execGetid_kept (p : Pred) (d : Code) (sel : Fin 15) (s : State) :
    FusesKept s.minima (execGetid p d sel s) := by simp [execGetid]

@[simp] theorem execCmp_kept (p : Pred) (pd : Fin 8) (a b : Code) (cc : CC) (s : State) :
    FusesKept s.minima (execCmp p pd a b cc s) := by simp [execCmp]

@[simp] theorem execCmpi_kept (p : Pred) (pd : Fin 8) (a : Code) (cc : CC) (imm : BitVec 33) (s : State) :
    FusesKept s.minima (execCmpi p pd a cc imm s) := by simp [execCmpi]

@[simp] theorem execPlog_kept (p : Pred) (pd pa pb : Fin 8) (op : PlogOp) (s : State) :
    FusesKept s.minima (execPlog p pd pa pb op s) := by simp [execPlog]

@[simp] theorem execSel_kept (p : Pred) (d : Code) (ps : Fin 8) (ns : Bool) (a b : Code) (s : State) :
    FusesKept s.minima (execSel p d ps ns a b s) := by simp [execSel]

@[simp] theorem execPget_kept (p : Pred) (d : Code) (s : State) : FusesKept s.minima (execPget p d s) := by
  simp [execPget]

@[simp] theorem execPset_kept (p : Pred) (a : Code) (s : State) : FusesKept s.minima (execPset p a s) := by
  simp [execPset]

end Sys2Proof.Machine
end

section
/-! Tasks, and the float instructions: the fuses stay (R42). -/

namespace Sys2Proof.Machine

theorem State.makeThread_minima {s : State} {c : Nat} {l : Launch} {win : Nat} :
    ∀ {x u}, (s.makeThread c l win) = some (x, u) → u.minima = s.minima := by
  unfold State.makeThread
  dsimp only
  split <;> simp

@[simp] theorem State.spillThen_minima {s : State} {k : State → State} (hk : ∀ t, (k t).minima = t.minima) :
    (s.spillThen k).minima = s.minima := by
  unfold State.spillThen
  dsimp only
  split
  · simp [hk]
  · split
    · split
      · simp
      · refine State.locate_minima (by simp) (fun x t => ?_)
        split <;> simp [hk]
    · simp [hk]

@[simp] theorem execSpawn_kept (p : Pred) (a b : Code) (deep : Bool) (dom : Fin 9) (s : State) :
    FusesKept s.minima (execSpawn p a b deep dom s) := by
  unfold execSpawn
  refine issue_kept (fun t => ?_)
  dsimp only
  split <;> simp [apply_ite State.minima]

@[simp] theorem execJoinw_kept (p : Pred) (a : Code) (sc : Scope) (s : State) :
    FusesKept s.minima (execJoinw p a sc s) := by simp [execJoinw]

@[simp] theorem execTnew_kept (p : Pred) (d a : Code) (lim : Fin 17) (s : State) :
    FusesKept s.minima (execTnew p d a lim s) := by
  unfold execTnew
  refine issue_kept fun t => ?_
  refine (State.releaseThen_minima fun u => ?_).trans (by simp)
  dsimp only
  split
  · simp
  · split
    · simp
    · split
      · simp
      next h => simp [State.makeThread_minima h]

@[simp] theorem execYield_kept (p : Pred) (s : State) : FusesKept s.minima (execYield p s) := by
  unfold execYield
  simp [apply_ite State.minima]

@[simp] theorem execPark_kept (p : Pred) (a : Code) (s : State) : FusesKept s.minima (execPark p a s) := by
  unfold execPark
  simp [apply_ite State.minima]

@[simp] theorem fp1_kept (p : Pred) (d a : Code) (f : Nat → Word → Word) (s : State) :
    FusesKept s.minima (fp1 p d a f s) := by simp [fp1]

@[simp] theorem fp2_kept (p : Pred) (d a b : Code) (sz : FSize) (rm : RM) (f : RM → Val → Val → Val) (s : State) :
    FusesKept s.minima (fp2 p d a b sz rm f s) := by simp [fp2]

@[simp] theorem execFadd_kept (p : Pred) (d a b : Code) (sz : FSize) (rm : RM) (s : State) :
    FusesKept s.minima (execFadd p d a b sz rm s) := by simp [execFadd]

@[simp] theorem execFsub_kept (p : Pred) (d a b : Code) (sz : FSize) (rm : RM) (s : State) :
    FusesKept s.minima (execFsub p d a b sz rm s) := by simp [execFsub]

@[simp] theorem execFmul_kept (p : Pred) (d a b : Code) (sz : FSize) (rm : RM) (s : State) :
    FusesKept s.minima (execFmul p d a b sz rm s) := by simp [execFmul]

@[simp] theorem execFdiv_kept (p : Pred) (d a b : Code) (sz : FSize) (rm : RM) (s : State) :
    FusesKept s.minima (execFdiv p d a b sz rm s) := by simp [execFdiv]

@[simp] theorem execFmin_kept (p : Pred) (d a b : Code) (sz : FSize) (rm : RM) (s : State) :
    FusesKept s.minima (execFmin p d a b sz rm s) := by simp [execFmin]

@[simp] theorem execFmax_kept (p : Pred) (d a b : Code) (sz : FSize) (rm : RM) (s : State) :
    FusesKept s.minima (execFmax p d a b sz rm s) := by simp [execFmax]

@[simp] theorem execFfma_kept (p : Pred) (d a b c : Code) (sz : FSize) (rm : RM) (s : State) :
    FusesKept s.minima (execFfma p d a b c sz rm s) := by simp [execFfma]

@[simp] theorem execFsqrt_kept (p : Pred) (d a : Code) (sz : FSize) (rm : RM) (s : State) :
    FusesKept s.minima (execFsqrt p d a sz rm s) := by simp [execFsqrt]

@[simp] theorem execFcmp_kept (p : Pred) (pd : Fin 8) (a b : Code) (fx : FCmp) (sz : FSize) (_rm : RM) (s : State) :
    FusesKept s.minima (execFcmp p pd a b fx sz _rm s) := by simp [execFcmp]

@[simp] theorem execFcvt_kept (p : Pred) (d a : Code) (fx : FCvt) (sz : FSize) (rm : RM) (s : State) :
    FusesKept s.minima (execFcvt p d a fx sz rm s) := by simp [execFcvt]

@[simp] theorem execFsgn_kept (p : Pred) (d a b : Code) (fx : FSgn) (sz : FSize) (_rm : RM) (s : State) :
    FusesKept s.minima (execFsgn p d a b fx sz _rm s) := by simp [execFsgn]

@[simp] theorem execFclass_kept (p : Pred) (d a : Code) (sz : FSize) (_rm : RM) (s : State) :
    FusesKept s.minima (execFclass p d a sz _rm s) := by simp [execFclass]

end Sys2Proof.Machine
end

section
/-! The vector unit: what it reads, what it writes, its instructions and its late traps: the fuses stay (R42). -/

namespace Sys2Proof.Machine

@[simp] theorem vdispatch_kept (i : Instr) (p : Pred) (used : List Code) (d a b c : Code) (m : VMod) (s : State) :
    FusesKept s.minima (vdispatch i p used d a b c m s) := by
  unfold vdispatch
  simp [apply_ite State.minima]

/-- An answer of a value and a state, or of an error and a state, has the fuses. -/
def PairKept {ε α : Type} (m : KMap Nat) : Except (ε × State) (α × State) → Prop
  | .ok x => x.2.minima = m
  | .error x => x.2.minima = m

theorem PairKept.ok {ε α : Type} {m : KMap Nat} {r : Except (ε × State) (α × State)} (hr : PairKept m r) {x : α}
    {t : State}
    (h : r = .ok (x, t)) : t.minima = m := by
  subst h; exact hr

theorem PairKept.error {ε α : Type} {m : KMap Nat} {r : Except (ε × State) (α × State)} (hr : PairKept m r) {x : ε}
    {t : State}
    (h : r = .error (x, t)) : t.minima = m := by
  subst h; exact hr

/-- The parts of an access translate one after the other, and the first that fails ends it: every state on the way,
    and the
one at the end, has the fuses. -/
theorem foldl_except_minima {ε α β : Type} {m : KMap Nat}
    {f : Except (ε × State) (α × State) → β → Except (ε × State) (α × State)}
    (hf : ∀ r b, PairKept m r → PairKept m (f r b)) (l : List β) (r : Except (ε × State) (α × State))
    (hr : PairKept m r) :
    PairKept m (l.foldl f r) := by
  induction l generalizing r with
  | nil => exact hr
  | cons b l ih => exact ih _ (hf r b hr)

theorem PairKept.ite {ε α : Type} {m : KMap Nat} {c : Prop} [Decidable c] {r₁ r₂ : Except (ε × State) (α × State)}
    (h₁ : PairKept m r₁) (h₂ : PairKept m r₂) : PairKept m (if c then r₁ else r₂) := by
  split
  · exact h₁
  · exact h₂

theorem State.vresolve_minima {s : State} {pno c : Nat} {app : Bool} {acc : Acc} {ea : Word} {n : Nat} :
    (∀ {x u}, (s.vresolve pno c app acc ea n) = .ok (x, u) → u.minima = s.minima) ∧
    ∀ {x u}, (s.vresolve pno c app acc ea n) = .error (x, u) → u.minima = s.minima := by
  suffices h : PairKept s.minima (s.vresolve pno c app acc ea n) from ⟨h.ok, h.error⟩
  unfold State.vresolve
  dsimp only
  split
  · rfl
  split
  · rfl
  split
  · split
    · rfl
    split
    · rfl
    split
    · split <;> rfl
    · split <;> rfl
  · refine foldl_except_minima (fun r q hr => ?_) _ _ rfl
    split
    · exact hr
    next l t =>
      have walked := t.translate_kept (.core c) pno q.1 acc app
      have ht : t.minima = s.minima := hr
      rw [ht] at walked
      split
      next h => exact walked.ok h
      next h =>
        have hu := walked.fault h
        split
        · exact (State.faultMsg_minima ..).trans hu
        · exact hu
      next h => exact (State.malformedRecord_minima ..).trans (walked.malformed h)
      · exact ht

@[simp] theorem State.settleRun_minima (s : State) (c sth pa n : Nat) : (s.settleRun c sth pa n).minima = s.minima := by
  simp [State.settleRun]

/-- An answer of two values and a state, or of an error and a state, has the fuses. -/
def TripleKept {ε α β : Type} (m : KMap Nat) : Except (ε × State) (α × β × State) → Prop
  | .ok x => x.2.2.minima = m
  | .error x => x.2.minima = m

theorem TripleKept.ok {ε α β : Type} {m : KMap Nat} {r : Except (ε × State) (α × β × State)} (hr : TripleKept m r)
    {x : α}
    {y : β} {t : State} (h : r = .ok (x, y, t)) : t.minima = m := by
  subst h; exact hr

theorem TripleKept.error {ε α β : Type} {m : KMap Nat} {r : Except (ε × State) (α × β × State)} (hr : TripleKept m r)
    {x : ε}
    {t : State} (h : r = .error (x, t)) : t.minima = m := by
  subst h; exact hr

theorem State.vreadPieces_minima {s : State} {pno c sth seq : Nat} {ea : Word} {x0 : List VPiece}
    {x1 : List (Option Nat)} :
    (∀ {x y u}, (s.vreadPieces pno c sth seq ea x0 x1) = .ok (x, y, u) → u.minima = s.minima) ∧
    ∀ {x u}, (s.vreadPieces pno c sth seq ea x0 x1) = .error (x, u) → u.minima = s.minima := by
  suffices h : ∀ l (s : State) got, TripleKept s.minima (s.vreadPieces pno c sth seq ea l got) from
    ⟨(h _ _ _).ok, (h _ _ _).error⟩
  intro l
  induction l with
  | nil => exact fun s got => rfl
  | cons p l ih =>
    intro s got
    cases p with
    | phys pa n =>
      rw [State.vreadPieces]
      have settled : ((s.settleRun c sth pa n).sliceSee pno [(pa, n)]).minima = s.minima := by simp
      have rest := ih ((s.settleRun c sth pa n).sliceSee pno [(pa, n)]) got
      rw [settled] at rest
      split
      · exact State.settleRun_minima ..
      split
      next h => exact rest.error h
      next h => exact rest.ok h
    | port d off n =>
      rw [State.vreadPieces]
      have performed : (s.performAll (s.toPort c sth d)).minima = s.minima := by simp
      have rest := ih (s.performAll (s.toPort c sth d)) got
      rw [performed] at rest
      split
      · exact performed
      split
      next h => exact rest.error h
      next h => exact rest.ok h
    | away a n =>
      match got with
      | [] => rw [State.vreadPieces]; exact State.gondola_minima ..
      | none :: _ => rfl
      | some v :: g =>
        have rest := ih s g
        rw [State.vreadPieces]
        split
        next h => exact rest.error h
        next h => exact rest.ok h

@[simp] theorem State.vwritePieces_minima (s : State) (pno c sth lid : Nat) (x0 : List VPiece) (x1 : List Byte) :
    (s.vwritePieces pno c sth lid x0 x1).minima = s.minima := by
  induction x0 generalizing s x1 with
  | nil => rfl
  | cons p l ih =>
    cases p with
    | phys pa n => rw [State.vwritePieces, ih]; simp
    | port d off n => rw [State.vwritePieces, ih]; simp
    | away a n =>
      rw [State.vwritePieces]
      split <;> rw [ih] <;> simp

theorem State.vwrite'_minima {s : State} {c : Nat} {e : Entry} {rm : RM} {o : VOpnd} {j : Nat} {l : List Lane} :
    ∀ {u}, (s.vwrite' c e rm o j l) = .ok u → u.minima = s.minima := by
  unfold State.vwrite'; split <;> simp

theorem State.vresolveAll_minima {s : State} {pno c : Nat} {app : Bool} {acc : Acc} {x0 : List (Word × Nat)} :
    (∀ {x u}, (s.vresolveAll pno c app acc x0) = .ok (x, u) → u.minima = s.minima) ∧
    ∀ {x u}, (s.vresolveAll pno c app acc x0) = .error (x, u) → u.minima = s.minima := by
  suffices h : ∀ l (s : State), PairKept s.minima (s.vresolveAll pno c app acc l) from ⟨(h _ _).ok, (h _ _).error⟩
  intro l
  induction l with
  | nil => exact fun s => rfl
  | cons q l ih =>
    intro s
    rw [State.vresolveAll]
    split
    next h => exact State.vresolve_minima.2 h
    next t h =>
      have rest := ih t
      rw [State.vresolve_minima.1 h] at rest
      split
      next h => exact rest.error h
      next h => exact rest.ok h

theorem State.vreadRuns_minima {s : State} {pno c sth seq : Nat} {x0 : List ((Word × Nat) × List VPiece)}
    {x1 : List (Option Nat)} :
    (∀ {x u}, (s.vreadRuns pno c sth seq x0 x1) = .ok (x, u) → u.minima = s.minima) ∧
    ∀ {x u}, (s.vreadRuns pno c sth seq x0 x1) = .error (x, u) → u.minima = s.minima := by
  suffices h : ∀ l (s : State) got,
    PairKept s.minima (s.vreadRuns pno c sth seq l got) from ⟨(h _ _ _).ok, (h _ _ _).error⟩
  intro l
  induction l with
  | nil => exact fun s got => rfl
  | cons q l ih =>
    intro s got
    rw [State.vreadRuns]
    split
    next h => exact State.vreadPieces_minima.2 h
    next g t h =>
      have rest := ih t g
      rw [State.vreadPieces_minima.1 h] at rest
      split
      next h => exact rest.error h
      next h => exact rest.ok h

/-- What one segment of a vector instruction answers has the fuses. -/
def SegKept (m : KMap Nat) : SegRes → Prop
  | .ok t => t.minima = m
  | .error x => x.2.minima = m

theorem SegKept.ok {m : KMap Nat} {r : SegRes} {t : State} (hr : SegKept m r) (h : r = .ok t) : t.minima = m := by
  subst h; exact hr

theorem SegKept.error {m : KMap Nat} {r : SegRes} {w : VStop} {t : State} (hr : SegKept m r) (h : r = .error (w, t)) :
    t.minima = m := by
  subst h; exact hr

theorem State.vload_kept (s : State) (pno c : Nat) (e : Entry) (i : VInfo) (app : Bool) (j : Nat) :
    SegKept s.minima (s.vload pno c e i app j) := by
  unfold State.vload
  dsimp only
  split
  · rfl
  split
  · rfl
  split
  next h => exact State.vresolveAll_minima.2 h
  next h =>
    have resolved := State.vresolveAll_minima.1 h
    split
    next h => exact (State.vreadRuns_minima.2 h).trans resolved
    next h =>
      have read := (State.vreadRuns_minima.1 h).trans resolved
      split
      · split
        · exact read
        next h => exact (State.vwrite'_minima h).trans read
      · split
        · exact read
        · exact read

theorem State.vstore_kept (s : State) (pno c : Nat) (e : Entry) (i : VInfo) (app : Bool) (j : Nat) :
    SegKept s.minima (s.vstore pno c e i app j) := by
  unfold State.vstore
  dsimp only
  split
  · rfl
  split
  · rfl
  split
  · rfl
  split
  next h => exact State.vresolveAll_minima.2 h
  next h =>
    have resolved := State.vresolveAll_minima.1 h
    split
    · exact (foldl_minima (fun _ _ => State.vwritePieces_minima ..) _ _).trans resolved
    · exact (State.vwritePieces_minima ..).trans resolved

theorem State.vlanesSeg_kept (s : State) (c : Nat) (e : Entry) (i : VInfo) (j : Nat) :
    SegKept s.minima (s.vlanesSeg c e i j) := by
  unfold State.vlanesSeg
  dsimp only
  split
  · rfl
  split
  · rfl
  split
  · rfl
  next h => exact State.vwrite'_minima h

/-- What the segments of a vector instruction answer has the fuses. -/
def RunKept (m : KMap Nat) : Except (VStop × Nat × State) State → Prop
  | .ok t => t.minima = m
  | .error x => x.2.2.minima = m

theorem RunKept.of_eq {m n : KMap Nat} {r : Except (VStop × Nat × State) State} (h : n = m) (hr : RunKept n r) :
    RunKept m r :=
  h ▸ hr

theorem RunKept.ok {m : KMap Nat} {r : Except (VStop × Nat × State) State} {t : State} (hr : RunKept m r)
    (h : r = .ok t) :
    t.minima = m := by
  subst h; exact hr

theorem RunKept.error {m : KMap Nat} {r : Except (VStop × Nat × State) State} {w : VStop} {n : Nat} {t : State}
    (hr : RunKept m r) (h : r = .error (w, n, t)) : t.minima = m := by
  subst h; exact hr

theorem State.vrun_kept {s : State} {pno c : Nat} {e : Entry} {i : VInfo} {app : Bool} {fuel j : Nat} :
    RunKept s.minima (s.vrun pno c e i app fuel j) := by
  induction fuel generalizing s e j with
  | zero => rfl
  | succ fuel ih =>
    have segment : ∀ e, SegKept s.minima (match i.kind with
        | .ldg | .gath => s.vload pno c e i app j
        | .stg | .scat => s.vstore pno c e i app j
        | _ => s.vlanesSeg c e i j) := fun e => by
      split
      · exact State.vload_kept ..
      · exact State.vload_kept ..
      · exact State.vstore_kept ..
      · exact State.vstore_kept ..
      · exact State.vlanesSeg_kept ..
    rw [State.vrun]
    split
    next h => exact (segment _).error h
    next t h =>
      exact .of_eq ((State.countCore_minima ..).trans ((State.countCore_minima ..).trans ((segment _).ok h))) ih

theorem State.vreduce_kept (s : State) (c : Nat) (e : Entry) (i : VInfo) :
    RunKept s.minima (s.vreduce c e i) := by
  unfold State.vreduce
  split
  · rfl
  dsimp only
  split
  · rfl
  next h => exact (State.countCore_minima ..).trans ((State.countCore_minima ..).trans (State.vwrite'_minima h))

@[simp] theorem State.vfault_minima (s : State) (c : Nat) (e : Entry) (er : SegErr) (iter : Nat) :
    (s.vfault c e er iter).minima = s.minima := by
  unfold State.vfault; split <;> simp

@[simp] theorem State.vecSettle_minima (s : State) (c sth : Nat) : (s.vecSettle c sth).minima = s.minima := by
  unfold State.vecSettle
  (repeat' split) <;> simp

@[simp] theorem State.vperform_minima (s : State) (c sth : Nat) : (s.vperform c sth).minima = s.minima := by
  unfold State.vperform
  split
  next e pno _ _ =>
    split
    · rfl
    next i _ =>
      have performed : ∀ app : Bool, RunKept s.minima (match i.kind with
          | .red | .dot => s.vreduce c e i
          | _ => s.vrun pno c e i app (i.m.cnt.toNat - e.iter) e.iter) := fun app => by
        split
        · exact State.vreduce_kept ..
        · exact State.vreduce_kept ..
        · exact State.vrun_kept
      split
      · rfl
      split
      · simp
      · split
        · simp
        · dsimp only
          split
          next h => simpa using (performed _).ok h
          next h => simpa using (performed _).error h
          next h => simpa using (performed _).error h
      · rfl
  · rfl

@[simp] theorem execVectorEntryPerform_kept (core slot : Nat) (s : State) :
    FusesKept s.minima (execVectorEntryPerform core slot s) := by
  unfold execVectorEntryPerform; split <;> simp

@[simp] theorem execVadd_kept (p : Pred) (d a b : Code) (v : VMod) (s : State) :
    FusesKept s.minima (execVadd p d a b v s) := by simp [execVadd]

@[simp] theorem execVsub_kept (p : Pred) (d a b : Code) (v : VMod) (s : State) :
    FusesKept s.minima (execVsub p d a b v s) := by simp [execVsub]

@[simp] theorem execVmul_kept (p : Pred) (d a b : Code) (v : VMod) (s : State) :
    FusesKept s.minima (execVmul p d a b v s) := by simp [execVmul]

@[simp] theorem execVfma_kept (p : Pred) (d a b c : Code) (v : VMod) (s : State) :
    FusesKept s.minima (execVfma p d a b c v s) := by simp [execVfma]

@[simp] theorem execVmin_kept (p : Pred) (d a b : Code) (v : VMod) (s : State) :
    FusesKept s.minima (execVmin p d a b v s) := by simp [execVmin]

@[simp] theorem execVmax_kept (p : Pred) (d a b : Code) (v : VMod) (s : State) :
    FusesKept s.minima (execVmax p d a b v s) := by simp [execVmax]

@[simp] theorem execVabs_kept (p : Pred) (d a : Code) (v : VMod) (s : State) :
    FusesKept s.minima (execVabs p d a v s) := by simp [execVabs]

@[simp] theorem execVscl_kept (p : Pred) (d a b : Code) (v : VMod) (s : State) :
    FusesKept s.minima (execVscl p d a b v s) := by simp [execVscl]

@[simp] theorem execVaxpy_kept (p : Pred) (d a b c : Code) (v : VMod) (s : State) :
    FusesKept s.minima (execVaxpy p d a b c v s) := by simp [execVaxpy]

@[simp] theorem execVand_kept (p : Pred) (d a b : Code) (v : VMod) (s : State) :
    FusesKept s.minima (execVand p d a b v s) := by simp [execVand]

@[simp] theorem execVor_kept (p : Pred) (d a b : Code) (v : VMod) (s : State) :
    FusesKept s.minima (execVor p d a b v s) := by simp [execVor]

@[simp] theorem execVxor_kept (p : Pred) (d a b : Code) (v : VMod) (s : State) :
    FusesKept s.minima (execVxor p d a b v s) := by simp [execVxor]

@[simp] theorem execVshl_kept (p : Pred) (d a b : Code) (v : VMod) (s : State) :
    FusesKept s.minima (execVshl p d a b v s) := by simp [execVshl]

@[simp] theorem execVshr_kept (p : Pred) (d a b : Code) (v : VMod) (s : State) :
    FusesKept s.minima (execVshr p d a b v s) := by simp [execVshr]

@[simp] theorem execVcmp_kept (p : Pred) (d a b : Code) (v : VMod) (s : State) :
    FusesKept s.minima (execVcmp p d a b v s) := by simp [execVcmp]

@[simp] theorem execVsel_kept (p : Pred) (d a b c : Code) (v : VMod) (s : State) :
    FusesKept s.minima (execVsel p d a b c v s) := by simp [execVsel]

@[simp] theorem execVcmul_kept (p : Pred) (d a b : Code) (v : VMod) (s : State) :
    FusesKept s.minima (execVcmul p d a b v s) := by simp [execVcmul]

@[simp] theorem execVcmac_kept (p : Pred) (d a b c : Code) (v : VMod) (s : State) :
    FusesKept s.minima (execVcmac p d a b c v s) := by simp [execVcmac]

@[simp] theorem execVmov_kept (p : Pred) (d a : Code) (v : VMod) (s : State) :
    FusesKept s.minima (execVmov p d a v s) := by simp [execVmov]

@[simp] theorem execVred_kept (p : Pred) (d a : Code) (v : VMod) (s : State) :
    FusesKept s.minima (execVred p d a v s) := by simp [execVred]

@[simp] theorem execVdot_kept (p : Pred) (d a b : Code) (v : VMod) (s : State) :
    FusesKept s.minima (execVdot p d a b v s) := by simp [execVdot]

@[simp] theorem execVscan_kept (p : Pred) (d a : Code) (v : VMod) (s : State) :
    FusesKept s.minima (execVscan p d a v s) := by simp [execVscan]

@[simp] theorem execVcvt_kept (p : Pred) (d a : Code) (v : VMod) (s : State) :
    FusesKept s.minima (execVcvt p d a v s) := by simp [execVcvt]

@[simp] theorem execVldg_kept (p : Pred) (d a : Code) (v : VMod) (s : State) :
    FusesKept s.minima (execVldg p d a v s) := by simp [execVldg]

@[simp] theorem execVstg_kept (p : Pred) (d a : Code) (v : VMod) (s : State) :
    FusesKept s.minima (execVstg p d a v s) := by simp [execVstg]

@[simp] theorem execVgath_kept (p : Pred) (d a b : Code) (v : VMod) (s : State) :
    FusesKept s.minima (execVgath p d a b v s) := by simp [execVgath]

@[simp] theorem execVscat_kept (p : Pred) (d a b : Code) (v : VMod) (s : State) :
    FusesKept s.minima (execVscat p d a b v s) := by simp [execVscat]

@[simp] theorem execVbcst_kept (p : Pred) (d a : Code) (v : VMod) (s : State) :
    FusesKept s.minima (execVbcst p d a v s) := by simp [execVbcst]

@[simp] theorem execViota_kept (p : Pred) (d : Code) (v : VMod) (s : State) :
    FusesKept s.minima (execViota p d v s) := by simp [execViota]

@[simp] theorem execVperm_kept (p : Pred) (d a b : Code) (v : VMod) (s : State) :
    FusesKept s.minima (execVperm p d a b v s) := by simp [execVperm]

@[simp] theorem execVexp_kept (p : Pred) (d a : Code) (v : VMod) (s : State) :
    FusesKept s.minima (execVexp p d a v s) := by simp [execVexp]

@[simp] theorem execVlog_kept (p : Pred) (d a : Code) (v : VMod) (s : State) :
    FusesKept s.minima (execVlog p d a v s) := by simp [execVlog]

@[simp] theorem execVrcp_kept (p : Pred) (d a : Code) (v : VMod) (s : State) :
    FusesKept s.minima (execVrcp p d a v s) := by simp [execVrcp]

@[simp] theorem execVrsq_kept (p : Pred) (d a : Code) (v : VMod) (s : State) :
    FusesKept s.minima (execVrsq p d a v s) := by simp [execVrsq]

@[simp] theorem execVsin_kept (p : Pred) (d a : Code) (v : VMod) (s : State) :
    FusesKept s.minima (execVsin p d a v s) := by simp [execVsin]

@[simp] theorem execVcos_kept (p : Pred) (d a : Code) (v : VMod) (s : State) :
    FusesKept s.minima (execVcos p d a v s) := by simp [execVcos]

@[simp] theorem State.takeLate_minima (s : State) (c sl : Nat) (l : Late) : (s.takeLate c sl l).minima = s.minima := by
  unfold State.takeLate
  (repeat' split) <;> simp

@[simp] theorem execLateTrapEntry_kept (core slot : Nat) (s : State) :
    FusesKept s.minima (execLateTrapEntry core slot s) := by
  unfold execLateTrapEntry
  (repeat' split) <;> simp

end Sys2Proof.Machine
end

section
/-! The data of the engines: the fuses stay (R42). -/

namespace Sys2Proof.Machine

@[simp] theorem State.setJob_minima (s : State) (cl : Nat) (j : Job) : (s.setJob cl j).minima = s.minima := rfl

@[simp] theorem State.countEng_minima (s : State) (cl eng ev n : Nat) : (s.countEng cl eng ev n).minima = s.minima := by
  unfold State.countEng
  refine foldl_minima (fun t x => ?_) _ _
  dsimp only
  (repeat' split) <;> simp

@[simp] theorem State.traceJob_minima (s : State) (j : Job) : (s.traceJob j).minima = s.minima := by
  unfold State.traceJob
  simp [apply_ite State.minima]

@[simp] theorem State.histJob_minima (s : State) (cl : Nat) (j : Job) : (s.histJob cl j).minima = s.minima := by
  unfold State.histJob
  dsimp only
  split
  · rfl
  · split
    · rw [State.emit_minima]
      split
      · exact foldl_minima (fun _ _ => State.modCore_minima ..) _ _
      · exact foldl_minima (fun _ _ => State.modCore_minima ..) _ _
      · simp
      · simp
    · simp

@[simp] theorem State.collClear_minima (s : State) (j : Job) (st : JobSt) : (s.collClear j st).minima = s.minima := by
  unfold State.collClear; split <;> simp

@[simp] theorem State.jobEnd_minima (s : State) (cl : Nat) (j : Job) (st : JobSt) (e : JErr) :
    (s.jobEnd cl j st e).minima = s.minima := by
  unfold State.jobEnd
  simp only [State.cbldSettle_minima, State.vecSettle_minima, State.stir_minima]
  split
  · split <;> simp
  · simp

@[simp] theorem State.startJob_minima (s : State) (cl : Nat) (j : Job) : (s.startJob cl j).minima = s.minima := by
  unfold State.startJob; split <;> simp

theorem jobResult_minima {cl : Nat} {cost : Job → Nat} {r : JobRes} {m : KMap Nat} (h : JobRes.Keeps m r) :
    (jobResult cl cost r).minima = m := by
  cases r with
  | done j s => simpa [jobResult] using h
  | fault j e s => simpa [jobResult] using h
  | wait j st s => simpa [jobResult] using h

@[simp] theorem State.runJob_minima {s : State} {cl eng : Nat} {ch : Option Nat} {cmd : Nat} {cost : Job → Nat}
    {body : State → Job → JobRes} (hbody : ∀ t y1, JobRes.Keeps t.minima (body t y1)) :
    (s.runJob cl eng ch cmd cost body).minima = s.minima := by
  unfold State.runJob
  split
  · rfl
  next j _ =>
    split
    · rfl
    · have started : (if j.st = .queued then s.startJob cl j else s).minima = s.minima := by split <;> simp
      dsimp only
      split
      · exact jobResult_minima started
      · exact jobResult_minima (started ▸ hbody _ _)

theorem PairKept.of {ε α : Type} {m : KMap Nat} {r : Except (ε × State) (α × State)}
    (h : (∀ {x t}, r = .ok (x, t) → t.minima = m) ∧ ∀ {x t}, r = .error (x, t) → t.minima = m) : PairKept m r := by
  match r, h with
  | .ok _, h => exact h.1 rfl
  | .error _, h => exact h.2 rfl

/-- A step that answers a state, where it does not fail, has the fuses. -/
def OkKept {ε : Type} (m : KMap Nat) : Except ε State → Prop
  | .ok t => t.minima = m
  | .error _ => True

theorem OkKept.ok {ε : Type} {m : KMap Nat} {r : Except ε State} (hr : OkKept m r) {t : State} (h : r = .ok t) :
    t.minima = m := by
  subst h; exact hr

theorem OkKept.of {ε : Type} {m : KMap Nat} {r : Except ε State} (h : ∀ {t}, r = .ok t → t.minima = m) :
    OkKept m r := by
  cases r with
  | ok t => exact h rfl
  | error e => trivial

theorem foldl_ok_minima {ε β : Type} {m : KMap Nat} {f : Except ε State → β → Except ε State}
    (hf : ∀ r b, OkKept m r → OkKept m (f r b)) (l : List β) (r : Except ε State) (hr : OkKept m r) :
    OkKept m (l.foldl f r) := by
  induction l generalizing r with
  | nil => exact hr
  | cons b l ih => exact ih _ (hf r b hr)

theorem State.jphys_minima {s : State} {j : Job} {cl : Nat} {acc : Acc} {va n : Nat} :
    (∀ {x u}, (s.jphys j cl acc va n) = .ok (x, u) → u.minima = s.minima) ∧
    ∀ {x u}, (s.jphys j cl acc va n) = .error (x, u) → u.minima = s.minima := by
  suffices h : PairKept s.minima (s.jphys j cl acc va n) from ⟨h.ok, h.error⟩
  unfold State.jphys
  dsimp only
  split
  · rfl
  · refine foldl_except_minima (fun r q hr => ?_) _ _ rfl
    split
    · exact hr
    next l t =>
      have walked := t.translate_kept (.cluster cl) j.part q.1 acc (s.jobApp j)
      have ht : t.minima = s.minima := hr
      rw [ht] at walked
      split
      next h => exact walked.ok h
      next h =>
        have hu := walked.fault h
        split
        · exact (State.faultMsg_minima ..).trans hu
        · exact hu
      next h => exact (State.malformedRecord_minima ..).trans (walked.malformed h)
      · exact ht

@[simp] theorem State.physWrite_minima (s : State) (pno : Nat) (x0 : List (Nat × Nat)) (x1 : List Byte) :
    (s.physWrite pno x0 x1).minima = s.minima := by
  induction x0 generalizing s x1 with
  | nil => rfl
  | cons q l ih => rw [State.physWrite, ih, State.sliceWrite_minima]

@[simp] theorem State.physPoison_minima (s : State) (x0 : List (Nat × Nat)) (x1 : List Bool) :
    (s.physPoison x0 x1).minima = s.minima := by
  induction x0 generalizing s x1 with
  | nil => rfl
  | cons q l ih => rw [State.physPoison, ih, State.dramPoison_minima]

theorem State.jelems_minima {s : State} {j : Job} {cl : Nat} {pl : EPlace} {z : Nat} {decoded : Bool} {n off : Nat} :
    (∀ {x u}, (s.jelems j cl pl z decoded n off) = .ok (x, u) → u.minima = s.minima) ∧
    ∀ {x u}, (s.jelems j cl pl z decoded n off) = .error (x, u) → u.minima = s.minima := by
  unfold State.jelems
  split
  · split <;> simp
  · dsimp only
    split
    next e h =>
      obtain ⟨_, _⟩ := e
      simp [State.jphys_minima.2 h]
    next h => simp [State.jphys_minima.1 h]
  · simp

theorem State.jvals_minima {s : State} {j : Job} {cl : Nat} {pl : EPlace} {z n off : Nat} :
    (∀ {x u}, (s.jvals j cl pl z n off) = .ok (x, u) → u.minima = s.minima) ∧
    ∀ {x u}, (s.jvals j cl pl z n off) = .error (x, u) → u.minima = s.minima := by
  unfold State.jvals
  split
  next e h =>
    obtain ⟨_, _⟩ := e
    simp [State.jelems_minima.2 h]
  next h => split <;> simp [State.jelems_minima.1 h]

theorem State.jcomplex_minima {s : State} {j : Job} {cl : Nat} {pl : EPlace} {z n off : Nat} :
    (∀ {x u}, (s.jcomplex j cl pl z n off) = .ok (x, u) → u.minima = s.minima) ∧
    ∀ {x u}, (s.jcomplex j cl pl z n off) = .error (x, u) → u.minima = s.minima := by
  unfold State.jcomplex
  split
  next e h =>
    obtain ⟨_, _⟩ := e
    simp [State.jelems_minima.2 h]
  next h => split <;> simp [State.jelems_minima.1 h]

theorem State.jruns_minima {s : State} {α : Type} {rd : State → Nat → Except (JStop × State) (α × State)}
    {x0 : List Nat}
    (hrd : ∀ t o, PairKept t.minima (rd t o)) :
    (∀ {x u}, s.jruns rd x0 = .ok (x, u) → u.minima = s.minima) ∧
    ∀ {x u}, s.jruns rd x0 = .error (x, u) → u.minima = s.minima := by
  suffices h : ∀ l (s : State), PairKept s.minima (s.jruns rd l) from ⟨(h _ _).ok, (h _ _).error⟩
  intro l
  induction l with
  | nil => exact fun s => rfl
  | cons o l ih =>
    intro s
    rw [State.jruns]
    split
    next h => exact (hrd s o).error h
    next t h =>
      have rest := ih t
      rw [(hrd s o).ok h] at rest
      split
      next h => exact rest.error h
      next h => exact rest.ok h

@[simp] theorem refuseJob_kept (s : State) (j : Job) (sub : Nat) (adr : Word) :
    JobRes.Keeps s.minima (refuseJob s j sub adr) := rfl

theorem State.jstoreRaw_minima {s : State} {j : Job} {cl va e : Nat} {raws : List Nat} {bad : List Bool} :
    (∀ {u}, (s.jstoreRaw j cl va e raws bad) = .ok u → u.minima = s.minima) ∧
    ∀ {x u}, (s.jstoreRaw j cl va e raws bad) = .error (x, u) → u.minima = s.minima := by
  unfold State.jstoreRaw
  dsimp only
  split
  · simp
  · split
    next e2 h =>
      obtain ⟨_, _⟩ := e2
      simp [State.jphys_minima.2 h]
    next h => simp [apply_ite State.minima, State.jphys_minima.1 h]

end Sys2Proof.Machine
end

section
/-! The matrix and the transform engines: the fuses stay (R42). -/

namespace Sys2Proof.Machine

@[simp] theorem State.modTile_minima (s : State) (cl n : Nat) (f : Tile → Tile) :
    (s.modTile cl n f).minima = s.minima := rfl

@[simp] theorem State.mcnt_minima (s : State) (j : Job) (thr which old new : Nat) :
    (s.mcnt j thr which old new).minima = s.minima := by
  unfold State.mcnt; split <;> simp

@[simp] theorem State.tileCount_minima (s : State) (cl : Nat) (j : Job) (sat nan bso : Nat) :
    (s.tileCount cl j sat nan bso).minima = s.minima := by simp [State.tileCount]

@[simp] theorem State.tileAdd_minima (s : State) (cl : Nat) (j : Job) (g : Nat) (l : List (Nat × List Val)) :
    (s.tileAdd cl j g l).minima = s.minima := by simp [State.tileAdd]

theorem State.readW_minima {s : State} {j : Job} {cl : Nat} {pl : EPlace} {z kb : Nat} :
    (∀ {x u}, (s.readW j cl pl z kb) = .ok (x, u) → u.minima = s.minima) ∧
    ∀ {x u}, (s.readW j cl pl z kb) = .error (x, u) → u.minima = s.minima := by
  unfold State.readW
  have read := @State.jruns_minima s _ (fun s n => s.jvals j cl pl z (min j.k (128 * kb + 128) - 128 * kb)
    (n * j.ldw + 16 * fmtWidth (zfFmt z) * kb)) (List.range j.n) fun _ _ => .of State.jvals_minima
  dsimp only
  split
  next e h =>
    obtain ⟨_, _⟩ := e
    simp [read.2 h]
  next h => simp [read.1 h]

@[simp] theorem ldsBody_kept (cl : Nat) (s : State) (j : Job) : JobRes.Keeps s.minima (ldsBody cl s j) := by
  unfold ldsBody
  refine .ite rfl ?_
  split
  · rfl
  dsimp only
  split
  · rfl
  split
  next h => exact stopJob_kept (State.readW_minima.2 h)
  next h => exact (State.modCluster_minima ..).trans (State.readW_minima.1 h)

@[simp] theorem swapsBody_kept (cl : Nat) (s : State) (j : Job) : JobRes.Keeps s.minima (swapsBody cl s j) := by
  unfold swapsBody; split <;> simp

@[simp] theorem mmaBlocks_kept (cl : Nat) (xp wp : EPlace) (zx zw : Nat) (x0 : Nat) (s : State) (x2 : Job) :
    JobRes.Keeps s.minima (mmaBlocks cl xp wp zx zw x0 s x2) := by
  induction x0 generalizing s x2 with
  | zero => rfl
  | succ fuel ih =>
    rw [mmaBlocks]
    dsimp only
    split
    · rfl
    have weights : PairKept s.minima
      (if (decide (x2.donec = x2.kstart) && bit x2.flg 1 || x2.half) = true then .ok ([], s)
        else s.readW x2 cl wp zw x2.donec) := by
      split
      · rfl
      · exact .of State.readW_minima
    split
    next h => exact stopJob_kept (weights.error h)
    next cols t h =>
      have swapped : ∀ f : Cluster → Cluster, (if x2.half then t else t.modCluster cl f).minima = s.minima := fun f =>
        ite_minima (weights.ok h) ((State.modCluster_minima ..).trans (weights.ok h))
      split
      next h => exact stopJob_kept (((State.jruns_minima fun _ _ => .of State.jvals_minima).2 h).trans (swapped _))
      next h =>
        have rows := ((State.jruns_minima fun _ _ => .of State.jvals_minima).1 h).trans (swapped _)
        split
        · exact rows
        · exact .of_eq ((State.tileAdd_minima ..).trans rows) (ih ..)

@[simp] theorem mmaBody_kept (cl : Nat) (s : State) (j : Job) : JobRes.Keeps s.minima (mmaBody cl s j) := by
  unfold mmaBody
  extract_lets nb job
  clear_value nb job
  refine .ite rfl ?_
  split
  · rfl
  · rfl
  · extract_lets zx zw
    clear_value zx zw
    split
    · rfl
    · rfl
    · refine .ite (mmaBlocks_kept ..) (.ite rfl (.ite ?_ (.ite ?_ (.ite rfl (mmaBlocks_kept ..)))))
      · exact ite_minima (State.modTile_minima ..) rfl
      · exact .of_eq (State.modTile_minima ..) (mmaBlocks_kept ..)

@[simp] theorem cmmaGroups_kept (cl : Nat) (xp wp : EPlace) (zx zw h : Nat) (x0 : Nat) (s : State) (x2 : Job) :
    JobRes.Keeps s.minima (cmmaGroups cl xp wp zx zw h x0 s x2) := by
  induction x0 generalizing s x2 with
  | zero => rfl
  | succ fuel ih =>
    rw [cmmaGroups]
    dsimp only
    split
    · rfl
    split
    next h => exact stopJob_kept ((State.jruns_minima fun _ _ => .of State.jcomplex_minima).2 h)
    next h =>
      have rows := (State.jruns_minima fun _ _ => .of State.jcomplex_minima).1 h
      split
      next h => exact stopJob_kept (((State.jruns_minima fun _ _ => .of State.jcomplex_minima).2 h).trans rows)
      next h =>
        have cols := ((State.jruns_minima fun _ _ => .of State.jcomplex_minima).1 h).trans rows
        split
        · exact cols
        · exact .of_eq ((State.tileAdd_minima ..).trans cols) (ih ..)

@[simp] theorem cmmaBody_kept (cl : Nat) (s : State) (j : Job) : JobRes.Keeps s.minima (cmmaBody cl s j) := by
  unfold cmmaBody
  extract_lets job nb
  clear_value job nb
  refine .ite rfl ?_
  split
  · rfl
  · rfl
  · extract_lets zx zw b h begun go
    have goes : ∀ t, JobRes.Keeps t.minima (go t) := fun t => cmmaGroups_kept ..
    clear_value zx zw b h begun go
    refine .ite rfl (.ite rfl
      (.ite rfl (.ite rfl (.ite rfl (.ite (goes s) (.ite rfl (.ite ?_ (.ite ?_ (.ite rfl (goes s))))))))))
    · exact ite_minima (State.modTile_minima ..) rfl
    · exact .of_eq (State.modTile_minima ..) (goes _)
  · rfl
  · rfl

@[simp] theorem staRows_kept (cl : Nat) (pl : EPlace) (z : Nat) (x0 : Nat) (s : State) (x2 : Job) :
    JobRes.Keeps s.minima (staRows cl pl z x0 s x2) := by
  have cleared : ∀ (t : State) (i : Job),
    (if bit i.flg 0 then t.modTile cl i.acc fun t => t.clear i.m i.n else t).minima = t.minima :=
    fun t i => ite_minima (State.modTile_minima ..) rfl
  induction x0 generalizing s x2 with
  | zero => exact cleared s x2
  | succ fuel ih =>
    rw [staRows]
    dsimp only
    split
    · exact cleared s x2
    split
    · rfl
    split
    · split
      · rfl
      · exact .of_eq ((State.tileCount_minima ..).trans (State.setCore_minima ..)) (ih ..)
    · split
      next h => exact stopJob_kept (State.jstoreRaw_minima.2 h)
      next h => exact .of_eq ((State.tileCount_minima ..).trans (State.jstoreRaw_minima.1 h)) (ih ..)
    · rfl

@[simp] theorem staBody_kept (cl : Nat) (s : State) (j : Job) : JobRes.Keeps s.minima (staBody cl s j) := by
  unfold staBody
  dsimp only
  (repeat' split) <;> simp

@[simp] theorem aclrBody_kept (cl : Nat) (s : State) (j : Job) : JobRes.Keeps s.minima (aclrBody cl s j) := by
  unfold aclrBody; split <;> simp

@[simp] theorem mstatBody_kept (cl : Nat) (s : State) (j : Job) : JobRes.Keeps s.minima (mstatBody cl s j) := by
  unfold mstatBody
  refine .ite rfl (.ite rfl ?_)
  dsimp only
  split
  · rfl
  · exact (State.modTile_minima ..).trans (State.modCore_minima ..)
  · split
    next h => exact stopJob_kept (State.jphys_minima.2 h)
    next h => exact (State.modTile_minima ..).trans ((State.physWrite_minima ..).trans (State.jphys_minima.1 h))
  · rfl

@[simp] theorem execLds_kept (cluster : Nat) (s : State) : FusesKept s.minima (execLds cluster s) := by simp [execLds]

@[simp] theorem execMma_kept (cluster : Nat) (s : State) : FusesKept s.minima (execMma cluster s) := by simp [execMma]

@[simp] theorem execSta_kept (cluster : Nat) (s : State) : FusesKept s.minima (execSta cluster s) := by simp [execSta]

@[simp] theorem execAclr_kept (cluster : Nat) (s : State) : FusesKept s.minima (execAclr cluster s) := by
  simp [execAclr]

@[simp] theorem execSwaps_kept (cluster : Nat) (s : State) : FusesKept s.minima (execSwaps cluster s) := by
  simp [execSwaps]

@[simp] theorem execCmma_kept (cluster : Nat) (s : State) : FusesKept s.minima (execCmma cluster s) := by
  simp [execCmma]

@[simp] theorem execMstat_kept (cluster : Nat) (s : State) : FusesKept s.minima (execMstat cluster s) := by
  simp [execMstat]

@[simp] theorem xfmBlocks_kept (cl : Nat) (kind : XfmKind) (cx bx cw bw zx zw l : Nat) (x0 : Nat) (s : State)
    (x2 : Job) :
    JobRes.Keeps s.minima (xfmBlocks cl kind cx bx cw bw zx zw l x0 s x2) := by
  induction x0 generalizing s x2 with
  | zero => rfl
  | succ fuel ih =>
    rw [xfmBlocks]
    extract_lets b put
    have puts : ∀ t lanes, JobRes.Keeps (State.minima t) (put t lanes) := by
      intro t lanes
      dsimp only [put]
      split
      · rfl
      · exact ih ..
    clear_value put
    refine .ite rfl ?_
    split
    · split
      next h => exact stopJob_kept (State.jvals_minima.2 h)
      next h => exact .of_eq (State.jvals_minima.1 h) (puts ..)
    · split
      next h => exact stopJob_kept (State.jcomplex_minima.2 h)
      next h => exact .of_eq (State.jcomplex_minima.1 h) (puts ..)
    · split
      next h => exact stopJob_kept (State.jcomplex_minima.2 h)
      next h => exact .of_eq (State.jcomplex_minima.1 h) (puts ..)

@[simp] theorem xfmBody_kept (cl : Nat) (kind : XfmKind) (s : State) (j : Job) :
    JobRes.Keeps s.minima (xfmBody cl kind s j) := by
  unfold xfmBody
  extract_lets bad
  clear_value bad
  refine .ite rfl ?_
  split
  · rfl
  · rfl
  · exact .ite rfl (.ite rfl (.ite rfl (.ite rfl (.ite rfl (xfmBlocks_kept ..)))))
  · rfl
  · rfl

@[simp] theorem execFft_kept (cluster : Nat) (s : State) : FusesKept s.minima (execFft cluster s) := by simp [execFft]

@[simp] theorem execIfft_kept (cluster : Nat) (s : State) : FusesKept s.minima (execIfft cluster s) := by
  simp [execIfft]

@[simp] theorem execXact_kept (cluster : Nat) (s : State) : FusesKept s.minima (execXact cluster s) := by
  simp [execXact]

end Sys2Proof.Machine
end

section
/-! The copy engines and the collectives: the fuses stay (R42). -/

namespace Sys2Proof.Machine

@[simp] theorem State.jobSend_minima (s : State) (j : Job) (store : Bool) (ea : Word) (op : RemOp) :
    (s.jobSend j store ea op).minima = s.minima := by simp [State.jobSend]

@[simp] theorem State.jobAsk_kept {s : State} {j : Job} {ea : Word} {op : RemOp} {k : Nat → Job → JobRes}
    (hk : ∀ y0 y1, JobRes.Keeps s.minima (k y0 y1)) :
    JobRes.Keeps s.minima (s.jobAsk j ea op k) := by
  unfold State.jobAsk
  (repeat' split) <;> simp [hk]

@[simp] theorem State.copyRow_kept {s : State} {j : Job} {cl : Nat} {pl : EPlace} {z : Nat} {raw : Bool} {n off : Nat}
    {k : Row → Job → State → JobRes} (hk : ∀ y0 y1 t, JobRes.Keeps t.minima (k y0 y1 t)) :
    JobRes.Keeps s.minima (s.copyRow j cl pl z raw n off k) := by
  unfold State.copyRow
  split
  · exact State.jobAsk_kept fun v i => hk ..
  · split
    next h => exact stopJob_kept (State.jelems_minima.2 h)
    next h =>
      split
      · exact State.jelems_minima.1 h
      · exact .of_eq (State.jelems_minima.1 h) (hk ..)

@[simp] theorem State.delivered_minima (s : State) (cl : Nat) (j : Job) (n : Nat) :
    (s.delivered cl j n).minima = s.minima := rfl

@[simp] theorem State.putEnd_kept {s : State} {j : Job} {cl : Nat} {pl : EPlace} {z mcast off : Nat} {r : Row}
    {k : Job → State → JobRes} (hk : ∀ y0 t, JobRes.Keeps t.minima (k y0 t)) :
    JobRes.Keeps s.minima (s.putEnd j cl pl z mcast off r k) := by
  unfold State.putEnd
  split
  · dsimp only
    split
    · rfl
    next h =>
      refine .of_eq (OkKept.ok (foldl_ok_minima (fun r d hr => ?_) _ _ ?_) h) (hk ..)
      · split
        · trivial
        split
        · trivial
        · exact (State.setCore_minima ..).trans hr
      · rfl
  · extract_lets cod dst lanes raws
    clear_value raws
    split
    · rfl
    · refine .ite rfl ?_
      split
      next h => exact stopJob_kept (State.jstoreRaw_minima.2 h)
      next h => exact .of_eq (State.jstoreRaw_minima.1 h) (hk ..)
  · exact .ite rfl (State.jobSend_minima ..)

@[simp] theorem finishCopy_kept (j : Job) (s : State) : JobRes.Keeps s.minima (finishCopy j s) := by
  unfold finishCopy; split <;> simp

theorem State.chooseUnless_minima (c : Prop) [Decidable c] (s : State) :
    (if c then (0, s) else s.choose).2.minima = s.minima := by
  split
  · rfl
  · exact s.choose_minima

theorem copyRows_kept {cl : Nat} {wp : EPlace} {zw mcast : Nat} {off : Nat → Nat}
    {row : State → Job → Nat → (Row → Job → State → JobRes) → JobRes} {fuel : Nat} {s : State} {j : Job}
    (hrow : ∀ t i n k, (∀ r i t, JobRes.Keeps t.minima (k r i t)) → JobRes.Keeps t.minima (row t i n k)) :
    JobRes.Keeps s.minima (copyRows cl wp zw mcast off row fuel s j) := by
  induction fuel generalizing s j with
  | zero => exact finishCopy_kept ..
  | succ fuel ih =>
    rw [copyRows]
    split
    · rfl
    · extract_lets next
      have goesOn : ∀ n i t, JobRes.Keeps (State.minima t) (next n i t) := fun n i t =>
        .ite (State.chooseUnless_minima (i.m ≤ i.donec + 1) (t.delivered cl _ n))
          (.of_eq (State.chooseUnless_minima (i.m ≤ i.donec + 1) (t.delivered cl _ n)) ih)
      clear_value next
      exact .ite (goesOn ..) (.ite (finishCopy_kept ..)
        (hrow _ _ _ _ fun r i t => State.putEnd_kept fun i t => goesOn ..))

@[simp] theorem State.askZone_kept {s : State} {j : Job} {pl : EPlace} {n : Nat} {known : Nat}
    {k : Nat → Job → State → JobRes} (hk : ∀ y0 y1 t, JobRes.Keeps t.minima (k y0 y1 t)) :
    JobRes.Keeps s.minima (s.askZone j pl n known k) := by
  unfold State.askZone
  (repeat' split) <;> simp [hk]

@[simp] theorem cpyRows_kept (cl : Nat) (s : State) (j : Job) (xp wp : EPlace) :
    JobRes.Keeps s.minima (cpyRows cl s j xp wp) := by
  unfold cpyRows
  dsimp only
  split
  · rfl
  · exact .ite rfl (.ite rfl (.ite rfl (copyRows_kept fun t i n k hk => State.copyRow_kept hk)))

@[simp] theorem cpyBody_kept (cl : Nat) (s : State) (j : Job) : JobRes.Keeps s.minima (cpyBody cl s j) := by
  unfold cpyBody
  dsimp only
  (repeat' split) <;> simp

@[simp] theorem indexedBody_kept (cl : Nat) (scatter : Bool) (s : State) (j : Job) :
    JobRes.Keeps s.minima (indexedBody cl scatter s j) := by
  unfold indexedBody
  refine .ite rfl ?_
  split
  · rfl
  · rfl
  · refine .ite rfl (.ite rfl (.ite rfl (.ite rfl (copyRows_kept fun t i n k hk => ?_))))
    split
    · exact State.jobAsk_kept fun v i => hk ..
    · exact State.copyRow_kept hk

@[simp] theorem fillBody_kept (cl : Nat) (s : State) (j : Job) : JobRes.Keeps s.minima (fillBody cl s j) := by
  unfold fillBody
  refine .ite rfl ?_
  split
  · rfl
  · exact State.askZone_kept fun zw i t => .ite rfl (.ite rfl (copyRows_kept fun t i n k hk => hk ..))

@[simp] theorem execCpy_kept (cluster chan : Nat) (s : State) : FusesKept s.minima (execCpy cluster chan s) := by
  simp [execCpy]

@[simp] theorem execGthr_kept (cluster chan : Nat) (s : State) : FusesKept s.minima (execGthr cluster chan s) := by
  simp [execGthr]

@[simp] theorem execSctr_kept (cluster chan : Nat) (s : State) : FusesKept s.minima (execSctr cluster chan s) := by
  simp [execSctr]

@[simp] theorem execFill_kept (cluster chan : Nat) (s : State) : FusesKept s.minima (execFill cluster chan s) := by
  simp [execFill]

@[simp] theorem State.joinColl_minima (s : State) (cl : Nat) (j : Job) : (s.joinColl cl j).minima = s.minima := rfl

@[simp] theorem State.collFail_minima (s : State) (l : List (Nat × Job)) : (s.collFail l).minima = s.minima := by
  simp [State.collFail]

@[simp] theorem State.contribArrive_minima (s : State) (pno : Nat) (c : Contribution) :
    (s.contribArrive pno c).minima = s.minima := by
  unfold State.contribArrive
  simp [apply_ite State.minima]

@[simp] theorem State.contribsDrop_minima (s : State) (j : Job) (ranks : List Nat) :
    (s.contribsDrop j ranks).minima = s.minima := rfl

@[simp] theorem State.contribute_minima (s : State) (j : Job) (all : Bool) (cls : Nat) (vals : List Word)
    (bad : List Bool) :
    (s.contribute j all cls vals bad).2.minima = s.minima := by
  unfold State.contribute
  dsimp only
  refine List.foldlRecOn (motive := fun a : Job × State => a.2.minima = s.minima) _ _ rfl fun a ha d _ => ?_
  split
  · exact ite_minima ((State.contribArrive_minima ..).trans ha) ha
  · exact (State.jobSend_minima ..).trans ha

theorem State.collWrite_minima {s : State} {j : Job} {te : Bool} {at' cls : Nat} {vals : List Word} {bad : List Bool} :
    ∀ {u}, (s.collWrite j te at' cls vals bad) = .ok u → u.minima = s.minima := by
  unfold State.collWrite
  dsimp only
  (repeat' split) <;> simp

theorem State.collTake_minima {s : State} {j : Job} : ∀ {x u}, (s.collTake j) = .ok (x, u) → u.minima = s.minima := by
  unfold State.collTake
  dsimp only
  split
  · split
    · rintro _ _ ⟨⟩; rfl
    split
    · nofun
    split
    · nofun
    · rintro _ _ ⟨⟩
      exact (State.contribsDrop_minima ..).trans (State.setCore_minima ..)
  split
  · split
    · rintro _ _ ⟨⟩; rfl
    split
    · nofun
    next h =>
      rintro _ _ ⟨⟩
      exact (State.contribsDrop_minima ..).trans (State.collWrite_minima h)
  · split
    · nofun
    next h =>
      rintro _ _ ⟨⟩
      refine (State.contribsDrop_minima ..).trans (OkKept.ok (foldl_ok_minima (fun r d hr => ?_) _ _ ?_) h)
      · split
        · trivial
        split
        · exact hr
        · exact .of fun hu => (State.collWrite_minima hu).trans hr
      · rfl

@[simp] theorem collStep_kept {cl : Nat} {s : State} {j j' : Job} {more : Job → State → JobRes}
    (hmore : ∀ y0 t, JobRes.Keeps t.minima (more y0 t)) :
    JobRes.Keeps s.minima (collStep cl s j j' more) := by
  unfold collStep
  dsimp only
  split
  · exact .of_eq (State.delivered_minima ..) (finishCopy_kept ..)
  · exact .of_eq (State.delivered_minima ..) (hmore ..)

@[simp] theorem collGather_kept (cl : Nat) (s : State) (j : Job) : JobRes.Keeps s.minima (collGather cl s j) := by
  unfold collGather
  split
  · rfl
  split
  · exact finishCopy_kept ..
  split
  · split
    · rfl
    next h => exact .of_eq (State.collTake_minima h) (collStep_kept fun _ _ => rfl)
  · exact State.jobAsk_kept fun v i => collStep_kept fun i t => State.jobAsk_kept fun _ _ => rfl

@[simp] theorem collJoin_kept (cl : Nat) (s : State) (j : Job) (c base : Nat) (own : EPlace) :
    JobRes.Keeps s.minima (collJoin cl s j c base own) := by
  unfold collJoin
  split
  · rfl
  split
  next h => exact stopJob_kept (State.jelems_minima.2 h)
  next h =>
    have read := State.jelems_minima.1 h
    dsimp only
    split
    · exact (State.collFail_minima ..).trans ((State.contribute_minima ..).trans read)
    · exact .of_eq ((State.contribute_minima ..).trans ((State.setJob_minima ..).trans read)) (collGather_kept ..)

@[simp] theorem collOwn_kept (cl : Nat) (s : State) (j : Job) (c base : Nat) :
    JobRes.Keeps s.minima (collOwn cl s j c base) := by
  unfold collOwn
  dsimp only
  split <;> simp

@[simp] theorem collBody_kept (cl : Nat) (s : State) (j : Job) : JobRes.Keeps s.minima (collBody cl s j) := by
  unfold collBody
  split
  · exact collGather_kept ..
  split
  · rfl
  split
  · rfl
  · rfl
  · split
    · rfl
    split
    · rfl
    split
    · exact collOwn_kept ..
    split
    next h => exact stopJob_kept (State.jphys_minima.2 h)
    next h =>
      dsimp only
      split
      · exact State.jphys_minima.1 h
      · exact .of_eq ((State.joinColl_minima ..).trans (State.jphys_minima.1 h)) (collOwn_kept ..)
  · rfl
  · rfl

@[simp] theorem execAred_kept (cluster chan : Nat) (s : State) : FusesKept s.minima (execAred cluster chan s) := by
  simp [execAred]

@[simp] theorem execBcst_kept (cluster chan : Nat) (s : State) : FusesKept s.minima (execBcst cluster chan s) := by
  simp [execBcst]

@[simp] theorem execAgth_kept (cluster chan : Nat) (s : State) : FusesKept s.minima (execAgth cluster chan s) := by
  simp [execAgth]

@[simp] theorem execCollectiveContribution_kept (msg : Contribution) (s : State) :
    FusesKept s.minima (execCollectiveContribution msg s) := by
  unfold execCollectiveContribution
  dsimp only
  (repeat' split) <;> simp

@[simp] theorem execCollectiveTimeout_kept (cluster chan : Nat) (s : State) :
    FusesKept s.minima (execCollectiveTimeout cluster chan s) := by
  unfold execCollectiveTimeout; split <;> simp

end Sys2Proof.Machine
end

section
/-! The layers: the fuses stay (R42). -/

namespace Sys2Proof.Machine

@[simp] theorem State.rinkParts_minima {s : State} {acc : Acc} {x0 : List (Nat × Nat)}
    {x1 : List (Nat × Nat) → State → State} (hx1 : ∀ y0 t, (x1 y0 t).minima = t.minima) :
    (s.rinkParts acc x0 x1).minima = s.minima := by
  induction x0 generalizing s x1 with
  | nil => exact hx1 ..
  | cons q l ih =>
    rw [State.rinkParts]
    split
    · exact badAccess_minima ..
    split
    · exact badAccess_minima ..
    · exact State.xlateBy_minima (fun _ _ _ => badAccess_minima ..) fun pa t => ih fun y u => hx1 ..

@[simp] theorem State.rinkRange_minima {s : State} {acc : Acc} {va n : Nat} {k : List (Nat × Nat) → State → State}
    (hk : ∀ y0 t, (k y0 t).minima = t.minima) :
    (s.rinkRange acc va n k).minima = s.minima := State.rinkParts_minima hk

@[simp] theorem State.rinkPages_minima {s : State} {acc : Acc} {is : List Nat} {o : Nat} {x0 : List (Nat × Nat)}
    {x1 : List (Nat × Nat) → State → State} (hx1 : ∀ y0 t, (x1 y0 t).minima = t.minima) :
    (s.rinkPages acc is o x0 x1).minima = s.minima := by
  induction x0 generalizing s o x1 with
  | nil => exact hx1 ..
  | cons q l ih =>
    rw [State.rinkPages]
    have more : ∀ y (t : State), (State.rinkPages t acc is (o + q.2) l fun m s => x1 (y ++ m) s).minima = t.minima :=
      fun y t => ih fun m u => hx1 ..
    split
    · exact State.rinkParts_minima more
    · exact more ..

@[simp] theorem State.rinkTouch_minima {s : State} {acc : Acc} {va n : Nat} {is : List Nat}
    {k : List (Nat × Nat) → State → State} (hk : ∀ y0 t, (k y0 t).minima = t.minima) :
    (s.rinkTouch acc va n is k).minima = s.minima := State.rinkPages_minima hk

@[simp] theorem State.rinkBytes_minima {s : State} {va : Nat} {l : List (Nat × Nat)} {k : List Byte → State → State}
    (hk : ∀ y0 t, (k y0 t).minima = t.minima) :
    (s.rinkBytes va l k).minima = s.minima := by
  unfold State.rinkBytes
  simp [apply_ite State.minima, hk]

@[simp] theorem State.rinkStore_minima (s : State) (x0 : List (Nat × Nat)) (x1 : List Byte) :
    (s.rinkStore x0 x1).minima = s.minima := by
  induction x0 generalizing s x1 with
  | nil => rfl
  | cons q l ih => rw [State.rinkStore, ih, State.sliceWrite_minima]

@[simp] theorem State.withHandle_minima {s : State} {h : Word} {k : State → State} (hk : ∀ t, (k t).minima = t.minima) :
    (s.withHandle h k).minima = s.minima := by
  unfold State.withHandle
  split <;> simp [apply_ite State.minima, hk]

@[simp] theorem State.withDesc_minima {s : State} {acc : Acc} {x : Nat}
    {k : List Byte → List (Nat × Nat) → State → State} (hk : ∀ y0 y1 t, (k y0 y1 t).minima = t.minima) :
    (s.withDesc acc x k).minima = s.minima := by
  unfold State.withDesc
  simp [hk]

@[simp] theorem State.modRink_minima (s : State) (f : Rink → Rink) : (s.modRink f).minima = s.minima := by
  simp [State.modRink]

@[simp] theorem execLset_kept (p : Pred) (a b : Code) (sel : Fin 15) (s : State) :
    FusesKept s.minima (execLset p a b sel s) := by
  unfold execLset
  refine issue_kept (fun t => ?_)
  dsimp only
  refine State.withHandle_minima (by simp)

@[simp] theorem execLget_kept (p : Pred) (d a : Code) (sel : Fin 15) (s : State) :
    FusesKept s.minima (execLget p d a sel s) := by
  unfold execLget
  refine issue_kept (by simp)

@[simp] theorem execLsplit_kept (p : Pred) (a b c : Code) (s : State) : FusesKept s.minima (execLsplit p a b c s) := by
  unfold execLsplit
  refine issue_kept fun _ => State.withHandle_minima fun _ => State.withHandle_minima fun _ => ?_
  split
  · exact State.trap_minima ..
  refine State.releaseThen_minima fun _ => State.withDesc_minima fun _ _ _ => State.withDesc_minima fun _ _ _ =>
    State.rinkRange_minima fun _ _ => State.rinkBytes_minima fun _ _ => State.rinkTouch_minima fun _ _ =>
    State.rinkTouch_minima fun _ _ => State.rinkTouch_minima fun _ _ => State.rinkRange_minima ?_
  simp

@[simp] theorem execLmerge_kept (p : Pred) (a b : Code) (s : State) : FusesKept s.minima (execLmerge p a b s) := by
  unfold execLmerge
  refine issue_kept fun _ => State.withHandle_minima fun _ => State.withHandle_minima fun _ => ?_
  split
  · exact State.trap_minima ..
  refine State.releaseThen_minima fun _ => State.withDesc_minima fun _ _ _ => State.withDesc_minima fun _ _ _ => ?_
  split
  · exact State.trap_minima ..
  refine State.rinkRange_minima fun _ _ => State.rinkRange_minima fun _ _ => State.rinkBytes_minima fun _ _ =>
    State.rinkBytes_minima fun _ _ => State.rinkTouch_minima fun _ _ => State.rinkTouch_minima ?_
  simp

@[simp] theorem execLreq_kept (p : Pred) (d : Code) (s : State) : FusesKept s.minima (execLreq p d s) := by
  unfold execLreq
  refine issue_kept (fun t => ?_)
  dsimp only
  (repeat' split) <;> simp

@[simp] theorem execLreqWake_kept (part : Nat) (s : State) : FusesKept s.minima (execLreqWake part s) := by
  unfold execLreqWake; split <;> simp

@[simp] theorem State.surfaceRecord_minima (s : State) (pno x addr : Nat) :
    (s.surfaceRecord pno x addr).minima = s.minima := by simp [State.surfaceRecord]

@[simp] theorem execLdone_kept (p : Pred) (a : Code) (s : State) : FusesKept s.minima (execLdone p a s) := by
  unfold execLdone
  refine issue_kept (fun t => ?_)
  dsimp only
  refine State.withHandle_minima (fun u => ?_)
  refine State.releaseThen_minima (fun v => ?_)
  refine State.withDesc_minima (fun x y w => ?_)
  split
  · simp
  · split
    next h => simp [minima_of_eq (State.lodgeSee_minima ..) h]
    next h => simp [minima_of_eq (State.lodgeSee_minima ..) h]

@[simp] theorem execLepoch_kept (p : Pred) (a : Code) (s : State) : FusesKept s.minima (execLepoch p a s) := by
  unfold execLepoch
  simp [apply_ite State.minima]

end Sys2Proof.Machine
end

section
/-! The dispensers and what they deliver: the fuses stay (R42). -/

namespace Sys2Proof.Machine

@[simp] theorem State.wakeCore_minima (s : State) (c : Nat) (failed : List Nat) :
    (s.wakeCore c failed).minima = s.minima := by
  unfold State.wakeCore
  dsimp only
  split <;> simp

theorem State.newThread_minima {s : State} {c : Nat} {l : Launch} :
    ∀ {x u}, (s.newThread c l) = some (x, u) → u.minima = s.minima := by
  unfold State.newThread
  dsimp only
  split
  · simp
  · exact State.makeThread_minima

@[simp] theorem State.reside_minima (s : State) (c : Nat) (l : Launch) : (s.reside c l).minima = s.minima := rfl

@[simp] theorem State.acquireOn_minima (s : State) (c : Nat) (sc : Scope) : (s.acquireOn c sc).minima = s.minima := by
  unfold State.acquireOn; split <;> simp

@[simp] theorem State.deliver_minima (s : State) (c sl : Nat) (f : Frame) (sc : Scope) :
    (s.deliver c sl f sc).minima = s.minima := by
  unfold State.deliver
  split
  · rfl
  split
  · rfl
  next pno _ l _ =>
    extract_lets woken acquired held noted
    have notes : State.minima noted = s.minima := by
      calc noted.minima = woken.minima := by simp [noted, held, acquired]
        _ = s.minima := ite_minima (State.wakeCore_minima ..) rfl
    clear_value noted
    split
    · split
      · exact (State.emit_minima ..).trans notes
      · exact notes
    · exact notes

theorem State.placeIn_minima {s : State} {cs : List Nat} {l : Launch} {earlier : Bool} :
    ∀ {x y u}, (s.placeIn cs l earlier) = some (x, y, u) → u.minima = s.minima := by
  unfold State.placeIn
  split
  · simp
  · split
    · split <;> simp
    · split
      · simp
      · split
        next r hr =>
          split
          · simp
          · intro x y u hu
            obtain ⟨c, _, hc⟩ := List.exists_of_findSome?_eq_some hr
            obtain ⟨q, hq, rfl⟩ := Option.map_eq_some_iff.mp hc
            cases hu
            exact State.newThread_minima hq
        · simp

theorem State.unitRead_minima {s : State} {via : Via} {pno : Nat} {app : Bool} {va n : Nat} :
    ∀ {x u}, (s.unitRead via pno app va n) = .ok (x, u) → u.minima = s.minima := by
  unfold State.unitRead
  split
  · simp
  · split
    · dsimp only
      (repeat' split) <;> simp
    · split
      next h => split <;> simp [(State.translate_kept ..).ok h]
      next h => simp
      next h => simp
      next h => simp

@[simp] theorem State.spillLost_minima (s : State) (c pno : Nat) (l : Launch) (va : Word) (cause : Cause)
    (newest : Bool) :
    (s.spillLost c pno l va cause newest).minima = s.minima := by simp [State.spillLost]

@[simp] theorem State.spillRead_kept {s : State} {c pno : Nat} {l : Launch} {i : Nat} {newest : Bool}
    {k : DqEntry → State → Taken} (hk : ∀ y0 t, Taken.Keeps t.minima (k y0 t)) :
    Taken.Keeps s.minima (s.spillRead c pno l i newest k) := by
  unfold State.spillRead
  dsimp only
  split
  next h => exact .of_eq ((State.modCore_minima ..).trans (State.unitRead_minima h)) (hk ..)
  · split
    · exact (State.modCore_minima ..).trans (State.faultMsg_minima ..)
    · exact (State.spillLost_minima ..).trans (State.modCore_minima ..)
  · exact (State.spillLost_minima ..).trans ((State.malformedRecord_minima ..).trans (State.modCore_minima ..))
  · exact (State.spillLost_minima ..).trans (State.modCore_minima ..)

@[simp] theorem State.dqTake_kept (s : State) (c pno : Nat) (l : Launch) (sth : Option Nat) :
    Taken.Keeps s.minima (s.dqTake c pno l sth) := by
  unfold State.dqTake
  dsimp only
  split
  · simp
  · split
    · simp
    · split
      · simp
      · refine State.spillRead_kept (fun x t => ?_)
        split <;> simp

@[simp] theorem State.deliverEntry_minima (s : State) (c sl : Nat) (l : Launch) (e : DqEntry) :
    (s.deliverEntry c sl l e).minima = s.minima := by simp [State.deliverEntry]

@[simp] theorem State.deliverComing_minima (s : State) (c sl : Nat) (l : Launch) (f : Coming) :
    (s.deliverComing c sl l f).minima = s.minima := by simp [State.deliverComing]

@[simp] theorem State.setOut_minima (s : State) (c sl : Nat) (l : Launch) (kind : Nat) (f : Frame) :
    (s.setOut c sl l kind f).minima = s.minima := by
  unfold State.setOut
  dsimp only
  split
  next h => simp [minima_of_eq (State.choose_minima ..) h]
  next h => simp [minima_of_eq (State.choose_minima ..) h]

@[simp] theorem State.comesIn_minima (s : State) (c sl : Nat) (l : Launch) (f : Coming) :
    (s.comesIn c sl l f).minima = s.minima := by simp [State.comesIn]

@[simp] theorem State.askNext_minima (s : State) (c lid : Nat) (x0 : List Nat) :
    (s.askNext c lid x0).minima = s.minima := by
  unfold State.askNext; split <;> simp

@[simp] theorem execStealRequest_kept (core lid : Nat) (s : State) :
    FusesKept s.minima (execStealRequest core lid s) := by
  unfold execStealRequest
  (repeat' split) <;> simp

@[simp] theorem State.steal_kept (s : State) (v thief pno : Nat) (l : Launch) :
    Taken.Keeps s.minima (s.steal v thief pno l) := by
  unfold State.steal
  dsimp only
  split
  · split <;> simp
  · refine State.spillRead_kept (fun x t => ?_)
    (repeat' split) <;> simp

@[simp] theorem execStealServe_kept (core lid : Nat) (s : State) : FusesKept s.minima (execStealServe core lid s) := by
  unfold execStealServe
  split
  · split
    · simp
    · split
      next h => simp [(State.steal_kept ..).entry h]
      next h => simp
      next h => simp [(State.steal_kept ..).wait h]
      next h => simp [(State.steal_kept ..).lost h]
  · simp

@[simp] theorem execStealReplyArrival_kept (core lid : Nat) (s : State) :
    FusesKept s.minima (execStealReplyArrival core lid s) := by
  unfold execStealReplyArrival; split <;> simp

@[simp] theorem execStealRetryTimeout_kept (core lid : Nat) (s : State) :
    FusesKept s.minima (execStealRetryTimeout core lid s) := by
  unfold execStealRetryTimeout
  split
  next n _ =>
    have h : ((s.pass n).modCore core fun x => { x with steals := x.steals.del lid }).minima = s.minima := by simp
    exact h ▸ execStealRequest_kept core lid _
  · rfl

@[simp] theorem execSpawnRingWake_kept (core slot : Nat) (s : State) :
    FusesKept s.minima (execSpawnRingWake core slot s) := by
  unfold execSpawnRingWake
  dsimp only
  (repeat' split) <;> simp

@[simp] theorem execTerminationCount_kept (part lid : Nat) (s : State) :
    FusesKept s.minima (execTerminationCount part lid s) := by simp [execTerminationCount]

end Sys2Proof.Machine
end

section
/-! The engines' events and the work graphs: the fuses stay (R42). -/

namespace Sys2Proof.Machine

@[simp] theorem execEnq_kept (p : Pred) (d a : Code) (s : State) : FusesKept s.minima (execEnq p d a s) := by
  unfold execEnq
  simp [apply_ite State.minima]

@[simp] theorem State.enqAccept_minima (s : State) (c : Nat) (e : Entry) : (s.enqAccept c e).minima = s.minima := by
  unfold State.enqAccept
  simp only [State.cbldSettle_minima, State.enqDeliver_minima]
  exact (foldl_minima (fun _ _ => State.modCore_minima ..) _ _).trans (by simp)

@[simp] theorem execEnqAccept_kept (core slot : Nat) (s : State) : FusesKept s.minima (execEnqAccept core slot s) := by
  unfold execEnqAccept
  dsimp only
  (repeat' split) <;> simp

@[simp] theorem execWaitj_kept (p : Pred) (a : Code) (s : State) : FusesKept s.minima (execWaitj p a s) := by
  unfold execWaitj
  simp [apply_ite State.minima]

@[simp] theorem execWaitjWake_kept (core slot : Nat) (s : State) : FusesKept s.minima (execWaitjWake core slot s) := by
  unfold execWaitjWake
  (repeat' split) <;> simp

@[simp] theorem execPollj_kept (p : Pred) (d a : Code) (s : State) : FusesKept s.minima (execPollj p d a s) := by
  unfold execPollj
  simp [apply_ite State.minima]

@[simp] theorem execJstat_kept (p : Pred) (d a : Code) (s : State) : FusesKept s.minima (execJstat p d a s) := by
  unfold execJstat
  refine issue_kept (fun t => ?_)
  dsimp only
  (repeat' split) <;> simp

@[simp] theorem execZfset_kept (p : Pred) (a : Code) (idx : Fin 16) (s : State) :
    FusesKept s.minima (execZfset p a idx s) := by
  unfold execZfset
  simp [apply_ite State.minima]

@[simp] theorem execZfget_kept (p : Pred) (d : Code) (idx : Fin 16) (s : State) :
    FusesKept s.minima (execZfget p d idx s) := by simp [execZfget]

@[simp] theorem execSclw_kept (p : Pred) (a : Code) (idx : Fin 16) (s : State) :
    FusesKept s.minima (execSclw p a idx s) := by simp [execSclw]

@[simp] theorem execCbld_kept (p : Pred) (a : Code) (idx : Fin 8) (s : State) :
    FusesKept s.minima (execCbld p a idx s) := by
  unfold execCbld
  refine issue_kept (fun t => ?_)
  simp [apply_ite State.minima]

@[simp] theorem execChwp_kept (p : Pred) (d : Code) (idx : Fin 16) (s : State) :
    FusesKept s.minima (execChwp p d idx s) := by simp [execChwp]

@[simp] theorem execEngineBadcmd_kept (cluster eng : Nat) (s : State) :
    FusesKept s.minima (execEngineBadcmd cluster eng s) := by
  unfold execEngineBadcmd; split <;> simp

@[simp] theorem State.hcfgWrite_minima (s : State) (cl eng : Nat) (v : Word) :
    (s.hcfgWrite cl eng v).minima = s.minima := rfl

@[simp] theorem State.atKer_kept {s : State} {core slot : Nat} {f : State → State} (hf : ∀ t, (f t).minima = t.minima) :
    FusesKept s.minima (s.atKer core slot f) := by
  unfold State.atKer
  (repeat' split) <;> simp [hf]

@[simp] theorem execHcfgWrite_kept (core slot eng : Nat) (v : Word) (s : State) :
    FusesKept s.minima (execHcfgWrite core slot eng v s) := by
  unfold execHcfgWrite
  simp [apply_ite State.minima]

@[simp] theorem State.asThread_minima (s : State) (core slot : Nat) : (s.asThread core slot).minima = s.minima := rfl

@[simp] theorem State.releasedWrite_kept {s : State} {core slot : Nat} {sc : Scope} {k : State → State}
    (hk : ∀ t, (k t).minima = t.minima) :
    FusesKept s.minima (s.releasedWrite core slot sc k) := by
  unfold State.releasedWrite
  split
  · simp
  · split
    next h => simp [hk, minima_of_eq (State.release_minima ..) h]
    next h => simp [minima_of_eq (State.release_minima ..) h]

@[simp] theorem State.modDisp_minima (s : State) (cl : Nat) (f : Disp → Disp) : (s.modDisp cl f).minima = s.minima :=
  rfl

@[simp] theorem State.dispUnbind_minima (s : State) (cl : Nat) : (s.dispUnbind cl).minima = s.minima := by
  unfold State.dispUnbind
  simp [apply_ite State.minima]

@[simp] theorem State.drcfgWrite_minima (s : State) (core slot : Nat) (v : Word) :
    (s.drcfgWrite core slot v).minima = s.minima := by
  unfold State.drcfgWrite
  split <;> simp [apply_ite State.minima]

@[simp] theorem State.drbaseWrite_minima (s : State) (cl : Nat) (v : Word) : (s.drbaseWrite cl v).minima = s.minima :=
  rfl

@[simp] theorem State.dtailEffect_minima (s : State) (cl : Nat) (v : Word) : (s.dtailEffect cl v).minima = s.minima :=
  rfl

@[simp] theorem State.dtailWrite_minima (s : State) (cl : Nat) (v : Word) : (s.dtailWrite cl v).minima = s.minima := by
  unfold State.dtailWrite
  simp [apply_ite State.minima]

@[simp] theorem execDrcfgBind_kept (core slot : Nat) (v : Word) (s : State) :
    FusesKept s.minima (execDrcfgBind core slot v s) := by
  unfold execDrcfgBind; split <;> simp

@[simp] theorem execDrcfgUnbind_kept (core slot : Nat) (v : Word) (s : State) :
    FusesKept s.minima (execDrcfgUnbind core slot v s) := by
  unfold execDrcfgUnbind; split <;> simp

@[simp] theorem execDtailWrite_kept (core slot : Nat) (v : Word) (s : State) :
    FusesKept s.minima (execDtailWrite core slot v s) := by simp [execDtailWrite]

@[simp] theorem State.dispFatal_minima (s : State) (cl : Nat) (va : Nat) (cause : Cause) :
    (s.dispFatal cl va cause).minima = s.minima := by simp [State.dispFatal]

@[simp] theorem execDispenserDeliver_kept (cluster : Nat) (s : State) :
    FusesKept s.minima (execDispenserDeliver cluster s) := by
  unfold execDispenserDeliver
  dsimp only
  split
  · simp
  · split
    · simp
    · split
      · simp
      next h =>
        split
        · split <;> simp
        · simp
        · simp
        next h2 => simp [apply_ite State.minima, State.placeIn_minima h, State.unitRead_minima h2]

@[simp] theorem State.modGraph_minima (s : State) (cl : Nat) (f : WGraph → WGraph) :
    (s.modGraph cl f).minima = s.minima := rfl

@[simp] theorem State.withGraph_minima {s : State} {k : WGraph → State → State}
    (hk : ∀ y0 t, (k y0 t).minima = t.minima) :
    (s.withGraph k).minima = s.minima := by
  unfold State.withGraph
  split <;> simp [apply_ite State.minima, hk]

@[simp] theorem State.takeRecord_minima (s : State) (d : Code) (r k : Nat) (a : Word) :
    (s.takeRecord d r k a).minima = s.minima := by simp [State.takeRecord]

@[simp] theorem execWgalloc_kept (p : Pred) (d a : Code) (s : State) : FusesKept s.minima (execWgalloc p d a s) := by
  unfold execWgalloc
  refine issue_kept (fun t => ?_)
  dsimp only
  refine State.withGraph_minima (fun x u => ?_)
  (repeat' split) <;> simp

@[simp] theorem execWgemit_kept (p : Pred) (a b : Code) (s : State) : FusesKept s.minima (execWgemit p a b s) := by
  unfold execWgemit
  refine issue_kept (fun t => ?_)
  dsimp only
  refine State.withGraph_minima (fun x u => ?_)
  (repeat' split) <;> simp [apply_ite State.minima]

@[simp] theorem execWgtake_kept (p : Pred) (d a b : Code) (s : State) : FusesKept s.minima (execWgtake p d a b s) := by
  unfold execWgtake
  refine issue_kept (fun t => ?_)
  dsimp only
  refine State.withGraph_minima (fun x u => ?_)
  (repeat' split) <;> simp

@[simp] theorem State.freeRecord_minima (s : State) (cl r : Nat) : (s.freeRecord cl r).minima = s.minima := by
  unfold State.freeRecord
  dsimp only
  (repeat' split) <;> simp

@[simp] theorem execWgfree_kept (p : Pred) (a : Code) (s : State) : FusesKept s.minima (execWgfree p a s) := by
  unfold execWgfree
  refine issue_kept (fun t => ?_)
  dsimp only
  refine State.withGraph_minima (fun x u => ?_)
  split <;> simp [apply_ite State.minima]

theorem State.wgRead_minima {s : State} {pno a : Nat} {cl : Nat} :
    (∀ {x y u}, (s.wgRead pno a cl) = .ok (x, y, u) → u.minima = s.minima) ∧
    ∀ {x u}, (s.wgRead pno a cl) = .error (x, u) → u.minima = s.minima := by
  unfold State.wgRead
  split
  · simp
  · split
    · simp
    next h =>
      split
      · simp [State.lodgeRead_minima h]
      · split
        · simp [State.lodgeRead_minima h]
        next h2 => (repeat' split) <;> simp [State.lodgeRead_minima h, State.lodgeRead_minima h2]

@[simp] theorem State.wgdaWrite_minima (s : State) (core slot : Nat) (v : Word) :
    (s.wgdaWrite core slot v).minima = s.minima := by
  unfold State.wgdaWrite
  split
  · dsimp only
    split
    · split <;> simp [apply_ite State.minima]
    · split
      next h => simp [State.wgRead_minima.2 h]
      next h => simp [State.wgRead_minima.1 h]
  · simp

@[simp] theorem execWgdaBind_kept (core slot : Nat) (v : Word) (s : State) :
    FusesKept s.minima (execWgdaBind core slot v s) := by
  unfold execWgdaBind; split <;> simp

@[simp] theorem execWgdaUnbind_kept (core slot : Nat) (s : State) :
    FusesKept s.minima (execWgdaUnbind core slot s) := by simp [execWgdaUnbind]

@[simp] theorem execWgBatchTimeout_kept (cluster node : Nat) (s : State) :
    FusesKept s.minima (execWgBatchTimeout cluster node s) := by
  unfold execWgBatchTimeout
  (repeat' split) <;> simp

@[simp] theorem State.batchTo_minima (s : State) (cl c sl : Nat) (l : Launch) (g : WGraph) (b : Batch) :
    (s.batchTo cl c sl l g b).minima = s.minima := by simp [State.batchTo]

@[simp] theorem execWgBatchDeliver_kept (cluster : Nat) (s : State) :
    FusesKept s.minima (execWgBatchDeliver cluster s) := by
  unfold execWgBatchDeliver
  split
  · simp
  · split
    · dsimp only
      split
      next h => simp [State.placeIn_minima h]
      · simp
    · simp

@[simp] theorem State.holdPay_minima (s : State) (cl n lid pno : Nat) : (s.holdPay cl n lid pno).minima = s.minima :=
  rfl

@[simp] theorem execPaya_kept (p : Pred) (d : Code) (s : State) : FusesKept s.minima (execPaya p d s) := by
  unfold execPaya
  refine issue_kept (fun t => ?_)
  dsimp only
  (repeat' split) <;> simp

@[simp] theorem execPayaWake_kept (cluster : Nat) (s : State) : FusesKept s.minima (execPayaWake cluster s) := by
  unfold execPayaWake
  dsimp only
  (repeat' split) <;> simp

@[simp] theorem execPayp_kept (p : Pred) (a b c : Code) (s : State) : FusesKept s.minima (execPayp p a b c s) := by
  unfold execPayp
  refine issue_kept (fun t => ?_)
  dsimp only
  (repeat' split) <;> simp

@[simp] theorem State.payTo_minima (s : State) (cl c sl : Nat) (l : Launch) (n : Nat) (q : PaySlot) :
    (s.payTo cl c sl l n q).minima = s.minima := by simp [State.payTo]

@[simp] theorem execPayloadFrameDeliver_kept (cluster : Nat) (s : State) :
    FusesKept s.minima (execPayloadFrameDeliver cluster s) := by
  unfold execPayloadFrameDeliver
  split
  · simp
  · split
    · simp
    · dsimp only
      split
      next h => simp [State.placeIn_minima h]
      · simp

@[simp] theorem execThreadCreate_kept (core lid : Nat) (s : State) :
    FusesKept s.minima (execThreadCreate core lid s) := by
  unfold execThreadCreate
  split
  · simp
  · split
    · simp
    · split
      · simp
      · dsimp only
        split
        next h =>
          split
          next h2 => simp [(State.dqTake_kept ..).entry h, State.newThread_minima h2]
          · simp [(State.dqTake_kept ..).entry h]
        next h => simp [(State.dqTake_kept ..).wait h]
        next h => simp [(State.dqTake_kept ..).lost h]
        next h =>
          split
          · simp
          · split
            · split
              next h2 => simp [State.newThread_minima h2]
              · simp
            · simp

@[simp] theorem execFrameDelivery_kept (core slot : Nat) (s : State) :
    FusesKept s.minima (execFrameDelivery core slot s) := by
  unfold execFrameDelivery
  split
  · split
    · simp
    · split
      · split <;> simp
      · split
        · simp
        · dsimp only
          split
          next h => simp [(State.dqTake_kept ..).entry h]
          next h => simp [(State.dqTake_kept ..).wait h]
          next h => simp [(State.dqTake_kept ..).lost h]
          next h => (repeat' split) <;> simp
  · simp

end Sys2Proof.Machine
end

section
/-! Wakes, flights that land and time-outs: the fuses stay (R42). -/

namespace Sys2Proof.Machine

@[simp] theorem State.landed_minima (s : State) (id : Nat) : (s.landed id).minima = s.minima := rfl

@[simp] theorem execChannelWake_kept (core slot : Nat) (s : State) :
    FusesKept s.minima (execChannelWake core slot s) := by
  unfold execChannelWake
  dsimp only
  (repeat' split) <;> simp

@[simp] theorem execProxyBatchTimeout_kept (core chan : Nat) (s : State) :
    FusesKept s.minima (execProxyBatchTimeout core chan s) := by
  unfold execProxyBatchTimeout
  dsimp only
  split <;> simp

@[simp] theorem State.proxyPush_minima (s : State) (core chan : Nat) (src : Source) (v : Word) :
    (s.proxyPush core chan src v).minima = s.minima := by
  unfold State.proxyPush
  dsimp only
  (repeat' split) <;> simp

@[simp] theorem State.setFlight_minima (s : State) (id : Nat) (w : Flight) : (s.setFlight id w).minima = s.minima := rfl

@[simp] theorem execProxyDelivery_kept (id : Nat) (s : State) : FusesKept s.minima (execProxyDelivery id s) := by
  unfold execProxyDelivery
  dsimp only
  (repeat' split) <;> simp

@[simp] theorem State.credited_minima (s : State) (c ch gen n : Nat) : (s.credited c ch gen n).minima = s.minima := by
  unfold State.credited
  dsimp only
  split <;> simp [apply_ite State.minima]

@[simp] theorem execProxyCreditReturn_kept (id : Nat) (s : State) :
    FusesKept s.minima (execProxyCreditReturn id s) := by
  unfold execProxyCreditReturn
  (repeat' split) <;> simp

@[simp] theorem execLdfWake_kept (core slot : Nat) (s : State) : FusesKept s.minima (execLdfWake core slot s) := by
  unfold execLdfWake
  dsimp only
  split
  · split
    · rfl
    split
    · rfl
    · exact foldr_minima (fun _ _ => State.wakeWith_minima ..) _ _
  · rfl

@[simp] theorem execKwaitWake_kept (core slot : Nat) (s : State) : FusesKept s.minima (execKwaitWake core slot s) := by
  unfold execKwaitWake
  dsimp only
  (repeat' split) <;> simp

@[simp] theorem execParkExpire_kept (core slot : Nat) (s : State) :
    FusesKept s.minima (execParkExpire core slot s) := by
  unfold execParkExpire
  (repeat' split) <;> simp

@[simp] theorem execStoreBufferDrain_kept (core pos : Nat) (s : State) :
    FusesKept s.minima (execStoreBufferDrain core pos s) := by
  unfold execStoreBufferDrain
  dsimp only
  (repeat' split) <;> simp

@[simp] theorem execSliceAtomic_kept (id : Nat) (s : State) : FusesKept s.minima (execSliceAtomic id s) := by
  unfold execSliceAtomic
  (repeat' split) <;> simp

@[simp] theorem execStoreAck_kept (id : Nat) (s : State) : FusesKept s.minima (execStoreAck id s) := by
  unfold execStoreAck
  (repeat' split) <;> simp

@[simp] theorem execReleaseProbeEcho_kept (core slot slice : Nat) (s : State) :
    FusesKept s.minima (execReleaseProbeEcho core slot slice s) := by
  unfold execReleaseProbeEcho
  (repeat' split) <;> simp

@[simp] theorem execWatchWake_kept (core slot : Nat) (s : State) : FusesKept s.minima (execWatchWake core slot s) := by
  unfold execWatchWake
  (repeat' split) <;> simp

@[simp] theorem execWatchPoll_kept (core slot : Nat) (s : State) : FusesKept s.minima (execWatchPoll core slot s) := by
  unfold execWatchPoll
  (repeat' split) <;> simp

@[simp] theorem execJoinwWake_kept (core slot : Nat) (s : State) : FusesKept s.minima (execJoinwWake core slot s) := by
  unfold execJoinwWake; split <;> simp

@[simp] theorem State.stopCore_minima (s : State) (c : Nat) (m : Nat × Nat × Nat) (sc : Scope) (me : Nat × Nat) :
    (s.stopCore c m sc me).minima = s.minima := by
  unfold State.stopCore
  simp [apply_ite State.minima]

@[simp] theorem State.stopAll_minima (s : State) (pno core sth : Nat) (sc : Scope) :
    (s.stopAll pno core sth sc).minima = s.minima := by simp [State.stopAll]

@[simp] theorem State.stopRelEnd_minima (s : State) (mark : Nat × Nat × Nat) :
    (s.stopRelEnd mark).minima = s.minima := rfl

@[simp] theorem execStopwComplete_kept (core slot : Nat) (s : State) :
    FusesKept s.minima (execStopwComplete core slot s) := by
  unfold execStopwComplete
  dsimp only
  (repeat' split) <;> simp

@[simp] theorem execTlbinvComplete_kept (core slot : Nat) (s : State) :
    FusesKept s.minima (execTlbinvComplete core slot s) := by
  unfold execTlbinvComplete; split <;> simp

@[simp] theorem execTableWalk_kept (core : Nat) (va : Word) (acc : Nat) (s : State) :
    FusesKept s.minima (execTableWalk core va acc s) := by
  unfold execTableWalk
  dsimp only
  split
  · simp
  · split
    · simp
    · split
      next h => simp [(State.translate_kept ..).ok h]
      next h => simp [(State.translate_kept ..).malformed h]
      next h => simp [(State.translate_kept ..).fault h]
      next h => simp

@[simp] theorem execCoreSleep_kept (core : Nat) (s : State) : FusesKept s.minima (execCoreSleep core s) := by
  unfold execCoreSleep; split <;> simp

@[simp] theorem execCoreWake_kept (core : Nat) (failed : List Nat) (s : State) :
    FusesKept s.minima (execCoreWake core failed s) := by
  unfold execCoreWake; split <;> simp

end Sys2Proof.Machine
end

section
/-! The fault ring: the fuses stay (R42). -/

namespace Sys2Proof.Machine

@[simp] theorem State.dropTlb_minima (s : State) (tsid : Nat) (p : TlbEntry → Bool) :
    (s.dropTlb tsid p).minima = s.minima := rfl

@[simp] theorem State.dropWalk_minima (s : State) (tsid : Nat) (p : WalkEntry → Bool) :
    (s.dropWalk tsid p).minima = s.minima := rfl

@[simp] theorem State.invalidatePage_minima (s : State) (tsid va : Nat) :
    (s.invalidatePage tsid va).minima = s.minima := rfl

@[simp] theorem State.invalidateAll_minima (s : State) (tsid : Nat) : (s.invalidateAll tsid).minima = s.minima := rfl

@[simp] theorem State.resolveThreads_minima (s : State) (c page : Nat) (acc : Acc) (fatal : Option Cause) :
    (s.resolveThreads c page acc fatal).minima = s.minima := by
  unfold State.resolveThreads
  refine foldl_minima (fun t x => ?_) _ _
  split <;> simp [apply_ite State.minima]

@[simp] theorem State.resolveRefills_minima (s : State) (c pno page : Nat) (acc : Acc) (fatal : Option Cause) :
    (s.resolveRefills c pno page acc fatal).minima = s.minima := by
  unfold State.resolveRefills
  refine foldl_minima (fun t w => ?_) _ _
  split
  · rfl
  · dsimp only
    (repeat' split) <;> simp

@[simp] theorem State.resolve_minima (s : State) (pno page : Nat) (acc : Acc) (fatal : Option Cause) :
    (s.resolve pno page acc fatal).minima = s.minima := by
  unfold State.resolve
  refine (foldl_minima (fun t cl => ?_) _ _).trans ((foldl_minima (fun t c => ?_) _ _).trans ?_)
  · dsimp only
    (repeat' split) <;> simp
  · simp
  · split <;> simp

@[simp] theorem State.writeRecord_minima (s : State) (pno : Nat) (m : FMsg) :
    (s.writeRecord pno m).minima = s.minima := by
  unfold State.writeRecord
  dsimp only
  split
  · simp
  next h => simp [apply_ite State.minima, State.lodgeRecord_minima h]

@[simp] theorem State.writeHeld_minima (s : State) (pno : Nat) (x0 : List FMsg) :
    (s.writeHeld pno x0).minima = s.minima := by
  induction x0 generalizing s with
  | nil => rfl
  | cons m l ih =>
    rw [State.writeHeld]
    split
    · rw [ih, State.writeRecord_minima]
    · rfl

@[simp] theorem execFaultMessage_kept (part pos : Nat) (s : State) :
    FusesKept s.minima (execFaultMessage part pos s) := by
  unfold execFaultMessage
  dsimp only
  (repeat' split) <;> simp

@[simp] theorem State.frheadSet_minima (s : State) (pno : Nat) (v : Word) : (s.frheadSet pno v).minima = s.minima := by
  unfold State.frheadSet
  simp [apply_ite State.minima]

@[simp] theorem State.frOff_minima (s : State) (pno : Nat) : (s.frOff pno).minima = s.minima := by simp [State.frOff]

@[simp] theorem State.frcfgWrite_minima (s : State) (pno : Nat) (v : Word) :
    (s.frcfgWrite pno v).minima = s.minima := by
  unfold State.frcfgWrite
  simp [apply_ite State.minima]

@[simp] theorem State.frbaseWrite_minima (s : State) (pno : Nat) (v : Word) :
    (s.frbaseWrite pno v).minima = s.minima := by simp [State.frbaseWrite]

@[simp] theorem State.fresWrite_minima (s : State) (pno seq act : Nat) :
    (s.fresWrite pno seq act).minima = s.minima := by
  unfold State.fresWrite
  (repeat' split) <;> simp

@[simp] theorem State.hostSeen_minima (s : State) (pno : Nat) : (s.hostSeen pno).minima = s.minima := rfl

@[simp] theorem State.hostPart_kept {s : State} {pno : Nat} {f : State → State} (hf : ∀ t, (f t).minima = t.minima) :
    FusesKept s.minima (s.hostPart pno f) := by
  unfold State.hostPart
  (repeat' split) <;> simp [hf]

@[simp] theorem execFrcfgEnable_kept (part : Nat) (v : Word) (s : State) :
    FusesKept s.minima (execFrcfgEnable part v s) := by
  unfold execFrcfgEnable; split <;> simp

@[simp] theorem execFrcfgDisable_kept (part : Nat) (v : Word) (s : State) :
    FusesKept s.minima (execFrcfgDisable part v s) := by
  unfold execFrcfgDisable; split <;> simp

@[simp] theorem execFresRetry_kept (part seq : Nat) (s : State) : FusesKept s.minima (execFresRetry part seq s) := by
  simp [execFresRetry]

@[simp] theorem execFresFatalPageflt_kept (part seq : Nat) (s : State) :
    FusesKept s.minima (execFresFatalPageflt part seq s) := by simp [execFresFatalPageflt]

@[simp] theorem execFresFatalProt_kept (part seq : Nat) (s : State) :
    FusesKept s.minima (execFresFatalProt part seq s) := by simp [execFresFatalProt]

@[simp] theorem execFrheadWrite_kept (part : Nat) (v : Word) (s : State) :
    FusesKept s.minima (execFrheadWrite part v s) := by simp [execFrheadWrite]

end Sys2Proof.Machine
end

section
/-! The links between devices, power and heat: the fuses stay (R42). -/

namespace Sys2Proof.Machine

@[simp] theorem State.modPort_minima (s : State) (p : Nat) (f : Port → Port) : (s.modPort p f).minima = s.minima := rfl

@[simp] theorem execDevnumWrite_kept (v : Word) (s : State) : FusesKept s.minima (execDevnumWrite v s) := by
  unfold execDevnumWrite; split <;> simp

@[simp] theorem State.reroutePkts_minima (s : State) (port : Nat) : (s.reroutePkts port).minima = s.minima :=
  LodgeWork.minima (s.reroutePkts_work ..)

@[simp] theorem State.reroute_minima (s : State) (port : Nat) : (s.reroute port).minima = s.minima := by
  unfold State.reroute
  refine (foldl_minima (fun t f => ?_) _ _).trans (State.reroutePkts_minima ..)
  dsimp only
  split
  · rfl
  split
  next h =>
    have picked := State.pickPort_minima h
    exact picked
  · rfl

@[simp] theorem execGpsRetrain_kept (port : Nat) (s : State) : FusesKept s.minima (execGpsRetrain port s) := by
  unfold execGpsRetrain; split <;> simp

@[simp] theorem execLinkTrainingDone_kept (port peer vero : Nat) (s : State) :
    FusesKept s.minima (execLinkTrainingDone port peer vero s) := by
  unfold execLinkTrainingDone; split <;> simp

@[simp] theorem execPortDown_kept (port : Nat) (s : State) : FusesKept s.minima (execPortDown port s) := by
  unfold execPortDown; split <;> simp

@[simp] theorem execGondolaForward_kept (pkt : GPacket) (s : State) :
    FusesKept s.minima (execGondolaForward pkt s) := by
  unfold execGondolaForward
  split
  · simp
  · split
    · simp
    next h => simp [State.pickPort_minima h]

@[simp] theorem State.remoteCollect_minima (s : State) (c off tag : Nat) (desc : List Word) (cmd rank no k scl : Nat)
    (te : Bool) (mode : Nat) (pieces : List Nat) :
    (s.remoteCollect c off tag desc cmd rank no k scl te mode pieces).2.minima = s.minima := by
  unfold State.remoteCollect
  dsimp only
  split
  · simp
  · split
    · simp
    next h => simp [State.collTake_minima h]

@[simp] theorem State.remoteDo_minima (s : State) (pno c off : Nat) (req : RemReq) :
    (s.remoteDo pno c off req).2.minima = s.minima := by
  unfold State.remoteDo
  dsimp only
  (repeat' split) <;> simp

@[simp] theorem State.refusedHere_minima (s : State) (core addr : Nat) :
    (s.refusedHere core addr).minima = s.minima := by
  unfold State.refusedHere; split <;> simp

@[simp] theorem execRemoteAccessArrival_kept (req : RemReq) (s : State) :
    FusesKept s.minima (execRemoteAccessArrival req s) := by
  unfold execRemoteAccessArrival
  split
  · dsimp only
    split
    next h => simp [minima_of_eq (State.remoteDo_minima ..) h]
    next h => simp [minima_of_eq (State.remoteDo_minima ..) h]
  · simp [apply_ite State.minima]

@[simp] theorem State.postedDone_minima (s : State) (f : Sent) (a : Word) (r : Outcome26) :
    (s.postedDone f a r).minima = s.minima := by
  unfold State.postedDone; split <;> simp

@[simp] theorem State.modJob_minima (s : State) (core eng seq : Nat) (f : Job → Job) :
    (s.modJob core eng seq f).minima = s.minima := rfl

@[simp] theorem State.outcome_minima (s : State) (f : Sent) (r : Outcome26) : (s.outcome f r).minima = s.minima := by
  unfold State.outcome
  dsimp only
  (repeat' split) <;> simp

@[simp] theorem execRemoteReply_kept (id : Nat) (reply : RemReply) (s : State) :
    FusesKept s.minima (execRemoteReply id reply s) := by
  unfold execRemoteReply
  (repeat' split) <;> simp

@[simp] theorem execRemoteAccessTimeout_kept (id : Nat) (s : State) :
    FusesKept s.minima (execRemoteAccessTimeout id s) := by
  unfold execRemoteAccessTimeout
  (repeat' split) <;> simp

@[simp] theorem execVfConfigAccess_kept (vf : Nat) (s : State) : FusesKept s.minima (execVfConfigAccess vf s) := by
  unfold execVfConfigAccess; split <;> simp

@[simp] theorem State.apertureRecord_minima (s : State) (pno va : Nat) (e : LodgeErr) :
    (s.apertureRecord pno va e).minima = s.minima := by
  unfold State.apertureRecord; split <;> simp

@[simp] theorem execApertureRead_kept (part off size : Nat) (s : State) :
    FusesKept s.minima (execApertureRead part off size s) := by
  unfold execApertureRead
  split
  · simp
  · split
    · simp
    · split
      · simp
      · dsimp only
        split
        next h => simp [State.lodgeRead_minima h]
        · simp

@[simp] theorem execApertureWrite_kept (part off : Nat) (data : List Byte) (s : State) :
    FusesKept s.minima (execApertureWrite part off data s) := by
  unfold execApertureWrite
  split
  · rfl
  · dsimp only
    split
    · simp
    · split
      · simp
      · split
        next h =>
          rw [fusesKept_next, foldl_fst_minima fun t q => by simp]
          simp [State.lodgeParts_minima h]
        · simp

@[simp] theorem execPowerThrottleStart_kept (s : State) : FusesKept s.minima (execPowerThrottleStart s) := by
  unfold execPowerThrottleStart; split <;> simp

@[simp] theorem execPowerThrottleEnd_kept (s : State) : FusesKept s.minima (execPowerThrottleEnd s) := rfl

end Sys2Proof.Machine
end

section
/-! Lodge: its queues, its packets, the launches and their bindings: the fuses stay (R42). -/

namespace Sys2Proof.Machine

@[simp] theorem State.readSplice_minima (s : State) (pno : Nat) (l : Launch) :
    (s.readSplice pno l).2.minima = s.minima := by
  unfold State.readSplice
  dsimp only
  split
  · simp
  · split
    next h => simp [minima_of_eq (State.lodgeSee_minima ..) h]
    next h =>
      split
      · simp [minima_of_eq (State.lodgeSee_minima ..) h]
      · split
        next h2 => simp [minima_of_eq (State.lodgeSee_minima ..) h, minima_of_eq (State.lodgeSee_minima ..) h2]
        next h2 =>
          split
          · simp [minima_of_eq (State.lodgeSee_minima ..) h, minima_of_eq (State.lodgeSee_minima ..) h2]
          · split
            next h3 =>
              simp [minima_of_eq (State.lodgeSee_minima ..) h, minima_of_eq (State.lodgeSee_minima ..) h2,
                minima_of_eq (State.lodgeSee_minima ..) h3]
            next h3 =>
              simp [minima_of_eq (State.lodgeSee_minima ..) h, minima_of_eq (State.lodgeSee_minima ..) h2,
                minima_of_eq (State.lodgeSee_minima ..) h3]

theorem State.bind_minima {s : State} {pno : Nat} {lp lc : Launch} {rem : Bool} :
    (∀ {x u}, (s.bind pno lp lc rem) = .ok (x, u) → u.minima = s.minima) ∧
    ∀ {x u}, (s.bind pno lp lc rem) = .error (x, u) → u.minima = s.minima := by
  suffices h : PairKept s.minima (s.bind pno lp lc rem) from ⟨h.ok, h.error⟩
  unfold State.bind
  split
  next h => exact minima_of_eq (State.readSplice_minima ..) h
  next h =>
    have first := minima_of_eq (State.readSplice_minima ..) h
    split
    next h => exact (minima_of_eq (State.readSplice_minima ..) h).trans first
    next h =>
      have second := (minima_of_eq (State.readSplice_minima ..) h).trans first
      dsimp only
      iterate 11
        refine PairKept.ite second ?_
      exact second

@[simp] theorem State.sliceParts_minima (s : State) (pno : Nat) (x0 : List (Nat × Nat)) (x1 : List Byte) :
    (s.sliceParts pno x0 x1).minima = s.minima := LodgeWork.minima (s.sliceParts_work ..)

theorem State.lodgePut_minima {s : State} {pno va : Nat} {bs : List Byte} {clean : Bool} :
    ∀ {u}, (s.lodgePut pno va bs clean) = .ok u → u.minima = s.minima := by
  unfold State.lodgePut
  split
  · simp
  next h => split <;> simp [State.lodgeParts_minima h]

@[simp] theorem State.modQueue_minima (s : State) (pno q : Nat) (f : Queue → Queue) :
    (s.modQueue pno q f).minima = s.minima := by simp [State.modQueue]

@[simp] theorem State.dirtyMark_minima (s : State) (pno q a : Nat) : (s.dirtyMark pno q a).minima = s.minima :=
  LodgeWork.minima (s.dirtyMark_work ..)

@[simp] theorem State.qcfgWrite_minima (s : State) (pno q : Nat) (v : Word) :
    (s.qcfgWrite pno q v).minima = s.minima := by
  unfold State.qcfgWrite
  simp [apply_ite State.minima]

theorem State.slotWords_minima {s : State} {pno q k : Nat} :
    ∀ {x u}, (s.slotWords pno q k) = .ok (x, u) → u.minima = s.minima := by
  unfold State.slotWords
  dsimp only
  split
  · split
    next h => simp [State.lodgeRead_minima h]
    · simp
  · split <;> simp

@[simp] theorem State.qdbWrite_minima (s : State) (pno q : Nat) (v : Word) :
    (s.qdbWrite pno q v).minima = s.minima := by simp [State.qdbWrite]

@[simp] theorem State.qbaseWrite_minima (s : State) (pno q : Nat) (v : Word) :
    (s.qbaseWrite pno q v).minima = s.minima := by simp [State.qbaseWrite]

@[simp] theorem State.qdtwWrite_minima (s : State) (pno q : Nat) (v : Word) :
    (s.qdtwWrite pno q v).minima = s.minima := by simp [State.qdtwWrite]

@[simp] theorem State.qdtbWrite_minima (s : State) (pno q : Nat) (v : Word) :
    (s.qdtbWrite pno q v).minima = s.minima := by simp [State.qdtbWrite]

@[simp] theorem State.ifvwWrite_minima (s : State) (pno : Nat) (v : Word) : (s.ifvwWrite pno v).minima = s.minima := by
  simp [State.ifvwWrite]

@[simp] theorem execQdbWrite_kept (part q : Nat) (v : Word) (s : State) :
    FusesKept s.minima (execQdbWrite part q v s) := by simp [execQdbWrite]

@[simp] theorem execQcfgEnable_kept (part q : Nat) (v : Word) (s : State) :
    FusesKept s.minima (execQcfgEnable part q v s) := by
  unfold execQcfgEnable; split <;> simp

@[simp] theorem execQcfgDisable_kept (part q : Nat) (v : Word) (s : State) :
    FusesKept s.minima (execQcfgDisable part q v s) := by
  unfold execQcfgDisable; split <;> simp

@[simp] theorem execQcfgPause_kept (part q : Nat) (v : Word) (s : State) :
    FusesKept s.minima (execQcfgPause part q v s) := by
  unfold execQcfgPause; split <;> simp

@[simp] theorem execQcfgUnpause_kept (part q : Nat) (v : Word) (s : State) :
    FusesKept s.minima (execQcfgUnpause part q v s) := by
  unfold execQcfgUnpause; split <;> simp

@[simp] theorem execIfvwWrite_kept (part : Nat) (v : Word) (s : State) :
    FusesKept s.minima (execIfvwWrite part v s) := by simp [execIfvwWrite]

theorem State.fetchPacket_minima {s : State} {pno q k : Nat} :
    ∀ {x u}, (s.fetchPacket pno q k) = .ok (x, u) → u.minima = s.minima := by
  unfold State.fetchPacket
  split
  · simp
  next h => simp [State.slotWords_minima h]

theorem State.readyPacket_minima {s : State} {pno q : Nat} :
    ∀ {x u}, (s.readyPacket pno q) = some (x, u) → u.minima = s.minima := by
  unfold State.readyPacket
  split
  · simp
  · dsimp only
    split
    · simp
    next h => simp [State.fetchPacket_minima h]

theorem State.nextPacket_minima {s : State} {pno q : Nat} :
    ∀ {x u}, (s.nextPacket pno q) = some (x, u) → u.minima = s.minima := by
  unfold State.nextPacket
  split
  · exact State.readyPacket_minima
  · simp

@[simp] theorem State.turnOn_minima (s : State) (pno q : Nat) : (s.turnOn pno q).minima = s.minima := by
  simp [State.turnOn]

@[simp] theorem State.headUp_minima (s : State) (pno q n : Nat) : (s.headUp pno q n).minima = s.minima := by
  simp [State.headUp]

@[simp] theorem State.complete_minima (s : State) (pno : Nat) (k : Pkt) (status aux : Nat) :
    (s.complete pno k status aux).minima = s.minima := LodgeWork.minima (s.complete_work ..)

@[simp] theorem State.startPkt_minima (s : State) (pno : Nat) (k : Pkt) (st : PktSt) :
    (s.startPkt pno k st).minima = s.minima := by simp [State.startPkt]

@[simp] theorem State.instantly_minima (s : State) (pno : Nat) (k : Pkt) (status aux : Nat) :
    (s.instantly pno k status aux).minima = s.minima := by simp [State.instantly]

@[simp] theorem State.onPacket_kept {s : State} {pno q type : Nat} {f : Pkt → State → State}
    (hf : ∀ y0 t, (f y0 t).minima = t.minima) :
    FusesKept s.minima (s.onPacket pno q type f) := by
  unfold State.onPacket
  split
  next h => split <;> simp [hf, State.nextPacket_minima h]
  · simp

@[simp] theorem execBadpkt_kept (part q : Nat) (s : State) : FusesKept s.minima (execBadpkt part q s) := by
  unfold execBadpkt
  split
  next h => split <;> simp [State.nextPacket_minima h]
  · simp

@[simp] theorem execRingFetchFault_kept (part q : Nat) (s : State) :
    FusesKept s.minima (execRingFetchFault part q s) := by
  unfold execRingFetchFault
  (repeat' split) <;> simp

theorem State.namedWords_minima {s : State} {pno a n : Nat} :
    ∀ {x u}, (s.namedWords pno a n) = .ok (x, u) → u.minima = s.minima := by
  unfold State.namedWords
  split
  · simp
  · split
    next h => simp [State.lodgeRead_minima h]
    · simp

@[simp] theorem State.checkLrec_kept (s : State) (pno : Nat) (d : List Byte) (ken : Bool) :
    Lrec.Keeps s.minima (s.checkLrec pno d ken) := by
  unfold State.checkLrec
  dsimp only
  split
  · simp
  · split
    · simp
    next h =>
      split
      · simp
      next h2 => split <;> simp [State.namedWords_minima h, State.namedWords_minima h2]

@[simp] theorem State.readLrec_kept (s : State) (pno a : Nat) (ken : Bool) :
    Lrec.Keeps s.minima (s.readLrec pno a ken) := by
  unfold State.readLrec
  split
  · simp
  next d t h =>
    rw [← State.lodgeRead_minima h]
    exact State.checkLrec_kept ..

@[simp] theorem State.lrecMet_minima (s : State) (pno : Nat) (x0 : Lrec) : (s.lrecMet pno x0).minima = s.minima := by
  unfold State.lrecMet; split <;> simp

@[simp] theorem State.addLaunch_minima (s : State) (pno : Nat) (l : Launch) (o : Origin) :
    (s.addLaunch pno l o).2.minima = s.minima := by simp [State.addLaunch]

theorem State.partner_minima {s : State} {pno : Nat} {k : Pkt} :
    ∀ {x u}, (s.partner pno k) = some (x, u) → u.minima = s.minima := by
  unfold State.partner
  dsimp only
  split
  · split
    · simp
    · split
      · simp
      next h => split <;> simp [State.fetchPacket_minima h]
  · split
    · simp
    · split
      · simp
      next h => split <;> simp [State.fetchPacket_minima h]

@[simp] theorem State.refusedWith_minima (s : State) (pno : Nat) (c : Pkt) (rem : Bool) :
    (s.refusedWith pno c rem).2.minima = s.minima := by
  unfold State.refusedWith
  dsimp only
  split
  next h => split <;> simp [minima_of_eq (State.lodgeSee_minima ..) h]
  next h => simp [minima_of_eq (State.lodgeSee_minima ..) h]

@[simp] theorem State.judgePair_kept (s : State) (pno : Nat) (k : Pkt) (l : Launch) :
    Bound.Keeps s.minima (s.judgePair pno k l) := by
  unfold State.judgePair
  split
  · rfl
  next c t h =>
    have chosen := State.partner_minima h
    have read : Lrec.Keeps t.minima (if t.goodPacket pno c then t.readLrec pno (c.w 1) (c.rem || (t.queue pno k.q).ken)
        else .fault .off) := by
      split
      · exact State.readLrec_kept ..
      · trivial
    dsimp only
    split
    next h =>
      have found := (read.ok h).trans chosen
      split
      next h => exact (State.bind_minima.2 h).trans found
      next h =>
        have bound := (State.bind_minima.1 h).trans found
        split
        next h => exact (State.lodgePut_minima h).trans bound
        · exact (State.lodgeFailRecord_minima ..).trans ((State.lodgeMet_minima ..).trans bound)
    · have met : ∀ r, (match t.lodgeRead pno (c.w 1) 128 with | .ok _ => t.lrecMet pno r | .error _ => t).minima =
      s.minima := fun r => by
        split
        · exact (State.lrecMet_minima ..).trans chosen
        · exact chosen
      exact (State.refusedWith_minima ..).trans (met _)

@[simp] theorem State.queueLaunch_minima (s : State) (pno : Nat) (k : Pkt) (l : Launch) (mate : Option Pkt) :
    (s.queueLaunch pno k l mate).minima = s.minima := by simp [State.queueLaunch]

@[simp] theorem State.notePair_minima (s : State) (pno : Nat) (k : Pkt) (reason : Nat) :
    (s.notePair pno k reason).2.minima = s.minima := by simp [State.notePair]

@[simp] theorem State.sendLaunch_minima (s : State) (pno : Nat) (k : Pkt) (d : List Byte) :
    (s.sendLaunch pno k d).minima = s.minima := by
  unfold State.sendLaunch
  dsimp only
  split
  · simp
  · split
    next h => simp [State.pickPort_minima h]
    · simp

@[simp] theorem State.launchPacket_minima (s : State) (pno : Nat) (k : Pkt) :
    (s.launchPacket pno k).minima = s.minima := by
  unfold State.launchPacket
  dsimp only
  split
  · split
    · simp
    next h =>
      split
      · simp [State.lodgeRead_minima h]
      next h2 => split <;> simp [State.lodgeRead_minima h, State.partner_minima h2]
  · split
    next h => simp
    next h => simp
    next h =>
      split
      next h2 => simp [(State.readLrec_kept ..).ok h, (State.judgePair_kept ..).alone h2]
      next h2 => simp [(State.readLrec_kept ..).ok h, (State.judgePair_kept ..).refused h2]
      next h2 => simp [(State.readLrec_kept ..).ok h, (State.judgePair_kept ..).fused h2]

@[simp] theorem execLaunch_kept (part q : Nat) (s : State) : FusesKept s.minima (execLaunch part q s) := by
  simp [execLaunch]

@[simp] theorem State.dropIcache_minima (s : State) (pno : Nat) : (s.dropIcache pno).minima = s.minima := rfl

@[simp] theorem State.placeRoot_minima (s : State) (pno : Nat) (l : Launch) (c ptr : Nat) :
    (s.placeRoot pno l c ptr).minima = s.minima := by
  unfold State.placeRoot
  split
  · simp
  next h => split <;> simp [State.newThread_minima h]

@[simp] theorem State.rootOn_minima (s : State) (pno : Nat) (l : Launch) : (s.rootOn pno l).minima = s.minima := by
  unfold State.rootOn; split <;> simp

@[simp] theorem execRootPlace_kept (part : Nat) (s : State) : FusesKept s.minima (execRootPlace part s) := by
  unfold execRootPlace
  dsimp only
  (repeat' split) <;> simp

@[simp] theorem State.removeLaunch_minima (s : State) (pno lid : Nat) : (s.removeLaunch pno lid).minima = s.minima := by
  unfold State.removeLaunch
  simp only [State.modPart_minima]
  refine (foldl_minima (fun t cl => by simp) _ _).trans (foldl_minima (fun t c => ?_) _ _)
  rw [State.modCore_minima]
  refine foldl_minima (fun u e => ?_) _ _
  split <;> simp

@[simp] theorem State.spoilRun_minima (s : State) (pno : Nat) (kept : List (Nat × Nat)) (r : Nat × Nat) :
    (s.spoilRun pno kept r).minima = s.minima := by
  unfold State.spoilRun
  refine foldl_minima (fun t x => ?_) _ _
  dsimp only
  (repeat' split) <;> simp

@[simp] theorem State.spoilElided_minima (s : State) (pno : Nat) (l : Launch) :
    (s.spoilElided pno l).minima = s.minima := by
  unfold State.spoilElided; split <;> simp

@[simp] theorem State.launchEnds_minima (s : State) (pno : Nat) (l : Launch) (status : Nat) :
    (s.launchEnds pno l status).minima = s.minima := by
  unfold State.launchEnds
  dsimp only
  (repeat' split) <;> simp

@[simp] theorem execLaunchComplete_kept (part lid : Nat) (s : State) :
    FusesKept s.minima (execLaunchComplete part lid s) := by
  unfold execLaunchComplete
  (repeat' split) <;> simp

@[simp] theorem execCopy_kept (part q : Nat) (s : State) : FusesKept s.minima (execCopy part q s) := by simp [execCopy]

theorem State.copyChunk_minima {s : State} {pno : Nat} {k : Pkt} {src dst n : Nat} :
    ∀ {u}, (s.copyChunk pno k src dst n) = .ok u → u.minima = s.minima := by
  unfold State.copyChunk
  split
  · split
    · dsimp only
      split
      · split <;> simp
      · split
        next h => simp [State.lodgePut_minima h]
        · simp
    · simp
  · dsimp only
    split
    · simp
    next h =>
      split
      · split <;> simp [State.lodgeRead_minima h]
      · split
        next h2 => simp [State.lodgeRead_minima h, State.lodgePut_minima h2]
        · simp

@[simp] theorem State.copyRuns_minima (s : State) (pno : Nat) (k : Pkt) (x0 : Nat) (x1 : Nat) :
    (s.copyRuns pno k x0 x1).2.2.minima = s.minima := by
  induction x0 generalizing s x1 with
  | zero => rfl
  | succ fuel ih =>
    rw [State.copyRuns]
    dsimp only
    split
    · rfl
    split
    next h => rw [ih, State.copyChunk_minima h]
    · exact State.lodgeMet_minima ..

@[simp] theorem execCopyComplete_kept (part pid : Nat) (s : State) :
    FusesKept s.minima (execCopyComplete part pid s) := by
  unfold execCopyComplete
  dsimp only
  (repeat' split) <;> simp

theorem State.signalOp_minima {s : State} {pno a op : Nat} {v : Word} :
    ∀ {u}, (s.signalOp pno a op v) = .ok u → u.minima = s.minima := by
  unfold State.signalOp
  split
  next h => split <;> simp [State.lodgeParts_minima h]
  next e _ h =>
    obtain ⟨_, _⟩ := e
    simp
  · simp

@[simp] theorem execSignal_kept (part q : Nat) (s : State) : FusesKept s.minima (execSignal part q s) := by
  unfold execSignal
  refine State.onPacket_kept (fun x t => ?_)
  split
  next h => simp [State.signalOp_minima h]
  · simp

@[simp] theorem execWait_kept (part q : Nat) (s : State) : FusesKept s.minima (execWait part q s) := by simp [execWait]

@[simp] theorem execWaitSatisfied_kept (part pid : Nat) (s : State) :
    FusesKept s.minima (execWaitSatisfied part pid s) := by
  unfold execWaitSatisfied
  split
  · split
    · simp
    · split
      · simp
      next h => split <;> simp [State.lodgeRead_minima h]
  · simp

@[simp] theorem execLayerTable_kept (part q : Nat) (s : State) : FusesKept s.minima (execLayerTable part q s) := by
  simp [execLayerTable]

@[simp] theorem execHeadBind_kept (part q : Nat) (s : State) : FusesKept s.minima (execHeadBind part q s) := by
  simp [execHeadBind]

@[simp] theorem execExportQueue_kept (part q : Nat) (s : State) : FusesKept s.minima (execExportQueue part q s) := by
  simp [execExportQueue]

@[simp] theorem execExportComplete_kept (part pid : Nat) (s : State) :
    FusesKept s.minima (execExportComplete part pid s) := by
  unfold execExportComplete
  split
  · split
    · simp
    · split
      next h => simp [State.lodgePut_minima h]
      · simp
  · simp

@[simp] theorem execImportQueue_kept (part q : Nat) (s : State) : FusesKept s.minima (execImportQueue part q s) := by
  unfold execImportQueue
  refine State.onPacket_kept (fun x t => ?_)
  split
  · simp
  next h => simp [apply_ite State.minima, State.lodgeRead_minima h]

end Sys2Proof.Machine
end

section
/-! The graphs, the triggers and the remote launches: the fuses stay (R42). -/

namespace Sys2Proof.Machine

@[simp] theorem State.modTrig_minima (s : State) (pno n : Nat) (f : Trig → Trig) :
    (s.modTrig pno n f).minima = s.minima := by simp [State.modTrig]

@[simp] theorem State.runStart_minima (s : State) (pno n : Nat) : (s.runStart pno n).minima = s.minima := by
  simp [State.runStart]

@[simp] theorem State.trigRequest_minima (s : State) (pno n : Nat) : (s.trigRequest pno n).minima = s.minima := by
  unfold State.trigRequest
  simp [apply_ite State.minima]

@[simp] theorem State.trigPackets_minima (s : State) (pno n : Nat) : (s.trigPackets pno n).minima = s.minima := by
  unfold State.trigPackets
  dsimp only
  refine foldl_minima (fun t x => ?_) _ _
  split <;> simp [apply_ite State.minima]

@[simp] theorem State.runDone_minima (s : State) (pno n : Nat) : (s.runDone pno n).minima = s.minima := by
  unfold State.runDone
  simp [apply_ite State.minima]

@[simp] theorem execTrigWrite_kept (core slot n : Nat) (s : State) :
    FusesKept s.minima (execTrigWrite core slot n s) := by
  unfold execTrigWrite
  refine State.releasedWrite_kept (fun t => ?_)
  split <;> simp [apply_ite State.minima]

@[simp] theorem execTriggerBind_kept (part q : Nat) (s : State) : FusesKept s.minima (execTriggerBind part q s) := by
  unfold execTriggerBind
  simp [apply_ite State.minima]

@[simp] theorem execGraphLoad_kept (part q : Nat) (s : State) : FusesKept s.minima (execGraphLoad part q s) := by
  unfold execGraphLoad
  refine State.onPacket_kept (fun x t => ?_)
  split
  · simp [apply_ite State.minima]
  next h =>
    split
    · simp [apply_ite State.minima, State.lodgeRead_minima h]
    · dsimp only
      split
      · simp
      · split
        · simp [State.lodgeRead_minima h]
        next h2 => simp [apply_ite State.minima, State.lodgeRead_minima h, State.lodgeRead_minima h2]

@[simp] theorem State.atNode_kept {s : State} {pno tr kind : Nat} {f : GRun → GSlot → GNode → State}
    (hf : ∀ y0 y1 y2, (f y0 y1 y2).minima = s.minima) :
    FusesKept s.minima (s.atNode pno tr kind f) := by
  unfold State.atNode
  dsimp only
  (repeat' split) <;> simp [hf]

@[simp] theorem State.modRun_minima (s : State) (pno tr : Nat) (f : GRun → GRun) :
    (s.modRun pno tr f).minima = s.minima := by simp [State.modRun]

@[simp] theorem execGraphNodeLaunch_kept (part trig : Nat) (s : State) :
    FusesKept s.minima (execGraphNodeLaunch part trig s) := by
  unfold execGraphNodeLaunch
  refine State.atNode_kept (fun x y z => ?_)
  dsimp only
  split
  · simp
  · split
    next h => simp
    next h => simp
    next h => simp [(State.readLrec_kept ..).ok h]

@[simp] theorem execGraphNodeSignal_kept (part trig : Nat) (s : State) :
    FusesKept s.minima (execGraphNodeSignal part trig s) := by
  unfold execGraphNodeSignal
  refine State.atNode_kept (fun x y z => ?_)
  split
  · simp
  · split
    next h => simp [State.signalOp_minima h]
    · simp

@[simp] theorem State.nodeWord_minima (s : State) (pno : Nat) (a : Word) : (s.nodeWord pno a).2.minima = s.minima := by
  unfold State.nodeWord
  split
  next h => simp [State.lodgeRead_minima h]
  · simp

@[simp] theorem execGraphNodeLoop_kept (part trig : Nat) (s : State) :
    FusesKept s.minima (execGraphNodeLoop part trig s) := by
  unfold execGraphNodeLoop
  refine State.atNode_kept (fun x y z => ?_)
  dsimp only
  split <;> simp

@[simp] theorem execGraphNodeCond_kept (part trig : Nat) (s : State) :
    FusesKept s.minima (execGraphNodeCond part trig s) := by simp [execGraphNodeCond]

@[simp] theorem execGraphNodeEnd_kept (part trig : Nat) (s : State) :
    FusesKept s.minima (execGraphNodeEnd part trig s) := by simp [execGraphNodeEnd]

@[simp] theorem State.rltMet_minima (s : State) (pno : Nat) (req : RemLaunch) (x0 : Nat) (x1 : Nat) :
    (s.rltMet pno req x0 x1).minima = s.minima := by
  induction x1 generalizing s x0 with
  | zero => rfl
  | succ n ih =>
    rw [State.rltMet]
    split
    next h =>
      split
      · exact State.lodgeRead_minima h
      · rw [ih, State.lodgeRead_minima h]
    · rw [ih, State.lodgeMet_minima]

@[simp] theorem State.laneAnswer_minima (s : State) (req : RemLaunch) (code : Nat) :
    (s.laneAnswer req code).minima = s.minima := by simp [State.laneAnswer]

@[simp] theorem execRemoteLaunchRequest_kept (req : RemLaunch) (s : State) :
    FusesKept s.minima (execRemoteLaunchRequest req s) := by
  unfold execRemoteLaunchRequest
  dsimp only
  (repeat' split) <;> simp

@[simp] theorem execRemoteLaneStart_kept (part : Nat) (s : State) :
    FusesKept s.minima (execRemoteLaneStart part s) := by
  unfold execRemoteLaneStart
  dsimp only
  split
  · split
    · simp
    · split
      next h => simp [(State.checkLrec_kept ..).ok h]
      · simp
  · simp

@[simp] theorem execRemoteLaunchResult_kept (id : Nat) (res : RemResult) (s : State) :
    FusesKept s.minima (execRemoteLaunchResult id res s) := by
  unfold execRemoteLaunchResult
  (repeat' split) <;> simp

@[simp] theorem execAcceptanceReply_kept (id : Nat) (s : State) : FusesKept s.minima (execAcceptanceReply id s) := by
  unfold execAcceptanceReply
  (repeat' split) <;> simp

@[simp] theorem execRemoteLaunchTimeout_kept (id : Nat) (s : State) :
    FusesKept s.minima (execRemoteLaunchTimeout id s) := by
  unfold execRemoteLaunchTimeout
  (repeat' split) <;> simp

end Sys2Proof.Machine
end

section
/-! Trust: the measurements, the assignment of quadrants and the policies: the fuses stay (R42). -/

namespace Sys2Proof.Machine

@[simp] theorem State.extend_minima (s : State) (i : Nat) (d : List Byte) : (s.extend i d).minima = s.minima := rfl

@[simp] theorem State.bootFrom_minima (s : State) (x0 : List Nat) (x1 : List Image) :
    (s.bootFrom x0 x1).minima = s.minima := by rw [(s.bootFrom_boots x0 x1).rest]

@[simp] theorem State.boot_minima (s : State) (imgs : List Image) : (s.boot imgs).minima = s.minima := by
  unfold State.boot
  simp [apply_ite State.minima]

@[simp] theorem execPowerOn_kept (images : List Image) (s : State) : FusesKept s.minima (execPowerOn images s) := by
  unfold execPowerOn
  simp
  rfl

@[simp] theorem execBootRestart_kept (images : List Image) (s : State) :
    FusesKept s.minima (execBootRestart images s) := by
  unfold execBootRestart
  dsimp only
  simp
  rfl

@[simp] theorem execGetVersion_kept (s : State) : FusesKept s.minima (execGetVersion s) := rfl

@[simp] theorem execGetCapabilities_kept (s : State) : FusesKept s.minima (execGetCapabilities s) := rfl

@[simp] theorem execNegotiateAlgorithms_kept (s : State) : FusesKept s.minima (execNegotiateAlgorithms s) := rfl

@[simp] theorem execGetDigests_kept (s : State) : FusesKept s.minima (execGetDigests s) := rfl

@[simp] theorem execGetCertificate_kept (slot : Nat) (s : State) : FusesKept s.minima (execGetCertificate slot s) := rfl

@[simp] theorem execChallenge_kept (slot : Nat) (nonce : List Byte) (s : State) :
    FusesKept s.minima (execChallenge slot nonce s) := rfl

@[simp] theorem execGetMeasurements_kept (index : Nat) (s : State) :
    FusesKept s.minima (execGetMeasurements index s) := rfl

@[simp] theorem execSpdmUnsupportedRequest_kept (_code : Nat) (s : State) :
    FusesKept s.minima (execSpdmUnsupportedRequest _code s) := rfl

@[simp] theorem State.abortPkts_minima (s : State) (pno : Nat) (f : Pkt → Bool) :
    (s.abortPkts pno f).minima = s.minima := LodgeWork.minima (s.abortPkts_work ..)

@[simp] theorem State.abortRemotes_minima (s : State) (pno : Nat) : (s.abortRemotes pno).minima = s.minima :=
  LodgeWork.minima (s.abortRemotes_work ..)

@[simp] theorem State.tripPart_minima (s : State) (pno : Nat) : (s.tripPart pno).minima = s.minima :=
  LodgeWork.minima (s.tripPart_work ..)

@[simp] theorem State.holdAll_minima (s : State) : (s.holdAll).minima = s.minima := by simp [State.holdAll]

@[simp] theorem execThermalTrip_kept (s : State) : FusesKept s.minima (execThermalTrip s) := by
  unfold execThermalTrip; split <;> simp

@[simp] theorem execThermalRelease_kept (s : State) : FusesKept s.minima (execThermalRelease s) := by
  unfold execThermalRelease; split <;> simp

@[simp] theorem State.assign_minima (s : State) (v : Nat) (block : List Byte) :
    (s.assign v block).minima = s.minima := rfl

@[simp] theorem State.stopPart_minima (s : State) (pno : Nat) : (s.stopPart pno).minima = s.minima := by
  simp [State.stopPart]

@[simp] theorem State.phcmdWrite_minima (s : State) (v : Word) : (s.phcmdWrite v).minima = s.minima := by
  unfold State.phcmdWrite
  (repeat' split) <;> simp [apply_ite State.minima]

@[simp] theorem execPhcmdAssign_kept (v : Word) (s : State) : FusesKept s.minima (execPhcmdAssign v s) := by
  unfold execPhcmdAssign; split <;> simp

@[simp] theorem execPhcmdRelease_kept (v : Word) (s : State) : FusesKept s.minima (execPhcmdRelease v s) := by
  unfold execPhcmdRelease; split <;> simp

@[simp] theorem State.scrub_minima (s : State) (pno : Nat) : (s.scrub pno).minima = s.minima := rfl

@[simp] theorem execReleaseScrub_kept (part : Nat) (s : State) : FusesKept s.minima (execReleaseScrub part s) := by
  unfold execReleaseScrub; split <;> simp

@[simp] theorem State.dploadEffect_minima (s : State) (pno : Nat) (v : Word) :
    (s.dploadEffect pno v).minima = s.minima := by simp [State.dploadEffect]

@[simp] theorem execDploadWrite_kept (core slot : Nat) (v : Word) (s : State) :
    FusesKept s.minima (execDploadWrite core slot v s) := by
  unfold execDploadWrite
  refine State.atKer_kept (fun t => ?_)
  split <;> simp

theorem State.checkPolicy_minima {s : State} {pno : Nat} :
    (∀ {x y u}, (s.checkPolicy pno) = .ok (x, y, u) → u.minima = s.minima) ∧
    ∀ {x u}, (s.checkPolicy pno) = .error (x, u) → u.minima = s.minima := by
  unfold State.checkPolicy
  dsimp only
  split
  · simp
  · split
    next h => simp [minima_of_eq (State.lodgeSee_minima ..) h]
    next h =>
      split
      next h2 => simp [minima_of_eq (State.lodgeSee_minima ..) h, minima_of_eq (State.lodgeSee_minima ..) h2]
      next h2 =>
        (repeat' split) <;> simp [minima_of_eq (State.lodgeSee_minima ..) h, minima_of_eq (State.lodgeSee_minima ..) h2]

@[simp] theorem execPolicyCheckDone_kept (part : Nat) (s : State) :
    FusesKept s.minima (execPolicyCheckDone part s) := by
  unfold execPolicyCheckDone
  split
  · simp
  · split
    next h => simp [State.checkPolicy_minima.2 h]
    next h => simp [State.checkPolicy_minima.1 h]

end Sys2Proof.Machine
end

section
/-! The rink: the samples, the heads and the keys: the fuses stay (R42). -/

namespace Sys2Proof.Machine

@[simp] theorem State.sampleDesc_minima (s : State) (pno va : Nat) : (s.sampleDesc pno va).2.minima = s.minima := by
  unfold State.sampleDesc
  split
  next h => simp [minima_of_eq (State.lodgeSee_minima ..) h]
  next h =>
    split
    · simp [minima_of_eq (State.lodgeSee_minima ..) h]
    next e h2 =>
      obtain ⟨_, _⟩ := e
      simp [minima_of_eq (State.lodgeSee_minima ..) h]

@[simp] theorem State.sampleDescs_minima (s : State) (pno base : Nat) (x0 : List Nat) :
    (s.sampleDescs pno base x0).2.minima = s.minima := by
  induction x0 generalizing s with
  | nil => rfl
  | cons x l ih =>
    rw [State.sampleDescs]
    split
    next h => rw [ih, State.surfaceRecord_minima, minima_of_eq (State.sampleDesc_minima ..) h]
    next h => exact (ih ..).trans (minima_of_eq (State.sampleDesc_minima ..) h)

@[simp] theorem State.estimate_minima (s : State) (pno base adv : Nat) (x0 : List (Nat × List Byte)) :
    (s.estimate pno base adv x0).2.minima = s.minima := by
  induction x0 generalizing s with
  | nil => rfl
  | cons q l ih =>
    rw [State.estimate]
    dsimp only
    refine (ih ..).trans ?_
    have put : (if (ageDesc q.2 adv).1 = q.2 then s else
        match s.lodgePut pno (base + 64 * q.1 + 28) (((ageDesc q.2 adv).1.drop 28).take 8) false with
        | .ok s => s
        | .error e => s.lodgeMet pno e).minima = s.minima := by
      split
      · rfl
      split
      next h => exact State.lodgePut_minima h
      · exact State.lodgeMet_minima ..
    split
    · exact (State.modPart_minima ..).trans put
    · exact put

@[simp] theorem State.layRows_minima (s : State) (pno cs zs n pitch : Nat) (x0 : Nat) (x1 : Nat) :
    (s.layRows pno cs zs n pitch x0 x1).2.minima = s.minima := by
  induction x0 generalizing s x1 with
  | zero => rfl
  | succ k ih =>
    rw [State.layRows]
    split
    next h => exact minima_of_eq (State.lodgeSee_minima ..) h
    next h =>
      have colour := minima_of_eq (State.lodgeSee_minima ..) h
      split
      next h => exact (minima_of_eq (State.lodgeSee_minima ..) h).trans colour
      next h =>
        have depth := (minima_of_eq (State.lodgeSee_minima ..) h).trans colour
        split
        next h => exact (minima_of_eq (ih ..) h).trans depth
        next h => exact (minima_of_eq (ih ..) h).trans depth

@[simp] theorem State.layer_minima (s : State) (pno : Nat) (mode240 : Bool) (x : Nat) (d : List Byte) :
    (s.layer pno mode240 x d).2.minima = s.minima := by
  unfold State.layer
  dsimp only
  split
  · simp
  · split
    · simp
    · split
      next h => simp [minima_of_eq (State.layRows_minima ..) h]
      next h => simp [minima_of_eq (State.layRows_minima ..) h]

@[simp] theorem State.layers_minima (s : State) (pno : Nat) (mode240 : Bool) (x0 : List (Nat × List Byte)) :
    (s.layers pno mode240 x0).2.minima = s.minima := by
  induction x0 generalizing s with
  | nil => rfl
  | cons q l ih => exact (ih ..).trans (State.layer_minima ..)

@[simp] theorem State.samplePoint_minima (s : State) (pno h : Nat) (b : HeadBind) :
    (s.samplePoint pno h b).minima = s.minima := by simp [State.samplePoint]

@[simp] theorem State.tickPart_minima (s : State) (t pno : Nat) : (s.tickPart t pno).minima = s.minima := by
  unfold State.tickPart
  have completed : ∀ l : List Pkt, (l.foldl (fun (s : State) k => s.complete pno k 0 0)
      (s.modPart pno fun p => { p with rink := p.rink.install })).minima = s.minima := fun l => by simp
  dsimp only
  split
  · exact completed _
  · refine (foldl_minima (fun u e => ?_) _ _).trans (completed _)
    (repeat' split) <;> simp

@[simp] theorem execFrameTick_kept (s : State) : FusesKept s.minima (execFrameTick s) := by simp [execFrameTick]

theorem State.ringStore_minima {s : State} {pno buf len ewp : Nat} {bs : List Byte} :
    ∀ {u}, (s.ringStore pno buf len ewp bs) = .ok u → u.minima = s.minima := by
  unfold State.ringStore
  dsimp only
  split
  · simp
  next h => simp [State.lodgeParts_minima h]

@[simp] theorem State.encode_minima (s : State) (pno : Nat) (f : Sample) : (s.encode pno f).minima = s.minima := by
  unfold State.encode
  extract_lets e qp prev pic bs set e' drop
  have sets : ∀ t x, (set t x).minima = State.minima t := fun _ _ => State.modPart_minima ..
  clear_value set bs
  split
  · exact sets ..
  split
  next h => exact (sets ..).trans (State.ringStore_minima h)
  · exact (State.emit_minima ..).trans ((sets ..).trans (State.lodgeMet_minima ..))

@[simp] theorem execFrameEncode_kept (s : State) : FusesKept s.minima (execFrameEncode s) := by
  unfold execFrameEncode
  (repeat' split) <;> simp

@[simp] theorem State.ecfgWrite_minima (s : State) (pno e : Nat) (v : Word) :
    (s.ecfgWrite pno e v).minima = s.minima := by
  unfold State.ecfgWrite; split <;> simp

@[simp] theorem execEcfgKeySet_kept (core slot enc : Nat) (s : State) :
    FusesKept s.minima (execEcfgKeySet core slot enc s) := by
  unfold execEcfgKeySet
  refine State.atKer_kept (fun t => ?_)
  split <;> simp

end Sys2Proof.Machine
end

section
/-! The rotation, preemption and the context images: the fuses stay (R42). -/

namespace Sys2Proof.Machine

theorem State.rotateOnce_minima {s : State} {pno c : Nat} {act : KMap Nat} {target : Nat → Int} :
    ∀ {u}, (s.rotateOnce pno c act target) = some u → u.minima = s.minima := by
  unfold State.rotateOnce
  dsimp only
  (repeat' split) <;> simp

@[simp] theorem State.rotate_minima (s : State) (pno c : Nat) (act : KMap Nat) (target : Nat → Int) (x0 : Nat) :
    (s.rotate pno c act target x0).minima = s.minima := by
  induction x0 generalizing s with
  | zero => rfl
  | succ n ih =>
    rw [State.rotate]
    split
    · rfl
    next h => rw [ih, State.rotateOnce_minima h]

@[simp] theorem State.yieldWake_minima (s : State) (c : Nat) : (s.yieldWake c).minima = s.minima := by
  unfold State.yieldWake
  simp

@[simp] theorem State.rotateAll_minima (s : State) (pno c : Nat) : (s.rotateAll pno c).minima = s.minima := by
  unfold State.rotateAll
  simp [apply_ite State.minima]

@[simp] theorem execRotationBoundary_kept (core : Nat) (s : State) :
    FusesKept s.minima (execRotationBoundary core s) := by
  unfold execRotationBoundary; split <;> simp

@[simp] theorem State.displace_minima (s : State) (c sl : Nat) : (s.displace c sl).minima = s.minima := by
  unfold State.displace; split <;> simp

@[simp] theorem execThreadDisplace_kept (core slot : Nat) (s : State) :
    FusesKept s.minima (execThreadDisplace core slot s) := by
  unfold execThreadDisplace
  (repeat' split) <;> simp

theorem State.seat_minima {s : State} {c : Nat} {l : Launch} {t : Thread} {ws : List Word} :
    ∀ {x u}, (s.seat c l t ws) = some (x, u) → u.minima = s.minima := by
  unfold State.seat
  dsimp only
  split <;> simp

theorem State.reseat_minima {s : State} {c pno : Nat} : ∀ {u}, (s.reseat c pno) = some u → u.minima = s.minima := by
  unfold State.reseat
  intro u h
  obtain ⟨e, _, he⟩ := List.exists_of_findSome?_eq_some h
  split at he
  · cases he
  · obtain ⟨⟨n, t⟩, hr, rfl⟩ := Option.map_eq_some_iff.mp he
    have seated := State.seat_minima hr
    exact seated

@[simp] theorem State.resumeSettle_minima (s : State) (c : Nat) : (s.resumeSettle c).minima = s.minima := by
  unfold State.resumeSettle
  (repeat' split) <;> simp

@[simp] theorem execDisplacedResume_kept (core : Nat) (s : State) :
    FusesKept s.minima (execDisplacedResume core s) := by
  unfold execDisplacedResume
  split
  · simp
  · split
    · simp
    · split
      next h => simp [State.reseat_minima h]
      · simp

@[simp] theorem State.cpstatSet_minima (s : State) (p : Preempt) (v : Word) : (s.cpstatSet p v).minima = s.minima := by
  simp [State.cpstatSet]

@[simp] theorem State.endIdle_minima (s : State) (c : Nat) : (s.endIdle c).minima = s.minima := by
  unfold State.endIdle
  simp [apply_ite State.minima]

theorem State.ctxWrite_minima {s : State} {pno base : Nat} {l : List (Nat × List Byte)} :
    ∀ {u}, (s.ctxWrite pno base l) = .ok u → u.minima = s.minima := by
  unfold State.ctxWrite
  split
  · nofun
  next h =>
    refine fun {_} hu => OkKept.ok (foldl_ok_minima (fun r e hr => ?_) l _ ?_) hu
    · split
      · exact .of fun hu => (State.lodgePut_minima hu).trans hr
      · trivial
    · exact State.lodgeParts_minima h

@[simp] theorem State.preemptAbort_minima (s : State) (c : Nat) (p : Preempt) :
    (s.preemptAbort c p).minima = s.minima := by simp [State.preemptAbort]

@[simp] theorem State.emptyCore_minima (s : State) (c : Nat) (p : Preempt) : (s.emptyCore c p).minima = s.minima := by
  simp [State.emptyCore]

@[simp] theorem execPreemptSave_kept (core : Nat) (s : State) : FusesKept s.minima (execPreemptSave core s) := by
  unfold execPreemptSave
  split
  · split
    · simp
    · split
      · simp
      · dsimp only
        split
        next h => simp [State.ctxWrite_minima h]
        · simp
  · simp

@[simp] theorem State.redispatch_minima (s : State) (c : Nat) (slots : List (Nat × Nat))
    (marks : List (Nat × Bool × Word)) (x0 : List (List Byte)) :
    (s.redispatch c slots marks x0).minima = s.minima := by
  induction x0 generalizing s with
  | nil => rfl
  | cons r l ih =>
    rw [State.redispatch, ih]
    split
    · rfl
    dsimp only
    split
    · rfl
    · simp

@[simp] theorem State.redeliver_minima (s : State) (c : Nat) (r : List Byte) : (s.redeliver c r).minima = s.minima := by
  unfold State.redeliver
  simp [apply_ite State.minima]

theorem State.readRecords_minima {s : State} {pno va size : Nat} {x0 : Nat} :
    ∀ {x u}, (s.readRecords pno va size x0) = .ok (x, u) → u.minima = s.minima := by
  induction x0 generalizing s va with
  | zero => rintro _ _ ⟨⟩; rfl
  | succ n ih =>
    rw [State.readRecords]
    split
    · nofun
    next h =>
      split
      · nofun
      next h2 =>
        rintro _ _ ⟨⟩
        exact (ih h2).trans (State.lodgeRead_minima h)

theorem State.readImage_minima {s : State} {pno base : Nat} {h : List Byte} :
    ∀ {x y z u}, (s.readImage pno base h) = .ok (x, y, z, u) → u.minima = s.minima := by
  -- Said of a variable `f`: with the definition in the goal itself the kernel's check recurses too deep.
  have unfolded : ∀ f, f = @State.readImage → ∀ {x y z u}, f s pno base h = .ok (x, y, z, u) → u.minima = s.minima := by
    intro f hf
    delta State.readImage at hf
    rw [hf]
    beta_reduce
    split
    · nofun
    next h =>
      split
      · nofun
      next h2 =>
        split
        · nofun
        next h3 =>
          rintro _ _ _ _ ⟨⟩
          exact (State.readRecords_minima h3).trans ((State.readRecords_minima h2).trans (State.readRecords_minima h))
  exact fun {_ _ _ _} hr => unfolded _ rfl hr

@[simp] theorem State.restore_minima (s : State) (c : Nat) (p : Preempt) (h : List Byte) (sl ri ms : List (List Byte)) :
    (s.restore c p h sl ri ms).minima = s.minima := by simp [State.restore]

@[simp] theorem State.cpreqWrite_minima (s : State) (core slot : Nat) (v : Word) :
    (s.cpreqWrite core slot v).minima = s.minima := by
  -- Said of a variable `f`: with the definition in the goal itself the kernel's check recurses too deep.
  have unfolded : ∀ f, f = @State.cpreqWrite → (f s core slot v).minima = s.minima := by
    intro f hf
    delta State.cpreqWrite at hf
    rw [hf]
    beta_reduce
    split
    next t pno _ _ =>
      extract_lets n c buf code reject busy
      have rejected : ∀ k u, (reject k u).minima = u.minima := fun _ _ => State.modThread_minima ..
      have begun : busy.minima = s.minima := State.modThread_minima ..
      clear_value reject busy
      split
      · rfl
      split
      · exact rejected ..
      split
      · simp [begun]
      split
      · exact rejected ..
      split
      · exact (rejected ..).trans (State.lodgeMet_minima ..)
      next h _ =>
        have read := State.lodgeRead_minima h
        split
        · exact rejected ..
        split
        · exact (rejected ..).trans ((State.lodgeMet_minima ..).trans read)
        next h2 =>
          exact (State.restore_minima ..).trans
            ((State.modThread_minima ..).trans ((State.readImage_minima h2).trans read))
      · exact rejected ..
    · rfl
  exact unfolded _ rfl

@[simp] theorem execCpreqPreempt_kept (core slot : Nat) (v : Word) (s : State) :
    FusesKept s.minima (execCpreqPreempt core slot v s) := by
  unfold execCpreqPreempt; split <;> simp

@[simp] theorem execCpreqResume_kept (core slot : Nat) (v : Word) (s : State) :
    FusesKept s.minima (execCpreqResume core slot v s) := by
  unfold execCpreqResume; split <;> simp

end Sys2Proof.Machine
end

section
/-! What the operator and the debugger observe: the fuses stay (R42). -/

namespace Sys2Proof.Machine

@[simp] theorem State.errRecord_minima (s : State) (kind : Nat) (part : Option Nat) (loc : ErrLoc) :
    (s.errRecord kind part loc).minima = s.minima := by
  unfold State.errRecord
  (repeat' split) <;> simp

@[simp] theorem execEccCorrected_kept (loc : ErrLoc) (s : State) : FusesKept s.minima (execEccCorrected loc s) := by
  unfold execEccCorrected
  dsimp only
  (repeat' split) <;> simp

@[simp] theorem State.poisonAt_minima (s : State) (x0 : ErrLoc) : (s.poisonAt x0).minima = s.minima := by
  unfold State.poisonAt; split <;> simp

@[simp] theorem execEccUncorrectable_kept (loc : ErrLoc) (s : State) :
    FusesKept s.minima (execEccUncorrectable loc s) := by
  unfold execEccUncorrectable
  dsimp only
  split <;> simp

@[simp] theorem execMachineCheck_kept (part : Option Nat) (s : State) :
    FusesKept s.minima (execMachineCheck part s) := by
  unfold execMachineCheck
  (repeat' split) <;> simp

@[simp] theorem State.obaseWrite_minima (s : State) (pno : Nat) (v : Word) :
    (s.obaseWrite pno v).minima = s.minima := by simp [State.obaseWrite]

@[simp] theorem State.ocfgWrite_minima (s : State) (pno : Nat) (v : Word) : (s.ocfgWrite pno v).minima = s.minima := by
  simp [State.ocfgWrite]

@[simp] theorem execOcfgEnable_kept (core slot : Nat) (v : Word) (s : State) :
    FusesKept s.minima (execOcfgEnable core slot v s) := by
  unfold execOcfgEnable
  refine State.atKer_kept (fun t => ?_)
  split <;> simp [apply_ite State.minima]

@[simp] theorem State.olbaseWrite_minima (s : State) (v : Word) : (s.olbaseWrite v).minima = s.minima := rfl

@[simp] theorem State.olcfgWrite_minima (s : State) (v : Word) : (s.olcfgWrite v).minima = s.minima := rfl

@[simp] theorem execOlcfgEnable_kept (v : Word) (s : State) : FusesKept s.minima (execOlcfgEnable v s) := by
  unfold execOlcfgEnable; split <;> simp

@[simp] theorem execStateLogTimeout_kept (core : Nat) (s : State) :
    FusesKept s.minima (execStateLogTimeout core s) := by
  unfold execStateLogTimeout; split <;> simp

@[simp] theorem State.slcfgWrite_minima (s : State) (c : Nat) (v : Word) : (s.slcfgWrite c v).minima = s.minima := rfl

@[simp] theorem State.debugStop_minima (s : State) (c sl : Nat) : (s.debugStop c sl).minima = s.minima := by
  unfold State.debugStop; split <;> simp

@[simp] theorem State.debugResume_minima (s : State) (c sl : Nat) : (s.debugResume c sl).minima = s.minima := by
  unfold State.debugResume; split <;> simp

@[simp] theorem State.dbgsWrite_minima (s : State) (pno : Nat) (v : Word) : (s.dbgsWrite pno v).minima = s.minima := by
  unfold State.dbgsWrite
  simp [apply_ite State.minima]

@[simp] theorem execDbgsStop_kept (core slot : Nat) (v : Word) (s : State) :
    FusesKept s.minima (execDbgsStop core slot v s) := by
  unfold execDbgsStop
  refine State.atKer_kept (fun t => ?_)
  split <;> simp [apply_ite State.minima]

@[simp] theorem execDbgsResume_kept (core slot : Nat) (v : Word) (s : State) :
    FusesKept s.minima (execDbgsResume core slot v s) := by
  unfold execDbgsResume
  refine State.atKer_kept (fun t => ?_)
  split <;> simp [apply_ite State.minima]

@[simp] theorem State.dbgdSet_minima (s : State) (pno : Nat) (v : Word) : (s.dbgdSet pno v).minima = s.minima := by
  unfold State.dbgdSet
  dsimp only
  (repeat' split) <;> simp

@[simp] theorem State.readInto_minima (s : State) (core slot : Nat) (d : Code) (v : Word) :
    (s.readInto core slot d v).minima = s.minima := by
  unfold State.readInto
  (repeat' split) <;> simp

@[simp] theorem execDbgdRead_kept (core slot : Nat) (d : Code) (s : State) :
    FusesKept s.minima (execDbgdRead core slot d s) := by
  unfold execDbgdRead
  refine State.atKer_kept (fun t => ?_)
  split <;> simp

@[simp] theorem execDbgdWrite_kept (core slot : Nat) (v : Word) (s : State) :
    FusesKept s.minima (execDbgdWrite core slot v s) := by
  unfold execDbgdWrite
  refine State.atKer_kept (fun t => ?_)
  split <;> simp

@[simp] theorem State.stopRest_minima (s : State) (pno : Nat) (x0 : DebugTarget) :
    (s.stopRest pno x0).minima = s.minima := by
  unfold State.stopRest; split <;> simp

@[simp] theorem execOperatorDebugStop_kept (part : Nat) (target : DebugTarget) (s : State) :
    FusesKept s.minima (execOperatorDebugStop part target s) := by
  unfold execOperatorDebugStop
  simp [apply_ite State.minima]

@[simp] theorem execDebugStopAck_kept (s : State) : FusesKept s.minima (execDebugStopAck s) := by
  unfold execDebugStopAck; split <;> simp

@[simp] theorem execOperatorDisclosureRead_kept (part : Nat) (query : DiscQuery) (s : State) :
    FusesKept s.minima (execOperatorDisclosureRead part query s) := rfl

@[simp] theorem State.levelOneClass_minima (s : State) (pno cls : Nat) :
    (s.levelOneClass pno cls).minima = s.minima := by
  unfold State.levelOneClass
  simp [apply_ite State.minima]

@[simp] theorem execDisclosureIntervalEnd_kept (part : Nat) (s : State) :
    FusesKept s.minima (execDisclosureIntervalEnd part s) := by
  unfold execDisclosureIntervalEnd
  (repeat' split) <;> simp

end Sys2Proof.Machine
end

section
/-! The special registers and the host's registers: the fuses stay (R42). -/

namespace Sys2Proof.Machine

@[simp] theorem execTrap_kept (p : Pred) (imm : BitVec 33) (s : State) : FusesKept s.minima (execTrap p imm s) := by
  simp [execTrap]

@[simp] theorem execBkpt_kept (p : Pred) (s : State) : FusesKept s.minima (execBkpt p s) := by simp [execBkpt]

@[simp] theorem State.rft_minima (s : State) : (s.rft).minima = s.minima := by
  unfold State.rft
  dsimp only
  split
  · simp
  · split
    · split <;> simp [apply_ite State.minima]
    · simp [apply_ite State.minima]

@[simp] theorem execRft_kept (p : Pred) (s : State) : FusesKept s.minima (execRft p s) := by
  unfold execRft
  simp [apply_ite State.minima]

@[simp] theorem execSrrd_kept (p : Pred) (d : Code) (num : BitVec 12) (s : State) :
    FusesKept s.minima (execSrrd p d num s) := by
  unfold execSrrd
  simp [apply_ite State.minima]

@[simp] theorem State.partWrite_minima (s : State) (n : Nat) (v : Word) : (s.partWrite n v).minima = s.minima := by
  unfold State.partWrite
  (repeat' split) <;> simp

@[simp] theorem State.coreWrite_minima (s : State) (n : Nat) (v : Word) : (s.coreWrite n v).minima = s.minima := by
  unfold State.coreWrite
  (repeat' split) <;> simp

@[simp] theorem State.sysWrite_minima (s : State) (n : Nat) (v : Word) : (s.sysWrite n v).minima = s.minima := by
  unfold State.sysWrite
  (repeat' split) <;> simp

@[simp] theorem execSrwr_kept (p : Pred) (a : Code) (num : BitVec 12) (s : State) :
    FusesKept s.minima (execSrwr p a num s) := by
  unfold execSrwr
  simp [apply_ite State.minima]

@[simp] theorem execTlbinv_kept (p : Pred) (a : Code) (all : Bool) (s : State) :
    FusesKept s.minima (execTlbinv p a all s) := by
  unfold execTlbinv
  simp [apply_ite State.minima]

@[simp] theorem execCinv_kept (p : Pred) (a : Code) (x : CinvKind) (s : State) :
    FusesKept s.minima (execCinv p a x s) := by
  unfold execCinv
  refine issue_kept (fun t => ?_)
  dsimp only
  (repeat' split) <;> simp

@[simp] theorem execStopw_kept (p : Pred) (sc : Scope) (s : State) : FusesKept s.minima (execStopw p sc s) := by
  unfold execStopw
  simp [apply_ite State.minima]

@[simp] theorem State.goCore_minima (s : State) (c : Nat) (m : Nat × Nat × Nat) : (s.goCore c m).minima = s.minima := by
  unfold State.goCore
  refine (foldl_minima (fun t e => ?_) _ _).trans (foldl_minima (fun _ _ => State.unwatch_minima ..) _ _)
  split
  · exact State.noteState_minima ..
  · rfl

@[simp] theorem execResw_kept (p : Pred) (sc : Scope) (s : State) : FusesKept s.minima (execResw p sc s) := by
  unfold execResw
  refine issue_kept (by simp)

@[simp] theorem execLogmk_kept (p : Pred) (a : Code) (s : State) : FusesKept s.minima (execLogmk p a s) := by
  unfold execLogmk
  simp [apply_ite State.minima]

@[simp] theorem execCntrd_kept (p : Pred) (d : Code) (num : BitVec 12) (s : State) :
    FusesKept s.minima (execCntrd p d num s) := by simp [execCntrd]

@[simp] theorem State.pageWrite_minima (s : State) (pno off : Nat) (v : Word) :
    (s.pageWrite pno off v).minima = s.minima := by
  unfold State.pageWrite
  (repeat' split) <;> simp [apply_ite State.minima]

@[simp] theorem State.pfWrite_kept (s : State) (off : Nat) (v : Word) : FusesKept s.minima (s.pfWrite off v) := by
  unfold State.pfWrite
  split
  · exact execDevnumWrite_kept ..
  · exact State.phcmdWrite_minima ..
  · exact ite_minima rfl rfl
  · exact ite_minima rfl rfl
  · exact State.olbaseWrite_minima ..
  · exact State.olcfgWrite_minima ..
  · rfl
  · split
    · dsimp only
      split
      · exact (State.modPort_minima s _ _) ▸ execGpsRetrain_kept ..
      · exact State.modPort_minima ..
    · split <;> rfl

@[simp] theorem execHostRegisterWrite_kept (fn : HostFn) (off : Nat) (v : Word) (s : State) :
    FusesKept s.minima (execHostRegisterWrite fn off v s) := by
  unfold execHostRegisterWrite
  (repeat' split) <;> simp

end Sys2Proof.Machine
end

section
/-! The ray and the sampling units: the fuses stay (R42). -/

namespace Sys2Proof.Machine

@[simp] theorem State.scKept_minima (s : State) (ts a : Nat) : (s.scKept ts a).2.minima = s.minima := by
  unfold State.scKept; split <;> simp

@[simp] theorem State.scCells_minima (s : State) (x0 : List Nat) : (s.scCells x0).2.minima = s.minima := by
  induction x0 generalizing s with
  | nil => rfl
  | cons c l ih =>
    rw [State.scCells]
    dsimp only
    split
    · split
      · exact State.scKept_minima ..
      · exact (ih ..).trans (State.scKept_minima ..)
    · split
      · exact State.scKept_minima ..
      · exact (ih ..).trans (by simp)

@[simp] theorem State.smplCells_minima {s : State} {x0 : List (Nat × Nat)} {x1 : List Nat → State → State}
    (hx1 : ∀ y0 t, (x1 y0 t).minima = t.minima) :
    (s.smplCells x0 x1).minima = s.minima := by
  induction x0 generalizing s x1 with
  | nil => exact hx1 ..
  | cons q l ih =>
    rw [State.smplCells]
    split
    · exact badAccess_minima ..
    · exact State.xlate_minima (fun _ _ _ => badAccess_minima ..) fun pa t => ih fun y u => hx1 ..

@[simp] theorem State.smplRead_minima {s : State} {ea : Word} {n al : Nat} {k : List Byte → State → State}
    (hk : ∀ y0 t, (k y0 t).minima = t.minima) :
    (s.smplRead ea n al k).minima = s.minima := by
  unfold State.smplRead
  dsimp only
  split
  · exact badAccess_minima ..
  split
  · exact badAccess_minima ..
  · refine State.smplCells_minima fun cells t => ?_
    split
    next h => exact (badAccess_minima ..).trans (minima_of_eq (State.scCells_minima ..) h)
    next h => exact (hk ..).trans (minima_of_eq (State.scCells_minima ..) h)

@[simp] theorem execBoxt_kept (p : Pred) (d a b : Code) (s : State) : FusesKept s.minima (execBoxt p d a b s) := by
  simp [execBoxt]

@[simp] theorem execTrit_kept (p : Pred) (d a b : Code) (s : State) : FusesKept s.minima (execTrit p d a b s) := by
  simp [execTrit]

@[simp] theorem execTspush_kept (p : Pred) (a : Code) (s : State) : FusesKept s.minima (execTspush p a s) := by
  unfold execTspush
  refine issue_kept (fun t => ?_)
  simp [apply_ite State.minima]

@[simp] theorem execTspop_kept (p : Pred) (d : Code) (s : State) : FusesKept s.minima (execTspop p d s) := by
  unfold execTspop
  refine issue_kept (fun t => ?_)
  dsimp only
  (repeat' split) <;> simp

@[simp] theorem execTsclr_kept (p : Pred) (s : State) : FusesKept s.minima (execTsclr p s) := by simp [execTsclr]

@[simp] theorem execSld_kept (p : Pred) (d a : Code) (sz : Size) (s : State) :
    FusesKept s.minima (execSld p d a sz s) := by simp [execSld]

@[simp] theorem State.texels_minima {s : State} {x0 : List Word} {x1 : List Nat → State → State}
    (hx1 : ∀ y0 t, (x1 y0 t).minima = t.minima) :
    (s.texels x0 x1).minima = s.minima := by
  induction x0 generalizing s x1 with
  | nil => exact hx1 ..
  | cons a l ih =>
    rw [State.texels]
    exact State.smplRead_minima fun bs t => ih fun r u => hx1 ..

@[simp] theorem execSmpl_kept (p : Pred) (d a b : Code) (x : SmplKind) (s : State) :
    FusesKept s.minima (execSmpl p d a b x s) := by
  unfold execSmpl
  refine issue_kept (fun t => ?_)
  dsimp only
  refine State.smplRead_minima (fun y u => ?_)
  (repeat' split) <;> simp

end Sys2Proof.Machine
end

section
/-! Fetching: the fuses stay (R42). -/

namespace Sys2Proof.Machine

theorem State.fetchWord_minima {s : State} {va : Word} :
    (∀ {x u}, (s.fetchWord va) = .ok (x, u) → u.minima = s.minima) ∧
    ∀ {u}, (s.fetchWord va) = .error u → u.minima = s.minima := by
  unfold State.fetchWord
  split
  · simp
  · split
    · simp
    · split
      · simp
      · dsimp only
        split
        next h => split <;> simp [(State.translate_kept ..).fault h]
        next h => simp [(State.translate_kept ..).malformed h]
        next h => simp
        next h => (repeat' split) <;> simp [(State.translate_kept ..).ok h]

@[simp] theorem State.atBoundary_minima (s : State) (c sl : Nat) : (s.atBoundary c sl).minima = s.minima := by
  unfold State.atBoundary
  dsimp only
  split <;> simp [apply_ite State.minima]

@[simp] theorem State.noteTileOuts_minima (s : State) (t : Thread) : (s.noteTileOuts t).minima = s.minima := by
  unfold State.noteTileOuts
  split
  · rfl
  split
  · rfl
  · refine foldl_minima (fun u x => ?_) _ _
    split
    · rfl
    split
    · rfl
    · exact State.modLaunch_minima ..

@[simp] theorem State.atFetch_minima (s : State) (t : Thread) : (s.atFetch t).minima = s.minima := by
  unfold State.atFetch; split <;> simp

end Sys2Proof.Machine
end

section
/-! Every instruction and every event: the fuses stay, but for RAISE_FUSED_MINIMUM, which raises one of them (R42). -/

namespace Sys2Proof.Machine

/-- What an answer goes on with has no lower fused minimum. -/
def Rises (s : State) : Res → Prop
  | .next t => MinimaRise s t
  | _ => True

theorem MinimaRise.of_eq {s t : State} (h : t.minima = s.minima) : MinimaRise s t := fun i => by rw [h]

theorem FusesKept.rises {s : State} {r : Res} (h : FusesKept s.minima r) : Rises s r := by
  cases r with
  | next t => exact .of_eq h
  | fault e => trivial
  | refused e => trivial

theorem Rises.after {s t : State} {r : Res} (h : t.minima = s.minima) (hr : Rises t r) : Rises s r := by
  cases r with
  | next u => exact fun i => h ▸ hr i
  | fault e => trivial
  | refused e => trivial

theorem Rises.ite {s : State} {c : Prop} [Decidable c] {r₁ r₂ : Res} (h₁ : Rises s r₁) (h₂ : Rises s r₂) :
    Rises s (if c then r₁ else r₂) := by
  split
  · exact h₁
  · exact h₂

theorem execRaiseFusedMinimum_rises (proc : Nat) (s : State) : Rises s (execRaiseFusedMinimum proc s) := by
  unfold execRaiseFusedMinimum
  split
  case h_1 v _ =>
    split
    case isTrue hv =>
      intro i
      rw [KMap.lookD_put]
      split
      case isTrue hi => subst hi; exact Nat.le_of_lt hv
      case isFalse => exact Nat.le_refl _
    case isFalse => exact .of_eq rfl
  case h_2 => exact .of_eq rfl

/-- An instruction or event other than RAISE_FUSED_MINIMUM keeps the fuses. -/
theorem exec_kept (i : Instr) (s : State) (h : ∀ proc, i ≠ .raiseFusedMinimum proc) : FusesKept s.minima (exec i s) := by
  cases i with
  | add => exact execAdd_kept ..
  | sub => exact execSub_kept ..
  | mul => exact execMul_kept ..
  | mulh => exact execMulh_kept ..
  | mulhz => exact execMulhz_kept ..
  | div => exact execDiv_kept ..
  | divz => exact execDivz_kept ..
  | rem => exact execRem_kept ..
  | remz => exact execRemz_kept ..
  | and => exact execAnd_kept ..
  | or => exact execOr_kept ..
  | xor => exact execXor_kept ..
  | andn => exact execAndn_kept ..
  | shl => exact execShl_kept ..
  | shr => exact execShr_kept ..
  | sha => exact execSha_kept ..
  | rol => exact execRol_kept ..
  | min => exact execMin_kept ..
  | max => exact execMax_kept ..
  | minz => exact execMinz_kept ..
  | maxz => exact execMaxz_kept ..
  | clz => exact execClz_kept ..
  | popc => exact execPopc_kept ..
  | brev => exact execBrev_kept ..
  | madd => exact execMadd_kept ..
  | bfx => exact execBfx_kept ..
  | bfi => exact execBfi_kept ..
  | addw => exact execAddw_kept ..
  | subw => exact execSubw_kept ..
  | mulw => exact execMulw_kept ..
  | addi => exact execAddi_kept ..
  | andi => exact execAndi_kept ..
  | ori => exact execOri_kept ..
  | xori => exact execXori_kept ..
  | shli => exact execShli_kept ..
  | shri => exact execShri_kept ..
  | shai => exact execShai_kept ..
  | muli => exact execMuli_kept ..
  | ldi => exact execLdi_kept ..
  | ldih => exact execLdih_kept ..
  | lea => exact execLea_kept ..
  | mov => exact execMov_kept ..
  | getid => exact execGetid_kept ..
  | cmp => exact execCmp_kept ..
  | cmpi => exact execCmpi_kept ..
  | plog => exact execPlog_kept ..
  | sel => exact execSel_kept ..
  | pget => exact execPget_kept ..
  | pset => exact execPset_kept ..
  | br => exact execBr_kept ..
  | jmp => exact execJmp_kept ..
  | call => exact execCall_kept ..
  | callr => exact execCallr_kept ..
  | ret => exact execRet_kept ..
  | loop => exact execLoop_kept ..
  | nop => exact execNop_kept ..
  | exit => exact execExit_kept ..
  | ld => exact execLd_kept ..
  | st => exact execSt_kept ..
  | ldx => exact execLdx_kept ..
  | stx => exact execStx_kept ..
  | lda => exact execLda_kept ..
  | stl => exact execStl_kept ..
  | ldf => exact execLdf_kept ..
  | stf => exact execStf_kept ..
  | clre => exact execClre_kept ..
  | pref => exact execPref_kept ..
  | amo => exact execAmo_kept ..
  | cas => exact execCas_kept ..
  | red => exact execRed_kept ..
  | famo => exact execFamo_kept ..
  | fred => exact execFred_kept ..
  | watch => exact execWatch_kept ..
  | fence => exact execFence_kept ..
  | pfence => exact execPfence_kept ..
  | bar => exact execBar_kept ..
  | bara => exact execBara_kept ..
  | barw => exact execBarw_kept ..
  | qpeek => exact execQpeek_kept ..
  | qcnt => exact execQcnt_kept ..
  | qbind => exact execQbind_kept ..
  | qflush => exact execQflush_kept ..
  | vsync => exact execVsync_kept ..
  | kwait => exact execKwait_kept ..
  | spawn => exact execSpawn_kept ..
  | joinw => exact execJoinw_kept ..
  | wfw => exact execWfw_kept ..
  | tnew => exact execTnew_kept ..
  | yield => exact execYield_kept ..
  | park => exact execPark_kept ..
  | fadd => exact execFadd_kept ..
  | fsub => exact execFsub_kept ..
  | fmul => exact execFmul_kept ..
  | ffma => exact execFfma_kept ..
  | fdiv => exact execFdiv_kept ..
  | fsqrt => exact execFsqrt_kept ..
  | fmin => exact execFmin_kept ..
  | fmax => exact execFmax_kept ..
  | fcmp p pd a b fx sz rm => exact execFcmp_kept p pd a b fx sz rm s
  | fcvt => exact execFcvt_kept ..
  | fsgn p d a b fx sz rm => exact execFsgn_kept p d a b fx sz rm s
  | fclass p d a sz rm => exact execFclass_kept p d a sz rm s
  | vadd => exact execVadd_kept ..
  | vsub => exact execVsub_kept ..
  | vmul => exact execVmul_kept ..
  | vfma => exact execVfma_kept ..
  | vmin => exact execVmin_kept ..
  | vmax => exact execVmax_kept ..
  | vabs => exact execVabs_kept ..
  | vscl => exact execVscl_kept ..
  | vaxpy => exact execVaxpy_kept ..
  | vand => exact execVand_kept ..
  | vor => exact execVor_kept ..
  | vxor => exact execVxor_kept ..
  | vshl => exact execVshl_kept ..
  | vshr => exact execVshr_kept ..
  | vcmp => exact execVcmp_kept ..
  | vsel => exact execVsel_kept ..
  | vcmul => exact execVcmul_kept ..
  | vcmac => exact execVcmac_kept ..
  | vmov => exact execVmov_kept ..
  | vred => exact execVred_kept ..
  | vdot => exact execVdot_kept ..
  | vscan => exact execVscan_kept ..
  | vcvt => exact execVcvt_kept ..
  | vldg => exact execVldg_kept ..
  | vstg => exact execVstg_kept ..
  | vgath => exact execVgath_kept ..
  | vscat => exact execVscat_kept ..
  | vbcst => exact execVbcst_kept ..
  | viota => exact execViota_kept ..
  | vperm => exact execVperm_kept ..
  | vexp => exact execVexp_kept ..
  | vlog => exact execVlog_kept ..
  | vrcp => exact execVrcp_kept ..
  | vrsq => exact execVrsq_kept ..
  | vsin => exact execVsin_kept ..
  | vcos => exact execVcos_kept ..
  | enq => exact execEnq_kept ..
  | waitj => exact execWaitj_kept ..
  | pollj => exact execPollj_kept ..
  | jstat => exact execJstat_kept ..
  | zfset => exact execZfset_kept ..
  | zfget => exact execZfget_kept ..
  | sclw => exact execSclw_kept ..
  | cbld => exact execCbld_kept ..
  | chwp => exact execChwp_kept ..
  | boxt => exact execBoxt_kept ..
  | trit => exact execTrit_kept ..
  | tspush => exact execTspush_kept ..
  | tspop => exact execTspop_kept ..
  | tsclr => exact execTsclr_kept ..
  | smpl => exact execSmpl_kept ..
  | sld => exact execSld_kept ..
  | lset => exact execLset_kept ..
  | lget => exact execLget_kept ..
  | lsplit => exact execLsplit_kept ..
  | lmerge => exact execLmerge_kept ..
  | lreq => exact execLreq_kept ..
  | ldone => exact execLdone_kept ..
  | lepoch => exact execLepoch_kept ..
  | wgalloc => exact execWgalloc_kept ..
  | wgemit => exact execWgemit_kept ..
  | wgtake => exact execWgtake_kept ..
  | wgfree => exact execWgfree_kept ..
  | paya => exact execPaya_kept ..
  | payp => exact execPayp_kept ..
  | trap => exact execTrap_kept ..
  | rft => exact execRft_kept ..
  | srrd => exact execSrrd_kept ..
  | srwr => exact execSrwr_kept ..
  | bkpt => exact execBkpt_kept ..
  | tlbinv => exact execTlbinv_kept ..
  | cinv => exact execCinv_kept ..
  | stopw => exact execStopw_kept ..
  | resw => exact execResw_kept ..
  | logmk => exact execLogmk_kept ..
  | cntrd => exact execCntrd_kept ..
  | powerOn => exact execPowerOn_kept ..
  | bootRestart => exact execBootRestart_kept ..
  | raiseFusedMinimum proc => exact absurd rfl (h proc)
  | getVersion => exact execGetVersion_kept ..
  | getCapabilities => exact execGetCapabilities_kept ..
  | negotiateAlgorithms => exact execNegotiateAlgorithms_kept ..
  | getDigests => exact execGetDigests_kept ..
  | getCertificate => exact execGetCertificate_kept ..
  | challenge => exact execChallenge_kept ..
  | getMeasurements => exact execGetMeasurements_kept ..
  | spdmUnsupportedRequest code => exact execSpdmUnsupportedRequest_kept code s
  | thermalTrip => exact execThermalTrip_kept ..
  | thermalRelease => exact execThermalRelease_kept ..
  | powerThrottleStart => exact execPowerThrottleStart_kept ..
  | powerThrottleEnd => exact execPowerThrottleEnd_kept ..
  | phcmdAssign => exact execPhcmdAssign_kept ..
  | phcmdRelease => exact execPhcmdRelease_kept ..
  | releaseScrub => exact execReleaseScrub_kept ..
  | devnumWrite => exact execDevnumWrite_kept ..
  | gpsRetrain => exact execGpsRetrain_kept ..
  | linkTrainingDone => exact execLinkTrainingDone_kept ..
  | portDown => exact execPortDown_kept ..
  | gondolaForward => exact execGondolaForward_kept ..
  | remoteAccessArrival => exact execRemoteAccessArrival_kept ..
  | remoteReply => exact execRemoteReply_kept ..
  | remoteAccessTimeout => exact execRemoteAccessTimeout_kept ..
  | vfConfigAccess => exact execVfConfigAccess_kept ..
  | apertureRead => exact execApertureRead_kept ..
  | apertureWrite => exact execApertureWrite_kept ..
  | hostRegisterWrite => exact execHostRegisterWrite_kept ..
  | qdbWrite => exact execQdbWrite_kept ..
  | qcfgEnable => exact execQcfgEnable_kept ..
  | qcfgDisable => exact execQcfgDisable_kept ..
  | qcfgPause => exact execQcfgPause_kept ..
  | qcfgUnpause => exact execQcfgUnpause_kept ..
  | ifvwWrite => exact execIfvwWrite_kept ..
  | frcfgEnable => exact execFrcfgEnable_kept ..
  | frcfgDisable => exact execFrcfgDisable_kept ..
  | fresRetry => exact execFresRetry_kept ..
  | fresFatalPageflt => exact execFresFatalPageflt_kept ..
  | fresFatalProt => exact execFresFatalProt_kept ..
  | frheadWrite => exact execFrheadWrite_kept ..
  | olcfgEnable => exact execOlcfgEnable_kept ..
  | launch => exact execLaunch_kept ..
  | rootPlace => exact execRootPlace_kept ..
  | launchComplete => exact execLaunchComplete_kept ..
  | graphLoad => exact execGraphLoad_kept ..
  | triggerBind => exact execTriggerBind_kept ..
  | copy => exact execCopy_kept ..
  | copyComplete => exact execCopyComplete_kept ..
  | signal => exact execSignal_kept ..
  | wait => exact execWait_kept ..
  | waitSatisfied => exact execWaitSatisfied_kept ..
  | layerTable => exact execLayerTable_kept ..
  | headBind => exact execHeadBind_kept ..
  | exportQueue => exact execExportQueue_kept ..
  | exportComplete => exact execExportComplete_kept ..
  | importQueue => exact execImportQueue_kept ..
  | trigWrite => exact execTrigWrite_kept ..
  | graphNodeLaunch => exact execGraphNodeLaunch_kept ..
  | graphNodeSignal => exact execGraphNodeSignal_kept ..
  | graphNodeLoop => exact execGraphNodeLoop_kept ..
  | graphNodeCond => exact execGraphNodeCond_kept ..
  | graphNodeEnd => exact execGraphNodeEnd_kept ..
  | remoteLaunchRequest => exact execRemoteLaunchRequest_kept ..
  | remoteLaneStart => exact execRemoteLaneStart_kept ..
  | remoteLaunchResult => exact execRemoteLaunchResult_kept ..
  | remoteLaunchTimeout => exact execRemoteLaunchTimeout_kept ..
  | dploadWrite => exact execDploadWrite_kept ..
  | policyCheckDone => exact execPolicyCheckDone_kept ..
  | operatorDisclosureRead => exact execOperatorDisclosureRead_kept ..
  | operatorDebugStop => exact execOperatorDebugStop_kept ..
  | debugStopAck => exact execDebugStopAck_kept ..
  | disclosureIntervalEnd => exact execDisclosureIntervalEnd_kept ..
  | frameTick => exact execFrameTick_kept ..
  | frameEncode => exact execFrameEncode_kept ..
  | ecfgKeySet => exact execEcfgKeySet_kept ..
  | threadCreate => exact execThreadCreate_kept ..
  | frameDelivery => exact execFrameDelivery_kept ..
  | stealRequest => exact execStealRequest_kept ..
  | stealServe => exact execStealServe_kept ..
  | stealReplyArrival => exact execStealReplyArrival_kept ..
  | stealRetryTimeout => exact execStealRetryTimeout_kept ..
  | terminationCount => exact execTerminationCount_kept ..
  | rotationBoundary => exact execRotationBoundary_kept ..
  | threadDisplace => exact execThreadDisplace_kept ..
  | displacedResume => exact execDisplacedResume_kept ..
  | drcfgBind => exact execDrcfgBind_kept ..
  | drcfgUnbind => exact execDrcfgUnbind_kept ..
  | dtailWrite => exact execDtailWrite_kept ..
  | dispenserDeliver => exact execDispenserDeliver_kept ..
  | wgdaBind => exact execWgdaBind_kept ..
  | wgdaUnbind => exact execWgdaUnbind_kept ..
  | wgBatchTimeout => exact execWgBatchTimeout_kept ..
  | wgBatchDeliver => exact execWgBatchDeliver_kept ..
  | payloadFrameDeliver => exact execPayloadFrameDeliver_kept ..
  | channelWake => exact execChannelWake_kept ..
  | proxyBatchTimeout => exact execProxyBatchTimeout_kept ..
  | proxyDelivery => exact execProxyDelivery_kept ..
  | proxyCreditReturn => exact execProxyCreditReturn_kept ..
  | coreSleep => exact execCoreSleep_kept ..
  | coreWake => exact execCoreWake_kept ..
  | ldfWake => exact execLdfWake_kept ..
  | storeBufferDrain => exact execStoreBufferDrain_kept ..
  | sliceAtomic => exact execSliceAtomic_kept ..
  | watchWake => exact execWatchWake_kept ..
  | watchPoll => exact execWatchPoll_kept ..
  | tableWalk => exact execTableWalk_kept ..
  | faultMessage => exact execFaultMessage_kept ..
  | releaseProbeEcho => exact execReleaseProbeEcho_kept ..
  | storeAck => exact execStoreAck_kept ..
  | joinwWake => exact execJoinwWake_kept ..
  | kwaitWake => exact execKwaitWake_kept ..
  | parkExpire => exact execParkExpire_kept ..
  | lreqWake => exact execLreqWake_kept ..
  | payaWake => exact execPayaWake_kept ..
  | spawnRingWake => exact execSpawnRingWake_kept ..
  | stopwComplete => exact execStopwComplete_kept ..
  | tlbinvComplete => exact execTlbinvComplete_kept ..
  | vectorEntryPerform => exact execVectorEntryPerform_kept ..
  | lateTrapEntry => exact execLateTrapEntry_kept ..
  | enqAccept => exact execEnqAccept_kept ..
  | waitjWake => exact execWaitjWake_kept ..
  | engineBadcmd => exact execEngineBadcmd_kept ..
  | lds => exact execLds_kept ..
  | mma => exact execMma_kept ..
  | sta => exact execSta_kept ..
  | aclr => exact execAclr_kept ..
  | swaps => exact execSwaps_kept ..
  | cmma => exact execCmma_kept ..
  | mstat => exact execMstat_kept ..
  | fft => exact execFft_kept ..
  | ifft => exact execIfft_kept ..
  | xact => exact execXact_kept ..
  | cpy => exact execCpy_kept ..
  | gthr => exact execGthr_kept ..
  | sctr => exact execSctr_kept ..
  | fill => exact execFill_kept ..
  | ared => exact execAred_kept ..
  | bcst => exact execBcst_kept ..
  | agth => exact execAgth_kept ..
  | collectiveContribution => exact execCollectiveContribution_kept ..
  | collectiveTimeout => exact execCollectiveTimeout_kept ..
  | hcfgWrite => exact execHcfgWrite_kept ..
  | cpreqPreempt => exact execCpreqPreempt_kept ..
  | preemptSave => exact execPreemptSave_kept ..
  | cpreqResume => exact execCpreqResume_kept ..
  | dbgsStop => exact execDbgsStop_kept ..
  | dbgsResume => exact execDbgsResume_kept ..
  | dbgdRead => exact execDbgdRead_kept ..
  | dbgdWrite => exact execDbgdWrite_kept ..
  | eccCorrected => exact execEccCorrected_kept ..
  | eccUncorrectable => exact execEccUncorrectable_kept ..
  | machineCheck => exact execMachineCheck_kept ..
  | ocfgEnable => exact execOcfgEnable_kept ..
  | stateLogTimeout => exact execStateLogTimeout_kept ..
  | ringFetchFault => exact execRingFetchFault_kept ..
  | badpkt => exact execBadpkt_kept ..
  | acceptanceReply => exact execAcceptanceReply_kept ..

theorem exec_rises (i : Instr) (s : State) : Rises s (exec i s) := by
  by_cases h : ∃ proc, i = .raiseFusedMinimum proc
  · obtain ⟨proc, rfl⟩ := h
    exact execRaiseFusedMinimum_rises proc s
  · exact (exec_kept i s fun proc hp => h ⟨proc, hp⟩).rises

end Sys2Proof.Machine
end

section
/-! The events that a state offers keep the fuses (R42). -/

namespace Sys2Proof.Machine

/-- Every event of a list keeps the fuses. -/
structure EvsKept (l : List Ev) : Prop where
  kept : ∀ e ∈ l, ∀ s, FusesKept s.minima (e s)

theorem evsKept_iff {l : List Ev} : EvsKept l ↔ ∀ e ∈ l, ∀ s, FusesKept s.minima (e s) := ⟨EvsKept.kept, .mk⟩

@[simp] theorem evsKept_nil : EvsKept [] := ⟨nofun⟩

@[simp] theorem evsKept_cons (e : Ev) (l : List Ev) : EvsKept (e :: l) ↔ (∀ s, FusesKept s.minima (e s)) ∧ EvsKept l := by
  simp only [evsKept_iff, List.forall_mem_cons]

@[simp] theorem evsKept_append (l m : List Ev) : EvsKept (l ++ m) ↔ EvsKept l ∧ EvsKept m := by
  simp only [evsKept_iff, List.forall_mem_append]

@[simp] theorem evsKept_map {α : Type} (f : α → Ev) (l : List α) :
    EvsKept (l.map f) ↔ ∀ a ∈ l, ∀ s, FusesKept s.minima (f a s) := by
  simp only [evsKept_iff, List.forall_mem_map]

theorem EvsKept.flatMap {α : Type} {f : α → List Ev} (h : ∀ a, EvsKept (f a)) (l : List α) : EvsKept (l.flatMap f) where
  kept e he := by
    obtain ⟨a, -, ha⟩ := List.mem_flatMap.mp he
    exact (h a).kept e ha

theorem EvsKept.ite {c : Prop} [Decidable c] {l m : List Ev} (h : EvsKept l) (k : EvsKept m) :
    EvsKept (if c then l else m) := by
  split
  · exact h
  · exact k

@[simp] theorem parkEvents_kept (c sl : Nat) (w : Why) : EvsKept (parkEvents c sl w) := by
  unfold parkEvents
  split <;> simp

@[simp] theorem slotEvents_kept (c sl : Nat) (t : Thread) : EvsKept (slotEvents c sl t) := by
  unfold slotEvents
  simp only [evsKept_append, evsKept_cons, evsKept_nil, and_true]
  refine ⟨⟨⟨?_, ?_⟩, .ite (by simp) evsKept_nil⟩, fun s => execThreadDisplace_kept c sl s⟩
  · split <;> simp
  · split <;> simp

@[simp] theorem coreEvents_kept (c : Nat) (x : Core) : EvsKept (coreEvents c x) := by
  unfold coreEvents
  simp only [evsKept_append]
  refine ⟨⟨⟨⟨⟨⟨?_, ?_⟩, ?_⟩, .ite evsKept_nil ?_⟩, .ite ?_ evsKept_nil⟩, .ite evsKept_nil ?_⟩, ?_⟩
  · simp
  · exact .flatMap (fun _ => slotEvents_kept ..) _
  · exact .flatMap (fun l => by simp) _
  · simp
  · simp
  · simp
  · exact .flatMap (fun sl => by simp) _

theorem engEvents_kept (cl eng : Nat) (jobs : List Job) : EvsKept (engEvents cl eng jobs) := by
  unfold engEvents
  refine .ite evsKept_nil ?_
  rw [evsKept_cons]
  refine ⟨fun s => execEngineBadcmd_kept cl eng s, .ite ?_ (.ite ?_ (.flatMap (fun ch => ?_) _))⟩
  · simp
  · simp
  · simp [chanEvents]

theorem clusterEvents_kept (cl : Nat) (x : Cluster) : EvsKept (clusterEvents cl x) := by
  unfold clusterEvents
  simp only [evsKept_append]
  refine ⟨⟨⟨.ite ?_ evsKept_nil, .ite ?_ evsKept_nil⟩, ?_⟩, .flatMap (fun _ => engEvents_kept ..) _⟩
  · simp
  · simp
  · simp

theorem queueEvents_kept (pno q : Nat) (x : Queue) : EvsKept (queueEvents pno q x) := .ite evsKept_nil (by simp)

theorem pktEvents_kept (pno pid : Nat) (k : Pkt) : EvsKept (pktEvents pno pid k) := by
  unfold pktEvents
  split <;> simp

theorem trigEvents_kept (pno n : Nat) (t : Trig) : EvsKept (trigEvents pno n t) := .ite evsKept_nil (by simp)

theorem partEvents_kept (pno : Nat) (p : Part) : EvsKept (partEvents pno p) := by
  unfold partEvents
  refine .ite (by simp) ?_
  simp only [evsKept_append]
  refine ⟨⟨⟨⟨⟨⟨⟨⟨?_, ?_⟩, ?_⟩, .ite ?_ evsKept_nil⟩, ?_⟩, .ite evsKept_nil ?_⟩, .ite ?_ evsKept_nil⟩, .ite evsKept_nil ?_⟩, ?_⟩
  · exact .flatMap (fun _ => queueEvents_kept ..) _
  · exact .flatMap (fun _ => pktEvents_kept ..) _
  · exact .flatMap (fun e => by simp) _
  · simp
  · exact .flatMap (fun _ => trigEvents_kept ..) _
  · simp
  · simp
  · simp
  · simp

theorem flightEvents_kept (f : Sent) : EvsKept (flightEvents f) := by
  unfold flightEvents
  split <;> simp

theorem State.stealEvents_kept (s : State) : EvsKept s.stealEvents :=
  .flatMap (fun e => .flatMap (fun l => .ite (by simp) evsKept_nil) _) _

theorem State.events_kept (s : State) : EvsKept s.events := by
  unfold State.events
  simp only [evsKept_append]
  refine ⟨⟨⟨⟨⟨?_, ?_⟩, ?_⟩, ?_⟩, s.stealEvents_kept⟩, by simp⟩
  · exact .flatMap flightEvents_kept _
  · exact .flatMap (fun _ => coreEvents_kept ..) _
  · exact .flatMap (fun _ => clusterEvents_kept ..) _
  · exact .flatMap (fun _ => partEvents_kept ..) _

/-- Every event of a list that are due at a time keeps the fuses. -/
structure TimedKept (l : List (Nat × Ev)) : Prop where
  kept : ∀ e ∈ l, ∀ s, FusesKept s.minima (e.2 s)

theorem timedKept_iff {l : List (Nat × Ev)} : TimedKept l ↔ ∀ e ∈ l, ∀ s, FusesKept s.minima (e.2 s) :=
  ⟨TimedKept.kept, .mk⟩

@[simp] theorem timedKept_nil : TimedKept [] := ⟨nofun⟩

@[simp] theorem timedKept_cons (e : Nat × Ev) (l : List (Nat × Ev)) :
    TimedKept (e :: l) ↔ (∀ s, FusesKept s.minima (e.2 s)) ∧ TimedKept l := by
  simp only [timedKept_iff, List.forall_mem_cons]

@[simp] theorem timedKept_append (l m : List (Nat × Ev)) : TimedKept (l ++ m) ↔ TimedKept l ∧ TimedKept m := by
  simp only [timedKept_iff, List.forall_mem_append]

@[simp] theorem timedKept_map {α : Type} (f : α → Nat × Ev) (l : List α) :
    TimedKept (l.map f) ↔ ∀ a ∈ l, ∀ s, FusesKept s.minima ((f a).2 s) := by
  simp only [timedKept_iff, List.forall_mem_map]

theorem TimedKept.flatMap {α : Type} {f : α → List (Nat × Ev)} (h : ∀ a, TimedKept (f a)) (l : List α) :
    TimedKept (l.flatMap f) where
  kept e he := by
    obtain ⟨a, -, ha⟩ := List.mem_flatMap.mp he
    exact (h a).kept e ha

theorem TimedKept.filterMap {α : Type} {f : α → Option (Nat × Ev)}
    (h : ∀ a e, f a = some e → ∀ s, FusesKept s.minima (e.2 s)) (l : List α) : TimedKept (l.filterMap f) where
  kept e he := by
    obtain ⟨a, -, ha⟩ := List.mem_filterMap.mp he
    exact h a e ha

theorem TimedKept.ite {c : Prop} [Decidable c] {l m : List (Nat × Ev)} (h : TimedKept l) (k : TimedKept m) :
    TimedKept (if c then l else m) := by
  split
  · exact h
  · exact k

theorem parkTimed_kept (c sl : Nat) (w : Why) : TimedKept (parkTimed c sl w) := by
  unfold parkTimed
  split <;> simp

theorem State.coreTimed_kept (s : State) (c : Nat) (x : Core) : TimedKept (s.coreTimed c x) := by
  unfold State.coreTimed
  simp only [timedKept_append]
  refine ⟨⟨⟨⟨⟨.flatMap (fun e => ?_) _, .filterMap (fun a e he => ?_) _⟩, .filterMap (fun a e he => ?_) _⟩,
    .ite timedKept_nil (by simp)⟩, .ite timedKept_nil (by simp)⟩, .ite (by simp) timedKept_nil⟩
  · split
    · exact parkTimed_kept c e.1 _
    · exact timedKept_nil
  · split at he
    · cases he; exact fun s => execProxyBatchTimeout_kept ..
    · cases he
  · split at he
    · cases he; exact fun s => execStealRetryTimeout_kept ..
    · cases he

theorem clusterTimed_kept (cl : Nat) (x : Cluster) : TimedKept (clusterTimed cl x) := by
  unfold clusterTimed
  rw [timedKept_append]
  refine ⟨?_, .filterMap (fun a e he => ?_) _⟩
  · split
    · refine .filterMap (fun a e he => ?_) _
      obtain ⟨n, i⟩ := a
      dsimp only at he
      split at he
      · cases he
      · cases he; exact fun s => execWgBatchTimeout_kept ..
    · exact timedKept_nil
  · split at he
    · cases he; exact fun s => execCollectiveTimeout_kept ..
    · cases he

theorem partTimed_kept (pno : Nat) (p : Part) : TimedKept (partTimed pno p) := by
  unfold partTimed
  rw [timedKept_append, timedKept_cons]
  refine ⟨.ite (by simp) timedKept_nil, fun s => execDisclosureIntervalEnd_kept .., .filterMap (fun k e he => ?_) _⟩
  split at he
  · cases he; exact fun s => execRemoteLaunchTimeout_kept ..
  · cases he

theorem State.timed_kept (s : State) : TimedKept s.timed := by
  unfold State.timed
  simp only [timedKept_append]
  refine ⟨⟨⟨⟨⟨.ite (by simp) timedKept_nil, ?_⟩, ?_⟩, ?_⟩, ?_⟩, .filterMap (fun f e he => ?_) _⟩
  · exact (timedKept_map ..).mpr fun _ _ => execDebugStopAck_kept
  · exact .flatMap (fun _ => s.coreTimed_kept ..) _
  · exact .flatMap (fun _ => clusterTimed_kept ..) _
  · exact .flatMap (fun _ => partTimed_kept ..) _
  · obtain ⟨n, -, rfl⟩ := Option.map_eq_some_iff.mp he
    exact fun s => execRemoteAccessTimeout_kept ..

theorem State.tryEvents_minima {s : State} {l : List Ev} (hl : EvsKept l) :
    ∀ {i n t}, s.tryEvents i l = some (n, t) → t.minima = s.minima := by
  induction l with
  | nil => nofun
  | cons e l ih =>
    intro i n t h
    obtain ⟨he, hl⟩ := (evsKept_cons e l).mp hl
    have kept := he s
    unfold State.tryEvents at h
    split at h
    next u hu =>
      rw [hu] at kept
      split at h
      · exact ih hl h
      · cases h; exact kept
    · exact ih hl h

theorem State.rotationBy_minima {s : State} {n : Nat} {t : State} (h : s.rotationBy n = some t) : t.minima = s.minima := by
  obtain ⟨e, -, he⟩ := Option.bind_eq_some_iff.mp h
  have kept := execRotationBoundary_kept e.1 s
  split at he
  next u hu => rw [hu] at kept; cases he; exact kept
  · cases he

theorem State.rotationBy_getD_minima (s t : State) (n : Nat) (h : t.minima = s.minima) :
    ((s.rotationBy n).getD t).minima = s.minima := by
  cases hr : s.rotationBy n with
  | none => exact h
  | some u => exact State.rotationBy_minima hr

theorem State.eventTurn_minima {s t : State} (h : s.eventTurn = some t) : t.minima = s.minima := by
  unfold State.eventTurn at h
  split at h
  next hr => cases h; exact State.rotationBy_minima hr
  dsimp only at h
  split at h
  next i u hu =>
    cases h
    have due : EvsKept ((s.timed.filter fun e => decide (e.1 ≤ s.clk)).map Prod.snd ++ s.events) := by
      rw [evsKept_append]
      exact ⟨(evsKept_map ..).mpr fun e he => s.timed_kept.kept e (List.mem_of_mem_filter he), s.events_kept⟩
    have turned := State.tryEvents_minima ⟨fun e he => due.kept e
      ((List.mem_append.mp he).elim List.mem_of_mem_drop List.mem_of_mem_take)⟩ hu
    exact State.rotationBy_getD_minima s _ _ turned
  · cases h

end Sys2Proof.Machine
end

section
/-! A step of the machine: an instruction of a thread, an event or the passing of time (R42). -/

namespace Sys2Proof.Machine

theorem State.runWord_rises (s : State) (w : Nat) : Rises s (s.runWord w) := by
  unfold State.runWord
  dsimp only
  split
  · exact .of_eq (State.trapWord_minima ..)
  · exact .of_eq (State.trapWord_minima ..)
  refine .ite (.of_eq (State.trapWord_minima ..)) (.ite ?_ ?_)
  · split
    next h => exact .of_eq ((State.fetchWord_minima.2 h).trans (State.modMe_minima ..))
    next h =>
      have fetched := (State.fetchWord_minima.1 h).trans (State.modMe_minima ..)
      split
      · exact .after fetched (exec_rises ..)
      · exact .of_eq ((State.trapWord_minima ..).trans fetched)
  · split
    · refine .after ?_ (exec_rises ..)
      split
      · exact State.modMe_minima ..
      · rfl
    · exact .of_eq (State.trapWord_minima ..)

theorem State.issueSlot_rises (s : State) (c sl : Nat) : Rises s (s.issueSlot c sl) := by
  unfold State.issueSlot
  split
  · exact .of_eq rfl
  next t _ =>
    refine .ite (.of_eq rfl) (.ite ?_ ?_)
    · exact .of_eq ((State.fatalEnding_minima ..).trans (State.atBoundary_minima ..))
    have fetching : ((s.atBoundary c sl).atFetch t).minima = s.minima :=
      (State.atFetch_minima ..).trans (State.atBoundary_minima ..)
    split
    · exact .of_eq ((State.takeLate_minima ..).trans (State.atBoundary_minima ..))
    refine .ite (.of_eq ((State.trap_minima ..).trans fetching)) ?_
    split
    next h => exact .of_eq ((State.fetchWord_minima.2 h).trans fetching)
    next h => exact .after ((State.fetchWord_minima.1 h).trans fetching) (State.runWord_rises ..)

theorem State.issuePicked_rises (s : State) (c sl : Nat) : Rises s (s.issuePicked c sl) :=
  .after rfl (State.issueSlot_rises ..)

theorem State.selfTurn_rises (s : State) : Rises s s.selfTurn := by
  unfold State.selfTurn
  extract_lets event slot wait
  have events : ∀ other : State → Res, Rises s (other s) → Rises s (event other) := by
    intro other h
    dsimp only [event]
    split
    next t ht =>
      have turned := State.eventTurn_minima ht
      exact .of_eq turned
    · exact h
  have slots : ∀ other : State → Res, Rises s (other s) → Rises s (slot other) := by
    intro other h
    dsimp only [slot]
    split
    · split
      next ht => exact .of_eq (State.rotationBy_minima ht)
      · exact .after rfl (State.issuePicked_rises ..)
    · exact h
  have waits : Rises s (wait s) := .of_eq (State.pass_minima ..)
  exact .ite (events (fun _ => slot wait) (slots wait waits)) (slots (fun _ => event wait) (events wait waits))

theorem step_rises (s : State) : Rises s (step s) := by
  unfold step
  split
  · exact .ite (.of_eq rfl) (.after rfl (exec_rises ..))
  · split
    next ht => exact .of_eq (State.rotationBy_minima ht)
    · exact .after rfl (State.issueSlot_rises ..)
  · exact s.selfTurn_rises

/-- Settles O40: RAISE_FUSED_MINIMUM alone writes the fuses, and it writes the greater of two versions. -/
theorem fusedMinimaNeverFall : Obligations.FusedMinimaNeverFall := by
  intro s t h
  have rises := step_rises s
  rw [h] at rises
  exact rises

end Sys2Proof.Machine
end

section
/-! Launches of a partition and the packets that bring them: what a read finds after an update, and a packet that starts
(R54, R61, R62). -/

namespace Sys2Proof.Machine

theorem State.launch_eq (s : State) (pno lid : Nat) :
    s.launch? pno lid = (s.parts.look pno).bind fun p => p.launches.look lid := by
  unfold State.launch? State.part KMap.lookD
  cases s.parts.look pno <;> rfl

theorem State.launch_congr {s t : State} (h : t.parts = s.parts) (pno lid : Nat) : t.launch? pno lid = s.launch? pno lid := by
  rw [State.launch_eq, State.launch_eq, h]

/-- An update of a partition that leaves its launches alone. -/
theorem State.launch_modPart {f : Part → Part} (hf : ∀ p, (f p).launches = p.launches) (s : State) (n pno lid : Nat) :
    (s.modPart n f).launch? pno lid = s.launch? pno lid := by
  rw [State.launch_eq, State.launch_eq, State.look_modPart]
  split
  case isTrue h =>
    rw [h]
    cases s.parts.look n with
    | none => rfl
    | some p => exact congrArg (KMap.look · lid) (hf p)
  case isFalse => rfl

/-- An update of a launch that exists. -/
theorem State.launch_modLaunch {s : State} {pno lid : Nat} {l : Launch} (f : Launch → Launch)
    (h : s.launch? pno lid = some l) : (s.modLaunch pno lid f).launch? pno lid = some (f l) := by
  rw [State.launch_eq] at h
  obtain ⟨p, hp, hl⟩ := Option.bind_eq_some_iff.mp h
  rw [State.launch_eq, State.modLaunch, State.look_modPart_some _ hp, hl]
  exact KMap.look_put_self ..

/-- The next packet of a queue, of its type and no BADPKT, has its effect. -/
theorem State.onPacket_goes {s h : State} {pno q type : Nat} {k : Pkt} (hn : s.nextPacket pno q = some (k, h))
    (ht : k.type = type) (hg : h.goodPacket pno k = true) (f : Pkt → State → State) :
    s.onPacket pno q type f = .next (f k (h.turnOn pno q)) := by
  simp only [State.onPacket, hn, ht, hg, decide_true, Bool.and_self, if_true]

theorem State.modQueue_cores (s : State) (pno q : Nat) (f : Queue → Queue) : (s.modQueue pno q f).cores = s.cores :=
  s.modPart_cores ..

theorem State.launch_modQueue (s : State) (n q : Nat) (f : Queue → Queue) (pno lid : Nat) :
    (s.modQueue n q f).launch? pno lid = s.launch? pno lid :=
  State.launch_modPart (fun _ => by rfl) ..

end Sys2Proof.Machine
end

section
/-! The LAUNCH packet of this device, alone (R61, R96). -/

namespace Sys2Proof.Machine

section
variable {s : State} {pno : Nat} {k : Pkt} (hrem : k.rem = false)
include hrem

theorem State.launchPacket_fault {e : LodgeErr} (h : s.readLrec pno (k.w 1) (s.queue pno k.q).ken = .fault e) :
    s.launchPacket pno k = ((s.lodgeMet pno e).headUp pno k.q 1).complete pno k 2 0 := by
  simp only [State.launchPacket, hrem, h, Bool.false_eq_true, if_false, State.instantly]

theorem State.launchPacket_bad {code : Nat} (h : s.readLrec pno (k.w 1) (s.queue pno k.q).ken = .bad code) :
    s.launchPacket pno k = ((s.checkRecord pno code (k.w 1)).headUp pno k.q 1).complete pno k 1 0 := by
  simp only [State.launchPacket, hrem, h, Bool.false_eq_true, if_false, State.instantly]

/-- Without PC the launch is no producer, and waits alone. -/
theorem State.launchPacket_alone {l : Launch} {u : State} (hpc : k.pc = false)
    (h : s.readLrec pno (k.w 1) (s.queue pno k.q).ken = .ok l u) : s.launchPacket pno k = u.queueLaunch pno k l none := by
  have single : u.partner pno k = none := by simp [State.partner, hpc]
  simp only [State.launchPacket, hrem, h, State.judgePair, single, Bool.false_eq_true, if_false]

end

/-- A launch whose record has passed stands among its partition's, waiting, and its packet is outstanding. -/
theorem State.queueLaunch_waits {u : State} {pno : Nat} {p : Part} (k : Pkt) (l : Launch)
    (hp : u.parts.look pno = some p) : ∃ (x : Part) (lid : Nat) (y : Launch),
      (u.queueLaunch pno k l none).parts.look pno = some x ∧ x.launches.look lid = some y ∧ y.lid = lid
      ∧ y.entry = l.entry ∧ y.win = l.win ∧ y.levs = l.levs ∧ y.args = l.args ∧ y.placed = l.placed
      ∧ y.origin = .packet k.q k.k k.ep none ∧ x.pkts = p.pkts ++ [{ k with st := .launch lid }]
      ∧ (∀ m, m ≠ lid → x.launches.look m = p.launches.look m) ∧ (u.queueLaunch pno k l none).cores = u.cores := by
  refine ⟨_, _, _, State.look_modPart_some _ (State.look_modPart_some _ hp), KMap.look_put_self .., rfl, rfl, rfl, rfl, rfl,
    rfl, rfl, rfl, fun m hm => KMap.look_put_ne _ _ hm, ?_⟩
  exact (State.modPart_cores ..).trans (State.modPart_cores ..)

theorem launch_starts {s h : State} {pno q : Nat} {k : Pkt} (hn : s.nextPacket pno q = some (k, h)) (ht : k.type = 1)
    (hg : h.goodPacket pno k = true) :
    exec (.launch pno q) s = .next ((h.turnOn pno q).launchPacket pno k) :=
  State.onPacket_goes hn ht hg fun k s => s.launchPacket pno k

end Sys2Proof.Machine
end

section
/-! A frame that a core takes (R97, R98, R106): what the core does before, and the thread that has it. -/

namespace Sys2Proof.Machine

theorem State.core_congr {s t : State} (h : t.cores = s.cores) (c : Nat) : t.core c = s.core c := by
  unfold State.core; rw [h]

theorem State.thread_congr {s t : State} (h : t.cores = s.cores) (c sl : Nat) : t.thread? c sl = s.thread? c sl := by
  unfold State.thread?; rw [State.core_congr h]

theorem State.corePart_congr {s t : State} (h : t.qmap = s.qmap) (c : Nat) : t.corePart c = s.corePart c := by
  unfold State.corePart State.quadPart State.qmapOf
  rw [h]

/-- What readies a core for a frame leaves as it was: whose launches its threads are of, what it logs and traces, the
partition map and every launch. -/
structure Readied (s t : State) (c : Nat) : Prop where
  lids : ∀ sl, (t.thread? c sl).map Thread.lid = (s.thread? c sl).map Thread.lid
  slcfg : (t.core c).slcfg = (s.core c).slcfg
  trcfg : (t.core c).trcfg = (s.core c).trcfg
  launches : ∀ pno lid, t.launch? pno lid = s.launch? pno lid
  qmap : t.qmap = s.qmap

namespace Readied

theorem refl (s : State) (c : Nat) : Readied s s c := ⟨fun _ => rfl, rfl, rfl, fun _ _ => rfl, rfl⟩

theorem trans {s t u : State} {c : Nat} (h : Readied s t c) (k : Readied t u c) : Readied s u c :=
  ⟨fun sl => (k.lids sl).trans (h.lids sl), k.slcfg.trans h.slcfg, k.trcfg.trans h.trcfg,
    fun pno lid => (k.launches pno lid).trans (h.launches pno lid), k.qmap.trans h.qmap⟩

theorem modCore {f : Core → Core} (s : State) (c : Nat)
    (hl : ∀ sl, ((f (s.core c)).threads.look sl).map Thread.lid = ((s.core c).threads.look sl).map Thread.lid)
    (hs : (f (s.core c)).slcfg = (s.core c).slcfg) (ht : (f (s.core c)).trcfg = (s.core c).trcfg) :
    Readied s (s.modCore c f) c := by
  refine ⟨fun sl => ?_, ?_, ?_, fun _ _ => rfl, rfl⟩
  · rw [State.thread?, State.core_modCore_self]; exact hl sl
  · rw [State.core_modCore_self, hs]
  · rw [State.core_modCore_self, ht]

theorem modPart {f : Part → Part} (hf : ∀ p, (f p).launches = p.launches) (s : State) (pno c : Nat) :
    Readied s (s.modPart pno f) c := by
  have cores : (s.modPart pno f).cores = s.cores := s.modPart_cores pno f
  exact ⟨fun sl => by rw [State.thread_congr cores], by rw [State.core_congr cores], by rw [State.core_congr cores],
    State.launch_modPart hf s pno, s.modPart_qmap pno f⟩

theorem modThread {f : Thread → Thread} (hf : ∀ t, (f t).lid = t.lid) (s : State) (c sl : Nat) :
    Readied s (s.modThread c sl f) c := by
  refine ⟨fun sm => ?_, by rw [State.core_modThread], by rw [State.core_modThread],
    State.launch_congr (s.modThread_parts c sl f), s.modThread_qmap c sl f⟩
  rw [State.thread_modThread]
  split
  case isTrue h =>
    rw [h.2, Option.map_map]
    exact congrArg (Option.map · _) (funext hf)
  case isFalse => rfl

end Readied

theorem State.wakeCore_readied (s : State) (c : Nat) : Readied s (s.wakeCore c []) c := by
  have woken : Readied s (s.modCore c fun x => { x with
      asleep := false, idleSince := s.clk, regPoison := x.regPoison,
      threads := KMap.mapVals (fun t => { t with busy := max t.busy (s.clk + 32) }) x.threads }) c := by
    refine .modCore s c (fun sl => ?_) rfl rfl
    rw [KMap.look_mapVals, Option.map_map]
    rfl
  unfold State.wakeCore
  dsimp only
  split
  · exact woken.trans (.modPart (fun _ => rfl) ..)
  · exact woken

theorem State.reside_readied (s : State) (c : Nat) (l : Launch) : Readied s (s.reside c l) c := by
  unfold State.reside
  by_cases h : (s.core c).resident.contains l.lid
  · refine .modCore s c (fun sl => ?_) ?_ ?_ <;> rw [if_pos h]
  · refine .modCore s c (fun sl => ?_) ?_ ?_ <;> rw [if_neg h]

theorem State.acquireOn_readied (s : State) (c : Nat) (sc : Scope) : Readied s (s.acquireOn c sc) c := by
  unfold State.acquireOn
  split
  · exact .modCore s c (fun _ => rfl) rfl rfl
  · exact .refl s c

theorem State.core_dropIcache (s : State) (pno c : Nat) :
    ∃ lines, (s.dropIcache pno).core c = { s.core c with icache := lines } := by
  unfold State.core KMap.lookD State.dropIcache
  rw [KMap.look_map _ fun e => by split <;> rfl]
  cases s.cores.look c with
  | none => exact ⟨[], rfl⟩
  | some x => dsimp only [Option.map_some, Option.getD_some]; split <;> exact ⟨_, rfl⟩

theorem State.dropIcache_readied (s : State) (pno c : Nat) : Readied s (s.dropIcache pno) c := by
  obtain ⟨lines, hc⟩ := s.core_dropIcache pno c
  exact ⟨fun sl => by rw [State.thread?, hc]; rfl, by rw [hc], by rw [hc], fun _ _ => rfl, rfl⟩

/-- What a core does before a frame reaches its thread (R98, R171, R207). -/
def State.readyFor (s : State) (c : Nat) (l : Launch) (sc : Scope) : State :=
  ((if (s.core c).asleep then s.wakeCore c [] else s).reside c l).acquireOn c sc

theorem State.readyFor_readied (s : State) (c : Nat) (l : Launch) (sc : Scope) : Readied s (s.readyFor c l sc) c := by
  refine .trans ?_ ((State.reside_readied ..).trans (State.acquireOn_readied ..))
  split
  · exact s.wakeCore_readied c
  · exact .refl s c

/-- The first `n` registers of a window, given from a list of words. -/
def Core.fillWindow (x : Core) (t : Thread) (ws : List Word) (n : Nat) : Core :=
  (List.range n).foldl (fun (x : Core) i => x.setGreg t i (ws.getD i 0)) x

theorem Core.fillWindow_succ (x : Core) (t : Thread) (ws : List Word) (n : Nat) :
    x.fillWindow t ws (n + 1) = (x.fillWindow t ws n).setGreg t n (ws.getD n 0) := by
  simp only [Core.fillWindow, List.range_succ, List.foldl_append, List.foldl_cons, List.foldl_nil]

theorem Core.fillWindow_greg (x : Core) (t : Thread) (ws : List Word) (n i : Nat) (h : i < n) :
    (x.fillWindow t ws n).greg t i = ws.getD i 0 := by
  induction n with
  | zero => omega
  | succ n ih =>
    rw [Core.fillWindow_succ, greg_setGreg]
    split
    case isTrue hi => rw [hi]
    case isFalse hi => exact ih (by omega)

/-- Filling a window writes the register file alone. -/
theorem Core.fillWindow_rest (x : Core) (t : Thread) (ws : List Word) (n : Nat) : x.fillWindow t ws n =
    { x with regs := (x.fillWindow t ws n).regs, regPoison := (x.fillWindow t ws n).regPoison } := by
  induction n with
  | zero => rfl
  | succ n ih => rw [Core.fillWindow_succ, ih]; rfl

/-- A thread that has taken a frame whose word 0 starts no fused code (R106). -/
def Thread.given (t : Thread) (f : Frame) (now : Nat) : Thread :=
  { t with pc := f.words.getD 0 0, tjoin := f.words.getD 1 0, tag := f.tag, counts := true, idle := false, mesh := f.mesh,
           prog := Prog.fresh, spliced := false, busy := max t.busy now }

/-- The window of the thread in a slot, filled from a frame. -/
def Core.filled (x : Core) (sl : Nat) (f : Frame) (now : Nat) : Core :=
  match x.threads.look sl with
  | some t => { x.fillWindow t f.words 8 with idleSince := now }
  | none => x

theorem Core.filled_some {x : Core} {sl : Nat} {u : Thread} (h : x.threads.look sl = some u) (f : Frame) (now : Nat) :
    x.filled sl f now = { x.fillWindow u f.words 8 with idleSince := now } := by
  rw [Core.filled, h]

/-- Filling a window leaves the rest of the core. -/
theorem Core.filled_rest (x : Core) (sl : Nat) (f : Frame) (now : Nat) : x.filled sl f now =
    { x with regs := (x.filled sl f now).regs, regPoison := (x.filled sl f now).regPoison,
             idleSince := (x.filled sl f now).idleSince } := by
  cases h : x.threads.look sl with
  | none => rw [Core.filled, h]
  | some u => rw [Core.filled_some h, x.fillWindow_rest]

/-- A frame whose word 0 starts no fused code is given to the thread of a slot (R106). -/
def State.give (s : State) (c sl : Nat) (f : Frame) : State :=
  (s.modCore c fun x => x.filled sl f s.clk).modThread c sl fun t => t.given f s.clk

theorem State.give_readied (s : State) (c sl : Nat) (f : Frame) : Readied s (s.give c sl f) c := by
  have filled : Readied s (s.modCore c fun x => x.filled sl f s.clk) c := by
    refine .modCore s c (fun sl => ?_) ?_ ?_ <;> rw [Core.filled_rest]
  exact filled.trans (.modThread (fun _ => by rfl) ..)

/-- The thread that has a frame, and its window (R106). -/
theorem State.give_thread {s : State} {c sl : Nat} (f : Frame) {u : Thread} (hu : s.thread? c sl = some u) :
    (s.give c sl f).thread? c sl = some (u.given f s.clk)
      ∧ ∀ v : Thread, v.base = u.base → ∀ i < 8, ((s.give c sl f).core c).greg v i = f.words.getD i 0 := by
  have filled : (s.modCore c fun x => x.filled sl f s.clk).thread? c sl = some u := by
    rw [State.thread?, State.core_modCore_self, Core.filled_rest]
    exact hu
  refine ⟨?_, fun v hv i hi => ?_⟩
  · rw [State.give, State.thread_modThread, if_pos ⟨rfl, rfl⟩, filled]
    rfl
  · rw [State.give, State.core_modThread, State.core_modCore_self, Core.filled_some hu,
      ← Core.fillWindow_greg (s.core c) u f.words 8 i hi, Core.greg, Core.greg, hv]

/-- A frame of a launch that is not fused, taken by a thread of a core that neither logs states nor traces deliveries
(R106). -/
theorem State.deliver_gives {s : State} {c sl pno : Nat} {f : Frame} {sc : Scope} {l : Launch}
    (hc : s.corePart c = some pno) (hl : s.launch? pno f.lid = some l) (hfused : l.fused = none)
    (hlog : bit (s.core c).slcfg 0 = false) (htrace : bit (s.core c).trcfg 2 = false) :
    s.deliver c sl f sc = (s.readyFor c l sc).give c sl f := by
  have plain : ∀ w, l.spliced w = none := fun w => by simp [Launch.spliced, hfused]
  have given := (s.readyFor_readied c l sc).trans (State.give_readied _ c sl f)
  have unlogged : ((s.readyFor c l sc).give c sl f).noteState c sl 0 = (s.readyFor c l sc).give c sl f :=
    noteState_off _ _ _ _ (by rw [given.slcfg, hlog])
  unfold State.deliver
  simp only [hc, hl, plain]
  change (if bit ((((s.readyFor c l sc).give c sl f).noteState c sl 0).core c).trcfg 2 = true then _
    else ((s.readyFor c l sc).give c sl f).noteState c sl 0) = _
  rw [unlogged, given.trcfg, htrace]
  rfl

end Sys2Proof.Machine
end

section
/-! The root of a launch is placed (R97 to R99). -/

namespace Sys2Proof.Machine

/-- A new thread is of its launch; what its core logs and traces, and everything outside the core, is as it was. -/
theorem State.makeThread_makes {s u : State} {c win sl : Nat} {l : Launch} (h : s.makeThread c l win = some (sl, u)) :
    (u.thread? c sl).map Thread.lid = some l.lid ∧ (u.core c).slcfg = (s.core c).slcfg
      ∧ (u.core c).trcfg = (s.core c).trcfg ∧ u.parts = s.parts ∧ u.qmap = s.qmap := by
  unfold State.makeThread at h
  dsimp only at h
  split at h
  · obtain ⟨rfl, rfl⟩ := Prod.mk.inj (Option.some.inj h)
    refine ⟨?_, ?_, ?_, rfl, rfl⟩
    · rw [State.thread?, State.core_setCore_self, KMap.look_put_self]
      rfl
    · rw [State.core_setCore_self]
    · rw [State.core_setCore_self]
  · cases h

theorem State.newThread_made {s u : State} {c sl : Nat} {l : Launch} (h : s.newThread c l = some (sl, u)) :
    s.makeThread c l l.win = some (sl, u) := by
  unfold State.newThread at h
  dsimp only at h
  split at h
  · cases h
  · exact h

theorem Part.launchStarted_launches (p : Part) (l : Launch) (now : Nat) : (p.launchStarted l now).launches = p.launches := by
  unfold Part.launchStarted
  split
  · rfl
  · split <;> rfl
  · rfl

/-- What a launch's start is to its partition, once its root has its frame (R61). -/
def State.rootStarted (s : State) (pno : Nat) (l : Launch) (ptr : Nat) : State :=
  let s := s.modPart pno fun p => { (p.launchStarted l s.fab) with rootPtr := ptr }
  let s := s.modLaunch pno l.lid fun l => { l with placed := true, pkgCount := l.pkgCount + 1 }
  match l.origin with
  | .packet q _ _ second => s.headUp pno q (if second.isSome then 2 else 1)
  | _ => s

theorem State.placeRoot_some {s u : State} {pno c ptr sl : Nat} {l : Launch} (h : s.newThread c l = some (sl, u)) :
    s.placeRoot pno l c ptr = ((u.dropIcache pno).deliver c sl (l.rootFrame c) .sys).rootStarted pno l ptr := by
  rw [State.placeRoot, h]
  rfl

theorem State.rootStarted_cores (s : State) (pno : Nat) (l : Launch) (ptr : Nat) :
    (s.rootStarted pno l ptr).cores = s.cores := by
  unfold State.rootStarted
  dsimp only
  split
  · rw [State.headUp, State.modQueue_cores, State.modLaunch, State.modPart_cores, State.modPart_cores]
  · rw [State.modLaunch, State.modPart_cores, State.modPart_cores]

theorem State.rootStarted_launch {s : State} {pno : Nat} {l : Launch} (ptr : Nat) (h : s.launch? pno l.lid = some l) :
    (s.rootStarted pno l ptr).launch? pno l.lid = some { l with placed := true, pkgCount := l.pkgCount + 1 } := by
  have started := (State.launch_modPart (f := fun p => { (p.launchStarted l s.fab) with rootPtr := ptr })
    (fun p => p.launchStarted_launches l s.fab) s pno pno l.lid).trans h
  unfold State.rootStarted
  dsimp only
  split
  · rw [State.headUp, State.launch_modQueue]
    exact State.launch_modLaunch _ started
  · exact State.launch_modLaunch _ started

theorem State.rootOn_readied (s : State) (pno : Nat) (l : Launch) (c : Nat) : Readied s (s.rootOn pno l) c := by
  unfold State.rootOn
  split
  · exact .modPart (fun _ => by rfl) ..
  · exact .refl s c

/-- A root on the core that takes it: its thread starts at the frame, and its launch has started. -/
theorem State.placeRoot_places {s u : State} {pno c sl : Nat} {l : Launch} (ptr : Nat)
    (hlog : bit (s.core c).slcfg 0 = false) (htrace : bit (s.core c).trcfg 2 = false)
    (hl : s.launch? pno l.lid = some l) (hc : s.corePart c = some pno) (hfused : l.fused = none)
    (hnew : s.newThread c l = some (sl, u)) : ∃ v m, (s.placeRoot pno l c ptr).thread? c sl = some v
      ∧ v.pc = l.entry ∧ v.tjoin = l.rjoin ∧ v.lid = l.lid ∧ v.idle = false ∧ v.counts = true
      ∧ v.tag = (l.rootFrame c).tag
      ∧ (∀ i < 8, ((s.placeRoot pno l c ptr).core c).greg v i = (l.rootFrame c).words.getD i 0)
      ∧ (s.placeRoot pno l c ptr).launch? pno l.lid = some m ∧ m.placed = true ∧ m.pkgCount = l.pkgCount + 1 := by
  obtain ⟨hlid, hslcfg, htrcfg, hparts, hqmap⟩ := State.makeThread_makes (State.newThread_made hnew)
  have dropped := u.dropIcache_readied pno c
  have ready := (u.dropIcache pno).readyFor_readied c l .sys
  have hcu : (u.dropIcache pno).corePart c = some pno := (State.corePart_congr (dropped.qmap.trans hqmap) c).trans hc
  have hlu : (u.dropIcache pno).launch? pno l.lid = some l := by
    rw [dropped.launches, State.launch_congr hparts, hl]
  have given := State.deliver_gives (sl := sl) (f := l.rootFrame c) (sc := .sys) hcu hlu hfused
    (by rw [dropped.slcfg, hslcfg, hlog]) (by rw [dropped.trcfg, htrcfg, htrace])
  obtain ⟨w, hw, hwlid⟩ := Option.map_eq_some_iff.mp (((ready.lids sl).trans (dropped.lids sl)).trans hlid)
  obtain ⟨hthread, hregs⟩ := State.give_thread (l.rootFrame c) hw
  have kept := ready.trans (State.give_readied _ c sl (l.rootFrame c))
  rw [State.placeRoot_some hnew, given]
  have cores := State.rootStarted_cores (((u.dropIcache pno).readyFor c l .sys).give c sl (l.rootFrame c)) pno l ptr
  refine ⟨_, _, (State.thread_congr cores ..).trans hthread, rfl, rfl, hwlid, rfl, rfl, rfl, ?_,
    State.rootStarted_launch ptr ((kept.launches ..).trans hlu), rfl, rfl⟩
  rw [State.core_congr cores]
  exact hregs _ rfl

theorem rootPlace_places {s : State} {pno c ptr : Nat} {l : Launch} (hst : (s.part pno).st = 1) (hh : s.held = false)
    (hfind : (s.part pno).launches.findSome? (fun e => if (s.part pno).mayPlace e.2 && s.rootTurn pno e.2
      then (s.rootCore pno e.2).map fun r => (e.2, r) else none) = some (l, c, ptr)) :
    exec (.rootPlace pno) s = .next ((s.rootOn pno l).placeRoot pno l c ptr) := by
  have live : ¬ (decide ((s.part pno).st ≠ 1) || s.held) = true := by simp [hst, hh]
  rw [exec_rootPlace, execRootPlace, if_neg live, hfind]

/-- The root frame's words and level state (R99, R100). -/
theorem Launch.rootFrame_fields (l : Launch) (c : Nat) :
    (l.rootFrame c).words = [l.entry, l.rjoin] ++ (List.range 6).map (fun i => l.args.getD i 0)
    ∧ ((l.lev 0).domc < 8 → c < 4096 → tagLvl (l.rootFrame c).tag = 0 ∧ tagDom (l.rootFrame c).tag = (l.lev 0).domc
      ∧ tagOrg (l.rootFrame c).tag = c ∧ tagIdx (l.rootFrame c).tag = 0) := by
  refine ⟨rfl, fun hd hc => ?_⟩
  have htag : (l.rootFrame c).tag.toNat = (l.lev 0).domc * 2 ^ 58 + c * 2 ^ 46 := by
    rw [Launch.rootFrame, BitVec.toNat_ofNat]
    omega
  simp only [tagLvl, tagDom, tagOrg, tagIdx, htag, bits]
  omega

end Sys2Proof.Machine
end

section
/-! The end of a launch, and the counting that finds it (R113). -/

namespace Sys2Proof.Machine

theorem State.removeLaunch_launch (s : State) (pno lid : Nat) : (s.removeLaunch pno lid).launch? pno lid = none := by
  unfold State.removeLaunch
  extract_lets a b
  rw [State.launch_eq, State.look_modPart, if_pos rfl]
  cases b.parts.look pno with
  | none => rfl
  | some p => exact (KMap.look_del ..).trans (if_pos rfl)

theorem launchComplete_over {s : State} {pno lid : Nat} {l : Launch} (hl : s.launch? pno lid = some l)
    (ho : s.launchOver pno l = true) :
    exec (.launchComplete pno lid) s = .next ((s.removeLaunch pno lid).launchEnds pno l 0)
    ∧ ∀ t, t = s.removeLaunch pno lid → t.launch? pno lid = none := by
  refine ⟨?_, fun t ht => ?_⟩
  · simp only [exec_launchComplete, execLaunchComplete, hl, ho, if_true]
  · rw [ht, State.removeLaunch_launch]

/-- A single count that moves up an empty level stands alone there. -/
theorem countsUp_single (up : Nat → Nat) (i : Nat) {n : Int} (hn : n ≠ 0) : countsUp up [(i, n)] [] = [(up i, n)] := by
  simp [countsUp, KMap.putD, KMap.lookD, KMap.put, hn]

/-- TERMINATION_COUNT by the level nearest to Lodge that holds counts (R113). -/
theorem Launch.countUp_moves (l : Launch) : l.countUp.placed = l.placed ∧ l.countUp.fatals = l.fatals
    ∧ (l.movingD ≠ [] → l.countUp.movingD = [] ∧ l.countUp.movingQ = l.movingQ ∧ l.countUp.moving = l.moving
        ∧ l.countUp.pkgCount = (l.movingD.map Prod.snd).foldl (· + ·) l.pkgCount)
    ∧ (l.movingD = [] → l.countUp.pkgCount = l.pkgCount
        ∧ (l.movingQ ≠ [] → l.countUp.movingQ = [] ∧ l.countUp.moving = l.moving
            ∧ ∀ q n, n ≠ 0 → l.movingQ = [(q, n)] → l.countUp.movingD = [(q / 4, n)])
        ∧ (l.movingQ = [] → l.countUp.moving = [] ∧ l.countUp.movingD = []
            ∧ ∀ c n, n ≠ 0 → l.moving = [(c, n)] → l.countUp.movingQ = [(c / 32, n)])) := by
  unfold Launch.countUp
  by_cases hd : l.movingD = []
  · rw [if_neg (not_not.mpr hd)]
    by_cases hq : l.movingQ = []
    · rw [if_neg (not_not.mpr hq)]
      refine ⟨rfl, rfl, fun h => absurd hd h, fun _ => ⟨rfl, fun h => absurd hq h, fun _ => ⟨rfl, hd, fun c n hn hm => ?_⟩⟩⟩
      dsimp only
      rw [hm, hq, countsUp_single _ _ hn]
    · rw [if_pos hq]
      refine ⟨rfl, rfl, fun h => absurd hd h, fun _ => ⟨rfl, fun _ => ⟨rfl, rfl, fun q n hn hm => ?_⟩, fun h => absurd h hq⟩⟩
      dsimp only
      rw [hm, hd, countsUp_single _ _ hn]
  · rw [if_pos hd]
    exact ⟨rfl, rfl, fun _ => ⟨rfl, rfl, rfl, rfl⟩, fun h => absurd h hd⟩

/-- Settles O47: each clause by the lemma about its event. -/
theorem launchesStartAndEnd : Obligations.LaunchesStartAndEnd := by
  refine ⟨fun s h pno q k hn ht hg hrem hpc => ?launch,
    fun s pno c ptr l hst hh hfind hq htrace hl hc hfused sl u hnew => ?root, Launch.rootFrame_fields,
    fun s pno lid l hl ho => launchComplete_over hl ho, fun s pno lid l hl => ?count⟩
  case launch =>
    have starts := launch_starts hn ht hg
    refine ⟨fun e he => ?_, fun code hcode => ?_, fun l u p hok hp => ?_⟩
    · rw [starts, State.launchPacket_fault hrem he]
    · rw [starts, State.launchPacket_bad hrem hcode]
    · obtain ⟨x, lid, y, waits⟩ := State.queueLaunch_waits k l hp
      exact ⟨_, x, lid, y, by rw [starts, State.launchPacket_alone hrem hpc hok], waits⟩
  case root =>
    have on := s.rootOn_readied pno l c
    obtain ⟨v, m, placed⟩ := State.placeRoot_places ptr (by rw [on.slcfg]; exact hq.logOff c) (by rw [on.trcfg, htrace])
      ((on.launches ..).trans hl) ((State.corePart_congr on.qmap c).trans hc) hfused hnew
    exact ⟨_, v, m, rootPlace_places hst hh hfind, placed⟩
  case count => exact ⟨_, l.countUp, rfl, State.launch_modLaunch _ hl, l.countUp_moves⟩

end Sys2Proof.Machine
end

section
/-! Triggers and runs (R68 to R70). -/

namespace Sys2Proof.Machine

theorem State.trig_congr {s t : State} (h : t.parts = s.parts) (pno n : Nat) : t.trig pno n = s.trig pno n := by
  unfold State.trig State.part; rw [h]

section
variable {s : State} {pno : Nat} {p : Part} (hp : s.parts.look pno = some p)
include hp

theorem State.trig_of_look {n : Nat} {t : Trig} (ht : p.trigs.look n = some t) : s.trig pno n = t := by
  simp [State.trig, State.part_of_look hp, KMap.lookD, ht]

theorem State.look_modTrig (n : Nat) (f : Trig → Trig) :
    (s.modTrig pno n f).parts.look pno = some { p with trigs := p.trigs.put n (f (s.trig pno n)) } := by
  rw [State.modTrig, State.look_modPart_some _ hp, State.trig, State.part_of_look hp]

theorem State.trig_modTrig (n : Nat) (f : Trig → Trig) : (s.modTrig pno n f).trig pno n = f (s.trig pno n) :=
  State.trig_of_look (State.look_modTrig hp n f) (KMap.look_put_self ..)

/-- A run of the graph that is bound starts at its entry (R68, R70). -/
theorem State.runStart_trig {n : Nat} {t : Trig} {y : GSlot} (ht : s.trig pno n = t) (hy : p.graphs.look t.slot = some y) :
    (s.runStart pno n).trig pno n = { t with st := 2, run := some ⟨t.slot, y.entry, [], [], false⟩ } := by
  unfold State.runStart
  dsimp only
  rw [State.trig_modTrig hp, State.part_of_look hp, ht, hy]

end

theorem State.pkts_modTrig (s : State) (pno n : Nat) (f : Trig → Trig) :
    ((s.modTrig pno n f).part pno).pkts = (s.part pno).pkts := by
  cases hp : s.parts.look pno with
  | none => rw [State.modTrig, State.modPart, hp]
  | some p => rw [State.part_of_look (State.look_modTrig hp n f), State.part_of_look hp]

theorem State.pkts_runStart (s : State) (pno n : Nat) : ((s.runStart pno n).part pno).pkts = (s.part pno).pkts :=
  s.pkts_modTrig ..

theorem State.modTrig_cores (s : State) (pno n : Nat) (f : Trig → Trig) : (s.modTrig pno n f).cores = s.cores :=
  s.modPart_cores ..

theorem State.runStart_cores (s : State) (pno n : Nat) : (s.runStart pno n).cores = s.cores := s.modTrig_cores ..

/-- The change of a run, as its trigger shows it. -/
theorem State.run_modRun {s : State} {pno n : Nat} {p : Part} {t : Trig} {r : GRun} (hp : s.parts.look pno = some p)
    (ht : p.trigs.look n = some t) (hr : t.run = some r) (f : GRun → GRun) :
    ((s.modRun pno n f).trig pno n).run = some (f r) := by
  rw [State.modRun, State.trig_modTrig hp, State.trig_of_look hp ht]
  exact congrArg (Option.map f) hr

/-- A trigger whose run is over (R70). -/
def Trig.ended (t : Trig) : Trig := { t with runs := t.runs + 1, run := none, st := if t.slot = 255 then 0 else 1 }

/-- With no packet outstanding, the end of a run is the trigger's alone: it is over, or a pending run starts (R70). -/
theorem State.runDone_alone {s : State} {pno n : Nat} {p : Part} (hp : s.parts.look pno = some p) (hk : p.pkts = []) :
    s.runDone pno n = if (s.trig pno n).st = 3 && (s.trig pno n).slot ≠ 255
      then (s.modTrig pno n Trig.ended).runStart pno n else s.modTrig pno n Trig.ended := by
  have done : ∀ u : State, (u.part pno).pkts = [] → u.trigPackets pno n = u := fun u hu => by
    rw [State.trigPackets, hu]; rfl
  have ended : ((s.modTrig pno n Trig.ended).part pno).pkts = [] := by
    rw [State.pkts_modTrig, State.part_of_look hp, hk]
  refine done _ ?_
  split
  · exact (State.pkts_runStart ..).trans ended
  · exact ended

/-! ### Nodes of a run (R68) -/

/-- The run of a trigger of a live partition stands at a node, and nothing before the node is left to wait for (R68). -/
structure StandsAt (s : State) (pno tr : Nat) (p : Part) (t : Trig) (r : GRun) (y : GSlot) (n : GNode) : Prop where
  part : s.parts.look pno = some p
  trig : p.trigs.look tr = some t
  run : t.run = some r
  slot : p.graphs.look r.slot = some y
  node : y.nodes[r.node]? = some n
  live : p.st = 1
  notHeld : s.held = false
  placed : r.waits = false
  completed : r.open' = []

namespace StandsAt
variable {s : State} {pno tr : Nat} {p : Part} {t : Trig} {r : GRun} {y : GSlot} {n : GNode} (h : StandsAt s pno tr p t r y n)
include h

/-- The node has its effect. -/
theorem goes {kind : Nat} (hk : n.kind = kind) (f : GRun → GSlot → GNode → State) :
    s.atNode pno tr kind f = .next (f r y n) := by
  simp [State.atNode, State.part_of_look h.part, h.trig, h.run, h.slot, h.node, h.live, h.notHeld, h.placed, h.completed, hk]

theorem launch_waits (hk : n.kind = 1) (ha : n.a.toNat % 128 = 0) {l : Launch} {u : State}
    (hl : s.readLrec pno n.a.toNat y.ken = .ok l u) : exec (.graphNodeLaunch pno tr) s =
      .next ((u.addLaunch pno l (.node tr r.node)).2.modRun pno tr fun r => { r with waits := true }) := by
  rw [exec_graphNodeLaunch, execGraphNodeLaunch, h.goes hk]
  dsimp only
  rw [if_neg (not_not.mpr ha), hl]

theorem signal_performed (hk : n.kind = 4) (ha : n.a.toNat % 8 = 0) {u : State}
    (hs : s.signalOp pno n.a.toNat n.c n.b = .ok u) : exec (.graphNodeSignal pno tr) s =
      .next (u.modRun pno tr fun r => { r with node := n.next }) := by
  rw [exec_graphNodeSignal, execGraphNodeSignal, h.goes hk]
  dsimp only
  rw [if_neg (not_not.mpr ha), hs]

/-- A LOOP without a word goes on while its count lasts. -/
theorem loop_counts (hk : n.kind = 2) (ha : n.a = 0) : ∃ v, exec (.graphNodeLoop pno tr) s = .next v
    ∧ (v.trig pno tr).run = some { r with
        loops := KMap.putD 0 r.loops r.node (if r.loops.lookD r.node 0 + 1 ≤ n.b.toNat then r.loops.lookD r.node 0 + 1 else 0),
        node := if r.loops.lookD r.node 0 + 1 ≤ n.b.toNat then n.next else n.alt } := by
  rw [exec_graphNodeLoop, execGraphNodeLoop, h.goes hk]
  refine ⟨_, rfl, ?_⟩
  simp only [ha, if_true]
  rw [State.run_modRun h.part h.trig h.run]
  simp

theorem cond_chooses (hk : n.kind = 3) {bs : List Byte} {u : State}
    (hread : s.lodgeRead pno n.a.toNat 8 = .ok (bs, u)) : exec (.graphNodeCond pno tr) s =
      .next (u.modRun pno tr fun r => { r with node := if cmpHolds n.c (leNat bs) n.b.toNat then n.next else n.alt }) := by
  have word : s.nodeWord pno n.a = (leNat bs, u) := by rw [State.nodeWord, hread]
  rw [exec_graphNodeCond, execGraphNodeCond, h.goes hk]
  dsimp only
  rw [word]

/-- An END completes the run; a pending run starts of the graph that is bound by then (R70). -/
theorem end_completes (hk : n.kind = 5) (hpk : p.pkts = []) : ∃ v, exec (.graphNodeEnd pno tr) s = .next v
    ∧ v.cores = s.cores
    ∧ (t.st = 2 → t.slot ≠ 255 → (v.trig pno tr).run = none ∧ (v.trig pno tr).st = 1
        ∧ (v.trig pno tr).runs = t.runs + 1)
    ∧ (t.st = 3 → ∀ y2, p.graphs.look t.slot = some y2 → t.slot ≠ 255 → (v.trig pno tr).st = 2
        ∧ (v.trig pno tr).runs = t.runs + 1 ∧ (v.trig pno tr).run = some ⟨t.slot, y2.entry, [], [], false⟩) := by
  have trig := State.trig_of_look h.part h.trig
  have ended : (s.modTrig pno tr Trig.ended).trig pno tr = t.ended := by rw [State.trig_modTrig h.part, trig]
  rw [exec_graphNodeEnd, execGraphNodeEnd, h.goes hk, State.runDone_alone h.part hpk, trig]
  refine ⟨_, rfl, ?_, fun h2 h255 => ?_, fun h3 y2 hy2 h255 => ?_⟩
  · split
    · rw [State.runStart_cores, State.modTrig_cores]
    · rw [State.modTrig_cores]
  · rw [if_neg (by simp [h2]), ended]
    exact ⟨rfl, if_neg h255, rfl⟩
  · rw [if_pos (by simp [h3, h255]), State.runStart_trig (State.look_modTrig h.part ..) ended hy2]
    exact ⟨rfl, rfl, rfl⟩

end StandsAt

/-! ### Requests (R69, R70) -/

/-- TRIGGER-BIND without FIRE binds the slot and completes. -/
theorem triggerBind_binds {s h : State} {pno q : Nat} {k : Pkt} {p : Part} (hn : s.nextPacket pno q = some (k, h))
    (ht : k.type = 3) (hg : h.goodPacket pno k = true) (hfire : bit (k.w 1) 16 = false) (hp : h.parts.look pno = some p) :
    ∃ u : State, exec (.triggerBind pno q) s = .next ((u.headUp pno k.q 1).complete pno k 0 0)
      ∧ (u.trig pno (bits (k.w 1) 5 0)).slot = bits (k.w 1) 15 8 ∧ u.cores = h.cores := by
  have goes := State.onPacket_goes hn ht hg
  have on : (h.turnOn pno q).parts.look pno = some { p with rrq := (q + 1) % 256 } := State.look_modPart_some _ hp
  rw [exec_triggerBind, execTriggerBind, goes]
  simp only [hfire, Bool.not_false, Bool.true_or, if_true]
  refine ⟨_, rfl, ?_, ?_⟩
  · rw [State.trig_modTrig on]
  · rw [State.modTrig_cores]
    exact State.modPart_cores ..

/-- A register write that is a release, by a thread with nothing to wait for, takes effect at once (R206). -/
theorem State.releasedWrite_now {s : State} {c sl : Nat} {sc : Scope} {u : Thread} (hsc : sc.code ≠ 0)
    (hu : s.thread? c sl = some u) (hreleased : u.prog.released = false) (hrel : u.rel = none) (hunack : u.unack = 0)
    (htouched : u.touched = []) (hsbuf : (s.core c).sbuf = []) : ∃ w : State, w.parts = s.parts ∧ w.qmap = s.qmap
      ∧ ∀ k, s.releasedWrite c sl sc k =
          .next ((k w).modThread c sl fun t => { t with prog := { t.prog with released := false } }) := by
  have me : (s.asThread c sl).me = u := by
    show (s.thread? c sl).getD Thread.zero = u
    rw [hu]; rfl
  have mine : (s.asThread c sl).myCore.sbuf = [] := hsbuf
  have released : ∃ t, (s.asThread c sl).release sc = (true, (s.asThread c sl).setMe t) := by
    simp [State.release, me, mine, hsc, hreleased, hrel, hunack, htouched, Thread.relMove, Thread.relDone]
  obtain ⟨t, ht⟩ := released
  exact ⟨(s.asThread c sl).setMe t, rfl, rfl, fun k => by rw [State.releasedWrite, hu]; dsimp only; rw [ht]⟩

/-- TRIG_WRITE of an idle trigger runs the graph that is bound from its entry. -/
theorem trigWrite_runs {s : State} {c sl n pno : Nat} {u : Thread} {y : GSlot} (hu : s.thread? c sl = some u)
    (hc : s.corePart c = some pno) (hn : n < 64) (hreleased : u.prog.released = false) (hrel : u.rel = none)
    (hunack : u.unack = 0) (htouched : u.touched = []) (hsbuf : (s.core c).sbuf = []) (hst : (s.trig pno n).st = 1)
    (hp : (s.parts.look pno).isSome = true) (hy : (s.part pno).graphs.look (s.trig pno n).slot = some y) :
    ∃ t, exec (.trigWrite c sl n) s = .next t ∧ (t.trig pno n).st = 2
      ∧ (t.trig pno n).run = some ⟨(s.trig pno n).slot, y.entry, [], [], false⟩ := by
  obtain ⟨p, hp⟩ := Option.isSome_iff_exists.mp hp
  obtain ⟨w, hparts, hqmap, writes⟩ := State.releasedWrite_now (sc := .sys) (by decide) hu hreleased hrel hunack htouched hsbuf
  have trig := State.trig_congr hparts pno n
  have hcw : w.corePart c = some pno := (State.corePart_congr hqmap c).trans hc
  have hpw : w.parts.look pno = some p := by rw [hparts, hp]
  rw [State.part_of_look hp] at hy
  have starts : w.trigRequest pno n = w.runStart pno n := by rw [State.trigRequest, trig, if_pos hst]
  rw [exec_trigWrite, execTrigWrite, writes, hcw]
  refine ⟨_, rfl, ?_⟩
  dsimp only
  rw [if_pos hn, starts, State.trig_congr (State.modThread_parts ..), State.runStart_trig hpw trig hy]
  exact ⟨rfl, rfl⟩

end Sys2Proof.Machine
end

section
/-! Remote launches, at their destination and at their source (R73, R74). -/

namespace Sys2Proof.Machine

theorem State.depart_parts (s : State) (dev : Nat) (ord : Option (Nat × Nat)) (a : Answer) :
    (s.depart dev ord a).parts = s.parts := by
  unfold State.depart
  split
  · rfl
  · by_cases hup : s.upPorts dev = []
    · rw [State.pickPort_none hup]
    · obtain ⟨port, l, hp, -⟩ := State.pickPort_some hup ord
      rw [hp]; rfl

/-- Whether a partition is changed before or after something departs is all the same. -/
theorem State.depart_modPart (s : State) (dev : Nat) (ord : Option (Nat × Nat)) (a : Answer) (n : Nat) (f : Part → Part) :
    (s.modPart n f).depart dev ord a = (s.depart dev ord a).modPart n f := by
  rw [State.modPart, State.modPart, State.depart_parts]
  cases s.parts.look n with
  | none => rfl
  | some x =>
    have up : (s.setPart n (f x)).upPorts dev = s.upPorts dev := rfl
    simp only [State.depart, State.pickPort, State.choose, up, State.setPart_devnum, State.setPart_choices]
    split
    · rfl
    · cases s.upPorts dev with
      | nil => rfl
      | cons port rest =>
        cases ord with
        | some o => rfl
        | none => cases s.choices <;> rfl

section
variable {s : State} {r : RemLaunch} {pno : Nat}

theorem remoteLaunchRequest_nowhere (h : s.partOfTsid r.dtsid = none) :
    exec (.remoteLaunchRequest r) s = .next (s.depart r.sdev none (.lane r.id r.sdev 1)) := by
  simp only [exec_remoteLaunchRequest, execRemoteLaunchRequest, h, State.laneAnswer]

/-- A request to a live partition, by the code that its table gives (R73). -/
theorem remoteLaunchRequest_byCode (h : s.partOfTsid r.dtsid = some pno) (hst : (s.part pno).st = 1) :
    let g := if (s.part pno).rltn = 0 then s else s.rltMet pno r 0 (s.part pno).rltn
    let n := s.rltCode pno r
    (n = 0 → (g.parts.look pno).isSome = true → ∃ t, exec (.remoteLaunchRequest r) s = .next t
      ∧ t.out = (g.depart r.sdev none (.lane r.id r.sdev 0)).out
      ∧ (t.part pno).lane = (g.part pno).lane ++ [⟨r.id, r.sdev, padTo 128 r.lrec⟩] ∧ t.cores = g.cores)
    ∧ (n ≠ 0 → n ≠ 6 → exec (.remoteLaunchRequest r) s = .next ((g.checkRecord pno n 0).depart r.sdev none (.lane r.id r.sdev n)))
    ∧ (n = 6 → exec (.remoteLaunchRequest r) s =
        .next (((g.lrecMet pno (g.checkLrec pno r.lrec true)).checkRecord pno 6 0).depart r.sdev none (.lane r.id r.sdev 6))) := by
  intro g n
  have answers : exec (.remoteLaunchRequest r) s =
      let t := if n = 6 then g.lrecMet pno (g.checkLrec pno r.lrec true) else g
      if n = 0 then .next ((t.modPart pno fun p => { p with lane := p.lane ++ [⟨r.id, r.sdev, padTo 128 r.lrec⟩] }).depart
        r.sdev none (.lane r.id r.sdev 0))
      else .next ((t.checkRecord pno n 0).depart r.sdev none (.lane r.id r.sdev n)) := by
    rw [exec_remoteLaunchRequest, execRemoteLaunchRequest, h]
    dsimp only
    rw [if_neg (not_not.mpr hst)]
    rfl
  refine ⟨fun h0 hg => ?_, fun h0 h6 => ?_, fun h6 => ?_⟩
  · obtain ⟨p, hg⟩ := Option.isSome_iff_exists.mp hg
    refine ⟨_, by rw [answers]; dsimp only; rw [if_pos h0, if_neg (by omega)], ?_, ?_, ?_⟩
    · rw [State.depart_modPart, State.modPart_out]
    · have asked : (g.depart r.sdev none (.lane r.id r.sdev 0)).parts.look pno = some p := by rw [State.depart_parts, hg]
      rw [State.depart_modPart, State.part_of_look (State.look_modPart_some _ asked), State.part_of_look hg]
    · rw [State.depart_cores, State.modPart_cores]
  · rw [answers]
    dsimp only
    rw [if_neg h0, if_neg h6]
  · rw [answers]
    dsimp only
    rw [if_neg (by omega), if_pos h6, h6]

end

/-- The launch at the head of the lane (R74). -/
theorem remoteLaneStart_head {s : State} {pno : Nat} {e : LaneEntry} {rest : List LaneEntry}
    (hlane : (s.part pno).lane = e :: rest) (hst : (s.part pno).st = 1) (hh : s.held = false)
    (hnone : (s.part pno).launches = []) :
    (∀ l u, s.checkLrec pno e.lrec true = .ok l u →
      exec (.remoteLaneStart pno) s = .next (u.addLaunch pno l (.remote e.id e.sdev)).2)
    ∧ ((∀ l u, s.checkLrec pno e.lrec true ≠ .ok l u) → exec (.remoteLaneStart pno) s =
      .next ((((s.lrecMet pno (s.checkLrec pno e.lrec true)).modPart pno fun p => { p with lane := rest }).checkRecord pno 6 0).depart
        e.sdev none (.report e.id e.sdev (.refused 6)))) := by
  rw [exec_remoteLaneStart, execRemoteLaneStart]
  simp only [hlane, hst, hh, hnone, List.any_nil]
  refine ⟨fun l u hl => ?_, fun hl => ?_⟩
  · rw [hl]; rfl
  · cases h : s.checkLrec pno e.lrec true with
    | ok l u => exact absurd h (hl l u)
    | bad code => rfl
    | fault e => rfl

/-- The packet that a remote launch is for stands as one. -/
theorem State.remotePkt_st {s : State} {id pno : Nat} {k : Pkt} {ok : Bool} (h : s.remotePkt id = some (pno, k, ok)) :
    ∃ port, k.st = .remote id ok port := by
  obtain ⟨e, -, he⟩ := List.exists_of_findSome?_eq_some h
  obtain ⟨o, -, ho⟩ := List.exists_of_findSome?_eq_some he
  split at ho
  next i b port hst =>
    split at ho
    next hi => cases ho; exact ⟨port, by rw [hst, hi]⟩
    next => cases ho
  next => cases ho

/-- A packet of a remote launch whose acceptance has come. -/
def Pkt.accepted (k : Pkt) (id : Nat) : Pkt :=
  match k.st with
  | .remote i _ p => if i = id then { k with st := .remote i true p } else k
  | _ => k

theorem Pkt.accepted_st {k : Pkt} {id : Nat} {b : Bool} {n : Nat} (h : (k.accepted id).st = .remote id b n) : b = true := by
  unfold Pkt.accepted at h
  split at h
  next i _ p hst =>
    split at h
    next => cases h; rfl
    next hi => rw [hst] at h; cases h; exact absurd rfl hi
  next hst => exact absurd h (hst _ _ _)

section
variable {s : State} {id pno : Nat} {k : Pkt} {ok : Bool} (hk : s.remotePkt id = some (pno, k, ok))
include hk

theorem remoteLaunchResult_completes (hh : s.launchHears k = true) :
    (∀ n, exec (.remoteLaunchResult id (.done n)) s = .next (s.complete pno k 0 n))
    ∧ exec (.remoteLaunchResult id .abort) s = .next (s.complete pno k 3 0)
    ∧ (∀ n, exec (.remoteLaunchResult id (.refused n)) s = .next (s.complete pno k 6 n)) := by
  simp [exec_remoteLaunchResult, execRemoteLaunchResult, hk, hh]

theorem remoteLaunch_unheard (hh : s.launchHears k = false) :
    exec (.acceptanceReply id) s = .next s ∧ ∀ r, exec (.remoteLaunchResult id r) s = .next s := by
  simp [exec_acceptanceReply, execAcceptanceReply, exec_remoteLaunchResult, execRemoteLaunchResult, hk, hh]

theorem State.launchHears_late (hok : ok = false) (hlate : k.tstart + 2 ^ 22 ≤ s.fab) : s.launchHears k = false := by
  obtain ⟨port, hst⟩ := State.remotePkt_st hk
  have late : decide (s.fab < k.tstart + 2 ^ 22) = false := decide_eq_false (Nat.not_lt.mpr hlate)
  rw [State.launchHears, hst, hok]
  dsimp only
  rw [late]
  rfl

theorem State.launchHears_cut (hup : s.upPorts (bits (k.w 2) 9 0) = []) (h16 : ∀ b, k.st ≠ .remote id b 16) :
    s.launchHears k = false := by
  obtain ⟨port, hst⟩ := State.remotePkt_st hk
  have away : port ≠ 16 := fun h => h16 ok (by rw [hst, h])
  have cut : s.upPorts (bits (k.words.getD 2 0).toNat 9 0) = [] := hup
  rw [State.launchHears, hst]
  dsimp only
  rw [cut]
  simp [away]

theorem remoteLaunchTimeout_accepted (hok : ok = true) :
    exec (.remoteLaunchTimeout id) s = .next (s.complete pno k 7 0) := by
  subst hok
  simp only [exec_remoteLaunchTimeout, execRemoteLaunchTimeout, hk, if_true]

theorem remoteLaunchTimeout_unaccepted (hok : ok = false) : exec (.remoteLaunchTimeout id) s =
    .next ((s.pass (Config.clkAt (k.tstart + 2 ^ 22))).complete pno k 7 0) := by
  subst hok
  simp only [exec_remoteLaunchTimeout, execRemoteLaunchTimeout, hk, Bool.false_eq_true, if_false]

theorem acceptanceReply_accepts (hh : s.launchHears k = true) : ∃ t, exec (.acceptanceReply id) s = .next t
    ∧ t.cores = s.cores ∧ ∀ p, s.parts.look pno = some p → ∃ r, t.parts.look pno = some r ∧ r.pkts.length = p.pkts.length
      ∧ ∀ o ∈ r.pkts, ∀ b n, o.st = .remote id b n → b = true := by
  have accepts : exec (.acceptanceReply id) s =
      .next (s.modPart pno fun p => { p with pkts := p.pkts.map fun k => k.accepted id }) := by
    simp only [exec_acceptanceReply, execAcceptanceReply, hk, hh]
    rfl
  refine ⟨_, accepts, State.modPart_cores .., fun p hp => ⟨_, State.look_modPart_some _ hp, List.length_map _, ?_⟩⟩
  intro o hmem b n hst
  obtain ⟨k', -, rfl⟩ := List.mem_map.mp hmem
  exact Pkt.accepted_st hst

end

/-- Settles O48: each clause by the lemma about its event. -/
theorem graphsAndRemoteLaunches : Obligations.GraphsAndRemoteLaunches := by
  refine ⟨fun s pno tr kind p t r y n hp ht hr hy hn hst hh hk hw ho => ?node,
    fun s h pno q k p hn ht hg hfire hp => triggerBind_binds hn ht hg hfire hp,
    fun s c sl n pno u y hu hc hn hreleased hrel hunack htouched hsbuf hst _ hp hy =>
      trigWrite_runs hu hc hn hreleased hrel hunack htouched hsbuf hst hp hy,
    fun s r => ⟨remoteLaunchRequest_nowhere, fun pno => remoteLaunchRequest_byCode⟩,
    fun s pno e rest => remoteLaneStart_head,
    fun s id pno k ok hk => ⟨remoteLaunchResult_completes hk, remoteLaunch_unheard hk, State.launchHears_late hk,
      State.launchHears_cut hk, remoteLaunchTimeout_accepted hk, remoteLaunchTimeout_unaccepted hk,
      acceptanceReply_accepts hk⟩⟩
  case node =>
    subst hk
    have stands : StandsAt s pno tr p t r y n := ⟨hp, ht, hr, hy, hn, hst, hh, hw, ho⟩
    exact ⟨fun hk ha _ _ => stands.launch_waits hk ha, fun hk ha _ => stands.signal_performed hk ha,
      stands.loop_counts, fun hk _ _ => stands.cond_chooses hk, stands.end_completes⟩

end Sys2Proof.Machine
end

section
/-! The Rink's accesses for a thread (R75, R425): where the Safety terms say what is found, the model's accesses go on with
it. -/

namespace Sys2Proof.Machine

theorem State.rinkParts_places {acc : Acc} {l : List (Nat × Nat)} : ∀ {s t : State} {r : List (Nat × Nat)}
    {k : List (Nat × Nat) → State → State}, State.rinkPlaces acc s l = some (r, t) → s.rinkParts acc l k = k r t := by
  induction l with
  | nil => intro s t r k h; cases h; rfl
  | cons q rest ih =>
    obtain ⟨va, n⟩ := q
    intro s t r k h
    unfold State.rinkPlaces at h
    split at h
    · cases h
    rename_i hok
    simp only [Bool.or_eq_true, decide_eq_true_eq, not_or, Bool.not_eq_true, Option.isSome_eq_false_iff,
      Option.isNone_iff_eq_none] at hok
    obtain ⟨⟨hlow, hwin⟩, halive⟩ := hok
    have hva : (Word.ofNat va).toNat = va := Nat.mod_eq_of_lt (by omega)
    split at h
    case h_2 => cases h
    rename_i pa u ht
    obtain ⟨⟨r', t'⟩, hrest, he⟩ := Option.map_eq_some_iff.mp h
    cases he
    simp only [State.rinkParts, hlow, hwin, State.xlateBy, halive, hva, ht, if_false, Bool.false_eq_true]
    exact ih hrest

theorem State.rinkRange_place {s t : State} {acc : Acc} {va n : Nat} {l : List (Nat × Nat)}
    {k : List (Nat × Nat) → State → State} (h : s.rinkPlace acc va n = some (l, t)) : s.rinkRange acc va n k = k l t :=
  State.rinkParts_places h

theorem State.rinkPages_some {acc : Acc} {is : List Nat} {l : List (Nat × Nat)} : ∀ {s t : State} {o : Nat}
    {r : List (Nat × Nat)} {k : List (Nat × Nat) → State → State}, State.rinkSome acc is s o l = some (r, t) →
    s.rinkPages acc is o l k = k r t := by
  induction l with
  | nil => intro s t o r k h; cases h; rfl
  | cons q rest ih =>
    obtain ⟨va, n⟩ := q
    intro s t o r k h
    rw [State.rinkSome] at h
    rw [State.rinkPages]
    split at h
    case isTrue hany =>
      obtain ⟨⟨r1, u⟩, hone, hmore⟩ := Option.bind_eq_some_iff.mp h
      obtain ⟨⟨r2, w⟩, hrest, he⟩ := Option.map_eq_some_iff.mp hmore
      cases he
      rw [if_pos hany, State.rinkParts_places hone]
      exact ih hrest
    case isFalse hany =>
      obtain ⟨⟨r2, w⟩, hrest, he⟩ := Option.map_eq_some_iff.mp h
      cases he
      rw [if_neg hany]
      exact ih hrest

theorem State.rinkTouch_find {s t : State} {acc : Acc} {va n : Nat} {is : List Nat} {l : List (Nat × Nat)}
    {k : List (Nat × Nat) → State → State} (h : s.rinkFind acc va n is = some (l, t)) : s.rinkTouch acc va n is k = k l t :=
  State.rinkPages_some h

theorem State.rinkBytes_read {s t : State} {l : List (Nat × Nat)} {bs : List Byte} (va : Nat)
    {k : List Byte → State → State} (h : s.rinkRead l = some (bs, t)) : s.rinkBytes va l k = k bs t := by
  unfold State.rinkRead at h
  split at h
  · cases h
  · rename_i hclean
    cases h
    exact if_neg hclean

theorem State.withDesc_desc {s t : State} {acc : Acc} {x : Nat} {d : List Byte} {l : List (Nat × Nat)}
    {k : List Byte → List (Nat × Nat) → State → State} (h : s.rinkDesc acc x = some (d, l, t)) :
    s.withDesc acc x k = k d l t := by
  obtain ⟨⟨l', u⟩, hplace, hread⟩ := Option.bind_eq_some_iff.mp h
  obtain ⟨⟨d', t'⟩, hbytes, he⟩ := Option.map_eq_some_iff.mp hread
  cases he
  unfold State.withDesc
  dsimp only
  rw [State.rinkRange_place hplace, State.rinkBytes_read _ hbytes]

/-- A handle of the installed table is accepted. -/
theorem State.withHandle_within {s : State} {h tab : Word} {n : Nat} {k : State → State}
    (ht : s.myPart.rink.table = some (tab, n)) (hn : h.toNat < n) : s.withHandle h k = k s := by
  simp [State.withHandle, ht, hn]

/-- A handle that no installed table has raises PROT. -/
theorem State.withHandle_outside {s : State} {h : Word} {k : State → State}
    (hout : ∀ tab n, s.myPart.rink.table = some (tab, n) → n ≤ h.toNat) : s.withHandle h k = s.trap .prot h := by
  unfold State.withHandle
  split
  · rename_i tab n ht; exact if_neg (Nat.not_lt.mpr (hout tab n ht))
  · rfl

theorem State.releaseThen_done {s g : State} {sc : Scope} {k : State → State} (h : s.release sc = (true, g)) :
    s.releaseThen sc k = k g := by
  simp [State.releaseThen, h]

end Sys2Proof.Machine
end

section
/-! Descriptors (R76): a field that has been written reads as the value written, and the other fields as before. -/

namespace Sys2Proof.Machine

theorem leNat_lt (bs : List Byte) : leNat bs < 256 ^ bs.length := by
  induction bs with
  | nil => exact Nat.one_pos
  | cons b bs ih =>
    have hb := b.isLt
    rw [leNat, List.length_cons, Nat.pow_succ]
    omega

theorem dfield_lt (d : List Byte) (off n : Nat) : dfield d off n < 256 ^ n :=
  Nat.lt_of_lt_of_le (leNat_lt _) (Nat.pow_le_pow_right (by decide) (List.length_take_le ..))

theorem dset_size (d : List Byte) (off n v : Nat) :
    (dset d off n v).length = min off d.length + n + (d.length - (off + n)) := by
  simp only [dset, dput, List.length_append, List.length_take, List.length_drop, leBytes_length]

section
variable {d : List Byte} {off n : Nat} (hin : off + n ≤ d.length) (v : Nat)
include hin

theorem dset_length : (dset d off n v).length = d.length := by
  rw [dset_size]; omega

/-- A byte outside the field is as it was. -/
theorem dset_getElem?_outside {i : Nat} (hi : i < off ∨ off + n ≤ i) : (dset d off n v)[i]? = d[i]? := by
  have hoff : (d.take off).length = off := List.length_take_of_le (by omega)
  have hlen : (d.take off ++ leBytes n v).length = off + n := by rw [List.length_append, hoff, leBytes_length]
  rw [dset, dput, leBytes_length]
  rcases hi with hi | hi
  · rw [List.append_assoc, List.getElem?_append_left (by omega), List.getElem?_take_of_lt hi]
  · rw [List.getElem?_append_right (by omega), hlen, List.getElem?_drop, Nat.add_sub_cancel' hi]

theorem dfield_dset_same : dfield (dset d off n v) off n = v % 256 ^ n := by
  have hoff : (d.take off).length = off := List.length_take_of_le (by omega)
  rw [dfield, dset, dput, List.append_assoc, List.drop_left' hoff, List.take_left' (leBytes_length n v), leNat_leBytes]

theorem dfield_dset_apart {o m : Nat} (ho : o + m ≤ off ∨ off + n ≤ o) : dfield (dset d off n v) o m = dfield d o m := by
  refine congrArg leNat (List.ext_getElem? fun j => ?_)
  rw [List.getElem?_take, List.getElem?_take]
  split
  · rw [List.getElem?_drop, List.getElem?_drop, dset_getElem?_outside hin v (by omega)]
  · rfl

end

/-! ### FLAGS (R77) -/

theorem bit_eq_testBit (x n : Nat) : bit x n = x.testBit n := by
  rw [Nat.testBit_eq_decide_div_mod_eq]; rfl

theorem bit_eq_iff (x n : Nat) (b : Bool) : bit x n = b ↔ x / 2 ^ n % 2 = b2n b := by
  cases b <;> simp [bit, b2n]

theorem b2n_le (b : Bool) : b2n b ≤ 1 := by cases b <;> decide

theorem ite_two (b : Bool) : (if b then 2 else 0) = 2 * b2n b := by cases b <;> rfl

/-- A number with bit 1 set or cleared, as REQ is. -/
theorem bit_setReq (f : Nat) (b : Bool) :
    let g := f - (if bit f 1 then 2 else 0) + (if b then 2 else 0)
    bit g 0 = bit f 0 ∧ bit g 1 = b ∧ bit g 2 = bit f 2 := by
  have h0 := (bit_eq_iff f 0 _).mp rfl
  have h1 := (bit_eq_iff f 1 _).mp rfl
  have h2 := (bit_eq_iff f 2 _).mp rfl
  have hb := b2n_le b
  dsimp only
  rw [ite_two, ite_two]
  exact ⟨(bit_eq_iff ..).mpr (by omega), (bit_eq_iff ..).mpr (by omega), (bit_eq_iff ..).mpr (by omega)⟩

theorem dFlags_lt (d : List Byte) : dFlags d < 65536 := dfield_lt d 30 2

theorem dVis_dset_apart {d : List Byte} {off n : Nat} (hin : off + n ≤ d.length) (v : Nat) (ho : off + n ≤ 30 ∨ 32 ≤ off) :
    dVis (dset d off n v) = dVis d := by
  rw [dVis, dFlags, dfield_dset_apart hin v (by omega)]; rfl

section
variable {d : List Byte} (hd : 32 ≤ d.length) (b : Bool)
include hd

theorem dFlags_dSetReq : dFlags (dSetReq d b) = dFlags d - (if bit (dFlags d) 1 then 2 else 0) + (if b then 2 else 0) := by
  have hf := dFlags_lt d
  have h1 := (bit_eq_iff (dFlags d) 1 _).mp rfl
  have hb := b2n_le b
  rw [dFlags, dSetReq, dfield_dset_same (by omega)]
  refine Nat.mod_eq_of_lt ?_
  rw [ite_two, ite_two]
  omega

theorem dReq_dSetReq : dReq (dSetReq d b) = b := by
  rw [dReq, dFlags_dSetReq hd]; exact (bit_setReq _ b).2.1

theorem dVis_dSetReq : dVis (dSetReq d b) = dVis d := by
  rw [dVis, dFlags_dSetReq hd]; exact (bit_setReq _ b).1

theorem dHold_dSetReq : dHold (dSetReq d b) = dHold d := by
  rw [dHold, dFlags_dSetReq hd]; exact (bit_setReq _ b).2.2

theorem dfield_dSetReq {o m : Nat} (ho : o + m ≤ 30 ∨ 32 ≤ o) : dfield (dSetReq d b) o m = dfield d o m :=
  dfield_dset_apart (by omega) _ ho

end

end Sys2Proof.Machine
end

section
/-! What LSET and LMERGE make of descriptors (R89, R426). -/

namespace Sys2Proof.Machine

theorem layerField_within (sel : Nat) : (layerField sel).1 + (layerField sel).2 ≤ 64 := by
  unfold layerField; split <;> decide

theorem lsetDesc_plain (d : List Byte) {sel : Nat} (v w : Word) (h5 : sel ≠ 5) (h6 : sel ≠ 6) (h14 : sel < 14) :
    lsetDesc d sel v w = dset d (layerField sel).1 (layerField sel).2 v.toNat := by
  unfold lsetDesc
  split
  · exact absurd rfl h5
  · exact absurd rfl h6
  · exact absurd h14 (by decide)
  · rfl

/-- LSET of a plain field writes the field and nothing else. -/
theorem lsetDesc_writes (d : List Byte) (sel : Nat) (v w : Word) (hd : d.length = 64) (hs : sel < 14) (h5 : sel ≠ 5)
    (h6 : sel ≠ 6) :
    let fld := layerField sel
    (lsetDesc d sel v w).length = 64 ∧ dfield (lsetDesc d sel v w) fld.1 fld.2 = v.toNat % 2 ^ (8 * fld.2)
      ∧ ∀ i < 64, ¬ (fld.1 ≤ i ∧ i < fld.1 + fld.2) → (lsetDesc d sel v w).getD i 0 = d.getD i 0 := by
  have hin : (layerField sel).1 + (layerField sel).2 ≤ d.length := hd ▸ layerField_within sel
  dsimp only
  rw [lsetDesc_plain d v w h5 h6 hs]
  refine ⟨(dset_length hin _).trans hd, ?_, fun i _ hi => ?_⟩
  · rw [dfield_dset_same hin, Nat.pow_mul]
  · rw [List.getD_eq_getElem?_getD, List.getD_eq_getElem?_getD, dset_getElem?_outside hin _ (by omega)]

/-- LSET of FLAGS keeps REQ, and LSET of AGE stops at 65535. -/
theorem lsetDesc_flags (d : List Byte) (v w : Word) (hd : d.length = 64) : dReq (lsetDesc d 6 v w) = dReq d
    ∧ dVis (lsetDesc d 6 v w) = v.getLsbD 0 ∧ dHold (lsetDesc d 6 v w) = v.getLsbD 2
    ∧ dfield (lsetDesc d 5 v w) 28 2 = min v.toNat 65535 := by
  have hlen : 32 ≤ (dset d 30 2 v.toNat).length := by rw [dset_length (by omega)]; omega
  have hflags : dFlags (dset d 30 2 v.toNat) = v.toNat % 65536 := dfield_dset_same (by omega) _
  have low : ∀ i < 16, bit (v.toNat % 65536) i = v.getLsbD i := fun i hi => by
    rw [bit_eq_testBit, show 65536 = 2 ^ 16 from rfl, Nat.testBit_mod_two_pow, decide_eq_true hi]; rfl
  refine ⟨dReq_dSetReq hlen _, (dVis_dSetReq hlen _).trans ?_, (dHold_dSetReq hlen _).trans ?_, ?_⟩
  · rw [dVis, hflags, low 0 (by decide)]
  · rw [dHold, hflags, low 2 (by decide)]
  · exact (dfield_dset_same (by omega) _).trans (Nat.mod_eq_of_lt (by omega))

/-! ### LMERGE (R89) -/

/-- The fields of the merged descriptor that hold the greater of two values, and VALID of the lights, which are joined; the
others are a's. -/
theorem mergeDesc_fields {da : List Byte} (db : List Byte) (ha : da.length = 64) :
    dfield (mergeDesc da db) 32 4 = max (dfield da 32 4) (dfield db 32 4)
      ∧ dfield (mergeDesc da db) 44 4 = (dfield da 44 4 ||| dfield db 44 4)
      ∧ dfield (mergeDesc da db) 36 4 = dfield da 36 4 ∧ dReq (mergeDesc da db) = (dReq da || dReq db)
      ∧ dVis (mergeDesc da db) = dVis da := by
  have hmax : max (dfield da 32 4) (dfield db 32 4) < 4294967296 := Nat.max_lt.mpr ⟨dfield_lt .., dfield_lt ..⟩
  have hor : dfield da 44 4 ||| dfield db 44 4 < 4294967296 := Nat.or_lt_two_pow (n := 32) (dfield_lt ..) (dfield_lt ..)
  refine ⟨?_, ?_, ?_, ?_, ?_⟩
  · simp [mergeDesc, dfield_dSetReq, dfield_dset_apart, dfield_dset_same, dset_size, ha, Nat.mod_eq_of_lt hmax]
  · simp [mergeDesc, dfield_dSetReq, dfield_dset_same, dset_size, ha, Nat.mod_eq_of_lt hor]
  · simp [mergeDesc, dfield_dSetReq, dfield_dset_apart, dset_size, ha]
  · simp [mergeDesc, dReq_dSetReq, dset_size, ha]
  · simp [mergeDesc, dVis_dSetReq, dVis_dset_apart, dset_size, ha]

/-- The descriptor that was merged into another: AGE and EST are 0, and VIS and REQ are clear. -/
theorem mergedDesc_fields {db : List Byte} (hb : db.length = 64) : dfield (mergedDesc db) 32 4 = 0
    ∧ dfield (mergedDesc db) 28 2 = 0 ∧ dVis (mergedDesc db) = false ∧ dReq (mergedDesc db) = false := by
  have hf := dFlags_lt db
  have hflags : dFlags (mergedDesc db) = dFlags db - bits (dFlags db) 1 0 := by
    rw [dFlags, mergedDesc, dfield_dset_same (by simp [dset_length, hb])]
    exact Nat.mod_eq_of_lt (by omega)
  refine ⟨?_, ?_, ?_, ?_⟩
  · simp [mergedDesc, dfield_dset_apart, dfield_dset_same, dset_size, hb]
  · simp [mergedDesc, dfield_dset_apart, dfield_dset_same, dset_size, hb]
  · rw [dVis, hflags, bit_eq_iff]; show _ = 0; unfold bits; omega
  · rw [dReq, hflags, bit_eq_iff]; show _ = 0; unfold bits; omega

/-- The fragment that goes in front (R85): the nearer, then the one of lower ORDER, then the one of the lower handle. -/
theorem frontOf_iff (da db : List Byte) (xa xb za zb : Nat) : frontOf da db xa xb za zb = true ↔
    depthHere zb = true ∧ (depthHere za = false ∨ depthKey zb < depthKey za ∨ (depthKey zb = depthKey za
      ∧ (dfield db 52 2 < dfield da 52 2 ∨ (dfield db 52 2 = dfield da 52 2 ∧ xb < xa)))) := by
  unfold frontOf
  cases depthHere zb
  · simp
  · cases depthHere za <;> simp

end Sys2Proof.Machine
end

section
/-! The pixels of a surface (R88, R427). -/

namespace Sys2Proof.Machine

/-- A surface of one run: each of its pixels is four bytes of it. -/
theorem pixelParts_run (pa cnt : Nat) (is : List Nat) (h : ∀ i ∈ is, i < cnt) :
    pixelParts [(pa, 4 * cnt)] is = is.map fun i => (pa + 4 * i, 4) := by
  have part : ∀ i ∈ is, subParts [(pa, 4 * cnt)] (4 * i) 4 = [(pa + 4 * i, 4)] := fun i hi => by
    have : min 4 (4 * cnt - 4 * i) = 4 := by have := h i hi; omega
    simp [subParts, this]
  rw [pixelParts, List.flatMap_congr part, List.map_eq_flatMap]

theorem px_length {z : List Byte} {i : Nat} (h : 4 * (i + 1) ≤ z.length) : (px z i).length = 4 := by
  rw [px, List.length_take, List.length_drop]; omega

/-- A pixel of a surface that is put together pixel by pixel. -/
theorem px_flatMap {f : Nat → List Byte} : ∀ (l : List Nat) (i : Nat) (hi : i < l.length),
    (∀ j ∈ l, (f j).length = 4) → px (l.flatMap f) i = f l[i] := by
  intro l
  induction l with
  | nil => intro i hi _; cases hi
  | cons j l ih =>
    intro i hi hf
    have hj := hf j List.mem_cons_self
    cases i with
    | zero => exact List.take_left' hj
    | succ i =>
      rw [List.getElem_cons_succ, ← ih i (Nat.lt_of_succ_lt_succ hi) fun k hk => hf k (List.mem_cons_of_mem _ hk),
        px, px, List.flatMap_cons, Nat.mul_succ, Nat.add_comm, ← hj, List.drop_length_add_append, hj]

/-- The depths of n after a split are those of s where the mask is 1, and +Inf elsewhere (R88). -/
def splitDepth (m z : List Byte) (i : Nat) : List Byte := if maskBit m i then px z i else infDepth

theorem splitDepths_eq {m z : List Byte} {l : List Nat} (h : ∀ i ∈ l, (px z i).length = 4) :
    splitDepths m l ((l.filter (maskBit m)).flatMap (px z)) = l.flatMap (splitDepth m z) := by
  induction l with
  | nil => rfl
  | cons i l ih =>
    have hi := h i List.mem_cons_self
    have ih := ih fun j hj => h j (List.mem_cons_of_mem _ hj)
    rw [splitDepths, List.flatMap_cons, splitDepth]
    cases hm : maskBit m i with
    | true => simp [hm, hi, ih]
    | false => simp [hm, ih]

theorem px_splitDepths (cnt i : Nat) (m z : List Byte) (hi : i < cnt) (hz : z.length = 4 * cnt) :
    px (splitDepths m (List.range cnt) (((List.range cnt).filter (maskBit m)).flatMap (px z))) i =
      if maskBit m i then px z i else leBytes 4 0x7F800000 := by
  have four : ∀ j ∈ List.range cnt, (px z j).length = 4 := fun j hj => px_length (by have := List.mem_range.mp hj; omega)
  have each : ∀ j ∈ List.range cnt, (splitDepth m z j).length = 4 := fun j hj => by
    unfold splitDepth; split
    · exact four j hj
    · rfl
  rw [splitDepths_eq four, px_flatMap _ _ (by simpa using hi) each, List.getElem_range]
  rfl

end Sys2Proof.Machine
end

section
/-! LSPLIT and LMERGE (R88, R89, R427). -/

namespace Sys2Proof.Machine

/-- No table that is installed has the handle (R75). -/
def State.badHandle (s : State) (h : Word) : Prop := ∀ tab n, s.myPart.rink.table = some (tab, n) → n ≤ h.toNat

theorem State.not_badHandle {s : State} {h tab : Word} {n : Nat} (ht : s.myPart.rink.table = some (tab, n))
    (hn : h.toNat < n) : ¬ s.badHandle h := fun hb => Nat.not_lt.mpr (hb tab n ht) hn

/-- What an instruction begins from has the table that stands installed. -/
theorem began_withHandle_good {s : State} {srcs : List Pos} {h : Word} (hgood : ¬ s.badHandle h) (k : State → State) :
    (began s srcs).withHandle h k = k (began s srcs) := by
  unfold State.badHandle at hgood
  push Not at hgood
  obtain ⟨tab, n, ht, hn⟩ := hgood
  exact State.withHandle_within ht hn

theorem began_withHandle_bad {s : State} {srcs : List Pos} {h : Word} (hbad : s.badHandle h) (k : State → State) :
    (began s srcs).withHandle h k = (began s srcs).trap .prot h :=
  State.withHandle_outside hbad

section
variable {s g : State} {p : Pred} {a b c : Code}

/-! ### LSPLIT -/

section
variable (hi : Issues s p none [rg a, rg b, rg c])
include hi

theorem lsplit_badSource (hs : s.badHandle (s.operand [a, b, c] 0)) :
    exec (.lsplit p a b c) s = .next ((began s [rg a, rg b, rg c]).trap .prot (s.operand [a, b, c] 0)) := by
  rw [exec_lsplit, execLsplit, issue_goes hi]
  simp only [began_operand]
  rw [began_withHandle_bad hs]

variable (hs : ¬ s.badHandle (s.operand [a, b, c] 0))
include hs

theorem lsplit_badDest (hn : s.badHandle (s.operand [a, b, c] 1)) :
    exec (.lsplit p a b c) s = .next ((began s [rg a, rg b, rg c]).trap .prot (s.operand [a, b, c] 1)) := by
  rw [exec_lsplit, execLsplit, issue_goes hi]
  simp only [began_operand]
  rw [began_withHandle_good hs, began_withHandle_bad hn]

variable (hn : ¬ s.badHandle (s.operand [a, b, c] 1))
include hn

theorem lsplit_same (heq : s.operand [a, b, c] 0 = s.operand [a, b, c] 1) :
    exec (.lsplit p a b c) s = .next ((began s [rg a, rg b, rg c]).trap .prot (s.operand [a, b, c] 1)) := by
  rw [exec_lsplit, execLsplit, issue_goes hi]
  simp only [began_operand]
  rw [began_withHandle_good hs, began_withHandle_good hn, if_pos heq]

/-- LSPLIT reads what `splitView` says and writes the surfaces, then the descriptor, and then the queue. -/
theorem lsplit_splits (hne : s.operand [a, b, c] 0 ≠ s.operand [a, b, c] 1)
    (hr : (began s [rg a, rg b, rg c]).release .pkg = (true, g)) {v : SplitView}
    (hv : g.splitView (s.operand [a, b, c] 0).toNat (s.operand [a, b, c] 1).toNat (s.operand [a, b, c] 2).toNat = some v) :
    exec (.lsplit p a b c) s = .next ((((((v.s.rinkStore (pixelParts v.lnc v.is) v.sc).rinkStore v.lnz
      (splitDepths v.m (List.range v.cnt) v.sz)).rinkStore (pixelParts v.lsz v.is)
      (v.is.flatMap fun _ => leBytes 4 0x7F800000)).rinkStore
      v.ln (dSetReq (dput v.dn 16 ((v.ds.drop 16).take 39)) false)).modRink
        fun q => { q with queue := q.queue.filter (· ≠ (s.operand [a, b, c] 1).toNat) }).retire) := by
  simp only [State.splitView, Option.bind_eq_some_iff, Option.map_eq_some_iff, Prod.exists] at hv
  obtain ⟨ds, _, _, hds, dn, ln, _, hdn, lm, _, hlm, m, _, hm, lsc, _, hlsc, lsz, _, hlsz, lnc, _, hlnc, lnz, _, hlnz,
    sc, _, hsc, sz, _, hsz, rfl⟩ := hv
  rw [exec_lsplit, execLsplit, issue_goes hi]
  simp only [began_operand]
  rw [began_withHandle_good hs, began_withHandle_good hn, if_neg hne, State.releaseThen_done hr,
    State.withDesc_desc hds, State.withDesc_desc hdn, State.rinkRange_place hlm, State.rinkBytes_read _ hm,
    State.rinkTouch_find hlsc, State.rinkTouch_find hlsz, State.rinkTouch_find hlnc, State.rinkRange_place hlnz,
    State.rinkBytes_read _ hsc, State.rinkBytes_read _ hsz]
  rfl

end

/-! ### LMERGE -/

section
variable (hi : Issues s p none [rg a, rg b])
include hi

theorem lmerge_badFirst (ha : s.badHandle (s.operand [a, b] 0)) :
    exec (.lmerge p a b) s = .next ((began s [rg a, rg b]).trap .prot (s.operand [a, b] 0)) := by
  rw [exec_lmerge, execLmerge, issue_goes hi]
  simp only [began_operand]
  rw [began_withHandle_bad ha]

variable (ha : ¬ s.badHandle (s.operand [a, b] 0))
include ha

theorem lmerge_badSecond (hb : s.badHandle (s.operand [a, b] 1) ∨ s.operand [a, b] 0 = s.operand [a, b] 1) :
    exec (.lmerge p a b) s = .next ((began s [rg a, rg b]).trap .prot (s.operand [a, b] 1)) := by
  rw [exec_lmerge, execLmerge, issue_goes hi]
  simp only [began_operand]
  rw [began_withHandle_good ha]
  by_cases hbad : s.badHandle (s.operand [a, b] 1)
  · rw [began_withHandle_bad hbad]
  · rw [began_withHandle_good hbad, if_pos (hb.resolve_left hbad)]

variable {g1 g2 : State} {da db : List Byte} {la lb : List (Nat × Nat)} (hb : ¬ s.badHandle (s.operand [a, b] 1))
  (hne : s.operand [a, b] 0 ≠ s.operand [a, b] 1) (hr : (began s [rg a, rg b]).release .pkg = (true, g))
  (hda : g.rinkDesc .write (s.operand [a, b] 0).toNat = some (da, la, g1))
  (hdb : g1.rinkDesc .write (s.operand [a, b] 1).toNat = some (db, lb, g2))
include hb hne hr hda hdb

theorem lmerge_unlike (hgeo : (da.drop 16).take 12 ≠ (db.drop 16).take 12) :
    exec (.lmerge p a b) s = .next (g2.trap .prot (s.operand [a, b] 1)) := by
  rw [exec_lmerge, execLmerge, issue_goes hi]
  simp only [began_operand]
  rw [began_withHandle_good ha, began_withHandle_good hb, if_neg hne, State.releaseThen_done hr,
    State.withDesc_desc hda, State.withDesc_desc hdb, if_pos hgeo]

/-- LMERGE reads what `mergeView` says and writes a's surfaces, then both descriptors, and then the queue. -/
theorem lmerge_merges (hgeo : (da.drop 16).take 12 = (db.drop 16).take 12) {v : MergeView}
    (hv : g2.mergeView (s.operand [a, b] 0).toNat (s.operand [a, b] 1).toNat da db = some v) :
    exec (.lmerge p a b) s = .next (((((v.s.rinkStore (pixelParts v.lac v.is) v.bc).rinkStore
      (pixelParts v.laz v.is) (v.is.flatMap (px v.bz))).rinkStore
      la (mergeDesc da db)).rinkStore lb (mergedDesc db)).modRink fun q =>
        { q with queue := mergeQueue q.queue (s.operand [a, b] 0).toNat (s.operand [a, b] 1).toNat (dReq da) (dReq db) }).retire := by
  have count : 4 * (dW da * dH da) / 4 = dW da * dH da := Nat.mul_div_cancel_left _ (by decide)
  simp only [State.mergeView, Option.bind_eq_some_iff, Option.map_eq_some_iff, Prod.exists] at hv
  obtain ⟨lza, _, hlza, lzb, _, hlzb, az, _, haz, bz, _, hbz, laz, _, hlaz, lac, _, hlac, lbc, _, hlbc, bc, _, hbc, rfl⟩ := hv
  rw [exec_lmerge, execLmerge, issue_goes hi]
  simp only [began_operand]
  rw [began_withHandle_good ha, began_withHandle_good hb, if_neg hne, State.releaseThen_done hr,
    State.withDesc_desc hda, State.withDesc_desc hdb, if_neg (not_not.mpr hgeo), count, State.rinkRange_place hlza,
    State.rinkRange_place hlzb, State.rinkBytes_read _ haz, State.rinkBytes_read _ hbz, State.rinkTouch_find hlaz,
    State.rinkTouch_find hlac, State.rinkTouch_find hlbc, State.rinkBytes_read _ hbc]

end

/-! ### LDONE -/

theorem ldone_bad (hi : Issues s p none [rg a]) (hbad : s.badHandle (s.operand [a] 0)) :
    exec (.ldone p a) s = .next ((began s [rg a]).trap .prot (s.operand [a] 0)) := by
  rw [exec_ldone, execLdone, issue_goes hi]
  simp only [began_operand]
  rw [began_withHandle_bad hbad]

end

/-- Settles O34: each instruction by the lemmas about it, its pixels and its descriptors by theirs. -/
theorem layersSplitAndMerge : Obligations.LayersSplitAndMerge := by
  refine ⟨⟨?split, pixelParts_run, px_splitDepths, fun s p a b c => ⟨fun hi => ⟨lsplit_badSource hi, lsplit_badDest hi⟩,
    fun hi => ⟨lmerge_badFirst hi, lmerge_badSecond hi⟩, ldone_bad⟩⟩, ?merge, frontOf_iff, fun da db ha hb => ?descs⟩
  case split =>
    intro s g p a b c tab n v srcs hs hn hi ht hsn hnn
    have goodS := State.not_badHandle ht hsn
    have goodN := State.not_badHandle ht hnn
    exact ⟨lsplit_same hi goodS goodN, fun hne hr hv => lsplit_splits hi goodS goodN hne hr hv⟩
  case merge =>
    intro s g g1 g2 p a b tab n da db la lb v srcs ha hb hi ht han hbn hne hr hda hdb
    have goodA := State.not_badHandle ht han
    have goodB := State.not_badHandle ht hbn
    exact ⟨lmerge_unlike hi goodA goodB hne hr hda hdb,
      fun hgeo hv => lmerge_merges hi goodA goodB hne hr hda hdb hgeo hv⟩
  case descs =>
    obtain ⟨hest, hvalid, hmode, hreq, hvis⟩ := mergeDesc_fields db ha
    obtain ⟨hest0, hage0, hvis0, hreq0⟩ := mergedDesc_fields hb
    exact ⟨hest, hvalid, hmode, hreq, hvis, hest0, hage0, hvis0, hreq0⟩

end Sys2Proof.Machine
end

section
/-! LGET and LSET (R426), and the requests of layers: LREQ, LDONE and LEPOCH (R428). -/

namespace Sys2Proof.Machine

theorem State.badHandle_past {s : State} {h tab : Word} {n : Nat} (ht : s.myPart.rink.table = some (tab, n))
    (hn : n ≤ h.toNat) : s.badHandle h := by
  intro tab' n' h'
  rw [ht] at h'
  cases h'
  exact hn

/-! ### LGET and LSET -/

section
variable {s g u : State} {p : Pred} {d a b : Code} {sel : Fin 15} {dd : List Byte} {l : List (Nat × Nat)}

theorem lget_bad (hi : Issues s p (some (rg d)) [rg a]) (hbad : s.badHandle (s.operand [a] 0)) :
    exec (.lget p d a sel) s = .next ((began s [rg a]).trap .prot (s.operand [a] 0)) := by
  rw [exec_lget, execLget, issue_goes hi]
  simp only [began_operand]
  rw [began_withHandle_bad hbad]

theorem lget_reads (hi : Issues s p (some (rg d)) [rg a]) (hgood : ¬ s.badHandle (s.operand [a] 0))
    (hd : (began s [rg a]).rinkDesc .read (s.operand [a] 0).toNat = some (dd, l, u)) :
    exec (.lget p d a sel) s = .next (((u.acquire .pkg).wr d (Word.ofNat
      (leNat ((dd.drop (layerField sel.val).1).take (layerField sel.val).2)))).retire) := by
  rw [exec_lget, execLget, issue_goes hi]
  simp only [began_operand]
  rw [began_withHandle_good hgood, State.withDesc_desc hd]
  rfl

/-- The registers that LSET reads: its handle, and its value, which is a pair for SURF (R426). -/
abbrev lsetSrcs (a b : Code) (sel : Fin 15) : List Pos := [rg a, if sel.val = 14 then ⟨b, .group 2 1⟩ else rg b]

theorem lset_bad (hi : Issues s p none (lsetSrcs a b sel)) (hbad : s.badHandle (s.operand [a, b] 0)) :
    exec (.lset p a b sel) s = .next ((began s (lsetSrcs a b sel)).trap .prot (s.operand [a, b] 0)) := by
  rw [exec_lset, execLset, issue_goes hi]
  simp only [began_operand]
  rw [began_withHandle_bad hbad]

theorem lset_writes (hi : Issues s p none (lsetSrcs a b sel)) (hgood : ¬ s.badHandle (s.operand [a, b] 0))
    (hr : (began s (lsetSrcs a b sel)).release .pkg = (true, g))
    (hd : g.rinkDesc .write (s.operand [a, b] 0).toNat = some (dd, l, u)) :
    exec (.lset p a b sel) s = .next ((u.rinkStore l (lsetDesc dd sel.val
      (if sel.val = 14 then s.myCore.greg s.me b.toNat else s.operand [a, b] 1)
      (if sel.val = 14 then s.myCore.greg s.me (b.toNat + 1) else 0))).retire) := by
  rw [exec_lset, execLset, issue_goes hi]
  simp only [began_operand]
  rw [began_withHandle_good hgood, State.releaseThen_done hr, State.withDesc_desc hd]
  rfl

end

/-! ### LDONE -/

/-- What LDONE makes of a descriptor (R428). -/
def doneDesc (d : List Byte) (spread : Nat) : List Byte := dSetReq (dset (dset (dset d 28 2 0) 32 4 0) 40 4 spread) false

/-- SPREAD of a descriptor's depths as LDONE finds it, and the state after it has looked (R87, R428). -/
def State.spreadSeen (s : State) (x : Nat) (d : List Byte) : Nat × State :=
  if dZsurf d % 64 ≠ 0 then (0, s.surfaceRecord s.myPartNo x (dZsurf d))
  else match s.lodgeSee s.myPartNo (dZsurf d) (4 * (dW d * dH d)) with
    | (some bs, s) => (spreadOf (words32 (dW d * dH d) bs), s)
    | (none, s) => (0, s.surfaceRecord s.myPartNo x (dZsurf d))

theorem State.spreadSeen_misaligned {s : State} {x : Nat} {d : List Byte} (h : dZsurf d % 64 ≠ 0) :
    (s.spreadSeen x d).1 = 0 := by
  rw [State.spreadSeen, if_pos h]

theorem State.spreadSeen_read {s u : State} {x : Nat} {d bs : List Byte} (h : dZsurf d % 64 = 0)
    (hread : s.lodgeRead s.myPartNo (dZsurf d) (4 * (dW d * dH d)) = .ok (bs, u)) :
    s.spreadSeen x d = (spreadOf (words32 (dW d * dH d) bs), u) := by
  rw [State.spreadSeen, if_neg (not_not.mpr h), State.lodgeSee, hread]

theorem ldone_clears {s g0 g : State} {p : Pred} {a : Code} {d : List Byte} {l : List (Nat × Nat)}
    (hi : Issues s p none [rg a]) (hgood : ¬ s.badHandle (s.operand [a] 0))
    (hr : (began s [rg a]).release .pkg = (true, g0)) (hd : g0.rinkDesc .write (s.operand [a] 0).toNat = some (d, l, g)) :
    exec (.ldone p a) s = .next
      (((((g.spreadSeen (s.operand [a] 0).toNat d).2).rinkStore l (doneDesc d (g.spreadSeen (s.operand [a] 0).toNat d).1)).modRink
        fun q => { q with queue := q.queue.filter (· ≠ (s.operand [a] 0).toNat) }).retire) := by
  rw [exec_ldone, execLdone, issue_goes hi]
  simp only [began_operand]
  rw [began_withHandle_good hgood, State.releaseThen_done hr, State.withDesc_desc hd]
  rfl

/-! ### The Rink of the thread's partition, and the thread after a completion or a park -/

/-- The partition of the issuing core, which stands. -/
structure OfPart (s : State) (pno : Nat) (q : Part) : Prop where
  core : s.corePart s.cur.core = some pno
  stands : s.parts.look pno = some q

theorem OfPart.no {s : State} {pno : Nat} {q : Part} (h : OfPart s pno q) : s.myPartNo = pno := by
  rw [State.myPartNo, h.core]; rfl

theorem OfPart.part {s : State} {pno : Nat} {q : Part} (h : OfPart s pno q) : s.myPart = q := by
  rw [State.myPart, h.no, State.part_of_look h.stands]

theorem OfPart.began {s : State} {pno : Nat} {q : Part} (h : OfPart s pno q) (srcs : List Pos) :
    OfPart (began s srcs) pno q := ⟨h.core, h.stands⟩

theorem OfPart.modRink {s : State} {pno : Nat} {q : Part} (h : OfPart s pno q) (f : Rink → Rink) :
    (s.modRink f).part pno = { q with rink := f q.rink } := by
  rw [State.modRink, h.no]
  exact State.part_of_look (State.look_modPart_some _ h.stands)

theorem State.me?_congr {s t : State} (hcores : t.cores = s.cores) (hcur : t.cur = s.cur) : t.me? = s.me? := by
  simp only [State.me?, State.thread?, State.core, hcores, hcur]

theorem State.modRink_cores (s : State) (f : Rink → Rink) : (s.modRink f).cores = s.cores := State.modPart_cores ..
theorem State.modRink_cur (s : State) (f : Rink → Rink) : (s.modRink f).cur = s.cur := State.modPart_cur ..

theorem State.modRink_me? (s : State) (f : Rink → Rink) : (s.modRink f).me? = s.me? :=
  State.me?_congr (State.modRink_cores ..) (State.modRink_cur ..)

theorem State.me_eq {s : State} {t : Thread} (ht : s.me? = some t) : s.me = t := by rw [State.me, ht]; rfl

theorem State.modRink_myCore (s : State) (f : Rink → Rink) : (s.modRink f).myCore = s.myCore := by
  simp only [State.myCore, State.core, State.modRink_cores, State.modRink_cur]

/-- A retirement leaves the partitions. -/
theorem State.retireTo_parts {s : State} (pc : Word) {t : Thread} (ht : s.me? = some t) (h : LogOff s) :
    (s.retireTo pc).parts = s.parts := by
  rw [State.retireTo_off pc ht h]
  show s.doPops.parts = _
  rw [s.doPops_only.rest]

theorem State.retire_part {s : State} {t : Thread} (ht : s.me? = some t) (h : LogOff s) (pno : Nat) :
    s.retire.part pno = s.part pno := by
  rw [State.part, State.retire, State.retireTo_parts _ ht h]; rfl

theorem State.retire_me {s : State} {t : Thread} (ht : s.me? = some t) (h : LogOff s) :
    s.retire.me = t.passedTo (t.pc + 8) := by
  rw [State.retire, State.retireTo_me _ ht h, State.me, ht]; rfl

theorem State.modMe_some {s : State} {t : Thread} (f : Thread → Thread) (ht : s.me? = some t) :
    (s.modMe f).me? = some (f t) := by
  rw [State.modMe, State.modThread_some s f ht]
  show (s.setThread _ _ _).thread? s.cur.core s.cur.slot = _
  rw [State.thread_setThread, if_pos ⟨rfl, rfl⟩]

theorem State.modMe_slcfg (s : State) (f : Thread → Thread) : (s.modMe f).myCore.slcfg = s.myCore.slcfg := by
  unfold State.modMe State.modThread
  split
  · show ((s.modCore _ _).core s.cur.core).slcfg = _
    rw [State.core_modCore_self]; rfl
  · rfl

/-- The thread parks where it stands, its instruction to be issued again. -/
theorem State.parkMe_me {s : State} {t : Thread} (w : Why) (ht : s.me? = some t) (h : LogOff s) :
    (s.parkMe w).me.pc = t.pc ∧ (s.parkMe w).me.park.map Park.why = some w := by
  have parks : ∀ (u : State) (f : Thread → Thread), u.me? = some t → LogOff u →
      ((u.modMe f).noteState u.cur.core u.cur.slot w.logState).me = f t := fun u f hu hl => by
    have hoff : LogOff (u.modMe f) := by rw [LogOff, State.modMe_slcfg]; exact hl
    have hcur : (u.modMe f).cur = u.cur := State.modThread_cur ..
    rw [← hcur, noteState_off _ _ _ _ hoff, State.me, State.modMe_some f hu]
    rfl
  unfold State.parkMe
  cases s.me.prog.stamp with
  | some n => dsimp only; rw [parks s _ ht h]; exact ⟨rfl, rfl⟩
  | none => dsimp only; rw [parks s.tickStamp.2 _ ht h]; exact ⟨rfl, rfl⟩

theorem State.acquire_me? (s : State) (sc : Scope) : (s.acquire sc).me? = s.me? := by
  unfold State.acquire
  split
  · exact State.me?_modCore _ _ rfl
  · rfl

theorem State.acquire_slcfg (s : State) (sc : Scope) : (s.acquire sc).myCore.slcfg = s.myCore.slcfg := by
  unfold State.acquire
  split
  · show ((s.modCore _ _).core s.cur.core).slcfg = _
    rw [State.core_modCore_self]; rfl
  · rfl

theorem State.acquire_parts (s : State) (sc : Scope) : (s.acquire sc).parts = s.parts := by
  unfold State.acquire; split <;> rfl

/-- A result in a g register, and the completion. -/
theorem State.wr_g_retire {s : State} {t : Thread} {d : Code} (v : Word) (ht : s.me? = some t) (hl : LogOff s)
    (hg : isGCode d = true) : (s.wr d v).retire.myCore.greg (s.wr d v).retire.me (codeNum d) = v
      ∧ (s.wr d v).retire.me.pc = t.pc + 8 ∧ (s.wr d v).retire.parts = s.parts := by
  have hst : s.me = t := State.me_eq ht
  have hcore : (s.wr d v).myCore = s.myCore.setGreg t (codeNum d) v := by
    rw [wr_g v hg, hst]; exact State.core_modCore_self ..
  have hme : (s.wr d v).me? = some t := by
    rw [wr_g v hg]; exact (State.me?_modCore _ _ rfl).trans ht
  have hoff : LogOff (s.wr d v) := by rw [LogOff, hcore]; exact hl
  rw [State.retire_me hme hoff, State.retire, State.retireTo_myCore _ hme hoff, State.retireTo_parts _ hme hoff]
  refine ⟨?_, rfl, by rw [wr_g v hg]; rfl⟩
  show (s.wr d v).myCore.greg t (codeNum d) = v
  rw [hcore, greg_setGreg, if_pos rfl]

/-! ### LREQ and LEPOCH -/

theorem lepoch_pastLights {s : State} {p : Pred} {a : Code} (hi : Issues s p none [rg a]) (h32 : 32 ≤ (s.operand [a] 0).toNat) :
    exec (.lepoch p a) s = .next ((began s [rg a]).trap .prot (s.operand [a] 0)) := by
  rw [exec_lepoch, execLepoch, issue_goes hi]
  simp only [began_operand]
  rw [if_pos h32]

section
variable {s : State} {p : Pred} {d a : Code} {pno : Nat} {q : Part} (hpart : OfPart s pno q)
include hpart

section
variable (hi : Issues s p (some (rg d)) []) (hh : s.me.prog.handed = none)
include hi hh

theorem lreq_noTable (ht : q.rink.table = none) :
    exec (.lreq p d) s = .next ((began s []).trap .prot allOnes) := by
  have none' : (began s []).myPart.rink.table.isNone = true := by
    rw [(hpart.began []).part, ht]; rfl
  rw [exec_lreq, execLreq, issue_goes hi]
  dsimp only
  rw [began_me, hh]
  dsimp only
  rw [if_pos none']

variable (ht : q.rink.table ≠ none)
include ht

theorem lreq_parks (hl : LogOff s) (hq : q.rink.queue = []) :
    ∃ t, exec (.lreq p d) s = .next t ∧ t.me.pc = s.me.pc ∧ t.me.park.map Park.why = some .lreq := by
  have same : (began s []).myPart = q := (hpart.began []).part
  have some' : ¬ q.rink.table.isNone = true := by simpa using ht
  obtain ⟨t, hme⟩ := Option.isSome_iff_exists.mp hi.1
  have parks : exec (.lreq p d) s = .next ((began s []).parkMe .lreq) := by
    rw [exec_lreq, execLreq, issue_goes hi]
    dsimp only
    rw [began_me, hh, same, hq]
    dsimp only
    rw [if_neg some']
  have hst : s.me = t := State.me_eq hme
  rw [hst]
  exact ⟨_, parks, State.parkMe_me _ (s := began s []) hme hl⟩

/-- LREQ with nobody parked for a handle takes the head of the queue. -/
theorem lreq_takes (hl : LogOff s) {h : Nat} {rest : List Nat} (hq : q.rink.queue = h :: rest)
    (hfree : s.parkedIn pno (fun w => w = .lreq) = []) (hg : isGCode d = true) :
    ∃ t, exec (.lreq p d) s = .next t ∧ (t.part pno).rink.queue = rest ∧ t.myCore.greg t.me (codeNum d) = Word.ofNat h
      ∧ t.me.pc = s.me.pc + 8 := by
  have same : (began s []).myPart = q := (hpart.began []).part
  have number : (began s []).myPartNo = pno := (hpart.began []).no
  have some' : ¬ q.rink.table.isNone = true := by simpa using ht
  have takes : exec (.lreq p d) s = .next (((((began s []).modRink fun r => { r with queue := rest }).acquire .pkg).wr d
      (Word.ofNat h)).retire) := by
    rw [exec_lreq, execLreq, issue_goes hi]
    dsimp only
    rw [began_me, hh, same, hq, number, show (began s []).parkedIn pno (fun w => w = .lreq) = [] from hfree]
    dsimp only
    rw [if_neg some']
    rfl
  obtain ⟨t, hme⟩ := Option.isSome_iff_exists.mp hi.1
  have hst : s.me = t := State.me_eq hme
  have hrink := (hpart.began []).modRink fun r => { r with queue := rest }
  have hme' : (((began s []).modRink fun r => { r with queue := rest }).acquire .pkg).me? = some t :=
    (State.acquire_me? ..).trans ((State.modRink_me? ..).trans hme)
  have hl' : LogOff (((began s []).modRink fun r => { r with queue := rest }).acquire .pkg) := by
    rw [LogOff, State.acquire_slcfg, State.modRink_myCore]; exact hl
  obtain ⟨hreg, hpc, hparts⟩ := State.wr_g_retire (Word.ofNat h) hme' hl' hg
  refine ⟨_, takes, ?_, hreg, hst ▸ hpc⟩
  rw [State.part, hparts, State.acquire_parts]
  exact congrArg (fun x => x.rink.queue) hrink

end

theorem lepoch_advances (hi : Issues s p none [rg a]) (h32 : (s.operand [a] 0).toNat < 32) (hl : LogOff s) :
    ∃ t, exec (.lepoch p a) s = .next t ∧ t.me.pc = s.me.pc + 8
      ∧ (t.part pno).rink.lepc.lookD (s.operand [a] 0).toNat 0 = (q.rink.lepc.lookD (s.operand [a] 0).toNat 0 + 1) % 2 ^ 32
      ∧ ∀ k, k ≠ (s.operand [a] 0).toNat → (t.part pno).rink.lepc.lookD k 0 = q.rink.lepc.lookD k 0 := by
  have advances : exec (.lepoch p a) s = .next (((began s [rg a]).modRink fun r =>
      { r with lepc := r.lepc.put (s.operand [a] 0).toNat ((r.lepc.lookD (s.operand [a] 0).toNat 0 + 1) % 2 ^ 32) }).retire) := by
    rw [exec_lepoch, execLepoch, issue_goes hi]
    simp only [began_operand]
    rw [if_neg (Nat.not_le.mpr h32)]
  obtain ⟨t, hme⟩ := Option.isSome_iff_exists.mp hi.1
  have hst : s.me = t := State.me_eq hme
  have hme' : ∀ f, ((began s [rg a]).modRink f).me? = some t := fun f => (State.modRink_me? ..).trans hme
  have hl' : ∀ f, LogOff ((began s [rg a]).modRink f) := fun f => by rw [LogOff, State.modRink_myCore]; exact hl
  refine ⟨_, advances, by rw [State.retire_me (hme' _) (hl' _), hst]; rfl, ?_⟩
  rw [State.retire_part (hme' _) (hl' _), (hpart.began _).modRink]
  exact ⟨KMap.lookD_put_self .., fun k hk => (KMap.lookD_put ..).trans (if_neg hk)⟩

end

/-- Settles O33: each instruction by the lemmas about it. -/
theorem layerFieldsAndRequests : Obligations.LayerFieldsAndRequests := by
  refine ⟨⟨?lget, ?lset, lsetDesc_writes, lsetDesc_flags⟩, fun s p d pno q hi hl hc hp hh => ?lreq, ?ldone,
    fun s p a pno q hi hc hp => ⟨lepoch_pastLights hi, fun h32 hl => lepoch_advances ⟨hc, hp⟩ hi h32 hl⟩⟩
  case lget =>
    intro s u p d a sel tab n dd l hi ht h g fld
    exact ⟨fun hn => lget_bad hi (State.badHandle_past ht hn), fun hn hd => lget_reads hi (State.not_badHandle ht hn) hd⟩
  case lset =>
    intro s g u p a b sel tab n dd l srcs h v w hi ht
    exact ⟨fun hn => lset_bad hi (State.badHandle_past ht hn),
      fun hn hr hd => lset_writes hi (State.not_badHandle ht hn) hr hd⟩
  case lreq =>
    have hpart : OfPart s pno q := ⟨hc, hp⟩
    exact ⟨lreq_noTable hpart hi hh, fun h rest ht hq hfree hg => lreq_takes hpart hi hh ht hl hq hfree hg,
      fun ht hq => lreq_parks hpart hi hh ht hl hq⟩
  case ldone =>
    intro s g0 g p a tab n dd l h hi ht hn hr hd
    refine ⟨_, _, ldone_clears hi (State.not_badHandle ht hn) hr hd, State.spreadSeen_misaligned, fun bs u' h0 hread => ?_⟩
    rw [State.spreadSeen_read h0 hread]
    exact ⟨rfl, rfl⟩

end Sys2Proof.Machine
end

section
/-! The frame clock and the sample points (R79 to R85, R94). -/

namespace Sys2Proof.Machine

/-! ### Ticks (R79) -/

theorem Rink.install_heads (r : Rink) : r.install.heads = KMap.mapVals Head.bound r.heads := by
  unfold Rink.install; dsimp only; split <;> rfl

theorem Rink.install_pending (r : Rink) : r.install.pending = none := by
  unfold Rink.install; dsimp only; split
  · rfl
  · assumption

theorem Rink.install_samples (r : Rink) : r.install.samples = r.samples := by
  unfold Rink.install; dsimp only; split <;> rfl

/-- A partition with another Rink. -/
def Part.withRink (p : Part) (r : Rink) : Part := { p with rink := r }

/-- A tick of a partition with no packets outstanding, no head of which is bound from now on: what is pending is installed,
and there is no sample point. -/
theorem State.tickPart_unbound {s : State} {pno : Nat} {p : Part} (t : Nat) (hp : s.parts.look pno = some p)
    (hk : p.pkts = []) (hu : ∀ e ∈ p.rink.heads, e.2.bound.bind = none) :
    s.tickPart t pno = s.setPart pno (p.withRink p.rink.install) := by
  have installs : (s.modPart pno fun p => { p with rink := p.rink.install }) = s.setPart pno (p.withRink p.rink.install) :=
    State.modPart_some _ hp
  have installed : (s.setPart pno (p.withRink p.rink.install)).part pno = p.withRink p.rink.install :=
    State.part_of_look (KMap.look_put_self ..)
  have noPackets : (p.withRink p.rink.install).pkts = [] := hk
  unfold State.tickPart
  simp only [installs, installed, noPackets, List.filter_nil, List.foldl_nil]
  split
  · rfl
  · refine List.foldlRecOn (motive := fun u => u = s.setPart pno (p.withRink p.rink.install)) _ _ rfl fun u same e he => ?_
    rw [Part.withRink, Rink.install_heads] at he
    obtain ⟨e', he', rfl⟩ := List.mem_map.mp he
    dsimp only
    rw [hu e' he']
    exact same

theorem frameTick_unbound {s : State} {pno : Nat} {p : Part} (hs : s.parts = [(pno, p)]) (hk : p.pkts = [])
    (hu : ∀ e ∈ p.rink.heads, e.2.bound.bind = none) :
    exec .frameTick s = .next { s with tick := s.tick + 1, parts := [(pno, p.withRink p.rink.install)] } := by
  have keys : s.parts.keys = [pno] := by rw [hs]; rfl
  have look : s.parts.look pno = some p := by rw [hs]; exact if_pos rfl
  have put : s.parts.put pno (p.withRink p.rink.install) = [(pno, p.withRink p.rink.install)] := by rw [hs]; simp [KMap.put]
  rw [exec_frameTick]
  simp only [execFrameTick, keys, List.foldl_cons, List.foldl_nil]
  rw [State.tickPart_unbound (s := { s with tick := s.tick + 1 }) _ look hk hu, State.setPart, put]

/-- Bindings at a tick (R94). -/
theorem Head.bound_pending (h : Head) :
    (∀ b, h.pendBind = some (some b) → h.bound = { h with bind := some b, pendBind := none, frame := 0, first := true })
      ∧ (h.pendBind = some none → h.bound = { h with bind := none, pendBind := none }) ∧ (h.pendBind = none → h.bound = h) := by
  unfold Head.bound
  exact ⟨fun b hb => by rw [hb], fun hb => by rw [hb], fun hb => by rw [hb]⟩

/-! ### Sample points (R80 to R85) -/

/-- The frame of a head's sample point with no layer table installed: no pixel of it is covered. -/
def Rink.emptySample (r : Rink) (h : Nat) (b : HeadBind) : Sample :=
  let hd := r.heads.lookD h Head.zero
  let enc := r.encs.lookD b.enc Enc.zero
  ⟨h, b, (hd.frame + 1) % 2 ^ 32, hd.first || (hd.frame + 1) % 2 ^ 32 % 256 = 0 || enc.key, enc.qp, []⟩

/-- The Rink after that sample point. -/
def Rink.sampledEmpty (r : Rink) (h : Nat) (b : HeadBind) : Rink :=
  let hd := r.heads.lookD h Head.zero
  { r with
    heads := r.heads.put h { hd with frame := (hd.frame + 1) % 2 ^ 32, lxcl := 0, fdrop := hd.fdrop % 2 ^ 24, first := false, seen := r.lepc }
    encs := r.encs.put b.enc { r.encs.lookD b.enc Enc.zero with key := false }
    samples := r.samples ++ [r.emptySample h b] }

theorem composite_nil : composite [] = ([], 0) := rfl

theorem State.samplePoint_noTable {s : State} {pno : Nat} {p : Part} (h : Nat) (b : HeadBind)
    (hp : s.parts.look pno = some p) (ht : p.rink.table = none) :
    (s.samplePoint pno h b).parts.look pno = some (p.withRink (p.rink.sampledEmpty h b)) := by
  simp only [State.samplePoint, State.part_of_look hp, ht, List.range_zero, State.sampleDescs, List.filter_nil, List.take_nil,
    State.estimate, State.layers, composite_nil]
  exact State.look_modPart_some _ hp

/-! ### Composition (R85) and pictures (R92) -/

/-- The channel of a colour that lies under an accumulator. -/
theorem blend_channels (r g b a : Nat) (f : Frag) :
    let under := fun (x c : Nat) => min 255 (x + ((f.rgba.getD c 0).toNat * (255 - a) + 127) / 255)
    blend [r, g, b, a] f = [under r 0, under g 1, under b 2, under a 3] := rfl

theorem blend_opaque {r g b : Nat} (f : Frag) (hr : r ≤ 255) (hg : g ≤ 255) (hb : b ≤ 255) :
    blend [r, g, b, 255] f = [r, g, b, 255] := by
  rw [blend_channels]
  simp [hr, hg, hb]

theorem blend_first {f : Frag} {x y z w : Byte} (h : f.rgba = [x, y, z, w]) :
    blend [0, 0, 0, 0] f = [x.toNat, y.toNat, z.toNat, w.toNat] := by
  have whole : ∀ c : Byte, min 255 ((c.toNat * 255 + 127) / 255) = c.toNat := fun c => by
    have := c.isLt
    omega
  rw [blend_channels, h]
  simpa using ⟨whole x, whole y, whole z, whole w⟩

theorem HeadBind.picture_white (b : HeadBind) (a : Nat) :
    (b.picture [(a, 0xFFFFFF)]).luma = [(a, if b.codec = 1 then 940 else 235)] := by
  have white : lumaSample 0xFFFFFF = 235 := by decide
  simp only [HeadBind.picture, List.map_cons, List.map_nil, white]
  by_cases h : b.codec = 1 <;> simp [h]

end Sys2Proof.Machine
end

section
/-! What the records that the device makes leave of a Rink, where the partition's ring is off (R258). -/

namespace Sys2Proof.Machine

/-- A partition stands, its ring is off, and this is its Rink. -/
def RinkStands (s : State) (pno : Nat) (r : Rink) : Prop := ∃ p, s.parts.look pno = some p ∧ p.rink = r ∧ p.oen = false

namespace RinkStands

theorem of_parts {s t : State} {pno : Nat} {r : Rink} (h : RinkStands s pno r) (hp : t.parts = s.parts) :
    RinkStands t pno r := by
  rw [RinkStands, hp]; exact h

theorem modPart {s : State} {pno : Nat} {r r' : Rink} {f : Part → Part} (h : RinkStands s pno r)
    (hf : ∀ p, p.rink = r → (f p).rink = r' ∧ (f p).oen = p.oen) : RinkStands (s.modPart pno f) pno r' := by
  obtain ⟨p, hp, hr, hoff⟩ := h
  exact ⟨f p, State.look_modPart_some f hp, (hf p hr).1, (hf p hr).2.trans hoff⟩

theorem ite {s t : State} {pno : Nat} {r : Rink} {c : Prop} [Decidable c] (h : RinkStands s pno r)
    (k : RinkStands t pno r) : RinkStands (if c then s else t) pno r := by
  split
  · exact h
  · exact k

/-- With the ring off a record is lost. -/
theorem lost {s : State} {pno : Nat} {r : Rink} (h : RinkStands s pno r) (o : Obs) (ho : o.part = pno) :
    RinkStands (s.ringRecord o) pno r := by
  obtain ⟨p, hp, hr, hoff⟩ := h
  have off : (s.part pno).oen = false := by rw [State.part_of_look hp, hoff]
  unfold State.ringRecord
  dsimp only
  rw [ho, off]
  exact RinkStands.modPart (r := r) (f := fun p => { p with odrop := (p.odrop + 1) % 2 ^ 32 }) ⟨p, hp, hr, hoff⟩
    fun _ h => ⟨h, rfl⟩

theorem opFilter {s : State} {pno : Nat} {r : Rink} (h : RinkStands s pno r) (o : Obs) (ho : o.part = pno) :
    RinkStands (s.opFilter o) pno r := by
  have record : ∀ o', RinkStands (s.opRecord o') pno r := fun o' => h.of_parts (s.opRecord_parts o')
  have sum : ∀ key n, RinkStands (s.gather o.part key n) pno r := fun key n => by
    rw [ho]; exact h.modPart fun _ h => ⟨h, rfl⟩
  exact .ite (record o) (.ite (record o) (.ite h (.ite (record o.coarse)
    (.ite (.ite (.ite (sum ..) h) (.ite (sum ..) h)) h))))

theorem emit1 {s : State} {pno : Nat} {r : Rink} (h : RinkStands s pno r) (o : Obs) (ho : o.part = pno) :
    RinkStands (s.emit1 o) pno r := by
  unfold State.emit1
  split
  · exact h.opFilter o ho
  · exact (h.lost o ho).opFilter o ho

theorem emit {s : State} {pno : Nat} {r : Rink} (h : RinkStands s pno r) (o : Obs) (ho : o.part = pno) :
    RinkStands (s.emit o) pno r := by
  have made := h.emit1 o ho
  rw [State.emit, State.settleNotices, ho]
  dsimp only
  split
  · exact made
  · exact List.foldlRecOn (motive := fun u => RinkStands u pno r) _ _ (made.modPart fun _ h => ⟨h, rfl⟩)
      fun u hu e _ => hu.emit1 _ rfl

theorem lodgeMet {s : State} {pno : Nat} {r : Rink} (h : RinkStands s pno r) (e : LodgeErr) :
    RinkStands (s.lodgeMet pno e) pno r := by
  unfold State.lodgeMet
  split
  · exact h.emit _ rfl
  · exact h

theorem encs {s : State} {pno : Nat} {r : Rink} (h : RinkStands s pno r) : (s.part pno).rink.encs = r.encs := by
  obtain ⟨p, hp, hr, -⟩ := h
  rw [State.part_of_look hp, hr]

end RinkStands
end Sys2Proof.Machine
end

section
/-! Encoders (R91 to R93). -/

namespace Sys2Proof.Machine

/-! ### A frame that is encoded (R93) -/

/-- The quantiser that a frame is coded with (R92). -/
def Sample.codedQp (f : Sample) : Nat := if f.bind.codec = 1 then min f.qp 51 else f.qp

/-- The picture that an encoder predicts a frame from (R92). -/
def Enc.before (e : Enc) (f : Sample) : Picture := if f.key then Picture.none else e.prev

/-- The record of a frame that an encoder makes. -/
def Sample.record (f : Sample) (e : Enc) : List Byte :=
  frameRecord f.frame f.key (Config.bitstream f.bind.codec f.codedQp f.key (e.before f) (f.bind.picture f.pixels))

/-- An encoder that has coded a frame. -/
def Enc.coded (e : Enc) (f : Sample) : Enc :=
  { e with prev := Config.codedFrame f.bind.codec f.codedQp f.key (e.before f) (f.bind.picture f.pixels) }

def Enc.dropped (e : Enc) (f : Sample) : Enc := { e.coded f with edrop := (e.edrop + 1) % 2 ^ 32 }

def Rink.setEnc (r : Rink) (n : Nat) (e : Enc) : Rink := { r with encs := r.encs.put n e }

def State.setEnc (s : State) (pno n : Nat) (e : Enc) : State := s.modPart pno fun p => p.withRink (p.rink.setEnc n e)

/-- An encoder of a partition. -/
def State.encOf (s : State) (pno n : Nat) : Enc := (s.part pno).rink.encs.lookD n Enc.zero

theorem State.encOf_setEnc {s : State} {pno : Nat} {p : Part} (n : Nat) (e : Enc) (hp : s.parts.look pno = some p) :
    (s.setEnc pno n e).encOf pno n = e := by
  rw [State.encOf, State.setEnc, State.part_of_look (State.look_modPart_some _ hp)]
  exact KMap.lookD_put_self ..

theorem padTo_length (n : Nat) (bs : List Byte) : (padTo n bs).length = n := by
  rw [padTo, List.length_take, List.length_append, List.length_replicate]; omega

theorem frameRecord_aligned (frame : Nat) (key : Bool) (bs : List Byte) : (frameRecord frame key bs).length % 64 = 0 := by
  rw [frameRecord, padTo_length, Nat.mul_mod_left]

section
variable {s : State} {pno : Nat} {f : Sample}

theorem State.encode_tooLong (h : f.bind.len < (f.record (s.encOf pno f.bind.enc)).length) :
    s.encode pno f = s.setEnc pno f.bind.enc ((s.encOf pno f.bind.enc).dropped f) := if_pos h

/-- A frame whose record is longer than the buffer is dropped (R93). -/
theorem State.encode_tooLong_drops {p : Part} (hp : s.parts.look pno = some p)
    (h : f.bind.len < (f.record (s.encOf pno f.bind.enc)).length) :
    ((s.encode pno f).encOf pno f.bind.enc).edrop = ((s.encOf pno f.bind.enc).edrop + 1) % 2 ^ 32
      ∧ ((s.encode pno f).encOf pno f.bind.enc).ewp = (s.encOf pno f.bind.enc).ewp ∧ (s.encode pno f).dram = s.dram := by
  rw [State.encode_tooLong h, State.encOf_setEnc _ _ hp]
  exact ⟨rfl, rfl, State.modPart_dram ..⟩

variable (h : (f.record (s.encOf pno f.bind.enc)).length ≤ f.bind.len)
include h

theorem State.encode_writes {t : State} (hw : s.ringStore pno f.bind.buf.toNat f.bind.len (s.encOf pno f.bind.enc).ewp
      (f.record (s.encOf pno f.bind.enc)) = .ok t) :
    s.encode pno f = t.setEnc pno f.bind.enc { (s.encOf pno f.bind.enc).coded f with
      ewp := ((s.encOf pno f.bind.enc).ewp + (f.record (s.encOf pno f.bind.enc)).length) % 2 ^ 64 } := by
  unfold State.encOf Sample.record Enc.before Sample.codedQp at h hw
  unfold State.encode
  dsimp only
  rw [if_neg (Nat.not_lt.mpr h), hw]
  rfl

theorem State.encode_fails {x : LodgeErr} (hw : s.ringStore pno f.bind.buf.toNat f.bind.len (s.encOf pno f.bind.enc).ewp
      (f.record (s.encOf pno f.bind.enc)) = .error x) :
    s.encode pno f = ((s.lodgeMet pno x).setEnc pno f.bind.enc ((s.encOf pno f.bind.enc).dropped f)).emit
      { s.obs 5 pno with addr := f.bind.buf.toNat + (s.encOf pno f.bind.enc).ewp % f.bind.len } := by
  unfold State.encOf Sample.record Enc.before Sample.codedQp at h hw
  unfold State.encode
  dsimp only
  rw [if_neg (Nat.not_lt.mpr h), hw]
  rfl

/-- A record that is written moves EWP on. -/
theorem State.encode_writes_moves {t : State} (ht : (t.parts.look pno).isSome = true)
    (hw : s.ringStore pno f.bind.buf.toNat f.bind.len (s.encOf pno f.bind.enc).ewp (f.record (s.encOf pno f.bind.enc)) = .ok t) :
    ((s.encode pno f).encOf pno f.bind.enc).ewp =
        ((s.encOf pno f.bind.enc).ewp + (f.record (s.encOf pno f.bind.enc)).length) % 2 ^ 64
      ∧ ((s.encode pno f).encOf pno f.bind.enc).edrop = (s.encOf pno f.bind.enc).edrop ∧ (s.encode pno f).dram = t.dram := by
  obtain ⟨p, hp⟩ := Option.isSome_iff_exists.mp ht
  rw [State.encode_writes h hw, State.encOf_setEnc _ _ hp]
  exact ⟨rfl, rfl, State.modPart_dram ..⟩

/-- A record that cannot be written is dropped; the record of the fault, and a malformed entry's, leave the encoder alone. -/
theorem State.encode_fails_drops {p : Part} {x : LodgeErr} (hp : s.parts.look pno = some p) (hoff : p.oen = false)
    (hw : s.ringStore pno f.bind.buf.toNat f.bind.len (s.encOf pno f.bind.enc).ewp
      (f.record (s.encOf pno f.bind.enc)) = .error x) :
    (s.encode pno f).encOf pno f.bind.enc = (s.encOf pno f.bind.enc).dropped f := by
  have stands : RinkStands s pno p.rink := ⟨p, hp, rfl, hoff⟩
  have changed : RinkStands ((s.lodgeMet pno x).setEnc pno f.bind.enc ((s.encOf pno f.bind.enc).dropped f)) pno
      (p.rink.setEnc f.bind.enc ((s.encOf pno f.bind.enc).dropped f)) :=
    (stands.lodgeMet x).modPart fun _ hr => ⟨congrArg (Rink.setEnc · ..) hr, rfl⟩
  rw [State.encode_fails h hw, State.encOf, (changed.emit _ rfl).encs]
  exact KMap.lookD_put_self ..

end

/-- The first partition with a sampled frame is the first of all, and the frame is its oldest. -/
theorem frameEncode_oldest {s : State} {pno : Nat} {p : Part} {f : Sample} {rest : List Sample} {more : KMap Part}
    (hh : s.held = false) (hs : s.parts = (pno, p) :: more) (hf : p.rink.samples = f :: rest) :
    exec .frameEncode s = .next ((s.encode pno f).modPart pno fun p =>
      { p with rink := { p.rink with samples := p.rink.samples.drop 1 } }) := by
  rw [exec_frameEncode]
  simp only [execFrameEncode, hh, hs, List.findSome?_cons, hf, List.head?_cons, Option.map_some, Bool.false_eq_true, if_false]

/-! ### KEY (R91) -/

theorem ecfgKeySet_sets {s : State} {c sl n pno : Nat} {u : Thread} {p : Part} (hu : s.thread? c sl = some u) (hpl : 1 ≤ u.pl)
    (hc : s.corePart c = some pno) (hp : s.parts.look pno = some p) (hn : n < 32) (hm : bit (s.part pno).encm n = true)
    (hq : (s.encOf pno n).qp < 256) :
    exec (.ecfgKeySet c sl n) s = .next (s.setEnc pno n { s.encOf pno n with key := true }) := by
  have value : (Word.ofNat (2 ^ 8 + (s.encOf pno n).qp)).toNat = 2 ^ 8 + (s.encOf pno n).qp := Nat.mod_eq_of_lt (by omega)
  have qp : bits (2 ^ 8 + (s.encOf pno n).qp) 7 0 = (s.encOf pno n).qp := by simp [bits]; omega
  have key : bit (2 ^ 8 + (s.encOf pno n).qp) 8 = true := by rw [bit_eq_iff]; simp [b2n]; omega
  have writes : exec (.ecfgKeySet c sl n) s = .next (s.ecfgWrite pno n (Word.ofNat (2 ^ 8 + (s.encOf pno n).qp))) := by
    rw [exec_ecfgKeySet, execEcfgKeySet, State.atKer, hu]
    dsimp only
    rw [if_pos hpl, hc, Nat.mod_eq_of_lt hn]
    rfl
  have mine : p.rink.encs.lookD n Enc.zero = s.encOf pno n := by rw [State.encOf, State.part_of_look hp]
  rw [writes, State.ecfgWrite, hm, State.setEnc, State.modPart_some _ hp, value, State.modPart_some _ hp]
  dsimp only
  rw [mine, qp, key, Bool.or_true]
  rfl

/-- Settles O50: each event by the lemmas about it. -/
theorem framesAndEncoders : Obligations.FramesAndEncoders := by
  refine ⟨?tick, Head.bound_pending, ?sample, ?blend,
    fun s pno p f rest more hh hs hf => ⟨_, frameEncode_oldest hh hs hf, rfl⟩, ?encode,
    fun b px a => ⟨rfl, rfl, b.picture_white a⟩, ?key⟩
  case tick =>
    intro s pno p hs hk hu
    have unbound : ∀ e ∈ p.rink.heads, e.2.bound.bind = none := by simpa using hu
    refine ⟨_, _, frameTick_unbound hs hk unbound, rfl, rfl, p.rink.install_pending, ?_, ?_, p.rink.install_samples, rfl, rfl⟩
    · show p.rink.install.table = _
      unfold Rink.install; cases p.rink.pending <;> rfl
    · show p.rink.install.queue = _
      unfold Rink.install; cases p.rink.pending <;> rfl
  case sample =>
    intro s pno h b p hp ht hd en
    exact ⟨_, p.rink.emptySample h b, State.samplePoint_noTable h b hp ht, rfl, rfl, rfl, rfl, rfl, rfl, rfl,
      congrArg Head.frame (KMap.lookD_put_self ..), congrArg Enc.key (KMap.lookD_put_self ..)⟩
  case blend =>
    intro acc f r g b a hacc hr hg hb
    subst hacc
    exact ⟨fun ha => by subst ha; exact blend_opaque f hr hg hb, fun x y z w => blend_first⟩
  case encode =>
    intro s pno p f hp e qp bs enc
    have he : e = s.encOf pno f.bind.enc := by rw [State.encOf, State.part_of_look hp]
    have hbs : bs = f.record (s.encOf pno f.bind.enc) := by rw [← he]; rfl
    have aligned : bs.length % 64 = 0 := frameRecord_aligned ..
    clear_value bs e
    subst hbs he
    refine ⟨aligned, State.encode_tooLong_drops hp, fun h => ?_⟩
    cases hw : s.ringStore pno f.bind.buf.toNat f.bind.len (s.encOf pno f.bind.enc).ewp (f.record (s.encOf pno f.bind.enc)) with
    | ok t => exact fun ht => State.encode_writes_moves h ht hw
    | error x =>
      intro hoff _
      have dropped := State.encode_fails_drops h hp hoff hw
      have edrop := congrArg Enc.edrop dropped
      have ewp := congrArg Enc.ewp dropped
      exact ⟨edrop, ewp⟩
  case key =>
    intro s c sl n pno u hu hpl hc hp hn hm hq
    obtain ⟨p, hp⟩ := Option.isSome_iff_exists.mp hp
    have now := State.encOf_setEnc n { s.encOf pno n with key := true } hp
    have key := congrArg Enc.key now
    have qp := congrArg Enc.qp now
    exact ⟨_, ecfgKeySet_sets hu hpl hc hp hn hm hq, key, qp, State.modPart_cores ..⟩

end Sys2Proof.Machine
end

section
/-! Frames reach threads (R98, R104 to R107): what a delivery leaves of the thread, its core and DRAM, and the events that
deliver. -/

namespace Sys2Proof.Machine

/-- A thread that is busy until another cycle. -/
def Thread.busyTo (t : Thread) (b : Nat) : Thread := { t with busy := b }

/-- What readies a core for a frame leaves of its threads, its registers, its local memory and DRAM: a thread may be busy
for longer (R98, R171, R207). -/
structure Standing (s t : State) (c : Nat) : Prop where
  thread : ∀ {sl u}, s.thread? c sl = some u → ∃ b, t.thread? c sl = some (u.busyTo b)
  regs : (t.core c).regs = (s.core c).regs
  lmem : (t.core c).lmem = (s.core c).lmem
  dram : t.dram = s.dram

namespace Standing

theorem refl (s : State) (c : Nat) : Standing s s c := ⟨fun {_ u} h => ⟨u.busy, h⟩, rfl, rfl, rfl⟩

theorem trans {s t u : State} {c : Nat} (h : Standing s t c) (k : Standing t u c) : Standing s u c := by
  refine ⟨fun hu => ?_, k.regs.trans h.regs, k.lmem.trans h.lmem, k.dram.trans h.dram⟩
  obtain ⟨_, ht⟩ := h.thread hu
  obtain ⟨b, hu⟩ := k.thread ht
  exact ⟨b, hu⟩

/-- An update of the core under which its threads stand still. -/
theorem modCore {f : Core → Core} (s : State) (c : Nat) (ht : (f (s.core c)).threads = (s.core c).threads)
    (hr : (f (s.core c)).regs = (s.core c).regs) (hm : (f (s.core c)).lmem = (s.core c).lmem) :
    Standing s (s.modCore c f) c := by
  refine ⟨fun {sl u} h => ⟨u.busy, ?_⟩, ?_, ?_, rfl⟩
  · rw [State.thread?, State.core_modCore_self, ht]; exact h
  · rw [State.core_modCore_self, hr]
  · rw [State.core_modCore_self, hm]

theorem modPart (f : Part → Part) (s : State) (pno c : Nat) : Standing s (s.modPart pno f) c := by
  have cores : (s.modPart pno f).cores = s.cores := s.modPart_cores pno f
  exact ⟨fun {_ u} h => ⟨u.busy, (State.thread_congr cores ..).trans h⟩, by rw [State.core_congr cores],
    by rw [State.core_congr cores], s.modPart_dram pno f⟩

end Standing

theorem State.wakeCore_standing (s : State) (c : Nat) : Standing s (s.wakeCore c []) c := by
  have woken : Standing s (s.modCore c fun x => { x with
      asleep := false, idleSince := s.clk, regPoison := x.regPoison,
      threads := KMap.mapVals (fun t => { t with busy := max t.busy (s.clk + 32) }) x.threads }) c := by
    refine ⟨fun {sl u} h => ⟨max u.busy (s.clk + 32), ?_⟩, ?_, ?_, rfl⟩
    · have look : (s.core c).threads.look sl = some u := h
      rw [State.thread?, State.core_modCore_self, KMap.look_mapVals, look]
      rfl
    · rw [State.core_modCore_self]
    · rw [State.core_modCore_self]
  unfold State.wakeCore
  dsimp only
  split
  · exact woken.trans (.modPart ..)
  · exact woken

theorem State.reside_standing (s : State) (c : Nat) (l : Launch) : Standing s (s.reside c l) c := by
  unfold State.reside
  refine .modCore s c ?_ ?_ ?_ <;> (dsimp only; split <;> rfl)

theorem State.acquireOn_standing (s : State) (c : Nat) (sc : Scope) : Standing s (s.acquireOn c sc) c := by
  unfold State.acquireOn
  split
  · exact .modCore s c rfl rfl rfl
  · exact .refl s c

theorem State.readyFor_standing (s : State) (c : Nat) (l : Launch) (sc : Scope) : Standing s (s.readyFor c l sc) c := by
  refine .trans ?_ ((State.reside_standing ..).trans (State.acquireOn_standing ..))
  split
  · exact s.wakeCore_standing c
  · exact .refl s c

/-- Filling the first registers of a window leaves the others. -/
theorem Core.fillWindow_greg_above (x : Core) (t : Thread) (ws : List Word) {n i : Nat} (h : n ≤ i) :
    (x.fillWindow t ws n).greg t i = x.greg t i := by
  induction n with
  | zero => rfl
  | succ n ih => rw [Core.fillWindow_succ, greg_setGreg, if_neg (by omega), ih (by omega)]

theorem State.give_core {s : State} {c sl : Nat} {f : Frame} {u : Thread} (hu : s.thread? c sl = some u) :
    (s.give c sl f).core c =
      { (s.core c).fillWindow u f.words 8 with idleSince := s.clk, threads := ((s.give c sl f).core c).threads } := by
  rw [State.give, State.core_modThread, State.core_modCore_self, Core.filled_some hu]

theorem State.give_greg_above {s : State} {c sl : Nat} (f : Frame) {u v : Thread} (hu : s.thread? c sl = some u)
    (hv : v.base = u.base) {i : Nat} (hi : 8 ≤ i) : ((s.give c sl f).core c).greg v i = (s.core c).greg u i := by
  rw [← Core.fillWindow_greg_above (s.core c) u f.words hi, State.give_core hu, Core.greg, Core.greg, hv]

theorem State.give_lmem {s : State} {c sl : Nat} (f : Frame) {u : Thread} (hu : s.thread? c sl = some u) :
    ((s.give c sl f).core c).lmem = (s.core c).lmem := by
  rw [State.give_core hu, Core.fillWindow_rest]

theorem State.give_dram (s : State) (c sl : Nat) (f : Frame) : (s.give c sl f).dram = s.dram :=
  (State.modThread_dram ..).trans (State.modCore_dram ..)

/-- The thread in WFW in a slot takes the frame on its way to it (R106). -/
theorem frameDelivery_comes {s : State} {c sl pno : Nat} {l : Launch} {t : Thread} {f : Coming} (ht : s.thread? c sl = some t)
    (hc : s.corePart c = some pno) (hl : s.launch? pno t.lid = some l) (hf : (s.core c).comingTo sl = some f)
    (htakes : s.takesFrames c = true) : exec (.frameDelivery c sl) s = .next (s.comesIn c sl l f) := by
  simp only [exec_frameDelivery, execFrameDelivery, ht, hc, hl, hf, htakes, if_true]

/-- The thread in WFW in a slot takes an entry of its core's deque (R104, R106). -/
theorem frameDelivery_takes {s u : State} {c sl pno : Nat} {l : Launch} {t : Thread} {e : DqEntry}
    (ht : s.thread? c sl = some t) (hc : s.corePart c = some pno) (hl : s.launch? pno t.lid = some l)
    (hidle : s.idleSlot c t.lid ≠ none) (hwaits : t.waits t.lid = true) (hfree : (s.core c).zonesFree l = true)
    (hwfw : s.inWfw c t.lid sl t = true) (htake : s.dqTake c pno l (some t.sth) = .entry e u) :
    exec (.frameDelivery c sl) s = .next (u.deliverEntry c sl l e) := by
  have none_comes : (s.core c).comingTo sl = none := by
    have h := hwfw
    simp only [State.inWfw, Bool.and_eq_true, Option.isNone_iff_eq_none] at h
    exact h.1.2
  simp only [exec_frameDelivery, execFrameDelivery, ht, hc, hl, none_comes, hidle, hwaits, hfree, hwfw, htake, decide_false,
    Bool.not_true, Bool.or_self, Bool.false_eq_true, if_false]

/-- A new thread takes an entry for which its launch has no thread in WFW on the core (R107). -/
theorem threadCreate_takes {s u w : State} {c pno lid sl : Nat} {l : Launch} {e : DqEntry} (hc : s.corePart c = some pno)
    (hl : s.launch? pno lid = some l) (hnone : ((s.core c).threads.any fun x => s.inWfw c lid x.1 x.2) = false)
    (hroom : (s.newThread c l).isSome = true) (htake : s.dqTake c pno l none = .entry e u)
    (hnew : u.newThread c l = some (sl, w)) :
    exec (.threadCreate c lid) s = .next (w.deliverComing c sl l ⟨2, 0, e.frame⟩) := by
  have room : (s.newThread c l).isNone = false := by rw [← Option.not_isSome, hroom]; rfl
  simp only [exec_threadCreate, execThreadCreate, hc, hl, hnone, room, htake, hnew, Bool.or_self, Bool.false_eq_true, if_false]

end Sys2Proof.Machine
end

section
/-! Stealing (R109, R110): the thief asks its victims in turn, and an entry comes back by a reply. -/

namespace Sys2Proof.Machine

/-- Asking changes what the thief knows of its round, and nothing else of the machine. -/
theorem State.askNext_keeps (s : State) (c lid : Nat) (vs : List Nat) :
    ((s.askNext c lid vs).core c).regs = (s.core c).regs ∧ (s.askNext c lid vs).dram = s.dram := by
  cases vs <;> exact ⟨by rw [State.askNext, State.core_modCore_self], rfl⟩

/-- A round without a victim left starts again 256 cycles later (R109). -/
theorem State.askNext_nil (s : State) (c lid : Nat) :
    ((s.askNext c lid []).core c).steals.look lid = some (.retry (s.clk + 256)) := by
  rw [State.askNext, State.core_modCore_self]
  exact KMap.look_put_self ..

/-- The next victim is asked, and is the last one asked of its ring (R109). -/
theorem State.askNext_cons (s : State) (c lid v : Nat) (rest : List Nat) :
    ((s.askNext c lid (v :: rest)).core c).steals.look lid = some (.asked v rest)
      ∧ ((s.askNext c lid (v :: rest)).core c).lastVictim.look (4 * lid + ringOf c v) = some v := by
  rw [State.askNext, State.core_modCore_self]
  exact ⟨KMap.look_put_self .., KMap.look_put_self ..⟩

theorem stealRequest_asks {s : State} {c pno lid : Nat} {l : Launch} (hc : s.corePart c = some pno)
    (hl : s.launch? pno lid = some l) (hsteals : s.stealsFor c l = true) :
    exec (.stealRequest c lid) s = .next (s.askNext c lid (s.victims c pno l)) := by
  simp only [exec_stealRequest, execStealRequest, hc, hl, hsteals, if_true]

section
variable {s : State} {c pno lid v : Nat} {rest : List Nat} {l : Launch} (hc : s.corePart c = some pno)
  (hl : s.launch? pno lid = some l) (hasked : (s.core c).steals.look lid = some (.asked v rest))
include hc hl hasked

theorem stealServe_gives {e : DqEntry} {u : State} (h : s.steal v c pno l = .entry e u) : exec (.stealServe c lid) s =
    .next (u.modCore c fun x => { x with steals := x.steals.put lid (.reply e) }) := by
  simp only [exec_stealServe, execStealServe, hc, hl, hasked, h]

theorem stealServe_denies (h : s.steal v c pno l = .none) :
    exec (.stealServe c lid) s = .next (s.askNext c lid rest) := by
  simp only [exec_stealServe, execStealServe, hc, hl, hasked, h]

end

/-- A reply has arrived at the thief (R110). -/
def Core.replied (x : Core) (lid : Nat) (e : DqEntry) : Core := { x with steals := x.steals.put lid (.here e) }

/-- On a core that counts no events a reply arrives, and nothing else happens. -/
theorem stealReplyArrival_arrives {s : State} {c lid : Nat} {e : DqEntry}
    (h : (s.core c).steals.look lid = some (.reply e)) (hcount : (s.core c).cevs = []) :
    exec (.stealReplyArrival c lid) s = .next (s.modCore c fun x => x.replied lid e) := by
  have off : ((s.modCore c fun x => x.replied lid e).core c).cevs = [] := by
    rw [State.core_modCore_self]; exact hcount
  have still : (s.modCore c fun x => x.replied lid e).countCore c 8 1 = s.modCore c fun x => x.replied lid e := by
    simp only [State.countCore, off, decide_true, Bool.true_or, if_true]
  simp only [exec_stealReplyArrival, execStealReplyArrival, h]
  exact congrArg _ still

/-- An entry is given only to a thief that its DOM holds together with its origin (R109). -/
theorem DqEntry.givable_within {e : DqEntry} {thief : Nat} (h : e.givable thief = true) : 2 ≤ tagDom e.tag
    ∧ (tagDom e.tag = 2 → clusterOf (tagOrg e.tag) = clusterOf thief)
    ∧ (tagDom e.tag = 3 → quadOf (tagOrg e.tag) = quadOf thief)
    ∧ (tagDom e.tag = 4 → dieOf (tagOrg e.tag) = dieOf thief) := by
  simp only [DqEntry.givable, Bool.and_eq_true, decide_eq_true_eq] at h
  obtain ⟨wide, within⟩ := h
  refine ⟨wide, fun hd => ?_, fun hd => ?_, fun hd => ?_⟩ <;> simpa [hd] using within

/-- Settles O51: each clause by the lemma about its event. -/
theorem framesReachThreads : Obligations.FramesReachThreads := by
  refine ⟨?deliver, fun s c sl pno l t e u => frameDelivery_takes, fun s c sl pno l t f => frameDelivery_comes,
    fun s u c pno lid l e hc hl hnone hroom htake sl w => threadCreate_takes hc hl hnone hroom htake, ?request, ?serve, ?reply,
    ?retry, fun e thief => DqEntry.givable_within⟩
  case deliver =>
    intro s c sl pno f sc l u hc hq hl hfused htrace hu
    have standing := s.readyFor_standing c l sc
    obtain ⟨b, hready⟩ := standing.thread hu
    obtain ⟨hthread, hregs⟩ := State.give_thread f hready
    rw [State.deliver_gives hc hl hfused (hq.logOff c) htrace]
    refine ⟨_, hthread, rfl, rfl, rfl, rfl, rfl, rfl, rfl, rfl, rfl, hregs _ rfl, fun i hi => ?_, fun a => ?_, ?_⟩
    · refine (State.give_greg_above f hready rfl hi).trans ?_
      rw [Core.greg, Core.greg, standing.regs]
      rfl
    · rw [State.give_lmem f hready, standing.lmem]
    · rw [State.give_dram, standing.dram]
  case request =>
    intro s c pno lid l hc hl hsteals
    obtain ⟨hregs, hdram⟩ := s.askNext_keeps c lid (s.victims c pno l)
    refine ⟨_, stealRequest_asks hc hl hsteals, hregs, hdram, fun hv => ?_, fun v rest hv => ?_⟩
    · rw [hv]; exact s.askNext_nil c lid
    · rw [hv]; exact s.askNext_cons c lid v rest
  case serve =>
    intro s c pno lid v rest l hc hl hasked
    refine ⟨fun e u h => ⟨_, stealServe_gives hc hl hasked h, ?_⟩,
      fun h => ⟨_, stealServe_denies hc hl hasked h, fun w more hr => ?_, fun hr => ?_⟩⟩
    · rw [State.core_modCore_self]; exact KMap.look_put_self ..
    · rw [hr]; exact (s.askNext_cons c lid w more).1
    · rw [hr]; exact s.askNext_nil c lid
  case reply =>
    intro s c lid e h hcount
    refine ⟨_, stealReplyArrival_arrives h hcount, ?_, ?_⟩
    · rw [State.core_modCore_self]; exact KMap.look_put_self ..
    · rw [State.core_modCore_self]; rfl
  case retry =>
    intro s c lid n h hq
    simp only [exec_stealRetryTimeout, execStealRetryTimeout, h, State.pass_quiet hq, exec_stealRequest]

end Sys2Proof.Machine
end

section
/-! What changes the threads of a core and the partitions' registers alone: a release that has nothing to wait for (R206),
and the count of outstanding frames (R113). -/

namespace Sys2Proof.Machine

/-- What changes no part of the machine but threads of a core and partitions' registers leaves everything else as it was. -/
structure ThreadWork (s t : State) (c : Nat) : Prop where
  rest : t = { s with cores := t.cores, parts := t.parts }
  core : t.core c = { s.core c with threads := (t.core c).threads }

namespace ThreadWork

theorem refl (s : State) (c : Nat) : ThreadWork s s c := ⟨rfl, rfl⟩

theorem trans {s t u : State} {c : Nat} (h : ThreadWork s t c) (k : ThreadWork t u c) : ThreadWork s u c := by
  constructor
  · have e := k.rest; rw [h.rest] at e; exact e
  · have e := k.core; rw [h.core] at e; exact e

theorem modThread (s : State) (c sl : Nat) (f : Thread → Thread) : ThreadWork s (s.modThread c sl f) c := by
  refine ⟨?_, s.core_modThread c sl f⟩
  unfold State.modThread
  split <;> rfl

theorem modPart (s : State) (pno : Nat) (f : Part → Part) (c : Nat) : ThreadWork s (s.modPart pno f) c := by
  refine ⟨?_, by rw [State.core_congr (s.modPart_cores pno f)]⟩
  unfold State.modPart
  split <;> rfl

variable {s t : State} {c : Nat} (h : ThreadWork s t c)
include h

theorem cur : t.cur = s.cur := by rw [h.rest]
theorem dram : t.dram = s.dram := by rw [h.rest]
theorem corePart (d : Nat) : t.corePart d = s.corePart d := State.corePart_congr (by rw [h.rest]) d

end ThreadWork

theorem State.myCore_of_cur {s t : State} (h : t.cur = s.cur) : t.myCore = t.core s.cur.core := by rw [State.myCore, h]

/-- The issuing core after such work. -/
theorem ThreadWork.myCore {s t : State} (h : ThreadWork s t s.cur.core) :
    t.myCore = { s.myCore with threads := t.myCore.threads } := by
  rw [State.myCore_of_cur h.cur]
  exact h.core

/-- A thread that stands in its slot is the one that issues. -/
theorem State.me?_of_thread {s t : State} {u : Thread} (hcur : t.cur = s.cur)
    (h : t.thread? s.cur.core s.cur.slot = some u) : t.me? = some u := by rw [State.me?, hcur, h]

/-- How far a release has gone is gone with it. -/
theorem Thread.relEnd_relMove (t : Thread) (x : Core) : (t.relMove x).relEnd = t.relEnd := by
  unfold Thread.relMove
  cases t.rel <;> rfl

/-- A thread that begins a release, with no entry of the store buffer to drain. -/
def Thread.relBegun (t : Thread) (sc : Scope) : Thread := { t with rel := some ⟨sc, false, [], []⟩ }

theorem Thread.relBegun_done {t : Thread} (sc : Scope) (x : Core) (hunack : t.unack = 0) (htouched : t.touched = []) :
    ((t.relBegun sc).relMove x).relDone = true := by
  simp [Thread.relBegun, Thread.relMove, Thread.relDone, hunack, htouched]

/-- A release that has nothing to wait for completes at once (R206). -/
theorem State.release_holds {s : State} {sc : Scope} {t : Thread} (ht : s.me? = some t) (h : ReleaseHolds s sc) :
    s.release sc = (true, s) ∨ s.release sc = (true, s.modMe Thread.relEnd) := by
  have hme : s.me = t := State.me_eq ht
  by_cases free : sc.code = 0 ∨ s.me.prog.released = true
  · exact .inl (if_pos (by simpa using free))
  obtain ⟨hrel, hunack, htouched, hsbuf⟩ := (h.resolve_left fun h => free (.inl h)).resolve_left fun h => free (.inr h)
  have none_covered : s.myCore.sbuf.filter (fun e => wideScope sc || e.sth = s.me.sth) = [] :=
    List.filter_eq_nil_iff.mpr fun e he => by simp [hsbuf e he]
  right
  have ends : s.modMe Thread.relEnd = s.setMe t.relEnd := State.modThread_some s _ ht
  rw [State.release, if_neg (by simpa using free), ends]
  rw [hme] at none_covered hrel hunack htouched
  simp only [hme, hrel, none_covered, List.map_nil]
  change (if ((t.relBegun sc).relMove s.myCore).relDone = true then (true, s.setMe ((t.relBegun sc).relMove s.myCore).relEnd)
    else _) = _
  rw [if_pos (Thread.relBegun_done sc _ hunack htouched), Thread.relEnd_relMove]
  rfl

/-- What such a release leaves. -/
theorem State.releaseThen_holds {s : State} {sc : Scope} {t : Thread} (k : State → State) (ht : s.me? = some t)
    (h : ReleaseHolds s sc) : ∃ g u, s.releaseThen sc k = k g ∧ ThreadWork s g s.cur.core ∧ g.me? = some u
      ∧ (u = t ∨ u = t.relEnd) := by
  rcases State.release_holds ht h with hr | hr
  · exact ⟨_, _, State.releaseThen_done hr, .refl .., ht, .inl rfl⟩
  · exact ⟨_, _, State.releaseThen_done hr, .modThread .., State.modMe_some _ ht, .inr rfl⟩

theorem State.countFrame_work (s : State) (pno lid core : Nat) (d : Int) (c : Nat) :
    ThreadWork s (s.countFrame pno lid core d) c := .modPart ..

theorem State.countFrame_cores (s : State) (pno lid core : Nat) (d : Int) : (s.countFrame pno lid core d).cores = s.cores :=
  State.modPart_cores ..

/-- Counting frames counts no faults. -/
theorem State.countFrame_fatals (s : State) (pno lid core : Nat) (d : Int) (n : Nat) :
    ((s.countFrame pno lid core d).part n).fatals = (s.part n).fatals := by
  unfold State.part KMap.lookD
  rw [State.countFrame, State.modLaunch, State.look_modPart]
  split
  case isTrue h =>
    rw [h]
    cases s.parts.look pno with
    | none => rfl
    | some p => dsimp only [Option.map_some, Option.getD_some]; split <;> rfl
  case isFalse => rfl

theorem State.retire_dram {s : State} {t : Thread} (ht : s.me? = some t) (h : LogOff s) : s.retire.dram = s.dram := by
  rw [State.retire, State.retireTo_off _ ht h]
  show s.doPops.dram = _
  rw [s.doPops_only.rest]

end Sys2Proof.Machine
end

section
/-! SPAWN (R100, R102, R360). -/

namespace Sys2Proof.Machine

/-- The entry that SPAWN makes of a thread's registers from `a` on (R360). -/
def State.child (s : State) (t : Thread) (l : Launch) (a : Code) (lvl d i : Nat) : DqEntry :=
  ⟨(List.range 8).map fun j => s.myCore.greg t (a.toNat + j), l.childTag t.tag lvl d s.cur.core i, t.lid,
    if d = 0 then t.sth else 0⟩

/-- The entry enters the deque, its frame counts, and SPAWN completes. -/
def State.spawned (s : State) (t : Thread) (l : Launch) (a : Code) (lvl d i : Nat) : State :=
  ((s.modMyCore fun x => { x with deque := x.deque ++ [s.child t l a lvl d i] }).countFrame s.myPartNo t.lid s.cur.core
    1).retire

theorem State.spillThen_room {s : State} (k : State → State) (h : s.myCore.deque.length < 256) : s.spillThen k = k s :=
  if_pos h

/-- The child's level, domain and origin read back from its level state (R100). -/
theorem Launch.childTag_fields (l : Launch) (tag : Word) {lvl d core : Nat} (i : Nat) (hlvl : lvl < 8) (hd : d < 8)
    (hc : core < 2 ^ 12) : tagLvl (l.childTag tag lvl d core i) = lvl ∧ tagDom (l.childTag tag lvl d core i) = d
      ∧ tagOrg (l.childTag tag lvl d core i) = core := by
  have htag : ∃ r < 2 ^ 46, (l.childTag tag lvl d core i).toNat = lvl * 2 ^ 61 + d * 2 ^ 58 + core * 2 ^ 46 + r := by
    refine ⟨_, Nat.mod_lt (tagIdx tag % 2 ^ l.idxPos lvl + i * 2 ^ l.idxPos lvl) (by decide), ?_⟩
    rw [Launch.childTag, BitVec.toNat_ofNat]
    omega
  obtain ⟨r, hr, htag⟩ := htag
  simp only [tagLvl, tagDom, tagOrg, htag, bits]
  omega

/-- What SPAWN's completion leaves: its entry is the youngest of the deque, and no register, local byte or DRAM byte
changes. -/
theorem State.spawned_leaves {s : State} {u : Thread} (t : Thread) (l : Launch) (a : Code) (lvl d i : Nat)
    (hu : s.me? = some u) (hlog : LogOff s) :
    (s.spawned t l a lvl d i).myCore.deque = s.myCore.deque ++ [s.child t l a lvl d i]
      ∧ (s.spawned t l a lvl d i).me.pc = u.pc + 8 ∧ (s.spawned t l a lvl d i).myCore.regs = s.myCore.regs
      ∧ (s.spawned t l a lvl d i).dram = s.dram ∧ (s.spawned t l a lvl d i).myCore.lmem = s.myCore.lmem := by
  unfold State.spawned
  set pushed := s.modMyCore fun x => { x with deque := x.deque ++ [s.child t l a lvl d i] } with hpushed
  set counted := pushed.countFrame s.myPartNo t.lid s.cur.core 1
  have work : ThreadWork pushed counted s.cur.core := State.countFrame_work ..
  have hcore : counted.myCore = { s.myCore with deque := s.myCore.deque ++ [s.child t l a lvl d i] } := by
    rw [State.myCore_of_cur work.cur, State.core_congr (State.countFrame_cores ..), hpushed]
    exact State.core_modCore_self ..
  have hme : counted.me? = some u := by
    rw [State.me?_congr (State.countFrame_cores ..) work.cur]
    exact (State.me?_modCore _ _ rfl).trans hu
  have hoff : LogOff counted := by rw [LogOff, hcore]; exact hlog
  have kept := State.retireTo_myCore (counted.me.pc + 8) hme hoff
  rw [hcore] at kept
  exact ⟨by rw [State.retire, kept], by rw [State.retire_me hme hoff]; rfl, by rw [State.retire, kept],
    (State.retire_dram hme hoff).trans work.dram, by rw [State.retire, kept]⟩

section
variable {s : State} {p : Pred} {a b : Code} {deep : Bool} {dom : Fin 9} {l : Launch} {lvl d i : Nat}
  (hi : Issues s p none [⟨a, .group 8 1⟩, rg b]) (hl : s.launch? s.myPartNo s.me.lid = some l)
  (hlvl : tagLvl s.me.tag + b2n deep = lvl) (hindex : (s.operand [b] 0).toNat = i)
  (hdom : (if dom.val = 0 then (l.lev lvl).domc else dom.val - 1) = d)
include hi hl hlvl hindex hdom

/-- SPAWN judges its level, its index and its domain in this order (R102). -/
theorem spawn_judges : exec (.spawn p a b deep dom) s = .next (
    if l.nlev ≤ lvl then (began s [⟨a, .group 8 1⟩, rg b]).trap .illopnd (a.setWidth 64)
    else if (l.lev lvl).count ≤ i then (began s [⟨a, .group 8 1⟩, rg b]).trap .illopnd (b.setWidth 64)
    else if (l.lev lvl).domc < d then (began s [⟨a, .group 8 1⟩, rg b]).trapWord .illmod
    else (began s [⟨a, .group 8 1⟩, rg b]).releaseThen (Scope.ofCode (l.lev lvl).scope) fun g =>
      g.spillThen fun g => g.spawned s.me l a lvl d i) := by
  have found : (began s [⟨a, .group 8 1⟩, rg b]).launch? (began s [⟨a, .group 8 1⟩, rg b]).myPartNo
      (began s [⟨a, .group 8 1⟩, rg b]).me.lid = some l := hl
  subst hlvl hindex hdom
  rw [exec_spawn, execSpawn, issue_goes hi]
  simp only [found]
  rfl

/-- SPAWN's entry enters the deque, where there is room for it and its release holds; the thread goes on. -/
theorem spawn_adds (hlog : LogOff s) (hn : lvl < l.nlev) (hcount : i < (l.lev lvl).count) (hd : d ≤ (l.lev lvl).domc)
    (hrel : ReleaseHolds s (Scope.ofCode (l.lev lvl).scope)) (hroom : s.myCore.deque.length < 256) :
    ∃ t, exec (.spawn p a b deep dom) s = .next t ∧ t.myCore.deque = s.myCore.deque ++ [s.child s.me l a lvl d i]
      ∧ t.me.pc = s.me.pc + 8 ∧ t.myCore.regs = s.myCore.regs ∧ t.dram = s.dram ∧ t.myCore.lmem = s.myCore.lmem := by
  obtain ⟨u, hu⟩ := Option.isSome_iff_exists.mp hi.1
  obtain ⟨g, v, hg, work, hv, huv⟩ := State.releaseThen_holds (s := began s [⟨a, .group 8 1⟩, rg b])
    (fun g => g.spillThen fun g => g.spawned s.me l a lvl d i) hu hrel
  have hpc : v.pc = s.me.pc := by
    rw [State.me_eq hu]
    rcases huv with rfl | rfl <;> rfl
  have hcur : g.cur.core = s.cur.core := by rw [work.cur]; rfl
  have hcore : g.myCore = { s.myCore with threads := g.myCore.threads } := work.myCore
  have hchild : g.child s.me l a lvl d i = s.child s.me l a lvl d i := by
    rw [State.child, State.child, hcore, hcur]; rfl
  obtain ⟨hdeque, hnext, hregs, hdram, hlmem⟩ := State.spawned_leaves s.me l a lvl d i hv (by rw [LogOff, hcore]; exact hlog)
  rw [spawn_judges hi hl hlvl hindex hdom, if_neg (Nat.not_le.mpr hn), if_neg (Nat.not_le.mpr hcount),
    if_neg (Nat.not_lt.mpr hd), hg, State.spillThen_room _ (by rw [hcore]; exact hroom)]
  exact ⟨_, rfl, by rw [hdeque, hchild, hcore], by rw [hnext, hpc], by rw [hregs, hcore], hdram.trans work.dram,
    by rw [hlmem, hcore]⟩

end

end Sys2Proof.Machine
end

section
/-! The end of a frame (R329, R361, R112): the thread waits for work, or leaves its slot. -/

namespace Sys2Proof.Machine

/-- A thread whose frame has ended, in WFW (R361). -/
def Thread.awaits (t : Thread) : Thread :=
  { t with counts := false, mesh := none, idle := true, park := none, prog := Prog.fresh, begun := none, rel := none }

/-- A thread's frame counts no more (R113). -/
def State.uncount (s : State) (pno c : Nat) (t : Thread) : State :=
  if t.counts then s.countFrame pno t.lid c (-1) else s

theorem State.uncount_work (s : State) (pno c : Nat) (t : Thread) : ThreadWork s (s.uncount pno c t) c := by
  unfold State.uncount
  split
  · exact State.countFrame_work ..
  · exact .refl s c

theorem State.uncount_cores (s : State) (pno c : Nat) (t : Thread) : (s.uncount pno c t).cores = s.cores := by
  unfold State.uncount
  split
  · exact State.countFrame_cores ..
  · rfl

theorem State.uncount_fatals (s : State) (pno c : Nat) (t : Thread) (n : Nat) :
    ((s.uncount pno c t).part n).fatals = (s.part n).fatals := by
  unfold State.uncount
  split
  · exact State.countFrame_fatals ..
  · rfl

theorem State.closeHandler_outside {s : State} {c sl : Nat} {t : Thread} (ht : s.thread? c sl = some t)
    (hact : t.act = false) (hending : t.ending = false) : s.closeHandler c sl = s := by
  unfold State.closeHandler
  split
  case h_1 u _ hu _ =>
    obtain rfl : t = u := Option.some.inj (ht.symm.trans hu)
    exact if_neg (by simp [hact, hending])
  case h_2 => rfl

theorem State.meshDone_alone (s : State) {t : Thread} (h : t.mesh = none) : s.meshDone t = s := by
  rw [State.meshDone, h]

/-- What the end of a frame does where the thread runs no handler and is of no mesh group. -/
theorem State.waitForWork_outside {s : State} {c sl pno : Nat} {t : Thread} (ht : s.thread? c sl = some t)
    (hc : s.corePart c = some pno) (hact : t.act = false) (hending : t.ending = false) (hmesh : t.mesh = none) :
    s.waitForWork c sl =
      if t.tnew || (s.core c).marked sl then (s.modThread c sl fun t => { t with mesh := none }).endThread c sl
      else ((s.uncount pno c t).modThread c sl Thread.awaits).noteState c sl 3 := by
  simp only [State.waitForWork, State.closeHandler_outside ht hact hending, ht, hc, State.meshDone_alone s hmesh]
  rfl

/-! ### A thread that stays -/

/-- A frame has ended, and its thread idles in its slot. -/
structure Idles (s t : State) (c sl : Nat) (u : Thread) : Prop where
  work : ThreadWork s t c
  thread : t.thread? c sl = some u.awaits
  fatals : ∀ n, (t.part n).fatals = (s.part n).fatals

/-- The issuing thread idles: its core's registers and local memory stand, and so does DRAM. -/
theorem Idles.stands {s t : State} {c sl : Nat} {u : Thread} (h : Idles s t c sl u) (hc : s.cur.core = c)
    (hsl : s.cur.slot = sl) : t.me = u.awaits ∧ t.myCore = { s.myCore with threads := t.myCore.threads }
      ∧ t.dram = s.dram := by
  subst hc hsl
  exact ⟨State.me_eq (State.me?_of_thread h.work.cur h.thread), h.work.myCore, h.work.dram⟩

theorem State.waitForWork_idles {s : State} {c sl pno : Nat} {t : Thread} (ht : s.thread? c sl = some t)
    (hc : s.corePart c = some pno) (hact : t.act = false) (hending : t.ending = false) (hmesh : t.mesh = none)
    (htnew : t.tnew = false) (hmarked : (s.core c).marked sl = false) (hlog : bit (s.core c).slcfg 0 = false) :
    Idles s (s.waitForWork c sl) c sl t := by
  have work : ThreadWork s ((s.uncount pno c t).modThread c sl Thread.awaits) c :=
    (State.uncount_work ..).trans (.modThread ..)
  have ends : s.waitForWork c sl = (s.uncount pno c t).modThread c sl Thread.awaits := by
    rw [State.waitForWork_outside ht hc hact hending hmesh, if_neg (by simp [htnew, hmarked]),
      noteState_off _ _ _ _ (by rw [work.core]; exact hlog)]
  rw [ends]
  refine ⟨work, ?_, fun n => ?_⟩
  · rw [State.thread_modThread, if_pos ⟨rfl, rfl⟩, State.thread_congr (State.uncount_cores ..), ht]
    rfl
  · rw [State.part, State.modThread_parts]
    exact State.uncount_fatals ..

/-! ### A thread that leaves -/

/-- A slot loses its thread, and no other slot and no register of the core changes. -/
theorem State.vacate_leaves {s : State} {c sl : Nat} (hlog : bit (s.core c).slcfg 0 = false) :
    (s.vacate c sl).cur = s.cur ∧ (∀ sm, (s.vacate c sl).thread? c sm = if sm = sl then none else s.thread? c sm)
      ∧ ((s.vacate c sl).core c).regs = (s.core c).regs := by
  cases ht : s.thread? c sl with
  | none =>
    refine ⟨by rw [State.vacate, ht], fun sm => ?_, by rw [State.vacate, ht]⟩
    rw [State.vacate, ht]
    by_cases h : sm = sl
    · rw [if_pos h, h]; exact ht
    · rw [if_neg h]
  | some t =>
    simp only [State.vacate, ht, noteState_off _ _ _ _ hlog]
    refine ⟨rfl, fun sm => ?_, ?_⟩
    · rw [State.thread?, State.core_modCore_self]
      exact KMap.look_del ..
    · rw [State.core_modCore_self]
      rfl

theorem State.endThread_settled {s : State} {c sl pno : Nat} {t : Thread} (ht : s.thread? c sl = some t)
    (hc : s.corePart c = some pno) (hlate : t.late = []) : s.endThread c sl = (s.uncount pno c t).vacate c sl := by
  simp only [State.endThread, ht, hc, hlate, List.foldl_nil]
  rfl

/-- A thread that TNEW made leaves its slot at the end of its frame (R361). -/
theorem State.waitForWork_leaves {s : State} {c sl pno : Nat} {t : Thread} (ht : s.thread? c sl = some t)
    (hc : s.corePart c = some pno) (hact : t.act = false) (hending : t.ending = false) (hmesh : t.mesh = none)
    (htnew : t.tnew = true) (hlate : t.late = []) (hlog : bit (s.core c).slcfg 0 = false) :
    (s.waitForWork c sl).cur = s.cur
      ∧ (∀ sm, (s.waitForWork c sl).thread? c sm = if sm = sl then none else s.thread? c sm)
      ∧ ((s.waitForWork c sl).core c).regs = (s.core c).regs := by
  set u := s.modThread c sl fun t => { t with mesh := none } with hu
  have hthread : ∀ sm, u.thread? c sm = if sm = sl then some { t with mesh := none } else s.thread? c sm := fun sm => by
    rw [hu, State.thread_modThread, ht]; simp
  have work : ThreadWork s u c := .modThread ..
  have settled : ThreadWork s (u.uncount pno c { t with mesh := none }) c := work.trans (State.uncount_work ..)
  have ends : s.waitForWork c sl = (u.uncount pno c { t with mesh := none }).vacate c sl := by
    rw [State.waitForWork_outside ht hc hact hending hmesh, if_pos (by simp [htnew])]
    exact State.endThread_settled ((hthread sl).trans (if_pos rfl)) ((work.corePart c).trans hc) hlate
  obtain ⟨hcur, hthreads, hregs⟩ := State.vacate_leaves (s := u.uncount pno c { t with mesh := none }) (sl := sl)
    (by rw [settled.core]; exact hlog)
  rw [ends]
  refine ⟨hcur.trans settled.cur, fun sm => ?_, by rw [hregs, settled.core]⟩
  rw [hthreads, State.thread_congr (State.uncount_cores ..), hthread]
  split <;> rfl

/-! ### A thread inside its handler (R329, R251) -/

/-- A thread whose handler has ended with its frame: ACT is clear, and no late cause is due. -/
def Thread.leaves (t : Thread) : Thread :=
  { t with tcause := Word.ofNat (t.tcause.toNat % 2 ^ 63), late := [], ending := false }

theorem Thread.leaves_act (t : Thread) : t.leaves.act = false := by
  rw [Thread.act, bit_eq_iff, Thread.leaves, BitVec.toNat_ofNat]
  simp only [b2n, Bool.false_eq_true, if_false]
  omega

/-- A fault of a partition that no launch's record takes is counted in its registers. -/
theorem State.countFault_fatals {s : State} {pno : Nat} {q : Part} (n : Nat) (hq : s.parts.look pno = some q) :
    ((s.countFault pno n).part pno).fatals = q.fatals + n := by
  rw [State.countFault, State.part_of_look (State.look_modPart_some _ hq)]

/-- An entry's work is of no handler that still runs, where it is of the thread. -/
def Entry.released (e : Entry) (sth : Nat) : Entry := if e.sth = sth then { e with inHandler := false } else e

theorem Entry.released_seq (e : Entry) (sth : Nat) : (e.released sth).seq = e.seq := by
  unfold Entry.released; split <;> rfl

theorem Entry.released_inHandler {e : Entry} {sth : Nat} (h : (e.released sth).sth = sth) :
    (e.released sth).inHandler = false := by
  unfold Entry.released at h ⊢
  split
  case isTrue => rfl
  case isFalse hne => rw [if_neg hne] at h; exact absurd h hne

/-- What a handler's end leaves of the machine but the ring of the core, the jobs of its cluster and the partition. -/
theorem State.leaveHandler_core (s : State) (c sth : Nat) :
    (s.leaveHandler c sth).core c = { s.core c with ring := (s.core c).ring.map fun e => e.released sth }
      ∧ (s.leaveHandler c sth).cur = s.cur ∧ (s.leaveHandler c sth).dram = s.dram
      ∧ (s.leaveHandler c sth).qmap = s.qmap ∧ (s.leaveHandler c sth).parts = s.parts := by
  unfold State.leaveHandler
  dsimp only
  split
  · exact ⟨(State.core_congr (State.modCluster_cores ..) c).trans (State.core_modCore_self s c _), rfl, rfl, rfl, rfl⟩
  · exact ⟨State.core_modCore_self s c _, rfl, rfl, rfl, rfl⟩

/-- What the end of a frame inside a handler does before the frame ends. -/
structure HandlerLeft (s t : State) (c sl pno : Nat) (u : Thread) (q : Part) : Prop where
  thread : t.thread? c sl = some u.leaves
  core : t.core c = { s.core c with
    ring := ((s.core c).dropHeld u.sth).ring.map fun e => e.released u.sth, threads := (t.core c).threads }
  fatals : (t.part pno).fatals = q.fatals + (u.late.filter fun l => l.cause ≠ .preempt).length
  cur : t.cur = s.cur
  dram : t.dram = s.dram
  corePart : t.corePart c = s.corePart c

theorem State.closeHandler_within {s : State} {c sl pno : Nat} {t : Thread} {q : Part} (ht : s.thread? c sl = some t)
    (hc : s.corePart c = some pno) (hq : s.parts.look pno = some q) (hact : t.act = true) :
    HandlerLeft s (s.closeHandler c sl) c sl pno t q := by
  obtain ⟨hcore, hcur, hdram, hqmap, hparts⟩ := (s.modCore c fun x => x.dropHeld t.sth).leaveHandler_core c t.sth
  rw [State.core_modCore_self] at hcore
  set left := (s.modCore c fun x => x.dropHeld t.sth).leaveHandler c t.sth
  set counted := left.countFault pno (t.late.filter fun l => l.cause ≠ .preempt).length
  have closes : s.closeHandler c sl = counted.modThread c sl Thread.leaves := by
    simp only [State.closeHandler, ht, hc, hact, Bool.true_or, if_true]
    rfl
  have work : ThreadWork left (counted.modThread c sl Thread.leaves) c := (ThreadWork.modPart ..).trans (.modThread ..)
  have hthread : counted.thread? c sl = some t := by
    have cores : counted.cores = left.cores := State.modPart_cores ..
    rw [State.thread_congr cores, State.thread?, hcore]
    exact ht
  rw [closes]
  refine ⟨?_, ?_, ?_, work.cur.trans hcur, work.dram.trans hdram, (work.corePart c).trans (State.corePart_congr hqmap c)⟩
  · rw [State.thread_modThread, if_pos ⟨rfl, rfl⟩, hthread]
    rfl
  · rw [work.core, hcore]
    rfl
  · rw [State.part, State.modThread_parts]
    exact State.countFault_fatals _ (hparts.symm ▸ hq)

/-- A handler ends once. -/
theorem State.waitForWork_within {s : State} {c sl pno : Nat} {t u : Thread} (ht : s.thread? c sl = some t)
    (hc : s.corePart c = some pno) (hu : (s.closeHandler c sl).thread? c sl = some u)
    (hcu : (s.closeHandler c sl).corePart c = some pno) (hact : u.act = false) (hending : u.ending = false) :
    s.waitForWork c sl = (s.closeHandler c sl).waitForWork c sl := by
  simp only [State.waitForWork, ht, hc, hu, hcu, State.closeHandler_outside hu hact hending]

/-- The frame of the issuing thread ends inside its handler, and the thread stays in its slot. -/
theorem State.waitForWork_handler {s : State} {pno : Nat} {t : Thread} {q : Part} (ht : s.me? = some t)
    (hc : s.corePart s.cur.core = some pno) (hq : s.parts.look pno = some q) (hact : t.act = true) (hmesh : t.mesh = none)
    (htnew : t.tnew = false) (hmarked : s.myCore.marked s.cur.slot = false) (hlog : LogOff s) :
    (s.waitForWork s.cur.core s.cur.slot).me = t.leaves.awaits
      ∧ (s.waitForWork s.cur.core s.cur.slot).myCore = { s.myCore with
          ring := (s.myCore.dropHeld t.sth).ring.map fun e => e.released t.sth,
          threads := (s.waitForWork s.cur.core s.cur.slot).myCore.threads }
      ∧ ((s.waitForWork s.cur.core s.cur.slot).part pno).fatals =
          q.fatals + (t.late.filter fun l => l.cause ≠ .preempt).length
      ∧ (s.waitForWork s.cur.core s.cur.slot).dram = s.dram := by
  have left := State.closeHandler_within ht hc hq hact
  have hcu := left.corePart.trans hc
  rw [State.waitForWork_within ht hc left.thread hcu (Thread.leaves_act _) rfl]
  set u := s.closeHandler s.cur.core s.cur.slot
  have hmark : (u.core s.cur.core).marked s.cur.slot = false := by rw [left.core]; exact hmarked
  have idles := State.waitForWork_idles left.thread hcu (Thread.leaves_act _) rfl hmesh htnew hmark
    (by rw [left.core]; exact hlog)
  obtain ⟨hidle, hcore, hdram⟩ := idles.stands (congrArg Cur.core left.cur) (congrArg Cur.slot left.cur)
  have hring : u.myCore = { s.myCore with
      ring := (s.myCore.dropHeld t.sth).ring.map fun e => e.released t.sth, threads := u.myCore.threads } := by
    rw [State.myCore_of_cur left.cur]
    exact left.core
  exact ⟨hidle, by rw [hcore, hring], (idles.fatals pno).trans left.fatals, hdram.trans left.dram⟩

/-! ### What a frame's end discards first (R329, R386) -/

theorem foldl_still {α β : Type} {f : β → α → β} {b : β} {l : List α} (h : ∀ a ∈ l, f b a = b) : l.foldl f b = b := by
  induction l with
  | nil => rfl
  | cons a l ih =>
    rw [List.foldl_cons, h a List.mem_cons_self]
    exact ih fun o ho => h o (List.mem_cons_of_mem a ho)

/-- Where no thread of the cluster waits in a table load, none wakes. -/
theorem State.cbldSettle_still {s : State} {cl : Nat} (h : ∀ c ∈ clusterCores cl, ∀ e ∈ (s.core c).threads, ∀ x y z,
    e.2.park.map Park.why ≠ some (.cbld x y z)) : s.cbldSettle cl = s := by
  refine foldl_still fun c hc => foldl_still fun e he => ?_
  split
  case h_1 ents jobs _ _ hp => exact absurd (by rw [hp]; rfl) (h c hc e he _ ents jobs)
  case h_2 => rfl

theorem State.discardThen_outside {s : State} {t : Thread} (ht : s.me? = some t) (hact : t.act = false)
    (hending : t.ending = false) (k : State → State) : s.discardThen k = k s := by
  simp [State.discardThen, State.me_eq ht, hact, hending]

/-- A handler that leaves no held ENQ. -/
theorem State.discardThen_none {s : State} (henq : ∀ e ∈ s.myCore.ring, e.sth = s.me.sth → e.still = true → e.isEnq = false)
    (hcbld : ∀ c ∈ clusterCores (clusterOf s.cur.core), ∀ e ∈ (s.core c).threads, ∀ x y z,
      e.2.park.map Park.why ≠ some (.cbld x y z)) (k : State → State) : s.discardThen k = k s := by
  have none_held : s.myCore.ring.filter (fun e => e.sth = s.me.sth && e.still && e.isEnq) = [] :=
    List.filter_eq_nil_iff.mpr fun e he => by
      simp only [Bool.and_eq_true, decide_eq_true_eq, not_and, Bool.not_eq_true]
      exact fun h => henq e he h.1 h.2
  unfold State.discardThen
  dsimp only
  split
  · rw [none_held, State.discardEach, State.cbldSettle_still hcbld]
  · rfl

/-! ### EXIT and WFW -/

theorem State.exitWith_unjoined {s : State} {t : Thread} (bad : Cause → Word → State → State)
    (hd : ∀ k, s.discardThen k = k s) (ht : s.me? = some t) (hj : t.tjoin = 0) :
    s.exitWith bad = s.waitForWork s.cur.core s.cur.slot := by
  rw [State.exitWith, hd]
  exact if_pos (by rw [State.me_eq ht, hj])

/-- A read-modify-write at the own port of bytes that are not poisoned. -/
theorem State.rmwAt_here {s : State} {o n : Nat} (h : s.myCore.lpoisoned o n = false) (ea : Word) (f : Nat → Nat)
    (op : RemOp) (bad : Cause → Word → State → State) (k : Nat → State → State) :
    s.rmwAt (.here o) ea n f op bad k =
      k (s.myCore.lmem.read o n) (s.modMyCore fun x => x.lstore o (leBytes n (f (x.lmem.read o n)))) := by
  have clean : (s.core s.cur.core).lpoisoned o n = false := h
  simp only [State.rmwAt, clean, Bool.false_eq_true, if_false]
  rfl

/-- A core whose join counter at an offset is one lower (R112). -/
def Core.joined (x : Core) (o : Nat) : Core := x.lstore o (leBytes 8 ((x.lmem.read o 8 + 2 ^ 64 - 1) % 2 ^ 64))

theorem Core.joined_threads (x : Core) (o : Nat) : (x.joined o).threads = x.threads := rfl
theorem Core.joined_owners (x : Core) (o : Nat) : (x.joined o).owners = x.owners := rfl
theorem Core.joined_slcfg (x : Core) (o : Nat) : (x.joined o).slcfg = x.slcfg := rfl
theorem Core.joined_lmem (x : Core) (o : Nat) :
    (x.joined o).lmem = x.lmem.store o (leBytes 8 ((x.lmem.read o 8 + 2 ^ 64 - 1) % 2 ^ 64)) := rfl

/-- The join counter at the own port takes the decrement of EXIT, and the frame ends (R112). -/
theorem State.exitWith_joined {s : State} {t : Thread} {o : Nat} (bad : Cause → Word → State → State)
    (hd : ∀ k, s.discardThen k = k s) (ht : s.me? = some t) (hj : t.tjoin ≠ 0) (ho : s.ownPort false t.tjoin 8 = some o)
    (hrel : ReleaseHolds s (s.levelScope s.myPartNo s.me)) (hclean : s.myCore.lpoisoned o 8 = false) :
    ∃ g u, ThreadWork s g s.cur.core ∧ g.me? = some u ∧ (u = t ∨ u = t.relEnd)
      ∧ s.exitWith bad = (g.modMyCore fun x => x.joined o).waitForWork s.cur.core s.cur.slot := by
  obtain ⟨g, u, hg, work, hu, hut⟩ := State.releaseThen_holds (fun s => s.rmwAt (.here o) t.tjoin 8
    (fun old => (old + 2 ^ 64 - 1) % 2 ^ 64) (.amo .add 8 (2 ^ 64 - 1) true s.myCore.te) bad fun _ s =>
      s.waitForWork s.cur.core s.cur.slot) ht hrel
  rw [State.rmwAt_here (by rw [work.myCore]; exact hclean)] at hg
  refine ⟨g, u, work, hu, hut, ?_⟩
  rw [State.exitWith, hd]
  dsimp only
  rw [State.me_eq ht, if_neg hj, State.locate_own ho]
  rw [hg, State.modMyCore_cur, work.cur]
  rfl

/-- So EXIT leaves the counter one lower and the thread idle. -/
theorem State.exitWith_joins {s : State} {t : Thread} {pno o : Nat} (bad : Cause → Word → State → State)
    (hd : ∀ k, s.discardThen k = k s) (ht : s.me? = some t) (hlog : LogOff s) (hc : s.corePart s.cur.core = some pno)
    (hact : t.act = false) (hending : t.ending = false) (hmesh : t.mesh = none) (hj : t.tjoin ≠ 0)
    (ho : s.ownPort false t.tjoin 8 = some o) (hrel : ReleaseHolds s (s.levelScope s.myPartNo s.me))
    (hclean : s.myCore.lpoisoned o 8 = false) (htnew : t.tnew = false) (hmarked : s.myCore.marked s.cur.slot = false) :
    (s.exitWith bad).me.idle = true ∧ (s.exitWith bad).myCore.lmem =
      s.myCore.lmem.store o (leBytes 8 ((s.myCore.lmem.read o 8 + 2 ^ 64 - 1) % 2 ^ 64)) := by
  obtain ⟨g, u, work, hu, hut, hends⟩ := State.exitWith_joined bad hd ht hj ho hrel hclean
  rw [hends]
  set w := g.modMyCore fun x => x.joined o
  have hcur : w.cur = s.cur := work.cur
  have hw : w.core s.cur.core = g.myCore.joined o := by
    rw [← hcur]
    exact State.core_modCore_self g g.cur.core _
  have hthread : w.thread? s.cur.core s.cur.slot = some u := by
    rw [State.thread?, hw, Core.joined_threads, State.myCore, ← work.cur]
    exact hu
  have kept : u.act = false ∧ u.ending = false ∧ u.mesh = none ∧ u.tnew = false := by
    rcases hut with rfl | rfl <;> exact ⟨hact, hending, hmesh, htnew⟩
  obtain ⟨hact, hending, hmesh, htnew⟩ := kept
  have idles := State.waitForWork_idles hthread ((work.corePart s.cur.core).trans hc) hact hending hmesh htnew
    (by rw [hw, Core.marked, Core.joined_owners, work.myCore]; exact hmarked)
    (by rw [hw, Core.joined_slcfg, work.myCore]; exact hlog)
  obtain ⟨hidle, hcore, -⟩ := idles.stands (congrArg Cur.core hcur) (congrArg Cur.slot hcur)
  refine ⟨by rw [hidle]; rfl, ?_⟩
  rw [hcore, State.myCore_of_cur hcur, hw, Core.joined_lmem, work.myCore]

end Sys2Proof.Machine
end

section
/-! EXIT and WFW as they issue (R329, R361), and the statement about the ends of frames. -/

namespace Sys2Proof.Machine

theorem State.me?_of_issues {s : State} {p : Pred} {dst : Option Pos} {srcs : List Pos} (h : Issues s p dst srcs) :
    s.me? = some s.me := by
  obtain ⟨u, hu⟩ := Option.isSome_iff_exists.mp h.1
  rw [State.me_eq hu]
  exact hu

section
variable {s : State} {p : Pred} (hi : Issues s p none [])
include hi

theorem exit_ends : exec (.exit p) s = .next ((began s []).exitWith (badAccess .write)) := by
  rw [exec_exit, execExit, issue_goes hi]

section
variable (hd : ∀ k, (began s []).discardThen k = k (began s []))
include hd

theorem wfw_ends : exec (.wfw p) s = .next ((began s []).waitForWork s.cur.core s.cur.slot) := by
  rw [exec_wfw, execWfw, issue_goes hi, hd]
  rfl

/-- Without a join counter EXIT ends the frame as WFW does. -/
theorem exit_eq_wfw (hj : s.me.tjoin = 0) : exec (.exit p) s = exec (.wfw p) s := by
  rw [exit_ends hi, wfw_ends hi hd, State.exitWith_unjoined _ hd (State.me?_of_issues hi) hj]
  rfl

end

/-- The end of a frame inside a handler, of a thread that stays in its slot (R329, R251). -/
theorem wfw_within {pno : Nat} {q : Part} (hlog : LogOff s) (hc : s.corePart s.cur.core = some pno)
    (hq : s.parts.look pno = some q) (hact : s.me.act = true) (hmesh : s.me.mesh = none) (htnew : s.me.tnew = false)
    (hmarked : s.myCore.marked s.cur.slot = false) (hd : ∀ k, (began s []).discardThen k = k (began s [])) :
    ∃ t, exec (.wfw p) s = .next t ∧ t.me = s.me.leaves.awaits
      ∧ t.myCore = { s.myCore with
          ring := (s.myCore.dropHeld s.me.sth).ring.map fun e => e.released s.me.sth, threads := t.myCore.threads }
      ∧ (t.part pno).fatals = q.fatals + (s.me.late.filter fun l => l.cause ≠ .preempt).length ∧ t.dram = s.dram := by
  have hme : (began s []).me? = some s.me := State.me?_of_issues hi
  exact ⟨_, wfw_ends hi hd, State.waitForWork_handler (s := began s []) hme hc hq hact hmesh htnew hmarked hlog⟩

/-- The end of a frame outside a handler, of a thread that stays in its slot (R361). -/
theorem wfw_outside {pno : Nat} (hlog : LogOff s) (hc : s.corePart s.cur.core = some pno) (hact : s.me.act = false)
    (hending : s.me.ending = false) (hmesh : s.me.mesh = none) (htnew : s.me.tnew = false)
    (hmarked : s.myCore.marked s.cur.slot = false) :
    ∃ t, exec (.wfw p) s = .next t ∧ t.me = s.me.awaits ∧ t.myCore = { s.myCore with threads := t.myCore.threads }
      ∧ t.dram = s.dram := by
  have hme : (began s []).me? = some s.me := State.me?_of_issues hi
  have idles := State.waitForWork_idles (s := began s []) hme hc hact hending hmesh htnew hmarked hlog
  exact ⟨_, wfw_ends hi (State.discardThen_outside hme hact hending), idles.stands rfl rfl⟩

/-- The end of a frame outside a handler, of a thread that TNEW made (R361). -/
theorem wfw_leaves {pno : Nat} (hlog : LogOff s) (hc : s.corePart s.cur.core = some pno) (hact : s.me.act = false)
    (hending : s.me.ending = false) (hmesh : s.me.mesh = none) (htnew : s.me.tnew = true) (hlate : s.me.late = []) :
    ∃ t, exec (.wfw p) s = .next t ∧ t.me? = none
      ∧ (∀ sl, sl ≠ s.cur.slot → t.thread? s.cur.core sl = s.thread? s.cur.core sl) ∧ t.myCore.regs = s.myCore.regs := by
  have hme : (began s []).me? = some s.me := State.me?_of_issues hi
  obtain ⟨hcur, hthreads, hregs⟩ := State.waitForWork_leaves (s := began s []) (c := s.cur.core)
    (sl := s.cur.slot) hme hc hact hending hmesh htnew hlate hlog
  refine ⟨_, wfw_ends hi (State.discardThen_outside hme hact hending), ?_, fun sl hsl => ?_, ?_⟩
  · rw [State.me?, hcur]
    exact (hthreads _).trans (if_pos rfl)
  · exact (hthreads sl).trans (if_neg hsl)
  · rw [State.myCore_of_cur hcur]
    exact hregs

/-- EXIT with a join counter at the own port takes 1 from it and ends the frame (R112). -/
theorem exit_joins {pno o : Nat} (hlog : LogOff s) (hc : s.corePart s.cur.core = some pno) (hact : s.me.act = false)
    (hending : s.me.ending = false) (hmesh : s.me.mesh = none) (hj : s.me.tjoin ≠ 0)
    (ho : s.ownPort false s.me.tjoin 8 = some o) (hrel : ReleaseHolds s (s.levelScope s.myPartNo s.me))
    (hclean : s.myCore.lpoisoned o 8 = false) (htnew : s.me.tnew = false) (hmarked : s.myCore.marked s.cur.slot = false) :
    ∃ t, exec (.exit p) s = .next t ∧ t.me.idle = true
      ∧ t.myCore.lmem = s.myCore.lmem.store o (leBytes 8 ((s.myCore.lmem.read o 8 + 2 ^ 64 - 1) % 2 ^ 64)) := by
  have hme : (began s []).me? = some s.me := State.me?_of_issues hi
  exact ⟨_, exit_ends hi, State.exitWith_joins _ (State.discardThen_outside hme hact hending) hme hlog hc hact hending hmesh
    hj ho hrel hclean htnew hmarked⟩

end

/-- Settles O25: SPAWN by its judgements in order and the entry that it adds, the ends of frames by what each leaves. -/
theorem spawnsAndFrameEnds : Obligations.SpawnsAndFrameEnds := by
  refine ⟨?spawn, ?handler, ?frame⟩
  case spawn =>
    intro s p a b deep dom l hlog hi hl lvl lev i d raises g child
    have judges := spawn_judges (deep := deep) (dom := dom) hi hl rfl rfl rfl
    refine ⟨fun hn => ?_, fun hn hcount => ?_, fun hn hcount hd => ?_, fun hn hcount hd hrel hroom => ?_⟩
    · exact judges.trans (by rw [if_pos hn])
    · exact judges.trans (by rw [if_neg (Nat.not_le.mpr hn), if_pos hcount])
    · exact judges.trans (by rw [if_neg (Nat.not_le.mpr hn), if_neg (Nat.not_le.mpr hcount), if_pos hd])
    · obtain ⟨t, ht, hdeque, hpc, hregs, hdram, hlmem⟩ := spawn_adds hi hl rfl rfl rfl hlog hn hcount hd hrel hroom
      exact ⟨t, ht, hdeque, hpc, hregs, fun x => by rw [hdram], fun x => by rw [hlmem],
        Launch.childTag_fields l s.me.tag i⟩
  case handler =>
    intro s p pno q hlog hi hc hq hact hmesh htnew hmarked henq hcbld
    have discards := State.discardThen_none (s := began s []) henq hcbld
    obtain ⟨t, ht, hme, hcore, hfatals, hdram⟩ := wfw_within hi hlog hc hq hact hmesh htnew hmarked discards
    have hring : t.myCore.ring = (s.myCore.dropHeld s.me.sth).ring.map fun e => e.released s.me.sth := by rw [hcore]
    refine ⟨exit_eq_wfw hi discards, t, ht, by rw [hme]; rfl, by rw [hme]; rfl, ?_, by rw [hme]; rfl, ?_, ?_, hfatals,
      by rw [hcore], fun x => by rw [hdram], fun x => by rw [hcore]⟩
    · rw [hme]; exact Thread.leaves_act s.me
    · rw [hring, List.map_map]
      exact List.map_congr_left fun e _ => e.released_seq s.me.sth
    · rw [hring]
      intro e he hsth
      obtain ⟨e, -, rfl⟩ := List.mem_map.mp he
      exact Entry.released_inHandler hsth
  case frame =>
    intro s p pno hlog hi hc hact hending hmesh
    refine ⟨exit_eq_wfw hi (State.discardThen_outside (State.me?_of_issues hi) hact hending), fun htnew hmarked => ?_,
      fun htnew hlate _ => wfw_leaves hi hlog hc hact hending hmesh htnew hlate,
      fun o hj ho hrel hclean htnew hmarked => ?_⟩
    · obtain ⟨t, ht, hme, hcore, hdram⟩ := wfw_outside hi hlog hc hact hending hmesh htnew hmarked
      exact ⟨t, ht, by rw [hme]; rfl, by rw [hme]; rfl, by rw [hme]; rfl, by rw [hme]; rfl, by rw [hcore],
        fun x => by rw [hdram], fun x => by rw [hcore]⟩
    · obtain ⟨t, ht, hidle, hlmem⟩ := exit_joins hi hlog hc hact hending hmesh hj ho hrel hclean htnew hmarked
      refine ⟨t, ht, hidle, ?_, fun x hx => ?_⟩
      · rw [hlmem, Memory.read_store]
        exact Nat.mod_mod _ _
      · rw [hlmem, Memory.get_store, leBytes_length, if_neg hx]

end Sys2Proof.Machine
end

section
/-! The turns of the agenda and of the machine's own policy (R121), and the statement about them. -/

namespace Sys2Proof.Machine

theorem step_event {s : State} {i : Instr} {rest : List Turn} (h : s.agenda = .event i :: rest) (hi : i.isCode = false) :
    step s = exec i { s with agenda := rest } := by
  unfold step
  rw [h]
  exact if_neg (by rw [hi]; exact Bool.false_ne_true)

theorem State.ready_of_pickSlot {s : State} {c sl : Nat} (h : s.pickSlot c = some sl) : s.ready c sl = true :=
  List.find?_some (p := fun sl => s.ready c sl) h

/-- Selection takes a slot that is ready. -/
theorem State.ready_of_pickCore {s : State} {c sl : Nat} (h : s.pickCore = some (c, sl)) : s.ready c sl = true := by
  obtain ⟨c', -, hc'⟩ := List.exists_of_findSome?_eq_some h
  obtain ⟨sl', hsl', heq⟩ := Option.map_eq_some_iff.mp hc'
  cases heq
  exact State.ready_of_pickSlot hsl'

section
variable {s : State} {c sl : Nat} (hagenda : s.agenda = []) (hphase : s.phase = false)
  (hpick : s.pickCore = some (c, sl))
include hagenda hphase hpick

/-- In an issuing turn a rotation boundary that comes by the moment of the issue goes first (R119). -/
theorem step_rotates {u : State} (hrot : s.rotationBy (s.issueMoment c sl) = some u) : step s = .next u := by
  simp only [step, hagenda, State.selfTurn, hphase, hpick, hrot, Bool.false_eq_true, if_false]

theorem step_picks (hrot : s.rotationBy (s.issueMoment c sl) = none) :
    step s = State.issuePicked { s with phase := true } c sl := by
  simp only [step, hagenda, State.selfTurn, hphase, hpick, hrot, Bool.false_eq_true, if_false]

end

/-- Settles O5: an event by its turn, an issue by what selection answers. -/
theorem stepTakesEventsAndSelectedSlots : Obligations.StepTakesEventsAndSelectedSlots :=
  ⟨fun _ _ _ => step_event, fun _ _ _ hagenda hphase hpick =>
    ⟨State.ready_of_pickCore hpick, fun _ => step_rotates hagenda hphase hpick, step_picks hagenda hphase hpick⟩⟩

end Sys2Proof.Machine
end

section
/-! Rotation boundaries, displaced threads and their return (R119, R120, R364), and the statement about them. -/

namespace Sys2Proof.Machine

/-! ### Moves of slots (R119) -/

/-- What the moves of a boundary change: the owners of a core's slots. -/
structure OwnersMoved (s t : State) (c : Nat) : Prop where
  rest : t = { s with cores := t.cores }
  core : t.core c = { s.core c with owners := (t.core c).owners }

theorem OwnersMoved.refl (s : State) (c : Nat) : OwnersMoved s s c := ⟨rfl, rfl⟩

theorem OwnersMoved.trans {s t u : State} {c : Nat} (h : OwnersMoved s t c) (k : OwnersMoved t u c) : OwnersMoved s u c := by
  constructor
  · have e := k.rest; rw [h.rest] at e; exact e
  · have e := k.core; rw [h.core] at e; exact e

theorem State.rotateOnce_moves {s t : State} {pno c : Nat} {act : KMap Nat} {target : Nat → Int}
    (h : s.rotateOnce pno c act target = some t) : OwnersMoved s t c := by
  unfold State.rotateOnce at h
  dsimp only at h
  split at h
  · cases h
  split at h
  · cases h
  split at h
  · cases h
  · cases h
    exact ⟨rfl, by rw [State.core_setCore_self]⟩

theorem State.rotate_moves (pno c : Nat) (act : KMap Nat) (target : Nat → Int) (n : Nat) :
    ∀ s : State, OwnersMoved s (s.rotate pno c act target n) c := by
  induction n with
  | zero => exact fun s => .refl s c
  | succ n ih =>
    intro s
    rw [State.rotate]
    split
    · exact .refl s c
    · rename_i hmove
      exact (State.rotateOnce_moves hmove).trans (ih _)

theorem State.rotateAll_moves (s : State) (pno c : Nat) : OwnersMoved s (s.rotateAll pno c) c := by
  unfold State.rotateAll
  dsimp only
  split
  · exact .refl s c
  · exact State.rotate_moves ..

/-! ### Threads that wake -/

/-- What the waking of a core's threads changes: them and the agenda. -/
structure Roused (s t : State) (c : Nat) : Prop where
  rest : t = { s with cores := t.cores, agenda := t.agenda }
  core : t.core c = { s.core c with threads := (t.core c).threads }

theorem Roused.refl (s : State) (c : Nat) : Roused s s c := ⟨rfl, rfl⟩

theorem Roused.trans {s t u : State} {c : Nat} (h : Roused s t c) (k : Roused t u c) : Roused s u c := by
  constructor
  · have e := k.rest; rw [h.rest] at e; exact e
  · have e := k.core; rw [h.core] at e; exact e

theorem Roused.modThread (s : State) (c sl : Nat) (f : Thread → Thread) : Roused s (s.modThread c sl f) c := by
  refine ⟨?_, s.core_modThread c sl f⟩
  unfold State.modThread
  split <;> rfl

theorem Roused.soon (s : State) (c : Nat) (l : List Turn) : Roused s (s.soon l) c := ⟨rfl, rfl⟩

theorem Roused.logOff {s t : State} {c : Nat} (h : Roused s t c) (hlog : bit (s.core c).slcfg 0 = false) :
    bit (t.core c).slcfg 0 = false := by
  rw [h.core]; exact hlog

/-- A thread that has woken, its instruction as `f` left it. -/
def Thread.roused (t : Thread) (f : Prog → Prog) : Thread := { t with park := none, prog := { f t.prog with woken := true } }

section
variable {s : State} {c : Nat} (hlog : bit (s.core c).slcfg 0 = false) (sl : Nat) (f : Prog → Prog)
include hlog

theorem State.wakeWith_off : s.wakeWith c sl f = ((s.modThread c sl fun t => { t with prog := f t.prog }).modThread c sl
    fun t => { t with park := none, prog := { t.prog with woken := true } }).soon [.slot c sl] := by
  have work := (Roused.modThread s c sl fun t => { t with prog := f t.prog }).trans
    (.modThread _ c sl fun t => { t with park := none, prog := { t.prog with woken := true } })
  rw [State.wakeWith, State.wake, noteState_off _ _ _ _ (work.logOff hlog)]

theorem State.wakeWith_rouses : Roused s (s.wakeWith c sl f) c := by
  rw [State.wakeWith_off hlog]
  exact ((Roused.modThread ..).trans (.modThread ..)).trans (.soon ..)

theorem State.wakeWith_thread (sm : Nat) : (s.wakeWith c sl f).thread? c sm =
    if sm = sl then (s.thread? c sl).map fun t => t.roused f else s.thread? c sm := by
  rw [State.wakeWith_off hlog, State.thread_congr (State.soon_cores ..), State.thread_modThread, State.thread_modThread,
    State.thread_modThread]
  by_cases h : sm = sl
  · subst h; simp [Thread.roused, Function.comp_def]
  · simp [h]

end

/-- Threads that wake one after the other, their instructions noted as performed. -/
def State.finishAll (s : State) (c : Nat) (due : List Nat) : State :=
  due.foldr (fun sl (s : State) => s.wakeWith c sl fun g => { g with finished := true }) s

theorem State.finishAll_cons (s : State) (c sl : Nat) (due : List Nat) :
    s.finishAll c (sl :: due) = (s.finishAll c due).wakeWith c sl fun g => { g with finished := true } := rfl

theorem State.finishAll_rouses {s : State} {c : Nat} (hlog : bit (s.core c).slcfg 0 = false) (due : List Nat) :
    Roused s (s.finishAll c due) c := by
  induction due with
  | nil => exact .refl s c
  | cons sl due ih =>
    rw [State.finishAll_cons]
    exact ih.trans (State.wakeWith_rouses (ih.logOff hlog) sl _)

theorem State.finishAll_thread {s : State} {c sl : Nat} {u : Thread} (hlog : bit (s.core c).slcfg 0 = false)
    (hu : s.thread? c sl = some u) (due : List Nat) : ∃ v, (s.finishAll c due).thread? c sl = some v
      ∧ (sl ∈ due → v.park = none ∧ v.prog.finished = true) := by
  induction due with
  | nil => exact ⟨u, hu, fun h => nomatch h⟩
  | cons sm due ih =>
    obtain ⟨v, hv, hdone⟩ := ih
    have woken := State.wakeWith_thread ((State.finishAll_rouses hlog due).logOff hlog) sm (fun g => { g with finished := true }) sl
    rw [State.finishAll_cons]
    by_cases h : sl = sm
    · subst h
      rw [if_pos rfl, hv] at woken
      exact ⟨v.roused fun g => { g with finished := true }, woken, fun _ => ⟨rfl, rfl⟩⟩
    · rw [if_neg h, hv] at woken
      exact ⟨v, woken, fun hmem => hdone ((List.mem_cons.mp hmem).resolve_left h)⟩

/-! ### Rotation boundaries (R119, R364) -/

/-- The slots whose threads wait in YIELD for a boundary that has come. -/
def State.yieldDue (s : State) (c : Nat) : List Nat :=
  (s.core c).threads.filterMap fun e => match e.2.park with
    | some ⟨.yield n, _, _⟩ => if n ≤ s.clk && !s.halted c e.1 then some e.1 else none
    | _ => none

theorem State.yieldWake_eq (s : State) (c : Nat) : s.yieldWake c = s.finishAll c (s.yieldDue c) := rfl

theorem State.mem_yieldDue {s : State} {c sl n : Nat} {u : Thread} (hu : s.thread? c sl = some u)
    (hp : u.park.map Park.why = some (.yield n)) (hn : n ≤ s.clk) (hdbg : u.dbg = false) (hstop : u.stopped = []) :
    sl ∈ s.yieldDue c := by
  obtain ⟨⟨why, n', since⟩, hpark, hwhy⟩ := Option.map_eq_some_iff.mp hp
  have goes : s.halted c sl = false := by simp [State.halted, hu, Thread.debugHeld, hdbg, hstop]
  refine List.mem_filterMap.mpr ⟨(sl, u), KMap.mem_of_look hu, ?_⟩
  cases hwhy
  simp [hpark, hn, goes]

/-- A boundary that has been performed is noted. -/
def State.boundaryNoted (s : State) (pno c last : Nat) : State :=
  (s.rotateAll pno c).modCore c fun x => { x with lastRot := last }

theorem State.boundaryNoted_core (s : State) (pno c last : Nat) : (s.boundaryNoted pno c last).core c =
    { s.core c with owners := ((s.rotateAll pno c).core c).owners, lastRot := last } := by
  rw [State.boundaryNoted, State.core_modCore_self, (s.rotateAll_moves pno c).core]

theorem State.boundaryNoted_rest (s : State) (pno c last : Nat) :
    s.boundaryNoted pno c last = { s with cores := (s.boundaryNoted pno c last).cores } := by
  show (s.rotateAll pno c).modCore c _ = _
  rw [(s.rotateAll_moves pno c).rest]
  rfl

theorem rotationBoundary_noted {s : State} {c pno : Nat} (hc : s.corePart c = some pno) (hq : Quiet s) {u : State}
    (hu : u = { s with clk := max s.clk (s.boundaryAt c) }) : exec (.rotationBoundary c) s = .next ((u.boundaryNoted pno c
      (if u.rotateAll pno c = u then max (s.boundaryAt c) (u.clk / 32 * 32) else s.boundaryAt c)).yieldWake c) := by
  simp only [exec_rotationBoundary, execRotationBoundary, hc, State.pass_quiet hq, ← hu]
  rfl

/-! ### Displacement and return (R120) -/

/-- A thread's slot is vacated: the core keeps everything but it, the slot's mark and the count towards its sleep. -/
theorem State.vacate_core {s : State} {c sl : Nat} {t : Thread} (ht : s.thread? c sl = some t)
    (hlog : bit (s.core c).slcfg 0 = false) : ∃ owners, (s.vacate c sl).core c =
      { s.core c with threads := (s.core c).threads.del sl, owners := owners, idleSince := max (s.core c).idleSince s.clk } := by
  simp only [State.vacate, ht, noteState_off _ _ _ _ hlog]
  exact ⟨_, State.core_modCore_self ..⟩

/-- A displaced thread's context with the values of its window. -/
def Core.context (x : Core) (t : Thread) : Thread × List Word := ({ t with badRegs := x.poisonedRegs t }, x.window t)

theorem State.displace_leaves {s : State} {c sl : Nat} {t : Thread} (ht : s.thread? c sl = some t)
    (hlog : bit (s.core c).slcfg 0 = false) : (∀ sm, (s.displace c sl).thread? c sm = if sm = sl then none else s.thread? c sm)
      ∧ ((s.displace c sl).core c).displaced = (s.core c).displaced ++ [(s.core c).context t] := by
  obtain ⟨owners, hcore⟩ := State.vacate_core ht hlog
  have hdisplace : s.displace c sl = (s.vacate c sl).modCore c fun x =>
      { x with displaced := x.displaced ++ [(s.core c).context t] } := by
    simp only [State.displace, ht]; rfl
  rw [hdisplace]
  constructor
  · intro sm
    rw [← (State.vacate_leaves hlog).2.1 sm, State.thread?, State.core_modCore_self]
    rfl
  · rw [State.core_modCore_self, hcore]

theorem threadDisplace_displaces {s : State} {c sl : Nat} {u : Thread} (hu : s.thread? c sl = some u)
    (hpass : s.passes c sl u = true) (hidle : u.idle = false) : exec (.threadDisplace c sl) s =
      .next ((if u.park.isSome then s else s.pass u.busy).displace c sl) := by
  simp [exec_threadDisplace, execThreadDisplace, hu, hpass, hidle]

theorem threadDisplace_ends {s : State} {c sl : Nat} {u : Thread} (hu : s.thread? c sl = some u)
    (hpass : s.passes c sl u = true) (hidle : u.idle = true) (hcoming : (s.core c).comingTo sl = none) :
    exec (.threadDisplace c sl) s = .next (s.endThread c sl) := by
  simp [exec_threadDisplace, execThreadDisplace, hu, hpass, hidle, hcoming]

theorem Core.freeSlot_empty {x : Core} {l : Launch} {sl : Nat} (h : x.freeSlot l = some sl) : x.threads.look sl = none := by
  have free : x.freeFor l sl = true := List.find?_some (p := fun sl => x.freeFor l sl) h
  rw [Core.freeFor, Bool.and_eq_true] at free
  exact Option.isNone_iff_eq_none.mp free.1

/-- The least of a list, folded, is one of the list. -/
theorem foldl_min_mem (l : List Nat) : ∀ (m : Option Nat) (b : Nat), l.foldl (fun (m : Option Nat) b => match m with
    | none => some b
    | some a => some (min a b)) m = some b → m = some b ∨ b ∈ l := by
  induction l with
  | nil => exact fun m b h => .inl h
  | cons a l ih =>
    intro m b h
    rcases ih _ _ h with hm | hmem
    · cases m with
      | none => exact .inr (List.mem_cons.mpr (.inl (Option.some.inj hm).symm))
      | some d =>
        have hd : min d a = b := Option.some.inj hm
        rcases Nat.le_total d a with hle | hle
        · exact .inl (by rw [← hd, Nat.min_eq_left hle])
        · exact .inr (List.mem_cons.mpr (.inl (by rw [← hd, Nat.min_eq_right hle])))
    · exact .inr (List.mem_cons_of_mem _ hmem)

theorem Core.firstFit_fits {x : Core} {n b : Nat} (h : x.firstFit n = some b) : b + n ≤ 2048 := by
  rcases foldl_min_mem _ _ _ h with hnone | hmem
  · cases hnone
  · have fits := (List.mem_filter.mp hmem).2
    rw [Core.fits, Bool.and_eq_true] at fits
    exact of_decide_eq_true fits.1

/-- A core with the entries of a window cleared. -/
def Core.clearWindow (x : Core) (t : Thread) : Core := { x with
  regs := x.regs.filter fun e => e.1 < t.base || t.base + t.lim ≤ e.1,
  regPoison := x.regPoison.filter fun e => e < t.base || t.base + t.lim ≤ e }

/-- A core with entries of the register file poisoned. -/
def Core.poisonRegs (x : Core) (l : List Nat) : Core := { x with regPoison := l.foldl insertNat x.regPoison }

theorem Core.setWindow_eq (x : Core) (t : Thread) (ws : List Word) : x.setWindow t ws =
    ((x.clearWindow t).fillWindow t ws t.lim).poisonRegs (t.badRegs.map (t.base + ·)) := rfl

theorem Core.setWindow_greg (x : Core) (t : Thread) (ws : List Word) {i : Nat} (h : i < t.lim) :
    (x.setWindow t ws).greg t i = ws.getD i 0 := Core.fillWindow_greg _ t ws t.lim i h

theorem Core.setWindow_rest (x : Core) (t : Thread) (ws : List Word) : x.setWindow t ws =
    { x with regs := (x.setWindow t ws).regs, regPoison := (x.setWindow t ws).regPoison } := by
  rw [Core.setWindow_eq, Core.fillWindow_rest]
  rfl

theorem Thread.again_keeps (t : Thread) : t.again.pc = t.pc ∧ t.again.preds = t.preds ∧ t.again.lid = t.lid ∧ t.again.sth = t.sth
    ∧ t.again.lim = t.lim := by
  unfold Thread.again
  split <;> exact ⟨rfl, rfl, rfl, rfl, rfl⟩

/-- A displaced thread in its new window. -/
def Thread.seatedAt (t : Thread) (b now : Nat) : Thread := { t.again with base := b, busy := max t.busy now }

theorem State.seat_seats {s w : State} {c sl : Nat} {l : Launch} {u : Thread} {ws : List Word}
    (hlog : bit (s.core c).slcfg 0 = false) (h : s.seat c l u ws = some (sl, w)) : ∃ b, (s.core c).freeSlot l = some sl
      ∧ (s.core c).firstFit u.lim = some b
      ∧ w = s.setCore c { (s.core c).setWindow (u.seatedAt b s.clk) ws with
          threads := (s.core c).threads.put sl { u.seatedAt b s.clk with badRegs := [], savedAt := none } } := by
  unfold State.seat at h
  dsimp only at h
  split at h
  case h_2 => cases h
  case h_1 sm b hfree hfit =>
    obtain ⟨rfl, hw⟩ := Prod.mk.inj (Option.some.inj h)
    have kept := Core.setWindow_rest (s.core c) (u.seatedAt b s.clk) ws
    refine ⟨b, hfree, hfit, ?_⟩
    rw [← hw, noteState_off _ _ _ _ (by rw [State.core_setCore_self]; exact (congrArg (fun x => bit x.slcfg 0) kept).trans hlog)]
    rw [show ((s.core c).threads = ((s.core c).setWindow (u.seatedAt b s.clk) ws).threads) from (congrArg Core.threads kept).symm]
    rfl

theorem displacedResume_resumes {s u : State} {c pno : Nat} (hc : s.corePart c = some pno) (htakes : s.takesFrames c = true)
    (hseat : s.reseat c pno = some u) : exec (.displacedResume c) s = .next (u.resumeSettle c) := by
  simp [exec_displacedResume, execDisplacedResume, hc, htakes, hseat]

/-- Settles O52: a boundary by the moves that it makes and the threads that it wakes, a displacement and a return by what
each leaves of the thread and its window. -/
theorem threadsRotate : Obligations.ThreadsRotate := by
  refine ⟨?boundary, ?displaced, ?ended, ?seated, ?resumed⟩
  case boundary =>
    intro s c pno hc hq u
    generalize hlast : (if u.rotateAll pno c = u then max (s.boundaryAt c) (u.clk / 32 * 32) else s.boundaryAt c) = last
    have noted := u.boundaryNoted_core pno c last
    have hlog : bit ((u.boundaryNoted pno c last).core c).slcfg 0 = false := by rw [noted]; exact hq.logOff c
    have work := State.finishAll_rouses hlog ((u.boundaryNoted pno c last).yieldDue c)
    have hclk : ((u.boundaryNoted pno c last).yieldWake c).clk = u.clk := by
      rw [State.yieldWake_eq, work.rest, u.boundaryNoted_rest]
    refine ⟨(u.boundaryNoted pno c last).yieldWake c, ?_, ?_, hclk, ?_, ?_, ?_, ?_⟩
    · rw [rotationBoundary_noted hc hq rfl, hlast]
    · rw [State.yieldWake_eq, work.core, noted]
    · rw [State.yieldWake_eq, work.core, noted]; rfl
    · rw [State.yieldWake_eq, work.core, noted]; rfl
    · rw [State.yieldWake_eq, work.rest, u.boundaryNoted_rest]
    · intro sl v n hv hpark hn hdbg hstop
      have hthread : (u.boundaryNoted pno c last).thread? c sl = some v := by rw [State.thread?, noted]; exact hv
      rw [State.parkedFor, State.whyOf, hv] at hpark
      obtain ⟨w, hw, hdone⟩ := State.finishAll_thread hlog hthread ((u.boundaryNoted pno c last).yieldDue c)
      have due := hdone (State.mem_yieldDue hthread hpark (by rw [u.boundaryNoted_rest, ← hclk]; exact hn) hdbg hstop)
      rw [State.yieldWake_eq, hw, Option.map_some, due.1, due.2]
  case displaced =>
    intro s c sl u hu hq hpass hidle
    set w := if u.park.isSome then s else s.pass u.busy with hw
    have hcores : w.cores = s.cores := by
      rw [hw, State.pass_quiet hq]; split <;> rfl
    have hlog : bit (w.core c).slcfg 0 = false := by rw [State.core_congr hcores]; exact hq.logOff c
    obtain ⟨hthreads, hdisplaced⟩ := State.displace_leaves (s := w) ((State.thread_congr hcores ..).trans hu) hlog
    rw [State.core_congr hcores] at hdisplaced
    refine ⟨_, ((s.core c).context u).1, threadDisplace_displaces hu hpass hidle, (hthreads sl).trans (if_pos rfl),
      hdisplaced, rfl, rfl, rfl, rfl, rfl, rfl, fun m hm => ?_⟩
    rw [hthreads, if_neg hm, State.thread_congr hcores]
  case ended => exact fun s c sl u hu hpass hidle hcoming => threadDisplace_ends hu hpass hidle hcoming
  case seated =>
    intro s w c sl l u ws hlog hseat
    obtain ⟨b, hfree, hfit, rfl⟩ := State.seat_seats hlog hseat
    obtain ⟨hpc, hpreds, hlid, hsth, hlim⟩ := u.again_keeps
    have hlimit : (u.seatedAt b s.clk).lim = u.lim := hlim
    refine ⟨{ u.seatedAt b s.clk with badRegs := [], savedAt := none }, ?_, Core.freeSlot_empty hfree, hpc, hpreds, hlid, hsth, hlim,
      ?_, fun i hi => ?_, fun m hm => ?_⟩
    · rw [State.thread?, State.core_setCore_self, KMap.look_put_self]
    · show b + (u.seatedAt b s.clk).lim ≤ 2048
      rw [hlimit]
      exact Core.firstFit_fits hfit
    · rw [State.core_setCore_self]
      exact Core.setWindow_greg _ (u.seatedAt b s.clk) ws (by rw [hlimit]; exact hi)
    · rw [State.thread?, State.core_setCore_self, KMap.look_put_ne _ _ hm]
      rfl
  case resumed => exact fun s u c pno hc htakes hseat => displacedResume_resumes hc htakes hseat

end Sys2Proof.Machine
end

section
/-! Clusters, and lists put in order: what a change leaves and what it makes. -/
namespace Sys2Proof.Machine

theorem State.cluster_modCluster (s : State) (c d : Nat) (f : Cluster → Cluster) :
    (s.modCluster c f).cluster d = if d = c then f (s.cluster c) else s.cluster d := KMap.lookD_put ..

@[simp] theorem State.cluster_modCluster_self (s : State) (c : Nat) (f : Cluster → Cluster) :
    (s.modCluster c f).cluster c = f (s.cluster c) := (State.cluster_modCluster ..).trans (if_pos rfl)

theorem State.cluster_modCluster_ne (s : State) {c d : Nat} (f : Cluster → Cluster) (h : d ≠ c) :
    (s.modCluster c f).cluster d = s.cluster d := (State.cluster_modCluster ..).trans (if_neg h)

theorem State.cluster_congr {s t : State} (h : t.clusters = s.clusters) (c : Nat) : t.cluster c = s.cluster c := by
  rw [State.cluster, h]; rfl

theorem State.myCluster_congr {s t : State} (h : t.clusters = s.clusters) (hc : t.cur.core = s.cur.core) :
    t.myCluster = s.myCluster := by
  rw [State.myCluster, hc]; exact State.cluster_congr h _

/-- Changing a work graph changes nothing else of its cluster. -/
theorem State.cluster_modGraph (s : State) (c : Nat) (f : WGraph → WGraph) :
    (s.modGraph c f).cluster c = { s.cluster c with wg := (s.cluster c).wg.map f } := State.cluster_modCluster_self ..

theorem State.wg_modGraph {s : State} {c : Nat} {g : WGraph} (f : WGraph → WGraph) (h : (s.cluster c).wg = some g) :
    ((s.modGraph c f).cluster c).wg = some (f g) := by
  rw [State.cluster_modGraph, h]; rfl

theorem insertBy_length {α : Type} (e : Nat × α) (l : List (Nat × α)) : (insertBy e l).length = l.length + 1 := by
  induction l with
  | nil => rfl
  | cons o l ih =>
    rw [insertBy]
    split
    · rfl
    · rw [List.length_cons, ih, List.length_cons]

theorem sortBy_length {α : Type} (l : List (Nat × α)) : (sortBy l).length = l.length := by
  have grows : ∀ (l acc : List (Nat × α)), (l.foldl (fun acc e => insertBy e acc) acc).length = acc.length + l.length := by
    intro l
    induction l with
    | nil => exact fun acc => rfl
    | cons e l ih => intro acc; rw [List.foldl_cons, ih, insertBy_length, List.length_cons]; omega
  exact (grows l []).trans (Nat.zero_add _)

theorem sortBy_eq_nil {α : Type} {l : List (Nat × α)} : sortBy l = [] ↔ l = [] := by
  rw [← List.length_eq_zero_iff, sortBy_length, List.length_eq_zero_iff]

theorem KMap.mem_put {α : Type} {m : KMap α} {i : Nat} {x : α} {e : Nat × α} (h : e ∈ KMap.put m i x) : e = (i, x) ∨ e ∈ m := by
  induction m with
  | nil => exact .inl (List.mem_singleton.mp h)
  | cons o m ih =>
    obtain ⟨k, v⟩ := o
    rw [KMap.put] at h
    split at h
    · exact List.mem_cons.mp h
    split at h
    · exact (List.mem_cons.mp h).imp_right (List.mem_cons_of_mem _)
    · rcases List.mem_cons.mp h with rfl | h
      · exact .inr List.mem_cons_self
      · exact (ih h).imp_right (List.mem_cons_of_mem _)

end Sys2Proof.Machine
end

section
/-! Work graphs and payload slots as instructions use them (R128 to R130, R429, R430), and the statement about them. -/

namespace Sys2Proof.Machine

/-! ### A thread whose instruction takes its sources and releases -/

/-- What taking sources and releasing leave of a thread. -/
structure StillThread (t u : Thread) : Prop where
  pc : u.pc = t.pc
  lid : u.lid = t.lid
  tag : u.tag = t.tag
  park : u.park = t.park
  handed : u.prog.handed = t.prog.handed

theorem StillThread.refl (t : Thread) : StillThread t t := ⟨rfl, rfl, rfl, rfl, rfl⟩

theorem StillThread.trans {t u v : Thread} (h : StillThread t u) (k : StillThread u v) : StillThread t v :=
  ⟨k.pc.trans h.pc, k.lid.trans h.lid, k.tag.trans h.tag, k.park.trans h.park, k.handed.trans h.handed⟩

/-- A thread whose instruction has read the channels that it pops. -/
def Thread.takes (t : Thread) (l : List (Nat × Word)) : Thread := { t with prog := { t.prog with took := some l } }

theorem StillThread.takes (t : Thread) (l : List (Nat × Word)) : StillThread t (t.takes l) := ⟨rfl, rfl, rfl, rfl, rfl⟩

theorem StillThread.relEnd (t : Thread) : StillThread t t.relEnd := ⟨rfl, rfl, rfl, rfl, rfl⟩

/-- A thread that waits for a record in WGALLOC, with none handed to it. -/
def Thread.awaitsRecord (t : Thread) : Bool :=
  match t.park with
  | some ⟨.wgalloc, _, _⟩ => t.prog.handed.isNone
  | _ => false

theorem StillThread.awaitsRecord {t u : Thread} (h : StillThread t u) : u.awaitsRecord = t.awaitsRecord := by
  rw [Thread.awaitsRecord, h.park, h.handed]; rfl

/-- The threads of a core, in slots, displaced or saved. -/
def Core.everyThread (x : Core) : List Thread := x.threads.map Prod.snd ++ x.displaced.map Prod.fst ++ x.saved

theorem State.allocators_eq_nil {s : State} {cl : Nat} :
    s.allocators cl = [] ↔ ∀ c ∈ clusterCores cl, ∀ t ∈ (s.core c).everyThread, t.awaitsRecord = false := by
  rw [State.allocators, sortBy_eq_nil, List.flatMap_eq_nil_iff]
  refine forall_congr' fun c => imp_congr_right fun _ => List.filterMap_eq_nil_iff.trans ?_
  refine forall_congr' fun t => imp_congr_right fun _ => ?_
  unfold Thread.awaitsRecord
  rcases t.park with _ | ⟨why, n, _⟩
  · exact iff_of_true rfl rfl
  · cases why <;> simp [Option.isSome_iff_ne_none]

/-- Nobody comes to wait for a record by such a change of the issuing thread. -/
theorem State.allocators_modMe {s : State} {cl : Nat} {t : Thread} {f : Thread → Thread} (ht : s.me? = some t)
    (hf : StillThread t (f t)) (h : s.allocators cl = []) : (s.modMe f).allocators cl = [] := by
  rw [State.allocators_eq_nil] at h ⊢
  intro c hc u hu
  rw [State.modMe, State.modThread_some s f ht, State.setThread, State.core_modCore] at hu
  split at hu
  case isFalse => exact h c hc u hu
  case isTrue hcore =>
    subst hcore
    have old : ∀ v ∈ (s.core s.cur.core).everyThread, v.awaitsRecord = false := h _ hc
    simp only [Core.everyThread, List.mem_append, List.mem_map] at hu old
    rcases hu with (⟨e, he, rfl⟩ | hu) | hu
    · rcases KMap.mem_put he with rfl | he
      · exact hf.awaitsRecord.trans (old t (.inl (.inl ⟨_, KMap.mem_of_look ht, rfl⟩)))
      · exact old e.2 (.inl (.inl ⟨e, he, rfl⟩))
    · exact old u (.inl (.inr hu))
    · exact old u (.inr hu)

/-- What an instruction's taking of its sources and its release leave. -/
structure Prepared (s g : State) : Prop where
  work : ThreadWork s g s.cur.core
  thread : ∀ {t}, s.me? = some t → ∃ u, g.me? = some u ∧ StillThread t u
  allocators : ∀ {cl}, (s.me?).isSome → s.allocators cl = [] → g.allocators cl = []

namespace Prepared

theorem refl (s : State) : Prepared s s := ⟨.refl .., fun {t} h => ⟨t, h, .refl t⟩, fun _ h => h⟩

theorem trans {s t u : State} (h : Prepared s t) (k : Prepared t u) : Prepared s u := by
  have work := k.work
  rw [h.work.cur] at work
  refine ⟨h.work.trans work, fun {a} ha => ?_, fun {cl} hs hn => ?_⟩
  · obtain ⟨b, hb, still⟩ := h.thread ha
    obtain ⟨d, hd, further⟩ := k.thread hb
    exact ⟨d, hd, still.trans further⟩
  · obtain ⟨a, ha⟩ := Option.isSome_iff_exists.mp hs
    obtain ⟨b, hb, -⟩ := h.thread ha
    exact k.allocators (by rw [hb]; rfl) (h.allocators hs hn)

theorem modMe {f : Thread → Thread} (hf : ∀ t, StillThread t (f t)) (s : State) : Prepared s (s.modMe f) where
  work := .modThread ..
  thread := fun {t} ht => ⟨f t, State.modMe_some f ht, hf t⟩
  allocators := fun hs hn => by
    obtain ⟨t, ht⟩ := Option.isSome_iff_exists.mp hs
    exact State.allocators_modMe ht (hf t) hn

variable {s g : State} (h : Prepared s g)
include h

theorem clusters : g.clusters = s.clusters := by rw [h.work.rest]
theorem clk : g.clk = s.clk := by rw [h.work.rest]
theorem myCluster : g.myCluster = s.myCluster := State.myCluster_congr h.clusters (by rw [h.work.cur])
theorem myPartNo : g.myPartNo = s.myPartNo := by rw [State.myPartNo, h.work.cur, h.work.corePart]; rfl

theorem logOff (hlog : LogOff s) : LogOff g := by rw [LogOff, h.work.myCore]; exact hlog

theorem me {t : Thread} (ht : s.me? = some t) : ∃ u, g.me? = some u ∧ g.me = u ∧ StillThread t u := by
  obtain ⟨u, hu, still⟩ := h.thread ht
  exact ⟨u, hu, State.me_eq hu, still⟩

end Prepared

theorem State.takeSources_cases (s : State) :
    s.takeSources = s ∨ s.takeSources = s.modMe fun t => t.takes (s.myCore.popped [] s.cur.pops) := by
  unfold State.takeSources
  split
  · exact .inl rfl
  · exact .inr rfl

theorem State.takeSources_prepares (s : State) : Prepared s s.takeSources := by
  rcases s.takeSources_cases with h | h
  · rw [h]; exact .refl s
  · rw [h]; exact .modMe (fun t => .takes t _) s

theorem State.release_takeSources {s : State} {t : Thread} {sc : Scope} (ht : s.me? = some t) (h : ReleaseHolds s sc) :
    ReleaseHolds s.takeSources sc := by
  rcases s.takeSources_cases with e | e
  · rw [e]; exact h
  · have me' : s.takeSources.me = t.takes (s.myCore.popped [] s.cur.pops) := by
      rw [e]; exact State.me_eq (State.modMe_some _ ht)
    have sbuf : s.takeSources.myCore.sbuf = s.myCore.sbuf := by rw [s.takeSources_prepares.work.myCore]
    have me : s.me = t := State.me_eq ht
    rw [ReleaseHolds, me', sbuf]
    rw [ReleaseHolds, me] at h
    exact h

/-- An instruction that takes its sources and has nothing to wait for in its release goes on. -/
theorem State.takeSources_releaseThen {s : State} {t : Thread} {sc : Scope} (k : State → State) (ht : s.me? = some t)
    (h : ReleaseHolds s sc) : ∃ g, s.takeSources.releaseThen sc k = k g ∧ Prepared s g := by
  obtain ⟨u, hu, -⟩ := s.takeSources_prepares.thread ht
  rcases State.release_holds hu (State.release_takeSources ht h) with hr | hr
  · exact ⟨_, State.releaseThen_done hr, s.takeSources_prepares⟩
  · exact ⟨_, State.releaseThen_done hr, s.takeSources_prepares.trans (.modMe .relEnd _)⟩

/-! ### What completion leaves of the cluster -/

theorem State.retire_clusters {s : State} {t : Thread} (ht : s.me? = some t) (h : LogOff s) : s.retire.clusters = s.clusters
    ∧ s.retire.cur = s.cur := by
  rw [State.retire, State.retireTo_off _ ht h]
  refine ⟨?_, State.doPops_cur s⟩
  show s.doPops.clusters = _
  rw [s.doPops_only.rest]

theorem State.retire_myCluster {s : State} {t : Thread} (ht : s.me? = some t) (h : LogOff s) :
    s.retire.myCluster = s.myCluster := by
  obtain ⟨hclusters, hcur⟩ := State.retire_clusters ht h
  exact State.myCluster_congr hclusters (by rw [hcur])

theorem State.acquire_clusters (s : State) (sc : Scope) : (s.acquire sc).clusters = s.clusters ∧ (s.acquire sc).cur = s.cur := by
  unfold State.acquire; split <;> exact ⟨rfl, rfl⟩

/-- An acquire, a result in a g register, and the completion. -/
theorem State.acquire_wr_retire {s : State} {t : Thread} {d : Code} (sc : Scope) (v : Word) (ht : s.me? = some t)
    (hl : LogOff s) (hg : isGCode d = true) : let u := ((s.acquire sc).wr d v).retire
      u.myCore.greg u.me (codeNum d) = v ∧ u.me.pc = t.pc + 8 ∧ u.myCluster = s.myCluster := by
  have ht' : (s.acquire sc).me? = some t := (State.acquire_me? ..).trans ht
  have hl' : LogOff (s.acquire sc) := by rw [LogOff, State.acquire_slcfg]; exact hl
  obtain ⟨hreg, hpc, -⟩ := State.wr_g_retire v ht' hl' hg
  have hme : ((s.acquire sc).wr d v).me? = some t := by rw [wr_g v hg]; exact (State.me?_modCore _ _ rfl).trans ht'
  have hoff : LogOff ((s.acquire sc).wr d v) := by
    rw [LogOff, wr_g v hg]
    show bit (((s.acquire sc).modCore _ _).core (s.acquire sc).cur.core).slcfg 0 = false
    rw [State.core_modCore_self]
    exact hl'
  obtain ⟨hclusters, hcur⟩ := State.acquire_clusters s sc
  refine ⟨hreg, hpc, (State.retire_myCluster hme hoff).trans ?_⟩
  rw [wr_g v hg]
  exact State.myCluster_congr hclusters (by rw [State.modMyCore_cur, hcur])

/-- An instruction that changes no core, and completes. -/
theorem State.retire_unmoved {s q : State} {t : Thread} (hcores : q.cores = s.cores) (hcur : q.cur = s.cur)
    (ht : s.me? = some t) (hl : LogOff s) : q.retire.me.pc = t.pc + 8 ∧ q.retire.myCluster = q.myCluster := by
  have hq : q.me? = some t := by rw [State.me?, hcur, State.thread_congr hcores]; exact ht
  have hoff : LogOff q := by rw [LogOff, State.myCore, hcur, State.core_congr hcores]; exact hl
  exact ⟨by rw [State.retire_me hq hoff]; rfl, State.retire_myCluster hq hoff⟩

/-! ### Work graphs (R128, R429) -/

/-- The graph bound to the issuing thread's cluster is of the thread's launch. -/
structure OwnGraph (s : State) (g : WGraph) : Prop where
  bound : s.myCluster.wg = some g
  lid : g.lid = s.me.lid
  part : g.part = s.myPartNo

theorem OwnGraph.began {s : State} {g : WGraph} (h : OwnGraph s g) (srcs : List Pos) : OwnGraph (began s srcs) g :=
  ⟨h.bound, h.lid, h.part⟩

theorem OwnGraph.withGraph {s : State} {g : WGraph} (h : OwnGraph s g) (k : WGraph → State → State) : s.withGraph k = k g s := by
  simp only [State.withGraph, h.bound, h.lid, h.part, decide_true, Bool.and_self, if_true]

theorem WGraph.launchDue_waits {g : WGraph} {now k : Nat} {n : WgNode} (hn : g.nodes[k]? = some n)
    (h : n.pend = [] ∨ now ≤ n.t0 + n.t) : g.launchDue now k = g := by
  simp only [WGraph.launchDue, hn]
  refine if_neg fun due => ?_
  simp only [Bool.and_eq_true, decide_eq_true_eq] at due
  rcases h with h | h
  · exact due.1 h
  · exact absurd due.2 (Nat.not_lt.mpr h)

theorem WGraph.modNode_get (g : WGraph) (k : Nat) (f : WgNode → WgNode) (j : Nat) :
    (g.modNode k f).nodes[j]? = if j = k then (g.nodes[j]?).map f else g.nodes[j]? := by
  rw [WGraph.modNode, List.getElem?_mapIdx]
  by_cases h : j = k
  · subst h; simp
  · simp [h]

/-- A node with a record added to its pending batch. -/
def WgNode.added (n : WgNode) (now r : Nat) : WgNode :=
  { n with t0 := if n.pend = [] then now else n.t0, pend := n.pend ++ [r] }

/-- A graph with an allocated record emitted to a node's pending batch (R128). -/
def WGraph.emitted (g : WGraph) (now k r : Nat) : WGraph :=
  ({ g with alloc := g.alloc.del r } : WGraph).modNode k fun n => n.added now r

/-- As WGEMIT leaves it: a batch that is full launches. -/
def WGraph.emitLaunched (g : WGraph) (now k r : Nat) : WGraph :=
  match (g.emitted now k r).nodes[k]? with
  | some n => if n.b ≤ n.pend.length then (g.emitted now k r).launchBatch k else g.emitted now k r
  | none => g.emitted now k r

theorem WGraph.emitLaunched_room {g : WGraph} {now k r : Nat} {n : WgNode} (hn : g.nodes[k]? = some n)
    (hroom : n.pend.length + 1 < n.b) : g.emitLaunched now k r = g.emitted now k r := by
  have added : (g.emitted now k r).nodes[k]? = some (n.added now r) := by
    rw [WGraph.emitted, WGraph.modNode_get, if_pos rfl]; exact congrArg _ hn
  simp only [WGraph.emitLaunched, added]
  refine if_neg (Nat.not_le.mpr ?_)
  show (n.pend ++ [r]).length < n.b
  simpa using hroom

/-- A record goes to the pending batch of a node, which counts as a frame when the batch was empty (R128, R113). -/
def State.emitRecord (s : State) (g : WGraph) (k r : Nat) : State :=
  let q := s.modGraph (clusterOf s.cur.core) fun _ => g
  let fresh := (g.nodes[k]?.map WgNode.pend).getD [] = []
  let q := if fresh then q.countFrame g.part g.lid s.cur.core 1 else q
  q.modGraph (clusterOf s.cur.core) fun h => h.emitLaunched q.clk k r

/-- A record emitted changes the cluster's graph and the launch's count. -/
theorem State.emitRecord_unmoved (s : State) (g : WGraph) (k r : Nat) :
    (s.emitRecord g k r).cores = s.cores ∧ (s.emitRecord g k r).cur = s.cur := by
  unfold State.emitRecord
  dsimp only
  split
  · exact ⟨State.countFrame_cores .., (State.countFrame_work _ _ _ _ _ 0).cur⟩
  · exact ⟨rfl, rfl⟩

theorem State.emitRecord_wg {s : State} {g : WGraph} (k r : Nat) (h : s.myCluster.wg = some g) :
    (s.emitRecord g k r).myCluster.wg = some (g.emitLaunched s.clk k r) := by
  have given := State.wg_modGraph (fun _ => g) h
  rw [State.myCluster, (s.emitRecord_unmoved g k r).2]
  unfold State.emitRecord
  dsimp only
  split
  · have rest := (State.countFrame_work (s.modGraph (clusterOf s.cur.core) fun _ => g) g.part g.lid s.cur.core 1 0).rest
    rw [State.wg_modGraph (g := g) _ (by rw [State.cluster_congr (by rw [rest])]; exact given), rest]
    rfl
  · exact State.wg_modGraph _ given

/-- A graph whose record is free. -/
def WGraph.freed (g : WGraph) (r : Nat) : WGraph :=
  { g with alloc := g.alloc.del r,
           batches := (g.batches.map fun (b : Batch) => { b with live := b.live.filter (· ≠ r) }).filter fun b => b.live ≠ [] }

theorem WGraph.freed_batches (g : WGraph) (r : Nat) : ∀ x ∈ (g.freed r).batches, r ∉ x.live := by
  intro x hx hr
  obtain ⟨b, -, rfl⟩ := List.mem_map.mp (List.mem_filter.mp hx).1
  simpa using (List.mem_filter.mp hr).2

theorem State.freeRecord_unawaited {s : State} {cl : Nat} (r : Nat) (h : s.allocators cl = []) :
    s.freeRecord cl r = s.modGraph cl fun g => g.freed r := by
  have none' : (s.modGraph cl fun g => g.freed r).allocators cl = [] := h
  unfold State.freeRecord
  change (match (s.modGraph cl fun g => g.freed r).allocators cl, ((s.modGraph cl fun g => g.freed r).cluster cl).wg with
    | (_, c, sth) :: _, some g => _
    | _, _ => s.modGraph cl fun g => g.freed r) = _
  rw [none']

section
variable {s : State} {p : Pred} {d a b : Code} {g : WGraph} (hlog : LogOff s) (hgraph : OwnGraph s g)
include hgraph

theorem wgalloc_noNode (hi : Issues s p (some (rg d)) [rg a]) (hk : g.nodes.length ≤ (s.operand [a] 0).toNat) :
    exec (.wgalloc p d a) s = .next ((began s [rg a]).trap .prot (s.operand [a] 0)) := by
  rw [exec_wgalloc, execWgalloc, issue_goes hi]
  simp only [began_operand, (hgraph.began _).withGraph]
  rw [if_pos hk]

section
variable (hi : Issues s p (some (rg d)) [rg a]) (hh : s.me.prog.handed = none)
  (hk : (s.operand [a] 0).toNat < g.nodes.length)
include hlog hi hh hk

theorem wgalloc_allocates {r : Nat} (hfree : g.freeRec = some r) (hg : isGCode d = true) :
    ∃ t, exec (.wgalloc p d a) s = .next t ∧ t.myCore.greg t.me (codeNum d) = g.recAddr r ∧ t.me.pc = s.me.pc + 8
      ∧ t.myCluster.wg = some { g with alloc := g.alloc.put r (s.operand [a] 0).toNat } := by
  have allocates : exec (.wgalloc p d a) s = .next ((began s [rg a]).takeRecord d r (s.operand [a] 0).toNat (g.recAddr r)) := by
    rw [exec_wgalloc, execWgalloc, issue_goes hi]
    simp only [began_operand, (hgraph.began _).withGraph, began_me, hh, hfree]
    rw [if_neg (Nat.not_le.mpr hk)]
  set u := (began s [rg a]).modGraph (clusterOf s.cur.core) fun g => { g with alloc := g.alloc.put r (s.operand [a] 0).toNat }
  have hu : u.me? = some s.me := State.me?_of_issues hi
  obtain ⟨hreg, hpc, hcluster⟩ := State.acquire_wr_retire (s := u) .clus (g.recAddr r) hu hlog hg
  refine ⟨_, allocates, hreg, hpc, ?_⟩
  exact (congrArg Cluster.wg hcluster).trans (State.wg_modGraph (s := began s [rg a]) _ hgraph.bound)

theorem wgalloc_parks (hfree : g.freeRec = none) : ∃ t, exec (.wgalloc p d a) s = .next t ∧ t.me.pc = s.me.pc
    ∧ t.me.park.map Park.why = some .wgalloc := by
  have parks : exec (.wgalloc p d a) s = .next ((began s [rg a]).takeSources.parkMe .wgalloc) := by
    rw [exec_wgalloc, execWgalloc, issue_goes hi]
    simp only [began_operand, (hgraph.began _).withGraph, began_me, hh, hfree]
    rw [if_neg (Nat.not_le.mpr hk)]
  have prepared := (began s [rg a]).takeSources_prepares
  obtain ⟨u, hu, still⟩ := prepared.thread (State.me?_of_issues hi)
  obtain ⟨hpc, hpark⟩ := State.parkMe_me .wgalloc hu (prepared.logOff hlog)
  exact ⟨_, parks, hpc.trans still.pc, hpark⟩

end

section
variable (hi : Issues s p none [rg a, rg b]) (hrel : ReleaseHolds s .clus)
include hlog hi hrel

theorem wgemit_adds {r : Nat} {n : WgNode} (hn : g.nodes[(s.operand [a, b] 1).toNat]? = some n)
    (hr : g.recOf (s.operand [a, b] 0) = some r) (halloc : g.alloc.look r = some (s.operand [a, b] 1).toNat)
    (hroom : n.pend.length + 1 < n.b) (hdue : n.pend = [] ∨ s.clk ≤ n.t0 + n.t) :
    ∃ t, exec (.wgemit p a b) s = .next t ∧ t.me.pc = s.me.pc + 8
      ∧ t.myCluster.wg = some (g.emitted s.clk (s.operand [a, b] 1).toNat r) := by
  have emits : exec (.wgemit p a b) s = .next ((began s [rg a, rg b]).takeSources.releaseThen .clus fun q =>
      (q.emitRecord (g.launchDue q.clk (s.operand [a, b] 1).toNat) (s.operand [a, b] 1).toNat r).retire) := by
    rw [exec_wgemit, execWgemit, issue_goes hi]
    simp only [began_operand, (hgraph.began _).withGraph, hr]
    rw [if_neg (Nat.not_le.mpr (List.getElem?_eq_some_iff.mp hn).1), if_neg (fun h => h halloc)]
    rfl
  obtain ⟨q, hq, prepared⟩ := State.takeSources_releaseThen (s := began s [rg a, rg b]) _ (State.me?_of_issues hi) hrel
  obtain ⟨u, hu, -, still⟩ := prepared.me (State.me?_of_issues hi)
  have hclk : q.clk = s.clk := prepared.clk
  have hwaits : g.launchDue q.clk (s.operand [a, b] 1).toNat = g := WGraph.launchDue_waits hn (hclk ▸ hdue)
  obtain ⟨hcores, hcur⟩ := q.emitRecord_unmoved g (s.operand [a, b] 1).toNat r
  obtain ⟨hpc, hcluster⟩ := State.retire_unmoved hcores hcur hu (prepared.logOff hlog)
  refine ⟨_, emits.trans (congrArg _ hq), ?_⟩
  rw [hwaits, hpc, hcluster, State.emitRecord_wg _ _ ((congrArg Cluster.wg prepared.myCluster).trans hgraph.bound), hclk,
    WGraph.emitLaunched_room hn hroom, still.pc]
  exact ⟨rfl, rfl⟩

end

theorem wgtake_answers {t : Batch} {r : Nat} (hi : Issues s p (some (rg d)) [rg a, rg b])
    (ht : (g.batches.find? fun x => x.handle = (s.operand [a, b] 0).toNat) = some t)
    (hr : t.recs[(s.operand [a, b] 1).toNat]? = some r) :
    exec (.wgtake p d a b) s = .next (wrote s [rg a, rg b] d (g.recAddr r)) := by
  rw [exec_wgtake, execWgtake, issue_goes hi]
  simp only [began_operand, (hgraph.began _).withGraph, ht, hr]
  rfl

section
variable (hi : Issues s p none [rg a])
include hi

theorem wgfree_noRecord (hr : g.recOf (s.operand [a] 0) = none) :
    exec (.wgfree p a) s = .next ((began s [rg a]).trap .prot (s.operand [a] 0)) := by
  rw [exec_wgfree, execWgfree, issue_goes hi]
  simp only [began_operand, (hgraph.began _).withGraph, hr]

include hlog

theorem wgfree_frees {r : Nat} (hrel : ReleaseHolds s .clus) (hr : g.recOf (s.operand [a] 0) = some r)
    (hfreeable : g.freeable r = true) (hnone : s.allocators (clusterOf s.cur.core) = []) :
    ∃ t, exec (.wgfree p a) s = .next t ∧ t.me.pc = s.me.pc + 8 ∧ t.myCluster.wg = some (g.freed r) := by
  have frees : exec (.wgfree p a) s = .next ((began s [rg a]).takeSources.releaseThen .clus fun q =>
      (q.freeRecord (clusterOf q.cur.core) r).retire) := by
    rw [exec_wgfree, execWgfree, issue_goes hi]
    simp only [began_operand, (hgraph.began _).withGraph, hr, hfreeable, Bool.not_true, Bool.false_eq_true, if_false]
  obtain ⟨q, hq, prepared⟩ := State.takeSources_releaseThen (s := began s [rg a]) _ (State.me?_of_issues hi) hrel
  obtain ⟨u, hu, -, still⟩ := prepared.me (State.me?_of_issues hi)
  have hcore : q.cur.core = s.cur.core := by rw [prepared.work.cur]; rfl
  have unawaited : q.allocators (clusterOf q.cur.core) = [] := by
    rw [hcore]; exact prepared.allocators (Option.isSome_of_eq_some (State.me?_of_issues hi)) hnone
  have hwg : q.myCluster.wg = some g := (congrArg Cluster.wg prepared.myCluster).trans hgraph.bound
  obtain ⟨hpc, hcluster⟩ := State.retire_unmoved (q := q.modGraph (clusterOf q.cur.core) fun g => g.freed r) rfl rfl hu
    (prepared.logOff hlog)
  refine ⟨_, frees.trans (congrArg _ hq), ?_⟩
  rw [State.freeRecord_unawaited r unawaited, hpc, hcluster, still.pc]
  exact ⟨rfl, State.wg_modGraph _ hwg⟩

end
end

/-! ### Payload slots (R129, R130, R430) -/

section
variable {s : State} {p : Pred} {d : Code}

theorem paya_unbound (hi : Issues s p (some (rg d)) []) (hb : s.myCluster.payb = 0) :
    exec (.paya p d) s = .next ((began s []).trap .prot 0) := by
  rw [exec_paya, execPaya, issue_goes hi]
  exact congrArg _ (if_pos hb)

section
variable (hlog : LogOff s) (hh : s.me.prog.handed = none) (hi : Issues s p (some (rg d)) []) (hb : s.myCluster.payb ≠ 0)
include hlog hh hi hb

theorem paya_allocates {n : Nat} (hfree : s.myCluster.freePay = some n)
    (hnone : s.payWaiters (clusterOf s.cur.core) = []) (hg : isGCode d = true) :
    ∃ t, exec (.paya p d) s = .next t ∧ t.me.pc = s.me.pc + 8 ∧ t.myCore.greg t.me (codeNum d) = s.myCluster.payAddr n
      ∧ t.myCluster.pays.look n = some ⟨1, s.me.lid, s.myPartNo, 0, 0, 0, 0, 0⟩ := by
  set held := (began s []).holdPay (clusterOf s.cur.core) n s.me.lid s.myPartNo with hheld
  have allocates : exec (.paya p d) s = .next ((held.acquire .clus).wr d (s.myCluster.payAddr n)).retire := by
    have unbegun : (began s []).myCluster = s.myCluster ∧ (began s []).payWaiters (clusterOf s.cur.core) = [] := ⟨rfl, hnone⟩
    obtain ⟨hmine, hwaiters⟩ := unbegun
    rw [exec_paya, execPaya, issue_goes hi]
    simp only [hmine, hb, began_me, hh, hfree, if_false]
    rw [show (began s []).cur.core = s.cur.core from rfl, hwaiters]
    rfl
  have hu : held.me? = some s.me := State.me?_of_issues hi
  obtain ⟨hreg, hpc, hcluster⟩ := State.acquire_wr_retire .clus (s.myCluster.payAddr n) hu hlog hg
  refine ⟨_, allocates, hpc, hreg, ?_⟩
  rw [hcluster, hheld, State.holdPay]
  show (((began s []).modCluster _ _).cluster (clusterOf s.cur.core)).pays.look n = _
  rw [State.cluster_modCluster_self]
  exact (KMap.look_put ..).trans (if_pos rfl)

theorem paya_parks (hfree : s.myCluster.freePay = none) : ∃ t, exec (.paya p d) s = .next t ∧ t.me.pc = s.me.pc
    ∧ t.me.park.map Park.why = some .paya := by
  have parks : exec (.paya p d) s = .next ((began s []).parkMe .paya) := by
    have hmine : (began s []).myCluster = s.myCluster := rfl
    rw [exec_paya, execPaya, issue_goes hi]
    simp only [hmine, hb, began_me, hh, hfree, if_false]
  exact ⟨_, parks, State.parkMe_me .paya (State.me?_of_issues hi) hlog⟩

end
end

/-- The payload slot that a thread publishes. -/
def Thread.publishes (t : Thread) (part : Nat) (entry : Word) (n : Nat) : PaySlot := ⟨2, t.lid, part, entry, n, 0, 0, t.tag⟩

/-- The issuing thread publishes a payload slot of its cluster. -/
def State.publish (s : State) (sl : Nat) (entry : Word) (n : Nat) : State :=
  let q := s.countFrame s.myPartNo s.me.lid s.cur.core n
  q.modMyCluster fun x => { x with pays := x.pays.put sl (s.me.publishes q.myPartNo entry n) }

theorem State.publish_unmoved (s : State) (sl : Nat) (entry : Word) (n : Nat) :
    (s.publish sl entry n).cores = s.cores ∧ (s.publish sl entry n).cur = s.cur :=
  ⟨State.countFrame_cores .., (State.countFrame_work s _ _ _ _ 0).cur⟩

theorem State.publish_pays (s : State) (sl : Nat) (entry : Word) (n : Nat) :
    (s.publish sl entry n).myCluster.pays.look sl = some (s.me.publishes s.myPartNo entry n) := by
  have work := State.countFrame_work s s.myPartNo s.me.lid s.cur.core n 0
  have hpart : (s.countFrame s.myPartNo s.me.lid s.cur.core n).myPartNo = s.myPartNo := by
    rw [State.myPartNo, work.cur, work.corePart]; rfl
  rw [State.myCluster, (s.publish_unmoved sl entry n).2, State.publish, State.modMyCluster, work.cur,
    State.cluster_modCluster_self, hpart]
  exact (KMap.look_put ..).trans (if_pos rfl)

section
variable {s : State} {p : Pred} {a b c : Code} (hi : Issues s p none [rg a, rg b, rg c])
include hi

theorem payp_unbound (hb : s.myCluster.payb = 0) : exec (.payp p a b c) s = .next ((began s [rg a, rg b, rg c]).trap .prot 0) := by
  rw [exec_payp, execPayp, issue_goes hi]
  exact congrArg _ (if_pos hb)

variable {sl : Nat} (hb : s.myCluster.payb ≠ 0)
  (hheld : s.myCluster.heldPay (s.operand [a, b, c] 0) s.me.lid s.myPartNo = some sl)
include hb hheld

theorem payp_badCount (hn : (s.operand [a, b, c] 2).toNat = 0 ∨ 256 < (s.operand [a, b, c] 2).toNat) :
    exec (.payp p a b c) s = .next ((began s [rg a, rg b, rg c]).trap .prot (s.operand [a, b, c] 2)) := by
  have unbegun : (began s [rg a, rg b, rg c]).myCluster = s.myCluster ∧ (began s [rg a, rg b, rg c]).myPartNo = s.myPartNo :=
    ⟨rfl, rfl⟩
  obtain ⟨hmine, hpart⟩ := unbegun
  rw [exec_payp, execPayp, issue_goes hi]
  simp only [began_operand, began_me, hmine, hpart, hb, hheld, if_false]
  exact congrArg _ (if_pos (by simpa using hn))

/-- A published slot of the issuing thread's cluster, whose frames are counted (R130). -/
theorem payp_publishes (hlog : LogOff s) (hrel : ReleaseHolds s .clus) (h0 : 1 ≤ (s.operand [a, b, c] 2).toNat)
    (h256 : (s.operand [a, b, c] 2).toNat ≤ 256) : ∃ t, exec (.payp p a b c) s = .next t ∧ t.me.pc = s.me.pc + 8
      ∧ t.myCluster.pays.look sl
        = some (s.me.publishes s.myPartNo (s.operand [a, b, c] 1) (s.operand [a, b, c] 2).toNat) := by
  have unbegun : (began s [rg a, rg b, rg c]).myCluster = s.myCluster ∧ (began s [rg a, rg b, rg c]).myPartNo = s.myPartNo :=
    ⟨rfl, rfl⟩
  obtain ⟨hmine, hpart⟩ := unbegun
  have publishes : exec (.payp p a b c) s = .next ((began s [rg a, rg b, rg c]).takeSources.releaseThen .clus fun q =>
      (q.publish sl (s.operand [a, b, c] 1) (s.operand [a, b, c] 2).toNat).retire) := by
    rw [exec_payp, execPayp, issue_goes hi]
    simp only [began_operand, began_me, hmine, hpart, hb, hheld, if_false]
    exact congrArg _ (if_neg (by simp; omega))
  obtain ⟨q, hq, prepared⟩ := State.takeSources_releaseThen (s := began s [rg a, rg b, rg c]) _ (State.me?_of_issues hi) hrel
  obtain ⟨u, hu, hme, still⟩ := prepared.me (State.me?_of_issues hi)
  have hpartq : q.myPartNo = s.myPartNo := prepared.myPartNo
  obtain ⟨hcores, hcur⟩ := q.publish_unmoved sl (s.operand [a, b, c] 1) (s.operand [a, b, c] 2).toNat
  obtain ⟨hpc, hcluster⟩ := State.retire_unmoved hcores hcur hu (prepared.logOff hlog)
  refine ⟨_, publishes.trans (congrArg _ hq), ?_⟩
  rw [hpc, hcluster, still.pc, State.publish_pays, hpartq, hme]
  exact ⟨rfl, by rw [Thread.publishes, still.lid, still.tag]; rfl⟩

end

/-! ### The statement -/

/-- Settles O35: an instruction of a graph or a payload slot changes its cluster's record of it once its release is done, and
completes. -/
theorem workGraphsAndPayloads : Obligations.WorkGraphsAndPayloads := by
  unfold Obligations.WorkGraphsAndPayloads
  refine ⟨fun s p d a b g hlog hwg hlid hpart hh => ?_, fun s p d a b c hlog hh => ⟨fun hi => ?_, fun hi => ?_⟩⟩
  · have hgraph : OwnGraph s g := ⟨hwg, hlid, hpart⟩
    refine ⟨fun hi => ⟨wgalloc_noNode hgraph hi, fun r hk hfree hg => wgalloc_allocates hlog hgraph hi hh hk hfree hg,
      fun hk hfree => wgalloc_parks hlog hgraph hi hh hk hfree⟩, fun r n hi hrel hn hr halloc hroom hdue => ?_,
      fun t r hi ht hr => wgtake_answers hgraph hi ht hr, fun r hi hrel hr hfreeable hnone => ?_,
      fun hi hr => wgfree_noRecord hgraph hi hr⟩
    · obtain ⟨t, ht, hpc, hemitted⟩ := wgemit_adds hlog hgraph hi hrel hn hr halloc hroom hdue
      exact ⟨t, _, ht, hpc, hemitted, rfl, by rw [WGraph.emitted, WGraph.modNode_get, if_pos rfl, hn]; rfl,
        fun j hj => (WGraph.modNode_get ..).trans (if_neg hj)⟩
    · obtain ⟨t, ht, hpc, hfreed⟩ := wgfree_frees hlog hgraph hi hrel hr hfreeable hnone
      exact ⟨t, _, ht, hpc, hfreed, rfl, g.freed_batches r⟩
  · refine ⟨paya_unbound hi, fun n hb hfree hnone hg => ?_, paya_parks hlog hh hi⟩
    obtain ⟨t, ht, hpc, hreg, hpays⟩ := paya_allocates hlog hh hi hb hfree hnone hg
    exact ⟨t, ht, hpc, hreg, by rw [hpays]; rfl⟩
  · refine ⟨payp_unbound hi, fun sl hb hheld => ⟨payp_badCount hi hb hheld, fun h0 h256 hrel => ?_⟩⟩
    obtain ⟨t, ht, hpc, hpays⟩ := payp_publishes hi hb hheld hlog hrel h0 h256
    exact ⟨t, _, ht, hpc, hpays, rfl, rfl, rfl, rfl, rfl⟩

end Sys2Proof.Machine
end

section
/-! Dispensers, work graphs, payload frames and bound channels (R123 to R130, R152 to R155), and the statement about them. -/

namespace Sys2Proof.Machine

/-! ### A cluster alone changes -/

/-- Nothing changes of the cores, nor of any other cluster. -/
structure OnlyCluster (s t : State) (cl : Nat) : Prop where
  cores : t.cores = s.cores
  other : ∀ m, m ≠ cl → t.cluster m = s.cluster m

theorem OnlyCluster.trans {s t u : State} {cl : Nat} (h : OnlyCluster s t cl) (k : OnlyCluster t u cl) : OnlyCluster s u cl :=
  ⟨k.cores.trans h.cores, fun m hm => (k.other m hm).trans (h.other m hm)⟩

theorem OnlyCluster.modCluster (s : State) (cl : Nat) (f : Cluster → Cluster) : OnlyCluster s (s.modCluster cl f) cl :=
  ⟨rfl, fun _ hm => State.cluster_modCluster_ne s f hm⟩

theorem State.cluster_countFrame (s : State) (pno lid c : Nat) (d : Int) (m : Nat) :
    (s.countFrame pno lid c d).cluster m = s.cluster m :=
  State.cluster_congr (by rw [(State.countFrame_work s pno lid c d 0).rest]) m

theorem OnlyCluster.countFrame (s : State) (cl pno lid c : Nat) (d : Int) : OnlyCluster s (s.countFrame pno lid c d) cl :=
  ⟨State.countFrame_cores .., fun _ _ => State.cluster_countFrame ..⟩

theorem State.cluster_modThread (s : State) (c sl : Nat) (f : Thread → Thread) (m : Nat) :
    (s.modThread c sl f).cluster m = s.cluster m :=
  State.cluster_congr (by rw [(ThreadWork.modThread s c sl f).rest]) m

theorem State.atKer_ker {s : State} {c sl : Nat} {u : Thread} (hu : s.thread? c sl = some u) (hpl : 1 ≤ u.pl)
    (f : State → State) : s.atKer c sl f = .next (f s) := by
  simp only [State.atKer, hu, if_pos hpl]

/-! ### The dispenser (R123 to R125) -/

@[simp] theorem State.disp_modDisp (s : State) (cl : Nat) (f : Disp → Disp) :
    ((s.modDisp cl f).cluster cl).disp = f (s.cluster cl).disp := congrArg Cluster.disp (State.cluster_modCluster_self ..)

/-- A dispenser that has unbound (R124). -/
def Disp.unbound (d : Disp) : Disp := { d with en := false, closing := false, lid := 0, parked := none }

theorem State.dispUnbind_bound {s : State} {cl : Nat} (h : (s.cluster cl).disp.en = true) :
    OnlyCluster s (s.dispUnbind cl) cl ∧ ((s.dispUnbind cl).cluster cl).disp = (s.cluster cl).disp.unbound := by
  simp only [State.dispUnbind, h, Bool.not_true, Bool.false_eq_true, if_false]
  refine ⟨(OnlyCluster.countFrame ..).trans (.modCluster ..), (State.disp_modDisp ..).trans ?_⟩
  rw [State.cluster_countFrame]
  rfl

section
variable {s : State} {c sl pno : Nat} {v : Word} {u : Thread} (hu : s.thread? c sl = some u) (hpart : s.corePart c = some pno)
include hu hpart

/-- A dispenser bound to the launch of the thread that writes DRCFG: its ring is empty. -/
def Disp.boundTo (d : Disp) (sz : Nat) (u : Thread) (pno : Nat) : Disp :=
  { d with log2sz := sz, en := true, closing := false, lid := u.lid, part := pno, head := 0, tail := 0, tag := u.tag, parked := none }

theorem State.drcfgWrite_binds (hset : bit v.toNat 0 = true) (hen : (s.cluster (clusterOf c)).disp.en = false)
    (h4 : 4 ≤ bits v.toNat 12 8) (h12 : bits v.toNat 12 8 ≤ 12)
    (hbase : (s.cluster (clusterOf c)).disp.base.toNat % (64 * 2 ^ bits v.toNat 12 8) = 0) :
    s.drcfgWrite c sl v
      = (s.countFrame pno u.lid c 1).modDisp (clusterOf c) fun d => d.boundTo (bits v.toNat 12 8) u pno := by
  have fits : ¬ (bits v.toNat 12 8 < 4 || 12 < bits v.toNat 12 8
      || (s.cluster (clusterOf c)).disp.base.toNat % (64 * 2 ^ bits v.toNat 12 8) ≠ 0) = true := by
    simp only [hbase, Bool.or_eq_true, decide_eq_true_eq]; omega
  simp only [State.drcfgWrite, hu, hpart, hen, hset, Bool.false_eq_true, if_false, if_true]
  exact if_neg fits

theorem State.drcfgWrite_clears (hclear : bit v.toNat 0 = false) (hen : (s.cluster (clusterOf c)).disp.en = true) :
    s.drcfgWrite c sl v = if (s.cluster (clusterOf c)).disp.head = (s.cluster (clusterOf c)).disp.tail
      then s.dispUnbind (clusterOf c) else s.modDisp (clusterOf c) fun d => { d with closing := true } := by
  simp only [State.drcfgWrite, hu, hpart, hen, hclear, Bool.false_eq_true, if_false, if_true]

variable (hpl : 1 ≤ u.pl)
include hpl

theorem drcfgBind_binds (hset : bit v.toNat 0 = true) (hen : (s.cluster (clusterOf c)).disp.en = false)
    (h4 : 4 ≤ bits v.toNat 12 8) (h12 : bits v.toNat 12 8 ≤ 12)
    (hbase : (s.cluster (clusterOf c)).disp.base.toNat % (64 * 2 ^ bits v.toNat 12 8) = 0) :
    ∃ t, exec (.drcfgBind c sl v) s = .next t ∧ OnlyCluster s t (clusterOf c)
      ∧ (t.cluster (clusterOf c)).disp = (s.cluster (clusterOf c)).disp.boundTo (bits v.toNat 12 8) u pno := by
  have binds := State.drcfgWrite_binds hu hpart hset hen h4 h12 hbase
  refine ⟨s.drcfgWrite c sl v, ?_, ?_, ?_⟩
  · rw [exec_drcfgBind, execDrcfgBind, if_pos (by rw [hset, hen]; rfl), State.atKer_ker hu hpl]
  · rw [binds]; exact (OnlyCluster.countFrame ..).trans (.modCluster ..)
  · rw [binds, State.disp_modDisp, State.cluster_countFrame]

omit hpart in
theorem drcfgUnbind_writes (hclear : bit v.toNat 0 = false) : exec (.drcfgUnbind c sl v) s = .next (s.drcfgWrite c sl v) := by
  rw [exec_drcfgUnbind, execDrcfgUnbind, if_pos (by rw [hclear]; rfl), State.atKer_ker hu hpl]

end

/-- A register write that is a release, by a thread with nothing to wait for: what precedes its effect changes threads alone. -/
theorem State.releasedWrite_holds {s : State} {c sl : Nat} {sc : Scope} {u : Thread} (hu : s.thread? c sl = some u)
    (h : ReleaseHolds (s.asThread c sl) sc) : ∃ w, w.clusters = s.clusters ∧ ∀ k, s.releasedWrite c sl sc k =
      .next ((k w).modThread c sl fun t => { t with prog := { t.prog with released := false } }) := by
  have ht : (s.asThread c sl).me? = some u := hu
  rcases State.release_holds ht h with hr | hr
  · exact ⟨s.asThread c sl, rfl, fun k => by simp only [State.releasedWrite, hu, hr]⟩
  · refine ⟨(s.asThread c sl).modMe Thread.relEnd, ?_, fun k => by simp only [State.releasedWrite, hu, hr]⟩
    have work : ThreadWork (s.asThread c sl) ((s.asThread c sl).modMe Thread.relEnd) c := .modThread ..
    rw [work.rest]
    rfl

theorem State.dtailEffect_disp {s : State} {cl : Nat} {v : Word} (hen : (s.cluster cl).disp.en = true)
    (hfits : (v.toNat % 2 ^ 32 + 2 ^ 32 - (s.cluster cl).disp.head) % 2 ^ 32 ≤ 2 ^ (s.cluster cl).disp.log2sz) :
    ((s.dtailEffect cl v).cluster cl).disp = { (s.cluster cl).disp with tail := v.toNat % 2 ^ 32 } := by
  rw [State.dtailEffect, State.disp_modDisp]
  exact if_pos (by rw [hen, decide_eq_true hfits]; rfl)

/-- TAIL moves within the ring, and ends a dispenser that was closing when nothing is left in it (R124). -/
theorem dtailWrite_moves {s : State} {c sl : Nat} {v : Word} {u : Thread} (hu : s.thread? c sl = some u)
    (h : ReleaseHolds (s.asThread c sl) .pkg) (hen : (s.cluster (clusterOf c)).disp.en = true)
    (hfits : (v.toNat % 2 ^ 32 + 2 ^ 32 - (s.cluster (clusterOf c)).disp.head) % 2 ^ 32
      ≤ 2 ^ (s.cluster (clusterOf c)).disp.log2sz) : ∃ t, exec (.dtailWrite c sl v) s = .next t
        ∧ ((s.cluster (clusterOf c)).disp.closing = false
          → (t.cluster (clusterOf c)).disp = { (s.cluster (clusterOf c)).disp with tail := v.toNat % 2 ^ 32 })
        ∧ ((s.cluster (clusterOf c)).disp.closing = true → (s.cluster (clusterOf c)).disp.head = v.toNat % 2 ^ 32
          → (t.cluster (clusterOf c)).disp.en = false) := by
  obtain ⟨w, hw, now⟩ := State.releasedWrite_holds hu h
  have same := State.cluster_congr hw (clusterOf c)
  rw [← same] at hen hfits ⊢
  have moved := State.dtailEffect_disp hen hfits
  refine ⟨_, (exec_dtailWrite c sl v s).trans (now _), fun hopen => ?_, fun hclosing hempty => ?_⟩
  · rw [State.cluster_modThread, State.dtailWrite]
    rw [if_neg (by rw [moved]; simp [hopen]), moved]
  · rw [State.cluster_modThread, State.dtailWrite]
    rw [if_pos (by rw [moved]; simp [hclosing, hempty]), (State.dispUnbind_bound (by rw [moved]; exact hen)).2]
    rfl

/-! ### A frame that sets out (R106) -/

theorem State.coming_stir (s : State) (d c : Nat) : ((s.stir d).core c).coming = (s.core c).coming := by
  unfold State.stir
  cases hd : s.cores.look d with
  | none => rfl
  | some x =>
    show ((s.setCore d _).core c).coming = _
    rw [State.core_setCore]
    split
    · subst_vars
      rw [State.core, KMap.lookD, hd]; rfl
    · rfl

/-- The cores of a cluster are stirred when a frame sets out for one of them. -/
def State.stirCluster (s : State) (c : Nat) : State := (clusterCores (clusterOf c)).foldl (fun (u : State) d => u.stir d) s

theorem State.stirCluster_dram (s : State) (c : Nat) : (s.stirCluster c).dram = s.dram :=
  State.foldl_keeps State.dram (fun t d => by unfold State.stir; split <;> rfl) _ s

theorem State.stirCluster_coming (s : State) (c d : Nat) : ((s.stirCluster c).core d).coming = (s.core d).coming :=
  State.foldl_keeps (fun t => (t.core d).coming) (fun t e => t.coming_stir e d) _ s

theorem State.choose_cores (s : State) : s.choose.2.cores = s.cores ∧ s.choose.2.dram = s.dram := by
  unfold State.choose; split <;> exact ⟨rfl, rfl⟩

/-- A frame reaches its thread at once, or is on its way. -/
theorem State.setOut_arrivesOrComes (s : State) (c sl kind : Nat) (l : Launch) (f : Frame) :
    (∃ g : State, g.dram = s.dram ∧ g.cores = (s.stirCluster c).cores
      ∧ s.setOut c sl l kind f = g.deliver c sl f (l.comingScope ⟨kind, sl, f⟩))
    ∨ ((s.setOut c sl l kind f).core c).coming = (s.core c).coming ++ [⟨kind, sl, f⟩] := by
  obtain ⟨hcores, hdram⟩ := (s.stirCluster c).choose_cores
  rcases hk : (s.stirCluster c).choose with ⟨k, g⟩
  rw [hk] at hcores hdram
  change g.cores = _ at hcores
  change g.dram = _ at hdram
  cases k with
  | zero =>
    left
    refine ⟨g, hdram.trans (s.stirCluster_dram c), hcores, ?_⟩
    change (match (s.stirCluster c).choose with | (0, s) => _ | (_, s) => _) = _
    rw [hk]
    rfl
  | succ k =>
    right
    have later : s.setOut c sl l kind f = (g.modThread c sl fun t => { t with idle := true }).modCore c fun x =>
        { x with coming := x.coming ++ [⟨kind, sl, f⟩] } := by
      change (match (s.stirCluster c).choose with | (0, s) => _ | (_, s) => _) = _
      rw [hk]
      rfl
    rw [later, State.core_modCore_self, State.core_modThread]
    show (g.core c).coming ++ _ = _
    rw [State.core_congr hcores, State.stirCluster_coming]

/-! ### The dispenser's deliveries (R125) -/

section
variable {s u w : State} {cl c sl : Nat} {l : Launch} {bs : List Byte}

theorem dispenserDeliver_delivers (hl : s.launch? (s.cluster cl).disp.part (s.cluster cl).disp.lid = some l)
    (hen : (s.cluster cl).disp.en = true) (hfull : (s.cluster cl).disp.head ≠ (s.cluster cl).disp.tail)
    (hparked : (s.cluster cl).disp.parked = none)
    (hplace : s.placeIn (rotation cl (s.cluster cl).disp.last) l false = some (c, sl, u))
    (hread : u.unitRead (.cluster cl) (s.cluster cl).disp.part (l.pl = 0)
      ((s.cluster cl).disp.base.toNat + 64 * ((s.cluster cl).disp.head % 2 ^ (s.cluster cl).disp.log2sz)) 64 = .ok (bs, w)) :
    ∃ v g : State, v = (g.setOut c sl l 3 ⟨leWords 8 bs, (s.cluster cl).disp.tag, (s.cluster cl).disp.lid, none⟩).modDisp cl
        (fun e => { e with head := ((s.cluster cl).disp.head + 1) % 2 ^ 32, last := c % 8 }) ∧ g.cores = w.cores
      ∧ exec (.dispenserDeliver cl) s = .next (if (s.cluster cl).disp.closing = true
          ∧ ((s.cluster cl).disp.head + 1) % 2 ^ 32 = (s.cluster cl).disp.tail then v.dispUnbind cl else v) := by
  refine ⟨_, w.countFrame (s.cluster cl).disp.part (s.cluster cl).disp.lid c 1, rfl, State.countFrame_cores .., ?_⟩
  have ready : ¬ (!(s.cluster cl).disp.en || decide ((s.cluster cl).disp.head = (s.cluster cl).disp.tail)
      || (s.cluster cl).disp.parked.isSome) = true := by simp [hen, hfull, hparked]
  rw [exec_dispenserDeliver, execDispenserDeliver]
  simp only [hl, hplace, hread]
  rw [if_neg ready]
  simp only [Bool.and_eq_true, decide_eq_true_eq]

end

/-! ### Work graphs bound and unbound (R126, R127) -/

/-- The node of a descriptor. -/
def WgNode.ofBytes (nodes : List Byte) (i : Nat) : WgNode :=
  let n := nodes.drop (32 * i)
  ⟨Word.ofNat (dfield n 0 8), dfield n 8 1, dfield n 12 4, Word.ofNat (dfield n 16 8), [], 0⟩

/-- The graph that a thread binds by a descriptor. -/
def Thread.graphOf (u : Thread) (v : Word) (pno : Nat) (hdr nodes : List Byte) : WGraph :=
  ⟨v, u.lid, pno, u.tag, Word.ofNat (dfield hdr 16 8), dfield hdr 10 2,
    (List.range (dfield hdr 8 2)).map (WgNode.ofBytes nodes), [], []⟩

theorem State.lodgeRead_clusters {s t : State} {pno va n : Nat} {bs : List Byte} (h : s.lodgeRead pno va n = .ok (bs, t)) :
    t.clusters = s.clusters := (State.lodgeRead_work h).clusters

theorem State.lodgeMet_clusters (s : State) (pno : Nat) (e : LodgeErr) : (s.lodgeMet pno e).clusters = s.clusters :=
  (s.lodgeMet_work pno e).clusters

/-- The state that a reading of a descriptor ends in, with a code or with header and nodes. -/
def wgReadEnd : Except (Nat × State) (List Byte × List Byte × State) → State
  | .error (_, w) => w
  | .ok (_, _, w) => w

/-- Reading a descriptor changes no cluster. -/
theorem State.wgRead_clusters (s : State) (pno a cl : Nat) : (wgReadEnd (s.wgRead pno a cl)).clusters = s.clusters := by
  unfold State.wgRead
  split
  · rfl
  · split
    case _ e _ => exact s.lodgeMet_clusters pno e
    case _ hdr t hhdr =>
      have header := State.lodgeRead_clusters hhdr
      split
      · exact header
      · split
        case _ e _ => exact (t.lodgeMet_clusters pno e).trans header
        case _ nodes t' hnodes =>
          have both := (State.lodgeRead_clusters hnodes).trans header
          split
          · exact both
          · split <;> exact both

theorem State.cluster_acquireOn (s : State) (c : Nat) (sc : Scope) (m : Nat) : (s.acquireOn c sc).cluster m = s.cluster m := by
  refine State.cluster_congr ?_ m
  unfold State.acquireOn
  split <;> rfl

section
variable {s : State} {c sl pno : Nat} {v : Word} {u : Thread} (hu : s.thread? c sl = some u) (hpl : 1 ≤ u.pl)
  (hpart : s.corePart c = some pno)
include hu hpl hpart

theorem wgdaBind_refused {w : State} {code : Nat} (hv : v ≠ 0)
    (hread : (s.acquireOn c .clus).wgRead pno v.toNat (clusterOf c) = .error (code, w)) :
    exec (.wgdaBind c sl v) s = .next (w.modCluster (clusterOf c) fun x =>
      { x with wgcode := code, wgstate := if x.wg.isSome then 1 else 3 }) := by
  rw [exec_wgdaBind, execWgdaBind, if_neg hv, State.atKer_ker hu hpl]
  simp only [State.wgdaWrite, hu, hpart, hv, if_false, hread]

theorem wgdaBind_binds {w : State} {hdr nodes : List Byte} (hv : v ≠ 0)
    (hread : (s.acquireOn c .clus).wgRead pno v.toNat (clusterOf c) = .ok (hdr, nodes, w)) :
    exec (.wgdaBind c sl v) s = .next (w.modCluster (clusterOf c) fun x =>
      { x with wg := some (u.graphOf v pno hdr nodes), wgcode := 0, wgstate := 1 }) := by
  rw [exec_wgdaBind, execWgdaBind, if_neg hv, State.atKer_ker hu hpl]
  simp only [State.wgdaWrite, hu, hpart, hv, if_false, hread]
  rfl

theorem wgdaUnbind_unbinds {y : WGraph} (hy : (s.cluster (clusterOf c)).wg = some y) (hlid : y.lid = u.lid) (hpno : y.part = pno)
    (halloc : y.alloc = []) (hpend : ∀ n ∈ y.nodes, n.pend = []) (hbatches : y.batches = [])
    (hnone : s.allocators (clusterOf c) = []) : exec (.wgdaUnbind c sl) s =
      .next (s.modCluster (clusterOf c) fun x => { x with wg := none, wgcode := 0, wgstate := 0 }) := by
  have idle : (decide (y.lid = u.lid) && decide (y.part = pno) && decide (y.alloc = [])
      && (y.nodes.all fun n => decide (n.pend = [])) && (y.batches.all fun b => b.delivered && decide (b.live = []))
      && decide (s.allocators (clusterOf c) = [])) = true := by
    simp [hlid, hpno, halloc, hbatches, hnone]
    exact hpend
  rw [exec_wgdaUnbind, execWgdaUnbind, State.atKer_ker hu hpl]
  simp only [State.wgdaWrite, hu, hpart, hy, if_true]
  rw [if_pos idle]

end

/-! ### Batches (R128) -/

theorem WGraph.launchBatch_pending {g : WGraph} {k : Nat} {n : WgNode} (hn : g.nodes[k]? = some n) (hp : n.pend ≠ []) :
    (g.launchBatch k).batches = g.batches ++ [⟨k, g.freeHandle, n.pend, n.pend, false⟩]
      ∧ ((g.launchBatch k).nodes[k]?).map WgNode.pend = some [] := by
  simp only [WGraph.launchBatch, hn]
  rw [if_neg hp]
  refine ⟨rfl, ?_⟩
  rw [WGraph.modNode_get, if_pos rfl, hn]
  rfl

theorem wgBatchTimeout_launches {s : State} {cl k : Nat} {y : WGraph} {n : WgNode} (hy : (s.cluster cl).wg = some y)
    (hn : y.nodes[k]? = some n) (hp : n.pend ≠ []) (hq : Quiet s) : ∃ t, exec (.wgBatchTimeout cl k) s = .next t
      ∧ t.clk = max s.clk (n.t0 + n.t) ∧ (t.cluster cl).wg = some (y.launchBatch k) ∧ t.cores = s.cores := by
  refine ⟨(s.pass (n.t0 + n.t)).modGraph cl fun g => g.launchBatch k, ?_, ?_⟩
  · rw [exec_wgBatchTimeout, execWgBatchTimeout]
    simp only [hy, hn, hp, if_false]
  · rw [State.pass_quiet hq]
    exact ⟨rfl, State.wg_modGraph (s := { s with clk := max s.clk (n.t0 + n.t) }) _ hy, rfl⟩

theorem wgBatchDeliver_delivers {s u : State} {cl c sl : Nat} {y : WGraph} {b : Batch} {l : Launch} {n : WgNode}
    (hy : (s.cluster cl).wg = some y) (hb : y.ready = some b) (hl : s.launch? y.part y.lid = some l)
    (hn : y.nodes[b.node]? = some n)
    (hplace : s.placeIn (rotation cl (s.cluster cl).wgLast) l ((s.cluster cl).dispServes y.part y.lid) = some (c, sl, u)) :
    exec (.wgBatchDeliver cl) s = .next (((u.setOut c sl l 4 ⟨[n.entry, n.join, Word.ofNat b.handle, Word.ofNat b.recs.length,
        Word.ofNat b.node, 0, 0, 0], y.tag, y.lid, none⟩).modGraph cl (fun g =>
          { g with batches := markDelivered g.batches })).modCluster cl fun x => { x with wgLast := c % 8 }) := by
  have hframe : y.frame b = ⟨[n.entry, n.join, Word.ofNat b.handle, Word.ofNat b.recs.length, Word.ofNat b.node, 0, 0, 0],
      y.tag, y.lid, none⟩ := by rw [WGraph.frame, hn]; rfl
  rw [exec_wgBatchDeliver, execWgBatchDeliver]
  simp only [hy, hb, hl, hplace]
  rw [State.batchTo, hframe]

/-! ### Mesh groups (R130) -/

theorem payloadFrameDeliver_delivers {s u : State} {cl c sl n : Nat} {q : PaySlot} {l : Launch}
    (hready : (s.cluster cl).payReady = some (n, q)) (hl : s.launch? q.part q.lid = some l)
    (hplace : s.placeIn (rotation cl (s.cluster cl).payLast) l ((s.cluster cl).dispServes q.part q.lid
      || ((s.cluster cl).wgServes q.part q.lid).isSome) = some (c, sl, u)) :
    exec (.payloadFrameDeliver cl) s = .next (u.payTo cl c sl l n q) := by
  rw [exec_payloadFrameDeliver, execPayloadFrameDeliver]
  simp only [hready, hl, hplace]

/-! ### Bound channels (R152 to R155) -/

@[simp] theorem Core.chan_setChan (x : Core) (n : Nat) (q : Chan) : (x.setChan n q).chan n = q := KMap.lookD_put_self ..

/-- An operation of a channel leaves this much of it: its entries, and its binding's credits. -/
theorem State.chan_modCore (s : State) (c ch : Nat) (q : Chan) : ((s.modCore c fun x => x.setChan ch q).core c).chan ch = q := by
  rw [State.core_modCore_self, Core.chan_setChan]

/-- A channel that has sent entries within its credits. -/
def Chan.sent (q : Chan) (b : Bind) (n now : Nat) : Chan :=
  { q with vals := q.vals.drop n, bind := some { b with credits := b.credits - n, out := b.out + n }, since := now,
           due := decide (n < q.vals.length) }

/-- A batch for a core of this device (R154). -/
theorem State.sendBatch_here {s : State} {c ch n : Nat} {b : Bind} (hb : ((s.core c).chan ch).bind = some b) (hdev : b.dev = 1023)
    (hn : min (min ((s.core c).chan ch).vals.length 16) b.credits = n) (h0 : n ≠ 0) :
    s.sendBatch c ch = (s.modCore c fun x => x.setChan ch (((s.core c).chan ch).sent b n s.clk)).send c 0 0
      (.proxy b.core b.chan (((s.core c).chan ch).vals.take n) ch b.gen false) := by
  simp only [State.sendBatch, hb, hn, h0, if_false]
  exact if_pos (by simp [hdev])

theorem proxyBatchTimeout_sends {s : State} {c ch n : Nat} {b : Bind} (hb : ((s.core c).chan ch).bind = some b)
    (hvals : ((s.core c).chan ch).vals ≠ []) (hdue : ((s.core c).chan ch).due = false) (hq : Quiet s) (hdev : b.dev = 1023)
    (hcredits : 0 < b.credits) (hn : min (min ((s.core c).chan ch).vals.length 16) b.credits = n) :
    ∃ t, exec (.proxyBatchTimeout c ch) s = .next t ∧ t.clk = max s.clk (((s.core c).chan ch).since + 64)
      ∧ (t.core c).chan ch = ((s.core c).chan ch).sent b n t.clk
      ∧ t.flights = s.flights ++ [⟨s.nextId, 16, c, 0, 0, .proxy b.core b.chan (((s.core c).chan ch).vals.take n) ch b.gen false⟩] := by
  have h0 : n ≠ 0 := by
    have := List.length_pos_iff.mpr hvals
    omega
  have sends : exec (.proxyBatchTimeout c ch) s = .next ((s.pass (((s.core c).chan ch).since + 64)).sendBatch c ch) := by
    rw [exec_proxyBatchTimeout, execProxyBatchTimeout]
    exact if_neg (by simp [hb, hvals, hdue])
  have passed : s.pass (((s.core c).chan ch).since + 64) = { s with clk := max s.clk (((s.core c).chan ch).since + 64) } :=
    State.pass_quiet hq _
  refine ⟨_, sends, ?_⟩
  generalize s.pass (((s.core c).chan ch).since + 64) = u at passed
  have hcores : u.cores = s.cores := by rw [passed]
  have same : (u.core c).chan ch = (s.core c).chan ch := congrArg (Core.chan · ch) (State.core_congr hcores c)
  rw [State.sendBatch_here (by rw [same]; exact hb) hdev (by rw [same]; exact hn) h0, same]
  refine ⟨?_, State.chan_modCore .., ?_⟩
  · show u.clk = _
    rw [passed]
  · show u.flights ++ [⟨u.nextId, _, _, _, _, _⟩] = _
    rw [passed]

/-- A batch of one entry has landed: the queue is as given, and the thread that pushed the entry is sent its acknowledgement. -/
def State.acknowledged (s : State) (id dst ch c by' : Nat) (q : Chan) : State :=
  ((s.modCore dst fun x => x.setChan ch q).send c by' 0 (.ack 1)).landed id

section
variable {s : State} {id port c sth lid dst ch from' gen by' : Nat} {v : Word} {here : Bool}
  (hflights : s.flights = [⟨id, port, c, sth, lid, .proxy dst ch [(v, by')] from' gen here⟩])
include hflights

theorem State.flight_only : s.flight? id = some ⟨id, port, c, sth, lid, .proxy dst ch [(v, by')] from' gen here⟩
    ∧ s.before id = [] := by
  simp [State.flight?, State.before, hflights]

/-- An entry that comes by proxy to a queue with room (R155). -/
def Chan.arrived (q : Chan) (v : Word) (src : Source) : Chan := { q with vals := q.vals ++ [(v, 2 ^ 32)], src := q.src ++ [some src] }

omit hflights in
theorem State.proxyPush_true {s : State} {src : Source} (hb : ((s.core dst).chan ch).bind = none) :
    s.proxyPush dst ch src v = s.modCore dst fun x => x.setChan ch (((s.core dst).chan ch).arrived v src) := by
  unfold State.proxyPush
  dsimp only
  split
  case _ => rfl
  case _ h => rw [hb] at h; cases h

theorem proxyDelivery_delivers (hb : ((s.core dst).chan ch).bind = none) (hroom : ((s.core dst).chan ch).vals.length < 16) :
    exec (.proxyDelivery id) s
      = .next (s.acknowledged id dst ch c by' (((s.core dst).chan ch).arrived v (.core c from' gen))) := by
  obtain ⟨hflight, hfirst⟩ := State.flight_only hflights
  have room : min [(v, by')].length ((s.core dst).room ch) = 1 := by simp only [Core.room, List.length_singleton]; omega
  rw [exec_proxyDelivery, execProxyDelivery]
  simp only [hflight, hfirst, room]
  rw [State.acknowledged, ← State.proxyPush_true hb]
  rfl

/-- The acknowledgement alone is in flight, and the queue is as the delivery left it. -/
theorem State.acknowledged_leaves (hid : s.nextId ≠ id) (q : Chan) :
    ((s.acknowledged id dst ch c by' q).core dst).chan ch = q
      ∧ (s.acknowledged id dst ch c by' q).flights = [⟨s.nextId, 16, c, by', 0, .ack 1⟩]
      ∧ ((s.acknowledged id dst ch c by' q).core dst).regs = (s.core dst).regs := by
  refine ⟨State.chan_modCore .., ?_, ?_⟩
  · show (s.flights ++ [(⟨s.nextId, 16, c, by', 0, .ack 1⟩ : Sent)]).filter (fun f : Sent => decide (f.id ≠ id)) = _
    simp [hflights, hid]
  · show ((s.modCore dst fun x => x.setChan ch q).core dst).regs = _
    rw [State.core_modCore_self, Core.setChan_regs]

theorem proxyDelivery_waits (hfull : ((s.core dst).chan ch).vals.length = 16) : exec (.proxyDelivery id) s =
    .next { s with flights := [⟨id, port, c, sth, lid, .proxy dst ch [(v, by')] from' gen true⟩] } := by
  obtain ⟨hflight, hfirst⟩ := State.flight_only hflights
  have room : min [(v, by')].length ((s.core dst).room ch) = 0 := by simp [Core.room, hfull]
  rw [exec_proxyDelivery, execProxyDelivery]
  simp only [hflight, hfirst, room]
  show Host.Outcome.next (s.setFlight id _) = _
  rw [State.setFlight, hflights]
  simp

end

/-- A channel of no batch due that has credits back. -/
def Chan.credited (q : Chan) (b : Bind) (n : Nat) : Chan :=
  { q with bind := some { b with credits := b.credits + n, out := b.out - n } }

theorem State.credited_undue {s : State} {c ch n : Nat} {b : Bind} (hb : ((s.core c).chan ch).bind = some b)
    (hdue : ((s.core c).chan ch).due = false) :
    s.credited c ch b.gen n = s.modCore c fun x => x.setChan ch (((s.core c).chan ch).credited b n) := by
  unfold State.credited
  dsimp only
  split
  case _ b' h =>
    obtain rfl := Option.some.inj (hb.symm.trans h)
    rw [if_neg (fun h => h rfl)]
    exact if_neg (by rw [hdue]; exact Bool.false_ne_true)
  case _ h => rw [hb] at h; cases h

theorem proxyCreditReturn_credits {s : State} {f : Sent} {c ch gen : Nat} {b : Bind} (hf : s.flight? f.id = some f)
    (hwhat : f.what = .credit c ch gen) (hb : ((s.core c).chan ch).bind = some b) (hgen : b.gen = gen)
    (hdue : ((s.core c).chan ch).due = false) (hfirst : ((s.before f.id).any fun g => g.ordTo f.core c) = false) :
    exec (.proxyCreditReturn f.id) s =
      .next ((s.landed f.id).modCore c fun x => x.setChan ch (((s.core c).chan ch).credited b 1)) := by
  obtain ⟨id, port, src, sth, lid, what⟩ := f
  dsimp only at hwhat hf hfirst ⊢
  subst hwhat hgen
  rw [exec_proxyCreditReturn, execProxyCreditReturn]
  simp only [hf, hfirst, Bool.false_eq_true, if_false]
  rw [State.credited_undue (s := s.landed id) hb hdue]
  rfl

/-- A parked thread that wakes on a quiet core. -/
theorem State.wake_quiet {s : State} (hq : Quiet s) {c sl : Nat} {u : Thread} (hu : s.thread? c sl = some u) :
    Woken s (s.wake c sl) c sl := by
  set woken := s.modThread c sl fun t => { t with park := none, prog := { t.prog with woken := true } } with hwoken
  have work : ThreadWork s woken c := .modThread ..
  have hthread : woken.thread? c sl = some { u with park := none, prog := { u.prog with woken := true } } := by
    rw [hwoken, State.thread_modThread, if_pos ⟨rfl, rfl⟩, hu]; rfl
  have wakes : s.wake c sl = woken.soon [.slot c sl] := by
    rw [State.wake, noteState_off _ _ _ _ (by rw [← hwoken, work.core]; exact hq.logOff c)]
  rw [wakes]
  refine ⟨⟨u, _, hu, hthread, rfl, rfl, rfl⟩, ?_, (congrArg Core.regs work.core).trans rfl,
    (congrArg Core.lmem work.core).trans rfl, ?_⟩
  · show .slot c sl :: woken.agenda = _
    rw [work.rest]
  · show woken.dram = _
    rw [work.rest]

section
variable {s : State} {c sl stamp since : Nat} {reads : List Nat} {write : Option Nat} {peek : Bool} {u : Thread}
  (hu : s.thread? c sl = some u) (hpark : u.park = some ⟨.chan reads write peek, stamp, since⟩)
include hu hpark

theorem channelWake_wakes (hq : Quiet s) (hh : u.prog.handed = none)
    (hready : chansReady (s.core c) sl (some stamp) reads write peek = true) :
    ∃ t, exec (.channelWake c sl) s = .next t ∧ Woken s t c sl := by
  refine ⟨s.wake c sl, ?_, State.wake_quiet hq hu⟩
  rw [exec_channelWake, execChannelWake]
  simp only [hu, hpark, hready, hh, Bool.not_true, Bool.false_eq_true, if_false]
  split
  · contradiction
  · rfl

theorem channelWake_stays (hready : chansReady (s.core c) sl (some stamp) reads write peek = false) :
    exec (.channelWake c sl) s = .next s := by
  rw [exec_channelWake, execChannelWake]
  simp only [hu, hpark, hready, Bool.not_false, if_true]

end

/-! ### The statement -/

/-- Settles O53: each delivery changes its cluster's record of what it delivers, and each of a channel's events the channel
and what is in flight. -/
theorem clusterDeliveriesAndBoundChannels : Obligations.ClusterDeliveriesAndBoundChannels := by
  unfold Obligations.ClusterDeliveriesAndBoundChannels
  refine ⟨⟨fun s c sl pno v u hu hpl hpart => ⟨fun hset hen h4 h12 hbase => ?_, fun hclear hen hempty => ?_,
      fun hclear hen hfull => ?_, fun hreleased hrel hunack htouched hsbuf hen hfits => ?_⟩,
      fun s c sl kind l f => s.setOut_arrivesOrComes c sl kind l f,
      fun s u w cl c sl l bs => dispenserDeliver_delivers,
      fun s c sl pno v u hu hpl hpart => ⟨fun hv code w hread => ?_, fun hv hdr nodes w hread => ?_,
        fun y hy hlid hpno halloc hpend hbatches hnone => ?_⟩,
      fun s cl k y n hy hn hp hq => ?_,
      fun s u cl c sl y b l n => wgBatchDeliver_delivers,
      fun s u cl c sl n q l hready hl hplace hsame => ?_⟩,
    fun s c ch b => ?_, fun s id port c sth lid dst ch from' gen v by' here hflights hb => ⟨fun hroom hid => ?_,
      proxyDelivery_waits hflights⟩,
    fun s f c ch gen b hf hwhat hb hgen hdue hfirst => ?_,
    fun s c sl stamp since reads write peek u hq hu hpark hh =>
      ⟨channelWake_wakes hu hpark hq hh, channelWake_stays hu hpark⟩⟩
  · obtain ⟨t, ht, only, hdisp⟩ := drcfgBind_binds hu hpart hpl hset hen h4 h12 hbase
    exact ⟨t, ht, by rw [hdisp]; exact ⟨rfl, rfl, rfl, rfl, rfl, rfl, rfl, rfl⟩, only.cores, only.other⟩
  · obtain ⟨only, hdisp⟩ := State.dispUnbind_bound hen
    refine ⟨_, drcfgUnbind_writes hu hpl hclear, ?_⟩
    rw [State.drcfgWrite_clears hu hpart hclear hen, if_pos hempty]
    exact ⟨by rw [hdisp]; exact ⟨rfl, rfl⟩, only.cores, only.other⟩
  · refine ⟨_, drcfgUnbind_writes hu hpl hclear, ?_⟩
    rw [State.drcfgWrite_clears hu hpart hclear hen, if_neg hfull]
    exact ⟨by rw [State.disp_modDisp]; exact ⟨hen, rfl, rfl⟩, rfl, (OnlyCluster.modCluster ..).other⟩
  · refine dtailWrite_moves hu (.inr (.inr ?_)) hen hfits
    have hme : (s.asThread c sl).me = u := State.me_eq hu
    rw [hme]
    exact ⟨hrel, hunack, htouched, fun e he => by rw [show (s.asThread c sl).myCore.sbuf = [] from hsbuf] at he; cases he⟩
  · have hclusters := (s.acquireOn c .clus).wgRead_clusters pno v.toNat (clusterOf c)
    rw [hread] at hclusters
    have same := (State.cluster_congr hclusters (clusterOf c)).trans (s.cluster_acquireOn c .clus _)
    refine ⟨_, wgdaBind_refused hu hpl hpart hv hread, ?_⟩
    rw [State.cluster_modCluster_self, show w.cluster (clusterOf c) = _ from same]
    exact ⟨rfl, rfl, rfl⟩
  · refine ⟨_, u.graphOf v pno hdr nodes, wgdaBind_binds hu hpl hpart hv hread, ?_⟩
    rw [State.cluster_modCluster_self]
    exact ⟨rfl, rfl, rfl, rfl, rfl, rfl, rfl, by rw [Thread.graphOf, List.length_map, List.length_range], rfl, rfl⟩
  · refine ⟨_, wgdaUnbind_unbinds hu hpl hpart hy hlid hpno halloc hpend hbatches hnone, ?_⟩
    rw [State.cluster_modCluster_self]
    exact ⟨rfl, rfl, rfl⟩
  · obtain ⟨t, ht, hclk, hwg, hcores⟩ := wgBatchTimeout_launches hy hn hp hq
    obtain ⟨hbatches, hpend⟩ := WGraph.launchBatch_pending hn hp
    exact ⟨t, _, ht, hclk, hwg, hbatches, hpend, hcores⟩
  · rw [payloadFrameDeliver_delivers hready hl hplace, State.payTo, hsame]
    rfl
  · intro q hb hvals hdue hq hdev hcredits n
    obtain ⟨t, ht, hclk, hchan, hflights⟩ := proxyBatchTimeout_sends hb hvals hdue hq hdev hcredits rfl
    exact ⟨t, ht, hclk, by rw [hchan]; rfl, by rw [hchan]; rfl, hflights⟩
  · obtain ⟨hchan, hleft, hregs⟩ := State.acknowledged_leaves (dst := dst) (ch := ch) hflights hid
      (((s.core dst).chan ch).arrived v (.core c from' gen))
    exact ⟨_, proxyDelivery_delivers hflights hb hroom, by rw [hchan, Chan.arrived, List.map_append]; rfl, hleft, hregs⟩
  · refine ⟨_, proxyCreditReturn_credits hf hwhat hb hgen hdue hfirst, s.landed_flight f.id, ?_⟩
    rw [State.chan_modCore]
    exact ⟨rfl, rfl⟩

end Sys2Proof.Machine
end

section
/-! What a result leaves in g, k and q registers and in zero (R146, R148, R150, R152, R153), and the statement about it. -/

namespace Sys2Proof.Machine

theorem State.wr_g_myCore {s : State} {d : Code} (v : Word) (h : isGCode d = true) :
    (s.wr d v).myCore = s.myCore.setGreg s.me (codeNum d) v := by
  rw [wr_g v h]; exact State.core_modCore_self ..

theorem State.wr_k_myCore {s : State} {d : Code} (v : Word) (h : isKCode d = true) :
    (s.wr d v).myCore = s.myCore.setKreg (codeNum d) s.clk v := by
  rw [wr_k v h]; exact State.core_modCore_self ..

/-- The entries that a result adds to a channel of the issuing core (R152). -/
def pushed (s : State) (d : Code) (v : Word) (n : Nat) : List (Word × Nat) :=
  if isQCode d = true ∧ codeNum d = n then [(v, s.me.sth)] else []

/-- A result to an unbound channel stands at its newest end, and every other channel is as it was. -/
theorem State.wr_vals {s : State} {d : Code} (v : Word) (hq : isQCode d = true → (s.myCore.chan (codeNum d)).bind = none)
    (n : Nat) : ((s.wr d v).myCore.chan n).vals = (s.myCore.chan n).vals ++ pushed s d v n := by
  rcases State.wr_core v hq with ⟨h, -, -, hqd⟩ | ⟨x, h, hx⟩
  · simp [h, pushed, hqd]
  · have hcore : (s.wr d v).myCore = x := by rw [h]; exact State.core_modCore_self ..
    rw [hcore]
    rcases hx with ⟨hg, rfl⟩ | ⟨hk, rfl⟩ | ⟨hqd, rfl⟩
    · simp [pushed, (code_kinds d).1 hg, Core.chan]
    · simp [pushed, (code_kinds d).2 hk, Core.chan]
    · by_cases hn : n = codeNum d
      · subst hn; simp [pushed, hqd]
      · simp [pushed, hn, Ne.symm hn, Core.chan, Core.setChan, KMap.lookD_put]

section
variable {s : State} {srcs : List Pos} {d : Code} {v : Word} (hs : s.me?.isSome = true) (hl : LogOff s)
include hs hl

theorem wrote_reads_g (hg : isGCode d = true) : (wrote s srcs d v).myCore.greg (wrote s srcs d v).me (codeNum d) = v
    ∧ s.me.base + codeNum d ∉ (wrote s srcs d v).myCore.regPoison := by
  obtain ⟨t, ht⟩ := Option.isSome_iff_exists.mp hs
  have unbound : isQCode d = true → (s.myCore.chan (codeNum d)).bind = none := by simp [(code_kinds d).1 hg]
  obtain ⟨hcore, hme⟩ := wrote_core (srcs := srcs) v ht hl unbound
  rw [hcore, hme, State.wr_g_myCore v hg, began_me, State.me_eq ht]
  exact ⟨(greg_setGreg s.myCore t (codeNum d) (codeNum d) v).trans (if_pos rfl), setGreg_clean s.myCore t (codeNum d) v⟩

theorem wrote_reads_k (hk : isKCode d = true) {r : Nat} (hr : s.clk ≤ r) :
    kRead ((wrote s srcs d v).myCore.kregs.lookD (codeNum d) []) r =
      if s.clk + 8 ≤ r then v else kRead (s.myCore.kregs.lookD (codeNum d) []) r := by
  obtain ⟨t, ht⟩ := Option.isSome_iff_exists.mp hs
  have unbound : isQCode d = true → (s.myCore.chan (codeNum d)).bind = none := by simp [(code_kinds d).2 hk]
  rw [(wrote_core (srcs := srcs) v ht hl unbound).1, State.wr_k_myCore v hk]
  refine (kRead_setKreg s.myCore (codeNum d) s.clk r v).trans ?_
  rw [kRead_prune _ _ _ hr]

theorem wrote_vals (hq : isQCode d = true → (s.myCore.chan (codeNum d)).bind = none) (n : Nat) :
    ((wrote s srcs d v).myCore.chan n).vals =
      ((s.myCore.chan n).vals ++ pushed s d v n).drop ((popsOf (regCodes srcs)).count n) := by
  obtain ⟨t, ht⟩ := Option.isSome_iff_exists.mp hs
  have hcur : ((began s srcs).wr d v).cur = (began s srcs).cur := (own_of_wr v hq).2.2
  have popped := State.doPops_vals ((began s srcs).wr d v) n
  rw [hcur] at popped
  rw [(wrote_core v ht hl hq).1]
  refine popped.trans (congrArg (List.drop _) ?_)
  rw [← State.myCore_of_cur hcur]
  exact State.wr_vals (s := began s srcs) v hq n

end

/-- Settles O11: each kind of operand code by the lemma about it. -/
theorem writtenRegistersReadBack : Obligations.WrittenRegistersReadBack := by
  unfold Obligations.WrittenRegistersReadBack
  intro s srcs d v hs hl
  refine ⟨wrote_reads_g hs hl, fun hk r hr => wrote_reads_k hs hl hk hr, ?_, wrote_vals hs hl⟩
  rintro rfl
  exact congrArg State.retire (wr_zero v)

end Sys2Proof.Machine
end

section
/-! Parked threads that wake (R104, R130, R167, R181, R222, R341, R359, R364, R389, R428): the events that wake them, and the
statement about them. -/

namespace Sys2Proof.Machine

/-! ### A wake on a quiet core -/

theorem Quiet.of_cores {s g : State} (h : Quiet s) (hcores : g.cores = s.cores) : Quiet g := by
  rw [Quiet, hcores]; exact h

theorem State.wake_rouses {s : State} {c : Nat} (hlog : bit (s.core c).slcfg 0 = false) (sl : Nat) : Roused s (s.wake c sl) c := by
  have work := Roused.modThread s c sl fun t => { t with park := none, prog := { t.prog with woken := true } }
  rw [State.wake, noteState_off _ _ _ _ (work.logOff hlog)]
  exact work.trans (.soon ..)

/-- Two states that agree on everything that the waking of a thread shows. -/
structure WakeAlike (s g : State) : Prop where
  cores : g.cores = s.cores
  agenda : g.agenda = s.agenda
  dram : g.dram = s.dram

namespace WakeAlike

theorem refl (s : State) : WakeAlike s s := ⟨rfl, rfl, rfl⟩

theorem pass {s : State} (hq : Quiet s) (n : Nat) : WakeAlike s (s.pass n) := by
  rw [State.pass_quiet hq]; exact ⟨rfl, rfl, rfl⟩

theorem modPart (s : State) (pno : Nat) (f : Part → Part) : WakeAlike s (s.modPart pno f) := by
  unfold State.modPart; split <;> exact ⟨rfl, rfl, rfl⟩

theorem modCluster (s : State) (cl : Nat) (f : Cluster → Cluster) : WakeAlike s (s.modCluster cl f) := ⟨rfl, rfl, rfl⟩

variable {s g t : State} {c sl : Nat} {u : Thread} (h : WakeAlike s g) (hq : Quiet s)
include h

theorem woken (w : Woken g t c sl) : Woken s t c sl where
  thread := by simpa only [State.thread_congr h.cores] using w.thread
  agenda := by rw [w.agenda, h.agenda]
  regs := by rw [w.regs, State.core_congr h.cores]
  lmem := by rw [w.lmem, State.core_congr h.cores]
  dram := by rw [w.dram, h.dram]

include hq

theorem wake (hu : s.thread? c sl = some u) : Woken s (g.wake c sl) c sl ∧ (g.wake c sl).clk = g.clk := by
  have hg := hq.of_cores h.cores
  refine ⟨h.woken (State.wake_quiet hg ((State.thread_congr h.cores ..).trans hu)), ?_⟩
  rw [(State.wake_rouses (hg.logOff c) sl).rest]

theorem wakeWith (hu : s.thread? c sl = some u) (f : Prog → Prog) : Woken s (g.wakeWith c sl f) c sl
    ∧ (g.wakeWith c sl f).thread? c sl = some (u.roused f) ∧ (g.wakeWith c sl f).clk = g.clk := by
  obtain ⟨woken, hthread, -, hclk⟩ :=
    State.wakeWith_quiet (hq.of_cores h.cores) ((State.thread_congr h.cores c sl).trans hu) f
  exact ⟨h.woken woken, hthread, hclk⟩

end WakeAlike

/-- An event wakes the thread of a slot, at a core cycle. -/
def WakesAt (s : State) (c sl : Nat) (e : Sys2Proof.Instr) (n : Nat) : Prop :=
  ∃ t, exec e s = .next t ∧ Woken s t c sl ∧ t.clk = n

section
variable {s : State} {c sl : Nat} {e : Sys2Proof.Instr} {u : Thread} (hq : Quiet s) (hu : s.thread? c sl = some u)
include hq hu

theorem WakesAt.wake (h : exec e s = .next (s.wake c sl)) : WakesAt s c sl e s.clk :=
  ⟨_, h, (WakeAlike.refl s).wake hq hu⟩

theorem WakesAt.wakeWith {f : Prog → Prog} (h : exec e s = .next (s.wakeWith c sl f)) : WakesAt s c sl e s.clk := by
  obtain ⟨woken, -, hclk⟩ := (WakeAlike.refl s).wakeWith hq hu f
  exact ⟨_, h, woken, hclk⟩

theorem WakesAt.passWake {n : Nat} (h : exec e s = .next ((s.pass n).wake c sl)) : WakesAt s c sl e (max s.clk n) := by
  obtain ⟨woken, hclk⟩ := (WakeAlike.pass hq n).wake hq hu
  exact ⟨_, h, woken, by rw [hclk, State.pass_quiet hq]⟩

theorem WakesAt.passWakeWith {n : Nat} {f : Prog → Prog} (h : exec e s = .next ((s.pass n).wakeWith c sl f)) :
    WakesAt s c sl e (max s.clk n) := by
  obtain ⟨woken, -, hclk⟩ := (WakeAlike.pass hq n).wakeWith hq hu f
  exact ⟨_, h, woken, by rw [hclk, State.pass_quiet hq]⟩

end

/-- What a thread is parked for, and where it stands. -/
theorem State.parked_of {s : State} {c sl : Nat} {w : Why} (h : s.parkedFor c sl = some w) : ∃ u n since,
    s.thread? c sl = some u ∧ u.park = some ⟨w, n, since⟩ ∧ s.whyOf c sl = some ⟨w, n, since⟩ := by
  obtain ⟨⟨w', n, since⟩, hwhy, rfl⟩ := Option.map_eq_some_iff.mp h
  obtain ⟨u, hu, hpark⟩ := Option.bind_eq_some_iff.mp hwhy
  exact ⟨u, n, since, hu, hpark, hwhy⟩

/-- The comparison of a KWAIT holds of a register's writes at a core cycle (R359). -/
def kHolds (h : KReg) (cmp : WCmp) (ref : Word) (u : Nat) : Bool :=
  (kStands h none u).any fun v => wcmpHolds cmp 64 v.toNat ref.toNat

/-- The newest write, from the eighth core cycle after it on. -/
theorem kHolds_newest (e : Nat × Word) (rest : KReg) (cmp : WCmp) (ref : Word) {u : Nat} (hu : e.1 + 8 ≤ u) :
    kHolds (e :: rest) cmp ref u = wcmpHolds cmp 64 e.2.toNat ref.toNat := by
  simp [kHolds, kStands, hu]

/-! ### Watched words (R181, R112), cycles (R364, R341), k registers (R359) -/

section
variable {s : State} {c sl : Nat} (hq : Quiet s)
include hq

section
variable {ea ref : Word} {size : Nat} {cmp : WCmp} {w : WordWait} {n : Nat}

theorem watchWake_wakes (hw : w ≠ .join) (h : s.parkedFor c sl = some (.word ea size cmp ref .packet w)) :
    WakesAt s c sl (.watchWake c sl) s.clk := by
  obtain ⟨u, m, since, hu, -, hwhy⟩ := State.parked_of h
  refine .wake hq hu ?_
  rw [exec_watchWake, execWatchWake, hwhy]
  exact if_neg hw

theorem joinwWake_wakes (h : s.parkedFor c sl = some (.word ea size cmp ref .packet .join)) :
    WakesAt s c sl (.joinwWake c sl) s.clk := by
  obtain ⟨u, m, since, hu, -, hwhy⟩ := State.parked_of h
  exact .wake hq hu (by rw [exec_joinwWake, execJoinwWake, hwhy])

theorem watchPoll_wakes (hw : w ≠ .join) (h : s.parkedFor c sl = some (.word ea size cmp ref (.poll n) w)) :
    WakesAt s c sl (.watchPoll c sl) (max s.clk n) := by
  obtain ⟨u, m, since, hu, -, hwhy⟩ := State.parked_of h
  refine .passWake hq hu ?_
  rw [exec_watchPoll, execWatchPoll, hwhy]
  exact if_neg hw

theorem joinwWake_polls (h : s.parkedFor c sl = some (.word ea size cmp ref (.poll n) .join)) :
    WakesAt s c sl (.joinwWake c sl) (max s.clk n) := by
  obtain ⟨u, m, since, hu, -, hwhy⟩ := State.parked_of h
  exact .passWake hq hu (by rw [exec_joinwWake, execJoinwWake, hwhy])

end

theorem parkExpire_wakes {n : Nat} (h : s.parkedFor c sl = some (.until n)) (hgoes : s.halted c sl = false) :
    WakesAt s c sl (.parkExpire c sl) (max s.clk n) := by
  obtain ⟨u, m, since, hu, -, hwhy⟩ := State.parked_of h
  exact .passWakeWith hq hu (by
    rw [exec_parkExpire, execParkExpire, hwhy]; exact if_neg (by rw [hgoes]; exact Bool.false_ne_true))

omit hq in
theorem parkExpire_halted {n : Nat} (h : s.parkedFor c sl = some (.until n)) (hhalted : s.halted c sl = true) :
    exec (.parkExpire c sl) s = .next s := by
  obtain ⟨u, m, since, -, -, hwhy⟩ := State.parked_of h
  rw [exec_parkExpire, execParkExpire, hwhy]
  exact if_pos hhalted

theorem tlbinvComplete_wakes {n : Nat} (h : s.parkedFor c sl = some (.tlbinv n)) :
    WakesAt s c sl (.tlbinvComplete c sl) (max s.clk n) := by
  obtain ⟨u, m, since, hu, -, hwhy⟩ := State.parked_of h
  exact .passWakeWith hq hu (by rw [exec_tlbinvComplete, execTlbinvComplete, hwhy])

section
variable {k : Nat} {cmp : WCmp} {ref : Word} (h : s.parkedFor c sl = some (.kwait k cmp ref))
include h

theorem kwaitWake_wakes (hnow : kHolds ((s.core c).kregs.lookD k []) cmp ref s.clk = true) :
    WakesAt s c sl (.kwaitWake c sl) s.clk := by
  obtain ⟨u, m, since, hu, -, hwhy⟩ := State.parked_of h
  exact .wakeWith hq hu (by rw [exec_kwaitWake, execKwaitWake, hwhy]; exact if_pos hnow)

variable {e : Nat × Word} {rest : KReg} (hlast : (s.core c).kregs.lookD k [] = e :: rest)
  (hnow : kHolds ((s.core c).kregs.lookD k []) cmp ref s.clk = false) (hlater : s.clk < e.1 + 8)
include hlast hnow hlater

omit hq in
/-- With its newest write not yet in sight, KWAIT_WAKE looks at the cycle at which it comes in sight. -/
theorem kwaitWake_looks : exec (.kwaitWake c sl) s = if wcmpHolds cmp 64 e.2.toNat ref.toNat
    then .next ((s.pass (e.1 + 8)).wakeWith c sl fun g => { g with finished := true }) else .next s := by
  obtain ⟨u, m, since, -, -, hwhy⟩ := State.parked_of h
  rw [exec_kwaitWake, execKwaitWake, hwhy]
  dsimp only
  refine (if_neg ((Bool.not_eq_true _).mpr hnow)).trans ?_
  simp only [hlast, Nat.max_eq_right (Nat.le_of_lt hlater)]
  rw [← kHolds_newest e rest cmp ref (Nat.le_refl _)]
  rfl

theorem kwaitWake_wakesLater (hholds : wcmpHolds cmp 64 e.2.toNat ref.toNat = true) :
    WakesAt s c sl (.kwaitWake c sl) (max s.clk (e.1 + 8)) := by
  obtain ⟨u, m, since, hu, -, -⟩ := State.parked_of h
  exact .passWakeWith hq hu (by rw [kwaitWake_looks h hlast hnow hlater, if_pos hholds])

omit hq in
theorem kwaitWake_stays (hfails : wcmpHolds cmp 64 e.2.toNat ref.toNat = false) : exec (.kwaitWake c sl) s = .next s := by
  rw [kwaitWake_looks h hlast hnow hlater, if_neg ((Bool.not_eq_true _).mpr hfails)]

end

/-! ### Jobs (R389), rooms in a ring (R104), full cells (R167) -/

section
variable {eng seq : Nat} (h : s.parkedFor c sl = some (.job eng seq))
include h

omit hq in
theorem waitjWake_looks : exec (.waitjWake c sl) s =
    if ((s.cluster (clusterOf c)).queue eng).any fun j => j.seq = seq then .next s else .next (s.wake c sl) := by
  obtain ⟨u, m, since, -, -, hwhy⟩ := State.parked_of h
  rw [exec_waitjWake, execWaitjWake, show (s.thread? c sl).bind (·.park) = _ from hwhy]

theorem waitjWake_wakes (hgone : ∀ j ∈ (s.cluster (clusterOf c)).queue eng, j.seq ≠ seq) :
    WakesAt s c sl (.waitjWake c sl) s.clk := by
  obtain ⟨u, m, since, hu, -, -⟩ := State.parked_of h
  exact .wake hq hu (by rw [waitjWake_looks h, if_neg (by simpa using hgone)])

omit hq in
theorem waitjWake_stays (hthere : ∃ j ∈ (s.cluster (clusterOf c)).queue eng, j.seq = seq) :
    exec (.waitjWake c sl) s = .next s := by
  rw [waitjWake_looks h, if_pos (by simpa using hthere)]

end

theorem spawnRingWake_wakes {pno : Nat} (h : s.parkedFor c sl = some .spawnRing) (hc : s.corePart c = some pno)
    (hroom : (s.core c).deque.length < 256) : WakesAt s c sl (.spawnRingWake c sl) s.clk := by
  obtain ⟨u, m, since, hu, hpark, -⟩ := State.parked_of h
  refine .wake hq hu ?_
  simp only [exec_spawnRingWake, execSpawnRingWake, hu, hc, hpark, hroom, decide_true, Bool.true_or, if_true]

omit hq in
theorem ldfWake_stays {cell : Nat} (h : s.parkedFor c sl = some (.ldf cell false)) (hempty : cell ∉ (s.core c).full) :
    exec (.ldfWake c sl) s = .next s := by
  obtain ⟨u, m, since, -, -, hwhy⟩ := State.parked_of h
  rw [exec_ldfWake, execLdfWake, hwhy]
  exact if_pos (by simpa using hempty)

/-- The only thread of a core, parked on a cell that is full, is served. -/
theorem ldfWake_wakes {cell : Nat} {u : Thread} (hthreads : (s.core c).threads = [(sl, u)])
    (h : s.parkedFor c sl = some (.ldf cell false)) (hfull : cell ∈ (s.core c).full) :
    WakesAt s c sl (.ldfWake c sl) s.clk := by
  obtain ⟨v, m, since, hv, hpark, hwhy⟩ := State.parked_of h
  have hu : s.thread? c sl = some u := by simp [State.thread?, hthreads, KMap.look]
  obtain rfl : u = v := Option.some.inj (hu.symm.trans hv)
  refine .wakeWith hq hu (f := fun g => { g with finished := true }) ?_
  rw [exec_ldfWake, execLdfWake, hwhy]
  simp [hfull, hthreads, hpark, oldestParked]

end

/-! ### Stops (R222) -/

/-- What the stops of a STOPW leave: all but the cores, what the cores log, and the threads of the stopper's own number. -/
structure StopKeeps (s t : State) (core sth : Nat) : Prop where
  rest : t = { s with cores := t.cores }
  slcfg : ∀ d, (t.core d).slcfg = (s.core d).slcfg
  issuer : ∀ {sl u}, s.thread? core sl = some u → u.sth = sth → t.thread? core sl = some u

namespace StopKeeps
variable {s t u : State} {core sth : Nat}

theorem refl (s : State) (core sth : Nat) : StopKeeps s s core sth := ⟨rfl, fun _ => rfl, fun hu _ => hu⟩

theorem trans (h : StopKeeps s t core sth) (k : StopKeeps t u core sth) : StopKeeps s u core sth := by
  refine ⟨?_, fun d => (k.slcfg d).trans (h.slcfg d), fun hu hs => k.issuer (h.issuer hu hs) hs⟩
  have e := k.rest; rw [h.rest] at e; exact e

theorem stir (s : State) (c core sth : Nat) : StopKeeps s (s.stir c) core sth :=
  ⟨s.rest_stir c, s.slcfg_stir c, fun hu _ => (s.thread_stir ..).trans hu⟩

theorem logOff (h : StopKeeps s t core sth) (hlog : ∀ d, bit (s.core d).slcfg 0 = false) (d : Nat) :
    bit (t.core d).slcfg 0 = false := by
  rw [h.slcfg]; exact hlog d

end StopKeeps

/-- A core whose other threads have been stopped. -/
def Core.stopOthers (x : Core) (c : Nat) (m : Nat × Nat × Nat) (sc : Scope) (me : Nat × Nat) : Core :=
  let stop := fun (t : Thread) => if !((c, t.sth) = me) then (t.mark m).stopRel x sc else t
  { x with threads := KMap.mapVals stop x.threads,
           displaced := x.displaced.map fun e => if !((c, e.1.sth) = me) then ((e.1.mark m).stopRel x sc, e.2) else e,
           saved := x.saved.map stop }

theorem State.stopCore_quiet {s : State} {c : Nat} (hlog : bit (s.core c).slcfg 0 = false) (m : Nat × Nat × Nat) (sc : Scope)
    (me : Nat × Nat) : s.stopCore c m sc me = (s.setCore c ((s.core c).stopOthers c m sc me)).stir c := by
  have off : bit ((((s.setCore c ((s.core c).stopOthers c m sc me)).stir c).core c).slcfg) 0 = false := by
    rw [State.slcfg_stir, State.core_setCore_self]; exact hlog
  have noted : ∀ (l : KMap Thread) (t : State), bit (t.core c).slcfg 0 = false →
      l.foldl (fun (t : State) e => if !((c, e.2.sth) = me) then t.noteState c e.1 3 else t) t = t := by
    intro l
    induction l with
    | nil => exact fun t _ => rfl
    | cons e l ih =>
      intro t ht
      rw [List.foldl_cons, noteState_off _ _ _ _ ht, ite_self]
      exact ih t ht
  unfold State.stopCore
  exact noted ((s.core c).stopOthers c m sc me).threads _ off

theorem State.stopCore_keeps {s : State} {c core sth : Nat} (hlog : bit (s.core c).slcfg 0 = false) (m : Nat × Nat × Nat)
    (sc : Scope) : StopKeeps s (s.stopCore c m sc (core, sth)) core sth := by
  rw [State.stopCore_quiet hlog]
  have stopped : StopKeeps s (s.setCore c ((s.core c).stopOthers c m sc (core, sth))) core sth := by
    refine ⟨rfl, fun d => s.slcfg_setCore _ _ _ rfl, fun {sl u} hu hs => ?_⟩
    rw [State.thread?, State.core_setCore]
    split
    case isTrue h =>
      subst h
      have look : (s.core core).threads.look sl = some u := hu
      simp [Core.stopOthers, KMap.look_mapVals, look, hs]
    case isFalse => exact hu
  exact stopped.trans (.stir ..)

theorem State.stopAll_keeps {s : State} (hlog : ∀ d, bit (s.core d).slcfg 0 = false) (pno core sth : Nat) (sc : Scope) :
    StopKeeps s (s.stopAll pno core sth sc) core sth :=
  List.foldlRecOn (motive := fun t => StopKeeps s t core sth) _ _ (.refl ..)
    fun _ h c _ => h.trans (State.stopCore_keeps (h.logOff hlog c) _ _)

/-- A thread for which a STOPW has ended the release that it began. -/
def Thread.closeStop (m : Nat × Nat × Nat) (t : Thread) : Thread :=
  if t.stopped.contains m && (match t.park with | some ⟨.rel, _, _⟩ => false | _ => true)
  then { t with rel := none, touched := [] } else t

/-- A core on which it has ended all of them. -/
def Core.closeStops (m : Nat × Nat × Nat) (x : Core) : Core :=
  { x with threads := KMap.mapVals (Thread.closeStop m) x.threads, displaced := x.displaced.map fun e => (e.1.closeStop m, e.2),
           saved := x.saved.map (Thread.closeStop m) }

theorem State.stopRelEnd_rest (s : State) (m : Nat × Nat × Nat) :
    s.stopRelEnd m = { s with cores := KMap.mapVals (Core.closeStops m) s.cores } := rfl

theorem State.core_stopRelEnd (s : State) (m : Nat × Nat × Nat) (d : Nat) :
    (s.stopRelEnd m).core d = (s.core d).closeStops m := KMap.lookD_mapVals (Core.closeStops m) s.cores d Core.zero

/-- A thread that no STOPW has stopped goes on as it was. -/
theorem State.thread_stopRelEnd {s : State} {m : Nat × Nat × Nat} {c sl : Nat} {u : Thread} (hu : s.thread? c sl = some u)
    (hstop : u.stopped = []) : (s.stopRelEnd m).thread? c sl = some u := by
  have look : (s.core c).threads.look sl = some u := hu
  rw [State.thread?, State.core_stopRelEnd, Core.closeStops, KMap.look_mapVals, look]
  simp [Thread.closeStop, hstop]

section
variable {s : State} {c sl : Nat} {sc : Scope} {u : Thread} (hu : s.thread? c sl = some u)
  (hwhy : u.park.map Park.why = some (.stopw sc))
include hu hwhy

theorem stopwComplete_looks : exec (.stopwComplete c sl) s =
    if u.stopped = [] && (s.stopAll ((s.corePart c).getD 0) c u.sth sc).stopDone (c, u.sth, sc.code)
    then .next (((s.stopAll ((s.corePart c).getD 0) c u.sth sc).stopRelEnd (c, u.sth, sc.code)).wakeWith c sl
      fun g => { g with finished := true })
    else .next (s.stopAll ((s.corePart c).getD 0) c u.sth sc) := by
  obtain ⟨⟨w, n, since⟩, hpark, rfl⟩ := Option.map_eq_some_iff.mp hwhy
  simp only [exec_stopwComplete, execStopwComplete, hu, hpark, stopMark]
  rfl

theorem stopwComplete_waits
    (hdone : (s.stopAll ((s.corePart c).getD 0) c u.sth sc).stopDone (c, u.sth, sc.code) = false) :
    exec (.stopwComplete c sl) s = .next (s.stopAll ((s.corePart c).getD 0) c u.sth sc) := by
  rw [stopwComplete_looks hu hwhy, if_neg (by simp [hdone])]

theorem stopwComplete_completes (hq : Quiet s) (hstop : u.stopped = [])
    (hdone : (s.stopAll ((s.corePart c).getD 0) c u.sth sc).stopDone (c, u.sth, sc.code) = true) :
    ∃ t v, exec (.stopwComplete c sl) s = .next t ∧ t.thread? c sl = some v ∧ v.park = none ∧ v.prog.finished = true
      ∧ v.pc = u.pc ∧ t.agenda = .slot c sl :: s.agenda ∧ t.dram = s.dram := by
  have completes := stopwComplete_looks hu hwhy
  rw [if_pos (by simp [hstop, hdone])] at completes
  have keeps := s.stopAll_keeps hq.logOff ((s.corePart c).getD 0) c u.sth sc
  generalize s.stopAll ((s.corePart c).getD 0) c u.sth sc = g at completes keeps
  have off : bit ((g.stopRelEnd (c, u.sth, sc.code)).core c).slcfg 0 = false := by
    rw [State.core_stopRelEnd]; exact keeps.logOff hq.logOff c
  refine ⟨_, u.roused fun g => { g with finished := true }, completes, ?_, rfl, rfl, rfl, ?_, ?_⟩
  · rw [State.wakeWith_thread off, if_pos rfl, State.thread_stopRelEnd (keeps.issuer hu rfl) hstop]; rfl
  · simp only [State.wakeWith_off off, State.soon, State.modThread_agenda]
    rw [State.stopRelEnd_rest, keeps.rest]
    rfl
  · rw [(State.wakeWith_rouses off ..).rest, State.stopRelEnd_rest, keeps.rest]

end

/-! ### Requests (R428) and payload slots (R130) -/

section
variable {s : State} {c sl stamp pno : Nat} {u : Thread} (hq : Quiet s) (hu : s.thread? c sl = some u)
include hq hu

theorem lreqWake_wakes {p : Part} {h : Nat} {rest : List Nat} (hp : s.parts.look pno = some p) (hqueue : p.rink.queue = h :: rest)
    (hparked : s.parkedIn pno (fun w => decide (w = .lreq)) = [(stamp, c, sl)]) : ∃ t, exec (.lreqWake pno) s = .next t
      ∧ Woken s t c sl ∧ (t.part pno).rink.queue = rest
      ∧ (t.thread? c sl).map (fun u => u.prog.handed) = some (some (Word.ofNat h)) := by
  have hqueue' : (s.part pno).rink.queue = h :: rest := by rw [State.part_of_look hp, hqueue]
  set g := s.modPart pno fun p => { p with rink := { p.rink with queue := rest } } with hg
  have alike : WakeAlike s g := .modPart ..
  obtain ⟨woken, hthread, -⟩ := alike.wakeWith hq hu fun g => { g with handed := some (Word.ofNat h) }
  refine ⟨_, ?_, woken, ?_, by rw [hthread]; rfl⟩
  · rw [exec_lreqWake, execLreqWake, hqueue', hparked]
  · rw [State.part, (State.wakeWith_rouses ((hq.of_cores alike.cores).logOff c) ..).rest]
    show (g.part pno).rink.queue = rest
    rw [State.part_of_look (State.look_modPart_some _ hp)]

theorem payaWake_wakes {cl n : Nat} {rest : List (Nat × Nat × Nat)} (hfree : (s.cluster cl).freePay = some n)
    (hwaits : s.payWaiters cl = (stamp, c, sl) :: rest) (hc : s.corePart c = some pno) : ∃ t, exec (.payaWake cl) s = .next t
      ∧ Woken s t c sl ∧ ((t.cluster cl).pays.look n).map (fun q => (q.st, q.lid, q.part)) = some (1, u.lid, pno)
      ∧ (t.thread? c sl).map (fun u => u.prog.handed) = some (some ((s.cluster cl).payb + Word.ofNat (16384 * n))) := by
  set g := s.holdPay cl n u.lid pno with hg
  have alike : WakeAlike s g := .modCluster ..
  obtain ⟨woken, hthread, -⟩ := alike.wakeWith hq hu fun g => { g with handed := some ((s.cluster cl).payAddr n) }
  refine ⟨_, ?_, woken, ?_, by rw [hthread]; rfl⟩
  · simp only [exec_payaWake, execPayaWake, hfree, hwaits, hu, hc, ← hg]
  · rw [State.cluster, (State.wakeWith_rouses ((hq.of_cores alike.cores).logOff c) ..).rest]
    show ((g.cluster cl).pays.look n).map _ = _
    rw [hg, State.holdPay, State.cluster_modCluster_self, KMap.look_put_self]
    rfl

end

/-- Settles O54: each event by the lemma about it. -/
theorem parkedThreadsWake : Obligations.ParkedThreadsWake := by
  unfold Obligations.ParkedThreadsWake
  intro s c sl hq
  refine ⟨fun ea size cmp ref w => watchWake_wakes hq, fun ea size cmp ref => joinwWake_wakes hq,
    fun ea size cmp ref n w => watchPoll_wakes hq, fun ea size cmp ref n => joinwWake_polls hq,
    fun k cmp ref h => ⟨kwaitWake_wakes hq h, fun e rest hlast hnow hlater =>
      ⟨kwaitWake_wakesLater hq h hlast hnow hlater, kwaitWake_stays h hlast hnow hlater⟩⟩,
    fun n => parkExpire_wakes hq, fun n => parkExpire_halted, fun n => tlbinvComplete_wakes hq,
    fun eng seq h => ⟨waitjWake_wakes hq h, waitjWake_stays h⟩, fun pno => spawnRingWake_wakes hq,
    fun cell => ldfWake_stays, fun cell u => ldfWake_wakes hq,
    fun sc u hu hwhy => stopwComplete_completes hu hwhy hq, fun sc u => stopwComplete_waits,
    fun pno p h rest stamp hp hqueue hparked hsome => ?_, fun cl n stamp pno u rest hfree hwaits hu => payaWake_wakes hq hu hfree hwaits⟩
  obtain ⟨u, hu⟩ := Option.isSome_iff_exists.mp hsome
  exact lreqWake_wakes hq hu hp hqueue hparked

end Sys2Proof.Machine
end

section
/-! What the writes that slices perform, and the records that the device makes, leave of cores, threads and partitions: a
thread that waits on a word may be told of it (R181), and a partition's observers count (R258, R273). -/

namespace Sys2Proof.Machine

/-- A thread as it stood before a wake packet was on its way to it (R181). -/
def Thread.untold (t : Thread) : Thread :=
  match t.park with
  | some ⟨.word ea n c r .packet w, st, si⟩ => { t with park := some ⟨.word ea n c r .table w, st, si⟩ }
  | _ => t

theorem Thread.untold_packet (t : Thread) : t.packet.untold = t.untold := by
  unfold Thread.packet
  split
  case _ ea n c r w st si h => cases t; cases h; rfl
  case _ => rfl

theorem Thread.untold_rest (t : Thread) : t.untold = { t with park := t.untold.park } := by
  unfold Thread.untold; split <;> rfl

theorem Thread.parked_untold {t : Thread} {w : Why} (hw : ∀ ea n c r k, w ≠ .word ea n c r .table k)
    (h : t.untold.park.map Park.why = some w) : t.park.map Park.why = some w := by
  unfold Thread.untold at h
  split at h
  case _ ea n c r k st si _ => exact absurd (Option.some.inj h).symm (hw ea n c r k)
  case _ => exact h

theorem Thread.untold_self {t : Thread} (h : ∀ ea n c r w, t.park.map Park.why ≠ some (.word ea n c r .packet w)) : t.untold = t := by
  unfold Thread.untold
  split
  case _ ea n c r w st si hp => exact absurd (by rw [hp]; rfl) (h ea n c r w)
  case _ => rfl

/-- A partition but for what its observers have noted (R50, R258, R273). -/
def Part.unrecorded (p : Part) : Part := { p with odrop := 0, otail := 0, gather := [], notices := [], slctrs := [] }

theorem Part.countQuiet_unrecorded (p : Part) (j ev n : Nat) : (p.countQuiet j ev n).unrecorded = p.unrecorded := by
  unfold Part.countQuiet
  split
  · rfl
  · exact List.foldlRecOn (motive := fun q : Part => q.unrecorded = p.unrecorded) _ _ rfl fun _ h _ _ => h

theorem State.core_modThread_ne (s : State) {c d : Nat} (sl : Nat) (f : Thread → Thread) (h : d ≠ c) :
    (s.modThread c sl f).core d = s.core d := by
  unfold State.modThread
  split
  · exact State.core_modCore_ne _ _ h
  · rfl

/-- Nothing changes of the cores but that waiting threads may be told of their words, and nothing of the partitions but what
their observers have noted. -/
structure Told (s t : State) : Prop where
  core : ∀ c, t.core c =
    { s.core c with threads := (t.core c).threads, displaced := (t.core c).displaced, saved := (t.core c).saved }
  look : ∀ c sl, (t.thread? c sl).map Thread.untold = (s.thread? c sl).map Thread.untold
  threads : ∀ c, ∀ e ∈ (t.core c).threads, ∃ o ∈ (s.core c).threads, e.2.untold = o.2.untold
  parts : ∀ n, (t.parts.look n).map Part.unrecorded = (s.parts.look n).map Part.unrecorded

namespace Told

theorem of_same {s t : State} (hc : t.cores = s.cores) (hp : t.parts = s.parts) : Told s t where
  core c := by rw [State.core_congr hc]
  look c sl := by rw [State.thread_congr hc]
  threads c e he := ⟨e, by rw [← State.core_congr hc]; exact he, rfl⟩
  parts n := by rw [hp]

theorem refl (s : State) : Told s s := .of_same rfl rfl

theorem trans {s t u : State} (h : Told s t) (k : Told t u) : Told s u where
  core c := by have e := k.core c; rw [h.core c] at e; exact e
  look c sl := (k.look c sl).trans (h.look c sl)
  threads c e he := by
    obtain ⟨o, ho, heo⟩ := k.threads c e he
    obtain ⟨q, hq, hoq⟩ := h.threads c o ho
    exact ⟨q, hq, heo.trans hoq⟩
  parts n := (k.parts n).trans (h.parts n)

theorem foldl {α : Type} {f : State → α → State} (h : ∀ s a, Told s (f s a)) (l : List α) (s : State) : Told s (l.foldl f s) :=
  List.foldlRecOn (motive := fun t => Told s t) l f (.refl s) fun _ ht a _ => ht.trans (h _ a)

theorem ite {s t u : State} {c : Prop} [Decidable c] (h : Told s t) (k : Told s u) : Told s (if c then t else u) := by
  split
  · exact h
  · exact k

theorem modPart {f : Part → Part} (hf : ∀ p, (f p).unrecorded = p.unrecorded) (s : State) (pno : Nat) : Told s (s.modPart pno f) where
  core c := by rw [State.core_congr (s.modPart_cores pno f)]
  look c sl := by rw [State.thread_congr (s.modPart_cores pno f)]
  threads c e he := ⟨e, by rw [← State.core_congr (s.modPart_cores pno f)]; exact he, rfl⟩
  parts n := by
    rw [State.look_modPart]
    split
    case isTrue h => rw [h, Option.map_map]; exact congrArg (Option.map · _) (funext hf)
    case isFalse => rfl

/-- A thread in a slot is told. -/
theorem modThread (s : State) (c sl : Nat) : Told s (s.modThread c sl Thread.packet) where
  core d := by
    by_cases hd : d = c
    · subst hd; rw [State.core_modThread]
    · rw [State.core_modThread_ne _ _ _ hd]
  look d sm := by
    rw [State.thread_modThread]
    split
    case isTrue h => rw [h.1, h.2, Option.map_map]; exact congrArg (Option.map · _) (funext Thread.untold_packet)
    case isFalse => rfl
  threads d e he := by
    by_cases hd : d = c
    · subst hd
      unfold State.modThread at he
      split at he
      case _ t ht =>
        rw [State.setThread, State.core_modCore_self] at he
        rcases KMap.mem_put he with rfl | he
        · exact ⟨(sl, t), KMap.mem_of_look ht, t.untold_packet⟩
        · exact ⟨e, he, rfl⟩
      case _ => exact ⟨e, he, rfl⟩
    · rw [State.core_modThread_ne _ _ _ hd] at he
      exact ⟨e, he, rfl⟩
  parts n := by rw [State.modThread_parts]

/-- A thread is told, in a slot or not. -/
theorem modSth (s : State) (c sth : Nat) : Told s (s.modSth c sth Thread.packet) := by
  unfold State.modSth
  split
  · exact .modThread ..
  · have threads : ∀ d, ((s.modCore c fun x => { x with
        displaced := x.displaced.map (fun e => if e.1.sth = sth then (e.1.packet, e.2) else e),
        saved := x.saved.map fun t => if t.sth = sth then t.packet else t }).core d).threads = (s.core d).threads := fun d => by
      rw [State.core_modCore]
      split
      case isTrue h => rw [h]
      case isFalse => rfl
    refine ⟨fun d => ?_, fun d sl => ?_, fun d e he => ⟨e, by rw [threads] at he; exact he, rfl⟩, fun n => rfl⟩
    · rw [State.core_modCore]
      split
      case isTrue h => rw [h]
      case isFalse => rfl
    · rw [State.thread?, threads]; rfl

end Told

/-! ### Memory, watched words and slices -/

theorem State.rekey_cores (s : State) (gen u : Nat) : (s.rekey gen u).cores = s.cores := by
  unfold State.rekey; split
  · rfl
  · split <;> rfl

theorem State.dramWrite_told (s : State) (gen pa : Nat) (bs : List Byte) : Told s (s.dramWrite gen pa bs) :=
  (Told.foldl (fun t u => .of_same (t.rekey_cores gen u) (t.rekey_parts gen u)) (cellsOf pa bs.length) s).trans (.of_same rfl rfl)

theorem State.watchFree_told (s : State) (pno pa n : Nat) : Told s (s.watchFree pno pa n).2.2 := by
  unfold State.watchFree
  split
  · exact .refl s
  · dsimp only
    split
    · exact .refl s
    · refine .trans ?_ (.foldl (fun t (w : Nat × Nat) => .modSth t w.1 w.2) _ _)
      exact .of_same rfl rfl

theorem State.watchAfter_told (s : State) (pno pa n : Nat) : Told s (s.watchAfter pno pa n) :=
  (s.watchFree_told pno pa n).trans (.ite (.refl _) (.modPart (fun p => p.countQuiet_unrecorded ..) _ _))

theorem State.sliceLook_cores (s : State) (pno blk a n : Nat) : (s.sliceLook pno blk a n).2.cores = s.cores := by
  unfold State.sliceLook State.sliceFetch; dsimp only; split
  · rfl
  · split <;> rfl

theorem State.sliceLook_told (s : State) (pno blk a n : Nat) : Told s (s.sliceLook pno blk a n).2 :=
  .of_same (s.sliceLook_cores ..) (s.sliceLook_parts ..)

theorem State.walkSee_told (s : State) (pno pa : Nat) : Told s (s.walkSee pno pa) :=
  (s.sliceLook_told ..).trans (.modPart (fun p => p.countQuiet_unrecorded ..) _ _)

/-! ### Translation (R185, R187, R188) -/

theorem State.markPte_told (s : State) (pno : Nat) (p : Part) (pa e : Nat) (acc : Acc) : Told s (s.markPte pno p pa e acc) :=
  .ite (((s.walkSee_told pno pa).trans (State.dramWrite_told ..)).trans (State.watchAfter_told ..)) (.refl s)

/-- What a walk answers. -/
def WalkTold (s : State) : Except Walked (Nat × TlbEntry × State) → Prop
  | .ok (_, _, t) => Told s t
  | .error (.fault _ _ t) | .error (.malformed _ t) => Told s t
  | .error .off => True
  | .error (.ok _ _) => False

theorem WalkTold.after {s t : State} (h : Told s t) {r : Except Walked (Nat × TlbEntry × State)} (k : WalkTold t r) :
    WalkTold s r := by
  match r, k with
  | .ok (_, _, _), k => exact h.trans k
  | .error (.fault _ _ _), k => exact h.trans k
  | .error (.malformed _ _), k => exact h.trans k
  | .error .off, _ => trivial

theorem State.leafEnd_told (s : State) (pno : Nat) (p : Part) (level ptePa e pa size va : Nat) (acc : Acc) (app : Bool) :
    WalkTold s (s.leafEnd pno p level ptePa e pa size va acc app) := by
  unfold State.leafEnd; split
  · exact State.markPte_told ..
  · exact Told.refl s

theorem State.walkFrom_told (pno : Nat) (p : Part) (va : Nat) (acc : Acc) (app : Bool) (levels : List Nat) :
    ∀ (s : State) (tab : Nat), WalkTold s (s.walkFrom pno p va acc app levels tab) := by
  induction levels with
  | nil => exact fun s _ => Told.refl s
  | cons level rest ih =>
    intro s tab
    have seen := s.walkSee_told pno (tab + 8 * vaIndex level va)
    unfold State.walkFrom
    dsimp only
    cases judgePte p.oki level (s.dramRead p.keyGen (tab + 8 * vaIndex level va) 8) with
    | absent => exact seen
    | malformed => exact seen
    | table next => exact .after seen (ih ..)
    | leaf pa size =>
      dsimp only
      split
      · refine .after seen ?_
        split
        · split
          · exact .after (State.walkSee_told ..) (State.leafEnd_told ..)
          · exact State.walkSee_told ..
        · exact State.walkSee_told ..
      · exact .after seen (State.leafEnd_told ..)

theorem State.choose_told (s : State) : Told s s.choose.2 := .of_same s.choose_cores.1 s.choose_parts

theorem State.walk_told (s : State) (via : Via) (pno : Nat) (p : Part) (va : Nat) (acc : Acc) (app : Bool) :
    WalkTold s (s.walk via pno p va acc app) := by
  have walked := WalkTold.after s.choose_told
    (s.choose.2.walkFrom_told pno p va acc app [1, 2, 3, 4, 5] (bits p.ptbr.toNat 51 12 * 4096))
  unfold State.walk
  dsimp only
  split
  · trivial
  split
  · exact Told.refl s
  split
  · exact .after s.choose_told (State.walkFrom_told ..)
  split
  · rename_i hw; rw [hw] at walked; exact walked
  · rename_i hw
    rw [hw] at walked
    exact Told.trans walked (.of_same rfl rfl)

/-- A translation for the device itself fills no TLB. -/
theorem State.translate_told {s t : State} {pno va pa : Nat} {acc : Acc} {app : Bool}
    (h : s.translate .lodge pno va acc app = .ok pa t) : Told s t := by
  unfold State.translate at h
  split at h
  · cases h
  · rename_i p _
    have hw := s.walk_told .lodge pno p va acc app
    dsimp only at h
    split at h
    · rename_i hr; rw [hr, h] at hw; exact hw.elim
    · rename_i hr; rw [hr] at hw; cases h; exact hw

theorem State.lodgeParts_told {pno : Nat} {acc : Acc} {app : Bool} {t : State} (l : List (Nat × Nat)) :
    ∀ {s : State} {r : List (Nat × Nat)}, s.lodgeParts pno acc app l = .ok (r, t) → Told s t := by
  induction l with
  | nil => intro s r h; cases h; exact .refl _
  | cons q rest ih =>
    intro s r h
    unfold State.lodgeParts at h
    split at h
    · cases h
    split at h
    · rename_i ht
      split at h
      · rename_i hl
        cases h
        exact (State.translate_told ht).trans (ih hl)
      · cases h
    all_goals cases h

/-! ### Records (R257 to R259) -/

theorem State.opRecord_told (s : State) (r : Obs) : Told s (s.opRecord r) :=
  .of_same (by unfold State.opRecord; dsimp only; split <;> rfl) (s.opRecord_parts r)

theorem State.gather_told (s : State) (pno key n : Nat) : Told s (s.gather pno key n) := .modPart (fun _ => by rfl) _ _

theorem State.opFilter_told (s : State) (r : Obs) : Told s (s.opFilter r) := by
  have record := s.opRecord_told
  have sum := s.gather_told r.part
  have same := Told.refl s
  exact .ite (record r) (.ite (record r) (.ite same (.ite (record r.coarse)
    (.ite (.ite (.ite (sum ..) same) (.ite (sum ..) same)) same))))

theorem State.recordParts_told (pno : Nat) (l : List (Nat × Nat)) :
    ∀ (s : State) (bs : List Byte), Told s (s.recordParts pno l bs) := by
  induction l with
  | nil => exact fun s _ => .refl s
  | cons q rest ih => exact fun s bs => ((State.dramWrite_told ..).trans (State.watchAfter_told ..)).trans (ih _ _)

theorem State.lodgeRecord_told {s t : State} {pno va : Nat} {bs : List Byte} {clean : Bool}
    (h : s.lodgeRecord pno va bs clean = .ok t) : Told s t := by
  unfold State.lodgeRecord at h
  split at h
  · cases h
  · rename_i hl
    split at h
    · cases h
    · cases h; exact (State.lodgeParts_told _ hl).trans (State.recordParts_told ..)

theorem State.ringRecord_told (s : State) (r : Obs) : Told s (s.ringRecord r) := by
  have lost : Told s (s.modPart r.part fun p => { p with odrop := (p.odrop + 1) % 2 ^ 32 }) := .modPart (fun _ => by rfl) _ _
  unfold State.ringRecord
  dsimp only
  split
  · split
    · rename_i hr; exact (State.lodgeRecord_told hr).trans (.modPart (fun _ => by rfl) _ _)
    · exact lost.trans (State.opFilter_told ..)
    · exact lost
  · exact lost

theorem State.emit1_told (s : State) (r : Obs) : Told s (s.emit1 r) := by
  unfold State.emit1
  split
  · exact s.opFilter_told r
  · exact (s.ringRecord_told r).trans (State.opFilter_told ..)

theorem State.emit_told (s : State) (r : Obs) : Told s (s.emit r) := by
  refine (s.emit1_told r).trans ?_
  exact .ite (.refl _) (.trans (.modPart (fun _ => by rfl) _ _) (.foldl (fun t _ => t.emit1_told _) _ _))

/-! ### Writes at the slices (R179, R202, R273) -/

theorem State.countSlice_told (s : State) (pno j ev n : Nat) : Told s (s.countSlice pno j ev n) := by
  refine .ite (.refl s) (.foldl (fun t k => ?_) _ s)
  dsimp only
  split
  · exact .trans (.modPart (fun _ => by rfl) _ _) (State.emit_told ..)
  · exact .modPart (fun _ => by rfl) _ _

theorem State.sliceSee_told (s : State) (pno : Nat) (runs : List (Nat × Nat)) : Told s (s.sliceSee pno runs) :=
  .foldl (fun t _ => .foldl (fun u _ => (u.sliceLook_told ..).trans (State.countSlice_told ..)) _ t) _ s

theorem State.watchCheck_told (s : State) (pno pa n : Nat) : Told s (s.watchCheck pno pa n) :=
  (s.watchFree_told pno pa n).trans (.ite (.refl _) (State.countSlice_told ..))

theorem State.sliceWrite_told (s : State) (pno pa : Nat) (bs : List Byte) : Told s (s.sliceWrite pno pa bs) :=
  .foldl (fun t _ => ((t.dramWrite_told ..).trans (State.sliceSee_told ..)).trans (State.watchCheck_told ..)) _ s

end Sys2Proof.Machine
end

section
/-! A thread that stays at its instruction while its core works on: the registers and the local memory stay, and the
instruction completes. -/

namespace Sys2Proof.Machine

/-- The register file and the local memory of a core, what it logs and where each of its threads stands are as they were. -/
structure StaysPut (s t : State) (c : Nat) : Prop where
  regs : (t.core c).regs = (s.core c).regs
  lmem : (t.core c).lmem = (s.core c).lmem
  slcfg : (t.core c).slcfg = (s.core c).slcfg
  pcs : ∀ sl, (t.thread? c sl).map Thread.pc = (s.thread? c sl).map Thread.pc
  cur : t.cur = s.cur

namespace StaysPut

theorem of_cores {s t : State} (hcores : t.cores = s.cores) (hcur : t.cur = s.cur) (c : Nat) : StaysPut s t c :=
  ⟨by rw [State.core_congr hcores], by rw [State.core_congr hcores], by rw [State.core_congr hcores],
    fun sl => by rw [State.thread_congr hcores], hcur⟩

theorem refl (s : State) (c : Nat) : StaysPut s s c := .of_cores rfl rfl c

theorem trans {s t u : State} {c : Nat} (h : StaysPut s t c) (k : StaysPut t u c) : StaysPut s u c :=
  ⟨k.regs.trans h.regs, k.lmem.trans h.lmem, k.slcfg.trans h.slcfg, fun sl => (k.pcs sl).trans (h.pcs sl), k.cur.trans h.cur⟩

/-- An update of the core that leaves its threads. -/
theorem modCore {f : Core → Core} (s : State) (c : Nat) (hr : (f (s.core c)).regs = (s.core c).regs)
    (hm : (f (s.core c)).lmem = (s.core c).lmem) (hs : (f (s.core c)).slcfg = (s.core c).slcfg)
    (ht : (f (s.core c)).threads = (s.core c).threads) : StaysPut s (s.modCore c f) c := by
  refine ⟨?_, ?_, ?_, fun sl => ?_, rfl⟩ <;> simp only [State.thread?, State.core_modCore_self, hr, hm, hs, ht]

theorem of_told {s t : State} (h : Told s t) (hcur : t.cur = s.cur) (c : Nat) : StaysPut s t c := by
  refine ⟨by rw [h.core], by rw [h.core], by rw [h.core], fun sl => ?_, hcur⟩
  have pc_untold : Thread.pc ∘ Thread.untold = Thread.pc := funext fun t => by
    show t.untold.pc = t.pc
    rw [t.untold_rest]
  have look := congrArg (Option.map Thread.pc) (h.look c sl)
  rwa [Option.map_map, Option.map_map, pc_untold] at look

section
variable {s t : State} {u : Thread} (h : StaysPut s t s.cur.core) (hu : s.me? = some u)
include h hu

/-- The thread still stands at the instruction that it issues. -/
theorem issuer : ∃ v, t.me? = some v ∧ v.pc = u.pc := by
  have look := h.pcs s.cur.slot
  rw [show s.thread? s.cur.core s.cur.slot = some u from hu] at look
  obtain ⟨v, hv, hpc⟩ := Option.map_eq_some_iff.mp look
  exact ⟨v, State.me?_of_thread h.cur hv, hpc⟩

theorem retire (hl : LogOff s) : t.retire.me.pc = u.pc + 8 ∧ t.retire.myCore.regs = s.myCore.regs
    ∧ t.retire.myCore.lmem = s.myCore.lmem ∧ ∀ n, n ∉ s.cur.pops → t.retire.myCore.chan n = (t.core s.cur.core).chan n := by
  obtain ⟨v, hv, hpc⟩ := h.issuer hu
  have hcore := State.myCore_of_cur h.cur
  have off : LogOff t := by rw [LogOff, hcore, h.slcfg]; exact hl
  have retired := State.retireTo_myCore (t.me.pc + 8) hv off
  refine ⟨by rw [State.retire_me hv off, ← hpc]; rfl, ?_, ?_, fun n hn => ?_⟩
  · rw [State.retire, retired]; exact (congrArg Core.regs hcore).trans h.regs
  · rw [State.retire, retired]; exact (congrArg Core.lmem hcore).trans h.lmem
  · rw [State.retire, retired, ← h.cur]
    exact State.doPops_chan_of_not_mem t n (by rw [h.cur]; exact hn)

end
end StaysPut

end Sys2Proof.Machine
end

section
/-! QPEEK, QCNT, QFLUSH, QBIND and KWAIT (R150, R152 to R154, R357 to R359), and the statement about them. -/

namespace Sys2Proof.Machine

/-! ### QPEEK and QCNT (R357) -/

section
variable {s : State} {p : Pred} {d a : Code} (hi : Issues s p (some (rg d)) [⟨a, .chan⟩])
include hi

theorem qcnt_counts : exec (.qcnt p d a) s =
    .next (wrote s [⟨a, .chan⟩] d (Word.ofNat (s.myCore.chan (codeNum a)).vals.length)) := by
  rw [exec_qcnt, execQcnt, issue_goes hi]; rfl

theorem qpeek_looks {v : Word} {n : Nat} {rest : List (Word × Nat)} (hb : (s.myCore.chan (codeNum a)).bind = none)
    (hvals : (s.myCore.chan (codeNum a)).vals = (v, n) :: rest)
    (hready : chansReady s.myCore s.cur.slot s.me.prog.stamp [codeNum a] (destChan (some (rg d))) true = true) :
    exec (.qpeek p d a) s = .next (wrote s [⟨a, .chan⟩] d v) := by
  rw [exec_qpeek, execQpeek, issue_goes hi]
  simp only [began_myCore, hb, Option.isSome_none, Bool.false_eq_true, if_false]
  refine congrArg Host.Outcome.next ((if_pos hready).trans ?_)
  rw [hvals]
  rfl

end

/-! ### QFLUSH (R154, R357) -/

theorem State.sendBatch_unbound {s : State} {c ch : Nat} (hb : ((s.core c).chan ch).bind = none) : s.sendBatch c ch = s := by
  simp only [State.sendBatch, hb]

theorem State.gondola_keeps (s : State) (core sth lid : Nat) (ord : Option (Nat × Nat)) (req : RemReq) (w : Flight) :
    (s.gondola core sth lid ord req w).cores = s.cores ∧ (s.gondola core sth lid ord req w).cur = s.cur := by
  unfold State.gondola
  by_cases hup : s.upPorts (bits req.addr.toNat 40 31) = []
  · rw [State.pickPort_none hup]; exact ⟨rfl, rfl⟩
  · obtain ⟨port, l, hp, -⟩ := State.pickPort_some hup ord
    rw [hp]; exact ⟨rfl, rfl⟩

/-- What a batch that leaves changes of its core: the entries sent are no longer in the channel (R154). -/
structure BatchSent (s t : State) (c ch n : Nat) : Prop where
  stays : StaysPut s t c
  vals : ((t.core c).chan ch).vals = ((s.core c).chan ch).vals.drop n

namespace BatchSent
variable {s t u : State} {c ch n : Nat}

theorem setAfter {q : Chan} (h : StaysPut s t c) (hq : q.vals = ((s.core c).chan ch).vals.drop n) :
    BatchSent s (t.modCore c fun x => x.setChan ch q) c ch n :=
  ⟨h.trans (.modCore t c rfl rfl rfl rfl), by rw [State.chan_modCore, hq]⟩

theorem of_cores (h : BatchSent s t c ch n) (hcores : u.cores = t.cores) (hcur : u.cur = t.cur) : BatchSent s u c ch n :=
  ⟨h.stays.trans (.of_cores hcores hcur c), by rw [State.core_congr hcores, h.vals]⟩

end BatchSent

/-- The entries of a batch, lost with their port, are acknowledged. -/
theorem State.acks_keep (l : List (Word × Nat)) (s : State) (c : Nat) :
    (l.foldl (fun (s : State) e => s.send c e.2 0 (.ack 1)) s).cores = s.cores
    ∧ (l.foldl (fun (s : State) e => s.send c e.2 0 (.ack 1)) s).cur = s.cur :=
  ⟨State.foldl_keeps State.cores (f := fun (s : State) (e : Word × Nat) => s.send c e.2 0 (.ack 1)) (fun _ _ => rfl) l s,
    State.foldl_keeps State.cur (f := fun (s : State) (e : Word × Nat) => s.send c e.2 0 (.ack 1)) (fun _ _ => rfl) l s⟩

theorem State.remoteRecord_stays (s : State) (pno core addr code c : Nat) : StaysPut s (s.remoteRecord pno core addr code) c :=
  .of_told (s.emit_told _) (by rw [(s.emit_work _).rest]) c

theorem State.sendBatch_sends {s : State} {c ch : Nat} {b : Bind} (hb : ((s.core c).chan ch).bind = some b) :
    BatchSent s (s.sendBatch c ch) c ch (min (min ((s.core c).chan ch).vals.length 16) b.credits) := by
  set n := min (min ((s.core c).chan ch).vals.length 16) b.credits with hn
  simp only [State.sendBatch, hb, ← hn]
  by_cases h0 : n = 0
  · rw [if_pos h0]; exact .setAfter (.refl s c) (by rw [h0]; rfl)
  rw [if_neg h0]
  have sent : BatchSent s (s.modCore c fun x => x.setChan ch (((s.core c).chan ch).sent b n s.clk)) c ch n := .setAfter (.refl s c) rfl
  split
  · exact sent.of_cores rfl rfl
  split
  · obtain ⟨hcores, hcur⟩ := State.acks_keep (((s.core c).chan ch).vals.take n)
      (s.modCore c fun x => x.setChan ch (((s.core c).chan ch).sent b n s.clk)) c
    exact .setAfter ((sent.of_cores hcores hcur).stays.trans (State.remoteRecord_stays _ _ _ _ _ c)) rfl
  · obtain ⟨hcores, hcur⟩ := State.gondola_keeps (s.modCore c fun x => x.setChan ch (((s.core c).chan ch).sent b n s.clk)) c 0 0
      _ _ _
    exact sent.of_cores hcores hcur

section
variable {s : State} {p : Pred} {a : Code} (hi : Issues s p none [⟨a, .chan⟩])
include hi

theorem qflush_unbound (hb : (s.myCore.chan (codeNum a)).bind = none) :
    exec (.qflush p a) s = .next (passed s [⟨a, .chan⟩]) := by
  rw [exec_qflush, execQflush, issue_goes hi]
  exact congrArg (fun t : State => Host.Outcome.next t.retire) (State.sendBatch_unbound (s := began s [⟨a, .chan⟩]) hb)

theorem qflush_sends {b : Bind} (hb : (s.myCore.chan (codeNum a)).bind = some b) (hl : LogOff s) :
    ∃ t, exec (.qflush p a) s = .next t ∧ t.me.pc = s.me.pc + 8 ∧ t.myCore.regs = s.myCore.regs
      ∧ t.myCore.lmem = s.myCore.lmem ∧ (t.myCore.chan (codeNum a)).vals = (s.myCore.chan (codeNum a)).vals.drop
        (min (min (s.myCore.chan (codeNum a)).vals.length 16) b.credits) := by
  obtain ⟨u, hu⟩ := Option.isSome_iff_exists.mp hi.1
  have sent := State.sendBatch_sends (s := began s [⟨a, .chan⟩]) hb
  obtain ⟨hpc, hregs, hlmem, hchan⟩ := sent.stays.retire (u := u) hu hl
  refine ⟨_, by rw [exec_qflush, execQflush, issue_goes hi]; rfl, ?_, hregs, hlmem, ?_⟩
  · rw [State.me_eq hu]; exact hpc
  · exact (congrArg Chan.vals (hchan _ List.not_mem_nil)).trans sent.vals

end

/-! ### QBIND (R154, R358) -/

/-- A channel set by an instruction that completes. -/
theorem State.setChan_retire {s : State} {u : Thread} (n : Nat) (q : Chan) (hu : s.me? = some u) (hl : LogOff s) :
    (s.modMyCore fun x => x.setChan n q).retire.me.pc = u.pc + 8
    ∧ (n ∉ s.cur.pops → (s.modMyCore fun x => x.setChan n q).retire.myCore.chan n = q) := by
  obtain ⟨hpc, -, -, hchan⟩ := (StaysPut.modCore (f := fun x => x.setChan n q) s s.cur.core rfl rfl rfl rfl).retire hu hl
  exact ⟨hpc, fun hn => (hchan n hn).trans (State.chan_modCore ..)⟩

/-- A value that names another channel of a core of the partition passes what QBIND checks (R358). -/
theorem State.bindFails_eq_false {s : State} {n : Nat} {v : Word} (hw : isWindow v.toNat = true) (h57 : v.toNat < 2 ^ 57)
    (hlow : bits v.toNat 18 4 = 0) (hbad : s.winBad v.toNat = false) (hpart : s.corePart (winCore v.toNat) = some s.myPartNo)
    (hself : ¬ (winCore v.toNat = s.cur.core ∧ bits v.toNat 3 0 = n)) : s.bindFails n v = false := by
  simp only [State.bindFails, hw, h57, hlow, hbad, hpart]
  simpa using fun _ => not_and.mp hself

section
variable {s : State} {p : Pred} {a b : Code} (hi : Issues s p none [⟨a, .chan⟩, rg b])
  (hvals : (s.myCore.chan (codeNum a)).vals = [])
include hi hvals

theorem qbind_unbound (hv : s.operand [b] 0 = 0) (hb : (s.myCore.chan (codeNum a)).bind = none) :
    exec (.qbind p a b) s = .next (passed s [⟨a, .chan⟩, rg b]) := by
  rw [exec_qbind, execQbind, issue_goes hi]
  simp only [began_operand, began_myCore, hv, hb, hvals, if_true]
  rfl

theorem qbind_unbinds {bd : Bind} (hv : s.operand [b] 0 = 0) (hb : (s.myCore.chan (codeNum a)).bind = some bd)
    (hout : bd.out = 0) (hp : s.myCore.pushers.look (codeNum a) = none) (hl : LogOff s) :
    ∃ t, exec (.qbind p a b) s = .next t ∧ t.me.pc = s.me.pc + 8
      ∧ (codeNum a ∉ popsOf (regCodes [rg b]) → t.myCore.chan (codeNum a) = Chan.empty) := by
  have unbinds : exec (.qbind p a b) s =
      .next ((began s [⟨a, .chan⟩, rg b]).modMyCore fun x => x.setChan (codeNum a) Chan.empty).retire := by
    rw [exec_qbind, execQbind, issue_goes hi]
    simp only [began_operand, began_myCore, hv, hb, hvals, hout, hp, if_true, decide_true, Option.isNone_none, Bool.and_self]
  obtain ⟨hpc, hchan⟩ := State.setChan_retire (s := began s [⟨a, .chan⟩, rg b]) (codeNum a) Chan.empty (State.me?_of_issues hi) hl
  exact ⟨_, unbinds, hpc, hchan⟩

section
variable {v : Word} (hv : s.operand [b] 0 = v) (h0 : v ≠ 0)
  (hq : (s.myCore.chan (codeNum a)).bind = none ∨ s.myCore.pushers.look (codeNum a) = none)
  (hhere : s.winHere v.toNat = true) (hfails : s.bindFails (codeNum a) v = false)
include hv h0 hq hhere hfails

theorem qbind_binds :
    exec (.qbind p a b) s = .next ((began s [⟨a, .chan⟩, rg b]).bindChan (codeNum a) v).retire := by
  have fails : (began s [⟨a, .chan⟩, rg b]).bindFails (codeNum a) v = false := hfails
  have here : (began s [⟨a, .chan⟩, rg b]).winHere v.toNat = true := hhere
  rw [exec_qbind, execQbind, issue_goes hi]
  simp only [began_operand, began_myCore, hv, fails, here, h0, hvals, if_true, if_false, Bool.false_eq_true, decide_true,
    Bool.true_and]
  cases hb : (s.myCore.chan (codeNum a)).bind with
  | none => rfl
  | some bd =>
    have pushers : s.myCore.pushers.look (codeNum a) = none := hq.resolve_left (by rw [hb]; exact Option.some_ne_none bd)
    rw [pushers]; rfl

theorem qbind_bound (hl : LogOff s) : ∃ t, exec (.qbind p a b) s = .next t ∧ t.me.pc = s.me.pc + 8
    ∧ (codeNum a ∉ popsOf (regCodes [rg b]) → ((t.myCore.chan (codeNum a)).bind.map fun k => (k.dev, k.core, k.chan, k.credits, k.out)) =
      some (winDev v.toNat, winCore v.toNat, bits v.toNat 3 0, 16, 0)) := by
  obtain ⟨hpc, hchan⟩ := State.setChan_retire (s := (began s [⟨a, .chan⟩, rg b]).tickStamp.2) (codeNum a)
    ⟨[], some ⟨winDev v.toNat, winCore v.toNat, bits v.toNat 3 0, 16, 0, s.stamp⟩, s.clk, false, []⟩ (State.me?_of_issues hi) hl
  exact ⟨_, qbind_binds hi hvals hv h0 hq hhere hfails, hpc, fun hn => congrArg (Option.map _) (congrArg Chan.bind (hchan hn))⟩

end

end

/-! ### KWAIT (R150, R359) -/

section
variable {s : State} {p : Pred} {a b : Code} {cmp : WCmp} (hi : Issues s p none [⟨a, .kreg⟩, rg b])
include hi

theorem kwait_completes (h : wcmpHolds cmp 64 (kRead (s.myCore.kregs.lookD (codeNum a) []) s.clk).toNat (s.operand [b] 0).toNat = true
    ∨ s.me.prog.finished = true) : exec (.kwait p a b cmp) s = .next (passed s [⟨a, .kreg⟩, rg b]) := by
  have go : (s.me.prog.finished || wcmpHolds cmp 64 (kRead (s.myCore.kregs.lookD (codeNum a) []) s.clk).toNat
      (s.operand [b] 0).toNat) = true := Bool.or_eq_true_iff.mpr h.symm
  rw [exec_kwait, execKwait, issue_goes hi]
  exact congrArg Host.Outcome.next (if_pos go)

theorem kwait_parks (h : wcmpHolds cmp 64 (kRead (s.myCore.kregs.lookD (codeNum a) []) s.clk).toNat (s.operand [b] 0).toNat = false)
    (hf : s.me.prog.finished = false) (hl : LogOff s) : ∃ t, exec (.kwait p a b cmp) s = .next t ∧ t.me.pc = s.me.pc
      ∧ t.me.park.map Park.why = some (.kwait (codeNum a) cmp (s.operand [b] 0)) := by
  have waits : (s.me.prog.finished || wcmpHolds cmp 64 (kRead (s.myCore.kregs.lookD (codeNum a) []) s.clk).toNat
      (s.operand [b] 0).toNat) = false := by rw [hf, h]; rfl
  have parks : exec (.kwait p a b cmp) s = .next ((began s [⟨a, .kreg⟩, rg b]).takeSources.parkMe
      (.kwait (codeNum a) cmp (s.operand [b] 0))) := by
    rw [exec_kwait, execKwait, issue_goes hi]
    exact congrArg Host.Outcome.next (if_neg (by rw [Bool.not_eq_true]; exact waits))
  have prepared := (began s [⟨a, .kreg⟩, rg b]).takeSources_prepares
  obtain ⟨u, hu, still⟩ := prepared.thread (State.me?_of_issues hi)
  obtain ⟨hpc, hpark⟩ := State.parkMe_me (.kwait (codeNum a) cmp (s.operand [b] 0)) hu (prepared.logOff hl)
  exact ⟨_, parks, hpc.trans still.pc, hpark⟩

end

/-- Settles O24: each instruction in turn. QPEEK, QCNT, QBIND of an unbound channel and KWAIT that holds complete with their
result alone; a batch that leaves keeps all of its core but the channel, whichever way it goes. -/
theorem channelInstructions : Obligations.ChannelInstructions := by
  refine ⟨fun s p d a hi => ⟨qcnt_counts hi, fun v n rest => qpeek_looks hi⟩,
    fun s p a hi => ⟨qflush_unbound hi, fun bd hb hl => ?_⟩,
    fun s p a b hi hvals => ⟨qbind_unbound hi hvals, fun bd => qbind_unbinds hi hvals, ?_⟩,
    fun s p a b cmp hi => ⟨kwait_completes hi, kwait_parks hi⟩⟩
  · obtain ⟨t, flushes, hpc, hregs, hlmem, hchan⟩ := qflush_sends hi hb hl
    exact ⟨t, flushes, hpc, hregs, fun x => by rw [hlmem], hchan⟩
  · intro h0 hq hw h57 hlow hhere hbad hpart hself hl
    exact qbind_bound hi hvals rfl h0 hq hhere (State.bindFails_eq_false hw h57 hlow hbad hpart hself) hl

end Sys2Proof.Machine
end

section
/-! Flights that land, releases that move on, and cores that sleep and wake (R171, R175, R176, R180, R206), and the
statement about them. -/

namespace Sys2Proof.Machine

theorem mem_insertNat {l : List Nat} {i n : Nat} : n ∈ insertNat l i ↔ n = i ∨ n ∈ l := by
  induction l with
  | nil => rw [insertNat, List.mem_singleton, or_iff_left List.not_mem_nil]
  | cons k l ih =>
    unfold insertNat
    split
    · exact List.mem_cons
    split
    · rename_i h; rw [h, List.mem_cons, ← or_assoc, or_self]
    · rw [List.mem_cons, ih, List.mem_cons]; exact or_left_comm

theorem mem_foldl_insertNat (cells : List Nat) : ∀ {l : List Nat} {n : Nat}, n ∈ cells.foldl insertNat l ↔ n ∈ l ∨ n ∈ cells := by
  induction cells with
  | nil => exact fun {l n} => (or_iff_left List.not_mem_nil).symm
  | cons i cells ih => intro l n; rw [List.foldl_cons, ih, mem_insertNat, List.mem_cons, or_comm (a := n = i), or_assoc]

/-! ### Releases (R206) -/

/-- Where no thread is in a release, none moves on. -/
theorem State.relSettle_idle {s : State} {c : Nat} (h : ∀ v ∈ (s.core c).threads, v.2.rel = none) : s.relSettle c = s := by
  refine List.foldlRecOn (motive := fun t => t = s) _ _ rfl fun t ht e _ => ?_
  subst ht
  dsimp only
  split
  · rfl
  · rename_i u hu
    rw [h _ (KMap.mem_of_look hu)]
    rfl

theorem oldestParked_none {x : Core} {w : Why → Bool} (h : ∀ e ∈ x.threads, ∀ p, e.2.park = some p → w p.why = false) :
    oldestParked x w = none := by
  unfold oldestParked
  dsimp only
  rw [List.filterMap_eq_nil_iff.mpr]
  · rfl
  · intro e he
    split
    · rename_i p hp; rw [h e he p hp]; rfl
    · rfl

/-- The one thread of a core, parked in a release of which every condition now holds. -/
theorem State.relSettle_done {s : State} {c sl : Nat} {u : Thread} (ht : (s.core c).threads = [(sl, u)])
    (hrel : u.rel.isSome) (hpark : u.park.map Park.why = some .rel) (hdone : (u.relMove (s.core c)).relDone = true) :
    s.relSettle c = (s.setThread c sl (u.relMove (s.core c)).relEnd).wake c sl := by
  have hu : s.thread? c sl = some u := by rw [State.thread?, ht]; exact if_pos rfl
  have moving : u.rel.isNone = false := by rw [Option.isNone_eq_false_iff]; exact hrel
  obtain ⟨⟨w, n, since⟩, hp, rfl⟩ := Option.map_eq_some_iff.mp hpark
  have parked : (u.relMove (s.core c)).park = some ⟨.rel, n, since⟩ := by rw [← hp]; unfold Thread.relMove; split <;> rfl
  simp only [State.relSettle, ht, List.foldl_cons, List.foldl_nil, hu, moving, parked, hdone, Bool.false_eq_true, if_false, if_true]

/-! ### The store buffer and the slices (R176, R180) -/

theorem storeBufferDrain_lands {s : State} {c : Nat} {e : SbEntry} (hb : (s.core c).sbuf = [e])
    (hreds : s.myReds c e.sth (lineOf e.addr) = [])
    (hidle : ∀ v ∈ (s.core c).threads, v.2.rel = none ∧ v.2.park.map Park.why ≠ some .sbFull) :
    exec (.storeBufferDrain c 0) s =
      .next ((s.modCore c fun x => x.sbDrop e.seq).sliceWrite ((s.corePart c).getD 0) e.addr e.data) := by
  have told := (s.modCore c fun x => x.sbDrop e.seq).sliceWrite_told ((s.corePart c).getD 0) e.addr e.data
  set t := (s.modCore c fun x => x.sbDrop e.seq).sliceWrite ((s.corePart c).getD 0) e.addr e.data
  have idle : ∀ v ∈ (t.core c).threads, v.2.rel = none ∧ v.2.park.map Park.why ≠ some .sbFull := fun v hv => by
    obtain ⟨o, ho, hvo⟩ := told.threads c v hv
    rw [State.core_modCore_self] at ho
    obtain ⟨hrel, hpark⟩ := hidle o ho
    refine ⟨?_, fun hfull => hpark ?_⟩
    · have same := congrArg Thread.rel hvo
      rw [v.2.untold_rest, o.2.untold_rest] at same
      exact same.trans hrel
    · rw [Thread.untold_self (by rw [hfull]; exact fun _ _ _ _ _ h => nomatch h)] at hvo
      exact Thread.parked_untold (fun _ _ _ _ _ h => nomatch h) (by rw [← hvo]; exact hfull)
  have drains : s.drainEntry c e = t := by
    unfold State.drainEntry
    rw [hreds]
    show (match oldestParked ((t.relSettle c).core c) _ with | some sl => _ | none => t.relSettle c) = t
    rw [State.relSettle_idle fun v hv => (idle v hv).1, oldestParked_none]
    intro v hv p hp
    exact decide_eq_false fun hw => (idle v hv).2 (by rw [hp]; exact congrArg some hw)
  rw [exec_storeBufferDrain, execStoreBufferDrain, hb]
  exact congrArg Host.Outcome.next drains

theorem Core.sbDrop_not_mem (x : Core) (e : SbEntry) : e ∉ (x.sbDrop e.seq).sbuf := fun h => by
  simp [Core.sbDrop] at h

theorem sliceAtomic_performs {s : State} {id po c sth lid ts pa size v : Nat} {op : AtOp} (h0 : 0 < size)
    (hf : s.flights = [⟨id, po, c, sth, lid, .red ts pa size op v⟩]) :
    exec (.sliceAtomic id) s = .next (({ s with flights := [⟨id, po, c, sth, lid, .ack 1⟩] }.dropLine c (lineOf pa)).sliceRmw
      ((s.corePart c).getD 0) pa size fun old => amoVal op (8 * size) old v).2 := by
  rw [exec_sliceAtomic]
  simp [execSliceAtomic, State.flight?, State.myReds, upTo, State.performAll, State.performFlight, hf, h0]

/-! ### Acknowledgements (R175) -/

theorem slotOf_alone {x : Core} {sl sth : Nat} {u : Thread} (ht : x.threads = [(sl, u)]) (hsth : u.sth = sth) :
    slotOf x sth = some sl := by
  simp [slotOf, ht, hsth]

/-- A thread with `n` of its writes acknowledged. -/
def Thread.acked (t : Thread) (n : Nat) : Thread := { t with unack := t.unack - n }

/-- The one thread of a core, in no release and not parked, is acknowledged. -/
theorem State.ackThread_alone {s : State} {c sth sl : Nat} {u : Thread} (n : Nat) (ht : (s.core c).threads = [(sl, u)])
    (hsth : u.sth = sth) (hpark : u.park = none) (hrel : u.rel = none) :
    s.ackThread c sth n = s.setThread c sl (u.acked n) := by
  have told : s.modSth c sth (fun t => t.acked n) = s.setThread c sl (u.acked n) := by
    have hu : s.thread? c sl = some u := by rw [State.thread?, ht]; exact if_pos rfl
    have slot : slotOf (s.core c) sth = some sl := slotOf_alone ht hsth
    simp only [State.modSth, slot, State.modThread, hu]
  have threads : ((s.setThread c sl (u.acked n)).core c).threads = [(sl, u.acked n)] := by
    rw [State.setThread, State.core_modCore_self, Core.setThread, ht]; simp [KMap.put]
  have settled : (s.setThread c sl (u.acked n)).relSettle c = s.setThread c sl (u.acked n) := State.relSettle_idle fun v hv => by
    rw [threads, List.mem_singleton] at hv; rw [hv]; exact hrel
  have slot : slotOf ((s.setThread c sl (u.acked n)).core c) sth = some sl := slotOf_alone threads hsth
  have unparked : (u.acked n).park = none := hpark
  calc s.ackThread c sth n
      = (s.setThread c sl (u.acked n)).relSettle c := by
        unfold State.ackThread
        dsimp only
        rw [show (s.modSth c sth fun t => { t with unack := t.unack - n }) = _ from told, settled, slot]
        simp only [State.thread_setThread, true_and, if_true, Option.bind_some, unparked]
    _ = _ := settled

section
variable {s : State} {id po c sth lid sl : Nat} {u : Thread} (ht : (s.core c).threads = [(sl, u)]) (hsth : u.sth = sth)
  (hpark : u.park = none) (hrel : u.rel = none)
include ht hsth hpark hrel

theorem storeAck_acknowledges {n : Nat} (hf : s.flights = [⟨id, po, c, sth, lid, .ack n⟩]) : ∃ t, exec (.storeAck id) s = .next t
    ∧ t.flights = [] ∧ (t.thread? c sl).map (fun w => w.unack) = some (u.unack - n) ∧ (t.core c).lmem = (s.core c).lmem := by
  have acks : exec (.storeAck id) s = .next ((s.landed id).setThread c sl (u.acked n)) := by
    rw [exec_storeAck, ← State.ackThread_alone (s := s.landed id) n ht hsth hpark hrel]
    simp [execStoreAck, State.flight?, hf]
  refine ⟨_, acks, ?_, ?_, ?_⟩
  · simp [State.landed, hf]
  · rw [State.thread_setThread, if_pos ⟨rfl, rfl⟩]; rfl
  · rw [State.setThread, State.core_modCore_self]; rfl

theorem storeAck_performs {d off : Nat} {bs : List Byte} {full : Bool}
    (hf : s.flights = [⟨id, po, c, sth, lid, .wstore d off bs full⟩]) (hcd : c ≠ d) : ∃ t, exec (.storeAck id) s = .next t
      ∧ t.flights = [] ∧ (t.core d).lmem = (s.core d).lmem.store off bs
      ∧ (full = true → ∀ cell ∈ cellsOf off bs.length, cell ∈ (t.core d).full)
      ∧ (t.thread? c sl).map (fun w => (w.unack, w.pc)) = some (u.unack - 1, u.pc) := by
  set performed := { s with flights := [⟨id, po, c, sth, lid, .ack 1⟩] }.modCore d fun x =>
    x.portStore off bs (if full then some (stfScope c d) else none)
  have acks : exec (.storeAck id) s = .next ((performed.landed id).setThread c sl (u.acked 1)) := by
    have threads : ((performed.landed id).core c).threads = [(sl, u)] := by
      show (performed.core c).threads = _
      rw [State.core_modCore_ne _ _ hcd]; exact ht
    rw [exec_storeAck, ← State.ackThread_alone 1 threads hsth hpark hrel]
    simp [execStoreAck, State.flight?, State.toPort, upTo, State.performAll, State.performFlight, hf, performed]
  have core : ((performed.landed id).setThread c sl (u.acked 1)).core d =
      (s.core d).portStore off bs (if full then some (stfScope c d) else none) := by
    rw [State.setThread, State.core_modCore_ne _ _ hcd.symm]
    show performed.core d = _
    rw [State.core_modCore_self]
    rfl
  refine ⟨_, acks, ?_, ?_, fun hfull cell hcell => ?_, ?_⟩
  · simp [State.landed, performed]
  · rw [core, Core.portStore_lmem]
  · rw [core, hfull]
    exact mem_foldl_insertNat _ |>.mpr (.inr hcell)
  · rw [State.thread_setThread, if_pos ⟨rfl, rfl⟩]; rfl

end

/-! ### Probes of a release (R206) -/

theorem State.wake_off {s : State} {c : Nat} (hlog : bit (s.core c).slcfg 0 = false) (sl : Nat) : s.wake c sl =
    (s.modThread c sl fun t => { t with park := none, prog := { t.prog with woken := true } }).soon [.slot c sl] := by
  rw [State.wake, noteState_off _ _ _ _ ((Roused.modThread ..).logOff hlog)]

theorem Roused.setThread (s : State) (c sl : Nat) (t : Thread) : Roused s (s.setThread c sl t) c :=
  ⟨rfl, by rw [State.setThread, State.core_modCore_self]; rfl⟩

/-- A thread set to one that stands where it stood before, and then woken. -/
theorem State.setThread_wake {s g : State} {c sl : Nat} {u v : Thread} (work : Roused s g c) (hagenda : g.agenda = s.agenda)
    (hlog : bit (s.core c).slcfg 0 = false) (hu : s.thread? c sl = some u) (hpc : v.pc = u.pc) (hpreds : v.preds = u.preds) :
    Woken s ((g.setThread c sl v).wake c sl) c sl ∧ ((g.setThread c sl v).wake c sl).thread? c sl = some (v.roused id) := by
  have set := work.trans (.setThread g c sl v)
  have wakes := set.trans (State.wake_rouses (set.logOff hlog) sl)
  have hthread : ((g.setThread c sl v).wake c sl).thread? c sl = some (v.roused id) := by
    rw [State.wake_off (set.logOff hlog), State.thread_congr (State.soon_cores ..), State.thread_modThread,
      if_pos ⟨rfl, rfl⟩, State.thread_setThread, if_pos ⟨rfl, rfl⟩]
    rfl
  refine ⟨⟨⟨u, _, hu, hthread, rfl, hpc, hpreds⟩, ?_, ?_, ?_, ?_⟩, hthread⟩
  · rw [State.wake_off (set.logOff hlog), ← hagenda]
    exact congrArg (List.cons (.slot c sl)) (State.modThread_agenda ..)
  · rw [wakes.core]
  · rw [wakes.core]
  · rw [wakes.rest]

section
variable {s : State} {c sl j : Nat} {u : Thread} {r : Rel} (ht : (s.core c).threads = [(sl, u)]) (hr : u.rel = some r)
include ht hr

theorem releaseProbeEcho_waits (he : ∃ e ∈ (s.core c).sbuf, e.sth = u.sth ∧ e.slice = j) :
    exec (.releaseProbeEcho c sl j) s = .next s := by
  have hu : s.thread? c sl = some u := by rw [State.thread?, ht]; exact if_pos rfl
  rw [exec_releaseProbeEcho]
  simp only [execReleaseProbeEcho, hu, hr]
  refine if_pos (Bool.or_eq_true_iff.mpr (.inr (List.any_eq_true.mpr ?_)))
  simpa using he

theorem releaseProbeEcho_completes (hq : Quiet s) (hb : (s.core c).sbuf = []) (hprobes : r.probes = [j]) (hprobed : r.probed = true)
    (hentries : r.entries = []) (hunack : u.unack = 0) (hpark : u.park.map Park.why = some .rel) :
    ∃ t, exec (.releaseProbeEcho c sl j) s = .next t ∧ Woken s t c sl
      ∧ (t.thread? c sl).map (fun w => (w.rel, w.touched, w.prog.released)) = some (none, [], true) := by
  have hu : s.thread? c sl = some u := by rw [State.thread?, ht]; exact if_pos rfl
  set v : Thread := { u with rel := some { r with probes := [] } } with hv
  have echoes : exec (.releaseProbeEcho c sl j) s = .next ((s.setThread c sl v).relSettle c) := by
    rw [exec_releaseProbeEcho]
    simp [execReleaseProbeEcho, hu, hr, hb, hprobes, State.modThread, hv]
  have threads : ((s.setThread c sl v).core c).threads = [(sl, v)] := by
    rw [State.setThread, State.core_modCore_self, Core.setThread, ht]; simp [KMap.put]
  have done : (v.relMove ((s.setThread c sl v).core c)).relDone = true := by
    simp [hv, Thread.relMove, Thread.relDone, hunack, hprobed, hentries]
  obtain ⟨woken, hthread⟩ := State.setThread_wake (v := (v.relMove ((s.setThread c sl v).core c)).relEnd)
    (.setThread s c sl v) rfl (hq.logOff c) hu rfl rfl
  exact ⟨_, by rw [echoes, State.relSettle_done threads rfl hpark done], woken, by rw [hthread]; rfl⟩

end

/-! ### Cores that sleep and wake (R171) -/

theorem coreSleep_sleeps {s : State} {c : Nat} (ha : (s.core c).asleep = false) (hi : s.coreIdle c = true) (hq : Quiet s) :
    ∃ t, exec (.coreSleep c) s = .next t ∧ (t.core c).asleep = true ∧ t.clk = max s.clk ((s.core c).idleSince + 4096)
      ∧ (t.core c).regs = (s.core c).regs := by
  refine ⟨_, by rw [exec_coreSleep, execCoreSleep, ha, hi]; rfl, ?_, ?_, ?_⟩
  · rw [State.core_modCore_self]
  · rw [State.pass_quiet hq]; rfl
  · rw [State.core_modCore_self, State.pass_quiet hq]; rfl

/-- A core has woken, and its parity sweep, which runs 32 core cycles, found these register-file entries poisoned (R171). -/
structure Swept (s t : State) (c : Nat) (bad : List Nat) : Prop where
  asleep : (t.core c).asleep = false
  regs : (t.core c).regs = (s.core c).regs
  poison : (t.core c).regPoison = bad.foldl insertNat (s.core c).regPoison
  threads : ∀ {sl u}, s.thread? c sl = some u → (t.thread? c sl).map (fun v => (v.busy, v.pc)) = some (max u.busy (s.clk + 32), u.pc)

theorem Swept.of_cores {s t v : State} {c : Nat} {bad : List Nat} (h : Swept s t c bad) (hcores : v.cores = t.cores) :
    Swept s v c bad := by
  have core := State.core_congr hcores c
  exact ⟨by rw [core]; exact h.asleep, by rw [core]; exact h.regs, by rw [core]; exact h.poison,
    fun hu => by rw [State.thread_congr hcores]; exact h.threads hu⟩

theorem Swept.told {s t v : State} {c : Nat} {bad : List Nat} (h : Swept s t c bad) (k : Told t v) : Swept s v c bad := by
  refine ⟨by rw [k.core]; exact h.asleep, by rw [k.core]; exact h.regs, by rw [k.core]; exact h.poison, fun {sl u} hu => ?_⟩
  have stands : (fun v : Thread => (v.busy, v.pc)) ∘ Thread.untold = fun v => (v.busy, v.pc) := funext fun t => by
    show (t.untold.busy, t.untold.pc) = _
    rw [t.untold_rest]
  have look := congrArg (Option.map fun v : Thread => (v.busy, v.pc)) (k.look c sl)
  rw [Option.map_map, Option.map_map, stands] at look
  exact look.trans (h.threads hu)

/-- A core as it is once its parity sweep has run (R171). -/
def Core.swept (x : Core) (bad : List Nat) (now : Nat) : Core :=
  { x with asleep := false, idleSince := now, regPoison := bad.foldl insertNat x.regPoison,
           threads := KMap.mapVals (fun t => { t with busy := max t.busy (now + 32) }) x.threads }

theorem Swept.modCore (s : State) (c : Nat) (bad : List Nat) : Swept s (s.modCore c fun x => x.swept bad s.clk) c bad := by
  refine ⟨by rw [State.core_modCore_self]; rfl, by rw [State.core_modCore_self]; rfl, by rw [State.core_modCore_self]; rfl,
    fun {sl u} hu => ?_⟩
  rw [State.thread?, State.core_modCore_self, Core.swept, KMap.look_mapVals, show (s.core c).threads.look sl = some u from hu]
  rfl

section
variable (s : State) (c : Nat) (failed : List Nat)

/-- The core wakes, and each entry that failed is counted and recorded (R171). -/
theorem State.wakeCore_told {pno : Nat} (hc : s.corePart c = some pno) : Told
    ((s.modCore c fun x => x.swept (failed.filter (· < 2048)) s.clk).modPart pno fun p =>
      { p with uncorrected := p.uncorrected + (failed.filter (· < 2048)).length }) (s.wakeCore c failed) := by
  have part : (s.modCore c fun x => x.swept (failed.filter (· < 2048)) s.clk).corePart c = some pno := hc
  unfold State.wakeCore
  dsimp only [Core.swept] at part ⊢
  rw [part]
  exact .foldl (fun t i => t.emit_told _) _ _

theorem State.wakeCore_sweeps : Swept s (s.wakeCore c failed) c (failed.filter (· < 2048)) := by
  have swept := Swept.modCore s c (failed.filter (· < 2048))
  cases hc : s.corePart c with
  | some pno => exact (swept.of_cores (State.modPart_cores ..)).told (s.wakeCore_told c failed hc)
  | none =>
    have part : (s.modCore c fun x => x.swept (failed.filter (· < 2048)) s.clk).corePart c = none := hc
    unfold State.wakeCore
    dsimp only [Core.swept] at part swept ⊢
    rw [part]
    exact swept

theorem State.wakeCore_counts {pno : Nat} {p : Part} (hc : s.corePart c = some pno) (hp : s.parts.look pno = some p) :
    ((s.wakeCore c failed).part pno).uncorrected = p.uncorrected + (failed.filter (· < 2048)).length := by
  have look := (s.wakeCore_told c failed hc).parts pno
  rw [State.look_modPart_some (s := s.modCore c _) _ hp] at look
  obtain ⟨q, hq, same⟩ := Option.map_eq_some_iff.mp look
  rw [State.part_of_look hq]
  exact (congrArg Part.uncorrected same :)

end

theorem coreWake_wakes {s : State} {c : Nat} (failed : List Nat) (ha : (s.core c).asleep = true) :
    exec (.coreWake c failed) s = .next (s.wakeCore c failed) := by
  rw [exec_coreWake, execCoreWake, if_pos ha]

/-- Settles O55: each event in turn. Whatever a drained store's bytes tell waiting threads, none of them then moves a release
on or waits for the store buffer; where one thread stands on a core, its acknowledgement or its release is all that is left
to settle. -/
theorem flightsLand : Obligations.FlightsLand := by
  refine ⟨fun s c e hb hreds hidle => storeBufferDrain_lands hb hreds hidle, fun s c x e hx => hx ▸ Core.sbDrop_not_mem _ e,
    fun s id po c sth lid ts pa size v op => sliceAtomic_performs, ?_, ?_, ?_, fun s c => coreSleep_sleeps, ?_⟩
  · intro s id po c sth lid d off bs full sl u hf _ ht hsth hpark hrel hcd
    obtain ⟨t, acks, hflights, hlmem, hfull, hthread⟩ := storeAck_performs ht hsth hpark hrel hf hcd
    refine ⟨t, acks, hflights, by rw [hlmem, Memory.bytes_store], fun a ha => ?_, hfull, hthread⟩
    rw [hlmem, Memory.get_store, if_neg (by omega)]
  · exact fun s id po c sth lid n sl u hf _ ht hsth hpark hrel => storeAck_acknowledges ht hsth hpark hrel hf
  · exact fun s c sl j u r hq ht hr _ => ⟨releaseProbeEcho_waits ht hr, releaseProbeEcho_completes ht hr hq⟩
  · intro s c failed ha
    have swept := s.wakeCore_sweeps c failed
    refine ⟨_, coreWake_wakes failed ha, swept.asleep, swept.regs, fun n => ?_, fun pno p => s.wakeCore_counts c failed,
      fun sl u => swept.threads⟩
    rw [swept.poison, mem_foldl_insertNat, List.mem_filter, decide_eq_true_iff]

end Sys2Proof.Machine
end

section
/-! What an instruction at the issuing core's own port leaves of the machine (R156, R166). -/

namespace Sys2Proof.Machine

/-- What an update of a core at its local-memory port leaves as it was. -/
def AtPort (f : Core → Core) : Prop := ∀ x, f x =
  { x with lmem := (f x).lmem, lpoison := (f x).lpoison, fx := (f x).fx, full := (f x).full, fillers := (f x).fillers }

theorem AtPort.portStore (off : Nat) (bs : List Byte) (full : Option Scope) : AtPort fun x => x.portStore off bs full := fun x => by
  cases full <;> rfl

theorem AtPort.empty (cells : List Nat) : AtPort fun x => x.empty cells := fun _ => rfl

theorem Core.portStore_full (x : Core) (off : Nat) (bs : List Byte) (sc : Scope) :
    (x.portStore off bs (some sc)).full = (cellsOf off bs.length).foldl insertNat x.full := rfl

theorem ThreadKept.refl (t : Thread) : ThreadKept t t := by
  constructor <;> simp

theorem ThreadKept.relEnd {t : Thread} (h : t.touched = []) : ThreadKept t t.relEnd := by
  constructor <;> simp [Thread.relEnd, h]

theorem ThreadKept.passedTo {t u : Thread} (h : ThreadKept t u) (pc : Word) : ThreadKept t (u.passedTo pc) := by
  obtain ⟨⟩ := h; constructor <;> assumption

theorem State.modMe_core (s : State) (f : Thread → Thread) :
    (s.modMe f).myCore = { s.myCore with threads := (s.modMe f).myCore.threads } := by
  rw [State.myCore_of_cur (State.modMe_cur ..)]
  exact (Roused.modThread s s.cur.core s.cur.slot f).core

/-- An instruction has begun, and its release, if it makes one, has completed: nothing of the machine has changed. -/
structure StandsReady (s g : State) (srcs : List Pos) : Prop where
  own : OwnCore s g
  pops : g.cur.pops = popsOf (regCodes srcs)
  core : g.myCore = { s.myCore with threads := g.myCore.threads }
  operand : ∀ l i, g.operand l i = s.operand l i
  thread : ∃ u, g.me? = some u ∧ ThreadKept s.me u ∧ u.preds = s.me.preds ∧ u.unack = s.me.unack ∧ u.pc = s.me.pc

namespace StandsReady
variable {s g : State} {srcs : List Pos}

theorem began (hs : s.me?.isSome) : StandsReady s (began s srcs) srcs where
  own := .began s srcs
  pops := rfl
  core := rfl
  operand l i := began_operand s srcs l i
  thread := by
    obtain ⟨t, ht⟩ := Option.isSome_iff_exists.mp hs
    exact ⟨t, ht, by rw [State.me_eq ht]; exact .refl t, by rw [State.me_eq ht], by rw [State.me_eq ht], by rw [State.me_eq ht]⟩

theorem released (hs : s.me?.isSome) (htouched : s.me.touched = []) :
    StandsReady s ((Machine.began s srcs).modMe Thread.relEnd) srcs where
  own := by
    refine ⟨?_, ⟨by rw [State.modMe_cur]; rfl, by rw [State.modMe_cur]; rfl⟩, fun c hc => State.core_modThread_ne _ _ _ hc,
      fun sl hsl => ?_⟩
    · unfold State.modMe State.modThread
      split <;> rfl
    · have := State.thread_modThread (Machine.began s srcs) s.cur.core s.cur.slot s.cur.core sl Thread.relEnd
      rw [if_neg (by simp [hsl])] at this
      exact this
  pops := by rw [State.modMe_cur]; rfl
  core := State.modMe_core ..
  operand l i := by
    obtain ⟨t, ht⟩ := Option.isSome_iff_exists.mp hs
    have core := State.modMe_core (Machine.began s srcs) Thread.relEnd
    have me := State.me_eq (State.modMe_some (s := Machine.began s srcs) Thread.relEnd ht)
    unfold State.operand
    rw [core, me, State.modMe_clk, State.me_eq ht]
    rfl
  thread := by
    obtain ⟨t, ht⟩ := Option.isSome_iff_exists.mp hs
    refine ⟨t.relEnd, State.modMe_some _ ht, ?_, ?_, ?_, ?_⟩ <;> rw [State.me_eq ht]
    · exact .relEnd (by rw [← State.me_eq ht]; exact htouched)
    all_goals rfl

section
variable {f : Core → Core} (h : StandsReady s g srcs) (hl : LogOff s) (hf : AtPort f)
include h hl hf

theorem logOff : LogOff (g.modMyCore f) := by
  show bit ((g.modCore g.cur.core f).core g.cur.core).slcfg 0 = false
  rw [State.core_modCore_self, hf, show g.core g.cur.core = g.myCore from rfl, h.core]
  exact hl

theorem retire_myCore : (g.modMyCore f).retire.myCore = { f g.myCore with
    chans := ((g.modMyCore f).doPops.core g.cur.core).chans, threads := (g.modMyCore f).retire.myCore.threads } := by
  obtain ⟨u, hu, -⟩ := h.thread
  have hv : (g.modMyCore f).me? = some u := (State.me?_modCore g f (by rw [hf])).trans hu
  have hcore : (g.modMyCore f).myCore = f g.myCore := State.core_modCore_self ..
  rw [State.retire, State.retireTo_myCore _ hv (h.logOff hl hf), hcore]
  rfl

theorem portFrame {o n : Nat} (hmem : ∀ a, ¬ (o ≤ a ∧ a < o + n) → (f g.myCore).lmem.get a = s.myCore.lmem.get a) :
    PortFrame s (g.modMyCore f).retire o n srcs := by
  obtain ⟨u, hu, kept, hpreds, hunack, hpc⟩ := h.thread
  have hv : (g.modMyCore f).me? = some u := (State.me?_modCore g f (by rw [hf])).trans hu
  have hme : (g.modMyCore f).retire.me = u.passedTo (u.pc + 8) := by
    rw [State.retire, State.retireTo_me _ hv (h.logOff hl hf), State.me_eq hv]
  have hcore := h.retire_myCore hl hf
  have own := (h.own.modCore f (by rw [hf])).elsewhere ((g.modMyCore f).me.pc + 8) hv (h.logOff hl hf)
  constructor
  case elsewhere => exact own
  case lmem => intro a ha; rw [hcore]; exact hmem a ha
  case chans =>
    intro ch hch
    rw [hcore]
    show (((g.modMyCore f).doPops.core (g.modMyCore f).cur.core).chan ch) = _
    rw [State.doPops_chan_of_not_mem _ ch (by show ch ∉ g.cur.pops; rw [h.pops]; exact hch)]
    show ((g.modCore g.cur.core f).core g.cur.core).chan ch = _
    rw [State.core_modCore_self, hf, show g.core g.cur.core = g.myCore from rfl, h.core]
    rfl
  case thread => rw [hme]; exact kept.passedTo _
  case preds => rw [hme]; exact hpreds
  case unack => rw [hme]; exact hunack
  case pc => rw [hme, ← hpc]; rfl
  all_goals rw [hcore, hf, h.core]

end
end StandsReady

/-- An instruction whose release has nothing to wait for goes on at once. -/
theorem releaseThen_standsReady {s : State} {srcs : List Pos} {sc : Scope} (k : State → State) (hs : s.me?.isSome)
    (h : ReleaseHolds s sc) : ∃ g, (began s srcs).releaseThen sc k = k g ∧ StandsReady s g srcs := by
  obtain ⟨t, ht⟩ := Option.isSome_iff_exists.mp hs
  by_cases free : sc.code = 0 ∨ s.me.prog.released = true
  · exact ⟨_, State.releaseThen_done (if_pos (by simpa using free)), .began hs⟩
  · obtain ⟨-, -, htouched, -⟩ := (h.resolve_left fun h => free (.inl h)).resolve_left fun h => free (.inr h)
    rcases State.release_holds (s := began s srcs) ht h with hr | hr
    · exact ⟨_, State.releaseThen_done hr, .began hs⟩
    · exact ⟨_, State.releaseThen_done hr, .released hs htouched⟩

end Sys2Proof.Machine
end

section
/-! LDF, STF, CLRE and PREF (R166, R167, R350, R351), and the statement about them. -/

namespace Sys2Proof.Machine

/-! ### Cells and the own port -/

theorem mem_cellsOf {a n q : Nat} : q ∈ cellsOf a n ↔ 32 * q < a + n ∧ a < 32 * q + 32 ∧ n ≠ 0 := by
  unfold cellsOf
  split
  · simp_all
  · simp only [List.mem_map, List.mem_range]
    constructor
    · rintro ⟨i, hi, rfl⟩; omega
    · rintro ⟨hlo, hhi, -⟩; exact ⟨q - a / 32, by omega, by omega⟩

/-- An aligned access lies in one cell. -/
theorem cellsOf_aligned {a n : Nat} (h : n ∣ a) (hn : n ∣ 32) (h0 : n ≠ 0) : cellsOf a n = [a / 32] := by
  have within : a % 32 + n ≤ 32 := by
    obtain ⟨m, hm⟩ := hn
    obtain ⟨k, rfl⟩ := h
    have hpos : 0 < m := Nat.pos_of_ne_zero fun h => by rw [h] at hm; cases hm
    calc n * k % 32 + n = n * (k % m + 1) := by rw [hm, Nat.mul_mod_mul_left, Nat.mul_succ]
      _ ≤ n * m := Nat.mul_le_mul_left n (Nat.mod_lt k hpos)
      _ = 32 := hm.symm
  have same : (a + n - 1) / 32 = a / 32 := by omega
  rw [cellsOf, if_neg h0, same, Nat.add_sub_cancel_left]
  rfl

/-- A zone moves whole, so an offset keeps its alignment (R138). -/
theorem moveOff_dvd {m : KMap Nat} {off n : Nat} (h : n ∣ off) (hn : n ∣ 32768) : n ∣ moveOff m off := by
  unfold moveOff
  split
  · exact Nat.dvd_add (Dvd.dvd.mul_right hn _) ((Nat.dvd_mod_iff hn).mpr h)
  · exact h

section
variable {s : State} {loc : Bool} {ea : Word} {n o : Nat} (h : s.ownPort loc ea n = some o)
include h

theorem State.ownPort_dvd (hn : n ∣ 32768) : n ∣ o := by
  have h19 : n ∣ 2 ^ 19 := hn.trans (by decide)
  unfold State.ownPort at h
  split at h
  · cases h
  rename_i free
  have aligned : n ∣ ea.toNat := Nat.dvd_of_mod_eq_zero (by simp at free; exact free.2)
  split at h <;> split at h <;> cases h
  · exact moveOff_dvd aligned hn
  · exact moveOff_dvd ((Nat.dvd_mod_iff h19).mpr (by rwa [Nat.pow_zero, Nat.div_one])) hn

/-- An access at the own port is local or at a window address. -/
theorem State.ownPort_window : (!loc && decide (ea.toNat < 2 ^ 57) && !isWindow ea.toNat) = false := by
  unfold State.ownPort at h
  split at h
  · cases h
  cases loc
  · split at h
    · contradiction
    split at h
    · rename_i at_window; simp only [Bool.and_eq_true] at at_window; simp [at_window]
    · cases h
  · rfl

theorem State.ownPort_not_virt (b : Bool) :
    ¬ ((!loc && decide (ea.toNat < 2 ^ 57) && !isWindow ea.toNat && b) = true) := by
  rw [State.ownPort_window h, Bool.false_and]
  exact Bool.false_ne_true

end

theorem sizeBytes_dvd (sz : Size) : sizeBytes sz ∣ 32 ∧ sizeBytes sz ≠ 0 := by cases sz <;> decide

/-- A loaded value widened is its bits taken with their sign, or with zeros (R349). -/
theorem sextn_eq_signExtend (n v : Nat) : sextn n v = (BitVec.ofNat n v).signExtend 64 := by
  have low : (BitVec.ofNat n v).toNat = v % 2 ^ n := BitVec.toNat_ofNat ..
  rw [BitVec.signExtend, BitVec.toInt_eq_toNat_cond, low]
  unfold sextn
  by_cases hneg : 2 ^ n ≤ 2 * (v % 2 ^ n)
  · rw [if_pos hneg, if_neg (Nat.not_lt.mpr hneg)]
  · rw [if_neg hneg, if_pos (Nat.not_le.mp hneg), BitVec.ofInt_natCast]

/-! ### LDF (R351, R167, R212) -/

theorem State.parkMe_core {s : State} (w : Why) (h : LogOff s) :
    (s.parkMe w).myCore = { s.myCore with threads := (s.parkMe w).myCore.threads } := by
  have parks : ∀ (u : State) (f : Thread → Thread), LogOff u →
      ((u.modMe f).noteState u.cur.core u.cur.slot w.logState).myCore =
        { u.myCore with threads := ((u.modMe f).noteState u.cur.core u.cur.slot w.logState).myCore.threads } := fun u f hl => by
    have off : bit ((u.modMe f).core u.cur.core).slcfg 0 = false := (Roused.modThread u u.cur.core u.cur.slot f).logOff hl
    rw [noteState_off _ _ _ _ off]
    exact State.modMe_core u f
  unfold State.parkMe
  cases s.me.prog.stamp with
  | some n => exact parks s _ h
  | none => exact parks s.tickStamp.2 _ h

/-- A full cell that no thread of the core is parked for may be taken. -/
theorem ldfReady_of {x : Core} {sl cell : Nat} {stamp : Option Nat} (hfull : cell ∈ x.full)
    (hfree : ∀ e ∈ x.threads, ∀ q, e.2.park = some q → ∀ k, q.why ≠ .ldf cell k) : ldfReady x sl stamp cell = true := by
  rw [ldfReady, Bool.and_eq_true]
  refine ⟨List.contains_iff_mem.mpr hfull, List.all_eq_true.mpr fun e he => ?_⟩
  split
  · rename_i c k n since hp
    have other : c ≠ cell := fun h => hfree e he _ hp k (by rw [h])
    simp [other]
  · rfl

section
variable {s : State} {p : Pred} {d b : Code} {off : BitVec 17} {sz : Size} {sx loc cn : Bool} {o : Nat}
  (hi : Issues s p (some (rg d)) [rg b]) (ho : s.ownPort loc (s.operand [b] 0 + off.signExtend 64) (sizeBytes sz) = some o)
include hi ho

/-- An LDF at the own port takes its cell or parks for it. -/
theorem ldf_here : exec (.ldf p d b off sz sx loc cn) s = .next
    (if (s.me.prog.finished && s.myCore.full.contains (o / 32)) || ldfReady s.myCore s.cur.slot s.me.prog.stamp (o / 32) then
      (began s [rg b]).portRead s.cur.core o (sizeBytes sz) (badAccess .read .poison (s.operand [b] 0 + imm17 off)) fun v g =>
        (((if cn then g.modMyCore fun x => x.empty [o / 32] else g).acquire (s.myCore.fillScope (o / 32))).wr d
          (widen sx (sizeBytes sz) v)).retire
    else ((began s [rg b]).modMe fun t => { t with prog := { t.prog with finished := false } }).parkMe (.ldf (o / 32) cn)) := by
  rw [exec_ldf, execLdf, issue_goes hi]
  exact congrArg Host.Outcome.next ((if_neg (State.ownPort_not_virt ho _)).trans (State.locate_own (s := began s [rg b]) ho ..))

theorem ldf_takes (hfull : o / 32 ∈ s.myCore.full)
    (hfree : ∀ e ∈ s.myCore.threads, ∀ q, e.2.park = some q → ∀ k, q.why ≠ .ldf (o / 32) k)
    (hclean : s.myCore.lpoisoned o (sizeBytes sz) = false) : exec (.ldf p d b off sz sx loc cn) s = .next
      ((((if cn then (began s [rg b]).modMyCore fun x => x.empty [o / 32] else began s [rg b]).acquire
        (s.myCore.fillScope (o / 32))).wr d (widen sx (sizeBytes sz) (s.myCore.lmem.read o (sizeBytes sz)))).retire) := by
  rw [ldf_here hi ho, if_pos (by rw [ldfReady_of hfull hfree, Bool.or_true]), State.portRead_clean (by exact hclean)]
  rfl

theorem ldf_parks (hempty : o / 32 ∉ s.myCore.full) (hl : LogOff s) : ∃ t, exec (.ldf p d b off sz sx loc cn) s = .next t
    ∧ t.me.pc = s.me.pc ∧ (t.me.park.map Park.why) = some (.ldf (o / 32) cn) ∧ t.myCore.full = s.myCore.full
    ∧ t.myCore.regs = s.myCore.regs ∧ (∀ x, t.myCore.lmem.get x = s.myCore.lmem.get x) := by
  have lacks : s.myCore.full.contains (o / 32) = false := by simpa using hempty
  have waits : ldfReady s.myCore s.cur.slot s.me.prog.stamp (o / 32) = false := by rw [ldfReady, lacks, Bool.false_and]
  obtain ⟨u, hu⟩ := Option.isSome_iff_exists.mp hi.1
  set g := (began s [rg b]).modMe fun t => { t with prog := { t.prog with finished := false } } with hg
  have hv : g.me? = some { u with prog := { u.prog with finished := false } } := State.modMe_some _ hu
  have off : LogOff g := by rw [LogOff, hg, State.modMe_slcfg]; exact hl
  obtain ⟨hpc, hpark⟩ := State.parkMe_me (.ldf (o / 32) cn) hv off
  have core := State.parkMe_core (.ldf (o / 32) cn) off
  refine ⟨_, by rw [ldf_here hi ho, lacks, waits, if_neg (by simp)], ?_, hpark, ?_, ?_, fun x => ?_⟩
  · rw [hpc, State.me_eq hu]
  all_goals rw [core, State.modMe_core]; rfl

end

/-! ### STF and CLRE (R351) -/

section
variable {s : State} {p : Pred} {a b : Code} {off : BitVec 17} {loc : Bool} {o : Nat} (hi : Issues s p none [rg a, rg b])
  (hl : LogOff s)
include hi hl

theorem stf_fills {sz : Size} (ho : s.ownPort loc (s.operand [a, b] 1 + off.signExtend 64) (sizeBytes sz) = some o)
    (hrel : ReleaseHolds s .core) : ∃ t, exec (.stf p b a off sz loc) s = .next t ∧ PortFrame s t o (sizeBytes sz) [rg a, rg b]
      ∧ t.myCore.lmem.read o (sizeBytes sz) = (s.operand [a, b] 0).toNat % 2 ^ (8 * sizeBytes sz)
      ∧ (∀ q, q ∈ t.myCore.full ↔ q ∈ s.myCore.full ∨ q = o / 32) := by
  obtain ⟨h32, h0⟩ := sizeBytes_dvd sz
  have store := AtPort.portStore o (leBytes (sizeBytes sz) ((s.operand [a, b] 0).toNat % 2 ^ (8 * sizeBytes sz))) (some .core)
  obtain ⟨g, goes, ready⟩ := releaseThen_standsReady (srcs := [rg a, rg b]) (fun g => g.writeAt (.here o)
    (s.operand [a, b] 1 + imm17 off) (sizeBytes sz) ((g.operand [a, b] 0).toNat % 2 ^ (8 * sizeBytes sz)) true State.retire)
    hi.1 hrel
  have core := ready.retire_myCore hl store
  refine ⟨_, ?_, ready.portFrame hl store fun x hx => ?_, ?_, fun q => ?_⟩
  · rw [exec_stf, execStf, issue_goes hi]
    refine congrArg Host.Outcome.next ((if_neg (State.ownPort_not_virt ho _)).trans
      ((State.locate_own (s := began s [rg a, rg b]) ho ..).trans (goes.trans ?_)))
    rw [ready.operand]
    rfl
  · rw [Core.portStore_lmem, Memory.get_store, leBytes_length, if_neg hx, ready.core]
  · rw [core, Core.portStore_lmem, Memory.read_store, Nat.pow_mul, Nat.mod_mod]
  · rw [core]
    dsimp only
    rw [Core.portStore_full, leBytes_length, ready.core, mem_foldl_insertNat,
      cellsOf_aligned (State.ownPort_dvd ho (h32.trans (by decide))) h32 h0, List.mem_singleton]

theorem clre_empties (ho : s.ownPort loc (s.operand [a, b] 1 + off.signExtend 64) 1 = some o)
    (hn : o + (s.operand [a, b] 0).toNat ≤ 2 ^ 19) : ∃ t, exec (.clre p b a off loc) s = .next t ∧ PortFrame s t o 0 [rg a, rg b]
      ∧ (∀ q, q ∈ t.myCore.full ↔ q ∈ s.myCore.full ∧ ¬ (32 * q < o + (s.operand [a, b] 0).toNat ∧ o < 32 * q + 32
        ∧ (s.operand [a, b] 0).toNat ≠ 0)) := by
  have ready := StandsReady.began (srcs := [rg a, rg b]) hi.1
  have empties := AtPort.empty (cellsOf o (s.operand [a, b] 0).toNat)
  have core := ready.retire_myCore hl empties
  refine ⟨_, ?_, ready.portFrame hl empties fun x _ => rfl, fun q => ?_⟩
  · rw [exec_clre, execClre, issue_goes hi]
    exact congrArg Host.Outcome.next ((if_neg (Bool.eq_false_iff.mp (State.ownPort_window ho))).trans
      ((State.locate_own (s := began s [rg a, rg b]) ho ..).trans (if_neg (by simpa using fun _ => hn))))
  · rw [core]
    show q ∈ s.myCore.full.filter (fun c => !(cellsOf o (s.operand [a, b] 0).toNat).contains c) ↔ _
    rw [List.mem_filter, ← mem_cellsOf]
    simp

end

/-! ### PREF (R350): what brings a line in leaves the core at its instruction -/

namespace StaysPut

theorem modCore_any (s : State) (d c : Nat) (f : Core → Core) (hr : ∀ x, (f x).regs = x.regs) (hm : ∀ x, (f x).lmem = x.lmem)
    (hs : ∀ x, (f x).slcfg = x.slcfg) (ht : ∀ x, (f x).threads = x.threads) : StaysPut s (s.modCore d f) c := by
  by_cases h : c = d
  · subst h; exact .modCore s c (hr _) (hm _) (hs _) (ht _)
  · refine ⟨?_, ?_, ?_, fun sl => ?_, rfl⟩ <;> simp only [State.thread?, State.core_modCore_ne _ _ h]

theorem dropLine (s : State) (d line c : Nat) : StaysPut s (s.dropLine d line) c :=
  .modCore_any s d c _ (fun _ => rfl) (fun _ => rfl) (fun _ => rfl) fun _ => rfl

theorem of_roused {s t : State} {c : Nat} (h : Roused s t c)
    (hpcs : ∀ sl, (t.thread? c sl).map Thread.pc = (s.thread? c sl).map Thread.pc) : StaysPut s t c :=
  ⟨by rw [h.core], by rw [h.core], by rw [h.core], hpcs, by rw [h.rest]⟩

theorem setThread {s : State} {c sl : Nat} {u v : Thread} (hu : s.thread? c sl = some u) (hpc : v.pc = u.pc) :
    StaysPut s (s.setThread c sl v) c := by
  refine .of_roused (.setThread s c sl v) fun sm => ?_
  rw [State.thread_setThread]
  split
  case isTrue h => rw [h.2, hu]; exact congrArg some hpc
  case isFalse => rfl

theorem wake {s : State} {c : Nat} (hlog : bit (s.core c).slcfg 0 = false) (sl : Nat) : StaysPut s (s.wake c sl) c := by
  refine .of_roused (State.wake_rouses hlog sl) fun sm => ?_
  rw [State.wake_off hlog, State.thread_congr (State.soon_cores ..), State.thread_modThread]
  split
  case isTrue h => rw [h.2, Option.map_map]; rfl
  case isFalse => rfl

theorem logOff {s t : State} {c : Nat} (h : StaysPut s t c) (hlog : bit (s.core c).slcfg 0 = false) :
    bit (t.core c).slcfg 0 = false := by
  rw [h.slcfg]; exact hlog

end StaysPut

theorem Thread.relMove_pc (t : Thread) (x : Core) : (t.relMove x).pc = t.pc := by
  unfold Thread.relMove; split <;> rfl

theorem State.relSettle_stays {s : State} {c : Nat} (hlog : bit (s.core c).slcfg 0 = false) : StaysPut s (s.relSettle c) c := by
  refine List.foldlRecOn (motive := fun t => StaysPut s t c) _ _ (.refl s c) fun t ht e _ => ?_
  dsimp only
  split
  · exact ht
  · rename_i u hu
    have moved := StaysPut.setThread hu (u.relMove_pc (t.core c))
    have ended := StaysPut.setThread (v := (u.relMove (t.core c)).relEnd) hu (u.relMove_pc (t.core c))
    refine ht.trans ?_
    split
    · exact .refl t c
    split
    · split
      · exact ended.trans (.wake (ended.logOff (ht.logOff hlog)) e.1)
      · exact moved
    · exact moved

/-- A flight is a reduction on its way to a slice (R180). -/
def Sent.IsRed (f : Sent) : Prop :=
  (∃ ts pa n op v, f.what = .red ts pa n op v) ∨ ∃ ts pa n op v, f.what = .fred ts pa n op v

theorem State.myReds_isRed {s : State} {c sth line : Nat} : ∀ f ∈ s.myReds c sth line, f.IsRed := fun f hf => by
  obtain ⟨-, what⟩ := Bool.and_eq_true_iff.mp (List.mem_filter.mp hf).2
  split at what
  · rename_i hw; exact .inl ⟨_, _, _, _, _, hw⟩
  · rename_i hw; exact .inr ⟨_, _, _, _, _, hw⟩
  · cases what

theorem State.sliceRmw_stays (s : State) (pno pa size : Nat) (f : Nat → Nat) (c : Nat) :
    StaysPut s (s.sliceRmw pno pa size f).2 c := by
  have told := (s.sliceWrite_told pno pa (leBytes size (f (s.dramRead (s.part pno).keyGen pa size)))).trans
    (State.countSlice_told _ pno (homeSlice (s.part pno).slices pa) 0x0203 1)
  have work := (s.sliceWrite_work pno pa (leBytes size (f (s.dramRead (s.part pno).keyGen pa size)))).trans
    (State.countSlice_work _ pno (homeSlice (s.part pno).slices pa) 0x0203 1)
  exact .of_told told (by rw [work.rest]) c

theorem State.performFlight_stays {f : Sent} (hf : f.IsRed) (s : State) (c : Nat) : StaysPut s (s.performFlight f) c := by
  have lands : ∀ (fl : List Sent) (line pno pa size : Nat) (k : Nat → Nat),
      StaysPut s (({ s with flights := fl }.dropLine f.core line).sliceRmw pno pa size k).2 c := fun fl line pno pa size k =>
    ((StaysPut.of_cores (s := s) (t := { s with flights := fl }) rfl rfl c).trans (.dropLine ..)).trans (State.sliceRmw_stays ..)
  rcases hf with ⟨ts, pa, n, op, v, hw⟩ | ⟨ts, pa, n, op, v, hw⟩ <;> simp only [State.performFlight, hw] <;> exact lands ..

theorem State.performAll_stays (l : List Sent) (hl : ∀ f ∈ l, f.IsRed) (s : State) (c : Nat) : StaysPut s (s.performAll l) c :=
  List.foldlRecOn (motive := fun t => StaysPut s t c) l _ (.refl s c) fun _ ht f hf => ht.trans (State.performFlight_stays (hl f hf) _ c)

theorem State.drainEntry_stays {s : State} {c : Nat} (hlog : bit (s.core c).slcfg 0 = false) (e : SbEntry) :
    StaysPut s (s.drainEntry c e) c := by
  unfold State.drainEntry
  dsimp only
  have performed := s.performAll_stays _ (State.myReds_isRed (s := s) (c := c) (sth := e.sth) (line := lineOf e.addr)) c
  have dropped := performed.trans (.modCore (f := fun x => x.sbDrop e.seq) _ c rfl rfl rfl rfl)
  have written := dropped.trans (.of_told (State.sliceWrite_told _ ((s.corePart c).getD 0) e.addr e.data)
    (by rw [(State.sliceWrite_work ..).rest]) c)
  have settled := written.trans (State.relSettle_stays (written.logOff hlog))
  split
  · exact settled.trans (.wake (settled.logOff hlog) _)
  · exact settled

theorem State.settleLine_stays {s : State} {c : Nat} (hlog : bit (s.core c).slcfg 0 = false) (sth line : Nat) :
    StaysPut s (s.settleLine c sth line) c := by
  unfold State.settleLine
  dsimp only
  exact (List.foldlRecOn (motive := fun t => StaysPut s t c) _ _ (.refl s c)
    fun t ht e _ => ht.trans (State.drainEntry_stays (ht.logOff hlog) e)).trans (State.performAll_stays _ State.myReds_isRed _ c)

/-- What the translation of an address for the thread being issued leaves of its core, whatever it answers. -/
def TranslationStays (s : State) (c : Nat) : Walked → Prop
  | .ok _ t | .fault _ _ t | .malformed _ t => StaysPut s t c
  | .off => True

theorem State.translate_stays (s : State) (c pno va : Nat) (acc : Acc) (app : Bool) :
    TranslationStays s c (s.translate (.core c) pno va acc app) := by
  unfold State.translate
  split
  · trivial
  rename_i p _
  have told := s.walk_told (.core c) pno p va acc app
  have work := s.walk_work (.core c) pno p va acc app
  dsimp only
  split
  · split
    · exact .refl s c
    · trivial
  split
  · rename_i w hw
    rw [hw] at told work
    match w, told, work with
    | .fault _ _ t, told, work => exact StaysPut.of_told told (by rw [LodgeWork.rest work]) c
    | .malformed _ t, told, work => exact StaysPut.of_told told (by rw [LodgeWork.rest work]) c
    | .off, _, _ => trivial
  · rename_i pa e t hw
    rw [hw] at told work
    have walked : StaysPut s t c := .of_told told (by rw [LodgeWork.rest work]) c
    have filled := walked.trans (.modCore (f := fun x => { x with tlb := tlbAdd 64 x.tlb e }) t c rfl rfl rfl rfl)
    exact ⟨filled.regs, filled.lmem, filled.slcfg, filled.pcs, filled.cur⟩

/-- A line of a virtual address is brought into the data cache (R350). -/
theorem State.bringLine_stays {s : State} (hl : LogOff s) (line : Nat) (l : Line) : StaysPut s
    (((s.settleLine s.cur.core s.me.sth line).sliceSee s.myPartNo [(line, 32)]).modMyCore fun x =>
      { x with dcache := dcacheAdd x.dcache l }) s.cur.core := by
  have settled := State.settleLine_stays hl s.me.sth line
  have seen := settled.trans (.of_told (State.sliceSee_told _ s.myPartNo [(line, 32)]) (by rw [(State.sliceSee_work ..).rest]) _)
  exact seen.trans (.modCore_any _ _ _ _ (fun _ => rfl) (fun _ => rfl) (fun _ => rfl) fun _ => rfl)

section
variable {s : State} {p : Pred} {b : Code} {off : BitVec 17} (hi : Issues s p none [rg b])
include hi

theorem pref_window (hw : isWindow (s.operand [b] 0 + off.signExtend 64).toNat = true) :
    exec (.pref p b off) s = .next (passed s [rg b]) := by
  rw [exec_pref, execPref, issue_goes hi]
  exact congrArg Host.Outcome.next (if_pos (by rw [Bool.or_eq_true]; exact .inr hw))

/-- Whatever PREF brings in, it completes with the core still standing at its instruction. -/
theorem pref_completes (hl : LogOff s) :
    ∃ g, exec (.pref p b off) s = .next g.retire ∧ StaysPut (began s [rg b]) g (began s [rg b]).cur.core := by
  rw [exec_pref, execPref, issue_goes hi]
  dsimp only
  split
  · exact ⟨_, rfl, .refl ..⟩
  have translated := (began s [rg b]).translate_stays (began s [rg b]).cur.core (began s [rg b]).myPartNo
    ((began s [rg b]).operand [b] 0 + imm17 off).toNat .read ((began s [rg b]).me.pl = 0)
  split
  · rename_i pa t ht
    rw [ht] at translated
    have walked : StaysPut (began s [rg b]) t (began s [rg b]).cur.core := translated
    have off : LogOff t := by rw [LogOff, State.myCore, walked.cur]; exact walked.logOff hl
    have brought := State.bringLine_stays off (lineOf pa)
    rw [walked.cur] at brought
    split
    · exact ⟨_, rfl, walked⟩
    · exact ⟨_, by rw [walked.cur], walked.trans (brought _)⟩
  · rename_i t ht
    rw [ht] at translated
    exact ⟨_, rfl, translated⟩
  · rename_i t ht
    rw [ht] at translated
    exact ⟨_, rfl, translated⟩
  · exact ⟨_, rfl, .refl ..⟩

theorem pref_stays (hl : LogOff s) : ∃ t, exec (.pref p b off) s = .next t ∧ t.me.pc = s.me.pc + 8
    ∧ t.myCore.regs = s.myCore.regs ∧ (∀ x, t.myCore.lmem.get x = s.myCore.lmem.get x)
    ∧ (isWindow (s.operand [b] 0 + off.signExtend 64).toNat = true → t = passed s [rg b]) := by
  obtain ⟨u, hu⟩ := Option.isSome_iff_exists.mp hi.1
  obtain ⟨g, completes, stays⟩ := pref_completes (off := off) hi hl
  obtain ⟨hpc, hregs, hlmem, -⟩ := stays.retire (u := u) hu hl
  refine ⟨_, completes, by rw [State.me_eq hu]; exact hpc, hregs, fun x => by rw [hlmem]; rfl, fun hw => ?_⟩
  exact Host.Outcome.next.inj (completes.symm.trans (pref_window hi hw))

end

/-- Settles O20: LDF, STF, CLRE and PREF in turn. An LDF takes its cell or parks; STF and CLRE change the own port's bytes
and cells alone; PREF, however it translates and whatever it drains, leaves its core at the instruction, to complete. -/
theorem fullEmptyCells : Obligations.FullEmptyCells := by
  refine ⟨fun s p d b off sz sx loc cn o hi ho => ⟨fun hfull hfree hclean => ?_, fun hempty hl => ldf_parks hi ho hempty hl⟩,
    fun s p a b off sz loc o hi ho hl hrel => stf_fills hi hl ho hrel,
    fun s p a b off loc o hi ho hl hn => clre_empties hi hl ho hn, fun s p b off hi hl => pref_stays hi hl⟩
  rw [ldf_takes hi ho hfull hfree hclean, widen, sextn_eq_signExtend]
  rfl

end Sys2Proof.Machine
end


section
/-! DRAM under owner keys (R39, R195, R266): a run of bytes written under a key, and what every read under that key finds
afterwards. -/

namespace Sys2Proof.Machine

/-! ### What a read of DRAM rests on -/

theorem State.dramByte_congr {s t : State} {gen a : Nat} (hkey : t.dkey.look (a / 32) = s.dkey.look (a / 32))
    (hbyte : t.dram.get a = s.dram.get a) : t.dramByte gen a = s.dramByte gen a := by
  unfold State.dramByte; rw [hkey, hbyte]

/-- A unit under the key reads as the memory stands. -/
theorem State.dramByte_keyed {s : State} {gen a : Nat} (h : s.dkey.look (a / 32) = some gen) :
    s.dramByte gen a = s.dram.get a := by
  unfold State.dramByte; rw [h]; exact if_pos rfl

theorem State.dramBytes_eq_map (s : State) (gen n : Nat) : ∀ a,
    s.dramBytes gen a n = (List.range n).map fun i => s.dramByte gen (a + i) := by
  induction n with
  | zero => intro a; rfl
  | succ n ih =>
    intro a
    rw [State.dramBytes, ih, List.range_succ_eq_map, List.map_cons, List.map_map]
    refine congrArg (_ :: ·) (List.map_congr_left fun i _ => ?_)
    show s.dramByte gen (a + 1 + i) = s.dramByte gen (a + (i + 1))
    rw [Nat.add_assoc, Nat.add_comm 1]

theorem State.dramBytes_length (s : State) (gen a n : Nat) : (s.dramBytes gen a n).length = n := by
  rw [State.dramBytes_eq_map, List.length_map, List.length_range]

theorem State.dramBytes_getD (s : State) (gen a : Nat) {n i : Nat} (h : i < n) :
    (s.dramBytes gen a n).getD i 0 = s.dramByte gen (a + i) := by
  rw [List.getD_eq_getElem _ _ (by rwa [State.dramBytes_length])]
  simp only [State.dramBytes_eq_map, List.getElem_map, List.getElem_range]

/-! ### Units put under a key -/

/-- Units of DRAM are put under a key, and under that key every byte reads as it did. -/
structure Rekeyed (gen : Nat) (units : List Nat) (s t : State) : Prop where
  rest : t = { s with dram := t.dram, dkey := t.dkey }
  keys : ∀ u, t.dkey.look u = if u ∈ units then some gen else s.dkey.look u
  reads : ∀ a, t.dramByte gen a = s.dramByte gen a
  wf : s.dram.wf = true → t.dram.wf = true

theorem Rekeyed.refl (gen : Nat) (s : State) : Rekeyed gen [] s s := ⟨rfl, fun _ => rfl, fun _ => rfl, fun h => h⟩

theorem Rekeyed.trans {gen : Nat} {l m : List Nat} {s t v : State} (h : Rekeyed gen l s t) (k : Rekeyed gen m t v) :
    Rekeyed gen (l ++ m) s v := by
  refine ⟨?_, fun u => ?_, fun a => (k.reads a).trans (h.reads a), fun hw => k.wf (h.wf hw)⟩
  · have e := k.rest; rw [h.rest] at e; exact e
  · rw [k.keys, h.keys]
    by_cases hm : u ∈ m <;> simp [hm]

section
variable {s t : State} {gen u : Nat} (hrest : t = { s with dram := t.dram, dkey := t.dkey })
include hrest

/-- A unit of another key: it is stored with what the key reads there. -/
theorem Rekeyed.stored {bs : List Byte} (hbs : s.dramBytes gen (32 * u) 32 = bs) (hkey : t.dkey = s.dkey.put u gen)
    (hdram : t.dram = s.dram.store (32 * u) bs) : Rekeyed gen [u] s t where
  rest := hrest
  keys v := by rw [hkey, KMap.look_put]; simp only [List.mem_singleton]
  wf h := by rw [hdram]; exact Memory.wf_store _ _ _ h
  reads a := by
    by_cases hu : a / 32 = u
    · rw [State.dramByte_keyed (by rw [hkey, hu, KMap.look_put_self]), hdram, Memory.get_store, ← hbs,
        State.dramBytes_length, if_pos (by omega), State.dramBytes_getD _ _ _ (by omega), Nat.add_sub_cancel' (by omega)]
    · refine State.dramByte_congr (by rw [hkey, KMap.look_put_ne _ _ hu]) ?_
      rw [hdram, Memory.get_store, ← hbs, State.dramBytes_length, if_neg (by omega)]

/-- A unit that nothing was written to under a key. -/
theorem Rekeyed.claimed (hfree : s.dkey.look u = none) (hkey : t.dkey = s.dkey.put u gen) (hdram : t.dram = s.dram) :
    Rekeyed gen [u] s t where
  rest := hrest
  keys v := by rw [hkey, KMap.look_put]; simp only [List.mem_singleton]
  wf h := by rw [hdram]; exact h
  reads a := by
    by_cases hu : a / 32 = u
    · rw [State.dramByte_keyed (by rw [hkey, hu, KMap.look_put_self]), hdram, State.dramByte, hu, hfree]
    · exact State.dramByte_congr (by rw [hkey, KMap.look_put_ne _ _ hu]) (by rw [hdram])

end

theorem Rekeyed.held {s : State} {gen u : Nat} (h : s.dkey.look u = some gen) : Rekeyed gen [u] s s := by
  refine ⟨rfl, fun v => ?_, fun _ => rfl, fun h => h⟩
  split
  · rename_i hv; rw [List.mem_singleton.mp hv, h]
  · rfl

theorem State.rekey_rekeyed (s : State) (gen u : Nat) : Rekeyed gen [u] s (s.rekey gen u) := by
  unfold State.rekey
  split
  · rename_i free; exact .claimed rfl free rfl rfl
  · rename_i g key
    split
    · rename_i same; exact .held (key.trans (congrArg some same))
    · generalize hbs : s.dramBytes gen (32 * u) 32 = bs
      exact .stored rfl hbs rfl rfl

theorem State.rekeys_rekeyed (gen : Nat) (units : List Nat) (s : State) :
    Rekeyed gen units s (units.foldl (fun t u => t.rekey gen u) s) := by
  induction units generalizing s with
  | nil => exact .refl gen s
  | cons u units ih => exact (s.rekey_rekeyed gen u).trans (ih (s.rekey gen u))

/-! ### A write (R39, R266) -/

section
variable (s : State) (gen pa : Nat) (bs : List Byte)

theorem State.dramWrite_rest : s.dramWrite gen pa bs =
    { s with dram := (s.dramWrite gen pa bs).dram, dkey := (s.dramWrite gen pa bs).dkey,
             dpoison := s.dpoison.filter fun c => !(cellsCovered pa bs.length).contains c } := by
  have e := (State.rekeys_rekeyed gen (cellsOf pa bs.length) s).rest
  unfold State.dramWrite
  rw [e]

theorem State.dramWrite_wf (h : s.dram.wf = true) : (s.dramWrite gen pa bs).dram.wf = true :=
  Memory.wf_store _ _ _ ((State.rekeys_rekeyed gen (cellsOf pa bs.length) s).wf h)

/-- A byte as the key reads it after a write under it. -/
theorem State.dramByte_dramWrite (a : Nat) : (s.dramWrite gen pa bs).dramByte gen a =
    if pa ≤ a ∧ a < pa + bs.length then bs.getD (a - pa) 0 else s.dramByte gen a := by
  have rekeyed := State.rekeys_rekeyed gen (cellsOf pa bs.length) s
  have byte : (s.dramWrite gen pa bs).dram.get a = _ := Memory.get_store bs _ pa a
  by_cases written : pa ≤ a ∧ a < pa + bs.length
  · have key : (s.dramWrite gen pa bs).dkey.look (a / 32) = some gen :=
      (rekeyed.keys _).trans (if_pos (mem_cellsOf.mpr ⟨by omega, by omega, by omega⟩))
    rw [State.dramByte_keyed key, byte, if_pos written, if_pos written]
  · rw [if_neg written] at byte
    rw [if_neg written, ← rekeyed.reads a]
    exact State.dramByte_congr rfl byte

theorem State.dramBytes_dramWrite : (s.dramWrite gen pa bs).dramBytes gen pa bs.length = bs := by
  refine List.ext_getElem (State.dramBytes_length ..) fun i _ hi => ?_
  simp only [State.dramBytes_eq_map, List.getElem_map, List.getElem_range]
  rw [State.dramByte_dramWrite, if_pos (by omega), Nat.add_sub_cancel_left, List.getD_eq_getElem _ _ hi]

/-- A cell written whole loses its poison (R266). -/
theorem State.mem_dpoison_dramWrite (c : Nat) : c ∈ (s.dramWrite gen pa bs).dpoison ↔
    c ∈ s.dpoison ∧ ¬ (pa ≤ 32 * c ∧ 32 * c + 32 ≤ pa + bs.length ∧ bs ≠ []) := by
  have covered : c ∈ cellsCovered pa bs.length ↔ pa ≤ 32 * c ∧ 32 * c + 32 ≤ pa + bs.length ∧ bs ≠ [] := by
    simp only [cellsCovered, List.mem_filter, mem_cellsOf, Bool.and_eq_true, decide_eq_true_eq, ne_eq,
      ← List.length_eq_zero_iff]
    omega
  rw [State.dramWrite_rest, ← covered]
  simp [List.mem_filter]

end

end Sys2Proof.Machine
end

section
/-! What R185 makes of a table entry: an entry with V set is a table or a leaf as R184 lays them out, or malformed. -/

namespace Sys2Proof.Machine

/-- An entry that names a table has no field set but V and the table's base, which lies in DRAM, and does not stand at
level 5 (R184, R185). -/
structure NamesTable (level e pa : Nat) : Prop where
  rwx : bits e 3 1 = 0
  above : level ≠ 5
  base : pa = bits e 51 12 * 4096
  inDram : pa < Config.dramEnd
  flags : bits e 6 4 = 0 ∧ bit e 8 = false
  owner : bits e 63 56 = 0
  reserved : bits e 55 52 = 0 ∧ bits e 11 9 = 0 ∧ bit e 7 = false

/-- A leaf stands at level 3, 4 or 5, aligned to its size and within DRAM, with no reserved bit, no W without R, and an owner
key index that is 0 or the partition's (R184 to R186). -/
structure NamesLeaf (oki level e pa n : Nat) : Prop where
  rwx : bits e 3 1 ≠ 0
  below : ¬ level ≤ 2
  base : pa = bits e 51 12 * 4096
  size : n = leafSize level (bit e 8)
  s64 : bit e 8 = true → level = 5
  aligned : pa % n = 0
  inDram : pa + n ≤ Config.dramEnd
  owner : bits e 63 56 ≠ 0 → bits e 63 56 = oki
  readable : bit e 2 = true → bit e 1 = true
  reserved : bits e 55 52 = 0 ∧ bits e 11 9 = 0 ∧ bit e 7 = false

section
variable {oki level e : Nat}

theorem judgePte_absent (h : bit e 0 = false) : judgePte oki level e = .absent := by
  simp only [judgePte, h, Bool.not_false, if_true]

/-- Everything that an entry with V can be. -/
theorem judgePte_valid (h : bit e 0 = true) : judgePte oki level e = .malformed
    ∨ (∃ pa, judgePte oki level e = .table pa ∧ NamesTable level e pa)
    ∨ ∃ pa n, judgePte oki level e = .leaf pa n ∧ NamesLeaf oki level e pa n := by
  unfold judgePte
  rw [if_neg (by simp [h])]
  dsimp only
  by_cases rwx : bits e 3 1 = 0
  · rw [if_pos rwx]
    iterate 3 (split; · exact .inl rfl)
    rename_i unset above reach
    simp only [Bool.or_eq_true, decide_eq_true_eq, not_or, Decidable.not_not, Bool.not_eq_true, ne_eq] at unset
    obtain ⟨⟨⟨⟨⟨perms, s64⟩, owner⟩, high⟩, low⟩, seven⟩ := unset
    exact .inr (.inl ⟨_, rfl, rwx, above, rfl, Nat.not_le.mp reach, ⟨perms, s64⟩, owner, high, low, seven⟩)
  · rw [if_neg rwx]
    iterate 7 (split; · exact .inl rfl)
    rename_i below s64 aligned reserved readable reach owner
    simp only [Bool.or_eq_true, Bool.and_eq_true, decide_eq_true_eq, not_or, not_and, Decidable.not_not, Bool.not_eq_true,
      ne_eq, Bool.not_eq_true', Bool.not_eq_false] at s64 aligned reserved readable owner
    obtain ⟨⟨high, low⟩, seven⟩ := reserved
    exact .inr (.inr ⟨_, _, rfl, rwx, below, rfl, rfl, s64, aligned, Nat.not_lt.mp reach, owner, readable, high, low,
      seven⟩)

theorem judgePte_table {pa : Nat} (h : judgePte oki level e = .table pa) : NamesTable level e pa := by
  cases hv : bit e 0 with
  | false => rw [judgePte_absent hv] at h; cases h
  | true =>
    obtain hm | ⟨_, ht, names⟩ | ⟨_, _, hl, -⟩ := judgePte_valid (oki := oki) (level := level) hv
    · rw [hm] at h; cases h
    · rw [ht] at h; cases h; exact names
    · rw [hl] at h; cases h

theorem judgePte_leaf {pa n : Nat} (h : judgePte oki level e = .leaf pa n) : NamesLeaf oki level e pa n := by
  cases hv : bit e 0 with
  | false => rw [judgePte_absent hv] at h; cases h
  | true =>
    obtain hm | ⟨_, ht, -⟩ | ⟨_, _, hl, names⟩ := judgePte_valid (oki := oki) (level := level) hv
    · rw [hm] at h; cases h
    · rw [ht] at h; cases h
    · rw [hl] at h; cases h; exact names

/-- An entry with V set that can be neither a table nor a leaf. -/
theorem judgePte_malformed (h : bit e 0 = true) (ht : ∀ pa, ¬ NamesTable level e pa)
    (hl : ∀ pa n, ¬ NamesLeaf oki level e pa n) : judgePte oki level e = .malformed := by
  rcases judgePte_valid (oki := oki) (level := level) h with hm | ⟨pa, -, names⟩ | ⟨pa, n, -, names⟩
  · exact hm
  · exact absurd names (ht pa)
  · exact absurd names (hl pa n)

/-- An entry with W set is no table. -/
theorem bits_rwx_of_w (h : bit e 2 = true) : bits e 3 1 ≠ 0 := by
  have one : e / 2 ^ 2 % 2 = 1 := (bit_eq_iff e 2 true).mp h
  unfold bits
  omega

/-- The size of a leaf follows from its level and S64 (R183, R186). -/
theorem NamesLeaf.sizes {pa n : Nat} (h : NamesLeaf oki level e pa n) (h5 : level ≤ 5) :
    n = 2 ^ 30 ∧ level = 3 ∨ n = 2 ^ 21 ∧ level = 4 ∨ n = 2 ^ 16 ∧ level = 5 ∧ bit e 8 = true
      ∨ n = 2 ^ 12 ∧ level = 5 ∧ bit e 8 = false := by
  obtain rfl | rfl | rfl : level = 3 ∨ level = 4 ∨ level = 5 := by have := h.below; omega
  · exact .inl ⟨h.size, rfl⟩
  · exact .inr (.inl ⟨h.size, rfl⟩)
  · cases hs : bit e 8 with
    | true => exact .inr (.inr (.inl ⟨by rw [h.size, hs]; rfl, rfl, rfl⟩))
    | false => exact .inr (.inr (.inr ⟨by rw [h.size, hs]; rfl, rfl, rfl⟩))

end

/-- Settles O38: a write puts the units that it touches under its key with what the key reads there, and then stores its bytes;
an entry with V set is the table or the leaf of R184, or malformed. -/
theorem memoryAndTables : Obligations.MemoryAndTables := by
  refine ⟨fun s gen pa bs hwf => ?_, fun oki level e _ h5 _ _ => ?_⟩
  · refine ⟨s.dramBytes_dramWrite gen pa bs, s.dramWrite_wf gen pa bs hwf, fun a ha => ?_,
      s.mem_dpoison_dramWrite gen pa bs, ?_⟩
    · rw [State.dramByte_dramWrite, if_neg (by omega)]
    · rw [State.dramWrite_rest]; exact ⟨rfl, rfl, rfl⟩
  · refine ⟨judgePte_absent, fun hv hrwx hl => ?_, fun hv hrwx hl => ?_, fun hv hw hr => ?_, fun hv hrwx h0 hoki => ?_,
      fun hv hres => ?_, fun pa n h => ?_, fun pa h => ?_⟩
    · exact judgePte_malformed hv (fun _ t => t.above hl) fun _ _ l => l.rwx hrwx
    · exact judgePte_malformed hv (fun _ t => hrwx t.rwx) fun _ _ l => l.below hl
    · exact judgePte_malformed hv (fun _ t => bits_rwx_of_w hw t.rwx) fun _ _ l => by simp [l.readable hw] at hr
    · exact judgePte_malformed hv (fun _ t => hrwx t.rwx) fun _ _ l => hoki (l.owner h0)
    · have reserved : ¬ (bits e 55 52 = 0 ∧ bits e 11 9 = 0 ∧ bit e 7 = false) := fun ⟨high, low, seven⟩ =>
        hres.elim (· high) (·.elim (· low) fun h => by simp [seven] at h)
      exact judgePte_malformed hv (fun _ t => reserved t.reserved) fun _ _ l => reserved l.reserved
    · have leaf := judgePte_leaf h
      exact ⟨leaf.base, leaf.aligned, Nat.not_le.mp leaf.below, leaf.sizes h5⟩
    · have table := judgePte_table h
      exact ⟨table.base, Nat.le_of_lt_succ (Nat.lt_of_le_of_ne h5 table.above), table.rwx⟩

end Sys2Proof.Machine
end

section
/-! Where a scalar access goes: an address that is bad (R347), and a virtual one that the tables translate (R173, R185). -/

namespace Sys2Proof.Machine

/-- An access of `n` bytes beyond the address space, or not a multiple of its size (R347). -/
abbrev BadAddress (loc : Bool) (ea : Word) (n : Nat) : Prop :=
  (if loc then 2 ^ 19 else 2 ^ 57) ≤ ea.toNat ∨ ea.toNat % n ≠ 0

theorem State.locate_badAddress {s : State} {loc : Bool} {ea : Word} {n : Nat} (h : BadAddress loc ea n) (acc : Acc)
    (bad : Cause → Word → State → State) (k : Place → State → State) :
    s.locate loc ea n acc bad k = bad .align ea s := by
  unfold State.locate
  cases loc with
  | true => exact (if_pos rfl).trans (if_pos (by simpa [BadAddress] using h))
  | false => exact (if_neg Bool.false_ne_true).trans (if_pos (by simpa [BadAddress] using h))

/-- An access that the tables translate goes to DRAM, in the state of the translation (R173, R185). -/
theorem State.locate_dram {s t : State} {ea : Word} {n pa : Nat} {acc : Acc} (h : s.dramPort ea n acc = some (pa, t))
    (bad : Cause → Word → State → State) (k : Place → State → State) :
    s.locate false ea n acc bad k = k (.virt pa) t := by
  unfold State.dramPort at h
  split at h
  · cases h
  rename_i goes
  simp only [Bool.or_eq_true, decide_eq_true_eq, bne_iff_ne, not_or, Bool.not_eq_true, Option.isSome_eq_false_iff,
    Option.isNone_iff_eq_none] at goes
  obtain ⟨⟨⟨low, aligned⟩, virt⟩, nofault⟩ := goes
  split at h
  · rename_i pa' t' translated
    split at h
    · cases h
    · rename_i free
      obtain ⟨rfl, rfl⟩ := Prod.mk.inj (Option.some.inj h)
      have good : ¬ (decide (2 ^ 57 ≤ ea.toNat) || decide (ea.toNat % n ≠ 0)) = true := by
        rw [Bool.or_eq_true, decide_eq_true_eq, decide_eq_true_eq]
        exact not_or.mpr ⟨low, aligned⟩
      rw [State.locate, if_neg Bool.false_ne_true, if_neg good, if_neg (Bool.eq_false_iff.mp virt)]
      simp only [State.xlate, State.xlateBy, nofault, translated, free]
      rfl
  · cases h

end Sys2Proof.Machine
end

section
/-! Reads and stores of DRAM by a core with nothing on its way there (R176, R202). -/

namespace Sys2Proof.Machine

/-! ### What slices note where they count nothing (R178, R179, R273) -/

/-- Slices have been looked up, and nothing else has changed. -/
structure SlicesSeen (s t : State) : Prop where
  rest : t = { s with slices := t.slices, dramCounts := t.dramCounts, bridgeCounts := t.bridgeCounts }

namespace SlicesSeen

theorem refl (s : State) : SlicesSeen s s := ⟨rfl⟩

theorem trans {s t u : State} (h : SlicesSeen s t) (k : SlicesSeen t u) : SlicesSeen s u := by
  refine ⟨?_⟩
  have e := k.rest
  rw [h.rest] at e
  exact e

variable {s t : State} (h : SlicesSeen s t)
include h

theorem part (pno : Nat) : t.part pno = s.part pno := by rw [h.rest]; rfl
theorem cur : t.cur = s.cur := by rw [h.rest]
theorem myPart : t.myPart = s.myPart := by rw [h.rest]; rfl
theorem dramPoisoned (a n : Nat) : t.dramPoisoned a n = s.dramPoisoned a n := by rw [h.rest]; rfl
theorem myCore : t.myCore = s.myCore := by rw [h.rest]; rfl
theorem dramBytes (gen a n : Nat) : t.dramBytes gen a n = s.dramBytes gen a n := by
  rw [State.dramBytes_eq_map, State.dramBytes_eq_map, h.rest]; rfl

end SlicesSeen

theorem State.sliceFetch_seen (s : State) (tsid ph blk miss : Nat) : SlicesSeen s (s.sliceFetch tsid ph blk miss) := by
  unfold State.sliceFetch; dsimp only; split <;> exact ⟨rfl⟩

theorem State.sliceLook_seen (s : State) (pno blk a n : Nat) : SlicesSeen s (s.sliceLook pno blk a n).2 := by
  unfold State.sliceLook; dsimp only; split
  · exact ⟨rfl⟩
  · exact .trans ⟨rfl⟩ (State.sliceFetch_seen ..)

theorem State.countSlice_off {s : State} {pno : Nat} (h : (s.part pno).slsel = []) (j ev n : Nat) :
    s.countSlice pno j ev n = s := if_pos h

/-- A partition whose slices select nothing to count. -/
theorem State.sliceSee_seen {s : State} {pno : Nat} (h : (s.part pno).slsel = []) (runs : List (Nat × Nat)) :
    SlicesSeen s (s.sliceSee pno runs) := by
  refine List.foldlRecOn (motive := SlicesSeen s) _ _ (.refl s) fun t ht q _ => ?_
  refine List.foldlRecOn (motive := SlicesSeen s) _ _ ht fun t ht i _ => ?_
  have looked := ht.trans (t.sliceLook_seen pno ((q.1 / 256 + i) * 256) q.1 q.2)
  dsimp only
  rw [State.countSlice_off (by rw [looked.part]; exact h)]
  exact looked

/-! ### Scalar reads (R202, R203, R207) -/

theorem State.myReds_idle {s : State} (h : s.flights = []) (c sth line : Nat) : s.myReds c sth line = [] := by
  rw [State.myReds, h]; rfl

/-- A core with nothing on its way to a line has nothing to settle. -/
theorem State.settleLine_idle {s : State} {c : Nat} (hsbuf : (s.core c).sbuf = []) (hf : s.flights = []) (sth line : Nat) :
    s.settleLine c sth line = s := by
  rw [State.settleLine, hsbuf]
  show s.performAll (s.myReds c sth line) = s
  rw [State.myReds_idle hf]
  rfl

theorem ownByte_idle {x : Core} (h : x.sbuf = []) (tsid sth a : Nat) : ownByte x tsid sth a = none := by
  rw [ownByte, h]; rfl

/-- The line of a physical address as a miss of the issuing core brings it in. -/
def State.lineIn (s : State) (pa : Nat) : Line :=
  ⟨s.tsidOf s.cur.core, lineOf pa, s.dramBytes s.myPart.keyGen (lineOf pa) 32, false⟩

/-- The issuing core's own line of a physical address. -/
def State.ownLine (s : State) (pa : Nat) (l : Line) : Bool := l.tsid = s.tsidOf s.cur.core && l.addr = lineOf pa

/-- A read of a line that is present, with no reduction of the thread on its way to it. -/
theorem State.vread_hit {s : State} {pa : Nat} {l : Line} (hf : s.flights = [])
    (hline : s.myCore.dcache.find? (s.ownLine pa) = some l) (hgood : l.bad = false) (n : Nat)
    (bad : State → State) (k : Nat → State → State) :
    s.vread pa n false bad k = k (leNat ((l.data.drop (pa - l.addr)).take n)) s := by
  have hit : (s.core s.cur.core).dcache.find? (fun l => l.tsid = s.tsidOf s.cur.core && l.addr = lineOf pa) = some l := hline
  unfold State.vread
  simp [State.myReds_idle hf, hit, hgood]

/-- A core whose data cache takes a line. -/
def Core.takes (x : Core) (l : Line) : Core := { x with dcache := dcacheAdd x.dcache l }

/-- What a read that misses, or passes the data cache by, leaves: the line stands in the cache unless the cache was passed
by. -/
def State.lineRead (s : State) (pa n : Nat) (home : Bool) : State :=
  let g := s.sliceSee s.myPartNo [(pa, n)]
  if home then g else g.modMyCore fun x => x.takes (s.lineIn pa)

/-- A read of DRAM by a core with nothing on its way there and the line not in its cache, where nothing counts it. -/
theorem State.vread_dram {s : State} {pa n : Nat} (hf : s.flights = []) (hsbuf : s.myCore.sbuf = [])
    (hclean : s.dramPoisoned pa n = false) (hcevs : s.myCore.cevs = []) (hsel : s.myPart.slsel = [])
    (hmiss : ∀ l ∈ s.myCore.dcache, s.ownLine pa l = false) (hn : n ≠ 0) (home : Bool) (bad : State → State)
    (k : Nat → State → State) : s.vread pa n home bad k =
      k (leNat (s.dramBytes s.myPart.keyGen pa n)) (s.lineRead pa n home) := by
  have seen := State.sliceSee_seen hsel [(pa, n)]
  have miss : (s.core s.cur.core).dcache.find? (fun l => l.tsid = s.tsidOf s.cur.core && l.addr = lineOf pa) = none :=
    List.find?_eq_none.mpr fun l hl => Bool.eq_false_iff.mp (hmiss l hl)
  have unbuffered : ((List.range n).map fun i =>
      ownByte (s.core s.cur.core) (s.tsidOf s.cur.core) s.me.sth (pa + i)).all Option.isSome = false := by
    obtain ⟨m, rfl⟩ := Nat.exists_eq_succ_of_ne_zero hn
    simp [List.range_succ_eq_map, ownByte_idle (x := s.core s.cur.core) hsbuf]
  unfold State.vread
  simp only [State.myReds_idle hf, miss, unbuffered, State.settleLine_idle (c := s.cur.core) hsbuf hf, countCore_off s hcevs,
    seen.dramPoisoned, hclean, seen.myPart, State.dramRead, seen.dramBytes]
  cases home <;> simp [State.lineRead, State.lineIn, Core.takes, State.modMyCore, seen.cur]

section
variable {s t : State} {ea : Word} {sz : Size} {pa : Nat}

theorem loadBody_dram (h : s.dramPort ea (sizeBytes sz) .read = some (pa, t)) (d : Code) (sx : Bool) :
    loadBody d sz sx false none ea s = t.vread pa (sizeBytes sz) false (badAccess .read .poison ea) fun v g =>
      (g.wr d (widen sx (sizeBytes sz) v)).retire := by
  rw [loadBody, State.locate_dram h]; rfl

theorem loadBody_acquires (h : s.dramPort ea (sizeBytes sz) .read = some (pa, t)) (d : Code) (sx : Bool) (sc : Scope) :
    loadBody d sz sx false (some sc) ea s = t.vread pa (sizeBytes sz) (wideScope sc) (badAccess .read .poison ea) fun v g =>
      ((g.acquire sc).wr d (widen sx (sizeBytes sz) v)).retire := by
  rw [loadBody, State.locate_dram h]; rfl

theorem loadBody_badAddress {loc : Bool} (h : BadAddress loc ea (sizeBytes sz)) (d : Code) (sx : Bool) (acq : Option Scope)
    (s : State) : loadBody d sz sx loc acq ea s = s.trap .align ea := by
  rw [loadBody.eq_def, State.locate_badAddress h]; rfl

theorem storeBody_badAddress {loc : Bool} (h : BadAddress loc ea (sizeBytes sz)) (v : Word) (s : State) :
    storeBody sz loc ea v s = s.trap .align ea := by
  rw [storeBody, State.locate_badAddress h]; rfl

end

/-! ### Stores into the store buffer (R176, R206) -/

/-- Threads of a core have changed, and nothing else. -/
structure ThreadsTouched (s t : State) (c : Nat) : Prop where
  rest : t = { s with cores := t.cores }
  core : t.core c =
    { s.core c with threads := (t.core c).threads, displaced := (t.core c).displaced, saved := (t.core c).saved }
  stands : ∀ sl, (t.thread? c sl).isSome = (s.thread? c sl).isSome

theorem State.modSth_touched (s : State) (c sth : Nat) (f : Thread → Thread) : ThreadsTouched s (s.modSth c sth f) c := by
  unfold State.modSth
  split
  · rename_i sl _
    refine ⟨?_, by rw [State.core_modThread], fun sm => ?_⟩
    · unfold State.modThread; split <;> rfl
    · rw [State.thread_modThread]
      split
      · rename_i here; rw [here.2, Option.isSome_map]
      · rfl
  · refine ⟨rfl, by rw [State.core_modCore_self], fun sl => ?_⟩
    rw [State.thread?, State.core_modCore_self]; rfl

/-- The store-buffer entry of a store of bytes by the issuing thread. -/
def State.storeEntry (s : State) (pa : Nat) (bs : List Byte) : SbEntry :=
  ⟨s.stamp, s.myPart.tsid, pa, bs, s.me.sth, s.me.lid, homeSlice s.myPart.slices pa⟩

/-- A core whose store buffer takes an entry: the line, if present, takes the bytes too. -/
def Core.buffers (x : Core) (e : SbEntry) : Core :=
  { x with dcache := dcacheUpdate x.dcache e.tsid e.addr e.data, sbuf := x.sbuf ++ [e] }

/-- The state with a store of the issuing thread in the store buffer, its home slice touched. -/
def State.buffered (s : State) (pa : Nat) (bs : List Byte) : State :=
  (({ s with stamp := s.stamp + 1 } : State).modMyCore fun x => x.buffers (s.storeEntry pa bs)).touch s.cur.core s.me.sth
    (s.storeEntry pa bs).slice

theorem State.writeAt_buffers {s : State} (room : s.myCore.sbuf.length < 16) (pa : Nat) (ea : Word) (n v : Nat) (full : Bool)
    (k : State → State) : s.writeAt (.virt pa) ea n v full k = k (s.buffered pa (leBytes n v)) :=
  if_neg (Nat.not_le.mpr room)

theorem storeBody_dram {s t : State} {ea : Word} {sz : Size} {pa : Nat} (h : s.dramPort ea (sizeBytes sz) .write = some (pa, t))
    (room : t.myCore.sbuf.length < 16) (v : Word) : storeBody sz false ea v s =
      (t.buffered pa (leBytes (sizeBytes sz) (v.toNat % 2 ^ (8 * sizeBytes sz)))).retire := by
  rw [storeBody, State.locate_dram h]
  exact State.writeAt_buffers room ..

section
variable (s : State) (pa : Nat) (bs : List Byte)

theorem State.buffered_touched : ThreadsTouched
    (({ s with stamp := s.stamp + 1 } : State).modMyCore fun x => x.buffers (s.storeEntry pa bs)) (s.buffered pa bs)
    s.cur.core := State.modSth_touched ..

theorem State.buffered_rest :
    s.buffered pa bs = { s with cores := (s.buffered pa bs).cores, stamp := (s.buffered pa bs).stamp } := by
  have e := (s.buffered_touched pa bs).rest
  rw [e]; rfl

theorem State.buffered_myCore : ∃ x : Core, (s.buffered pa bs).myCore =
    { s.myCore.buffers (s.storeEntry pa bs) with threads := x.threads, displaced := x.displaced, saved := x.saved } := by
  have e := (s.buffered_touched pa bs).core
  have core : ((({ s with stamp := s.stamp + 1 } : State).modMyCore fun x => x.buffers (s.storeEntry pa bs)).core s.cur.core) =
    s.myCore.buffers (s.storeEntry pa bs) := State.core_modCore_self ..
  rw [core] at e
  exact ⟨_, by rw [State.myCore, show (s.buffered pa bs).cur = s.cur by rw [State.buffered_rest], e]⟩

theorem State.buffered_me? (hs : s.me?.isSome = true) : (s.buffered pa bs).me?.isSome = true := by
  have stands := (s.buffered_touched pa bs).stands s.cur.slot
  rw [State.me?, show (s.buffered pa bs).cur = s.cur by rw [State.buffered_rest], stands, ← hs]
  exact congrArg Option.isSome (State.me?_modCore { s with stamp := s.stamp + 1 } (fun x => x.buffers (s.storeEntry pa bs)) rfl)

/-- A store buffered and completed: memory, the registers and the local memory are as they were, and the store's bytes stand
in the store buffer. -/
theorem State.buffered_retires (hs : s.me?.isSome = true) (hl : LogOff s) :
    (∀ x, (s.buffered pa bs).retire.dram.get x = s.dram.get x)
    ∧ (∀ x, (s.buffered pa bs).retire.host.get x = s.host.get x)
    ∧ (s.buffered pa bs).retire.myCore.regs = s.myCore.regs
    ∧ (∀ x, (s.buffered pa bs).retire.myCore.lmem.get x = s.myCore.lmem.get x)
    ∧ (s.buffered pa bs).retire.myCore.sbuf = s.myCore.sbuf ++ [s.storeEntry pa bs] := by
  obtain ⟨x, core⟩ := s.buffered_myCore pa bs
  obtain ⟨t, ht⟩ := Option.isSome_iff_exists.mp (s.buffered_me? pa bs hs)
  have off : LogOff (s.buffered pa bs) := by rw [LogOff, core]; exact hl
  have kept := OwnCore.elsewhere (s := s.buffered pa bs) ⟨rfl, ⟨rfl, rfl⟩, fun _ _ => rfl, fun _ _ => rfl⟩
    ((s.buffered pa bs).me.pc + 8) ht off
  have retired := State.retireTo_myCore ((s.buffered pa bs).me.pc + 8) ht off
  rw [core] at retired
  refine ⟨fun a => ?_, fun a => ?_, ?_, fun a => ?_, ?_⟩
  · rw [State.retire, kept.dram, State.buffered_rest]
  · rw [State.retire, kept.host, State.buffered_rest]
  all_goals rw [State.retire, retired]; rfl

end

end Sys2Proof.Machine
end

section
/-! Loads and stores of virtual addresses, and bad addresses (R347, R349, R351), and the statement about them. -/

namespace Sys2Proof.Machine

/-! ### The instructions, issued -/

section
variable {s : State} {p : Pred} {d a b c : Code} {off : BitVec 17} {sz : Size} {sx loc cn : Bool}

theorem ld_goes (hi : Issues s p (some (rg d)) [rg b]) : exec (.ld p d b off sz sx loc) s =
    .next (loadBody d sz sx loc none (s.operand [b] 0 + off.signExtend 64) (began s [rg b])) := by
  rw [exec_ld, execLd, issue_goes hi]; rfl

theorem lda_goes (hi : Issues s p (some (rg d)) [rg b]) (sc : Scope) : exec (.lda p d b off sz sx loc sc) s =
    .next (loadBody d sz sx loc (some sc) (s.operand [b] 0 + off.signExtend 64) (began s [rg b])) := by
  rw [exec_lda, execLda, issue_goes hi]; rfl

theorem ldx_goes (hi : Issues s p (some (rg d)) [rg b, rg c]) : exec (.ldx p d b c sz sx loc) s =
    .next (loadBody d sz sx loc none (s.operand [b, c] 0 + s.operand [b, c] 1 * BitVec.ofNat 64 (sizeBytes sz))
      (began s [rg b, rg c])) := by
  rw [exec_ldx, execLdx, issue_goes hi]; rfl

theorem st_goes (hi : Issues s p none [rg a, rg b]) : exec (.st p b a off sz loc) s =
    .next (storeBody sz loc (s.operand [a, b] 1 + off.signExtend 64) (s.operand [a, b] 0) (began s [rg a, rg b])) := by
  rw [exec_st, execSt, issue_goes hi]; rfl

theorem stx_goes (hi : Issues s p none [rg a, rg b, rg c]) : exec (.stx p a b c sz loc) s =
    .next (storeBody sz loc (s.operand [a, b, c] 1 + s.operand [a, b, c] 2 * BitVec.ofNat 64 (sizeBytes sz))
      (s.operand [a, b, c] 0) (began s [rg a, rg b, rg c])) := by
  rw [exec_stx, execStx, issue_goes hi]; rfl

/-- An STL whose release has completed stores. -/
theorem stl_goes {g : State} {sc : Scope} (hi : Issues s p none [rg a, rg b])
    (hr : (began s [rg a, rg b]).release sc = (true, g)) : exec (.stl p b a off sz loc sc) s =
      .next (storeBody sz loc (g.operand [a, b] 1 + off.signExtend 64) (g.operand [a, b] 0) g) := by
  rw [exec_stl, execStl, issue_goes hi, State.releaseThen_done hr]; rfl

/-- A virtual address within the address space, as LDF, STF and CLRE judge it (R351). -/
theorem virtual_judged {ea : Word} (hlow : ea.toNat < 2 ^ 57) (hvirt : isWindow ea.toNat = false) :
    (!false && decide (ea.toNat < 2 ^ 57) && !isWindow ea.toNat) = true := by
  rw [hvirt, decide_eq_true hlow]; rfl

theorem ldf_virtual (hi : Issues s p (some (rg d)) [rg b]) {ea : Word} (hea : s.operand [b] 0 + off.signExtend 64 = ea)
    (hlow : ea.toNat < 2 ^ 57) (haligned : ea.toNat % sizeBytes sz = 0) (hvirt : isWindow ea.toNat = false) :
    exec (.ldf p d b off sz sx false cn) s = .next ((began s [rg b]).trapAcc .prot ea 1) := by
  subst hea
  rw [exec_ldf, execLdf, issue_goes hi]
  exact congrArg Host.Outcome.next
    (if_pos (Bool.and_eq_true_iff.mpr ⟨virtual_judged hlow hvirt, decide_eq_true haligned⟩))

theorem stf_virtual (hi : Issues s p none [rg a, rg b]) {ea : Word} (hea : s.operand [a, b] 1 + off.signExtend 64 = ea)
    (hlow : ea.toNat < 2 ^ 57) (haligned : ea.toNat % sizeBytes sz = 0) (hvirt : isWindow ea.toNat = false) :
    exec (.stf p b a off sz false) s = .next ((began s [rg a, rg b]).trapAcc .prot ea 2) := by
  subst hea
  rw [exec_stf, execStf, issue_goes hi]
  exact congrArg Host.Outcome.next
    (if_pos (Bool.and_eq_true_iff.mpr ⟨virtual_judged hlow hvirt, decide_eq_true haligned⟩))

theorem clre_virtual (hi : Issues s p none [rg a, rg b]) {ea : Word} (hea : s.operand [a, b] 1 + off.signExtend 64 = ea)
    (hlow : ea.toNat < 2 ^ 57) (hvirt : isWindow ea.toNat = false) :
    exec (.clre p b a off false) s = .next ((began s [rg a, rg b]).trapAcc .prot ea 2) := by
  subst hea
  rw [exec_clre, execClre, issue_goes hi]
  exact congrArg Host.Outcome.next (if_pos (virtual_judged hlow hvirt))

end

theorem widen_eq (sx : Bool) (n v : Nat) :
    widen sx n v = if sx then (BitVec.ofNat (8 * n) v).signExtend 64 else BitVec.ofNat 64 v := by
  rw [widen, sextn_eq_signExtend]

/-- A line brought in changes nothing of memory, the registers or the local memory. -/
theorem State.lineRead_keeps {s : State} (hsel : s.myPart.slsel = []) (pa n : Nat) (home : Bool) :
    (s.lineRead pa n home).dram = s.dram ∧ (s.lineRead pa n home).myCore.regs = s.myCore.regs
    ∧ (s.lineRead pa n home).myCore.lmem = s.myCore.lmem := by
  have seen := State.sliceSee_seen hsel [(pa, n)]
  have hdram : (s.sliceSee s.myPartNo [(pa, n)]).dram = s.dram := by rw [seen.rest]
  cases home with
  | true => exact ⟨hdram, congrArg Core.regs seen.myCore, congrArg Core.lmem seen.myCore⟩
  | false =>
    have core : (s.lineRead pa n false).myCore = s.myCore.takes (s.lineIn pa) :=
      (State.core_modCore_self (s.sliceSee s.myPartNo [(pa, n)]) _ fun x => x.takes (s.lineIn pa)).trans
        (congrArg (Core.takes · (s.lineIn pa)) seen.myCore)
    exact ⟨hdram, by rw [core]; rfl, by rw [core]; rfl⟩

/-! ### The statement -/

/-- Settles O19: the access is located in DRAM, where the load reads the line or the slice and the store is buffered; or it is
located nowhere, and traps. -/
theorem virtualAccessesAndBadAddresses : Obligations.VirtualAccessesAndBadAddresses := by
  refine ⟨⟨fun s t p d b c off sz sx pa => ?loads, fun s g t p a b c off sz sc pa => ?stores⟩,
    fun s p d a b off sz sx loc cn => ⟨fun hi => ?badLoads, fun hi => ?badStores⟩⟩
  case loads =>
    intro n goes wide w line mine ea hf
    refine ⟨fun hsbuf hclean hcevs hsel hmiss => ?_, fun l hline hgood ⟨hi, hp⟩ => ?_⟩
    · have read := State.vread_dram hf hsbuf hclean hcevs hsel hmiss (sizeBytes_dvd sz).2
      intro u
      refine ⟨fun ⟨hi, hp⟩ => ⟨?_, fun sc => ⟨t.lineRead pa n (wideScope sc), ?_, State.lineRead_keeps hsel ..⟩⟩,
        fun ⟨hi, hp⟩ => ?_, (State.lineRead_keeps hsel pa n false).1⟩
      · rw [ld_goes hi, loadBody_dram hp, read, widen_eq]; rfl
      · rw [lda_goes hi, loadBody_acquires hp, read, widen_eq]
      · rw [ldx_goes hi, loadBody_dram hp, read, widen_eq]; rfl
    · rw [ld_goes hi, loadBody_dram hp, State.vread_hit hf hline hgood, widen_eq]
  case stores =>
    intro n ea stored room hl hs
    have buffers : ∀ (i : Instr) (ea v : Word) (q : State), q.dramPort ea n .write = some (pa, t) →
        exec i s = .next (storeBody sz false ea v q) → stored i v := fun i ea v q hp h => by
      obtain ⟨hdram, hhost, hregs, hlmem, hsbuf⟩ := t.buffered_retires pa (leBytes n (v.toNat % 2 ^ (8 * n))) hs hl
      exact ⟨_, by rw [h, storeBody_dram hp room], hdram, hhost, hregs, hlmem, _, hsbuf, rfl, rfl, rfl, rfl⟩
    exact ⟨fun hi hp => buffers _ _ _ _ hp (st_goes hi), fun hi hr hp => buffers _ _ _ _ hp (stl_goes hi hr),
      fun hi hp => buffers _ _ _ _ hp (stx_goes hi)⟩
  case badLoads =>
    refine ⟨fun hbad => by rw [ld_goes hi, loadBody_badAddress hbad], fun hloc hlow haligned hvirt => ?_⟩
    subst hloc
    exact ldf_virtual hi rfl hlow haligned hvirt
  case badStores =>
    refine ⟨fun hbad => by rw [st_goes hi, storeBody_badAddress hbad], fun hloc hlow haligned hvirt => ?_⟩
    subst hloc
    exact ⟨stf_virtual hi rfl hlow haligned hvirt, clre_virtual hi rfl hlow hvirt⟩

end Sys2Proof.Machine
end

section
/-! FENCE, PFENCE and VSYNC (R169, R206, R207, R210, R354, R355), and the statement about them. -/

namespace Sys2Proof.Machine

/-- What the work of a fence keeps, with the issuing thread at `pc`: memory, registers, predicates and the other cores. Caches
of the core and of its cluster may lose lines (R207, R210). -/
structure FenceWork (s g : State) (pc : Word) : Prop where
  rest : g = { s with cores := g.cores, clusters := g.clusters, cur := g.cur }
  cur : g.cur = { s.cur with pops := [] }
  regs : g.myCore.regs = s.myCore.regs
  lmem : g.myCore.lmem = s.myCore.lmem
  slcfg : g.myCore.slcfg = s.myCore.slcfg
  others : ∀ c, c ≠ s.cur.core → g.core c = s.core c
  thread : ∃ u, g.me? = some u ∧ u.pc = pc ∧ u.preds = s.me.preds

/-- With the log off and no channel to pop, an instruction that completes moves its thread on and does nothing else. -/
theorem State.retire_unpopped {s : State} {t : Thread} (hpops : s.cur.pops = []) (ht : s.me? = some t) (hl : LogOff s) :
    s.retire = s.modMe fun u => u.passedTo (t.pc + 8) := by
  have unpopped : s.doPops = s := by rw [State.doPops, hpops]; rfl
  rw [State.retire, State.retireTo_off _ ht hl, unpopped, State.me_eq ht]
  exact (State.modThread_some s (fun u => u.passedTo (t.pc + 8)) ht).symm

theorem State.modMe_myCluster (s : State) (f : Thread → Thread) : (s.modMe f).myCluster = s.myCluster :=
  State.myCluster_congr (State.modMe_clusters ..) (by rw [State.modMe_cur])

namespace FenceWork

theorem began {s : State} (hs : s.me?.isSome) : FenceWork s (began s []) s.me.pc where
  rest := rfl
  cur := rfl
  regs := rfl
  lmem := rfl
  slcfg := rfl
  others _ _ := rfl
  thread := by
    obtain ⟨t, ht⟩ := Option.isSome_iff_exists.mp hs
    exact ⟨t, ht, by rw [State.me_eq ht], by rw [State.me_eq ht]⟩

variable {s g : State} {pc : Word} (h : FenceWork s g pc)
include h

theorem core : g.cur.core = s.cur.core := by rw [h.cur]
theorem clk : g.clk = s.clk := by rw [h.rest]
theorem logOff (hl : LogOff s) : LogOff g := by rw [LogOff, h.slcfg]; exact hl

theorem tsid : g.tsidOf g.cur.core = s.tsidOf s.cur.core := by
  rw [h.core, State.tsidOf, State.qmapOf, h.rest]; rfl

theorem modMyCore {f : Core → Core} {u : Thread} {pc' : Word} (hregs : (f g.myCore).regs = g.myCore.regs)
    (hlmem : (f g.myCore).lmem = g.myCore.lmem) (hslcfg : (f g.myCore).slcfg = g.myCore.slcfg)
    (hu : (f g.myCore).threads.look g.cur.slot = some u) (hpc : u.pc = pc') (hpreds : u.preds = s.me.preds) :
    FenceWork s (g.modMyCore f) pc' := by
  have updated : (g.modMyCore f).myCore = f g.myCore := State.core_modCore_self ..
  refine ⟨?_, h.cur, ?_, ?_, ?_, fun c hc => ?_, u, ?_, hpc, hpreds⟩
  · show ({ g with cores := _ } : State) = _
    rw [h.rest]; rfl
  · rw [updated, hregs, h.regs]
  · rw [updated, hlmem, h.lmem]
  · rw [updated, hslcfg, h.slcfg]
  · exact (State.core_modCore_ne g f (by rw [h.core]; exact hc)).trans (h.others c hc)
  · show (g.modMyCore f).myCore.threads.look g.cur.slot = some u
    rw [updated]; exact hu

theorem modMe {f : Thread → Thread} {pc' : Word} (hpc : ∀ u, u.pc = pc → (f u).pc = pc')
    (hpreds : ∀ u, (f u).preds = u.preds) : FenceWork s (g.modMe f) pc' := by
  obtain ⟨u, hu, hat, hkept⟩ := h.thread
  rw [State.modMe, State.modThread_some g f hu]
  exact h.modMyCore (f := (·.setThread g.cur.slot (f u))) rfl rfl rfl (KMap.look_put_self ..) (hpc u hat)
    ((hpreds u).trans hkept)

theorem acquire (sc : Scope) : FenceWork s (g.acquire sc) pc := by
  obtain ⟨u, hu, hat, hkept⟩ := h.thread
  unfold State.acquire
  split
  · exact h.modMyCore rfl rfl rfl hu hat hkept
  · exact h

theorem dropSampler : FenceWork s g.dropSampler pc where
  rest := by
    show ({ g with clusters := _ } : State) = _
    rw [h.rest]; rfl
  cur := h.cur
  regs := h.regs
  lmem := h.lmem
  slcfg := h.slcfg
  others := h.others
  thread := h.thread

theorem retire (hl : LogOff s) : FenceWork s g.retire (pc + 8) := by
  obtain ⟨u, hu, rfl, -⟩ := h.thread
  rw [State.retire_unpopped (by rw [h.cur]) hu (h.logOff hl)]
  exact h.modMe (fun _ _ => rfl) fun _ => rfl

/-- No register, predicate or byte of memory has changed. -/
theorem frame : g.me.pc = pc ∧ g.myCore.regs = s.myCore.regs ∧ g.me.preds = s.me.preds
    ∧ (∀ a, g.dram.get a = s.dram.get a) ∧ (∀ a, g.myCore.lmem.get a = s.myCore.lmem.get a)
    ∧ ∀ c, c ≠ s.cur.core → g.core c = s.core c := by
  obtain ⟨u, hu, hpc, hpreds⟩ := h.thread
  rw [State.me_eq hu]
  exact ⟨hpc, h.regs, hpreds, fun a => by rw [h.rest], fun a => by rw [h.lmem], h.others⟩

/-- After an acquire wider than CORE, the data cache holds no line of the core's TSID (R207). -/
theorem acquire_retire_dcache (hl : LogOff s) {sc : Scope} (hw : wideScope sc = true) :
    ∀ l ∈ (g.acquire sc).retire.myCore.dcache, l.tsid ≠ s.tsidOf s.cur.core := by
  intro l hin
  have acquired := h.acquire sc
  obtain ⟨u, hu, -⟩ := acquired.thread
  have kept : (g.acquire sc).myCore = { g.myCore with
      dcache := g.myCore.dcache.filter fun l => l.tsid ≠ g.tsidOf g.cur.core } := by
    rw [State.acquire, if_pos hw]; exact State.core_modCore_self ..
  rw [State.retire, State.retireTo_myCore _ hu (acquired.logOff hl), kept] at hin
  rw [← h.tsid]
  exact of_decide_eq_true (List.mem_filter.mp hin).2

end FenceWork

/-- A sampler fence completes (R210): the cluster's lines are dropped, and the thread's next instruction is delayed. -/
def State.samplerFenced (s : State) : State :=
  s.dropSampler.retire.modMe fun t => { t with busy := max t.busy (s.dropSampler.retire.clk + 64) }

section
variable {s g : State} {pc : Word} (h : FenceWork s g pc) (hl : LogOff s)
include h hl

theorem FenceWork.samplerFenced : FenceWork s g.samplerFenced (pc + 8) :=
  (h.dropSampler.retire hl).modMe (fun _ hpc => hpc) fun _ => rfl

theorem FenceWork.samplerFenced_busy : s.clk + 64 ≤ g.samplerFenced.me.busy := by
  have retired := h.dropSampler.retire hl
  obtain ⟨u, hu, -⟩ := retired.thread
  rw [State.samplerFenced, State.me_eq (State.modMe_some _ hu), retired.clk]
  exact Nat.le_max_right ..

theorem FenceWork.samplerFenced_scache : ∀ l ∈ g.samplerFenced.myCluster.scache, l.tsid ≠ s.tsidOf s.cur.core := by
  intro l hin
  have dropped := h.dropSampler
  obtain ⟨u, hu, -⟩ := dropped.thread
  have kept : g.dropSampler.myCluster = { g.myCluster with
      scache := g.myCluster.scache.filter fun l => l.tsid ≠ g.tsidOf g.cur.core } := State.cluster_modCluster_self ..
  rw [State.samplerFenced, State.modMe_myCluster, State.retire_myCluster hu (dropped.logOff hl), kept] at hin
  rw [← h.tsid]
  exact of_decide_eq_true (List.mem_filter.mp hin).2

end

/-! ### FENCE (R354) -/

section
variable {s : State} {p : Pred} (hi : Issues s p none [])
include hi

theorem fence_acquires (sc : Scope) : exec (.fence p .acq sc) s = .next (((began s []).acquire sc).retire) := by
  rw [exec_fence, execFence, issue_goes hi]

/-- A release that has nothing to wait for lets REL complete, and FULL after its acquire. -/
theorem fence_releases {sc : Scope} (hrel : ReleaseHolds s sc) : ∃ g, FenceWork s g s.me.pc
    ∧ exec (.fence p .rel sc) s = .next g.retire ∧ exec (.fence p .full sc) s = .next (g.acquire sc).retire := by
  have goes : ∀ g, (began s []).release sc = (true, g) →
      exec (.fence p .rel sc) s = .next g.retire ∧ exec (.fence p .full sc) s = .next (g.acquire sc).retire := by
    intro g hg
    rw [exec_fence, exec_fence, execFence, execFence, issue_goes hi, issue_goes hi]
    exact ⟨congrArg Host.Outcome.next (State.releaseThen_done hg), congrArg Host.Outcome.next (State.releaseThen_done hg)⟩
  obtain ⟨t, ht⟩ := Option.isSome_iff_exists.mp hi.1
  rcases State.release_holds (s := began s []) ht hrel with hr | hr
  · exact ⟨_, .began hi.1, goes _ hr⟩
  · exact ⟨_, (FenceWork.began hi.1).modMe (f := Thread.relEnd) (fun _ hpc => hpc) (fun _ => rfl), goes _ hr⟩

/-! ### PFENCE and VSYNC (R355) -/

theorem pfence_goes {k : PathKind} (hdone : s.pathBusy s.cur.core s.me.sth k = false) : exec (.pfence p k) s = .next
    (let g := if k = .eng || k = .all then (began s []).acquire .clus else began s []
     if k = .smp || k = .all then g.samplerFenced else g.retire) := by
  rw [exec_pfence, execPfence, issue_goes hi]
  exact congrArg Host.Outcome.next (if_neg (by rw [Bool.not_eq_true]; exact hdone))

theorem pfence_vec (hring : vecBusy s.myCore s.me.sth = false) (hstores : s.vstoresOut s.cur.core s.me.sth = false) :
    exec (.pfence p .vec) s = .next (passed s []) := by
  have done : s.pathBusy s.cur.core s.me.sth .vec = false := by
    rw [State.myCore] at hring; simp [State.pathBusy, hring, hstores]
  exact pfence_goes hi done

theorem pfence_eng (hjobs : s.jobsOut s.cur.core s.me.sth = false) :
    exec (.pfence p .eng) s = .next (((began s []).acquire .clus).retire) := by
  have done : s.pathBusy s.cur.core s.me.sth .eng = false := by simp [State.pathBusy, hjobs]
  exact pfence_goes hi done

/-- A sampler fence waits for nothing. -/
theorem pfence_smp : exec (.pfence p .smp) s = .next (began s []).samplerFenced := pfence_goes hi rfl

theorem pfence_all (hring : vecBusy s.myCore s.me.sth = false) (hstores : s.vstoresOut s.cur.core s.me.sth = false)
    (hjobs : s.jobsOut s.cur.core s.me.sth = false) :
    exec (.pfence p .all) s = .next ((began s []).acquire .clus).samplerFenced := by
  have done : s.pathBusy s.cur.core s.me.sth .all = false := by
    rw [State.myCore] at hring; simp [State.pathBusy, hring, hstores, hjobs]
  exact pfence_goes hi done

theorem vsync_passes (hring : vecBusy s.myCore s.me.sth = false) : exec (.vsync p) s = .next (passed s []) := by
  rw [exec_vsync, execVsync, issue_goes hi]
  exact congrArg Host.Outcome.next (if_neg (by rw [Bool.not_eq_true]; exact hring))

theorem vsync_parks (hl : LogOff s) (hring : vecBusy s.myCore s.me.sth = true) :
    ∃ t, exec (.vsync p) s = .next t ∧ t.me.pc = s.me.pc ∧ t.me.park.map Park.why = some .vsync := by
  obtain ⟨u, hu⟩ := Option.isSome_iff_exists.mp hi.1
  have parks : exec (.vsync p) s = .next ((began s []).parkMe .vsync) := by
    rw [exec_vsync, execVsync, issue_goes hi]
    exact congrArg Host.Outcome.next (if_pos hring)
  rw [State.me_eq hu]
  exact ⟨_, parks, State.parkMe_me (s := began s []) .vsync hu hl⟩

end

/-- Settles O22: each fence by what it comes to where its wait is over; whatever caches it drops, it completes with the frame
that all of its work keeps. -/
theorem fencesComplete : Obligations.FencesComplete := by
  intro s p sc hi hl same
  have start : FenceWork s (began s []) s.me.pc := .began hi.1
  refine ⟨fence_acquires hi sc, fun hrel => ?_, fun hring => ⟨vsync_passes hi hring, pfence_vec hi hring⟩, pfence_eng hi,
    ⟨_, pfence_smp hi, (start.samplerFenced hl).frame, start.samplerFenced_busy hl, start.samplerFenced_scache hl⟩,
    fun hring hstores hjobs => ?_, vsync_parks hi hl⟩
  · obtain ⟨g, released, rel, full⟩ := fence_releases hi hrel
    exact ⟨⟨_, rel, (released.retire hl).frame⟩, _, full, ((released.acquire sc).retire hl).frame,
      released.acquire_retire_dcache hl⟩
  · have acquired := start.acquire .clus
    exact ⟨_, pfence_all hi hring hstores hjobs, (acquired.samplerFenced hl).frame, acquired.samplerFenced_busy hl⟩

end Sys2Proof.Machine
end

section
/-! Every event answers a next state, whatever the state (R249, R250): a guard that does not hold leaves the state as it
is. -/

namespace Sys2Proof.Machine

/-- An outcome is a next state. -/
def Answers (r : Res) : Prop := ∃ t, r = .next t

theorem Answers.next (t : State) : Answers (.next t) := ⟨t, rfl⟩

theorem Answers.ite {c : Prop} [Decidable c] {r₁ r₂ : Res} (h₁ : Answers r₁) (h₂ : Answers r₂) :
    Answers (if c then r₁ else r₂) := by
  split
  · exact h₁
  · exact h₂

/-! ### Events of one shape: what a thread, the host, a queue or a run does -/

theorem State.atKer_answers (s : State) (core slot : Nat) (f : State → State) : Answers (s.atKer core slot f) := by
  unfold State.atKer
  (repeat' split) <;> exact .next _

theorem State.releasedWrite_answers (s : State) (core slot : Nat) (sc : Scope) (k : State → State) :
    Answers (s.releasedWrite core slot sc k) := by
  unfold State.releasedWrite
  (repeat' split) <;> exact .next _

theorem State.hostPart_answers (s : State) (pno : Nat) (f : State → State) : Answers (s.hostPart pno f) := by
  unfold State.hostPart
  (repeat' split) <;> exact .next _

theorem State.onPacket_answers (s : State) (pno q type : Nat) (f : Pkt → State → State) :
    Answers (s.onPacket pno q type f) := by
  unfold State.onPacket
  (repeat' split) <;> exact .next _

theorem State.atNode_answers (s : State) (pno tr kind : Nat) (f : GRun → GSlot → GNode → State) :
    Answers (s.atNode pno tr kind f) := by
  unfold State.atNode
  dsimp only
  (repeat' split) <;> exact .next _

theorem execDploadWrite_answers (core slot : Nat) (v : Word) (s : State) :
    Answers (execDploadWrite core slot v s) := State.atKer_answers ..
theorem execEcfgKeySet_answers (core slot enc : Nat) (s : State) :
    Answers (execEcfgKeySet core slot enc s) := State.atKer_answers ..
theorem execWgdaUnbind_answers (core slot : Nat) (s : State) :
    Answers (execWgdaUnbind core slot s) := State.atKer_answers ..
theorem execHcfgWrite_answers (core slot eng : Nat) (v : Word) (s : State) :
    Answers (execHcfgWrite core slot eng v s) := State.atKer_answers ..
theorem execCpreqPreempt_answers (core slot : Nat) (v : Word) (s : State) :
    Answers (execCpreqPreempt core slot v s) := State.atKer_answers ..
theorem execCpreqResume_answers (core slot : Nat) (v : Word) (s : State) :
    Answers (execCpreqResume core slot v s) := State.atKer_answers ..
theorem execDbgsStop_answers (core slot : Nat) (v : Word) (s : State) :
    Answers (execDbgsStop core slot v s) := State.atKer_answers ..
theorem execDbgsResume_answers (core slot : Nat) (v : Word) (s : State) :
    Answers (execDbgsResume core slot v s) := State.atKer_answers ..
theorem execDbgdRead_answers (core slot : Nat) (d : Code) (s : State) :
    Answers (execDbgdRead core slot d s) := State.atKer_answers ..
theorem execDbgdWrite_answers (core slot : Nat) (v : Word) (s : State) :
    Answers (execDbgdWrite core slot v s) := State.atKer_answers ..
theorem execOcfgEnable_answers (core slot : Nat) (v : Word) (s : State) :
    Answers (execOcfgEnable core slot v s) := State.atKer_answers ..
theorem execQdbWrite_answers (part q : Nat) (v : Word) (s : State) :
    Answers (execQdbWrite part q v s) := State.hostPart_answers ..
theorem execIfvwWrite_answers (part : Nat) (v : Word) (s : State) :
    Answers (execIfvwWrite part v s) := State.hostPart_answers ..
theorem execFresRetry_answers (part seq : Nat) (s : State) :
    Answers (execFresRetry part seq s) := State.hostPart_answers ..
theorem execFresFatalPageflt_answers (part seq : Nat) (s : State) :
    Answers (execFresFatalPageflt part seq s) := State.hostPart_answers ..
theorem execFresFatalProt_answers (part seq : Nat) (s : State) :
    Answers (execFresFatalProt part seq s) := State.hostPart_answers ..
theorem execFrheadWrite_answers (part : Nat) (v : Word) (s : State) :
    Answers (execFrheadWrite part v s) := State.hostPart_answers ..
theorem execLaunch_answers (part q : Nat) (s : State) : Answers (execLaunch part q s) := State.onPacket_answers ..
theorem execGraphLoad_answers (part q : Nat) (s : State) : Answers (execGraphLoad part q s) := State.onPacket_answers ..
theorem execTriggerBind_answers (part q : Nat) (s : State) :
    Answers (execTriggerBind part q s) := State.onPacket_answers ..
theorem execCopy_answers (part q : Nat) (s : State) : Answers (execCopy part q s) := State.onPacket_answers ..
theorem execSignal_answers (part q : Nat) (s : State) : Answers (execSignal part q s) := State.onPacket_answers ..
theorem execWait_answers (part q : Nat) (s : State) : Answers (execWait part q s) := State.onPacket_answers ..
theorem execLayerTable_answers (part q : Nat) (s : State) :
    Answers (execLayerTable part q s) := State.onPacket_answers ..
theorem execHeadBind_answers (part q : Nat) (s : State) : Answers (execHeadBind part q s) := State.onPacket_answers ..
theorem execExportQueue_answers (part q : Nat) (s : State) :
    Answers (execExportQueue part q s) := State.onPacket_answers ..
theorem execImportQueue_answers (part q : Nat) (s : State) :
    Answers (execImportQueue part q s) := State.onPacket_answers ..
theorem execGraphNodeLaunch_answers (part trig : Nat) (s : State) :
    Answers (execGraphNodeLaunch part trig s) := State.atNode_answers ..
theorem execGraphNodeSignal_answers (part trig : Nat) (s : State) :
    Answers (execGraphNodeSignal part trig s) := State.atNode_answers ..
theorem execGraphNodeLoop_answers (part trig : Nat) (s : State) :
    Answers (execGraphNodeLoop part trig s) := State.atNode_answers ..
theorem execGraphNodeCond_answers (part trig : Nat) (s : State) :
    Answers (execGraphNodeCond part trig s) := State.atNode_answers ..
theorem execGraphNodeEnd_answers (part trig : Nat) (s : State) :
    Answers (execGraphNodeEnd part trig s) := State.atNode_answers ..
theorem execTrigWrite_answers (core slot n : Nat) (s : State) :
    Answers (execTrigWrite core slot n s) := State.releasedWrite_answers ..
theorem execDtailWrite_answers (core slot : Nat) (v : Word) (s : State) :
    Answers (execDtailWrite core slot v s) := State.releasedWrite_answers ..

/-! ### Events with branches of their own -/

theorem execRaiseFusedMinimum_answers (proc : Nat) (s : State) : Answers (execRaiseFusedMinimum proc s) := by
  unfold execRaiseFusedMinimum
  (repeat' split) <;> exact .next _

theorem execThermalTrip_answers (s : State) : Answers (execThermalTrip s) := .ite (.next _) (.next _)

theorem execThermalRelease_answers (s : State) : Answers (execThermalRelease s) := by
  unfold execThermalRelease
  (repeat' split) <;> exact .next _

theorem execPowerThrottleStart_answers (s : State) : Answers (execPowerThrottleStart s) := .ite (.next _) (.next _)

theorem execPhcmdAssign_answers (v : Word) (s : State) : Answers (execPhcmdAssign v s) := .ite (.next _) (.next _)

theorem execPhcmdRelease_answers (v : Word) (s : State) : Answers (execPhcmdRelease v s) := .ite (.next _) (.next _)

theorem execReleaseScrub_answers (part : Nat) (s : State) : Answers (execReleaseScrub part s) :=
  .ite (.next _) (.next _)

theorem execLinkTrainingDone_answers (port peer vero : Nat) (s : State) :
    Answers (execLinkTrainingDone port peer vero s) := by
  unfold execLinkTrainingDone
  (repeat' split) <;> exact .next _

theorem execPortDown_answers (port : Nat) (s : State) : Answers (execPortDown port s) := .ite (.next _) (.next _)

theorem execGondolaForward_answers (pkt : GPacket) (s : State) : Answers (execGondolaForward pkt s) := by
  unfold execGondolaForward
  (repeat' split) <;> exact .next _

theorem execRemoteAccessArrival_answers (req : RemReq) (s : State) : Answers (execRemoteAccessArrival req s) := by
  unfold execRemoteAccessArrival
  dsimp only
  (repeat' split) <;> exact .next _

theorem execRemoteReply_answers (id : Nat) (reply : RemReply) (s : State) : Answers (execRemoteReply id reply s) := by
  unfold execRemoteReply
  (repeat' split) <;> exact .next _

theorem execRemoteAccessTimeout_answers (id : Nat) (s : State) : Answers (execRemoteAccessTimeout id s) := by
  unfold execRemoteAccessTimeout
  (repeat' split) <;> exact .next _

theorem execVfConfigAccess_answers (vf : Nat) (s : State) : Answers (execVfConfigAccess vf s) :=
  .ite (.next _) (.next _)

theorem execApertureRead_answers (part off size : Nat) (s : State) : Answers (execApertureRead part off size s) := by
  unfold execApertureRead
  dsimp only
  (repeat' split) <;> exact .next _

theorem execApertureWrite_answers (part off : Nat) (data : List Byte) (s : State) :
    Answers (execApertureWrite part off data s) := by
  unfold execApertureWrite
  dsimp only
  (repeat' split) <;> exact .next _

theorem execQcfgEnable_answers (part q : Nat) (v : Word) (s : State) : Answers (execQcfgEnable part q v s) :=
  .ite (State.hostPart_answers ..) (.next _)

theorem execQcfgDisable_answers (part q : Nat) (v : Word) (s : State) : Answers (execQcfgDisable part q v s) :=
  .ite (.next _) (State.hostPart_answers ..)

theorem execQcfgPause_answers (part q : Nat) (v : Word) (s : State) : Answers (execQcfgPause part q v s) :=
  .ite (State.hostPart_answers ..) (.next _)

theorem execQcfgUnpause_answers (part q : Nat) (v : Word) (s : State) : Answers (execQcfgUnpause part q v s) :=
  .ite (.next _) (State.hostPart_answers ..)

theorem execFrcfgEnable_answers (part : Nat) (v : Word) (s : State) : Answers (execFrcfgEnable part v s) :=
  .ite (State.hostPart_answers ..) (.next _)

theorem execFrcfgDisable_answers (part : Nat) (v : Word) (s : State) : Answers (execFrcfgDisable part v s) :=
  .ite (.next _) (State.hostPart_answers ..)

theorem execOlcfgEnable_answers (v : Word) (s : State) : Answers (execOlcfgEnable v s) := .ite (.next _) (.next _)

theorem execRootPlace_answers (part : Nat) (s : State) : Answers (execRootPlace part s) := by
  unfold execRootPlace
  dsimp only
  (repeat' split) <;> exact .next _

theorem execLaunchComplete_answers (part lid : Nat) (s : State) : Answers (execLaunchComplete part lid s) := by
  unfold execLaunchComplete
  (repeat' split) <;> exact .next _

theorem execCopyComplete_answers (part pid : Nat) (s : State) : Answers (execCopyComplete part pid s) := by
  unfold execCopyComplete
  dsimp only
  (repeat' split) <;> exact .next _

theorem execWaitSatisfied_answers (part pid : Nat) (s : State) : Answers (execWaitSatisfied part pid s) := by
  unfold execWaitSatisfied
  (repeat' split) <;> exact .next _

theorem execExportComplete_answers (part pid : Nat) (s : State) : Answers (execExportComplete part pid s) := by
  unfold execExportComplete
  (repeat' split) <;> exact .next _

theorem execRemoteLaunchRequest_answers (req : RemLaunch) (s : State) : Answers (execRemoteLaunchRequest req s) := by
  unfold execRemoteLaunchRequest
  dsimp only
  (repeat' split) <;> exact .next _

theorem execRemoteLaneStart_answers (part : Nat) (s : State) : Answers (execRemoteLaneStart part s) := by
  unfold execRemoteLaneStart
  dsimp only
  (repeat' split) <;> exact .next _

theorem execRemoteLaunchResult_answers (id : Nat) (res : RemResult) (s : State) :
    Answers (execRemoteLaunchResult id res s) := by
  unfold execRemoteLaunchResult
  (repeat' split) <;> exact .next _

theorem execRemoteLaunchTimeout_answers (id : Nat) (s : State) : Answers (execRemoteLaunchTimeout id s) := by
  unfold execRemoteLaunchTimeout
  dsimp only
  (repeat' split) <;> exact .next _

theorem execPolicyCheckDone_answers (part : Nat) (s : State) : Answers (execPolicyCheckDone part s) := by
  unfold execPolicyCheckDone
  (repeat' split) <;> exact .next _

theorem execOperatorDebugStop_answers (part : Nat) (target : DebugTarget) (s : State) :
    Answers (execOperatorDebugStop part target s) := by
  unfold execOperatorDebugStop
  dsimp only
  exact .next _

theorem execDebugStopAck_answers (s : State) : Answers (execDebugStopAck s) := by
  unfold execDebugStopAck
  (repeat' split) <;> exact .next _

theorem execDisclosureIntervalEnd_answers (part : Nat) (s : State) : Answers (execDisclosureIntervalEnd part s) := by
  unfold execDisclosureIntervalEnd
  dsimp only
  (repeat' split) <;> exact .next _

theorem execFrameTick_answers (s : State) : Answers (execFrameTick s) := by
  unfold execFrameTick
  dsimp only
  exact .next _

theorem execFrameEncode_answers (s : State) : Answers (execFrameEncode s) := by
  unfold execFrameEncode
  (repeat' split) <;> exact .next _

theorem execThreadCreate_answers (core lid : Nat) (s : State) : Answers (execThreadCreate core lid s) := by
  unfold execThreadCreate
  dsimp only
  (repeat' split) <;> exact .next _

theorem execStealServe_answers (core lid : Nat) (s : State) : Answers (execStealServe core lid s) := by
  unfold execStealServe
  (repeat' split) <;> exact .next _

theorem execStealReplyArrival_answers (core lid : Nat) (s : State) : Answers (execStealReplyArrival core lid s) := by
  unfold execStealReplyArrival
  (repeat' split) <;> exact .next _

theorem execRotationBoundary_answers (core : Nat) (s : State) : Answers (execRotationBoundary core s) := by
  unfold execRotationBoundary
  dsimp only
  (repeat' split) <;> exact .next _

theorem execThreadDisplace_answers (core slot : Nat) (s : State) : Answers (execThreadDisplace core slot s) := by
  unfold execThreadDisplace
  (repeat' split) <;> exact .next _

theorem execDisplacedResume_answers (core : Nat) (s : State) : Answers (execDisplacedResume core s) := by
  unfold execDisplacedResume
  (repeat' split) <;> exact .next _

theorem execDrcfgBind_answers (core slot : Nat) (v : Word) (s : State) : Answers (execDrcfgBind core slot v s) :=
  .ite (State.atKer_answers ..) (.next _)

theorem execDrcfgUnbind_answers (core slot : Nat) (v : Word) (s : State) : Answers (execDrcfgUnbind core slot v s) :=
  .ite (State.atKer_answers ..) (.next _)

theorem execWgdaBind_answers (core slot : Nat) (v : Word) (s : State) : Answers (execWgdaBind core slot v s) :=
  .ite (.next _) (State.atKer_answers ..)

theorem execWgBatchTimeout_answers (cluster node : Nat) (s : State) : Answers (execWgBatchTimeout cluster node s) := by
  unfold execWgBatchTimeout
  (repeat' split) <;> exact .next _

theorem execWgBatchDeliver_answers (cluster : Nat) (s : State) : Answers (execWgBatchDeliver cluster s) := by
  unfold execWgBatchDeliver
  dsimp only
  (repeat' split) <;> exact .next _

theorem execPayloadFrameDeliver_answers (cluster : Nat) (s : State) : Answers (execPayloadFrameDeliver cluster s) := by
  unfold execPayloadFrameDeliver
  dsimp only
  (repeat' split) <;> exact .next _

theorem execChannelWake_answers (core slot : Nat) (s : State) : Answers (execChannelWake core slot s) := by
  unfold execChannelWake
  dsimp only
  (repeat' split) <;> exact .next _

theorem execProxyBatchTimeout_answers (core chan : Nat) (s : State) : Answers (execProxyBatchTimeout core chan s) := by
  unfold execProxyBatchTimeout
  dsimp only
  (repeat' split) <;> exact .next _

theorem execProxyDelivery_answers (id : Nat) (s : State) : Answers (execProxyDelivery id s) := by
  unfold execProxyDelivery
  dsimp only
  (repeat' split) <;> exact .next _

theorem execProxyCreditReturn_answers (id : Nat) (s : State) : Answers (execProxyCreditReturn id s) := by
  unfold execProxyCreditReturn
  dsimp only
  (repeat' split) <;> exact .next _

theorem execCoreSleep_answers (core : Nat) (s : State) : Answers (execCoreSleep core s) := .ite (.next _) (.next _)

theorem execCoreWake_answers (core : Nat) (failed : List Nat) (s : State) : Answers (execCoreWake core failed s) :=
  .ite (.next _) (.next _)

theorem execLdfWake_answers (core slot : Nat) (s : State) : Answers (execLdfWake core slot s) := by
  unfold execLdfWake
  dsimp only
  (repeat' split) <;> exact .next _

theorem execStoreBufferDrain_answers (core pos : Nat) (s : State) : Answers (execStoreBufferDrain core pos s) := by
  unfold execStoreBufferDrain
  dsimp only
  (repeat' split) <;> exact .next _

theorem execSliceAtomic_answers (id : Nat) (s : State) : Answers (execSliceAtomic id s) := by
  unfold execSliceAtomic
  (repeat' split) <;> exact .next _

theorem execWatchWake_answers (core slot : Nat) (s : State) : Answers (execWatchWake core slot s) := by
  unfold execWatchWake
  (repeat' split) <;> exact .next _

theorem execWatchPoll_answers (core slot : Nat) (s : State) : Answers (execWatchPoll core slot s) := by
  unfold execWatchPoll
  (repeat' split) <;> exact .next _

theorem execTableWalk_answers (core : Nat) (va : Word) (acc : Nat) (s : State) :
    Answers (execTableWalk core va acc s) := by
  unfold execTableWalk
  dsimp only
  (repeat' split) <;> exact .next _

theorem execFaultMessage_answers (part pos : Nat) (s : State) : Answers (execFaultMessage part pos s) := by
  unfold execFaultMessage
  dsimp only
  (repeat' split) <;> exact .next _

theorem execReleaseProbeEcho_answers (core slot slice : Nat) (s : State) :
    Answers (execReleaseProbeEcho core slot slice s) := by
  unfold execReleaseProbeEcho
  (repeat' split) <;> exact .next _

theorem execStoreAck_answers (id : Nat) (s : State) : Answers (execStoreAck id s) := by
  unfold execStoreAck
  (repeat' split) <;> exact .next _

theorem execJoinwWake_answers (core slot : Nat) (s : State) : Answers (execJoinwWake core slot s) := by
  unfold execJoinwWake
  (repeat' split) <;> exact .next _

theorem execKwaitWake_answers (core slot : Nat) (s : State) : Answers (execKwaitWake core slot s) := by
  unfold execKwaitWake
  dsimp only
  (repeat' split) <;> exact .next _

theorem execParkExpire_answers (core slot : Nat) (s : State) : Answers (execParkExpire core slot s) := by
  unfold execParkExpire
  (repeat' split) <;> exact .next _

theorem execLreqWake_answers (part : Nat) (s : State) : Answers (execLreqWake part s) := by
  unfold execLreqWake
  (repeat' split) <;> exact .next _

theorem execPayaWake_answers (cluster : Nat) (s : State) : Answers (execPayaWake cluster s) := by
  unfold execPayaWake
  dsimp only
  (repeat' split) <;> exact .next _

theorem execSpawnRingWake_answers (core slot : Nat) (s : State) : Answers (execSpawnRingWake core slot s) := by
  unfold execSpawnRingWake
  dsimp only
  (repeat' split) <;> exact .next _

theorem execStopwComplete_answers (core slot : Nat) (s : State) : Answers (execStopwComplete core slot s) := by
  unfold execStopwComplete
  dsimp only
  (repeat' split) <;> exact .next _

theorem execTlbinvComplete_answers (core slot : Nat) (s : State) : Answers (execTlbinvComplete core slot s) := by
  unfold execTlbinvComplete
  (repeat' split) <;> exact .next _

theorem execVectorEntryPerform_answers (core slot : Nat) (s : State) :
    Answers (execVectorEntryPerform core slot s) := by
  unfold execVectorEntryPerform
  (repeat' split) <;> exact .next _

theorem execLateTrapEntry_answers (core slot : Nat) (s : State) : Answers (execLateTrapEntry core slot s) := by
  unfold execLateTrapEntry
  (repeat' split) <;> exact .next _

theorem execEnqAccept_answers (core slot : Nat) (s : State) : Answers (execEnqAccept core slot s) := by
  unfold execEnqAccept
  dsimp only
  (repeat' split) <;> exact .next _

theorem execWaitjWake_answers (core slot : Nat) (s : State) : Answers (execWaitjWake core slot s) := by
  unfold execWaitjWake
  (repeat' split) <;> exact .next _

theorem execEngineBadcmd_answers (cluster eng : Nat) (s : State) : Answers (execEngineBadcmd cluster eng s) := by
  unfold execEngineBadcmd
  (repeat' split) <;> exact .next _

theorem execCollectiveContribution_answers (msg : Contribution) (s : State) :
    Answers (execCollectiveContribution msg s) := by
  unfold execCollectiveContribution
  dsimp only
  (repeat' split) <;> exact .next _

theorem execCollectiveTimeout_answers (cluster chan : Nat) (s : State) :
    Answers (execCollectiveTimeout cluster chan s) := by
  unfold execCollectiveTimeout
  (repeat' split) <;> exact .next _

theorem execPreemptSave_answers (core : Nat) (s : State) : Answers (execPreemptSave core s) := by
  unfold execPreemptSave
  dsimp only
  (repeat' split) <;> exact .next _

theorem execEccCorrected_answers (loc : ErrLoc) (s : State) : Answers (execEccCorrected loc s) := by
  unfold execEccCorrected
  dsimp only
  (repeat' split) <;> exact .next _

theorem execEccUncorrectable_answers (loc : ErrLoc) (s : State) : Answers (execEccUncorrectable loc s) := by
  unfold execEccUncorrectable
  dsimp only
  (repeat' split) <;> exact .next _

theorem execMachineCheck_answers (part : Option Nat) (s : State) : Answers (execMachineCheck part s) := by
  unfold execMachineCheck
  dsimp only
  (repeat' split) <;> exact .next _

theorem execStateLogTimeout_answers (core : Nat) (s : State) : Answers (execStateLogTimeout core s) :=
  .ite (.next _) (.next _)

theorem execRingFetchFault_answers (part q : Nat) (s : State) : Answers (execRingFetchFault part q s) := by
  unfold execRingFetchFault
  dsimp only
  (repeat' split) <;> exact .next _

theorem execBadpkt_answers (part q : Nat) (s : State) : Answers (execBadpkt part q s) := by
  unfold execBadpkt
  (repeat' split) <;> exact .next _

theorem execAcceptanceReply_answers (id : Nat) (s : State) : Answers (execAcceptanceReply id s) := by
  unfold execAcceptanceReply
  (repeat' split) <;> exact .next _

theorem execDevnumWrite_answers (v : Word) (s : State) : Answers (execDevnumWrite v s) := .ite (.next _) (.next _)

theorem execGpsRetrain_answers (port : Nat) (s : State) : Answers (execGpsRetrain port s) := .ite (.next _) (.next _)

theorem State.pfWrite_answers (s : State) (off : Nat) (v : Word) : Answers (s.pfWrite off v) := by
  unfold State.pfWrite
  split
  · exact execDevnumWrite_answers ..
  case h_8 => exact .ite (.ite (execGpsRetrain_answers ..) (.next _)) (.ite (.next _) (.next _))
  all_goals exact .next _

theorem execHostRegisterWrite_answers (fn : HostFn) (off : Nat) (v : Word) (s : State) :
    Answers (execHostRegisterWrite fn off v s) := by
  unfold execHostRegisterWrite
  split
  · exact State.hostPart_answers ..
  split
  · exact State.pfWrite_answers ..
  · exact .next _

theorem execDispenserDeliver_answers (cluster : Nat) (s : State) : Answers (execDispenserDeliver cluster s) := by
  unfold execDispenserDeliver
  dsimp only
  (repeat' split) <;> exact .next _

theorem execFrameDelivery_answers (core slot : Nat) (s : State) : Answers (execFrameDelivery core slot s) := by
  unfold execFrameDelivery
  dsimp only
  split
  · split
    · exact .next _
    split
    · exact .ite (.next _) (.next _)
    refine .ite (.next _) ?_
    split
    · exact .next _
    · exact .next _
    · exact .next _
    refine .ite (execDispenserDeliver_answers ..) ?_
    (repeat' split) <;> exact .next _
  · exact .next _

theorem execStealRequest_answers (core lid : Nat) (s : State) : Answers (execStealRequest core lid s) := by
  unfold execStealRequest
  (repeat' split) <;> exact .next _

theorem execStealRetryTimeout_answers (core lid : Nat) (s : State) : Answers (execStealRetryTimeout core lid s) := by
  unfold execStealRetryTimeout
  split
  · exact execStealRequest_answers ..
  · exact .next _

end Sys2Proof.Machine
end

section
/-! Every step answers a next state (R121, R249, R250): events from any state, and an instruction because the slot that
issues it still holds its thread once its word has been fetched. -/

namespace Sys2Proof.Machine

/-- An event answers from any state. -/
theorem exec_event_answers {i : Sys2Proof.Instr} (h : i.isCode = false) (s : State) : Answers (exec i s) := by
  cases i with
  | powerOn | bootRestart | getVersion | getCapabilities | negotiateAlgorithms | getDigests | getCertificate
  | challenge | getMeasurements | spdmUnsupportedRequest | powerThrottleEnd | operatorDisclosureRead
  | terminationCount | lds | mma | sta | aclr | swaps | cmma | mstat | fft | ifft | xact | cpy | gthr | sctr | fill
  | ared | bcst | agth => exact .next _
  | raiseFusedMinimum => exact execRaiseFusedMinimum_answers ..
  | thermalTrip => exact execThermalTrip_answers ..
  | thermalRelease => exact execThermalRelease_answers ..
  | powerThrottleStart => exact execPowerThrottleStart_answers ..
  | phcmdAssign => exact execPhcmdAssign_answers ..
  | phcmdRelease => exact execPhcmdRelease_answers ..
  | releaseScrub => exact execReleaseScrub_answers ..
  | devnumWrite => exact execDevnumWrite_answers ..
  | gpsRetrain => exact execGpsRetrain_answers ..
  | linkTrainingDone => exact execLinkTrainingDone_answers ..
  | portDown => exact execPortDown_answers ..
  | gondolaForward => exact execGondolaForward_answers ..
  | remoteAccessArrival => exact execRemoteAccessArrival_answers ..
  | remoteReply => exact execRemoteReply_answers ..
  | remoteAccessTimeout => exact execRemoteAccessTimeout_answers ..
  | vfConfigAccess => exact execVfConfigAccess_answers ..
  | apertureRead => exact execApertureRead_answers ..
  | apertureWrite => exact execApertureWrite_answers ..
  | hostRegisterWrite => exact execHostRegisterWrite_answers ..
  | qdbWrite => exact execQdbWrite_answers ..
  | qcfgEnable => exact execQcfgEnable_answers ..
  | qcfgDisable => exact execQcfgDisable_answers ..
  | qcfgPause => exact execQcfgPause_answers ..
  | qcfgUnpause => exact execQcfgUnpause_answers ..
  | ifvwWrite => exact execIfvwWrite_answers ..
  | frcfgEnable => exact execFrcfgEnable_answers ..
  | frcfgDisable => exact execFrcfgDisable_answers ..
  | fresRetry => exact execFresRetry_answers ..
  | fresFatalPageflt => exact execFresFatalPageflt_answers ..
  | fresFatalProt => exact execFresFatalProt_answers ..
  | frheadWrite => exact execFrheadWrite_answers ..
  | olcfgEnable => exact execOlcfgEnable_answers ..
  | launch => exact execLaunch_answers ..
  | rootPlace => exact execRootPlace_answers ..
  | launchComplete => exact execLaunchComplete_answers ..
  | graphLoad => exact execGraphLoad_answers ..
  | triggerBind => exact execTriggerBind_answers ..
  | copy => exact execCopy_answers ..
  | copyComplete => exact execCopyComplete_answers ..
  | signal => exact execSignal_answers ..
  | wait => exact execWait_answers ..
  | waitSatisfied => exact execWaitSatisfied_answers ..
  | layerTable => exact execLayerTable_answers ..
  | headBind => exact execHeadBind_answers ..
  | exportQueue => exact execExportQueue_answers ..
  | exportComplete => exact execExportComplete_answers ..
  | importQueue => exact execImportQueue_answers ..
  | trigWrite => exact execTrigWrite_answers ..
  | graphNodeLaunch => exact execGraphNodeLaunch_answers ..
  | graphNodeSignal => exact execGraphNodeSignal_answers ..
  | graphNodeLoop => exact execGraphNodeLoop_answers ..
  | graphNodeCond => exact execGraphNodeCond_answers ..
  | graphNodeEnd => exact execGraphNodeEnd_answers ..
  | remoteLaunchRequest => exact execRemoteLaunchRequest_answers ..
  | remoteLaneStart => exact execRemoteLaneStart_answers ..
  | remoteLaunchResult => exact execRemoteLaunchResult_answers ..
  | remoteLaunchTimeout => exact execRemoteLaunchTimeout_answers ..
  | dploadWrite => exact execDploadWrite_answers ..
  | policyCheckDone => exact execPolicyCheckDone_answers ..
  | operatorDebugStop => exact execOperatorDebugStop_answers ..
  | debugStopAck => exact execDebugStopAck_answers ..
  | disclosureIntervalEnd => exact execDisclosureIntervalEnd_answers ..
  | frameTick => exact execFrameTick_answers ..
  | frameEncode => exact execFrameEncode_answers ..
  | ecfgKeySet => exact execEcfgKeySet_answers ..
  | threadCreate => exact execThreadCreate_answers ..
  | frameDelivery => exact execFrameDelivery_answers ..
  | stealRequest => exact execStealRequest_answers ..
  | stealServe => exact execStealServe_answers ..
  | stealReplyArrival => exact execStealReplyArrival_answers ..
  | stealRetryTimeout => exact execStealRetryTimeout_answers ..
  | rotationBoundary => exact execRotationBoundary_answers ..
  | threadDisplace => exact execThreadDisplace_answers ..
  | displacedResume => exact execDisplacedResume_answers ..
  | drcfgBind => exact execDrcfgBind_answers ..
  | drcfgUnbind => exact execDrcfgUnbind_answers ..
  | dtailWrite => exact execDtailWrite_answers ..
  | dispenserDeliver => exact execDispenserDeliver_answers ..
  | wgdaBind => exact execWgdaBind_answers ..
  | wgdaUnbind => exact execWgdaUnbind_answers ..
  | wgBatchTimeout => exact execWgBatchTimeout_answers ..
  | wgBatchDeliver => exact execWgBatchDeliver_answers ..
  | payloadFrameDeliver => exact execPayloadFrameDeliver_answers ..
  | channelWake => exact execChannelWake_answers ..
  | proxyBatchTimeout => exact execProxyBatchTimeout_answers ..
  | proxyDelivery => exact execProxyDelivery_answers ..
  | proxyCreditReturn => exact execProxyCreditReturn_answers ..
  | coreSleep => exact execCoreSleep_answers ..
  | coreWake => exact execCoreWake_answers ..
  | ldfWake => exact execLdfWake_answers ..
  | storeBufferDrain => exact execStoreBufferDrain_answers ..
  | sliceAtomic => exact execSliceAtomic_answers ..
  | watchWake => exact execWatchWake_answers ..
  | watchPoll => exact execWatchPoll_answers ..
  | tableWalk => exact execTableWalk_answers ..
  | faultMessage => exact execFaultMessage_answers ..
  | releaseProbeEcho => exact execReleaseProbeEcho_answers ..
  | storeAck => exact execStoreAck_answers ..
  | joinwWake => exact execJoinwWake_answers ..
  | kwaitWake => exact execKwaitWake_answers ..
  | parkExpire => exact execParkExpire_answers ..
  | lreqWake => exact execLreqWake_answers ..
  | payaWake => exact execPayaWake_answers ..
  | spawnRingWake => exact execSpawnRingWake_answers ..
  | stopwComplete => exact execStopwComplete_answers ..
  | tlbinvComplete => exact execTlbinvComplete_answers ..
  | vectorEntryPerform => exact execVectorEntryPerform_answers ..
  | lateTrapEntry => exact execLateTrapEntry_answers ..
  | enqAccept => exact execEnqAccept_answers ..
  | waitjWake => exact execWaitjWake_answers ..
  | engineBadcmd => exact execEngineBadcmd_answers ..
  | collectiveContribution => exact execCollectiveContribution_answers ..
  | collectiveTimeout => exact execCollectiveTimeout_answers ..
  | hcfgWrite => exact execHcfgWrite_answers ..
  | cpreqPreempt => exact execCpreqPreempt_answers ..
  | preemptSave => exact execPreemptSave_answers ..
  | cpreqResume => exact execCpreqResume_answers ..
  | dbgsStop => exact execDbgsStop_answers ..
  | dbgsResume => exact execDbgsResume_answers ..
  | dbgdRead => exact execDbgdRead_answers ..
  | dbgdWrite => exact execDbgdWrite_answers ..
  | eccCorrected => exact execEccCorrected_answers ..
  | eccUncorrectable => exact execEccUncorrectable_answers ..
  | machineCheck => exact execMachineCheck_answers ..
  | ocfgEnable => exact execOcfgEnable_answers ..
  | stateLogTimeout => exact execStateLogTimeout_answers ..
  | ringFetchFault => exact execRingFetchFault_answers ..
  | badpkt => exact execBadpkt_answers ..
  | acceptanceReply => exact execAcceptanceReply_answers ..
  | add | sub | mul | mulh | mulhz | div | divz | rem | remz | and | or | xor | andn | shl | shr | sha | rol | min
  | max | minz | maxz | clz | popc | brev | madd | bfx | bfi | addw | subw | mulw | addi | andi | ori | xori | shli
  | shri | shai | muli | ldi | ldih | lea | mov | getid | cmp | cmpi | plog | sel | pget | pset | br | jmp | call
  | callr | ret | loop | nop | exit | ld | st | ldx | stx | lda | stl | ldf | stf | clre | pref | amo | cas | red
  | famo | fred | watch | fence | pfence | bar | bara | barw | qpeek | qcnt | qbind | qflush | vsync | kwait | spawn
  | joinw | wfw | tnew | yield | park | fadd | fsub | fmul | ffma | fdiv | fsqrt | fmin | fmax | fcmp | fcvt | fsgn
  | fclass | vadd | vsub | vmul | vfma | vmin | vmax | vabs | vscl | vaxpy | vand | vor | vxor | vshl | vshr | vcmp
  | vsel | vcmul | vcmac | vmov | vred | vdot | vscan | vcvt | vldg | vstg | vgath | vscat | vbcst | viota | vperm
  | vexp | vlog | vrcp | vrsq | vsin | vcos | enq | waitj | pollj | jstat | zfset | zfget | sclw | cbld | chwp
  | boxt | trit | tspush | tspop | tsclr | smpl | sld | lset | lget | lsplit | lmerge | lreq | ldone | lepoch
  | wgalloc | wgemit | wgtake | wgfree | paya | payp | trap | rft | srrd | srwr | bkpt | tlbinv | cinv | stopw
  | resw | logmk | cntrd => cases h

/-! ### Every instruction answers where a thread issues it -/

/-- The instructions of a thread are those that go through the shell of an issue (R121). -/
theorem Instr.shell_isSome (i : Sys2Proof.Instr) : (Instr.shell i).isSome = i.isCode := by
  cases i <;> rfl

/-- An instruction answers where the slot that issues it holds a thread. -/
theorem exec_code_answers {i : Sys2Proof.Instr} (h : i.isCode = true) {s : State} (hs : s.me?.isSome = true) :
    Answers (exec i s) := by
  obtain ⟨sh, hsh⟩ := Option.isSome_iff_exists.mp ((Instr.shell_isSome i).trans h)
  obtain ⟨body, hb⟩ := exec_shell i sh hsh
  rw [hb]
  exact issueWith_next _ _ _ _ _ _ _ hs

theorem exec_answers (i : Sys2Proof.Instr) {s : State} (hs : s.me?.isSome = true) : Answers (exec i s) := by
  by_cases h : i.isCode = true
  · exact exec_code_answers h hs
  · exact exec_event_answers (Bool.eq_false_of_not_eq_true h) s

/-! ### The thread that issues stays in its slot until its instruction runs -/

/-- The slots of a core that hold threads are the same ones, and the same slot issues. -/
structure SeatsKept (s t : State) (c : Nat) : Prop where
  seats : ∀ sl, (t.thread? c sl).isSome = (s.thread? c sl).isSome
  cur : t.cur = s.cur

namespace SeatsKept

theorem refl (s : State) (c : Nat) : SeatsKept s s c := ⟨fun _ => rfl, rfl⟩

theorem trans {s t u : State} {c : Nat} (h : SeatsKept s t c) (k : SeatsKept t u c) : SeatsKept s u c :=
  ⟨fun sl => (k.seats sl).trans (h.seats sl), k.cur.trans h.cur⟩

theorem ite {s t u : State} {c : Nat} {p : Prop} [Decidable p] (h : SeatsKept s t c) (k : SeatsKept s u c) :
    SeatsKept s (if p then t else u) c := by
  split
  · exact h
  · exact k

theorem foldl {α : Type} {c : Nat} {f : State → α → State} (h : ∀ s a, SeatsKept s (f s a) c) (l : List α) (s : State) :
    SeatsKept s (l.foldl f s) c :=
  List.foldlRecOn (motive := fun t => SeatsKept s t c) l f (.refl s c) fun _ ht a _ => ht.trans (h _ a)

theorem of_cores {s t : State} (hcores : t.cores = s.cores) (hcur : t.cur = s.cur) (c : Nat) : SeatsKept s t c :=
  ⟨fun sl => by rw [State.thread_congr hcores], hcur⟩

theorem of_stays {s t : State} {c : Nat} (h : StaysPut s t c) : SeatsKept s t c where
  seats sl := by simpa only [Option.isSome_map] using congrArg Option.isSome (h.pcs sl)
  cur := h.cur

theorem of_told {s t : State} (h : Told s t) (work : LodgeWork s t) (c : Nat) : SeatsKept s t c :=
  .of_stays (.of_told h (by rw [work.rest]) c)

theorem modCore {f : Core → Core} (s : State) (d c : Nat)
    (hf : ∀ x sl, ((f x).threads.look sl).isSome = (x.threads.look sl).isSome) : SeatsKept s (s.modCore d f) c := by
  refine ⟨fun sl => ?_, rfl⟩
  rw [State.thread?, State.core_modCore]
  split
  case isTrue h => subst h; exact hf ..
  case isFalse => rfl

theorem modPart (s : State) (pno : Nat) (f : Part → Part) (c : Nat) : SeatsKept s (s.modPart pno f) c :=
  .of_cores (s.modPart_cores pno f) (s.modPart_cur pno f) c

theorem modMe (s : State) (f : Thread → Thread) (c : Nat) : SeatsKept s (s.modMe f) c := by
  refine ⟨fun sl => ?_, s.modMe_cur f⟩
  rw [State.modMe, State.thread_modThread]
  split
  case isTrue h => rw [h.1, h.2, Option.isSome_map]
  case isFalse => rfl

theorem issuer {s t : State} (h : SeatsKept s t s.cur.core) (hs : s.me?.isSome = true) : t.me?.isSome = true := by
  rw [State.me?, h.cur, h.seats]
  exact hs

end SeatsKept

theorem State.emit_seats (s : State) (r : Obs) (c : Nat) : SeatsKept s (s.emit r) c :=
  .of_told (s.emit_told r) (s.emit_work r) c

theorem State.settleNotices_seats (s : State) (pno c : Nat) : SeatsKept s (s.settleNotices pno) c :=
  .ite (.refl s c) ((SeatsKept.modPart ..).trans (.foldl (fun t _ => .of_told (t.emit1_told _) (t.emit1_work _) c) _ _))

theorem State.countCore_seats (s : State) (d ev n c : Nat) : SeatsKept s (s.countCore d ev n) c := by
  have told : ∀ (t : State) (i v : Nat), SeatsKept t (match t.corePart d with
      | some pno => t.emit { t.obs 19 pno with core := d, addr := v, sub := i }
      | none => t) c := by
    intro t i v
    split
    · exact t.emit_seats _ c
    · exact .refl t c
  unfold State.countCore
  dsimp only
  refine .ite (.refl s c) (.foldl (fun s i => ?_) _ s)
  have set : ∀ v, SeatsKept s (if v = (s.core d).ctrs.lookD i 0 then s
      else s.setCore d { s.core d with ctrs := (s.core d).ctrs.put i v }) c := fun v =>
    .ite (.refl s c) (.modCore (f := fun x => { x with ctrs := x.ctrs.put i v }) s d c fun _ _ => rfl)
  have set := set (countSel ((s.core d).cevs.lookD i 0) ev ((s.core d).ctrs.lookD i 0) n).1
  exact .ite (.trans set (told ..)) set

theorem State.pass_seats (s : State) (n c : Nat) : SeatsKept s (s.pass n) c := by
  have counted : ∀ (t : State) (d k m : Nat), SeatsKept t ((t.countCore d 1 k).countCore d 5 m) c := fun t d k m =>
    (t.countCore_seats ..).trans (State.countCore_seats ..)
  unfold State.pass
  dsimp only
  exact .ite (.refl s c) (.trans (.of_cores (s := s) (t := { s with clk := n }) rfl rfl c)
    (.foldl (fun t _ => .ite (.refl t c) (counted t _ _ _)) _ _))

theorem State.wakeCore_seats (s : State) (d : Nat) (failed : List Nat) (c : Nat) : SeatsKept s (s.wakeCore d failed) c := by
  unfold State.wakeCore
  dsimp only
  have swept : ∀ (p : List Nat) (n : Nat), SeatsKept s (s.modCore d fun x => { x with
      asleep := false, idleSince := s.clk, regPoison := p.foldl insertNat x.regPoison,
      threads := KMap.mapVals (fun t => { t with busy := max t.busy (s.clk + 32) }) x.threads }) c := fun p n =>
    .modCore s d c fun x sl => by simp only [KMap.look_mapVals, Option.isSome_map]
  split
  · exact ((swept _ 0).trans (.modPart ..)).trans (.foldl (fun t _ => t.emit_seats _ c) _ _)
  · exact swept _ 0

theorem State.noteTileOuts_seats (s : State) (t : Thread) (c : Nat) : SeatsKept s (s.noteTileOuts t) c := by
  unfold State.noteTileOuts
  split
  · exact .refl s c
  split
  · exact .refl s c
  · refine .foldl (fun u x => ?_) _ _
    split
    · exact .refl u c
    split
    · exact .refl u c
    · exact .modPart ..

theorem State.atFetch_seats (s : State) (t : Thread) (c : Nat) : SeatsKept s (s.atFetch t) c := by
  unfold State.atFetch
  exact ((SeatsKept.ite (State.countCore_seats ..) (.refl s c)).trans (.modMe ..)).trans (State.noteTileOuts_seats ..)

/-- At its boundary a thread is the one that issues. -/
theorem State.atBoundary_issuer {s : State} {c sl : Nat} (h : (s.thread? c sl).isSome = true) :
    (s.atBoundary c sl).me?.isSome = true := by
  unfold State.atBoundary
  extract_lets awake passed settled
  have woke : SeatsKept s awake c := .ite (State.wakeCore_seats ..) (.refl s c)
  have past : SeatsKept s passed c := woke.trans (State.pass_seats ..)
  have noticed : SeatsKept passed settled c := by
    show SeatsKept passed (match passed.corePart c with | some pno => passed.settleNotices pno | none => passed) c
    split
    · exact State.settleNotices_seats ..
    · exact .refl ..
  have idle : SeatsKept settled (settled.modCore c fun x => { x with idleSince := settled.clk }) c :=
    .modCore settled c c fun _ _ => rfl
  exact (((past.trans noticed).trans idle).seats sl).trans h

/-- A fetch that finds its word leaves the thread that fetches in its slot. -/
theorem State.fetchWord_seats {s u : State} {va : Word} {w : Nat} :
    s.fetchWord va = .ok (w, u) → SeatsKept s u s.cur.core := by
  have translated := s.translate_stays s.cur.core s.myPartNo va.toNat .exec (s.me.pl = 0)
  unfold State.fetchWord
  extract_lets
  split
  · exact nofun
  split
  · exact nofun
  split
  · exact nofun
  split
  · split <;> exact nofun
  · exact nofun
  · exact nofun
  next pa t ht =>
    rw [ht] at translated
    have walked : SeatsKept s t s.cur.core := .of_stays translated
    have seen := walked.trans (.of_told (State.sliceSee_told t s.myPartNo [(pa / 64 * 64, 64)]) (State.sliceSee_work ..) _)
    extract_lets ts base _ r r'
    split
    · rintro ⟨⟩
      exact walked
    split
    · exact nofun
    intro h
    obtain rfl : r' = u := congrArg Prod.snd (Except.ok.inj h)
    exact .ite seen (seen.trans (.modCore _ _ _ fun _ _ => rfl))

/-! ### Issues and steps -/

theorem State.runWord_answers {s : State} (w : Nat) (hs : s.me?.isSome = true) : Answers (s.runWord w) := by
  have here : ({ s with cur := { s.cur with word := w, ext := 0 } } : State).me?.isSome = true := hs
  unfold State.runWord
  dsimp only
  split
  · exact .next _
  · exact .next _
  refine .ite (.next _) (.ite ?_ ?_)
  · split
    · exact .next _
    next h =>
      have fetched := (State.fetchWord_seats h).issuer ((SeatsKept.modMe ..).issuer here)
      split
      · exact exec_answers _ fetched
      · exact .next _
  · split
    · refine exec_answers _ ?_
      split
      · exact (SeatsKept.modMe ..).issuer here
      · exact here
    · exact .next _

theorem State.issueSlot_answers (s : State) (c sl : Nat) : Answers (s.issueSlot c sl) := by
  unfold State.issueSlot
  split
  · exact .next _
  next t ht =>
    have stands : ((s.atBoundary c sl).atFetch t).me?.isSome = true :=
      (State.atFetch_seats ..).issuer (State.atBoundary_issuer (Option.isSome_iff_exists.mpr ⟨t, ht⟩))
    refine .ite (.next _) (.ite (.next _) ?_)
    split
    · exact .next _
    refine .ite (.next _) ?_
    split
    · exact .next _
    next h => exact State.runWord_answers _ ((State.fetchWord_seats h).issuer stands)

theorem State.selfTurn_answers (s : State) : Answers s.selfTurn := by
  unfold State.selfTurn
  extract_lets event slot wait
  have events : ∀ other : State → Res, Answers (other s) → Answers (event other) := by
    intro other h
    dsimp only [event]
    split
    · exact .next _
    · exact h
  have slots : ∀ other : State → Res, Answers (other s) → Answers (slot other) := by
    intro other h
    dsimp only [slot]
    split
    · split
      · exact .next _
      · exact State.issueSlot_answers ..
    · exact h
  exact .ite (events (fun _ => slot wait) (slots wait (.next _))) (slots (fun _ => event wait) (events wait (.next _)))

/-- Settles O39: an event of the agenda answers from any state, and an instruction is only ever run from a slot whose thread
is still there when its word has been fetched. -/
theorem everyStepAnswers : Obligations.EveryStepAnswers := by
  intro s
  show Answers (step s)
  unfold step
  split
  next i l _ =>
    split
    · exact .next _
    next h => exact exec_event_answers (Bool.eq_false_of_not_eq_true h) _
  · split
    · exact .next _
    · exact State.issueSlot_answers ..
  · exact s.selfTurn_answers

end Sys2Proof.Machine
end

section
/-! The precise trap (R249, R250): a thread with a handler that is in none enters it, any other ends. -/

namespace Sys2Proof.Machine

theorem Thread.handler_toNat (t : Thread) : t.handler.toNat = t.tvec.toNat / 8 * 8 := by
  have := t.tvec.isLt
  rw [Thread.handler, BitVec.toNat_sub, BitVec.toNat_ofNat]
  omega

theorem Thread.handler_eq_zero (t : Thread) : t.handler = 0 ↔ t.tvec.toNat < 8 := by
  rw [← BitVec.toNat_inj, t.handler_toNat]
  show t.tvec.toNat / 8 * 8 = 0 ↔ _
  omega

theorem Cause.code_lt (cause : Cause) : cause.code < 256 := by cases cause <;> decide

theorem causeWord_toNat (cause : Cause) (late rpl : Bool) (iter acc sub : Nat) :
    (causeWord cause late rpl iter acc sub).toNat = 2 ^ 63 + b2n late * 2 ^ 62 + b2n rpl * 2 ^ 61 + iter % 4096 * 2 ^ 36
      + acc % 4 * 2 ^ 16 + sub % 256 * 2 ^ 8 + cause.code := by
  have := cause.code_lt
  have := b2n_le late
  have := b2n_le rpl
  rw [causeWord, BitVec.toNat_ofNat]
  omega

/-- The fields of TCAUSE (R248). -/
theorem causeWord_fields (cause : Cause) (late rpl : Bool) (iter acc sub : Nat) :
    let w := (causeWord cause late rpl iter acc sub).toNat
    bit w 63 = true ∧ bit w 62 = late ∧ bits w 17 16 = acc % 4 ∧ bits w 15 8 = sub % 256 ∧ bits w 7 0 = cause.code := by
  have := cause.code_lt
  have := b2n_le late
  have := b2n_le rpl
  simp only [bit_eq_iff, bits, causeWord_toNat]
  rw [show b2n true = 1 from rfl]
  omega

/-- A precise trap into a handler, where no log, trace or counter notes it: the thread alone changes. -/
theorem trapAcc_enters_unwatched {s : State} {t : Thread} (cause : Cause) (val : Word) (acc : Nat) (ht : s.me? = some t)
    (hu : Unwatched s) (hh : t.handler ≠ 0) (ha : t.act = false) :
    s.trapAcc cause val acc =
      s.setThread s.cur.core s.cur.slot (t.enter cause false false 0 acc 0 val 0 t.pc) := by
  obtain ⟨hlog, htr, hcev⟩ := hu
  rw [trapAcc_enters cause val acc ht hh ha, countCore_off s hcev, traceTrap_off s htr, State.modMe,
    State.modThread_some _ _ ht, noteState_off]
  rw [State.setThread, State.core_modCore_self]
  exact hlog

theorem State.setThread_me (s : State) (t : Thread) : (s.setThread s.cur.core s.cur.slot t).me? = some t := by
  rw [State.me?, State.setThread_cur, State.thread_setThread, if_pos ⟨rfl, rfl⟩]

theorem State.setThread_elsewhere (s : State) (t : Thread) : Elsewhere s (s.setThread s.cur.core s.cur.slot t) where
  dram _ := rfl
  host _ := rfl
  cores _ h := State.core_modCore_ne _ _ h
  threads sl h := by rw [State.thread_setThread, if_neg fun e => h e.2]
  clusters := rfl
  parts := rfl
  qmap := rfl
  grt := rfl
  ports := rfl
  minima := rfl
  watches := rfl
  dpoison := rfl
  clk := rfl
  cur := ⟨rfl, rfl⟩

theorem State.setThread_myCore (s : State) (t : Thread) : (s.setThread s.cur.core s.cur.slot t).myCore =
    { s.myCore with threads := s.myCore.threads.put s.cur.slot t } := State.core_modCore_self ..

theorem State.setThread_coreKept (s : State) (t : Thread) : CoreKept s (s.setThread s.cur.core s.cur.slot t) := by
  constructor <;> simp only [State.setThread_myCore, implies_true]

theorem State.countFatal_alone {s : State} {pno lid : Nat} {p : Part} {l : Launch} (second : Bool)
    (hp : s.parts.look pno = some p) (hl : p.launches.look lid = some l) (hf : l.fused = none) :
    ∃ q, (s.countFatal pno lid second).parts.look pno = some q ∧ q.fatals = p.fatals + 1
      ∧ (q.launches.look lid).map Launch.fatals = some (l.fatals + 1) := by
  have counted := State.look_modPart_some (fun p : Part => match p.launches.look lid with
    | some l => { p with launches := p.launches.put lid (match l.fused with
      | some f => if second then { l with fused := some { f with fatalC := f.fatalC + 1 } }
        else { l with fatals := l.fatals + 1 }
      | none => { l with fatals := l.fatals + 1 }) }
    | none => p) hp
  simp only [hl, hf] at counted
  exact ⟨_, State.look_modPart_some _ counted, rfl, congrArg (Option.map Launch.fatals)
    (KMap.look_put_self p.launches lid { l with fatals := l.fatals + 1, fused := none })⟩

/-- A thread that ends as EXIT does at its next turns (R250). -/
def Thread.doomed (t : Thread) : Thread := { t with ending := true, park := none, prog := Prog.fresh, rel := none }

theorem State.fatalTrap_eq {s : State} {c sl pno : Nat} {t : Thread} (cause : Cause) (sub : Nat) (val : Word) (seq : Nat)
    (ht : s.thread? c sl = some t) (hc : s.corePart c = some pno) : ∃ r : Obs, s.fatalTrap c sl cause sub val seq =
      (((s.countFatal pno t.lid (s.secondOf pno t t.pc.toNat)).emit r).modThread c sl Thread.doomed).noteState c sl 0 := by
  simp only [State.fatalTrap, ht, hc]
  exact ⟨_, rfl⟩

/-- What a fatal trap leaves: its thread ends where it stands, and one fatal fault of its launch and of the partition is
counted (R250); the record of it may reach a watched word (R181). -/
structure TrapFatal (s u : State) (c sl pno : Nat) (t : Thread) (p : Part) (l : Launch) : Prop where
  cur : u.cur = s.cur
  thread : ∃ v : Thread, u.thread? c sl = some v.doomed ∧ v.untold = t.untold
  regs : (u.core c).regs = (s.core c).regs
  launch : ((u.part pno).launches.look t.lid).map Launch.fatals = some (l.fatals + 1)
  part : (u.part pno).fatals = p.fatals + 1

theorem State.fatalTrap_ends {s : State} {c sl pno : Nat} {t : Thread} {p : Part} {l : Launch} (cause : Cause) (sub : Nat)
    (val : Word) (seq : Nat) (ht : s.thread? c sl = some t) (hc : s.corePart c = some pno) (hp : s.parts.look pno = some p)
    (hl : p.launches.look t.lid = some l) (hf : l.fused = none) (hlog : bit (s.core c).slcfg 0 = false) :
    TrapFatal s (s.fatalTrap c sl cause sub val seq) c sl pno t p l := by
  obtain ⟨r, hr⟩ := State.fatalTrap_eq cause sub val seq ht hc
  obtain ⟨q, hq, fatals, launches⟩ := State.countFatal_alone (s.secondOf pno t t.pc.toNat) hp hl hf
  set counted := s.countFatal pno t.lid (s.secondOf pno t t.pc.toNat)
  have cores : counted.cores = s.cores := (State.modPart_cores ..).trans (State.modPart_cores ..)
  have cur : counted.cur = s.cur := (State.modPart_cur ..).trans (State.modPart_cur ..)
  have told := counted.emit_told r
  obtain ⟨v, hv, untold⟩ : ∃ v, (counted.emit r).thread? c sl = some v ∧ v.untold = t.untold := by
    have look := told.look c sl
    rw [State.thread_congr cores, ht] at look
    exact Option.map_eq_some_iff.mp look
  obtain ⟨w, hw, unrecorded⟩ : ∃ w, (counted.emit r).parts.look pno = some w ∧ w.unrecorded = q.unrecorded := by
    have look := told.parts pno
    rw [hq] at look
    exact Option.map_eq_some_iff.mp look
  have core : ((counted.emit r).core c).regs = (s.core c).regs ∧ ((counted.emit r).core c).slcfg = (s.core c).slcfg := by
    rw [told.core c, State.core_congr cores]
    exact ⟨rfl, rfl⟩
  have parts : ((counted.emit r).setThread c sl v.doomed).part pno = w := State.part_of_look hw
  rw [hr, State.modThread_some _ _ hv, noteState_off _ _ _ _
    (by rw [State.setThread, State.core_modCore_self]; exact core.2 ▸ hlog)]
  refine ⟨?_, ⟨v, ?_, untold⟩, ?_, ?_, ?_⟩
  · rw [State.setThread_cur, (counted.emit_work r).rest, cur]
  · rw [State.thread_setThread, if_pos ⟨rfl, rfl⟩]
  · rw [State.setThread, State.core_modCore_self]
    exact core.1
  · rw [parts, show w.launches = q.launches from (congrArg Part.launches unrecorded :), launches]
  · rw [parts, show w.fatals = q.fatals from (congrArg Part.fatals unrecorded :), fatals]

/-- Settles O15: the entry changes the trapping thread alone; a fatal trap leaves it where it stands, to end. -/
theorem trapsEnterTheHandler : Obligations.TrapsEnterTheHandler := by
  refine ⟨fun s t cause val acc ht hu hvec hact hacc => ?_, rfl,
    fun s t cause val acc pno p l ht hu hc hp hl hf _ _ hfatal => ?_⟩
  · have hh : t.handler ≠ 0 := fun h => absurd (t.handler_eq_zero.mp h) (by omega)
    have enters := trapAcc_enters_unwatched cause val acc ht hu hh hact
    have hme : (s.trapAcc cause val acc).me = t.enter cause false false 0 acc 0 val 0 t.pc := by
      rw [enters, State.me_eq (s.setThread_me _)]
    have core := s.setThread_myCore (t.enter cause false false 0 acc 0 val 0 t.pc)
    obtain ⟨act, late, access, sub, code⟩ := causeWord_fields cause false false 0 acc 0
    dsimp only
    rw [hme, enters]
    exact ⟨rfl, rfl, rfl, t.handler_toNat, act, late, access.trans (Nat.mod_eq_of_lt hacc), sub, code,
      rfl, rfl, rfl, rfl, rfl, rfl, rfl, (congrArg Core.regs core :), (congrArg Core.kregs core :),
      (congrArg Core.chans core :), s.setThread_coreKept _, s.setThread_elsewhere _⟩
  · obtain ⟨hlog, htr, hcev⟩ := hu
    have fatal : s.trapAcc cause val acc = s.fatalTrap s.cur.core s.cur.slot cause 0 val := by
      have cond : (decide (t.handler = 0) || t.act) = true := by
        rw [Bool.or_eq_true, decide_eq_true_eq, t.handler_eq_zero]
        exact hfatal
      rw [State.trapAcc, countCore_off s hcev, State.me_eq ht]
      exact if_pos cond
    obtain ⟨cur, ⟨v, hv, untold⟩, regs, launch, part⟩ := State.fatalTrap_ends cause 0 val 0 ht hc hp hl hf hlog
    have kept : { v with park := t.untold.park } = { t with park := t.untold.park } := by
      rw [← untold, ← v.untold_rest, untold, ← t.untold_rest]
    rw [← fatal] at cur hv regs launch part
    have hme : (s.trapAcc cause val acc).me = v.doomed := State.me_eq (by rw [State.me?, cur, hv])
    dsimp only
    rw [hme, State.myCore, cur]
    exact ⟨rfl, (congrArg Thread.pc kept :), (congrArg Thread.tcause kept :), (congrArg Thread.tpc kept :),
      launch, part, regs⟩

end Sys2Proof.Machine
end

section
/-! Dispatch of vector instructions (R253, R300): one dispatch for all of them, and what it enters the ring as. -/

namespace Sys2Proof.Machine

/-- A vector instruction is a dispatch of its operand codes, 0xB0 standing at the positions that its form does not use. -/
structure Dispatches (i : Sys2Proof.Instr) (sh : Shell) (v : VInfo) (used : List Code) (d a b c : Code) : Prop where
  runs : ∀ s, exec i s = vdispatch i sh.pred used d a b c v.m s
  shell : sh = ⟨false, 16, sh.pred, none, used.map (vecPos v.m)⟩
  codes : [d, a, b, c] = used ++ List.replicate (4 - used.length) 0xB0

theorem vector_dispatches {i : Sys2Proof.Instr} {sh : Shell} {v : VInfo} (hsh : Instr.shell i = some sh)
    (hv : vinfo i = some v) : ∃ used d a b c, Dispatches i sh v used d a b c := by
  cases i with
  | vfma p d a b c m | vaxpy p d a b c m | vsel p d a b c m | vcmac p d a b c m =>
    cases hsh; cases hv
    exact ⟨[d, a, b, c], d, a, b, c, fun _ => rfl, rfl, rfl⟩
  | vadd p d a b m | vsub p d a b m | vmul p d a b m | vmin p d a b m | vmax p d a b m | vscl p d a b m | vand p d a b m
  | vor p d a b m | vxor p d a b m | vshl p d a b m | vshr p d a b m | vcmp p d a b m | vcmul p d a b m | vdot p d a b m
  | vgath p d a b m | vscat p d a b m | vperm p d a b m =>
    cases hsh; cases hv
    exact ⟨[d, a, b], d, a, b, 0xB0, fun _ => rfl, rfl, rfl⟩
  | vabs p d a m | vmov p d a m | vred p d a m | vscan p d a m | vcvt p d a m | vldg p d a m | vstg p d a m
  | vbcst p d a m | vexp p d a m | vlog p d a m | vrcp p d a m | vrsq p d a m | vsin p d a m | vcos p d a m =>
    cases hsh; cases hv
    exact ⟨[d, a], d, a, 0xB0, 0xB0, fun _ => rfl, rfl, rfl⟩
  | viota p d m =>
    cases hsh; cases hv
    exact ⟨[d], d, 0xB0, 0xB0, 0xB0, fun _ => rfl, rfl, rfl⟩
  | _ => cases hv

/-- An entry at the end of the issuing core's dispatch ring. -/
def State.enterRing (s : State) (e : Entry) : State :=
  s.modMyCore fun x => { x with ring := x.ring ++ [e], seqnow := (x.seqnow + 1) % 2 ^ 32 }

theorem Dispatches.goes {i : Sys2Proof.Instr} {sh : Shell} {v : VInfo} {used : List Code} {d a b c : Code} {s : State}
    (h : Dispatches i sh v used d a b c) (hgo : GoesAhead s sh) : exec i s = .next
      (if v.m.cnt = 0 then (began s sh.srcs).retireLong
       else if 256 ≤ s.myCore.ring.length then began s sh.srcs
       else ((began s sh.srcs).enterRing (s.captured i d a b c)).retireLong) := by
  rw [h.shell] at hgo ⊢
  rw [h.runs, vdispatch, issueWith_goes hgo]
  rfl

/-- Code in no fused launch accesses the offsets that it names (R138). -/
theorem State.redirect_alone {s : State} {pno : Nat} {t : Thread} (h : (s.launch? pno t.lid).bind (·.fused) = none)
    (off : Nat) : s.redirect pno t off = off := by
  simp only [State.redirect, State.redirectAt, State.zonesMoved, h]
  rfl

/-- Outside a fused launch an entry captures what the registers at its operand codes hold. -/
theorem State.captured_values {s : State} (h : (s.launch? s.myPartNo s.me.lid).bind (·.fused) = none)
    (i : Sys2Proof.Instr) (d a b c : Code) : let e := s.captured i d a b c
    [e.v0, e.v1, e.v2, e.v3] = [d, a, b, c].map s.vreg := by
  have same : ∀ w : Word, Word.ofNat (s.redirect s.myPartNo s.me w.toNat) = w := fun w => by
    rw [State.redirect_alone h]
    exact BitVec.ofNat_toNat ..
  simp only [State.captured, same, ite_self, List.map_cons, List.map_nil]

/-- With the codes of its operands, a position that the form does not use captures 0 (log entry 16). -/
theorem Dispatches.values {i : Sys2Proof.Instr} {sh : Shell} {v : VInfo} {used : List Code} {d a b c : Code}
    (h : Dispatches i sh v used d a b c) (s : State) : [d, a, b, c].map s.vreg =
      (sh.srcs.map fun q => if isGCode q.code = true then s.myCore.greg s.me (codeNum q.code) else 0)
        ++ List.replicate (4 - sh.srcs.length) 0 := by
  rw [h.codes, h.shell, List.map_append, List.map_replicate, List.map_map, List.length_map]
  rfl

/-- A local operand's ZF is captured with it (R253). -/
theorem State.captured_zones {i : Sys2Proof.Instr} {v : VInfo} (hv : vinfo i = some v) (s : State) (d a b c : Code) :
    let e := s.captured i d a b c
    (v.dst = true → e.z0 = s.myCore.zfAt e.v0) ∧ (v.sa = true → e.z1 = s.myCore.zfAt e.v1)
      ∧ (v.sb = true → e.z2 = s.myCore.zfAt e.v2) ∧ (v.sc = true → e.z3 = s.myCore.zfAt e.v3) := by
  simp only [State.captured, hv, Option.map_some, Option.some.injEq]
  exact ⟨fun h => if_pos h, fun h => if_pos h, fun h => if_pos h, fun h => if_pos h⟩

/-- What a dispatched instruction has done (R253): its entry is the last of the ring, it has passed, and nothing else of the
machine has changed but the channels that it popped. -/
structure RingEntered (s t : State) (e : Entry) : Prop where
  ring : t.myCore.ring = s.myCore.ring ++ [e]
  seqnow : t.myCore.seqnow = (s.myCore.seqnow + 1) % 2 ^ 32
  me : t.me = s.me.passedTo (s.me.pc + 16)
  elsewhere : Elsewhere s t
  regs : t.myCore.regs = s.myCore.regs ∧ t.myCore.kregs = s.myCore.kregs
  lmem : t.myCore.lmem = s.myCore.lmem
  full : t.myCore.full = s.myCore.full

theorem State.enterRing_retires {s : State} {srcs : List Pos} {e : Entry} (hs : s.me?.isSome = true) (hl : LogOff s) :
    RingEntered s ((began s srcs).enterRing e).retireLong e := by
  obtain ⟨t, ht⟩ := Option.isSome_iff_exists.mp hs
  set u := (began s srcs).enterRing e
  have own : OwnCore s u := (OwnCore.began s srcs).modCore
    (fun x => { x with ring := x.ring ++ [e], seqnow := (x.seqnow + 1) % 2 ^ 32 }) rfl
  have core : u.myCore = { s.myCore with
    ring := s.myCore.ring ++ [e], seqnow := (s.myCore.seqnow + 1) % 2 ^ 32 } := State.core_modCore_self ..
  have hu : u.me? = some t := (congrArg (fun x : Core => x.threads.look s.cur.slot) core).trans ht
  have off : LogOff u := by rw [LogOff, core]; exact hl
  have after := State.retireTo_myCore (u.me.pc + 16) hu off
  rw [core] at after
  refine ⟨(congrArg Core.ring after :), (congrArg Core.seqnow after :), ?_, own.elsewhere _ hu off,
    ⟨(congrArg Core.regs after :), (congrArg Core.kregs after :)⟩,
    (congrArg Core.lmem after :), (congrArg Core.full after :)⟩
  rw [State.retireLong, State.retireTo_me _ hu off, State.me_eq hu, State.me_eq ht]

theorem Dispatches.enters {i : Sys2Proof.Instr} {sh : Shell} {v : VInfo} {used : List Code} {d a b c : Code} {s : State}
    (h : Dispatches i sh v used d a b c) (hgo : GoesAhead s sh) (hl : LogOff s) (hcnt : v.m.cnt ≠ 0)
    (hroom : s.myCore.ring.length < 256) :
    ∃ t, exec i s = .next t ∧ RingEntered s t (s.captured i d a b c) := by
  rw [h.goes hgo, if_neg hcnt, if_neg (by omega)]
  exact ⟨_, rfl, State.enterRing_retires hgo.1 hl⟩

theorem vector_enters_ring {i : Sys2Proof.Instr} {sh : Shell} {v : VInfo} {s : State} (hsh : Instr.shell i = some sh)
    (hv : vinfo i = some v) (hcnt : v.m.cnt ≠ 0) (hroom : s.myCore.ring.length < 256) (hl : LogOff s)
    (hgo : GoesAhead s sh) : ∃ (t : State) (e : Entry), exec i s = .next t ∧ t.myCore.ring = s.myCore.ring ++ [e]
      ∧ e.instr = i ∧ e.st = .waiting ∧ t.me.pc = s.me.pc + 16 := by
  obtain ⟨used, d, a, b, c, h⟩ := vector_dispatches hsh hv
  obtain ⟨t, runs, entered⟩ := h.enters hgo hl hcnt hroom
  exact ⟨t, _, runs, entered.ring, rfl, rfl, by rw [entered.me]; rfl⟩

/-- Settles O27: every vector instruction is one dispatch, whose entry captures its operands. -/
theorem vectorInstructionsEnterTheRing : Obligations.VectorInstructionsEnterTheRing := by
  refine ⟨fun s p d a b c m hcnt hroom hl => ?_, fun i sh v s hsh _ hv hgo hl => ?_⟩
  · refine ⟨fun h => ⟨?_, ?_, ?_, ?_⟩, fun h => ⟨?_, ?_, ?_, ?_, ?_, ?_, ?_, ?_, ?_, ?_, ?_, ?_, ?_, ?_, ?_, ?_, ?_⟩,
      fun h => ⟨?_, ?_, ?_, ?_, ?_, ?_, ?_, ?_, ?_, ?_, ?_, ?_, ?_, ?_⟩, fun h => ?_⟩
    all_goals exact vector_enters_ring rfl rfl hcnt hroom hl h
  obtain ⟨used, d, a, b, c, h⟩ := vector_dispatches hsh hv
  refine ⟨fun hcnt => (h.goes hgo).trans (by rw [if_pos hcnt]), fun hcnt hroom => ?_⟩
  obtain ⟨t, runs, entered⟩ := h.enters hgo hl hcnt hroom
  obtain ⟨zd, za, zb, zc⟩ := State.captured_zones hv s d a b c
  refine ⟨t, _, runs, entered.ring, rfl, entered.seqnow, rfl, rfl, rfl, rfl, rfl, rfl, rfl, rfl,
    fun hf => (State.captured_values hf i d a b c).trans (h.values s), zd, za, zb, zc, ?_, ?_, ?_, ?_,
    entered.elsewhere, entered.regs.1, entered.regs.2,
    fun _ => by rw [entered.lmem], entered.full⟩
  all_goals rw [entered.me]
  case refine_2 => exact .passedTo (.refl s.me) _
  all_goals rfl

end Sys2Proof.Machine
end

section
/-! Core pre-emption (R260 to R265): the request, the save of a drained core, what the saved core holds, and the aborted
request. -/

namespace Sys2Proof.Machine

/-! ### Threads by their numbers -/

/-- A slot written again is still the slot of the number that led to it. -/
theorem slotOf_put {m : KMap Thread} {sl sth : Nat} {u v : Thread} (hv : v.sth = u.sth) (hu : KMap.look m sl = some u)
    (hslot : (m.find? fun e => e.2.sth = sth).map Prod.fst = some sl) :
    ((m.put sl v).find? fun e => e.2.sth = sth).map Prod.fst = some sl := by
  induction m with
  | nil => cases hu
  | cons e m ih =>
    obtain ⟨k, w⟩ := e
    rw [KMap.put]
    split
    · rw [List.find?_cons]
      split
      · rfl
      · exact hslot
    split
    case isTrue hk =>
      rw [KMap.look, if_pos hk.symm, Option.some.injEq] at hu
      rw [List.find?_cons] at hslot ⊢
      rw [hv, ← hu]
      split
      · rfl
      next h => rwa [h] at hslot
    case isFalse hk =>
      rw [KMap.look, if_neg (Ne.symm hk)] at hu
      have hw : w.sth ≠ sth := by
        rintro rfl
        simp only [List.find?_cons_of_pos, decide_true, Option.map_some, Option.some.injEq] at hslot
        exact hk hslot.symm
      rw [List.find?_cons_of_neg (by simpa using hw)] at hslot ⊢
      exact ih hu hslot

theorem State.bySth_slot {s : State} {c sth sl : Nat} (h : slotOf (s.core c) sth = some sl) :
    s.bySth c sth = s.thread? c sl := by simp only [State.bySth, h]

theorem State.bySth_away {s : State} {c sth : Nat} (h : slotOf (s.core c) sth = none) : s.bySth c sth =
    (((s.core c).displaced.find? fun e => e.1.sth = sth).map Prod.fst).or ((s.core c).saved.find? fun t => t.sth = sth) := by
  simp only [State.bySth, h]
  split <;> simp [*]

theorem State.modSth_slot {s : State} {c sth sl : Nat} (f : Thread → Thread) (h : slotOf (s.core c) sth = some sl) :
    s.modSth c sth f = s.modThread c sl f := by simp only [State.modSth, h]

theorem State.modSth_away {s : State} {c sth : Nat} (f : Thread → Thread) (h : slotOf (s.core c) sth = none) :
    (s.modSth c sth f).core c = { s.core c with
      displaced := (s.core c).displaced.map fun e => if e.1.sth = sth then (f e.1, e.2) else e,
      saved := (s.core c).saved.map fun t => if t.sth = sth then f t else t } := by
  simp only [State.modSth, h, State.core_modCore_self]

/-- The first of a number, after a change of all that have it. -/
theorem find?_changed {α : Type} {num : α → Nat} {g : α → α} (hg : ∀ a, num (g a) = num a) (n : Nat) (l : List α) :
    ((l.map fun a => if num a = n then g a else a).find? fun a => num a = n) = (l.find? fun a => num a = n).map g := by
  have same : ((fun a => decide (num a = n)) ∘ fun a => if num a = n then g a else a) = fun a => decide (num a = n) := by
    funext a
    by_cases h : num a = n <;> simp [h, hg]
  rw [List.find?_map, same]
  cases h : l.find? fun a => num a = n with
  | none => rfl
  | some a => exact congrArg some (if_pos (by simpa using List.find?_some h))

/-- A thread found by its number is found again with what changed of it (R263). -/
theorem State.bySth_modSth {s : State} {c sth : Nat} {f : Thread → Thread} {u : Thread} (hf : ∀ t, (f t).sth = t.sth)
    (hu : s.bySth c sth = some u) : (s.modSth c sth f).bySth c sth = some (f u) := by
  cases hslot : slotOf (s.core c) sth with
  | some sl =>
    rw [State.bySth_slot hslot] at hu
    have slot : slotOf ((s.setThread c sl (f u)).core c) sth = some sl := by
      rw [State.setThread, State.core_modCore_self]
      exact slotOf_put (hf u) hu hslot
    rw [State.modSth_slot f hslot, State.modThread_some _ _ hu, State.bySth_slot slot, State.thread_setThread]
    exact if_pos ⟨rfl, rfl⟩
  | none =>
    rw [State.bySth_away hslot] at hu
    have core := State.modSth_away f hslot
    have away : slotOf ((s.modSth c sth f).core c) sth = none := by rw [core]; exact hslot
    rw [State.bySth_away away, core]
    dsimp only
    rw [find?_changed (num := fun e : Thread × List Word => e.1.sth) (g := fun e => (f e.1, e.2)) (fun e => hf e.1) sth,
      find?_changed (num := Thread.sth) hf]
    revert hu
    cases (s.core c).displaced.find? fun e => e.1.sth = sth with
    | some e => exact fun hu => congrArg (Option.map f) hu
    | none => exact fun hu => congrArg (Option.map f) hu

theorem State.bySth_congr {s t : State} {c : Nat} (h : t.core c = s.core c) (sth : Nat) : t.bySth c sth = s.bySth c sth := by
  have threads : ∀ sl, t.thread? c sl = s.thread? c sl := fun sl => by rw [State.thread?, State.thread?, h]
  simp only [State.bySth, h, threads]

/-! ### The slots of a saved core (R261, step 4) -/

/-- Slots of a core have lost their threads: the core keeps everything else but the marks of the slots and the count towards
its sleep, and the other cores stand as they were. -/
structure Vacated (s t : State) (c : Nat) (l : List Nat) : Prop where
  core : ∃ owners idle, t.core c = { s.core c with threads := (t.core c).threads, owners := owners, idleSince := idle }
  others : ∀ d, d ≠ c → t.core d = s.core d
  threads : ∀ e ∈ (t.core c).threads, e ∈ (s.core c).threads ∧ e.1 ∉ l

theorem KMap.look_ne_none {α : Type} {m : KMap α} {e : Nat × α} (h : e ∈ m) : KMap.look m e.1 ≠ none := by
  induction m with
  | nil => cases h
  | cons f m ih =>
    rw [KMap.look]
    split
    · exact Option.some_ne_none _
    next hne =>
      rcases List.mem_cons.mp h with rfl | h
      · exact absurd rfl hne
      · exact ih h

theorem Vacated.step {s t : State} {c : Nat} {l : List Nat} (h : Vacated s t c l) (hlog : bit (s.core c).slcfg 0 = false)
    (sl : Nat) : Vacated s (t.vacate c sl) c (sl :: l) := by
  obtain ⟨owners, idle, hcore⟩ := h.core
  have off : bit (t.core c).slcfg 0 = false := by rw [hcore]; exact hlog
  cases ht : t.thread? c sl with
  | none =>
    rw [State.vacate, ht]
    refine ⟨h.core, h.others, fun e he => ⟨(h.threads e he).1, ?_⟩⟩
    rw [List.mem_cons, not_or]
    exact ⟨fun hsl => KMap.look_ne_none he (hsl ▸ ht), (h.threads e he).2⟩
  | some u =>
    obtain ⟨owners', hv⟩ := State.vacate_core ht off
    refine ⟨⟨owners', max (t.core c).idleSince t.clk, ?_⟩, fun d hd => ?_, fun e he => ?_⟩
    · rw [hv, hcore]
    · simp only [State.vacate, ht, noteState_off _ _ _ _ off]
      exact (State.core_modCore_ne _ _ hd).trans (h.others d hd)
    · rw [hv] at he
      obtain ⟨mem, ne⟩ := List.mem_filter.mp he
      rw [List.mem_cons, not_or]
      exact ⟨(h.threads e mem).1, by simpa using ne, (h.threads e mem).2⟩

theorem State.vacate_all {s : State} {c : Nat} (hlog : bit (s.core c).slcfg 0 = false) (ts : KMap Thread) :
    Vacated s (ts.foldl (fun (s : State) e => s.vacate c e.1) s) c (ts.map Prod.fst).reverse := by
  have from' : ∀ (ts : KMap Thread) (t : State) (l : List Nat), Vacated s t c l →
      Vacated s (ts.foldl (fun (s : State) e => s.vacate c e.1) t) c ((ts.map Prod.fst).reverse ++ l) := by
    intro ts
    induction ts with
    | nil => exact fun _ _ h => h
    | cons e ts ih =>
      intro t l h
      simpa using ih _ _ (h.step hlog e.1)
  simpa using from' ts s [] ⟨⟨_, _, rfl⟩, fun _ _ => rfl, fun e he => ⟨he, List.not_mem_nil⟩⟩

theorem foldl_inert {α β : Type} {f : β → α → β} {b : β} {l : List α} (h : ∀ a ∈ l, f b a = b) : l.foldl f b = b := by
  induction l with
  | nil => rfl
  | cons a l ih =>
    rw [List.foldl_cons, h a List.mem_cons_self]
    exact ih fun x hx => h x (List.mem_cons_of_mem _ hx)

theorem State.endIdle_busy {s : State} {c : Nat} (h : ∀ e ∈ (s.core c).threads, e.2.idle = false) : s.endIdle c = s :=
  foldl_inert fun e he => by rw [h e he]; rfl

/-- A request is told how it ended; no other core hears of it. -/
theorem State.cpstatSet_core (s : State) (p : Preempt) (v : Word) {d : Nat} (h : p.byCore ≠ d) :
    (s.cpstatSet p v).core d = s.core d := by
  unfold State.cpstatSet State.modSth
  split
  · exact State.core_modThread_ne _ _ _ h.symm
  · exact State.core_modCore_ne _ _ h.symm

theorem State.cpstatSet_told {s : State} {p : Preempt} {u : Thread} (v : Word) (hu : s.bySth p.byCore p.bySth = some u) :
    ((s.cpstatSet p v).bySth p.byCore p.bySth).map Thread.cpstat = some v :=
  congrArg (Option.map Thread.cpstat) (State.bySth_modSth (f := fun t => { t with cpstat := v }) (fun _ => rfl) hu)

/-- What leaves a core with its image (R261, step 4), as a change of the core before its slots are vacated. -/
structure Unloads (f : Core → Core) (p : Preempt) (x : Core) : Prop where
  preempt : ∃ marks, (f x).preempt = some { p with stage := 2, marks := marks }
  threads : (f x).threads = x.threads
  saved : (f x).saved = x.saved
  slcfg : (f x).slcfg = x.slcfg
  regs : (f x).regs = x.regs
  lmem : (f x).lmem = x.lmem

theorem State.emptyCore_unloads (s : State) (c : Nat) (p : Preempt) : ∃ (f : Core → Core) (kept : List Thread),
    Unloads f p (s.core c) ∧ kept.length = (s.core c).savedSlots.length ∧ s.emptyCore c p =
      ((((s.core c).savedSlots.foldl (fun (s : State) e => s.vacate c e.1) (s.modCore c f)).modCore c fun x =>
        { x with saved := x.saved ++ kept }).cpstatSet p 2) := by
  refine ⟨_, _, ?_, ?_, rfl⟩
  · exact ⟨⟨_, rfl⟩, rfl, rfl, rfl, rfl, rfl⟩
  · exact List.length_map ..

/-- A pre-empted core whose image is written: its threads have left their slots and are kept, and the requester is told. -/
theorem State.emptyCore_saves {s : State} {c : Nat} {p : Preempt} (hq : Quiet s)
    (hidle : ∀ e ∈ (s.core c).threads, e.2.idle = false) (hby : p.byCore ≠ c) : let t := s.emptyCore c p
    (t.core c).threads = []
      ∧ (t.core c).preempt.map (fun q => (q.buf, q.byCore, q.bySth, q.stage)) = some (p.buf, p.byCore, p.bySth, 2)
      ∧ (t.core c).saved.length = (s.core c).saved.length + (s.core c).threads.length
      ∧ (t.core c).regs = (s.core c).regs ∧ (t.core c).lmem = (s.core c).lmem
      ∧ (∀ u, s.bySth p.byCore p.bySth = some u → (t.bySth p.byCore p.bySth).map Thread.cpstat = some 2) := by
  have all : (s.core c).savedSlots = (s.core c).threads :=
    List.filter_eq_self.mpr fun e he => by rw [hidle e he]; rfl
  obtain ⟨f, kept, unloads, hkept, hempty⟩ := s.emptyCore_unloads c p
  rw [all] at hkept hempty
  have core₁ : (s.modCore c f).core c = f (s.core c) := State.core_modCore_self ..
  have vacated := State.vacate_all (s := s.modCore c f) (c := c)
    (by rw [core₁, unloads.slcfg]; exact hq.logOff c) (s.core c).threads
  set gone := (s.core c).threads.foldl (fun (s : State) e => s.vacate c e.1) (s.modCore c f)
  obtain ⟨owners, idle, core₂⟩ := vacated.core
  rw [core₁] at core₂
  have none_left : (gone.core c).threads = [] := List.eq_nil_iff_forall_not_mem.mpr fun e he => by
    obtain ⟨mem, hne⟩ := vacated.threads e he
    rw [core₁, unloads.threads] at mem
    exact hne (List.mem_reverse.mpr (List.mem_map_of_mem mem))
  have core : (s.emptyCore c p).core c = { gone.core c with saved := (gone.core c).saved ++ kept } := by
    rw [hempty, State.cpstatSet_core _ _ _ hby, State.core_modCore_self]
  obtain ⟨marks, preempt⟩ := unloads.preempt
  rw [none_left] at core₂
  rw [core₂] at core
  refine ⟨?_, ?_, ?_, ?_, ?_, fun u hu => ?_⟩
  · rw [core]
  · rw [core, preempt]; rfl
  · rw [core, unloads.saved, List.length_append, hkept]
  · rw [core, unloads.regs]
  · rw [core, unloads.lmem]
  · have by' : (gone.modCore c fun x => { x with saved := x.saved ++ kept }).core p.byCore = s.core p.byCore := by
      rw [State.core_modCore_ne _ _ hby, vacated.others _ hby, State.core_modCore_ne _ _ hby]
    rw [hempty]
    exact State.cpstatSet_told 2 ((State.bySth_congr by' _).trans hu)

theorem State.modSth_dram (s : State) (c sth : Nat) (f : Thread → Thread) : (s.modSth c sth f).dram = s.dram := by
  unfold State.modSth
  split
  · exact State.modThread_dram ..
  · rfl

/-- An aborted request: the core goes on, and the requester is told (R261). -/
theorem State.preemptAbort_releases {s : State} {c : Nat} {p : Preempt} (hq : Quiet s) (hby : p.byCore ≠ c) :
    let t := s.preemptAbort c p
    (t.core c).preempt = none ∧ (t.core c).regs = (s.core c).regs ∧ t.dram = s.dram
      ∧ (∀ u, s.bySth p.byCore p.bySth = some u → (t.bySth p.byCore p.bySth).map Thread.cpstat = some 0x33) := by
  have log : ∀ f : Core → Core, (∀ x, (f x).slcfg = x.slcfg) → bit ((s.modCore c f).core c).slcfg 0 = false :=
    fun f hf => by rw [State.core_modCore_self, hf]; exact hq.logOff c
  have goes : s.preemptAbort c p = (s.modCore c fun x => { x with
      preempt := none, threads := KMap.mapVals (fun (t : Thread) => t.again.notice 0) x.threads }).cpstatSet p 0x33 :=
    congrArg (State.cpstatSet · p 0x33) (foldl_inert fun _ _ => noteState_off _ _ _ _ (log _ fun _ => rfl))
  dsimp only
  rw [goes]
  refine ⟨?_, ?_, by rw [State.cpstatSet, State.modSth_dram]; rfl, fun u hu => State.cpstatSet_told (u := u) _ ?_⟩
  · rw [State.cpstatSet_core _ _ _ hby, State.core_modCore_self]
  · rw [State.cpstatSet_core _ _ _ hby, State.core_modCore_self]
  · exact (State.bySth_congr (State.core_modCore_ne _ _ hby) _).trans hu

/-! ### The request (R260) -/

theorem State.core_stir (s : State) (c d : Nat) : (s.stir c).core d =
    { s.core d with idleSince := ((s.stir c).core d).idleSince } := by
  unfold State.stir
  cases h : s.cores.look c with
  | none => rfl
  | some x =>
    by_cases hd : d = c
    · subst hd
      rw [State.core_setCore_self, State.core, KMap.lookD, h]
      rfl
    · rw [State.core_setCore, if_neg hd]

theorem State.atKer_goes {s : State} {c sl : Nat} {u : Thread} (f : State → State) (hu : s.thread? c sl = some u)
    (hpl : 1 ≤ u.pl) : s.atKer c sl f = .next (f s) := by
  rw [State.atKer, hu]
  exact if_pos hpl

section
variable {s : State} {c sl pno : Nat} {v : Word} {u : Thread}

theorem cpreqPreempt_writes (hu : s.thread? c sl = some u) (hpl : 1 ≤ u.pl) (hop : bits v.toNat 17 16 = 1) :
    exec (.cpreqPreempt c sl v) s = .next (s.cpreqWrite c sl v) := by
  rw [exec_cpreqPreempt, execCpreqPreempt, State.atKer_goes _ hu hpl, if_pos hop]

theorem cpreqResume_writes (hu : s.thread? c sl = some u) (hpl : 1 ≤ u.pl) (hop : bits v.toNat 17 16 = 2) :
    exec (.cpreqResume c sl v) s = .next (s.cpreqWrite c sl v) := by
  rw [exec_cpreqResume, execCpreqResume, State.atKer_goes _ hu hpl, if_pos hop]

/-- A request that ends at once, with status 3 and a code. -/
def State.cpReject (s : State) (c sl k : Nat) : State :=
  s.modThread c sl fun t => { t with cpstat := Word.ofNat (16 * k + 3) }

theorem State.cpreqWrite_refused (hu : s.thread? c sl = some u) (hc : s.corePart c = some pno)
    (hst : u.cpstat.toNat % 4 ≠ 1) (hcode : s.cpCode pno v.toNat ≠ 0) : s.cpreqWrite c sl v = s.cpReject c sl (s.cpCode pno v.toNat) := by
  rw [State.cpreqWrite, hu, hc]
  exact (if_neg hst).trans (if_pos hcode)

theorem State.cpreqWrite_preempts (hu : s.thread? c sl = some u) (hc : s.corePart c = some pno)
    (hst : u.cpstat.toNat % 4 ≠ 1) (hcode : s.cpCode pno v.toNat = 0) (hop : bits v.toNat 17 16 = 1) : s.cpreqWrite c sl v =
      ((((s.modThread c sl fun t => { t with cpstat := 1 }).modCore (bits v.toNat 11 0) fun x => { x with
        preempt := some ⟨Word.ofNat (v.toNat / 2 ^ 18 * 2 ^ 18), c, u.sth, 1, []⟩ }).stir (bits v.toNat 11 0)).endIdle
          (bits v.toNat 11 0)) := by
  rw [State.cpreqWrite, hu, hc]
  exact (if_neg hst).trans ((if_neg (not_not_intro hcode)).trans (if_pos hop))

theorem buf_toNat (v : Word) : (Word.ofNat (v.toNat / 2 ^ 18 * 2 ^ 18)).toNat = v.toNat / 2 ^ 18 * 2 ^ 18 := by
  rw [BitVec.toNat_ofNat]
  exact Nat.mod_eq_of_lt (lt_of_le_of_lt (Nat.div_mul_le_self ..) v.isLt)

theorem State.cpreqWrite_misplaced (hu : s.thread? c sl = some u) (hc : s.corePart c = some pno)
    (hst : u.cpstat.toNat % 4 ≠ 1) (hcode : s.cpCode pno v.toNat = 0) (hop : bits v.toNat 17 16 = 2)
    (hbuf : 2 ^ 57 ≤ v.toNat / 2 ^ 18 * 2 ^ 18) : s.cpreqWrite c sl v = s.cpReject c sl 3 := by
  rw [State.cpreqWrite, hu, hc]
  exact (if_neg hst).trans ((if_neg (not_not_intro hcode)).trans ((if_neg (by rw [hop]; decide)).trans
    (if_pos (by rw [buf_toNat]; exact hbuf))))

/-- A resumption whose buffer lies in the partition's space ends by what is read there (R265): an image that cannot be read,
no core that was saved, another core's image, or the core's own. -/
theorem State.cpreqWrite_resumes (hu : s.thread? c sl = some u) (hc : s.corePart c = some pno)
    (hst : u.cpstat.toNat % 4 ≠ 1) (hcode : s.cpCode pno v.toNat = 0) (hop : bits v.toNat 17 16 = 2)
    (hbuf : v.toNat / 2 ^ 18 * 2 ^ 18 < 2 ^ 57) : let d := bits v.toNat 11 0
    let buf := v.toNat / 2 ^ 18 * 2 ^ 18
    s.cpreqWrite c sl v = match s.lodgeRead pno buf 96, (s.core d).preempt with
      | .error e, _ => (s.lodgeMet pno e).cpReject c sl 3
      | .ok _, none => s.cpReject c sl 4
      | .ok (h, w), some q =>
        if s.headerFits d h = false ∨ q.buf ≠ Word.ofNat buf then s.cpReject c sl 4
        else match w.readImage pno buf h with
          | .error e => (w.lodgeMet pno e).cpReject c sl 3
          | .ok (r, ri, ms, w) => (w.modThread c sl fun t => { t with cpstat := 1 }).restore d
              { q with byCore := c, bySth := u.sth, stage := 3 } h r ri ms := by
  rw [State.cpreqWrite, hu, hc]
  refine (if_neg hst).trans ((if_neg (not_not_intro hcode)).trans ((if_neg (by rw [hop]; decide)).trans
    ((if_neg (by rw [buf_toNat]; exact Nat.not_le.mpr hbuf)).trans ?_)))
  rw [buf_toNat]
  cases s.lodgeRead pno (v.toNat / 2 ^ 18 * 2 ^ 18) 96 with
  | error e => rfl
  | ok r =>
    obtain ⟨h, w⟩ := r
    cases (s.core (bits v.toNat 11 0)).preempt with
    | none => rfl
    | some q =>
      have cond : (!s.headerFits (bits v.toNat 11 0) h || decide (q.buf ≠ Word.ofNat (v.toNat / 2 ^ 18 * 2 ^ 18))) = true ↔
          s.headerFits (bits v.toNat 11 0) h = false ∨ q.buf ≠ Word.ofNat (v.toNat / 2 ^ 18 * 2 ^ 18) := by
        rw [Bool.or_eq_true, Bool.not_eq_true', decide_eq_true_eq]
      refine if_congr cond rfl ?_
      cases w.readImage pno (v.toNat / 2 ^ 18 * 2 ^ 18) h with
      | error e => rfl
      | ok i => rfl

end

/-- A core that a request holds runs no thread but one whose access has been answered (R261, R348). -/
theorem State.canRun_held {s : State} {c : Nat} {t : Thread} {p : Preempt} (hp : (s.core c).preempt = some p)
    (hstage : p.stage = 1) (h : s.canRun c t = true) : t.prog.reply.isSome = true := by
  simp only [State.canRun, hp, hstage, ne_eq, not_true_eq_false, decide_false, Bool.and_false, Bool.or_false,
    Bool.and_eq_true] at h
  exact h.1.2

theorem State.mem_setThread {s : State} {c sl d : Nat} {u : Thread} {e : Nat × Thread}
    (h : e ∈ ((s.setThread c sl u).core d).threads) : d = c ∧ e = (sl, u) ∨ e ∈ (s.core d).threads := by
  rw [State.setThread, State.core_modCore] at h
  split at h
  case isTrue hd => exact (KMap.mem_put h).imp (⟨hd, ·⟩) (hd ▸ ·)
  case isFalse => exact .inr h

/-- What a request leaves: the core it names is held, and the requester goes on with status 1. -/
structure Requested (s t : State) (c sl d : Nat) (u : Thread) (p : Preempt) : Prop where
  preempt : (t.core d).preempt = some p
  requester : t.thread? c sl = some { u with cpstat := 1 }
  dram : t.dram = s.dram

theorem State.cpreqWrite_requests {s : State} {c sl pno : Nat} {v : Word} {u : Thread} (hu : s.thread? c sl = some u)
    (hc : s.corePart c = some pno) (hst : u.cpstat.toNat % 4 ≠ 1) (hcode : s.cpCode pno v.toNat = 0)
    (hop : bits v.toNat 17 16 = 1) {d : Nat} (hd : d = bits v.toNat 11 0)
    (hidle : ∀ e ∈ (s.core d).threads, e.2.idle = false) :
    Requested s (s.cpreqWrite c sl v) c sl d u ⟨Word.ofNat (v.toNat / 2 ^ 18 * 2 ^ 18), c, u.sth, 1, []⟩ := by
  rw [State.cpreqWrite_preempts hu hc hst hcode hop, ← hd, State.modThread_some _ _ hu]
  set busy := s.setThread c sl { u with cpstat := 1 }
  set asked := busy.modCore d fun x => { x with
    preempt := some ⟨Word.ofNat (v.toNat / 2 ^ 18 * 2 ^ 18), c, u.sth, 1, []⟩ }
  have threads : ∀ k, ((asked.stir d).core k).threads = (busy.core k).threads := fun k => by
    rw [State.core_stir, State.core_modCore]
    split
    case isTrue h => rw [h]
    case isFalse => rfl
  have awake : ∀ e ∈ ((asked.stir d).core d).threads, e.2.idle = false := fun e he => by
    rw [threads] at he
    rcases State.mem_setThread he with ⟨h, rfl⟩ | mem
    · exact hidle (sl, u) (h ▸ KMap.mem_of_look hu)
    · exact hidle e mem
  rw [State.endIdle_busy awake]
  refine ⟨?_, ?_, ?_⟩
  · rw [State.core_stir, State.core_modCore_self]
  · rw [State.thread?, threads]
    exact (State.thread_setThread ..).trans (if_pos ⟨rfl, rfl⟩)
  · rw [State.rest_stir]
    rfl

/-- A time that is past leaves a state as it is. -/
theorem State.pass_past {s : State} {l : KMap Thread} (h : ∀ e ∈ l, e.2.busy ≤ s.clk) :
    s.pass ((l.map fun e => e.2.busy).foldl max 0) = s := by
  have past : (l.map fun e => e.2.busy).foldl max 0 ≤ s.clk :=
    List.foldlRecOn (motive := (· ≤ s.clk)) _ _ (Nat.zero_le _) fun b hb a ha => by
      obtain ⟨e, he, rfl⟩ := List.mem_map.mp ha
      exact Nat.max_le.mpr ⟨hb, h e he⟩
  exact if_pos past

/-- A save that meets its conditions, in a core whose threads all hold frames and have issued (R261). -/
theorem preemptSave_saves {s : State} {c pno : Nat} {p : Preempt} (hp : (s.core c).preempt = some p) (hstage : p.stage = 1)
    (hc : s.corePart c = some pno) (hdrained : (s.core c).ringDrained = true) (hheld : s.held = false)
    (hlive : (s.part pno).st = 1) (hthreads : ∀ e ∈ (s.core c).threads, e.2.busy ≤ s.clk ∧ e.2.idle = false) :
    (2 ^ 57 ≤ p.buf.toNat → exec (.preemptSave c) s = .next (s.preemptAbort c p))
    ∧ (p.buf.toNat < 2 ^ 57 →
      (∀ e, s.ctxWrite pno p.buf.toNat (s.ctxImage c pno) = .error e →
        exec (.preemptSave c) s = .next ((s.lodgeMet pno e).preemptAbort c p))
      ∧ (∀ w, s.ctxWrite pno p.buf.toNat (s.ctxImage c pno) = .ok w →
        exec (.preemptSave c) s = .next (w.emptyCore c p))) := by
  have stands : (s.pass (((s.core c).threads.map fun e => e.2.busy).foldl max 0)).endIdle c = s := by
    rw [State.pass_past fun e he => (hthreads e he).1, State.endIdle_busy fun e he => (hthreads e he).2]
  have goes : ¬ (decide (p.stage ≠ 1) || !(s.core c).ringDrained || s.held || decide ((s.part pno).st ≠ 1)) = true := by
    simp [hstage, hdrained, hheld, hlive]
  rw [exec_preemptSave, execPreemptSave, hp, hc]
  refine ⟨fun hbuf => (if_neg goes).trans ?_, fun hbuf => ⟨fun e he => (if_neg goes).trans ?_,
    fun w hw => (if_neg goes).trans ?_⟩⟩
  · rw [stands]
    exact if_pos hbuf
  · rw [stands]
    exact (if_neg (Nat.not_le.mpr hbuf)).trans (by rw [he])
  · rw [stands]
    exact (if_neg (Nat.not_le.mpr hbuf)).trans (by rw [hw])

/-- Settles O59: the request by its operation and code, then the save, the emptied core, and the aborted request. -/
theorem coresAreSavedAndRestored : Obligations.CoresAreSavedAndRestored := by
  refine ⟨fun s c sl pno v u hu hpl hc hst => ⟨fun hcode hop => ?_, fun hcode hop => ?_, fun hcode hop hidle => ?_,
    fun hcode hop hbuf => ?_, fun hcode hop hbuf => ?_⟩, fun s c pno p hp hstage hc hdrained hheld hlive hthreads => ?_,
    fun s c p hq hidle hby => State.emptyCore_saves hq hidle hby, fun s c p hq hby => State.preemptAbort_releases hq hby⟩
  · rw [cpreqPreempt_writes hu hpl hop, State.cpreqWrite_refused hu hc hst hcode]
    rfl
  · rw [cpreqResume_writes hu hpl hop, State.cpreqWrite_refused hu hc hst hcode]
    rfl
  · have asked := State.cpreqWrite_requests hu hc hst hcode hop rfl hidle
    exact ⟨_, _, cpreqPreempt_writes hu hpl hop, asked.preempt, asked.requester, rfl, rfl, asked.dram,
      fun _ _ _ => State.canRun_held asked.preempt rfl⟩
  · rw [cpreqResume_writes hu hpl hop]
    refine congrArg Host.Outcome.next ((State.cpreqWrite_resumes hu hc hst hcode hop hbuf).trans ?_)
    cases s.lodgeRead pno (v.toNat / 2 ^ 18 * 2 ^ 18) 96 with
    | error e => rfl
    | ok r =>
      obtain ⟨h, w⟩ := r
      cases (s.core (bits v.toNat 11 0)).preempt with
      | none => rfl
      | some q =>
        refine if_congr Iff.rfl rfl ?_
        cases w.readImage pno (v.toNat / 2 ^ 18 * 2 ^ 18) h with
        | error e => rfl
        | ok i => rfl
  · rw [cpreqResume_writes hu hpl hop, State.cpreqWrite_misplaced hu hc hst hcode hop hbuf]
    rfl
  · obtain ⟨aborts, saves⟩ := preemptSave_saves hp hstage hc hdrained hheld hlive hthreads
    refine ⟨aborts, fun hbuf => ?_⟩
    cases hw : s.ctxWrite pno p.buf.toNat (s.ctxImage c pno) with
    | error e => exact (saves hbuf).1 e hw
    | ok w => exact (saves hbuf).2 w hw

end Sys2Proof.Machine
end

section
/-! Errors (R266) where a partition's counter notices still wait (R273). -/

namespace Sys2Proof.Machine

/-- A partition of core 0 with its observation ring off, where a counter notice waits to be made (R258, R273). -/
def noticeDue : Part := { Part.zero with notices := [(0, 0)] }

/-- The machine with that partition, of number 1, on quadrant 0. -/
def errorMeetsNotice : State := { State.reset with qmap := [(0, 0x100000001)], parts := [(1, noticeDue)] }

/-- The record of a corrected error is lost with the ring off, and so is the notice that its write gives rise to: DROP counts
two records (R258, R273). -/
theorem errorMeetsNotice_drops : ∃ t, exec (.eccCorrected (.localMem 0 0)) errorMeetsNotice = .next t
    ∧ (t.part 1).odrop = 2 := ⟨_, rfl, rfl⟩

/-- Refutes O60: where a counter notice waits, a corrected error drops two records of a ring that is off, its own and the
notice, and not one. -/
theorem not_errorsAndDebugStops : ¬ Obligations.ErrorsAndDebugStops := by
  rintro ⟨⟨errors, -⟩, -⟩
  obtain ⟨t, runs, -, drops, -⟩ := (errors errorMeetsNotice (.localMem 0 0) 1 noticeDue rfl rfl rfl rfl).1 nofun
  obtain ⟨u, goes, two⟩ := errorMeetsNotice_drops
  obtain rfl : t = u := Host.Outcome.next.inj (runs.symm.trans goes)
  exact absurd (drops.symm.trans two) (by decide)

end Sys2Proof.Machine
end

section
/-! Vector entries (R366, R369, R376): one that is performed whole leaves the ring; one that its checks refuse becomes a late
fault; and a thread at a boundary takes a late cause (R249, R252, R254). -/

namespace Sys2Proof.Machine

/-! ### What a settled ring may wake -/

theorem Quiet.cevs {s : State} (h : Quiet s) (c : Nat) : (s.core c).cevs = [] := by
  unfold State.core KMap.lookD
  cases hc : s.cores.look c with
  | none => rfl
  | some x => exact (h _ (KMap.mem_of_look hc)).2

theorem State.countCore_idle {s : State} {c : Nat} (h : (s.core c).cevs = []) (ev n : Nat) : s.countCore c ev n = s := by
  unfold State.countCore
  simp [h]

theorem State.vecSettle_rouses {s : State} {c : Nat} (hlog : bit (s.core c).slcfg 0 = false) (sth : Nat) :
    Roused s (s.vecSettle c sth) c := by
  have wakes : ∀ (b : Bool) (sl : Nat), Roused s (if b then s else s.wake c sl) c := fun b sl => by
    cases b
    · exact State.wake_rouses hlog sl
    · exact .refl s c
  unfold State.vecSettle
  split
  · exact .refl s c
  split
  · exact wakes ..
  · exact wakes ..
  · exact wakes ..
  · exact .refl s c

/-! ### An entry performed whole -/

/-- An entry has left the ring, with the work of its performance done: `u` is the machine as that left it. -/
structure EntryLeft (u t : State) (c : Nat) (e : Entry) : Prop where
  ring : (t.core c).ring = (u.core c).ring.filter fun o => decide (o.seq ≠ e.seq)
  lmem : (t.core c).lmem = (u.core c).lmem
  full : (t.core c).full = (u.core c).full
  regs : (t.core c).regs = (u.core c).regs
  dram : t.dram = u.dram

theorem EntryLeft.settled {u : State} {c : Nat} (hlog : bit (u.core c).slcfg 0 = false) (e : Entry) (sth : Nat) :
    EntryLeft u ((u.modCore c fun x => { x with ring := x.ring.filter fun o => o.seq ≠ e.seq }).vecSettle c sth) c e := by
  set left := u.modCore c fun x => { x with ring := x.ring.filter fun o => o.seq ≠ e.seq }
  have core : left.core c = { u.core c with ring := (u.core c).ring.filter fun o => o.seq ≠ e.seq } :=
    State.core_modCore_self ..
  obtain ⟨rest, settled⟩ := State.vecSettle_rouses (s := left) (by rw [core]; exact hlog) sth
  rw [core] at settled
  exact ⟨(congrArg Core.ring settled :), (congrArg Core.lmem settled :), (congrArg Core.full settled :),
    (congrArg Core.regs settled :), (congrArg State.dram rest :)⟩

/-- The entry that a thread performs next stands unstarted in a live partition (R366). -/
structure EntryNext (s : State) (c sl sth pno : Nat) (e : Entry) (i : VInfo) : Prop where
  thread : ringThread (s.core c) sl = some sth
  next : nextEntry (s.core c) sth = some e
  part : s.corePart c = some pno
  live : (s.part pno).st = 1
  info : vinfo e.instr = some i
  waiting : e.st = .waiting

/-- The entry's code is of level APP (R366). -/
def State.entryApp (s : State) (pno : Nat) (e : Entry) : Bool :=
  match s.launch? pno e.lid with
  | some l => decide (l.pl = 0)
  | none => true

section
variable {s u : State} {c sl sth pno : Nat} {e : Entry} {i : VInfo} (h : EntryNext s c sl sth pno e i)
include h

theorem EntryNext.refused {er : SegErr} (hbad : vchecks i e = some er) :
    exec (.vectorEntryPerform c sl) s = .next ((s.vfault c e er 0).vecSettle c sth) := by
  rw [exec_vectorEntryPerform, execVectorEntryPerform, h.thread]
  simp only [State.vperform, h.next, h.part, h.info, h.live, h.waiting, hbad, ne_eq, not_true_eq_false, if_false]

theorem EntryNext.leaves (hok : vchecks i e = none) (hq : Quiet u)
    (hred : i.kind = .red ∨ i.kind = .dot → s.vreduce c e i = .ok u)
    (hrun : i.kind ≠ .red → i.kind ≠ .dot → s.vrun pno c e i (s.entryApp pno e) (i.m.cnt.toNat - e.iter) e.iter = .ok u) :
    ∃ t, exec (.vectorEntryPerform c sl) s = .next t
      ∧ (t.core c).ring = (u.core c).ring.filter (fun o => decide (o.seq ≠ e.seq)) ∧ (t.core c).lmem = (u.core c).lmem
      ∧ (t.core c).full = (u.core c).full ∧ (t.core c).regs = (u.core c).regs ∧ t.dram = u.dram := by
  obtain ⟨ring, lmem, full, regs, dram⟩ := EntryLeft.settled (hq.logOff c) e sth
  refine ⟨_, ?_, ring, lmem, full, regs, dram⟩
  rw [exec_vectorEntryPerform, execVectorEntryPerform, h.thread]
  simp only [State.vperform, h.next, h.part, h.info, h.live, h.waiting, hok, ne_eq, not_true_eq_false, if_false]
  cases hk : i.kind with
  | red => rw [hred (.inl hk)]
  | dot => rw [hred (.inr hk)]
  | lanes | scan | ldg | stg | gath | scat =>
    have runs := hrun (by rw [hk]; exact nofun) (by rw [hk]; exact nofun)
    dsimp only [State.entryApp] at runs
    cases hl : s.launch? pno e.lid with
    | none | some l =>
      simp only [hl] at runs ⊢
      rw [runs]

end

/-! ### An entry of one segment -/

/-- One segment of an entry that is not reduced, by its kind (R366, R378, R379). -/
def State.vsegment (s : State) (pno c : Nat) (e : Entry) (i : VInfo) (app : Bool) (j : Nat) : SegRes :=
  match i.kind with
  | .ldg | .gath => s.vload pno c e i app j
  | .stg | .scat => s.vstore pno c e i app j
  | _ => s.vlanesSeg c e i j

section
variable {s u : State} {pno c : Nat} {e : Entry} {i : VInfo} {app : Bool}

theorem State.vsegment_load (hk : i.kind = .ldg ∨ i.kind = .gath) (j : Nat) :
    s.vsegment pno c e i app j = s.vload pno c e i app j := by
  rcases hk with hk | hk <;> simp only [State.vsegment, hk]

theorem State.vsegment_store (hk : i.kind = .stg ∨ i.kind = .scat) (j : Nat) :
    s.vsegment pno c e i app j = s.vstore pno c e i app j := by
  rcases hk with hk | hk <;> simp only [State.vsegment, hk]

theorem State.vsegment_lanes (hk : i.kind ∉ [VKind.ldg, .gath, .stg, .scat]) (j : Nat) :
    s.vsegment pno c e i app j = s.vlanesSeg c e i j := by
  unfold State.vsegment
  cases h : i.kind with
  | ldg | gath | stg | scat => simp [h] at hk
  | lanes | scan | red | dot => rfl

theorem State.vrun_one (hiter : e.iter = 0) (hq : Quiet u) (hseg : s.vsegment pno c e i app 0 = .ok u) :
    s.vrun pno c e i app 1 0 = .ok u := by
  cases hk : i.kind with
  | lanes | red | dot | scan | ldg | stg | gath | scat =>
    simp only [State.vsegment, hk] at hseg
    simp only [State.vrun, hk, hiter, if_true, hseg, State.countCore_idle (hq.cevs c)]

/-- A segment whose sources can be read and whose destination can be written stores the lanes that it makes. -/
theorem State.vlanesSeg_stores {a b x : List Lane} {l : List Lane}
    (hsrc : s.vsources c e i (s.venv c e i 0).kind 0 (s.venv c e i 0).n = .ok (a, b, x))
    (hl : l = if i.kind = .scan then scanFrom ((s.venv c e i 0).combine i.m.vx.toNat) none a
      else vlanes (s.venv c e i 0) e.instr a b x)
    (hdst : s.vwrite' c e i.m.rm (e.dstOp i.m) 0 l = .ok u) : s.vlanesSeg c e i 0 = .ok u := by
  unfold State.vlanesSeg
  dsimp only
  rw [hsrc]
  dsimp only
  by_cases hk : i.kind = .scan
  · rw [if_pos hk] at hl ⊢
    rw [if_pos rfl, ← hl]
    dsimp only
    rw [hdst]
  · rw [if_neg hk] at hl ⊢
    rw [← hl]
    dsimp only
    rw [hdst]

theorem State.vreduce_one {l : Lane} (hcnt : i.m.cnt.toNat = 1) (hq : Quiet u)
    (htotal : s.vtotal c e i 1 0 none = .ok (some l))
    (hdst : s.vwrite' c e i.m.rm (e.dstOp i.m) 0 [(s.venv c e i 0).round l] = .ok u) : s.vreduce c e i = .ok u := by
  rw [State.vreduce, hcnt, htotal]
  simp only [List.map_cons, List.map_nil, hdst]
  rw [State.countCore_idle (hq.cevs c), State.countCore_idle (hq.cevs c)]

end

/-! ### An entry that its checks refuse (R254, R369) -/

/-- A thread with a late cause due (R252). -/
def Thread.withLate (t : Thread) (l : Late) : Thread := { t with late := t.late ++ [l] }

/-- The ring after an entry's fault (R254): the entry is faulted, and what the thread has behind it is held, but what its
handler dispatched. -/
def Entry.behind (o e : Entry) (iter : Nat) (act : Bool) : Entry :=
  if o.sth ≠ e.sth then o
  else if o.seq = e.seq then { o with st := .faulted, iter := iter, got := [] }
  else if o.st = .faulted || (o.inHandler && act) then o
  else { o with st := .held }

theorem Entry.behind_self {o e : Entry} (iter : Nat) (act : Bool) (hsth : (o.behind e iter act).sth = e.sth)
    (hseq : (o.behind e iter act).seq = e.seq) : (o.behind e iter act).st = .faulted := by
  unfold Entry.behind at hsth hseq ⊢
  grind

theorem Entry.behind_stopped {o e : Entry} (iter : Nat) (act : Bool) (hsth : (o.behind e iter act).sth = e.sth) :
    (o.behind e iter act).st = .faulted ∨ (o.behind e iter act).st = .held ∨ (o.behind e iter act).inHandler = true := by
  unfold Entry.behind at hsth ⊢
  grind

/-- A refused entry of the one thread of its core, outside its handler: its fault is due at the thread, and the ring holds
what comes behind it. -/
theorem State.vfault_alone {s : State} {c sl : Nat} {u : Thread} {e : Entry} (er : SegErr) (iter : Nat)
    (ht : (s.core c).threads = [(sl, u)]) (hsth : u.sth = e.sth) (hpark : u.park = none) (hin : e.inHandler = false) :
    s.vfault c e er iter = (s.modCore c fun x => { x with ring := x.ring.map fun o => o.behind e iter u.act }).setThread c sl
      (u.withLate ⟨.vlate, er.sub, er.acc, iter, er.val, e.seq, e.pc⟩) := by
  have look : s.thread? c sl = some u := by rw [State.thread?, ht, KMap.look, if_pos rfl]
  have found : s.bySth c e.sth = some u := (State.bySth_slot (slotOf_alone ht hsth)).trans look
  set held := s.modCore c fun x => { x with ring := x.ring.map fun o => o.behind e iter u.act }
  have core : held.core c = { s.core c with ring := (s.core c).ring.map fun o => o.behind e iter u.act } :=
    State.core_modCore_self ..
  have slot : slotOf (held.core c) e.sth = some sl := by rw [core]; exact slotOf_alone ht hsth
  have look' : held.thread? c sl = some u := (congrArg (fun x : Core => x.threads.look sl) core).trans look
  have found' : held.bySth c e.sth = some u := (State.bySth_slot slot).trans look'
  set l : Late := ⟨.vlate, er.sub, er.acc, iter, er.val, e.seq, e.pc⟩
  have due : (held.setThread c sl (u.withLate l)).holdEnq c e.sth = held.setThread c sl (u.withLate l) := by
    have slot' : slotOf ((held.setThread c sl (u.withLate l)).core c) e.sth = some sl := by
      rw [State.setThread, State.core_modCore_self]
      exact slotOf_put (u := u) rfl look' slot
    have set' : (held.setThread c sl (u.withLate l)).thread? c sl = some (u.withLate l) := by
      rw [State.thread_setThread, if_pos ⟨rfl, rfl⟩]
    have unparked : (u.withLate l).park = none := hpark
    simp only [State.holdEnq, slot', set', unparked]
  have faulted : s.vfault c e er iter = held.workLate c e.sth e.inHandler l := by
    simp only [State.vfault, found]
    rfl
  rw [faulted, State.workLate, found', hin]
  dsimp only
  rw [Bool.false_and, if_neg Bool.false_ne_true, State.lateDue, State.modSth_slot _ slot, State.modThread_some _ _ look']
  exact due

/-- A thread that waits for nothing is not woken by a ring that settles. -/
theorem State.vecSettle_unparked {s : State} {c sth sl : Nat} {t : Thread} (hslot : slotOf (s.core c) sth = some sl)
    (ht : s.thread? c sl = some t) (hpark : t.park = none) : s.vecSettle c sth = s := by
  simp only [State.vecSettle, hslot, ht, Option.bind_some, hpark]

section
variable {s : State} {c sl sth pno : Nat} {e : Entry} {i : VInfo}

theorem EntryNext.faults {er : SegErr} {u : Thread} (h : EntryNext s c sl sth pno e i) (hbad : vchecks i e = some er)
    (ht : (s.core c).threads = [(sl, u)]) (hsth : u.sth = sth) (he : e.sth = sth) (hpark : u.park = none)
    (hin : e.inHandler = false) : exec (.vectorEntryPerform c sl) s =
      .next ((s.modCore c fun x => { x with ring := x.ring.map fun o => o.behind e 0 u.act }).setThread c sl
        (u.withLate ⟨.vlate, er.sub, er.acc, 0, er.val, e.seq, e.pc⟩)) := by
  rw [h.refused hbad, State.vfault_alone er 0 ht (hsth.trans he.symm) hpark hin]
  set held := s.modCore c fun x => { x with ring := x.ring.map fun o => o.behind e 0 u.act }
  have threads : (held.core c).threads = [(sl, u)] := (congrArg Core.threads (State.core_modCore_self ..)).trans ht
  have look : held.thread? c sl = some u := by rw [State.thread?, threads, KMap.look, if_pos rfl]
  refine congrArg Host.Outcome.next (State.vecSettle_unparked ?_
    ((State.thread_setThread ..).trans (if_pos ⟨rfl, rfl⟩)) hpark)
  rw [State.setThread, State.core_modCore_self]
  exact slotOf_put (u := u) rfl look (slotOf_alone threads hsth)

end

/-! ### A late cause at a boundary (R249, R252) -/

/-- A thread that has taken a late cause: it enters its handler, at the instruction not yet issued. -/
def Thread.taking (t : Thread) (l : Late) : Thread :=
  Thread.keep t.pc t.prog <| { t with late := lateRemove l t.late }.enter l.cause (decide (l.cause ≠ Cause.preempt))
    (decide (l.cause = Cause.vlate)) l.iter l.acc l.sub l.val (Word.ofNat l.seq) t.pc

theorem State.takeLate_enters {s : State} {c sl : Nat} {u : Thread} (l : Late) (ht : s.thread? c sl = some u)
    (hh : u.handler ≠ 0) (hlog : bit (s.core c).slcfg 0 = false) (hcev : (s.core c).cevs = [])
    (htr : bit (s.core c).trcfg 1 = false) :
    s.takeLate c sl l = (s.setThread c sl { u with late := lateRemove l u.late }).setThread c sl (u.taking l) := by
  set removed : Thread := { u with late := lateRemove l u.late }
  have core : (s.setThread c sl removed).core c = (s.core c).setThread sl removed := State.core_modCore_self ..
  have look : (s.setThread c sl removed).thread? c sl = some removed := by rw [State.thread_setThread, if_pos ⟨rfl, rfl⟩]
  have silent : ((s.setThread c sl removed).countCore c 7 1).traceTrap c sl l.cause l.val u.pc =
      s.setThread c sl removed := by
    rw [State.countCore_idle (by rw [core]; exact hcev), State.traceTrap, if_neg]
    rw [core, show ((s.core c).setThread sl removed).trcfg = (s.core c).trcfg from rfl, htr, Bool.and_false]
    exact Bool.false_ne_true
  rw [State.takeLate, ht]
  dsimp only
  rw [if_neg hh, State.modThread_some _ _ ht, silent, State.modThread_some _ _ look, noteState_off]
  · rfl
  · rw [State.setThread, State.core_modCore_self, core]
    exact hlog

/-- What a thread that takes a late cause shows (R248, R249). -/
theorem Thread.taking_fields (t : Thread) {l : Late} (hsub : l.sub < 256) : let v := t.taking l
    v.pc = t.handler ∧ v.tpc = t.pc ∧ v.tval = l.val ∧ v.tseq.toNat = l.seq % 2 ^ 64 ∧ bit v.tcause.toNat 63 = true
      ∧ bit v.tcause.toNat 62 = decide (l.cause ≠ .preempt) ∧ bits v.tcause.toNat 7 0 = l.cause.code
      ∧ bits v.tcause.toNat 15 8 = l.sub ∧ v.late = lateRemove l t.late := by
  obtain ⟨act, late, -, sub, code⟩ := causeWord_fields l.cause (decide (l.cause ≠ .preempt)) (decide (l.cause = .vlate))
    l.iter l.acc l.sub
  exact ⟨rfl, rfl, rfl, BitVec.toNat_ofNat .., act, late, code, sub.trans (Nat.mod_eq_of_lt hsub), rfl⟩

theorem lateTrapEntry_takes {s : State} {c sl : Nat} {u : Thread} {l : Late} (ht : s.thread? c sl = some u)
    (hrun : s.canRun c u = true) (hnow : u.lateNow (s.core c).seqnow = some l) :
    exec (.lateTrapEntry c sl) s = .next (s.takeLate c sl l) := by
  simp only [exec_lateTrapEntry, execLateTrapEntry, ht, hrun, hnow, Bool.not_true, Bool.false_eq_true, if_false]

/-- Settles O56: an entry performed whole leaves the ring, a refused one becomes a late fault, and a late cause is taken at
the thread's handler. -/
theorem entriesPerformAndFault : Obligations.EntriesPerformAndFault := by
  have level : ∀ (s : State) (pno : Nat) (e : Entry), s.entryApp pno e =
      match s.launch? pno e.lid with | some l => decide (l.pl = 0) | none => true := fun s pno e => by
    unfold State.entryApp
    cases s.launch? pno e.lid <;> rfl
  refine ⟨?_, ?_, ?_, ?_, ?_⟩
  · intro s u c sl sth pno e i hthread hnext hc hlive hinfo hst hok app left hq
    have next : EntryNext s c sl sth pno e i := ⟨hthread, hnext, hc, hlive, hinfo, hst⟩
    refine ⟨fun hk hr => next.leaves hok hq (fun _ => hr) fun hred hdot => absurd hk (not_or.mpr ⟨hred, hdot⟩),
      fun hred hdot hr => next.leaves hok hq (fun hk => absurd hk (not_or.mpr ⟨hred, hdot⟩)) fun _ _ => ?_⟩
    rw [level]
    exact hr
  · intro s u pno c e i app a b x hiter hcnt hq hk v hsrc hdst
    have hscan : i.kind ≠ .scan := fun h => hk (by rw [h]; decide)
    exact State.vrun_one hiter hq ((State.vsegment_lanes (fun h => hk (List.mem_append_left [.scan] h)) 0).trans
      (State.vlanesSeg_stores hsrc (if_neg hscan).symm hdst))
  · intro s u c sl sth pno e i a b x l hthread hnext hc hlive hinfo hst hok hiter hcnt hq app v stores done
    have next : EntryNext s c sl sth pno e i := ⟨hthread, hnext, hc, hlive, hinfo, hst⟩
    have count : i.m.cnt.toNat = 1 := by rw [hcnt]; rfl
    have single : i.kind ≠ .red → i.kind ≠ .dot → s.vsegment pno c e i app 0 = .ok u → done := fun hred hdot hseg =>
      next.leaves hok hq (fun hk => absurd hk (not_or.mpr ⟨hred, hdot⟩)) fun _ _ => by
        rw [count, hiter, level]
        exact State.vrun_one hiter hq hseg
    refine ⟨fun hk hsrc hdst => ?_, fun hk hsrc hdst => ?_, fun hk htotal hdst => ?_,
      fun hk hload => ?_, fun hk hstore => ?_⟩
    · have hscan : i.kind ≠ .scan := fun h => hk (by rw [h]; decide)
      exact single (fun h => hk (by rw [h]; decide)) (fun h => hk (by rw [h]; decide))
        ((State.vsegment_lanes (fun h => hk (List.mem_append_left [.scan, .red, .dot] h)) 0).trans
          (State.vlanesSeg_stores hsrc (if_neg hscan).symm hdst))
    · exact single (by rw [hk]; decide) (by rw [hk]; decide)
        ((State.vsegment_lanes (by rw [hk]; decide) 0).trans (State.vlanesSeg_stores hsrc (if_pos hk).symm hdst))
    · exact next.leaves hok hq (fun _ => State.vreduce_one count hq htotal hdst)
        fun hred hdot => absurd hk (not_or.mpr ⟨hred, hdot⟩)
    · exact single (by rcases hk with h | h <;> rw [h] <;> decide) (by rcases hk with h | h <;> rw [h] <;> decide)
        ((State.vsegment_load hk 0).trans hload)
    · exact single (by rcases hk with h | h <;> rw [h] <;> decide) (by rcases hk with h | h <;> rw [h] <;> decide)
        ((State.vsegment_store hk 0).trans hstore)
  · intro s c sl sth pno e i er u hthread hnext hc hlive hinfo hst hbad ht hsth he hpark hin
    have next : EntryNext s c sl sth pno e i := ⟨hthread, hnext, hc, hlive, hinfo, hst⟩
    refine ⟨_, next.faults hbad ht hsth he hpark hin, ?_, ?_, fun o ho hseq hs => ?_, fun o ho hs hseq => ?_⟩
    · rw [State.thread_setThread, if_pos ⟨rfl, rfl⟩]
      rfl
    · rw [State.setThread, State.core_modCore_self, State.core_modCore_self]
      rfl
    all_goals
      rw [State.setThread, State.core_modCore_self, State.core_modCore_self] at ho
      obtain ⟨o, -, rfl⟩ := List.mem_map.mp ho
    · exact o.behind_self 0 u.act (hs.trans he.symm) hseq
    · exact o.behind_stopped 0 u.act (hs.trans he.symm)
  · intro s c sl u l ht hrun hq htr hnow hh _ _ hsub
    have takes := State.takeLate_enters l ht hh (hq.logOff c) (hq.cevs c) htr
    obtain ⟨pc, tpc, tval, tseq, act, late, code, sub, rest⟩ := u.taking_fields hsub
    refine ⟨_, _, lateTrapEntry_takes ht hrun hnow, ?_, pc, tpc, tval, tseq, act, late, code, sub, rest, ?_, ?_⟩
    · rw [takes, State.thread_setThread, if_pos ⟨rfl, rfl⟩]
    · rw [takes, State.setThread, State.core_modCore_self, State.setThread, State.core_modCore_self]
      rfl
    · rw [takes]
      rfl

end Sys2Proof.Machine
end
